-- ==== Sys2Proof/Word.lean ====
section
/-!
DEFINITION. The word types of the Umarez, the unit numbers of its parts and the sparse map that holds keyed data.
Unit numbers are bounded by the counts of Tables 5, 6 and 13 (R13, R14, R43), so no command can name a unit that
does not exist.
-/
namespace Sys2Proof

abbrev Byte := BitVec 8
/-- A register of a control page (R29). -/
abbrev Word := BitVec 32
abbrev Quad := BitVec 64
/-- The 40-bit frame address of R132. -/
abbrev FrameAddr := BitVec 40
/-- A BAR0 offset: BAR0 is 64 MiB (R44). -/
abbrev Bar0 := BitVec 26

abbrev CoreId := Fin 4096
abbrev CtxId := Fin 256
abbrev PartId := Fin 16
abbrev DieId := Fin 4
abbrev StackId := Fin 12
/-- A channel and its kerbside engine: stack × 16 + channel (R14). -/
abbrev ChanId := Fin 192
abbrev PortId := Fin 32

/-- Keyed data in one canonical form: keys strictly rising, no entry equal to what an unlisted key holds. -/
abbrev SMap (α : Type) := List (Nat × α)

/-- Bits [lo + n − 1 : lo] of a number. -/
def fieldOf (w lo n : Nat) : Nat := w / 2 ^ lo % 2 ^ n

/-- Bit i of a number. -/
def bitOf (w i : Nat) : Bool := w / 2 ^ i % 2 == 1

end Sys2Proof
end

