-- ==== Sys2Proof/Syntax.lean ====
section
/-!
DEFINITION. The commands the block takes: one constructor of Instr for each row of spec/opcode_table.json, with the
row's operands. A row that stands for an internal event (an arrival, an expiry, a completion) names the unit or the
message it happens to; what only the outside world or the silicon decides (a measured reading, whether a CRC held)
is an operand.
-/
namespace Sys2Proof

/-- What a core-instruction row does in one command: the sequencer dispatches it (R153), or its engine does one unit
of its work (one token, one K-block, one row, one request, one action). -/
inductive Phase where
  | dispatch
  | work
  deriving DecidableEq, Repr, Inhabited

/-- A check that an engine's site makes (R126, R356): of the engine's own logic, of the parity of its control state (Table 106), or of
a tile store segment that the engine reads, with an error that is corrected or one that is not. -/
inductive EngineCheck where
  | logic
  | control
  | tileStore (seg : BitVec 12)
  | corrected (seg : BitVec 12)
  deriving DecidableEq, Repr, Inhabited

/-- What happens at a remote-line cache (R215): its oldest fill returns, or a line that it holds shows a parity error. -/
inductive FillEvent where
  | back (die : DieId)
  | parity (die : DieId) (line : BitVec 33)
  deriving DecidableEq, Repr, Inhabited

/-- An interchange message (Tables 85 and 86). -/
structure IxMsg where
  typ : Nat
  part : Nat
  tag : Nat
  round : Nat
  srcRank : Nat
  ctx : Nat
  arg : Nat
  payload : List Byte
  deriving DecidableEq, Repr, Inhabited

/-- A collective message (Table 92). `ext` is what a PUT or GET needs at its target beyond Table 92: frame address, length of
the whole transfer, arrival core and milestone (notes/assumptions/30.md). -/
structure ColMsg where
  typ : Nat
  tag : Nat
  round : Nat
  srcRank : Nat
  ctx : Nat
  step : Nat
  offset : Nat
  crc : Word
  arg : Nat
  payload : List Byte
  ext : List Nat
  deriving DecidableEq, Repr, Inhabited

/-- What a message carries. -/
inductive Body where
  /-- MS ADD with OTHER_CHIP (R188): source core, target context, core, milestone, increment. -/
  | remoteAdd (srcCore ctx core ms : Nat) (inc : Word)
  /-- Answer to a remote ADD: the source core; the refusal code stands in the message. -/
  | remoteAddAck (srcCore target : Nat)
  /-- MS ADD within the chip (R187). -/
  | localAdd (srcCore core ms : Nat) (inc : Word)
  /-- Answer to an ADD or ARRIVE within the chip; `home` is the target core. -/
  | localAck (srcCore home : Nat)
  /-- ARRIVE of round r at the home milestone (R189). -/
  | arrive (srcCore home ms r : Nat)
  /-- A barrier release from the home core (R191). -/
  | release (home core ms : Nat)
  /-- A segment run of an arrival-order contribution (R128): destination, first segment, data, the sender's number of the
  contribution, on its last run the segments sent in all, request slot. -/
  | acc (srcCore core ms seg : Nat) (data : List Byte) (id : Nat) (total : Option Nat) (slot : Nat)
  /-- Part of an ORDERED contribution (R129): destination core, combine slot, contributor index, first segment, whole length in segments. -/
  | accOrd (srcCore core cslot index seg len : Nat) (data : List Byte) (slot : Nat)
  /-- Acknowledgement of a contribution request to the sender's request slot (R128, R129). -/
  | accAck (srcCore core slot : Nat)
  | ix (m : IxMsg)
  | col (m : ColMsg)
  deriving DecidableEq, Repr, Inhabited

/-- A message in the die fabric or on a link, with the routing fields every packet carries. `code` is the refusal code
of an answer, or of a request that a fence turned away (0x00 when it is not refused), `req` the sender's request number, `job` the job
tag of R188, `epoch` the epochs of the domains that issued the request (R377). -/
structure Msg where
  srcChip : Nat
  dstChip : Nat
  dstDie : Nat
  cw : Nat
  resp : Bool
  mark : Bool
  req : Nat
  code : Nat
  job : Word
  body : Body
  epoch : Nat := 0
  deriving DecidableEq, Repr, Inhabited

/-- An identity record (R279). -/
structure Ident where
  chip : BitVec 16
  port : BitVec 5
  assigned : Bool
  digest : Word
  stepping : BitVec 12
  deriving DecidableEq, Repr, Inhabited

/-- A link flit (Table 78). `msgs` are the packets whose last unit lies in it, `units` how many payload units it fills,
per carriageway half 0 to 9. `stamps` of a SYNC flit (R289): t1 of a request; t1, t2, t3 and the upstream's SYNCED of a reply. -/
structure Flit where
  seq : BitVec 16
  ack : BitVec 16
  nak : Bool
  sync : Bool
  ident : Option Ident
  widthChg : Bool
  laneReq : BitVec 8
  creditHalf : BitVec 4
  credit : BitVec 8
  crcOk : Bool
  msgs : List Msg
  units : List Nat
  stamps : List Nat := []
  deriving DecidableEq, Repr, Inhabited

/-- What the error-correcting code finds in a granule (R205). -/
inductive Ecc where
  | good
  | corrected
  | uncorrectable
  deriving DecidableEq, Repr, Inhabited

/-- A reset domain instance (Table 105). -/
inductive Domain where
  | engine (core : CoreId) (eng : Fin 6)
  | core (core : CoreId)
  | kerb (chan : ChanId)
  | port (port : PortId)
  | bypass (die : DieId)
  | die (die : DieId)
  | fullDie (die : DieId)
  | hub
  deriving DecidableEq, Repr, Inhabited

/-- A source of requests that keeps a congestion window for CW1 to CW3 (R262). -/
inductive Source where
  | dm (core : CoreId)
  | kerb (chan : ChanId)
  | ix (die : DieId)
  | col (die : DieId)
  deriving DecidableEq, Repr, Inhabited

/-- The result of a known-answer test with its self-test slice (R364, R434): part that failed and whether it overran. -/
inductive KatResult where
  | pass
  | progFail
  | sliceFail (part : Fin 4)
  | sliceOverrun (part : Fin 4)
  deriving DecidableEq, Repr, Inhabited

/-- The outcome of the bring-up test of one site (Table 116): LR groups and OP column groups that fail, or a failure no
narrowing covers. -/
structure SiteTest where
  site : Nat
  lrGroups : List Nat
  opGroups : List Nat
  other : Bool
  deriving DecidableEq, Repr, Inhabited

/-- A die's fuse record as IDENTITY reads it (R414): whether its CRC holds, its counts of placed and hard-shoulder sites, and its signpost
table, by logical core, where it differs from the floor plan. -/
structure FuseRecord where
  crcOk : Bool
  placed : Nat
  shoulder : Nat
  signpost : List (Nat × Nat)
  deriving DecidableEq, Repr, Inhabited

/-- A private transfer on the I3C bus (R455): the address that it calls, the index byte, the bytes written after it or the number of bytes
read, and whether a protocol error was detected in it. -/
structure I3cTransfer where
  target : BitVec 7
  index : BitVec 8
  data : List Byte := []
  read : Nat := 0
  err : Bool := false
  deriving DecidableEq, Repr, Inhabited

/-- A host read: of the word or bytes at an offset of BAR0, or of BAR2 (R45), and its size in bytes (R30). -/
structure ReadAt where
  bar2 : Bool := false
  off : Bar0
  size : Nat := 4
  deriving DecidableEq, Repr, Inhabited

inductive Instr where
  /-- REGISTER_WRITE (R36): partition, BAR0 offset, access size in bytes, value. -/
  | registerWrite (p : PartId) (off : Bar0) (size : Nat) (val : Word)
  /-- STRAY_BAR0_WRITE (R33). -/
  | strayBar0Write (p : PartId) (off : Bar0) (val : Word)
  /-- REJECT_CLR (R37): page index in BAR0; the value's low half is written to BLK_CTL[15:0]. -/
  | rejectClr (p : PartId) (page : BitVec 14) (ctl : BitVec 16)
  /-- RELEASE (R40). -/
  | release (p : PartId) (page : BitVec 14) (ctl : BitVec 16)
  /-- NOTICE_MASK_WRITE (R41). -/
  | noticeMaskWrite (p : PartId) (page : BitVec 14) (val : Word)
  /-- LOW_WORD_READ (R38): a read of any register and size (R30). -/
  | lowWordRead (p : PartId) (off : ReadAt)
  /-- LOW_WORD_WRITE (R38). -/
  | lowWordWrite (p : PartId) (off : Bar0) (val : Word)
  /-- HIGH_WORD_WRITE (R38). -/
  | highWordWrite (p : PartId) (off : Bar0) (val : Word)
  /-- MILESTONE_VIEW_READ (R178). -/
  | milestoneViewRead (p : PartId) (core : CoreId) (ms : Fin 48)
  /-- RESOURCE_ENABLE_WRITE (R40): the write of a word that holds a shared resource's enable. -/
  | resourceEnableWrite (p : PartId) (off : Bar0) (val : Word)
  /-- FR_CLEAR (R173). -/
  | frClear (p : PartId) (core : CoreId)
  /-- LA_INVALIDATE (R133). -/
  | laInvalidate (p : PartId) (core : CoreId)
  /-- TEL_SEL_WRITE (R271). -/
  | telSelWrite (p : PartId) (die : DieId) (val : Word)
  /-- TEL_DEPTH_READ (R271). -/
  | telDepthRead (p : PartId) (die : DieId)
  /-- POISON_LOG_READ (R220). -/
  | poisonLogRead (p : PartId)
  /-- FM_READ, FM_WRITE, FM_INVALIDATE, FM_RETIRE (R202): an FM_OP write with this OP and the ZERO bit. -/
  | fmRead (p : PartId) (zero : Bool)
  | fmWrite (p : PartId) (zero : Bool)
  | fmInvalidate (p : PartId) (zero : Bool)
  | fmRetire (p : PartId) (zero : Bool)
  /-- FM_OP_DONE (R202). -/
  | fmOpDone
  /-- FM_POISON (R203): the oldest poison that waits runs. -/
  | fmPoison
  /-- RLC_FLUSH_START, RLC_FLUSH_ALL, RLC_FLUSH_DONE (R217). -/
  | rlcFlushStart (p : PartId) (die : DieId)
  | rlcFlushAll (p : PartId) (die : DieId)
  | rlcFlushDone (die : DieId)
  /-- RT_READ, RT_WRITE, RT_COPY, RT_SWAP, RT_CLEAR (R265): an RT_OP write. -/
  | rtRead (p : PartId) (die : DieId)
  | rtWrite (p : PartId) (die : DieId)
  | rtCopy (p : PartId) (die : DieId)
  | rtSwap (p : PartId) (die : DieId)
  | rtClear (p : PartId) (die : DieId)
  /-- RT_OP_DONE (R265). -/
  | rtOpDone (die : DieId)
  /-- HOLD_WRITE (R266). -/
  | holdWrite (p : PartId) (die : DieId) (hold : Bool)
  /-- PLAN_OPEN, PLAN_APPLY (R280): a write of P00's word 0x108 that sets or clears PLAN_OPEN. -/
  | planOpen (p : PartId) (val : Word)
  | planApply (p : PartId) (val : Word)
  /-- PLAN_APPLY_DONE (R280). -/
  | planApplyDone
  /-- RST_REQ_CORE, RST_REQ_KERB, RST_REQ_PORT, RST_REQ_BYPASS, RST_REQ_DIE (R392). -/
  | rstReqCore (p : PartId) (die : DieId) (target : BitVec 12)
  | rstReqKerb (p : PartId) (die : DieId) (target : BitVec 12)
  | rstReqPort (p : PartId) (die : DieId) (target : BitVec 12)
  | rstReqBypass (p : PartId) (die : DieId) (target : BitVec 12)
  | rstReqDie (p : PartId) (die : DieId) (target : BitVec 12)
  /-- CAP_W_WRITE (R396). -/
  | capWWrite (p : PartId) (val : Word)
  /-- TOKEN_DATA_WRITE (R433). -/
  | tokenDataWrite (p : PartId) (val : Word)
  /-- LC_GO (R431). -/
  | lcGo (p : PartId)
  /-- LC_CHECK_DONE (R431). -/
  | lcCheckDone
  /-- REPLACE_CLR (R433). -/
  | replaceClr (p : PartId)
  /-- POST_ARRIVAL (R337): writing function, context aperture, and of the BAR2 offset bits [11:0] in [11:0] and bits [23:20] in
  [15:12] (R45), bytes written. -/
  | postArrival (p : PartId) (c : CtxId) (off : BitVec 16) (data : List Byte)
  /-- NOP (R341): a NOP post arrives and is taken. -/
  | nop (p : PartId) (c : CtxId) (off : BitVec 12) (data : List Byte)
  /-- The posts of Table 96, taken from the front of the context's accepted posts (R340). -/
  | noticeArea (c : CtxId)
  | window (c : CtxId)
  | create (c : CtxId)
  | run (c : CtxId)
  | preempt (c : CtxId)
  | destroy (c : CtxId)
  | signal (c : CtxId)
  | flush (c : CtxId)
  | kerbArm (c : CtxId)
  | ixArm (c : CtxId)
  | ixDisarm (c : CtxId)
  | colArm (c : CtxId)
  | colDisarm (c : CtxId)
  | partSet (c : CtxId)
  | cap (c : CtxId)
  | powerOff (c : CtxId)
  | fwLoad (c : CtxId)
  | attest (c : CtxId)
  /-- ATTEST_DONE (R428): the report is at its channels. -/
  | attestDone
  /-- CREDIT_NOTICE (R339). -/
  | creditNotice (c : CtxId)
  /-- NOTICE_DEQUEUE (R348). -/
  | noticeDequeue (p : PartId)
  /-- BAR4_READ, BAR4_WRITE (R351). -/
  | bar4Read (p : PartId) (off : BitVec 36) (len : Nat)
  | bar4Write (p : PartId) (off : BitVec 36) (data : List Byte)
  /-- FUNCTION_LEVEL_RESET (R352). -/
  | functionLevelReset (p : PartId)
  /-- HOT_RESET (R389). -/
  | hotReset
  /-- PERST_ASSERT (R422), PERST_DEASSERT (R404). -/
  | perstAssert
  | perstDeassert
  /-- LINK_CHANGE (R353): the new width, rate, FLIT mode and up state, and which VFs are enabled. -/
  | linkChange (up : Bool) (flit : Bool) (rate width : BitVec 8) (vfs : BitVec 15)
  /-- Sequencer instructions (Table 50). -/
  | seqNop (core : CoreId) (ph : Phase)
  | jump (core : CoreId)
  | setloop (core : CoreId)
  | loop (core : CoreId)
  | branch (core : CoreId)
  /-- BRANCH_RESOLVE (R155). -/
  | branchResolve (core : CoreId)
  | tdLoad (core : CoreId)
  /-- TD_LOAD_DONE (R156). -/
  | tdLoadDone (core : CoreId)
  | save (core : CoreId) (ph : Phase)
  | halt (core : CoreId) (ph : Phase)
  /-- FETCH_LINE_RETURN (R152): the 512-byte line with this line number returns. -/
  | fetchLineReturn (core : CoreId) (line : BitVec 31)
  /-- INSTRUCTION_START (R154): the next instruction of the engine class starts. -/
  | instructionStart (core : CoreId) (eng : Fin 6)
  /-- LR instructions (Table 26). -/
  | mm (core : CoreId) (ph : Phase)
  | mma (core : CoreId) (ph : Phase)
  | lrFillDone (core : CoreId)
  | lrStreamToken (core : CoreId)
  | lrPassEnd (core : CoreId)
  | lrComplete (core : CoreId)
  | lrDummyStepDown (core : CoreId)
  | lrStop (core : CoreId)
  /-- OP instructions (Table 33). -/
  | opm (core : CoreId) (ph : Phase)
  | opma (core : CoreId) (ph : Phase)
  | opFillDone (core : CoreId)
  | opPassEnd (core : CoreId)
  | opComplete (core : CoreId)
  | opDummyStepDown (core : CoreId)
  | opStop (core : CoreId)
  /-- VX instructions (Table 52). -/
  | cvt (core : CoreId) (ph : Phase)
  | vxAdd (core : CoreId) (ph : Phase)
  | vxSub (core : CoreId) (ph : Phase)
  | vxMul (core : CoreId) (ph : Phase)
  | vxFma (core : CoreId) (ph : Phase)
  | scale (core : CoreId) (ph : Phase)
  | argmax (core : CoreId) (ph : Phase)
  | argmin (core : CoreId) (ph : Phase)
  | rowsum (core : CoreId) (ph : Phase)
  | exp (core : CoreId) (ph : Phase)
  | log (core : CoreId) (ph : Phase)
  | rsqrt (core : CoreId) (ph : Phase)
  | recip (core : CoreId) (ph : Phase)
  | tanh (core : CoreId) (ph : Phase)
  | erf (core : CoreId) (ph : Phase)
  | maxmin (core : CoreId) (ph : Phase)
  | vxComplete (core : CoreId)
  | vxStop (core : CoreId)
  /-- DM instructions (Table 42). -/
  | get (core : CoreId) (ph : Phase)
  | put (core : CoreId) (ph : Phase)
  | acc (core : CoreId) (ph : Phase)
  | accOrd (core : CoreId) (ph : Phase)
  | cmbOpen (core : CoreId) (ph : Phase)
  /-- RUN_AHEAD_RETURN (R144), GET_DATA_RETURN (R140), PUT_ACK (R142): the request slot, and for the last two whether
  the answer carries a congestion mark. -/
  | runAheadReturn (core : CoreId) (slot : Fin 16)
  | laMissReturn (core : CoreId) (line : BitVec 21)
  | getDataReturn (core : CoreId) (slot : Fin 16) (mark : Bool)
  | putAck (core : CoreId) (slot : Fin 16) (mark : Bool)
  /-- CW_WINDOW_INCREASE (R262). -/
  | cwWindowIncrease (src : Source) (cw : Fin 3)
  /-- Arrivals within the chip: the message's place in the list of messages in flight. -/
  | accArrival (idx : Nat)
  | accOrdArrival (idx : Nat)
  | accAck (idx : Nat)
  /-- MS instructions (Table 58). -/
  | msSet (core : CoreId) (ph : Phase)
  | msAdd (core : CoreId) (ph : Phase)
  | msBinit (core : CoreId) (ph : Phase)
  | msArrive (core : CoreId) (ph : Phase)
  | msTwait (core : CoreId) (ph : Phase)
  | twaitExpiry (core : CoreId)
  | msAddArrival (idx : Nat)
  | msAddAck (idx : Nat)
  | remoteAddArrival (idx : Nat)
  | addRetry (core : CoreId)
  | barrierArrival (idx : Nat)
  | barrierRoundComplete (core : CoreId) (ms : Fin 48)
  | barrierReleaseArrival (idx : Nat)
  | grantLend (core : CoreId)
  /-- ENGINE_FAULT (R356): a check of the site's logic or storage fails in an engine; `seg` names the tile store segment
  when the failing check was in the tile store. -/
  | engineFault (core : CoreId) (eng : Fin 6) (seg : EngineCheck)
  | replayStopped (c : CtxId)
  | preemptPhase1Done (c : CtxId)
  | imageComplete (c : CtxId)
  | preemptOverrun (c : CtxId)
  /-- Kerbside rows: engine, context and list slot. -/
  | kerbDescriptorRead (chan : ChanId) (c : CtxId) (slot : Fin 4)
  | kerbTrigger (die : DieId) (c : CtxId) (slot : Fin 4)
  /-- KERB_BLOCK_STEP (R236): `bad` computations fail their residue check before one passes. -/
  | kerbBlockStep (chan : ChanId) (c : CtxId) (slot : Fin 4) (bad : Nat)
  | residueExpiry (chan : ChanId)
  | kerbShareDone (chan : ChanId) (c : CtxId) (slot : Fin 4)
  | kerbSignalRetry (chan : ChanId) (c : CtxId) (slot : Fin 4)
  | kerbPause (c : CtxId)
  /-- CHUNK_REDUCTION_DONE (R236): the oldest part waiting at a die's collective controller for its kerbside engine. -/
  | chunkReductionDone (die : DieId) (bad : Nat)
  /-- CHANNEL_ACCESS (R242): a passing access to the granule at a channel offset; write data when it is a write, and what
  the ECC finds. -/
  | channelAccess (chan : ChanId) (off : Word) (write : Option (List Byte)) (ecc : Ecc)
  | scrubRead (stack : StackId) (ecc : Ecc)
  | rlcFill (die : FillEvent)
  | maintWindowOpen (chan : ChanId)
  | maintWindowClose (chan : ChanId)
  | maintWindowAbandon (chan : ChanId)
  /-- STACK_LOST (R213) through the dead test port. -/
  | stackLost (stack : StackId)
  | reservationGrant (chan : ChanId)
  /-- BRIDGE_FLIT_RECEIVE (R268): receiving bridge of a die (0 next, 1 previous, 2 hub), slice, CRC. -/
  | bridgeFlitReceive (die : DieId) (bridge : Fin 3) (slice : Fin 20) (crcOk : Bool)
  | handshakeLost (die : DieId) (bridge : Fin 3)
  | linkFlitReceive (port : PortId) (f : Flit)
  | linkFlitSend (port : PortId)
  | transitPacket (port : PortId)
  | arrivalPacket (port : PortId)
  | requestTimeout (req : Nat)
  | portRetrain (port : PortId)
  | lightOn (port : PortId)
  | lightLoss (port : PortId)
  /-- TRAIN_STEP_DONE (R278): the lanes found good in each direction. -/
  | trainStepDone (port : PortId) (tx rx : BitVec 8)
  | identReceive (port : PortId) (id : Ident)
  | trainTimeout (port : PortId)
  | trainRetry (port : PortId)
  | laneFail (port : PortId) (lane : Fin 8)
  | widthChangeDone (port : PortId)
  | syncRequest
  /-- SYNC_REPLY (R289): the four stamps and whether the upstream chip reports SYNCED. -/
  | syncReply (t1 t2 t3 t4 : Quad) (synced : Bool)
  | timeLost
  | ixRoundTrigger (die : DieId) (slot : Fin 16)
  | ixCount (idx : Nat)
  | ixGrant (idx : Nat)
  | ixToken (idx : Nat)
  | ixReady (idx : Nat)
  | ixFetch (idx : Nat)
  | ixFetchData (idx : Nat)
  | ixAbort (idx : Nat)
  | ixAck (idx : Nat)
  | ixCombineTrigger (die : DieId) (slot : Fin 16)
  | ixLimitExpiry (die : DieId) (slot : Fin 16)
  | ixCountRetry (die : DieId) (slot : Fin 16)
  | ixSignalRetry (die : DieId) (slot : Fin 16)
  | colRoundTrigger (die : DieId) (slot : Fin 16)
  | colReady (idx : Nat)
  | colCount (idx : Nat)
  | colGo (idx : Nat)
  | colPart (idx : Nat)
  | colAck (idx : Nat)
  | colNak (idx : Nat)
  | colArrive (idx : Nat)
  | colRelease (idx : Nat)
  | colAbort (idx : Nat)
  | colGetReq (idx : Nat)
  | colGetData (idx : Nat)
  | colLimitExpiry (die : DieId) (slot : Fin 16)
  | colCountRetry (die : DieId) (slot : Fin 16)
  | engineHang (core : CoreId) (eng : Fin 6)
  /-- CORE_POLL (R379): the sites of the die that fail to answer, as logical cores. -/
  | corePoll (die : DieId) (silent : List CoreId)
  | kerbHang (chan : ChanId)
  | roadblockHalfBudget (d : Domain)
  | resetComplete (d : Domain)
  | resetOverrun (d : Domain)
  | contextStall (c : CtxId)
  /-- HEARTBEAT, WATCHDOG_MISS, PROCESSOR_RESTART_OVERRUN (R382): source 0 to 3 for C0 to C3, 4 for H. -/
  | heartbeat (k : Fin 5)
  | watchdogMiss (k : Fin 5)
  | processorRestartOverrun (k : Fin 5)
  | trialPass (core : CoreId)
  | pllLockLoss (die : DieId)
  | katStart (die : DieId)
  | katForced (core : CoreId)
  | standInMoveDone (core : CoreId)
  | katDone (site : BitVec 16) (r : KatResult)
  /-- SHADOW_RUN_DONE (R367): the core whose pass is shadowed, the CRC of the shadow run. -/
  | shadowRunDone (core : CoreId) (crc : Word)
  | shadowVoteDone (core : CoreId) (crc : Word)
  | fault24hExpiry (site : BitVec 16)
  | drainComplete
  /-- POWER_MEASURE (R398): input power in 0.1 W, input voltage in 10 mV, current in 10 mA, power of everything other than
  the cores and of each die's cores in 0.1 W. -/
  | powerMeasure (pIn vIn iIn other : Nat) (dies : List Nat)
  /-- GRANT_ALLOCATE (R399): the predicted power in µW of one core of each die at step 1. -/
  | grantAllocate (unit : List Nat)
  | poolSplit
  | islandRampStep (core : CoreId)
  /-- SENSOR_READ (R406): the sensors' readings in quarter degrees, 64 per die in order, 16 of the hub, 12 stacks. -/
  | sensorRead (junction : List Nat) (hub : List Nat) (hbmStacks : List Nat)
  | thermalTrip
  | thermTripRelease
  | vinFault
  | alwaysOnLoss
  | powerUp
  | comparatorFire (k : Fin 8)
  | dozeEntered
  | dozeExitDone
  /-- BRINGUP_POWER_DONE (R413). -/
  | bringupPowerDone
  /-- IDENTITY_CHECK (R414): the position straps, whether fuse records pass and steppings agree, the slot straps. -/
  | identityCheck (straps : List Nat) (fuses : List FuseRecord) (steppings : List Nat) (slot : BitVec 6)
  /-- BRIDGE_TEST_DONE (R269): a bridge's failed data wires per slice, and per slice a mask of its failed spare wires. -/
  | bridgeTestDone (die : DieId) (bridge : Fin 3) (data spare : List Nat)
  | hbmTrainingDone (stack : StackId)
  | reservedZeroDone
  | fwVerifyDone
  | firmwareStart
  | bringupTestDone (results : List SiteTest)
  | readySend
  /-- BRINGUP_OVERRUN (R421): whether the HUB rail is the one that failed in POWER, and otherwise the die that did not finish. -/
  | bringupOverrun (hub : Bool) (die : DieId)
  /-- OPTICAL_CHECK (R437): a port's lanes above the bias limit and below the received-power limit. -/
  | opticalCheck (port : PortId) (bias power : BitVec 8)
  /-- PLL_CHECK (R437): fabric PLLs and bypass PLLs per die that deviate by more than 200 ppm, and the hub's. -/
  | pllCheck (fabric bypass : BitVec 4) (hub : Bool)
  /-- SENSOR_CHECK (R437): junction sensors (die × 64 + index, hub from 256) and stacks whose cross-check differs. -/
  | sensorCheck (junction : List Nat) (hbmStacks : List Nat)
  /-- VIN_MONITOR_CHECK (R437): the two monitors' readings in 10 mV. -/
  | vinMonitorCheck (a b : Nat)
  | traceWrite (buf : Fin 4)
  /-- MBOX_SUBMIT (R456). -/
  | mboxSubmit (data : I3cTransfer)
  | mboxNop
  | mboxCap
  | mboxPowerOff
  | mboxRead
  | mboxReadTimeout
  | mboxWake
  | mboxWrite
  | mgmtStatusRead
  | setdasa (addr : BitVec 7)
  | fabricSample (buf : Fin 4)
  | colSignalRetry (die : DieId) (slot : Fin 16)
  | stackTrainingOverrun (stack : StackId)
  /-- MSI_X_UNMASK (R350): the function and its vector. -/
  | msiXUnmask (p : PartId) (v : Fin 8)
  deriving DecidableEq, Repr

end Sys2Proof
end

