-- ==== Sys2Proof/Decode.lean ====
section
/-!
DEFINITION. decodeTableWord: the command that a word spells by the table's bits. No row of spec/opcode_table.json gives
bits, so no word spells a command.
-/
namespace Sys2Proof

/-- No row of the table has an encoding: every word spells no command. -/
def decodeTableWord (_nbits _w : Nat) : Option Instr := none

end Sys2Proof
end

