-- ==== Sys2Proof/Config.lean ====
section
/-!
DEFINITION. What one part fixes and what the spec leaves open: free values, opaque constants without a body, so nothing
can be proved of their value. Each is named in the assumption log.
-/
namespace Sys2Proof

/-- BLK_ID[11:0], the stepping of the module (R4, R7). -/
opaque Config.stepping : BitVec 12
/-- What a cycle counter reads (R42 and the chapters' counters of cycles): page, offset, odometer, event counter. Cycle
timing is left out of the model (notes/assumptions/8.md). -/
opaque Config.cycles : Nat → Nat → Nat → Nat → Word
/-- Whether the frame map cache of a sequencer, a kerbside engine or the BAR4 window still holds a line of the map that cannot be read
any more (R201; notes/assumptions/140.md): line, odometer, event counter. -/
opaque Config.mapHeld : Nat → Nat → Nat → Bool
/-- A byte read through a key under which it was not last written (R204): physical address and the reading seal. -/
opaque Config.garbled : Nat → Nat → Byte
/-- A fresh value where the spec states none; the argument is State.fresh (notes/assumptions/5.md). -/
opaque Config.freshWord : Nat → Word
opaque Config.freshNat : Nat → Nat
/-- DEV_SERIAL of the part (R433). -/
opaque Config.devSerial : Quad
/-- The SHA-256 hashes that the boot ROM holds (R424): firmware key slots 0 to 3, then life-cycle key slots 0 and 1. -/
opaque Config.romHash : Nat → List Byte
/-- What the random bit generator draws the private key of the device identity from (R427), by the number of identities generated. -/
opaque Config.identitySecret : Nat → Nat
/-- The sites that receive the core firmware with a CRC mismatch three times (R418), by event counter. -/
opaque Config.firmwareLost : Nat → List Nat
/-- The transcendental functions' raw results before their bound is applied (R161): function code and operand bits. -/
opaque Config.transcendental : Nat → Word → Word
/-- The hash that spreads messages over paths or ports where the spec names no function. -/
opaque Config.spread : Nat → Nat → Nat

end Sys2Proof
end

