-- ==== Sys2Proof/Machine/State.lean ====
section
/-!
DEFINITION. The state of the Umarez as plain data: everything the chapters give the module, one structure per block,
and State.reset. Registers that no other field holds (selectors, counters, plain configuration) stand in their page's
`regs` under their page offset; an unlisted offset holds its reset value from the register tables (Machine/RegTab.lean).
Keyed data is an SMap in canonical form. Times are odometer values in ns (R27).
-/
namespace Sys2Proof.Machine

/-- Reasons the machine stops with a fault. -/
inductive Fault where
  /-- A command names a core site outside the floor plan of R16 (column above 39, row above 29 or a reserved bit). Raised by
  the site rows KAT_DONE and FAULT_24H_EXPIRY. Safe: no such site exists, so the silicon never produces the event. -/
  | noSuchSite
  deriving DecidableEq, Repr, Inhabited

/-- Reasons a command has no meaning. -/
inductive Refusal where
  /-- The row has no meaning in this model yet. Raised by dispatch arms only. Safe: nothing is claimed of it. -/
  | notModelled (mnemonic : String)
  deriving DecidableEq, Repr, Inhabited

/-- The common header of a page (R34) and the page's stored registers. STATE and ROADBLOCK follow from the power state, bring-up,
the resets in progress, fences and the drain (stateOf in Machine/Ops.lean). -/
structure Page where
  moving : Bool := false
  rejCode : Nat := 0
  rejOff : Nat := 0
  rejCount : Nat := 0
  mask : Word := 0xFFFFFFFF
  pend : Word := 0
  errCorrected : Nat := 0
  errUncorrected : Nat := 0
  ties : Nat := 0
  events : Nat := 0
  /-- BLK_OWNER: holding partition and feature (R39). -/
  owner : Option (Nat × Nat) := none
  /-- Read latches and write staging of 64-bit pairs (R38), keyed 16 × low offset + partition (16 × 4096 + … for management). -/
  latch : SMap (Option Word) := []
  stage : SMap (Option Word) := []
  /-- Milestone view latches (R178), keyed 16 × milestone + partition. -/
  view : SMap (Option (Word × Word × Word)) := []
  regs : SMap Word := []
  deriving DecidableEq, Repr, Inhabited

/-- A milestone (R176). The waiter set is read from the window (R182). -/
structure Mile where
  value : Word := 0
  gen : Word := 0
  barrier : Bool := false
  relMs : Nat := 0
  last : Word := 0
  deriving DecidableEq, Repr, Inhabited

/-- The engine fault record (R173). -/
structure FaultRec where
  valid : Bool := false
  overflow : Bool := false
  engine : Nat := 0
  code : Nat := 0
  ctx : Nat := 0
  ctxNamed : Bool := false
  kind : Nat := 0
  pc : Nat := 0
  detail : Nat := 0
  addr : Nat := 0
  time : Nat := 0
  deriving DecidableEq, Repr, Inhabited

/-- A moved piece of a DM request: frame address, tile store byte address, length. -/
structure Piece where
  src : Nat
  dst : Nat
  len : Nat
  deriving DecidableEq, Repr, Inhabited

/-- A window entry (R153, R171): `td` holds the descriptor words read at dispatch, `sat` a wait once satisfied (R182),
`since` when a TWAIT began, `loops` the loop counters at a BRANCH's dispatch (R155). -/
structure WEnt where
  id : Nat
  addr : Nat
  ins : Nat
  td : List Nat := []
  st : Nat := 0
  run : Nat := 0
  sat : Bool := false
  since : Nat := 0
  loops : List Nat := []
  /-- MS work already sent and awaiting its acknowledgement: request number + 1, or 0. -/
  sent : Nat := 0
  /-- First attempt of a refused remote ADD + 1 (R188), or 0. -/
  firstTry : Nat := 0
  /-- Pieces of a run-ahead GET that were discarded and are read again (Table 45). -/
  redo : List Piece := []
  /-- The GET does not run ahead again (Table 45). -/
  noAhead : Bool := false
  deriving DecidableEq, Repr, Inhabited

/-- A W-file or OP operand bank: the tile store bytes captured when the fill completed (R78, R98, R243). -/
structure Bank where
  ent : Nat
  a : Nat
  b : Nat
  bytes : SMap Byte
  deriving DecidableEq, Repr, Inhabited

/-- LR in progress (R74, R79): entry, next position, filled banks, dummy groups still working (R82), whether gated. -/
structure LrRun where
  ent : Option Nat := none
  pass : Nat := 0
  step : Nat := 0
  token : Nat := 0
  banks : List Bank := []
  dummy : Nat := 0
  gated : Bool := true
  stallAt : Nat := 0
  /-- The last token of a pass has been issued and its end is still to come. -/
  ended : Bool := false
  /-- LR has stopped at a token boundary for a pre-emption (R84). -/
  stopped : Bool := false
  deriving DecidableEq, Repr, Inhabited

/-- OP in progress (R97): entry, first row block of the pass, next K-block, accumulator file. -/
structure OpRun where
  ent : Option Nat := none
  rowFirst : Nat := 0
  kblock : Nat := 0
  loaded : Bool := false
  written : Bool := false
  banks : List Bank := []
  acc : SMap Word := []
  dummy : Nat := 0
  gated : Bool := true
  stallAt : Nat := 0
  /-- OP has stopped at a K-block boundary for a pre-emption (R103). -/
  stopped : Bool := false
  deriving DecidableEq, Repr, Inhabited

/-- A combine slot (R129): the CMB_OPEN words, whether open, and which segments of which contributor have arrived. -/
structure Combine where
  isOpen : Bool := false
  w0 : Nat := 0
  w1 : Nat := 0
  got : List (Nat × Nat) := []
  deriving DecidableEq, Repr, Inhabited

/-- A DM request slot (R140). `kind`: 0 GET, 1 PUT, 2 ACC, 3 ACC_ORD, 4 run-ahead read. `granted` once its scoreboard
reservation holds (R253). `held` while a PUT it overlaps is unacknowledged (R141). -/
structure DmReq where
  ent : Nat
  kind : Nat
  pieces : List Piece
  /-- Order of issue, and a PUT's bytes as read from the tile store. -/
  seq : Nat := 0
  data : List Byte := []
  chan : Nat := 0
  /-- Holds or waits for a scoreboard reservation of channel `chan` (R253). -/
  resv : Bool := false
  granted : Bool := true
  /-- The instruction was abandoned; the data is discarded on return (R134, R145). -/
  dead : Bool := false
  /-- Its request or its response is still on its way in the die fabric. -/
  away : Bool := false
  /-- Why it was refused on its way: FENCED at the edge of a fenced die (R376, R387), or the code of the frame map line that holds its
  frame's entry (R199); 0 while it was not. -/
  bad : Nat := 0
  /-- The congestion mark that the answer carries (R261). -/
  mark : Bool := false
  deriving DecidableEq, Repr, Inhabited

/-- A shadow slot (R144): where its bytes go, the bytes, or the fault held with it (R146). -/
structure Shadow where
  ent : Nat
  pieces : List Piece
  data : List Byte
  fault : Nat := 0
  faultAddr : Nat := 0
  deriving DecidableEq, Repr, Inhabited

/-- A congestion window (R262): W, and the odometer of the last decrease. -/
structure CwWin where
  w : Nat
  lastDec : Nat
  since : Nat := 0
  /-- The odometer value plus 1 at which W rose last. -/
  rose : Nat := 0
  deriving DecidableEq, Repr, Inhabited

/-- A fetched instruction line (R152): its bytes, or the fault held until the line is needed. -/
structure Line where
  line : Nat
  bytes : SMap Byte := []
  fault : Nat := 0
  deriving DecidableEq, Repr, Inhabited

/-- A logical core: what the site that carries it holds, and its share of its context. -/
structure Core where
  ctx : Option Nat := none
  runState : Nat := 0
  pc : Nat := 0
  tdSrc : Nat := 0
  loops : List Nat := [0, 0, 0, 0]
  saveSeq : Word := 0
  lines : List Line := []
  window : List WEnt := []
  nextId : Nat := 0
  /-- Dispatch has ended: HALT, a rejection or a stop (R157, R167). -/
  closed : Bool := false
  halted : Bool := false
  /-- A rejection held behind an unresolved BRANCH (R155): code and address. -/
  heldReject : Option (Nat × Nat) := none
  /-- A rejection in effect: code (R157). -/
  reject : Option Nat := none
  /-- Window entries of the restored image still to be dispatched: address, STATE, RUN (R171). -/
  resume : List (Nat × Nat × Nat) := []
  /-- VX has stopped at a row boundary for a pre-emption (R167). -/
  vxStopped : Bool := false
  descMem : SMap Byte := []
  flush : Bool := false
  arithStat : BitVec 5 := 0
  srState : Word := 0x9E3779B9
  /-- The state left by the last completed conversion, which reads of SR_STATE return while RUNNING (R58). -/
  srSeen : Word := 0x9E3779B9
  /-- A BRANCH that was open at the image has been dispatched again, so loop instructions after it act again (R155). -/
  reloop : Bool := false
  /-- Words 0 to 15 of a restored OP accumulator image and 1 when its CRC matched (R118, R119); empty when none. -/
  opHead : List Nat := []
  lrPos : Word := 0
  lrPass : Word := 0
  lrFill : Word := 0
  lrFree : Word := 0
  opPos : Word := 0
  lr : LrRun := {}
  op : OpRun := {}
  ts : SMap Byte := []
  slots : SMap Combine := []
  /-- Arrival-order contributions of which some segments have been added (R114): sending core, its number, segments added, and all of
  them once the last run has come. -/
  accIn : List (Nat × Nat × Nat × Option Nat) := []
  miles : SMap Mile := []
  fr : FaultRec := {}
  reqs : SMap (Option DmReq) := []
  shadow : List Shadow := []
  /-- The lookaside (R133): frame and entry, most recently used first. -/
  look : List (Nat × Nat) := []
  misses : List Nat := []
  wins : SMap CwWin := []
  /-- OTHER_CHIP ADDs acknowledged since the newest image, and how many a replay still skips (R359). -/
  remoteAcked : Nat := 0
  remoteSkip : Nat := 0
  /-- Since when the core has been parked, and whether its grant is lent (R194). -/
  parkedAt : Option Nat := none
  lent : Bool := false
  grant : Nat := 0
  step : Nat := 0
  istate : Nat := 0
  islLimit : Nat := 64
  /-- When the island asked to leave gating, or took its last ramp step (R400). -/
  rampAt : Nat := 0
  /-- The last 8 resident contexts with arrival times (R385), newest first, and whether each is still resident. -/
  residency : List (Nat × Nat × Nat) := []
  /-- Suspects marked by a hang without a culprit, and the context on trial with its start (R385, R386). -/
  suspects : List Nat := []
  /-- The logged contexts that a hang without a culprit concerns, before the site is tested (R385). -/
  accused : List Nat := []
  trial : Option (Nat × Nat) := none
  /-- When the core halted (R381). -/
  haltAt : Nat := 0
  missedPolls : Nat := 0
  /-- When an engine with a started instruction last made progress (R378), by engine class. -/
  progress : SMap Nat := []
  deriving DecidableEq, Repr, Inhabited

/-- The context states of Table 54. -/
inductive CState where
  | free | idle | running | saving | faulted | halted
  deriving DecidableEq, Repr, Inhabited

/-- An accepted post: its 64 bytes and its arrival number. -/
structure Post where
  data : List Byte
  deriving DecidableEq, Repr, Inhabited

/-- A taken post that has not ended: SEQ, COOKIE and QUIET. -/
structure PostRef where
  seq : Nat
  cookie : Nat
  quiet : Bool
  deriving DecidableEq, Repr, Inhabited

/-- A save in progress (R167): image KIND, TAG, cores still to write, start, whether a drain or the replay log runs it. -/
structure Saving where
  kind : Nat
  tag : Nat
  start : Nat
  phase2 : Bool := false
  /-- Time in which phase 1 waited only for awaited ADDs, which no limit counts (R169). -/
  waited : Nat := 0
  /-- What follows the image: 0 IDLE, 1 run on (SAVE), 2 run again at once (replay log, forced test), 3 HALTED. -/
  after : Nat := 0
  haltCode : Nat := 0
  haltCore : Nat := 0
  deriving DecidableEq, Repr, Inhabited

/-- A kerbside engine's place in a list (R226, R240): descriptor index, stage, next 512-byte block, gathered flags.
`stage`: 0 descriptor not read, 1 awaiting its trigger, 2 share running, 3 share done and to be signalled, 4 stopped. -/
structure KPos where
  desc : Nat := 0
  stage : Nat := 0
  block : Nat := 0
  words : List Nat := []
  flags : BitVec 5 := 0
  range : Bool := false
  code : Nat := 0
  /-- Last attempt at a signal that met a full held-signal queue. -/
  at_ : Nat := 0
  deriving DecidableEq, Repr, Inhabited

/-- A kerbside list slot (R225). -/
structure KList where
  armed : Bool := false
  addr : Nat := 0
  count : Nat := 0
  seq : Nat := 0
  stopped : Bool := false
  /-- Every engine has paused the list and recorded its place (R240). -/
  paused : Bool := false
  pos : SMap KPos := []
  /-- Positions at the newest complete image (R239). -/
  saved : SMap KPos := []
  deriving DecidableEq, Repr, Inhabited

/-- A context (R163, R164). -/
structure Ctx where
  state : CState := .free
  part : Nat := 0
  cores : List Nat := []
  area : Nat := 0
  flush : Bool := false
  seedEn : Bool := false
  seed : Word := 0
  jobTag : Word := 0
  saveSeq : Word := 0
  imageAt : Nat := 0
  saving : Option Saving := none
  faults : Nat := 0
  faultCode : Nat := 0
  /-- The core that the latest fault names (R343). -/
  faultCore : Nat := 0
  /-- The odometer value plus 1 at which its last core halted (R168). -/
  doneAt : Nat := 0
  /-- What replay waits on: 0 nothing, 1 the cores' stop, 2 a test of the site, 3 its die's return. -/
  replay : Nat := 0
  /-- Cores with a hardware fault that the replay has still to test or to substitute (R357). -/
  hwCores : List Nat := []
  runPost : Option PostRef := none
  preemptPost : Option PostRef := none
  /-- FLUSH posts in progress and the dies whose cache has still to finish (R345). -/
  flushes : List (PostRef × List Nat) := []
  credits : Nat := 32
  owed : Nat := 0
  owedAt : Nat := 0
  expSeq : Nat := 0
  posts : List Post := []
  lists : SMap KList := []
  /-- Lists that finished since the newest complete image, with their slots, in the order they finished: a replay walks them again
  so that their signals are sent again (R239, R358). -/
  past : List (Nat × KList) := []
  /-- Lists a replay has still to walk again, behind the list of their slot. -/
  again : List (Nat × KList) := []
  stallAt : Option Nat := none
  deriving DecidableEq, Repr, Inhabited

/-- A notice (Table 97) before PHASE and LOST are set. -/
structure Notice where
  typ : Nat
  code : Nat := 0
  seq : Nat := 0
  ctx : Option Nat := none
  odo : Quad := 0
  arg0 : Nat := 0
  arg1 : Nat := 0
  deriving DecidableEq, Repr, Inhabited

/-- A registered notice area (R346): host address, SIZE_LOG2, vectors of classes 0 to 3. -/
structure Area where
  addr : Nat
  log2 : Nat
  vec : List Nat
  deriving DecidableEq, Repr, Inhabited

/-- A partition's share of the post controller (R346 to R351). -/
structure Part where
  area : Option Area := none
  written : Nat := 0
  read : Nat := 0
  index : Nat := 0
  phase : Bool := true
  queue : List Notice := []
  lost : Nat := 0
  lostFlag : Bool := false
  base : Nat := 0
  vecMask : BitVec 8 := 0xFF
  vecPend : BitVec 8 := 0
  deriving DecidableEq, Repr, Inhabited

/-- What the block writes to host memory: notice records and MSI-X messages (R347, R350). -/
inductive HostWrite where
  | record (p : Nat) (addr : Nat) (bytes : List Byte)
  | msix (p vec : Nat)
  deriving DecidableEq, Repr, Inhabited

/-- What a BAR4 read returned last (R351). -/
inductive Bar4 where
  | none
  | data (bytes : List Byte)
  | poisoned
  | ones (len : Nat)
  deriving DecidableEq, Repr, Inhabited

/-- A BAR4 access that waits for its channel, in the order of arrival (R211, R223, R249): partition, offset, length or data. -/
inductive Bar4Acc where
  | read (p off len : Nat)
  | write (p off : Nat) (data : List Byte)
  deriving DecidableEq, Repr, Inhabited

/-- A write that a block of a die has made and whose channel holds it (R211, R223): die, partition, frame address, bytes. -/
structure LateWrite where
  die : Nat
  part : Nat
  addr : Nat
  data : List Byte
  deriving DecidableEq, Repr, Inhabited

/-- An HBM stack and its controller (R205 to R214). -/
structure Stack where
  state : Nat := 0
  selfRefresh : Bool := false
  halfRate : Bool := false
  maint : SMap Bool := []
  maintStart : SMap Nat := []
  winFails : SMap Nat := []
  spares : SMap Nat := []
  badRows : List (Nat × Nat) := []
  rowErrs : List (Nat × Nat × Nat) := []
  /-- Rows that await a maintenance window for their repair, and soft repairs to be made hard (R208). -/
  need : List (Nat × Nat) := []
  softPending : List (Nat × Nat) := []
  exhausted : SMap Bool := []
  scrub : Nat := 0
  deriving DecidableEq, Repr, Inhabited

/-- A frame map operation that runs (R202). -/
structure FmOp where
  op : Nat
  zero : Bool
  frame : Nat
  entry : Nat
  start : Nat
  /-- Poisons that waited when it was started and still run before it (R203). -/
  before : Nat := 0
  deriving DecidableEq, Repr, Inhabited

/-- The frame map, its port and the poison log (R199 to R203, R220). -/
structure FrameMap where
  entries : SMap Nat := []
  claims : SMap (Option Nat) := []
  op : Option FmOp := none
  code : Nat := 0
  poisonQ : List (Nat × Nat) := []
  log : List Nat := []
  logOver : Bool := false
  deriving DecidableEq, Repr, Inhabited

/-- A remote-line cache line: frame address div 128 and its bytes (R215). -/
structure RlcLine where
  line : Nat
  bytes : SMap Byte
  deriving DecidableEq, Repr, Inhabited

/-- A fill in flight; dead once a flush covers it (R217). -/
structure RlcFill where
  line : Nat
  bytes : SMap Byte
  dead : Bool := false
  deriving DecidableEq, Repr, Inhabited

/-- A flush of a remote-line cache: range of lines, or all, and the context whose FLUSH post asked for it. -/
structure RlcFlush where
  lo : Nat
  hi : Nat
  post : Option Nat := none
  deriving DecidableEq, Repr, Inhabited

structure Rlc where
  lines : List RlcLine := []
  fills : List RlcFill := []
  flush : Option RlcFlush := none
  waiting : List RlcFlush := []
  deriving DecidableEq, Repr, Inhabited

/-- A route port operation that runs (R265). -/
structure RtOp where
  op : Nat
  index : Nat
  bank : Bool
  data : Nat
  deriving DecidableEq, Repr, Inhabited

/-- The chip routing table of a die and its port (R263 to R266). -/
structure Route where
  bank0 : SMap Nat := []
  bank1 : SMap Nat := []
  active : Bool := false
  op : Option RtOp := none
  code : Nat := 0
  hold : Bool := false
  deriving DecidableEq, Repr, Inhabited

/-- An unacknowledged chip-bound request (R266, R287): number, die, who sent it, when, and the message kept with it. -/
structure OutReq where
  req : Nat
  die : Nat
  sentAt : Nat
  msg : Msg
  deriving DecidableEq, Repr, Inhabited

/-- A bridge's slices as its die sees them (R267 to R270). -/
structure Bridge where
  sliceMap : BitVec 20 := 0
  wires : Quad := 0
  retries : SMap (List Nat) := []
  /-- When a flit arrived last, and whether its absence since has been reported (R270). -/
  lastAt : Nat := 0
  lost : Bool := false
  deriving DecidableEq, Repr, Inhabited

/-- A place in the die fabric where a packet stands in a queue (R251): a row ring's stop (die, row, direction, column), a column
ring's stop (die, column, direction; stop 0 the near gate, 1 to 30 the rows, 31 the far gate), a crossbar port (Table 71) or the
outgoing queue of a bridge (die × 3 + 0 next, 1 previous), or of a bypass bridge (die × 2 + 0 next, 1 previous; R283). -/
inductive Place where
  | row (d r : Nat) (up : Bool) (c : Nat)
  | column (d c : Nat) (up : Bool) (i : Nat)
  | port (d n : Nat)
  | bridge (k : Nat)
  | bypass (k : Nat)
  deriving DecidableEq, Repr, Inhabited

/-- Where a packet starts or ends: a core site's stop (die, column, row), or a block's crossbar port (Table 71). -/
inductive Stop where
  | site (d c r : Nat)
  | block (d n : Nat)
  deriving DecidableEq, Repr, Inhabited

/-- What a packet carries: a message for a block of this chip, a chip-bound message for the egress of a port, a transit packet or an
arrival that the bypass bridges carry to a port's die (R283, R284), or the request or the response of a DM request slot (its core, slot
and number of issue). -/
inductive Cargo where
  | msg (m : Msg)
  | egress (p : Nat) (wide : Bool) (m : Msg)
  | transit (p : Nat) (m : Msg)
  | dm (core slot seq : Nat) (resp : Bool)
  deriving DecidableEq, Repr, Inhabited

/-- A packet in the die fabric (R252): its source and destination, carriageway and half, flits, mark (R261), the place where it
stands (none while it still waits at its source), and the fabric cycles until it can go on. -/
structure Packet where
  cargo : Cargo
  src : Stop
  dst : Stop
  cw : Nat
  resp : Bool
  flits : Nat
  mark : Bool := false
  here : Option Place := none
  wait : Nat := 0
  deriving DecidableEq, Repr, Inhabited

/-- An arbiter of one output (R260): a deficit per carriageway, the carriageway whose turn it is, and the cycles for which a packet
still occupies the output. -/
structure Arb where
  deficit : List Nat := [0, 0, 0, 0, 0]
  turn : Nat := 0
  busy : Nat := 0
  deriving DecidableEq, Repr, Inhabited

/-- Telemetry of the stop that a die's TEL_SEL selects (R271). -/
structure Tel where
  flits : Nat := 0
  stall : Nat := 0
  depth : Nat := 0
  marks : Nat := 0
  deriving DecidableEq, Repr, Inhabited

/-- The die fabrics and their bridges (R251 to R262, R271): packets, those of one queue in their order there; an arbiter for each
output, into a place (false) or out of the fabric at a place (true); the column that each crossbar port uses next, by die × 128 +
port; telemetry by die; and flits injected, by die × 8 + carriageway. -/
structure Fabric where
  packets : List Packet := []
  arbs : List ((Bool × Place) × Arb) := []
  rot : SMap Nat := []
  tel : SMap Tel := []
  cwFlits : SMap Nat := []
  deriving DecidableEq, Repr, Inhabited

/-- A link port (R274 to R286). `queues` are ten egress queues: local CW0 to CW4, then transit CW0 to CW4. -/
structure Port where
  tstate : Nat := 0
  light : Bool := false
  txOff : Bool := false
  txLanes : BitVec 8 := 0
  rxLanes : BitVec 8 := 0
  txWidth : Nat := 0
  rxWidth : Nat := 0
  /-- Lanes this receiver still asks for, and lanes the far side asks of us (R282). -/
  laneReq : BitVec 8 := 0xFF
  farReq : BitVec 8 := 0xFF
  txGood : BitVec 8 := 0xFF
  widthChanging : Bool := false
  /-- A change of the transmit width that the next sequenced flit is to be marked with (R282). -/
  chgOut : Bool := false
  widthAt : Nat := 0
  qreason : Nat := 0
  nbr : Option Ident := none
  txSeq : BitVec 16 := 0
  rxSeq : BitVec 16 := 0
  lastGood : BitVec 16 := 0xFFFF
  nakOut : Bool := false
  identOut : Bool := false
  identChecked : Bool := true
  resendFrom : Option (BitVec 16) := none
  replay : List Flit := []
  sent : List Flit := []
  credits : List Nat := [360, 360, 360, 360, 360, 360, 360, 360, 360, 360]
  freed : List Nat := [0, 0, 0, 0, 0, 0, 0, 0, 0, 0]
  rxQueue : List Msg := []
  /-- A packet and whether it needs two lay-bys of credit (R286). -/
  queues : List (List (Msg × Bool)) := [[], [], [], [], [], [], [], [], [], []]
  /-- The packet that is being sent: its queue and the units of it still to send. -/
  cur : Option (Nat × Nat × Msg) := none
  /-- A local packet under way that has given way to transit in a floor slot (R285). -/
  paused : Option (Nat × Nat × Msg) := none
  deficit : List Nat := [0, 0, 0, 0, 0, 0, 0, 0, 0, 0]
  turn : Nat := 0
  slot : Nat := 0
  nakTimes : List Nat := []
  ackAt : Nat := 0
  trainAt : Nat := 0
  /-- When in-place retraining began (R277). -/
  retrainAt : Nat := 0
  retryAt : Nat := 0
  retrain : Bool := false
  /-- The odometer value plus 1 at which an IDENT flit was sent last. -/
  identAt : Nat := 0
  /-- A SYNC request to be answered: t1 and t2 (R289). -/
  syncOut : Option (Nat × Nat) := none
  lowPower : SMap Nat := []
  deriving DecidableEq, Repr, Inhabited

/-- The odometer's alignment (R289, R290). -/
structure TimeSync where
  trim : Int := 0
  halfRate : Nat := 0
  halfPhase : Bool := false
  /-- When the plan was applied last (R280). -/
  planAt : Nat := 0
  /-- Millionths of a nanosecond that the trim has gathered. -/
  frac : Int := 0
  synced : Bool := false
  onB : Bool := false
  offset : Int := 0
  lastExchange : Nat := 0
  asked : Option Quad := none
  /-- The odometer value plus 1 at which the last SYNC request left (R289). -/
  askedAt : Nat := 0
  deriving DecidableEq, Repr, Inhabited

/-- A flow entry (Table 83). -/
structure Flow where
  kind : Nat := 0
  slot : Nat := 0
  peer : Nat := 0
  expert : Nat := 0
  countIn : Bool := false
  grantIn : Bool := false
  readyIn : Bool := false
  count : Nat := 0
  base : Nat := 0
  moved : Nat := 0
  fetched : Nat := 0
  deriving DecidableEq, Repr, Inhabited

/-- An unacknowledged request of an interchange (R306): its number, slot, type, rank, local expert, row, part, route entry. Slot 16
stands for a slot that has become free since. -/
structure IxReq where
  req : Nat
  slot : Nat
  typ : Nat
  rank : Nat
  expert : Nat := 0
  row : Nat := 0
  part : Nat := 0
  route : Nat := 0
  deriving DecidableEq, Repr, Inhabited

/-- A signal that an exchange or operation has still to deliver, in order: 0 pick, 1 counts, 2 arrival, 3 sent, 4 combined,
5 done; core, milestone, increment. -/
structure SigItem where
  kind : Nat
  core : Nat
  ms : Nat
  inc : Nat
  deriving DecidableEq, Repr, Inhabited

/-- An exchange slot (R296 to R308). -/
structure IxSlot where
  armed : Bool := false
  ctx : Nat := 0
  words : List Nat := []
  peers : List Nat := []
  flowBase : Nat := 0
  phase : Nat := 0
  round : Nat := 0
  startAt : Nat := 0
  combineAt : Nat := 0
  routes : List (Nat × Nat) := []
  counted : Bool := false
  readySent : Bool := false
  /-- Row parts that have arrived, been acknowledged, served or fetched of rows not yet whole: (side, rank, expert, row, part). -/
  parts : List (Nat × Nat × Nat × Nat × Nat) := []
  sentDone : Bool := false
  arriveDone : Bool := false
  combinedDone : Bool := false
  readyIn : List Nat := []
  outRange : Nat := 0
  noRoute : Nat := 0
  dropped : Nat := 0
  /-- COUNTs refused with NO_SPACE: rank, first refusal, next attempt (R306). -/
  retries : List (Nat × Nat × Nat) := []
  sigs : List SigItem := []
  /-- The odometer value plus 1 at which the first signal last met a full queue (R303). -/
  sigAt : Nat := 0
  deriving DecidableEq, Repr, Inhabited

structure Ix where
  wins : SMap CwWin := []
  slots : SMap IxSlot := []
  flows : SMap Flow := []
  early : List Msg := []
  open_ : List IxReq := []
  /-- Requests formed and not yet sent: window, HOLD. -/
  outbox : List (IxReq × Msg) := []
  deriving DecidableEq, Repr, Inhabited

/-- A part in the resend store (R323); slot 16 holds the data of a GET served here, slot 17 what a slot that is free has left. -/
structure Resend where
  req : Nat
  slot : Nat
  msg : Msg
  fails : Nat := 0
  deriving DecidableEq, Repr, Inhabited

/-- A part that waits for its kerbside engine (R236, R318): slot, and the message that carries it. -/
structure Reduce where
  slot : Nat
  msg : Msg
  deriving DecidableEq, Repr, Inhabited

/-- A collective operation slot (R312 to R327). -/
structure ColSlot where
  armed : Bool := false
  ctx : Nat := 0
  words : List Nat := []
  peers : List Nat := []
  phase : Nat := 0
  round : Nat := 0
  step : Nat := 0
  startAt : Nat := 0
  waitAt : Nat := 0
  /-- The successor's READY has arrived, for this round and for the next. -/
  ready : Bool := false
  nextReady : Bool := false
  counts : SMap (Option Nat) := []
  sendCounts : List Nat := []
  goes : List Nat := []
  arrived : List Nat := []
  nextArrived : List Nat := []
  /-- Parts received and done: (source rank or step, offset div 64). -/
  got : List (Nat × Nat) := []
  /-- Checked parts held until their chunk is whole: step on which they go on, offset div 64, bytes. -/
  held : List (Nat × Nat × List Byte) := []
  placed : Bool := false
  released : Bool := false
  flags : BitVec 5 := 0
  droppedBytes : Nat := 0
  resent : Nat := 0
  fails : SMap Nat := []
  retries : List (Nat × Nat × Nat) := []
  sigs : List SigItem := []
  sigAt : Nat := 0
  deriving DecidableEq, Repr, Inhabited

/-- A PUT being received (R321): the chip, die and context that send it, its tag, its round and that round's start, the context
here, and the offsets of the parts accepted so far. -/
structure PutIn where
  chip : Nat
  die : Nat
  from_ : Nat
  tag : Nat
  round : Nat
  at_ : Nat
  ctx : Nat
  got : List Nat
  deriving DecidableEq, Repr, Inhabited

/-- The arrival signal of a PUT that met a full held-signal queue: context, core, milestone, last attempt, and the part that is
answered once the signal is applied or held. -/
structure PutSig where
  ctx : Nat
  core : Nat
  ms : Nat
  at_ : Nat
  msg : Msg
  deriving DecidableEq, Repr, Inhabited

/-- A control request of a collective that is not yet acknowledged: number, slot, rank, type, carriageway. -/
structure ColReq where
  req : Nat
  slot : Nat
  rank : Nat
  typ : Nat
  cw : Nat
  deriving DecidableEq, Repr, Inhabited

structure Col where
  wins : SMap CwWin := []
  slots : SMap ColSlot := []
  early : List Msg := []
  store : List Resend := []
  reduce : List Reduce := []
  /-- Messages formed and not yet sent: slot, order of priority (R318), whether it is kept in the resend store. -/
  outbox : List (Nat × Nat × Msg) := []
  open_ : List ColReq := []
  puts : List PutIn := []
  putSigs : List PutSig := []
  deriving DecidableEq, Repr, Inhabited

/-- A held signal or a replay log entry (R188, R358): core, milestone, LAST, increment, context. -/
structure Held where
  core : Nat
  ms : Nat
  last : Word
  inc : Word
  ctx : Nat
  deriving DecidableEq, Repr, Inhabited

/-- A kerbside done list entry (R239). -/
structure Done where
  ctx : Nat
  slot : Nat
  seq : Nat
  desc : Nat
  block : Nat
  finished : Bool := false
  /-- What the share's status word gathers (R233, R234). -/
  flags : BitVec 5 := 0
  range : Bool := false
  deriving DecidableEq, Repr, Inhabited

/-- A kerbside engine (R222 to R241). -/
structure Kerb where
  sb : Nat := 0
  /-- Requests waiting for a reservation (R253): core and request slot. -/
  resv : List (Nat × Nat) := []
  resTimes : List Nat := []
  done : List Done := []
  stepAt : Option Nat := none
  /-- From which list on, as 4 × context + slot, the next block step is chosen (R226). -/
  turn : Nat := 0
  wins : SMap CwWin := []
  deriving DecidableEq, Repr, Inhabited

/-- A core site (R16 to R22, R361, R374). Role 0 DEFECTIVE, 1 PLACED, 2 HARD_SHOULDER. -/
structure Site where
  role : Nat
  jcap : Bool
  lrMap : BitVec 16
  opMap : BitVec 8
  logical : Nat
  testing : Bool := false
  standIn : Bool := false
  faults : List Nat := []
  kat : Nat := 0
  /-- Its logical core is to leave it: a test failed or its core reset overran, and the substitution has still to run (R357, R362). -/
  failed : Bool := false
  /-- Counters of the site's engines (R87, R107, R148, R441), keyed by core page offset. -/
  regs : SMap Word := []
  deriving DecidableEq, Repr, Inhabited

/-- A known-answer test in progress (R364): site, why (0 rotation in place, 1 under a stand-in, 2 replay, 3 hang, 4 forced),
the logical core concerned, start. -/
structure Test where
  site : Nat
  why : Nat
  core : Nat
  start : Nat
  deriving DecidableEq, Repr, Inhabited

/-- A stand-in move in progress (R365): logical core, site left, site entered, 0 outward for a test, 1 back. -/
structure Move where
  core : Nat
  src : Nat
  dst : Nat
  why : Nat
  start : Nat
  deriving DecidableEq, Repr, Inhabited

/-- A shadow run (R367): core, its site's CRC so far and whether its pass has ended, first and second shadow sites. -/
structure ShadowRun where
  core : Nat
  ctx : Nat
  pass : Nat
  crc : Word
  ended : Bool := false
  /-- The site that ran the pass. -/
  site0 : Nat
  site1 : Nat
  crc1 : Option Word := none
  site2 : Option Nat := none
  /-- When the run that is under way on a shadow site began (R378). -/
  at_ : Nat := 0
  deriving DecidableEq, Repr, Inhabited

/-- Fault hiding (chapter 18). -/
structure Hide where
  tests : List Test := []
  moves : List Move := []
  shadows : List ShadowRun := []
  /-- Rotation position per die, and the sites that a die tests again before any other (R436). -/
  rotation : SMap Nat := []
  first : SMap (List Nat) := []
  /-- Sites whose substitution waits for a die control processor, in the order of the requests (R363, R382). -/
  waits : List Nat := []
  lastStart : SMap Nat := []
  /-- Times of shared-logic events, of field defects and of split votes, per die (R361). -/
  shared : SMap (List Nat) := []
  defects : SMap (List Nat) := []
  splits : SMap (List Nat) := []
  katFailed : List (Nat × Nat × Nat) := []
  draining : Bool := false
  drainAt : Nat := 0
  drainPage : Nat := 0
  drainDone : Bool := false
  deriving DecidableEq, Repr, Inhabited

/-- A reset in progress (R376, R383). -/
structure Reset where
  dom : Domain
  start : Nat
  /-- Half the budget has passed: no request waits at the roadblock any more. -/
  half : Bool := false
  /-- The site is tested after the reset (R385). -/
  test : Bool := false
  /-- The partition whose PARTITION reset this core reset belongs to (R389). -/
  part : Option Nat := none
  deriving DecidableEq, Repr, Inhabited

/-- Hangs, resets and the watchdog (chapter 19). -/
structure Hang where
  resets : List Reset := []
  epochs : SMap Nat := []
  dstate : SMap Nat := []
  /-- When a die control processor polled last (R379), and when each source's watchdog window began (R382). -/
  polls : SMap Nat := []
  windows : SMap Nat := []
  beats : SMap Nat := []
  beaten : SMap Bool := []
  misses : SMap Nat := []
  restartAt : SMap (Option Nat) := []
  fault : Option (Nat × Nat × Nat × Nat) := none
  faultTime : Nat := 0
  deriving DecidableEq, Repr, Inhabited

/-- A comparator (R404). -/
structure Comparator where
  en : Bool := false
  fired : Bool := false
  wake : Bool := false
  arg : Quad := 0
  firedAt : Nat := 0
  owner : Option (Nat × Nat) := none
  /-- The condition under which it last fired still holds, so it fires no second time. -/
  met : Bool := false
  /-- One past the odometer value since which the input has lain outside the VIN comparator's range; 0: inside. -/
  holdAt : Nat := 0
  deriving DecidableEq, Repr, Inhabited

/-- Module power states (Table 110). RUN and IDLE are told apart by resident contexts. -/
inductive PState where
  | off | on | doze | dormant
  deriving DecidableEq, Repr, Inhabited

/-- Who asked for a change of power state: a POWER_OFF post with its context, the mailbox, or a comparator's wake. -/
inductive PowReq where
  | post (c : Nat) (r : PostRef)
  | mailbox
  | wake
  deriving DecidableEq, Repr, Inhabited

/-- Power and cooling (chapter 20). Readings are in quarter degrees; energy in 0.1 W · ns. -/
structure Power where
  state : PState := .off
  entering : Option PowReq := none
  leaving : Option PowReq := none
  cap : Nat := 1600
  /-- One past the odometer value at which the last cap command was applied (0: none), and the cap before that value (R397). -/
  capAt : Nat := 0
  capWas : Nat := 1600
  limitSrc : Nat := 0
  effCap : Nat := 1600
  vIn : Nat := 0
  pIn : Nat := 0
  iIn : Nat := 0
  other : Nat := 0
  diePower : List Nat := [0, 0, 0, 0]
  pool : List Nat := [0, 0, 0, 0]
  dieStep : List Nat := [0, 0, 0, 0]
  chanLimit : Nat := 16
  ceiling : List Nat := [64, 64, 64, 64]
  junction : List Nat := []
  hub : List Nat := []
  stackT : List Nat := []
  excluded : List Nat := []
  sensorRuns : SMap Nat := []
  stackRuns : SMap Nat := []
  throttleAt : Option Nat := none
  energy : Nat := 0
  measuredAt : Nat := 0
  lastStop : Nat := 0
  tripped : Bool := false
  heldWake : Bool := false
  vinLowAt : Option Nat := none
  monitorAt : Option Nat := none
  /-- The lower reading of the two input monitors, while QPC uses it (R437). -/
  vinUse : Option Nat := none
  perst : Bool := true
  comps : SMap Comparator := []
  cmpSel : Nat := 0
  cmpSelMgmt : Nat := 0
  /-- Islands that have left gating lately: die and time (R400). -/
  released : List (Nat × Nat) := []
  deriving DecidableEq, Repr, Inhabited

/-- Bring-up (chapter 21). Phase codes as Table 115. -/
structure Boot where
  phase : Nat := 0
  ready : Bool := false
  code : Nat := 0
  failUnit : Nat := 0
  straps : Nat := 0
  fwVersion : Word := 0
  fwFails : Nat := 0
  readyAt : Nat := 0
  bootAt : Nat := 0
  phaseAt : Nat := 0
  accepted : Bool := false
  buffer : SMap Byte := []
  verifying : Option (Nat × PostRef × Nat) := none
  bridgesDone : List Nat := []
  zeroDone : Bool := false
  startDone : Bool := false
  testDone : Bool := false
  /-- The accepted image in the reserved frames, and the sites that did not receive its core firmware (R418). -/
  image : SMap Byte := []
  fwFailed : List Nat := []
  /-- When the BYPASS rails came up, training began, and the bring-up test ended. -/
  railsAt : Nat := 0
  trainAt : Nat := 0
  testAt : Nat := 0
  deriving DecidableEq, Repr, Inhabited

/-- The non-volatile record beside sites and signposts (R412, R430). -/
structure Record where
  replace : Bool := false
  cause : Nat := 0
  /-- The atlas differs from the one at the last READY (R420). -/
  atlasDirty : Bool := false
  lcState : Nat := 2
  lcCount : Nat := 0
  pending : Bool := false
  pendingState : Nat := 0
  certLen : Nat := 0
  cert : SMap Word := []
  identity : Nat := 0
  deriving DecidableEq, Repr, Inhabited

/-- An ATTEST post being served (R428). -/
structure Attest where
  ctx : Nat
  ref : PostRef
  report : Nat
  nonce : List Byte
  deriving DecidableEq, Repr, Inhabited

/-- QSC (chapter 22). -/
structure Qsc where
  token : SMap Word := []
  tokenSel : Nat := 0
  target : Nat := 0
  busy : Bool := false
  code : Nat := 0
  fwValid : Bool := false
  fwKey : Nat := 0
  fwDigest : List Word := []
  keyGen : SMap Nat := []
  attests : List Attest := []
  deriving DecidableEq, Repr, Inhabited

/-- A trace record waiting in a buffer's queue (R443): TARGET, context, odometer, payload words. -/
structure TraceRec where
  target : Nat
  ctx : Nat
  odo : Nat
  payload : List Nat
  /-- Records were dropped before this one. -/
  lost : Bool := false
  /-- The source that the buffer traced when the event was. -/
  source : Nat := 0
  deriving DecidableEq, Repr, Inhabited

/-- A trace buffer (R442 to R446). -/
structure Trace where
  ctl : Word := 0
  /-- The partition that took the buffer. -/
  part : Nat := 0
  active : Bool := false
  full : Bool := false
  /-- Stopped with a code: no record is accepted until the next enable. -/
  stopped : Bool := false
  code : Nat := 0
  written : Nat := 0
  queue : List TraceRec := []
  events : Nat := 0
  /-- When the enable, or the last sample of fabric telemetry, was (SOURCE 0x5, R442). -/
  sampledAt : Nat := 0
  lost : Bool := false
  /-- When the enable was last cleared: a stop of the same cycle is recorded (R445). -/
  clearedAt : Option Nat := none
  deriving DecidableEq, Repr, Inhabited

/-- The management interface (chapter 24). -/
structure Mgmt where
  dynAddr : Nat := 0
  alertEn : Bool := false
  alertSel : BitVec 8 := 0
  alertPend : BitVec 7 := 0
  alertLow : Bool := false
  req : List Byte := []
  resp : List Byte := []
  respValid : Bool := false
  busy : Bool := false
  busyAt : Nat := 0
  rejCode : Nat := 0
  /-- Whether the last private transfer was acknowledged to its end, and the bytes it read (R455). -/
  acked : Bool := false
  out : List Byte := []
  deriving DecidableEq, Repr, Inhabited

/-- A base address register of a function: its number, bits of address, size in bytes, and whether it is prefetchable (R333). -/
structure Bar where
  num : Nat
  bits : Nat
  size : Nat
  prefetchable : Bool
  deriving DecidableEq, Repr, Inhabited

/-- PCIe capabilities (Table 94). -/
inductive PciCap where
  | pciExpress | powerManagement | msiX | srIov | aer | acs | deviceSerialNumber | dataLinkFeature
  | physicalLayer (gt : Nat)
  | laneMargining
  deriving DecidableEq, Repr, Inhabited

/-- What the PCIe endpoint presents in configuration space (R332, R333); nothing changes it. Its link registers stand on its page. -/
structure Endpoint where
  classCode : Nat := 0x120000
  totalVfs : Nat := 15
  firstVfOffset : Nat := 1
  vfStride : Nat := 1
  ari : Bool := true
  rates : List Nat := [128, 64, 32]
  widths : List Nat := [16, 8, 4]
  caps : List PciCap := [.pciExpress, .powerManagement, .msiX, .srIov, .aer, .acs, .deviceSerialNumber, .dataLinkFeature,
    .physicalLayer 32, .physicalLayer 64, .physicalLayer 128, .laneMargining]
  /-- Power states of every function: D0 and D3hot. -/
  powerStates : List Nat := [0, 3]
  maxPayload : Nat := 512
  msixVectors : Nat := 8
  bars : List Bar := [⟨0, 64, 2 ^ 26, false⟩, ⟨2, 64, 2 ^ 24, false⟩, ⟨4, 64, 2 ^ 36, true⟩]
  deriving DecidableEq, Repr, Inhabited

/-- The whole module, and the queue of commands that wait. -/
structure State where
  pending : List Instr := []
  odometer : Nat := 0
  /-- The model's own counter behind fresh free values; no rule of the spec. -/
  fresh : Nat := 0
  pages : SMap Page := []
  cores : SMap Core := []
  ctxs : SMap Ctx := []
  corePart : SMap Nat := []
  parts : SMap Part := []
  hostLog : List HostWrite := []
  rdata : Word := 0
  bar4 : Bar4 := .none
  endpoint : Endpoint := {}
  /-- BAR4 accesses, and writes of blocks, that wait for their channels (R211, R223). -/
  bar4Q : List Bar4Acc := []
  late : List LateWrite := []
  hbm : SMap Byte := []
  seals : SMap (Option Nat) := []
  poison : SMap Bool := []
  fm : FrameMap := {}
  hbmStacks : SMap Stack := []
  rlcs : SMap Rlc := []
  kerbs : SMap Kerb := []
  routes : SMap Route := []
  bridges : SMap Bridge := []
  ports : SMap Port := []
  time : TimeSync := {}
  /-- Messages that have reached the block they are for, which takes them by an arrival command. -/
  net : List Msg := []
  fabric : Fabric := {}
  outs : List OutReq := []
  nextReq : Nat := 0
  armSeq : Nat := 0
  ixs : SMap Ix := []
  cols : SMap Col := []
  heldQ : SMap (List Held) := []
  replayLog : SMap (List Held) := []
  sites : SMap Site := []
  signpost : SMap Nat := []
  home : SMap Nat := []
  hide : Hide := {}
  hang : Hang := {}
  power : Power := {}
  boot : Boot := {}
  record : Record := {}
  qsc : Qsc := {}
  traces : SMap Trace := []
  mgmt : Mgmt := {}
  deriving DecidableEq, Repr, Inhabited

/-- The module before power-up: every field at its reset value. Comparator 7 is enabled at power-up (R404). Reset values
the spec does not give are listed in notes/assumptions/1.md. -/
def State.reset : State :=
  { power := { comps := [(7, { en := true, wake := true, arg := 1, owner := some (0, 3) })] } }

end Sys2Proof.Machine
end

