-- ==== Sys2Proof/Machine/Ops.lean ====
section
/-!
DEFINITION. Named operations over keyed data, bytes, pages, notices and posts, which every meaning shares.
-/
namespace Sys2Proof.Machine

/-- The outcome of every command that completes. -/
abbrev Result := Host.Outcome State Fault Refusal

/-! ### Keyed data -/

/-- What a key holds; `d` where it is unlisted. -/
def look {α : Type} (m : SMap α) (k : Nat) (d : α) : α :=
  match m with
  | [] => d
  | (a, v) :: t => if a = k then v else look t k d

/-- The map with one key written, keys kept rising. -/
def store {α : Type} (m : SMap α) (k : Nat) (v : α) : SMap α :=
  match m with
  | [] => [(k, v)]
  | (a, x) :: t =>
    if k = a then (k, v) :: t
    else if k < a then (k, v) :: (a, x) :: t
    else (a, x) :: store t k v

/-- The map without a key. -/
def drop1 {α : Type} (m : SMap α) (k : Nat) : SMap α := m.filter (fun e => e.1 != k)

/-- A byte memory with one byte written; the value an unlisted byte reads as removes the entry. -/
def storeByte (m : SMap Byte) (k : Nat) (v : Byte) : SMap Byte :=
  if v = 0 then drop1 m k else store m k v

/-- One byte of a byte memory; an unlisted byte reads 0 (notes/assumptions/2.md, 3.md). -/
def loadByte (m : SMap Byte) (k : Nat) : Byte := look m k 0

/-- `n` bytes from `a` upward. -/
def loadBytes (m : SMap Byte) (a n : Nat) : List Byte := (List.range n).map (fun i => loadByte m (a + i))

/-- Bytes written from `a` upward. -/
def storeBytes (m : SMap Byte) (a : Nat) (l : List Byte) : SMap Byte :=
  match l with
  | [] => m
  | b :: t => storeBytes (storeByte m a b) (a + 1) t

/-- The bytes of [a, a + n) cleared. -/
def clearBytes (m : SMap Byte) (a n : Nat) : SMap Byte := m.filter (fun e => e.1 < a || a + n ≤ e.1)

/-- The bytes of [a, a + n), renumbered from 0. -/
def sliceBytes (m : SMap Byte) (a n : Nat) : SMap Byte :=
  (m.filter (fun e => a ≤ e.1 && e.1 < a + n)).map (fun e => (e.1 - a, e.2))

/-- [a, a + n) replaced by a block of bytes numbered from 0. -/
def pasteBytes (m : SMap Byte) (a n : Nat) (b : SMap Byte) : SMap Byte :=
  (m.filter (fun e => e.1 < a)) ++
    ((b.filter (fun e => e.1 < n)).map (fun e => (e.1 + a, e.2))) ++ (m.filter (fun e => a + n ≤ e.1))

/-- The canonical form of a byte memory: addresses strictly rising from `lo`, no entry 0. -/
def memoryWf (lo : Nat) (m : SMap Byte) : Bool :=
  match m with
  | [] => true
  | (a, v) :: t => decide (lo ≤ a) && decide (v ≠ 0) && memoryWf (a + 1) t

/-- A byte memory is in its canonical form. -/
def Memory.wf (m : SMap Byte) : Bool := memoryWf 0 m

/-! ### Bytes and numbers -/

/-- The little-endian number of a byte list. -/
def leNat (l : List Byte) : Nat :=
  match l with
  | [] => 0
  | b :: t => b.toNat + 256 * leNat t

/-- `n` little-endian bytes of a number. -/
def leBytes (n v : Nat) : List Byte := (List.range n).map (fun i => BitVec.ofNat 8 (v / 2 ^ (8 * i)))

/-- The number in bytes [a, a + n) of a byte list. -/
def numAt (l : List Byte) (a n : Nat) : Nat := leNat ((l.drop a).take n)

/-- The number in bytes [a, a + n) of a byte memory. -/
def memNum (m : SMap Byte) (a n : Nat) : Nat := leNat (loadBytes m a n)

/-- A list read at an index, 0 beyond its end. -/
def nth (l : List Nat) (i : Nat) : Nat := l.getD i 0

/-- A list with one place written. -/
def setNth {α : Type} (l : List α) (i : Nat) (v : α) : List α := l.set i v

/-- Two's complement reading of the low n bits. -/
def sext (n v : Nat) : Int := if v % 2 ^ n < 2 ^ (n - 1) then (v % 2 ^ n : Nat) else (v % 2 ^ n : Nat) - (2 ^ n : Nat)

/-- A Bool as a bit. -/
def bit (b : Bool) : Nat := if b then 1 else 0

def ceilDiv (a b : Nat) : Nat := (a + b - 1) / b

/-- Addition that stops at 0xFFFF_FFFF. -/
def sat32 (v n : Nat) : Nat := min (v + n) 0xFFFFFFFF

/-- Error codes (R11). -/
inductive Code where
  | done | badField | reservedSet | wrongState | held | notOwner | lifecycle | align | noSpace | busy | timedOut
  | fenced | checkFailed | signature | absent | sequence
  deriving DecidableEq, Repr, Inhabited

def Code.num (c : Code) : Nat :=
  match c with
  | .done => 0x00 | .badField => 0x01 | .reservedSet => 0x02 | .wrongState => 0x03 | .held => 0x04
  | .notOwner => 0x05 | .lifecycle => 0x06 | .align => 0x07 | .noSpace => 0x08 | .busy => 0x09
  | .timedOut => 0x0A | .fenced => 0x0B | .checkFailed => 0x0C | .signature => 0x0D | .absent => 0x0E
  | .sequence => 0x0F

/-- The first code of R36's order among the checks that fail. -/
def firstFail (l : List (Bool × Code)) : Option Code :=
  let order : List Code := [.align, .notOwner, .lifecycle, .fenced, .absent, .reservedSet, .badField, .wrongState,
    .sequence, .busy, .held, .noSpace, .checkFailed, .signature]
  order.find? (fun c => l.any (fun e => e.1 && e.2 == c))

/-- The first check that fails, in the order listed. -/
def inOrder (l : List (Bool × Code)) : Option Code := (l.find? (fun e => e.1)).map (fun e => e.2)

/-! ### The state's parts -/

/-- Logical core n is a junction core when n mod 16 = 15 (R88). -/
def isJunction (n : Nat) : Bool := n % 16 == 15

def dieOfCore (n : Nat) : Nat := n / 1024
def dieOfStack (k : Nat) : Nat := k / 3
def dieOfChan (k : Nat) : Nat := k / 48
def dieOfPort (p : Nat) : Nat := p / 8

/-- A site identifier of R16 exists. -/
def siteOk (n : Nat) : Bool := fieldOf n 8 6 < 40 && fieldOf n 0 5 < 30 && fieldOf n 5 3 == 0 && n < 65536

/-- Place of a site on its die, column by column. -/
def siteIndex (n : Nat) : Nat := fieldOf n 8 6 * 30 + fieldOf n 0 5
def siteAt (die i : Nat) : Nat := die * 16384 + (i / 30) * 256 + i % 30

/-- The floor plan of a part that the state lists nothing for (notes/assumptions/4.md): on each die sites 0 to 1,023 in
column order carry the die's logical cores, the next 32 are the hard shoulder, the rest are defective. -/
def planSite (n : Nat) : Site :=
  let i := siteIndex n
  let die := n / 16384
  if i < 1024 then
    { role := 1, jcap := isJunction i, lrMap := 0xFFFF, opMap := if isJunction i then 0xFF else 0,
      logical := die * 1024 + i }
  else if i < 1056 then
    { role := 2, jcap := decide (i < 1028), lrMap := 0xFFFF, opMap := if i < 1028 then 0xFF else 0, logical := 0 }
  else { role := 0, jcap := decide (i < 1060), lrMap := 0, opMap := 0, logical := 0 }

def planSignpost (core : Nat) : Nat := siteAt (core / 1024) (core % 1024)

def getPage (s : State) (k : Nat) : Page := look s.pages k {}
def setPage (s : State) (k : Nat) (x : Page) : State := { s with pages := store s.pages k x }
def modPage (s : State) (k : Nat) (f : Page → Page) : State := setPage s k (f (getPage s k))
def getCore (s : State) (k : Nat) : Core := look s.cores k {}
def setCore (s : State) (k : Nat) (x : Core) : State := { s with cores := store s.cores k x }
def modCore (s : State) (k : Nat) (f : Core → Core) : State := setCore s k (f (getCore s k))
def getCtx (s : State) (k : Nat) : Ctx := look s.ctxs k {}
def setCtx (s : State) (k : Nat) (x : Ctx) : State := { s with ctxs := store s.ctxs k x }
def modCtx (s : State) (k : Nat) (f : Ctx → Ctx) : State := setCtx s k (f (getCtx s k))
def getPart (s : State) (k : Nat) : Part := look s.parts k {}
def setPart (s : State) (k : Nat) (x : Part) : State := { s with parts := store s.parts k x }
def modPart (s : State) (k : Nat) (f : Part → Part) : State := setPart s k (f (getPart s k))
def getStack (s : State) (k : Nat) : Stack := look s.hbmStacks k {}
def setStack (s : State) (k : Nat) (x : Stack) : State := { s with hbmStacks := store s.hbmStacks k x }
def modStack (s : State) (k : Nat) (f : Stack → Stack) : State := setStack s k (f (getStack s k))
def getRlc (s : State) (k : Nat) : Rlc := look s.rlcs k {}
def setRlc (s : State) (k : Nat) (x : Rlc) : State := { s with rlcs := store s.rlcs k x }
def getKerb (s : State) (k : Nat) : Kerb := look s.kerbs k {}
def setKerb (s : State) (k : Nat) (x : Kerb) : State := { s with kerbs := store s.kerbs k x }
def modKerb (s : State) (k : Nat) (f : Kerb → Kerb) : State := setKerb s k (f (getKerb s k))
def getRoute (s : State) (k : Nat) : Route := look s.routes k {}
def setRoute (s : State) (k : Nat) (x : Route) : State := { s with routes := store s.routes k x }
/-- A bridge the state lists nothing for has every slice in use and no spare wire used (notes/assumptions/4.md). -/
def planBridge (k : Nat) : Bridge := { sliceMap := if k % 3 == 2 then 0xF else 0xFFFFF }
/-- Bridges are numbered die × 3 + 0 next, 1 previous, 2 hub. -/
def getBridge (s : State) (k : Nat) : Bridge := look s.bridges k (planBridge k)
def setBridge (s : State) (k : Nat) (x : Bridge) : State := { s with bridges := store s.bridges k x }
def getPort (s : State) (k : Nat) : Port := look s.ports k {}
def setPort (s : State) (k : Nat) (x : Port) : State := { s with ports := store s.ports k x }
def modPort (s : State) (k : Nat) (f : Port → Port) : State := setPort s k (f (getPort s k))
def getTel (s : State) (d : Nat) : Tel := look s.fabric.tel d {}
def setTel (s : State) (d : Nat) (x : Tel) : State := { s with fabric := { s.fabric with tel := store s.fabric.tel d x } }
def getIx (s : State) (d : Nat) : Ix := look s.ixs d {}
def setIx (s : State) (d : Nat) (x : Ix) : State := { s with ixs := store s.ixs d x }
def getCol (s : State) (d : Nat) : Col := look s.cols d {}
def setCol (s : State) (d : Nat) (x : Col) : State := { s with cols := store s.cols d x }
def getSite (s : State) (n : Nat) : Site := look s.sites n (planSite n)
def setSite (s : State) (n : Nat) (x : Site) : State := { s with sites := store s.sites n x }
def modSite (s : State) (n : Nat) (f : Site → Site) : State := setSite s n (f (getSite s n))
def getTrace (s : State) (k : Nat) : Trace := look s.traces k {}
def setTrace (s : State) (k : Nat) (x : Trace) : State := { s with traces := store s.traces k x }

/-- The site that a logical core's page reaches (R19, R374). -/
def siteOf (s : State) (core : Nat) : Nat := look s.signpost core (planSignpost core)
/-- The site that the atlas assigns to a logical core. -/
def homeOf (s : State) (core : Nat) : Nat := look s.home core (planSignpost core)
def coreSite (s : State) (core : Nat) : Site := getSite s (siteOf s core)

def popcount (w : Nat) (n : Nat) : Nat := ((List.range n).filter (fun i => bitOf w i)).length
/-- w of a site: 8 lanes for each physical group in use (R76). -/
def lrWidth (x : Site) : Nat := 8 * popcount x.lrMap.toNat 16
/-- c of a site: 4 columns for each group in use (R100). -/
def opColumns (x : Site) : Nat := 4 * popcount x.opMap.toNat 8
/-- The OP width that a logical core's page reports: 0 unless it is a junction core (R20). -/
def opWidth (s : State) (core : Nat) : Nat := if isJunction core then opColumns (coreSite s core) else 0

/-- Partition of a logical core; partition 0 at power-up (R333). -/
def partOfCore (s : State) (core : Nat) : Nat := look s.corePart core 0

/-! ### Pages -/

def pgPcie : Nat := 0
def pgPost : Nat := 1
def pgQpc : Nat := 2
def pgQsc : Nat := 3
def pgQmc : Nat := 4
def pgAon : Nat := 5
def pgOdo : Nat := 6
def pgTrace (i : Nat) : Nat := 7 + i
def pgAtlas : Nat := 11
def pgCore (n : Nat) : Nat := 0x1000 + n
def pgDie (d i : Nat) : Nat := 0x2000 + d * 0x100 + i
def pgFabric (d : Nat) : Nat := pgDie d 0
/-- Bridge k = die × 3 + index. -/
def pgBridge (k : Nat) : Nat := pgDie (k / 3) (1 + k % 3)
def pgIx (d : Nat) : Nat := pgDie d 4
def pgCol (d : Nat) : Nat := pgDie d 5
def pgRlc (d : Nat) : Nat := pgDie d 6
def pgCtl (d : Nat) : Nat := pgDie d 7
def pgBypass (p : Nat) : Nat := pgDie (p / 8) (8 + p % 8)
def pgKerb (k : Nat) : Nat := 0x3000 + k
def pgHbm (k : Nat) : Nat := 0x3400 + k
def pgPort (p : Nat) : Nat := 0x3800 + p

/-- The blocks that have a page (Table 13). -/
inductive Blk where
  | pcie | post | qpc | qsc | qmc | aon | odo | trace (i : Nat) | atlas | core (n : Nat) | fabric (d : Nat)
  | bridge (k : Nat) | ix (d : Nat) | col (d : Nat) | rlc (d : Nat) | ctl (d : Nat) | bypass (p : Nat) | kerb (k : Nat)
  | hbm (k : Nat) | port (p : Nat)
  deriving DecidableEq, Repr, Inhabited

/-- The block at a page number (BAR0 offset div 4,096), Table 14. -/
def blkOf (k : Nat) : Option Blk :=
  if k < 12 then
    ([.pcie, .post, .qpc, .qsc, .qmc, .aon, .odo, .trace 0, .trace 1, .trace 2, .trace 3, .atlas] : List Blk)[k]?
  else if 0x1000 ≤ k ∧ k < 0x2000 then some (.core (k - 0x1000))
  else if 0x2000 ≤ k ∧ k < 0x2400 then
    let d := (k - 0x2000) / 0x100
    let i := (k - 0x2000) % 0x100
    if i = 0 then some (.fabric d) else if i < 4 then some (.bridge (d * 3 + (i - 1)))
    else if i = 4 then some (.ix d) else if i = 5 then some (.col d) else if i = 6 then some (.rlc d)
    else if i = 7 then some (.ctl d) else if i < 16 then some (.bypass (d * 8 + (i - 8))) else none
  else if 0x3000 ≤ k ∧ k < 0x30C0 then some (.kerb (k - 0x3000))
  else if 0x3400 ≤ k ∧ k < 0x340C then some (.hbm (k - 0x3400))
  else if 0x3800 ≤ k ∧ k < 0x3820 then some (.port (k - 0x3800))
  else none

/-- BLK_ID TYPE and INSTANCE (Table 13). -/
def blkType (b : Blk) : Nat × Nat :=
  match b with
  | .core n => (0x01, n) | .kerb k => (0x02, k) | .hbm k => (0x03, k) | .port p => (0x04, p)
  | .fabric d => (0x10, d * 16) | .bridge k => (0x11, (k / 3) * 16 + k % 3) | .bypass p => (0x12, p)
  | .ix d => (0x13, d * 16) | .col d => (0x14, d * 16) | .rlc d => (0x15, d * 16) | .ctl d => (0x16, d * 16)
  | .pcie => (0x20, 0) | .post => (0x21, 0) | .qpc => (0x22, 0) | .qsc => (0x23, 0) | .qmc => (0x24, 0)
  | .aon => (0x25, 0) | .odo => (0x26, 0) | .trace i => (0x27, i) | .atlas => (0x28, 0)

/-- Reset values other than 0 of registers that stand in `Page.regs` (R219, R220, R271, R294, R391). -/
def regReset (pg off : Nat) : Nat :=
  match blkOf pg with
  | some (.hbm k) => if off = 0x044 then 0x118 else if off = 0x100 ∧ k = 0 then 32 else 0
  | some (.fabric d) =>
    if off = 0x040 then nth [0x10, 0x40, 0x01, 0x04] d
    else if off = 0x044 then 0x40404020
    else if off = 0x048 then 0x10
    else if off = 0x04C then 0x112
    else 0
  | some (.bypass _) => if off = 0x040 then 0x40404020 else if off = 0x044 then 0x10 else 0
  | some .aon => if off = 0x058 then 1000 else 0
  | _ => 0

/-- A stored register of a page; an unlisted one holds its reset value. -/
def regOf (s : State) (pg off : Nat) : Nat := (look (getPage s pg).regs off (BitVec.ofNat 32 (regReset pg off))).toNat
def setReg (s : State) (pg off v : Nat) : State :=
  modPage s pg (fun x => { x with regs := store x.regs off (BitVec.ofNat 32 v) })
/-- A 32-bit counter that stops at 0xFFFF_FFFF. -/
def bump32 (s : State) (pg off n : Nat) : State := setReg s pg off (sat32 (regOf s pg off) n)
def reg64 (s : State) (pg off : Nat) : Nat := regOf s pg off + 2 ^ 32 * regOf s pg (off + 4)
def setReg64 (s : State) (pg off v : Nat) : State :=
  setReg (setReg s pg off (v % 2 ^ 32)) pg (off + 4) (v / 2 ^ 32 % 2 ^ 32)
/-- A 64-bit counter that wraps. -/
def bump64 (s : State) (pg off n : Nat) : State := setReg64 s pg off (reg64 s pg off + n)
/-- The header counters (R42). -/
def addCorrected (s : State) (pg n : Nat) : State := modPage s pg (fun x => { x with errCorrected := sat32 x.errCorrected n })
def addUncorrected (s : State) (pg n : Nat) : State :=
  modPage s pg (fun x => { x with errUncorrected := sat32 x.errUncorrected n })
def addEvent (s : State) (pg n : Nat) : State := modPage s pg (fun x => { x with events := sat32 x.events n })
/-- A tie is counted in TIE_COUNT (R193). Two things at one odometer value fall into one cycle (notes/assumptions/11.md). -/
def addTie (s : State) (pg : Nat) : State := modPage s pg (fun x => { x with ties := sat32 x.ties 1 })

/-- Counters of the engines of a core belong to the site that its page reaches (R87, R107, R148). -/
def siteReg (s : State) (core off : Nat) : Nat := (look (coreSite s core).regs off 0).toNat
def setSiteReg (s : State) (core off v : Nat) : State :=
  modSite s (siteOf s core) (fun x => { x with regs := store x.regs off (BitVec.ofNat 32 v) })
def siteBump32 (s : State) (core off n : Nat) : State := setSiteReg s core off (sat32 (siteReg s core off) n)
def siteBump64 (s : State) (core off n : Nat) : State :=
  let v := siteReg s core off + 2 ^ 32 * siteReg s core (off + 4) + n
  setSiteReg (setSiteReg s core off (v % 2 ^ 32)) core (off + 4) (v / 2 ^ 32 % 2 ^ 32)

/-- A number for each domain instance. -/
def domKey (x : Domain) : Nat :=
  match x with
  | .engine c e => 2 ^ 16 + c.val * 8 + e.val | .core c => 2 ^ 17 + c | .kerb k => 2 ^ 18 + k | .port p => 2 ^ 19 + p
  | .bypass d => 2 ^ 20 + d | .die d => 2 ^ 20 + 8 + d | .fullDie d => 2 ^ 20 + 16 + d | .hub => 2 ^ 20 + 24

/-- The number of a partition's PARTITION domain, which issues no request of its own: its cores' resets advance their own epochs (R389). -/
def partKey (p : Nat) : Nat := 2 ^ 20 + 32 + p

/-- The domain instances whose reset resets an instance: itself and those around it (Table 105). -/
def domAround (x : Domain) : List Nat :=
  let die := fun (d : Nat) => [2 ^ 20 + 8 + d, 2 ^ 20 + 16 + d]
  match x with
  | .engine c _ => [domKey x, domKey (.core c)] ++ die (dieOfCore c)
  | .core c => [domKey x] ++ die (dieOfCore c)
  | .kerb k => domKey x :: die (dieOfChan k)
  | .port p => [domKey x, 2 ^ 20 + dieOfPort p, 2 ^ 20 + 16 + dieOfPort p]
  | .bypass d => [domKey x, 2 ^ 20 + 16 + d.val]
  | .die d => [domKey x, 2 ^ 20 + 16 + d.val]
  | .fullDie _ => [domKey x]
  | .hub => [domKey x]

/-- The 8-bit epoch of a domain instance, which advances at each of its resets: `epochs` counts the resets that name a domain, and a
reset of a larger one is one of every instance inside it (R375, R377). -/
def epochOf (s : State) (x : Domain) : Nat := ((domAround x).map (fun k => look s.hang.epochs k 0)).sum % 256

/-- A reset of a domain counts in its epoch. -/
def bumpEpoch (s : State) (k : Nat) : State :=
  { s with hang := { s.hang with epochs := store s.hang.epochs k ((look s.hang.epochs k 0 + 1) % 256) } }

/-- The epoch of the engine that issues a request of a core (R377). -/
def epochTag (s : State) (core eng : Nat) : Nat := epochOf s (.engine (Fin.ofNat 4096 core) (Fin.ofNat 6 eng))

/-- The fabric of a die is up: not fenced, in reset, returning or lost (R387, R392). -/
def dieUp (s : State) (d : Nat) : Bool := look s.hang.dstate d 0 == 0

/-- The die of a block that lies on a die fabric: everything of a compute die but its ports and bypass routers (R375). -/
def fabricDie (b : Blk) : Option Nat :=
  match b with
  | .core n => some (n / 1024) | .fabric d => some d | .bridge k => some (k / 3) | .ix d => some d | .col d => some d
  | .rlc d => some d | .ctl d => some d | .kerb k => some (k / 48) | .hbm k => some (k / 3)
  | _ => none

/-- The die of a block in a die's BYPASS domain. -/
def bypassDie (b : Blk) : Option Nat :=
  match b with
  | .port p => some (p / 8) | .bypass p => some (p / 8) | _ => none

/-- A reset domain holds a block that has a page (Table 105). -/
def domCovers (x : Domain) (b : Blk) : Bool :=
  match x with
  | .engine _ _ => false
  | .core c => b == .core c.val
  | .kerb k => b == .kerb k.val
  | .port p => b == .port p.val
  | .bypass d => bypassDie b == some d.val
  | .die d => fabricDie b == some d.val
  | .fullDie d => fabricDie b == some d.val || bypassDie b == some d.val
  | .hub => b == .pcie || b == .post || b == .qpc || b == .qsc || b == .qmc

/-- A roadblock stands on a block's domain edge while the domain is in reset (R376). -/
def roadblocked (s : State) (b : Blk) : Bool := s.hang.resets.any (fun r => domCovers r.dom b)

/-- A block's state apart from resets, fences and drains: what is powered (Table 110) and how far bring-up has come
(notes/assumptions/20.md). -/
def baseState (s : State) (b : Blk) : Nat :=
  match s.power.state with
  | .off => 0
  | .dormant => if b == .aon || b == .odo then 2 else 0
  | .doze => if (fabricDie b).isSome then 0 else 2
  | .on =>
    match b with
    | .aon => 2
    | .odo => 2
    | .fabric d => if [0, 1, 2].all (fun i => s.boot.bridgesDone.contains (3 * d + i)) then 2 else 1
    | .bridge k => if s.boot.bridgesDone.contains k then 2 else 1
    | .hbm k => if (getStack s k).state == 0 then 1 else 2
    | .kerb k => if (getStack s (k / 16)).state == 0 then 1 else 2
    | .ix _ => if s.boot.startDone then 2 else 1
    | .col _ => if s.boot.startDone then 2 else 1
    | .rlc _ => if s.boot.startDone then 2 else 1
    | .ctl _ => if s.boot.startDone then 2 else 1
    | .core _ => if s.boot.testDone then 2 else 1
    | .port _ => if s.boot.phase ≤ 1 || s.boot.phase == 8 then 1 else 2
    | _ => if s.boot.phase == 0 then 1 else 2

/-- The hub's blocks answer (R352, R383): the HUB domain is not in reset. -/
def hubUp (s : State) : Bool := !s.hang.resets.any (fun r => r.dom == .hub)

/-- An engine of a core stands behind its own roadblock (R376). -/
def engineBlocked (s : State) (core eng : Nat) : Bool :=
  s.hang.resets.any (fun r => match r.dom with | .engine c e => c.val == core && e.val == eng | _ => false)

/-- A partition is in a PARTITION reset: its apertures are closed until its core resets have ended (R352, R389). -/
def partReset (s : State) (p : Nat) : Bool := s.hang.resets.any (fun r => r.part == some p)

/-- The hub is powered (Table 110). -/
def hubPowered (s : State) : Bool := s.power.state == .on || s.power.state == .doze

/-- BLK_STAT.STATE (R34): a block of a fenced die is FENCED, one in reset RESET, a drained core, interchange or collective
controller DRAINED; a core's READY page reads RUNNING while a context is resident (R163). -/
def blkState (s : State) (b : Blk) : Nat :=
  let base := baseState s b
  let fenced := match fabricDie b with | some d => !dieUp s d | none => false
  if base == 0 then 0
  else if fenced then 4
  else if roadblocked s b then 1
  else match b with
    | .core n => if s.hide.drainDone then 5 else if base == 2 && (getCore s n).ctx.isSome then 3 else base
    | .ix _ => if s.hide.drainDone then 5 else base
    | .col _ => if s.hide.drainDone then 5 else base
    | _ => base

def stateOf (s : State) (pg : Nat) : Nat :=
  match blkOf pg with | some b => blkState s b | none => 0

/-- R35: a page is gated while OFF, RESET, FENCED or DRAINED, or behind a roadblock. -/
def gated (s : State) (pg : Nat) : Bool :=
  let st := stateOf s pg
  st == 0 || st == 1 || st == 4 || st == 5 || (match blkOf pg with | some b => roadblocked s b | none => false)

/-- CHIP_ID of this chip (R293). -/
def chipId (s : State) : Nat := regOf s (pgPort 0) 0x100 % 65536

/-! ### ALERT#, notices and causes -/

/-- ALERT# follows ALERT_EN and ALERT_PEND AND ALERT_SEL (R458). -/
def alertDriven (m : Mgmt) : Bool := m.alertEn && (m.alertPend.zeroExtend 8 &&& m.alertSel) != 0

/-- Places a notice in a partition's queue; CREDIT notices of one context merge, and a full queue loses it (R348). -/
def queueNotice (s : State) (p : Nat) (n : Notice) : State :=
  let x := getPart s p
  if n.typ == 3 && x.queue.any (fun m => m.typ == 3 && m.ctx == n.ctx) then s
  else if x.queue.length < 1024 then setPart s p { x with queue := x.queue ++ [n] }
  else setPart s p { x with lost := sat32 x.lost 1, lostFlag := true }

/-- A notice of a chip-level type: to every partition that has an area (R349). -/
def chipNotice (s : State) (n : Notice) : State :=
  (List.range 16).foldl (fun s p => if (getPart s p).area.isSome then queueNotice s p n else s) s

/-- A BLOCK notice of a page with the PEND bits newly sent (Table 98). -/
def blockNotice (s : State) (pg bits : Nat) : State :=
  let isCore := decide (0x1000 ≤ pg ∧ pg < 0x2000)
  queueNotice s (if isCore then partOfCore s (pg - 0x1000) else 0)
    { typ := 4, ctx := if isCore then (getCore s (pg - 0x1000)).ctx else none, odo := BitVec.ofNat 64 s.odometer,
      arg0 := pg * 4096, arg1 := bits }

/-- A cause occurs on a page: PEND is set, and a notice goes out when it is not masked (R41). -/
def raiseCause (s : State) (pg c : Nat) : State :=
  let x := getPage s pg
  let s := setPage s pg { x with pend := x.pend ||| (1#32 <<< c) }
  if x.mask.getLsbD c then s else blockNotice s pg (2 ^ c)

/-- ALERT# is brought to what its registers ask; its driving low is the QMC page's cause 0 (R458, R459). -/
def updateAlert (s : State) : State :=
  let d := alertDriven s.mgmt
  let s' := { s with mgmt := { s.mgmt with alertLow := d } }
  if d && !s.mgmt.alertLow then raiseCause s' pgQmc 0 else s'

/-- A cause of ALERT_PEND occurs (R458, R459). -/
def alertCause (s : State) (i : Nat) : State :=
  updateAlert { s with mgmt := { s.mgmt with alertPend := s.mgmt.alertPend ||| (1#7 <<< i) } }

/-- A page cause with the ALERT_PEND cause it drives: QPC THROTTLE and VIN_OUT, DRAIN_BEGUN, PORT_DOWN (R459). -/
def raise (s : State) (pg c : Nat) : State :=
  let s := raiseCause s pg c
  if pg == pgQpc && c == 0 then alertCause s 0
  else if pg == pgQpc && c == 1 then alertCause s 1
  else if pg == pgAtlas && c == 3 then alertCause s 4
  else if 0x3800 ≤ pg && pg < 0x3820 && c == 0 then alertCause s 6
  else s

/-! ### Post completion -/

/-- Queues the notices of a context with the credits it has to report filled in when the record is written (R339). -/
def ctxNotice (s : State) (c typ code : Nat) (seq arg0 arg1 : Nat) : State :=
  queueNotice s (getCtx s c).part
    { typ := typ, code := code, seq := seq, ctx := some c, odo := BitVec.ofNat 64 s.odometer, arg0 := arg0, arg1 := arg1 }

/-- A taken post ends: one COMPLETION unless QUIET is set and the code is DONE (R340). -/
def completePost (s : State) (c : Nat) (r : PostRef) (code arg1 : Nat) : State :=
  if r.quiet && code == 0 then s else ctxNotice s c 1 code r.seq r.cookie arg1

/-- The RUN post of a context ends, if one is outstanding. -/
def completeRun (s : State) (c code arg1 : Nat) : State :=
  match (getCtx s c).runPost with
  | none => s
  | some r => completePost (modCtx s c (fun x => { x with runPost := none })) c r code arg1

/-- The PREEMPT post of a context ends, if one is outstanding. -/
def completePreempt (s : State) (c code arg1 : Nat) : State :=
  match (getCtx s c).preemptPost with
  | none => s
  | some r => completePost (modCtx s c (fun x => { x with preemptPost := none })) c r code arg1

/-! ### Free values -/

/-- A fresh free value (notes/assumptions/5.md): the value and the state whose counter has moved on. -/
def freshNat (s : State) : Nat × State := (Config.freshNat s.fresh, { s with fresh := s.fresh + 1 })

/-! ### Time -/

def msNs : Nat := 1000000
def usNs : Nat := 1000
def hourNs : Nat := 3600 * 1000000000
def dayNs : Nat := 24 * hourNs

/-- What happens on an empty queue: one nanosecond passes (R27; notes/assumptions/6.md). The odometer counts it at the trimmed
rate, or at half rate until aligned, and never steps backwards; that of TIME_ROOT runs freely (R289). Without power it does not run.
DESIGN CHOICE (notes/assumptions/152.md): a chip that runs free because no time port is ACTIVE keeps its last trim, and a half rate that
is still due (R290). -/
def idle (s : State) : State :=
  let t := if bitOf (regOf s (pgPort 0) 0x108) 1 then { s.time with trim := 0, halfRate := 0, halfPhase := false, frac := 0 } else s.time
  if s.power.state == .off then s
  else if 0 < t.halfRate then
    if t.halfPhase then { s with odometer := s.odometer + 1, time := { t with halfPhase := false, halfRate := t.halfRate - 1 } }
    else { s with time := { t with halfPhase := true } }
  else
    let f := t.frac + t.trim
    if 1000000 ≤ f then { s with odometer := s.odometer + 2, time := { t with frac := f - 1000000 } }
    else if f ≤ -1000000 then { s with time := { t with frac := f + 1000000 } }
    else { s with odometer := s.odometer + 1, time := { t with frac := f } }

/-- `t` plus a limit has passed. -/
def passed (s : State) (t limit : Nat) : Bool := t + limit ≤ s.odometer

end Sys2Proof.Machine
end

