-- ==== Sys2Proof/Machine/Crypto.lean ====
section
/-!
DEFINITION. SHA-256 and ECDSA P-256 verification, which the spec names by their standards (R424 to R426, R431). Their constants are
those of FIPS 180-4 and FIPS 186-4 (notes/assumptions/23.md).
-/
namespace Sys2Proof.Machine

/-! ### SHA-256 -/

def shaK : List Word :=
  [0x428A2F98, 0x71374491, 0xB5C0FBCF, 0xE9B5DBA5, 0x3956C25B, 0x59F111F1, 0x923F82A4, 0xAB1C5ED5] ++
  [0xD807AA98, 0x12835B01, 0x243185BE, 0x550C7DC3, 0x72BE5D74, 0x80DEB1FE, 0x9BDC06A7, 0xC19BF174] ++
  [0xE49B69C1, 0xEFBE4786, 0x0FC19DC6, 0x240CA1CC, 0x2DE92C6F, 0x4A7484AA, 0x5CB0A9DC, 0x76F988DA] ++
  [0x983E5152, 0xA831C66D, 0xB00327C8, 0xBF597FC7, 0xC6E00BF3, 0xD5A79147, 0x06CA6351, 0x14292967] ++
  [0x27B70A85, 0x2E1B2138, 0x4D2C6DFC, 0x53380D13, 0x650A7354, 0x766A0ABB, 0x81C2C92E, 0x92722C85] ++
  [0xA2BFE8A1, 0xA81A664B, 0xC24B8B70, 0xC76C51A3, 0xD192E819, 0xD6990624, 0xF40E3585, 0x106AA070] ++
  [0x19A4C116, 0x1E376C08, 0x2748774C, 0x34B0BCB5, 0x391C0CB3, 0x4ED8AA4A, 0x5B9CCA4F, 0x682E6FF3] ++
  [0x748F82EE, 0x78A5636F, 0x84C87814, 0x8CC70208, 0x90BEFFFA, 0xA4506CEB, 0xBEF9A3F7, 0xC67178F2]

def shaInit : List Word := [0x6A09E667, 0xBB67AE85, 0x3C6EF372, 0xA54FF53A, 0x510E527F, 0x9B05688C, 0x1F83D9AB, 0x5BE0CD19]

def shaNth (l : List Word) (i : Nat) : Word := l.getD i 0

/-- The big-endian number of bytes. -/
def beNat (l : List Byte) : Nat := l.foldl (fun n b => n * 256 + b.toNat) 0
/-- `n` big-endian bytes of a number. -/
def beBytes (n v : Nat) : List Byte := (leBytes n v).reverse

/-- The message schedule, newest word first. -/
def shaSchedule (l : List Word) (n : Nat) : List Word :=
  match n with
  | 0 => l
  | n + 1 =>
    let a := shaNth l 14
    let b := shaNth l 1
    let s0 := a.rotateRight 7 ^^^ a.rotateRight 18 ^^^ (a >>> 3)
    let s1 := b.rotateRight 17 ^^^ b.rotateRight 19 ^^^ (b >>> 10)
    shaSchedule ((shaNth l 15 + s0 + shaNth l 6 + s1) :: l) n

/-- One round on the eight working words. -/
def shaRound (v : List Word) (kw : Word × Word) : List Word :=
  let a := shaNth v 0
  let e := shaNth v 4
  let s1 := e.rotateRight 6 ^^^ e.rotateRight 11 ^^^ e.rotateRight 25
  let ch := (e &&& shaNth v 5) ^^^ (~~~e &&& shaNth v 6)
  let t1 := shaNth v 7 + s1 + ch + kw.1 + kw.2
  let s0 := a.rotateRight 2 ^^^ a.rotateRight 13 ^^^ a.rotateRight 22
  let maj := (a &&& shaNth v 1) ^^^ (a &&& shaNth v 2) ^^^ (shaNth v 1 &&& shaNth v 2)
  [t1 + s0 + maj, a, shaNth v 1, shaNth v 2, shaNth v 3 + t1, e, shaNth v 5, shaNth v 6]

/-- One 64-byte block. -/
def shaBlock (h : List Word) (b : List Byte) : List Word :=
  let w := (List.range 16).map (fun i => BitVec.ofNat 32 (beNat ((b.drop (4 * i)).take 4)))
  let s := (shaSchedule w.reverse 48).reverse
  let v := (shaK.zip s).foldl shaRound h
  (h.zip v).map (fun e => e.1 + e.2)

def shaBlocks (h : List Word) (l : List Byte) (n : Nat) : List Word :=
  match n with
  | 0 => h
  | n + 1 => shaBlocks (shaBlock h (l.take 64)) (l.drop 64) n

/-- SHA-256 of bytes, 32 bytes. -/
def sha256 (l : List Byte) : List Byte :=
  let pad := (119 - l.length % 64) % 64
  let m := l ++ [0x80] ++ List.replicate pad 0 ++ beBytes 8 (8 * l.length)
  (shaBlocks shaInit m (m.length / 64)).flatMap (fun w => beBytes 4 w.toNat)

/-! ### ECDSA P-256 -/

def p256 : Nat := 2 ^ 256 - 2 ^ 224 + 2 ^ 192 + 2 ^ 96 - 1
def n256 : Nat := 0xFFFFFFFF00000000FFFFFFFFFFFFFFFFBCE6FAADA7179E84F3B9CAC2FC632551
def b256 : Nat := 0x5AC635D8AA3A93E7B3EBBD55769886BC651D06B0CC53B0F63BCE3C3E27D2604B
def g256 : Nat × Nat :=
  (0x6B17D1F2E12C4247F8BCE6E563A440F277037D812DEB33A0F4A13945D898C296,
   0x4FE342E2FE1A7F9B8EE7EB4A7C0F9E162BCE33576B315ECECBB6406837BF51F5)

/-- a^e mod m, over the low `n` bits of e. -/
def powMod (m a e n : Nat) : Nat :=
  match n with
  | 0 => 1 % m
  | n + 1 =>
    let h := powMod m (a * a % m) (e / 2) n
    if e % 2 = 1 then h * a % m else h

/-- The inverse of a modulo a 256-bit prime. -/
def invMod (m a : Nat) : Nat := powMod m a (m - 2) 256

/-- Addition on the curve; none is the point at infinity. -/
def ecAdd (p q : Option (Nat × Nat)) : Option (Nat × Nat) :=
  match p, q with
  | none, q => q
  | p, none => p
  | some (x1, y1), some (x2, y2) =>
    if x1 == x2 && (y1 + y2) % p256 == 0 then none
    else
      let k := if x1 == x2 then (3 * x1 * x1 + p256 - 3) * invMod p256 (2 * y1 % p256) % p256
        else (y2 + p256 - y1) * invMod p256 ((x2 + p256 - x1) % p256) % p256
      let x := (k * k + 2 * p256 - x1 - x2) % p256
      some (x, (k * (x1 + p256 - x) + p256 - y1) % p256)

/-- Scalar multiplication over the low `n` bits of k. -/
def ecMul (k : Nat) (p : Option (Nat × Nat)) (n : Nat) : Option (Nat × Nat) :=
  match n with
  | 0 => none
  | n + 1 =>
    let h := ecMul (k / 2) (ecAdd p p) n
    if k % 2 = 1 then ecAdd h p else h

def onCurve (x y : Nat) : Bool :=
  decide (x < p256 ∧ y < p256) && y * y % p256 == (x * x * x + (p256 - 3) * x + b256) % p256

/-- A private key from a random value: 1 to n − 1. -/
def keyOf (v : Nat) : Nat := v % (n256 - 1) + 1

/-- The public key X‖Y of a private key. -/
def publicKey (d : Nat) : List Byte :=
  match ecMul d (some g256) 256 with
  | some v => beBytes 32 v.1 ++ beBytes 32 v.2
  | none => List.replicate 64 0

/-- The signature of a digest under a private key, r‖s, with the first nonce from `k` on that gives r and s other than 0. -/
def ecdsaSign (d : Nat) (digest : List Byte) (k tries : Nat) : List Byte :=
  match tries with
  | 0 => List.replicate 64 0
  | tries + 1 =>
    let r := (match ecMul (keyOf k) (some g256) 256 with | some v => v.1 | none => 0) % n256
    let s := invMod n256 (keyOf k) * (beNat digest + r * d) % n256
    if r == 0 || s == 0 then ecdsaSign d digest (k + 1) tries else beBytes 32 r ++ beBytes 32 s

/-- A signature r‖s over a digest is valid under a public key X‖Y (R426). -/
def ecdsaOk (pub digest sig : List Byte) : Bool :=
  let x := beNat (pub.take 32)
  let y := beNat (pub.drop 32)
  let r := beNat (sig.take 32)
  let s := beNat (sig.drop 32)
  if !(onCurve x y && decide (1 ≤ r ∧ r < n256 ∧ 1 ≤ s ∧ s < n256)) then false
  else
    let w := invMod n256 s
    let u1 := beNat digest * w % n256
    let u2 := r * w % n256
    match ecAdd (ecMul u1 (some g256) 256) (ecMul u2 (some (x, y)) 256) with
    | none => false
    | some v => v.1 % n256 == r

end Sys2Proof.Machine
end

