-- ==== Sys2Proof/Machine/Access.lean ====
section
/-!
DEFINITION. The checks that every write to a control page passes (R30 to R37) and the record of a rejection.
-/
namespace Sys2Proof.Machine

/-- Registers of the always-on parts, served in every power state (R390, R409, R423, R433, R459). -/
def aonReg (pg off : Nat) : Bool :=
  if pg == pgAon || pg == pgOdo then true
  else if pg == pgQpc then [0x040, 0x05C, 0x060, 0x064, 0x068].contains off
  else if pg == pgQsc then decide (0x040 ≤ off ∧ off < 0x04C)
  else if pg == pgQmc then decide (0x040 ≤ off ∧ off < 0x074)
  else pg == pgAtlas && off == 0x06C

/-- BLK_REJECT records a rejection (R36); COUNT stops at 0xFFF. -/
def reject (s : State) (pg off : Nat) (c : Code) : State :=
  modPage s pg (fun x => { x with rejCode := c.num, rejOff := off % 4096, rejCount := min 0xFFF (x.rejCount + 1) })

def isCorePage (pg : Nat) : Bool := decide (0x1000 ≤ pg ∧ pg < 0x2000)
def isTracePage (pg : Nat) : Bool := decide (7 ≤ pg ∧ pg < 11)

/-- A partition reaches a page (R32); trace pages follow R40 instead. -/
def pageOwn (s : State) (p pg : Nat) : Bool := p == 0 || (isCorePage pg && partOfCore s (pg - 0x1000) == p)

/-- The checks that a write to a block-specific offset passes whatever the register: owner, gate, MOVING (R21, R32, R35). -/
def accessFails (s : State) (p pg off : Nat) : List (Bool × Code) :=
  [(!(pageOwn s p pg || isTracePage pg), .notOwner), (gated s pg && !aonReg pg off, .fenced), ((getPage s pg).moving, .busy)]

/-- A write to a block-specific offset through BAR0: rejected with the first failing check in R36's order, or applied whole. Without
a powered hub none arrives. -/
def writeReg (s : State) (p pg off : Nat) (fails : List (Bool × Code)) (act : State → State) : State :=
  if !hubPowered s then s
  else match firstFail (accessFails s p pg off ++ fails) with
    | some c => reject s pg off c
    | none => act s

/-- Bits of a value outside a mask: reserved bits written as 1. -/
def outside (v mask : Nat) : Bool := (BitVec.ofNat 32 v &&& ~~~(BitVec.ofNat 32 mask)) != 0

/-- The last escalation step is recorded (R384, R391): step, code, die, target. -/
def recordStep (s : State) (step code die target : Nat) : State :=
  { s with hang := { s.hang with fault := some (step, code, die, target), faultTime := s.odometer } }

end Sys2Proof.Machine
end

