-- ==== Sys2Proof/Machine/Flags.lean ====
section
/-!
DEFINITION. Number formats, rounding, FLUSH and the ARITH_STAT flags: chapters 3 and 6. Values are exact (sign, integer
mantissa, exponent); each rounding is one call of `roundMag`.
-/
namespace Sys2Proof.Machine

/-- ARITH_STAT flags (R58). -/
abbrev Flags := BitVec 5
def fFlushed : Flags := 1
def fSaturated : Flags := 2
def fOverflow : Flags := 4
def fInvalid : Flags := 8
def fBlockNan : Flags := 16

/-- The formats of Table 17. -/
inductive Fmt where
  | fp32 | bf16 | fp16 | ft8 | ft6 | ft4 | int32 | u16
  deriving DecidableEq, Repr, Inhabited

def fmtOf (c : Nat) : Option Fmt :=
  match c with
  | 0x0 => some .fp32 | 0x1 => some .bf16 | 0x2 => some .fp16 | 0x4 => some .ft8 | 0x5 => some .ft6
  | 0x6 => some .ft4 | 0x9 => some .int32 | 0xA => some .u16 | _ => none

def Fmt.bits (f : Fmt) : Nat :=
  match f with
  | .fp32 | .int32 => 32 | .bf16 | .fp16 | .u16 => 16 | .ft8 => 8 | .ft6 => 6 | .ft4 => 4

def Fmt.isFt (f : Fmt) : Bool := match f with | .ft8 | .ft6 | .ft4 => true | _ => false
def Fmt.isIeee (f : Fmt) : Bool := match f with | .fp32 | .bf16 | .fp16 => true | _ => false

/-- Exponent width, fraction width and bias (R49, Table 19). -/
def Fmt.shape (f : Fmt) : Nat × Nat × Nat :=
  match f with
  | .fp32 => (8, 23, 127) | .bf16 => (8, 7, 127) | .fp16 => (5, 10, 15)
  | .ft8 => (4, 3, 7) | .ft6 => (3, 2, 3) | .ft4 => (2, 1, 1) | .int32 => (0, 0, 0) | .u16 => (0, 0, 0)

/-- A value: NaN, an infinity, or (−1)^neg × m × 2^e. -/
inductive Fv where
  | nan
  | inf (neg : Bool)
  | fin (neg : Bool) (m : Nat) (e : Int)
  deriving DecidableEq, Repr, Inhabited

/-- The value of a word in an IEEE-style format (R49). -/
def decIeee (f : Fmt) (w : Nat) : Fv :=
  let (eb, fb, bias) := f.shape
  let neg := bitOf w (eb + fb)
  let ex := fieldOf w fb eb
  let fr := fieldOf w 0 fb
  if ex = 2 ^ eb - 1 then (if fr = 0 then .inf neg else .nan)
  else if ex = 0 then .fin neg fr (1 - (bias : Int) - fb)
  else .fin neg (2 ^ fb + fr) ((ex : Int) - bias - fb)

/-- Whether a word of an IEEE-style format is subnormal and not zero. -/
def isSubnormal (f : Fmt) (w : Nat) : Bool :=
  let (eb, fb, _) := f.shape
  fieldOf w fb eb == 0 && fieldOf w 0 fb != 0

/-- An input as LR, OP or VX reads it: under FLUSH a subnormal becomes a zero of its sign (R59). -/
def readIeee (flush : Bool) (f : Fmt) (w : Nat) : Fv × Flags :=
  if flush && isSubnormal f w then
    (.fin (bitOf w (f.bits - 1)) 0 0, fFlushed)
  else (decIeee f w, 0)

def canonicalNan (f : Fmt) : Nat := match f with | .fp32 => 0x7FC00000 | .bf16 => 0x7FC0 | _ => 0x7E00
def infWord (f : Fmt) (neg : Bool) : Nat :=
  let (eb, fb, _) := f.shape
  (bit neg) * 2 ^ (eb + fb) + (2 ^ eb - 1) * 2 ^ fb
def maxWord (f : Fmt) (neg : Bool) : Nat :=
  let (eb, fb, _) := f.shape
  if f.isFt then bit neg * 2 ^ (eb + fb) + (2 ^ (eb + fb) - 1) else infWord f neg - 1
def zeroWord (f : Fmt) (neg : Bool) : Nat := bit neg * 2 ^ (f.bits - 1)
/-- The NaN code of an FT format (Table 19). -/
def ftNan (f : Fmt) : Nat := 2 ^ (f.bits - 1)

/-- Rounding modes (R61); `sr u` carries the upper half of the draw (R66). -/
inductive Rnd where
  | rne | rz | sr (u : Nat)
  deriving DecidableEq, Repr, Inhabited

/-- floor(log2 (num / den)) for positive num and den. -/
def floorLog2 (num den : Nat) : Int :=
  let k : Int := (Nat.log2 num : Int) - Nat.log2 den
  if k ≥ 0 then (if num ≥ den * 2 ^ k.toNat then k else k - 1)
  else (if num * 2 ^ (-k).toNat ≥ den then k else k - 1)

/-- The grid point chosen for num/den × 2^e on the grid with `fb` fraction bits, smallest normal exponent `emin` and no
upper limit (R62, R66): q and x with the point q × 2^x. -/
def roundMag (r : Rnd) (fb : Nat) (emin : Int) (num den : Nat) (e : Int) : Nat × Int :=
  if num = 0 then (0, emin - fb)
  else
    let k := floorLog2 num den + e
    let x := max k emin - fb
    let n := if e ≥ x then num * 2 ^ (e - x).toNat else num
    let d := if e ≥ x then den else den * 2 ^ (x - e).toNat
    let q := n / d
    let rem := n % d
    let up := match r with
      | .rne => 2 * rem > d || (2 * rem == d && q % 2 == 1)
      | .rz => false
      | .sr u => u < rem * 65536 / d
    (if up then q + 1 else q, x)

/-- The word of a grid point in a format, or none beyond its largest finite magnitude. -/
def encMag (f : Fmt) (q : Nat) (x : Int) : Option Nat :=
  let (eb, fb, bias) := f.shape
  let (q, x) := if q = 2 ^ (fb + 1) then (2 ^ fb, x + 1) else (q, x)
  if q < 2 ^ fb then some q
  else
    let ex := x + fb + bias
    let top : Int := if f.isFt then 2 ^ eb else 2 ^ eb - 1
    if ex ≥ top then none else some (ex.toNat * 2 ^ fb + (q - 2 ^ fb))

/-- R62 for a finite value into an IEEE-style or FT format: the magnitude num/den × 2^e with its sign, then FLUSH (R59). -/
def roundTo (f : Fmt) (r : Rnd) (sat flush : Bool) (neg : Bool) (num den : Nat) (e : Int) : Nat × Flags :=
  let (_, fb, bias) := f.shape
  let (q, x) := roundMag r fb (1 - (bias : Int)) num den e
  match encMag f q x with
  | none =>
    if f.isFt || sat || r == .rz then (maxWord f neg, fSaturated) else (infWord f neg, fOverflow)
  | some w =>
    if w = 0 then ((if f.isFt then 0 else zeroWord f neg), 0)
    else if flush && f.isIeee && isSubnormal f w then (zeroWord f neg, fFlushed)
    else (zeroWord f neg + w, 0)

/-- FP32 rounding of arithmetic: nearest even, overflow to infinity (R108). -/
def round32 (flush neg : Bool) (num den : Nat) (e : Int) : Nat × Flags := roundTo .fp32 .rne false flush neg num den e

/-! ### Arithmetic on values -/

/-- Exact product; infinity times zero is a NaN from non-NaN inputs. -/
def mulV (a b : Fv) : Fv × Flags :=
  match a, b with
  | .nan, _ => (.nan, 0)
  | _, .nan => (.nan, 0)
  | .inf s, .inf t => (.inf (s != t), 0)
  | .inf s, .fin t m _ => if m = 0 then (.nan, fInvalid) else (.inf (s != t), 0)
  | .fin s m _, .inf t => if m = 0 then (.nan, fInvalid) else (.inf (s != t), 0)
  | .fin s m e, .fin t n f => (.fin (s != t) (m * n) (e + f), 0)

/-- The signed integer of a finite value at exponent x ≤ e. -/
def atExp (neg : Bool) (m : Nat) (e x : Int) : Int :=
  let v : Int := (m * 2 ^ (e - x).toNat : Nat)
  if neg then -v else v

/-- Sum of two values rounded to FP32 (R108, Table 38). -/
def addV (flush : Bool) (a b : Fv) : Nat × Flags :=
  match a, b with
  | .nan, _ => (canonicalNan .fp32, 0)
  | _, .nan => (canonicalNan .fp32, 0)
  | .inf s, .inf t => if s == t then (infWord .fp32 s, 0) else (canonicalNan .fp32, fInvalid)
  | .inf s, .fin _ _ _ => (infWord .fp32 s, 0)
  | .fin _ _ _, .inf t => (infWord .fp32 t, 0)
  | .fin s m e, .fin t n f =>
    if m = 0 ∧ n = 0 then (zeroWord .fp32 (s && t), 0)
    else
      let x := if m = 0 then f else if n = 0 then e else min e f
      let v := (if m = 0 then 0 else atExp s m e x) + (if n = 0 then 0 else atExp t n f x)
      if v = 0 then (0, 0) else round32 flush (decide (v < 0)) v.natAbs 1 x

/-- a × b + c with one rounding; the product of an infinity and a zero beside a NaN raises no flag. -/
def fmaV (flush : Bool) (a b c : Fv) : Nat × Flags :=
  match c with
  | .nan => (canonicalNan .fp32, 0)
  | _ =>
    let (p, fl) := mulV a b
    let (w, fl') := addV flush p c
    (w, fl ||| fl')

/-- A product rounded to FP32. -/
def mulRound (flush : Bool) (a b : Fv) : Nat × Flags :=
  let (p, fl) := mulV a b
  match p with
  | .nan => (canonicalNan .fp32, fl)
  | .inf s => (infWord .fp32 s, fl)
  | .fin s m e => if m = 0 then (zeroWord .fp32 s, fl) else
    let (w, fl') := round32 flush s m 1 e
    (w, fl ||| fl')

/-- A quotient rounded to FP32: a zero divisor gives an exact infinity without a flag, 0/0 and ∞/∞ are INVALID (R58). -/
def divRound (flush : Bool) (a b : Fv) : Nat × Flags :=
  match a, b with
  | .nan, _ => (canonicalNan .fp32, 0)
  | _, .nan => (canonicalNan .fp32, 0)
  | .inf _, .inf _ => (canonicalNan .fp32, fInvalid)
  | .inf s, .fin t _ _ => (infWord .fp32 (s != t), 0)
  | .fin s _ _, .inf t => (zeroWord .fp32 (s != t), 0)
  | .fin s m e, .fin t n f =>
    if n = 0 then (if m = 0 then (canonicalNan .fp32, fInvalid) else (infWord .fp32 (s != t), 0))
    else if m = 0 then (zeroWord .fp32 (s != t), 0)
    else round32 flush (s != t) m n (e - f)

/-- Integer square root by halving the interval, `n` times. -/
def isqrtLoop (n lo hi v : Nat) : Nat :=
  match n with
  | 0 => lo
  | n + 1 =>
    let mid := (lo + hi) / 2
    if mid * mid ≤ v then isqrtLoop n mid hi v else isqrtLoop n lo mid v

/-- floor √v. -/
def isqrt (v : Nat) : Nat := isqrtLoop (Nat.log2 v + 2) 0 (2 ^ (Nat.log2 v / 2 + 1)) v

/-- √(m × 2^e) as a magnitude with a sticky last bit, precise to well over 40 bits: mantissa and exponent. -/
def sqrtMag (m : Nat) (e : Int) : Nat × Int :=
  let sh : Nat := if e % 2 = 0 then 128 else 129
  let v := m * 2 ^ sh
  let r := isqrt v
  (if r * r = v then 2 * r else 2 * r + 1, (e - sh) / 2 - 1)

/-- A square root rounded to FP32; a negative operand is INVALID, and a zero keeps its sign. -/
def sqrtRound (flush : Bool) (a : Fv) : Nat × Flags :=
  match a with
  | .nan => (canonicalNan .fp32, 0)
  | .inf s => if s then (canonicalNan .fp32, fInvalid) else (infWord .fp32 false, 0)
  | .fin s m e =>
    if m = 0 then (zeroWord .fp32 s, 0)
    else if s then (canonicalNan .fp32, fInvalid)
    else
      let (q, x) := sqrtMag m e
      round32 flush false q 1 x

/-- An FP32 operand word, an operation on two of them, with FLUSH on the inputs. -/
def add32 (flush : Bool) (a b : Nat) : Nat × Flags :=
  let (x, f) := readIeee flush .fp32 a
  let (y, g) := readIeee flush .fp32 b
  let (w, h) := addV flush x y
  (w, f ||| g ||| h)

/-- A sum in accumulation (R114, R115): FLUSH acts on the rounded sum alone, for R59 names the inputs of LR, OP and VX only. -/
def sum32 (flush : Bool) (a b : Nat) : Nat × Flags := addV flush (decIeee .fp32 a) (decIeee .fp32 b)

/-- The negation of a value. -/
def negV (a : Fv) : Fv := match a with | .nan => .nan | .inf s => .inf (!s) | .fin s m e => .fin (!s) m e

def sub32 (flush : Bool) (a b : Nat) : Nat × Flags :=
  let (x, f) := readIeee flush .fp32 a
  let (y, g) := readIeee flush .fp32 b
  let (w, h) := addV flush x (negV y)
  (w, f ||| g ||| h)

def mul32 (flush : Bool) (a b : Nat) : Nat × Flags :=
  let (x, f) := readIeee flush .fp32 a
  let (y, g) := readIeee flush .fp32 b
  let (w, h) := mulRound flush x y
  (w, f ||| g ||| h)

def div32 (flush : Bool) (a b : Nat) : Nat × Flags :=
  let (x, f) := readIeee flush .fp32 a
  let (y, g) := readIeee flush .fp32 b
  let (w, h) := divRound flush x y
  (w, f ||| g ||| h)

def sqrt32 (flush : Bool) (a : Nat) : Nat × Flags :=
  let (x, f) := readIeee flush .fp32 a
  let (w, h) := sqrtRound flush x
  (w, f ||| h)

def fma32 (flush : Bool) (a b c : Nat) : Nat × Flags :=
  let (x, f) := readIeee flush .fp32 a
  let (y, g) := readIeee flush .fp32 b
  let (z, h) := readIeee flush .fp32 c
  let (w, k) := fmaV flush x y z
  (w, f ||| g ||| h ||| k)

/-! ### FT data -/

/-- An FT element's value in units of 2^-9, or none for the NaN code (R51, Table 19). -/
def ftUnits (f : Fmt) (code : Nat) : Option Int :=
  let (eb, fb, bias) := f.shape
  if code = ftNan f then none
  else
    let ex := fieldOf code fb eb
    let fr := fieldOf code 0 fb
    let m := if ex = 0 then fr else 2 ^ fb + fr
    let x := (if ex = 0 then 1 else ex) + 9 - bias - fb
    let v : Int := (m * 2 ^ x : Nat)
    some (if bitOf code (eb + fb) then -v else v)

/-- A block scale as (2 + h) × 2^(e − 64), or none for byte 0xFF (R53). -/
def scaleOf (b : Nat) : Option (Nat × Int) :=
  if b = 0xFF then none else some (2 + b % 2, (b / 2 : Nat) - 64)

/-- A scaled FT element as a value (R53). -/
def ftValue (f : Fmt) (code scale : Nat) : Fv :=
  match scaleOf scale, ftUnits f code with
  | some (m, e), some v => .fin (decide (v < 0)) (v.natAbs * m) (e - 9)
  | _, _ => .nan

/-- Whether scale byte b covers a magnitude a: a ≤ F × s, with a = n × 2^x (R63). -/
def scaleCovers (f : Fmt) (b : Nat) (n : Nat) (x : Int) : Bool :=
  match scaleOf b with
  | none => false
  | some (m, e) =>
    let top := ((ftUnits f (maxWord f false)).getD 0).natAbs * m
    let y := e - 9
    let z := min x y
    decide (n * 2 ^ (x - z).toNat ≤ top * 2 ^ (y - z).toNat)

/-- The AUTO scale byte of a block whose largest finite magnitude is n × 2^x (R63): the smallest byte that covers it, by
halving [lo, hi]; 0xFE when none does. -/
def autoScaleLoop (f : Fmt) (fuel lo hi n : Nat) (x : Int) : Nat :=
  match fuel with
  | 0 => lo
  | fuel + 1 =>
    if lo ≥ hi then lo
    else
      let mid := (lo + hi) / 2
      if scaleCovers f mid n x then autoScaleLoop f fuel lo mid n x else autoScaleLoop f fuel (mid + 1) hi n x

def autoScale (f : Fmt) (n : Nat) (x : Int) : Nat := if n = 0 then 0x7E else autoScaleLoop f 8 0 0xFE n x

/-- The larger of two magnitudes m × 2^e. -/
def maxMag (a b : Nat × Int) : Nat × Int :=
  if a.1 = 0 then b
  else if b.1 = 0 then a
  else
    let z := min a.2 b.2
    if a.1 * 2 ^ (a.2 - z).toNat < b.1 * 2 ^ (b.2 - z).toNat then b else a

/-- One element into an FT format at a scale (R62 to R64): exact quotient, one rounding. -/
def toFt (f : Fmt) (r : Rnd) (scale : Nat) (v : Fv) : Nat × Flags :=
  match scaleOf scale with
  | none => (ftNan f, fBlockNan)
  | some (m, e) =>
    match v with
    | .nan => (ftNan f, 0)
    | .inf s => (maxWord f s, fSaturated)
    | .fin s n x => if n = 0 then (0, 0) else roundTo f r false false s n m (x - e)

/-! ### Conversions of single elements -/

/-- A value into an IEEE-style format (R62, R64). -/
def toIeee (f : Fmt) (r : Rnd) (sat flush : Bool) (v : Fv) : Nat × Flags :=
  match v with
  | .nan => (canonicalNan f, 0)
  | .inf s => if sat then (maxWord f s, fSaturated) else (infWord f s, 0)
  | .fin s m e => if m = 0 then (zeroWord f s, 0) else roundTo f r sat flush s m 1 e

/-- A value into an integer range [lo, hi] (R62, R64): the rounded integer, or an end with INVALID; NaN gives 0. -/
def toInteger (lo hi : Int) (r : Rnd) (v : Fv) : Int × Flags :=
  match v with
  | .nan => (0, fInvalid)
  | .inf s => (if s then lo else hi, fInvalid)
  | .fin s m e =>
    let d := if e ≥ 0 then 1 else 2 ^ (-e).toNat
    let n := if e ≥ 0 then m * 2 ^ e.toNat else m
    let q := n / d
    let rem := n % d
    let up := r == .rne && (2 * rem > d || (2 * rem == d && q % 2 == 1))
    let mag : Int := (if up then q + 1 else q : Nat)
    let i := if s then -mag else mag
    if i < lo then (lo, fInvalid) else if i > hi then (hi, fInvalid) else (i, 0)

/-- One draw of the stochastic rounding generator (R65). -/
def srNext (s : Word) : Word :=
  let a := s ^^^ (s <<< 13)
  let b := a ^^^ (a >>> 17)
  b ^^^ (b <<< 5)

/-! ### Accumulation -/

/-- One FT block term: the exact block sum times both scales, added with one rounding (R110, Table 38). -/
def ftTerm (flush : Bool) (acc : Nat) (fa fb : Fmt) (as bs : List Nat) (sa sb : Nat) : Nat × Flags :=
  let prods := List.zipWith (fun a b =>
    match ftUnits fa a, ftUnits fb b with
    | some x, some y => some (x * y)
    | _, _ => none) as bs
  match scaleOf sa, scaleOf sb with
  | some (ma, ea), some (mb, eb) =>
    if prods.any (fun p => p.isNone) then (canonicalNan .fp32, 0)
    else
      let sum := prods.foldl (fun (t : Int) p => t + p.getD 0) 0
      addV flush (decIeee .fp32 acc) (.fin (decide (sum < 0)) (sum.natAbs * ma * mb) (ea + eb - 18))
  | _, _ => (canonicalNan .fp32, fBlockNan)

/-! ### Max and min with index -/

/-- The order of non-NaN FP32 words: −∞ < … < −0 < +0 < … < +∞ (R120). -/
def orderKey (w : Nat) : Int := if w < 2 ^ 31 then (w : Int) else -(w - 2 ^ 31 : Nat) - 1

def isNan32 (w : Nat) : Bool := decide (w % 2 ^ 31 > 0x7F800000)

/-- The winner of two pairs (value word, signed index) under R120. -/
def winner (isMin : Bool) (a b : Nat × Int) : Nat × Int :=
  match isNan32 a.1, isNan32 b.1 with
  | true, true => if b.2 < a.2 then b else a
  | true, false => a
  | false, true => b
  | false, false =>
    let x := orderKey a.1
    let y := orderKey b.1
    if x = y then (if b.2 < a.2 then b else a)
    else if (isMin && decide (y < x)) || (!isMin && decide (x < y)) then b else a

/-- The value of a winner: the canonical NaN for any NaN. -/
def canon32 (w : Nat) : Nat := if isNan32 w then canonicalNan .fp32 else w

end Sys2Proof.Machine
end

