-- ==== Sys2Proof/Machine/Rings.lean ====
section
/-!
DEFINITION. The die fabric (chapter 13): rings, gates and crossbars, routes, bubble flow control, arbitration and congestion marks
(R251 to R262), packet by packet. Its clock is the nanosecond of an empty queue: two fabric cycles (notes/assumptions/6.md).
-/
namespace Sys2Proof.Machine

/-! ### Stops and packets -/

/-- The stop of the site that carries a logical core (R16, R251). -/
def coreStop (s : State) (core : Nat) : Stop :=
  let n := siteOf s core
  .site (n / 16384) (fieldOf n 8 6) (fieldOf n 0 5)

/-- Crossbar ports of a die (Table 71): a channel's kerbside engine, the interchange, the collective controller, the remote-line
cache and the link ports. -/
def kerbStop (chan : Nat) : Stop := .block (dieOfChan chan) (chan % 48)
def ixStop (d : Nat) : Stop := .block d 67
def colStop (d : Nat) : Stop := .block d 68
def rlcStop (d : Nat) : Stop := .block d 69
def linkStop (p : Nat) : Stop := .block (p / 8) (72 + p % 8)

def stopDie (x : Stop) : Nat := match x with | .site d _ _ => d | .block d _ => d
def placeDie (q : Place) : Nat :=
  match q with
  | .row d _ _ _ => d | .column d _ _ _ => d | .port d _ => d | .bridge k => k / 3 | .bypass k => k / 2

/-- The block or core of this chip that a message is for. -/
def msgTo (s : State) (m : Msg) : Stop :=
  match m.body with
  | .remoteAdd _ _ core _ _ => coreStop s core
  | .remoteAddAck src _ => coreStop s src
  | .localAdd _ core _ _ => coreStop s core
  | .localAck src _ => coreStop s src
  | .arrive _ home _ _ => coreStop s home
  | .release _ core _ => coreStop s core
  | .acc _ core _ _ _ _ _ _ => coreStop s core
  | .accOrd _ core _ _ _ _ _ _ => coreStop s core
  | .accAck src _ _ => coreStop s src
  | .ix _ => ixStop m.dstDie
  | .col _ => colStop m.dstDie

/-- Where a message of this chip starts; a controller's at its own die. -/
def msgFrom (s : State) (die : Nat) (m : Msg) : Stop :=
  match m.body with
  | .remoteAdd src _ _ _ _ => coreStop s src
  | .remoteAddAck _ target => coreStop s target
  | .localAdd src _ _ _ => coreStop s src
  | .localAck _ home => coreStop s home
  | .arrive src _ _ _ => coreStop s src
  | .release home _ _ => coreStop s home
  | .acc src _ _ _ _ _ _ _ => coreStop s src
  | .accOrd src _ _ _ _ _ _ _ => coreStop s src
  | .accAck _ core _ => coreStop s core
  | .ix _ => ixStop die
  | .col _ => colStop die

/-- Data bytes of a message. -/
def msgBytes (m : Msg) : Nat :=
  match m.body with
  | .acc _ _ _ _ d _ _ _ => d.length
  | .accOrd _ _ _ _ _ _ d _ => d.length
  | .ix x => x.payload.length
  | .col x => x.payload.length
  | _ => 0

/-- A header flit and up to 8 data flits of 64 bytes (R252). -/
def flitsOf (n : Nat) : Nat := 1 + min 8 (ceilDiv n 64)

/-- The packet of a message from one stop to another. -/
def packetOf (src dst : Stop) (c : Cargo) (m : Msg) : Packet :=
  { cargo := c, src := src, dst := dst, cw := m.cw, resp := m.resp, flits := flitsOf (msgBytes m), mark := m.mark }

/-- A packet waits at its source. -/
def inject (s : State) (p : Packet) : State :=
  { s with fabric := { s.fabric with packets := s.fabric.packets ++ [p] } }

/-- A message has reached its block, which takes it by an arrival command. -/
def arrived (s : State) (m : Msg) : State := { s with net := s.net ++ [m] }

/-- A message for a block of this chip, sent from a die of it. -/
def postMsg (s : State) (die : Nat) (m : Msg) : State := inject s (packetOf (msgFrom s die m) (msgTo s m) (.msg m) m)

/-- A message that came in through a link port (R264). -/
def postFrom (s : State) (port : Nat) (m : Msg) : State := inject s (packetOf (linkStop port) (msgTo s m) (.msg m) m)

/-- Messages of this chip that their blocks have not yet taken: in the fabric, or arrived. -/
def inFlight (s : State) : List Msg :=
  s.fabric.packets.filterMap (fun p => match p.cargo with | .msg m => some m | _ => none) ++ s.net

/-- Messages with a property are absorbed. -/
def absorbMsgs (s : State) (hit : Msg → Bool) : State :=
  { s with
    net := s.net.filter (fun m => !hit m),
    fabric := { s.fabric with packets := s.fabric.packets.filter (fun p => match p.cargo with | .msg m => !hit m | _ => true) } }

/-- Payload units of a message on a link: 16 data bytes to a unit (R275). -/
def msgUnits (m : Msg) : Nat := 1 + ceilDiv (msgBytes m) 16

/-- ACTIVE, or retraining in place. -/
def wasActive (x : Port) : Bool := x.tstate == 5 || x.retrain

/-- A packet joins an egress queue of a port: local, or transit; `wide` when it needs two lay-bys of credit (R286). One that finds
the port out of ACTIVE is discarded and counted (R281). -/
def pushEgress (s : State) (port : Nat) (transit wide : Bool) (m : Msg) : State :=
  let i := m.cw + (if transit then 5 else 0)
  if wasActive (getPort s port) then
    modPort s port (fun x => { x with queues := x.queues.set i (x.queues.getD i [] ++ [(m, wide)]) })
  else bump32 s (pgPort port) 0x068 (msgUnits m)

/-- The BYPASS domain of a die works: it is powered and out of reset (R283). -/
def bypassUp (s : State) (d : Nat) : Bool := !gated s (pgBypass (8 * d))

/-- A place in a domain that works: of a bypass bridge the BYPASS domain, of every other the die's fabric. -/
def placeUp (s : State) (q : Place) : Bool :=
  match q with
  | .bypass _ => bypassUp s (placeDie q)
  | _ => s.power.state == .on && dieUp s (placeDie q)

/-! ### Queues (R252, R257) -/

def queueFlits : Nat := 27
def layBy : Nat := 9

/-- Flits of a carriageway half that stand in the queue at a place. -/
def queued (s : State) (q : Place) (cw : Nat) (resp : Bool) : Nat :=
  ((s.fabric.packets.filter (fun p => p.here == some q && p.cw == cw && p.resp == resp)).map (fun p => p.flits)).sum

/-! ### Routes (R254, R255) -/

/-- The ring direction with fewer hops; a tie goes up. -/
def goesUp (n a b : Nat) : Bool := decide ((b + n - a) % n ≤ (a + n - b) % n)
def ringStep (n : Nat) (up : Bool) (i : Nat) : Nat := if up then (i + 1) % n else (i + n - 1) % n

/-- The gate by which a crossbar port is reached: the near one for ports 0 to 47, the far one for the others. -/
def gateOf (port : Nat) : Nat := if port < 48 then 0 else 31

/-- The die at the far end of bridge k = die × 3 + 0 next, 1 previous. -/
def bridgeEnd (k : Nat) : Nat := if k % 3 == 0 then (k / 3 + 1) % 4 else (k / 3 + 3) % 4

/-- The bridge by which traffic of die d leaves for die e: 0 next, 1 previous. For the diagonal die it is the one that DIE_ROUTE
names, or the other one while the middle die there is fenced; none where a fence stands on every way (R255, R387). -/
def wayOut (s : State) (d e : Nat) : Option Nat :=
  let open_ := fun (w : Nat) => if dieUp s (bridgeEnd (3 * d + w)) then some w else none
  if e == (d + 1) % 4 then open_ 0
  else if e == (d + 3) % 4 then open_ 1
  else
    let w := if fieldOf (regOf s (pgFabric d) 0x040) (2 * e) 2 == 2 then 1 else 0
    match open_ w with
    | some w => some w
    | none => open_ (1 - w)

/-- The next step of a packet: into a place that needs `room` free flits in its half's queue, after `cost` cycles; out of the
fabric at its destination; or refused at the edge of a fenced die (R376, R387). -/
inductive Hop where
  | move (q : Place) (room cost : Nat)
  | arrive
  | refuse
  deriving DecidableEq, Repr, Inhabited

/-- Two lay-bys free (R257, R258). -/
def entering : Nat := 2 * layBy

/-- Out of die d at its far crossbar. -/
def leaveDie (s : State) (p : Packet) (d room cost : Nat) : Hop :=
  match wayOut s d (stopDie p.dst) with
  | some w => .move (.bridge (3 * d + w)) room cost
  | none => .refuse

/-- From a crossbar of die d (near or far by `gate`) towards a stop. -/
def fromCrossbar (s : State) (p : Packet) (d gate port cost room : Nat) : Hop :=
  let column := fun (c i : Nat) (up : Bool) => Hop.move (.column d c up i) entering cost
  let rot := look s.fabric.rot (d * 128 + port) 0 % 40
  let across := column rot gate (gate != 0)
  if stopDie p.dst != d then (if gate == 31 then leaveDie s p d room cost else across)
  else match p.dst with
    | .site _ c r => column c gate (goesUp 32 gate (r + 1))
    | .block _ n => if gateOf n == gate then .move (.port d n) p.flits cost else across

/-- The bypass bridge of die d that leads to die e: traffic for the diagonal die goes by the next die (R283). -/
def bypassWay (d e : Nat) : Nat := 2 * d + (if e == (d + 3) % 4 then 1 else 0)
/-- The die at the far end of a bypass bridge. -/
def bypassEnd (k : Nat) : Nat := if k % 2 == 0 then (k / 2 + 1) % 4 else (k / 2 + 3) % 4

/-- The next hop of a packet (Table 72). -/
def nextHop (s : State) (p : Packet) : Hop :=
  match p.here with
  | some (.bypass k) =>
    let d := bypassEnd k
    let e := stopDie p.dst
    if d == e then .arrive else .move (.bypass (bypassWay d e)) layBy 1
  | none =>
    (match p.src with
      | .site d c r =>
        (match p.dst with
          | .site e c2 r2 =>
            if e != d then .move (.column d c (goesUp 32 (r + 1) 31) (r + 1)) entering 1
            else if c2 != c then .move (.row d r (goesUp 40 c c2) c) entering 1
            else if r2 != r then .move (.column d c (goesUp 32 (r + 1) (r2 + 1)) (r + 1)) entering 1
            else .arrive
          | .block e n =>
            let g := if e != d then 31 else gateOf n
            .move (.column d c (goesUp 32 (r + 1) g) (r + 1)) entering 1)
      | .block d n => fromCrossbar s p d (gateOf n) n 2 entering)
  | some (.row d r up c) =>
    (match p.dst with
      | .site _ c2 r2 =>
        if c == c2 then (if r == r2 then .arrive else .move (.column d c (goesUp 32 (r + 1) (r2 + 1)) (r + 1)) entering 1)
        else .move (.row d r up (ringStep 40 up c)) p.flits 1
      | .block _ _ => .move (.column d c (goesUp 32 (r + 1) 31) (r + 1)) entering 1)
  | some (.column d c up i) =>
    let on : Hop := .move (.column d c up (ringStep 32 up i)) p.flits 1
    if stopDie p.dst != d then
      (if i == 31 then leaveDie s p d entering 2 else on)
    else match p.dst with
      | .site _ _ r => if i == r + 1 then .arrive else on
      | .block _ n => if i == gateOf n then .move (.port d n) p.flits 2 else on
  | some (.port _ _) => .arrive
  | some (.bridge k) => if dieUp s (bridgeEnd k) then fromCrossbar s p (bridgeEnd k) 31 (65 - k % 3) 8 layBy else .refuse

/-! ### Arbitration (R260) -/

/-- CW_WEIGHT of a carriageway on a die. -/
def cwWeight (s : State) (d cw : Nat) : Nat :=
  if cw < 4 then fieldOf (regOf s (pgFabric d) 0x044) (8 * cw) 8 else fieldOf (regOf s (pgFabric d) 0x048) 0 8

/-- Deficit round robin over the carriageways: `want` is the flits of each one's first packet. -/
def drr (weight : Nat → Nat) (want : Nat → Option Nat) (fuel : Nat) (a : Arb) : Option Nat × Arb :=
  match fuel with
  | 0 => (none, a)
  | fuel + 1 =>
    let next := (a.turn + 1) % 5
    let go := fun (d : List Nat) =>
      drr weight want fuel { a with turn := next, deficit := d.set next (nth d next + weight next) }
    match want a.turn with
    | none => go (a.deficit.set a.turn 0)
    | some f =>
      if f ≤ nth a.deficit a.turn then (some a.turn, { a with deficit := a.deficit.set a.turn (nth a.deficit a.turn - f) })
      else go a.deficit

/-- Flits that an output carries in a cycle (Table 71, R267, R283): a bridge one for each slice in use. -/
def outputWidth (s : State) (o : Bool × Place) : Nat :=
  match o with
  | (_, .bridge k) => max 1 (popcount (getBridge s k).sliceMap.toNat 20)
  | (_, .bypass _) => 8
  | (true, .port _ n) => if n < 48 || n == 70 then 1 else if 72 ≤ n then 3 else 8
  | _ => 1

def arbOf (s : State) (o : Bool × Place) : Arb :=
  match s.fabric.arbs.find? (fun e => e.1 == o) with | some e => e.2 | none => {}
def setArb (s : State) (o : Bool × Place) (a : Arb) : State :=
  { s with fabric := { s.fabric with arbs := (o, a) :: s.fabric.arbs.filter (fun e => e.1 != o) } }

/-- The output a packet asks for. -/
def outputOf (p : Packet) (h : Hop) : Bool × Place :=
  match h with
  | .move q _ _ => (false, q)
  | _ => (true, p.here.getD (.port (stopDie p.src) 0))

/-- The die whose fabric moves a packet. -/
def packetDie (p : Packet) : Nat := match p.here with | some q => placeDie q | none => stopDie p.src

/-- A packet on a bypass bridge, which belongs to the BYPASS domain and not to the die fabric (R283). -/
def onBypass (p : Packet) : Bool := match p.here with | some (.bypass _) => true | _ => false

/-- The domain that moves a packet works. -/
def packetUp (s : State) (p : Packet) : Bool :=
  match p.here with | some q => placeUp s q | none => s.power.state == .on && dieUp s (packetDie p)

/-- A packet that could go on in this cycle but for room and arbitration: its header is there, its fabric runs, and nothing stands
before it in its queue. -/
def isHead (s : State) (i : Nat) (p : Packet) : Bool :=
  p.wait == 0 && packetUp s p &&
    !(s.fabric.packets.take i).any (fun q => q.here == p.here && q.cw == p.cw && q.resp == p.resp && (p.here.isSome || q.src == p.src))

/-- Room for a packet's next hop, on a die that is up. -/
def hasRoom (s : State) (p : Packet) (h : Hop) : Bool :=
  match h with
  | .move q room _ => placeUp s q && decide (queued s q p.cw p.resp + room ≤ queueFlits)
  | _ => true

/-- The packets that may move now, by place in the list, with their hop. -/
def movable (s : State) : List (Nat × Packet × Hop) :=
  ((List.range s.fabric.packets.length).zip s.fabric.packets).filterMap (fun e =>
    let h := nextHop s e.2
    if isHead s e.1 e.2 && hasRoom s e.2 h && (arbOf s (outputOf e.2 h)).busy == 0 then some (e.1, e.2, h) else none)

/-- The first packet of a carriageway among those that want one output, its response half before its request half. -/
def firstOf (l : List (Nat × Packet × Hop)) (cw : Nat) : Option (Nat × Packet × Hop) :=
  match l.find? (fun e => e.2.1.cw == cw && e.2.1.resp) with
  | some e => some e
  | none => l.find? (fun e => e.2.1.cw == cw)

/-! ### Moves -/

/-- The places of the stop that a die's TEL_SEL selects (R271). -/
def telPlaces (s : State) (d : Nat) : List Place :=
  let v := regOf s (pgFabric d) 0x050
  if bitOf v 16 then
    (let n := fieldOf v 0 7
     if n == 64 then [.bridge (3 * d)] else if n == 65 then [.bridge (3 * d + 1)] else [.port d n])
  else
    let c := fieldOf v 8 6
    let r := fieldOf v 0 5
    [.row d r true c, .row d r false c, .column d c true (r + 1), .column d c false (r + 1)]

/-- Flits pass a stop: where TEL_SEL selects one of its places, the telemetry counts them. -/
def countTel (s : State) (q : Place) (n : Nat) : State :=
  let d := placeDie q
  if (telPlaces s d).contains q then setTel s d { getTel s d with flits := (getTel s d).flits + n } else s

/-- Flits pass crossbar port `n` of a die into the crossbar (R271). -/
def countEnter (s : State) (d port n : Nat) : State :=
  if regOf s (pgFabric d) 0x050 == 2 ^ 16 + port then setTel s d { getTel s d with flits := (getTel s d).flits + n } else s

/-- The far side of bridge k, as a bridge of the die it leads to. -/
def bridgeBack (k : Nat) : Nat := 3 * bridgeEnd k + (1 - k % 3)

/-- Flits leave a place: the selected stop's telemetry counts them. Those that cross a bridge count in its FLITS_OUT and in FLITS_IN of
the bridge of the die that they reach, where a flit has arrived (R270, R272). -/
def countPast (s : State) (q : Place) (n : Nat) : State :=
  let s := countTel s q n
  match q with
  | .bridge k =>
    let s := bump64 s (pgBridge k) 0x050 n
    if dieUp s (bridgeEnd k) then
      let b := bridgeBack k
      let s := countEnter (bump64 s (pgBridge b) 0x058 n) (bridgeEnd k) (65 - k % 3) n
      setBridge s b { getBridge s b with lastAt := s.odometer, lost := false }
    else s
  | _ => s

/-- Flits injected on a die (R271), at the crossbar port of a block. -/
def countIn (s : State) (src : Stop) (cw n : Nat) : State :=
  let d := stopDie src
  let s := match src with | .block _ port => countEnter s d port n | _ => s
  { s with fabric := { s.fabric with cwFlits := store s.fabric.cwFlits (8 * d + cw) (look s.fabric.cwFlits (8 * d + cw) 0 + n) } }

/-- A response for an engine of a core whose reset has taken the request away: absorbed at the roadblock, or discarded and counted
once it is lowered (R376, R377). -/
def lateAnswer (s : State) (core eng : Nat) : State :=
  if roadblocked s (.core core) || engineBlocked s core eng then s else addEvent s (pgCtl (dieOfCore core)) 1

/-- A request of a DM slot has reached its channel or cache, which answers it; the response reaches the core (R140, R261). -/
def dmLanded (s : State) (p : Packet) (core slot seq : Nat) (resp : Bool) : State :=
  let mine := fun (r : DmReq) => r.seq == seq
  if resp && !(getCore s core).reqs.any (fun e => e.1 == slot && e.2.any mine) then lateAnswer s core 4
  else if resp then
    modCore s core (fun x => { x with reqs := x.reqs.map (fun e =>
      if e.1 == slot then (e.1, e.2.map (fun r => if mine r then { r with away := false, mark := r.mark || p.mark } else r)) else e) })
  else
    match look (getCore s core).reqs slot none with
    | some r =>
      if mine r then
        inject s { cargo := .dm core slot seq true, src := p.dst, dst := p.src, cw := if r.kind == 1 then 0 else p.cw, resp := true,
                   flits := if r.kind == 1 then 1 else flitsOf ((r.pieces.map (fun x => x.len)).sum), mark := p.mark }
      else s
    | none => s

/-- A packet leaves the fabric at its destination. -/
def landed (s : State) (p : Packet) : State :=
  match p.cargo with
  | .msg m => arrived s { m with mark := m.mark || p.mark }
  | .egress port wide m => pushEgress s port false wide { m with mark := m.mark || p.mark }
  | .transit port m =>
    let m := { m with mark := m.mark || p.mark }
    if m.dstChip == chipId s then postFrom s port m else pushEgress s port true true m
  | .dm core slot seq resp => dmLanded s p core slot seq resp

/-- A packet is refused at the edge of a fenced die (R376, R387): a message goes to its arrival command with FENCED as its code, and
so does a chip-bound request, which that command answers; a chip-bound answer is lost; a DM slot learns it. -/
def refuse (s : State) (p : Packet) : State :=
  match p.cargo with
  | .msg m => arrived s { m with code := Code.fenced.num }
  | .egress _ _ m => if m.resp then s else arrived s { m with code := Code.fenced.num }
  | .transit _ _ => s
  | .dm core slot seq _ =>
    modCore s core (fun x => { x with reqs := x.reqs.map (fun e =>
      if e.1 == slot then
        (e.1, e.2.map (fun r => if r.seq == seq then { r with away := false, bad := Code.fenced.num } else r)) else e) })

/-- The crossbar port by which a packet enters the column that rotation chose, which then moves on (Table 72). -/
def rotate (s : State) (p : Packet) (q : Place) : State :=
  let turn := fun (k : Nat) =>
    { s with fabric := { s.fabric with rot := store s.fabric.rot k ((look s.fabric.rot k 0 + 1) % 40) } }
  let across := match q, p.dst with
    | .column d _ _ i, .block e n => e != d || gateOf n != i
    | .column d _ _ _, .site e _ _ => e != d
    | _, _ => false
  if !across then s
  else match p.here, p.src with
    | none, .block d n => turn (d * 128 + n)
    | some (.bridge k), _ => turn (bridgeEnd k * 128 + (65 - k % 3))
    | _, _ => s

/-- The winner of an output makes its hop. -/
def takeHop (s : State) (p : Packet) (h : Hop) : State :=
  let s := { s with fabric := { s.fabric with packets := s.fabric.packets.erase p } }
  let s := match p.here with | some q => countPast s q p.flits | none => countIn s p.src p.cw p.flits
  match h with
  | .arrive => landed s p
  | .refuse => refuse s p
  | .move q _ cost =>
    let s := rotate s p q
    inject s { p with here := some q, wait := cost }

/-- One output chooses among the packets that want it. -/
def serveOutput (s : State) (l : List (Nat × Packet × Hop)) (o : Bool × Place) : State :=
  let mine := l.filter (fun e => outputOf e.2.1 e.2.2 == o)
  let (w, a) := drr (cwWeight s (placeDie o.2)) (fun cw => (firstOf mine cw).map (fun e => e.2.1.flits)) 64 (arbOf s o)
  match w.bind (firstOf mine) with
  | none => setArb s o a
  | some (_, p, h) => takeHop (setArb s o { a with busy := ceilDiv p.flits (outputWidth s o) }) p h

/-- Marks (R261) and waits of the packets that stay where they are with their header there. DESIGN CHOICE (notes/assumptions/151.md): a
packet still at its source waits at no stop yet, so that it takes no mark and counts in no TEL_STALL. The bypass marks nothing. -/
def markWaiting (s : State) (d : Nat) : State :=
  let reg := regOf s (pgFabric d) 0x04C
  let waits := s.fabric.packets.filter (fun p => p.wait == 0 && !onBypass p && (p.here.any (fun q => placeDie q == d)))
  let full := fun (p : Packet) => bitOf reg 8 && !p.resp && !p.mark && !onBypass p && decide (1 ≤ p.cw ∧ p.cw ≤ 3) &&
    p.here.any (fun q => placeDie q == d && decide (fieldOf reg 0 5 ≤ queued s q p.cw p.resp))
  let new := waits.filter full
  let at_ := fun (l : List Packet) => (l.filter (fun p => p.here.any (fun q => (telPlaces s d).contains q))).length
  let depth := ((telPlaces s d).flatMap (fun q => (List.range 10).map (fun i => queued s q (i / 2) (i % 2 == 1)))).foldl max 0
  let s := setTel s d { getTel s d with
    marks := (getTel s d).marks + at_ new, stall := (getTel s d).stall + (if at_ waits = 0 then 0 else 1),
    depth := max (getTel s d).depth depth }
  let s := (List.range 2).foldl (fun s b =>
    if waits.any (fun p => p.here == some (.bridge (3 * d + b))) then bump64 s (pgBridge (3 * d + b)) 0x060 1 else s) s
  let s := addEvent s (pgFabric d) new.length
  { s with fabric := { s.fabric with packets := s.fabric.packets.map (fun p => if p.wait == 0 && full p then { p with mark := true } else p) } }

/-- One fabric cycle: every output serves one packet, and what still stands waits. -/
def fabricCycle (s : State) : State :=
  let l := movable s
  let s := ((l.map (fun e => outputOf e.2.1 e.2.2)).eraseDups).foldl (fun s o => serveOutput s l o) s
  let s := (List.range 4).foldl (fun s d => if s.power.state == .on && dieUp s d then markWaiting s d else s) s
  { s with fabric := { s.fabric with
    packets := s.fabric.packets.map (fun p => { p with wait := p.wait - 1 }),
    arbs := s.fabric.arbs.map (fun e => (e.1, { e.2 with busy := e.2.busy - 1 })) } }

/-- A nanosecond of the die fabrics and the bypass bridges: two cycles at 2.0 GHz. With no packet every arbiter is at rest. -/
def fabricRun (s : State) : State :=
  if s.fabric.packets.isEmpty then { s with fabric := { s.fabric with arbs := [] } }
  else fabricCycle (fabricCycle s)

end Sys2Proof.Machine
end

