-- ==== Sys2Proof/Machine/Mem.lean ====
section
/-!
DEFINITION. HBM: placement of frames on channels (R197, R198), the frame map's decision on an access (R201), encryption
(R204), poison (R206), lost stacks (R213) and reads through a remote-line cache (R215). Bytes are kept by physical
address: channel number × 2^32 + channel offset.
-/
namespace Sys2Proof.Machine

/-! ### Frame map entries -/

def feState (e : Nat) : Nat := fieldOf e 0 2
def fePackage (e : Nat) : Bool := bitOf e 2
def feDie (e : Nat) : Nat := fieldOf e 3 2
def fePoison (e : Nat) : Bool := bitOf e 5
def feNoRlc (e : Nat) : Bool := bitOf e 6
def fePart (e : Nat) : Nat := fieldOf e 8 4
def feSpace (e : Nat) : Nat := fieldOf e 16 24

def frameEntry (s : State) (f : Nat) : Nat := look s.fm.entries f 0

/-- b of R197. -/
def ilSplit (s : State) : Nat := fieldOf (regOf s (pgHbm 0) 0x100) 0 7

/-- Table 60: channel and channel offset of a space address. -/
def locate (b : Nat) (package : Bool) (die a : Nat) : Nat × Nat :=
  if package then
    let w := a / 2 ^ 15
    let stack := 3 * fieldOf a 13 2 + w % 3
    (stack * 16 + fieldOf a 9 4, 512 * (w / 3) + a % 512)
  else
    let d := a / 2 ^ 13
    let stack := 3 * die + d % 3
    (stack * 16 + fieldOf a 9 4, b * 2 ^ 26 + 512 * (d / 3) + a % 512)

/-- Channel and offset of a frame address under an entry. -/
def placeOf (s : State) (e addr : Nat) : Nat × Nat :=
  locate (ilSplit s) (fePackage e) (feDie e) (65536 * feSpace e + addr % 65536)

def physOf (p : Nat × Nat) : Nat := p.1 * 2 ^ 32 + p.2

/-- Number of frames in a space (R197) and whether a space frame lies inside and outside the reserved ones (R199). -/
def spaceOk (b : Nat) (package : Bool) (sf : Nat) : Bool :=
  if package then decide (2816 ≤ sf ∧ sf < 196608 * b) else decide (sf < 49152 * (64 - b))

/-- Index of a space frame in the reverse map: PACKAGE frames first, then the DIE spaces (R199). -/
def claimIndex (b : Nat) (e : Nat) : Nat :=
  if fePackage e then feSpace e else 196608 * b + feDie e * 49152 * (64 - b) + feSpace e

/-- The first failure of an access through a frame (R201, R134), or none. -/
def accessFail (s : State) (part addr : Nat) : Option Code :=
  let e := frameEntry s (addr / 65536)
  if feState e != 1 then some .absent
  else if fePart e != part then some .notOwner
  else if fePoison e then some .checkFailed
  else
    let ch := (placeOf s e addr).1
    if !dieUp s (dieOfChan ch) then some .fenced else none

/-- The address in PACKAGE space of a frame's entry, and of the word of the reverse map for an entry's space frame (R199). -/
def entryAddr (f : Nat) : Nat := 8 * f
def claimAddr (s : State) (e : Nat) : Nat := 2048 * 65536 + 4 * claimIndex (ilSplit s) e

/-! ### Encryption -/

/-- The seal of a 512-byte block of frame address written under a partition's key set: generation, key set, tweak (R204). -/
def sealOf (s : State) (keyset block : Nat) : Nat := (look s.qsc.keyGen keyset 0 * 17 + keyset) * 2 ^ 32 + block

/-- The byte that a read under seal z returns: the plain byte when it was written under z or never written, otherwise
meaningless data that depends on both seals and the ciphertext's 16-byte block. -/
def openByte (s : State) (phys z : Nat) : Byte :=
  match look s.seals (phys / 16) none with
  | none => loadByte s.hbm phys
  | some w =>
    if w = z then loadByte s.hbm phys
    else Config.garbled phys (z + 2 ^ 64 * (w + 2 ^ 64 * memNum s.hbm (phys / 16 * 16) 16))

def openBytes (s : State) (phys z n : Nat) : List Byte := (List.range n).map (fun i => openByte s (phys + i) z)

/-- One 16-byte block with the given bytes of it written under seal z; under another seal the rest of the block is
re-encrypted as it reads. -/
def sealBlock (s : State) (q z : Nat) (new : Nat → Option Byte) : State :=
  let bytes := (List.range 16).map (fun i => (new i).getD (openByte s (q * 16 + i) z))
  { s with hbm := storeBytes s.hbm (q * 16) bytes, seals := store s.seals q (some z) }

/-- Bytes written from a physical address upward under seal z, block by block. -/
def sealBytes (s : State) (phys z : Nat) (l : List Byte) : State :=
  let q0 := phys / 16
  let n := (phys + l.length + 15) / 16 - q0
  (List.range n).foldl (fun s i =>
    sealBlock s (q0 + i) z (fun j => let a := (q0 + i) * 16 + j; if a < phys then none else l[a - phys]?)) s

/-! ### Poison and loss -/

def poisoned (s : State) (phys : Nat) : Bool := look s.poison (phys / 32) false
def stackLost (s : State) (chan : Nat) : Bool := (getStack s (chan / 16)).state == 2

/-- Why the granule of the frame map or the reverse map at an address of PACKAGE space cannot be read or written (R199, R206, R213,
R214), or none. -/
def mapFail (s : State) (a : Nat) : Option Code :=
  let pl := locate (ilSplit s) true 0 a
  if !dieUp s (dieOfChan pl.1) then some .fenced
  else if stackLost s pl.1 || poisoned s (physOf pl) then some .checkFailed
  else none

/-- Why a line of the frame map, 8 entries in two granules, cannot be read (R199, R201). -/
def mapLineFail (s : State) (l : Nat) : Option Code := (mapFail s (64 * l)).or (mapFail s (64 * l + 32))

/-- The failure of an access that obtains its entry through the cache of a sequencer, a kerbside engine or the BAR4 window: the cache
reads the entry's line from the frame map unless it still holds it (R201). Whether it does is a free value (notes/assumptions/140.md). -/
def cacheFail (s : State) (addr : Nat) : Option Code :=
  match mapLineFail s (addr / 65536 / 8) with
  | none => none
  | some c => if Config.mapHeld (addr / 65536 / 8) s.odometer s.fresh then none else some c

/-- Whether any granule of [phys, phys + n) is poisoned. -/
def anyPoison (s : State) (phys n : Nat) : Bool :=
  (List.range ((phys + n + 31) / 32 - phys / 32)).any (fun i => look s.poison (phys / 32 + i) false)

/-- A channel is in a maintenance window, in which accesses to it wait (R211). -/
def inWindow (s : State) (chan : Nat) : Bool := look (getStack s (chan / 16)).maint (chan % 16) false

/-- Entries of a channel's scoreboard (R223). -/
def sbSize : Nat := 384

/-- A channel takes an access that one command makes whole: it is in no maintenance window, and its kerbside engine's scoreboard has
an entry (R196, R211, R223). -/
def chanReady (s : State) (chan : Nat) : Bool := decide ((getKerb s chan).sb < sbSize) && !inWindow s chan

/-- No channel of the chip holds accesses back. -/
def allReady (s : State) : Bool :=
  s.kerbs.all (fun e => decide (e.2.sb < sbSize)) && s.hbmStacks.all (fun e => e.2.maint.all (fun m => !m.2))

/-- A read of n bytes inside one aligned 512-byte block (R206, R213). -/
def readBlock (s : State) (part addr n : Nat) : Except Code (List Byte) :=
  match accessFail s part addr with
  | some c => .error c
  | none =>
    let pl := placeOf s (frameEntry s (addr / 65536)) addr
    if stackLost s pl.1 || anyPoison s (physOf pl) n then .error .checkFailed
    else .ok (openBytes s (physOf pl) (sealOf s part (addr / 512)) n)

/-- A write to a physical address, granule by granule: a poisoned granule stays as it is and fails the writer, unless the write covers
it whole and `clears` its mark. The answer says whether every byte was written. -/
def writeGranules (s : State) (clears : Bool) (chan phys z : Nat) (l : List Byte) : State × Bool :=
  if stackLost s chan then (s, false)
  else
    let g0 := phys / 32
    let n := (phys + l.length + 31) / 32 - g0
    (List.range n).foldl (fun (t : State × Bool) i =>
      let lo := max phys ((g0 + i) * 32)
      let hi := min (phys + l.length) ((g0 + i + 1) * 32)
      let part := (l.drop (lo - phys)).take (hi - lo)
      if look t.1.poison (g0 + i) false && !(clears && hi - lo == 32) then (t.1, false)
      else ({ sealBytes t.1 lo z part with poison := drop1 t.1.poison (g0 + i) }, t.2)) (s, true)

/-- A write to a physical address at its point of coherence: whole poisoned granules are cleared of their mark, partly
written ones stay poisoned and unchanged and fail the writer (R206). -/
def writePhys (s : State) (chan phys z : Nat) (l : List Byte) : State × Bool := writeGranules s true chan phys z l

/-- A write of bytes inside one aligned 512-byte block through the frame map. -/
def writeBlock (s : State) (part addr : Nat) (l : List Byte) : State × Option Code :=
  match accessFail s part addr with
  | some c => (s, some c)
  | none =>
    let pl := placeOf s (frameEntry s (addr / 65536)) addr
    let (s, ok) := writePhys s pl.1 (physOf pl) (sealOf s part (addr / 512)) l
    (s, if ok then none else some .checkFailed)

/-- [addr, addr + n) cut at 512-byte boundaries: address and length of each piece. -/
def pieces512 (addr n : Nat) : List (Nat × Nat) :=
  (List.range ((addr + n + 511) / 512 - addr / 512)).map (fun i =>
    let lo := max addr ((addr / 512 + i) * 512)
    let hi := min (addr + n) ((addr / 512 + i + 1) * 512)
    (lo, hi - lo))

/-- A block read, or written, through the frame map cache of a sequencer, a kerbside engine or the BAR4 window (R201). -/
def readCached (s : State) (part addr n : Nat) : Except Code (List Byte) :=
  match cacheFail s addr with | some c => .error c | none => readBlock s part addr n
def writeCached (s : State) (part addr : Nat) (l : List Byte) : State × Option Code :=
  match cacheFail s addr with | some c => (s, some c) | none => writeBlock s part addr l

/-- A read of any length; the first block that fails gives the code. -/
def readRange (s : State) (part addr n : Nat) : Except Code (List Byte) :=
  (pieces512 addr n).foldl (fun (acc : Except Code (List Byte)) p =>
    match acc with
    | .error c => .error c
    | .ok l => match readCached s part p.1 p.2 with | .error c => .error c | .ok b => .ok (l ++ b)) (.ok [])

/-- A write of any length, block by block; the first code met. -/
def writeRange (s : State) (part addr : Nat) (l : List Byte) : State × Option Code :=
  (pieces512 addr l.length).foldl (fun (t : State × Option Code) p =>
    let (s, c) := writeCached t.1 part p.1 ((l.drop (p.1 - addr)).take p.2)
    (s, match t.2 with | some x => some x | none => c)) (s, none)

/-- Every channel that an access of any length reaches takes it. -/
def rangeReady (s : State) (part addr n : Nat) : Bool :=
  allReady s || (pieces512 addr n).all (fun p =>
    (accessFail s part p.1).isSome || chanReady s (placeOf s (frameEntry s (p.1 / 65536)) p.1).1)

/-- The first failure among the frames that a range touches, or none (R342, R345): ABSENT and NOT_OWNER only. -/
def rangeFail (s : State) (part addr n : Nat) (retiredOk : Bool) : List (Bool × Code) :=
  let fs := (List.range ((addr + n + 65535) / 65536 - addr / 65536)).map (fun i => frameEntry s (addr / 65536 + i))
  [(fs.any (fun e => feState e != 0 && fePart e != part), .notOwner),
   (fs.any (fun e => feState e == 0 || (feState e == 2 && !retiredOk)), .absent)]

/-! ### Remote-line caches -/

/-- The die whose HBM a frame address lies in. -/
def dieOfAddr (s : State) (addr : Nat) : Nat := dieOfChan (placeOf s (frameEntry s (addr / 65536)) addr).1

/-- The remote-line cache of a die holds every line of [addr, addr + n). -/
def cacheHolds (s : State) (die addr n : Nat) : Bool :=
  (List.range ((addr + n + 127) / 128 - addr / 128)).all (fun i => (getRlc s die).lines.any (fun x => x.line == addr / 128 + i))

/-- Every read of [addr, addr + n) that cores of a die make whole finds its channel ready or its lines in the cache (R196, R215). -/
def viaReady (s : State) (die part addr n : Nat) : Bool :=
  allReady s || (pieces512 addr n).all (fun p =>
    let e := frameEntry s (p.1 / 65536)
    (accessFail s part p.1).isSome || (dieOfAddr s p.1 != die && !feNoRlc e && cacheHolds s die p.1 p.2) ||
      chanReady s (placeOf s e p.1).1)

/-- Lines of a cache set, 16 ways (R215): installing drops the least recently used. DESIGN CHOICE (notes/assumptions/125.md): a line
falls in the set of its number mod 8,192. -/
def installLine (l : List RlcLine) (x : RlcLine) : List RlcLine :=
  let same := l.filter (fun y => y.line % 8192 == x.line % 8192 && y.line != x.line)
  let keep := same.take 15
  x :: l.filter (fun y => y.line != x.line && (y.line % 8192 != x.line % 8192 || keep.contains y))

/-- Drops the lines with a property from one cache; fills in flight that have it are not installed (R217). -/
def dropLines (s : State) (die : Nat) (p : Nat → Bool) : State :=
  let c := getRlc s die
  setRlc s die { c with lines := c.lines.filter (fun x => !p x.line),
                        fills := c.fills.map (fun x => if p x.line then { x with dead := true } else x) }

/-- Lines of frames of other dies that a block of a die has written leave that die's own cache (R216). -/
def dropOwn (s : State) (die part addr n : Nat) : State :=
  dropLines s die (fun l => decide (addr / 128 ≤ l ∧ l * 128 < addr + n) && (accessFail s part (128 * l)).isNone &&
    dieOfAddr s (128 * l) != die)

def dropLinesAll (s : State) (p : Nat → Bool) : State := (List.range 4).foldl (fun s d => dropLines s d p) s

/-- Lines [addr / 128, (addr + n) / 128). -/
def coversLine (addr n line : Nat) : Bool := decide (addr / 128 ≤ line ∧ line * 128 < addr + n)

/-- The hub die as the place of a block; its bridges reach every compute die (R15). -/
def hubDie : Nat := 4

/-- No way is open from a die to another one that holds the bytes of an address a partition may reach: both middle dies of a diagonal
route are fenced (R387). -/
def wayShut (s : State) (die part addr : Nat) : Bool :=
  die != hubDie && (accessFail s part addr).isNone && dieOfAddr s addr != die && (wayOut s die (dieOfAddr s addr)).isNone

/-- A read of any length that a block of a die makes; the first block that fails gives the code and its address. -/
def readRangeAt (s : State) (die part addr n : Nat) : Except (Code × Nat) (List Byte) :=
  (pieces512 addr n).foldl (fun (acc : Except (Code × Nat) (List Byte)) p =>
    match acc with
    | .error c => .error c
    | .ok l =>
      if wayShut s die part p.1 then .error (.fenced, p.1)
      else match readCached s part p.1 p.2 with | .error c => .error (c, p.1) | .ok b => .ok (l ++ b)) (.ok [])

/-- A block written by a block of a die: FENCED where no way is open. -/
def writeWay (s : State) (die part addr : Nat) (l : List Byte) : State × Option Code :=
  if wayShut s die part addr then (s, some .fenced) else writeCached s part addr l

/-- A write of any length that a block of a die makes, with the first code met and its address. -/
def writeRangeAt (s : State) (die part addr : Nat) (l : List Byte) : State × Option (Code × Nat) :=
  (pieces512 addr l.length).foldl (fun (t : State × Option (Code × Nat)) p =>
    let (s, c) := writeWay t.1 die part p.1 ((l.drop (p.1 - addr)).take p.2)
    (s, match t.2 with | some x => some x | none => c.map (fun c => (c, p.1)))) (s, none)

/-- A large block of bytes, held sparsely and numbered from 0, written by a block of a die. -/
def writeSparse (s : State) (die part addr n : Nat) (m : SMap Byte) : State × Option Code :=
  (pieces512 addr n).foldl (fun (t : State × Option Code) p =>
    let (s, c) := writeWay t.1 die part p.1 (loadBytes m (p.1 - addr) p.2)
    (s, match t.2 with | some x => some x | none => c)) (s, none)

/-- A write lands, and its lines of other dies' frames leave its die's own cache (R216). -/
def landWrite (s : State) (w : LateWrite) : State :=
  let t := (writeRangeAt s w.die w.part w.addr w.data).1
  if w.die == hubDie then t else dropOwn t w.die w.part w.addr w.data.length

/-- A write whose outcome its block does not await: it lands at once, or waits for its channel (R211, R223). -/
def writeLater (s : State) (die part addr : Nat) (l : List Byte) : State :=
  if rangeReady s part addr l.length then landWrite s { die := die, part := part, addr := addr, data := l }
  else { s with late := s.late ++ [{ die := die, part := part, addr := addr, data := l }] }

/-- The waiting writes whose channels serve again land, in their order. -/
def landLate (s : State) : State :=
  s.late.foldl (fun s w =>
    if rangeReady s w.part w.addr w.data.length then landWrite s w else { s with late := s.late ++ [w] }) { s with late := [] }

/-- A read by a core of a die of bytes inside one 512-byte block: own-die bytes come from the channel, bytes of another
die's frame through the remote-line cache unless NO_RLC is set (R24, R215). -/
def readVia (s : State) (die part addr n : Nat) : State × Except Code (List Byte) :=
  match accessFail s part addr with
  | some c => (s, .error c)
  | none =>
    let e := frameEntry s (addr / 65536)
    if dieOfAddr s addr == die || feNoRlc e then (s, if wayShut s die part addr then .error .fenced else readBlock s part addr n)
    else
      let l0 := addr / 128
      let k := (addr + n + 127) / 128 - l0
      (List.range k).foldl (fun (t : State × Except Code (List Byte)) i =>
        match t.2 with
        | .error _ => t
        | .ok acc =>
          let line := l0 + i
          let lo := max addr (line * 128)
          let hi := min (addr + n) ((line + 1) * 128)
          let c := getRlc t.1 die
          match c.lines.find? (fun x => x.line == line) with
          | some x =>
            let s := setRlc t.1 die { c with lines := x :: c.lines.filter (fun y => y.line != line) }
            (bump64 s (pgRlc die) 0x054 1, .ok (acc ++ loadBytes x.bytes (lo - line * 128) (hi - lo)))
          | none =>
            let s := bump64 t.1 (pgRlc die) 0x05C 1
            match if wayShut s die part addr then .error .fenced else readBlock s part lo (hi - lo) with
            | .error c => (s, .error c)
            | .ok b =>
              let s := match readBlock s part (line * 128) 128 with
                | .error _ => s
                | .ok w =>
                  let c := getRlc s die
                  setRlc s die { c with fills := c.fills ++ [{ line := line, bytes := storeBytes [] 0 w }] }
              (s, .ok (acc ++ b))) (s, .ok [])

/-- A write by a core of a die: through the bridges it drops the written lines of that die's own cache (R216). -/
def writeVia (s : State) (die part addr : Nat) (l : List Byte) : State × Option Code :=
  let (s, c) := writeBlock s part addr l
  match c with
  | some (.absent) => (s, c)
  | some (.notOwner) => (s, c)
  | some (.fenced) => (s, c)
  | _ => (if dieOfAddr s addr == die then s else dropLines s die (coversLine addr l.length), c)

end Sys2Proof.Machine
end

