-- ==== Sys2Proof/Machine/Net.lean ====
section
/-!
DEFINITION. Congestion windows (R262), scoreboard reservations (R253), and chip-bound requests and answers up to a port's egress
queue (R264, R266, R281, R287).
-/
namespace Sys2Proof.Machine

/-! ### Congestion windows (R262) -/

/-- A source's maximum: its slot count (R140, R223, R298, R323). -/
def winMax (src : Source) : Nat :=
  match src with
  | .dm _ => 16
  | .kerb _ => 256
  | .ix _ => 256
  | .col _ => 4096

def winsOf (s : State) (src : Source) : SMap CwWin :=
  match src with
  | .dm c => (getCore s c).wins
  | .kerb k => (getKerb s k).wins
  | .ix d => (getIx s d).wins
  | .col d => (getCol s d).wins

def setWins (s : State) (src : Source) (w : SMap CwWin) : State :=
  match src with
  | .dm c => modCore s c (fun x => { x with wins := w })
  | .kerb k => modKerb s k (fun x => { x with wins := w })
  | .ix d => setIx s d { getIx s d with wins := w }
  | .col d => setCol s d { getCol s d with wins := w }

def winOf (s : State) (src : Source) (cw : Nat) : CwWin :=
  look (winsOf s src) cw { w := winMax src, lastDec := 0 }

/-- 512 fabric cycles at 2.0 GHz. -/
def cwPeriod : Nat := 256

/-- An acknowledgement with a mark: W is halved, once in 512 fabric cycles; an increase at the same value does not apply. `lastDec`
holds the odometer value plus 1. -/
def cwDecrease (s : State) (src : Source) (cw : Nat) : State :=
  let x := winOf s src cw
  let w := if x.rose == s.odometer + 1 then x.w - 1 else x.w
  if x.lastDec != 0 && s.odometer < x.lastDec - 1 + cwPeriod then s
  else setWins s src (store (winsOf s src) cw { w := max 1 (w / 2), lastDec := s.odometer + 1, since := s.odometer })

/-- W rises by 1 after 512 fabric cycles without a decrease. -/
def cwIncrease (s : State) (src : Source) (cw : Nat) : State :=
  let x := winOf s src cw
  if s.odometer < x.since + cwPeriod then s
  else setWins s src (store (winsOf s src) cw { x with
    w := min (winMax src) (x.w + 1), since := s.odometer, rose := if x.w < winMax src then s.odometer + 1 else x.rose })

/-- CW_WINDOW_INCREASE: windows exist for CW1 to CW3. -/
def execCwWindowIncrease (src : Source) (cw : Fin 3) (s : State) : Result := .next (cwIncrease s src (cw.val + 1))

/-! ### Scoreboards (R223, R253) -/

/-- Takes a scoreboard entry if one is free. -/
def sbTake (s : State) (chan : Nat) : State × Bool :=
  let k := getKerb s chan
  if k.sb < sbSize then (setKerb s chan { k with sb := k.sb + 1 }, true) else (s, false)

def sbFree (s : State) (chan : Nat) : State := modKerb s chan (fun k => { k with sb := k.sb - 1 })

/-- The request of a DM slot leaves its source on CW3: for its channel's engine, or for the remote-line cache (R259). -/
def sendReq (s : State) (core slot : Nat) (r : DmReq) : State :=
  inject s { cargo := .dm core slot r.seq false, src := coreStop s core,
             dst := if r.resv then kerbStop r.chan else rlcStop (dieOfCore core), cw := 3, resp := false,
             flits := if r.kind == 1 then flitsOf r.data.length else 1 }

/-- Request slots of a core that still wait for a reservation of a channel. -/
def unreserved (s : State) (core chan : Nat) : List Nat :=
  (List.range 16).filter (fun i => match look (getCore s core).reqs i none with
    | some r => r.resv && !r.granted && r.chan == chan
    | none => false)

/-- A core's next waiting request enters the reservation table, which holds one reservation for each stop (R253). -/
def queueResv (s : State) (core chan : Nat) : State :=
  let k := getKerb s chan
  if k.resv.any (fun e => e.1 == core) then s
  else match (unreserved s core chan).head? with
    | some i => setKerb s chan { k with resv := k.resv ++ [(core, i)] }
    | none => s

/-- RESERVATION_GRANT: the oldest waiting request gets a free entry and leaves its source. -/
def execReservationGrant (chan : ChanId) (s : State) : Result :=
  let k := getKerb s chan
  .next (match k.resv with
    | [] => s
    | r :: rest =>
      if k.sb < sbSize then
        let s := modCore (setKerb s chan { k with resv := rest, sb := k.sb + 1 }) r.1 (fun x =>
          { x with reqs := x.reqs.map (fun q =>
              if q.1 == r.2 then (q.1, q.2.map (fun d => { d with granted := true })) else q) })
        let s := match look (getCore s r.1).reqs r.2 none with | some q => sendReq s r.1 r.2 q | none => s
        queueResv s r.1 chan
      else s)

/-! ### Messages within the chip -/

/-- An arrived message is taken. -/
def dropMsg (s : State) (i : Nat) : State := { s with net := s.net.eraseIdx i }

/-- A message of this chip to one of its own dies. -/
def innerMsg (s : State) (die cw code : Nat) (resp : Bool) (b : Body) : Msg :=
  { srcChip := chipId s, dstChip := chipId s, dstDie := die, cw := cw, resp := resp, mark := false, req := 0, code := code,
    job := 0, body := b }

/-- A core can be reached: its die's fabric is powered and up, and it stands behind no roadblock (R376, R403). -/
def coreReach (s : State) (core : Nat) : Bool :=
  s.power.state == .on && dieUp s (dieOfCore core) && !roadblocked s (.core core)

/-- A message reaches an engine of a core, which takes contributions (DM) or milestone messages (MS): no fence turned it away on its
way, and no roadblock stands before the core or the engine. -/
def msgReach (s : State) (m : Msg) (core eng : Nat) : Bool := m.code == 0 && coreReach s core && !engineBlocked s core eng

/-! ### Chip-bound traffic -/

/-- Entry X of a die's active bank (R263, R264). -/
def routeEntry (s : State) (die chip : Nat) : Nat :=
  let r := getRoute s die
  look (if r.active then r.bank1 else r.bank0) chip 0

def rtValid (e : Nat) : Bool := bitOf e 15
def rtSpread (e : Nat) : Bool := bitOf e 14
def rtPortA (e : Nat) : Nat := fieldOf e 0 5
def rtPortB (e : Nat) : Nat := fieldOf e 5 5

def portActive (s : State) (p : Nat) : Bool := (getPort s p).tstate == 5

/-- The egress port for a destination, or none where the entry is not VALID or names no ACTIVE port (R264, R281). -/
def routeFor (s : State) (die src dst : Nat) : Option Nat :=
  let e := routeEntry s die dst
  let a := rtPortA e
  let b := rtPortB e
  if !rtValid e then none
  else if rtSpread e then
    if portActive s a && portActive s b then some (if Config.spread (src * 65536 + dst) 2 % 2 = 0 then a else b)
    else if portActive s a then some a else if portActive s b then some b else none
  else if portActive s a then some a else none

/-- A packet that starts here crosses the die fabric to the interface of its egress port, on this die or another (R264). -/
def sendEgress (s : State) (die port : Nat) (m : Msg) : State :=
  inject s (packetOf (msgFrom s die m) (linkStop port) (.egress port true m) m)

/-- What became of a chip-bound request at its source. -/
inductive Sent where
  | sent (s : State) (req : Nat)
  | held
  | absent

/-- A die's source sends a request to another chip, unless HOLD keeps it or no port carries it (R264, R266). -/
def sendRequest (s : State) (die : Nat) (m : Msg) : Sent :=
  if (getRoute s die).hold then .held
  else match routeFor s die m.srcChip m.dstChip with
    | none => .absent
    | some p =>
      let m := { m with req := s.nextReq }
      let s := { s with nextReq := s.nextReq + 1,
                        outs := s.outs ++ [{ req := m.req, die := die, sentAt := s.odometer, msg := m }] }
      .sent (sendEgress s die p m) m.req

/-- The die whose fabric carries an answer of a die: another one that is up, which answers at the edge, while the die is fenced
(R376). -/
def edgeDie (s : State) (d : Nat) : Nat := if dieUp s d then d else ((List.range 4).find? (dieUp s)).getD d

/-- An answer goes back to the chip that asked; within the chip it stays inside. An answer for which no port serves is lost, and the
chip that asked times out (DEDUCED, notes/assumptions/116.md): R264's fault is of the source of a request. -/
def sendAnswer (s : State) (die : Nat) (m : Msg) : State :=
  let die := edgeDie s die
  if m.dstChip == chipId s then postMsg s die m
  else match routeFor s die m.srcChip m.dstChip with
    | none => s
    | some p => sendEgress s die p m

/-- The answer to a request, to a die of the chip that asked, with its code. -/
def answerTo (s : State) (die code : Nat) (m : Msg) (b : Body) : Msg :=
  { srcChip := chipId s, dstChip := m.srcChip, dstDie := die, cw := m.cw, resp := true, mark := m.mark, req := m.req,
    code := code, job := 0, body := b, epoch := m.epoch }

/-- The epoch of a die's DIE_FABRIC, which issues the requests of its interchange and collective controller (R377). -/
def dieTag (s : State) (d : Nat) : Nat := epochOf s (.die (Fin.ofNat 4 d))

/-- An answer to a die that no request awaits: discarded, and counted where a reset has taken the request away (R377). -/
def unawaited (s : State) (m : Msg) : State :=
  if dieUp s m.dstDie && m.epoch != dieTag s m.dstDie then addEvent s (pgCtl m.dstDie) 1 else s

/-- The page of the source of a chip-bound request. -/
def outPage (o : OutReq) : Nat :=
  match o.msg.body with
  | .remoteAdd src _ _ _ _ => pgCore src
  | .ix _ => pgIx o.die
  | _ => pgCol o.die

/-- An acknowledged request leaves OUTSTANDING; false where it is not outstanding. An acknowledgement in the cycle of the request's
expiry wins, and the tie is counted (R287). -/
def settleOut (s : State) (req : Nat) : State × Bool :=
  match s.outs.find? (fun o => o.req == req) with
  | none => (s, false)
  | some o =>
    let s := { s with outs := s.outs.filter (fun o => o.req != req) }
    (if o.sentAt + 2 * msNs == s.odometer then addTie s (outPage o) else s, true)

end Sys2Proof.Machine
end

