-- ==== Sys2Proof/Machine/Abort.lean ====
section
/-!
DEFINITION. What exchanges (chapter 15) and collective operations (chapter 16) share with the stops of a context: their
descriptors, the queue from which a die's interchange and collective controller send, and aborts (R308, R327).
-/
namespace Sys2Proof.Machine

/-- Frame address in a pair of descriptor words. -/
def wAddr (w : List Nat) (i : Nat) : Nat := nth w i + 2 ^ 32 * fieldOf (nth w (i + 1)) 0 8

/-- Words of a descriptor's bytes. -/
def wordsOf (l : List Byte) (n : Nat) : List Nat := (List.range n).map (fun i => numAt l (4 * i) 4)

/-- A peer list entry (R298): chip, context, die. -/
def peerChip (e : Nat) : Nat := fieldOf e 0 16
def peerCtx (e : Nat) : Nat := fieldOf e 16 8
def peerDie (e : Nat) : Nat := fieldOf e 24 2

def ctxPart (s : State) (c : Nat) : Nat := (getCtx s c).part

/-- LAST of a controller's signal: CHIP, INSTANCE, SOURCE (R177). -/
def blockLast (s : State) (instance_ source : Nat) : Word := BitVec.ofNat 32 (chipId s * 65536 + instance_ * 16 + source)

/-- A request leaves its die with a number: to this chip's own rank as a message in flight, to another chip through its port.
Without a route it is answered ABSENT at once with the given body. None while HOLD keeps it. -/
def requestOut (s : State) (die : Nat) (m : Msg) (ack : Body) : Option (State × Nat) :=
  let m := { m with epoch := dieTag s die }
  if m.dstChip == chipId s then
    some (postMsg { s with nextReq := s.nextReq + 1 } die { m with req := s.nextReq }, s.nextReq)
  else match sendRequest s die m with
    | .held => none
    | .sent s q => some (s, q)
    | .absent =>
      some (arrived { s with nextReq := s.nextReq + 1 }
        { srcChip := m.dstChip, dstChip := m.srcChip, dstDie := die, cw := m.cw, resp := true, mark := false, req := s.nextReq,
          code := Code.absent.num, job := 0, body := ack, epoch := m.epoch }, s.nextReq)

/-! ### Exchanges -/

def getIxSlot (s : State) (d k : Nat) : IxSlot := look (getIx s d).slots k {}
def setIxSlot (s : State) (d k : Nat) (x : IxSlot) : State :=
  let i := getIx s d
  setIx s d { i with slots := store i.slots k x }
def modIxSlot (s : State) (d k : Nat) (f : IxSlot → IxSlot) : State := setIxSlot s d k (f (getIxSlot s d k))

def ixTag (w : List Nat) : Nat := fieldOf (nth w 0) 0 16
def ixRanks (w : List Nat) : Nat := fieldOf (nth w 0) 16 10 + 1
def ixMyRank (w : List Nat) : Nat := fieldOf (nth w 1) 0 10
def ixLocal (w : List Nat) : Nat := fieldOf (nth w 1) 16 8 + 1
def ixCombine (w : List Nat) : Bool := bitOf (nth w 1) 24
def ixRowBytes (w : List Nat) : Nat := 64 * (fieldOf (nth w 2) 0 8 + 1)
def ixRoutes (w : List Nat) : Nat := fieldOf (nth w 3) 0 16
def ixCap (w : List Nat) : Nat := fieldOf (nth w 4) 0 20 + 1
def ixLimit (w : List Nat) : Nat := fieldOf (nth w 5) 0 16
def ixStep (w : List Nat) : Nat := fieldOf (nth w 5) 16 16
def ixRoster (w : List Nat) : Nat := fieldOf (nth w 14) 0 6
/-- A core and milestone word. -/
def wCore (v : Nat) : Nat := fieldOf v 0 12
def wMs (v : Nat) : Nat := fieldOf v 12 6
/-- F of R300. -/
def ixFlows (w : List Nat) : Nat := 2 * ixRanks w * ixLocal w
/-- 512-byte parts of a row (R306). -/
def ixParts (w : List Nat) : Nat := ceilDiv (ixRowBytes w) 512

/-- A message of an exchange to a rank (Table 85). -/
def ixMsgTo (s : State) (x : IxSlot) (rank typ part arg : Nat) (data : List Byte) : Msg :=
  let e := nth x.peers rank
  { srcChip := chipId s, dstChip := peerChip e, dstDie := peerDie e, cw := 2, resp := false, mark := false, req := 0, code := 0,
    job := (getCtx s x.ctx).jobTag,
    body := .ix { typ := typ, part := part, tag := ixTag x.words, round := x.round, srcRank := ixMyRank x.words,
                  ctx := peerCtx e, arg := arg, payload := data } }

/-- The body of an interchange's ACK. -/
def ixAckBody (m : Msg) (code : Nat) : Body :=
  match m.body with
  | .ix x => .ix { x with typ := 8, part := 0, arg := code, payload := [] }
  | b => b

/-- Queues a request of an exchange. -/
def ixQueue (s : State) (d : Nat) (r : IxReq) (m : Msg) : State :=
  let i := getIx s d
  setIx s d { i with outbox := i.outbox ++ [(r, m)] }

def getFlow (s : State) (d i : Nat) : Flow := look (getIx s d).flows i {}
def setFlow (s : State) (d i : Nat) (f : Flow) : State :=
  let x := getIx s d
  setIx s d { x with flows := store x.flows i f }
def modFlow (s : State) (d i : Nat) (f : Flow → Flow) : State := setFlow s d i (f (getFlow s d i))

def sendFlow (x : IxSlot) (g : Nat) : Nat := x.flowBase + g
def recvFlow (x : IxSlot) (r e : Nat) : Nat := x.flowBase + ixRanks x.words * ixLocal x.words + r * ixLocal x.words + e

/-- Entry j of a slot's range with nothing counted: a send or a receive flow, its peer and its expert (R300, R301). -/
def heldFlow (x : IxSlot) (k j : Nat) : Flow :=
  let n := ixRanks x.words * ixLocal x.words
  { kind := if j < n then 1 else 2, slot := k, peer := j % n / ixLocal x.words, expert := j % n % ixLocal x.words }

/-- What a request changes as it leaves: GRANT_IN of the receive flows that a GRANT of the round in progress names (R301), and
ROWS_SENT with the last part of a row (R311). -/
def ixSent (s : State) (d : Nat) (r : IxReq) (m : Msg) : State :=
  let x := getIxSlot s d r.slot
  let now := match m.body with | .ix b => b.round == x.round && 3 ≤ x.phase && x.phase != 6 | _ => false
  if r.typ == 2 && now then
    (List.range (min 128 (ixLocal x.words - 128 * r.part))).foldl (fun s e =>
      modFlow s d (recvFlow x r.rank (128 * r.part + e)) (fun f => { f with grantIn := true })) s
  else if r.typ == 3 && r.part + 1 == ixParts x.words then bump64 s (pgIx d) 0x070 1
  else s

/-- Sends queued requests in order while the window of R262 has room and HOLD does not keep them (R306). -/
def ixPumpN (s : State) (d n : Nat) : State :=
  match n with
  | 0 => s
  | n + 1 =>
    let i := getIx s d
    match i.outbox with
    | [] => s
    | (r, m) :: rest =>
      if min 256 (winOf s (.ix (Fin.ofNat 4 d)) 2).w ≤ i.open_.length then s
      else match requestOut s d m (ixAckBody m Code.absent.num) with
        | none => s
        | some (s, q) =>
          let i := getIx s d
          ixPumpN (ixSent (setIx s d { i with outbox := rest, open_ := i.open_ ++ [{ r with req := q }] }) d r m) d n

def ixPump (s : State) (d : Nat) : State := ixPumpN s d (getIx s d).outbox.length

/-- The flow entries of a slot's range set to a function of their place. -/
def setFlows (s : State) (d base n : Nat) (f : Nat → Flow) : State :=
  let i := getIx s d
  setIx s d { i with flows := (List.range n).foldl (fun m j =>
    let v := f j
    if v = {} then drop1 m (base + j) else store m (base + j) v) i.flows }

/-- An aborting slot awaits its trigger again once its requests have completed. -/
def ixQuiet (s : State) (d k : Nat) : State :=
  let x := getIxSlot s d k
  if x.phase == 6 && !(getIx s d).open_.any (fun r => r.slot == k && r.typ != 7) then setIxSlot s d k { x with phase := 0 } else s

/-- Steps 1 to 4 of R308; what the die writes through the bridges leaves its remote-line cache (R216). The slot is left aborting, so
that the fault which follows does not abort it again; `ixQuiet` ends that. -/
def ixAbortQuiet (s : State) (d k code : Nat) (tell : Bool) : State :=
  let x := getIxSlot s d k
  let i := getIx s d
  let s := setIx s d { i with outbox := i.outbox.filter (fun e => e.1.slot != k) }
  let s := if tell then
      (List.range (ixRanks x.words)).foldl (fun s r =>
        if r == ixMyRank x.words then s
        else ixQueue s d { req := 0, slot := k, typ := 7, rank := r } (ixMsgTo s x r 7 0 code [])) s
    else s
  let s := writeLater s d (ctxPart s x.ctx) (wAddr x.words 28) (leBytes 4 (code + x.round * 65536))
  let s := setFlows s d x.flowBase (ixFlows x.words) (heldFlow x k)
  let s := setIxSlot s d k { x with
    phase := 6, sigs := [], retries := [], parts := [], readyIn := [], routes := [], counted := false,
    readySent := false, sentDone := false, arriveDone := false, combinedDone := false, sigAt := 0 }
  ixPump (bump32 (raise s (pgIx d) 0) (pgIx d) 0x088 1) d

/-- A slot and its flow range become free (R297, R300). The GRANTs, READYs and ABORTs it still owes other ranks go out all the same,
and its requests keep their place in the window until they are answered. -/
def ixFree (s : State) (d k : Nat) : State :=
  let x := getIxSlot s d k
  let s := setFlows s d x.flowBase (ixFlows x.words) (fun _ => {})
  let i := getIx s d
  let free := fun (r : IxReq) => if r.slot == k then { r with slot := 16 } else r
  setIx s d { i with
    slots := drop1 i.slots k,
    outbox := (i.outbox.filter (fun e => e.1.slot != k || [2, 4, 7].contains e.1.typ)).map (fun e => (free e.1, e.2)),
    open_ := i.open_.map free }

/-! ### Collective operations -/

def getColSlot (s : State) (d k : Nat) : ColSlot := look (getCol s d).slots k {}
def setColSlot (s : State) (d k : Nat) (x : ColSlot) : State :=
  let i := getCol s d
  setCol s d { i with slots := store i.slots k x }
def modColSlot (s : State) (d k : Nat) (f : ColSlot → ColSlot) : State := setColSlot s d k (f (getColSlot s d k))

def colKind (w : List Nat) : Nat := fieldOf (nth w 0) 0 4
def colRed (w : List Nat) : Nat := fieldOf (nth w 0) 4 3
def colFlush (w : List Nat) : Bool := bitOf (nth w 0) 7
def colOutEn (w : List Nat) : Bool := bitOf (nth w 0) 8
def colSat (w : List Nat) : Bool := bitOf (nth w 0) 9
def colOutFmt (w : List Nat) : Nat := fieldOf (nth w 0) 12 4
def colChunk (w : List Nat) : Nat := 512 * 2 ^ fieldOf (nth w 0) 16 3
def colRanks (w : List Nat) : Nat := fieldOf (nth w 1) 0 10 + 1
def colMyRank (w : List Nat) : Nat := fieldOf (nth w 1) 16 10
def colTag (w : List Nat) : Nat := fieldOf (nth w 2) 0 16
def colRoot (w : List Nat) : Nat := fieldOf (nth w 2) 16 10
def colLen (w : List Nat) : Nat := 64 * nth w 3
def colLimit (w : List Nat) : Nat := fieldOf (nth w 4) 0 16
def colStep (w : List Nat) : Nat := fieldOf (nth w 4) 16 16
/-- SEG of R317. -/
def colSeg (w : List Nat) : Nat := 512 * ceilDiv (colLen w) (512 * colRanks w)
def colRing (w : List Nat) : Bool := [1, 2, 3, 5].contains (colKind w)
/-- Carriageway of an operation's messages (Table 90). -/
def colCw (w : List Nat) : Nat := if 7 ≤ colKind w then 3 else 1

def colMsgTo (s : State) (x : ColSlot) (rank typ step off : Nat) (crc : Word) (arg : Nat) (data : List Byte) (ext : List Nat) :
    Msg :=
  let e := nth x.peers rank
  { srcChip := chipId s, dstChip := peerChip e, dstDie := peerDie e, cw := colCw x.words, resp := false, mark := false, req := 0,
    code := 0, job := (getCtx s x.ctx).jobTag,
    body := .col { typ := typ, tag := colTag x.words, round := x.round, srcRank := colMyRank x.words, ctx := peerCtx e,
                   step := step, offset := off, crc := crc, arg := arg, payload := data, ext := ext } }

/-- The body of an ACK, or of a NAK with its code (Table 92). -/
def colAckBody (m : Msg) (typ code : Nat) : Body :=
  match m.body with
  | .col x => .col { x with typ := typ, arg := if typ == 6 then code else 0, crc := 0, payload := [], ext := [] }
  | b => b

def isColData (m : Msg) : Bool := match m.body with | .col x => x.typ == 4 | _ => false

/-- Queues a message of an operation with its priority: 0 control, 1 re-sends, then by step; step-1 parts last (R318). -/
def colQueue (s : State) (d k prio : Nat) (m : Msg) : State :=
  let i := getCol s d
  setCol s d { i with outbox := i.outbox ++ [(k, prio, m)] }

/-- Requests of a controller on a carriageway that are not yet acknowledged; the data of a GET served here is a response (R328). -/
def colBusy (s : State) (d cw : Nat) : Nat :=
  let i := getCol s d
  (i.store.filter (fun r => r.slot != 16 && r.msg.cw == cw)).length + (i.open_.filter (fun r => r.cw == cw)).length

/-- May be sent now: HOLD keeps what leaves the chip (R266); a request needs room in its carriageway's window (R262, R328), a ring's
part the successor's READY, and a new part room in the resend store. A part sent again keeps its place. -/
def colEligible (s : State) (d : Nat) (e : Nat × Nat × Msg) : Bool :=
  let i := getCol s d
  let x := getColSlot s d e.1
  let m := e.2.2
  (m.dstChip == chipId s || !(getRoute s d).hold) &&
    (e.2.1 == 1 || (decide (colBusy s d m.cw < min 4096 (winOf s (.col (Fin.ofNat 4 d)) m.cw).w) &&
      (!isColData m || ((!colRing x.words || x.ready) && decide (i.store.length < 4096)))))

/-- The next message to send: the lowest priority number first, oldest first. -/
def colNext (s : State) (d : Nat) : Option (Nat × (Nat × Nat × Msg)) :=
  let l := (getCol s d).outbox
  (List.range l.length).foldl (fun (b : Option (Nat × (Nat × Nat × Msg))) j =>
    match l[j]? with
    | none => b
    | some e =>
      if !colEligible s d e then b
      else match b with
        | none => some (j, e)
        | some (_, e') => if e.2.1 < e'.2.1 then some (j, e) else b) none

/-- Sends queued messages that may be sent. -/
def colPumpN (s : State) (d n : Nat) : State :=
  match n with
  | 0 => s
  | n + 1 =>
    match colNext s d with
    | none => s
    | some (j, (k, prio, m)) =>
      match requestOut s d m (colAckBody m 5 Code.absent.num) with
        | none => s
        | some (s, q) =>
          let i := getCol s d
          let i := { i with outbox := i.outbox.eraseIdx j }
          match m.body with
          | .col b =>
            let same := fun (e : Nat) => peerChip e == m.dstChip && peerDie e == m.dstDie && peerCtx e == b.ctx
            let rank := ((getColSlot s d k).peers.findIdx? same).getD 0
            if b.typ == 4 then
              let old := (i.store.find? (fun r => r.req == m.req && prio == 1)).map (fun r => r.fails)
              let keep := i.store.filter (fun r => !(r.req == m.req && prio == 1))
              let s := setCol s d { i with store := keep ++ [{ req := q, slot := k, msg := m, fails := old.getD 0 }] }
              let s := modColSlot s d k (fun x => { x with step := max x.step b.step })
              colPumpN (if prio == 1 then bump32 s (pgCol d) 0x068 1 else bump64 s (pgCol d) 0x054 1) d n
            else colPumpN (setCol s d { i with open_ := i.open_ ++ [{ req := q, slot := k, rank := rank, typ := b.typ, cw := m.cw }] }) d n
          | _ => setCol s d i

def colPump (s : State) (d : Nat) : State := colPumpN s d (getCol s d).outbox.length

/-- The 16 status bytes (R326). -/
def colStatus (x : ColSlot) (code : Nat) : List Byte :=
  leBytes 4 (code + x.flags.toNat * 256 + x.round * 65536) ++ leBytes 4 (min x.droppedBytes 0xFFFFFFFF) ++ leBytes 4 x.resent ++
    leBytes 4 0

/-- A slot's progress set back for its next round or attempt. -/
def colClear (x : ColSlot) : ColSlot :=
  { x with phase := 0, step := 0, ready := false, counts := [], sendCounts := [], goes := [], got := [], held := [], placed := false,
           released := false, flags := 0, droppedBytes := 0, resent := 0, fails := [], retries := [], sigs := [] }

def colFind (s : State) (d : Nat) (b : ColMsg) : Option Nat :=
  (List.range 16).find? (fun k => let x := getColSlot s d k; x.armed && x.ctx == b.ctx && colTag x.words == b.tag)

/-- The die and context of the sender that a put's or get's request names for its answers. -/
def colBack (b : ColMsg) : Nat × Nat :=
  if b.typ == 4 then (nth b.ext 4, nth b.ext 5) else if b.typ == 10 then (nth b.ext 2, nth b.ext 3) else (nth b.ext 0, nth b.ext 1)

/-- The answer to a request of an operation: to the die of its sender, with this member's rank and the sender's context (Table 92);
the target of a put or get has rank 1. DESIGN CHOICE (notes/assumptions/129.md): where no armed operation tells them, the request's
fields stand. -/
def colReply (s : State) (d code : Nat) (m : Msg) (typ : Nat) (crc : Word) (data : List Byte) : Msg :=
  match m.body with
  | .col b =>
    let x := match colFind s d b with | some k => getColSlot s d k | none => {}
    let e := nth x.peers b.srcRank
    let a := { b with typ := typ, crc := crc, arg := if typ == 6 then code else 0, payload := data, ext := [] }
    if m.cw == 3 then answerTo s (colBack b).1 code m (.col { a with srcRank := 1, ctx := (colBack b).2 })
    else if b.srcRank < x.peers.length then
      answerTo s (peerDie e) code m (.col { a with srcRank := colMyRank x.words, ctx := peerCtx e })
    else answerTo s m.dstDie code m (.col a)
  | b => answerTo s m.dstDie code m b

def colAnswer (s : State) (d : Nat) (m : Msg) (typ code : Nat) : State := sendAnswer s d (colReply s d code m typ 0 [])

/-- An aborting slot awaits its trigger again once its requests have completed. -/
def colQuiet (s : State) (d k : Nat) : State :=
  let x := getColSlot s d k
  let i := getCol s d
  if x.phase == 4 && !i.store.any (fun r => r.slot == k) && !i.open_.any (fun r => r.slot == k && r.typ != 9) then
    setColSlot s d k { x with phase := 0 } else s

/-- R327: the steps of R308 with STATUS in place of RX_TABLE, the fault record apart. A re-send that has not left takes its part out
of the store. DESIGN CHOICE (notes/assumptions/149.md): parts that wait for their reduction are refused with the abort's code. The
slot is left aborting, as an exchange's is; `colQuiet` ends that. -/
def colAbortQuiet (s : State) (d k code : Nat) (tell : Bool) : State :=
  let x := getColSlot s d k
  let s := ((getCol s d).reduce.filter (fun r => r.slot == k)).foldl (fun s r => colAnswer s d r.msg 5 code) s
  let i := getCol s d
  let again := fun (r : Resend) => i.outbox.any (fun e => e.1 == k && e.2.1 == 1 && e.2.2.req == r.req)
  let s := setCol s d { i with
    outbox := i.outbox.filter (fun e => e.1 != k), reduce := i.reduce.filter (fun r => r.slot != k),
    store := i.store.filter (fun r => !(r.slot == k && again r)) }
  let s := if tell then
      (List.range (colRanks x.words)).foldl (fun s r =>
        if r == colMyRank x.words then s
        else colQueue s d k 0 (colMsgTo s x r 9 0 0 0 code [] (if 7 ≤ colKind x.words then [d, x.ctx, x.startAt] else []))) s
    else s
  let s := writeLater s d (ctxPart s x.ctx) (wAddr x.words 22) (colStatus x code)
  let s := setColSlot s d k { colClear x with phase := 4, arrived := [], nextArrived := [] }
  colPump (bump32 (raise s (pgCol d) 0) (pgCol d) 0x070 1) d

/-- A slot becomes free. The GOs, RELEASEs, ABORTs and other messages without data that it still owes other ranks go out all the same
(R319, R320), and its requests are kept until they are answered. -/
def colFree (s : State) (d k : Nat) : State :=
  let i := getCol s d
  setCol s d { i with
    slots := drop1 i.slots k,
    outbox := (i.outbox.filter (fun e => e.1 != k || !isColData e.2.2)).map (fun e => if e.1 == k then (17, e.2) else e),
    store := i.store.map (fun r => if r.slot == k then { r with slot := 17 } else r),
    reduce := i.reduce.filter (fun r => r.slot != k),
    open_ := i.open_.map (fun r => if r.slot == k then { r with slot := 17 } else r) }

/-! ### A context that faults, drains or is destroyed -/

/-- Every exchange of a context that is not aborting already, and every operation's round in progress, abort with FENCED (R307,
R327). -/
def abortRounds (s : State) (c : Nat) : State :=
  (List.range 4).foldl (fun s d => (List.range 16).foldl (fun s k =>
    let x := getIxSlot s d k
    let y := getColSlot s d k
    let s := if x.armed && x.ctx == c && x.phase != 6 then ixQuiet (ixAbortQuiet s d k Code.fenced.num true) d k else s
    if y.armed && y.ctx == c && y.phase != 0 && y.phase != 4 then colQuiet (colAbortQuiet s d k Code.fenced.num true) d k else s) s) s

/-- A destroyed context frees its slots after their aborts (R308). -/
def freeSlots (s : State) (c : Nat) : State :=
  let s := abortRounds s c
  (List.range 4).foldl (fun s d => (List.range 16).foldl (fun s k =>
    let s := if (getIxSlot s d k).armed && (getIxSlot s d k).ctx == c then ixFree s d k else s
    if (getColSlot s d k).armed && (getColSlot s d k).ctx == c then colFree s d k else s) s) s

end Sys2Proof.Machine
end

