-- ==== Sys2Proof/Machine/Window.lean ====
section
/-!
DEFINITION. The instruction frame, the window, milestones and waits, fault records and the stops of a context: chapters 8
and 9, with the trace records of chapter 23.
-/
namespace Sys2Proof.Machine

/-! ### The instruction frame (Table 48) -/

def iEngine (i : Nat) : Nat := fieldOf i 124 4
def iOpcode (i : Nat) : Nat := fieldOf i 120 4
def iFmtA (i : Nat) : Nat := fieldOf i 116 4
def iFmtB (i : Nat) : Nat := fieldOf i 112 4
def iFmtD (i : Nat) : Nat := fieldOf i 108 4
def iTd (i : Nat) : Nat := fieldOf i 98 10
def iWaitCond (i : Nat) : Nat := fieldOf i 96 2
def iWaitMs (i : Nat) : Nat := fieldOf i 90 6
def iSigMs (i : Nat) : Nat := fieldOf i 84 6
def iSigInc (i : Nat) : Nat := fieldOf i 76 8
def iReserved (i : Nat) : Nat := fieldOf i 64 12
def iWaitValue (i : Nat) : Nat := fieldOf i 32 32
def iImm (i : Nat) : Nat := fieldOf i 8 24
def iFlags (i : Nat) : Nat := fieldOf i 0 8

/-- The LAST word (R177). -/
def lastWord (s : State) (core source : Nat) : Word := BitVec.ofNat 32 (chipId s * 65536 + core * 16 + source)

/-! ### Trace (R442 to R444) -/

def trField (t : Trace) (lo n : Nat) : Nat := fieldOf t.ctl.toNat lo n

/-- Whether a buffer takes an event of a source. -/
def traceTakes (s : State) (i source target ms part : Nat) : Bool :=
  let t := getTrace s i
  t.active && !t.stopped && trField t 31 1 == 1 && trField t 24 4 == source &&
    (if source == 3 then t.part == part else trField t 0 12 == target) &&
    (source != 2 || trField t 16 6 == 63 || trField t 16 6 == ms)

/-- One buffer meets an event: every 2^SAMPLE_LOG2-th is queued, or dropped when the queue or a WRAP 0 ring is full. -/
def tracePush (s : State) (i : Nat) (r : TraceRec) : State :=
  let t := getTrace s i
  if t.full || decide (64 ≤ t.queue.length) then
    bump32 (setTrace s i { t with lost := true }) (pgTrace i) 0x060 1
  else setTrace s i { t with queue := t.queue ++ [{ r with lost := t.lost }], lost := false }

def traceEvent (s : State) (source target ctx ms part : Nat) (payload : List Nat) : State :=
  (List.range 4).foldl (fun s i =>
    if traceTakes s i source target ms part then
      let t := getTrace s i
      let s := setTrace s i { t with events := t.events + 1 }
      if (t.events + 1) % 2 ^ (regOf s (pgTrace i) 0x044) == 0 then
        tracePush s i { target := target, ctx := ctx, odo := s.odometer, payload := payload, source := source }
      else s
    else s) s

/-! ### Fault records (R173, R174) -/

def frStatWord (f : FaultRec) : Nat :=
  bit f.valid * 2 ^ 31 + bit f.overflow * 2 ^ 30 + f.engine * 2 ^ 24 + f.code * 2 ^ 16 + f.ctx * 2 ^ 8 + bit f.ctxNamed * 2 ^ 7 +
    f.kind

/-- Sets a core's fault record, or its OVERFLOW bit when one is held. -/
def recordFault (s : State) (core kind eng code : Nat) (ctx : Option Nat) (pc detail addr : Nat) : State :=
  let x := getCore s core
  if x.fr.valid then setCore s core { x with fr := { x.fr with overflow := true } }
  else
    let f : FaultRec := {
      valid := true, overflow := false, engine := eng, code := code, ctx := ctx.getD 0,
      ctxNamed := ctx.isSome, kind := kind, pc := pc, detail := detail, addr := addr, time := s.odometer }
    let s := setCore s core { x with fr := f }
    let s := raise s (pgCore core) 0
    traceEvent s 3 0 (ctx.getD 0) 0 (partOfCore s core) [frStatWord f, detail, pc % 2 ^ 32, pc / 2 ^ 32]

/-! ### Stops -/

/-- Whether an entry has run-ahead work. -/
def entAhead (x : Core) (id : Nat) : Bool :=
  x.shadow.any (fun h => h.ent == id) ||
    x.reqs.any (fun r => match r.2 with | some q => q.ent == id && q.kind == 4 && !q.dead | none => false)

/-- A window entry at a stop: a wait that has not started an instruction is abandoned (R183), and an ADD that is still at its source
is withdrawn, to be issued again (R169). -/
def stopEnt (e : WEnt) : WEnt :=
  if e.st == 0 then { e with sent := 0, redo := [], sat := false, since := 0 }
  else if iEngine e.ins == 5 && iOpcode e.ins == 1 && e.st == 1 && e.sent == 0 then { e with st := 0, sat := false, firstTry := 0, since := 0 }
  else e

/-- What a stop does on one core at once: dispatch ends, run-ahead data is discarded and counted, and waits that have not
started an instruction are abandoned (Table 55, Table 45, R183). -/
def stopCore (s : State) (core : Nat) : State :=
  let n := ((getCore s core).window.filter (fun e => entAhead (getCore s core) e.id)).length
  let s := if n = 0 then s else siteBump32 s core 0x224 n
  modCore s core (fun x => { x with
    runState := 3, shadow := [],
    reqs := x.reqs.map (fun e => (e.1, e.2.map (fun r => if r.kind == 4 then { r with dead := true } else r))),
    window := x.window.map stopEnt, parkedAt := none })

def stopCores (s : State) (l : List Nat) : State := l.foldl stopCore s

/-- A fault during a move abandons it: the signpost keeps the site being left (R365). -/
def abandonMoves (s : State) (cores : List Nat) : State :=
  let gone := s.hide.moves.filter (fun m => cores.contains m.core)
  let s := { s with hide := { s.hide with moves := s.hide.moves.filter (fun m => !cores.contains m.core) } }
  gone.foldl (fun s m =>
    let s := modPage s (pgCore m.core) (fun p => { p with moving := false })
    let s := modSite s m.src (fun x => { x with testing := false })
    modSite s m.dst (fun x => { x with standIn := false })) s

/-- A core of a context that faults: FAULTED, and LR and OP end their dummy operations at once (Table 30, R101). -/
def faultedCore (y : Core) : Core :=
  { y with runState := 5, lr := { y.lr with dummy := 0, gated := true }, op := { y.op with dummy := 0, gated := true } }

/-- A context enters FAULTED (Table 54, R357): an image being written is abandoned, its PREEMPT ends with the code, and every
core stops. -/
def enterFaulted (s : State) (c code core : Nat) : State :=
  let x := getCtx s c
  if x.state == .running || x.state == .saving then
    let s := completePreempt s c code 0
    let s := modCtx s c (fun x => { x with state := .faulted, saving := none, faults := x.faults + 1, faultCode := code,
                                           faultCore := core, replay := 1, stallAt := none })
    let s := abortRounds (stopCores (abandonMoves s x.cores) x.cores) c
    x.cores.foldl (fun s k => modCore s k faultedCore) s
  else s

/-- A hardware fault is charged to a site (R356, R361): its times, newest first, two kept. -/
def chargeSite (s : State) (site : Nat) : State :=
  modSite s site (fun x => { x with faults := (s.odometer :: x.faults).take 2 })

/-- A core of a context has a hardware fault for the replay to handle (R357). -/
def noteHw (s : State) (c core : Nat) : State :=
  modCtx s c (fun x => { x with hwCores := if x.hwCores.contains core then x.hwCores else x.hwCores ++ [core] })

/-- An engine fault on a core: the record names the resident context, which is faulted; `hw` charges the site (R356). -/
def coreFault (s : State) (core eng code : Nat) (hw : Bool) (pc detail addr : Nat) : State :=
  match (getCore s core).ctx with
  | none => s
  | some c =>
    let s := recordFault s core 2 eng code (some c) pc detail addr
    let s := if hw then noteHw (chargeSite s (siteOf s core)) c core else s
    enterFaulted s c code core

/-- SAVE instructions that wait are abandoned: a pre-emption comes before the others have reached theirs (R168). -/
def abandonSaves (s : State) (core : Nat) : State :=
  modCore s core (fun x => { x with window := x.window.map (fun e =>
    if iEngine e.ins == 0 && iOpcode e.ins == 6 && e.st == 1 then { e with st := 0, sat := false } else e) })

/-- An image is begun: the context is SAVING and every core stops (R167). -/
def beginSave (s : State) (c : Nat) (v : Saving) : State :=
  let x := getCtx s c
  let s := stopCores (setCtx s c { x with state := .saving, saving := some { v with start := s.odometer }, stallAt := none }) x.cores
  if v.kind == 1 then s else x.cores.foldl abandonSaves s

/-- A core holds no context: its milestones are 0 and its window is empty (R176). -/
def vacateCore (s : State) (core : Nat) : State :=
  modCore s core (fun x => { x with
    ctx := none, runState := 0, lines := [], window := [], resume := [], closed := false, halted := false,
    heldReject := none, reject := none, vxStopped := false, lr := {}, op := {}, reloop := false, opHead := [], slots := [], accIn := [], miles := [], reqs := [],
    shadow := [], remoteSkip := 0, parkedAt := none, lent := false, grant := 0, step := 0, istate := 0, progress := [],
    residency := x.residency.map (fun r => if r.2.2 == 0 then (r.1, r.2.1, s.odometer) else r) })

def vacate (s : State) (c : Nat) : State := (getCtx s c).cores.foldl vacateCore s

/-- A rejection in effect on a core whose older instructions have all left halts the context (R157). -/
def checkReject (s : State) (core : Nat) : State :=
  let x := getCore s core
  match x.ctx, x.reject with
  | some c, some code =>
    if x.window.isEmpty && (getCtx s c).state == .running then
      beginSave s c { kind := 2, tag := 0, start := 0, after := 3, haltCode := code, haltCore := core }
    else s
  | _, _ => s

/-- Every core of a RUNNING context has halted: it completes (R154, Table 54). -/
def checkDone (s : State) (c : Nat) : State :=
  let x := getCtx s c
  if x.state == .running && x.cores.all (fun k => (getCore s k).halted) then
    completeRun (modCtx (vacate s c) c (fun x => { x with state := .idle, doneAt := s.odometer + 1 })) c 0 0
  else s

/-! ### The window -/

def findEnt (x : Core) (id : Nat) : Option WEnt := x.window.find? (fun e => e.id == id)
def modEnt (s : State) (core id : Nat) (f : WEnt → WEnt) : State :=
  modCore s core (fun x => { x with window := x.window.map (fun e => if e.id == id then f e else e) })

def isSeqOp (e : WEnt) (op : Nat) : Bool := iEngine e.ins == 0 && iOpcode e.ins == op
/-- A BRANCH that has not been resolved. -/
def openBranch (e : WEnt) : Bool := isSeqOp e 4 && e.st != 2

/-- The entries older than one in the window. -/
def olderThan (x : Core) (id : Nat) : List WEnt := x.window.takeWhile (fun e => e.id != id)

/-- Ready to start apart from its wait (R154): its engine is free for it and no older BRANCH is unresolved. LR, OP and DM
overlap a later instruction with the work of started ones; the other engines run one instruction at a time. -/
def readyEnt (x : Core) (e : WEnt) : Bool :=
  let older := olderThan x e.id
  let cls := iEngine e.ins
  let same := older.filter (fun o => iEngine o.ins == cls)
  e.st == 0 && !older.any openBranch && !isSeqOp e 4 &&
    (if cls == 1 || cls == 2 || cls == 4 then same.all (fun o => o.st != 0)
     else same.all (fun o => o.st == 2)) &&
    (if isSeqOp e 6 then older.all (fun o => o.st == 2) else true)

/-! ### Milestones (R176 to R182) -/

def mileOf (x : Core) (ms : Nat) : Mile := look x.miles ms {}

/-- R182. -/
def waitHolds (m : Mile) (cond value : Nat) : Bool :=
  if cond == 1 then
    (if m.barrier then decide ((m.gen.toNat % 65536 + 65536 - value % 65536) % 65536 < 2 ^ 15)
     else decide ((m.value.toNat + 2 ^ 32 - value) % 2 ^ 32 < 2 ^ 31))
  else if cond == 2 then
    (if m.barrier then m.gen.toNat % 65536 == value % 65536 else m.value.toNat == value)
  else true

def entWaitHolds (x : Core) (e : WEnt) : Bool :=
  waitHolds (mileOf x (iWaitMs e.ins)) (iWaitCond e.ins) (iWaitValue e.ins)

/-- The round r of an ARRIVE, which stands in `run` once its arrival is sent, has been released to this core (R189). -/
def arriveReleased (x : Core) (e : WEnt) : Bool :=
  let local_ := fieldOf (nth e.td 4) 8 6
  decide (((mileOf x local_).value.toNat % 65536 + 2 * 65536 - e.run - 1) % 65536 < 2 ^ 15)

def isArrive (e : WEnt) : Bool := iEngine e.ins == 5 && iOpcode e.ins == 3
def isTwait (e : WEnt) : Bool := iEngine e.ins == 5 && iOpcode e.ins == 4

/-- An MM or MMA with STREAM set (Table 29). -/
def isStream (e : WEnt) : Bool := iEngine e.ins == 1 && bitOf (nth e.td 7) 2

/-- The instruction has an ordinary milestone wait; that of a STREAM instruction counts as satisfied at dispatch (R81). -/
def hasWait (e : WEnt) : Bool := iWaitCond e.ins != 0 && !isStream e

/-- The core is stopped, for an image or by a fault: every wait is abandoned (R183). -/
def waitsOff (x : Core) : Bool := x.runState == 3 || x.runState == 5

/-- An ARRIVE without NOWAIT that has started: `sat` once it has been presented a VALUE that releases its round (R180, R189). -/
def arriveWaits (e : WEnt) : Bool := isArrive e && e.st == 1 && !bitOf (iFlags e.ins) 0

/-- The instruction waits on a milestone now (R182). -/
def waiting (x : Core) (e : WEnt) : Bool :=
  !waitsOff x && !e.sat && ((readyEnt x e && hasWait e) || arriveWaits e)

/-- When the limit of a TWAIT that waits has passed (R192). -/
def twaitEnd (e : WEnt) : Nat := e.since - 1 + 16 * fieldOf (nth e.td 3) 0 24

/-- The wait of a ready instruction is satisfied at an odometer value: that of a TWAIT not once its limit has passed at an earlier
one, and its satisfaction wins at that very value (R192, R193). -/
def satisfied (x : Core) (now : Nat) (e : WEnt) : Bool :=
  entWaitHolds x e && !(isTwait e && e.since != 0 && decide (twaitEnd e < now))

/-- A wait that is satisfied as its TWAIT's limit passes: a tie (R193). -/
def tied (x : Core) (now : Nat) (e : WEnt) : Bool :=
  !waitsOff x && readyEnt x e && !e.sat && isTwait e && e.since != 0 && twaitEnd e == now && entWaitHolds x e

/-- The waiter set (R176). -/
def waiterSet (x : Core) : Nat :=
  (List.range 6).foldl (fun n c => n + bit (x.window.any (fun e => iEngine e.ins == c && waiting x e)) * 2 ^ c) 0

/-- The waiter set of one milestone. -/
def waitersOf (x : Core) (ms : Nat) : Nat :=
  (List.range 6).foldl (fun n c => n + bit (x.window.any (fun e => iEngine e.ins == c && waiting x e &&
    (if isArrive e && e.st == 1 then fieldOf (nth e.td 4) 8 6 == ms else iWaitMs e.ins == ms))) * 2 ^ c) 0

/-- The four words of a milestone (R176). -/
def mileWords (x : Core) (ms : Nat) : Nat × Nat × Nat × Nat :=
  if x.ctx.isNone then (0, 0, 0, 0)
  else
    let m := mileOf x ms
    (m.value.toNat, m.gen.toNat, waitersOf x ms + bit m.barrier * 128 + (if m.barrier then m.relMs * 256 else 0), m.last.toNat)

/-- Every uncompleted instruction of the window waits on a milestone; a core in SAVE counts as waiting (R194, R441). -/
def allWait (x : Core) : Bool :=
  let live := x.window.filter (fun e => e.st != 2)
  !live.isEmpty && live.all (fun e => waiting x e || (isSeqOp e 6 && e.st == 1 && !waitsOff x))

/-- Whether the core is parked (R194): every uncompleted instruction waits, and no engine has work in progress: no pass, fill, DM
request, run-ahead read or frame map line read. -/
def parked (x : Core) : Bool :=
  allWait x && x.reqs.all (fun r => r.2.isNone) && x.misses.isEmpty && x.lr.ent.isNone && x.op.ent.isNone

/-- A window entry after its wait has been evaluated: a wait that holds is satisfied for good, a TWAIT that becomes ready starts its
timer, and a started ARRIVE takes the release of its round; `since` holds the odometer value plus 1 (R182, R189, R192). -/
def settleEnt (x : Core) (now : Nat) (e : WEnt) : WEnt :=
  if waitsOff x || e.sat then e
  else if readyEnt x e then { e with sat := satisfied x now e, since := if e.since == 0 then now + 1 else e.since }
  else if arriveWaits e then { e with sat := arriveReleased x e }
  else e

/-- The parked time and the lent grant after a change of the core (R194): a core no longer parked takes its grant back, which asks
for its island's ramp (R400). -/
def repark (x : Core) (now : Nat) : Core :=
  let p := parked x
  let back := x.lent && !p
  { x with
    parkedAt := if p then (match x.parkedAt with | some t => some t | none => some now) else none,
    lent := x.lent && p,
    istate := if back then 0 else x.istate, rampAt := if back then now else x.rampAt }

/-- Waits are evaluated (R182), and the parked time starts or ends (R194). -/
def settle (s : State) (core : Nat) : State :=
  let x := getCore s core
  let s := if x.window.any (tied x s.odometer) then addTie s (pgCore core) else s
  setCore s core (repark { x with window := x.window.map (settleEnt x s.odometer) } s.odometer)

/-- A milestone takes a new state, every waiter sees it, and trace buffers record it. -/
def putMile (s : State) (core ms : Nat) (m : Mile) : State :=
  let s := modCore s core (fun x => { x with miles := store x.miles ms m })
  let s := traceEvent s 2 core ((getCore s core).ctx.getD 0) ms 0 [ms, m.value.toNat, m.gen.toNat, m.last.toNat]
  settle s core

/-- A signal (R179): adds to a COUNT-mode milestone and sets LAST; false and no change in BARRIER mode (R181). -/
def signalMs (s : State) (core ms inc : Nat) (last : Word) : State × Bool :=
  let m := mileOf (getCore s core) ms
  if m.barrier then (s, false)
  else (putMile s core ms { m with value := m.value + BitVec.ofNat 32 inc, last := last }, true)

/-- The signal of an instruction's SIGNAL_MS field with an increment; a BARRIER-mode milestone faults the source (R181). -/
def signalOwn (s : State) (core : Nat) (e : WEnt) (ms inc : Nat) : State :=
  let (s, ok) := signalMs s core ms inc (lastWord s core (iEngine e.ins))
  if ok then s else coreFault s core (iEngine e.ins) Code.wrongState.num false e.addr 0 0

def signalEnt (s : State) (core : Nat) (e : WEnt) : State :=
  if iSigMs e.ins == 63 then s else signalOwn s core e (iSigMs e.ins) (iSigInc e.ins)

/-- Entries leave once completed with every older one gone (R153); a HALT that leaves halts the core. -/
def popWindow (s : State) (core : Nat) : State :=
  let x := getCore s core
  let gone := x.window.takeWhile (fun e => e.st == 2)
  let s := setCore s core { x with window := x.window.drop gone.length,
                                   halted := x.halted || gone.any (fun e => isSeqOp e 7) }
  let s := if gone.any (fun e => isSeqOp e 7) then modCore s core (fun x => { x with runState := 4, haltAt := s.odometer }) else s
  let s := settle s core
  let s := checkReject s core
  match x.ctx with
  | some c => checkDone s c
  | none => s

/-- An instruction completes (R153): RETIRED, the trace record, then it may leave the window. -/
def retire (s : State) (core : Nat) (e : WEnt) : State :=
  let s := modEnt s core e.id (fun e => { e with st := 2 })
  let s := bump64 s (pgCore core) 0x350 1
  let s := modCore s core (fun x => { x with progress := store x.progress (iEngine e.ins) s.odometer })
  let s := traceEvent s 1 core ((getCore s core).ctx.getD 0) 0 0
    [e.addr % 2 ^ 32, e.addr / 2 ^ 32, iEngine e.ins * 16 + iOpcode e.ins, (getCore s core).saveSeq.toNat]
  popWindow s core

/-- An instruction completes and signals its SIGNAL_MS. -/
def finishEnt (s : State) (core : Nat) (e : WEnt) : State := retire (signalEnt s core e) core e

/-- The context resident on a core when it is RUNNING and no move pauses the core (R365). -/
def runningCtx (s : State) (core : Nat) : Option Nat :=
  match (getCore s core).ctx with
  | some c => if (getCtx s c).state == .running && !(getPage s (pgCore core)).moving then some c else none
  | none => none

/-- A core goes to its stop points: its context is SAVING, or a move pauses it (R167, R365). -/
def stopsNow (s : State) (core c : Nat) : Bool := (getCtx s c).state == .saving || (getPage s (pgCore core)).moving

/-- The oldest uncompleted instruction of an engine class in the window. -/
def headOf (x : Core) (cls : Nat) : Option WEnt := x.window.find? (fun e => iEngine e.ins == cls && e.st != 2)

/-- The oldest instruction of an engine class not yet started. -/
def nextOf (x : Core) (cls : Nat) : Option WEnt := x.window.find? (fun e => iEngine e.ins == cls && e.st == 0)

/-- May start now (R154). -/
def canStart (x : Core) (e : WEnt) : Bool := readyEnt x e && (e.sat || !hasWait e)

/-- LR and OP with an instruction of theirs uncompleted in the window leave gating: their dummy work begins anew at full width. A stall
inside an instruction, and one before an instruction that has been dispatched and waits, are such (R82, R101; DEDUCED,
notes/assumptions/137.md). -/
def wakeEngines (s : State) (core : Nat) : State :=
  let site := coreSite s core
  modCore s core (fun x => { x with
    lr := if x.lr.gated && x.window.any (fun e => iEngine e.ins == 1 && e.st != 2) then
        { x.lr with dummy := popcount site.lrMap.toNat 16, gated := false, stallAt := s.odometer } else x.lr,
    op := if x.op.gated && x.window.any (fun e => iEngine e.ins == 2 && e.st != 2) then
        { x.op with dummy := popcount site.opMap.toNat 8, gated := false, stallAt := s.odometer } else x.op })

/-- An engine makes progress (R378). -/
def progressed (s : State) (core cls : Nat) : State :=
  modCore s core (fun x => { x with progress := store x.progress cls s.odometer })

end Sys2Proof.Machine
end

