-- ==== Sys2Proof/Machine/Operands.lean ====
section
/-!
DEFINITION. Operand forms: tile store regions and elements, the tile descriptors of every engine and the checks made at
dispatch, each list in no order of its own because R36 ranks the codes.
-/
namespace Sys2Proof.Machine

/-! ### Tile store regions (R123) -/

/-- Rows of `bytes` bytes, `pitch` segments apart, from segment `base`. -/
structure Region where
  base : Nat
  pitch : Nat
  rows : Nat
  bytes : Nat
  deriving DecidableEq, Repr, Inhabited

def segsOf (bytes : Nat) : Nat := ceilDiv bytes 64

/-- A pitch that holds less than one row. -/
def Region.pitchBad (r : Region) : Bool := decide (64 * r.pitch < r.bytes)
/-- The region extends beyond segment 3,071. -/
def Region.extentBad (r : Region) : Bool := decide (3072 < r.base + (r.rows - 1) * r.pitch + segsOf r.bytes)
def Region.bad (r : Region) : Bool := r.pitchBad || r.extentBad

/-- Some row of one region shares a segment with some row of the other. -/
def Region.overlaps (a b : Region) : Bool :=
  (List.range a.rows).any (fun i =>
    let lo := a.base + i * a.pitch
    let hi := lo + segsOf a.bytes
    let sb := segsOf b.bytes
    let j := if b.pitch = 0 then 0 else if b.base + sb ≤ lo then (lo - b.base - sb) / b.pitch + 1 else 0
    decide (j < b.rows ∧ b.base + j * b.pitch < hi ∧ lo < b.base + j * b.pitch + sb))

/-- The bytes of a region, as a filtered part of the tile store. -/
def Region.holds (r : Region) (addr : Nat) : Bool :=
  let seg := addr / 64
  if r.pitch = 0 then decide (r.base ≤ seg ∧ seg < r.base + segsOf r.bytes)
  else decide (r.base ≤ seg) && decide ((seg - r.base) % r.pitch < segsOf r.bytes) &&
    decide ((seg - r.base) / r.pitch < r.rows)

/-- Bytes of n elements of a format. -/
def Fmt.rowBytes (f : Fmt) (n : Nat) : Nat := n * f.bits / 8

/-- Element k of the row that starts at byte `at_` (R55, R48). -/
def elemAt (m : SMap Byte) (f : Fmt) (at_ k : Nat) : Nat :=
  match f with
  | .fp32 | .int32 => memNum m (at_ + 4 * k) 4
  | .bf16 | .fp16 | .u16 => memNum m (at_ + 2 * k) 2
  | .ft8 => memNum m (at_ + k) 1
  | .ft6 => fieldOf (memNum m (at_ + 12 * (k / 16)) 12) (6 * (k % 16)) 6
  | .ft4 => fieldOf (memNum m (at_ + k / 2) 1) (4 * (k % 2)) 4

def rowAt (base pitch row : Nat) : Nat := 64 * (base + row * pitch)

/-- A written FT block: 16 codes packed (R55). -/
def packFt (f : Fmt) (codes : List Nat) : List Byte :=
  leBytes (16 * f.bits / 8) (codes.foldr (fun c n => c + n * 2 ^ f.bits) 0)

/-! ### The frame (R149 to R151) -/

/-- The checks every instruction shares: which formats, TD_INDEX, IMM bits and FLAGS bits the opcode uses. -/
def frameChecks (i : Nat) (fa fb fd td : Bool) (immMask flagMask : Nat) : List (Bool × Code) :=
  [(iReserved i != 0, .reservedSet),
   (!fa && iFmtA i != 0, .badField), (!fb && iFmtB i != 0, .badField), (!fd && iFmtD i != 0, .badField),
   (!td && iTd i != 0, .reservedSet),
   (iImm i != (iImm i &&& immMask), .reservedSet),
   (iFlags i != (iFlags i &&& flagMask), .reservedSet),
   (iWaitCond i == 3, .badField),
   (iWaitCond i == 0 && (iWaitMs i != 0 || iWaitValue i != 0), .reservedSet),
   (iWaitCond i != 0 && decide (47 < iWaitMs i), .badField),
   (decide (48 ≤ iSigMs i ∧ iSigMs i ≤ 62), .badField),
   (decide (iSigMs i < 48) && iSigInc i == 0, .badField),
   (iSigMs i == 63 && iSigInc i != 0, .reservedSet)]

/-! ### Sequencer (Table 50, R156) -/

def seqChecks (i : Nat) : List (Bool × Code) :=
  let op := iOpcode i
  let imm := if op == 1 || op == 2 || op == 3 || op == 4 then 0xFFFFFF else if op == 5 then 0x0FFFFF
    else if op == 6 then 0xFFFF else 0
  frameChecks i false false false false imm (if op == 2 || op == 3 then 3 else 0) ++
    [(decide (8 ≤ op), .badField), (op == 2 && iImm i == 0, .badField),
     (op == 5 && decide (1024 < fieldOf (iImm i) 0 10 + fieldOf (iImm i) 10 10 + 1), .badField)]

/-! ### LR (R69 to R73) -/

structure LrDesc where
  m : Nat
  n : Nat
  k : Nat
  wBase : Nat
  wPitch : Nat
  xBase : Nat
  xPitch : Nat
  yBase : Nat
  yPitch : Nat
  wsBase : Nat
  wsPitch : Nat
  xsBase : Nat
  xsPitch : Nat
  wNoscale : Bool
  xNoscale : Bool
  stream : Bool
  freeMs : Nat
  ring : Nat
  deriving DecidableEq, Repr, Inhabited

def lrDesc (td : List Nat) : LrDesc :=
  let w := nth td
  { m := fieldOf (w 0) 0 16 + 1, n := fieldOf (w 0) 16 16, k := 16 * (fieldOf (w 1) 0 12 + 1),
    wBase := fieldOf (w 2) 0 12, wPitch := fieldOf (w 2) 12 12, xBase := fieldOf (w 3) 0 12, xPitch := fieldOf (w 3) 12 12,
    yBase := fieldOf (w 4) 0 12, yPitch := fieldOf (w 4) 12 12, wsBase := fieldOf (w 5) 0 12,
    wsPitch := fieldOf (w 5) 12 12, xsBase := fieldOf (w 6) 0 12, xsPitch := fieldOf (w 6) 12 12,
    wNoscale := bitOf (w 7) 0, xNoscale := bitOf (w 7) 1, stream := bitOf (w 7) 2, freeMs := fieldOf (w 7) 8 6,
    ring := fieldOf (w 7) 16 12 }

/-- Reserved bits of Table 27. -/
def lrReserved (td : List Nat) : Bool :=
  let w := nth td
  fieldOf (w 1) 12 20 != 0 || [2, 3, 4, 5, 6].any (fun j => fieldOf (w j) 24 8 != 0) || fieldOf (w 7) 3 5 != 0 ||
    fieldOf (w 7) 14 2 != 0 || fieldOf (w 7) 28 4 != 0

/-- The format pairs of Tables 25 and 32. -/
def pairOk (a b : Option Fmt) : Bool :=
  match a, b with
  | some a, some b => (a == .bf16 && b == .bf16) || (a == .fp16 && b == .fp16) || (a.isFt && b.isFt)
  | _, _ => false

def lrPasses (d : LrDesc) (w : Nat) : Nat := ceilDiv d.m w
def lrSteps (d : LrDesc) : Nat := ceilDiv d.k 64
/-- Rows of X and Y: a ring holds RING_ROWS, a linear region N (R73, R81). -/
def lrRows (d : LrDesc) : Nat := if d.stream then d.ring else d.n

def lrW (d : LrDesc) (f : Fmt) : Region := { base := d.wBase, pitch := d.wPitch, rows := d.m, bytes := f.rowBytes d.k }
def lrX (d : LrDesc) (f : Fmt) : Region := { base := d.xBase, pitch := d.xPitch, rows := lrRows d, bytes := f.rowBytes d.k }
def lrY (d : LrDesc) : Region := { base := d.yBase, pitch := d.yPitch, rows := lrRows d, bytes := 4 * d.m }
def lrWs (d : LrDesc) (f : Fmt) : List Region :=
  if f.isFt && !d.wNoscale then [{ base := d.wsBase, pitch := d.wsPitch, rows := d.m, bytes := d.k / 16 }] else []
def lrXs (d : LrDesc) (f : Fmt) : List Region :=
  if f.isFt && !d.xNoscale then [{ base := d.xsBase, pitch := d.xsPitch, rows := lrRows d, bytes := d.k / 16 }] else []

/-- Dispatch checks of an LR instruction on width w; `pos` is the restored position record when it resumes (R85). -/
def lrChecks (i : Nat) (td : List Nat) (w : Nat) (pos : Option (Nat × Nat × Nat)) : List (Bool × Code) :=
  let d := lrDesc td
  let fa := (fmtOf (iFmtA i)).getD .bf16
  let fb := (fmtOf (iFmtB i)).getD .bf16
  let others := [lrW d fa, lrX d fb] ++ lrWs d fa ++ lrXs d fb
  let regions := lrY d :: others
  let badRegion := regions.any Region.bad
  frameChecks i true true true true 0 1 ++
    [(decide (2 ≤ iOpcode i), .badField), (!pairOk (fmtOf (iFmtA i)) (fmtOf (iFmtB i)) || iFmtD i != 0, .badField),
     (lrReserved td, .reservedSet), (d.n == 0, .badField), (decide (47 < d.freeMs), .badField),
     (!d.stream && (d.freeMs != 0 || d.ring != 0), .badField),
     ((d.wNoscale && fa != .ft8) || (d.xNoscale && fb != .ft8), .badField),
     (badRegion || regions.any (fun r => r.rows == 0), .badField),
     (!badRegion && others.any (fun r => (lrY d).overlaps r), .badField),
     (d.stream && (lrPasses d w != 1 || lrSteps d != 1 || d.ring == 0 || iWaitCond i == 0 || iSigInc i != 1), .badField),
     (d.stream && bitOf (iFlags i) 0, .badField),
     ((match pos with
       | none => false
       | some (p, c, n) => decide (lrPasses d w ≤ p ∨ lrSteps d ≤ c ∨ d.n ≤ n)), .badField)]

/-! ### OP (R92 to R96) -/

structure OpDesc where
  m : Nat
  n : Nat
  k : Nat
  aBase : Nat
  aPitch : Nat
  bBase : Nat
  bPitch : Nat
  dBase : Nat
  dPitch : Nat
  asBase : Nat
  asPitch : Nat
  bsBase : Nat
  bsPitch : Nat
  aNoscale : Bool
  bNoscale : Bool
  aKmajor : Bool
  bKmajor : Bool
  deriving DecidableEq, Repr, Inhabited

def opDesc (td : List Nat) : OpDesc :=
  let w := nth td
  { m := 32 * (fieldOf (w 0) 0 2 + 1), n := 32 * (fieldOf (w 0) 16 2 + 1), k := 16 * (fieldOf (w 1) 0 12 + 1),
    aBase := fieldOf (w 2) 0 12, aPitch := fieldOf (w 2) 12 12, bBase := fieldOf (w 3) 0 12, bPitch := fieldOf (w 3) 12 12,
    dBase := fieldOf (w 4) 0 12, dPitch := fieldOf (w 4) 12 12, asBase := fieldOf (w 5) 0 12,
    asPitch := fieldOf (w 5) 12 12, bsBase := fieldOf (w 6) 0 12, bsPitch := fieldOf (w 6) 12 12,
    aNoscale := bitOf (w 7) 0, bNoscale := bitOf (w 7) 1, aKmajor := bitOf (w 7) 2, bKmajor := bitOf (w 7) 3 }

def opReserved (td : List Nat) : Bool :=
  let w := nth td
  fieldOf (w 0) 2 14 != 0 || fieldOf (w 0) 18 14 != 0 || fieldOf (w 1) 12 20 != 0 ||
    [2, 3, 4, 5, 6].any (fun j => fieldOf (w j) 24 8 != 0) || fieldOf (w 7) 4 28 != 0

def opA (d : OpDesc) (f : Fmt) : Region :=
  if d.aKmajor then { base := d.aBase, pitch := d.aPitch, rows := d.k, bytes := f.rowBytes d.m }
  else { base := d.aBase, pitch := d.aPitch, rows := d.m, bytes := f.rowBytes d.k }
def opB (d : OpDesc) (f : Fmt) : Region :=
  if d.bKmajor then { base := d.bBase, pitch := d.bPitch, rows := d.k, bytes := f.rowBytes d.n }
  else { base := d.bBase, pitch := d.bPitch, rows := d.n, bytes := f.rowBytes d.k }
def opD (d : OpDesc) : Region := { base := d.dBase, pitch := d.dPitch, rows := d.m, bytes := 4 * d.n }
def opAs (d : OpDesc) (f : Fmt) : List Region :=
  if f.isFt && !d.aNoscale then [{ base := d.asBase, pitch := d.asPitch, rows := d.m, bytes := d.k / 16 }] else []
def opBs (d : OpDesc) (f : Fmt) : List Region :=
  if f.isFt && !d.bNoscale then [{ base := d.bsBase, pitch := d.bsPitch, rows := d.n, bytes := d.k / 16 }] else []

/-- Row blocks, column blocks at width c, K-blocks (R96). -/
def opRb (d : OpDesc) : Nat := d.m / 32
def opCb (d : OpDesc) (c : Nat) : Nat := ceilDiv d.n c
def opKb (d : OpDesc) : Nat := ceilDiv d.k 64
/-- Row blocks of the pass that starts at row block `first` (R96, R104). -/
def opPassRows (d : OpDesc) (c first : Nat) : Nat := min (min (opRb d) (8 / opCb d c)) (opRb d - first)

/-- Dispatch checks of an OP instruction; `pos` is the restored OP_POS when it resumes (R104). -/
def opChecks (i : Nat) (td : List Nat) (c : Nat) (pos : Option Nat) : List (Bool × Code) :=
  let d := opDesc td
  let fa := (fmtOf (iFmtA i)).getD .bf16
  let fb := (fmtOf (iFmtB i)).getD .bf16
  let others := [opA d fa, opB d fb] ++ opAs d fa ++ opBs d fb
  let badRegion := (opD d :: others).any Region.bad
  [(c == 0, .absent)] ++ frameChecks i true true true true 0 1 ++
    [(decide (2 ≤ iOpcode i), .badField), (!pairOk (fmtOf (iFmtA i)) (fmtOf (iFmtB i)) || iFmtD i != 0, .badField),
     (opReserved td, .reservedSet), ((d.aNoscale && fa != .ft8) || (d.bNoscale && fb != .ft8), .badField),
     ((d.aKmajor && fa.isFt) || (d.bKmajor && fb.isFt), .badField), (badRegion, .badField),
     (!badRegion && others.any (fun r => (opD d).overlaps r), .badField),
     ((match pos with
       | none => false
       | some w =>
         let width := fieldOf w 16 8
         (width != 32 && width != 28 && width != 24) || decide (opRb d ≤ fieldOf w 14 2) ||
           decide (opKb d ≤ fieldOf w 0 10) || bitOf w 30 != (fieldOf w 0 10 != 0)), .badField)]

/-! ### VX (R60, R61, R158, R159) -/

structure VxDesc where
  aBase : Nat
  aPitch : Nat
  bBase : Nat
  bPitch : Nat
  dBase : Nat
  dPitch : Nat
  rows : Nat
  len : Nat
  asBase : Nat
  asPitch : Nat
  aNoscale : Bool
  dsBase : Nat
  dsPitch : Nat
  dNoscale : Bool
  scalar0 : Nat
  scalar1 : Nat
  deriving DecidableEq, Repr, Inhabited

def vxDesc (td : List Nat) : VxDesc :=
  let w := nth td
  { aBase := fieldOf (w 0) 0 12, aPitch := fieldOf (w 0) 12 12, bBase := fieldOf (w 1) 0 12, bPitch := fieldOf (w 1) 12 12,
    dBase := fieldOf (w 2) 0 12, dPitch := fieldOf (w 2) 12 12, rows := fieldOf (w 3) 0 12 + 1, len := fieldOf (w 3) 16 16,
    asBase := fieldOf (w 4) 0 12, asPitch := fieldOf (w 4) 12 12, aNoscale := bitOf (w 4) 24,
    dsBase := fieldOf (w 5) 0 12, dsPitch := fieldOf (w 5) 12 12, dNoscale := bitOf (w 5) 24, scalar0 := w 6,
    scalar1 := w 7 }

def vxReserved (td : List Nat) : Bool :=
  let w := nth td
  [0, 1, 2].any (fun j => fieldOf (w j) 24 8 != 0) || fieldOf (w 3) 12 4 != 0 ||
    [4, 5].any (fun j => fieldOf (w j) 25 7 != 0)

/-- The conversions of Table 22. -/
def cvtOk (a d : Fmt) : Bool :=
  match a, d with
  | .fp32, .fp32 | .fp32, .bf16 | .fp32, .fp16 | .fp32, .ft8 | .fp32, .ft6 | .fp32, .ft4 => true
  | .bf16, .fp32 | .fp16, .fp32 => true
  | .ft8, .fp32 | .ft6, .fp32 | .ft4, .fp32 | .ft8, .bf16 | .ft6, .bf16 | .ft4, .bf16 => true
  | .ft8, .fp16 | .ft6, .fp16 | .ft4, .fp16 => true
  | .fp32, .int32 | .fp32, .u16 | .int32, .fp32 | .u16, .fp32 | .int32, .u16 | .u16, .int32 => true
  | _, _ => false

/-- Source and destination formats of a VX instruction. -/
def vxFmtA (i : Nat) : Fmt := (fmtOf (iFmtA i)).getD .fp32
def vxFmtD (i : Nat) : Fmt := if iOpcode i == 0 then (fmtOf (iFmtD i)).getD .fp32 else .fp32
/-- Two-operand opcodes: ADD, SUB, MUL, FMA, MAXMIN. -/
def vxTwo (op : Nat) : Bool := op == 1 || op == 2 || op == 3 || op == 4 || op == 0xF
/-- ARGMAX, ARGMIN and ROWSUM write packed results. -/
def vxPacked (op : Nat) : Bool := op == 6 || op == 7 || op == 8

def vxA (i : Nat) (d : VxDesc) : Region :=
  { base := d.aBase, pitch := d.aPitch, rows := d.rows, bytes := (vxFmtA i).rowBytes d.len }
def vxB (d : VxDesc) : Region := { base := d.bBase, pitch := d.bPitch, rows := d.rows, bytes := 4 * d.len }
def vxD (i : Nat) (d : VxDesc) : Region :=
  if vxPacked (iOpcode i) then
    { base := d.dBase, pitch := 0, rows := 1, bytes := (if iOpcode i == 8 then 4 else 8) * d.rows }
  else { base := d.dBase, pitch := d.dPitch, rows := d.rows, bytes := (vxFmtD i).rowBytes d.len }

/-- Dispatch checks of a VX instruction; `run` is the recorded next row when it resumes started (R171). -/
def vxChecks (i : Nat) (td : List Nat) (run : Option Nat) : List (Bool × Code) :=
  let d := vxDesc td
  let op := iOpcode i
  let fl := iFlags i
  let two := vxTwo op
  let scalarB := two && bitOf fl 1
  let useB := two && !scalarB
  let fa := vxFmtA i
  let fd := vxFmtD i
  let useAs := op == 0 && fa.isFt && !d.aNoscale
  let useDs := op == 0 && fd.isFt && !d.dNoscale
  let aR := vxA i d
  let dR := vxD i d
  let asR : List Region := if useAs then [{ base := d.asBase, pitch := d.asPitch, rows := d.rows, bytes := d.len / 16 }] else []
  let dsR : List Region := if useDs then [{ base := d.dsBase, pitch := d.dsPitch, rows := d.rows, bytes := d.len / 16 }] else []
  let bR : List Region := if useB then [vxB d] else []
  let badRegion := ([aR] ++ bR ++ asR ++ dsR).any Region.bad || dR.extentBad || (!vxPacked op && dR.pitchBad)
  let coincides := fun (r : Region) => !vxPacked op && r.base == d.dBase && r.pitch == d.dPitch
  frameChecks i true true true true 0 (if op == 0 then 0xF else if op == 0xF then 3 else if two then 2 else 0) ++
    [(op == 0 && (match fmtOf (iFmtA i), fmtOf (iFmtD i) with
                  | some a, some b => !cvtOk a b
                  | _, _ => true), .badField),
     ((op == 6 || op == 7) && decide (2 < iFmtA i), .badField),
     (op != 0 && op != 6 && op != 7 && iFmtA i != 0, .badField),
     (iFmtB i != 0, .badField), (op != 0 && iFmtD i != 0, .badField),
     (op == 0 && fieldOf fl 0 2 == 3, .badField),
     (op == 0 && bitOf fl 2 && fd != .bf16 && fd != .fp16, .badField),
     (op == 0 && bitOf fl 3 && !fd.isFt, .badField),
     (op == 0 && fieldOf fl 0 2 == 2 && (fd == .int32 || fd == .u16), .badField),
     (vxReserved td, .reservedSet),
     (!useB && (d.bBase != 0 || d.bPitch != 0), .reservedSet),
     (!(op == 0 && fa.isFt) && d.aNoscale, .reservedSet), (!useAs && (d.asBase != 0 || d.asPitch != 0), .reservedSet),
     (!(op == 0 && fd.isFt) && d.dNoscale, .reservedSet), (!useDs && (d.dsBase != 0 || d.dsPitch != 0), .reservedSet),
     (!(scalarB || op == 5 || op == 6 || op == 7) && d.scalar0 != 0, .reservedSet),
     (op != 5 && d.scalar1 != 0, .reservedSet),
     (op == 0 && d.aNoscale && fa != .ft8, .badField), (op == 0 && d.dNoscale && fd != .ft8, .badField),
     (d.len == 0, .badField), ((fa.isFt || fd.isFt) && d.len % 16 != 0, .badField),
     (vxPacked op && d.dPitch != 0, .badField), (badRegion, .badField),
     (!badRegion && (([aR] ++ bR).any (fun r => !coincides r && dR.overlaps r) ||
       (asR ++ dsR).any (fun r => dR.overlaps r)), .badField),
     ((match run with | none => false | some r => decide (d.rows ≤ r)), .badField)]

/-! ### DM: GET and PUT (R135 to R139) -/

structure MoveDesc where
  conv : Bool
  early : Bool
  pred : Bool
  rowLevel : Nat
  predMs : Nat
  src : Nat
  run : Nat
  counts : List Nat
  strides : List Int
  inH : Nat
  inW : Nat
  outH : Nat
  outW : Nat
  kh : Nat
  kw : Nat
  sy : Nat
  sx : Nat
  dy : Nat
  dx : Nat
  padT : Nat
  padL : Nat
  rowStride : Nat
  pixStride : Nat
  oy0 : Nat
  ox0 : Nat
  dstBase : Nat
  dstPitch : Nat
  predValue : Nat
  deriving DecidableEq, Repr, Inhabited

def moveDesc (td : List Nat) : MoveDesc :=
  let w := nth td
  { conv := fieldOf (w 0) 0 2 == 1, early := bitOf (w 0) 2, pred := bitOf (w 0) 3, rowLevel := fieldOf (w 0) 4 3,
    predMs := fieldOf (w 0) 8 6, src := w 1 + 2 ^ 32 * fieldOf (w 2) 0 8, run := 16 * (fieldOf (w 3) 0 12 + 1),
    counts := [fieldOf (w 4) 0 16 + 1, fieldOf (w 4) 16 16 + 1, fieldOf (w 5) 0 16 + 1, fieldOf (w 5) 16 16 + 1],
    strides := [sext 32 (w 6), sext 32 (w 7), sext 32 (w 8), sext 32 (w 9)],
    inH := fieldOf (w 4) 0 16, inW := fieldOf (w 4) 16 16, outH := fieldOf (w 5) 0 16, outW := fieldOf (w 5) 16 16,
    kh := fieldOf (w 6) 0 4, kw := fieldOf (w 6) 4 4, sy := fieldOf (w 6) 8 4, sx := fieldOf (w 6) 12 4,
    dy := fieldOf (w 6) 16 4, dx := fieldOf (w 6) 20 4, padT := fieldOf (w 6) 24 4, padL := fieldOf (w 6) 28 4,
    rowStride := w 7, pixStride := w 8, oy0 := fieldOf (w 9) 0 16, ox0 := fieldOf (w 9) 16 16,
    dstBase := fieldOf (w 10) 0 12, dstPitch := fieldOf (w 10) 12 12, predValue := w 11 }

def moveReserved (td : List Nat) : Bool :=
  let w := nth td
  bitOf (w 0) 7 || fieldOf (w 0) 14 18 != 0 || fieldOf (w 2) 8 24 != 0 || fieldOf (w 3) 12 20 != 0 ||
    fieldOf (w 10) 24 8 != 0 || [12, 13, 14, 15].any (fun j => w j != 0)

/-- Runs that the descriptor generates. -/
def moveRuns (d : MoveDesc) : Nat :=
  if d.conv then d.outH * d.outW * d.kh * d.kw else d.counts.foldl (· * ·) 1

/-- Runs of one row (R136, R137). -/
def moveRowRuns (d : MoveDesc) : Nat :=
  if d.conv then d.kh * d.kw
  else if d.rowLevel = 5 then moveRuns d else (d.counts.take d.rowLevel).foldl (· * ·) 1

/-- Source address of run j, or none for a padding run (R136, R137). -/
def moveSrc (d : MoveDesc) (j : Nat) : Option Int :=
  if d.conv then
    let kx := j % d.kw
    let ky := j / d.kw % d.kh
    let ox := d.ox0 + j / (d.kw * d.kh) % d.outW
    let oy := d.oy0 + j / (d.kw * d.kh * d.outW)
    let iy : Int := (oy * d.sy + ky * d.dy : Nat) - (d.padT : Int)
    let ix : Int := (ox * d.sx + kx * d.dx : Nat) - (d.padL : Int)
    if iy < 0 ∨ iy ≥ d.inH ∨ ix < 0 ∨ ix ≥ d.inW then none
    else some ((d.src : Int) + iy * d.rowStride + ix * d.pixStride)
  else
    let c := nth d.counts
    let i1 := j % c 0
    let i2 := j / c 0 % c 1
    let i3 := j / (c 0 * c 1) % c 2
    let i4 := j / (c 0 * c 1 * c 2)
    let st := fun n => d.strides.getD n 0
    some ((d.src : Int) + i1 * st 0 + i2 * st 1 + i3 * st 2 + i4 * st 3)

/-- Tile store byte address of run j. -/
def moveDst (d : MoveDesc) (j : Nat) : Nat :=
  let rr := moveRowRuns d
  64 * (d.dstBase + j / rr * d.dstPitch) + j % rr * d.run

/-- The least and the greatest coordinate inside the map that a CONV axis generates: position o × s + k × dil − pad of outputs o0 on
and kernel places k (R137); none where every run is padding. -/
def axisEnds (o0 n s kn dil pad size : Nat) : Option (Nat × Nat) :=
  let ends := (List.range kn).filterMap (fun k =>
    let lo := max o0 (if k * dil < pad then ceilDiv (pad - k * dil) s else 0)
    let top := size - 1 + pad
    if top < k * dil then none
    else
      let hi := min (o0 + n - 1) ((top - k * dil) / s)
      if hi < lo then none else some (lo * s + k * dil - pad, hi * s + k * dil - pad))
  match ends with
  | [] => none
  | e :: rest => some (rest.foldl (fun b x => min b x.1) e.1, rest.foldl (fun b x => max b x.2) e.2)

/-- Least and greatest-plus-run generated source addresses, from the extremes of every loop (R139). -/
def moveExtremes (d : MoveDesc) : Int × Int :=
  if d.conv then
    match axisEnds d.oy0 d.outH d.sy d.kh d.dy d.padT d.inH, axisEnds d.ox0 d.outW d.sx d.kw d.dx d.padL d.inW with
    | some y, some x =>
      ((d.src : Int) + y.1 * d.rowStride + x.1 * d.pixStride, (d.src : Int) + y.2 * d.rowStride + x.2 * d.pixStride + d.run)
    | _, _ => (0, 0)
  else
    let ends := (List.range 4).map (fun n => ((d.counts.getD n 1 : Nat) - 1 : Int) * d.strides.getD n 0)
    (d.src + ends.foldl (fun (t : Int) e => t + min e 0) 0, d.src + ends.foldl (fun (t : Int) e => t + max e 0) 0 + d.run)

def moveChecks (i : Nat) (td : List Nat) (put : Bool) (run : Option Nat) : List (Bool × Code) :=
  let w := nth td
  let d := moveDesc td
  let mode := fieldOf (w 0) 0 2
  let rows := moveRuns d / moveRowRuns d
  let rowBytes := moveRowRuns d * d.run
  let convBad := d.conv && ([d.inH, d.inW, d.outH, d.outW, d.kh, d.kw, d.sy, d.sx, d.dy, d.dx].any (· == 0))
  let ext := moveExtremes d
  [(d.src % 16 != 0 || (d.conv && (d.rowStride % 16 != 0 || d.pixStride % 16 != 0)) ||
     (!d.conv && d.strides.any (fun s => s % 16 != 0)), .align),
   (moveReserved td, .reservedSet), (decide (2 ≤ mode) || (put && (d.conv || d.early || d.pred)), .badField),
   (decide (5 < d.rowLevel) || (d.conv && d.rowLevel != 0), .badField),
   ((!d.pred && (d.predMs != 0 || d.predValue != 0)) || decide (47 < d.predMs), .badField),
   (convBad, .badField), (decide (64 * d.dstPitch < rowBytes), .badField),
   (decide (3072 < d.dstBase + (rows - 1) * d.dstPitch + segsOf rowBytes), .badField),
   (decide (ext.1 < 0 ∨ ext.2 > (2 : Int) ^ 40), .badField),
   ((match run with | none => false | some r => decide (moveRuns d ≤ r)), .badField)] ++ (if iTd i == 1023 then [(true, .badField)] else [])

/-! ### DM: contributions (R147) -/

structure AccDesc where
  src : Nat
  len : Nat
  core : Nat
  dst : Nat
  ms : Nat
  slot : Nat
  index : Nat
  deriving DecidableEq, Repr, Inhabited

def accDesc (td : List Nat) : AccDesc :=
  let w := nth td
  { src := fieldOf (w 0) 0 12, len := fieldOf (w 0) 12 12, core := fieldOf (w 1) 0 12, dst := fieldOf (w 1) 12 12,
    ms := fieldOf (w 2) 0 6, slot := fieldOf (w 2) 8 2, index := fieldOf (w 2) 16 4 }

def accChecks (td : List Nat) (cores : List Nat) (ord : Bool) (run : Option Nat) : List (Bool × Code) :=
  let w := nth td
  let d := accDesc td
  [(!cores.contains d.core, .notOwner),
   (fieldOf (w 0) 24 8 != 0 || fieldOf (w 1) 24 8 != 0 || fieldOf (w 2) 6 2 != 0 || fieldOf (w 2) 10 6 != 0 ||
     fieldOf (w 2) 20 12 != 0 || (List.range 13).any (fun j => w (j + 3) != 0), .reservedSet),
   (d.len == 0 || decide (3072 < d.len), .badField),
   (if ord then d.dst != 0 || d.ms != 0 else d.slot != 0 || d.index != 0 || decide (47 < d.ms), .badField),
   (decide (3072 < d.src + d.len) || (!ord && decide (3072 < d.dst + d.len)), .badField),
   ((match run with | none => false | some r => decide (d.len ≤ r)), .badField)]

structure CmbDesc where
  dst : Nat
  len : Nat
  slot : Nat
  stage : Nat
  p : Nat
  ms : Nat
  deriving DecidableEq, Repr, Inhabited

def cmbDesc (w0 w1 : Nat) : CmbDesc :=
  { dst := fieldOf w0 0 12, len := fieldOf w0 12 12, slot := fieldOf w0 24 2, stage := fieldOf w1 0 12,
    p := fieldOf w1 16 5, ms := fieldOf w1 24 6 }

def cmbChecks (td : List Nat) (isOpen : Nat → Bool) : List (Bool × Code) :=
  let w := nth td
  let d := cmbDesc (w 0) (w 1)
  let st := (d.p - 1) * d.len
  [(fieldOf (w 0) 26 6 != 0 || fieldOf (w 1) 12 4 != 0 || fieldOf (w 1) 21 3 != 0 || fieldOf (w 1) 30 2 != 0 ||
     (List.range 14).any (fun j => w (j + 2) != 0), .reservedSet),
   (d.len == 0 || decide (3072 < d.len) || decide (d.p < 2 ∨ 16 < d.p) || decide (47 < d.ms), .badField),
   (decide (3072 < d.dst + d.len) || decide (3072 < d.stage + st), .badField),
   (decide (d.dst < d.stage + st ∧ d.stage < d.dst + d.len), .badField),
   (isOpen d.slot, .wrongState)]

/-- Dispatch checks of a DM instruction. -/
def dmChecks (i : Nat) (td : List Nat) (cores : List Nat) (isOpen : Nat → Bool) (run : Option Nat) : List (Bool × Code) :=
  let op := iOpcode i
  frameChecks i false false false true 0 0 ++ [(iTd i == 1023, .badField), (decide (5 ≤ op), .badField)] ++
    (if op == 0 then moveChecks i td false run else if op == 1 then moveChecks i td true run
     else if op == 2 then accChecks td cores false run else if op == 3 then accChecks td cores true run
     else if op == 4 then cmbChecks td isOpen else [])

/-! ### MS (R185, R186) -/

structure MsDesc where
  targetMs : Nat
  targetCore : Nat
  otherChip : Bool
  chip : Nat
  ctx : Nat
  value : Nat
  timeout : Nat
  timeoutMs : Nat
  localMs : Nat
  deriving DecidableEq, Repr, Inhabited

def msDesc (td : List Nat) : MsDesc :=
  let w := nth td
  { targetMs := fieldOf (w 0) 0 6, targetCore := fieldOf (w 0) 8 12, otherChip := bitOf (w 0) 20, chip := fieldOf (w 1) 0 16,
    ctx := fieldOf (w 1) 16 8, value := w 2, timeout := fieldOf (w 3) 0 24, timeoutMs := fieldOf (w 4) 0 6,
    localMs := fieldOf (w 4) 8 6 }

/-- Dispatch checks of an MS instruction on `core`. Fields an opcode does not use must be 0. -/
def msChecks (i : Nat) (td : List Nat) (core : Nat) (cores : List Nat) : List (Bool × Code) :=
  let w := nth td
  let d := msDesc td
  let op := iOpcode i
  let target := op != 4
  frameChecks i false false false true 0 (if op == 3 then 1 else 0) ++
    [(decide (5 ≤ op), .badField),
     (target && !d.otherChip && !cores.contains d.targetCore, .notOwner),
     (fieldOf (w 0) 6 2 != 0 || fieldOf (w 0) 21 11 != 0 || fieldOf (w 1) 24 8 != 0 || fieldOf (w 3) 24 8 != 0 ||
       fieldOf (w 4) 6 2 != 0 || fieldOf (w 4) 14 18 != 0 || [5, 6, 7].any (fun j => w j != 0), .reservedSet),
     ((op != 1 || !d.otherChip) && (d.chip != 0 || d.ctx != 0), .reservedSet),
     (!target && (d.targetMs != 0 || d.targetCore != 0), .reservedSet),
     ((op == 3 || op == 4) && d.value != 0, .reservedSet),
     (op != 4 && (d.timeout != 0 || d.timeoutMs != 0), .reservedSet),
     (op != 2 && op != 3 && d.localMs != 0, .reservedSet),
     (decide (47 < d.targetMs) || decide (47 < d.timeoutMs) || decide (47 < d.localMs), .badField),
     ((op == 0 || op == 2) && d.targetCore != core, .badField), (d.otherChip && op != 1, .badField),
     (op == 1 && d.value == 0, .badField),
     (op == 2 && (fieldOf d.value 0 16 == 0 || fieldOf d.value 16 16 != 0), .badField),
     (op == 4 && (iWaitCond i == 0 || d.timeout == 0), .badField),
     (op == 4 && d.timeoutMs == iWaitMs i, .badField)]

end Sys2Proof.Machine
end

