-- ==== Sys2Proof/Machine/Seq.lean ====
section
/-!
DEFINITION. The sequencer (chapter 8): fetch, dispatch of every instruction, rejection, BRANCH, TD_LOAD, SAVE and HALT.
-/
namespace Sys2Proof.Machine

/-- The context resident on a core while it runs or is being saved: issued work may still complete. -/
def activeCtx (s : State) (core : Nat) : Option Nat :=
  match (getCore s core).ctx with
  | some c => if (getCtx s c).state == .running || (getCtx s c).state == .saving then some c else none
  | none => none

/-- Descriptor memory words from entry i (R156). -/
def tdWords (x : Core) (i n : Nat) : List Nat := (List.range n).map (fun j => memNum x.descMem (32 * i + 4 * j) 4)

/-- A read of a block by the sequencer of a core of a die, through its frame map cache (R201). -/
def readSeq (s : State) (die part addr n : Nat) : State × Except Code (List Byte) :=
  match cacheFail s addr with | some c => (s, .error c) | none => readVia s die part addr n

/-- A read of any length by a core of a die, with the address of the first block that fails. -/
def readViaAt (s : State) (die part addr n : Nat) : State × Except (Code × Nat) (List Byte) :=
  (pieces512 addr n).foldl (fun (t : State × Except (Code × Nat) (List Byte)) p =>
    match t.2 with
    | .error _ => t
    | .ok l =>
      let (s, r) := readSeq t.1 die part p.1 p.2
      (s, match r with | .error c => .error (c, p.1) | .ok b => .ok (l ++ b))) (s, .ok [])

/-! ### Dispatch (R150 to R153, R171) -/

/-- Opcodes that Tables 26, 33, 42, 50, 52 and 58 define. -/
def opcodeDefined (eng op : Nat) : Bool :=
  if eng == 0 then op < 8 else if eng == 1 || eng == 2 then op < 2 else if eng == 3 then op < 16
  else if eng == 4 || eng == 5 then op < 5 else false

/-- What the sequencer dispatches next: an entry of a restored window, or the instruction at the fetch PC. -/
structure Target where
  addr : Nat
  st : Nat
  run : Nat
  resumed : Bool
  deriving DecidableEq, Repr, Inhabited

def nextTarget (x : Core) : Target :=
  match x.resume with
  | r :: _ => { addr := r.1, st := r.2.1, run := r.2.2, resumed := true }
  | [] => { addr := x.pc, st := 0, run := 0, resumed := false }

/-- The fetched line that holds an address. -/
def lineFor (x : Core) (addr : Nat) : Option Line := x.lines.find? (fun l => l.line == addr / 512)

/-- The sequencer may dispatch: its context runs, nothing ended dispatch, the window has room, and no TD_LOAD is
uncompleted (R153, R156). -/
def mayDispatch (s : State) (core : Nat) : Bool :=
  let x := getCore s core
  (runningCtx s core).isSome && (x.runState == 1 || x.runState == 2) && !x.closed && x.reject.isNone &&
    x.heldReject.isNone && decide (x.window.length < 64) && !x.window.any (fun e => isSeqOp e 5 && e.st != 2)

/-- A STATE of 1 has a meaning for LR, OP, VX, DM transfers and an ARRIVE that waits for its release (R171, R183). -/
def startedSt (i st : Nat) : Nat :=
  let eng := iEngine i
  if st == 1 && (eng == 0 || (eng == 4 && iOpcode i == 4) || (eng == 5 && (iOpcode i != 3 || bitOf (iFlags i) 0))) then 0
  else st

/-- The dispatch checks of an instruction with its descriptor words, in the state its entry is dispatched in. -/
def dispatchChecks (s : State) (core i : Nat) (td : List Nat) (st run : Nat) : List (Bool × Code) :=
  let x := getCore s core
  let cores := match x.ctx with | some c => (getCtx s c).cores | none => []
  let eng := iEngine i
  let started := st == 1
  if eng == 0 then seqChecks i
  else if eng == 1 then
    lrChecks i td (lrWidth (coreSite s core))
      (if started && x.lrPass.getLsbD 31 then
         some (fieldOf x.lrPass.toNat 0 10, fieldOf x.lrPos.toNat 16 10, fieldOf x.lrPos.toNat 0 16) else none)
  else if eng == 2 then
    opChecks i td (opWidth s core) (if started && x.opPos.getLsbD 31 then some x.opPos.toNat else none)
  else if eng == 3 then vxChecks i td (if started then some run else none)
  else if eng == 4 then
    dmChecks i td cores (fun k => (look x.slots k {}).isOpen) (if started then some run else none)
  else if eng == 5 then msChecks i td core cores
  else [(true, .badField)]

/-- R157: the rejection is recorded, nothing further is dispatched, and the context halts once the window is empty. -/
def coreReject (s : State) (core eng code addr : Nat) : State :=
  let s := recordFault s core 1 (if eng < 6 then eng else 0xF) code (getCore s core).ctx addr 0 0
  checkReject (modCore s core (fun x => { x with reject := some code, closed := true })) core

/-- Where fetching continues and the loop counters after a dispatch (Table 50). A restored entry has already moved the
fetch PC; its loop counters act again only behind a BRANCH that was open at the image. -/
def seqEffect (x : Core) (i addr : Nat) (resumed : Bool) : Nat × List Nat :=
  let op := iOpcode i
  let k := fieldOf (iFlags i) 0 2
  let next := (addr + 16) % 2 ^ 40
  let target := (((addr : Int) + 16 * sext 24 (iImm i)) % (2 ^ 40 : Int)).toNat
  let act := !resumed || x.reloop
  let loops :=
    if !act || iEngine i != 0 then x.loops
    else if op == 2 then x.loops.set k (iImm i)
    else if op == 3 then x.loops.set k ((nth x.loops k + 2 ^ 24 - 1) % 2 ^ 24)
    else x.loops
  let pc :=
    if resumed then x.pc
    else if iEngine i == 0 && op == 1 then target
    else if iEngine i == 0 && op == 3 && nth loops k != 0 then target
    else next
  (pc, loops)

/-- The internal progress of a restored started entry: LR and OP have issued work, GET and PUT keep a byte position. -/
def resumeRun (i st run : Nat) (td : List Nat) : Nat :=
  if st != 1 then 0
  else if iEngine i == 1 || iEngine i == 2 then 1
  else if iEngine i == 4 && iOpcode i < 2 then run * (moveDesc td).run
  else run

/-- An accepted instruction enters the window (R153). -/
def acceptInstr (s : State) (core i : Nat) (t : Target) (td : List Nat) : State :=
  let st := startedSt i t.st
  let s := modCore s core (fun x =>
    let (pc, loops) := seqEffect x i t.addr t.resumed
    let e : WEnt := {
      id := x.nextId, addr := t.addr, ins := i, td := td, st := st, run := resumeRun i st t.run td, loops := x.loops }
    { x with
      window := x.window ++ [e], nextId := x.nextId + 1, pc := pc, loops := loops,
      resume := if t.resumed then x.resume.drop 1 else x.resume,
      reloop := (x.reloop || (t.resumed && iEngine i == 0 && iOpcode i == 4 && st != 2)) &&
        (if t.resumed then decide (1 < x.resume.length) else false),
      closed := x.closed || (iEngine i == 0 && iOpcode i == 7 && !t.resumed) || (t.resumed && iEngine i == 0 && iOpcode i == 7) })
  let s := if t.resumed then s else siteBump64 s core 0xC1C 1
  popWindow (if iEngine i == 1 || iEngine i == 2 then wakeEngines s core else s) core

/-- One dispatch, when the next instruction is one that `want` accepts by engine and opcode (R153, R155, R157). -/
def dispatchNext (s : State) (core : Nat) (want : Nat → Nat → Bool) : State :=
  let x := getCore s core
  if !mayDispatch s core then s
  else
    let t := nextTarget x
    let branchOpen := x.window.any openBranch
    match lineFor x t.addr with
    | none => s
    | some l =>
      if l.fault != 0 then (if branchOpen then s else coreFault s core 0 l.fault false t.addr 0 (t.addr / 512 * 512))
      else
        let i := memNum l.bytes (t.addr % 512) 16
        let eng := iEngine i
        let op := iOpcode i
        if opcodeDefined eng op && !want eng op then s
        else
          let td := if eng == 0 then [] else tdWords x (iTd i) (if eng == 4 then 16 else 8)
          let checks := if t.st == 2 then [] else dispatchChecks s core i td (startedSt i t.st) t.run
          match firstFail checks with
          | some c =>
            if branchOpen then
              modCore s core (fun x => { x with heldReject := some (c.num + 256 * eng, t.addr) })
            else coreReject s core eng c.num t.addr
          | none => acceptInstr s core i t td

/-- The dispatch row of one opcode. -/
def dispatchAs (s : State) (core eng op : Nat) : State := dispatchNext s core (fun e o => e == eng && o == op)

/-- A 512-byte line returns (R152): one the fetch PC or the restored window needs now, or the line after it, once its channel serves
it. A failing read is held with the line. -/
def execFetchLineReturn (core : CoreId) (line : BitVec 31) (s : State) : Result :=
  let x := getCore s core
  let need := (nextTarget x).addr / 512
  .next (match runningCtx s core with
    | none => s
    | some _ =>
      if (line.toNat == need || line.toNat == need + 1) && !x.closed &&
          viaReady s (dieOfCore core) (partOfCore s core) (line.toNat * 512) 512 then
        let (s, r) := readSeq s (dieOfCore core) (partOfCore s core) (line.toNat * 512) 512
        let l : Line := match r with
          | .ok b => { line := line.toNat, bytes := storeBytes [] 0 b }
          | .error c => { line := line.toNat, fault := c.num }
        modCore s core (fun x => { x with lines := l :: (x.lines.filter (fun y => y.line != line.toNat)).take 1 })
      else s)

/-! ### SAVE (R166, R167) -/

/-- The SAVE a core waits in: its window entry. -/
def saveOf (x : Core) : Option WEnt := x.window.find? (fun e => isSeqOp e 6 && e.st == 1)

/-- The tag of the SAVE a core waits in. -/
def saveTag (s : State) (core : Nat) : Option Nat :=
  (saveOf (getCore s core)).map (fun e => fieldOf (iImm e.ins) 0 16)

/-- R166: once every core has started a SAVE or halted, equal tags begin the image and unequal ones halt the context. -/
def trySave (s : State) (c : Nat) : State :=
  let x := getCtx s c
  let saving := x.cores.filter (fun k => (saveTag s k).isSome)
  if x.state == .running && !saving.isEmpty &&
      x.cores.all (fun k => (getCore s k).halted || (saveTag s k).isSome) then
    let tags := saving.map (fun k => (saveTag s k).getD 0)
    let tag := tags.headD 0
    match saving.find? (fun k => saveTag s k != some tag) with
    | some k =>
      let addr := ((saveOf (getCore s k)).map (fun e => e.addr)).getD 0
      let s := recordFault s k 1 0 Code.sequence.num (some c) addr 0 0
      let s := modCtx (vacate s c) c (fun x => { x with state := .halted })
      completeRun s c Code.sequence.num k
    | none =>
      let s := beginSave s c { kind := 1, tag := tag, start := 0, after := 1 }
      saving.foldl (fun s k =>
        match saveOf (getCore s k) with
        | some e => finishEnt s k e
        | none => s) s
  else s

/-- A core may have entered SAVE or halted. -/
def afterSeq (s : State) (core : Nat) : State :=
  match (getCore s core).ctx with
  | some c => trySave s c
  | none => s

/-! ### Starts of sequencer instructions -/

/-- Starts a sequencer instruction (Table 50): TD_LOAD begins its read, SAVE waits for the context's other cores, and the
others, whose effect came at dispatch, complete. -/
def startSeq (s : State) (core : Nat) (e : WEnt) : State :=
  let op := iOpcode e.ins
  if op == 5 then settle (modEnt s core e.id (fun e => { e with st := 1, sat := true })) core
  else if op == 6 then
    let s := modEnt s core e.id (fun e => { e with st := 1, sat := true })
    let s := modCore s core (fun x => { x with runState := 2 })
    afterSeq (settle s core) core
  else afterSeq (finishEnt s core e) core

/-- The next sequencer instruction starts, when it is `op` or any is taken. -/
def startSeqAs (s : State) (core : Nat) (op : Option Nat) : State :=
  let x := getCore s core
  match runningCtx s core, nextOf x 0 with
  | some _, some e =>
    if canStart x e && (op.isNone || op == some (iOpcode e.ins)) then startSeq s core e else s
  | _, _ => s

/-! ### Dispatch rows of the sequencer -/

def execSeqNop (core : CoreId) (ph : Phase) (s : State) : Result :=
  .next (match ph with | .dispatch => dispatchAs s core 0 0 | .work => startSeqAs s core (some 0))
def execJump (core : CoreId) (s : State) : Result := .next (dispatchAs s core 0 1)
def execSetloop (core : CoreId) (s : State) : Result := .next (dispatchAs s core 0 2)
def execLoop (core : CoreId) (s : State) : Result := .next (dispatchAs s core 0 3)
def execBranch (core : CoreId) (s : State) : Result := .next (dispatchAs s core 0 4)
def execTdLoad (core : CoreId) (s : State) : Result := .next (dispatchAs s core 0 5)
/-- SAVE: its work starts it, and writes the image once every core waits or has halted (R166). -/
def execSave (core : CoreId) (ph : Phase) (s : State) : Result :=
  .next (match ph with | .dispatch => dispatchAs s core 0 6 | .work => afterSeq (startSeqAs s core (some 6)) core)
def execHalt (core : CoreId) (ph : Phase) (s : State) : Result :=
  .next (match ph with | .dispatch => dispatchAs s core 0 7 | .work => startSeqAs s core (some 7))

/-! ### BRANCH (R155) -/

/-- The oldest unresolved BRANCH when every older instruction has completed. -/
def branchReady (x : Core) : Option WEnt :=
  match x.window.find? (fun e => e.st != 2) with
  | some e => if openBranch e then some e else none
  | none => none

/-- Run-ahead work of a GET is dropped (Table 45): its shadow slots are freed and its reads in flight are discarded. -/
def dropAhead (s : State) (core id : Nat) : State :=
  modCore s core (fun x => { x with
    shadow := x.shadow.filter (fun h => h.ent != id),
    reqs := x.reqs.map (fun r => (r.1, r.2.map (fun q => if q.ent == id && q.kind == 4 then { q with dead := true } else q))) })

/-- The GETs of a list lose their run-ahead work, each counted in SQUASHED. -/
def squashAll (s : State) (core : Nat) (l : List WEnt) : State :=
  l.foldl (fun s e => if entAhead (getCore s core) e.id then siteBump32 (dropAhead s core e.id) core 0x224 1 else s) s

/-- A BRANCH whose condition holds: what follows it is removed and fetching resumes at its target. -/
def branchTaken (s : State) (core : Nat) (e : WEnt) : State :=
  let x := getCore s core
  let after := (x.window.dropWhile (fun y => y.id != e.id)).drop 1
  let s := squashAll s core after
  let s := modCore s core (fun x => { x with
    window := x.window.filter (fun y => !after.any (fun z => z.id == y.id)), loops := e.loops, heldReject := none,
    closed := false, resume := [], reloop := false,
    pc := (((e.addr : Int) + 16 * sext 24 (iImm e.ins)) % (2 ^ 40 : Int)).toNat })
  let s := bump32 s (pgCore core) 0x358 (after.length + x.resume.length)
  finishEnt s core e

/-- A BRANCH whose condition does not hold: what follows it may start, and a held rejection takes effect once no BRANCH
before it is unresolved. -/
def branchPassed (s : State) (core : Nat) (e : WEnt) : State :=
  let s := finishEnt s core e
  let x := getCore s core
  match x.heldReject with
  | some h =>
    if x.window.any openBranch then s
    else coreReject (modCore s core (fun x => { x with heldReject := none })) core (h.1 / 256) (h.1 % 256) h.2
  | none => s

def execBranchResolve (core : CoreId) (s : State) : Result :=
  let x := getCore s core
  .next (match runningCtx s core, branchReady x with
    | some _, some e => if entWaitHolds x e then branchTaken s core e else branchPassed s core e
    | _, _ => s)

/-! ### TD_LOAD (R156) -/

def execTdLoadDone (core : CoreId) (s : State) : Result :=
  let x := getCore s core
  .next (match activeCtx s core, x.window.find? (fun e => isSeqOp e 5 && e.st == 1) with
    | some _, some e =>
      let first := fieldOf (iImm e.ins) 0 10
      let n := fieldOf (iImm e.ins) 10 10 + 1
      if !viaReady s (dieOfCore core) (partOfCore s core) (x.tdSrc + 32 * first) (32 * n) then s
      else
        let (s, r) := readViaAt s (dieOfCore core) (partOfCore s core) (x.tdSrc + 32 * first) (32 * n)
        match r with
        | .error (c, a) => coreFault s core 0 c.num false e.addr 0 a
        | .ok b =>
          finishEnt (modCore s core (fun x => { x with descMem := storeBytes x.descMem (32 * first) b })) core e
    | _, _ => s)

end Sys2Proof.Machine
end

