-- ==== Sys2Proof/Machine/Sites.lean ====
section
/-!
DEFINITION. CRC-32 (R118), choice of hard-shoulder sites (R20, R362), the start of shadow runs (R367) and of tests of a site (R364,
R434).
-/
namespace Sys2Proof.Machine

/-! ### CRC-32 (R118) -/

/-- One bit of the reflected CRC-32 register. -/
def crcBit (c : Word) : Word := if c.getLsbD 0 then (c >>> 1) ^^^ 0xEDB88320#32 else c >>> 1

/-- One byte into the register. -/
def crcByte (c : Word) (b : Byte) : Word :=
  let x := c ^^^ b.zeroExtend 32
  crcBit (crcBit (crcBit (crcBit (crcBit (crcBit (crcBit (crcBit x)))))))

/-- The register after bytes, from a register value. -/
def crcMore (c : Word) (l : List Byte) : Word := l.foldl crcByte c

/-- CRC-32 of IEEE 802.3: reflected, initial and final value 0xFFFF_FFFF. -/
def crc32 (l : List Byte) : Word := crcMore 0xFFFFFFFF l ^^^ 0xFFFFFFFF#32

/-- The register after n zero bytes. -/
def crcZeros (c : Word) (n : Nat) : Word := n.repeat (fun c => crcByte c 0) c

/-- The register after bytes [at_, at_ + n) of a byte memory. -/
def crcSparse (c : Word) (m : SMap Byte) (at_ n : Nat) : Word := crcMore c (loadBytes m at_ n)

/-! ### Sites -/

/-- The sites of a die in column order. -/
def dieSites (die : Nat) : List Nat := (List.range 1200).map (siteAt die)

def siteCol (n : Nat) : Nat := fieldOf n 8 6
def siteRow (n : Nat) : Nat := fieldOf n 0 5

/-- Ring hops between two sites of a die (R254): row ring of 40 stops, column ring of 32. -/
def hops (a b : Nat) : Nat :=
  let d := fun (x y : Nat) => if x ≤ y then y - x else x - y
  let c := d (siteCol a) (siteCol b)
  let r := d (siteRow a) (siteRow b)
  min c (40 - c) + min r (32 - r)

/-- A hard-shoulder site is free when it neither stands in nor is under test (R362). -/
def freeSites (s : State) (die : Nat) : List Nat :=
  (dieSites die).filter (fun n => let x := getSite s n; x.role == 2 && !x.testing && !x.standIn)

/-- The nearest of some sites to one, a tie going to the lower identifier (R362). -/
def nearest (l : List Nat) (from_ : Nat) : Option Nat :=
  l.foldl (fun (b : Option Nat) n =>
    match b with
    | none => some n
    | some m =>
      if hops from_ n < hops from_ m || (hops from_ n == hops from_ m && n < m) then some n else some m) none

/-- The fitting free hard-shoulder site for a logical core (R20, R362): a junction core needs a junction-capable one, another
core takes one without an OP engine while one is free. -/
def fittingSite (s : State) (core : Nat) : Option Nat :=
  let free := freeSites s (dieOfCore core)
  let at_ := siteOf s core
  let j := free.filter (fun n => (getSite s n).jcap)
  let p := free.filter (fun n => !(getSite s n).jcap)
  if isJunction core then nearest j at_
  else if p.isEmpty then nearest j at_ else nearest p at_

/-! ### Shadow sampling (R367) -/

/-- Free hard-shoulder sites of a die that no shadow run uses. -/
def shadowFree (s : State) (die : Nat) : List Nat :=
  (freeSites s die).filter (fun n =>
    !s.hide.shadows.any (fun r => (r.site1 == n && r.crc1.isNone) || r.site2 == some n))

/-- At the start of a pass of `cycles` island cycles the sampler may select it (R367). The selection itself is random: a free
value decides it. -/
def shadowSelect (s : State) (core ctx pass cycles : Nat) : State :=
  let (v, s) := freshNat s
  if v % 4096 != 0 then s
  else
    match nearest (shadowFree s (dieOfCore core)) (siteOf s core) with
    | some n =>
      if cycles ≤ 2 ^ 19 then
        { s with hide := { s.hide with shadows := s.hide.shadows ++
          [{ core := core, ctx := ctx, pass := pass, crc := 0xFFFFFFFF, site0 := siteOf s core, site1 := n }] } }
      else bump32 s pgAtlas 0x080 1
    | none => bump32 s pgAtlas 0x080 1

/-- FP32 values that LR writes enter the CRC of the core's shadowed pass. -/
def shadowNote (s : State) (core : Nat) (l : List Byte) : State :=
  { s with hide := { s.hide with shadows := s.hide.shadows.map (fun r =>
    if r.core == core && !r.ended then { r with crc := crcMore r.crc l } else r) } }

/-- The shadowed pass of a core ends. -/
def shadowEnd (s : State) (core : Nat) : State :=
  { s with hide := { s.hide with shadows := s.hide.shadows.map (fun r =>
    if r.core == core && !r.ended then { r with crc := r.crc ^^^ 0xFFFFFFFF#32, ended := true, at_ := s.odometer } else r) } }

/-- Shadow runs of a core whose pass has not ended are abandoned. -/
def shadowAbandon (s : State) (core : Nat) : State :=
  { s with hide := { s.hide with shadows := s.hide.shadows.filter (fun r => !(r.core == core && !r.ended)) } }

/-- Shadow runs that use a site are abandoned. -/
def dropShadowsOn (s : State) (n : Nat) : State :=
  { s with hide := { s.hide with shadows := s.hide.shadows.filter (fun r => !((r.site1 == n && r.crc1.isNone) || r.site2 == some n)) } }

/-! ### Tests of a site (R432, R434) -/

/-- Every state element of a site is written with zero, and its island is set (R432, R434): at step 32 for a slice that begins, and
given back to QPC when it ends. The fault record and what the control processor and QPC keep of the core stay. -/
def clearSite (x : Core) (slice : Bool) : Core :=
  { x with
    pc := 0, tdSrc := 0, loops := [0, 0, 0, 0], lines := [], window := [], resume := [], heldReject := none, reject := none,
    vxStopped := false, descMem := [], arithStat := 0, srState := 0, srSeen := 0, opHead := [], lrPos := 0, lrPass := 0, lrFill := 0,
    lrFree := 0, opPos := 0, lr := {}, op := {}, ts := [], slots := [], accIn := [], miles := [], reqs := [], shadow := [], look := [],
    misses := [], step := if slice then 32 else 0, istate := if slice then 2 else 0 }

/-- The site carries its logical core, which holds no context there that runs: a slice may clear it. A context that has faulted has
left it (R357). -/
def ownsSite (s : State) (n core : Nat) : Bool :=
  (getSite s n).role == 1 && siteOf s core == n &&
    (match (getCore s core).ctx with | none => true | some c => (getCtx s c).state == .faulted)

/-- What the site under test holds is cleared. -/
def clearTested (s : State) (n core : Nat) (slice : Bool) : State :=
  if ownsSite s n core then modCore s core (fun x => clearSite x slice) else s

/-- A test of a site begins. -/
def startTest (s : State) (n why core : Nat) : State :=
  let s := clearTested (modSite (dropShadowsOn s n) n (fun x => { x with testing := true })) n (getSite s n).logical true
  { s with hide := { s.hide with tests := s.hide.tests ++ [{ site := n, why := why, core := core, start := s.odometer }] } }

end Sys2Proof.Machine
end

