-- ==== Sys2Proof/Machine/Lr.lean ====
section
/-!
DEFINITION. The lane row engine (chapter 4): fold, W-file banks, token arithmetic, stream mode, stalls and stops.
-/
namespace Sys2Proof.Machine

/-! ### Places in an instruction -/

def lrFa (e : WEnt) : Fmt := (fmtOf (iFmtA e.ins)).getD .bf16
def lrFb (e : WEnt) : Fmt := (fmtOf (iFmtB e.ins)).getD .bf16

/-- K elements of step c (R74). -/
def stepLen (k c : Nat) : Nat := min 64 (k - 64 * c)

/-- Cycles per token for n products of k: Table 25. -/
def kCycles (fa fb : Fmt) (n : Nat) : Nat := if fa == .ft4 && fb == .ft4 then n / 4 else if fa.isFt then n / 2 else n

/-- The step after (pass, step), or none past the last pass (R84). -/
def lrNextStep (d : LrDesc) (w : Nat) (p : Nat × Nat) : Option (Nat × Nat) :=
  if p.2 + 1 < lrSteps d then some (p.1, p.2 + 1) else if p.1 + 1 < lrPasses d w then some (p.1 + 1, 0) else none

/-- The tile store bytes of W and its scale array (R78). -/
def lrWeights (x : Core) (e : WEnt) : SMap Byte :=
  let d := lrDesc e.td
  let rs := lrW d (lrFa e) :: lrWs d (lrFa e)
  x.ts.filter (fun b => rs.any (fun r => r.holds b.1))

/-! ### Arithmetic of one token -/

/-- The scale byte of block b of a row of a scale array; without an array the scale is 1.0 (R56). -/
def blockScale (m : SMap Byte) (noscale : Bool) (base pitch row b : Nat) : Nat :=
  if noscale then 0x7E else (loadByte m (rowAt base pitch row + b)).toNat

/-- One K-step of one accumulator: ascending k in dense formats (R109), one term per block in FT formats (R110). `wa` and `xa`
are the byte addresses of the two rows. -/
def dotStep (flush : Bool) (acc : Nat × Flags) (fa fb : Fmt) (wm xm : SMap Byte) (wa xa k0 n : Nat)
    (sa sb : Nat → Nat) : Nat × Flags :=
  if fa.isFt then
    (List.range (n / 16)).foldl (fun (t : Nat × Flags) j =>
      let k := k0 + 16 * j
      let as := (List.range 16).map (fun i => elemAt wm fa wa (k + i))
      let bs := (List.range 16).map (fun i => elemAt xm fb xa (k + i))
      let (v, f) := ftTerm flush t.1 fa fb as bs (sa (k / 16)) (sb (k / 16))
      (v, t.2 ||| f)) acc
  else
    (List.range n).foldl (fun (t : Nat × Flags) j =>
      let (a, f) := readIeee flush fa (elemAt wm fa wa (k0 + j))
      let (b, g) := readIeee flush fb (elemAt xm fb xa (k0 + j))
      let (v, h) := fmaV flush a b (decIeee .fp32 t.1)
      (v, t.2 ||| f ||| g ||| h)) acc

/-- A starting value read from Y or D: an input under FLUSH, and NaN in canonical form (R109, R50). -/
def startAcc (flush : Bool) (w : Nat) : Nat × Flags :=
  if flush && isSubnormal .fp32 w then (zeroWord .fp32 (bitOf w 31), fFlushed) else (w, 0)

/-- The FP32 results of one token for the active lanes of a pass, with flags (R74). -/
def lrToken (x : Core) (e : WEnt) (w pass step token : Nat) (bank : Bank) : List Nat × Flags :=
  let d := lrDesc e.td
  let fa := lrFa e
  let fb := lrFb e
  let row := if d.stream then token % d.ring else token
  let lanes := min w (d.m - pass * w)
  let n := stepLen d.k step
  let outs := (List.range lanes).map (fun l =>
    let m := pass * w + l
    let start := if step = 0 ∧ iOpcode e.ins = 0 then (0, (0 : Flags))
      else startAcc x.flush (memNum x.ts (rowAt d.yBase d.yPitch row + 4 * m) 4)
    dotStep x.flush start fa fb bank.bytes x.ts (rowAt d.wBase d.wPitch m) (rowAt d.xBase d.xPitch row) (64 * step) n
      (fun b => blockScale bank.bytes d.wNoscale d.wsBase d.wsPitch m b)
      (fun b => blockScale x.ts d.xNoscale d.xsBase d.xsPitch row b))
  (outs.map (fun o => o.1), outs.foldl (fun f o => f ||| o.2) 0)

/-! ### Start and position -/

/-- The instruction becomes the one LR streams: from its position record when it resumes, else from the first token; V_FILL
and V_FREE are recorded in stream mode (R81, R85). -/
def lrActivate (s : State) (core : Nat) (e : WEnt) : State :=
  let x := getCore s core
  let d := lrDesc e.td
  let resumed := e.run == 1 && x.lrPass.getLsbD 31
  let base := fun ms => if d.stream then (mileOf x ms).value else 0
  let p := if resumed then fieldOf x.lrPass.toNat 0 10 else 0
  let s := modCore s core (fun x => { x with
    lrFill := if resumed && d.stream then x.lrFill else base (iWaitMs e.ins),
    lrFree := if resumed && d.stream then x.lrFree else base d.freeMs,
    lr := { ent := some e.id, pass := p, step := if resumed then fieldOf x.lrPos.toNat 16 10 else 0,
            token := if resumed then fieldOf x.lrPos.toNat 0 16 else 0, banks := x.lr.banks,
            dummy := popcount (coreSite s core).lrMap.toNat 16, gated := false, stallAt := s.odometer } })
  if resumed then s
  else shadowSelect s core (x.ctx.getD 0) p (d.n * kCycles (lrFa e) (lrFb e) d.k)

/-- LR takes up the oldest started instruction, or gates when none is left in the window (R82). -/
def lrTakeNext (s : State) (core : Nat) : State :=
  let x := getCore s core
  match x.window.find? (fun e => iEngine e.ins == 1 && e.st == 1) with
  | some e => lrActivate s core e
  | none =>
    modCore s core (fun x => { x with lr := { x.lr with
      ent := none, pass := 0, step := 0, token := 0, ended := false, stallAt := s.odometer,
      gated := !x.window.any (fun e => iEngine e.ins == 1 && e.st != 2) } })

/-- A started LR instruction: its fill may begin, and it streams once LR is free (R80). A stream instruction starts only when
LR has finished its previous instruction, since its bases are taken at its start. -/
def startLr (s : State) (core : Nat) (e : WEnt) : State :=
  let x := getCore s core
  if x.lr.ent.isSome && (lrDesc e.td).stream then s
  else
    let s := progressed (modEnt s core e.id (fun e => { e with st := 1, sat := true })) core 1
    let s := if x.lr.ent.isSome then s else lrActivate s core { e with st := 1 }
    settle s core

/-- A restored started instruction continues (R85). -/
def continueLr (s : State) (core : Nat) : State :=
  if (getCore s core).lr.ent.isSome then s else settle (lrTakeNext s core) core

/-- INSTRUCTION_START of LR. -/
def startLrNext (s : State) (core : Nat) : State :=
  let x := getCore s core
  match runningCtx s core with
  | none => s
  | some _ =>
    if x.lr.ent.isNone && x.window.any (fun e => iEngine e.ins == 1 && e.st == 1) then continueLr s core
    else match nextOf x 1 with
      | some e => if canStart x e then startLr s core e else s
      | none => s

/-- The entry LR streams. -/
def lrEnt (x : Core) : Option WEnt := match x.lr.ent with | some id => findEnt x id | none => none

/-! ### Fills (R78 to R80) -/

/-- The steps whose weights LR holds or fills next: the current one, then the next of this or of the next LR instruction, once that
has been dispatched and its milestone wait is satisfied; that of a STREAM instruction is at dispatch (R78, R80, R81). -/
def lrWanted (x : Core) (w : Nat) : List (WEnt × Nat × Nat) :=
  match lrEnt x with
  | none => []
  | some e =>
    let d := lrDesc e.td
    let now : List (WEnt × Nat × Nat) :=
      if x.lr.pass < lrPasses d w then [(e, x.lr.pass, x.lr.step)] else []
    let after : List (WEnt × Nat × Nat) :=
      match (if x.lr.pass < lrPasses d w then lrNextStep d w (x.lr.pass, x.lr.step) else none) with
      | some q => [(e, q.1, q.2)]
      | none =>
        match x.window.find? (fun y => iEngine y.ins == 1 && y.st != 2 && y.id != e.id) with
        | some y => if y.st == 1 || canStart x y then [(y, 0, 0)] else []
        | none => []
    (now ++ after).take 2

def hasBank (l : List Bank) (q : Nat × Nat × Nat) : Bool := l.any (fun b => b.ent == q.1 && b.a == q.2.1 && b.b == q.2.2)

/-- A weight fill completes: the first wanted bank that is missing takes the weights as they stand in the tile store. -/
def execLrFillDone (core : CoreId) (s : State) : Result :=
  let x := getCore s core
  .next (match runningCtx s core with
    | none => s
    | some _ =>
      match (lrWanted x (lrWidth (coreSite s core))).find? (fun q => !hasBank x.lr.banks (q.1.id, q.2.1, q.2.2)) with
      | none => s
      | some q =>
        let b : Bank := { ent := q.1.id, a := q.2.1, b := q.2.2, bytes := lrWeights x q.1 }
        progressed (modCore s core (fun x => { x with lr := { x.lr with banks := (x.lr.banks ++ [b]) } })) core 1)

/-! ### Tokens -/

/-- The stream conditions of token n (R81). -/
def streamReady (x : Core) (e : WEnt) (n : Nat) : Bool :=
  let d := lrDesc e.td
  let filled := ((mileOf x (iWaitMs e.ins)).value - x.lrFill).toNat
  let freed := ((mileOf x d.freeMs).value - x.lrFree).toNat
  decide (n + 1 ≤ filled) && (decide (n + 1 ≤ d.ring) || decide (n + 1 - d.ring ≤ freed))

/-- The position after a token: the next token, step or pass (R84); whether the pass ends with it. -/
def lrAdvance (l : LrRun) (d : LrDesc) (id : Nat) : LrRun :=
  if l.token + 1 < d.n then { l with token := l.token + 1 }
  else
    let banks := l.banks.filter (fun b => !(b.ent == id && b.a == l.pass && b.b == l.step))
    if l.step + 1 < lrSteps d then { l with token := 0, step := l.step + 1, banks := banks }
    else { l with token := 0, step := 0, pass := l.pass + 1, ended := true, banks := banks }

/-- One token of the streaming instruction: its arithmetic, its Y row, and in stream mode its signal (R74, R81). -/
def lrStep (s : State) (core : Nat) (e : WEnt) (bank : Bank) : State :=
  let x := getCore s core
  let d := lrDesc e.td
  let w := lrWidth (coreSite s core)
  let (vals, fl) := lrToken x e w x.lr.pass x.lr.step x.lr.token bank
  let row := if d.stream then x.lr.token % d.ring else x.lr.token
  let bytes := vals.flatMap (leBytes 4)
  let s := modCore s core (fun x => { x with
    ts := storeBytes x.ts (rowAt d.yBase d.yPitch row + 4 * (x.lr.pass * w)) bytes,
    arithStat := x.arithStat ||| fl,
    lr := { lrAdvance x.lr d e.id with
      dummy := popcount (coreSite s core).lrMap.toNat 16, gated := false, stallAt := s.odometer } })
  let s := modEnt s core e.id (fun e => { e with run := 1 })
  let s := progressed (shadowNote s core bytes) core 1
  if d.stream && iSigMs e.ins != 63 then signalOwn s core e (iSigMs e.ins) 1 else s

/-- LR issues its next token when it may: the context runs, the step's bank is filled, and stream conditions hold. -/
def lrIssue (s : State) (core : Nat) (want : WEnt → Bool) : State :=
  let x := getCore s core
  match runningCtx s core, lrEnt x with
  | some _, some e =>
    if !want e || x.lr.ended || x.lr.stopped || lrPasses (lrDesc e.td) (lrWidth (coreSite s core)) ≤ x.lr.pass then s
    else match x.lr.banks.find? (fun b => b.ent == e.id && b.a == x.lr.pass && b.b == x.lr.step) with
      | none => s
      | some b => if (lrDesc e.td).stream && !streamReady x e x.lr.token then s else lrStep s core e b
  | _, _ => s

def execMm (core : CoreId) (ph : Phase) (s : State) : Result :=
  .next (match ph with | .dispatch => dispatchAs s core 1 0 | .work => lrIssue s core (fun e => iOpcode e.ins == 0))
def execMma (core : CoreId) (ph : Phase) (s : State) : Result :=
  .next (match ph with | .dispatch => dispatchAs s core 1 1 | .work => lrIssue s core (fun e => iOpcode e.ins == 1))

/-- LR_STREAM_TOKEN (R81). -/
def execLrStreamToken (core : CoreId) (s : State) : Result :=
  .next (lrIssue s core (fun e => (lrDesc e.td).stream))

/-- LR_PASS_END: the pass's last Y value is written; PASS_SIGNAL signals, and the next pass begins (R71, R87). -/
def execLrPassEnd (core : CoreId) (s : State) : Result :=
  let x := getCore s core
  .next (match activeCtx s core, lrEnt x with
    | some c, some e =>
      if !x.lr.ended then s
      else
        let d := lrDesc e.td
        let s := shadowEnd (siteBump32 (modCore s core (fun x => { x with lr := { x.lr with ended := false } })) core 0x054 1) core
        let s := if bitOf (iFlags e.ins) 0 then signalEnt s core e else s
        if x.lr.pass < lrPasses d (lrWidth (coreSite s core)) then
          shadowSelect s core c x.lr.pass (d.n * kCycles (lrFa e) (lrFb e) d.k)
        else s
    | _, _ => s)

/-- LR_COMPLETE: every pass has ended; the instruction signals unless its rows or passes did (R71, R81). -/
def execLrComplete (core : CoreId) (s : State) : Result :=
  let x := getCore s core
  .next (match activeCtx s core, lrEnt x with
    | some _, some e =>
      let d := lrDesc e.td
      if x.lr.ended || x.lr.pass < lrPasses d (lrWidth (coreSite s core)) then s
      else
        let s := modCore s core (fun x => { x with
          lrPass := x.lrPass &&& 0x7FFFFFFF#32, lrFill := 0, lrFree := 0,
          lr := { x.lr with ent := none, banks := x.lr.banks.filter (fun b => b.ent != e.id) } })
        let s := if bitOf (iFlags e.ins) 0 || d.stream then retire s core e else finishEnt s core e
        if (runningCtx s core).isSome then lrTakeNext s core else s
    | _, _ => s)

/-! ### Stalls and stops -/

/-- LR_DUMMY_STEP_DOWN: a stall drops one more lane group from the dummy work, and gates the clock after the last (R82). -/
def execLrDummyStepDown (core : CoreId) (s : State) : Result :=
  let x := getCore s core
  .next (if x.window.any (fun e => iEngine e.ins == 1 && e.st != 2) && (runningCtx s core).isSome && !x.lr.gated then
      modCore s core (fun x => { x with lr := { x.lr with dummy := x.lr.dummy - 1, gated := decide (x.lr.dummy ≤ 1) } })
    else s)

/-- LR_STOP: at a token boundary the position of the next token is recorded (R84). An instruction without an issued token
records none, and one whose last token has been issued completes first. -/
def execLrStop (core : CoreId) (s : State) : Result :=
  let x := getCore s core
  .next (match x.ctx with
    | none => s
    | some c =>
      if !stopsNow s core c || x.lr.stopped then s
      else match lrEnt x with
        | none => modCore s core (fun x => { x with lr := { x.lr with stopped := true, gated := true, dummy := 0, banks := [] } })
        | some e =>
          let done := lrPasses (lrDesc e.td) (lrWidth (coreSite s core)) ≤ x.lr.pass
          if x.lr.ended || done then s
          else
            let s := modCore s core (fun x => { x with
              lr := { x.lr with stopped := true, gated := true, dummy := 0, banks := [] } })
            shadowAbandon (if e.run == 0 then s else modCore s core (fun x => { x with
              lrPos := BitVec.ofNat 32 (x.lr.step * 2 ^ 16 + x.lr.token),
              lrPass := BitVec.ofNat 32 (2 ^ 31 + x.lr.pass) })) core)

end Sys2Proof.Machine
end

