-- ==== Sys2Proof/Machine/Op.lean ====
section
/-!
DEFINITION. The outer-product engine (chapter 5): quadrant passes, operand banks, accumulator tiles, stops and the restored
accumulator image.
-/
namespace Sys2Proof.Machine

def opFa (e : WEnt) : Fmt := (fmtOf (iFmtA e.ins)).getD .bf16
def opFb (e : WEnt) : Fmt := (fmtOf (iFmtB e.ins)).getD .bf16

/-- The instruction OP runs. -/
def opEnt (x : Core) : Option WEnt := match x.op.ent with | some id => findEnt x id | none => none

/-- The tile store bytes of A, B and their scale arrays (R98). -/
def opOperands (x : Core) (e : WEnt) : SMap Byte :=
  let d := opDesc e.td
  let rs := [opA d (opFa e), opB d (opFb e)] ++ opAs d (opFa e) ++ opBs d (opFb e)
  x.ts.filter (fun b => rs.any (fun r => r.holds b.1))

/-- Key of element (i, j) of accumulator tile t (R90, Table 40). -/
def accKey (t i j : Nat) : Nat := (t * 32 + i) * 32 + j

/-- The tiles of a pass as (tile, its row block, its column block) (R96). -/
def opTiles (d : OpDesc) (c first : Nat) : List (Nat × Nat × Nat) :=
  (List.range (opPassRows d c first * opCb d c)).map (fun t => (t, first + t / opCb d c, t % opCb d c))

/-- The cells (i, j) of a column block whose column is below N. -/
def opCells (d : OpDesc) (c q : Nat) : List (Nat × Nat) :=
  (List.range 32).flatMap (fun i => (List.range (min c (d.n - q * c))).map (fun j => (i, j)))

/-! ### Arithmetic of one K-block (R97) -/

/-- Element k of a row of a K-contiguous operand, or of a K-major one. -/
def opElem (m : SMap Byte) (f : Fmt) (kmajor : Bool) (base pitch row k : Nat) : Nat :=
  if kmajor then elemAt m f (rowAt base pitch k) row else elemAt m f (rowAt base pitch row) k

/-- One K-block of one cell: ascending k from the accumulator (R109, R110). -/
def opCell (flush : Bool) (acc : Nat) (e : WEnt) (m : SMap Byte) (row col k0 n : Nat) : Nat × Flags :=
  let d := opDesc e.td
  let fa := opFa e
  let fb := opFb e
  if fa.isFt then
    dotStep flush (acc, 0) fa fb m m (rowAt d.aBase d.aPitch row) (rowAt d.bBase d.bPitch col) k0 n
      (fun b => blockScale m d.aNoscale d.asBase d.asPitch row b) (fun b => blockScale m d.bNoscale d.bsBase d.bsPitch col b)
  else
    (List.range n).foldl (fun (t : Nat × Flags) j =>
      let (a, f) := readIeee flush fa (opElem m fa d.aKmajor d.aBase d.aPitch row (k0 + j))
      let (b, g) := readIeee flush fb (opElem m fb d.bKmajor d.bBase d.bPitch col (k0 + j))
      let (v, h) := fmaV flush a b (decIeee .fp32 t.1)
      (v, t.2 ||| f ||| g ||| h)) (acc, 0)

/-- One K-block of a whole pass: the accumulator file and the flags. -/
def opBlock (x : Core) (e : WEnt) (c : Nat) (bank : Bank) : SMap Word × Flags :=
  let d := opDesc e.td
  (opTiles d c x.op.rowFirst).foldl (fun (t : SMap Word × Flags) tile =>
    (opCells d c tile.2.2).foldl (fun (u : SMap Word × Flags) ij =>
      let key := accKey tile.1 ij.1 ij.2
      let (v, f) := opCell x.flush (look u.1 key 0).toNat e bank.bytes (32 * tile.2.1 + ij.1) (c * tile.2.2 + ij.2)
        (64 * x.op.kblock) (stepLen d.k x.op.kblock)
      (store u.1 key (BitVec.ofNat 32 v), u.2 ||| f)) t) (x.op.acc, 0)

/-- Byte address of D[m][n]. -/
def opDAddr (d : OpDesc) (m n : Nat) : Nat := rowAt d.dBase d.dPitch m + 4 * n

/-- The accumulator file loaded from D for OPMA: starting values are inputs under FLUSH (R109). -/
def opLoad (x : Core) (e : WEnt) (c : Nat) : SMap Word × Flags :=
  let d := opDesc e.td
  (opTiles d c x.op.rowFirst).foldl (fun (t : SMap Word × Flags) tile =>
    (opCells d c tile.2.2).foldl (fun (u : SMap Word × Flags) ij =>
      let (v, f) := startAcc x.flush (memNum x.ts (opDAddr d (32 * tile.2.1 + ij.1) (c * tile.2.2 + ij.2)) 4)
      (store u.1 (accKey tile.1 ij.1 ij.2) (BitVec.ofNat 32 v), u.2 ||| f)) t) ([], 0)

/-- The tile store after a pass's tiles are written to D (R97); cells beyond N are not written. -/
def opWrite (x : Core) (e : WEnt) (c : Nat) : SMap Byte :=
  let d := opDesc e.td
  (opTiles d c x.op.rowFirst).foldl (fun ts tile =>
    (opCells d c tile.2.2).foldl (fun ts ij =>
      storeBytes ts (opDAddr d (32 * tile.2.1 + ij.1) (c * tile.2.2 + ij.2))
        (leBytes 4 (look x.op.acc (accKey tile.1 ij.1 ij.2) 0).toNat)) ts) x.ts

/-! ### Start, resume and the image check (R104, R119) -/

/-- The check of a restored accumulator image against the restored OP_POS and the descriptor (R119). -/
def opImageFail (x : Core) (e : WEnt) (c : Nat) : Option Code :=
  let h := nth x.opHead
  let d := opDesc e.td
  let pos := x.opPos.toNat
  firstFail [
    (fieldOf (h 0) 24 8 != 0 || (List.range 13).any (fun i => h (i + 3) != 0), .reservedSet),
    (fieldOf (h 0) 0 8 != 1 || fieldOf (h 0) 16 8 != fieldOf pos 16 8 || h 1 != pos ||
      fieldOf (h 0) 8 8 != opPassRows d c (fieldOf pos 14 2) * opCb d c, .badField),
    (h 16 != 1, .checkFailed)]

/-- OP takes up an instruction: from its position record at the saved width with the restored tiles, at another width from the
pass's first K-block, or afresh (R104). -/
def opActivate (s : State) (core : Nat) (e : WEnt) : State :=
  let x := getCore s core
  let c := opWidth s core
  let pos := x.opPos.toNat
  let resumed := e.run == 1 && bitOf pos 31
  let same := resumed && fieldOf pos 16 8 == c
  let tiles := same && bitOf pos 30
  match (if tiles then opImageFail x e c else none) with
  | some f => coreFault s core 2 f.num false e.addr 0 0
  | none =>
    modCore s core (fun x => { x with
      op := { ent := some e.id, rowFirst := if resumed then fieldOf pos 14 2 else 0,
              kblock := if same then fieldOf pos 0 10 else 0, loaded := tiles || iOpcode e.ins == 0,
              banks := x.op.banks, acc := if tiles then x.op.acc else [],
              dummy := popcount (coreSite s core).opMap.toNat 8, gated := false, stallAt := s.odometer } })

def opTakeNext (s : State) (core : Nat) : State :=
  let x := getCore s core
  match x.window.find? (fun e => iEngine e.ins == 2 && e.st == 1) with
  | some e => opActivate s core e
  | none =>
    modCore s core (fun x => { x with op := { x.op with
      ent := none, rowFirst := 0, kblock := 0, loaded := false, acc := [], stallAt := s.odometer,
      gated := !x.window.any (fun e => iEngine e.ins == 2 && e.st != 2) } })

def startOp (s : State) (core : Nat) (e : WEnt) : State :=
  let x := getCore s core
  let s := progressed (modEnt s core e.id (fun e => { e with st := 1, sat := true })) core 2
  let s := if x.op.ent.isSome then s else opActivate s core { e with st := 1 }
  settle s core

/-- INSTRUCTION_START of OP: a restored started instruction continues, else the next one starts (R98, R104). -/
def startOpNext (s : State) (core : Nat) : State :=
  let x := getCore s core
  match runningCtx s core with
  | none => s
  | some _ =>
    if x.op.ent.isNone && x.window.any (fun e => iEngine e.ins == 2 && e.st == 1) then settle (opTakeNext s core) core
    else match nextOf x 2 with
      | some e => if canStart x e then startOp s core e else s
      | none => s

/-! ### Fills and accumulator loads (R98) -/

/-- The K-blocks whose operands OP holds or fills next. -/
def opWanted (x : Core) (c : Nat) : List (WEnt × Nat × Nat) :=
  match opEnt x with
  | none => []
  | some e =>
    let d := opDesc e.td
    let next := x.op.rowFirst + opPassRows d c x.op.rowFirst
    let now : List (WEnt × Nat × Nat) :=
      if x.op.rowFirst < opRb d && x.op.kblock < opKb d then [(e, x.op.rowFirst, x.op.kblock)] else []
    let after : List (WEnt × Nat × Nat) :=
      if x.op.rowFirst < opRb d && x.op.kblock + 1 < opKb d then [(e, x.op.rowFirst, x.op.kblock + 1)]
      else if next < opRb d then [(e, next, 0)]
      else
        match x.window.find? (fun y => iEngine y.ins == 2 && y.st == 1 && y.id != e.id && y.run == 0) with
        | some y => [(y, 0, 0)]
        | none => []
    (now ++ after).take 2

/-- OP_FILL_DONE: the port completes the current K-block's fill, then an OPMA pass's accumulator load, then the fill of the
next K-block. -/
def execOpFillDone (core : CoreId) (s : State) : Result :=
  let x := getCore s core
  let c := opWidth s core
  let put := fun (q : WEnt × Nat × Nat) =>
    progressed (modCore s core (fun x => { x with op := { x.op with
      banks := x.op.banks ++ [{ ent := q.1.id, a := q.2.1, b := q.2.2, bytes := opOperands x q.1 }] } })) core 2
  .next (match runningCtx s core, opEnt x with
    | some _, some e =>
      let miss := (opWanted x c).filter (fun q => !hasBank x.op.banks (q.1.id, q.2.1, q.2.2))
      match miss with
      | q :: _ =>
        if q.1.id == e.id && q.2 == (x.op.rowFirst, x.op.kblock) then put q
        else if !x.op.loaded then
          let (acc, fl) := opLoad x e c
          progressed (modCore s core (fun x => { x with
            arithStat := x.arithStat ||| fl, op := { x.op with acc := acc, loaded := true } })) core 2
        else put q
      | [] =>
        if !x.op.loaded && x.op.rowFirst < opRb (opDesc e.td) then
          let (acc, fl) := opLoad x e c
          progressed (modCore s core (fun x => { x with
            arithStat := x.arithStat ||| fl, op := { x.op with acc := acc, loaded := true } })) core 2
        else s
    | _, _ => s)

/-! ### K-blocks and passes -/

/-- One K-block of the instruction OP runs, when its operands are filled and its accumulators loaded. -/
def opIssue (s : State) (core : Nat) (op : Nat) : State :=
  let x := getCore s core
  let c := opWidth s core
  match runningCtx s core, opEnt x with
  | some _, some e =>
    let d := opDesc e.td
    if iOpcode e.ins != op || !x.op.loaded || x.op.stopped || opRb d ≤ x.op.rowFirst || opKb d ≤ x.op.kblock then s
    else match x.op.banks.find? (fun b => b.ent == e.id && b.a == x.op.rowFirst && b.b == x.op.kblock) with
      | none => s
      | some b =>
        let (acc, fl) := opBlock x e c b
        let s := modCore s core (fun x => { x with
          arithStat := x.arithStat ||| fl,
          op := { x.op with
            acc := acc, kblock := x.op.kblock + 1,
            banks := x.op.banks.filter (fun y => !(y.ent == e.id && y.a == x.op.rowFirst && y.b == x.op.kblock)),
            dummy := popcount (coreSite s core).opMap.toNat 8, gated := false, stallAt := s.odometer } })
        progressed (modEnt s core e.id (fun e => { e with run := 1 })) core 2
  | _, _ => s

def execOpm (core : CoreId) (ph : Phase) (s : State) : Result :=
  .next (match ph with | .dispatch => dispatchAs s core 2 0 | .work => opIssue s core 0)
def execOpma (core : CoreId) (ph : Phase) (s : State) : Result :=
  .next (match ph with | .dispatch => dispatchAs s core 2 1 | .work => opIssue s core 1)

/-- OP_PASS_END: the pass's tiles are written to D, and PASS_SIGNAL signals (R93, R97). -/
def execOpPassEnd (core : CoreId) (s : State) : Result :=
  let x := getCore s core
  let c := opWidth s core
  .next (match activeCtx s core, opEnt x with
    | some _, some e =>
      let d := opDesc e.td
      if opRb d ≤ x.op.rowFirst || x.op.kblock < opKb d || x.op.stopped then s
      else
        let s := siteBump32 (modCore s core (fun x => { x with
          ts := opWrite x e c,
          op := { x.op with rowFirst := x.op.rowFirst + opPassRows d c x.op.rowFirst, kblock := 0, acc := [],
                            loaded := iOpcode e.ins == 0 } })) core 0x108 1
        let s := progressed s core 2
        if bitOf (iFlags e.ins) 0 then signalEnt s core e else s
    | _, _ => s)

/-- OP_COMPLETE: the last write is done (R93, R104). VALID is cleared, and ACC with it, for no tiles are part of the saved state any
more (DEDUCED, notes/assumptions/115.md). -/
def execOpComplete (core : CoreId) (s : State) : Result :=
  let x := getCore s core
  .next (match activeCtx s core, opEnt x with
    | some _, some e =>
      if x.op.rowFirst < opRb (opDesc e.td) then s
      else
        let s := modCore s core (fun x => { x with
          opPos := x.opPos &&& 0x3FFFFFFF#32,
          op := { x.op with ent := none, banks := x.op.banks.filter (fun b => b.ent != e.id) } })
        let s := if bitOf (iFlags e.ins) 0 then retire s core e else finishEnt s core e
        if (runningCtx s core).isSome then opTakeNext s core else s
    | _, _ => s)

/-! ### Stalls and stops -/

/-- OP_DUMMY_STEP_DOWN (R101). -/
def execOpDummyStepDown (core : CoreId) (s : State) : Result :=
  let x := getCore s core
  .next (if x.window.any (fun e => iEngine e.ins == 2 && e.st != 2) && (runningCtx s core).isSome && !x.op.gated then
      modCore s core (fun x => { x with op := { x.op with dummy := x.op.dummy - 1, gated := decide (x.op.dummy ≤ 1) } })
    else s)

/-- An accumulator load is in progress: the K-block's operands are filled, and the pass's tiles are not yet loaded. -/
def opLoading (x : Core) (e : WEnt) : Bool := !x.op.loaded && hasBank x.op.banks (e.id, x.op.rowFirst, x.op.kblock)

/-- OP_STOP: at a K-block boundary OP_POS is recorded (R103), also when the request abandons the accumulator load of the first
pass. A K-block that is the last of its pass runs to the pass end first. -/
def execOpStop (core : CoreId) (s : State) : Result :=
  let x := getCore s core
  let c := opWidth s core
  let stop := fun (s : State) => modCore s core (fun x => { x with
    op := { x.op with stopped := true, gated := true, dummy := 0, banks := [] } })
  .next (match x.ctx with
    | none => s
    | some k =>
      if !stopsNow s core k || x.op.stopped then s
      else match opEnt x with
        | none => stop s
        | some e =>
          let d := opDesc e.td
          if opRb d ≤ x.op.rowFirst || opKb d ≤ x.op.kblock then s
          else if e.run == 0 && !opLoading x e then stop s
          else
            let acc := x.op.kblock != 0
            modCore (stop s) core (fun x => { x with
              opPos := BitVec.ofNat 32 (2 ^ 31 + bit acc * 2 ^ 30 + c * 2 ^ 16 + x.op.rowFirst * 2 ^ 14 + x.op.kblock) }))

end Sys2Proof.Machine
end

