-- ==== Sys2Proof/Machine/Trans.lean ====
section
/-!
DEFINITION. The transcendental functions of VX (R161, Table 53). A stepping may return any FP32 value within the bound, so
the value is Config.transcendental's where that lies within the bound, and the correctly rounded value otherwise. The exact
result is approximated by integers with far more bits than the comparison with a bound needs.
-/
namespace Sys2Proof.Machine

/-- Fraction bits of the approximations. -/
def fixBits : Nat := 200
def fixOne : Nat := 2 ^ fixBits

/-- Σ over j of t^(2j+1) / (2j+1) for 0 ≤ t ≤ 1/3, with t in fixed point. -/
def atanhSum (n : Nat) (t2 term acc j : Nat) : Nat :=
  match n with
  | 0 => acc
  | n + 1 => atanhSum n t2 (term * t2 / fixOne) (acc + term / (2 * j + 1)) (j + 1)

def atanhFix (t : Nat) : Nat := atanhSum 80 (t * t / fixOne) t 0 0

/-- ln 2 in fixed point. -/
def ln2Fix : Nat := 2 * atanhFix (fixOne / 3)

/-- Σ r^n / n! with r in fixed point. -/
def expSum (n : Nat) (r term acc : Int) (j : Nat) : Int :=
  match n with
  | 0 => acc
  | n + 1 => expSum n r (term * r / fixOne / (j + 1 : Nat)) (acc + term) (j + 1)

/-- e^x for x in fixed point: mantissa and exponent. -/
def expFix (x : Int) : Nat × Int :=
  let k := (x + ln2Fix / 2) / ln2Fix
  let r := x - k * ln2Fix
  ((expSum 60 r fixOne 0 0).toNat, k - fixBits)

/-- m × 2^e in fixed point. -/
def toFix (m : Nat) (e : Int) : Nat :=
  let s := e + fixBits
  if s ≥ 0 then m * 2 ^ s.toNat else m / 2 ^ (-s).toNat

/-- A mantissa and exponent in fixed point. -/
def fixOf (a : Nat × Int) : Nat := toFix a.1 a.2

/-- ln (m × 2^e) for m > 0, in fixed point. -/
def lnFix (m : Nat) (e : Int) : Int :=
  let b := Nat.log2 m
  let y := m * fixOne / 2 ^ b
  (e + b) * (ln2Fix : Int) + 2 * (atanhFix ((y - fixOne) * fixOne / (y + fixOne)) : Nat)

/-- Σ over n of (2x²)^n x / (2n+1)!! with x in fixed point. -/
def erfSum (n : Nat) (x2 term acc j : Nat) : Nat :=
  match n with
  | 0 => acc
  | n + 1 => erfSum n x2 (2 * (term * x2) / fixOne / (2 * j + 3)) (acc + term) (j + 1)

/-- arctan (1 / q) in fixed point, by its alternating series. -/
def atanInv (n q : Nat) (term : Nat) (acc : Int) (j : Nat) : Int :=
  match n with
  | 0 => acc
  | n + 1 => atanInv n q (term / (q * q)) (if j % 2 = 0 then acc + (term / (2 * j + 1) : Nat) else acc - (term / (2 * j + 1) : Nat)) (j + 1)

/-- π in fixed point (Machin). -/
def piFix : Nat := (4 * (4 * atanInv 90 5 (fixOne / 5) 0 0 - atanInv 50 239 (fixOne / 239) 0 0)).toNat

/-- 2 / √π in fixed point. -/
def twoOverSqrtPi : Nat := 2 * fixOne * fixOne / isqrt (piFix * fixOne)

/-- The magnitude of a function at a positive finite m × 2^e, as mantissa and exponent, and its sign where the function can be
negative there. -/
def transMag (op : Nat) (neg : Bool) (m : Nat) (e : Int) : Bool × Nat × Int :=
  let big := fun (n : Nat) => decide (Nat.log2 m + e ≥ (Nat.log2 n : Int)) && decide (toFix m e ≥ n * fixOne)
  let tiny := decide (Nat.log2 m + e < -60)
  if op = 9 then
    if big 128 then (false, 1, if neg then -400 else 400)
    else
      let a := expFix (if neg then -(toFix m e : Int) else toFix m e)
      (false, a.1, a.2)
  else if op = 0xA then
    let l := lnFix m e
    (decide (l < 0), l.natAbs, -(fixBits : Int))
  else if op = 0xB then
    let odd : Nat := if e % 2 = 0 then 0 else 1
    (false, isqrt (2 ^ 400 / (m * 2 ^ odd)), -200 - (e - odd) / 2)
  else if op = 0xD then
    if tiny then (neg, m, e)
    else if big 64 then (neg, fixOne - 1, -(fixBits : Int))
    else
      let E := fixOf (expFix (2 * toFix m e : Nat))
      (neg, (E - fixOne) * fixOne / (E + fixOne), -(fixBits : Int))
  else
    if tiny then (neg, m * twoOverSqrtPi, e - fixBits)
    else if big 10 then (neg, fixOne - 1, -(fixBits : Int))
    else
      let x := toFix m e
      let x2 := x * x / fixOne
      let s := erfSum 600 x2 x 0 0
      let g := fixOf (expFix (-(x2 : Int)))
      (neg, s * g / fixOne * twoOverSqrtPi / fixOne, -(fixBits : Int))

/-- Bound of Table 53 in ulp. -/
def transUlps (op : Nat) : Nat := if op = 0xB then 1 else 2

/-- Whether an FP32 word lies within the bound of an exact result (Table 53): so many ulp of a normal result, one smallest
subnormal of a subnormal one. -/
def transOk (op w : Nat) (neg : Bool) (n : Nat) (x : Int) : Bool :=
  match decIeee .fp32 w with
  | .fin s m e =>
    let top := (Nat.log2 n : Int) + x
    let b : Nat × Int := if top < -126 then (1, -149) else (transUlps op, top - 23)
    let z := min (min e x) b.2
    let v := atExp s m e z - atExp neg n x z
    decide (v.natAbs ≤ b.1 * 2 ^ (b.2 - z).toNat)
  | _ => false

/-- A result under FLUSH (R59). -/
def flushResult (flush : Bool) (w : Nat) : Nat × Flags :=
  if flush && isSubnormal .fp32 w then (zeroWord .fp32 (bitOf w 31), fFlushed) else (w, 0)

/-- The result for a finite non-special operand: within the bound, or overflow. -/
def transFinite (flush : Bool) (op a : Nat) (neg : Bool) (m : Nat) (e : Int) : Nat × Flags :=
  let (sg, n, x) := transMag op neg m e
  let (near, fl) := roundTo .fp32 .rne false false sg n 1 x
  if fl == fOverflow then (near, fl)
  else
    let raw := (Config.transcendental op (BitVec.ofNat 32 a)).toNat
    flushResult flush (if transOk op raw sg n x then raw else near)

/-- EXP, LOG, RSQRT, RECIP, TANH and ERF of an FP32 word (Table 53). -/
def transcend (flush : Bool) (op a : Nat) : Nat × Flags :=
  if op = 0xC then div32 flush 0x3F800000 a
  else
    let (v, fl) := readIeee flush .fp32 a
    let one := 0x3F800000
    let (w, f) : Nat × Flags :=
      match v with
      | .nan => (canonicalNan .fp32, 0)
      | .inf s =>
        if op = 9 then (if s then 0 else infWord .fp32 false, 0)
        else if op = 0xA then (if s then (canonicalNan .fp32, fInvalid) else (infWord .fp32 false, 0))
        else if op = 0xB then (if s then (canonicalNan .fp32, fInvalid) else (0, 0))
        else (zeroWord .fp32 s + one, 0)
      | .fin s m e =>
        if m = 0 then
          if op = 9 then (one, 0)
          else if op = 0xA then (infWord .fp32 true, 0)
          else if op = 0xB then (infWord .fp32 s, 0)
          else (zeroWord .fp32 s, 0)
        else if (op = 0xA || op = 0xB) && s then (canonicalNan .fp32, fInvalid)
        else if op = 0xA && a = one then (0, 0)
        else transFinite flush op a s m e
    (w, fl ||| f)

end Sys2Proof.Machine
end

