-- ==== Sys2Proof/Machine/Vx.lean ====
section
/-!
DEFINITION. VX (chapter 8; conversions of chapter 3): one row of each opcode, completion and stop.
-/
namespace Sys2Proof.Machine

/-- A row's results: bytes to write with their tile store addresses, flags, and the generator's state. -/
structure RowOut where
  writes : List (Nat × List Byte)
  flags : Flags
  sr : Word
  deriving DecidableEq, Repr, Inhabited

/-- An A element as a value, with its flags (R54, R59, R64). -/
def cvtSource (flush : Bool) (f : Fmt) (w scale : Nat) : Fv × Flags :=
  match f with
  | .fp32 | .bf16 | .fp16 => readIeee flush f w
  | .int32 => let v := sext 32 w; (.fin (decide (v < 0)) v.natAbs 0, 0)
  | .u16 => (.fin false w 0, 0)
  | .ft8 | .ft6 | .ft4 => (ftValue f w scale, if scale = 0xFF then fBlockNan else 0)

/-- The rounding of each element: SR takes one draw per element (R65). -/
def cvtRound (mode : Nat) (sr : Word) : Rnd × Word :=
  if mode = 1 then (.rz, sr)
  else if mode = 2 then let d := srNext sr; (.sr (d.toNat / 2 ^ 16), d)
  else (.rne, sr)

/-- One element into a format that is not FT. -/
def cvtDest (f : Fmt) (r : Rnd) (sat flush : Bool) (v : Fv) : Nat × Flags :=
  match f with
  | .int32 => let (i, fl) := toInteger (-(2 ^ 31)) (2 ^ 31 - 1) r v; ((i % (2 ^ 32 : Int)).toNat, fl)
  | .u16 => let (i, fl) := toInteger 0 65535 r v; (i.toNat, fl)
  | f => toIeee f r sat flush v

/-- The largest magnitude among a block's finite elements (R63). -/
def blockMax (l : List Fv) : Nat × Int :=
  l.foldl (fun b v => match v with | .fin _ m e => maxMag b (m, e) | _ => b) (0, 0)

/-- CVT of one row (R60 to R66). -/
def cvtRow (x : Core) (e : WEnt) (row : Nat) : RowOut :=
  let d := vxDesc e.td
  let fa := vxFmtA e.ins
  let fd := vxFmtD e.ins
  let fl := iFlags e.ins
  let at_ := rowAt d.aBase d.aPitch row
  let src := (List.range d.len).map (fun k =>
    cvtSource x.flush fa (elemAt x.ts fa at_ k) (blockScale x.ts d.aNoscale d.asBase d.asPitch row (k / 16)))
  let f0 := src.foldl (fun f v => f ||| v.2) (0 : Flags)
  if fd.isFt then
    let n := d.len / 16
    (List.range n).foldl (fun (o : RowOut) b =>
      let blk := ((src.drop (16 * b)).take 16).map (fun v => v.1)
      let a := blockMax blk
      let auto := !bitOf fl 3
      let scale := if d.dNoscale then 0x7E else if auto then autoScale fd a.1 a.2
        else (loadByte x.ts (rowAt d.dsBase d.dsPitch row + b)).toNat
      let (codes, f, sr) := blk.foldl (fun (t : List Nat × Flags × Word) v =>
        let (r, sr) := cvtRound (fieldOf fl 0 2) t.2.2
        let (c, f) := toFt fd r scale v
        (t.1 ++ [c], t.2.1 ||| f, sr)) ([], 0, o.sr)
      let data : Nat × List Byte := (rowAt d.dBase d.dPitch row + b * (16 * fd.bits / 8), packFt fd codes)
      let sc : List (Nat × List Byte) :=
        if auto && !d.dNoscale then [(rowAt d.dsBase d.dsPitch row + b, [BitVec.ofNat 8 scale])] else []
      { writes := o.writes ++ data :: sc, flags := o.flags ||| f, sr := sr })
      { writes := [], flags := f0, sr := x.srState }
  else
    let (bytes, f, sr) := src.foldl (fun (t : List Byte × Flags × Word) v =>
      let (r, sr) := cvtRound (fieldOf fl 0 2) t.2.2
      let (w, f) := cvtDest fd r (bitOf fl 2) x.flush v.1
      (t.1 ++ leBytes (fd.bits / 8) w, t.2.1 ||| f, sr)) ([], f0, x.srState)
    { writes := [(rowAt d.dBase d.dPitch row, bytes)], flags := f, sr := sr }

/-- The result of one element of an elementwise opcode (Table 52). -/
def vxElem (flush : Bool) (op fl : Nat) (d : VxDesc) (a b dd : Nat) : Nat × Flags :=
  if op = 1 then add32 flush a b
  else if op = 2 then sub32 flush a b
  else if op = 3 then mul32 flush a b
  else if op = 4 then fma32 flush a b dd
  else if op = 5 then fma32 flush a d.scalar0 d.scalar1
  else if op = 0xF then
    let (u, f) := startAcc flush a
    let (v, g) := startAcc flush b
    (canon32 (winner (bitOf fl 0) (u, 0) (v, 0)).1, f ||| g)
  else transcend flush op a

/-- One row of ADD to SCALE, MAXMIN and the functions. -/
def elemRow (x : Core) (e : WEnt) (row : Nat) : RowOut :=
  let d := vxDesc e.td
  let op := iOpcode e.ins
  let fl := iFlags e.ins
  let aAt := rowAt d.aBase d.aPitch row
  let bAt := rowAt d.bBase d.bPitch row
  let dAt := rowAt d.dBase d.dPitch row
  let (bytes, f) := (List.range d.len).foldl (fun (t : List Byte × Flags) k =>
    let b := if bitOf fl 1 then d.scalar0 else memNum x.ts (bAt + 4 * k) 4
    let (w, f) := vxElem x.flush op fl d (memNum x.ts (aAt + 4 * k) 4) b (memNum x.ts (dAt + 4 * k) 4)
    (t.1 ++ leBytes 4 w, t.2 ||| f)) ([], 0)
  { writes := [(dAt, bytes)], flags := f, sr := x.srState }

/-- A source of ARGMAX or ARGMIN as an FP32 word (R120). -/
def argSource (flush : Bool) (f : Fmt) (w : Nat) : Nat × Flags :=
  let (v, fl) := readIeee flush f w
  ((toIeee .fp32 .rne false false v).1, fl)

/-- One row of ARGMAX or ARGMIN: an 8-byte pair (R120, R121). -/
def argRow (x : Core) (e : WEnt) (row : Nat) : RowOut :=
  let d := vxDesc e.td
  let fa := vxFmtA e.ins
  let at_ := rowAt d.aBase d.aPitch row
  let isMin := iOpcode e.ins == 7
  let idx := fun (k : Nat) => sext 32 (d.scalar0 + k)
  let (best, f) := (List.range d.len).foldl (fun (t : Option (Nat × Int) × Flags) k =>
    let (w, f) := argSource x.flush fa (elemAt x.ts fa at_ k)
    (some (match t.1 with | none => (w, idx k) | some b => winner isMin b (w, idx k)), t.2 ||| f)) (none, 0)
  let b := best.getD (0, 0)
  { writes := [(64 * d.dBase + 8 * row, leBytes 4 (canon32 b.1) ++ leBytes 4 (b.2 % (2 ^ 32 : Int)).toNat)], flags := f,
    sr := x.srState }

/-- One row of ROWSUM: from +0, ascending index. -/
def sumRow (x : Core) (e : WEnt) (row : Nat) : RowOut :=
  let d := vxDesc e.td
  let at_ := rowAt d.aBase d.aPitch row
  let (w, f) := (List.range d.len).foldl (fun (t : Nat × Flags) k =>
    let (v, f) := add32 x.flush t.1 (memNum x.ts (at_ + 4 * k) 4)
    (v, t.2 ||| f)) (0, 0)
  { writes := [(64 * d.dBase + 4 * row, leBytes 4 w)], flags := f, sr := x.srState }

/-- One row of an instruction: every source byte is read before any destination byte is written (R158). -/
def vxRow (x : Core) (e : WEnt) (row : Nat) : RowOut :=
  let op := iOpcode e.ins
  if op = 0 then cvtRow x e row
  else if op = 6 ∨ op = 7 then argRow x e row
  else if op = 8 then sumRow x e row
  else elemRow x e row

/-- The VX instruction in progress. -/
def vxEnt (x : Core) : Option WEnt := x.window.find? (fun e => iEngine e.ins == 3 && e.st == 1)

/-- VX takes its next row of an instruction of one opcode (R160). -/
def vxStep (s : State) (core : Nat) (op : Nat) : State :=
  let x := getCore s core
  match runningCtx s core, vxEnt x with
  | some _, some e =>
    if iOpcode e.ins != op || x.vxStopped || (vxDesc e.td).rows ≤ e.run then s
    else
      let o := vxRow x e e.run
      let s := modCore s core (fun x => { x with
        ts := o.writes.foldl (fun ts w => storeBytes ts w.1 w.2) x.ts, arithStat := x.arithStat ||| o.flags,
        srState := o.sr })
      progressed (modEnt s core e.id (fun e => { e with run := e.run + 1 })) core 3
  | _, _ => s

/-- INSTRUCTION_START of VX. -/
def startVxNext (s : State) (core : Nat) : State :=
  let x := getCore s core
  match runningCtx s core, nextOf x 3 with
  | some _, some e =>
    if canStart x e then
      settle (progressed (modEnt s core e.id (fun e => { e with st := 1, sat := true })) core 3) core
    else s
  | _, _ => s

/-- One row of a VX instruction: its dispatch or its next row. -/
def vxCmd (s : State) (core : Nat) (ph : Phase) (op : Nat) : State :=
  match ph with
  | .dispatch => dispatchAs s core 3 op
  | .work => vxStep s core op

def execCvt (core : CoreId) (ph : Phase) (s : State) : Result := .next (vxCmd s core ph 0x0)
def execVxAdd (core : CoreId) (ph : Phase) (s : State) : Result := .next (vxCmd s core ph 0x1)
def execVxSub (core : CoreId) (ph : Phase) (s : State) : Result := .next (vxCmd s core ph 0x2)
def execVxMul (core : CoreId) (ph : Phase) (s : State) : Result := .next (vxCmd s core ph 0x3)
def execVxFma (core : CoreId) (ph : Phase) (s : State) : Result := .next (vxCmd s core ph 0x4)
def execScale (core : CoreId) (ph : Phase) (s : State) : Result := .next (vxCmd s core ph 0x5)
def execArgmax (core : CoreId) (ph : Phase) (s : State) : Result := .next (vxCmd s core ph 0x6)
def execArgmin (core : CoreId) (ph : Phase) (s : State) : Result := .next (vxCmd s core ph 0x7)
def execRowsum (core : CoreId) (ph : Phase) (s : State) : Result := .next (vxCmd s core ph 0x8)
def execExp (core : CoreId) (ph : Phase) (s : State) : Result := .next (vxCmd s core ph 0x9)
def execLog (core : CoreId) (ph : Phase) (s : State) : Result := .next (vxCmd s core ph 0xA)
def execRsqrt (core : CoreId) (ph : Phase) (s : State) : Result := .next (vxCmd s core ph 0xB)
def execRecip (core : CoreId) (ph : Phase) (s : State) : Result := .next (vxCmd s core ph 0xC)
def execTanh (core : CoreId) (ph : Phase) (s : State) : Result := .next (vxCmd s core ph 0xD)
def execErf (core : CoreId) (ph : Phase) (s : State) : Result := .next (vxCmd s core ph 0xE)
def execMaxmin (core : CoreId) (ph : Phase) (s : State) : Result := .next (vxCmd s core ph 0xF)

/-- VX_COMPLETE: the last row is written (R160). -/
def execVxComplete (core : CoreId) (s : State) : Result :=
  let x := getCore s core
  .next (match activeCtx s core, vxEnt x with
    | some _, some e =>
      if e.run < (vxDesc e.td).rows then s
      else
        let s := if iOpcode e.ins == 0 then modCore s core (fun x => { x with srSeen := x.srState }) else s
        finishEnt s core e
    | _, _ => s)

/-- VX has an instruction in progress whose last row is written: it completes and is not stopped (R171). -/
def vxEnding (x : Core) : Bool := match vxEnt x with | some e => decide ((vxDesc e.td).rows ≤ e.run) | none => false

/-- VX_STOP: at a row boundary VX stops for a pre-emption or SAVE (Table 55). -/
def execVxStop (core : CoreId) (s : State) : Result :=
  .next (match (getCore s core).ctx with
    | some c =>
      if stopsNow s core c && !vxEnding (getCore s core) then modCore s core (fun x => { x with vxStopped := true }) else s
    | none => s)

end Sys2Proof.Machine
end

