-- ==== Sys2Proof/Machine/Dm.lean ====
section
/-!
DEFINITION. The data mover (chapter 7): address generator, requests, run-ahead reads, lookaside, contributions and combine
slots.
-/
namespace Sys2Proof.Machine

/-! ### Requests -/

/-- The first free request slot. -/
def freeSlot (x : Core) : Option Nat := (List.range 16).find? (fun i => (look x.reqs i none).isNone)

def slotsBusy (x : Core) : Nat := ((List.range 16).filter (fun i => (look x.reqs i none).isSome)).length
def aheadBusy (x : Core) : Nat :=
  ((List.range 16).filter (fun i => match look x.reqs i none with | some r => r.kind == 4 | none => false)).length

def setSlot (s : State) (core slot : Nat) (r : Option DmReq) : State :=
  modCore s core (fun x => { x with reqs := match r with | some _ => store x.reqs slot r | none => drop1 x.reqs slot })

/-- Requests of an instruction are in flight, those whose data will be discarded apart. -/
def reqsOf (x : Core) (id : Nat) : Bool := x.reqs.any (fun r => match r.2 with | some q => q.ent == id && !q.dead | none => false)

/-- A lookup in the lookaside: a hit becomes the most recently used entry, a miss is counted once per line (R133). -/
def lookAside (s : State) (core addr : Nat) : State :=
  let f := addr / 65536
  let x := getCore s core
  match x.look.find? (fun e => e.1 == f) with
  | some e => modCore s core (fun x => { x with look := e :: x.look.filter (fun y => y.1 != f) })
  | none =>
    if x.misses.contains (f / 8) then s
    else siteBump32 (modCore s core (fun x => { x with misses := x.misses ++ [f / 8] })) core 0x220 1

/-- A request waits for a line of the frame map. -/
def needsLine (l : Nat) (r : DmReq) : Bool := r.pieces.head?.any (fun p => p.src / 65536 / 8 == l)

/-- LA_MISS_RETURN: the line's 8 entries are installed, the least recently used ones leave (R133). A line that cannot be read
refuses the requests that wait for it (R206). -/
def execLaMissReturn (core : CoreId) (line : BitVec 21) (s : State) : Result :=
  let x := getCore s core
  let l := line.toNat
  .next (if x.misses.contains l then
      match mapLineFail s l with
      | some c =>
        modCore s core (fun x => { x with
          misses := x.misses.filter (fun m => m != l),
          reqs := x.reqs.map (fun e => (e.1, e.2.map (fun r => if needsLine l r then { r with bad := c.num } else r))) })
      | none =>
        let new := (List.range 8).map (fun i => (8 * l + i, frameEntry s (8 * l + i)))
        modCore s core (fun x => { x with
          misses := x.misses.filter (fun m => m != l),
          look := (new ++ x.look.filter (fun e => e.1 / 8 != l)).take 64 })
    else s)

/-- The lookaside still misses the entry a request needs. -/
def reqMisses (x : Core) (r : DmReq) : Bool :=
  match r.pieces.head? with
  | some p => x.misses.contains (p.src / 65536 / 8)
  | none => false

/-- A piece's 512-byte block. -/
def blockOf (p : Piece) : Nat := p.src / 512

/-- Two requests touch one 512-byte block (R141). -/
def sameBlock (a b : DmReq) : Bool :=
  match a.pieces.head?, b.pieces.head? with
  | some p, some q => blockOf p == blockOf q
  | _, _ => false

/-- A GET request is held while a PUT request issued earlier on its block is unacknowledged (R141). -/
def heldByPut (x : Core) (r : DmReq) : Bool :=
  x.reqs.any (fun e => match e.2 with | some q => q.kind == 1 && q.seq < r.seq && sameBlock q r | none => false)

/-- Puts a request into a slot: it is counted and looked up; it goes to the remote-line cache that holds its lines, or reserves its
channel's scoreboard first; one that no channel can serve goes nowhere (R24, R140, R253). -/
def issueReq (s : State) (core slot : Nat) (r : DmReq) : State :=
  let addr := (r.pieces.head?.map (fun p => p.src)).getD 0
  let s := siteBump64 s core 0x218 1
  let r := { r with seq := s.nextReq }
  let s := { s with nextReq := s.nextReq + 1 }
  if r.kind == 2 || r.kind == 3 then setSlot s core slot (some r)
  else
    let s := lookAside s core addr
    let e := frameEntry s (addr / 65536)
    let mapped := (accessFail s (partOfCore s core) addr).isNone
    let cached := r.kind != 1 && dieOfAddr s addr != dieOfCore core && !feNoRlc e &&
      cacheHolds s (dieOfCore core) addr ((r.pieces.map (fun p => p.len)).sum)
    if !mapped then setSlot s core slot (some r)
    else if cached then
      let r := { r with away := true }
      sendReq (setSlot s core slot (some r)) core slot r
    else
      let chan := (placeOf s e addr).1
      let (s, ok) := sbTake s chan
      let r := { r with chan := chan, resv := true, granted := ok, away := true }
      let s := setSlot s core slot (some r)
      if ok then sendReq s core slot r else queueResv s core chan

/-- A request leaves its slot and its scoreboard entry. -/
def endReq (s : State) (core slot : Nat) (r : DmReq) : State :=
  let s := setSlot s core slot none
  if r.resv && r.granted then sbFree s r.chan else s

/-- The issued requests of a core complete before it is reset or leaves its context (Table 55, R376): a PUT's bytes reach their
channel, scoreboard entries are released, and requests that still wait for a reservation are withdrawn. -/
def settleReqs (s : State) (core : Nat) : State :=
  let s := (getCore s core).reqs.foldl (fun s e =>
    match e.2 with
    | none => s
    | some r =>
      let s := match r.pieces.head? with
        | some p => if r.kind == 1 && r.granted && r.bad == 0 then writeLater s (dieOfCore core) (partOfCore s core) p.src r.data else s
        | none => s
      endReq s core e.1 r) s
  { s with kerbs := s.kerbs.map (fun e => (e.1, { e.2 with resv := e.2.resv.filter (fun q => q.1 != core) })) }

/-- A core's DM as a source of CW3. -/
def dmSource (core : Nat) : Source := .dm (Fin.ofNat 4096 core)

/-- Room under the congestion window of CW3 (R262). -/
def dmRoom (s : State) (core : Nat) : Bool := decide (slotsBusy (getCore s core) < (winOf s (dmSource core) 3).w)

/-! ### The address generator (R136 to R138) -/

/-- The bytes that a descriptor moves, counted over all runs. -/
def moveTotal (d : MoveDesc) : Nat := moveRuns d * d.run

/-- What stands at byte position q: a padding run, or the piece up to its 512-byte boundary. -/
def pieceAt (d : MoveDesc) (q : Nat) : Piece × Bool :=
  let j := q / d.run
  let off := q % d.run
  match moveSrc d j with
  | none => ({ src := 0, dst := moveDst d j + off, len := d.run - off }, true)
  | some a =>
    let src := a.toNat + off
    ({ src := src, dst := moveDst d j + off, len := min (d.run - off) (512 - src % 512) }, false)

/-- The pieces that one request carries from position q: contiguous source bytes of one block (R140). -/
def gather (d : MoveDesc) (fuel q next : Nat) : List Piece :=
  match fuel with
  | 0 => []
  | fuel + 1 =>
    if moveTotal d ≤ q then []
    else
      let (p, pad) := pieceAt d q
      if pad || p.src != next then []
      else p :: (if (p.src + p.len) % 512 = 0 then [] else gather d fuel (q + p.len) (p.src + p.len))

def piecesLen (l : List Piece) : Nat := l.foldl (fun n p => n + p.len) 0

/-- Pieces read again, as one request carries them. -/
def mergeRedo (l : List Piece) : List Piece :=
  match l with
  | [] => []
  | p :: rest =>
    p :: (rest.foldl (fun (t : List Piece × Nat × Bool) q =>
      if t.2.2 && q.src == t.2.1 && t.2.1 % 512 != 0 then (t.1 ++ [q], q.src + q.len, true) else (t.1, t.2.1, false))
      ([], p.src + p.len, true)).1

/-- The pieces' bytes, cut from the data of the request. -/
def placePieces (ts : SMap Byte) (l : List Piece) (data : List Byte) : SMap Byte :=
  (l.foldl (fun (t : SMap Byte × List Byte) p => (storeBytes t.1 p.dst (t.2.take p.len), t.2.drop p.len)) (ts, data)).1

/-! ### Completion -/

/-- A started GET or PUT that has moved everything signals (R142). -/
def checkMove (s : State) (core id : Nat) : State :=
  let x := getCore s core
  match findEnt x id with
  | none => s
  | some e =>
    if e.st == 1 && moveTotal (moveDesc e.td) ≤ e.run && e.redo.isEmpty && !reqsOf x id then finishEnt s core e
    else settle s core

/-- A contribution whose segments have all been acknowledged signals (R128, R129). -/
def checkAcc (s : State) (core id : Nat) : State :=
  let x := getCore s core
  match findEnt x id with
  | none => s
  | some e => if e.st == 1 && (accDesc e.td).len ≤ e.run && !reqsOf x id then finishEnt s core e else settle s core

/-- A DM fault abandons the instruction: its requests in flight are discarded on return (R134). -/
def dmFault (s : State) (core : Nat) (r : DmReq) (code detail addr : Nat) : State :=
  let pc := ((findEnt (getCore s core) r.ent).map (fun e => e.addr)).getD 0
  let s := modCore s core (fun x => { x with
    reqs := x.reqs.map (fun q => (q.1, q.2.map (fun d => if d.ent == r.ent then { d with dead := true } else d))) })
  coreFault s core 4 code false pc detail addr

/-! ### Starts -/

/-- Opens a combine slot (R129). A slot that an older CMB_OPEN has opened since this one was dispatched starts anew, and what it had
received is dropped (DESIGN CHOICE, notes/assumptions/141.md). -/
def openSlot (s : State) (core : Nat) (e : WEnt) : State :=
  let w := nth e.td
  let k := (cmbDesc (w 0) (w 1)).slot
  finishEnt (modCore s core (fun x => { x with slots := store x.slots k { isOpen := true, w0 := w 0, w1 := w 1 } })) core e

/-- A GET starts (R144, R145): a predicate that does not hold squashes it; otherwise its shadow data is copied, a held
run-ahead fault is reported, and the rest of its requests follow. -/
def startGet (s : State) (core : Nat) (e : WEnt) : State :=
  let x := getCore s core
  let d := moveDesc e.td
  if d.pred && (mileOf x d.predMs).value.toNat != d.predValue then
    finishEnt (siteBump32 (dropAhead s core e.id) core 0x224 1) core e
  else
    let mine := x.shadow.filter (fun h => h.ent == e.id)
    match mine.find? (fun h => h.fault != 0) with
    | some h =>
      coreFault (modEnt s core e.id (fun e => { e with st := 1, sat := true })) core 4 h.fault false e.addr 0 h.faultAddr
    | none =>
      let s := modCore s core (fun x => { x with
        ts := mine.foldl (fun ts h => placePieces ts h.pieces h.data) x.ts,
        shadow := x.shadow.filter (fun h => h.ent != e.id),
        reqs := x.reqs.map (fun r => (r.1, r.2.map (fun q => if q.ent == e.id && q.kind == 4 && !q.dead then { q with kind := 0 } else q))) })
      let s := modEnt s core e.id (fun e => { e with st := 1, sat := true, run := e.sent, sent := 0 })
      checkMove (progressed s core 4) core e.id

/-- Starts a DM instruction. -/
def startDm (s : State) (core : Nat) (e : WEnt) : State :=
  let op := iOpcode e.ins
  if op == 4 then openSlot s core e
  else if op == 0 then startGet s core e
  else settle (progressed (modEnt s core e.id (fun e => { e with st := 1, sat := true })) core 4) core

/-- INSTRUCTION_START of DM. -/
def startDmNext (s : State) (core : Nat) : State :=
  let x := getCore s core
  match runningCtx s core, nextOf x 4 with
  | some _, some e => if canStart x e then startDm s core e else s
  | _, _ => s

/-! ### Work of started instructions -/

/-- The bytes of one tile store piece list. -/
def pieceBytes (ts : SMap Byte) (l : List Piece) : List Byte := l.flatMap (fun p => loadBytes ts p.dst p.len)

/-- Run-ahead data and reads that overlap a PUT's block are discarded and listed to be read again (Table 45). -/
def squashOverlap (s : State) (core : Nat) (p : DmReq) : State :=
  let x := getCore s core
  let hit := fun (l : List Piece) => match l.head?, p.pieces.head? with | some a, some b => blockOf a == blockOf b | _, _ => false
  let lost := (x.shadow.filter (fun h => hit h.pieces)).map (fun h => (h.ent, h.pieces)) ++
    (x.reqs.filterMap (fun r => match r.2 with
      | some q => if q.kind == 4 && !q.dead && hit q.pieces then some (q.ent, q.pieces) else none
      | none => none))
  if lost.isEmpty then s
  else
    let n := (x.window.filter (fun e => lost.any (fun l => l.1 == e.id))).length
    let s := modCore s core (fun x => { x with
      shadow := x.shadow.filter (fun h => !hit h.pieces),
      reqs := x.reqs.map (fun r => (r.1, r.2.map (fun q => if q.kind == 4 && hit q.pieces then { q with dead := true } else q))),
      window := x.window.map (fun e =>
        { e with redo := e.redo ++ ((lost.filter (fun l => l.1 == e.id)).flatMap (fun l => l.2)) }) })
    siteBump32 s core 0x224 n

/-- The next step of a started GET: a discarded piece again, a padding run, or a request. -/
def workGet (s : State) (core : Nat) (e : WEnt) : State :=
  let x := getCore s core
  let d := moveDesc e.td
  let send := fun (l : List Piece) (f : WEnt → WEnt) =>
    match freeSlot x with
    | none => s
    | some i =>
      if dmRoom s core then
        progressed (modEnt (issueReq s core i { ent := e.id, kind := 0, pieces := l }) core e.id f) core 4
      else s
  if !e.redo.isEmpty then
    let l := mergeRedo e.redo
    send l (fun e => { e with redo := e.redo.drop l.length })
  else if moveTotal d ≤ e.run then s
  else
    let (p, pad) := pieceAt d e.run
    if pad then
      let s := modCore s core (fun x => { x with ts := clearBytes x.ts p.dst p.len })
      let s := siteBump32 (modEnt s core e.id (fun e => { e with run := e.run + p.len })) core 0x228 1
      checkMove (progressed s core 4) core e.id
    else
      let l := gather d 32 e.run p.src
      send l (fun e => { e with run := e.run + piecesLen l })

/-- The next request of a started PUT; its bytes are read from the tile store as it is issued. -/
def workPut (s : State) (core : Nat) (e : WEnt) : State :=
  let x := getCore s core
  let d := moveDesc e.td
  if moveTotal d ≤ e.run then s
  else
    match freeSlot x with
    | none => s
    | some i =>
      if dmRoom s core then
        let (p, _) := pieceAt d e.run
        let l := gather d 32 e.run p.src
        let r : DmReq := { ent := e.id, kind := 1, pieces := l, data := pieceBytes x.ts l }
        let s := issueReq (squashOverlap s core r) core i r
        progressed (modEnt s core e.id (fun e => { e with run := e.run + piecesLen l })) core 4
      else s

/-- The next request of a contribution: up to 8 segments to the destination core (R128, R129, R140). -/
def workAcc (s : State) (core : Nat) (e : WEnt) (ord : Bool) : State :=
  let x := getCore s core
  let d := accDesc e.td
  if d.len ≤ e.run then s
  else
    match freeSlot x with
    | none => s
    | some i =>
      if dmRoom s core then
        let n := min 8 (d.len - e.run)
        let data := loadBytes x.ts (64 * (d.src + e.run)) (64 * n)
        let last := decide (d.len ≤ e.run + n)
        let b : Body := if ord then .accOrd core d.core d.slot d.index e.run d.len data i
          else .acc core d.core d.ms (d.dst + e.run) data e.id (if last then some (e.sent + n) else none) i
        let s := issueReq s core i { ent := e.id, kind := if ord then 3 else 2, pieces := [] }
        let s := postMsg s (dieOfCore core) { innerMsg s (dieOfCore d.core) 3 0 false b with epoch := epochTag s core 4 }
        progressed (modEnt s core e.id (fun e => { e with run := e.run + n, sent := e.sent + n })) core 4
      else s

/-- The oldest GET that may run ahead: EARLY, not started, with reads left (R143). -/
def aheadEnt (x : Core) : Option WEnt :=
  x.window.find? (fun e => iEngine e.ins == 4 && iOpcode e.ins == 0 && e.st == 0 && !e.noAhead &&
    (moveDesc e.td).early && decide (e.sent < moveTotal (moveDesc e.td)))

/-- One run-ahead read: at most 12 slots, and a shadow slot for each (R143, R144). Padding runs are left to the GET. -/
def workAhead (s : State) (core : Nat) : State :=
  let x := getCore s core
  match aheadEnt x, freeSlot x with
  | some e, some i =>
    let d := moveDesc e.td
    let (p, pad) := pieceAt d e.sent
    if pad then
      modEnt s core e.id (fun e => { e with sent := e.sent + p.len, redo := e.redo ++ [{ p with src := 2 ^ 40 }] })
    else if aheadBusy x < 12 && x.shadow.length + aheadBusy x < 64 && dmRoom s core then
      let l := gather d 32 e.sent p.src
      let s := issueReq s core i { ent := e.id, kind := 4, pieces := l }
      settle (progressed (modEnt s core e.id (fun e => { e with sent := e.sent + piecesLen l })) core 4) core
    else s
  | _, _ => s

/-- The oldest started instruction of an opcode with work left. -/
def dmHead (x : Core) (op : Nat) : Option WEnt :=
  x.window.find? (fun e => iEngine e.ins == 4 && iOpcode e.ins == op && e.st == 1 &&
    (if op < 2 then decide (e.run < moveTotal (moveDesc e.td)) || !e.redo.isEmpty
     else decide (e.run < (accDesc e.td).len)))

/-- One step of DM's work for an opcode. -/
def dmWork (s : State) (core op : Nat) : State :=
  let x := getCore s core
  match runningCtx s core with
  | none => s
  | some _ =>
    match dmHead x op with
    | some e =>
      if op == 0 then
        match e.redo.head? with
        | some p =>
          if p.src == 2 ^ 40 then
            let s := modCore s core (fun x => { x with ts := clearBytes x.ts p.dst p.len })
            let s := siteBump32 (modEnt s core e.id (fun e => { e with redo := e.redo.drop 1 })) core 0x228 1
            checkMove (progressed s core 4) core e.id
          else workGet s core e
        | none => workGet s core e
      else if op == 1 then workPut s core e
      else workAcc s core e (op == 3)
    | none =>
      if op == 0 then workAhead s core
      else if op == 4 then
        match nextOf x 4 with
        | some e => if iOpcode e.ins == 4 && canStart x e then openSlot s core e else s
        | none => s
      else s

def execGet (core : CoreId) (ph : Phase) (s : State) : Result :=
  .next (match ph with | .dispatch => dispatchAs s core 4 0 | .work => dmWork s core 0)
def execPut (core : CoreId) (ph : Phase) (s : State) : Result :=
  .next (match ph with | .dispatch => dispatchAs s core 4 1 | .work => dmWork s core 1)
def execAcc (core : CoreId) (ph : Phase) (s : State) : Result :=
  .next (match ph with | .dispatch => dispatchAs s core 4 2 | .work => dmWork s core 2)
def execAccOrd (core : CoreId) (ph : Phase) (s : State) : Result :=
  .next (match ph with | .dispatch => dispatchAs s core 4 3 | .work => dmWork s core 3)
def execCmbOpen (core : CoreId) (ph : Phase) (s : State) : Result :=
  .next (match ph with | .dispatch => dispatchAs s core 4 4 | .work => dmWork s core 4)

/-! ### Returns -/

/-- Why a request was refused on its way, or none. -/
def badCode (r : DmReq) : Option Code :=
  if r.bad == 0 then none else if r.bad == Code.fenced.num then some .fenced else some .checkFailed

/-- Reads the bytes of a request by the core's own path; it may have been refused on its way. -/
def readReq (s : State) (core : Nat) (r : DmReq) : State × Except Code (List Byte) :=
  match r.pieces.head?, badCode r with
  | none, _ => (s, .ok [])
  | some _, some c => (s, .error c)
  | some p, none => readVia s (dieOfCore core) (partOfCore s core) p.src (piecesLen r.pieces)

def srcOf (r : DmReq) : Nat := (r.pieces.head?.map (fun p => p.src)).getD 0

/-- A request's answer can be taken: it has its reservation and its lookaside entry, its response is back, and its channel is in
no maintenance window (R133, R211, R253). -/
def reqBack (s : State) (x : Core) (r : DmReq) : Bool :=
  r.granted && !r.away && !reqMisses x r && !(r.resv && inWindow s r.chan)

/-- RUN_AHEAD_RETURN (R144, R146): data, or the fault it met, lands in the shadow buffer; discarded reads only free their slot. -/
def execRunAheadReturn (core : CoreId) (slot : Fin 16) (s : State) : Result :=
  let x := getCore s core
  .next (match look x.reqs slot none with
    | none => s
    | some r =>
      if r.kind != 4 || !reqBack s x r || (!r.dead && heldByPut x r) then s
      else
        let s := if r.mark then cwDecrease s (dmSource core) 3 else s
        if r.dead then settle (endReq s core slot r) core
        else
          let (s, d) := readReq s core r
          let s := endReq s core slot r
          let h : Shadow := match d with
            | .ok b => { ent := r.ent, pieces := r.pieces, data := b }
            | .error c => { ent := r.ent, pieces := r.pieces, data := [], fault := c.num, faultAddr := srcOf r }
          settle (modCore s core (fun x => { x with shadow := x.shadow ++ [h] })) core)

/-- GET_DATA_RETURN (R140): a request's bytes land where their runs name. -/
def execGetDataReturn (core : CoreId) (slot : Fin 16) (mark : Bool) (s : State) : Result :=
  let x := getCore s core
  .next (match look x.reqs slot none with
    | none => s
    | some r =>
      if r.kind != 0 || !reqBack s x r || heldByPut x r then s
      else
        let s := if mark || r.mark then cwDecrease s (dmSource core) 3 else s
        if r.dead || (activeCtx s core).isNone then settle (endReq s core slot r) core
        else
          let (s, d) := readReq s core r
          let s := endReq s core slot r
          match d with
          | .error c => dmFault s core r c.num 0 (srcOf r)
          | .ok b =>
            let s := modCore s core (fun x => { x with ts := placePieces x.ts r.pieces b })
            checkMove (progressed s core 4) core r.ent)

/-- PUT_ACK (R142): the channel has accepted the request's bytes, or refused them. -/
def execPutAck (core : CoreId) (slot : Fin 16) (mark : Bool) (s : State) : Result :=
  let x := getCore s core
  .next (match look x.reqs slot none with
    | none => s
    | some r =>
      if r.kind != 1 || !reqBack s x r then s
      else
        let s := if mark || r.mark then cwDecrease s (dmSource core) 3 else s
        let (s, f) := if (badCode r).isSome then (s, badCode r)
          else writeVia s (dieOfCore core) (partOfCore s core) (srcOf r) r.data
        let s := endReq s core slot r
        match f with
        | some c => if r.dead then settle s core else dmFault s core r c.num 0 (srcOf r)
        | none => if r.dead then settle s core else checkMove (progressed s core 4) core r.ent)

/-- LA_INVALIDATE clears the lookaside and squashes every run-ahead read (R133, Table 45). -/
def laInvalidate (s : State) (core : Nat) : State :=
  let x := getCore s core
  let hit := x.window.filter (fun e => entAhead x e.id)
  let s := squashAll s core hit
  modCore s core (fun x => { x with
    look := [],
    window := x.window.map (fun e =>
      if hit.any (fun h => h.id == e.id) then { e with sent := 0, redo := [], noAhead := true } else e) })

/-- A GET generates an address in a frame. -/
def readsFrame (e : WEnt) (frame : Nat) : Bool :=
  let d := moveDesc e.td
  (List.range (moveRuns d)).any (fun j => match moveSrc d j with
    | some a => decide (a.toNat / 65536 ≤ frame ∧ frame ≤ (a.toNat + d.run - 1) / 65536)
    | none => false)

/-- An invalidation of a frame: its lookaside entries go, and the GETs that read it lose what they have read ahead (Table 45,
R202). -/
def dropFrame (s : State) (core frame : Nat) : State :=
  let x := getCore s core
  let hit := x.window.filter (fun e => entAhead x e.id && readsFrame e frame)
  let s := squashAll s core hit
  modCore s core (fun x => { x with
    look := x.look.filter (fun e => e.1 != frame),
    window := x.window.map (fun e =>
      if hit.any (fun h => h.id == e.id) then { e with sent := 0, redo := [], noAhead := true } else e) })

/-! ### Contributions within the chip (R114 to R117, R127 to R130) -/

/-- One segment added into the tile store (R114, R127). -/
def accSegment (flush : Bool) (ts : SMap Byte) (seg : Nat) (data : List Byte) : SMap Byte × Flags :=
  (List.range 16).foldl (fun (t : SMap Byte × Flags) i =>
    let a := 64 * seg + 4 * i
    let (w, f) := sum32 flush (memNum t.1 a 4) (numAt data (4 * i) 4)
    (storeBytes t.1 a (leBytes 4 w), t.2 ||| f)) (ts, 0)

def accSegments (flush : Bool) (ts : SMap Byte) (seg : Nat) (data : List Byte) : SMap Byte × Flags :=
  (List.range (data.length / 64)).foldl (fun (t : SMap Byte × Flags) j =>
    let (m, f) := accSegment flush t.1 (seg + j) (data.drop (64 * j))
    (m, t.2 ||| f)) (ts, 0)

/-- The acknowledgement of a contribution request, with the mark of the request (R261) and its epochs (R377). -/
def ackAcc (s : State) (q : Msg) (src dst slot code : Nat) : State :=
  postMsg s (edgeDie s (dieOfCore dst)) { innerMsg s (dieOfCore src) 0 code true (.accAck src dst slot) with mark := q.mark, epoch := q.epoch }

/-- Segments of an arrival-order contribution have been added: what stands of it, and whether that is all of it (R114). -/
def accNote (l : List (Nat × Nat × Nat × Option Nat)) (src id n : Nat) (total : Option Nat) :
    List (Nat × Nat × Nat × Option Nat) × Bool :=
  let rest := l.filter (fun e => !(e.1 == src && e.2.1 == id))
  let old := (l.find? (fun e => e.1 == src && e.2.1 == id)).getD (src, id, 0, none)
  let sum := old.2.2.1 + n
  let all := total.or old.2.2.2
  if all == some sum then (rest, true) else (rest ++ [(src, id, sum, all)], false)

/-- The bank's signal at the end of a contribution or combine; a BARRIER-mode milestone faults the bank's core (R181). -/
def bankSignal (s : State) (core ms inc : Nat) : State :=
  let (s, ok) := signalMs s core ms inc (lastWord s core 8)
  if ok then s else coreFault s core 0xF Code.wrongState.num false 0 0 0

/-- ACC_ARRIVAL: segments of an arrival-order contribution are added in the destination's bank (R114, R128). -/
def execAccArrival (idx : Nat) (s : State) : Result :=
  .next (match s.net[idx]? with
    | none => s
    | some m =>
      match m.body with
      | .acc src dst ms seg data id total slot =>
        if (getPage s (pgCore dst)).moving then s
        else
          let s := dropMsg s idx
          if !msgReach s m dst 4 then ackAcc s m src dst slot Code.fenced.num
          else
            let x := getCore s dst
            let (ts, f) := accSegments x.flush x.ts seg data
            let (l, whole) := accNote x.accIn src id (data.length / 64) total
            let s := modCore s dst (fun x => { x with ts := ts, arithStat := x.arithStat ||| f, accIn := l })
            let s := if whole then bankSignal s dst ms 1 else s
            ackAcc s m src dst slot 0
      | _ => s)

/-- Whether every leaf of node j at level h of a tree of p leaves has arrived for a segment (R115). -/
def nodeThere (got : List (Nat × Nat)) (p h j seg : Nat) : Bool :=
  (List.range (min ((j + 1) * 2 ^ h) p - j * 2 ^ h)).all (fun i => got.contains (j * 2 ^ h + i, seg))

/-- Adds two staged segments. -/
def addSegs (flush : Bool) (a b : List Byte) : List Byte × Flags :=
  (List.range 16).foldl (fun (t : List Byte × Flags) i =>
    let (w, f) := sum32 flush (numAt a (4 * i) 4) (numAt b (4 * i) 4)
    (t.1 ++ leBytes 4 w, t.2 ||| f)) ([], 0)

/-- A leaf's value climbs the tree of one segment while its siblings are there; where it stops it waits in the staging place
of its parent, numbered by the first leaf of the parent's right half less 1 (R115, R116). The root waits in place 0. -/
def climb (fuel : Nat) (flush : Bool) (c : CmbDesc) (got : List (Nat × Nat)) (ts : SMap Byte) (h j seg : Nat)
    (v : List Byte) (f : Flags) : SMap Byte × Flags :=
  match fuel with
  | 0 => (ts, f)
  | fuel + 1 =>
    let n := ceilDiv c.p (2 ^ h)
    let place := fun (k : Nat) => 64 * (c.stage + k * c.len + seg)
    if n = 1 then (storeBytes ts (place 0) v, f)
    else if j % 2 = 0 ∧ j + 1 = n then climb fuel flush c got ts (h + 1) (j / 2) seg v f
    else
      let sib := if j % 2 = 0 then j + 1 else j - 1
      let k := (max j sib) * 2 ^ h - 1
      if nodeThere got c.p h sib seg then
        let w := loadBytes ts (place k) 64
        let (r, g) := if j % 2 = 0 then addSegs flush v w else addSegs flush w v
        climb fuel flush c got ts (h + 1) (j / 2) seg r (f ||| g)
      else (storeBytes ts (place k) v, f)

/-- All contributions of a slot have arrived. -/
def combineFull (c : CmbDesc) (k : Combine) : Bool :=
  (List.range c.p).all (fun i => (List.range c.len).all (fun g => k.got.contains (i, g)))

/-- R117: the combine is abandoned, and the owning context faults. -/
def combineAbandon (s : State) (dst cslot code src : Nat) : State :=
  let s := modCore s dst (fun x => { x with slots := store x.slots cslot {} })
  coreFault s dst 0xF code false 0 src 0

/-- Segments of an ORDERED contribution enter an open slot (R116). -/
def combineTake (s : State) (dst cslot index seg : Nat) (data : List Byte) : State :=
  let x := getCore s dst
  let k := look x.slots cslot {}
  let c := cmbDesc k.w0 k.w1
  let (ts, f, got) := (List.range (data.length / 64)).foldl (fun (t : SMap Byte × Flags × List (Nat × Nat)) j =>
    let (m, g) := climb 6 x.flush c t.2.2 t.1 0 index (seg + j) ((data.drop (64 * j)).take 64) 0
    (m, t.2.1 ||| g, (index, seg + j) :: t.2.2)) (x.ts, 0, k.got)
  let k := { k with got := got }
  if combineFull c k then
    let (ts, f) := (List.range c.len).foldl (fun (t : SMap Byte × Flags) g =>
      let (v, h) := addSegs x.flush (loadBytes t.1 (64 * (c.dst + g)) 64) (loadBytes ts (64 * (c.stage + g)) 64)
      (storeBytes t.1 (64 * (c.dst + g)) v, t.2 ||| h)) (ts, f)
    let s := modCore s dst (fun x => { x with
      ts := ts, arithStat := x.arithStat ||| f, slots := store x.slots cslot {} })
    bankSignal s dst c.ms c.p
  else modCore s dst (fun x => { x with ts := ts, arithStat := x.arithStat ||| f, slots := store x.slots cslot k })

/-- ACC_ORD_ARRIVAL (R116, R117, R129). A contribution counts as received segment by segment (DESIGN CHOICE,
notes/assumptions/142.md). -/
def execAccOrdArrival (idx : Nat) (s : State) : Result :=
  .next (match s.net[idx]? with
    | none => s
    | some m =>
      match m.body with
      | .accOrd src dst cslot index seg len data slot =>
        if (getPage s (pgCore dst)).moving then s
        else
          let s := dropMsg s idx
          let k := look (getCore s dst).slots cslot {}
          let c := cmbDesc k.w0 k.w1
          let n := data.length / 64
          if !msgReach s m dst 4 then ackAcc s m src dst slot Code.fenced.num
          else if !k.isOpen then ackAcc s m src dst slot Code.wrongState.num
          else if len != c.len || c.p ≤ index then
            combineAbandon (ackAcc s m src dst slot 0) dst cslot Code.badField.num src
          else if (List.range n).any (fun j => k.got.contains (index, seg + j)) then
            combineAbandon (ackAcc s m src dst slot 0) dst cslot Code.sequence.num src
          else ackAcc (combineTake s dst cslot index seg data) m src dst slot 0
      | _ => s)

/-- ACC_ACK: a contribution request is acknowledged, or refused and DM faults naming the destination (R128 to R130). -/
def execAccAck (idx : Nat) (s : State) : Result :=
  .next (match s.net[idx]? with
    | none => s
    | some m =>
      match m.body with
      | .accAck src dst slot =>
        let s := dropMsg s idx
        match look (getCore s src).reqs slot none with
        | none => lateAnswer s src 4
        | some r =>
          if m.epoch != epochTag s src 4 || (r.kind != 2 && r.kind != 3) then lateAnswer s src 4
          else
            let s := endReq (if m.mark then cwDecrease s (dmSource src) 3 else s) src slot r
            if r.dead || (activeCtx s src).isNone then settle s src
            else if m.code != 0 then dmFault s src r m.code dst 0
            else checkAcc (progressed s src 4) src r.ent
      | _ => s)

end Sys2Proof.Machine
end

