-- ==== Sys2Proof/Machine/Ms.lean ====
section
/-!
DEFINITION. The milestone engine (chapter 9): SET, ADD within and between chips, barriers, timed waits, held signals and the
replay log.
-/
namespace Sys2Proof.Machine

/-! ### Completion of waiting MS instructions -/

/-- The MS instruction in progress on a core. -/
def msEnt (x : Core) : Option WEnt := x.window.find? (fun e => iEngine e.ins == 5 && e.st == 1)

/-- An ARRIVE that waits completes once its round has been released to the core and its arrival answered: a refusal that comes
after the release still faults it (R189, R190; DEDUCED, notes/assumptions/138.md). One released before a stop completes during it; one
that the stop found waiting stays as it is (R183). -/
def msProgress (s : State) (core : Nat) : State :=
  match activeCtx s core, msEnt (getCore s core) with
  | some _, some e => if arriveWaits e && e.sat && e.sent == 0 then finishEnt s core e else s
  | _, _ => s

/-! ### Sending -/

/-- The chip-bound message of an ADD (R188). -/
def remoteAddMsg (s : State) (core : Nat) (e : WEnt) : Msg :=
  let d := msDesc e.td
  { srcChip := chipId s, dstChip := d.chip, dstDie := dieOfCore d.targetCore, cw := 0, resp := false, mark := false, req := 0,
    code := 0, job := (getCtx s ((getCore s core).ctx.getD 0)).jobTag,
    body := .remoteAdd core d.ctx d.targetCore d.targetMs (BitVec.ofNat 32 d.value) }

/-- The MS instruction in progress sends a message to a block of this chip; the message's number says which instruction its answer is
for. -/
def sendMs (s : State) (core : Nat) (e : WEnt) (m : Msg) : State :=
  let q := s.nextReq
  postMsg (modEnt { s with nextReq := q + 1 } core e.id (fun y => { y with st := 1, sat := y.sat || !isArrive y, sent := q + 1 }))
    (dieOfCore core) { m with req := q, epoch := epochTag s core 5 }

/-- An ADD to another chip is sent: kept inside when it names this chip, held under HOLD, faulted without a route. -/
def sendRemote (s : State) (core : Nat) (e : WEnt) : State :=
  let m := remoteAddMsg s core e
  let first := fun (y : WEnt) => if y.firstTry == 0 then s.odometer + 1 else y.firstTry
  if m.dstChip == chipId s then
    sendMs (modEnt s core e.id (fun y => { y with firstTry := first y, since := s.odometer + 1 })) core e m
  else match sendRequest s (dieOfCore core) m with
    | .held => s
    | .absent => coreFault s core 5 Code.absent.num false e.addr 0 0
    | .sent s q => modEnt s core e.id (fun y => { y with sent := q + 1, firstTry := first y, since := s.odometer + 1 })

/-- An ADD starts: on this core at once, to another core as a message, to another chip unless a replay skips it (R187, R359). -/
def startAdd (s : State) (core : Nat) (e : WEnt) : State :=
  let d := msDesc e.td
  if d.otherChip then
    if 0 < (getCore s core).remoteSkip then
      finishEnt (modCore s core (fun x => { x with remoteSkip := x.remoteSkip - 1 })) core e
    else sendRemote (modEnt s core e.id (fun e => { e with st := 1, sat := true })) core e
  else if d.targetCore == core then
    let (s, ok) := signalMs s core d.targetMs d.value (lastWord s core 5)
    if ok then finishEnt s core e else coreFault s core 5 Code.wrongState.num false e.addr 0 0
  else
    sendMs s core e
      (innerMsg s (dieOfCore d.targetCore) 0 0 false (.localAdd core d.targetCore d.targetMs (BitVec.ofNat 32 d.value)))

/-- An ARRIVE starts (R189): the release milestone counts the round entered, and the arrival is sent to the home. -/
def startArrive (s : State) (core : Nat) (e : WEnt) : State :=
  let d := msDesc e.td
  let m := mileOf (getCore s core) d.localMs
  if m.barrier then coreFault s core 5 Code.wrongState.num false e.addr 0 0
  else
    let r := m.gen.toNat % 65536
    let s := modEnt s core e.id (fun e => { e with st := 1, sat := false, run := r })
    let s := putMile s core d.localMs { m with gen := BitVec.ofNat 32 ((r + 1) % 65536), last := lastWord s core 5 }
    sendMs s core e (innerMsg s (dieOfCore d.targetCore) 0 0 false (.arrive core d.targetCore d.targetMs r))

/-- Starts an MS instruction (Table 58). -/
def startMs (s : State) (core : Nat) (e : WEnt) : State :=
  let d := msDesc e.td
  let op := iOpcode e.ins
  let s := progressed s core 5
  if op == 0 then
    let s := putMile s core d.targetMs {
      value := BitVec.ofNat 32 d.value, gen := BitVec.ofNat 32 (d.value % 65536), barrier := false, relMs := 0,
      last := lastWord s core 5 }
    finishEnt s core e
  else if op == 1 then startAdd s core e
  else if op == 2 then
    let s := putMile s core d.targetMs {
      value := BitVec.ofNat 32 (d.value % 65536 * 65536), gen := 0, barrier := true, relMs := d.localMs,
      last := lastWord s core 5 }
    finishEnt s core e
  else if op == 3 then startArrive s core e
  else finishEnt s core e

/-- INSTRUCTION_START of MS. -/
def startMsNext (s : State) (core : Nat) : State :=
  let x := getCore s core
  match runningCtx s core, nextOf x 5 with
  | some _, some e => if canStart x e then msProgress (startMs s core e) core else s
  | _, _ => s

/-- The work of an MS opcode: its start, an ADD held at its source, or an ARRIVE whose round is released. -/
def msWork (s : State) (core op : Nat) : State :=
  let x := getCore s core
  match runningCtx s core with
  | none => if op == 3 then msProgress s core else s
  | some _ =>
    match msEnt x with
    | some e =>
      if iOpcode e.ins != op then s
      else if op == 1 && (msDesc e.td).otherChip && e.sent == 0 && e.firstTry == 0 then sendRemote s core e
      else msProgress s core
    | none =>
      match nextOf x 5 with
      | some e => if iOpcode e.ins == op && canStart x e then msProgress (startMs s core e) core else s
      | none => s

def execMsSet (core : CoreId) (ph : Phase) (s : State) : Result :=
  .next (match ph with | .dispatch => dispatchAs s core 5 0 | .work => msWork s core 0)
def execMsAdd (core : CoreId) (ph : Phase) (s : State) : Result :=
  .next (match ph with | .dispatch => dispatchAs s core 5 1 | .work => msWork s core 1)
def execMsBinit (core : CoreId) (ph : Phase) (s : State) : Result :=
  .next (match ph with | .dispatch => dispatchAs s core 5 2 | .work => msWork s core 2)
def execMsArrive (core : CoreId) (ph : Phase) (s : State) : Result :=
  .next (match ph with | .dispatch => dispatchAs s core 5 3 | .work => msWork s core 3)
def execMsTwait (core : CoreId) (ph : Phase) (s : State) : Result :=
  .next (match ph with | .dispatch => dispatchAs s core 5 4 | .work => msWork s core 4)

/-- TWAIT_EXPIRY (R192, R193): the limit has passed at an earlier odometer value, so that no satisfaction of its own cycle is still to
come; TIMEOUT_MS is signalled in place of SIGNAL_MS. -/
def execTwaitExpiry (core : CoreId) (s : State) : Result :=
  let x := getCore s core
  .next (match runningCtx s core, nextOf x 5 with
    | some _, some e =>
      let d := msDesc e.td
      if isTwait e && readyEnt x e && !e.sat && e.since != 0 && decide (twaitEnd e < s.odometer) then
        let s := addEvent s (pgCore core) 1
        let s := modEnt s core e.id (fun e => { e with sat := true, st := 1 })
        retire (signalOwn s core e d.timeoutMs 1) core e
      else s
    | _, _ => s)

/-! ### Arrivals within the chip -/

/-- The answer to an ADD or ARRIVE within the chip, with the request's number and mark (R261). -/
def ackLocal (s : State) (q : Msg) (src home code : Nat) : State :=
  postMsg s (edgeDie s (dieOfCore home)) { innerMsg s (dieOfCore src) 0 code true (.localAck src home) with
    req := q.req, mark := q.mark, epoch := q.epoch }

/-- MS_ADD_ARRIVAL (R180, R187). -/
def execMsAddArrival (idx : Nat) (s : State) : Result :=
  .next (match s.net[idx]? with
    | none => s
    | some m =>
      match m.body with
      | .localAdd src core ms inc =>
        if (getPage s (pgCore core)).moving then s
        else
          let s := dropMsg s idx
          if !msgReach s m core 5 then ackLocal s m src core Code.fenced.num
          else
            let (s, ok) := signalMs s core ms inc.toNat (lastWord s src 5)
            ackLocal (if ok then msProgress s core else s) m src core (if ok then 0 else Code.wrongState.num)
      | _ => s)

/-- FR_DETAIL of a refused ADD or ARRIVE (R173, R181, R190): the core it was sent to where an ADD met BARRIER mode or a home refused
the round, else 0. DEDUCED (notes/assumptions/133.md): R173 and R190 name no core for the other refusals of an ARRIVE. -/
def msDetail (e : WEnt) (core code : Nat) : Nat :=
  if code == Code.sequence.num || (iOpcode e.ins == 1 && code == Code.wrongState.num) then core else 0

/-- The context of a core has faulted and waits for its replay. -/
def faultedOn (s : State) (core : Nat) : Bool :=
  match (getCore s core).ctx with | some c => (getCtx s c).state == .faulted | none => false

/-- The outcome of an acknowledged MS message for its instruction, which the answer's request number names. That of an ADD to another
chip counts for R359 also when it comes after a fault. -/
def msAcked (s : State) (core req code target : Nat) (remote : Bool) : State :=
  match activeCtx s core, msEnt (getCore s core) with
  | none, some e =>
    if !faultedOn s core || e.sent != req + 1 then s
    else modCore (modEnt s core e.id (fun e => { e with sent := 0 })) core (fun x =>
      if remote && code == 0 then { x with remoteAcked := x.remoteAcked + 1 } else x)
  | some _, some e =>
    if e.sent != req + 1 then s
    else if remote && code == Code.noSpace.num then modEnt s core e.id (fun e => { e with sent := 0 })
    else if code != 0 then coreFault s core 5 code false e.addr (msDetail e target code) 0
    else
      let s := if remote then modCore s core (fun x => { x with remoteAcked := x.remoteAcked + 1 }) else s
      let s := progressed s core 5
      if isArrive e && !bitOf (iFlags e.ins) 0 then
        msProgress (modEnt s core e.id (fun e => { e with sent := 0 })) core
      else finishEnt s core e
  | _, _ => s

/-- MS_ADD_ACK (R187, R188, R169): the answer to an ADD or ARRIVE. An answer to a request that has timed out is discarded
(R287), and so is one of an earlier epoch (R377). -/
def execMsAddAck (idx : Nat) (s : State) : Result :=
  .next (match s.net[idx]? with
    | none => s
    | some m =>
      match m.body with
      | .localAck src home =>
        let s := dropMsg s idx
        if m.epoch != epochTag s src 5 then lateAnswer s src 5 else msAcked s src m.req m.code home false
      | .remoteAddAck src _ =>
        let s := dropMsg s idx
        let (s, there) := settleOut s m.req
        let mine := match msEnt (getCore s src) with | some e => e.sent == m.req + 1 | none => false
        if (!there && m.srcChip != chipId s) then s
        else if !mine then lateAnswer s src 5
        else
          let target := ((msEnt (getCore s src)).map (fun e => (msDesc e.td).targetCore)).getD 0
          msAcked s src m.req m.code target true
      | _ => s)

/-! ### Signals from outside a running context (R188, R358) -/

/-- An applied change enters the replay log of its core's die (R358). -/
def logHeld (s : State) (h : Held) : State :=
  { s with replayLog := store s.replayLog (dieOfCore h.core) (look s.replayLog (dieOfCore h.core) [] ++ [h]) }

/-- A context whose share of a die's replay log is full is pre-empted and run again (R358). -/
def logLimit (s : State) (d ctx : Nat) : State :=
  let l := look s.replayLog d []
  if (1024 ≤ (l.filter (fun h => h.ctx == ctx)).length || 3072 ≤ l.length) && (getCtx s ctx).state == .running then
    beginSave s ctx { kind := 2, tag := 0, start := 0, after := 2 }
  else s

/-- A change applied to a milestone from the interchange, the collective controller, the host or another chip is logged on its
core's die; a full share pre-empts the context and runs it again (R358). -/
def logChange (s : State) (core ms inc ctx : Nat) (last : Word) : State :=
  logLimit (logHeld s { core := core, ms := ms, last := last, inc := BitVec.ofNat 32 inc, ctx := ctx }) (dieOfCore core) ctx

/-- A signal is held for a context that does not run; false when the die's queue is full (R188). -/
def holdSignal (s : State) (core ms inc ctx : Nat) (last : Word) : State × Bool :=
  let d := dieOfCore core
  let q := look s.heldQ d []
  if 1024 ≤ q.length then (s, false)
  else ({ s with heldQ := store s.heldQ d (q ++ [{ core := core, ms := ms, last := last, inc := BitVec.ofNat 32 inc, ctx := ctx }]) }, true)

/-- What becomes of a signal to a context from a source outside its cores. -/
inductive SigOut where
  | applied
  | held
  | full
  | barrier
  | gone
  deriving DecidableEq, Repr, Inhabited

/-- Delivers a signal to a context's milestone: applied while it runs, held otherwise; logged sources are logged (R188, R358). -/
def deliverSignal (s : State) (ctx core ms inc : Nat) (last : Word) (logged : Bool) : State × SigOut :=
  let x := getCtx s ctx
  if x.state == .free || !x.cores.contains core then (s, .gone)
  else if x.state == .running then
    let (s, ok) := signalMs s core ms inc last
    if ok then (msProgress (if logged then logChange s core ms inc ctx last else s) core, .applied) else (s, .barrier)
  else
    let (s, ok) := holdSignal s core ms inc ctx last
    (s, if ok then .held else .full)

/-- REMOTE_ADD_ARRIVAL (R188). -/
def execRemoteAddArrival (idx : Nat) (s : State) : Result :=
  .next (match s.net[idx]? with
    | none => s
    | some m =>
      match m.body with
      | .remoteAdd src ctx core ms inc =>
        if (getPage s (pgCore core)).moving then s
        else
          let s := dropMsg s idx
          let die := dieOfCore core
          let answer := fun (s : State) (code : Nat) => sendAnswer s die (answerTo s (dieOfCore src) code m (.remoteAddAck src core))
          let x := getCtx s ctx
          if !msgReach s m core 5 || s.hide.draining then answer s Code.fenced.num
          else if x.state == .free || !x.cores.contains core || x.jobTag != m.job then
            answer (addEvent s (pgCtl die) 1) Code.notOwner.num
          else
            let (s, r) := deliverSignal s ctx core ms inc.toNat (BitVec.ofNat 32 (m.srcChip * 65536 + src * 16 + 5)) true
            answer s (match r with
              | .applied => 0 | .held => 0 | .full => Code.noSpace.num | .barrier => Code.wrongState.num
              | .gone => Code.notOwner.num)
      | _ => s)

/-- ADD_RETRY (R188): a refused ADD is sent again every 1 µs, and faults with TIMED_OUT 1 ms after its first attempt. -/
def execAddRetry (core : CoreId) (s : State) : Result :=
  .next (match runningCtx s core, msEnt (getCore s core) with
    | some _, some e =>
      if iOpcode e.ins != 1 || e.sent != 0 || e.firstTry == 0 then s
      else if passed s (e.firstTry - 1) msNs then coreFault s core 5 Code.timedOut.num false e.addr 0 0
      else if passed s (e.since - 1) usNs then sendRemote s core e
      else s
    | _, _ => s)

/-! ### Barriers (R189 to R191) -/

/-- ARRIVED has reached PARTIES. -/
def roundDue (m : Mile) : Bool := m.barrier && decide (m.value.toNat / 65536 ≤ m.value.toNat % 65536)

/-- A round completes (R191): GEN advances, ARRIVED takes PENDING, and a release goes to every core of the context's set, in ascending
order. -/
def completeRound (s : State) (core ms : Nat) : State :=
  let m := mileOf (getCore s core) ms
  match activeCtx s core with
  | none => s
  | some c =>
    if roundDue m then
      let s := putMile s core ms { m with
        value := BitVec.ofNat 32 (m.value.toNat / 65536 * 65536 + m.gen.toNat / 65536),
        gen := BitVec.ofNat 32 ((m.gen.toNat + 1) % 65536) }
      (getCtx s c).cores.foldl (fun s k =>
        postMsg s (dieOfCore core) (innerMsg s (dieOfCore k) 0 0 false (.release core k m.relMs))) s
    else s

/-- BARRIER_ARRIVAL (R190): a round that is due completes first, and the arrival that fills a round completes it (R191). -/
def execBarrierArrival (idx : Nat) (s : State) : Result :=
  .next (match s.net[idx]? with
    | none => s
    | some msg =>
      match msg.body with
      | .arrive src home ms r =>
        if (getPage s (pgCore home)).moving then s
        else
          let s := completeRound (dropMsg s idx) home ms
          let m := mileOf (getCore s home) ms
          let gen := m.gen.toNat % 65536
          let pend := m.gen.toNat / 65536
          let last := lastWord s src 5
          if !msgReach s msg home 5 then ackLocal s msg src home Code.fenced.num
          else if !m.barrier then ackLocal s msg src home Code.wrongState.num
          else if r == gen then
            ackLocal (completeRound (putMile s home ms { m with value := m.value + 1, last := last }) home ms) msg src home 0
          else if r == (gen + 1) % 65536 && pend < 65535 then
            ackLocal (putMile s home ms { m with gen := m.gen + 0x10000#32, last := last }) msg src home 0
          else ackLocal s msg src home Code.sequence.num
      | _ => s)

/-- BARRIER_ROUND_COMPLETE (R191): a round that PENDING alone has filled completes in a cycle of its own. -/
def execBarrierRoundComplete (core : CoreId) (ms : Fin 48) (s : State) : Result := .next (completeRound s core ms)

/-- BARRIER_RELEASE_ARRIVAL (R191): a BARRIER-mode milestone changes nothing and faults the home core's MS. A release that a fence or
a roadblock turns away is lost (R376). -/
def execBarrierReleaseArrival (idx : Nat) (s : State) : Result :=
  .next (match s.net[idx]? with
    | none => s
    | some m =>
      match m.body with
      | .release home core ms =>
        if (getPage s (pgCore core)).moving then s
        else
          let s := dropMsg s idx
          if (getCore s core).ctx.isNone || !msgReach s m core 5 then s
          else
            let (s, ok) := signalMs s core ms 1 (lastWord s home 5)
            if ok then msProgress s core else coreFault s home 5 Code.wrongState.num false 0 core 0
      | _ => s)

/-! ### INSTRUCTION_START -/

/-- INSTRUCTION_START (R154): the next instruction of an engine class starts once its conditions hold. -/
def execInstructionStart (core : CoreId) (eng : Fin 6) (s : State) : Result :=
  .next (match eng.val with
    | 0 => startSeqAs s core none
    | 1 => startLrNext s core
    | 2 => startOpNext s core
    | 3 => startVxNext s core
    | 4 => startDmNext s core
    | _ => startMsNext s core)

end Sys2Proof.Machine
end

