-- ==== Sys2Proof/Machine/Context.lean ====
section
/-!
DEFINITION. Images of a context (R165 to R172): the layout of slots and core records, writing, selection, checks and restore;
the phases of a save and what follows a complete image; replay's restore (R357 to R360).
-/
namespace Sys2Proof.Machine

/-! ### Layout (Tables 56 and 57) -/

def recordSize : Nat := 0x44000
def slotSize (cores : Nat) : Nat := 0x10000 + cores * recordSize
def slotAt (x : Ctx) (k : Nat) : Nat := x.area + k * slotSize x.cores.length
/-- The die that handles an image's header: its lowest-numbered core's. -/
def headDie (x : Ctx) : Nat := dieOfCore (x.cores.headD 0)

/-- The channels of a context's save area serve: its images can be read and written (R196, R211, R223). -/
def imageReady (s : State) (x : Ctx) : Bool := rangeReady s x.part x.area (2 * slotSize x.cores.length)

def put (m : SMap Byte) (off n v : Nat) : SMap Byte := storeBytes m off (leBytes n v)

/-- A range read sparsely by a block of a die: its nonzero bytes numbered from 0, or the first failure with its address. -/
def readSparse (s : State) (die part addr n : Nat) : Except (Code × Nat) (SMap Byte) :=
  (pieces512 addr n).foldl (fun (acc : Except (Code × Nat) (SMap Byte)) p =>
    match acc with
    | .error e => .error e
    | .ok m =>
      match if wayShut s die part p.1 then .error .fenced else readCached s part p.1 p.2 with
      | .error c => .error (c, p.1)
      | .ok b => .ok (m ++ ((List.range b.length).zip b).filterMap (fun e =>
          if e.2 = 0 then none else some (p.1 - addr + e.1, e.2)))) (.ok [])

/-! ### Writing a record -/

/-- STATE and RUN of a window entry in an image (R171, R183, Table 55). -/
def imageEntry (e : WEnt) : Nat × Nat :=
  let eng := iEngine e.ins
  let op := iOpcode e.ins
  if e.st == 2 then (2, 0)
  else if e.st == 0 then (0, 0)
  else if eng == 1 || eng == 2 then (if e.run == 0 then 0 else 1, 0)
  else if eng == 3 then (1, e.run)
  else if eng == 4 && op < 2 then
    -- A GET's next run: the first run of which something is still to be read.
    let d := moveDesc e.td
    let undone := fun (r : Nat) => e.redo.any (fun p => decide (moveDst d r ≤ p.dst ∧ p.dst < moveDst d r + d.run))
    (1, ((List.range (e.run / d.run)).find? undone).getD (e.run / d.run))
  else if eng == 4 then (1, e.run)
  else if eng == 5 && op == 3 then (1, e.run)
  else (0, 0)

/-- The loop counters an image holds: those of the oldest unresolved BRANCH's dispatch while one is in the window. -/
def imageLoops (x : Core) : List Nat :=
  match x.window.find? openBranch with
  | some e => e.loops
  | none => x.loops

/-- CMB_SLOT of a combine slot (R148). -/
def cmbSlotWord (k : Combine) : Nat :=
  let c := cmbDesc k.w0 k.w1
  if k.isOpen then
    2 ^ 31 + c.p * 2 ^ 24 + (List.range c.p).foldl (fun n i =>
      n + bit ((List.range c.len).all (fun g => k.got.contains (i, g))) * 2 ^ i) 0
  else 0

/-- The window of an image: the entries in the window, then those of a restored window not yet dispatched. -/
def imageWindow (x : Core) : List (Nat × Nat × Nat) :=
  x.window.map (fun e => let (st, run) := imageEntry e; (e.addr, st, run)) ++ x.resume

/-- T_p of the pass whose tiles OP_POS holds: of the instruction OP runs, or as the restored image gives it while OP has not taken
the instruction up again. -/
def accTiles (x : Core) : Nat :=
  match opEnt x with
  | some e =>
    let d := opDesc e.td
    let c := fieldOf x.opPos.toNat 16 8
    opPassRows d c (fieldOf x.opPos.toNat 14 2) * opCb d c
  | none => fieldOf (nth x.opHead 0) 8 8

/-- The OP accumulator image (Table 40). -/
def accImage (s : State) (core : Nat) : SMap Byte :=
  let x := getCore s core
  let pos := x.opPos.toNat
  let c := fieldOf pos 16 8
  let tiles := accTiles x
  let body := (x.op.acc.filter (fun e => e.1 < tiles * 1024)).foldl (fun m e => put m (0x40 + 4 * e.1) 4 e.2.toNat) ([] : SMap Byte)
  let crc := crcSparse 0xFFFFFFFF body 0x40 (tiles * 4096) ^^^ 0xFFFFFFFF#32
  put (put (put body 0 4 (1 + tiles * 256 + c * 65536)) 4 4 pos) 8 4 crc.toNat

/-- A core record (Table 57). -/
def recordOf (s : State) (core : Nat) : SMap Byte :=
  let x := getCore s core
  let acc := bitOf x.opPos.toNat 30
  let m : SMap Byte := []
  let m := put (put m 0x40 8 x.pc) 0x48 8 x.tdSrc
  let m := (List.range 4).foldl (fun m i => put m (0x50 + 4 * i) 4 (nth (imageLoops x) i)) m
  let m := put (put (put m 0x80 4 (bit x.flush)) 0x84 4 x.arithStat.toNat) 0x88 4 x.srState.toNat
  let m := put (put (put m 0xA0 4 x.lrPos.toNat) 0xA4 4 x.lrPass.toNat) 0xA8 4 x.lrFill.toNat
  let m := put (put m 0xAC 4 x.lrFree.toNat) 0xB0 4 x.opPos.toNat
  let m := (List.range 4).foldl (fun m i =>
    let k := look x.slots i {}
    let o := 0xC0 + 16 * i
    put (put (put m o 4 (if k.isOpen then k.w0 else 0)) (o + 4) 4 (if k.isOpen then k.w1 else 0)) (o + 8) 4 (cmbSlotWord k)) m
  let m := (List.range 48).foldl (fun m i =>
    let k := mileOf x i
    let o := 0x100 + 16 * i
    put (put (put (put m o 4 k.value.toNat) (o + 4) 4 k.gen.toNat) (o + 8) 4
      (bit k.barrier * 128 + (if k.barrier then k.relMs * 256 else 0))) (o + 12) 4 k.last.toNat) m
  let w := imageWindow x
  let m := (List.range 64).foldl (fun m i =>
    let o := 0x400 + 16 * i
    match w[i]? with
    | some (a, st, run) => put (put (put m o 8 a) (o + 8) 4 st) (o + 12) 4 run
    | none => put m (o + 8) 4 0xFFFFFFFF) m
  let crc := crcSparse 0xFFFFFFFF m 0x40 0x7C0 ^^^ 0xFFFFFFFF#32
  let head := put (put [] 0 4 (core + 2 ^ 16 + bit acc * 2 ^ 17 + bit x.halted * 2 ^ 18)) 4 4 crc.toNat
  head ++ m ++ x.descMem.map (fun e => (e.1 + 0x1000, e.2)) ++
    (if acc then (accImage s core).map (fun e => (e.1 + 0x9000, e.2)) else []) ++ x.ts.map (fun e => (e.1 + 0x14000, e.2))

/-! ### Slot headers -/

/-- The header part of a slot, its first 0x4000 bytes, when it can be read. -/
def readHeader (s : State) (x : Ctx) (k : Nat) : Option (SMap Byte) :=
  (readSparse s (headDie x) x.part (slotAt x k) 0x4000).toOption

def headerWord (m : SMap Byte) (off : Nat) : Nat := memNum m off 4
def headerCores (m : SMap Byte) : Nat := min (fieldOf (headerWord m 4) 0 13) 4096

/-- The header CRC covers bytes 0 to 0x17 and the core list (R170). -/
def headerCrc (m : SMap Byte) : Word :=
  crcSparse (crcSparse 0xFFFFFFFF m 0 0x18) m 0x2000 (2 * headerCores m) ^^^ 0xFFFFFFFF#32

def headerComplete (m : SMap Byte) : Bool := headerWord m 0x18 == (headerCrc m).toNat

/-- Slot `k` with its header, when the header can be read and is complete. A header that cannot be read makes the slot not complete
(DESIGN CHOICE, notes/assumptions/119.md). -/
def completeSlot (k : Nat) (h : Option (SMap Byte)) : Option (Nat × SMap Byte) :=
  match h with
  | some m => if headerComplete m then some (k, m) else none
  | none => none

/-- The newer of the complete slots: SAVE_SEQ is compared modulo 2^32 (R170). -/
def newerSlot (a b : Option (Nat × SMap Byte)) : Option (Nat × SMap Byte) :=
  match a, b with
  | none, b => b
  | a, none => a
  | some a, some b =>
    if (headerWord b.2 8 + 2 ^ 32 - headerWord a.2 8) % 2 ^ 32 < 2 ^ 31 && headerWord b.2 8 != headerWord a.2 8 then some b
    else some a

/-- The newest complete slot: its index and header (R170). -/
def newestSlot (s : State) (x : Ctx) : Option (Nat × SMap Byte) :=
  newerSlot (completeSlot 0 (readHeader s x 0)) (completeSlot 1 (readHeader s x 1))

def headerList (m : SMap Byte) : List Nat := (List.range (headerCores m)).map (fun i => memNum m (0x2000 + 2 * i) 2)

/-- Reserved bits and bytes of a slot header that are not 0 (Table 56). -/
def headerReserved (m : SMap Byte) : Bool :=
  fieldOf (headerWord m 0) 21 11 != 0 || fieldOf (headerWord m 4) 13 19 != 0 || fieldOf (headerWord m 12) 4 12 != 0 ||
    m.any (fun e => 0x1C ≤ e.1 && e.1 < 0x2000)

/-- The slot checks of R172. -/
def slotFail (c : Nat) (x : Ctx) (m : SMap Byte) : Option Code :=
  inOrder [(headerReserved m, .reservedSet), (fieldOf (headerWord m 0) 0 8 != 1, .badField),
    (fieldOf (headerWord m 0) 8 8 != c || fieldOf (headerWord m 0) 16 4 != x.part ||
      fieldOf (headerWord m 4) 0 13 != x.cores.length || headerList m != x.cores, .badField)]

/-! ### Record checks (R172) -/

/-- Reserved bits and bytes of a record that are not 0. `host` marks an image of KIND 0, whose bytes 0x80 to 0x8B are ignored. -/
def recordReserved (m : SMap Byte) (host : Bool) : Bool :=
  let w := fun (o : Nat) => memNum m o 4
  let out := fun (k : Nat) =>
    (8 ≤ k && k < 0x40) || (0x60 ≤ k && k < 0x80) || (0x8C ≤ k && k < 0xA0) || (0xB4 ≤ k && k < 0xC0) ||
      (0x800 ≤ k && k < 0x1000) || (0x11040 ≤ k && k < 0x14000) ||
      (0x9000 ≤ k && k < 0x11040 && !bitOf (w 0) 17) || (0x14000 ≤ k && !bitOf (w 0) 16)
  m.any (fun e => out e.1) || fieldOf (w 0) 12 4 != 0 || fieldOf (w 0) 19 13 != 0 ||
    fieldOf (w 0x44) 8 24 != 0 || fieldOf (w 0x40) 0 4 != 0 || fieldOf (w 0x4C) 8 24 != 0 || fieldOf (w 0x48) 0 5 != 0 ||
    (List.range 4).any (fun i => fieldOf (w (0x50 + 4 * i)) 24 8 != 0) ||
    (!host && (fieldOf (w 0x80) 1 31 != 0 || fieldOf (w 0x84) 5 27 != 0)) ||
    fieldOf (w 0xA0) 26 6 != 0 || fieldOf (w 0xA4) 10 21 != 0 || fieldOf (w 0xB0) 24 6 != 0 || fieldOf (w 0xB0) 10 4 != 0 ||
    (List.range 4).any (fun i =>
      let o := 0xC0 + 16 * i
      fieldOf (w o) 26 6 != 0 || fieldOf (w (o + 4)) 12 4 != 0 || fieldOf (w (o + 4)) 21 3 != 0 ||
        fieldOf (w (o + 4)) 30 2 != 0 || fieldOf (w (o + 8)) 29 2 != 0 || fieldOf (w (o + 8)) 16 8 != 0 || w (o + 12) != 0) ||
    (List.range 48).any (fun i =>
      let o := 0x100 + 16 * i
      let k := w (o + 8)
      fieldOf k 0 7 != 0 || fieldOf k 14 18 != 0 || (!bitOf k 7 && (fieldOf k 8 6 != 0 || fieldOf (w (o + 4)) 16 16 != 0)))

/-- The checks a core makes of its own record. -/
def recordFail (core : Nat) (m : SMap Byte) (host : Bool) : Option Code :=
  inOrder [(fieldOf (memNum m 0 4) 0 12 != core, .badField), (recordReserved m host, .reservedSet),
    (memNum m 4 4 != (crcSparse 0xFFFFFFFF m 0x40 0x7C0 ^^^ 0xFFFFFFFF#32).toNat, .checkFailed),
    ((List.range 64).any (fun i => let st := memNum m (0x408 + 16 * i) 4; decide (2 < st) && st != 0xFFFFFFFF), .badField)]

/-! ### Restore -/

/-- Milestone i of a record. -/
def recordMile (m : SMap Byte) (i : Nat) : Mile :=
  let o := 0x100 + 16 * i
  let k := memNum m (o + 8) 4
  { value := BitVec.ofNat 32 (memNum m o 4), gen := BitVec.ofNat 32 (memNum m (o + 4) 4), barrier := bitOf k 7,
    relMs := fieldOf k 8 6, last := BitVec.ofNat 32 (memNum m (o + 12) 4) }

/-- Combine slot i of a record; contributions noted as received have all their segments. -/
def recordSlot (m : SMap Byte) (i : Nat) : Combine :=
  let o := 0xC0 + 16 * i
  let r := memNum m (o + 8) 4
  let w0 := memNum m o 4
  let w1 := memNum m (o + 4) 4
  let c := cmbDesc w0 w1
  { isOpen := bitOf r 31, w0 := w0, w1 := w1,
    got := (List.range 16).flatMap (fun j => if bitOf r j then (List.range c.len).map (fun g => (j, g)) else []) }

/-- SR_STATE of a core of a new context (R342). -/
def seedOf (x : Ctx) (core : Nat) : Word :=
  let v : Word := x.seed + 0x9E3779B9#32 * BitVec.ofNat 32 (core + 1)
  if !x.seedEn || v = 0 then 0x9E3779B9 else v

/-- Loads a record onto its logical core (R171). On a replay as many OTHER_CHIP ADDs as were acknowledged are not sent again (R359).
A read of SR_STATE before the next conversion completes returns the state of the image, even one of the middle of a conversion (R58;
DESIGN CHOICE, notes/assumptions/117.md). -/
def loadRecord (s : State) (c core : Nat) (m : SMap Byte) (host : Bool) (seq : Nat) (replay : Bool) : State :=
  let x := getCtx s c
  let w := fun (o : Nat) => BitVec.ofNat 32 (memNum m o 4)
  let acc := bitOf (memNum m 0 4) 17
  let halted := bitOf (memNum m 0 4) 18
  let tiles := fieldOf (memNum m 0x9000 4) 8 8
  let crcOk := memNum m 0x9008 4 == (crcSparse 0xFFFFFFFF m 0x9040 (min tiles 8 * 4096) ^^^ 0xFFFFFFFF#32).toNat
  modCore s core (fun y => { y with
    ctx := some c, runState := if halted then 4 else 1, pc := memNum m 0x40 5, tdSrc := memNum m 0x48 5,
    loops := (List.range 4).map (fun i => memNum m (0x50 + 4 * i) 3), saveSeq := BitVec.ofNat 32 seq, lines := [],
    window := [], nextId := 0, closed := halted, halted := halted, haltAt := s.odometer, heldReject := none, reject := none,
    resume := (List.range 64).filterMap (fun i =>
      let o := 0x400 + 16 * i
      if memNum m (o + 8) 4 == 0xFFFFFFFF then none else some (memNum m o 5, memNum m (o + 8) 4, memNum m (o + 12) 4)),
    reloop := false, vxStopped := false, descMem := sliceBytes m 0x1000 0x8000,
    flush := if host then x.flush else bitOf (memNum m 0x80 4) 0,
    arithStat := if host then 0 else BitVec.ofNat 5 (memNum m 0x84 4),
    srState := if host then seedOf x core else w 0x88, srSeen := if host then seedOf x core else w 0x88,
    lrPos := w 0xA0, lrPass := w 0xA4, lrFill := w 0xA8, lrFree := w 0xAC, opPos := w 0xB0, accIn := [], lr := {},
    op := { acc := if acc then (List.range (min tiles 8 * 1024)).map (fun i => (i, w (0x9040 + 4 * i))) else [] },
    opHead := if acc then (List.range 16).map (fun i => memNum m (0x9000 + 4 * i) 4) ++ [bit crcOk] else [],
    ts := if bitOf (memNum m 0 4) 16 then sliceBytes m 0x14000 0x30000 else [],
    slots := (List.range 4).map (fun i => (i, recordSlot m i)), miles := (List.range 48).map (fun i => (i, recordMile m i)),
    reqs := [], shadow := [], misses := [], remoteAcked := if replay then y.remoteAcked else 0,
    remoteSkip := if replay then y.remoteAcked else 0, parkedAt := none, lent := false, rampAt := if y.step == 0 then s.odometer else y.rampAt, progress := [], missedPolls := 0,
    residency := ((c, s.odometer, 0) :: y.residency).take 8 })

/-- Segments of a partly sent ORDERED contribution stand staged at its destination; the sender's RUN tells how many (R130,
R171). -/
def regather (s : State) (core : Nat) : State :=
  let x := getCore s core
  x.resume.foldl (fun s r =>
    if r.2.1 != 1 then s
    else match readRangeAt s (dieOfCore core) (partOfCore s core) r.1 16 with
      | .error _ => s
      | .ok b =>
        let i := leNat b
        if iEngine i == 4 && iOpcode i == 3 then
          let d := accDesc (tdWords x (iTd i) 16)
          modCore s d.core (fun y =>
            let k := look y.slots d.slot {}
            let got := k.got ++ (List.range r.2.2).map (fun g => (d.index, g))
            { y with slots := store y.slots d.slot ({ k with got := got }) })
        else s) s

/-- Logged or held signals applied at restore; one that meets BARRIER mode stops and gives the fault's core and source, and the
signals behind it (R188). A held signal that is applied is logged as it would have been while the context ran, `fresh` set (R358);
SOURCE 0xB is not. -/
def applySignals (s : State) (fresh : Bool) : List Held → State × Option (Nat × Nat × List Held)
  | [] => (s, none)
  | h :: l =>
    let (s, ok) := signalMs s h.core h.ms h.inc.toNat h.last
    if ok then applySignals (if fresh && fieldOf h.last.toNat 0 4 != 0xB then logHeld s h else s) fresh l
    else (s, some (h.core, fieldOf h.last.toNat 4 12, l))

/-- A list back at its position at the newest complete image. -/
def rewindList (l : KList) : KList :=
  { l with pos := l.saved.map (fun p => (p.1, { desc := p.2.desc })), stopped := false }

/-- Kerbside lists go back to their positions at the newest complete image, the lists that have finished since it with them; the
done lists keep in-place shares from running twice, and other shares run again from their first block (R239, R240, R358). The
lists of one slot are walked one after another, in the order in which they were armed. -/
def rewindLists (s : State) (c : Nat) : State :=
  modCtx s c (fun x =>
    let all := (x.past ++ x.lists ++ x.again).map (fun e => (e.1, rewindList e.2))
    let first := fun slot => all.find? (fun e => e.1 == slot)
    let rest := fun slot => (all.filter (fun e => e.1 == slot)).drop 1
    { x with
      past := []
      again := (List.range 4).flatMap rest
      lists := (List.range 4).filterMap first })

/-- Paused lists go on when the context runs (R240). -/
def resumeLists (s : State) (c : Nat) : State :=
  modCtx s c (fun x => { x with lists := x.lists.map (fun e => (e.1, { e.2 with paused := false })) })

/-- The restore from a slot's image, or from none, with all its checks (R172): the state with every core loaded, or the code and the
core to name. A record that cannot be read ends it with the code of the read (DESIGN CHOICE, notes/assumptions/119.md). -/
def restoreFrom (s : State) (c : Nat) (replay : Bool) (image : Option (Nat × SMap Byte)) : Except (Code × Nat) State :=
  let x := getCtx s c
  let first := x.cores.headD 0
  match image with
  | none => .error (.checkFailed, first)
  | some (k, h) =>
    match slotFail c x h with
    | some f => .error (f, first)
    | none =>
      let host := fieldOf (headerWord h 12) 0 4 == 0
      let r := (List.range x.cores.length).foldl (fun (acc : Except (Code × Nat) (List (Nat × SMap Byte))) j =>
        match acc with
        | .error e => .error e
        | .ok l =>
          let core := nth x.cores j
          match readSparse s (dieOfCore core) x.part (slotAt x k + 0x10000 + j * recordSize) recordSize with
          | .error e => .error (e.1, core)
          | .ok m =>
            match recordFail core m host with
            | some f => .error (f, core)
            | none => .ok (l ++ [(core, m)])) (.ok [])
      match r with
      | .error e => .error e
      | .ok l =>
        let s := l.foldl (fun s e => loadRecord s c e.1 e.2 host (headerWord h 8) replay) s
        .ok (x.cores.foldl regather s)

/-- The restore of a context's newest complete image. -/
def restoreImage (s : State) (c : Nat) (replay : Bool) : Except (Code × Nat) State :=
  restoreFrom s c replay (newestSlot s (getCtx s c))

/-- The fault record of a failed restore (R172). -/
def restoreFault (s : State) (c : Nat) (e : Code × Nat) : State := recordFault s e.2 4 0 e.1.num (some c) 0 0 0

/-- The held signals of a context, and the queues without them (R188). -/
def heldOf (s : State) (c : Nat) : List Held := (List.range 4).flatMap (fun d => (look s.heldQ d []).filter (fun h => h.ctx == c))
def dropHeld (s : State) (c : Nat) : State :=
  { s with heldQ := s.heldQ.map (fun e => (e.1, e.2.filter (fun h => h.ctx != c))) }

/-- A held signal that has still to be applied stays in its die's queue. DESIGN CHOICE (notes/assumptions/139.md): the one that met
BARRIER mode is spent. -/
def holdAgain (s : State) (h : Held) : State :=
  { s with heldQ := store s.heldQ (dieOfCore h.core) (look s.heldQ (dieOfCore h.core) [] ++ [h]) }

/-- A context runs, from an image or on in place: logged changes on a replay, then held signals are applied before any of its
instructions starts (R188, R358); a rejection in effect with an empty window, or a halt of every core, then has its effect (R154,
R157). -/
def goRunning (s : State) (c : Nat) (logged : List Held) : State :=
  let s := resumeLists (modCtx s c (fun x => { x with state := .running, saving := none })) c
  match applySignals s false logged with
  | (s, some (core, src, _)) => coreFault s core 0xF Code.wrongState.num false 0 src 0
  | (s, none) =>
    match applySignals (dropHeld s c) true (heldOf s c) with
    | (s, some (core, src, rest)) => coreFault (rest.foldl holdAgain s) core 0xF Code.wrongState.num false 0 src 0
    | (s, none) =>
      let s := (List.range 4).foldl (fun s d => logLimit s d c) s
      let s := (getCtx s c).cores.foldl (fun s k => checkReject (settle s k) k) s
      checkDone s c

/-- After a restore the context runs. -/
def enterRunning (s : State) (c : Nat) (replay : Bool) : State :=
  let logged := if replay then (List.range 4).flatMap (fun d => (look s.replayLog d []).filter (fun h => h.ctx == c)) else []
  goRunning (modCtx s c (fun x => { x with replay := 0, hwCores := [], stallAt := none })) c logged

/-- A context enters HALTED without an image of its own (R172, R360). -/
def enterHalted (s : State) (c code core : Nat) : State :=
  completeRun (modCtx (vacate s c) c (fun x => { x with state := .halted, saving := none, replay := 0, hwCores := [] })) c code core

/-- R357 step 4: the restored context runs again, or the context halts. -/
def replayWith (s : State) (c : Nat) (r : Except (Code × Nat) State) : State :=
  match r with
  | .error e => enterHalted (restoreFault s c e) c e.1.num e.2
  | .ok t =>
    let x := getCtx s c
    if 3 ≤ x.faults then enterHalted t c x.faultCode x.faultCore
    else enterRunning (bump32 (rewindLists t c) pgAtlas 0x08C 1) c true

/-- R357 step 4: the newest complete image is restored. -/
def doReplay (s : State) (c : Nat) : State :=
  let s := (getCtx s c).cores.foldl shadowAbandon s
  replayWith s c (restoreImage s c true)

/-! ### Phase 1 and phase 2 (R167 to R169) -/

/-- The engines of a core have stopped: no started TD_LOAD, LR, OP and VX at their stop points, every request settled. -/
def enginesStopped (x : Core) : Bool :=
  !x.window.any (fun e => isSeqOp e 5 && e.st == 1) && (x.lr.ent.isNone || x.lr.stopped) &&
    (x.op.ent.isNone || x.op.stopped) && ((vxEnt x).isNone || x.vxStopped) && x.reqs.all (fun r => r.2.isNone)

/-- A core has stopped: its engines have, and every message is answered. -/
def coreStopped (x : Core) : Bool :=
  enginesStopped x && (match msEnt x with | some e => e.sent == 0 && !(arriveWaits e && e.sat) | none => true)

/-- A core waits in phase 1 for an awaited ADD to another chip, and for nothing else (R169). -/
def awaitsAdd (x : Core) : Bool :=
  enginesStopped x && (match msEnt x with | some e => e.sent != 0 && iOpcode e.ins == 1 && (msDesc e.td).otherChip | none => false)

/-- The 1 ms of a pre-emption has passed, its waits for awaited ADDs apart (R167, R169). -/
def saveLate (s : State) (x : Ctx) (v : Saving) : Bool :=
  (v.kind != 1 || x.preemptPost.isSome) && decide (v.start + v.waited + msNs < s.odometer)

/-- A message in flight within the chip concerns a core of the set. -/
def concerns (l : List Nat) (m : Msg) : Bool :=
  match m.body with
  | .localAdd a b _ _ => l.contains a || l.contains b
  | .localAck a _ => l.contains a
  | .arrive a b _ _ => l.contains a || l.contains b
  | .release _ b _ => l.contains b
  | .acc a b _ _ _ _ _ _ => l.contains a || l.contains b
  | .accOrd a b _ _ _ _ _ _ => l.contains a || l.contains b
  | .accAck a _ _ => l.contains a
  | _ => false

/-- Phase 1 is done on every core, and every kerbside list is paused (R130, R167, R187, R240). -/
def phase1Done (s : State) (c : Nat) : Bool :=
  let x := getCtx s c
  x.cores.all (fun k => coreStopped (getCore s k) && !(getPage s (pgCore k)).moving) && !(inFlight s).any (concerns x.cores) &&
    x.lists.all (fun e => !e.2.armed || e.2.paused)

/-- The slot beside the one that holds the newest complete image. -/
def slotBeside (h : Option (Nat × SMap Byte)) : Nat :=
  match h with
  | some (0, _) => 1
  | _ => 0

/-- The slot an image is written to: the one without the newest complete image. -/
def freeImageSlot (s : State) (c : Nat) : Nat := slotBeside (newestSlot s (getCtx s c))

/-- An image write that fails faults the context (R168). DESIGN CHOICE (notes/assumptions/118.md): the fault record stands on the
context's lowest-numbered core with KIND FAULT and no engine. -/
def imageFault (s : State) (c : Nat) (f : Code) : State :=
  coreFault s ((getCtx s c).cores.headD 0) 0xF f.num false 0 0 0

/-- The first of two failures. -/
def orCode (a : Option Code) (r : State × Option Code) : State × Option Code :=
  match a with | some c => (r.1, some c) | none => r

/-- Bytes of an image that are no core's own, which the lowest-numbered core's die writes (R216). DESIGN CHOICE
(notes/assumptions/126.md). -/
def writeHeader (s : State) (x : Ctx) (base : Nat) (l : List Byte) : State × Option Code :=
  let r := writeRangeAt s (headDie x) x.part base l
  (dropOwn r.1 (headDie x) x.part base l.length, r.2.map (fun e => e.1))

/-- Every core record of an image that begins at `base`; the first failure met. -/
def writeRecords (t : State × Option Code) (x : Ctx) (base : Nat) : State × Option Code :=
  (List.range x.cores.length).foldl (fun t j =>
    let at_ := base + 0x10000 + j * recordSize
    let core := nth x.cores j
    let r := orCode t.2 (writeSparse t.1 (dieOfCore core) x.part at_ recordSize (recordOf t.1 core))
    (dropOwn r.1 (dieOfCore core) x.part at_ recordSize, r.2)) t

/-- PREEMPT_PHASE1_DONE: phase 2 writes every core record. The header of the slot is cleared first, so the slot is not complete
while it is written. -/
def execPreemptPhase1Done (c : CtxId) (s : State) : Result :=
  let x := getCtx s c
  .next (match x.saving with
    | none => s
    | some v =>
      if x.state != .saving || v.phase2 || !phase1Done s c || !imageReady s x then s
      else
        let base := slotAt x (freeImageSlot s c)
        let r := writeRecords (writeHeader s x base (List.replicate 0x20 0)) x base
        match r.2 with
        | some f => imageFault r.1 c f
        | none => modCtx r.1 c (fun x => { x with saving := some { v with phase2 := true } }))

/-- The header bytes of a context's next image. -/
def newHeader (s : State) (c : Nat) (v : Saving) : List Byte :=
  let x := getCtx s c
  let seq := match newestSlot s x with | some (_, h) => headerWord h 8 + 1 | none => 0
  let head := leBytes 4 (1 + c * 256 + x.part * 65536 + bit (v.after == 3) * 2 ^ 20) ++ leBytes 4 x.cores.length ++ leBytes 4 seq ++
    leBytes 4 (v.kind + v.tag * 65536) ++ leBytes 8 s.odometer
  let list := x.cores.flatMap (leBytes 2)
  let crc := crcMore (crcMore 0xFFFFFFFF head) list ^^^ 0xFFFFFFFF#32
  head ++ leBytes 4 crc.toNat ++ List.replicate (0x2000 - 0x1C) 0 ++ list

/-- What a complete image releases: logged changes, counted ADDs and faults, done list entries the image has passed (R239, R358,
R359, R360). -/
def imageReleases (s : State) (c : Nat) : State :=
  let s := { s with replayLog := s.replayLog.map (fun e => (e.1, e.2.filter (fun h => h.ctx != c))) }
  let seq := match newestSlot s (getCtx s c) with | some (_, h) => headerWord h 8 | none => 0
  let s := (getCtx s c).cores.foldl (fun s k => modCore s k (fun x => { x with remoteAcked := 0, saveSeq := BitVec.ofNat 32 seq })) s
  let s := modCtx s c (fun x => { x with
    faults := 0, saveSeq := BitVec.ofNat 32 seq, imageAt := s.odometer,
    past := [],
    lists := x.lists.map (fun e => (e.1, { e.2 with saved := e.2.pos })) })
  let x := getCtx s c
  { s with kerbs := s.kerbs.map (fun e => (e.1, { e.2 with done := e.2.done.filter (fun d =>
      d.ctx != c ||
        (x.lists ++ x.again).any (fun l =>
          l.1 == d.slot && l.2.seq == d.seq && decide ((look l.2.pos e.1 {}).desc ≤ d.desc))) })) }

/-- The context runs on in place after its image: engines go on from where they stopped, and what was abandoned starts anew (R166,
R169, R183, R358). -/
def runOn (s : State) (c : Nat) : State :=
  goRunning ((getCtx s c).cores.foldl (fun s k => wakeEngines (modCore s k (fun x => { x with
    runState := if x.halted then 4 else 1, vxStopped := false, lr := { x.lr with stopped := false },
    op := { x.op with stopped := false }, window := x.window.map stopEnt })) k) s) c []

/-- The context leaves its cores IDLE after a pre-emption: RUN completes before PREEMPT (R343). -/
def leaveIdle (s : State) (c : Nat) : State :=
  let s := modCtx (vacate s c) c (fun x => { x with state := .idle, saving := none })
  completePreempt (completeRun s c 0 (2 ^ 16)) c 0 0

/-- Every comparison of the context's passes has completed (R368). -/
def shadowsDone (s : State) (c : Nat) : Bool := !s.hide.shadows.any (fun r => r.ctx == c && r.ended)

/-- IMAGE_COMPLETE: the header is written, and what the image was for follows (R167, R168). -/
def execImageComplete (c : CtxId) (s : State) : Result :=
  let x := getCtx s c
  .next (match x.saving with
    | none => s
    | some v =>
      if x.state != .saving || !v.phase2 || 5 ≤ v.after || saveLate s x v || !shadowsDone s c || !imageReady s x then s
      else
        let base := slotAt x (freeImageSlot s c)
        let (s, f) := writeHeader s x base (newHeader s c v)
        match f with
        | some f => imageFault s c f
        | none =>
          let s := imageReleases s c
          if v.after == 3 then
            completePreempt (enterHalted s c v.haltCode v.haltCore) c Code.wrongState.num 0
          else if x.preemptPost.isSome || v.after == 0 || s.hide.draining then leaveIdle s c
          else if v.after == 4 then
            startTest (modCtx (vacate s c) c (fun x => { x with saving := some { v with after := 5 } })) (siteOf s v.haltCore) 4 v.haltCore
          else runOn s c)

end Sys2Proof.Machine
end

