-- ==== Sys2Proof/Machine/Posts.lean ====
section
/-!
DEFINITION. The post controller (chapter 17): arrival and acceptance of posts, credits, taking, notices and their records, the
posts NOTICE_AREA, WINDOW, CREATE, PREEMPT, SIGNAL, FLUSH and PART_SET, and BAR4.
-/
namespace Sys2Proof.Machine

/-! ### Fields of a post (Table 95) -/

def postSeq (d : List Byte) : Nat := numAt d 0 2
def postOp (d : List Byte) : Nat := numAt d 2 1
def postFlags (d : List Byte) : Nat := numAt d 3 1
def postNread (d : List Byte) : Nat := numAt d 4 2
def postRef (d : List Byte) : PostRef := { seq := postSeq d, cookie := numAt d 8 8, quiet := bitOf (postFlags d) 0 }
/-- A frame address field: 40 bits of 8 bytes. -/
def postAddr (d : List Byte) (o : Nat) : Nat := numAt d o 5

/-- Table 96. -/
def definedOps : List Nat :=
  [0x00, 0x01, 0x02, 0x08, 0x09, 0x0A, 0x0B, 0x0C, 0x0D, 0x10, 0x12, 0x13, 0x14, 0x15, 0x20, 0x21, 0x22, 0x23, 0x24]

/-- R341: NOP, NOTICE_AREA, WINDOW and the management opcodes. -/
def alwaysOp (op : Nat) : Bool := [0x00, 0x01, 0x02, 0x20, 0x21, 0x22, 0x23, 0x24].contains op

/-- Reserved header bits (R340). -/
def headReserved (d : List Byte) : Bool := numAt d 6 2 != 0 || decide (2 ≤ postFlags d)

/-- A byte of the body outside the ranges (offset, length) that the opcode uses is not 0. -/
def bodyReserved (d : List Byte) (used : List (Nat × Nat)) : Bool :=
  (List.range 48).any (fun i =>
    let o := 16 + i
    !used.any (fun u => decide (u.1 ≤ o ∧ o < u.1 + u.2)) && numAt d o 1 != 0)

/-- The RESERVED_SET check of a post, and NOT_OWNER of a management post (R340). -/
def postChecks (d : List Byte) (used : List (Nat × Nat)) : List (Bool × Code) :=
  [(headReserved d || bodyReserved d used, .reservedSet)]

def mgmtCheck (s : State) (c : Nat) : Bool × Code := (ctxPart s c != 0, .notOwner)

/-! ### Arrival (R337 to R339) -/

def rejectPost (s : State) (p c : Nat) (code : Code) (seq cookie : Nat) : State :=
  let x := getCtx s c
  queueNotice s p
    { typ := 2, code := code.num, seq := seq, ctx := some c, odo := BitVec.ofNat 64 s.odometer, arg0 := cookie,
      arg1 := x.expSeq + x.credits * 65536 }

/-- R337's checks in their order. -/
def arrivalFail (s : State) (p c off : Nat) (d : List Byte) : Option Code :=
  let x := getCtx s c
  let op := postOp d
  inOrder [(off % 64 != 0 || d.length != 64, .align), (x.part != p, .notOwner),
    (s.hide.draining && !alwaysOp op, .fenced), (!s.boot.ready && !alwaysOp op, .wrongState),
    (postSeq d != x.expSeq, .sequence), (x.credits == 0 && op != 0, .noSpace)]

/-- NREAD is taken when it lies ahead of READ and not beyond WRITTEN (R348). -/
def takeNread (s : State) (p n : Nat) : State :=
  modPart s p (fun x =>
    let a := (n + 65536 - x.read) % 65536
    if 0 < a && decide (a ≤ (x.written + 65536 - x.read) % 65536) then { x with read := n } else x)

/-- A credit returns when its post is taken (R339). -/
def returnCredit (s : State) (c : Nat) : State :=
  modCtx s c (fun x => { x with
    credits := x.credits + 1, owed := x.owed + 1, owedAt := if x.owed == 0 then s.odometer else x.owedAt })

/-- Posts of undefined opcodes at the front are taken and end at once (R340, R341). -/
def endUndefined (s : State) (c n : Nat) : State :=
  match n with
  | 0 => s
  | n + 1 =>
    match (getCtx s c).posts with
    | [] => s
    | q :: rest =>
      if definedOps.contains (postOp q.data) then s
      else
        let s := addEvent (returnCredit (modCtx s c (fun x => { x with posts := rest })) c) pgPost 1
        let code := if headReserved q.data then Code.reservedSet else Code.badField
        endUndefined (completePost s c (postRef q.data) code.num 0) c n

def endUndefinedAll (s : State) (c : Nat) : State := endUndefined s c (getCtx s c).posts.length

/-- The module is in DOZE, on its way there or on its way out (R403). -/
def inDoze (s : State) : Bool := s.power.state == .doze || s.power.entering.isSome || s.power.leaving.isSome

/-- BAR4 accesses of a function wait for their channels: none of its posts is taken before them (R249). -/
def bar4Waits (s : State) (p : Nat) : Bool :=
  s.bar4Q.any (fun a => match a with | .read q _ _ => q == p | .write q _ _ => q == p)

/-- The next accepted post of a context is taken when its opcode is `op` (R340), behind its function's BAR4 accesses (R249); in DOZE a
context-class post ends with WRONG_STATE (R403). -/
def takePost (s : State) (c op : Nat) (act : State → PostRef → List Byte → State) : State :=
  match (getCtx s c).posts with
  | [] => s
  | q :: rest =>
    if postOp q.data != op || bar4Waits s (ctxPart s c) then s
    else
      let s := addEvent (returnCredit (modCtx s c (fun x => { x with posts := rest })) c) pgPost 1
      if inDoze s && !alwaysOp op then endUndefinedAll (completePost s c (postRef q.data) Code.wrongState.num 0) c
      else endUndefinedAll (act s (postRef q.data) q.data) c

/-- As takePost, when the channels that the post's work reaches serve; the post waits at the front until they do (R211, R223). -/
def takePostIf (s : State) (c op : Nat) (ready : List Byte → Bool) (act : State → PostRef → List Byte → State) : State :=
  match (getCtx s c).posts with
  | [] => s
  | q :: _ => if postOp q.data == op && !ready q.data then s else takePost s c op act

/-- A post that passed its checks is accepted; NOP is taken on arrival (R339). -/
def acceptPost (s : State) (p c : Nat) (d : List Byte) : State :=
  let s := takeNread s p (postNread d)
  let s := modCtx s c (fun x => { x with expSeq := (x.expSeq + 1) % 65536 })
  if postOp d == 0 then
    completePost (addEvent s pgPost 1) c (postRef d)
      (if headReserved d || bodyReserved d [] then Code.reservedSet.num else 0) 0
  else
    endUndefinedAll (modCtx s c (fun x => { x with credits := x.credits - 1, posts := x.posts ++ [{ data := d }] })) c

def arrivePost (s : State) (p c off : Nat) (d : List Byte) : State :=
  if !hubPowered s then s
  else if !hubUp s || partReset s p then bump32 s pgPcie 0x048 1
  else
    match arrivalFail s p c off d with
    | some .align => rejectPost s p c .align 0 0
    | some f => rejectPost s p c f (postSeq d) (numAt d 8 8)
    | none => acceptPost s p c d

/-- POST_ARRIVAL. A write to BAR2 at 0x0010_0000 or above is discarded (R45). -/
def execPostArrival (p : PartId) (c : CtxId) (off : BitVec 16) (data : List Byte) (s : State) : Result :=
  .next (if 4096 ≤ off.toNat then s else arrivePost s p c off.toNat data)

/-- NOP: the arriving post's opcode is NOP. -/
def execNop (p : PartId) (c : CtxId) (off : BitVec 12) (data : List Byte) (s : State) : Result :=
  .next (if postOp data == 0 then arrivePost s p c off.toNat data else s)

/-! ### Notices (R346 to R350) -/

/-- CREDIT_NOTICE (R339): 2 µs without a notice for the context since a credit returned. -/
def execCreditNotice (c : CtxId) (s : State) : Result :=
  let x := getCtx s c
  .next (if 0 < x.owed && passed s x.owedAt (2 * usNs) then ctxNotice s c 3 0 0 0 0 else s)

def noticeClass (typ : Nat) : Nat :=
  if typ == 1 || typ == 3 then 0 else if typ == 2 then 1 else if typ == 4 then 2 else 3

def areaFull (x : Part) : Bool :=
  match x.area with
  | none => true
  | some a => (x.written + 65536 - x.read) % 65536 == 2 ^ a.log2

/-- The 32 bytes of a record (Table 97). -/
def recordBytes (p : Nat) (x : Part) (n : Notice) (credits : Nat) : List Byte :=
  leBytes 1 (n.typ + bit x.phase * 128) ++ leBytes 1 n.code ++ leBytes 2 n.seq ++ leBytes 1 (n.ctx.getD 0) ++
    leBytes 1 (p + bit x.lostFlag * 16 + bit n.ctx.isSome * 32) ++ leBytes 2 credits ++ leBytes 8 n.odo.toNat ++ leBytes 8 n.arg0 ++
    leBytes 8 n.arg1

/-- An MSI-X message, or its pending bit while the vector is masked (R350). -/
def sendMsix (s : State) (p v : Nat) : State :=
  let x := getPart s p
  if x.vecMask.getLsbD v then setPart s p { x with vecPend := x.vecPend ||| (1#8 <<< v) }
  else { s with hostLog := s.hostLog ++ [.msix p v] }

/-- The oldest queued notice is written to the area when there is room (R348, R350). -/
def dequeueNotice (s : State) (p : Nat) : State :=
  let x := getPart s p
  match x.area, x.queue with
    | some a, n :: rest =>
      if areaFull x then s
      else
        let mine := match n.ctx with | some c => ctxPart s c == p | none => false
        let c := n.ctx.getD 0
        let credits := if mine then (getCtx s c).owed else 0
        let s := if mine then modCtx s c (fun y => { y with owed := 0 }) else s
        let size := 2 ^ a.log2
        let w := HostWrite.record p (a.addr + 32 * (x.index % size)) (recordBytes p x n credits)
        let s := setPart { s with hostLog := s.hostLog ++ [w] } p { x with
          queue := rest, written := (x.written + 1) % 65536, index := (x.index + 1) % size,
          phase := if (x.index + 1) % size == 0 then !x.phase else x.phase, lostFlag := false }
        sendMsix s p (nth a.vec (noticeClass n.typ))
    | _, _ => s

/-- NOTICE_DEQUEUE. -/
def execNoticeDequeue (p : PartId) (s : State) : Result := .next (dequeueNotice s p)

/-- Every queued notice that there is room for is written. -/
def flushNotices (s : State) (p n : Nat) : State :=
  match n with
  | 0 => s
  | n + 1 => flushNotices (dequeueNotice s p) p n

/-- MSI_X_UNMASK (R350): a pending message of the vector is sent. -/
def execMsiXUnmask (p : PartId) (v : Fin 8) (s : State) : Result :=
  let x := getPart s p
  let s' := setPart s p { x with vecMask := x.vecMask &&& ~~~(1#8 <<< v.val), vecPend := x.vecPend &&& ~~~(1#8 <<< v.val) }
  .next (if x.vecPend.getLsbD v.val then { s' with hostLog := s'.hostLog ++ [.msix p v] } else s')

/-- NOTICE_AREA (R346): its COMPLETION is the first record of the new area, written at once where the queue has no entry left for it
(R348). -/
def execNoticeArea (c : CtxId) (s : State) : Result :=
  .next (takePost s c 0x01 (fun s r d =>
    let addr := numAt d 16 8
    let vec := (List.range 4).map (fun i => numAt d (25 + i) 1)
    match firstFail ([(addr % 4096 != 0, Code.align), (numAt d 24 1 < 6 || 15 < numAt d 24 1 || vec.any (fun v => 7 < v), .badField)] ++
        postChecks d [(16, 8), (24, 1), (25, 4)]) with
    | some f => completePost s c r f.num 0
    | none =>
      let p := ctxPart s c
      let s := modPart s p (fun x => { x with
        area := some { addr := addr, log2 := numAt d 24 1, vec := vec }, index := 0, phase := true, read := x.written })
      if r.quiet then s
      else
        let s := modPart s p (fun x => { x with
          queue := { typ := 1, seq := r.seq, ctx := some c.val, odo := BitVec.ofNat 64 s.odometer, arg0 := r.cookie } :: x.queue })
        if 1024 < (getPart s p).queue.length then dequeueNotice s p else s))

/-- WINDOW (R351). -/
def execWindow (c : CtxId) (s : State) : Result :=
  .next (takePost s c 0x02 (fun s r d =>
    match firstFail ([(decide (15 < numAt d 16 1), Code.badField)] ++ postChecks d [(16, 1)]) with
    | some f => completePost s c r f.num 0
    | none => completePost (modPart s (ctxPart s c) (fun x => { x with base := numAt d 16 1 })) c r 0 0))

/-! ### Context posts -/

/-- Strictly ascending. -/
def ascending (l : List Nat) : Bool :=
  match l with
  | a :: b :: t => decide (a < b) && ascending (b :: t)
  | _ => true

/-- How many cores an image area is sized for: those of its header, where one can be read. -/
def areaCores (h : Option (SMap Byte)) : Nat := match h with | some m => max 1 (headerCores m) | none => 1

/-- CREATE's checks of the post itself, with the slots that the area has to hold (R342). -/
def createFails (s : State) (c : Nat) (d : List Byte) : List (Bool × Code) :=
  let x := getCtx s c
  let area := postAddr d 16
  let n := areaCores (readHeader s { x with area := area } 0)
  [(area % 65536 != 0, Code.align)] ++ rangeFail s x.part area (2 * slotSize n) false ++
    postChecks d [(16, 5), (24, 1), (28, 4), (32, 4)] ++
    [(decide (4 ≤ numAt d 24 1), .reservedSet), (x.state != .free, .wrongState)]

/-- CREATE's checks of the image header, in their order (R342). -/
def createHeaderFail (s : State) (c : Nat) (m : SMap Byte) : Option Code :=
  let part := ctxPart s c
  let l := headerList m
  inOrder [(fieldOf (headerWord m 0) 0 8 != 1 || fieldOf (headerWord m 12) 0 4 != 0 || headerWord m 8 != 0 ||
        fieldOf (headerWord m 0) 8 8 != c || fieldOf (headerWord m 0) 16 4 != part || l.isEmpty ||
        4096 < fieldOf (headerWord m 4) 0 13 || !ascending l, Code.badField),
      (l.any (fun k => 4096 ≤ k || partOfCore s k != part), .notOwner), (!headerComplete m, .checkFailed)]

/-- The context that CREATE makes from a post and the core set of the image. -/
def createdCtx (s : State) (x : Ctx) (d : List Byte) (l : List Nat) : Ctx :=
  { x with
    area := postAddr d 16, state := .idle, cores := l, flush := bitOf (numAt d 24 1) 0, seedEn := bitOf (numAt d 24 1) 1,
    seed := BitVec.ofNat 32 (numAt d 28 4), jobTag := BitVec.ofNat 32 (numAt d 32 4), saveSeq := 0, imageAt := s.odometer,
    faults := 0 }

/-- The channels that CREATE reads the image's header from and clears the second slot's header in serve (R211). -/
def createReady (s : State) (c : Nat) (d : List Byte) : Bool :=
  let x := { getCtx s c with area := postAddr d 16 }
  rangeReady s x.part x.area 0x4000 && rangeReady s x.part (x.area + slotSize (areaCores (readHeader s x 0))) 0x2000

/-- CREATE (R342). -/
def createAct (s : State) (c : Nat) (r : PostRef) (d : List Byte) : State :=
  match firstFail (createFails s c d) with
  | some f => completePost s c r f.num 0
  | none =>
    match readSparse s hubDie (ctxPart s c) (postAddr d 16) 0x4000 with
    | .error e => completePost s c r e.1.num 0
    | .ok m =>
      match createHeaderFail s c m with
      | some f => completePost s c r f.num 0
      | none =>
        let l := headerList m
        let t := setCtx s c (createdCtx s (getCtx s c) d l)
        completePost (writeLater t hubDie (ctxPart s c) (postAddr d 16 + slotSize l.length) (List.replicate 0x2000 0)) c r 0 0

def execCreate (c : CtxId) (s : State) : Result :=
  .next (takePostIf s c 0x08 (createReady s c) (fun s r d => createAct s c r d))

/-- PREEMPT (R343): a SAVE under way becomes the pre-emption's image (R168). -/
def execPreempt (c : CtxId) (s : State) : Result :=
  .next (takePost s c 0x0A (fun s r d =>
    let x := getCtx s c
    let saving := match x.saving with | some v => x.state == .saving && v.kind == 1 && x.preemptPost.isNone | none => false
    match firstFail (postChecks d [] ++ [(x.state != .running && !saving, Code.wrongState)]) with
    | some f =>
      -- A request in the cycle in which the last core halts loses to the completion: a tie (R168).
      completePost (if f == .wrongState && x.doneAt == s.odometer + 1 then addTie s pgPost else s) c r f.num 0
    | none =>
      let s := modCtx s c (fun x => { x with preemptPost := some r })
      if saving then s else beginSave s c { kind := 2, tag := 0, start := 0, after := 0 }))

/-- SIGNAL (R344). -/
def execSignal (c : CtxId) (s : State) : Result :=
  .next (takePost s c 0x0C (fun s r d =>
    let core := numAt d 16 2
    let ms := numAt d 18 1
    let inc := numAt d 20 4
    match firstFail ([(!(getCtx s c).cores.contains core, Code.notOwner), (47 < ms || inc == 0, .badField)] ++
        postChecks d [(16, 2), (18, 1), (20, 4)]) with
    | some f => completePost s c r f.num 0
    | none =>
      let (s, o) := deliverSignal s c core ms inc (blockLast s 0 0xC) true
      completePost s c r (match o with
        | .applied => 0 | .held => 0 | .full => Code.noSpace.num | .barrier => Code.wrongState.num | .gone => Code.notOwner.num) 0))

/-- A flush joins a cache's queue: one runs after the other (R345). -/
def startFlush (s : State) (die : Nat) (f : RlcFlush) : State :=
  let c := getRlc s die
  match c.flush with
  | some _ => setRlc s die { c with waiting := c.waiting ++ [f] }
  | none =>
    dropLines (setRlc s die { c with flush := some f }) die (fun l => decide (f.lo ≤ l ∧ l < f.hi))

/-- FLUSH (R345). Frames exist up to address 2^40: what lies beyond is BAD_FIELD's. -/
def execFlush (c : CtxId) (s : State) : Result :=
  .next (takePost s c 0x0D (fun s r d =>
    let a := postAddr d 16
    let n := numAt d 24 4
    match firstFail ([(a % 128 != 0 || n % 128 != 0, Code.align), (n < 128 || 2 ^ 30 < n || 2 ^ 40 < a + n, .badField)] ++
        rangeFail s (ctxPart s c) a (min n (2 ^ 40 - a)) true ++ postChecks d [(16, 5), (24, 4)]) with
    | some f => completePost s c r f.num 0
    | none =>
      let s := modCtx s c (fun x => { x with flushes := x.flushes ++ [(r, [0, 1, 2, 3])] })
      (List.range 4).foldl (fun s d => startFlush s d { lo := a / 128, hi := (a + n) / 128, post := some c.val }) s))

/-- PART_SET (R334). -/
def execPartSet (c : CtxId) (s : State) : Result :=
  .next (takePostIf s c 0x20 (fun d => rangeReady s 0 (postAddr d 24) 512) (fun s r d =>
    let p := numAt d 16 1
    let first := numAt d 18 2
    let count := numAt d 20 2
    let addr := postAddr d 24
    let got := readRange s 0 addr 512
    let bits := match got with | .ok l => l | .error _ => []
    let unread := match got with | .ok _ => Code.done | .error e => e
    let inBits := fun (k : Nat) => bitOf (numAt bits (k / 8) 1) (k % 8)
    let inCtx := fun (k : Nat) => decide (first ≤ k ∧ k < first + count)
    let movesCtx := (List.range 256).filter (fun k => (ctxPart s k == p) != inCtx k)
    let movesCore := (List.range 4096).filter (fun k => unread == .done && (partOfCore s k == p) != inBits k)
    let busy := fun (k : Nat) => (List.range 256).any (fun j => (getCtx s j).state != .free && (getCtx s j).cores.contains k)
    match firstFail ([mgmtCheck s c, (p == 0 || 15 < p || 256 < first + count, Code.badField),
        (movesCtx.any (fun k => (getCtx s k).state != .free) || movesCore.any busy, .wrongState), (unread != .done, unread)] ++
        rangeFail s 0 addr 512 false ++ postChecks d [(16, 1), (18, 2), (20, 2), (24, 5)]) with
    | some f => completePost s c r f.num 0
    | none =>
      let s := movesCtx.foldl (fun s k => modCtx s k (fun x => { x with part := if inCtx k then p else 0 })) s
      let s := { s with corePart := movesCore.foldl (fun m k => if inBits k then store m k p else drop1 m k) s.corePart }
      completePost s c r 0 0))

/-! ### BAR4 (R351) -/

def bar4Addr (s : State) (p off : Nat) : Nat := (getPart s p).base * 2 ^ 36 + off

/-- Size of the load buffer (R416). -/
def loadBufferSize : Nat := 2 ^ 24

/-- A write through BAR4 of bytes inside one aligned 512-byte block: every poisoned granule stays as it is (R351; DESIGN CHOICE for
the granules beside it, notes/assumptions/145.md). -/
def bar4Block (s : State) (part addr : Nat) (l : List Byte) : State × Bool :=
  match (cacheFail s addr).or (accessFail s part addr) with
  | some _ => (s, false)
  | none =>
    let pl := placeOf s (frameEntry s (addr / 65536)) addr
    writeGranules s false pl.1 (physOf pl) (sealOf s part (addr / 512)) l

/-- A write through BAR4; whether all of it was accepted. -/
def bar4Store (s : State) (part addr : Nat) (l : List Byte) : State × Bool :=
  (pieces512 addr l.length).foldl (fun (t : State × Bool) p =>
    let (s, ok) := bar4Block t.1 part p.1 ((l.drop (p.1 - addr)).take p.2)
    (s, t.2 && ok)) (s, true)

/-- A BAR4 access is made (R351); nothing in DOZE (R403). -/
def bar4Do (s : State) (a : Bar4Acc) : State :=
  match a with
  | .read p off len =>
    if s.power.state != .on then bump32 { s with bar4 := .ones len } pgPcie 0x04C 1
    else match readRange s p (bar4Addr s p off) len with
      | .ok l => { s with bar4 := .data l }
      | .error .checkFailed => bump32 { s with bar4 := .poisoned } pgPcie 0x04C 1
      | .error _ => bump32 { s with bar4 := .ones len } pgPcie 0x04C 1
  | .write p off data =>
    if s.power.state != .on then bump32 s pgPcie 0x04C 1
    else
      let (s, ok) := bar4Store s p (bar4Addr s p off) data
      if ok then s else bump32 s pgPcie 0x04C 1

/-- The channels that a BAR4 access reaches serve it (R196, R211, R223). -/
def bar4Ready (s : State) (a : Bar4Acc) : Bool :=
  s.power.state != .on || (match a with
    | .read p off len => rangeReady s p (bar4Addr s p off) len
    | .write p off data => rangeReady s p (bar4Addr s p off) data.length)

/-- A BAR4 access is made, or joins those that wait: none passes another (R249). -/
def bar4Take (s : State) (a : Bar4Acc) : State :=
  if s.bar4Q.isEmpty && bar4Ready s a then bar4Do s a else { s with bar4Q := s.bar4Q ++ [a] }

/-- The waiting BAR4 accesses whose channels serve again are made, in their order. -/
def bar4Run (n : Nat) (s : State) : State :=
  match n with
  | 0 => s
  | n + 1 =>
    match s.bar4Q with
    | [] => s
    | a :: rest => if bar4Ready s a then bar4Run n (bar4Do { s with bar4Q := rest } a) else s

/-- BAR4_READ: the load buffer until an image is accepted (R416), and otherwise the window. -/
def execBar4Read (p : PartId) (off : BitVec 36) (len : Nat) (s : State) : Result :=
  .next (if !hubPowered s then s
    else if !s.boot.accepted then
      if p.val == 0 && decide (off.toNat + len ≤ loadBufferSize) then { s with bar4 := .data (loadBytes s.boot.buffer off.toNat len) }
      else { s with bar4 := .ones len }
    else bar4Take s (.read p off.toNat len))

/-- BAR4_WRITE. -/
def execBar4Write (p : PartId) (off : BitVec 36) (data : List Byte) (s : State) : Result :=
  .next (if !hubPowered s then s
    else if !s.boot.accepted then
      if p.val == 0 && decide (off.toNat + data.length ≤ loadBufferSize) && s.boot.verifying.isNone then
        { s with boot := { s.boot with buffer := storeBytes s.boot.buffer off.toNat data } }
      else bump32 s pgPcie 0x04C 1
    else bar4Take s (.write p off.toNat data))

end Sys2Proof.Machine
end

