-- ==== Sys2Proof/Machine/Drain.lean ====
section
/-!
DEFINITION. The drain (R370 to R373).
-/
namespace Sys2Proof.Machine

/-- Drain causes (Table 102). -/
def causeStack : Nat := 1
def causeResidue : Nat := 2
def causeShoulder : Nat := 3
def causeDie : Nat := 4
def causeBridge : Nat := 5
def causeShared : Nat := 6

/-- A post that a drain ends: taken with no action, FENCED, its credit back (R352). -/
def fencePosts (s : State) (c : Nat) : State :=
  let l := (getCtx s c).posts
  let s := modCtx s c (fun x => { x with posts := l.filter (fun q => alwaysOp (postOp q.data)) })
  (l.filter (fun q => !alwaysOp (postOp q.data))).foldl (fun s q =>
    completePost (addEvent (returnCredit s c) pgPost 1) c (postRef q.data) Code.fenced.num 0) s

/-- The start of a drain for one context (R371). -/
def drainCtx (s : State) (c : Nat) : State :=
  let x := getCtx s c
  match x.state with
  | .running => beginSave (completeRun s c Code.fenced.num 0) c { kind := 3, tag := 0, start := 0, after := 0 }
  | .faulted => completeRun s c Code.fenced.num 0
  | .saving =>
    match x.saving with
    | some v => if x.preemptPost.isNone && v.after != 3 then completeRun s c Code.fenced.num 0 else s
    | none => s
  | _ => s

/-- Bring-up ends drained (R421): PHASE DRAINED, and the DRAINED notice. -/
def endBootDrained (s : State) : State :=
  let s := { s with boot := { s.boot with phase := 7, phaseAt := s.odometer }, hide := { s.hide with drainDone := true } }
  chipNotice s { typ := 7, odo := BitVec.ofNat 64 s.odometer, arg0 := s.hide.drainPage }

/-- The drain begins, or a later cause is counted (R370, R371). -/
def beginDrain (s : State) (cause pg code : Nat) : State :=
  if s.hide.draining then bump32 s pgAtlas 0x070 1
  else
    let s := { s with hide := { s.hide with draining := true, drainAt := s.odometer, drainPage := pg * 4096 },
                      record := { s.record with replace := true, cause := if s.record.cause == 0 then cause else s.record.cause } }
    let s := recordStep s 9 code 0 0
    let s := raise s pgAtlas 3
    if s.boot.phase == 6 then
      let s := (List.range 256).foldl fencePosts s
      let s := (List.range 256).foldl drainCtx s
      (List.range 256).foldl abortRounds s
    else if s.boot.accepted then endBootDrained s
    else s

/-- The pending signals of a context, in the order of the dies: logged, then held. -/
def pendingSignals (s : State) (c : Nat) : List Held :=
  let mine := fun (l : SMap (List Held)) => (List.range 4).flatMap (fun d => (look l d []).filter (fun h => h.ctx == c))
  mine s.replayLog ++ mine s.heldQ

/-- A drain record (R373) without its bytes beyond the signal list, which are 0. -/
def drainRecord (s : State) (c : Nat) : SMap Byte :=
  let x := getCtx s c
  let h := pendingSignals s c
  let m : SMap Byte := put [] 0x0C 4 h.length
  let m := (List.range 768).foldl (fun m i =>
    let l := look x.lists (i / 192) {}
    let p := look l.pos (i % 192) {}
    put m (0x40 + 8 * i) 8 (if l.armed then l.seq + p.desc * 2 ^ 16 + p.block * 2 ^ 32 else 2 ^ 64 - 1)) m
  let m := (List.range h.length).foldl (fun m i =>
    match h[i]? with
    | some g =>
      put (put (put m (0x2000 + 16 * i) 4 (g.core + g.ms * 4096)) (0x2004 + 16 * i) 4 g.last.toNat) (0x2008 + 16 * i) 4 g.inc.toNat
    | none => m) m
  let seq := match newestSlot s x with | some (_, hd) => headerWord hd 8 | none => 0
  let crc := crcSparse 0xFFFFFFFF m 0x0C (0x2000 + 16 * h.length - 0x0C) ^^^ 0xFFFFFFFF#32
  put (put (put m 0 4 (1 + c * 256)) 4 4 seq) 8 4 crc.toNat

/-- Writes a context's drain record when every frame of its range is VALID in its partition. -/
def writeDrainRecord (s : State) (c : Nat) : State :=
  let x := getCtx s c
  let addr := x.area + 2 * slotSize x.cores.length
  if x.state == .free || (rangeFail s x.part addr 0x30000 false).any (fun e => e.1) then s
  else (writeSparse s (headDie x) x.part addr 0x30000 (drainRecord s c)).1

/-- The channels that the drain records reach serve (R196, R211). -/
def drainReady (s : State) : Bool :=
  allReady s || (List.range 256).all (fun c =>
    let x := getCtx s c
    x.state == .free || rangeReady s x.part (x.area + 2 * slotSize x.cores.length) 0x30000)

/-- What a context becomes when the images are complete or their time is over (R371). -/
def endDrainCtx (s : State) (c : Nat) : State :=
  let x := getCtx s c
  if x.state == .faulted || x.state == .running || x.state == .saving then
    let s := completePreempt (completeRun s c Code.fenced.num 0) c Code.timedOut.num 0
    modCtx (vacate (x.cores.foldl settleReqs s) c) c (fun x => { x with state := .idle, saving := none, replay := 0, hwCores := [] })
  else s

/-- DRAIN_COMPLETE: once every image is complete, or 1 ms has passed, the records are written and DRAINED is sent. Moves under
way complete first. -/
def execDrainComplete (s : State) : Result :=
  let busy := (List.range 256).any (fun c => (getCtx s c).state == .running || (getCtx s c).state == .saving)
  .next (if !s.hide.draining || s.hide.drainDone || !s.hide.moves.isEmpty || (busy && !passed s s.hide.drainAt msNs) ||
      s.boot.phase != 6 || !drainReady s then s
    else
      let s := (List.range 256).foldl endDrainCtx s
      let s := (List.range 256).foldl writeDrainRecord s
      let s := { s with hide := { s.hide with drainDone := true } }
      chipNotice s { typ := 7, odo := BitVec.ofNat 64 s.odometer, arg0 := s.hide.drainPage })

end Sys2Proof.Machine
end

