-- ==== Sys2Proof/Machine/Hbm.lean ====
section
/-!
DEFINITION. The HBM controllers and the frame map port (R195 to R221): errors, repair, scrub, maintenance windows, lost stacks,
frame map operations, poison, and the remote-line caches' flushes and fills.
-/
namespace Sys2Proof.Machine

/-! ### Where a channel offset lies (the inverse of Table 60) -/

/-- The space frame entry (mode, die, space frame) that holds a channel offset. -/
def ownerEntry (b chan off : Nat) : Nat :=
  let stack := chan / 16
  let pkg := off < b * 2 ^ 26
  let q := if pkg then off / 512 else (off - b * 2 ^ 26) / 512
  let t := 3 * q + stack % 3
  let a := if pkg then t * 2 ^ 15 + stack / 3 * 2 ^ 13 + chan % 16 * 512 else t * 2 ^ 13 + chan % 16 * 512
  1 + bit pkg * 4 + (if pkg then 0 else stack / 3 * 8) + a / 65536 * 2 ^ 16

/-- The frame number that claims a channel offset's space frame, with the claim's index. -/
def ownerFrame (s : State) (chan off : Nat) : Option (Nat × Nat) :=
  let i := claimIndex (ilSplit s) (ownerEntry (ilSplit s) chan off)
  (look s.fm.claims i none).map (fun f => (f, i))

/-- The frame address of a claimed channel offset. -/
def ownerAddr (s : State) (chan off : Nat) (f : Nat) : Nat :=
  let b := ilSplit s
  let stack := chan / 16
  let pkg := off < b * 2 ^ 26
  let q := if pkg then off / 512 else (off - b * 2 ^ 26) / 512
  let t := 3 * q + stack % 3
  let a := if pkg then t * 2 ^ 15 + stack / 3 * 2 ^ 13 + chan % 16 * 512 else t * 2 ^ 13 + chan % 16 * 512
  f * 65536 + a % 65536 + off % 512

/-! ### Loss of a stack (R213) -/

def loseStack (s : State) (k : Nat) : State :=
  if (getStack s k).state == 2 then s
  else
    let s := raise (modStack s k (fun x => { x with state := 2 })) (pgHbm k) 4
    beginDrain s causeStack (pgHbm k) Code.checkFailed.num

/-- STACK_LOST: the IEEE 1500 port stops responding. -/
def execStackLost (stack : StackId) (s : State) : Result := .next (loseStack s stack)

/-! ### Row events (R208, R209) -/

/-- Spare rows of a channel in a part that the state lists nothing for (notes/assumptions/4.md). -/
def planSpares : Nat := 8
def sparesOf (x : Stack) (ch : Nat) : Nat := look x.spares ch planSpares

/-- A row that no spare replaces joins the bad-row list and its frames are poisoned. A further event in a row of that list does nothing
(DESIGN CHOICE, notes/assumptions/143.md). -/
def badRow (s : State) (k ch row : Nat) : State :=
  let x := getStack s k
  if x.badRows.contains (ch, row) then s
  else if 256 ≤ x.badRows.length then loseStack s k
  else
    let s := modStack s k (fun x => { x with badRows := x.badRows ++ [(ch, row)] })
    let fs := ([0, 512].filterMap (fun h => ownerFrame s (k * 16 + ch) (row * 1024 + h))).eraseDups
    let s := { s with fm := { s.fm with poisonQ := s.fm.poisonQ ++ fs } }
    let s := if fs.isEmpty then s else raise s (pgHbm k) 2
    if look x.exhausted ch false then s
    else raise (modStack s k (fun x => { x with exhausted := store x.exhausted ch true })) (pgHbm k) 5

/-- A row event (Table 62), of an uncorrectable error or of the fourth corrected one: a repair is wanted in the next maintenance
window while spares are left. DESIGN CHOICE (notes/assumptions/124.md): a repair that waits for its window has its spare already. -/
def rowEvent (s : State) (k ch row : Nat) (uncorrectable : Bool) : State :=
  let x := getStack s k
  let noted := if uncorrectable then raise s (pgHbm k) 1 else s
  if x.need.contains (ch, row) then noted
  else if sparesOf x ch ≤ (x.need.filter (fun e => e.1 == ch)).length then badRow s k ch row
  else modStack noted k (fun x => { x with need := x.need ++ [(ch, row)] })

/-- A soft repair takes effect. -/
def repairRow (s : State) (k : Nat) (e : Nat × Nat) : State :=
  let s := modStack s k (fun x => { x with
    spares := store x.spares e.1 (sparesOf x e.1 - 1), need := x.need.filter (fun r => r != e), softPending := x.softPending ++ [e],
    rowErrs := x.rowErrs.filter (fun r => (r.1, r.2.1) != e) })
  raise (bump32 s (pgHbm k) 0x064 1) (pgHbm k) 0

/-- What the controller's ECC finds in a granule (R205, R206). -/
def eccOutcome (s : State) (chan off : Nat) (ecc : Ecc) : State :=
  let k := chan / 16
  let ch := chan % 16
  let row := off / 1024
  let noted := fun (s : State) (un : Nat) => setReg (setReg s (pgHbm k) 0x05C off) (pgHbm k) 0x060 (un * 256 + ch)
  match ecc with
  | .good => s
  | .corrected =>
    let s := noted (addCorrected s (pgHbm k) 1) 0
    let l := ((ch, row, s.odometer) :: (getStack s k).rowErrs).filter (fun r => s.odometer < r.2.2 + dayNs)
    let s := modStack s k (fun x => { x with rowErrs := l })
    if 4 ≤ (l.filter (fun r => r.1 == ch && r.2.1 == row)).length then rowEvent s k ch row false else s
  | .uncorrectable =>
    let s := noted (addUncorrected s (pgHbm k) 1) 1
    rowEvent { s with poison := store s.poison (physOf (chan, off) / 32) true } k ch row true

/-- A channel serves accesses: its stack is ready, its die is up and no maintenance window holds it. -/
def channelServes (s : State) (chan : Nat) : Bool :=
  (getStack s (chan / 16)).state == 1 && dieUp s (dieOfChan chan) && !look (getStack s (chan / 16)).maint (chan % 16) false

/-- A machine of R415 still works: the bridges, a stack, the zeroing, or within 40 ms of the BYPASS rails a port with light. No maintenance
window opens then. -/
def hbmTraining (s : State) : Bool :=
  !((List.range 12).all (fun k => s.boot.bridgesDone.contains k)) || (List.range 12).any (fun k => (getStack s k).state == 0) ||
    !s.boot.zeroDone || (!passed s s.boot.railsAt (40 * msNs) && (List.range 32).any (fun p => [1, 2, 3, 4].contains (getPort s p).tstate))

/-- CHANNEL_ACCESS (R196, R242): a read meets the ECC; a write of a claimed frame's bytes is accepted under its owner's key. -/
def execChannelAccess (chan : ChanId) (off : Word) (write : Option (List Byte)) (ecc : Ecc) (s : State) : Result :=
  .next (if !channelServes s chan || !chanReady s chan then s
    else match write with
      | none => eccOutcome s chan off.toNat ecc
      | some l =>
        match ownerFrame s chan off.toNat with
        | none => s
        | some (f, _) =>
          if 32 < off.toNat % 32 + l.length then s
          else (writePhys s chan (physOf (chan, off.toNat))
            (sealOf s (fePart (frameEntry s f)) (ownerAddr s chan off.toNat f / 512)) l).1)

/-- Granules of a stack. -/
def stackGranules : Nat := 16 * 2 ^ 27

/-- SCRUB_READ (R207): granules in turn, channel by channel at each offset. -/
def execScrubRead (stack : StackId) (ecc : Ecc) (s : State) : Result :=
  let x := getStack s stack
  let chan := stack.val * 16 + x.scrub % 16
  .next (if !bitOf (regOf s (pgHbm stack) 0x044) 8 || !channelServes s chan then s
    else
      eccOutcome (modStack s stack (fun x => { x with scrub := (x.scrub + 1) % stackGranules })) chan (x.scrub / 16 * 32) ecc)

/-! ### Maintenance windows (R211, R212); `maintStart` holds the odometer value plus 1 -/

def openWindows (x : Stack) : Nat := (x.maint.filter (fun e => e.2)).length

/-- MAINT_WINDOW_OPEN. -/
def execMaintWindowOpen (chan : ChanId) (s : State) : Result :=
  let k := chan.val / 16
  let ch := chan.val % 16
  let x := getStack s k
  let last := look x.maintStart ch 0
  let total := (List.range 12).foldl (fun n j => n + openWindows (getStack s j)) 0
  .next (if !channelServes s chan || hbmTraining s || openWindows x != 0 || 4 ≤ total || (last != 0 && !passed s (last - 1) (100 * msNs)) then s
    else addEvent (modStack s k (fun x => { x with
      maint := store x.maint ch true, maintStart := store x.maintStart ch (s.odometer + 1) })) (pgHbm k) 1)

/-- The time of a window that ends does not count toward the hang of a block step (R379). -/
def excludeWindow (s : State) (chan start : Nat) : State :=
  modKerb s chan (fun k => { k with stepAt := k.stepAt.map (fun t => t + (s.odometer - max t start)) })

/-- MAINT_WINDOW_CLOSE: within 40 µs; the channel's wanted repairs take effect. -/
def execMaintWindowClose (chan : ChanId) (s : State) : Result :=
  let k := chan.val / 16
  let ch := chan.val % 16
  let x := getStack s k
  .next (if !look x.maint ch false || decide (look x.maintStart ch 0 - 1 + 40 * usNs < s.odometer) then s
    else
      let s := modStack s k (fun x => { x with maint := drop1 x.maint ch, winFails := drop1 x.winFails ch })
      let s := excludeWindow s chan (look x.maintStart ch 0 - 1)
      (x.need.filter (fun e => e.1 == ch)).foldl (fun s e => repairRow s k e) s)

/-- MAINT_WINDOW_ABANDON: 40 µs have passed; the third in a row loses the channel, hence the stack. -/
def execMaintWindowAbandon (chan : ChanId) (s : State) : Result :=
  let k := chan.val / 16
  let ch := chan.val % 16
  let x := getStack s k
  .next (if !look x.maint ch false || !decide (look x.maintStart ch 0 - 1 + 40 * usNs ≤ s.odometer) then s
    else
      let n := look x.winFails ch 0 + 1
      let s := raise (modStack s k (fun x => { x with maint := drop1 x.maint ch, winFails := store x.winFails ch n })) (pgHbm k) 3
      let s := excludeWindow s chan (look x.maintStart ch 0 - 1)
      if 3 ≤ n then loseStack s k else s)

/-! ### The frame map port (R202, R220) -/

def fmPage : Nat := pgHbm 0

/-- The BAD_FIELD cases of a WRITE (Table 61). -/
def fmEntryBad (s : State) (e : Nat) : Bool :=
  bitOf e 7 || fieldOf e 12 4 != 0 || 2 ^ 40 ≤ e || feState e != 1 || fePoison e || (fePackage e && feDie e != 0) ||
    !spaceOk (ilSplit s) (fePackage e) (feSpace e)

/-- A core holds nothing of the frame map and nothing read ahead. -/
def mapFree (x : Core) : Bool := x.look.isEmpty && x.shadow.isEmpty && x.reqs.isEmpty

/-- Every frame map cache and remote-line cache drops frame f. -/
def dropFrameAll (s : State) (f : Nat) : State :=
  dropLinesAll ((List.range 4096).foldl (fun s c => if mapFree (getCore s c) then s else dropFrame s c f) s)
    (fun l => l / 512 == f)

/-- Whether a space frame holds a row on a bad-row list (R210). -/
def holdsBadRow (s : State) (e : Nat) : Bool :=
  (List.range 128).any (fun i =>
    let pl := placeOf s e (i * 512)
    (getStack s (pl.1 / 16)).badRows.contains (pl.1 % 16, pl.2 / 1024))

def setEntry (s : State) (f e : Nat) : State :=
  { s with fm := { s.fm with entries := if e = 0 then drop1 s.fm.entries f else store s.fm.entries f e } }

/-- The reverse map's word of an entry's space frame. -/
def setClaim (s : State) (e : Nat) (v : Option Nat) : State :=
  let i := claimIndex (ilSplit s) e
  { s with fm := { s.fm with claims := match v with | some f => store s.fm.claims i (some f) | none => drop1 s.fm.claims i } }

/-- Fills a frame with zero bytes under its entry's key. Bytes on a lost stack or a fenced die stay unwritten, and the operation goes on
(DESIGN CHOICE, notes/assumptions/144.md). -/
def zeroFrame (s : State) (f : Nat) : State :=
  let e := frameEntry s f
  (List.range 128).foldl (fun s i =>
    let a := f * 65536 + i * 512
    let pl := placeOf s e a
    (writePhys s pl.1 (physOf pl) (sealOf s (fePart e) (a / 512)) (List.replicate 512 0)).1) s

/-- The words of the frame map and the reverse map that an operation reads or writes (R199). -/
def fmWords (s : State) (o : FmOp) : List Nat :=
  let old := frameEntry s o.frame
  [entryAddr o.frame] ++ (if o.op == 2 then [claimAddr s o.entry] else []) ++
    (if (o.op == 2 || o.op == 3) && feState old != 0 then [claimAddr s old] else [])

/-- What the operation does and its code. DESIGN CHOICE (notes/assumptions/127.md): an operation that cannot read or write its words of
the maps fails with the code of that access, and INVALIDATE leaves 0 in every field of the entry. -/
def fmRun (s : State) (o : FmOp) : State × Code :=
  let f := o.frame
  let old := frameEntry s f
  match (fmWords s o).findSome? (mapFail s) with
  | some c => (s, c)
  | none =>
  if o.op == 1 then (dropFrameAll (setReg64 s fmPage 0x10C old) f, .done)
  else if o.op == 2 then
    let claim := look s.fm.claims (claimIndex (ilSplit s) o.entry) none
    if (claim.isSome && claim != some f) || holdsBadRow s o.entry then (s, .wrongState)
    else
      let s := if feState old != 0 then setClaim s old none else s
      let s := setClaim (setEntry s f o.entry) o.entry (some f)
      (dropFrameAll (if o.zero then zeroFrame s f else s) f, .done)
  else if o.op == 3 then
    (dropFrameAll (setEntry (if feState old != 0 then setClaim s old none else s) f 0) f, .done)
  else if feState old != 1 then (s, .wrongState)
  else (dropFrameAll (setEntry s f (old + 1)) f, .done)

/-- A request that a core has placed in frame f has not completed (R202). -/
def frameInUse (s : State) (f : Nat) : Bool :=
  s.cores.any (fun e => e.2.reqs.any (fun q => q.2.any (fun r => r.pieces.head?.any (fun p => p.src / 65536 == f))))

/-- The channels that hold the given words of the maps serve (R196, R211). -/
def mapsReady (s : State) (l : List Nat) : Bool :=
  allReady s || l.all (fun a => chanReady s (locate (ilSplit s) true 0 a).1)

/-- The channels that an operation reaches serve: those of its words, and with ZERO those of the frame (R196, R211). -/
def fmReady (s : State) (o : FmOp) : Bool :=
  mapsReady s (fmWords s o) && (allReady s || !(o.op == 2 && o.zero) ||
    (List.range 128).all (fun i => chanReady s (placeOf s o.entry (512 * i)).1))

/-- The oldest waiting poison (R203): the log takes the frame in every case. -/
def poisonNext (s : State) : State :=
  match s.fm.poisonQ with
  | [] => s
  | (f, i) :: rest =>
    let e := frameEntry s f
    let s := if feState e == 1 && claimIndex (ilSplit s) e == i && (mapFail s (entryAddr f)).isNone then
        dropFrameAll (if fePoison e then s else setEntry s f (e + 32)) f
      else s
    { s with fm := { s.fm with
      poisonQ := rest, log := if 64 ≤ s.fm.log.length then s.fm.log else s.fm.log ++ [f],
      logOver := s.fm.logOver || decide (64 ≤ s.fm.log.length) } }

/-- The oldest waiting poison can run: every access that obtained its frame's entry has completed, and the entry's channel serves
(R202, R203, R211). -/
def poisonReady (s : State) : Bool :=
  match s.fm.poisonQ with
  | [] => true
  | (f, _) :: _ => !frameInUse s f && mapsReady s [entryAddr f]

/-- FM_POISON: never during an operation. -/
def execFmPoison (s : State) : Result := .next (if s.fm.op.isSome || !poisonReady s then s else poisonNext s)

/-- The poisons that run before an operation: how many are still left when one cannot run yet. -/
def poisonsBefore : Nat → State → State × Nat
  | 0, s => (s, 0)
  | n + 1, s => if poisonReady s then poisonsBefore n (poisonNext s) else (s, n + 1)

/-- FM_OP_DONE: behind the poisons that waited before it, once every access that obtained the frame's previous entry has completed and
the channels it reaches serve (R202, R203, R211). -/
def execFmOpDone (s : State) : Result :=
  .next (match s.fm.op with
    | none => s
    | some o =>
      match poisonsBefore o.before s with
      | (s, n + 1) => { s with fm := { s.fm with op := some { o with before := n + 1 } } }
      | (s, 0) =>
        if frameInUse s o.frame || !fmReady s o then { s with fm := { s.fm with op := some { o with before := 0 } } }
        else
          let (s, c) := fmRun s o
          { s with fm := { s.fm with op := none, code := c.num } })

/-- An FM_OP write: field checks fail here, BUSY while an operation runs; the poisons that wait run before it (R203). -/
def fmStart (s : State) (p op : Nat) (zero : Bool) : State :=
  let e := reg64 s fmPage 0x10C
  writeReg s p fmPage 0x114
    [(op == 0 || 4 < op || (zero && op != 2) || (op == 2 && fmEntryBad s e), .badField), (s.fm.op.isSome, .busy)]
    (fun s => { s with fm := { s.fm with
      op := some { op := op, zero := zero, frame := regOf s fmPage 0x108, entry := e, start := s.odometer,
                   before := s.fm.poisonQ.length } } })

def execFmRead (p : PartId) (zero : Bool) (s : State) : Result := .next (fmStart s p 1 zero)
def execFmWrite (p : PartId) (zero : Bool) (s : State) : Result := .next (fmStart s p 2 zero)
def execFmInvalidate (p : PartId) (zero : Bool) (s : State) : Result := .next (fmStart s p 3 zero)
def execFmRetire (p : PartId) (zero : Bool) (s : State) : Result := .next (fmStart s p 4 zero)

/-- The oldest entry of the poison log leaves it with OVERFLOW. -/
def popPoisonLog (s : State) : State := { s with fm := { s.fm with log := s.fm.log.drop 1, logOver := false } }

/-- POISON_LOG_READ (R220): a read of 0x11C returns the oldest entry and removes it. -/
def readPoisonLog (s : State) (p : Nat) : State :=
  if p != 0 || gated s fmPage then { s with rdata := 0 }
  else
    let v := match s.fm.log with | [] => 0 | f :: _ => 2 ^ 31 + f
    { popPoisonLog s with rdata := BitVec.ofNat 32 (v + bit s.fm.logOver * 2 ^ 30) }

def execPoisonLogRead (p : PartId) (s : State) : Result := .next (readPoisonLog s p)

/-! ### Remote-line caches (R215 to R217, R221) -/

def rlcBase (s : State) (d : Nat) : Nat := reg64 s (pgRlc d) 0x040
def rlcLines (s : State) (d : Nat) : Nat := regOf s (pgRlc d) 0x048 + 1

/-- A write of FLUSH_CTL. -/
def flushCtl (s : State) (p d : Nat) (start all : Bool) : State :=
  let base := rlcBase s d
  writeReg s p (pgRlc d) 0x04C
    [(start && decide (2 ^ 40 < base + 128 * rlcLines s d), .badField), ((getRlc s d).flush.isSome, .busy)]
    (fun s =>
      if all then startFlush s d { lo := 0, hi := 2 ^ 33 }
      else if start then startFlush s d { lo := base / 128, hi := base / 128 + rlcLines s d }
      else s)

def execRlcFlushStart (p : PartId) (die : DieId) (s : State) : Result := .next (flushCtl s p die true false)
def execRlcFlushAll (p : PartId) (die : DieId) (s : State) : Result := .next (flushCtl s p die false true)

/-- One cache has finished a FLUSH post's range; the post ends when all four have (R345). -/
def flushStep (s : State) (c d : Nat) : State :=
  let x := getCtx s c
  match x.flushes.find? (fun f => f.2.contains d) with
  | none => s
  | some f =>
    let left := f.2.filter (fun k => k != d)
    if left.isEmpty then
      completePost (modCtx s c (fun x => { x with flushes := x.flushes.erase f })) c f.1 0 0
    else modCtx s c (fun x => { x with flushes := x.flushes.map (fun g => if g == f then (g.1, left) else g) })

/-- RLC_FLUSH_DONE: FLUSHING clears, and the next flush that waits begins. -/
def execRlcFlushDone (die : DieId) (s : State) : Result :=
  let c := getRlc s die
  .next (match c.flush with
    | none => s
    | some f =>
      let s := addEvent (setRlc s die { c with flush := none, waiting := c.waiting.drop 1 }) (pgRlc die) 1
      let s := match f.post with | some x => flushStep s x die | none => s
      match c.waiting with
      | [] => s
      | g :: _ => startFlush s die g)

/-- The oldest fill of a cache returns; it is installed unless a flush covered it. -/
def fillBack (s : State) (d : Nat) : State :=
  let c := getRlc s d
  match c.fills with
  | [] => s
  | f :: rest =>
    setRlc s d { c with fills := rest, lines := if f.dead then c.lines else installLine c.lines { line := f.line, bytes := f.bytes } }

/-- A parity error in a line a cache holds: the line is dropped and counted, and read again through the bridges (R215). -/
def parityError (s : State) (d line : Nat) : State :=
  if !cacheHolds s d (128 * line) 128 || !rangeReady s (fePart (frameEntry s (line / 512))) (128 * line) 128 then s
  else
    let c := getRlc s d
    let s := addCorrected (setRlc s d { c with lines := c.lines.filter (fun x => x.line != line) }) (pgRlc d) 1
    match readBlock s (fePart (frameEntry s (line / 512))) (128 * line) 128 with
    | .error _ => s
    | .ok w =>
      let c := getRlc s d
      bump64 (setRlc s d { c with fills := c.fills ++ [{ line := line, bytes := storeBytes [] 0 w }] }) (pgRlc d) 0x05C 1

/-- RLC_FILL: a fill returns, or a line's parity fails and it is filled anew. -/
def execRlcFill (die : FillEvent) (s : State) : Result :=
  .next (match die with
    | .back d => fillBack s d
    | .parity d line => parityError s d line.toNat)

end Sys2Proof.Machine
end

