-- ==== Sys2Proof/Machine/Kerb.lean ====
section
/-!
DEFINITION. Kerbside engines (chapter 11): lists and descriptors, block steps and their arithmetic, the residue check, status
words and signals, the done list.
-/
namespace Sys2Proof.Machine

/-! ### Descriptor (Table 64) -/

def kOp (w : List Nat) : Nat := fieldOf (nth w 0) 0 4
def kFlush (w : List Nat) : Bool := bitOf (nth w 0) 4
def kPackage (w : List Nat) : Bool := bitOf (nth w 0) 5
def kDie (w : List Nat) : Nat := fieldOf (nth w 0) 6 2
def kFmtOut (w : List Nat) : Nat := fieldOf (nth w 0) 8 4
def kOutEn (w : List Nat) : Bool := bitOf (nth w 0) 12
def kSat (w : List Nat) : Bool := bitOf (nth w 0) 13
def kIdxFmt (w : List Nat) : Nat := fieldOf (nth w 0) 16 4
def kTrigCore (w : List Nat) : Nat := fieldOf (nth w 1) 0 12
def kTrigMs (w : List Nat) : Nat := fieldOf (nth w 1) 12 6
def kTrigEn (w : List Nat) : Bool := bitOf (nth w 1) 18
def kDoneCore (w : List Nat) : Nat := wCore (nth w 3)
def kDoneMs (w : List Nat) : Nat := wMs (nth w 3)
def kCount (w : List Nat) : Nat := nth w 4
def kRowBytes (w : List Nat) : Nat := 64 * (fieldOf (nth w 5) 0 10 + 1)
def kTableRows (w : List Nat) : Nat := nth w 6
def kAddr (w : List Nat) (i : Nat) : Nat := wAddr w (8 + 2 * i)
def kScalar (w : List Nat) (i : Nat) : Nat := nth w (20 + i)

def kGather (w : List Nat) : Bool := decide (8 ≤ kOp w)
/-- Bytes of an element of the destination array. -/
def kElem (w : List Nat) : Nat := if kOp w == 4 || kOp w == 5 then 8 else 4
def kIdxBytes (w : List Nat) : Nat := if kIdxFmt w == 0xA then 2 else 4
/-- In-place descriptors (chapter 11, Replay and the done list). -/
def kInPlace (w : List Nat) : Bool := kOp w != 8 && kOp w != 9
/-- Addresses and scalars that an operation uses (Table 65). DESIGN CHOICE (notes/assumptions/147.md): an OP that Table 65 does not have
gives no roles; its descriptor is checked as one of AXPY's addresses (OP 0) or of a gather's (OP 0xB to 0xF), before BAD_FIELD. -/
def kAddrs (w : List Nat) : List Nat :=
  if kOp w ≤ 5 then [0, 1, 5] else if kOp w == 6 then [0, 1, 2, 3, 5] ++ (if kOutEn w then [4] else [])
  else if kOp w == 7 then [0, 1, 3, 5] ++ (if kOutEn w then [4] else []) else [0, 1, 2, 5]
def kScalars (w : List Nat) : List Nat :=
  if kOp w == 1 then [0] else if kOp w == 6 then List.range 10 else if kOp w == 7 then [0, 1, 8, 9] else []

/-- Participating engines and an engine's status index (R226, R234). -/
def kParts (w : List Nat) : Nat := if kPackage w then 192 else 48
def kTakesPart (w : List Nat) (chan : Nat) : Bool := kPackage w || dieOfChan chan == kDie w
def kIndex (w : List Nat) (chan : Nat) : Nat := if kPackage w then chan else chan - 48 * kDie w

/-- The alignment an address role needs (R229). -/
def kAlign (w : List Nat) (i : Nat) : Nat :=
  if i == 5 then 4 else if kGather w then (if i == 1 then kIdxBytes w else 64) else if i == 4 then 2 else 64

/-- Bytes an address role spans. -/
def kSpan (w : List Nat) (i : Nat) : Nat :=
  if i == 5 then 4 * kParts w
  else if kGather w then
    (if i == 0 then kRowBytes w * kTableRows w else if i == 1 then kIdxBytes w * kCount w else kRowBytes w * kCount w)
  else if i == 4 then 2 * kCount w
  else kElem w * kCount w

/-- The checks of R229, except those met later (ALIGN of R227, NO_SPACE of R239). DESIGN CHOICE (notes/assumptions/128.md): fields that
an operation does not use and that no rule makes 0 (SAT, OUT_EN, ROW_SEG_MINUS1, TABLE_ROWS) may hold any value there. -/
def kCheck (cores : List Nat) (w : List Nat) : Option Code :=
  let op := kOp w
  let used := kAddrs w
  let unusedAddr := [0, 1, 2, 3, 4, 5].any (fun i => !used.contains i && (nth w (8 + 2 * i) != 0 || nth w (9 + 2 * i) != 0))
  let unusedScalar := (List.range 12).any (fun i => !(kScalars w).contains i && kScalar w i != 0)
  let reserved := fieldOf (nth w 0) 14 2 != 0 || fieldOf (nth w 0) 20 12 != 0 || fieldOf (nth w 1) 19 13 != 0 ||
    fieldOf (nth w 3) 18 14 != 0 || fieldOf (nth w 5) 10 22 != 0 || nth w 7 != 0 ||
    [0, 1, 2, 3, 4, 5].any (fun i => fieldOf (nth w (9 + 2 * i)) 8 24 != 0)
  let noTrig := !kTrigEn w && (kTrigCore w != 0 || kTrigMs w != 0 || nth w 2 != 0)
  firstFail [(used.any (fun i => kAddr w i % kAlign w i != 0), .align),
    (!cores.contains (kDoneCore w) || (kTrigEn w && !cores.contains (kTrigCore w)), .notOwner),
    (reserved || unusedAddr || unusedScalar || noTrig, .reservedSet),
    (op == 0 || 0xA < op || (kPackage w && kDie w != 0) || 47 < kTrigMs w || 47 < kDoneMs w || kCount w == 0 ||
      (if kOutEn w then !(kFmtOut w == 1 || kFmtOut w == 2) else kFmtOut w != 0) ||
      (if kGather w then !(kIdxFmt w == 9 || kIdxFmt w == 0xA) || kTableRows w == 0 else kIdxFmt w != 0) ||
      used.any (fun i => decide (2 ^ 40 < kAddr w i + kSpan w i)), .badField)]

/-! ### Arithmetic (R230, R231, R314) -/

/-- AXPY, MAX and MIN on one element, MAXI and MINI on one pair of 8 bytes (R230). -/
def kElem1 (flush : Bool) (op a : Nat) (d b : Nat) : Nat × Flags :=
  if op == 1 then fma32 flush a b d
  else if op == 2 || op == 3 then
    let (u, f) := startAcc flush d
    let (v, g) := startAcc flush b
    (canon32 (winner (op == 3) (u, 0) (v, 0)).1, f ||| g)
  else
    let (u, f) := startAcc flush (d % 2 ^ 32)
    let (v, g) := startAcc flush (b % 2 ^ 32)
    let r := winner (op == 5) (u, sext 32 (d / 2 ^ 32)) (v, sext 32 (b / 2 ^ 32))
    (canon32 r.1 + (r.2 % (2 ^ 32 : Int)).toNat * 2 ^ 32, f ||| g)

/-- One operation applied to a run of elements of `size` bytes. -/
def kRun (flush : Bool) (op a size : Nat) (d b : List Byte) : List Byte × Flags :=
  (List.range (d.length / size)).foldl (fun (t : List Byte × Flags) i =>
    let (v, f) := kElem1 flush op a (numAt d (size * i) size) (numAt b (size * i) size)
    (t.1 ++ leBytes size v, t.2 ||| f)) ([], 0)

def neg32 (a : Nat) : Nat := if 2 ^ 31 ≤ a then a - 2 ^ 31 else a + 2 ^ 31

/-- ADAM or MOMENTUM on one element: W, M, V and the flags (R231). -/
def kOpt (w : List Nat) (wt m v g : Nat) : (Nat × Nat × Nat) × Flags :=
  let fl := kFlush w
  let sc := kScalar w
  let (g1, f0) := mul32 fl g (sc 0)
  let (m1, v1, u, f1) :=
    if kOp w == 6 then
      let (a, x0) := mul32 fl (sc 1) g1
      let (m1, x1) := fma32 fl (sc 2) m a
      let (gg, x2) := mul32 fl g1 g1
      let (b, x3) := mul32 fl (sc 3) gg
      let (v1, x4) := fma32 fl (sc 4) v b
      let (q, x5) := mul32 fl (sc 6) v1
      let (r, x6) := sqrt32 fl q
      let (d, x7) := add32 fl r (sc 7)
      let (n, x8) := mul32 fl (sc 5) m1
      let (u, x9) := div32 fl n d
      (m1, v1, u, x0 ||| x1 ||| x2 ||| x3 ||| x4 ||| x5 ||| x6 ||| x7 ||| x8 ||| x9)
    else
      let (m1, x0) := fma32 fl (sc 1) m g1
      (m1, v, m1, x0)
  let (t, f2) := fma32 fl (sc 9) wt u
  let (w1, f3) := fma32 fl (neg32 (sc 8)) t wt
  ((w1, m1, v1), f0 ||| f1 ||| f2 ||| f3)

/-- The 16-bit copy of a value (R231, R314). -/
def kCopy (flush sat : Bool) (fmt v : Nat) : Nat × Flags :=
  let f := if fmt == 2 then Fmt.fp16 else Fmt.bf16
  let (x, g) := readIeee flush .fp32 v
  let (r, h) := toIeee f .rne sat flush x
  (r, g ||| h)

/-! ### Residue failures (R237) -/

def recentRes (s : State) (chan : Nat) : List Nat := (getKerb s chan).resTimes.filter (fun t => s.odometer < t + dayNs)

/-- One residue failure; true when it is the third within 24 hours, which drains the chip. -/
def residueFail (s : State) (chan : Nat) : State × Bool :=
  let l := recentRes s chan ++ [s.odometer]
  let s := modKerb s chan (fun k => { k with resTimes := l })
  let s := setReg64 (bump32 s (pgKerb chan) 0x050 1) (pgKerb chan) 0x048 s.odometer
  let s := raise s (pgKerb chan) 0
  if 3 ≤ l.length then (beginDrain s causeResidue (pgKerb chan) Code.checkFailed.num, true) else (s, false)

/-- `n` failed computations in a row; stops at the failure that drains. -/
def residueFails (s : State) (chan n : Nat) : State × Bool :=
  match n with
  | 0 => (s, false)
  | n + 1 =>
    let (s, d) := residueFail s chan
    if d then (s, true) else residueFails s chan n

/-- RESIDUE_EXPIRY: failures older than 24 hours no longer count. -/
def execResidueExpiry (chan : ChanId) (s : State) : Result :=
  .next (modKerb s chan (fun k => { k with resTimes := recentRes s chan }))

/-! ### Lists -/

def getList (s : State) (c slot : Nat) : KList := look (getCtx s c).lists slot {}
def kPos (s : State) (chan c slot : Nat) : KPos := look (getList s c slot).pos chan {}
def setKPos (s : State) (chan c slot : Nat) (p : KPos) : State :=
  modCtx s c (fun x =>
    let l := look x.lists slot {}
    { x with lists := store x.lists slot { l with pos := store l.pos chan p } })
def stopList (s : State) (c slot : Nat) : State :=
  modCtx s c (fun x => { x with lists := x.lists.map (fun e => if e.1 == slot then (e.1, { e.2 with stopped := true }) else e) })

/-- KERB_ARM (R225). -/
def execKerbArm (c : CtxId) (s : State) : Result :=
  .next (takePost s c 0x10 (fun s r d =>
    let slot := numAt d 16 1
    let addr := postAddr d 24
    let count := numAt d 32 2
    match firstFail ([(addr % 128 != 0, Code.align), (3 < slot || count == 0, .badField), ((getList s c slot).armed, .busy)] ++
        postChecks d [(16, 1), (24, 5), (32, 2)]) with
    | some f => completePost s c r f.num 0
    | none =>
      let seq := s.armSeq
      let s := { s with armSeq := (seq + 1) % 65536 }
      let s := modCtx s c (fun x => { x with
        lists := store x.lists slot { armed := true, addr := addr, count := count, seq := seq, paused := x.state != .running } })
      completePost s c r 0 seq))

/-- The engine works: its die is up and its domain is not in reset. -/
def kerbUp (s : State) (chan : Nat) : Bool := dieUp s (dieOfChan chan) && !roadblocked s (.kerb chan)

/-- The context's list runs at an engine (R225). -/
def listRuns (s : State) (chan c slot : Nat) : Bool :=
  let l := getList s c slot
  kerbUp s chan && (getCtx s c).state == .running && l.armed && !l.stopped && decide ((kPos s chan c slot).desc < l.count)

def kStatus (p : KPos) (code : Nat) : Nat := bit p.range * 2 ^ 13 + p.flags.toNat * 256 + code

/-- The address of an engine's status word (R234). -/
def statusAt (chan : Nat) (w : List Nat) : Nat := kAddr w 5 + 4 * kIndex w chan

/-- Writes an engine's status word (R234); its bytes are away bytes (R227). -/
def writeStatus (s : State) (chan c : Nat) (w : List Nat) (v : Nat) : State × Option Code :=
  let (s, f) := writeRangeAt s (dieOfChan chan) (ctxPart s c) (statusAt chan w) (leBytes 4 v)
  (if f.isNone then bump64 s (pgKerb chan) 0x05C 4 else s, f.map (fun e => e.1))

/-- The status word of a share that ends in a fault or a program error, which the engine does not wait for (R229, R238): it lands when
its channel takes it. A share whose descriptor was never read has none. -/
def leaveStatus (s : State) (chan c : Nat) (w : List Nat) (v : Nat) : State :=
  let d := dieOfChan chan
  if w.isEmpty then s
  else
    let t := writeLater s d (ctxPart s c) (statusAt chan w) (leBytes 4 v)
    if (accessFail s (ctxPart s c) (statusAt chan w)).isSome || wayShut s d (ctxPart s c) (statusAt chan w) then t
    else bump64 t (pgKerb chan) 0x05C 4

/-- The core whose fault record names a share: DONE_CORE, or the lowest of the set. -/
def kRecordCore (s : State) (c : Nat) (w : List Nat) : Nat :=
  let l := (getCtx s c).cores
  if !w.isEmpty && l.contains (kDoneCore w) then kDoneCore w else l.headD 0

/-- A fault of a share (R238). -/
def shareFault (s : State) (chan c slot : Nat) (p : KPos) (code addr : Nat) : State :=
  let s := leaveStatus s chan c p.words (kStatus p code)
  let s := stopList (setKPos s chan c slot { p with stage := 4, code := code }) c slot
  let s := recordFault s (kRecordCore s c p.words) 2 0xF code (some c) 0 0 addr
  enterFaulted (raise s (pgKerb chan) 1) c code (kRecordCore s c p.words)

/-- A context with a program error enters HALTED with an image (R157, R229): one that is SAVING does when its image is complete. -/
def haltCtx (s : State) (c code core : Nat) : State :=
  let x := getCtx s c
  match x.state, x.saving with
  | .running, _ => beginSave s c { kind := 2, tag := 0, start := 0, after := 3, haltCode := code, haltCore := core }
  | .saving, some v =>
    if v.after == 3 || 5 ≤ v.after then s
    else modCtx s c (fun x => { x with saving := some { v with after := 3, haltCode := code, haltCore := core } })
  | _, _ => s

/-- A program error of a list (R229): the list stops, and the context enters HALTED with an image (R157). -/
def programError (s : State) (chan c slot : Nat) (p : KPos) (code : Nat) : State :=
  let s := leaveStatus s chan c p.words (kStatus p code)
  let s := stopList (setKPos s chan c slot { p with stage := 4, code := code }) c slot
  let core := kRecordCore s c p.words
  haltCtx (recordFault s core 1 0xF code (some c) 0 0 0) c code core

/-- An engine starts its share: it reads the whole index array of a gather or scatter (R227, R232); an in-place share is entered in
the done list, or resumes from it (R239). -/
def startShare (s : State) (chan c slot : Nat) (p : KPos) : State :=
  let s := if kGather p.words then bump64 s (pgKerb chan) 0x05C (kIdxBytes p.words * kCount p.words) else s
  let k := getKerb s chan
  let l := getList s c slot
  let same := fun (d : Done) => d.ctx == c && d.slot == slot && d.seq == l.seq && d.desc == p.desc
  if !kInPlace p.words then
    setKPos (setKerb s chan { k with stepAt := some s.odometer }) chan c slot { p with stage := 2 }
  else match k.done.find? same with
    | some d =>
      setKPos (setKerb s chan { k with stepAt := some s.odometer }) chan c slot
        { p with stage := if d.finished then 3 else 2, block := d.block, flags := d.flags, range := d.range }
    | none =>
      if 32 ≤ (k.done.filter (fun d => d.ctx == c)).length then programError s chan c slot p Code.noSpace.num
      else
        setKPos (setKerb s chan { k with
          done := k.done ++ [{ ctx := c, slot := slot, seq := l.seq, desc := p.desc, block := 0 }], stepAt := some s.odometer })
          chan c slot { p with stage := 2 }

/-- The slot is free once every engine has finished every descriptor (R225). The list is kept for a replay (R239), and where a
replay has another list of the slot to walk again, that list is next. -/
def freeIfDone (s : State) (c slot : Nat) : State :=
  let l := getList s c slot
  if (List.range 192).all (fun k => decide (l.count ≤ (look l.pos k {}).desc)) then
    modCtx s c (fun x => { x with
      past := x.past ++ [(slot, l)],
      again := x.again.eraseP (fun e => e.1 == slot),
      lists := match x.again.find? (fun e => e.1 == slot) with
        | some e => store x.lists slot { e.2 with paused := l.paused }
        | none => drop1 x.lists slot })
  else s

/-- A descriptor that cannot be read faults every engine that has come to it and cannot reach it (R238). -/
def unreadable (s : State) (c slot desc code addr : Nat) : State :=
  ((List.range 192).filter (fun k => kerbUp s k && (kPos s k c slot).desc == desc && (kPos s k c slot).stage == 0 &&
      !(readRangeAt s (dieOfChan k) (ctxPart s c) addr 128).isOk)).foldl
    (fun s k => shareFault s k c slot (kPos s k c slot) code addr) s

/-- KERB_DESCRIPTOR_READ (R226, R229). -/
def execKerbDescriptorRead (chan : ChanId) (c : CtxId) (slot : Fin 4) (s : State) : Result :=
  let p := kPos s chan c slot
  let l := getList s c slot
  let at_ := l.addr + 128 * p.desc
  .next (if !listRuns s chan c slot || p.stage != 0 || !rangeReady s (ctxPart s c) at_ 128 then s
    else match readRangeAt s (dieOfChan chan) (ctxPart s c) at_ 128 with
      | .error f => unreadable s c slot p.desc f.1.num at_
      | .ok b =>
        let w := wordsOf b 32
        let p := { p with words := w, block := 0, flags := 0, range := false, code := 0 }
        if !kTakesPart w chan then freeIfDone (setKPos s chan c slot { desc := p.desc + 1 }) c slot
        else match kCheck (getCtx s c).cores w with
          | some f => programError s chan c slot p f.num
          | none =>
            if kTrigEn w then setKPos s chan c slot { p with stage := 1 } else startShare s chan c slot p)

/-- A die control processor does its duties: it is not restarting (R382). -/
def ctlAlive (s : State) (d : Nat) : Bool := dieUp s d && (look s.hang.restartAt d none).isNone

/-- KERB_TRIGGER (R226): engines of the die whose trigger has been reached start their shares. -/
def execKerbTrigger (die : DieId) (c : CtxId) (slot : Fin 4) (s : State) : Result :=
  .next (if !ctlAlive s die then s
    else (List.range 48).foldl (fun s i =>
      let chan := 48 * die.val + i
      let p := kPos s chan c slot
      if listRuns s chan c slot && p.stage == 1 &&
          waitHolds (mileOf (getCore s (kTrigCore p.words)) (kTrigMs p.words)) 1 (nth p.words 2) then
        startShare s chan c slot p
      else s) s)

/-! ### Block steps -/

inductive KStep where
  | block (k lo hi i : Nat)
  | zero (k i : Nat)
  /-- The channel of the index does not serve yet. -/
  | wait
  | fault (code addr : Nat)
  | done
  deriving DecidableEq, Repr, Inhabited

/-- The channel of a block of the destination array, and the frame map's refusal of it. -/
def kBlockFail (s : State) (c addr : Nat) : Option Code :=
  match accessFail s (ctxPart s c) addr with
  | some .fenced => none
  | f => f

/-- Whether a block of the destination array is this engine's: by its channel, or by its number when it maps to none (R227, R238). -/
def kMine (s : State) (chan c : Nat) (w : List Nat) (addr : Nat) : Bool :=
  match kBlockFail s c addr with
  | some .checkFailed => (placeOf s (frameEntry s (addr / 65536)) addr).1 == chan
  | some _ => addr / 512 % kParts w == kIndex w chan
  | none => (placeOf s (frameEntry s (addr / 65536)) addr).1 == chan

/-- Blocks that a row may touch. -/
def kRowBlocks (w : List Nat) : Nat := kRowBytes w / 512 + 2

/-- Steps of a whole descriptor, numbered for the record of the next block. -/
def kTotal (w : List Nat) : Nat :=
  if kGather w then kCount w * kRowBlocks w
  else (kAddr w 0 + kElem w * kCount w + 511) / 512 - kAddr w 0 / 512

/-- Index i, as a signed or unsigned number (R232). -/
def kIndexAt (s : State) (chan c : Nat) (w : List Nat) (i : Nat) : Except Code Int :=
  let n := kIdxBytes w
  match readRangeAt s (dieOfChan chan) (ctxPart s c) (kAddr w 1 + n * i) n with
  | .error f => .error f.1
  | .ok b => .ok (if n == 2 then (leNat b : Int) else sext 32 (leNat b))

/-- The engine's next step from number k on. -/
def kNext (s : State) (chan c : Nat) (w : List Nat) (k fuel : Nat) : KStep :=
  match fuel with
  | 0 => .done
  | fuel + 1 =>
    if !kGather w then
      let q := kAddr w 0 / 512 + k
      let lo := max (kAddr w 0) (q * 512)
      if kMine s chan c w lo then .block k lo (min (kAddr w 0 + kElem w * kCount w) ((q + 1) * 512)) 0
      else kNext s chan c w (k + 1) fuel
    else
      let i := k / kRowBlocks w
      let j := k % kRowBlocks w
      if !rangeReady s (ctxPart s c) (kAddr w 1 + kIdxBytes w * i) (kIdxBytes w) then .wait
      else match kIndexAt s chan c w i with
      | .error f => .fault f.num (kAddr w 1 + kIdxBytes w * i)
      | .ok v =>
        if v < 0 || decide ((kTableRows w : Int) ≤ v) then
          if j == 0 && i % kParts w == kIndex w chan then .zero k i else kNext s chan c w (k + 1) fuel
        else
          let at_ := kAddr w 0 + v.toNat * kRowBytes w
          let q := at_ / 512 + j
          let lo := max at_ (q * 512)
          let hi := min (at_ + kRowBytes w) ((q + 1) * 512)
          if lo < hi && kMine s chan c w lo then .block k lo hi i else kNext s chan c w (k + 1) fuel

def kStepOf (s : State) (chan c : Nat) (p : KPos) : KStep := kNext s chan c p.words p.block (kTotal p.words - p.block)

/-- What a block step computes from what it reads: the writes in order, whether each is home, and the flags; a channel that does not
serve an away operand yet; or why it fails. -/
inductive KOut where
  | writes (l : List (Nat × List Byte × Bool)) (home away : Nat) (flags : Flags)
  | wait
  | align
  | fault (code : Code) (addr : Nat)

/-- Bytes of an operand array; `home` operands must lie in the engine's channel (R227). -/
def kRead (s : State) (chan c : Nat) (home : Bool) (addr n : Nat) : Except (Option Code × Nat) (List Byte) :=
  let ch := fun (a : Nat) => (placeOf s (frameEntry s (a / 65536)) a).1
  match readRangeAt s (dieOfChan chan) (ctxPart s c) addr n with
  | .error f => .error (some f.1, addr)
  | .ok b => if home && (ch addr != chan || ch (addr + n - 1) != chan) then .error (none, addr) else .ok b

def kFail (e : Option Code × Nat) : KOut := match e.1 with | some f => .fault f e.2 | none => .align

/-- The elementwise operations AXPY to MINI on one block. -/
def kSimple (s : State) (chan c : Nat) (w : List Nat) (lo hi : Nat) : KOut :=
  let n := hi - lo
  match kRead s chan c true lo n, kRead s chan c true (kAddr w 1 + (lo - kAddr w 0)) n with
  | .error e, _ => kFail e
  | _, .error e => kFail e
  | .ok d, .ok b =>
    let (r, f) := kRun (kFlush w) (kOp w) (kScalar w 0) (kElem w) d b
    .writes [(lo, r, true)] (3 * n) 0 f

/-- ADAM and MOMENTUM on one block; OUT is written first, so a failing OUT leaves W unchanged. -/
def kOptimise (s : State) (chan c : Nat) (w : List Nat) (lo hi : Nat) : KOut :=
  let n := hi - lo
  let o := lo - kAddr w 0
  let adam := kOp w == 6
  match kRead s chan c true lo n, kRead s chan c true (kAddr w 1 + o) n,
      (if adam then kRead s chan c true (kAddr w 2 + o) n else .ok []), kRead s chan c true (kAddr w 3 + o) n with
  | .error e, _, _, _ => kFail e
  | _, .error e, _, _ => kFail e
  | _, _, .error e, _ => kFail e
  | _, _, _, .error e => kFail e
  | .ok wt, .ok m, .ok v, .ok g =>
    let r := (List.range (n / 4)).map (fun i =>
      kOpt w (numAt wt (4 * i) 4) (numAt m (4 * i) 4) (numAt v (4 * i) 4) (numAt g (4 * i) 4))
    let copies := r.map (fun e => kCopy (kFlush w) (kSat w) (kFmtOut w) e.1.1)
    let f := r.foldl (fun (a : Flags) e => a ||| e.2) 0
    let fo := if kOutEn w then copies.foldl (fun (a : Flags) e => a ||| e.2) 0 else 0
    let out := if kOutEn w then [(kAddr w 4 + o / 2, copies.flatMap (fun e => leBytes 2 e.1), false)] else []
    let vs := if adam then [(kAddr w 2 + o, r.flatMap (fun e => leBytes 4 e.1.2.2), true)] else []
    .writes (out ++ vs ++ [(kAddr w 1 + o, r.flatMap (fun e => leBytes 4 e.1.2.1), true), (lo, r.flatMap (fun e => leBytes 4 e.1.1), true)])
      ((if adam then 7 else 5) * n) (if kOutEn w then n / 2 else 0) (f ||| fo)

/-- GATHER, SCATTER_COPY and SCATTER_ADD on the part of row i at [lo, hi) of TABLE. -/
def kMove (s : State) (chan c : Nat) (w : List Nat) (lo hi i : Nat) : KOut :=
  let n := hi - lo
  let row := (lo - kAddr w 0) % kRowBytes w
  let other := kAddr w 2 + i * kRowBytes w + row
  if kOp w == 8 then
    match kRead s chan c true lo n with
    | .error e => kFail e
    | .ok b => .writes [(other, b, false)] n n 0
  else if !rangeReady s (ctxPart s c) other n then .wait
  else
    match kRead s chan c false other n with
    | .error e => kFail e
    | .ok b =>
      if kOp w == 9 then
        match kBlockFail s c lo with
        | some f => .fault f lo
        | none => .writes [(lo, b, true)] n n 0
      else match kRead s chan c true lo n with
        | .error e => kFail e
        | .ok d =>
          let (r, f) := (List.range (n / 4)).foldl (fun (t : List Byte × Flags) j =>
            let (v, f) := add32 (kFlush w) (numAt d (4 * j) 4) (numAt b (4 * j) 4)
            (t.1 ++ leBytes 4 v, t.2 ||| f)) ([], 0)
          .writes [(lo, r, true)] (2 * n) n f

/-- Writes in order; the first that fails stops the rest. -/
def kWrite (s : State) (chan c : Nat) (l : List (Nat × List Byte × Bool)) : State × Option (Code × Nat) :=
  l.foldl (fun (t : State × Option (Code × Nat)) e =>
    match t.2 with
    | some _ => t
    | none =>
      let (s, f) := writeRangeAt t.1 (dieOfChan chan) (ctxPart t.1 c) e.1 e.2.1
      (s, f.map (fun f => (f.1, e.1)))) (s, none)

/-- A block step's place is recorded, in the done list as well for an in-place share (R239); another list has the next turn. -/
def kAdvance (s : State) (chan c slot : Nat) (p : KPos) : State :=
  let l := getList s c slot
  let s := modKerb s chan (fun k => { k with
    stepAt := some s.odometer
    turn := 4 * c + slot + 1
    done := k.done.map (fun d =>
      if d.ctx == c && d.slot == slot && d.seq == l.seq && d.desc == p.desc then
        { d with block := p.block, flags := p.flags, range := p.range }
      else d) })
  setKPos s chan c slot p

/-- An engine's share of a list in progress may go on: its context runs; a pause that has come has not been recorded yet (R240); or
the list has stopped, which ends it only after the share in progress (R229, R238). -/
def shareGoes (s : State) (chan c slot : Nat) : Bool :=
  let l := getList s c slot
  let st := (getCtx s c).state
  kerbUp s chan && l.armed && !l.paused && decide ((kPos s chan c slot).desc < l.count) &&
    (st == .running || st == .saving || (st == .faulted && l.stopped))

/-- Whether an engine has a block step left of a share in progress. -/
def hasStep (s : State) (chan c slot : Nat) : Bool :=
  let p := kPos s chan c slot
  shareGoes s chan c slot && p.stage == 2 && (match kStepOf s chan c p with | .done => false | .wait => false | _ => true)

/-- The lists with a block step left at an engine, in order of context and slot. -/
def steppers (s : State) (chan : Nat) : List Nat :=
  s.ctxs.flatMap (fun e => e.2.lists.filterMap (fun l => if hasStep s chan e.1 l.1 then some (4 * e.1 + l.1) else none))

/-- It is a list's turn at an engine: the first list from the engine's place on in round-robin order (R226). -/
def hasTurn (s : State) (chan c slot : Nat) : Bool :=
  let l := steppers s chan
  (l.find? (fun k => decide ((getKerb s chan).turn ≤ k))).or l.head? == some (4 * c + slot)

/-- Whether the operation has arithmetic that the residue units check (R235). -/
def kChecked (w : List Nat) : Bool := kOp w != 8 && kOp w != 9

/-- KERB_BLOCK_STEP (R236): nothing is written before a computation passes. It takes an entry of the scoreboard while it runs, and so
waits when there is none, and in a maintenance window (R211, R223). -/
def execKerbBlockStep (chan : ChanId) (c : CtxId) (slot : Fin 4) (bad : Nat) (s : State) : Result :=
  let p := kPos s chan c slot
  let w := p.words
  .next (if !hasTurn s chan c slot || !chanReady s chan then s
    else match kStepOf s chan c p with
      | .done => s
      | .wait => s
      | .fault code addr => shareFault s chan c slot p code addr
      | .zero k i =>
        let n := kRowBytes w
        if kOp w == 8 && !rangeReady s (ctxPart s c) (kAddr w 2 + i * n) n then s
        else
        let p := { p with block := k + 1, range := true }
        let s := bump32 s (pgKerb chan) 0x064 1
        let (s, f) := if kOp w == 8 then writeRangeAt s (dieOfChan chan) (ctxPart s c) (kAddr w 2 + i * n) (List.replicate n 0) else (s, none)
        (match f with
         | some f => shareFault s chan c slot p f.1.num (kAddr w 2 + i * n)
         | none => kAdvance (bump64 s (pgKerb chan) 0x05C (if kOp w == 8 then n else 0)) chan c slot p)
      | .block k lo hi i =>
        match kBlockFail s c lo with
        | some f => shareFault s chan c slot p f.num lo
        | none =>
          match (if kGather w then kMove s chan c w lo hi i
                 else if kOp w == 6 || kOp w == 7 then kOptimise s chan c w lo hi else kSimple s chan c w lo hi) with
          | .wait => s
          | .align => programError s chan c slot p Code.align.num
          | .fault f addr => shareFault s chan c slot p f.num addr
          | .writes l home away fl =>
            if l.any (fun e => !rangeReady s (ctxPart s c) e.1 e.2.1.length) then s
            else
            let (s, drained) := if kChecked w then residueFails s chan bad else (s, false)
            if drained then
              setKPos (leaveStatus s chan c w (kStatus p Code.checkFailed.num)) chan c slot { p with stage := 4, code := Code.checkFailed.num }
            else
              let (s, f) := kWrite s chan c l
              match f with
              | some (f, addr) => shareFault s chan c slot p f.num addr
              | none =>
                kAdvance (bump64 (bump64 s (pgKerb chan) 0x054 home) (pgKerb chan) 0x05C away) chan c slot
                  { p with block := k + 1, flags := p.flags ||| fl })

/-! ### The end of a share (R226) -/

/-- The signal of a share: applied or held, it frees the engine for the next descriptor; a full queue is tried again. -/
def shareSignal (s : State) (chan c slot : Nat) (p : KPos) : State :=
  let (s, o) := deliverSignal s c (kDoneCore p.words) (kDoneMs p.words) 1 (blockLast s chan 0xB) false
  match o with
  | .full => setKPos s chan c slot { p with stage := 3, at_ := s.odometer }
  | .barrier => shareFault s chan c slot p Code.wrongState.num 0
  | _ => freeIfDone (setKPos s chan c slot { desc := p.desc + 1 }) c slot

/-- KERB_SHARE_DONE: no block is left; the status word is written, then DONE_MS is signalled. DESIGN CHOICE (notes/assumptions/148.md):
a finished in-place share whose status word and signal a replay sends again counts in EVENT_COUNT again (R241). -/
def execKerbShareDone (chan : ChanId) (c : CtxId) (slot : Fin 4) (s : State) : Result :=
  let p := kPos s chan c slot
  let l := getList s c slot
  let tooLong := match kStepOf s chan c p with | .done => true | _ => false
  .next (if !shareGoes s chan c slot || !((p.stage == 2 && tooLong) || (p.stage == 3 && p.at_ == 0)) ||
      !rangeReady s (ctxPart s c) (statusAt chan p.words) 4 then s
    else
      let v := kStatus p 0
      let (s, f) := writeStatus s chan c p.words v
      match f with
      | some f => shareFault s chan c slot p f.num (statusAt chan p.words)
      | none =>
        let s := modKerb s chan (fun k => { k with
          stepAt := none
          done := k.done.map (fun d =>
            if d.ctx == c.val && d.slot == slot.val && d.seq == l.seq && d.desc == p.desc then { d with finished := true } else d) })
        let s := addEvent s (pgKerb chan) 1
        let s := traceEvent s 4 chan c 0 0 [l.seq, p.desc, v, 0]
        shareSignal s chan c slot p)

/-- KERB_SIGNAL_RETRY: every 1 µs. -/
def execKerbSignalRetry (chan : ChanId) (c : CtxId) (slot : Fin 4) (s : State) : Result :=
  let p := kPos s chan c slot
  .next (if kerbUp s chan && p.stage == 3 && p.at_ != 0 && passed s p.at_ usNs then shareSignal s chan c slot p else s)

/-- A share of a list that has stopped is still in progress at an engine that works (R229). -/
def endsShare (s : State) (c : Nat) : Bool :=
  (getCtx s c).lists.any (fun l => l.2.stopped && !l.2.paused && l.2.pos.any (fun p => p.2.stage == 2 && kerbUp s p.1))

/-- KERB_PAUSE (R240): the context's lists pause and every engine's place stands recorded; a list that has stopped first ends its
shares in progress (R229). -/
def execKerbPause (c : CtxId) (s : State) : Result :=
  .next (if (getCtx s c).state == .saving && !endsShare s c then
      modCtx s c (fun x => { x with lists := x.lists.map (fun e => (e.1, { e.2 with paused := true })) })
    else s)

end Sys2Proof.Machine
end

