-- ==== Sys2Proof/Machine/Rounds.lean ====
section
/-!
DEFINITION. What exchanges and collective operations share (chapters 15 and 16): reads and writes of their buffers, the abort
with its fault record (R308, R327), the abort of every round of a fenced die (R309), and the checks of R188 on a message.
-/
namespace Sys2Proof.Machine

/-- A write that a die's interchange or collective controller makes: lines of other dies' frames leave the die's own cache (R216). -/
def writeFrom (s : State) (die part addr : Nat) (l : List Byte) : State × Option (Code × Nat) :=
  let r := writeRangeAt s die part addr l
  (dropOwn r.1 die part addr l.length, r.2)

/-- Step 5 of R308: the fault record of a core, and the context faulted, unless it has faulted, drained or been destroyed. -/
def roundFault (s : State) (c core code addr : Nat) : State :=
  let x := getCtx s c
  if x.state == .faulted || x.state == .free || s.hide.draining then s
  else enterFaulted (recordFault s core 2 0xF code (some c) 0 0 addr) c code core

/-- An exchange's round aborts (R308); `tell` unless an ABORT caused it. -/
def ixAbort (s : State) (d k code addr : Nat) (tell : Bool) : State :=
  let x := getIxSlot s d k
  ixQuiet (roundFault (ixAbortQuiet s d k code tell) x.ctx (wCore (nth x.words 6)) code addr) d k

/-- An operation's round aborts (R327): the fault record is that of DONE_CORE. -/
def colAbort (s : State) (d k code addr : Nat) (tell : Bool) : State :=
  let x := getColSlot s d k
  colQuiet (roundFault (colAbortQuiet s d k code tell) x.ctx (wCore (nth x.words 7)) code addr) d k

/-- Every exchange and operation on a fenced die aborts with FENCED (R309), each of them once: their contexts fault after all have. -/
def abortDie (s : State) (d : Nat) : State :=
  let ix := (List.range 16).filter (fun k => (getIxSlot s d k).armed && (getIxSlot s d k).phase != 6)
  let col := (List.range 16).filter (fun k => (getColSlot s d k).armed && (getColSlot s d k).phase != 4)
  let quiet := col.foldl (fun t k => colAbortQuiet t d k Code.fenced.num true)
    (ix.foldl (fun t k => ixAbortQuiet t d k Code.fenced.num true) s)
  let told := col.foldl (fun t k => roundFault t (getColSlot s d k).ctx (wCore (nth (getColSlot s d k).words 7)) Code.fenced.num 0)
    (ix.foldl (fun t k => roundFault t (getIxSlot s d k).ctx (wCore (nth (getIxSlot s d k).words 6)) Code.fenced.num 0) quiet)
  col.foldl (fun t k => colQuiet t d k) (ix.foldl (fun t k => ixQuiet t d k) told)

/-- The checks of R188 that a message of another chip's member passes: the context is not FREE and its job tag is the sender's. -/
def ctxAccepts (s : State) (m : Msg) (ctx : Nat) : Bool := (getCtx s ctx).state != .free && (getCtx s ctx).jobTag == m.job

/-- A trigger milestone has reached a value while its context is RUNNING (R297). -/
def trigReached (s : State) (ctx word value : Nat) : Bool :=
  let core := wCore word
  (getCtx s ctx).state == .running && (getCore s core).ctx == some ctx &&
    waitHolds (mileOf (getCore s core) (wMs word)) 1 (value % 2 ^ 32)

/-- Reserved bits of a 32-word descriptor. -/
def wordsReserved (w : List Nat) (masks : List Nat) : Bool := (List.range 32).any (fun i => outside (nth w i) (nth masks i))

/-- The channels of the descriptor that an arm post names, and then of its peer list, serve. -/
def armReady (s : State) (c addr : Nat) (peers ranks : List Nat → Nat) : Bool :=
  rangeReady s (ctxPart s c) addr 128 &&
    (match readRange s (ctxPart s c) addr 128 with
     | .error _ => true
     | .ok b => rangeReady s (ctxPart s c) (peers (wordsOf b 32)) (4 * ranks (wordsOf b 32)))

/-- The descriptor and peer list of an arm post, or the code of the read that fails (R296, R312). -/
def readArm (s : State) (c addr : Nat) (peers ranks : List Nat → Nat) : Except Code (List Nat × List Nat) :=
  match readRange s (ctxPart s c) addr 128 with
  | .error e => .error e
  | .ok b =>
    let w := wordsOf b 32
    match readRange s (ctxPart s c) (peers w) (4 * ranks w) with
    | .error e => .error e
    | .ok l => .ok (w, wordsOf l (ranks w))

end Sys2Proof.Machine
end

