-- ==== Sys2Proof/Machine/Col.lean ====
section
/-!
DEFINITION. The collective controller (chapter 16): arming, rounds, segments and parts, reductions, puts and gets, limits and
retries.
-/
namespace Sys2Proof.Machine

/-! ### PART_CRC (R322) -/

def crcCBit (c : Word) : Word := if c.getLsbD 0 then (c >>> 1) ^^^ 0x82F63B78#32 else c >>> 1
def crcCByte (c : Word) (b : Byte) : Word := (8 : Nat).repeat crcCBit (c ^^^ b.zeroExtend 32)
/-- CRC-32C, reflected, initial and final value 0xFFFF_FFFF. -/
def crc32c (l : List Byte) : Word := l.foldl crcCByte 0xFFFFFFFF ^^^ 0xFFFFFFFF#32

/-! ### Arming (R315, R316) -/

/-- Bits that Table 91 defines. -/
def colMasks : List Nat :=
  [0x7F3FF, 0x3FF03FF, 0x3FFFFFF, 0xFFFFFFFF, 0xFFFFFFFF, 0x3FFFF, 0xFFFFFFFF, 0x3FFFF, 0x3FFFF, 0xFFFFFFFF] ++
    (List.range 7).flatMap (fun _ => [0xFFFFFFFF, 0xFF]) ++ List.replicate 8 0

def colReduces (w : List Nat) : Bool := colKind w == 1 || colKind w == 2
def colRecvCap (w : List Nat) : Nat := 64 * nth w 9
/-- Bytes of segment q (R317). -/
def segLen (w : List Nat) (q : Nat) : Nat := min (colLen w) ((q + 1) * colSeg w) - q * colSeg w

/-- Bytes of SRC, DST and OUT on this chip. -/
def colSrcLen (w : List Nat) : Nat := if colKind w == 6 || colKind w == 8 then 0 else colLen w
def colDstLen (w : List Nat) : Nat :=
  if colKind w == 2 then segLen w (colMyRank w) else if colKind w == 3 then colRanks w * colLen w
  else if colKind w == 4 then colRecvCap w else if colKind w == 6 || colKind w == 7 then 0 else colLen w

/-- Words that the operation's kind does not use (R315). -/
def colUnused (w : List Nat) : List Nat :=
  let kind := colKind w
  (if kind == 7 then [] else [8]) ++ (if kind == 4 then [] else [9, 18, 19, 20, 21]) ++
    (if kind == 6 then [12, 13, 14, 15] else []) ++ (if colOutEn w then [] else [16, 17])

/-- The checks of R316 on a descriptor and its peer list. -/
def colFails (s : State) (d k c : Nat) (w peers : List Nat) : List (Bool × Code) :=
  let kind := colKind w
  let e := nth peers (colMyRank w)
  let src := wAddr w 12
  let dst := wAddr w 14
  let oneSided := kind == 7 || kind == 8
  let srcLen := if kind == 8 then colLen w else colSrcLen w
  let dstLen := if kind == 7 then colLen w else colDstLen w
  let overlap := decide (0 < srcLen ∧ 0 < dstLen ∧ src < dst + dstLen ∧ dst < src + srcLen)
  let here := !oneSided || peerChip (nth peers 1) == chipId s
  let ends := [(10, 4 * colRanks w), (12, srcLen), (14, dstLen),
    (16, if colOutEn w then colDstLen w / 2 else 0), (18, if kind == 4 then 4 * colRanks w else 0),
    (20, if kind == 4 then 4 * colRanks w else 0), (22, 16)]
  [([12, 14, 16].any (fun i => wAddr w i % 512 != 0) || [18, 20, 22].any (fun i => wAddr w i % 64 != 0), .align),
   ([5, 7].any (fun i => !(getCtx s c).cores.contains (wCore (nth w i))), .notOwner),
   (wordsReserved w colMasks || peers.any (fun p => decide (2 ^ 26 ≤ p)) || (colUnused w).any (fun i => nth w i != 0) ||
      (colFlush w && !colReduces w) || (colSat w && !colOutEn w) || (colRoot w != 0 && kind != 5 && kind != 6) ||
      (kind == 6 && fieldOf (nth w 0) 16 3 != 0), .reservedSet),
   (kind == 0 || decide (8 < kind) || (colReduces w && (colRed w == 0 || decide (5 < colRed w))) || (!colReduces w && colRed w != 0) ||
      (colOutEn w && colRed w != 1) || (if colOutEn w then colOutFmt w != 1 && colOutFmt w != 2 else colOutFmt w != 0) ||
      [5, 7].any (fun i => 47 < wMs (nth w i)) || (kind == 7 && decide (47 < wMs (nth w 8))) ||
      decide (colRanks w ≤ colMyRank w) || decide (colRanks w ≤ colRoot w) ||
      (oneSided && (colRanks w != 2 || colMyRank w != 0)) || peerChip e != chipId s || peerDie e != d || peerCtx e != c ||
      colLimit w == 0 || (if kind == 6 then colLen w != 0 else colLen w == 0) ||
      (here && overlap && !(kind == 3 && dst + colMyRank w * colLen w == src)) ||
      ends.any (fun p => decide (2 ^ 40 < wAddr w p.1 + p.2)), .badField),
   ((getColSlot s d k).armed || (List.range 16).any (fun j =>
      let y := getColSlot s d j
      y.armed && y.ctx == c && colTag y.words == colTag w), .busy)]

/-- COL_ARM. -/
def execColArm (c : CtxId) (s : State) : Result :=
  .next (takePostIf s c 0x14 (fun q => armReady s c (postAddr q 24) (fun w => wAddr w 10) colRanks) (fun s r q =>
    let d := numAt q 16 1
    let k := numAt q 17 1
    let addr := postAddr q 24
    match firstFail ([(addr % 64 != 0, Code.align), (decide (3 < d ∨ 15 < k), .badField), (d < 4 && gated s (pgCol d), .fenced)] ++
        postChecks q [(16, 1), (17, 1), (24, 5)]) with
    | some f => completePost s c r f.num 0
    | none =>
      match readArm s c addr (fun w => wAddr w 10) colRanks with
      | .error f => completePost s c r f.num 0
      | .ok (w, peers) =>
        match firstFail (colFails s d k c w peers) with
        | some f => completePost s c r f.num 0
        | none => completePost (setColSlot s d k { armed := true, ctx := c, words := w, peers := peers }) c r 0 0))

/-- COL_DISARM. -/
def execColDisarm (c : CtxId) (s : State) : Result :=
  .next (takePost s c 0x15 (fun s r q =>
    let d := numAt q 16 1
    let k := numAt q 17 1
    let x := getColSlot s d k
    match firstFail ([(decide (3 < d ∨ 15 < k), Code.badField), (d < 4 && k < 16 && !(x.armed && x.ctx == c.val), .wrongState),
        (d < 4 && k < 16 && x.armed && x.phase != 0, .busy)] ++ postChecks q [(16, 1), (17, 1)]) with
    | some f => completePost s c r f.num 0
    | none => completePost (colFree s d k) c r 0 0))

/-! ### Sending parts (R317, R318) -/

/-- Priority of a part: forwarded and reduced parts in ascending step, step-1 parts of a ring last. -/
def partPrio (w : List Nat) (step : Nat) : Nat := if colRing w && step ≤ 1 then 2 ^ 20 else 2 + step

/-- One part to a rank: its bytes and their PART_CRC. -/
def colSendPart (s : State) (d k rank step off : Nat) (l : List Byte) (ext : List Nat) : State :=
  let x := getColSlot s d k
  colQueue s d k (partPrio x.words step) (colMsgTo s x rank 4 step (off / 64) (crc32c l) 0 l ext)

/-- The bytes [addr, addr + n) to a rank in parts whose offsets count from `off`. -/
def colSendBytes (s : State) (d k rank step addr off n : Nat) (ext : List Nat) : State × Option (Code × Nat) :=
  (List.range (ceilDiv n 512)).foldl (fun (t : State × Option (Code × Nat)) i =>
    match t.2 with
    | some _ => t
    | none =>
      match readRangeAt t.1 d (ctxPart t.1 (getColSlot t.1 d k).ctx) (addr + 512 * i) (min 512 (n - 512 * i)) with
      | .error f => (t.1, some f)
      | .ok l => (colSendPart t.1 d k rank step (off + 512 * i) l ext, none)) (s, none)

/-- The successor and predecessor of this member on the ring. -/
def ringNext (w : List Nat) : Nat := (colMyRank w + 1) % colRanks w
def ringPrev (w : List Nat) : Nat := (colMyRank w + colRanks w - 1) % colRanks w
/-- Segment or block number (a − b) mod n. -/
def ringSub (w : List Nat) (a b : Nat) : Nat := (a + 2 * colRanks w - b) % colRanks w

/-! ### What a round still needs -/

def colParts (n : Nat) : Nat := ceilDiv n 512

/-- Bytes of source r's block that are written here (R319). -/
def a2aOffset (x : ColSlot) (r : Nat) : Nat := ((List.range r).map (fun i => (look x.counts i none).getD 0)).sum
def a2aWritten (x : ColSlot) (r : Nat) : Nat := min ((look x.counts r none).getD 0) (colRecvCap x.words - a2aOffset x r)

/-- Parts of the reduce phase that this member receives. -/
def reduceNeed (w : List Nat) : Nat :=
  ((List.range (colRanks w - 1)).map (fun i => colParts (segLen w (ringSub w (ringPrev w) (i + 1))))).sum

/-- Parts that this member receives in a round. -/
def colNeed (x : ColSlot) : Nat :=
  let w := x.words
  let n := colRanks w
  match colKind w with
  | 1 => reduceNeed w + ((List.range (n - 1)).map (fun i => colParts (segLen w (ringSub w (ringPrev w) i)))).sum
  | 2 => reduceNeed w
  | 3 => (n - 1) * colParts (colLen w)
  | 4 => ((List.range n).map (fun r => if r == colMyRank w then 0 else colParts (a2aWritten x r))).sum
  | 5 => if colMyRank w == colRoot w then 0 else colParts (colLen w)
  | 8 => colParts (colLen w)
  | _ => 0

/-- Every byte the round writes here is accepted, and every part sent is acknowledged (R325). -/
def colDone (s : State) (d k : Nat) : Bool :=
  let i := getCol s d
  let x := getColSlot s d k
  let w := x.words
  colNeed x ≤ x.got.length && x.held.isEmpty && !i.outbox.any (fun e => e.1 == k && isColData e.2.2) &&
    !i.store.any (fun r => r.slot == k) && !i.reduce.any (fun r => r.slot == k) &&
    (if colKind w == 4 then x.placed && decide (colRanks w ≤ x.goes.length + 1)
     else if colKind w == 6 then x.placed else true)

/-- A wait for a message of another member has outlasted LIMIT (R327): for a READY, the COUNTs, the GOs, the ARRIVEs or the RELEASE
since the round began, for the next part since the last one. -/
def colLate (s : State) (d k : Nat) : Bool :=
  let i := getCol s d
  let x := getColSlot s d k
  let w := x.words
  let late := fun (t : Nat) => decide (t + colLimit w * usNs < s.odometer)
  (late x.startAt && ((colRing w && !x.ready && i.outbox.any (fun e => e.1 == k && isColData e.2.2)) ||
      (colKind w == 4 && !(x.placed && decide (colRanks w ≤ x.goes.length + 1))) || (colKind w == 6 && !x.placed))) ||
    (late x.waitAt && decide (x.got.length + (i.reduce.filter (fun r => r.slot == k)).length < colNeed x))

/-- A message arrives in the cycle in which the limit of its wait, begun at `t`, expires: the tie goes to the wait and is counted. -/
def colTie (s : State) (d k t : Nat) : State :=
  if t + colLimit (getColSlot s d k).words * usNs == s.odometer then addTie s (pgCol d) else s

/-! ### Channels that an operation's accesses wait for (R196, R211) -/

def colRange (s : State) (x : ColSlot) (addr n : Nat) : Bool := rangeReady s (ctxPart s x.ctx) addr n

/-- Bytes [at_, at_ + n) of DST and their copies at OUT. -/
def colDstReady (s : State) (x : ColSlot) (at_ n : Nat) : Bool :=
  colRange s x (wAddr x.words 14 + at_) n && (!colOutEn x.words || colRange s x (wAddr x.words 16 + at_ / 2) (n / 2))

/-- What the placement of an all-to-all's blocks reaches: RCOUNTS, SRC and DST. -/
def colPlaceReady (s : State) (x : ColSlot) : Bool :=
  colRange s x (wAddr x.words 20) (4 * colRanks x.words) && colRange s x (wAddr x.words 12) (colLen x.words) &&
    colDstReady s x 0 (colRecvCap x.words)

/-- What the start of a round reaches. -/
def colBeginReady (s : State) (x : ColSlot) : Bool :=
  let w := x.words
  let me := colMyRank w
  let src := wAddr w 12
  let q := ringSub w me 1
  match colKind w with
  | 3 => colRange s x src (colLen w) && (wAddr w 14 + me * colLen w == src || colDstReady s x (me * colLen w) (colLen w))
  | 4 => colRange s x (wAddr w 18) (4 * colRanks w) && colPlaceReady s x
  | 5 => me != colRoot w || colRange s x src (colLen w)
  | 7 => colRange s x src (colLen w)
  | kind =>
    if kind != 1 && kind != 2 then true
    else if colRanks w == 1 then colRange s x src (colLen w) && colDstReady s x 0 (colLen w)
    else colRange s x (src + q * colSeg w) (segLen w q)

/-! ### The end of a round (R325, R326) -/

def colEnd (s : State) (d k : Nat) : State :=
  let x := getColSlot s d k
  let s := addEvent s (pgCol d) 1
  if colStep x.words == 0 then colFree s d k
  else setColSlot s d k { colClear x with
    round := (x.round + 1) % 65536, ready := x.nextReady, nextReady := false, arrived := x.nextArrived, nextArrived := [] }

/-- STATUS and DONE_MS once the round is done here; the round ends when the signal has been applied or held. -/
def colDrive (s : State) (d k : Nat) : State :=
  let x := getColSlot s d k
  let s := if colKind x.words == 1 && x.phase == 2 &&
      reduceNeed x.words ≤ (x.got.filter (fun g => g.1 < colRanks x.words)).length then
      setColSlot s d k { x with phase := 3 } else s
  let x := getColSlot s d k
  if x.phase == 0 || x.phase == 4 || !colDone s d k then s
  else
    let go := fun (s : State) =>
      match deliverSignal s x.ctx (wCore (nth x.words 7)) (wMs (nth x.words 7)) 1 (blockLast s (d * 16) 0xA) true with
      | (s, .full) => modColSlot s d k (fun x => { x with sigAt := s.odometer })
      | (s, .barrier) => colAbort s d k Code.wrongState.num 0 true
      | (s, .gone) => colAbort s d k Code.notOwner.num 0 true
      | (s, _) => colEnd s d k
    if !x.sigs.isEmpty || !colRange s x (wAddr x.words 22) 16 then s
    else
      match writeFrom s d (ctxPart s x.ctx) (wAddr x.words 22) (colStatus x 0) with
      | (s, some f) => colAbort s d k f.1.num f.2 true
      | (s, none) => go (modColSlot s d k (fun x => { x with sigs := [{ kind := 5, core := wCore (nth x.words 7), ms := wMs (nth x.words 7), inc := 1 }] }))

/-! ### Writing final values -/

/-- The 16-bit copies of a run of FP32 values (R314). -/
def colCopies (w : List Nat) (l : List Byte) : List Byte × Flags :=
  (List.range (l.length / 4)).foldl (fun (t : List Byte × Flags) i =>
    let (v, f) := kCopy (colFlush w) (colSat w) (colOutFmt w) (numAt l (4 * i) 4)
    (t.1 ++ leBytes 2 v, t.2 ||| f)) ([], 0)

/-- Values at byte `at_` of DST, and their copies at OUT under OUT_EN. -/
def colWrite (s : State) (d k at_ : Nat) (l : List Byte) : State × Option (Code × Nat) :=
  let x := getColSlot s d k
  let w := x.words
  match writeRangeAt s d (ctxPart s x.ctx) (wAddr w 14 + at_) l with
  | (s, some f) => (s, some f)
  | (s, none) =>
    if !colOutEn w then (s, none)
    else
      let (o, f) := colCopies w l
      let s := modColSlot s d k (fun x => { x with flags := x.flags ||| f })
      writeRangeAt s d (ctxPart s x.ctx) (wAddr w 16 + at_ / 2) o

/-- `colWrite` by the controller itself: lines of other dies' frames leave the die's own cache (R216). -/
def colWriteOwn (s : State) (d k at_ : Nat) (l : List Byte) : State × Option (Code × Nat) :=
  let x := getColSlot s d k
  let r := colWrite s d k at_ l
  let t := dropOwn r.1 d (ctxPart s x.ctx) (wAddr x.words 14 + at_) l.length
  (if colOutEn x.words then dropOwn t d (ctxPart s x.ctx) (wAddr x.words 16 + at_ / 2) (l.length / 2) else t, r.2)

/-- Own bytes copied in place: [addr, addr + n) to byte `at_` of DST. -/
def colCopyLocal (s : State) (d k addr at_ n : Nat) : State × Option (Code × Nat) :=
  (List.range (ceilDiv n 512)).foldl (fun (t : State × Option (Code × Nat)) i =>
    match t.2 with
    | some _ => t
    | none =>
      match readRangeAt t.1 d (ctxPart t.1 (getColSlot t.1 d k).ctx) (addr + 512 * i) (min 512 (n - 512 * i)) with
      | .error f => (t.1, some f)
      | .ok l => colWriteOwn t.1 d k (at_ + 512 * i) l) (s, none)

/-- A failed access aborts the round; otherwise it goes on. -/
def colAfter (t : State × Option (Code × Nat)) (d k : Nat) : State :=
  match t.2 with
  | some f => colAbort t.1 d k f.1.num f.2 true
  | none => colDrive (colPump t.1 d) d k

/-! ### Counts, arrivals and placement (R319, R320) -/

def colCountMsg (s : State) (x : ColSlot) (r : Nat) : Msg := colMsgTo s x r 2 0 0 0 (nth x.sendCounts r / 64) [] []
def colArriveMsg (s : State) (x : ColSlot) : Msg := colMsgTo s x (colRoot x.words) 7 0 0 0 0 [] []

/-- All counts are held: RCOUNTS, GO to every other rank, and the own block copied. GO carries the bytes that will be written,
in 64-byte units, in OFFSET (notes/assumptions/30.md). -/
def colPlace (s : State) (d k : Nat) : State :=
  let x := getColSlot s d k
  let w := x.words
  let n := colRanks w
  let me := colMyRank w
  let dropped := ((List.range n).map (fun r => (look x.counts r none).getD 0 - a2aWritten x r)).sum
  match writeFrom s d (ctxPart s x.ctx) (wAddr w 20) ((List.range n).flatMap (fun r => leBytes 4 (a2aWritten x r))) with
  | (s, some f) => colAbort s d k f.1.num f.2 true
  | (s, none) =>
    let x := { x with placed := true, phase := 3, droppedBytes := dropped, waitAt := s.odometer }
    let s := setColSlot s d k x
    let s := (List.range n).foldl (fun s r =>
      if r == me then s else colQueue s d k 0 (colMsgTo s x r 3 0 (a2aWritten x r / 64) 0 0 [] [])) s
    colAfter (colCopyLocal s d k (wAddr w 12 + ((List.range me).map (nth x.sendCounts)).sum) (a2aOffset x me) (a2aWritten x me)) d k

/-- One source's count is taken. -/
def colTakeCount (s : State) (d k r v : Nat) : State :=
  let x := getColSlot s d k
  if x.phase != 1 || colKind x.words != 4 || (look x.counts r none).isSome then s
  else
    let x := { x with counts := store x.counts r (some v) }
    let s := setColSlot (colTie s d k x.startAt) d k x
    if (List.range (colRanks x.words)).all (fun r => (look x.counts r none).isSome) then colPlace s d k else s

/-- ROOT holds every ARRIVE of its round: RELEASE goes to every member, and held ARRIVEs of the next round count from now. -/
def colRelease (s : State) (d k : Nat) : State :=
  let x := getColSlot s d k
  if x.phase != 1 || x.released || x.arrived.length < colRanks x.words then s
  else
    let i := getCol s d
    let mine := fun (m : Msg) => match m.body with
      | .col b => b.typ == 7 && b.ctx == x.ctx && b.tag == colTag x.words && b.round == (x.round + 1) % 65536
      | _ => false
    let ranks := (i.early.filter mine).filterMap (fun m => match m.body with | .col b => some b.srcRank | _ => none)
    let s := setCol s d { i with early := i.early.filter (fun m => !mine m) }
    let s := setColSlot s d k { x with released := true, nextArrived := ranks.eraseDups }
    (List.range (colRanks x.words)).foldl (fun s r => colQueue s d k 0 (colMsgTo s x r 8 0 0 0 0 [] [])) s

/-- Held COUNTs and ARRIVEs of a round that begins are taken. -/
def colTakeEarly (s : State) (d k : Nat) : State :=
  let x := getColSlot s d k
  let i := getCol s d
  let mine := fun (m : Msg) => match m.body with
    | .col b => b.ctx == x.ctx && b.tag == colTag x.words && b.round == x.round
    | _ => false
  let s := setCol s d { i with early := i.early.filter (fun m => !mine m) }
  (i.early.filter mine).foldl (fun s m =>
    match m.body with
    | .col b =>
      if b.typ == 2 then colTakeCount s d k b.srcRank (64 * b.arg)
      else modColSlot s d k (fun x => { x with arrived := if x.arrived.contains b.srcRank then x.arrived else b.srcRank :: x.arrived })
    | _ => s) s

/-! ### The start of a round -/

/-- What a kind does at its trigger. -/
def colBegin (s : State) (d k : Nat) : State × Option (Code × Nat) :=
  let x := getColSlot s d k
  let w := x.words
  let n := colRanks w
  let me := colMyRank w
  let src := wAddr w 12
  match colKind w with
  | 1 =>
    if n == 1 then colCopyLocal s d k src 0 (colLen w)
    else
      let q := ringSub w me 1
      colSendBytes s d k (ringNext w) 1 (src + q * colSeg w) (q * colSeg w) (segLen w q) []
  | 2 =>
    if n == 1 then colCopyLocal s d k src 0 (colLen w)
    else
      let q := ringSub w me 1
      colSendBytes s d k (ringNext w) 1 (src + q * colSeg w) (q * colSeg w) (segLen w q) []
  | 3 =>
    let (s, f) := if wAddr w 14 + me * colLen w == src then (s, none) else colCopyLocal s d k src (me * colLen w) (colLen w)
    if f.isSome || n == 1 then (s, f) else colSendBytes s d k (ringNext w) 1 src (me * colLen w) (colLen w) []
  | 4 =>
    match readRangeAt s d (ctxPart s x.ctx) (wAddr w 18) (4 * n) with
    | .error f => (s, some f)
    | .ok b =>
      let x := { x with sendCounts := wordsOf b n }
      let s := setColSlot s d k x
      ((List.range n).foldl (fun s r => if r == me then s else colQueue s d k 0 (colCountMsg s x r)) s, none)
  | 5 => if me == colRoot w && n != 1 then colSendBytes s d k (ringNext w) 1 src 0 (colLen w) [] else (s, none)
  | 6 => (colQueue s d k 0 (colArriveMsg s x), none)
  | 7 => colSendBytes s d k 1 0 src 0 (colLen w) [wAddr w 14, colLen w, wCore (nth w 8), wMs (nth w 8), d, x.ctx, x.startAt]
  | _ =>
    ((List.range (colParts (colLen w))).foldl (fun s i =>
      colQueue s d k 2 (colMsgTo s x 1 10 0 (8 * i) 0 0 [] [src + 512 * i, min 512 (colLen w - 512 * i), d, x.ctx])) s, none)

/-- COL_ROUND_TRIGGER (R312, R297). -/
def execColRoundTrigger (die : DieId) (slot : Fin 16) (s : State) : Result :=
  let d := die.val
  let k := slot.val
  let x := getColSlot s d k
  let w := x.words
  .next (if !x.armed || x.phase != 0 || gated s (pgCol d) ||
      !trigReached s x.ctx (nth w 5) (nth w 6 + x.round * colStep w) || !colBeginReady s x then s
    else
      let phase := if colKind w == 4 || colKind w == 6 then 1 else if colReduces w then 2 else 3
      let s := setColSlot s d k { x with phase := phase, startAt := s.odometer, waitAt := s.odometer }
      let s := if colRing w && colRanks w != 1 then colQueue s d k 0 (colMsgTo s x (ringPrev w) 1 0 0 0 0 [] []) else s
      match colBegin s d k with
      | (s, some f) => colAbort s d k f.1.num f.2 true
      | (s, none) =>
        let s := colTakeEarly s d k
        let x := getColSlot s d k
        let s := if colKind w == 4 then colTakeCount s d k (colMyRank w) (nth x.sendCounts (colMyRank w))
          else if colKind w == 6 && colMyRank w == colRoot w then colRelease s d k else s
        colDrive (colPump s d) d k)

/-! ### Arrivals (R329, R330) -/

def colStray (s : State) (d : Nat) (m : Msg) : State :=
  colAnswer (bump32 s (pgCol d) 0x06C 1) d m 5 Code.notOwner.num

/-- A COUNT or ARRIVE ahead of its time is held and acknowledged, or refused when the queue is full. -/
def colHold (s : State) (d : Nat) (m : Msg) : State :=
  let i := getCol s d
  if 512 ≤ i.early.length then colAnswer s d m 5 Code.noSpace.num
  else colAnswer (setCol s d { i with early := i.early ++ [m] }) d m 5 0

/-- A controller refuses a request with FENCED: its page is gated, a PARTITION reset of the context's partition runs (R389), or the chip
drains; throughout a drain and after it GETs are still
served (R372). -/
def colShut (s : State) (d typ ctx : Nat) : Bool :=
  let pg := pgCol d
  partReset s (ctxPart s ctx) ||
    (if typ == 10 && stateOf s pg == 5 then roadblocked s (.col d) else gated s pg || (s.hide.draining && typ != 10))

/-- The checks every request passes, then what the message does. A request that reaches channels which do not serve yet waits
(R196, R211). -/
def colChecked (s : State) (idx typ : Nat) (ready : Nat → Msg → ColMsg → Bool) (act : State → Nat → Msg → ColMsg → State) : State :=
  match s.net[idx]? with
  | none => s
  | some m =>
    match m.body with
    | .col b =>
      if b.typ != typ || m.resp || (m.code == 0 && !colShut s m.dstDie typ b.ctx && ctxAccepts s m b.ctx && !ready m.dstDie m b) then s
      else
        let d := m.dstDie
        let s := dropMsg s idx
        if m.code != 0 then colAnswer s d m 5 m.code
        else if colShut s d typ b.ctx then colAnswer s d m 5 Code.fenced.num
        else if !ctxAccepts s m b.ctx then colStray s d m
        else act s d m b
    | _ => s

/-- How far a message's round is ahead of the slot's. -/
def colAhead (x : ColSlot) (b : ColMsg) : Nat := (b.round + 65536 - x.round) % 65536
def colLive (x : ColSlot) : Bool := x.phase != 0 && x.phase != 4

/-- Where the slot of a message's operation is in the message's round, what it reaches must serve. -/
def colWhen (s : State) (p : ColSlot → ColMsg → Bool) (d : Nat) (b : ColMsg) : Bool :=
  match colFind s d b with
  | some k =>
    let x := getColSlot s d k
    !(colAhead x b == 0 && colLive x && decide (b.srcRank < colRanks x.words)) || p x b
  | none => true

/-- A request of a round in progress. -/
def colArrive (s : State) (idx typ : Nat) (ready : ColSlot → ColMsg → Bool) (act : State → Nat → Nat → Msg → ColMsg → State) : State :=
  colChecked s idx typ (fun d _ b => colWhen s ready d b) (fun s d m b =>
    match colFind s d b with
    | none => colStray s d m
    | some k =>
      let x := getColSlot s d k
      if colAhead x b == 0 && colLive x && decide (b.srcRank < colRanks x.words) then act s d k m b else colStray s d m)

/-- COL_READY: the successor is ready for this round, or for the next one. -/
def execColReady (idx : Nat) (s : State) : Result :=
  .next (colChecked s idx 1 (fun _ _ _ => true) (fun s d m b =>
    match colFind s d b with
    | none => colStray s d m
    | some k =>
      let x := getColSlot s d k
      if b.srcRank != ringNext x.words || 1 < colAhead x b then colStray s d m
      else
        let s := colAnswer s d m 5 0
        if colAhead x b == 1 then setColSlot s d k { x with nextReady := true }
        else colPump (setColSlot (if colLive x then colTie s d k x.startAt else s) d k { x with ready := true }) d))

/-- A COUNT completes those of its round, so that the blocks are placed. -/
def colLastCount (x : ColSlot) (b : ColMsg) : Bool :=
  (List.range (colRanks x.words)).all (fun r => r == b.srcRank || (look x.counts r none).isSome)

/-- COL_COUNT. -/
def execColCount (idx : Nat) (s : State) : Result :=
  .next (colChecked s idx 2 (fun d _ b => colWhen s (fun x b => !colLastCount x b || colPlaceReady s x) d b) (fun s d m b =>
    match colFind s d b with
    | none => colHold s d m
    | some k =>
      let x := getColSlot s d k
      if 1 < colAhead x b || colRanks x.words ≤ b.srcRank then colStray s d m
      else if colAhead x b == 0 && colLive x then
        let s := colTakeCount (colAnswer s d m 5 0) d k b.srcRank (64 * b.arg)
        colDrive (colPump s d) d k
      else colHold s d m))

/-- Where the block for a rank lies in SRC of an all-to-all. -/
def colBlockAt (x : ColSlot) (r : Nat) : Nat := wAddr x.words 12 + ((List.range r).map (nth x.sendCounts)).sum

/-- COL_GO: the sender's block goes out, up to the count that will be written. -/
def execColGo (idx : Nat) (s : State) : Result :=
  .next (colArrive s idx 3 (fun x b => colRange s x (colBlockAt x b.srcRank) (min (64 * b.offset) (nth x.sendCounts b.srcRank)))
      (fun s d k m b =>
    let s := colAnswer s d m 5 0
    let x := getColSlot s d k
    if x.goes.contains b.srcRank || colKind x.words != 4 then s
    else
      let s := setColSlot (colTie s d k x.startAt) d k { x with goes := b.srcRank :: x.goes }
      colAfter (colSendBytes s d k b.srcRank 0 (colBlockAt x b.srcRank) 0 (min (64 * b.offset) (nth x.sendCounts b.srcRank)) []) d k))

/-- COL_ARRIVE. -/
def execColArrive (idx : Nat) (s : State) : Result :=
  .next (colChecked s idx 7 (fun _ _ _ => true) (fun s d m b =>
    match colFind s d b with
    | none => colHold s d m
    | some k =>
      let x := getColSlot s d k
      let w := x.words
      if 1 < colAhead x b || colRanks w ≤ b.srcRank || colMyRank w != colRoot w || colKind w != 6 then colStray s d m
      else if colAhead x b == 0 then
        let s := colAnswer s d m 5 0
        let s := if colLive x then colTie s d k x.startAt else s
        let x := { x with arrived := if x.arrived.contains b.srcRank then x.arrived else b.srcRank :: x.arrived }
        colPump (colRelease (setColSlot s d k x) d k) d
      else if x.released then
        let s := colAnswer s d m 5 0
        setColSlot s d k { x with nextArrived := if x.nextArrived.contains b.srcRank then x.nextArrived else b.srcRank :: x.nextArrived }
      else colHold s d m))

/-- COL_RELEASE: the member leaves the barrier. -/
def execColRelease (idx : Nat) (s : State) : Result :=
  .next (colArrive s idx 8 (fun _ _ => true) (fun s d k m b =>
    if b.srcRank != colRoot (getColSlot s d k).words || colKind (getColSlot s d k).words != 6 then colStray s d m
    else colDrive (modColSlot (colTie (colAnswer s d m 5 0) d k (getColSlot s d k).startAt) d k (fun x => { x with placed := true })) d k))

/-- The parts of a PUT that a message's sender has begun here, whatever its round; and those of the same attempt. -/
def samePut (m : Msg) (b : ColMsg) (p : PutIn) : Bool :=
  p.chip == m.srcChip && p.die == (colBack b).1 && p.from_ == (colBack b).2 && p.tag == b.tag && p.ctx == b.ctx
def sameTry (m : Msg) (b : ColMsg) (p : PutIn) : Bool :=
  samePut m b p && p.round == b.round && p.at_ == nth b.ext (if b.typ == 4 then 6 else 2)

/-- COL_ABORT: of a PUT, the target forgets the parts of that attempt; of an operation of which this chip is a member, this round, or
the next one, aborts here too. -/
def execColAbort (idx : Nat) (s : State) : Result :=
  .next (colChecked s idx 9 (fun _ _ _ => true) (fun s d m b =>
    if m.cw == 3 then
      let i := getCol s d
      colAnswer (setCol s d { i with puts := i.puts.filter (fun p => !sameTry m b p) }) d m 5 0
    else match colFind s d b with
    | none => colStray s d m
    | some k =>
      let x := getColSlot s d k
      if (if x.phase == 0 then 0 else 1) < colAhead x b || colRanks x.words ≤ b.srcRank then colStray s d m
      else if x.phase == 4 then colAnswer s d m 5 0
      else colAbort (colAnswer s d m 5 0) d k (b.arg % 256) 0 false))

/-! ### Parts (R318, R322 to R325) -/

/-- A part is received and done: acknowledged and counted among those of its round. -/
def colTaken (s : State) (d k : Nat) (m : Msg) (g : Nat × Nat) : State :=
  modColSlot (colTie (colAnswer s d m 5 0) d k (getColSlot s d k).waitAt) d k (fun x =>
    { x with got := x.got ++ [g], waitAt := s.odometer })

/-- A checked part that goes on at `step` is held until its chunk is whole (R317). `lo` and `n` are the segment's or block's
range of offsets. -/
def colForward (s : State) (d k step off lo n : Nat) (l : List Byte) : State :=
  let x := getColSlot s d k
  let w := x.words
  let held := x.held ++ [(step, off / 64, l)]
  let c := (off - lo) / colChunk w
  let a := lo + c * colChunk w
  let z := min (lo + n) (a + colChunk w)
  let mine := fun (h : Nat × Nat × List Byte) => h.1 == step && decide (a ≤ 64 * h.2.1 ∧ 64 * h.2.1 < z)
  if (held.filter mine).length < colParts (z - a) then setColSlot s d k { x with held := held }
  else
    let s := setColSlot s d k { x with held := held.filter (fun h => !mine h) }
    (List.range (colParts (z - a))).foldl (fun s i =>
      match held.find? (fun h => h.1 == step && 64 * h.2.1 == a + 512 * i) with
      | some h => colSendPart s d k (ringNext w) step (a + 512 * i) h.2.2 []
      | none => s) s

/-- A part of a copy: written, acknowledged, and sent on where `next` names a step. -/
def colCopyPart (s : State) (d k : Nat) (m : Msg) (b : ColMsg) (at_ lo n : Nat) (next : Option Nat) : State :=
  match colWriteOwn s d k at_ b.payload with
  | (s, some f) => colAbort (colAnswer s d m 5 f.1.num) d k f.1.num f.2 true
  | (s, none) =>
    let s := colTaken s d k m (if colRing (getColSlot s d k).words then b.step else b.srcRank, b.offset)
    let s := match next with | some t => colForward s d k t (64 * b.offset) lo n b.payload | none => s
    colDrive (colPump s d) d k

/-- A part [off, off + length) lies inside [lo, lo + n). -/
def partInside (off len lo n : Nat) : Bool := decide (lo ≤ off ∧ off + len ≤ lo + n)

/-- What a part with a good PART_CRC does, by the kind of its operation. -/
def colPartKind (s : State) (d k : Nat) (m : Msg) (b : ColMsg) : State :=
  let x := getColSlot s d k
  let w := x.words
  let n := colRanks w
  let off := 64 * b.offset
  let len := b.payload.length
  let prev := ringPrev w
  if colRing w && b.srcRank != prev then colStray s d m
  else match colKind w with
    | 3 =>
      let q := ringSub w (prev + 1) b.step
      if b.step == 0 || n ≤ b.step || !partInside off len (q * colLen w) (colLen w) then colStray s d m
      else colCopyPart s d k m b off (q * colLen w) (colLen w) (if b.step + 1 < n then some (b.step + 1) else none)
    | 4 =>
      if !x.placed || !partInside off len 0 (a2aWritten x b.srcRank) then colStray s d m
      else colCopyPart s d k m b (a2aOffset x b.srcRank + off) 0 0 none
    | 5 =>
      if !partInside off len 0 (colLen w) || colMyRank w == colRoot w then colStray s d m
      else colCopyPart s d k m b off 0 (colLen w) (if ringNext w == colRoot w then none else some (b.step + 1))
    | kind =>
      if !colReduces w || b.step == 0 then colStray s d m
      else if b.step < n then
        let q := ringSub w prev b.step
        if !partInside off len (q * colSeg w) (segLen w q) then colStray s d m
        else
          let i := getCol s d
          modColSlot (colTie (setCol s d { i with reduce := i.reduce ++ [{ slot := k, msg := m }] }) d k x.waitAt) d k
            (fun x => { x with waitAt := s.odometer })
      else
        let q := ringSub w prev (b.step - n)
        if kind != 1 || 2 * (n - 1) < b.step || !partInside off len (q * colSeg w) (segLen w q) then colStray s d m
        else colCopyPart s d k m b off (q * colSeg w) (segLen w q) (if b.step < 2 * (n - 1) then some (b.step + 1) else none)

/-- The arrival signal of a PUT (R321), and with it the answer to its last part: a refused signal refuses the part, so that the
round aborts at the sender (R181); a full queue keeps both for another attempt. -/
def putSignal (s : State) (d : Nat) (g : PutSig) : State :=
  let die := match g.msg.body with | .col b => (colBack b).1 | _ => 0
  match deliverSignal s g.ctx g.core g.ms 1 (BitVec.ofNat 32 (g.msg.srcChip * 65536 + die * 256 + 0xA)) true with
  | (s, .full) =>
    let i := getCol s d
    setCol s d { i with putSigs := i.putSigs ++ [{ g with at_ := s.odometer }] }
  | (s, .barrier) => colAnswer s d g.msg 5 Code.wrongState.num
  | (s, .gone) => colAnswer s d g.msg 5 Code.notOwner.num
  | (s, _) => colAnswer s d g.msg 5 0

/-- A part of a PUT at its target (R321). A PUT has arrived when every part of one attempt has been accepted; what an older attempt of
its sender had brought is forgotten, and a late part of one leaves a newer attempt as it is. -/
def colPutPart (s : State) (d : Nat) (m : Msg) (b : ColMsg) : State :=
  let core := nth b.ext 2
  let ms := nth b.ext 3
  if !(getCtx s b.ctx).cores.contains core || 47 < ms then colStray s d m
  else match writeRangeAt s d (ctxPart s b.ctx) (nth b.ext 0 + 64 * b.offset) b.payload with
    | (s, some f) => colAnswer s d m 5 f.1.num
    | (s, none) =>
      let i := getCol s d
      let old := ((i.puts.find? (sameTry m b)).map (fun p => p.got)).getD []
      let got := if old.contains b.offset then old else b.offset :: old
      let rest := i.puts.filter (fun p => !(sameTry m b p || (samePut m b p && decide (p.at_ < nth b.ext 6))))
      if got.length < colParts (nth b.ext 1) then
        colAnswer (setCol s d { i with puts := rest ++ [{
          chip := m.srcChip, die := (colBack b).1, from_ := (colBack b).2, tag := b.tag, round := b.round, at_ := nth b.ext 6,
          ctx := b.ctx, got := got }] }) d m 5 0
      else putSignal (setCol s d { i with puts := rest }) d { ctx := b.ctx, core := core, ms := ms, at_ := 0, msg := m }

/-- The channels that a part reaches serve: of a PUT its destination, of a reduction's part none yet, of another its place in DST. -/
def colPartReady (s : State) (d : Nat) (m : Msg) (b : ColMsg) : Bool :=
  if m.cw == 3 then rangeReady s (ctxPart s b.ctx) (nth b.ext 0 + 64 * b.offset) b.payload.length
  else colWhen s (fun x b =>
    (colReduces x.words && decide (b.step < colRanks x.words)) ||
      colDstReady s x ((if colKind x.words == 4 then a2aOffset x b.srcRank else 0) + 64 * b.offset) b.payload.length) d b

/-- COL_PART: PART_CRC is checked first (R322, R323). -/
def execColPart (idx : Nat) (s : State) : Result :=
  .next (colChecked s idx 4 (colPartReady s) (fun s d m b =>
    let target := if m.cw == 3 then none else colFind s d b
    let live := match target with
      | some k => let x := getColSlot s d k; colAhead x b == 0 && colLive x && decide (b.srcRank < colRanks x.words)
      | none => m.cw == 3
    if !live then colStray s d m
    else if crc32c b.payload != b.crc then colAnswer (bump32 s (pgCol d) 0x064 1) d m 6 Code.checkFailed.num
    else
      let s := bump64 s (pgCol d) 0x05C 1
      match target with
      | some k => colPartKind s d k m b
      | none => colPutPart s d m b))

/-- Bytes that an engine writes for a controller: of its own channel, or away (R241, R318). -/
def colCountWrite (s : State) (chan addr n : Nat) : State :=
  bump64 s (pgKerb chan) (if (placeOf s (frameEntry s (addr / 65536)) addr).1 == chan then 0x054 else 0x05C) n

/-- CHUNK_REDUCTION_DONE (R236, R324): the engine of the channel that holds the member's SRC bytes adds them to the oldest
waiting part; nothing is written or sent before the residue check passes. -/
def execChunkReductionDone (die : DieId) (bad : Nat) (s : State) : Result :=
  let d := die.val
  let i := getCol s d
  .next (match i.reduce with
    | [] => s
    | q :: rest =>
      match q.msg.body with
      | .col b =>
        let k := q.slot
        let x := getColSlot s d k
        let w := x.words
        let n := colRanks w
        let off := 64 * b.offset
        let src := wAddr w 12 + off
        let chan := (placeOf s (frameEntry s (src / 65536)) src).1
        let drop := fun (s : State) => setCol s d { getCol s d with reduce := rest }
        let last := decide (n ≤ b.step + 1)
        let seg := ringSub w (ringPrev w) b.step
        let lo := seg * colSeg w
        let at_ := if colKind w == 2 then off - lo else off
        if !colRange s x src b.payload.length || (last && !colDstReady s x at_ b.payload.length) then s
        else match readRangeAt s d (ctxPart s x.ctx) src b.payload.length with
        | .error f => colAbort (colAnswer (drop s) d q.msg 5 f.1.num) d k f.1.num f.2 true
        | .ok own =>
          if !kerbUp s chan then s
          else
            let (s, drained) := residueFails s chan bad
            if drained then s
            else
              let s := bump64 (drop s) (pgKerb chan) 0x054 own.length
              let (v, f) := kRun (colFlush w) (colRed w) 0x3F800000 (if 4 ≤ colRed w then 8 else 4) b.payload own
              let s := modColSlot s d k (fun x => { x with flags := x.flags ||| f })
              if !last then
                let s := colForward (colTaken s d k q.msg (b.step, b.offset)) d k (b.step + 1) off lo (segLen w seg) v
                colDrive (colPump s d) d k
              else
                match colWrite s d k at_ v with
                | (s, some f) => colAbort (colAnswer s d q.msg 5 f.1.num) d k f.1.num f.2 true
                | (s, none) =>
                  let s := colCountWrite s chan (wAddr w 14 + at_) v.length
                  let s := if colOutEn w then colCountWrite s chan (wAddr w 16 + at_ / 2) (v.length / 2) else s
                  let s := colTaken s d k q.msg (b.step, b.offset)
                  let s := if colKind w == 1 then colForward s d k n off lo (segLen w seg) v else s
                  colDrive (colPump s d) d k
      | _ => setCol s d { i with reduce := rest })

/-! ### Answers -/

/-- The answer concerns a GET's data served here. -/
def servesGet (m : Msg) (b : ColMsg) (r : Resend) : Bool := r.slot == 16 && r.req == m.req && r.msg.dstChip == m.srcChip && b.ext == [1]

/-- The die whose controller an answer concerns. -/
def colOpenDie (s : State) (m : Msg) (b : ColMsg) : Option Nat :=
  (List.range 4).find? (fun d =>
    let i := getCol s d
    i.store.any (fun r => servesGet m b r || (r.req == m.req && r.slot != 16 && b.ext != [1])) ||
      (b.ext != [1] && i.open_.any (fun r => r.req == m.req)))

/-- An answer reaches the request it ends. -/
def colSettle (s : State) (idx typ : Nat) (ready : Nat → Msg → ColMsg → Bool) (act : State → Nat → Msg → ColMsg → State) : State :=
  match s.net[idx]? with
  | none => s
  | some m =>
    match m.body with
    | .col b =>
      if b.typ != typ || !m.resp || (match colOpenDie s m b with | some d => !ready d m b | none => false) then s
      else
        let s := dropMsg s idx
        match colOpenDie s m b with
        | none => unawaited s m
        | some d =>
          let s := if m.mark then cwDecrease s (.col (Fin.ofNat 4 d)) m.cw else s
          act s d m b
    | _ => s

/-- COL_ACK: a part leaves the resend store, or a request ends; a refusal aborts the round. -/
def execColAck (idx : Nat) (s : State) : Result :=
  .next (colSettle s idx 5 (fun _ _ _ => true) (fun s d m b =>
    let i := getCol s d
    if b.ext == [1] then setCol s d { i with store := i.store.filter (fun r => !servesGet m b r) }
    else
      let s := (settleOut s m.req).1
      let part := i.store.find? (fun r => r.req == m.req && r.slot != 16)
      let ask := i.open_.find? (fun r => r.req == m.req)
      let s := setCol s d { i with
        store := i.store.filter (fun r => r.req != m.req || r.slot == 16), open_ := i.open_.filter (fun r => r.req != m.req) }
      let k := match part, ask with | some r, _ => r.slot | none, some r => r.slot | none, none => 16
      let typ := match part, ask with | some _, _ => 4 | none, some r => r.typ | none, none => 9
      let rank := match ask with | some r => r.rank | none => 0
      let x := getColSlot s d k
      if typ == 9 || x.phase == 0 || x.phase == 4 then colPump (colQuiet s d k) d
      else if m.code == Code.noSpace.num && (typ == 2 || typ == 7) then
        let first := ((x.retries.find? (fun e => e.1 == rank)).map (fun e => e.2.1)).getD s.odometer
        colPump (setColSlot s d k { x with retries := x.retries.filter (fun e => e.1 != rank) ++ [(rank, first, s.odometer + 1)] }) d
      else if m.code != 0 then colAbort s d k m.code 0 true
      else
        let s := if typ == 2 || typ == 7 then setColSlot s d k { x with retries := x.retries.filter (fun e => e.1 != rank) } else s
        colDrive (colPump s d) d k))

/-- COL_NAK: the same bytes are sent again; the fourth failure in a row aborts, for a GET at the chip that asked (R323). -/
def execColNak (idx : Nat) (s : State) : Result :=
  .next (colSettle s idx 6 (fun _ _ _ => true) (fun s d m b =>
    let i := getCol s d
    if b.ext == [1] then
      match i.store.find? (servesGet m b) with
      | none => s
      | some r =>
        if 3 ≤ r.fails then setCol s d { i with store := i.store.filter (fun q => !servesGet m b q) }
        else
          bump32 (sendAnswer (setCol s d { i with store := i.store.map (fun q => if servesGet m b q then { q with fails := q.fails + 1 } else q) })
            d r.msg) (pgCol d) 0x068 1
    else match i.store.find? (fun r => r.req == m.req && r.slot != 16) with
      | none => s
      | some r =>
        let s := (settleOut s m.req).1
        let x := getColSlot s d r.slot
        let gone := { i with store := i.store.filter (fun q => q.req != m.req || q.slot == 16) }
        if x.phase == 0 || x.phase == 4 then colPump (colQuiet (setCol s d gone) d r.slot) d
        else if 3 ≤ r.fails then colAbort (setCol s d gone) d r.slot Code.checkFailed.num 0 true
        else
          let s := setCol s d { i with store := i.store.map (fun q => if q.req == m.req && q.slot != 16 then { q with fails := q.fails + 1 } else q) }
          let s := modColSlot s d r.slot (fun x => { x with resent := x.resent + 1 })
          colPump (colQueue s d r.slot 1 { r.msg with req := r.req }) d))

/-! ### Gets (R321) -/

/-- COL_GET_REQ: the target reads the bytes and returns them; they stay in its resend store until the answer. -/
def execColGetReq (idx : Nat) (s : State) : Result :=
  let full := match s.net[idx]? with | some m => decide (4096 ≤ (getCol s m.dstDie).store.length) | none => false
  .next (if full then s
    else colChecked s idx 10 (fun _ _ b => rangeReady s (ctxPart s b.ctx) (nth b.ext 0) (min 512 (nth b.ext 1))) (fun s d m b =>
      match readRangeAt s d (ctxPart s b.ctx) (nth b.ext 0) (min 512 (nth b.ext 1)) with
      | .error f => colAnswer s d m 5 f.1.num
      | .ok l =>
        let r := colReply s d 0 m 11 (crc32c l) l
        let i := getCol s d
        let s := setCol s d { i with store := i.store ++ [{ req := m.req, slot := 16, msg := r }] }
        bump64 (sendAnswer s d r) (pgCol d) 0x054 1))

/-- The answer to a GET's data for slot k, sent back to its target. -/
def getAnswer (s : State) (d k typ code : Nat) (m : Msg) (b : ColMsg) : State :=
  let e := nth (getColSlot s d k).peers 1
  let a := { b with typ := typ, srcRank := 0, ctx := peerCtx e, arg := if typ == 6 then code else 0, crc := 0, payload := [], ext := [1] }
  sendAnswer s d (answerTo s (peerDie e) code m (.col a))

/-- The place in DST of a GET's data serves, where its round is in progress. -/
def getReady (s : State) (d : Nat) (m : Msg) (b : ColMsg) : Bool :=
  match (getCol s d).open_.find? (fun r => r.req == m.req) with
  | some r =>
    let x := getColSlot s d r.slot
    !colLive x || colDstReady s x (64 * b.offset) b.payload.length
  | none => true

/-- COL_GET_DATA: checked, written at the local DST, and acknowledged once it is accepted (R323, R325); data for a round that has
aborted are checked all the same before they are acknowledged and discarded. -/
def execColGetData (idx : Nat) (s : State) : Result :=
  .next (colSettle s idx 11 (getReady s) (fun s d m b =>
    let i := getCol s d
    match i.open_.find? (fun r => r.req == m.req) with
    | none => s
    | some r =>
      let k := r.slot
      let x := getColSlot s d k
      let ends := fun (s : State) => (settleOut (setCol s d { getCol s d with open_ := (getCol s d).open_.filter (fun q => q.req != m.req) }) m.req).1
      if !colLive x && crc32c b.payload != b.crc then getAnswer (bump32 s (pgCol d) 0x064 1) d k 6 Code.checkFailed.num m b
      else if !colLive x then colPump (colQuiet (getAnswer (ends s) d k 5 0 m b) d k) d
      else if crc32c b.payload != b.crc then
        let f := look x.fails b.offset 0 + 1
        let s := bump32 (setColSlot s d k { x with fails := store x.fails b.offset f }) (pgCol d) 0x064 1
        let s := getAnswer s d k 6 Code.checkFailed.num m b
        if 4 ≤ f then colAbort (ends s) d k Code.checkFailed.num 0 true else s
      else
        match colWriteOwn (ends (bump64 s (pgCol d) 0x05C 1)) d k (64 * b.offset) b.payload with
        | (s, some f) => colAbort (getAnswer s d k 5 f.1.num m b) d k f.1.num f.2 true
        | (s, none) =>
          let s := colTie (getAnswer s d k 5 0 m b) d k x.waitAt
          colDrive (colPump (modColSlot s d k (fun x => { x with got := x.got ++ [(0, b.offset)], waitAt := s.odometer })) d) d k))

/-! ### Limits and retries -/

/-- COL_LIMIT_EXPIRY (R327). -/
def execColLimitExpiry (die : DieId) (slot : Fin 16) (s : State) : Result :=
  let x := getColSlot s die slot
  .next (if x.armed && colLive x && colLate s die slot then
      colAbort s die slot Code.timedOut.num 0 true
    else s)

/-- COL_COUNT_RETRY (R319, R320): a refused COUNT or ARRIVE is sent again after 1 µs; a refusal that persists for 2 ms aborts. -/
def execColCountRetry (die : DieId) (slot : Fin 16) (s : State) : Result :=
  let d := die.val
  let k := slot.val
  let x := getColSlot s d k
  .next (match x.retries.find? (fun e => e.2.2 != 0 && passed s (e.2.2 - 1) usNs) with
    | none => s
    | some e =>
      if !colLive x then s
      else if passed s e.2.1 (2 * msNs) then colAbort s d k Code.timedOut.num 0 true
      else
        let s := setColSlot s d k { x with retries := x.retries.map (fun q => if q.1 == e.1 then (q.1, q.2.1, 0) else q) }
        colPump (colQueue s d k 0 (if colKind x.words == 6 then colArriveMsg s x else colCountMsg s x e.1)) d)

/-- Arrival signals of PUTs that met a full held-signal queue at least 1 µs ago. -/
def retryPutSigs (s : State) (d : Nat) : State :=
  let due := fun (g : PutSig) => passed s g.at_ usNs
  let l := (getCol s d).putSigs
  (l.filter due).foldl (fun t g => putSignal t d g) (setCol s d { getCol s d with putSigs := l.filter (fun g => !due g) })

/-- COL_SIGNAL_RETRY (R325): every 1 µs. -/
def execColSignalRetry (die : DieId) (slot : Fin 16) (s : State) : Result :=
  let d := die.val
  let k := slot.val
  let s := retryPutSigs s d
  let x := getColSlot s d k
  .next (if x.sigs.isEmpty || !passed s x.sigAt usNs then s
    else
      match deliverSignal s x.ctx (wCore (nth x.words 7)) (wMs (nth x.words 7)) 1 (blockLast s (d * 16) 0xA) true with
      | (s, .full) => modColSlot s d k (fun x => { x with sigAt := s.odometer })
      | (s, .barrier) => colAbort s d k Code.wrongState.num 0 true
      | (s, .gone) => colAbort s d k Code.notOwner.num 0 true
      | (s, _) => colEnd s d k)

end Sys2Proof.Machine
end

