-- ==== Sys2Proof/Machine/Hide.lean ====
section
/-!
DEFINITION. Fault hiding (R355 to R369): hardware faults and suspect sites, substitution, known-answer tests and stand-ins, shadow
votes, replay and trials.
-/
namespace Sys2Proof.Machine

/-! ### Suspect sites (R361) -/

/-- Times within the last 24 hours. -/
def recent (s : State) (l : List Nat) : List Nat := l.filter (fun t => s.odometer < t + dayNs)

/-- FAULTS_24H of a site. -/
def siteFaults (s : State) (n : Nat) : Nat := (recent s (getSite s n).faults).length
def siteDue (s : State) (n : Nat) : Bool := decide (2 ≤ siteFaults s n)

def dieOfSite (n : Nat) : Nat := n / 16384

/-- When a site last passed a test: in the field, or in the bring-up test, which every site passes that is not DEFECTIVE after it
(R419). -/
def siteKat (s : State) (n : Nat) : Nat :=
  let x := getSite s n
  if x.role == 0 then x.kat else max x.kat s.boot.testAt

/-- The atlas now differs from the one at the last READY (R420). -/
def dirtyAtlas (s : State) : State := { s with record := { s.record with atlasDirty := true } }

/-- A shared-logic event of a die; the second within 24 hours drains the chip (R370). -/
def sharedEvent (s : State) (die : Nat) : State :=
  let l := recent s (look s.hide.shared die []) ++ [s.odometer]
  let s := bump32 { s with hide := { s.hide with shared := store s.hide.shared die l } } pgAtlas 0x090 1
  if 2 ≤ l.length then beginDrain s causeShared (pgFabric die) Code.checkFailed.num else s

/-- A site becomes DEFECTIVE in the field: ATLAS_GEN advances, and the fourth on a die within 24 hours is a shared-logic event. -/
def makeDefective (s : State) (n : Nat) : State :=
  let k := siteKat s n
  let s := modSite (dropShadowsOn s n) n (fun x => { x with
    role := 0, logical := 0, testing := false, standIn := false, failed := false, kat := k })
  let s := bump32 (dirtyAtlas s) pgAtlas 0x068 1
  let d := dieOfSite n
  let l := recent s (look s.hide.defects d []) ++ [s.odometer]
  let put := fun (v : List Nat) => { s with hide := { s.hide with defects := store s.hide.defects d v } }
  if 4 ≤ l.length then sharedEvent (put []) d else put l

/-- A hard-shoulder site leaves the pool (R363). -/
def retireShoulder (s : State) (n : Nat) : State := raise (makeDefective s n) pgAtlas 1

/-! ### Substitution (R362) -/

/-- Steps 1 to 3 of a substitution: a hard-shoulder site becomes a core's placed site. -/
def takeSite (s : State) (core new : Nat) : State :=
  let s := modSite (dropShadowsOn s new) new (fun x => { x with role := 1, logical := core, standIn := false })
  let s := { s with signpost := store s.signpost core new, home := store s.home core new }
  raise (bump32 (dirtyAtlas s) pgAtlas 0x084 1) pgAtlas 0

/-- A substitution with its steps 4 and 5: the site left becomes DEFECTIVE, and ATLAS_CHANGED is sent. -/
def placeOn (s : State) (core bad new : Nat) : State :=
  let s := makeDefective (takeSite s core new) bad
  chipNotice s { typ := 6, odo := BitVec.ofNat 64 s.odometer, arg0 := core }

/-- The site that a core without a context has left by steps 1 to 3 carries no logical core any more, and is neither used nor tested
again. DESIGN CHOICE (notes/assumptions/134.md): R362 ends such a substitution before its step 4 and says nothing of the site's role. -/
def leaveEmpty (s : State) (n : Nat) : State :=
  modSite (dropShadowsOn s n) n (fun x => { x with logical := 0, testing := false, standIn := false, failed := false })

/-- A placed site that its logical core has left without becoming DEFECTIVE. -/
def siteLeft (s : State) (n : Nat) : Bool := (getSite s n).role == 1 && homeOf s (getSite s n).logical != n

/-- The die's control processor restarts, and its duties wait (R382). -/
def restarting (s : State) (d : Nat) : Bool := (look s.hang.restartAt d none).isSome

/-- A site is to be left: its substitution is requested, behind those requested before (R363). -/
def markSite (s : State) (n : Nat) : State :=
  let s := modSite s n (fun x => { x with failed := true })
  if s.hide.waits.contains n then s else { s with hide := { s.hide with waits := s.hide.waits ++ [n] } }

/-- The site of a core is to be left. -/
def markFailed (s : State) (core : Nat) : State := markSite s (siteOf s core)

/-- The substitution of a site is no longer requested. -/
def unwait (s : State) (n : Nat) : State := { s with hide := { s.hide with waits := s.hide.waits.filter (fun k => k != n) } }

/-- A site whose core reset overran stays behind its roadblock (Table 106) until its logical core has left it. -/
def roadblockStays (s : State) (core : Nat) : Bool :=
  (coreSite s core).failed && s.hang.resets.any (fun r => r.dom == .core (Fin.ofNat 4096 core))

def dropRoadblock (s : State) (core : Nat) : State :=
  if (coreSite s core).failed then
    { s with hang := { s.hang with resets := s.hang.resets.filter (fun r => r.dom != .core (Fin.ofNat 4096 core)) } }
  else s

/-- A logical core goes from its site to another. A core that holds no context ends it at step 3 (R362), but the site of an overrun core
reset becomes DEFECTIVE all the same (Table 106). -/
def substituteOn (s : State) (core n : Nat) : State :=
  let bad := siteOf s core
  let stays := roadblockStays s core
  let t := dropRoadblock (unwait s bad) core
  if (getCore s core).ctx.isSome then placeOn t core bad n
  else
    let t := takeSite t core n
    modCore (if stays then makeDefective t bad else leaveEmpty t bad) core (fun x => { x with ts := [] })

/-- A logical core moves to the nearest fitting free site, or the chip drains; a drain that has begun cancels it (R363), and a restart
of the die control processor delays it (R382). DESIGN CHOICE (notes/assumptions/130.md): the chip drains at once also where a fitting
site is only under test or standing in. -/
def substitute (s : State) (core : Nat) : State :=
  if s.hide.draining then s
  else if restarting s (dieOfCore core) then markFailed s core
  else match fittingSite s core with
    | none => beginDrain s causeShoulder pgAtlas Code.checkFailed.num
    | some n => substituteOn s core n

/-- The site that stands in for a core becomes its placed site (R366), once the die control processor is there (R382). -/
def keepStandIn (s : State) (core n : Nat) : State :=
  if restarting s (dieOfCore core) then markSite s n else placeOn (unwait s n) core n (siteOf s core)

/-- A core leaves its site: at once where it holds no context; otherwise with the restore of the replay that REPLAY_STOPPED runs, as
steps 1 to 3 of R362 restore the core's record on the new site. -/
def leaveSite (s : State) (core : Nat) : State :=
  match (getCore s core).ctx with
  | some c =>
    if (getCtx s c).state == .faulted then noteHw (markFailed s core) c core else substitute s core
  | none => substitute s core

/-- The signpost returns to the placed site and the stand-in is free again. -/
def returnHome (s : State) (core : Nat) : State :=
  let away := siteOf s core
  let home := homeOf s core
  if away == home then s
  else modSite { s with signpost := store s.signpost core home } away (fun x => { x with standIn := false })

/-- A site that hardware faults condemn: a hard-shoulder site leaves the pool; a placed site's core is substituted, or its context
is faulted so that replay substitutes it. -/
def condemn (s : State) (n : Nat) : State :=
  let x := getSite s n
  if x.role == 2 then retireShoulder s n
  else if x.role != 1 then s
  else
    let core := x.logical
    if siteLeft s n then s
    else if siteOf s core != n then keepStandIn s core n
    else match (getCore s core).ctx with
      | none => substitute s core
      | some c => leaveSite (enterFaulted (noteHw s c core) c Code.checkFailed.num core) core

/-- A hardware fault charged to a site apart from any context (R356, R378). -/
def siteFault (s : State) (n : Nat) : State :=
  let s := chargeSite s n
  if siteDue s n then condemn s n else s

/-- FAULT_24H_EXPIRY (R361): faults older than 24 hours leave FAULTS_24H. -/
def execFault24hExpiry (site : BitVec 16) (s : State) : Result :=
  let n := site.toNat
  if siteOk n then .next (modSite s n (fun x => { x with faults := recent s x.faults })) else .fault .noSuchSite

/-! ### Replay (R357) and trials (R386) -/

/-- A move of a live core begins: MOVING is set while it lasts. -/
def startMove (s : State) (core dst why : Nat) : State :=
  let s := modPage s (pgCore core) (fun p => { p with moving := true })
  { s with hide := { s.hide with moves := s.hide.moves ++ [{ core := core, src := siteOf s core, dst := dst, why := why, start := s.odometer }] } }

/-- A core without a test or trial on it goes back to its placed site. -/
def goHome (s : State) (core : Nat) : State :=
  if siteOf s core == homeOf s core || (getCore s core).trial.isSome || (getSite s (homeOf s core)).testing ||
      (getSite s (homeOf s core)).failed || s.hide.moves.any (fun m => m.core == core) then s
  else if (getCore s core).ctx.isSome then startMove s core (homeOf s core) 1 else returnHome s core

/-- A marked suspect's trial starts: a free hard-shoulder site stands in where one fits. -/
def startTrial (s : State) (core c : Nat) : State :=
  if !(getCore s core).suspects.contains c || (getCore s core).trial.isSome then s
  else
    let s := modCore s core (fun x => { x with trial := some (c, s.odometer) })
    if siteOf s core != homeOf s core then s
    else match fittingSite s core with
      | none => s
      | some n => modSite (dropShadowsOn { s with signpost := store s.signpost core n } n) n (fun x => { x with standIn := true })

def startTrials (s : State) (c : Nat) : State := (getCtx s c).cores.foldl (fun s k => startTrial s k c) s

/-- A mark is cleared. The last one cleared without a failure charges the placed site. -/
def clearMark (s : State) (core c : Nat) : State :=
  let x := getCore s core
  let s := setCore s core { x with suspects := x.suspects.filter (fun k => k != c) }
  if x.suspects == [c] then siteFault s (homeOf s core) else s

/-- A context's marks are cleared without a verdict (DESTROY), which charges the home site where it was the last. -/
def dropMarks (s : State) (c : Nat) : State :=
  let marked := (s.cores.filter (fun e => e.2.suspects.contains c)).map (fun e => e.1)
  let s := marked.foldl (fun s k => clearMark s k c) s
  { s with cores := s.cores.map (fun e => (e.1, { e.2 with accused := e.2.accused.filter (fun k => k != c) })) }

/-- TRIAL_PASS (R386): a complete image, a halt, or 100 ms without a hang. -/
def execTrialPass (core : CoreId) (s : State) : Result :=
  let x := getCore s core
  .next (match x.trial with
    | none => s
    | some (c, t) =>
      let y := getCtx s c
      if y.state == .halted || y.state == .free || y.state == .idle || x.halted || decide (t < y.imageAt) ||
          (y.state == .running && passed s t (100 * msNs)) then
        goHome (clearMark (modCore s core (fun x => { x with trial := none })) core c) core
      else s)

/-- A context's replay waits for a test of one of its sites: one that runs, or one that follows a core's reset (R357, R385). -/
def testWanted (s : State) (x : Ctx) : Bool :=
  s.hide.tests.any (fun t => (t.why == 2 || t.why == 3) && x.cores.contains t.core) ||
    s.hang.resets.any (fun r => r.test && (match r.dom with | .core c => x.cores.contains c.val | _ => false))

/-- The cores of a FAULTED context have stopped: their requests are settled, no ADD to another chip is outstanding (R359), and no message
in flight concerns them. -/
def faultSettled (s : State) (c : Nat) : Bool :=
  let l := (getCtx s c).cores
  l.all (fun k => (getCore s k).reqs.all (fun r => r.2.isNone) && (!roadblocked s (.core k) || (coreSite s k).failed)) &&
    !s.outs.any (fun o => match o.msg.body with | .remoteAdd k _ _ _ _ => l.contains k | _ => false) &&
    !(inFlight s).any (concerns l)

/-- The replay itself, once the images can be read (R211), after which cores left standing in go home. -/
def replayNow (s : State) (c : Nat) : State :=
  let s := modCtx s c (fun x => { x with hwCores := [] })
  if s.hide.draining || !imageReady s (getCtx s c) then s
  else
    let s := doReplay (startTrials s c) c
    (getCtx s c).cores.foldl goHome s

/-- A site that is to be left: a second hardware fault within 24 hours, a failed test, or an overrun core reset. -/
def siteGoes (s : State) (n : Nat) : Bool := siteDue s n || (getSite s n).failed

/-- A core of a faulted context leaves its site (R357, step 3): a hard-shoulder site is retired, a placed one substituted. -/
def leaveFaulted (s : State) (core : Nat) : State :=
  let n := siteOf s core
  if (getSite s n).role == 2 then returnHome (retireShoulder s n) core else substitute s core

/-- Sites that a die tests again before any other start their test where they can (R436): hard-shoulder sites, and placed sites whose
cores hold no context that runs. -/
def retestFirst (s : State) (d : Nat) : State :=
  (look s.hide.first d []).foldl (fun s n =>
    let x := getSite s n
    let s := if x.testing || x.standIn || x.role == 0 || siteLeft s n || (x.role == 1 && !ownsSite s n x.logical) then s
      else startTest s n 0 (if x.role == 1 then x.logical else 0)
    if (getSite s n).testing || x.role == 0 || siteLeft s n then
      { s with hide := { s.hide with first := store s.hide.first d ((look s.hide.first d []).filter (fun k => k != n)) } }
    else s) s

/-- The replay of a FAULTED context whose cores have stopped (R357): sites with a first hardware fault are tested in place, those with a
second one are substituted, and then the context is replayed. A fenced die is waited for (R387), and a draining chip does not replay
(R371). -/
def replayStep (s : State) (c : Nat) : State :=
  let x := getCtx s c
  if x.state != .faulted || x.replay != 1 || s.hide.draining || s.power.state != .on || !faultSettled s c then s
  else if x.cores.any (fun k => !dieUp s (dieOfCore k)) then modCtx s c (fun x => { x with replay := 3 })
  else if x.cores.any (fun k => (coreSite s k).testing) then s
  else
    let new := x.hwCores.filter (fun k => !siteGoes s (siteOf s k))
    if !new.isEmpty then
      modCtx (new.foldl (fun s k => startTest (retestFirst s (dieOfCore k)) (siteOf s k) 2 k) s) c (fun x => { x with replay := 2 })
    else if x.hwCores.any (fun k => restarting s (dieOfCore k)) then x.hwCores.foldl markFailed s
    else replayNow (x.hwCores.foldl leaveFaulted s) c

/-- REPLAY_STOPPED. -/
def execReplayStopped (c : CtxId) (s : State) : Result := .next (replayStep s c)

/-- The site apart from any resident context whose engine an event of a core concerns (R356, R378), and since when it works: the site
under a test for the core, that of a shadow run of the core, or, for a hard-shoulder site under test, which no logical core names, one
of the core's die. DESIGN CHOICE (notes/assumptions/156.md). -/
def workingSite (s : State) (core : Nat) : Option (Nat × Nat) :=
  match s.hide.tests.find? (fun t => (getSite s t.site).role != 2 && t.core == core) with
  | some t => some (t.site, t.start)
  | none =>
    match s.hide.shadows.find? (fun r => r.core == core && r.ended) with
    | some r => some (if r.crc1.isSome then r.site2.getD r.site1 else r.site1, r.at_)
    | none => (s.hide.tests.find? (fun t => (getSite s t.site).role == 2 && dieOfSite t.site == dieOfCore core)).map
        (fun t => (t.site, t.start))

/-- An engine of a site fails a check with CHECK_FAILED: the record names the resident context, or the site is charged. -/
def engineFault (s : State) (core : CoreId) (eng : Fin 6) (hw : Bool) (detail : Nat) : State :=
  let x := getCore s core
  let pc := ((headOf x eng).map (fun e => e.addr)).getD 0
  match x.ctx with
  | some _ => coreFault s core eng Code.checkFailed.num hw pc detail 0
  | none =>
    let s := recordFault s core 2 eng Code.checkFailed.num none pc detail 0
    if hw then siteFault s (((workingSite s core).map (fun e => e.1)).getD (siteOf s core)) else s

/-! ### Known-answer tests and stand-ins (R364 to R366, R434 to R436) -/

/-- The control processor of a die may start a test: an image has been accepted, no drain has begun, and the thermal ceiling allows
step 32 (R382, R371, R434, R435). -/
def mayTest (s : State) (die : Nat) : Bool :=
  s.boot.accepted && s.power.state == .on && !s.hide.draining && decide (32 ≤ nth s.power.ceiling die) &&
    dieUp s die && (look s.hang.restartAt die none).isNone

/-- The sites of the rotation, and the next of them after the place of the last one tested. -/
def rotationSites (s : State) (die : Nat) : List Nat := (dieSites die).filter (fun n => (getSite s n).role != 0 && !siteLeft s n)

/-- No other site of the die is to be tested before a site (R436). -/
def mayTestSite (s : State) (n : Nat) : Bool :=
  let l := look s.hide.first (dieOfSite n) []
  l.isEmpty || l.contains n

def nextInRotation (s : State) (die : Nat) : Option Nat :=
  match look s.hide.first die [] with
  | n :: _ => some n
  | [] =>
    let l := rotationSites s die
    let at_ := look s.hide.rotation die 0
    match l.find? (fun n => decide (at_ ≤ siteIndex n)) with
    | some n => some n
    | none => l.head?

/-- A rotation test starts in place, or under a stand-in; none where it has to wait. -/
def rotationStart (s : State) (n : Nat) : Option State :=
  let x := getSite s n
  if x.testing || x.standIn || x.failed then none
  else if x.role == 2 then some (startTest s n 0 0)
  else
    let core := x.logical
    if siteOf s core != n || (getPage s (pgCore core)).moving || roadblocked s (.core core) then none
    else match (getCore s core).ctx with
      | none => some (startTest s n 0 core)
      | some c =>
        if (getCtx s c).state != .running then none
        else (fittingSite s core).map (fun h =>
          let s := modSite (modSite (dropShadowsOn s h) h (fun y => { y with standIn := true })) n (fun y => { y with testing := true })
          startMove s core h 0)

/-- KAT_START (R364): every 16 s the next site of the rotation, or the one that waits to start first (R436). -/
def execKatStart (die : DieId) (s : State) : Result :=
  let d := die.val
  .next (if !mayTest s d || !passed s (look s.hide.lastStart d 0) (16 * 1000 * msNs) then s
    else match nextInRotation s d with
      | none => s
      | some n =>
        match rotationStart s n with
        | none => s
        | some t => { t with hide := { t.hide with
            rotation := store t.hide.rotation d (siteIndex n + 1), first := store t.hide.first d ((look t.hide.first d []).filter (fun k => k != n)),
            lastStart := store t.hide.lastStart d s.odometer } })

/-- KAT_FORCED (R364): the site's last passed test is 5.75 hours old. -/
def execKatForced (core : CoreId) (s : State) : Result :=
  let n := siteOf s core
  let x := getSite s n
  .next (if !mayTest s (dieOfCore core) || x.testing || x.role != 1 || !passed s (siteKat s n) (23 * hourNs / 4) ||
      !mayTestSite s n || x.failed || (getPage s (pgCore core)).moving then s
    else match (getCore s core).ctx with
      | none => startTest s n 0 core
      | some c =>
        if (getCtx s c).state == .running then
          beginSave s c { kind := 2, tag := 0, start := 0, after := 4, haltCore := core }
        else s)

/-- The core record is copied from site to site (R365); what the record does not hold stays with the logical core. -/
def moveRecord (s : State) (core c : Nat) : State :=
  let x := getCore s core
  let s := loadRecord s c core (recordOf s core) false x.saveSeq.toNat false
  settle (modCore s core (fun y => { y with
    residency := x.residency, remoteAcked := x.remoteAcked, remoteSkip := x.remoteSkip, srSeen := x.srSeen,
    accIn := x.accIn, slots := x.slots,
    runState := if (getCtx s c).state == .saving then 3 else y.runState })) core

/-- STAND_IN_MOVE_DONE (R365): the core has stopped and its requests are complete; the record and the signpost move. -/
def execStandInMoveDone (core : CoreId) (s : State) : Result :=
  .next (match s.hide.moves.find? (fun m => m.core == core.val) with
    | none => s
    | some m =>
      if !coreStopped (getCore s core) then s
      else
        let s := match (getCore s core).ctx with
          | some c => moveRecord s core c
          | none => s
        let s := { s with signpost := store s.signpost core m.dst,
                          hide := { s.hide with moves := s.hide.moves.filter (fun q => q.core != core.val) } }
        let s := modPage s (pgCore core) (fun p => { p with moving := false })
        if m.why == 0 then startTest s m.src 1 core
        else modSite s m.src (fun x => { x with standIn := false }))

/-- A failed test is recorded with the site's last pass (R366). -/
def noteKatFail (s : State) (n : Nat) : State :=
  raise (bump32 { s with hide := { s.hide with katFailed := s.hide.katFailed ++ [(n, siteKat s n, s.odometer)] } } pgAtlas 0x088 1)
    pgAtlas 1

def setSiteReg32 (x : Site) (off v : Nat) : Site := { x with regs := store x.regs off (BitVec.ofNat 32 v) }

/-- How long the slice of a test took, in ns: a free value between what the programs of R364 leave of the test's time (they take at
most 1 ms) and the slice's budget of 2 ms (R434). -/
def sliceNs (s : State) (t : Test) (g : Nat) : Nat :=
  let total := s.odometer - t.start
  let low := total - msNs
  low + g % (min total (2 * msNs) - low + 1)

/-- A slice that ends in the same cycle as its budget has passed, and the tie is counted on the page of the site's core (R436). -/
def sliceTie (s : State) (t : Test) (ns : Nat) : State :=
  if ns == 2 * msNs && (getSite s t.site).role == 1 then addTie s (pgCore (getSite s t.site).logical) else s

/-- The slice counters of a site (R441). -/
def noteSlice (s : State) (t : Test) (r : KatResult) : State :=
  let n := t.site
  let (g, s) := freshNat s
  let ns := sliceNs s t g
  let s := if r == .pass then sliceTie s t ns else s
  let code := match r with
    | .pass => 0 | .progFail => 0 | .sliceFail _ => Code.checkFailed.num | .sliceOverrun _ => Code.timedOut.num
  let part := match r with | .pass => 0 | .progFail => 0 | .sliceFail p => p.val | .sliceOverrun p => p.val
  if r == .progFail then s
  else modSite s n (fun x =>
    let get := fun (o : Nat) => (look x.regs o 0).toNat
    let x := setSiteReg32 x 0xC00 (sat32 (get 0xC00) 1)
    let x := if code == 0 then x else setSiteReg32 x 0xC04 (sat32 (get 0xC04) 1)
    let x := setSiteReg32 (setSiteReg32 x 0xC08 (s.odometer % 2 ^ 32)) 0xC0C (s.odometer / 2 ^ 32)
    setSiteReg32 x 0xC10 (code * 2 ^ 24 + part * 2 ^ 16 + min 2047 (ns / usNs)))

/-- A context whose forced test has ended runs again, or becomes IDLE for a pre-emption that came meanwhile. It waits for a site that
is still under test or still to be left (R382), and until its image can be read (R211). -/
def rerun (s : State) (c : Nat) : State :=
  let x := getCtx s c
  match x.saving with
  | none => s
  | some v =>
    if v.after != 5 || x.state != .saving || x.cores.any (fun k => (coreSite s k).testing) then s
    else if x.preemptPost.isSome || s.hide.draining then leaveIdle s c
    else if x.cores.any (fun k => (coreSite s k).failed) || !imageReady s x then s
    else match restoreImage s c false with
      | .error e => enterHalted (restoreFault s c e) c e.1.num e.2
      | .ok t => enterRunning t c false

/-- Every context that waits after its forced test goes on where it can. -/
def rerunAll (s : State) : State :=
  (s.ctxs.filter (fun e => e.2.state == .saving && (match e.2.saving with | some v => v.after == 5 | none => false))).foldl
    (fun s e => rerun s e.1) s

/-- Substitutions that have waited for a die control processor, in the order in which they were requested (R363, R382). -/
def leaveWaiting (s : State) (d : Nat) : State :=
  rerunAll ((s.hide.waits.filter (fun n => dieOfSite n == d)).foldl (fun s n =>
    let core := (getSite s n).logical
    if !(getSite s n).failed || (getSite s n).role != 1 || siteLeft s n then unwait s n
    else if siteOf s core != n then keepStandIn s core n
    else match (getCore s core).ctx with
      | none => substitute s core
      | some c => replayStep s c) s)

/-- The site whose core hung without a culprit passed its test: the logged contexts are marked (R385). -/
def markSuspects (s : State) (core : Nat) : State := modCore s core (fun x => { x with suspects := x.accused, accused := [] })

/-- Contexts that wait for the test of a core's site go on with their replay once no other test is awaited; the replay substitutes the
sites that failed. -/
def resumeReplays (s : State) (core : Nat) : State :=
  let bad := (coreSite s core).failed
  { s with ctxs := s.ctxs.map (fun e =>
      (e.1, if e.2.state == .faulted && e.2.replay == 2 && e.2.cores.contains core then
          { e.2 with replay := if testWanted s e.2 then 2 else 1,
                     hwCores := e.2.hwCores.filter (fun k => k != core) ++ (if bad then [core] else []) }
        else e.2)) }

/-- What follows the end of a test, by why it ran. -/
def katOutcome (s : State) (t : Test) (ok : Bool) : State :=
  let n := t.site
  if t.why == 1 then
    let away := siteOf s t.core
    if away == n then if ok then s else condemn s n
    else if ok then goHome s t.core
    else keepStandIn s t.core n
  else if t.why == 0 then
    if ok then s else if (getSite s n).role == 2 then makeDefective s n else if (getSite s n).role == 1 then condemn s n else s
  else if t.why == 2 then
    let s := if ok then s
      else if (getSite s n).role == 2 then returnHome (makeDefective s n) t.core else leaveSite s t.core
    resumeReplays s t.core
  else if t.why == 3 then
    let s := if ok then markSuspects s t.core else modCore (leaveSite s t.core) t.core (fun x => { x with accused := [] })
    resumeReplays s t.core
  else
    rerunAll (if ok then s else substitute s t.core)

/-- KAT_DONE (R364, R366, R435): the site's test ends; its slice has cleared the tile store. A test that has taken more than 3 ms does
not pass: its slice overruns. -/
def execKatDone (site : BitVec 16) (r : KatResult) (s : State) : Result :=
  let n := site.toNat
  if !siteOk n then .fault .noSuchSite
  else .next (match s.hide.tests.find? (fun t => t.site == n) with
    | none => s
    | some t =>
      if r == .pass && decide (t.start + 3 * msNs < s.odometer) then s
      else
      let s := { s with hide := { s.hide with tests := s.hide.tests.filter (fun q => q.site != n) } }
      let s := noteSlice (modSite s n (fun x => { x with testing := false, kat := if r == .pass then s.odometer else x.kat })) t r
      let s := clearTested s n (getSite s n).logical false
      katOutcome (if r == .pass then s else noteKatFail s n) t (r == .pass))

/-! ### Shadow votes (R367, R368) -/

/-- The pass of a core whose shadow run has not been decided. -/
def shadowOf (s : State) (core : Nat) (voted : Bool) : Option ShadowRun :=
  s.hide.shadows.find? (fun r => r.core == core && r.ended && r.crc1.isSome == voted)

def setShadow (s : State) (old : ShadowRun) (l : List ShadowRun) : State :=
  { s with hide := { s.hide with shadows := s.hide.shadows.flatMap (fun r => if r == old then l else [r]) } }

/-- SHADOW_RUN_DONE: the two CRCs are compared; on a mismatch a second free site runs the pass again. -/
def execShadowRunDone (core : CoreId) (crc : Word) (s : State) : Result :=
  .next (match shadowOf s core false with
    | none => s
    | some r =>
      let s := bump64 s pgAtlas 0x074 1
      if crc == r.crc then setShadow s r []
      else
        let s := raise (bump32 s pgAtlas 0x07C 1) pgAtlas 2
        let q := { r with crc1 := some crc, at_ := s.odometer }
        setShadow s r [{ q with site2 := nearest ((shadowFree s (dieOfCore core)).filter (fun n => n != r.site1)) (siteOf s core) }])

/-- A lost vote's hardware fault of the placed core (R367): the site that ran the pass is charged, and the context is faulted while it
is still resident. -/
def placedLoses (s : State) (r : ShadowRun) : State :=
  let s := recordFault s r.core 2 1 Code.checkFailed.num (some r.ctx) 0 0 0
  if r.site0 == siteOf s r.core && (getCore s r.core).ctx == some r.ctx then
    enterFaulted (noteHw (chargeSite s r.site0) r.ctx r.core) r.ctx Code.checkFailed.num r.core
  else enterFaulted (siteFault s r.site0) r.ctx Code.checkFailed.num r.core

/-- A vote without a majority: two within 24 hours are a shared-logic event of the die (R361); the context is replayed. -/
def splitVote (s : State) (r : ShadowRun) : State :=
  let d := dieOfCore r.core
  let l := recent s (look s.hide.splits d []) ++ [s.odometer]
  let put := fun (v : List Nat) => { s with hide := { s.hide with splits := store s.hide.splits d v } }
  let s := if 2 ≤ l.length then sharedEvent (put []) d else put l
  enterFaulted (recordFault s r.core 2 1 Code.checkFailed.num (some r.ctx) 0 0 0) r.ctx Code.checkFailed.num r.core

/-- SHADOW_VOTE_DONE: the majority of the three runs decides. A vote that found no second site free takes one now. -/
def execShadowVoteDone (core : CoreId) (crc : Word) (s : State) : Result :=
  .next (match shadowOf s core true with
    | none => s
    | some r =>
      let free := (shadowFree s (dieOfCore core)).filter (fun n => n != r.site1)
      if r.site2.isNone && free.isEmpty then s
      else
        let s := setShadow s r []
        if r.crc1 == some crc then placedLoses s r
        else if crc == r.crc then siteFault s r.site1
        else splitVote s r)

end Sys2Proof.Machine
end

