-- ==== Sys2Proof/Machine/Ix.lean ====
section
/-!
DEFINITION. The interchange (chapter 15): arming, rounds, messages, limits and retries.
-/
namespace Sys2Proof.Machine

/-! ### Flows (R300, R301) -/

def flowTotal : Nat := 262144
/-- GRANTED of a flow (R301). -/
def flowGranted (x : IxSlot) (f : Flow) : Nat := min f.count (ixCap x.words - f.base)

/-- Flow entries held by the armed slots of a die. -/
def flowsHeld (s : State) (d : Nat) : Nat :=
  ((List.range 16).map (fun k => let x := getIxSlot s d k; if x.armed then ixFlows x.words else 0)).sum

/-- The lowest free contiguous range of n entries (R300). -/
def flowRange (s : State) (d n : Nat) : Option Nat :=
  let held := (List.range 16).filterMap (fun k =>
    let x := getIxSlot s d k
    if x.armed then some (x.flowBase, x.flowBase + ixFlows x.words) else none)
  let fits := (0 :: held.map (fun h => h.2)).filter (fun b =>
    decide (b + n ≤ flowTotal) && held.all (fun h => decide (b + n ≤ h.1 ∨ h.2 ≤ b)))
  fits.foldl (fun (m : Option Nat) b => match m with | none => some b | some a => some (min a b)) none

/-! ### Arming (R298, R299) -/

/-- Bits that Table 82 defines. -/
def ixMasks : List Nat :=
  [0x3FFFFFF, 0x1FF03FF, 0xFF, 0xFFFF, 0xFFFFF, 0xFFFFFFFF, 0x3FFFF, 0xFFFFFFFF, 0x3FFFF, 0x3FFFF, 0x3FFFF, 0x3FFFF, 0xFFFFFFFF,
   0x3FFFF, 0x3F, 0] ++ (List.range 8).flatMap (fun _ => [0xFFFFFFFF, 0xFF])

/-- Words that name a core and milestone. -/
def ixNamed (w : List Nat) : List Nat := if ixCombine w then [6, 8, 9, 10, 11, 13] else [6, 8, 9, 10]

/-- The checks of R299 on a descriptor and its peer list. -/
def ixFails (s : State) (d k c : Nat) (w peers : List Nat) : List (Bool × Code) :=
  let e := nth peers (ixMyRank w)
  let buf := ixLocal w * ixCap w * ixRowBytes w
  let ends := [(16, 4 * ixRanks w), (18, 8 * ixRoutes w), (20, 0), (22, buf), (24, if ixCombine w then buf else 0),
    (26, if ixCombine w then ixRoutes w * ixRowBytes w else 0), (28, 64 + 8 * ixLocal w), (30, 4 * ixRoster w)]
  [((List.range 8).any (fun i => wAddr w (16 + 2 * i) % 64 != 0), .align),
   ((ixNamed w).any (fun i => !(getCtx s c).cores.contains (wCore (nth w i))), .notOwner),
   (wordsReserved w ixMasks || peers.any (fun p => decide (2 ^ 26 ≤ p)) ||
      (!ixCombine w && [11, 12, 13, 24, 25, 26, 27].any (fun i => nth w i != 0)), .reservedSet),
   (ixLimit w == 0 || decide (32 < ixRoster w) || (ixNamed w).any (fun i => 47 < wMs (nth w i)) ||
      decide (ixRanks w ≤ ixMyRank w) || peerChip e != chipId s || peerDie e != d || peerCtx e != c ||
      ends.any (fun p => decide (2 ^ 40 < wAddr w p.1 + p.2)), .badField),
   ((getIxSlot s d k).armed || (List.range 16).any (fun j =>
      let y := getIxSlot s d j
      y.armed && y.ctx == c && ixTag y.words == ixTag w), .busy),
   ((flowRange s d (ixFlows w)).isNone, .noSpace)]

/-- IX_ARM. -/
def execIxArm (c : CtxId) (s : State) : Result :=
  .next (takePostIf s c 0x12 (fun q => armReady s c (postAddr q 24) (fun w => wAddr w 16) ixRanks) (fun s r q =>
    let d := numAt q 16 1
    let k := numAt q 17 1
    let addr := postAddr q 24
    match firstFail ([(addr % 64 != 0, Code.align), (decide (3 < d ∨ 15 < k), .badField), (d < 4 && gated s (pgIx d), .fenced)] ++
        postChecks q [(16, 1), (17, 1), (24, 5)]) with
    | some f => completePost s c r f.num 0
    | none =>
      match readArm s c addr (fun w => wAddr w 16) ixRanks with
      | .error f => completePost s c r f.num 0
      | .ok (w, peers) =>
        match firstFail (ixFails s d k c w peers) with
        | some f => completePost s c r f.num 0
        | none =>
          let x : IxSlot := { armed := true, ctx := c, words := w, peers := peers, flowBase := (flowRange s d (ixFlows w)).getD 0 }
          completePost (setFlows (setIxSlot s d k x) d x.flowBase (ixFlows w) (heldFlow x k)) c r 0 0))

/-- IX_DISARM. -/
def execIxDisarm (c : CtxId) (s : State) : Result :=
  .next (takePost s c 0x13 (fun s r q =>
    let d := numAt q 16 1
    let k := numAt q 17 1
    let x := getIxSlot s d k
    match firstFail ([(decide (3 < d ∨ 15 < k), Code.badField), (d < 4 && k < 16 && !(x.armed && x.ctx == c.val), .wrongState),
        (d < 4 && k < 16 && x.armed && x.phase != 0, .busy)] ++ postChecks q [(16, 1), (17, 1)]) with
    | some f => completePost s c r f.num 0
    | none => completePost (ixFree s d k) c r 0 0))

/-! ### Channels that an exchange's accesses wait for (R196, R211) -/

/-- Rows of the routed entries that satisfy `p` in a buffer of rows: `at_` gives an entry's row number from its place and itself. -/
def ixRowsReady (s : State) (x : IxSlot) (base : Nat) (at_ : Nat → Nat × Nat → Nat) (p : Nat → Bool) : Bool :=
  (List.range x.routes.length).all (fun i =>
    let e := x.routes.getD i (0, 0)
    !p e.2 || rangeReady s (ctxPart s x.ctx) (base + at_ i e * ixRowBytes x.words) (ixRowBytes x.words))

/-- SEND_BUF and COMB_BUF rows of the entries routed to a home. -/
def ixSendReady (s : State) (x : IxSlot) (h : Nat) : Bool :=
  ixRowsReady s x (wAddr x.words 20) (fun _ e => e.1) (fun g => g / ixLocal x.words == h)
def ixCombReady (s : State) (x : IxSlot) (p : Nat → Bool) : Bool := ixRowsReady s x (wAddr x.words 26) (fun i _ => i) p

/-- RX_TABLE and the roster. -/
def ixTableReady (s : State) (x : IxSlot) : Bool :=
  rangeReady s (ctxPart s x.ctx) (wAddr x.words 28) (64 + 8 * ixLocal x.words) &&
    rangeReady s (ctxPart s x.ctx) (wAddr x.words 30) (4 * ixRoster x.words)

/-! ### Requests of a round -/

/-- The COUNT message to a rank. -/
def ixCountMsg (s : State) (d : Nat) (x : IxSlot) (r : Nat) : Msg :=
  let n := ixLocal x.words
  ixMsgTo s x r 1 0 0 ((List.range n).flatMap (fun e => leBytes 2 (getFlow s d (sendFlow x (r * n + e))).count))

/-- GRANTs to every rank, and phase 3 begins (Table 84). -/
def ixGrants (s : State) (d k : Nat) : State :=
  let x := getIxSlot s d k
  let n := ixLocal x.words
  let s := (List.range (ixRanks x.words)).foldl (fun s r =>
    let bases := fun (lo m : Nat) => (List.range m).flatMap (fun i => leBytes 4 (getFlow s d (recvFlow x r (lo + i))).base)
    let s := ixQueue s d { req := 0, slot := k, typ := 2, rank := r } (ixMsgTo s x r 2 0 0 (bases 0 (min n 128)))
    if 128 < n then ixQueue s d { req := 0, slot := k, typ := 2, rank := r, part := 1 } (ixMsgTo s x r 2 1 0 (bases 128 (n - 128)))
    else s) s
  ixPump (modIxSlot s d k (fun x => { x with phase := 3 })) d

/-- A part joins those of its row; true when the row is whole. -/
def addPart (x : IxSlot) (t : Nat × Nat × Nat × Nat × Nat) : IxSlot × Bool :=
  let ps := if x.parts.contains t then x.parts else x.parts ++ [t]
  let mine := fun (q : Nat × Nat × Nat × Nat × Nat) =>
    q.1 == t.1 && q.2.1 == t.2.1 && q.2.2.1 == t.2.2.1 && q.2.2.2.1 == t.2.2.2.1
  if ixParts x.words ≤ (ps.filter mine).length then ({ x with parts := ps.filter (fun q => !mine q) }, true)
  else ({ x with parts := ps }, false)

/-- Bytes of part p of a row. -/
def partLen (w : List Nat) (p : Nat) : Nat := min 512 (ixRowBytes w - 512 * p)

/-! ### Signals and the end of a round (R303) -/

def ixPending (s : State) (d k typ : Nat) : Bool :=
  (getIx s d).outbox.any (fun e => e.1.slot == k && e.1.typ == typ) || (getIx s d).open_.any (fun r => r.slot == k && r.typ == typ)

def ixAllFlows (s : State) (d : Nat) (x : IxSlot) (recv : Bool) (p : Flow → Bool) : Bool :=
  let n := ixRanks x.words * ixLocal x.words
  (List.range n).all (fun j => p (getFlow s d (x.flowBase + j + if recv then n else 0)))

def hasSig (l : List SigItem) (kind : Nat) : Bool := l.any (fun g => g.kind == kind)

/-- Queues the signals whose conditions now hold. -/
def ixDue (s : State) (d k : Nat) : State :=
  let x := getIxSlot s d k
  if x.phase == 0 || x.phase == 6 then s
  else
    let sig := fun (s : State) (kind word : Nat) =>
      modIxSlot s d k (fun x => { x with sigs := x.sigs ++ [{ kind := kind, core := wCore (nth x.words word), ms := wMs (nth x.words word), inc := 1 }] })
    let s := if 3 ≤ x.phase && !x.arriveDone && !hasSig x.sigs 2 && ixAllFlows s d x true (fun f => f.moved == flowGranted x f) then
      sig s 2 9 else s
    let s := if x.combinedDone || hasSig x.sigs 4 || !x.readySent || x.readyIn.length < ixRanks x.words ||
        !ixAllFlows s d x false (fun f => f.grantIn) || ixPending s d k 5 then s
      else sig s 4 13
    if x.sentDone || hasSig x.sigs 3 || !ixAllFlows s d x false (fun f => f.grantIn) || ixPending s d k 3 ||
        !rangeReady s (ctxPart s x.ctx) (wAddr x.words 28 + 4) 12 then s
    else
      match writeFrom s d (ctxPart s x.ctx) (wAddr x.words 28 + 4)
          (leBytes 4 x.noRoute ++ leBytes 4 x.outRange ++ leBytes 4 x.dropped) with
      | (s, some f) => ixAbort s d k f.1.num f.2 true
      | (s, none) => sig s 3 10

/-- The round ends on this chip when everything it needs has been signalled (Table 84). -/
def ixEnd (s : State) (d k : Nat) : State :=
  let x := getIxSlot s d k
  if x.phase == 0 || x.phase == 6 || !x.sentDone || !x.arriveDone then s
  else if ixCombine x.words && !(x.combinedDone && ixAllFlows s d x true (fun f => f.fetched == flowGranted x f)) then
    if x.readySent then s else setIxSlot s d k { x with phase := 4 }
  else
    let s := addEvent s (pgIx d) 1
    if ixStep x.words == 0 then ixFree s d k
    else setIxSlot s d k { x with
      phase := 0, round := (x.round + 1) % 65536, parts := [], readyIn := [], routes := [], counted := false, readySent := false,
      sentDone := false, arriveDone := false, combinedDone := false, retries := [], sigAt := 0 }

/-- Delivers the queued signals in order and goes on with what each of them allows. A signal that met a full queue is tried again
after 1 µs, not before (R303). -/
def ixDrive (s : State) (d k fuel : Nat) : State :=
  match fuel with
  | 0 => s
  | n + 1 =>
    let s := ixDue s d k
    let x := getIxSlot s d k
    match x.sigs with
    | [] => ixEnd s d k
    | g :: rest =>
      if x.sigAt != 0 && !passed s (x.sigAt - 1) usNs then s
      else match deliverSignal s x.ctx g.core g.ms g.inc (blockLast s (d * 16) 9) true with
      | (s, .full) => modIxSlot s d k (fun x => { x with sigAt := s.odometer + 1 })
      | (s, .barrier) => ixAbort s d k Code.wrongState.num 0 true
      | (s, .gone) => ixAbort s d k Code.notOwner.num 0 true
      | (s, _) =>
        let s := modIxSlot s d k (fun x => { x with
          sigs := rest, sigAt := 0, arriveDone := x.arriveDone || g.kind == 2, sentDone := x.sentDone || g.kind == 3,
          combinedDone := x.combinedDone || g.kind == 4 })
        ixDrive (if g.kind == 1 then ixGrants s d k else s) d k n

/-- Enough for the picks of a roster and the signals of a round. -/
def ixFuel : Nat := 40

/-! ### Counting and allocation (R302, R305) -/

/-- The home allocates once a COUNT has arrived from every rank. DESIGN CHOICE (notes/assumptions/150.md): nothing checks a roster entry;
its reserved bits are ignored, a PICK_MS of 48 to 63 is added to all the same, and a core outside the context's set aborts with
NOT_OWNER (R305). -/
def ixAllocate (s : State) (d k : Nat) : State :=
  let x := getIxSlot s d k
  let w := x.words
  let total := fun (e : Nat) => ((List.range (ixRanks w)).map (fun r => (getFlow s d (recvFlow x r e)).count)).sum
  let t := (List.range (ixLocal w)).map (fun e => (total e, min (total e) (ixCap w)))
  let s := (List.range (ixLocal w)).foldl (fun s e =>
    ((List.range (ixRanks w)).foldl (fun (a : State × Nat) r =>
      let i := recvFlow x r e
      let f := getFlow a.1 d i
      (setFlow a.1 d i { f with base := min (ixCap w) a.2 }, a.2 + f.count)) (s, 0)).1) s
  let s := setIxSlot s d k { x with phase := 2, counted := true }
  let part := ctxPart s x.ctx
  let (s, f0) := writeFrom s d part (wAddr w 28) (leBytes 4 (x.round * 65536))
  let (s, f1) := writeFrom s d part (wAddr w 28 + 16)
    (List.replicate 48 0 ++ t.flatMap (fun e => leBytes 4 e.1 ++ leBytes 4 e.2))
  match f0, f1 with
  | some f, _ => ixAbort s d k f.1.num f.2 true
  | none, some f => ixAbort s d k f.1.num f.2 true
  | none, none =>
    match readRangeAt s d part (wAddr w 30) (4 * ixRoster w) with
    | .error f => ixAbort s d k f.1.num f.2 true
    | .ok b =>
      let busy := (List.range (ixLocal w)).filter (fun e => 0 < (t.getD e (0, 0)).2)
      let picks := (List.range (min (ixRoster w) busy.length)).map (fun j =>
        let v := numAt b (4 * j) 4
        ({ kind := 0, core := wCore v, ms := wMs v, inc := nth busy j + 1 } : SigItem))
      let done : SigItem := { kind := 1, core := wCore (nth w 8), ms := wMs (nth w 8), inc := 1 }
      ixDrive (modIxSlot s d k (fun x => { x with sigs := picks ++ [done] })) d k ixFuel

/-- A wait that began at `t` is satisfied in the cycle in which its limit expires: the tie is counted (R307). -/
def ixTie (s : State) (d : Nat) (x : IxSlot) (t : Nat) : State :=
  if t + ixLimit x.words * usNs == s.odometer then addTie s (pgIx d) else s

/-- A source rank's counts reach the receive flows (Table 84). -/
def ixTakeCount (s : State) (d k : Nat) (m : IxMsg) : State :=
  let x := getIxSlot s d k
  if (getFlow s d (recvFlow x m.srcRank 0)).countIn || ixRanks x.words ≤ m.srcRank || x.phase != 1 then s
  else
    let s := (List.range (ixLocal x.words)).foldl (fun s e =>
      modFlow s d (recvFlow x m.srcRank e) (fun f => { f with countIn := true, count := numAt m.payload (2 * e) 2 })) s
    if ixAllFlows s d x true (fun f => f.countIn) then ixAllocate (ixTie s d x x.startAt) d k else s

/-- Held COUNTs of a round that begins are taken (R306). -/
def ixTakeEarly (s : State) (d k : Nat) : State :=
  let x := getIxSlot s d k
  let mine := fun (m : Msg) => match m.body with
    | .ix b => b.ctx == x.ctx && b.tag == ixTag x.words && b.round == x.round
    | _ => false
  let i := getIx s d
  let s := setIx s d { i with early := i.early.filter (fun m => !mine m) }
  (i.early.filter mine).foldl (fun s m => match m.body with | .ix b => ixTakeCount s d k b | _ => s) s

/-- IX_ROUND_TRIGGER (R297, R302). -/
def execIxRoundTrigger (die : DieId) (slot : Fin 16) (s : State) : Result :=
  let d := die.val
  let k := slot.val
  let x := getIxSlot s d k
  let w := x.words
  .next (if !x.armed || x.phase != 0 || gated s (pgIx d) ||
      !trigReached s x.ctx (nth w 6) (nth w 7 + x.round * ixStep w) ||
      !rangeReady s (ctxPart s x.ctx) (wAddr w 18) (8 * ixRoutes w) || !ixTableReady s x then s
    else match readRangeAt s d (ctxPart s x.ctx) (wAddr w 18) (8 * ixRoutes w) with
      | .error f => ixAbort s d k f.1.num f.2 true
      | .ok b =>
        let n := ixRanks w * ixLocal w
        let routes := (List.range (ixRoutes w)).map (fun i => (numAt b (8 * i) 4, numAt b (8 * i + 4) 4))
        let s := setFlows s d x.flowBase (2 * n) (fun j =>
          { heldFlow x k j with count := if j < n then (routes.filter (fun e => e.2 == j)).length else 0 })
        let x := { x with
          phase := 1, startAt := s.odometer, routes := routes, noRoute := (routes.filter (fun e => e.2 == 0xFFFFFFFF)).length,
          outRange := (routes.filter (fun e => n ≤ e.2 && e.2 != 0xFFFFFFFF)).length, dropped := 0 }
        let s := setIxSlot s d k x
        let s := (List.range (ixRanks w)).foldl (fun s r => ixQueue s d { req := 0, slot := k, typ := 1, rank := r } (ixCountMsg s d x r)) s
        ixPump (ixTakeEarly s d k) d)

/-! ### Arrivals (R306) -/

def ixFind (s : State) (d : Nat) (b : IxMsg) : Option Nat :=
  (List.range 16).find? (fun k => let x := getIxSlot s d k; x.armed && x.ctx == b.ctx && ixTag x.words == b.tag)

/-- The answer to a request of an exchange: it goes to the die of its sender's peer entry, with this member's rank and the sender's
context (Table 85). DESIGN CHOICE (notes/assumptions/129.md): where no armed exchange tells them, the request's fields stand. -/
def ixReply (s : State) (d code : Nat) (m : Msg) (typ arg : Nat) (data : List Byte) : Msg :=
  match m.body with
  | .ix b =>
    let x := match ixFind s d b with | some k => getIxSlot s d k | none => {}
    let b := { b with typ := typ, part := if typ == 8 then 0 else b.part, arg := arg, payload := data }
    if b.srcRank < x.peers.length then
      answerTo s (peerDie (nth x.peers b.srcRank)) code m (.ix { b with srcRank := ixMyRank x.words, ctx := peerCtx (nth x.peers b.srcRank) })
    else answerTo s m.dstDie code m (.ix b)
  | b => answerTo s m.dstDie code m b

def ixAnswer (s : State) (d : Nat) (m : Msg) (code : Nat) : State := sendAnswer s d (ixReply s d code m 8 code [])

/-- Discarded, counted and refused. -/
def ixStray (s : State) (d : Nat) (m : Msg) : State :=
  ixAnswer (bump32 s (pgIx d) 0x084 1) d m Code.notOwner.num

/-- A COUNT ahead of its round is held and acknowledged, or refused when the queue is full. -/
def ixHold (s : State) (d : Nat) (m : Msg) : State :=
  let i := getIx s d
  if 512 ≤ i.early.length then ixAnswer s d m Code.noSpace.num
  else ixAnswer (setIx s d { i with early := i.early ++ [m] }) d m 0

/-- An interchange refuses a request with FENCED: its page is gated, the chip drains, or a PARTITION reset of the context's partition
runs (R389). -/
def ixShut (s : State) (d ctx : Nat) : Bool := gated s (pgIx d) || s.hide.draining || partReset s (ctxPart s ctx)

/-- A request of a round in progress that waits until the channels it reaches serve (R196, R211). -/
def ixWaits (s : State) (m : Msg) (b : IxMsg) (ready : IxSlot → IxMsg → Bool) : Bool :=
  m.code == 0 && !ixShut s m.dstDie b.ctx && ctxAccepts s m b.ctx && (match ixFind s m.dstDie b with
    | some k =>
      let x := getIxSlot s m.dstDie k
      x.phase != 0 && x.phase != 6 && b.round == x.round && decide (b.srcRank < ixRanks x.words) && !ready x b
    | none => false)

/-- A request of an exchange arrives at its interchange: the checks of R306, then what its type does. One that a fence has turned away
on its way is answered as it came; a COUNT ahead of its round is held; an ABORT need not await its round. -/
def ixArrive (s : State) (idx typ : Nat) (ready : IxSlot → IxMsg → Bool) (act : State → Nat → Nat → Msg → IxMsg → State) : State :=
  match s.net[idx]? with
  | none => s
  | some m =>
    match m.body with
    | .ix b =>
      if b.typ != typ || m.resp || ixWaits s m b ready then s
      else
        let d := m.dstDie
        let s := dropMsg s idx
        if m.code != 0 then ixAnswer s d m m.code
        else if ixShut s d b.ctx then ixAnswer s d m Code.fenced.num
        else if !ctxAccepts s m b.ctx then ixStray s d m
        else match ixFind s d b with
          | none => if typ == 1 then ixHold s d m else ixStray s d m
          | some k =>
            let x := getIxSlot s d k
            let ahead := (b.round + 65536 - x.round) % 65536
            let live := x.phase != 0 && x.phase != 6
            let known := decide (b.srcRank < ixRanks x.words)
            if ahead == 0 && live then (if known then act s d k m b else ixStray s d m)
            else if (if x.phase == 0 then 0 else 1) < ahead then ixStray s d m
            else if typ == 1 then ixHold s d m
            else if typ == 7 && x.phase == 6 then ixAnswer s d m 0
            else if typ == 7 && known then act s d k m b
            else ixStray s d m
    | _ => s

/-- IX_COUNT. -/
def execIxCount (idx : Nat) (s : State) : Result :=
  .next (ixArrive s idx 1 (fun x _ => ixTableReady s x) (fun s d k m b => ixTakeCount (ixAnswer s d m 0) d k b))

/-- The rows of a home's newly granted experts are read and sent, or dropped (Table 84, phase 3). -/
def ixDispatch (s : State) (d k h lo hi : Nat) : State × Option (Code × Nat) :=
  let x := getIxSlot s d k
  let w := x.words
  let n := ixLocal w
  (List.range x.routes.length).foldl (fun (t : State × Option (Code × Nat)) i =>
    let e := x.routes.getD i (0, 0)
    if t.2.isSome || e.2 / n != h || e.2 % n < lo || hi ≤ e.2 % n then t
    else
      let f := getFlow t.1 d (sendFlow x e.2)
      let j := ((x.routes.take i).filter (fun q => q.2 == e.2)).length
      if flowGranted x f ≤ j then
        (bump32 (modIxSlot t.1 d k (fun x => { x with dropped := x.dropped + 1 })) (pgIx d) 0x080 1, none)
      else match readRangeAt t.1 d (ctxPart t.1 x.ctx) (wAddr w 20 + e.1 * ixRowBytes w) (ixRowBytes w) with
        | .error f => (t.1, some f)
        | .ok b =>
          let row := f.base + j
          ((List.range (ixParts w)).foldl (fun s p =>
            ixQueue s d { req := 0, slot := k, typ := 3, rank := h, expert := e.2 % n, row := row, part := p, route := i }
              (ixMsgTo s x h 3 p (row + e.2 % n * 2 ^ 20) ((b.drop (512 * p)).take 512))) t.1, none)) (s, none)

/-- A zero row of COMB_BUF for a route entry. -/
def ixZeroRow (s : State) (d : Nat) (x : IxSlot) (i : Nat) : State × Option (Code × Nat) :=
  writeFrom s d (ctxPart s x.ctx) (wAddr x.words 26 + i * ixRowBytes x.words) (List.replicate (ixRowBytes x.words) 0)

/-- The home's GRANT has arrived whole. -/
def homeGranted (s : State) (d : Nat) (x : IxSlot) (h : Nat) : Bool :=
  (List.range (ixLocal x.words)).all (fun e => (getFlow s d (sendFlow x (h * ixLocal x.words + e))).grantIn)

/-- What READY of a home allows once its GRANT is here too: zero rows for its dropped entries, and FETCHes for the granted ones. -/
def ixCombineHome (s : State) (d k h : Nat) : State × Option (Code × Nat) :=
  let x := getIxSlot s d k
  let w := x.words
  let n := ixLocal w
  (List.range x.routes.length).foldl (fun (t : State × Option (Code × Nat)) i =>
    let e := x.routes.getD i (0, 0)
    if t.2.isSome || e.2 / n != h || ixRanks w * n ≤ e.2 then t
    else
      let f := getFlow t.1 d (sendFlow x e.2)
      let j := ((x.routes.take i).filter (fun q => q.2 == e.2)).length
      if flowGranted x f ≤ j then ixZeroRow t.1 d x i
      else
        let row := f.base + j
        ((List.range (ixParts w)).foldl (fun s p =>
          ixQueue s d { req := 0, slot := k, typ := 5, rank := h, expert := e.2 % n, row := row, part := p, route := i }
            (ixMsgTo s x h 5 p (row + e.2 % n * 2 ^ 20) [])) t.1, none)) (s, none)

/-- A failed access aborts the round; otherwise it goes on. -/
def ixAfter (t : State × Option (Code × Nat)) (d k : Nat) : State :=
  match t.2 with
  | some f => ixAbort t.1 d k f.1.num f.2 true
  | none => ixDrive (ixPump t.1 d) d k ixFuel

/-- IX_GRANT. -/
def execIxGrant (idx : Nat) (s : State) : Result :=
  .next (ixArrive s idx 2 (fun x b => ixSendReady s x b.srcRank && (!ixCombine x.words ||
      ixCombReady s x (fun g => g / ixLocal x.words == b.srcRank))) (fun s d k m b =>
    let s := ixAnswer s d m 0
    let x := getIxSlot s d k
    let n := ixLocal x.words
    let lo := 128 * b.part
    let hi := min n (lo + 128)
    if hi ≤ lo || (getFlow s d (sendFlow x (b.srcRank * n + lo))).grantIn then s
    else
      let s := (List.range (hi - lo)).foldl (fun s i =>
        modFlow s d (sendFlow x (b.srcRank * n + lo + i)) (fun f => { f with grantIn := true, base := numAt b.payload (4 * i) 4 })) s
      let t := ixDispatch s d k b.srcRank lo hi
      ixAfter (if t.2.isNone && x.readyIn.contains b.srcRank && homeGranted t.1 d x b.srcRank then ixCombineHome t.1 d k b.srcRank
        else t) d k))

/-- Where part PART of the row that ARG names lies in a buffer of CAP rows for each local expert. -/
def ixRowAt (w : List Nat) (base : Nat) (b : IxMsg) : Nat :=
  base + (fieldOf b.arg 20 8 * ixCap w + fieldOf b.arg 0 20) * ixRowBytes w + 512 * b.part

/-- Its channel serves. -/
def ixPartReady (s : State) (i : Nat) (x : IxSlot) (b : IxMsg) : Bool :=
  rangeReady s (ctxPart s x.ctx) (ixRowAt x.words (wAddr x.words i) b) (partLen x.words b.part)

/-- IX_TOKEN: written at its row, then acknowledged. -/
def execIxToken (idx : Nat) (s : State) : Result :=
  .next (ixArrive s idx 3 (ixPartReady s 22) (fun s d k m b =>
    let x := getIxSlot s d k
    let w := x.words
    let row := fieldOf b.arg 0 20
    let e := fieldOf b.arg 20 8
    if x.phase < 3 || ixLocal w ≤ e || ixCap w ≤ row || ixParts w ≤ b.part then ixStray s d m
    else
      let addr := ixRowAt w (wAddr w 22) b
      match writeFrom s d (ctxPart s x.ctx) addr (b.payload.take (partLen w b.part)) with
      | (s, some f) => ixAbort (ixAnswer s d m f.1.num) d k f.1.num f.2 true
      | (s, none) =>
        let s := ixAnswer s d m 0
        let (x, whole) := addPart (getIxSlot s d k) (1, b.srcRank, e, row, b.part)
        let s := setIxSlot s d k x
        let s := if whole then bump64 (modFlow s d (recvFlow x b.srcRank e) (fun f => { f with moved := f.moved + 1 })) (pgIx d) 0x078 1 else s
        ixDrive s d k ixFuel))

/-- IX_READY: the combine phase of the home begins, or waits for its GRANT. -/
def execIxReady (idx : Nat) (s : State) : Result :=
  .next (ixArrive s idx 4 (fun x b => ixCombReady s x (fun g => g / ixLocal x.words == b.srcRank)) (fun s d k m b =>
    let x := getIxSlot s d k
    let w := x.words
    let n := ixLocal w
    if !ixCombine w then ixStray s d m
    else
      let s := ixAnswer s d m 0
      if x.readyIn.contains b.srcRank then s
      else
        let s := if x.readySent && x.readyIn.length + 1 == ixRanks w then ixTie s d x x.combineAt else s
        let s := setIxSlot s d k { x with readyIn := b.srcRank :: x.readyIn }
        let s := (List.range n).foldl (fun s e => modFlow s d (sendFlow x (b.srcRank * n + e)) (fun f => { f with readyIn := true })) s
        ixAfter (if homeGranted s d x b.srcRank then ixCombineHome s d k b.srcRank else (s, none)) d k))

/-- IX_FETCH: the output row's part is read and returned. -/
def execIxFetch (idx : Nat) (s : State) : Result :=
  .next (ixArrive s idx 5 (ixPartReady s 24) (fun s d k m b =>
    let x := getIxSlot s d k
    let w := x.words
    let row := fieldOf b.arg 0 20
    let e := fieldOf b.arg 20 8
    if !x.readySent || ixLocal w ≤ e || ixCap w ≤ row || ixParts w ≤ b.part then ixStray s d m
    else
      let addr := ixRowAt w (wAddr w 24) b
      match readRangeAt s d (ctxPart s x.ctx) addr (partLen w b.part) with
      | .error f => ixAbort (ixAnswer s d m f.1.num) d k f.1.num f.2 true
      | .ok l =>
        let s := sendAnswer s d (ixReply s d 0 m 6 0 l)
        let (x, whole) := addPart (getIxSlot s d k) (2, b.srcRank, e, row, b.part)
        let s := setIxSlot s d k x
        let s := if whole then modFlow s d (recvFlow x b.srcRank e) (fun f => { f with fetched := f.fetched + 1 }) else s
        ixDrive s d k ixFuel))

/-- IX_ABORT. -/
def execIxAbort (idx : Nat) (s : State) : Result :=
  .next (ixArrive s idx 7 (fun _ _ => true) (fun s d k m b => ixAbort (ixAnswer s d m 0) d k (b.arg % 256) 0 false))

/-! ### Answers -/

/-- The die whose interchange has a request open. -/
def ixOpenDie (s : State) (req : Nat) : Option Nat :=
  (List.range 4).find? (fun d => (getIx s d).open_.any (fun r => r.req == req))

/-- Where the bytes of a FETCH go in COMB_BUF. -/
def ixCombAt (w : List Nat) (r : IxReq) : Nat := wAddr w 26 + r.route * ixRowBytes w + 512 * r.part

/-- FETCH_DATA for a round in progress waits until the channel of its bytes serves. -/
def fetchWaits (s : State) (m : Msg) : Bool :=
  match ixOpenDie s m.req with
  | none => false
  | some d => (getIx s d).open_.any (fun r =>
      let x := getIxSlot s d r.slot
      r.req == m.req && r.typ == 5 && x.phase != 0 && x.phase != 6 &&
        !rangeReady s (ctxPart s x.ctx) (ixCombAt x.words r) (partLen x.words r.part))

/-- An answer ends its request: what was asked, or nothing where it is no longer open. -/
def ixSettle (s : State) (idx typ : Nat) (act : State → Nat → IxReq → Msg → IxMsg → State) : State :=
  match s.net[idx]? with
  | none => s
  | some m =>
    match m.body with
    | .ix b =>
      if b.typ != typ || !m.resp || (typ == 6 && fetchWaits s m) then s
      else
        let s := (settleOut (dropMsg s idx) m.req).1
        match ixOpenDie s m.req with
        | none => unawaited s m
        | some d =>
          let i := getIx s d
          let s := if m.mark then cwDecrease s (.ix (Fin.ofNat 4 d)) 2 else s
          let s := setIx s d { getIx s d with open_ := i.open_.filter (fun r => r.req != m.req) }
          match i.open_.find? (fun r => r.req == m.req) with
          | none => s
          | some r =>
            let x := getIxSlot s d r.slot
            if r.typ == 7 || x.phase == 0 || x.phase == 6 then ixPump (ixQuiet s d r.slot) d
            else act s d r m b
    | _ => s

/-- IX_FETCH_DATA: the bytes go to COMB_BUF. -/
def execIxFetchData (idx : Nat) (s : State) : Result :=
  .next (ixSettle s idx 6 (fun s d r _ b =>
    let x := getIxSlot s d r.slot
    let w := x.words
    match writeFrom s d (ctxPart s x.ctx) (ixCombAt w r) (b.payload.take (partLen w r.part)) with
    | (s, some f) => ixAbort s d r.slot f.1.num f.2 true
    | (s, none) =>
      let (x, whole) := addPart (getIxSlot s d r.slot) (3, r.rank, r.expert, r.row, r.part)
      let s := setIxSlot s d r.slot x
      let g := r.rank * ixLocal w + r.expert
      let s := if whole then modFlow s d (sendFlow x g) (fun f => { f with fetched := f.fetched + 1 }) else s
      ixDrive (ixPump s d) d r.slot ixFuel))

/-- IX_ACK: the request was accepted, or refused with a code (R306, R307). -/
def execIxAck (idx : Nat) (s : State) : Result :=
  .next (ixSettle s idx 8 (fun s d r m _ =>
    let k := r.slot
    let x := getIxSlot s d k
    let w := x.words
    let forget := fun (l : List (Nat × Nat × Nat)) => l.filter (fun e => e.1 != r.rank)
    if m.code == Code.noSpace.num && r.typ == 1 then
      let first := ((x.retries.find? (fun e => e.1 == r.rank)).map (fun e => e.2.1)).getD s.odometer
      ixPump (setIxSlot s d k { x with retries := forget x.retries ++ [(r.rank, first, s.odometer + 1)] }) d
    else if m.code != 0 then ixAbort s d k m.code 0 true
    else
      let s :=
        if r.typ == 1 then
          (List.range (ixLocal w)).foldl (fun s e =>
            modFlow s d (sendFlow x (r.rank * ixLocal w + e)) (fun f => { f with countIn := true }))
            (setIxSlot s d k { x with retries := forget x.retries })
        else if r.typ == 3 then
          let (x, whole) := addPart x (0, r.rank, r.expert, r.row, r.part)
          let s := setIxSlot s d k x
          if whole then modFlow s d (sendFlow x (r.rank * ixLocal w + r.expert)) (fun f => { f with moved := f.moved + 1 }) else s
        else s
      ixDrive (ixPump s d) d k ixFuel))

/-! ### Combine trigger, limits and retries -/

/-- IX_COMBINE_TRIGGER (R302). -/
def execIxCombineTrigger (die : DieId) (slot : Fin 16) (s : State) : Result :=
  let d := die.val
  let k := slot.val
  let x := getIxSlot s d k
  let w := x.words
  let n := ixRanks w * ixLocal w
  .next (if !x.armed || x.phase < 3 || x.phase == 6 || !ixCombine w || x.readySent || !x.arriveDone || gated s (pgIx d) ||
      !trigReached s x.ctx (nth w 11) (nth w 12 + x.round * ixStep w) || !ixCombReady s x (fun g => decide (n ≤ g)) then s
    else
      let s := setIxSlot s d k { x with phase := 5, readySent := true, combineAt := s.odometer }
      let r := (List.range x.routes.length).foldl (fun (t : State × Option (Code × Nat)) i =>
        if t.2.isSome || (x.routes.getD i (0, 0)).2 < n then t else ixZeroRow t.1 d x i) (s, none)
      match r.2 with
      | some f => ixAbort r.1 d k f.1.num f.2 true
      | none =>
        let s := (List.range (ixRanks w)).foldl (fun s j => ixQueue s d { req := 0, slot := k, typ := 4, rank := j } (ixMsgTo s x j 4 0 0 [])) r.1
        ixDrive (ixPump s d) d k ixFuel)

/-- IX_LIMIT_EXPIRY (R307): a wait satisfied in the cycle of the expiry comes first. -/
def execIxLimitExpiry (die : DieId) (slot : Fin 16) (s : State) : Result :=
  let x := getIxSlot s die slot
  let lim := ixLimit x.words * usNs
  let live := x.armed && x.phase != 0 && x.phase != 6
  .next (if live && ((!x.counted && decide (x.startAt + lim < s.odometer)) ||
      (x.readySent && x.readyIn.length < ixRanks x.words && decide (x.combineAt + lim < s.odometer))) then
      ixAbort s die slot Code.timedOut.num 0 true
    else s)

/-- IX_COUNT_RETRY (R306): a refused COUNT is sent again after 1 µs; a refusal that persists for 2 ms aborts. -/
def execIxCountRetry (die : DieId) (slot : Fin 16) (s : State) : Result :=
  let d := die.val
  let k := slot.val
  let x := getIxSlot s d k
  .next (match x.retries.find? (fun e => e.2.2 != 0 && passed s (e.2.2 - 1) usNs) with
    | none => s
    | some e =>
      if x.phase == 0 || x.phase == 6 then s
      else if passed s e.2.1 (2 * msNs) then ixAbort s d k Code.timedOut.num 0 true
      else
        let s := setIxSlot s d k { x with retries := x.retries.map (fun q => if q.1 == e.1 then (q.1, q.2.1, 0) else q) }
        ixPump (ixQueue s d { req := 0, slot := k, typ := 1, rank := e.1 } (ixCountMsg s d x e.1)) d)

/-- IX_SIGNAL_RETRY (R303): every 1 µs. -/
def execIxSignalRetry (die : DieId) (slot : Fin 16) (s : State) : Result :=
  let x := getIxSlot s die slot
  .next (if x.sigs.isEmpty || x.sigAt == 0 then s else ixDrive s die slot ixFuel)

end Sys2Proof.Machine
end

