-- ==== Sys2Proof/Machine/Links.lean ====
section
/-!
DEFINITION. Link ports (chapter 14): flits and replay, egress arbitration, training and discovery, the neighbour plan, lane
degradation, the bypass, request timeouts and odometer synchronisation.
-/
namespace Sys2Proof.Machine

/-! ### The plan -/

def portUse (s : State) (p : Nat) : Bool := bitOf (regOf s (pgPort p) 0x044) 31
def planOpen (s : State) : Bool := bitOf (regOf s (pgPort 0) 0x108) 0
def planBusy (s : State) : Bool := bitOf (regOf s (pgPort 0) 0x10C) 31
def assigned (s : State) : Bool := bitOf (regOf s (pgPort 0) 0x100) 16

/-- The identity record a port sends (R279). -/
def identOf (s : State) (p : Nat) : Ident :=
  { chip := BitVec.ofNat 16 (chipId s), port := BitVec.ofNat 5 p, assigned := assigned s,
    digest := BitVec.ofNat 32 (regOf s (pgPort 0) 0x104), stepping := Config.stepping }

/-- The first failing reason of R279, or 0. -/
def identReason (s : State) (p : Nat) (id : Ident) : Nat :=
  let plan := regOf s (pgPort p) 0x044
  if !assigned s then 1
  else if !bitOf plan 31 then 2
  else if !id.assigned || id.chip.toNat != fieldOf plan 0 16 then 3
  else if id.port.toNat != fieldOf plan 16 5 then 4
  else if id.digest.toNat != regOf s (pgPort 0) 0x104 then 5
  else 0

/-- Powered and out of reset: the port's block works. -/
def portUp (s : State) (p : Nat) : Bool := !gated s (pgPort p)

/-! ### Leaving ACTIVE -/

/-- Units that wait at a port's egress. -/
def queuedUnits (x : Port) : Nat :=
  (x.queues.map (fun q => (q.map (fun e => msgUnits e.1)).sum)).sum + (match x.cur with | some c => c.2.1 | none => 0) +
    (match x.paused with | some c => c.2.1 | none => 0)

/-- Queued units are discarded and counted (R280). -/
def dropUnits (s : State) (p : Nat) : State :=
  let x := getPort s p
  let s := bump32 s (pgPort p) 0x068 (queuedUnits x)
  setPort s p { x with queues := ({} : Port).queues, cur := none, paused := none, deficit := ({} : Port).deficit }

/-- Replay buffer and queued units are discarded and counted (R277, R281). -/
def dropQueued (s : State) (p : Nat) : State :=
  let x := getPort s p
  let s := dropUnits (bump32 s (pgPort p) 0x068 x.replay.length) p
  modPort s p (fun x => { x with replay := [], resendFrom := none })

def leaveActive (s : State) (p : Nat) : State :=
  if wasActive (getPort s p) then raise (modPort (dropQueued s p) p (fun x => { x with retrain := false })) (pgPort p) 0 else s

/-- A port goes to DARK, or ABSENT when it is planned. -/
def goDark (s : State) (p : Nat) : State :=
  let s := leaveActive s p
  modPort s p (fun x => { x with
    tstate := if portUse s p then 7 else 0, txLanes := 0, rxLanes := 0, txWidth := 0, rxWidth := 0, laneReq := 0xFF, farReq := 0xFF,
    txGood := 0xFF, widthChanging := false, chgOut := false, widthAt := 0, qreason := 0, nakOut := false, identOut := false, identChecked := true,
    resendFrom := none, txSeq := 0, rxSeq := 0, lastGood := 0xFFFF, credits := ({} : Port).credits, freed := ({} : Port).freed,
    slot := 0, nakTimes := [], rxQueue := [], identAt := 0, syncOut := none })

/-! ### Training (R278) -/

/-- A training attempt starts. -/
def startTraining (s : State) (p : Nat) : State :=
  addEvent (modPort s p (fun x => { x with tstate := 1, trainAt := s.odometer, retryAt := 0 })) (pgPort p) 1

/-- The port leaves ACTIVE as on a loss of light (R277, R282). Light that is there begins a new attempt. -/
def dropOut (s : State) (p : Nat) : State :=
  let s := goDark s p
  if (getPort s p).light && portUp s p && !(getPort s p).txOff then startTraining s p else s

/-- The attempt fails: a new one starts 10 ms later if light is present. -/
def failTraining (s : State) (p : Nat) : State :=
  let s := bump32 (goDark s p) (pgPort p) 0x06C 1
  modPort s p (fun x => { x with retryAt := s.odometer + 1 })

/-- Light appears on a port. -/
def lightOn (s : State) (port : Nat) : State :=
  let x := getPort s port
  let s := modPort s port (fun x => { x with light := true })
  if portUp s port && !x.txOff && (x.tstate == 0 || x.tstate == 7) then startTraining s port else s

/-- Light disappears from a port. -/
def lightLoss (s : State) (port : Nat) : State := modPort (goDark s port) port (fun x => { x with light := false, retryAt := 0 })

/-- The largest width of 8, 4, 2 and 1 that some lanes give, and its lowest-numbered lanes (R282). -/
def widthOf (m : BitVec 8) : Nat :=
  let n := popcount m.toNat 8
  if 8 ≤ n then 8 else if 4 ≤ n then 4 else if 2 ≤ n then 2 else n
def lanesOf (m : BitVec 8) : BitVec 8 :=
  let w := widthOf m
  ((List.range 8).foldl (fun (t : BitVec 8 × Nat) i =>
    if m.getLsbD i && decide (t.2 < w) then (t.1 ||| (1#8 <<< i), t.2 + 1) else t) (0, 0)).1

/-- Widths of both directions from the lanes that are wanted and good. -/
def setWidths (x : Port) : Port :=
  let t := x.farReq &&& x.txGood
  { x with txLanes := lanesOf t, txWidth := widthOf t, rxLanes := lanesOf x.laneReq, rxWidth := widthOf x.laneReq }

/-- TRAIN_STEP_DONE: 10 µs of continuous light, the adaptation, or the alignment is done. EQUALISE and ALIGN name the lanes that are
good; in-place retraining takes no dropped lane back (R282). -/
def execTrainStepDone (port : PortId) (tx rx : BitVec 8) (s : State) : Result :=
  let x := getPort s port
  .next (if !portUp s port then s
    else if x.tstate == 1 then
      if passed s x.trainAt (10 * usNs) then setPort s port { x with tstate := 2, trainAt := s.odometer } else s
    else if x.tstate == 2 then
      let y := if x.retrain then { x with txGood := x.txGood &&& tx, laneReq := x.laneReq &&& rx, trainAt := s.odometer }
        else { x with txGood := tx, laneReq := rx, farReq := 0xFF, trainAt := s.odometer }
      if y.txGood &&& y.farReq == 0 || y.laneReq == 0 then failTraining s port else setPort s port { y with tstate := 3 }
    else if x.tstate == 3 then
      let y := { x with txGood := x.txGood &&& tx, laneReq := x.laneReq &&& rx }
      if y.txGood &&& y.farReq == 0 || y.laneReq == 0 then failTraining s port
      else setPort s port { setWidths y with
        tstate := 4, trainAt := s.odometer, identOut := true, identChecked := false, widthChanging := false, chgOut := false, widthAt := 0 }
    else s)

/-- TRAIN_TIMEOUT: the budget of the state is overrun; in-place retraining has 10 ms to reach EXCHANGE (R277). -/
def execTrainTimeout (port : PortId) (s : State) : Result :=
  let x := getPort s port
  let tooLong := (x.retrain && x.tstate != 4 && passed s x.retrainAt (10 * msNs)) ||
    (if x.tstate == 2 then passed s x.trainAt (30 * msNs)
     else if x.tstate == 3 then passed s x.trainAt (5 * msNs)
     else passed s x.trainAt msNs && !planOpen s)
  .next (if (x.tstate == 2 || x.tstate == 3 || x.tstate == 4) && tooLong then failTraining s port else s)

/-- TRAIN_RETRY. -/
def execTrainRetry (port : PortId) (s : State) : Result :=
  let x := getPort s port
  .next (if x.light && portUp s port && !x.txOff && (x.tstate == 0 || x.tstate == 7) && x.retryAt != 0 && passed s (x.retryAt - 1) (10 * msNs) then
      startTraining s port
    else s)

/-- An ACTIVE port whose neighbour fails the check leaves ACTIVE: its queued units are lost, and what it has sent stays in the replay
buffer, for its sequence goes on (R276, R280). -/
def failsPlan (s : State) (p : Nat) : State :=
  raise (modPort (dropUnits s p) p (fun x => { x with retrain := false })) (pgPort p) 0

/-- The neighbour is checked against the plan (R279). A neighbour that has changed during in-place retraining takes the port out of
ACTIVE as a loss of light does (R277). Packets taken in an EXCHANGE that ends in QUARANTINE go nowhere. -/
def checkIdent (s : State) (p : Nat) (id : Ident) : State :=
  let x := getPort s p
  let r := identReason s p id
  let same := x.nbr == some id
  let s := setPort s p { x with nbr := some id }
  if planOpen s then s
  else if x.retrain && !same then dropOut s p
  else
    let s := if wasActive x && r != 0 then failsPlan s p else s
    let s := modPort s p (fun y => { y with
      tstate := if r == 0 then 5 else 6, qreason := r, identChecked := true, retrain := false,
      rxQueue := if x.tstate == 4 && !x.retrain && r != 0 then [] else y.rxQueue,
      resendFrom := if x.retrain then y.replay.head?.map (fun f => f.seq) else y.resendFrom,
      ackAt := s.odometer, slot := if wasActive x && r == 0 then y.slot else 0 })
    if r == 0 then if x.tstate == 5 then s else raise s (pgPort p) 3
    else if x.tstate == 6 then s else raise s (pgPort p) 2

/-- A good IDENT flit on a trained port: the neighbour is checked. A port that has been checked answers with its own identity, for the
neighbour exchanges anew, unless it sent one within 10 µs (R279, R280; DESIGN CHOICE, notes/assumptions/120.md). -/
def takeIdent (s : State) (p : Nat) (id : Ident) : State :=
  let x := getPort s p
  let answer := x.tstate != 4 && x.identChecked && (x.identAt == 0 || passed s (x.identAt - 1) (10 * usNs))
  checkIdent (if answer then setPort s p { x with identOut := true } else s) p id

/-- A port with a trained link. -/
def trained (s : State) (p : Nat) : Bool :=
  let t := (getPort s p).tstate
  portUp s p && (t == 4 || t == 5 || t == 6)

/-- IDENT_RECEIVE. -/
def execIdentReceive (port : PortId) (id : Ident) (s : State) : Result :=
  .next (if trained s port then takeIdent s port id else s)

/-- PORT_RETRAIN (R277): more than 64 NAKs within 1 ms, or no progress of ACK for 100 µs while flits are outstanding. DESIGN CHOICE
(notes/assumptions/153.md): in-place retraining is a training attempt and counts in EVENT_COUNT (R292). -/
def execPortRetrain (port : PortId) (s : State) : Result :=
  let x := getPort s port
  let naks := (x.nakTimes.filter (fun t => s.odometer < t + msNs)).length
  .next (if x.tstate == 5 && portUp s port && (decide (64 < naks) || (!x.replay.isEmpty && passed s x.ackAt (100 * usNs))) then
      addEvent (setPort s port { x with tstate := 2, retrain := true, trainAt := s.odometer, retrainAt := s.odometer, nakTimes := [] }) (pgPort port) 1
    else s)

/-! ### The neighbour plan (R280) -/

/-- Word 0x108 of P00: its defined bits. -/
def planMask : Nat := 0x3F3F03

/-- The other failing checks of a write to word 0x108. -/
def planFails (s : State) (v : Nat) : List (Bool × Code) :=
  let old := regOf s (pgPort 0) 0x108
  let opens := bitOf v 0 && !planOpen s
  [(outside v planMask, .reservedSet),
   ((!bitOf v 0 && !planOpen s) || (opens && (v != old + 1 || (List.range 4).any (fun d => !(getRoute s d).hold))), .wrongState),
   (opens && planBusy s, .busy)]

/-- PLAN_OPEN: a write of word 0x108 with PLAN_OPEN set. -/
def execPlanOpen (p : PartId) (val : Word) (s : State) : Result :=
  .next (if bitOf val.toNat 0 then
      writeReg s p (pgPort 0) 0x108 (planFails s val.toNat) (fun s => setReg s (pgPort 0) 0x108 val.toNat)
    else s)

/-- The plan is applied: every trained port exchanges IDENT flits again, and a port without light is ABSENT where it is planned now,
else DARK. -/
def applyPlan (s : State) (v : Nat) : State :=
  let s := setReg (setReg s (pgPort 0) 0x108 v) (pgPort 0) 0x10C (2 ^ 31)
  (List.range 32).foldl (fun s p =>
    let x := getPort s p
    if x.tstate == 4 || x.tstate == 5 || x.tstate == 6 then setPort s p { x with identOut := true, identChecked := false }
    else if x.tstate == 0 || x.tstate == 7 then setPort s p { x with tstate := if portUse s p then 7 else 0 }
    else s) { s with time := { s.time with planAt := s.odometer } }

/-- PLAN_APPLY: a write of word 0x108 that clears PLAN_OPEN. -/
def execPlanApply (p : PartId) (val : Word) (s : State) : Result :=
  .next (if bitOf val.toNat 0 then s
    else writeReg s p (pgPort 0) 0x108 (planFails s val.toNat) (fun s => applyPlan s val.toNat))

/-- Ports that have still to exchange IDENT flits under the plan. -/
def unchecked (s : State) : List Nat :=
  (List.range 32).filter (fun p =>
    let x := getPort s p
    (x.tstate == 4 || x.tstate == 5 || x.tstate == 6) && !x.identChecked)

/-- PLAN_APPLY_DONE: every port has been checked, or 1 ms has passed, and then a port that has heard nothing is checked with the last
identity it received (DESIGN CHOICE, notes/assumptions/120.md). -/
def execPlanApplyDone (s : State) : Result :=
  let l := unchecked s
  .next (if !planBusy s || planOpen s || !(l.isEmpty || passed s s.time.planAt msNs) then s
    else
      let s := l.foldl (fun s p => match (getPort s p).nbr with
        | some id => if (getPort s p).tstate == 4 then s else checkIdent s p id
        | none => s) s
      setReg s (pgPort 0) 0x10C 0)

/-! ### Lanes (R282) -/

/-- The transmit width follows the lanes that are requested and good, in every state with a trained link; this end is the sender of the
change when its own transmit lanes change. With no lane left the port goes down, or its training attempt fails (R278). -/
def widthChange (s : State) (p : Nat) : State :=
  let x := getPort s p
  let t := x.farReq &&& x.txGood
  if x.tstate != 4 && x.tstate != 5 && x.tstate != 6 then s
  else if t == 0 || x.laneReq == 0 then (if x.tstate == 4 then failTraining s p else dropOut s p)
  else if lanesOf t == x.txLanes && lanesOf x.laneReq == x.rxLanes then s
  else
    let tx := lanesOf t != x.txLanes
    let s := setPort s p { x with widthChanging := true, chgOut := x.chgOut || tx, widthAt := if tx then 0 else x.widthAt }
    bump32 (raise s (pgPort p) 1) (pgPort p) 0x054 1

/-- LANE_FAIL: a receiving lane fails. -/
def execLaneFail (port : PortId) (lane : Fin 8) (s : State) : Result :=
  .next (if trained s port then
      widthChange (modPort s port (fun x => { x with laneReq := x.laneReq &&& ~~~(1#8 <<< lane.val) })) port
    else s)

/-- WIDTH_CHANGE_DONE: both ends are aligned at the new widths, once a change of this end's own has been marked, and its replay resumes
from ACK + 1. -/
def execWidthChangeDone (port : PortId) (s : State) : Result :=
  let x := getPort s port
  .next (if trained s port && x.widthChanging && !x.chgOut then
      setPort s port { setWidths x with
        widthChanging := false, widthAt := 0,
        resendFrom := if x.widthAt != 0 then x.replay.head?.map (fun f => f.seq) else x.resendFrom }
    else s)

/-! ### Odometer exchanges (R289) -/

def timeWord (s : State) : Nat := regOf s (pgPort 0) 0x108
def timeRoot (s : State) : Bool := bitOf (timeWord s) 1

/-- The time port in use, and whether it is B. -/
def timePort (s : State) : Option (Nat × Bool) :=
  let w := timeWord s
  if bitOf w 13 && portActive s (fieldOf w 8 5) then some (fieldOf w 8 5, false)
  else if bitOf w 21 && portActive s (fieldOf w 16 5) then some (fieldOf w 16 5, true)
  else none

/-- The correction for an offset of o ns. -/
def correct (s : State) (o : Int) : State :=
  if o.natAbs ≤ 1000 then { s with time := { s.time with trim := o, halfRate := 0, halfPhase := false } }
  else if 0 < o then { s with odometer := s.odometer + o.toNat, time := { s.time with halfRate := 0, halfPhase := false } }
  else { s with time := { s.time with halfRate := o.natAbs, halfPhase := false } }

/-- A reply to the request that was sent last arrives: the offset is half the difference of the two ways' stamps. -/
def takeReply (s : State) (t1 t2 t3 : Nat) (synced : Bool) : State :=
  if s.time.asked != some (BitVec.ofNat 64 t1) then s
  else
    let o : Int := (((t2 : Int) - t1) - ((s.odometer : Int) - t3)) / 2
    let s := { s with time := { s.time with asked := none, synced := synced, offset := max (-32767) (min 32767 o) } }
    let s := correct s o
    { s with time := { s.time with lastExchange := s.odometer } }

/-! ### Receiving flits (R275, R276) -/

/-- SEQ a is covered by ACK k. -/
def acked (a k : BitVec 16) : Bool := (k - a).toNat < 2 ^ 15

/-- ACK, NAK, LANE_REQ and credit of a flit that is taken. A lane that either end has dropped stays dropped; other lanes to send on
than before start a change of width (R282). -/
def takeHeader (s : State) (p : Nat) (f : Flit) : State :=
  let x := getPort s p
  let rest := x.replay.filter (fun g => !acked g.seq f.ack)
  let cr := if f.creditHalf.toNat < 10 then
      x.credits.set f.creditHalf.toNat (nth x.credits f.creditHalf.toNat + f.credit.toNat) else x.credits
  let x := { x with
    replay := rest, credits := cr, ackAt := if rest.length < x.replay.length || rest.isEmpty then s.odometer else x.ackAt,
    farReq := x.farReq &&& f.laneReq, widthChanging := x.widthChanging || f.widthChg }
  let fewer := lanesOf ((getPort s p).farReq &&& x.txGood) != lanesOf (x.farReq &&& x.txGood)
  let s := setPort s p x
  let s := if f.nak then
      bump32 (setPort s p { x with
        resendFrom := rest.head?.map (fun g => g.seq), nakTimes := (x.nakTimes.filter (fun t => s.odometer < t + msNs)) ++ [s.odometer] })
        (pgPort p) 0x050 1
    else s
  if fewer then widthChange s p else s

/-- A sequenced flit is accepted in order with its header, or discarded with a NAK (R276). A far end that is ACTIVE already may send
packets while this end is in EXCHANGE; they wait for its check. -/
def takeSeq (s : State) (p : Nat) (f : Flit) : State :=
  if f.seq == (getPort s p).rxSeq then
    takeHeader (modPort s p (fun x => { x with
      rxSeq := x.rxSeq + 1, lastGood := f.seq, nakOut := false, rxQueue := if x.tstate == 6 then x.rxQueue else x.rxQueue ++ f.msgs })) p f
  else modPort s p (fun x => { x with nakOut := true })

/-- A SYNC flit on an ACTIVE port: a request is answered (R289), a reply of the upstream chip ends the exchange. -/
def takeSync (s : State) (p : Nat) (f : Flit) : State :=
  if (getPort s p).tstate != 5 then s
  else match f.stamps with
    | [t1] => modPort s p (fun x => { x with syncOut := some (t1, s.odometer) })
    | [t1, t2, t3, up] => if (timePort s).map (fun e => e.1) == some p then takeReply s t1 t2 t3 (up != 0) else s
    | _ => s

/-- LINK_FLIT_RECEIVE. SEQ is ignored in SYNC and IDENT flits, their other header fields are not (R275); a bad one is dropped, and its
exchange is repeated (R276). -/
def execLinkFlitReceive (port : PortId) (f : Flit) (s : State) : Result :=
  let x := getPort s port
  .next (if !trained s port then s
    else if !f.crcOk then
      if f.ident.isSome then setPort s port { x with identOut := true }
      else if f.sync then s else setPort s port { x with nakOut := true }
    else
      let s := bump64 s (pgPort port) 0x060 1
      match f.ident with
      | some id => takeIdent (takeHeader s port f) port id
      | none => if f.sync then takeSync (takeHeader s port f) port f else takeSeq s port f)

/-! ### Sending flits (R285, R286) -/

/-- Index of a message's carriageway half. -/
def halfOf (m : Msg) : Nat := 2 * m.cw + bit m.resp

/-- Credit for the lay-bys a packet needs. -/
def hasCredit (x : Port) (e : Msg × Bool) : Bool := decide ((if e.2 then 66 else 33) ≤ nth x.credits (halfOf e.1))

/-- The packet of a queue that would go: the oldest of the response half, else the oldest of the request half. -/
def headIdx (x : Port) (q : Nat) : Option Nat :=
  let l := x.queues.getD q []
  let first := fun (r : Bool) =>
    match l.findIdx? (fun e => e.1.resp == r) with
    | some j => if (l[j]?.map (hasCredit x)).getD false then some j else none
    | none => none
  match first true with
  | some j => some j
  | none => first false

/-- A queue's weight: that of its carriageway (R294). -/
def linkWeight (s : State) (p q : Nat) : Nat :=
  if q % 5 < 4 then fieldOf (regOf s (pgBypass p) 0x040) (8 * (q % 5)) 8 else fieldOf (regOf s (pgBypass p) 0x044) 0 8

/-- Deficit round robin, in units, over the queues allowed: the queue whose packet goes, or none. -/
def robin (w : Nat → Nat) (allowed : Nat → Bool) (x : Port) (fuel : Nat) : Port × Option (Nat × Nat) :=
  match fuel with
  | 0 => (x, none)
  | n + 1 =>
    let q := x.turn % 10
    let skip := { x with turn := (x.turn + 1) % 10 }
    if !allowed q then robin w allowed skip n
    else match headIdx x q with
      | none => robin w allowed { skip with deficit := x.deficit.set q 0 } n
      | some j =>
        let u := ((x.queues.getD q [])[j]?.map (fun e => msgUnits e.1)).getD 0
        if u ≤ nth x.deficit q then ({ x with deficit := x.deficit.set q (nth x.deficit q - u) }, some (q, j))
        else robin w allowed { skip with deficit := x.deficit.set q (nth x.deficit q + w q) } n

/-- The next packet of a slot: in a floor slot the transit queues first. -/
def pick (w : Nat → Nat) (floor : Bool) (x : Port) : Port × Option (Nat × Nat) :=
  let any := fun (a : Nat → Bool) => (List.range 10).any (fun q => a q && (headIdx x q).isSome)
  let transit := fun (q : Nat) => decide (5 ≤ q)
  if floor && any transit then robin w transit x 400
  else if any (fun _ => true) then robin w (fun _ => true) x 400
  else (x, none)

/-- A packet at the head of some queue's half waits without credit (R294). -/
def starved (x : Port) : Bool :=
  (List.range 10).any (fun q => [true, false].any (fun r =>
    match (x.queues.getD q []).find? (fun e => e.1.resp == r) with | some e => !hasCredit x e | none => false))

/-- A flit under construction: the queue of its first packet, and whether transit has units in it. -/
structure Fill where
  port : Port
  msgs : List Msg
  units : List Nat
  first : Option Nat
  transit : Bool := false
  deriving DecidableEq, Repr, Inhabited

/-- A transit packet with credit waits. -/
def transitWaits (x : Port) : Bool := (List.range 10).any (fun q => decide (5 ≤ q) && (headIdx x q).isSome)

/-- Units of packets fill a flit's payload. DESIGN CHOICE (notes/assumptions/154.md): in a floor slot a local packet under way gives way
to transit, and goes on in the next place that transit leaves (R285). -/
def fillFlit (w : Nat → Nat) (floor : Bool) (t : Fill) (room fuel : Nat) : Fill :=
  match fuel with
  | 0 => t
  | n + 1 =>
    let give := floor && transitWaits t.port
    if room = 0 then t
    else match t.port.cur, t.port.paused with
      | some (q, left, m), _ =>
        if give && decide (q < 5) then fillFlit w floor { t with port := { t.port with cur := none, paused := some (q, left, m) } } room n
        else
        let u := min left room
        let h := halfOf m
        let x := { t.port with credits := t.port.credits.set h (nth t.port.credits h - u), cur := if u = left then none else some (q, left - u, m) }
        fillFlit w floor {
          port := x, msgs := if u = left then t.msgs ++ [m] else t.msgs, units := t.units.set h (nth t.units h + u),
          first := some (t.first.getD q), transit := t.transit || decide (5 ≤ q) } (room - u) n
      | none, some c =>
        if give then
          match pick w floor t.port with
          | (_, none) => t
          | (x, some (q, j)) =>
            let l := x.queues.getD q []
            match l[j]? with
            | none => t
            | some e => fillFlit w floor { t with port := { x with queues := x.queues.set q (l.eraseIdx j), cur := some (q, msgUnits e.1, e.1) } } room n
        else fillFlit w floor { t with port := { t.port with cur := some c, paused := none } } room n
      | none, none =>
        match pick w floor t.port with
        | (_, none) => t
        | (x, some (q, j)) =>
          let l := x.queues.getD q []
          match l[j]? with
          | none => t
          | some e => fillFlit w floor { t with port := { x with queues := x.queues.set q (l.eraseIdx j), cur := some (q, msgUnits e.1, e.1) } } room n

/-- Credit to return in the next flit. -/
def nextCredit (x : Port) : BitVec 4 × BitVec 8 × List Nat :=
  match x.freed.findIdx? (fun n => decide (0 < n)) with
  | some h =>
    let n := min 255 (nth x.freed h)
    (BitVec.ofNat 4 h, BitVec.ofNat 8 n, x.freed.set h (nth x.freed h - n))
  | none => (15, 0, x.freed)

/-- The header of the port's next flit, without packets. -/
def blankFlit (x : Port) : Flit :=
  { seq := x.txSeq, ack := x.lastGood, nak := x.nakOut, sync := false, ident := none, widthChg := false, laneReq := x.laneReq,
    creditHalf := 15, credit := 0, crcOk := true, msgs := [], units := List.replicate 10 0 }

/-- A flit slot passes. Slots are numbered from 0 since the port became ACTIVE (R285); one in which units wait without credit is counted
(R294). -/
def passSlot (s : State) (p : Nat) : State :=
  let x := getPort s p
  if x.tstate == 5 then
    let s := setPort s p { x with slot := x.slot + 1 }
    if starved x then bump32 s (pgBypass p) 0x05C 1 else s
  else s

/-- A flit goes out in its slot. -/
def emitFlit (s : State) (p : Nat) (x : Port) (f : Flit) : State :=
  passSlot (bump64 (setPort s p { x with sent := x.sent ++ [f], nakOut := false }) (pgPort p) 0x058 1) p

/-- Marking a sequenced flit with WIDTH_CHG starts the switch (R282). -/
def marked (s : State) (x : Port) : Port := if x.chgOut then { x with chgOut := false, widthAt := s.odometer + 1 } else x

/-- The chip's SYNCED bit (R289, R290). -/
def syncedNow (s : State) : Bool := timeRoot s || (s.time.synced && decide (s.odometer < s.time.lastExchange + 10 * msNs))

/-- LINK_FLIT_SEND: an IDENT flit that is due, in EXCHANGE until the neighbour's has come; the answer to a SYNC request; in QUARANTINE an
idle flit; a flit sent again; or a new flit filled by the slot's arbitration. A slot in which nothing can go out passes all the same.
DESIGN CHOICE (notes/assumptions/155.md): a flit counts in TRANSIT_FLITS or LOCAL_FLITS by the queue of its first packet, and one that is
sent again in neither (R294). -/
def execLinkFlitSend (port : PortId) (s : State) : Result :=
  let p := port.val
  let x := getPort s p
  .next (if !trained s p then s
    else if x.identOut || x.tstate == 4 then
      emitFlit s p { x with identOut := false, identAt := s.odometer + 1 } { blankFlit x with ident := some (identOf s p) }
    else if x.tstate == 5 && x.syncOut.isSome then
      let (t1, t2) := x.syncOut.getD (0, 0)
      emitFlit s p { x with syncOut := none } { blankFlit x with sync := true, stamps := [t1, t2, s.odometer, bit (syncedNow s)] }
    else if x.widthAt != 0 then passSlot s p
    else match x.resendFrom with
      | some q =>
        let x' := { marked s x with resendFrom := if x.replay.any (fun g => g.seq == q + 1) then some (q + 1) else none }
        match x.replay.find? (fun g => g.seq == q) with
        | some f => emitFlit s p x' { f with ack := x.lastGood, nak := x.nakOut, laneReq := x.laneReq, widthChg := x.chgOut }
        | none => setPort s p { x with resendFrom := x.replay.head?.map (fun g => g.seq) }
      | none =>
        if 8192 ≤ x.replay.length then passSlot s p
        else if x.tstate != 5 then
          let (h, n, freed) := nextCredit x
          let f := { blankFlit x with creditHalf := h, credit := n, widthChg := x.chgOut }
          emitFlit s p { marked s x with
            freed := freed, txSeq := x.txSeq + 1, replay := x.replay ++ [f], ackAt := if x.replay.isEmpty then s.odometer else x.ackAt } f
        else
          let floor := x.slot % 8 == 0
          let t := fillFlit (linkWeight s p) floor { port := x, msgs := [], units := List.replicate 10 0, first := x.cur.map (fun c => c.1) } 15 40
          let (h, n, freed) := nextCredit t.port
          let f := { blankFlit x with creditHalf := h, credit := n, msgs := t.msgs, units := t.units, widthChg := x.chgOut }
          let y := { marked s t.port with
            freed := freed, txSeq := x.txSeq + 1, replay := x.replay ++ [f], ackAt := if x.replay.isEmpty then s.odometer else x.ackAt }
          let s := emitFlit s p y f
          match t.first with
          | none => s
          | some q =>
            let s := bump64 s (pgBypass p) (if 5 ≤ q then 0x048 else 0x050) 1
            if floor && t.transit then bump32 s (pgBypass p) 0x058 1 else s)

/-! ### The bypass (R283, R284) -/

/-- The page with the route port of a die. -/
def pgRoute (d : Nat) : Nat := pgBypass (8 * d)

/-- The oldest received packet leaves the receive buffer, whose units are returned as credit. -/
def takeRx (s : State) (p : Nat) (m : Msg) : State :=
  modPort s p (fun x => { x with rxQueue := x.rxQueue.drop 1, freed := x.freed.set (halfOf m) (nth x.freed (halfOf m) + msgUnits m) })

/-- A packet of the bypass goes to die e: across the crossbar on its own die, else over the bypass bridges, whose queue it enters only
while two lay-bys of it are free (R258, R283). -/
def bypassCarry (s : State) (port d e target : Nat) (m : Msg) (own : State → State) : State :=
  if e == d then own (takeRx s port m)
  else
    let q : Place := .bypass (bypassWay d e)
    if bypassUp s d && decide (queued s q m.cw m.resp + entering ≤ queueFlits) then
      inject (takeRx s port m)
        { packetOf (linkStop port) (linkStop target) (.transit target m) m with here := some q, wait := 1 }
    else s

/-- The packets of a port whose neighbour has not been checked yet wait (R279). -/
def awaitsCheck (s : State) (p : Nat) : Bool := (getPort s p).tstate == 4 && !(getPort s p).retrain

/-- TRANSIT_PACKET: routed by the arrival die's active bank, or discarded and counted. -/
def execTransitPacket (port : PortId) (s : State) : Result :=
  let d := dieOfPort port
  .next (match (getPort s port).rxQueue with
    | [] => s
    | m :: _ =>
      if m.dstChip == chipId s || !portUp s port || awaitsCheck s port then s
      else match routeFor s d m.srcChip m.dstChip with
        | none => bump32 (takeRx s port m) (pgRoute d) 0x118 1
        | some e => bypassCarry s port d (dieOfPort e) e m (fun s => pushEgress s e true false m))

/-- A chip-bound request refused with FENCED. -/
def refusalOf (s : State) (m : Msg) : Msg :=
  let f := Code.fenced.num
  match m.body with
  | .remoteAdd src _ core _ _ => answerTo s (dieOfCore src) f m (.remoteAddAck src core)
  | .ix _ => ixReply s m.dstDie f m 8 f []
  | .col _ => colReply s m.dstDie f m 5 0 []
  | b => answerTo s m.dstDie f m b

/-- A packet leaves from a die's bypass by its active bank, to a port of the die or over the bypass bridges. -/
def bypassSend (s : State) (d : Nat) (m : Msg) : State :=
  match routeFor s d m.srcChip m.dstChip with
  | none => s
  | some p =>
    if dieOfPort p == d then pushEgress s p false true m
    else inject s { packetOf (linkStop p) (linkStop p) (.transit p m) m with here := some (.bypass (bypassWay d (dieOfPort p))), wait := 1 }

/-- ARRIVAL_PACKET: it enters the fabric of the arrival die, or of the next die in ring order whose fabric is up. In DOZE no fabric
runs, and a request is refused with FENCED in the bypass domain (R403). -/
def execArrivalPacket (port : PortId) (s : State) : Result :=
  let d := dieOfPort port
  .next (match (getPort s port).rxQueue with
    | [] => s
    | m :: _ =>
      if m.dstChip != chipId s || !portUp s port || awaitsCheck s port then s
      else if s.power.state == .doze && !m.resp then bypassSend (takeRx s port m) d (refusalOf s m)
      else match ((List.range 4).map (fun i => (d + i) % 4)).find? (fun e => s.power.state == .on && dieUp s e) with
        | none => bump32 (takeRx s port m) (pgRoute d) 0x118 1
        | some e =>
          let target := 8 * e + port.val % 8
          bypassCarry s port d e target m (fun s => postFrom s target m))

/-! ### Request timeouts (R287) -/

/-- The source of a timed-out request fails. -/
def failRequest (s : State) (o : OutReq) : State :=
  let code := Code.timedOut.num
  match o.msg.body with
  | .remoteAdd src _ _ _ _ =>
    match msEnt (getCore s src) with
    | some e => if e.sent == o.req + 1 && (activeCtx s src).isSome then coreFault s src 5 code false e.addr 0 0 else s
    | none => s
  | .ix _ =>
    match ixOpenDie s o.req with
    | none => s
    | some d =>
      let i := getIx s d
      let s := setIx s d { i with open_ := i.open_.filter (fun r => r.req != o.req) }
      match i.open_.find? (fun r => r.req == o.req) with
      | none => s
      | some r =>
        let x := getIxSlot s d r.slot
        if r.typ == 7 || x.phase == 0 || x.phase == 6 then ixPump (ixQuiet s d r.slot) d else ixAbort s d r.slot code 0 true
  | .col b =>
    match colOpenDie s { o.msg with req := o.req } { b with ext := [] } with
    | none => s
    | some d =>
      let i := getCol s d
      let k := match i.store.find? (fun r => r.req == o.req && r.slot != 16), i.open_.find? (fun r => r.req == o.req) with
        | some r, _ => r.slot | none, some r => if r.typ == 9 then 16 else r.slot | none, none => 16
      let s := setCol s d { i with
        store := i.store.filter (fun r => r.req != o.req || r.slot == 16), open_ := i.open_.filter (fun r => r.req != o.req) }
      let x := getColSlot s d k
      if k == 16 || x.phase == 0 || x.phase == 4 then colPump (colQuiet s d k) d else colAbort s d k code 0 true
  | _ => s

/-- REQUEST_TIMEOUT: 2 ms without an acknowledgement; the request leaves OUTSTANDING. -/
def execRequestTimeout (req : Nat) (s : State) : Result :=
  .next (match s.outs.find? (fun o => o.req == req) with
    | none => s
    | some o =>
      if o.sentAt + 2 * msNs < s.odometer then failRequest { s with outs := s.outs.filter (fun q => q.req != req) } o else s)

/-! ### Odometer synchronisation (R289, R290) -/

/-- SYNC_REQUEST: every 1 ms the chip stamps t1 and sends a SYNC flit on its time port. -/
def execSyncRequest (s : State) : Result :=
  let due := s.time.askedAt == 0 || passed s (s.time.askedAt - 1) msNs
  .next (match timePort s with
    | none => s
    | some (p, b) =>
      if timeRoot s || !due then s
      else
        let s := { s with time := { s.time with asked := some (BitVec.ofNat 64 s.odometer), askedAt := s.odometer + 1, onB := b } }
        let x := getPort s p
        emitFlit s p x { blankFlit x with sync := true, stamps := [s.odometer] })

/-- SYNC_REPLY: a reply of the upstream chip that arrives now, t4 being this odometer's stamp (R289). -/
def execSyncReply (t1 t2 t3 t4 : Quad) (synced : Bool) (s : State) : Result :=
  .next (if t4.toNat != s.odometer then s else takeReply s t1.toNat t2.toNat t3.toNat synced)

/-- TIME_LOST: no exchange for 10 ms. -/
def execTimeLost (s : State) : Result :=
  .next (if !timeRoot s && s.time.synced && passed s s.time.lastExchange (10 * msNs) then
      raise { s with time := { s.time with synced := false } } (pgPort 0) 4
    else s)

end Sys2Proof.Machine
end

