-- ==== Sys2Proof/Machine/Resets.lean ====
section
/-!
DEFINITION. Reset domains, roadblocks and die fencing (R375 to R377, R387, R388), the start of a reset, hangs and the guilty party
(R378 to R380, R385, R386), and reset requests (R392).
-/
namespace Sys2Proof.Machine

/-! ### Domains (Tables 105 and 106) -/

def stepNum (x : Domain) : Nat :=
  match x with
  | .engine _ _ => 1 | .core _ => 2 | .kerb _ => 3 | .port _ => 4 | .bypass _ => 5 | .die _ => 6 | .fullDie _ => 7 | .hub => 8

def domDie (x : Domain) : Nat :=
  match x with
  | .engine c _ => dieOfCore c | .core c => dieOfCore c | .kerb k => dieOfChan k | .port p => dieOfPort p
  | .bypass d => d | .die d => d | .fullDie d => d | .hub => 0

/-- TARGET of CHIP_FAULT (R391). -/
def domTarget (x : Domain) : Nat :=
  match x with
  | .engine c _ => c | .core c => c | .kerb k => k | .port p => p | _ => 0

/-- A domain that another holds inside it (Table 105). -/
def domInside (a b : Domain) : Bool :=
  match b with
  | .core c => match a with | .engine c' _ => c' == c | _ => false
  | .bypass d => match a with | .port p => dieOfPort p == d.val | _ => false
  | .die d =>
    match a with
    | .engine c _ => dieOfCore c == d.val | .core c => dieOfCore c == d.val | .kerb k => dieOfChan k == d.val | _ => false
  | .fullDie d =>
    match a with
    | .engine c _ => dieOfCore c == d.val | .core c => dieOfCore c == d.val | .kerb k => dieOfChan k == d.val
    | .port p => dieOfPort p == d.val | .bypass e => e == d | .die e => e == d | _ => false
  | _ => false

/-- Budgets in ns (Table 106). -/
def domBudget (x : Domain) : Nat :=
  match x with
  | .engine _ _ => 50 * usNs | .core _ => 500 * usNs | .kerb _ => 100 * usNs | .port _ => 200 * usNs | .bypass _ => 5 * msNs
  | .die _ => 20 * msNs | .fullDie _ => 20 * msNs | .hub => 20 * msNs

/-- The domain is in reset, by its own reset or by a larger one's. -/
def inReset (s : State) (x : Domain) : Bool := s.hang.resets.any (fun r => r.dom == x || domInside x r.dom)

/-- A reset begins: roadblocks are raised, smaller resets inside are absorbed, the epochs of the domain and of what is inside it advance, the pages' read
latches and staged words go, and the step records itself (R38, R376, R377, R384, R391). -/
def beginReset (s : State) (x : Domain) (code : Nat) (test : Bool) : State :=
  let s := bumpEpoch s (domKey x)
  let s : State := { s with hang := { s.hang with
    resets := s.hang.resets.filter (fun r => !(domInside r.dom x || r.dom == x)) ++ [{ dom := x, start := s.odometer, test := test }] } }
  let s : State := { s with pages := s.pages.map (fun e =>
    if (blkOf e.1).any (domCovers x) then (e.1, { e.2 with latch := [], stage := [], view := [] }) else e) }
  recordStep s (stepNum x) code (domDie x) (domTarget x)

/-- CODE of a step whose trigger the spec gives no code: a free one among the codes that R11 defines (notes/assumptions/5.md). -/
def noCode (s : State) : Nat × State :=
  let (v, s) := freshNat s
  (v % 16, s)

/-! ### What a reset does to its domain -/

/-- Stored registers of a page return to their reset values. -/
def clearRegs (s : State) (pg : Nat) (offs : List Nat) : State :=
  modPage s pg (fun p => { p with regs := p.regs.filter (fun r => !offs.contains r.1) })

/-- An answer for DM or MS of a core. -/
def answersTo (core : Nat) (dm ms : Bool) (m : Msg) : Bool :=
  match m.body with
  | .localAck a _ => a == core && ms
  | .accAck a _ _ => a == core && dm
  | .remoteAddAck a _ => a == core && m.resp && ms
  | _ => false

/-- The answers to DM or MS of a core are absorbed at its edge, and what they answer is no longer outstanding (R376). -/
def absorbEngine (s : State) (core : Nat) (dm ms : Bool) : State :=
  let acks := ((inFlight s).filter (answersTo core dm ms)).map (fun m => m.req)
  let s := absorbMsgs s (answersTo core dm ms)
  { s with outs := s.outs.filter (fun o => !(acks.contains o.req && outPage o == pgCore core)) }

/-- The requests that a core has sent out are served outside it, the answers are absorbed at its edge, and its reservations outside are
released (R376). -/
def absorbAnswers (s : State) (core : Nat) : State := absorbEngine (settleReqs s core) core true true

/-- The instructions of an engine in the window lose what the engine held of them. -/
def resetEnts (x : Core) (eng : Nat) : Core :=
  { x with window := x.window.map (fun e =>
      if iEngine e.ins == eng && e.st == 1 then { e with st := 0, run := 0, sat := false, since := 0, sent := 0, firstTry := 0, redo := [] } else e) }

/-- A CORE reset clears the site's state. The fault record, the residency log and what the control processor and QPC keep of the core
stay. -/
def resetCore (s : State) (core : Nat) : State :=
  let s := absorbAnswers s core
  modCore s core (fun x => {
    ctx := x.ctx, runState := if x.ctx.isSome then 5 else 0, saveSeq := x.saveSeq, fr := x.fr, remoteAcked := x.remoteAcked,
    grant := x.grant, step := x.step, istate := x.istate, islLimit := x.islLimit, rampAt := x.rampAt, residency := x.residency,
    suspects := x.suspects, accused := x.accused, trial := x.trial })

/-- An ENGINE reset clears one engine of a core: its registers and buffers, and what it held of its instructions. -/
def resetEngine (s : State) (core eng : Nat) : State :=
  let s := modCore s core (fun x => resetEnts x eng)
  if eng == 0 then modCore s core (fun x => { x with lines := [] })
  else if eng == 1 then modCore s core (fun x => { x with lr := {} })
  else if eng == 2 then modCore s core (fun x => { x with op := {} })
  else if eng == 3 then modCore s core (fun x => { x with vxStopped := false })
  else if eng == 4 then
    modCore (absorbEngine (settleReqs s core) core true false) core (fun x => { x with
      reqs := [], shadow := [], look := [], misses := [], slots := [], accIn := [] })
  else absorbEngine s core false true

/-- A kerbside engine loses its place inside the current share of a list; the done list tells where an in-place share goes on (R239).
The place of a paused list stands in retention memory (R240). -/
def resetKerb (s : State) (chan : Nat) : State :=
  { s with ctxs := s.ctxs.map (fun e => (e.1, { e.2 with
      lists := e.2.lists.map (fun l => (l.1,
        if l.2.paused then l.2
        else { l.2 with pos := l.2.pos.map (fun p => if p.1 == chan then (p.1, { desc := p.2.desc }) else p) })) })) }

/-- A port in reset is dark, and its transmitter is off. -/
def resetPort (s : State) (p : Nat) : State := modPort (goDark s p) p (fun x => { x with txOff := true, retryAt := 0, nbr := none })

/-- A port leaves reset: its transmitter is lit again, and it trains when there is light. -/
def relightPort (s : State) (p : Nat) : State :=
  let s := modPort s p (fun x => { x with txOff := false })
  if (getPort s p).light then startTraining s p else s

def diePorts (d : Nat) : List Nat := (List.range 8).map (fun i => 8 * d + i)

/-- A BYPASS reset: ports dark, routers and route port at their reset values; the routing banks stay in retention memory (R375). -/
def resetBypass (s : State) (d : Nat) : State :=
  let s := (diePorts d).foldl resetPort s
  let s := (diePorts d).foldl (fun s p =>
    clearRegs (clearRegs s (pgBypass p) [0x040, 0x044, 0x100, 0x104]) (pgPort p) [0x044, 0x100, 0x104, 0x108, 0x10C]) s
  let s := setRoute s d { getRoute s d with op := none, code := 0, hold := false }
  let s := if d == 0 then { s with time := { s.time with onB := false, offset := 0 } } else s
  { s with fabric := { s.fabric with packets := s.fabric.packets.filter (fun p => match p.here with
      | some (.bypass k) => k / 2 != d
      | _ => true) } }

/-- Tests, moves and stand-ins of a die are abandoned; a site under test is tested again first (R436). -/
def abandonTests (s : State) (d : Nat) : State :=
  let mine := s.hide.tests.filter (fun t => dieOfSite t.site == d)
  let s := abandonMoves s ((s.hide.moves.filter (fun m => dieOfCore m.core == d)).map (fun m => m.core))
  let s := mine.foldl (fun s t => modSite s t.site (fun x => { x with testing := false })) s
  let s := mine.foldl (fun s t => if t.why == 1 then returnHome s t.core else s) s
  let s : State := { s with hide := { s.hide with
      tests := s.hide.tests.filter (fun t => dieOfSite t.site != d),
      shadows := s.hide.shadows.filter (fun r => dieOfCore r.core != d),
      first := store s.hide.first d ((look s.hide.first d [] ++ mine.map (fun t => t.site)).eraseDups) } }
  { s with ctxs := s.ctxs.map (fun e => (e.1,
      if e.2.replay == 2 && e.2.cores.any (fun k => dieOfCore k == d) && !testWanted s e.2 then { e.2 with replay := 1 } else e.2)) }

/-- A trace buffer stops with a code (R445), also one whose enable was cleared in this cycle; records in its queue are still written. -/
def traceStop (s : State) (i code : Nat) : State :=
  let t := getTrace s i
  if t.stopped || !(t.active || t.clearedAt == some s.odometer) then s
  else raise (setTrace s i { t with stopped := true, code := code, active := !t.queue.isEmpty }) (pgTrace i) 1

/-- The die that a trace buffer watches, if it watches one. -/
def traceDie (t : Trace) : Option Nat :=
  let src := trField t 24 4
  let g := trField t 0 12
  if src == 1 || src == 2 then some (dieOfCore g) else if src == 4 then some (dieOfChan g) else if src == 5 then some g else none

/-- DIE_FABRIC of a die, with everything inside it, is reset (R375, R387, R388). -/
def resetFabric (s : State) (d : Nat) : State :=
  let s := ((s.cores.map (fun e => e.1)).filter (fun k => dieOfCore k == d)).foldl resetCore s
  let s := (List.range 48).foldl (fun s i => if s.ctxs.any (fun e => !e.2.lists.isEmpty) then resetKerb s (48 * d + i) else s) s
  let s := { s with kerbs := s.kerbs.map (fun e => if dieOfChan e.1 == d then (e.1, { e.2 with sb := 0, resv := [] }) else e) }
  let i := getIx s d
  let s := setIx s d { slots := i.slots.map (fun e => (e.1, { e.2 with phase := 0 })) }
  let c := getCol s d
  let s := setCol s d { slots := c.slots.map (fun e => (e.1, { e.2 with phase := 0 })) }
  let s := setRlc s d {}
  let s := (List.range 256).foldl (fun s k => (getCtx s k).flushes.foldl (fun s _ => flushStep s k d) s) s
  let s := clearRegs s (pgFabric d) [0x040, 0x044, 0x048, 0x04C, 0x050, 0x054, 0x058, 0x05C, 0x060, 0x064]
  let s := clearRegs (clearRegs s (pgIx d) [0x040, 0x054]) (pgCol d) [0x040]
  let s := setTel (clearRegs s (pgRlc d) [0x040, 0x044, 0x048]) d {}
  { s with hang := { s.hang with restartAt := drop1 s.hang.restartAt d, misses := drop1 s.hang.misses d } }

/-- A die is fenced (R387): its contexts enter FAULTED, its rounds abort, its HBM goes to self-refresh, and its
maintenance windows stop (R214). -/
def fenceDie (s : State) (d : Nat) : State :=
  if !dieUp s d then s
  else
    let s := abandonTests s d
    let s := abortDie s d
    let s := { s with hang := { s.hang with dstate := store s.hang.dstate d 1 } }
    let s := (List.range 256).foldl (fun s c =>
      match (getCtx s c).cores.find? (fun k => dieOfCore k == d) with
      | some k => enterFaulted s c Code.fenced.num k
      | none => s) s
    let s := dropLinesAll s (fun l => dieOfAddr s (128 * l) == d)
    let s := (List.range 3).foldl (fun s i => modStack s (3 * d + i) (fun x => { x with selfRefresh := true, maint := [] })) s
    let s := (List.range 4).foldl (fun s i => if traceDie (getTrace s i) == some d then traceStop s i Code.fenced.num else s) s
    raise s (pgCtl d) 0

/-- The start of a reset of one domain; a reset in progress of the same or a larger domain absorbs it (R384). -/
def startReset (s : State) (x : Domain) (code : Nat) (test : Bool) : State :=
  if inReset s x then s
  else match x with
    | .engine c e => resetEngine (bump32 (beginReset s x code test) (pgCtl (dieOfCore c)) 0x050 1) c e
    | .core c =>
      let s := match (getCore s c).ctx with | some k => enterFaulted s k Code.fenced.num c | none => s
      resetCore (bump32 (beginReset s x code test) (pgCtl (dieOfCore c)) 0x04C 1) c
    | .kerb k => resetKerb (bump32 (beginReset s x code test) (pgCtl (dieOfChan k)) 0x054 1) k
    | .port p => resetPort (beginReset s x code test) p
    | .bypass d => resetBypass (beginReset s x code test) d
    | .die d => resetFabric (fenceDie (bump32 (beginReset s x code test) (pgCtl d) 0x048 1) d) d
    | .fullDie d => resetBypass (resetFabric (fenceDie (bump32 (beginReset s x code test) (pgCtl d) 0x048 1) d) d) d
    | .hub => beginReset s x code test

/-- A reset whose trigger has no code of its own. -/
def startPlain (s : State) (x : Domain) : State :=
  let (v, s) := noCode s
  startReset s x v false

/-! ### Reset requests (R392) -/

/-- A write of RST_REQ: `ok` when the target is on the die. -/
def rstReq (s : State) (p d : Nat) (ok : Bool) (x : Domain) : State :=
  writeReg s p (pgCtl d) 0x040 [(!ok, .badField), (ok && inReset s x, .busy)] (fun s => startPlain s x)

def execRstReqCore (p : PartId) (die : DieId) (target : BitVec 12) (s : State) : Result :=
  let c : CoreId := Fin.ofNat 4096 target.toNat
  .next (rstReq s p die (dieOfCore c == die.val) (.core c))
def execRstReqKerb (p : PartId) (die : DieId) (target : BitVec 12) (s : State) : Result :=
  .next (rstReq s p die (decide (target.toNat < 192) && dieOfChan target.toNat == die.val) (.kerb (Fin.ofNat 192 target.toNat)))
def execRstReqPort (p : PartId) (die : DieId) (target : BitVec 12) (s : State) : Result :=
  .next (rstReq s p die (decide (target.toNat < 32) && dieOfPort target.toNat == die.val) (.port (Fin.ofNat 32 target.toNat)))
def execRstReqBypass (p : PartId) (die : DieId) (target : BitVec 12) (s : State) : Result :=
  .next (rstReq s p die (target == 0) (.bypass die))
def execRstReqDie (p : PartId) (die : DieId) (target : BitVec 12) (s : State) : Result :=
  .next (rstReq s p die (target == 0) (.die die))

/-! ### Hangs (R378 to R380, R385, R386) -/

/-- The contexts of the residency log that were resident at any time after T0 (R385). -/
def suspectsOf (s : State) (core : Nat) : List Nat :=
  let x := getCore s core
  let t0 := match x.ctx with | some c => (getCtx s c).imageAt | none => s.odometer - 100 * msNs
  ((x.residency.filter (fun r => r.2.2 == 0 || decide (t0 < r.2.2))).map (fun r => r.1)).eraseDups

/-- A hang during a trial: the suspect is guilty, and every other mark is cleared (R386). -/
def trialFailed (s : State) (core c : Nat) : State :=
  let s := recordFault s core 2 0xF Code.timedOut.num (some c) 0 0 0
  let s := modCore s core (fun x => { x with trial := none, suspects := [], accused := [] })
  let s := enterFaulted s c Code.timedOut.num core
  startReset (returnHome s core) (.core (Fin.ofNat 4096 core)) Code.timedOut.num false

/-- A core hangs without a culprit: it is reset, and then its site is tested in place. While marks remain, a hang outside a trial
charges the placed site twice. -/
def hangCore (s : State) (core : Nat) : State :=
  let x := getCore s core
  let dom := Domain.core (Fin.ofNat 4096 core)
  if inReset s dom || !dieUp s (dieOfCore core) then s
  else match x.trial with
    | some (c, _) => trialFailed s core c
    | none =>
      let s := recordFault s core 3 0xF Code.timedOut.num none 0 0 0
      if !x.suspects.isEmpty && siteOf s core == homeOf s core then
        let home := homeOf s core
        let s := chargeSite (chargeSite (modCore s core (fun y => { y with suspects := [], accused := [] })) home) home
        match x.ctx with
        | some c =>
          startReset (enterFaulted (noteHw s c core) c Code.timedOut.num core) dom Code.timedOut.num false
        | none => condemn (startReset s dom Code.timedOut.num false) home
      else
        let s := modCore s core (fun y => { y with accused := suspectsOf s core })
        let s := match x.ctx with
          | some c => modCtx (enterFaulted s c Code.timedOut.num core) c (fun y => { y with replay := if y.state == .faulted then 2 else y.replay })
          | none => s
        startReset s dom Code.timedOut.num true

/-- Time that a started instruction spends so is not counted as a hang: a wait on a milestone, under HOLD, or in a held chip-bound
request (R378). -/
def notCounted (s : State) (core : Nat) (e : WEnt) : Bool :=
  waiting (getCore s core) e || (iEngine e.ins == 5 && (getRoute s (dieOfCore core)).hold) ||
    (e.sent != 0 && s.outs.any (fun o => o.req + 1 == e.sent))

/-- An engine of a core that stops stands at its stop point (Table 55), where nothing more is expected of it. -/
def atStop (x : Core) (e : WEnt) : Bool :=
  let eng := iEngine e.ins
  if eng == 1 then x.lr.stopped else if eng == 2 then x.op.stopped else if eng == 3 then x.vxStopped
  else if eng == 4 then x.reqs.all (fun r => r.2.isNone) else if eng == 5 then e.sent == 0 else isSeqOp e 6

/-- An engine has a started instruction without progress for 1 ms, apart from waits (R378). One that is to stop for an image hangs as
well: with the request in the same cycle the two are handled as the hang (R168, R384). -/
def engineStuck (s : State) (core eng : Nat) : Bool :=
  let x := getCore s core
  let saves := !(runningCtx s core).isSome
  (activeCtx s core).isSome && !(getPage s (pgCore core)).moving && passed s (look x.progress eng s.odometer) msNs &&
    x.window.any (fun e => iEngine e.ins == eng && e.st == 1 && !notCounted s core e && !(saves && atStop x e))

/-- The reset of an engine of a site that carries no logical core, or none with state to lose, is counted and recorded. -/
def siteEngineReset (s : State) (die core : Nat) : State :=
  recordStep (bump32 s (pgCtl die) 0x050 1) 1 Code.timedOut.num die core

/-- ENGINE_HANG: the record names the context, and the engine is reset. Without a resident context the site is charged: a context that
has faulted has left its site (R357). -/
def execEngineHang (core : CoreId) (eng : Fin 6) (s : State) : Result :=
  let x := getCore s core
  .next (if engineStuck s core eng then
      let pc := ((x.window.find? (fun e => iEngine e.ins == eng.val && e.st == 1)).map (fun e => e.addr)).getD 0
      startReset (coreFault s core eng Code.timedOut.num false pc 0 0) (.engine core eng) Code.timedOut.num false
    else match workingSite s core with
      | none => s
      | some (n, t) =>
        if !passed s t msNs then s
        else if n == siteOf s core then startReset (siteFault s n) (.engine core eng) Code.timedOut.num false
        else siteEngineReset (siteFault s n) (dieOfSite n) core)

/-- ENGINE_FAULT (R126, R356): a check of the site's own logic fails in an engine, or its read of a tile store segment meets an error:
one corrected and counted, or one that is counted and is the engine's fault. Parity in control state resets the engine (Table 106). -/
def execEngineFault (core : CoreId) (eng : Fin 6) (seg : EngineCheck) (s : State) : Result :=
  .next (match seg with
    | .logic => engineFault s core eng (eng.val != 4) 0
    | .control => startReset (engineFault s core eng (eng.val != 4) 0) (.engine core eng) Code.checkFailed.num false
    | .tileStore g => engineFault (addUncorrected s (pgCore core) 1) core eng true g.toNat
    | .corrected _ => addCorrected s (pgCore core) 1)

/-- CORE_POLL (R379): two missed polls in a row are a hang. -/
def execCorePoll (die : DieId) (silent : List CoreId) (s : State) : Result :=
  let d := die.val
  .next (if !ctlAlive s d || gated s (pgCtl d) || !passed s (look s.hang.polls d 0) (100 * usNs) then s
    else
      let s := { s with hang := { s.hang with polls := store s.hang.polls d s.odometer } }
      let mute := (silent.map (fun c => c.val)).filter (fun c => dieOfCore c == d && !inReset s (.core (Fin.ofNat 4096 c)))
      let s := { s with cores := s.cores.map (fun e =>
        (e.1, if dieOfCore e.1 == d && !mute.contains e.1 then { e.2 with missedPolls := 0 } else e.2)) }
      mute.foldl (fun s c =>
        let n := (getCore s c).missedPolls + 1
        if 2 ≤ n then hangCore (modCore s c (fun x => { x with missedPolls := 0 })) c
        else modCore s c (fun x => { x with missedPolls := n })) s)

/-- KERB_HANG (R379): a block step that does not complete within 100 µs; maintenance windows do not count. -/
def execKerbHang (chan : ChanId) (s : State) : Result :=
  let open_ := look (getStack s (chan / 16)).maint (chan % 16) false
  let works := s.ctxs.any (fun e => e.2.lists.any (fun l => l.2.armed && (look l.2.pos chan {}).stage == 2))
  .next (match (getKerb s chan).stepAt with
    | some t =>
      if works && !open_ && kerbUp s chan && passed s t (100 * usNs) then
        startReset (modKerb s chan (fun k => { k with stepAt := none })) (.kerb chan) Code.timedOut.num false
      else s
    | none => s)

/-- PREEMPT_OVERRUN (R167, R169, R379, R380): phase 1 is not done within 60 µs, and the cores that have not stopped hang; or a
pre-emption is not done within 1 ms. Waits for awaited ADDs do not count. -/
def execPreemptOverrun (c : CtxId) (s : State) : Result :=
  let x := getCtx s c
  .next (match x.saving with
    | none => s
    | some v =>
      if x.state != .saving || 5 ≤ v.after then s
      else if v.phase2 then (if saveLate s x v then enterFaulted s c Code.timedOut.num (x.cores.headD 0) else s)
      else if !passed s (v.start + v.waited) (60 * usNs) then s
      else
        let stuck := x.cores.filter (fun k => !coreStopped (getCore s k) && !awaitsAdd (getCore s k))
        if stuck.isEmpty && x.cores.any (fun k => awaitsAdd (getCore s k)) then s
        else stuck.foldl hangCore (enterFaulted s c Code.timedOut.num (stuck.headD (x.cores.headD 0))))

/-- CONTEXT_STALL (R381): every core has been parked or halted for STALL_LIMIT ms. -/
def execContextStall (c : CtxId) (s : State) : Result :=
  let x := getCtx s c
  let lim := regOf s pgAon 0x058
  let since := x.cores.foldl (fun t k =>
    let y := getCore s k
    max t (if y.halted then y.haltAt else y.parkedAt.getD 0)) (x.stallAt.getD 0)
  .next (if x.state == .running && lim != 0 && x.cores.all (fun k => (getCore s k).parkedAt.isSome || (getCore s k).halted) &&
      passed s since (lim * msNs) then
      raise (modCtx s c (fun x => { x with stallAt := some s.odometer })) (pgCore (x.cores.headD 0)) 1
    else s)

/-- PLL_LOCK_LOSS (R387): the die is fenced and step 6 runs. -/
def execPllLockLoss (die : DieId) (s : State) : Result := .next (startPlain s (.die die))

/-! ### Half a budget (R376) -/

/-- A message's target core within the chip, and the engine that takes it. -/
def msgTarget (m : Msg) : Option (Nat × Nat) :=
  match m.body with
  | .localAdd _ t _ _ => some (t, 5)
  | .arrive _ t _ _ => some (t, 5)
  | .release _ t _ => some (t, 5)
  | .acc _ t _ _ _ _ _ _ => some (t, 4)
  | .accOrd _ t _ _ _ _ _ _ => some (t, 4)
  | .remoteAdd _ _ t _ _ => some (t, 5)
  | _ => none

/-- A message waits at the edge of a domain. -/
def msgWaits (d : Domain) (m : Msg) : Bool :=
  match msgTarget m with
  | none => false
  | some (t, e) => match d with | .engine c g => c.val == t && g.val == e | _ => domCovers d (.core t)

/-- A request waiting at a roadblock is answered with FENCED. -/
def fenceAnswer (s : State) (m : Msg) : State :=
  let f := Code.fenced.num
  match m.body with
  | .localAdd a t _ _ => ackLocal s m a t f
  | .arrive a t _ _ => ackLocal s m a t f
  | .acc a t _ _ _ _ _ k => ackAcc s m a t k f
  | .accOrd a t _ _ _ _ _ k => ackAcc s m a t k f
  | .remoteAdd a _ t _ _ => sendAnswer s (dieOfCore t) (answerTo s (dieOfCore a) f m (.remoteAddAck a t))
  | _ => s

/-- What stands in the fabric of a die in reset is refused there; requests go on to the commands that answer them with FENCED. The
bypass of the die keeps forwarding (R25). -/
def refuseDie (s : State) (d : Domain) : State :=
  let here := fun (p : Packet) => match d with
    | .die e => packetDie p == e.val && !onBypass p
    | .fullDie e => packetDie p == e.val
    | _ => false
  let l := s.fabric.packets.filter here
  l.foldl refuse { s with fabric := { s.fabric with packets := s.fabric.packets.filter (fun p => !here p) } }

/-- ROADBLOCK_HALF_BUDGET: every request that remains is answered with FENCED. -/
def execRoadblockHalfBudget (d : Domain) (s : State) : Result :=
  .next (match s.hang.resets.find? (fun r => r.dom == d) with
    | none => s
    | some r =>
      if r.half || !passed s r.start (domBudget d / 2) then s
      else
        let hit := msgWaits d
        let waits := s.net.filter hit
        let s := { s with
          net := s.net.filter (fun m => !hit m),
          hang := { s.hang with resets := s.hang.resets.map (fun q => if q.dom == d then { q with half := true } else q) } }
        refuseDie (waits.foldl fenceAnswer s) d)

end Sys2Proof.Machine
end

