-- ==== Sys2Proof/Machine/Fabric.lean ====
section
/-!
DEFINITION. Die fabric and routing (chapter 13): the route port and its operations, HOLD, stop telemetry, and the bridges' flits
and handshakes.
-/
namespace Sys2Proof.Machine

/-! ### Route port operations (R265) -/

/-- An RT_OP write with an operation of Table 74. -/
def rtStart (s : State) (p d op : Nat) : State :=
  let r := getRoute s d
  writeReg s p (pgRoute d) 0x108 [(r.op.isSome, .busy)] (fun s =>
    let i := regOf s (pgRoute d) 0x100
    setRoute s d { r with op := some { op := op, index := i % 65536, bank := bitOf i 16, data := regOf s (pgRoute d) 0x104 } })

def execRtRead (p : PartId) (die : DieId) (s : State) : Result := .next (rtStart s p die 1)
def execRtWrite (p : PartId) (die : DieId) (s : State) : Result := .next (rtStart s p die 2)
def execRtCopy (p : PartId) (die : DieId) (s : State) : Result := .next (rtStart s p die 3)
def execRtSwap (p : PartId) (die : DieId) (s : State) : Result := .next (rtStart s p die 4)
def execRtClear (p : PartId) (die : DieId) (s : State) : Result := .next (rtStart s p die 5)

def activeBank (r : Route) : SMap Nat := if r.active then r.bank1 else r.bank0
def standbyBank (r : Route) : SMap Nat := if r.active then r.bank0 else r.bank1
def withStandby (r : Route) (b : SMap Nat) : Route := if r.active then { r with bank0 := b } else { r with bank1 := b }

/-- A routing table entry with reserved bits set, or PORT_B not 0 with SPREAD 0. -/
def badEntry (e : Nat) : Bool := fieldOf e 10 4 != 0 || (!rtSpread e && rtPortB e != 0)

/-- OUTSTANDING of a die (R266). -/
def outstanding (s : State) (d : Nat) : Nat := (s.outs.filter (fun o => o.die == d)).length

/-- A port in quarantine or ABSENT whose degraded-tolerance flag is clear. -/
def intolerant (s : State) (p : Nat) : Bool :=
  let t := (getPort s p).tstate
  (t == 6 || t == 7) && !bitOf (regOf s (pgPort p) 0x044) 30

/-- A VALID entry names such a port. -/
def badRoute (s : State) (e : Nat) : Bool :=
  rtValid e && (intolerant s (rtPortA e) || (rtSpread e && intolerant s (rtPortB e)))

/-- RT_OP_DONE: the operation takes effect, or fails with its code and leaves both banks unchanged. -/
def execRtOpDone (die : DieId) (s : State) : Result :=
  let d := die.val
  let r := getRoute s d
  let stop := fun (c : Code) => setRoute s d { r with op := none, code := c.num }
  let done := { r with op := none, code := 0 }
  .next (match r.op with
    | none => s
    | some o =>
      if o.op == 1 then
        setReg (setRoute s d done) (pgRoute d) 0x104 (look (if o.bank then standbyBank r else activeBank r) o.index 0)
      else if o.op == 2 then
        if badEntry o.data then stop .badField
        else
          let b := if o.data == 0 then drop1 (standbyBank r) o.index else store (standbyBank r) o.index o.data
          setRoute s d (withStandby done b)
      else if o.op == 3 then setRoute s d (withStandby done (activeBank r))
      else if o.op == 4 then
        match firstFail [(!r.hold || outstanding s d != 0, .wrongState), ((standbyBank r).any (fun e => badRoute s e.2), .absent)] with
        | some c => stop c
        | none => setRoute s d { done with active := !r.active }
      else setRoute s d (withStandby done []))

/-- A write of HOLD (R266): requests that waited at the interchange and the collective controller go out when HOLD ends. -/
def holdWrite (s : State) (p d : Nat) (hold : Bool) : State :=
  writeReg s p (pgRoute d) 0x110 [] (fun s =>
    let s := setRoute s d { getRoute s d with hold := hold }
    if hold then s else colPump (ixPump s d) d)

/-- HOLD_WRITE. -/
def execHoldWrite (p : PartId) (die : DieId) (hold : Bool) (s : State) : Result := .next (holdWrite s p die hold)

/-! ### Telemetry of a stop (R271) -/

/-- A STOP value names a site stop of R16 or a crossbar port of Table 71. -/
def stopOk (xbar : Bool) (v : Nat) : Bool :=
  if xbar then v < 48 || (64 ≤ v && v < 71) || (72 ≤ v && v < 80)
  else fieldOf v 8 6 < 40 && fieldOf v 0 5 < 30 && fieldOf v 5 3 == 0 && fieldOf v 14 2 == 0

/-- TEL_SEL takes a value, and the telemetry registers count from this write. -/
def telSelect (s : State) (d v : Nat) : State := setTel (setReg s (pgFabric d) 0x050 v) d {}

/-- TEL_SEL_WRITE. -/
def execTelSelWrite (p : PartId) (die : DieId) (val : Word) (s : State) : Result :=
  let pg := pgFabric die
  let v := val.toNat
  .next (writeReg s p pg 0x050 [(outside v 0x1FFFF, .reservedSet), (!stopOk (bitOf v 16) (v % 65536), .badField)]
    (fun s => telSelect s die v))

/-- TEL_DEPTH starts again. -/
def clearDepth (s : State) (d : Nat) : State := setTel s d { getTel s d with depth := 0 }

/-- TEL_DEPTH (R271): the largest queue depth of a half at the selected stop since the last read. A partition that does not reach
the page, or a gated page, reads 0 and clears nothing. -/
def telDepthRead (s : State) (p die : Nat) : State :=
  let pg := pgFabric die
  if pageOwn s p pg && !gated s pg then
    { clearDepth s die with rdata := BitVec.ofNat 32 ((getTel s die).depth % 32) }
  else { s with rdata := 0 }

/-- TEL_DEPTH_READ. -/
def execTelDepthRead (p : PartId) (die : DieId) (s : State) : Result := .next (telDepthRead s p die)

/-! ### Bridges (R267 to R270, R272) -/

/-- Bridge number of a die's bridge: 0 next, 1 previous, 2 hub. -/
def bridgeOf (d b : Nat) : Nat := 3 * d + b

def sliceCount (x : Bridge) : Nat := popcount x.sliceMap.toNat 20
/-- Fewest slices to run (Table 75). -/
def sliceFloor (b : Nat) : Nat := if b == 2 then 3 else 16

/-- A retry on a slice; the seventeenth within 1 ms disables it, and too few slices drain the chip. -/
def bridgeRetry (s : State) (d b slice : Nat) : State :=
  let k := bridgeOf d b
  let x := getBridge s k
  let l := ((look x.retries slice []).filter (fun t => s.odometer < t + msNs)) ++ [s.odometer]
  let s := bump32 s (pgBridge k) 0x04C 1
  if l.length ≤ 16 then setBridge s k { x with retries := store x.retries slice l }
  else
    let y := { x with sliceMap := x.sliceMap &&& ~~~(1#20 <<< slice), retries := drop1 x.retries slice }
    let s := raise (addEvent (setBridge s k y) (pgBridge k) 1) (pgBridge k) 0
    if sliceCount y < sliceFloor b then beginDrain s causeBridge (pgBridge k) Code.checkFailed.num else s

/-- BRIDGE_FLIT_RECEIVE: a flit, an idle handshake among them, that the far side has sent on a slice (R270). Packets that cross in the
die fabric are received as they cross. -/
def execBridgeFlitReceive (die : DieId) (bridge : Fin 3) (slice : Fin 20) (crcOk : Bool) (s : State) : Result :=
  let k := bridgeOf die bridge
  let x := getBridge s k
  .next (if gated s (pgBridge k) || !x.sliceMap.getLsbD slice.val then s
    else
      let s := setBridge s k { x with lastAt := s.odometer, lost := false }
      let s := if bridge.val == 2 then s else bump64 s (pgBridge (bridgeBack k)) 0x050 1
      if crcOk then bump64 s (pgBridge k) 0x058 1 else bridgeRetry s die bridge slice)

/-- The die at the far end of a bridge; none for the hub. -/
def farDie (d b : Nat) : Option Nat := if b == 0 then some ((d + 1) % 4) else if b == 1 then some ((d + 3) % 4) else none

/-- HANDSHAKE_LOST: no flit for 1 µs, reported once until the next flit. The far die is fenced, which triggers step 6, where it is not
fenced already; the hub is no die that can be fenced. -/
def execHandshakeLost (die : DieId) (bridge : Fin 3) (s : State) : Result :=
  let k := bridgeOf die bridge
  let x := getBridge s k
  .next (if gated s (pgBridge k) || x.lost || !passed s x.lastAt usNs then s
    else
      let s := raise (setBridge s k { x with lost := true }) (pgBridge k) 1
      match farDie die bridge with
      | none => s
      | some e => if dieUp s e then startPlain s (.die (Fin.ofNat 4 e)) else s)

end Sys2Proof.Machine
end

