-- ==== Sys2Proof/Machine/Partition.lean ====
section
/-!
DEFINITION. The posts RUN and DESTROY (R343), shared resources (R40), Function Level Reset and PARTITION reset (R352, R389, R429), and
HUB resets (R383).
-/
namespace Sys2Proof.Machine

/-! ### RUN and DESTROY (R343) -/

/-- A core set overlaps that of another context which holds its cores. -/
def overlaps (s : State) (c : Nat) : Bool :=
  let l := (getCtx s c).cores
  (List.range 256).any (fun j =>
    let y := getCtx s j
    j != c && (y.state == .running || y.state == .saving || y.state == .faulted) && y.cores.any (fun k => l.contains k))

/-- RUN with the restored state, or with what the restore met. -/
def runWith (s : State) (c : Nat) (r : PostRef) (image : Except (Code × Nat) State) : State :=
  match image with
  | .error e => completePost (restoreFault s c e) c r e.1.num e.2
  | .ok t => enterRunning (startTrials (modCtx t c (fun x => { x with runPost := some r })) c) c false

/-- RUN's checks, then the restore (R343). -/
def runAct (s : State) (c : Nat) (r : PostRef) (d : List Byte) : State :=
  let x := getCtx s c
  match firstFail (postChecks d [] ++ [(x.state != .idle && x.state != .halted, Code.wrongState),
      (x.cores.any (fun k => gated s (pgCore k)), .fenced), (overlaps s c, .busy)]) with
  | some f => completePost s c r f.num 0
  | none => runWith s c r (restoreImage s c false)

/-- RUN; its post waits until the image can be read (R211). -/
def execRun (c : CtxId) (s : State) : Result :=
  .next (takePostIf s c 0x09 (fun _ => imageReady s (getCtx s c)) (fun s r d => runAct s c r d))

/-- What hangs on a context goes: its slots, kerbside lists, done list entries, pending signals and suspect marks. -/
def clearCtx (s : State) (c : Nat) : State :=
  let s := dropMarks (freeSlots s c) c
  let s : State := { s with
    kerbs := s.kerbs.map (fun e => (e.1, { e.2 with done := e.2.done.filter (fun d => d.ctx != c) })),
    heldQ := s.heldQ.map (fun e => (e.1, e.2.filter (fun h => h.ctx != c))),
    replayLog := s.replayLog.map (fun e => (e.1, e.2.filter (fun h => h.ctx != c))) }
  modCtx s c (fun x => {
    part := x.part, credits := x.credits, owed := x.owed, owedAt := x.owedAt, expSeq := x.expSeq, posts := x.posts,
    flushes := x.flushes })

/-- DESTROY. -/
def execDestroy (c : CtxId) (s : State) : Result :=
  .next (takePost s c 0x0B (fun s r d =>
    let x := getCtx s c
    match firstFail (postChecks d [] ++ [(x.state != .idle && x.state != .halted, Code.wrongState)]) with
    | some f => completePost s c r f.num 0
    | none => completePost (clearCtx s c) c r 0 0))

/-! ### Shared resources (R39, R40) -/

def heldBy (o : Option (Nat × Nat)) (p : Nat) : Bool := match o with | some q => q.1 == p | none => false

def setOwner (s : State) (pg : Nat) (o : Option (Nat × Nat)) : State := modPage s pg (fun x => { x with owner := o })

def getCmp (s : State) (k : Nat) : Comparator := look s.power.comps k {}
def setCmp (s : State) (k : Nat) (x : Comparator) : State := { s with power := { s.power with comps := store s.power.comps k x } }

/-- A comparator is released; its configuration is kept. -/
def releaseCmp (s : State) (k : Nat) : State := setCmp s k { getCmp s k with en := false, owner := none }

/-- A trace buffer's enable is cleared; its queue is still written out (R445). -/
def releaseTrace (s : State) (i : Nat) : State :=
  let t := getTrace s i
  setOwner (setTrace s i { t with
    ctl := t.ctl &&& 0x7FFFFFFF#32, active := !t.queue.isEmpty,
    clearedAt := if t.ctl.getLsbD 31 && t.active then some s.odometer else t.clearedAt }) (pgTrace i) none

/-- ALERT# is released (R458). -/
def releaseAlert (s : State) : State := setOwner (updateAlert { s with mgmt := { s.mgmt with alertEn := false } }) pgQmc none

/-- A PARTITION reset releases what the partition holds; its trace buffers stop, with a code that the spec does not give. -/
def releaseAll (s : State) (p : Nat) : State :=
  let s := (List.range 8).foldl (fun s k => if heldBy (getCmp s k).owner p then releaseCmp s k else s) s
  let s := (List.range 4).foldl (fun s i =>
    if heldBy (getPage s (pgTrace i)).owner p then
      let (v, s) := noCode s
      releaseTrace (traceStop s i v) i
    else s) s
  if heldBy (getPage s pgQmc).owner p then releaseAlert s else s

/-! ### Function Level Reset and PARTITION reset (R352, R389) -/

/-- A context stops at its stop points, where its issued requests complete, writes no image and becomes FREE. -/
def stopForReset (s : State) (c : Nat) : State :=
  let x := getCtx s c
  let s := abandonMoves s x.cores
  let s := { s with hide := { s.hide with shadows := s.hide.shadows.filter (fun r => r.ctx != c) } }
  let s := clearCtx (vacate (x.cores.foldl settleReqs s) c) c
  x.cores.foldl (fun s k => if (coreSite s k).role == 1 && ((coreSite s k).failed || siteDue s (siteOf s k)) then leaveSite s k else s) s

/-- A partition's key set is replaced, and the caches drop its lines (R216, R429). -/
def replaceKeys (s : State) (p : Nat) : State :=
  let s := { s with qsc := { s.qsc with keyGen := store s.qsc.keyGen p (look s.qsc.keyGen p 0 + 1) } }
  dropLinesAll s (fun l => fePart (frameEntry s (l / 512)) == p)

/-- The core resets that a partition's sites are in belong to its PARTITION reset, which stands until they have ended. -/
def markPartReset (s : State) (p : Nat) : State :=
  { s with hang := { s.hang with resets := s.hang.resets.map (fun r =>
      match r.dom with | .core c => if partOfCore s c == p then { r with part := some p } else r | _ => r) } }

/-- BAR4 accesses of a function that still wait for their channels go with it. -/
def dropBar4 (s : State) (p : Nat) : State :=
  { s with bar4Q := s.bar4Q.filter (fun a => match a with | .read q _ _ => q != p | .write q _ _ => q != p) }

/-- A Function Level Reset of a function with the PARTITION reset it leads to. The core resets apart, it takes effect at once
(notes/assumptions/22.md). -/
def functionReset (s : State) (p : Nat) : State :=
  let mine := (List.range 256).filter (fun c => ctxPart s c == p)
  let s := (mine.filter (fun c => (getCtx s c).state != .free)).foldl stopForReset s
  let s := mine.foldl (fun s c => modCtx s c (fun x => { x with
    posts := [], expSeq := 0, credits := 32, owed := 0, flushes := [], runPost := none, preemptPost := none })) s
  let s := dropBar4 s p
  let s := modPart s p (fun x => { x with area := none, queue := [], base := 0, vecMask := 0xFF, vecPend := 0 })
  let s := releaseAll s p
  let s := if p = 0 then s else replaceKeys s p
  if s.power.state != .on then s
  else markPartReset ((List.range 4096).foldl (fun s k =>
    if partOfCore s k == p && dieUp s (dieOfCore k) then startPlain s (.core (Fin.ofNat 4096 k)) else s) (bumpEpoch s (partKey p))) p

/-- FUNCTION_LEVEL_RESET. -/
def execFunctionLevelReset (p : PartId) (s : State) : Result := .next (if hubPowered s then functionReset s p else s)

/-! ### HUB resets (R383, R389) -/

/-- A HUB reset handles every partition as a Function Level Reset does. QSC's and the endpoint's volatile registers are cleared. -/
def hubReset (s : State) : State :=
  if !hubPowered s || inReset s .hub then s
  else
    let s := (List.range 16).foldl functionReset s
    let s := clearRegs (clearRegs s pgPcie [0x040, 0x044]) pgPost [0x040, 0x04C]
    let s := clearRegs (clearRegs s pgQpc [0x050]) pgQsc [0x050]
    let s := { s with qsc := { s.qsc with token := [], tokenSel := 0, target := 0, busy := false, code := 0, attests := [] } }
    startPlain s .hub

/-- HOT_RESET. -/
def execHotReset (s : State) : Result := .next (hubReset s)

/-- What a BAR of the VFs takes: NumVFs times its size (R333). -/
def vfBarSize (s : State) (b : Bar) : Nat := popcount (fieldOf (regOf s pgPcie 0x044) 1 15) 15 * b.size

/-- LINK_CHANGE (R353): the link's registers change; going down resets the hub (Table 106). Rates and widths outside the endpoint's
sets never occur, and the link is up only in FLIT mode (R332). -/
def execLinkChange (up flit : Bool) (rate width : BitVec 8) (vfs : BitVec 15) (s : State) : Result :=
  let r := rate.toNat
  let w := width.toNat
  let old := regOf s pgPcie 0x040
  .next (if !hubPowered s || !hubUp s || (up && !(flit && s.endpoint.rates.contains r && s.endpoint.widths.contains w)) then s
    else
      let new := if up then 1 + bit flit * 2 + r * 2 ^ 8 + w * 2 ^ 16 else 0
      let s := setReg (setReg s pgPcie 0x040 new) pgPcie 0x044 (2 * vfs.toNat)
      let moved := fieldOf old 8 16 != fieldOf new 8 16
      let s := if moved then addEvent s pgPcie 1 else s
      let s := if moved || bitOf old 0 != up then raise s pgPcie 0 else s
      if bitOf old 0 && !up then hubReset s else s)

end Sys2Proof.Machine
end

