-- ==== Sys2Proof/Machine/RegTab.lean ====
section
/-!
DEFINITION. The register tables of the control pages as data: for each block and offset, which bits software may write (RW, W1C,
WO), which are read-only, whether the register is a half of a 64-bit pair, and whether it is an always-on counter. A bit in neither
mask is reserved (R10).
-/
namespace Sys2Proof.Machine

/-- Kinds of registers: read-only, writable, or a counter that follows R42. -/
inductive RegKind where
  | ro | rw | ctr
  deriving DecidableEq, Repr, Inhabited

/-- A register: offset, kind, its defined bits, 1 for the low and 2 for the high word of a 64-bit pair. -/
structure RegDef where
  off : Nat
  kind : RegKind
  bits : Nat
  pair : Nat := 0
  deriving DecidableEq, Repr, Inhabited

def allBits : Nat := 0xFFFFFFFF

def ro (o m : Nat) : List RegDef := [{ off := o, kind := .ro, bits := m }]
def rw (o m : Nat) : List RegDef := [{ off := o, kind := .rw, bits := m }]
def ctr (o : Nat) : List RegDef := [{ off := o, kind := .ctr, bits := allBits }]
def ro64 (o hi : Nat) : List RegDef := [{ off := o, kind := .ro, bits := allBits, pair := 1 }, { off := o + 4, kind := .ro, bits := hi, pair := 2 }]
def rw64 (o lo hi : Nat) : List RegDef := [{ off := o, kind := .rw, bits := lo, pair := 1 }, { off := o + 4, kind := .rw, bits := hi, pair := 2 }]
def ctr64 (o : Nat) : List RegDef := [{ off := o, kind := .ctr, bits := allBits, pair := 1 }, { off := o + 4, kind := .ctr, bits := allBits, pair := 2 }]

/-- The core page (R58, R87, R107, R148, R173, R175, R410, R441) without the milestone view. -/
def coreTab : List RegDef :=
  ro 0x040 0xFFFF00FF ++ rw 0x044 0x03FFFFFF ++ rw 0x048 0x800003FF ++ rw 0x04C allBits ++ rw 0x050 allBits ++ ctr 0x054 ++
  ctr64 0x058 ++ ctr64 0x060 ++ ctr 0x068 ++
  ro 0x100 0x00FF00FF ++ rw 0x104 0xC0FFC3FF ++ ctr 0x108 ++ ctr64 0x10C ++ ctr64 0x114 ++
  rw 0x180 0x1 ++ rw 0x184 0x1F ++ rw 0x188 allBits ++
  ro 0x200 0x007F7F1F ++ rw 0x204 0x1 ++ ro 0x208 0x9F00FFFF ++ ro 0x20C 0x9F00FFFF ++ ro 0x210 0x9F00FFFF ++ ro 0x214 0x9F00FFFF ++
  ctr64 0x218 ++ ctr 0x220 ++ ctr 0x224 ++ ctr 0x228 ++ ctr64 0x22C ++
  ro 0x300 0x8F0000FF ++ ro 0x304 0x00007F0F ++ rw64 0x308 0xFFFFFFF0 0xFF ++ rw64 0x310 0xFFFFFFE0 0xFF ++
  rw 0x318 0x00FFFFFF ++ rw 0x31C 0x00FFFFFF ++ rw 0x320 0x00FFFFFF ++ rw 0x324 0x00FFFFFF ++ ro 0x328 allBits ++
  rw 0x330 0xCFFFFF8F ++ ro64 0x334 0xFF ++ ro 0x33C 0xFFF ++ ro64 0x340 allBits ++ ro64 0x348 allBits ++ ctr64 0x350 ++ ctr 0x358 ++
  ro 0x400 0x007F7F07 ++ rw 0x404 0x7F ++ ctr64 0x408 ++ ctr64 0x410 ++ ctr 0x418 ++
  ctr 0xC00 ++ ctr 0xC04 ++ ctr64 0xC08 ++ ro 0xC10 0xFF0307FF ++ ctr64 0xC14 ++ ctr64 0xC1C

/-- The kerbside page (R241). -/
def kerbTab : List RegDef :=
  ro 0x040 0x830001FF ++ ro 0x044 0x1FFF ++ ro64 0x048 allBits ++ ctr 0x050 ++ ctr64 0x054 ++ ctr64 0x05C ++ ctr 0x064

/-- The HBM controller page (R219). -/
def hbmTab : List RegDef :=
  ro 0x040 0xFFFF0003 ++ rw 0x044 0x1FF ++ ro64 0x048 allBits ++ ro 0x050 0x1FF ++ rw 0x054 0xFF ++ ro 0x058 0x03FFFFFF ++
  ro 0x05C allBits ++ ro 0x060 0x10F ++ ctr 0x064

/-- The frame map port on S0's page (R220). -/
def fmTab : List RegDef :=
  rw 0x100 0x7F ++ ro 0x104 0x01FFFFFF ++ rw 0x108 0x00FFFFFF ++ rw64 0x10C allBits allBits ++ rw 0x114 0x107 ++ ro 0x118 0x80FF0000 ++
  ro 0x11C 0xC0FFFFFF

/-- The port page (R292). -/
def portTab : List RegDef :=
  ro 0x040 allBits ++ rw 0x044 0xC01FFFFF ++ ro 0x048 0x801FFFFF ++ ro 0x04C allBits ++ ctr 0x050 ++ ctr 0x054 ++ ctr64 0x058 ++
  ctr64 0x060 ++ ctr 0x068 ++ ctr 0x06C

/-- The plan and time registers on P00's page (R293). -/
def planTab : List RegDef :=
  rw 0x100 0x1FFFF ++ rw 0x104 allBits ++ rw 0x108 0x3F3F03 ++ ro 0x10C 0x80000000 ++ ro 0x110 0xC000FFFF

/-- The die fabric page (R271). -/
def fabricTab : List RegDef :=
  rw 0x040 0xFF ++ rw 0x044 allBits ++ rw 0x048 0xFF ++ rw 0x04C 0x11F ++ rw 0x050 0x1FFFF ++ ro64 0x054 allBits ++ ro 0x05C allBits ++
  ro 0x060 0x1F ++ ro 0x064 allBits ++ ctr64 0x068 ++ ctr64 0x070 ++ ctr64 0x078 ++ ctr64 0x080 ++ ctr64 0x088

/-- The bridge page (R272). -/
def bridgeTab : List RegDef :=
  ro 0x040 0x1F0FFFFF ++ ro64 0x044 0x0FFFFFFF ++ ctr 0x04C ++ ctr64 0x050 ++ ctr64 0x058 ++ ctr64 0x060

/-- The bypass router page (R294) and the route port (R273). -/
def bypassTab : List RegDef :=
  rw 0x040 allBits ++ rw 0x044 0xFF ++ ctr64 0x048 ++ ctr64 0x050 ++ ctr 0x058 ++ ctr 0x05C
def routeTab : List RegDef :=
  rw 0x100 0x1FFFF ++ rw 0x104 0xFFFF ++ rw 0x108 0x7 ++ ro 0x10C 0x80FF0001 ++ rw 0x110 0x1 ++ ro 0x114 0xFFFFF ++ ctr 0x118

/-- The interchange page (R311) and the collective controller page (R331). -/
def ixTab : List RegDef :=
  rw 0x040 0xF ++ ro 0x044 allBits ++ ro 0x048 0xFFFF ++ ro 0x04C 0x3FFFF ++ ro 0x050 0x7FFFF ++ rw 0x054 0x3FFFF ++ ro 0x058 allBits ++
  ro 0x05C allBits ++ ro 0x060 allBits ++ ro 0x064 allBits ++ ro 0x068 0x7FFFF ++ ro 0x06C 0x3FF ++ ctr64 0x070 ++ ctr64 0x078 ++
  ctr 0x080 ++ ctr 0x084 ++ ctr 0x088
def colTab : List RegDef :=
  rw 0x040 0xF ++ ro 0x044 allBits ++ ro 0x048 allBits ++ ro 0x04C 0x1FFF ++ ro 0x050 0x3FF ++ ctr64 0x054 ++ ctr64 0x05C ++ ctr 0x064 ++
  ctr 0x068 ++ ctr 0x06C ++ ctr 0x070

/-- The remote-line cache page (R221) and the die control processor page (R392). -/
def rlcTab : List RegDef :=
  rw64 0x040 0xFFFFFF80 0xFF ++ rw 0x048 allBits ++ rw 0x04C 0x3 ++ ro 0x050 0x1 ++ ctr64 0x054 ++ ctr64 0x05C
def ctlTab : List RegDef :=
  rw 0x040 0xF0000FFF ++ ro 0x044 0x7 ++ ctr 0x048 ++ ctr 0x04C ++ ctr 0x050 ++ ctr 0x054 ++ ro 0x058 0xF

/-- The hub's pages (R353, R354, R409, R433, R423, R459). -/
def pcieTab : List RegDef := ro 0x040 0x00FFFF03 ++ ro 0x044 0xFFFE ++ ctr 0x048 ++ ctr 0x04C
def postTab : List RegDef :=
  rw 0x040 0xFF ++ ro 0x044 0x003F0F07 ++ ro 0x048 0xFFFF ++ rw 0x04C 0xF ++ ro 0x050 0x800FFFFF ++ ro 0x054 0x07FFFFFF ++ ro 0x058 allBits
def qpcTab : List RegDef :=
  rw 0x040 0x7FF ++ ro 0x044 0x37FF ++ ro 0x048 allBits ++ ro 0x04C allBits ++ rw 0x050 0x3 ++ ro 0x054 allBits ++ ro 0x058 0x3 ++
  ro64 0x05C allBits ++ ro 0x064 0x7 ++ ctr 0x068
def qscTab : List RegDef :=
  ro 0x040 0xFFB3 ++ ro64 0x044 allBits ++ rw 0x04C 0xFFF ++ rw 0x050 0x1FF ++ rw 0x054 allBits ++ rw 0x058 0x3 ++ rw 0x05C 0x3F ++
  rw 0x060 allBits ++ rw 0x064 0x3 ++ ro 0x068 0x80FF0000 ++ ro 0x06C 0x7 ++ (List.range 8).flatMap (fun i => ro (0x070 + 4 * i) allBits)
def qmcTab : List RegDef :=
  ro 0x040 0x8FFFFF00 ++ ro 0x044 0x3F ++ ro 0x048 allBits ++ ctr 0x04C ++ ro64 0x050 allBits ++ ro64 0x058 allBits ++
  ro 0x060 0x7F ++ rw 0x064 0x800000FF ++ rw 0x068 0x7F ++ ctr 0x06C ++ ctr 0x070

/-- The always-on page (R391, R411), the odometer master, the trace buffers (R446) and the atlas (R374). The spec gives the
odometer no offset (notes/assumptions/21.md). -/
def aonTab : List RegDef :=
  ro 0x040 0x1F ++ ctr 0x044 ++ ctr 0x048 ++ ctr 0x04C ++ ctr 0x050 ++ ctr 0x054 ++ rw 0x058 0xFFFF ++ ro 0x05C 0xF8FFCFFF ++
  ro64 0x060 allBits ++ ctr 0x068 ++ rw 0x080 0x7 ++ rw 0x084 0xC0000001 ++ rw64 0x088 allBits allBits ++ ro64 0x090 allBits
def odoTab : List RegDef := ro64 0x040 allBits
def traceTab : List RegDef :=
  rw 0x040 0xCF3F0FFF ++ rw 0x044 0x1F ++ rw64 0x048 0xFFFFF000 0xFF ++ rw 0x050 0xFFFFF ++ ro 0x054 0xC0FF0000 ++ ro64 0x058 allBits ++
  ctr 0x060
def atlasTab : List RegDef :=
  rw 0x040 0xFFFF ++ ro 0x044 0xFB000FFF ++ ro 0x048 0xFFFF ++ ro64 0x04C allBits ++ rw 0x054 0xFFF ++ ro 0x058 0x8000FFFF ++
  ro 0x05C 0xFFFF ++ ro 0x060 allBits ++ ro 0x064 0xFFFF ++ ctr 0x068 ++ ro 0x06C 0xC00000FF ++ ctr 0x070 ++ ctr64 0x074 ++ ctr 0x07C ++
  ctr 0x080 ++ ctr 0x084 ++ ctr 0x088 ++ ctr 0x08C ++ ctr 0x090

def blkTab (b : Blk) : List RegDef :=
  match b with
  | .core _ => coreTab | .kerb _ => kerbTab | .hbm k => if k == 0 then hbmTab ++ fmTab else hbmTab
  | .port p => if p == 0 then portTab ++ planTab else portTab
  | .fabric _ => fabricTab | .bridge _ => bridgeTab | .bypass p => if p % 8 == 0 then bypassTab ++ routeTab else bypassTab
  | .ix _ => ixTab | .col _ => colTab | .rlc _ => rlcTab | .ctl _ => ctlTab
  | .pcie => pcieTab | .post => postTab | .qpc => qpcTab | .qsc => qscTab | .qmc => qmcTab
  | .aon => aonTab | .odo => odoTab | .trace _ => traceTab | .atlas => atlasTab

/-- A word of the milestone view (R178). -/
def viewWord (b : Blk) (o : Nat) : Bool := match b with | .core _ => decide (0x800 ≤ o ∧ o < 0xB00) | _ => false

/-- The register at a block-specific offset; a reserved word has no defined bit. -/
def regDef (b : Blk) (o : Nat) : RegDef :=
  if viewWord b o then { off := o, kind := .ro, bits := allBits }
  else ((blkTab b).find? (fun r => r.off == o)).getD { off := o, kind := .ro, bits := 0 }

/-- A stored register that outlives the loss of its block's power: a counter (R42), or one of the always-on page (R375). -/
def keepReg (pg off : Nat) : Bool :=
  match blkOf pg with
  | some .aon => true
  | some b => (regDef b off).kind == .ctr
  | none => false

end Sys2Proof.Machine
end

