-- ==== Sys2Proof/Machine/Power.lean ====
section
/-!
DEFINITION. Power and cooling (chapter 20): the cap, pools and grants, power states, comparators, thermal limits, and the loss of
power with what survives it (R393 to R411, Table 114).
-/
namespace Sys2Proof.Machine

def modPower (s : State) (f : Power → Power) : State := { s with power := f s.power }

/-! ### The cap (R394 to R397) -/

/-- The input voltage that QPC uses: the measured one, or the lower monitor's while the two monitors differ (R437). -/
def vinOf (x : Power) : Nat := x.vinUse.getD x.vIn

/-- EFF_CAP in watts: the cap, and 50 A at the measured input voltage (10 mV units). Before the first measurement the cap stands. -/
def effCapOf (x : Power) : Nat := if x.vIn == 0 then x.cap else min x.cap (vinOf x / 2)

/-- EFF_CAP and LIMIT_SRC follow the cap, the voltage and the thermal ceilings. -/
def withEff (x : Power) : Power :=
  { x with effCap := effCapOf x,
           limitSrc := if x.ceiling.any (fun k => k < 64) then 2 else if effCapOf x < x.cap then 1 else 0 }

def capBad (v : Nat) : Bool := v < 500 || 2000 < v

/-- Another cap command was applied at this odometer value: the two arrived in the same cycle (R397). -/
def capTied (s : State) : Bool := s.power.capAt == s.odometer + 1

/-- The cap that a command of `v` watts replaces: with a lower one of the same cycle it is applied first, over the cap before both. -/
def capBefore (s : State) (v : Nat) : Nat := if capTied s && decide (s.power.cap < v) then s.power.capWas else s.power.cap

/-- A cap command is applied. Of two that arrive in the same cycle the lower value is applied last and stands, and the tie is counted. -/
def setCap (s : State) (v : Nat) : State :=
  if capTied s then addTie (modPower s (fun x => withEff { x with cap := min x.cap v })) pgQpc
  else modPower s (fun x => withEff { x with cap := v, capWas := x.cap, capAt := s.odometer + 1 })

/-- CAP (R396): ARG1 is the previous cap. -/
def execCap (c : CtxId) (s : State) : Result :=
  .next (takePost s c 0x21 (fun s r d =>
    let v := numAt d 16 2
    match firstFail ([mgmtCheck s c, (capBad v, Code.badField)] ++ postChecks d [(16, 2)]) with
    | some f => completePost s c r f.num 0
    | none => completePost (setCap s v) c r 0 (capBefore s v)))

/-- CAP_W_WRITE. -/
def execCapWWrite (p : PartId) (val : Word) (s : State) : Result :=
  .next (writeReg s p pgQpc 0x040 [(outside val.toNat 0x7FF, .reservedSet), (capBad val.toNat, .badField)]
    (fun s => setCap s val.toNat))

/-! ### Temperatures (R406, R407, R438) -/

/-- Readings of a die's sensors that are not excluded, in quarter degrees. -/
def dieReadings (x : Power) (d : Nat) : List Nat :=
  ((List.range 64).filter (fun i => !x.excluded.contains (64 * d + i))).map (fun i => nth x.junction (64 * d + i))
def hubReadings (x : Power) : List Nat :=
  ((List.range 16).filter (fun i => !x.excluded.contains (256 + i))).map (fun i => nth x.hub i)

def maxOf (l : List Nat) : Nat := l.foldl max 0
def dieHottest (x : Power) (d : Nat) : Nat := maxOf (dieReadings x d)
/-- The hottest junction and the hottest stack of the module. -/
def hottestJunction (x : Power) : Nat := max (maxOf (hubReadings x)) (maxOf ((List.range 4).map (dieHottest x)))
def hottestStack (x : Power) : Nat := maxOf x.stackT

/-- A die's ceiling: from 100 °C, and at most 32 with fewer than 48 sensors left. -/
def ceilingOf (x : Power) (d : Nat) : Nat :=
  let t := dieHottest x d
  let k := if 400 ≤ t then max 1 (64 - (2 * t - 800)) else 64
  if (dieReadings x d).length < 48 then min 32 k else k

/-- A thermal ceiling applies to a die. -/
def ceilingOn (x : Power) (d : Nat) : Bool := decide (400 ≤ dieHottest x d) || decide ((dieReadings x d).length < 48)

/-- THROTTLE_US counts whole microseconds since `throttleAt`. -/
def countThrottle (s : State) : State :=
  match s.power.throttleAt with
  | none => s
  | some t =>
    let us := (s.odometer - t) / usNs
    modPower (bump32 s pgQpc 0x068 us) (fun x => { x with throttleAt := some (t + us * usNs) })

/-- The always-on domain's trip condition (R407, R438): a temperature, or fewer than 16 sensors left on a compute die or on the hub. -/
def tripNow (x : Power) : Bool :=
  decide (440 ≤ hottestJunction x) || decide (420 ≤ hottestStack x) || decide ((hubReadings x).length < 16) ||
    (List.range 4).any (fun d => decide ((dieReadings x d).length < 16))

/-- Some sensor reads 90 °C or above. -/
def stillHot (x : Power) : Bool := decide (360 ≤ hottestJunction x) || decide (360 ≤ hottestStack x)

/-! ### Wakes (R405, R412) -/

/-- A bring-up starts (R412): phase POWER. Every partition and the control structures get new key sets (R429). -/
def startBringup (s : State) : State :=
  { s with
    qsc := { keyGen := (List.range 17).map (fun k => (k, look s.qsc.keyGen k 0 + 1)) },
    power := withEff { s.power with
      state := .on, cap := 1600, capAt := 0, ceiling := [64, 64, 64, 64], heldWake := false,
      excluded := [], sensorRuns := [], stackRuns := [] },
    time := {},
    boot := { bootAt := s.odometer, phaseAt := s.odometer, straps := s.boot.straps } }

/-- The wake itself: from DORMANT a bring-up, from DOZE as POWER_OFF to RUN. -/
def wakeNow (s : State) : State :=
  match s.power.state with
  | .dormant => startBringup s
  | .doze => modPower s (fun x => { x with leaving := some (x.leaving.getD .wake), heldWake := false })
  | _ => s

/-- A comparator with WAKE fires: while any sensor reads 90 °C or above the wake is held. -/
def wake (s : State) : State :=
  if s.power.state != .dormant && s.power.state != .doze then s
  else if stillHot s.power then modPower s (fun x => { x with heldWake := true })
  else wakeNow s

def fireCmp (s : State) (k : Nat) : State :=
  let x := getCmp s k
  let s := setCmp s k { x with fired := true, firedAt := s.odometer, met := true }
  let s := alertCause (raiseCause s pgAon k) 2
  if x.wake then wake s else s

/-- A fired comparator with WAKE set wakes a module that is, or comes to be, in DORMANT or DOZE (R405). -/
def wakeFired (s : State) : State :=
  if (List.range 8).any (fun k => (getCmp s k).fired && (getCmp s k).wake) then wake s else s

/-! ### What survives a loss of power (R412, Table 114) -/

/-- The page headers and always-on counters that outlive the power of their blocks (R34, R42). -/
def keptPage (pg : Nat) (x : Page) : Page :=
  if pg == pgAon || pg == pgOdo then x
  else { x with moving := false, owner := if isTracePage pg then none else x.owner, latch := [], stage := [], view := [],
                regs := x.regs.filter (fun r => keepReg pg r.1) }

/-- A stack's part of the non-volatile record: bad rows, soft repairs to be made hard, and what is left of its spare rows. -/
def keptStack (x : Stack) : Stack :=
  { badRows := x.badRows, softPending := x.softPending, spares := x.spares, exhausted := x.exhausted }

/-- Every domain but ALWAYS_ON loses power (R401, R402, R407). The environment (PERST#, light, host memory) is not the module's. -/
def enterDormant (s : State) (cause : Nat) : State :=
  let s := countThrottle s
  let off : State := {
    pending := s.pending, odometer := s.odometer, fresh := s.fresh, nextReq := s.nextReq, armSeq := s.armSeq,
    pages := s.pages.map (fun e => (e.1, keptPage e.1 e.2)), hostLog := s.hostLog, rdata := s.rdata, bar4 := s.bar4,
    ports := s.ports.map (fun e => (e.1, { light := e.2.light })),
    hbmStacks := s.hbmStacks.map (fun e => (e.1, keptStack e.2)),
    sites := s.sites.map (fun e => (e.1, { e.2 with testing := false, standIn := false })),
    signpost := s.home, home := s.home, record := s.record, mgmt := s.mgmt,
    hang := { fault := s.hang.fault, faultTime := s.hang.faultTime },
    qsc := { keyGen := s.qsc.keyGen },
    boot := { phase := s.boot.phase, ready := s.boot.ready, code := s.boot.code, failUnit := s.boot.failUnit, straps := s.boot.straps,
              fwVersion := s.boot.fwVersion, fwFails := s.boot.fwFails, readyAt := s.boot.readyAt, bootAt := s.boot.bootAt,
              testAt := s.boot.testAt },
    time := { s.time with synced := false, asked := none },
    power := { state := .dormant, cap := s.power.cap, effCap := s.power.effCap, vIn := s.power.vIn, junction := s.power.junction,
               hub := s.power.hub, stackT := s.power.stackT, energy := s.power.energy, measuredAt := s.power.measuredAt,
               excluded := s.power.excluded, sensorRuns := s.power.sensorRuns, stackRuns := s.power.stackRuns,
               lastStop := cause, tripped := s.power.tripped, heldWake := s.power.heldWake, perst := s.power.perst,
               comps := s.power.comps, cmpSel := s.power.cmpSel, cmpSelMgmt := s.power.cmpSelMgmt } }
  wakeFired (updateAlert off)

/-- The input falls below 20 V: only the non-volatile record and the environment are left. -/
def powerLoss (s : State) : State :=
  { State.reset with
    pending := s.pending, fresh := s.fresh, hostLog := s.hostLog, rdata := s.rdata, bar4 := s.bar4,
    ports := s.ports.map (fun e => (e.1, { light := e.2.light })),
    hbmStacks := s.hbmStacks.map (fun e => (e.1, keptStack e.2)),
    sites := s.sites.map (fun e => (e.1, { role := e.2.role, jcap := e.2.jcap, lrMap := e.2.lrMap, opMap := e.2.opMap, logical := e.2.logical })),
    signpost := s.home, home := s.home, record := s.record, qsc := { keyGen := s.qsc.keyGen },
    power := { State.reset.power with perst := s.power.perst } }

/-- ALWAYS_ON_LOSS (R393). -/
def execAlwaysOnLoss (s : State) : Result := .next (powerLoss s)

/-- POWER_UP: the input rises to 38 V from below 20 V. -/
def execPowerUp (s : State) : Result :=
  .next (if s.power.state == .off then startBringup { s with odometer := 0 } else s)

/-- SENSOR_READ. A stack at 95 °C, or one whose sensor failed its cross-check, runs at half access rate. -/
def readSensors (s : State) (junction hub hbmStacks : List Nat) : State :=
  let s := modPower (countThrottle s) (fun x => { x with junction := junction, hub := hub, stackT := hbmStacks })
  if !hubPowered s then s
  else
    let x := s.power
    let on := (List.range 4).any (ceilingOn x)
    let s := modPower s (fun x => withEff { x with
      ceiling := (List.range 4).map (ceilingOf x),
      throttleAt := if on then some (x.throttleAt.getD s.odometer) else none })
    let s := (List.range 12).foldl (fun s k =>
      modStack s k (fun y => { y with halfRate := decide (380 ≤ nth hbmStacks k) || decide (3 ≤ look x.stackRuns k 0) })) s
    if on && x.throttleAt.isNone then raise s pgQpc 0 else s

/-- THERMAL_TRIP: THERM_TRIP# is asserted and every domain but ALWAYS_ON loses power; in DORMANT there is none left to lose. -/
def execThermalTrip (s : State) : Result :=
  .next (if s.power.state == .off || !tripNow s.power then s
    else
      let s := modPower s (fun x => { x with tripped := true })
      if hubPowered s then enterDormant s 2 else modPower s (fun x => { x with lastStop := 2 }))

/-! ### Comparators and wakes (R404, R405) -/

/-- The input lies outside the range of the VIN comparator. Nothing is outside before the first measurement. -/
def vinOutside (s : State) : Bool :=
  let a := (getCmp s 4).arg.toNat
  s.power.vIn != 0 && (decide (s.power.vIn < fieldOf a 0 16) || decide (fieldOf a 16 16 < s.power.vIn))

/-- The condition of a comparator (Table 111): VIN holds after 10 µs outside. Light changes and the HOST events are not levels. -/
def cmpHolds (s : State) (k : Nat) : Bool :=
  let a := (getCmp s k).arg.toNat
  if k < 4 then decide (a ≤ s.odometer)
  else if k == 4 then (getCmp s 4).holdAt != 0 && passed s ((getCmp s 4).holdAt - 1) (10 * usNs)
  else if k == 5 then decide (4 * fieldOf a 0 8 ≤ max (hottestJunction s.power) (hottestStack s.power))
  else false

/-- An enable whose condition already holds fires at once. -/
def enabledFire (s : State) (k : Nat) : State := if (getCmp s k).en && cmpHolds s k then fireCmp s k else s

/-- The levels that comparators watch have been measured: the time outside the VIN range starts or ends, and a condition that has ended
may be met again. -/
def cmpWatch (s : State) : State :=
  let c := getCmp s 4
  let s := setCmp s 4 { c with holdAt := if !vinOutside s then 0 else if c.holdAt == 0 then s.odometer + 1 else c.holdAt }
  [4, 5].foldl (fun s k => let x := getCmp s k; setCmp s k { x with met := x.met && cmpHolds s k }) s

/-- COMPARATOR_FIRE: an enabled comparator whose condition has come to hold, also one that has FIRED before. LIGHT fires with changes of
light (LIGHT_ON, LIGHT_LOSS) and HOST with its events (PERST_DEASSERT, MBOX_WAKE). -/
def execComparatorFire (k : Fin 8) (s : State) : Result :=
  let x := getCmp s k
  .next (if s.power.state != .off && x.en && !x.met && cmpHolds s k then fireCmp s k else s)

/-- The LIGHT comparator sees light appear or disappear on a port of its mask. -/
def fireLight (s : State) (port : Nat) : State :=
  let x := getCmp s 6
  if s.power.state != .off && x.en && bitOf x.arg.toNat port then fireCmp s 6 else s

/-- LIGHT_ON. -/
def execLightOn (port : PortId) (s : State) : Result :=
  .next (if (getPort s port).light then s else fireLight (lightOn s port) port)

/-- LIGHT_LOSS. -/
def execLightLoss (port : PortId) (s : State) : Result :=
  .next (if (getPort s port).light then fireLight (lightLoss s port) port else s)

def execSensorRead (junction hub hbmStacks : List Nat) (s : State) : Result :=
  .next (if s.power.state == .off then s else cmpWatch (readSensors s junction hub hbmStacks))

/-- THERM_TRIP_RELEASE: every sensor reads below 90 °C, and a held wake goes on. -/
def execThermTripRelease (s : State) : Result :=
  .next (if stillHot s.power || s.power.state == .off then s
    else
      let s := modPower s (fun x => { x with tripped := false })
      if s.power.heldWake then wakeNow s else s)

/-! ### Measurement, pools and grants (R393, R398 to R400) -/

/-- An input voltage outside 38 to 44 V. -/
def vinOut (v : Nat) : Bool := v != 0 && (v < 3800 || 4400 < v)

/-- The input lies below 36 V or above 46 V. -/
def vinBad (v : Nat) : Bool := v < 3600 || 4600 < v

/-- POWER_MEASURE: the readings, the energy counter, and VIN_OUT when the input leaves its rating. -/
def execPowerMeasure (pIn vIn iIn other : Nat) (dies : List Nat) (s : State) : Result :=
  .next (if s.power.state == .off then s
    else
      let was := vinOut s.power.vIn
      let s := modPower s (fun x => withEff { x with
        pIn := pIn, vIn := vIn, iIn := iIn, other := other, diePower := dies,
        energy := x.energy + pIn * (s.odometer - x.measuredAt), measuredAt := s.odometer,
        vinLowAt := if vinBad vIn then some (x.vinLowAt.getD s.odometer) else none })
      let s := cmpWatch s
      if vinOut vIn && !was then raise s pgQpc 1 else s)

/-- VIN_FAULT: the input lay below 36 V or above 46 V for 100 µs. -/
def execVinFault (s : State) : Result :=
  .next (match s.power.vinLowAt with
    | some t => if hubPowered s && passed s t (100 * usNs) then enterDormant s 3 else s
    | none => s)

/-- Cores of a die that hold a resident context. -/
def residentCores (s : State) (d : Nat) : List Nat :=
  ((s.cores.filter (fun e => dieOfCore e.1 == d && e.2.ctx.isSome)).map (fun e => e.1))

/-- POOL_SPLIT: the core budget (0.1 W) in proportion to resident cores. -/
def execPoolSplit (s : State) : Result :=
  let n := (List.range 4).map (fun d => (residentCores s d).length)
  let total := n.sum
  .next (modPower s (fun x =>
    let budget := 10 * x.effCap - x.other
    { x with pool := n.map (fun k => budget * k / total) }))

/-- Predicted power of a die's unparked cores at step k, in µW: each core runs at most at its ISL_LIMIT. -/
def predicted (s : State) (l : List Nat) (unit k : Nat) : Nat := (l.map (fun c => unit * min k (getCore s c).islLimit)).sum

/-- The largest step up to k that fits the pool, or 0. -/
def largestStep (s : State) (l : List Nat) (unit pool k : Nat) : Nat :=
  match k with
  | 0 => 0
  | k + 1 => if predicted s l unit (k + 1) ≤ pool then k + 1 else largestStep s l unit pool k

/-- A core takes its grant; a decrease takes effect at once. A gated island asks for its start with its first grant. -/
def grantCore (s : State) (k c : Nat) : State :=
  modCore s c (fun x =>
    let g := min k x.islLimit
    let st := min x.step g
    { x with grant := g, step := st, istate := if st == 0 then 0 else if st < g then 1 else 2,
             rampAt := if x.step == 0 && x.grant == 0 then s.odometer else x.rampAt })

/-- Cores of a die that take part in an allocation: unparked ones whose site is not under test. -/
def grantedCores (s : State) (d : Nat) : List Nat :=
  (residentCores s d).filter (fun c => !(getCore s c).lent && !(coreSite s c).testing)

/-- What a die's pool, in µW, leaves to its cores: each site under test draws the power of step 32 (R434). -/
def poolLeft (s : State) (d unit : Nat) : Nat :=
  100000 * nth s.power.pool d - 32 * unit * (s.hide.tests.filter (fun t => dieOfSite t.site == d)).length

/-- GRANT_ALLOCATE: every unparked core of a die gets the largest step that fits; where step 1 does not fit, the channels' access rate
falls by 1/16. -/
def execGrantAllocate (unit : List Nat) (s : State) : Result :=
  let live := grantedCores s
  let fit := (List.range 4).map (fun d => largestStep s (live d) (nth unit d) (poolLeft s d (nth unit d)) 64)
  let steps := (List.range 4).map (fun d => min (max 1 (nth fit d)) (max 1 (nth s.power.ceiling d)))
  let s' := (List.range 4).foldl (fun s d => (live d).foldl (fun s c => grantCore s (nth steps d) c) s) s
  .next (if s.power.state != .on then s
    else modPower s' (fun x => { x with
      dieStep := steps, chanLimit := if fit.contains 0 then max 1 (x.chanLimit - 1) else min 16 (x.chanLimit + 1) }))

/-- Islands of a die that wait to leave gating: those that asked first, and then the lower core. -/
def firstWaiting (s : State) (d : Nat) : Option Nat :=
  let l := (grantedCores s d).filter (fun c => (getCore s c).step == 0 && (getCore s c).grant != 0)
  l.foldl (fun b c =>
    match b with
    | none => some c
    | some a => if (getCore s c).rampAt < (getCore s a).rampAt then some c else b) none

/-- ISLAND_RAMP_STEP (R400). -/
def execIslandRampStep (core : CoreId) (s : State) : Result :=
  let x := getCore s core
  let d := dieOfCore core
  let late := s.power.released.filter (fun r => s.odometer < r.2 + usNs)
  let ends := fun (v : Nat) => if v < x.grant then 1 else 2
  .next (if s.power.state != .on || x.ctx.isNone || x.lent || (coreSite s core).testing || x.grant == 0 then s
    else if x.step == 0 then
      if firstWaiting s d != some core.val || 128 ≤ (late.filter (fun r => r.1 == d)).length then s
      else
        let v := min 16 x.grant
        setCore (modPower s (fun y => { y with released := late ++ [(d, s.odometer)] })) core
          { x with step := v, istate := ends v, rampAt := s.odometer }
    else if x.step < x.grant && passed s x.rampAt 16 then
      setCore s core { x with step := x.step + 1, istate := ends (x.step + 1), rampAt := s.odometer }
    else s)

/-- GRANT_LEND (R194): parked for 2 µs, and not unparked at the very value of that mark, where a satisfaction keeps the grant. -/
def execGrantLend (core : CoreId) (s : State) : Result :=
  let x := getCore s core
  .next (match x.parkedAt with
    | some t =>
      if x.lent || !parked x || !passed s t (2 * usNs + 1) then s
      else siteBump32 (setCore s core { x with lent := true, step := 0, istate := 3 }) core 0x418 1
    | none => s)

/-! ### POWER_OFF (R402, R403, R422) -/

/-- The end of a POWER_OFF: its completion by post, or by the mailbox (through `reply`). -/
def endPow (s : State) (q : PowReq) (code : Nat) (reply : State → Nat → State) : State :=
  match q with
  | .post c r => completePost s c r code 0
  | .mailbox => reply s code
  | .wake => s

/-- What a POWER_OFF leads to: waiting, an end with a code, or a change of state. -/
inductive PowOut where
  | wait
  | ends (c : Code)
  | doze
  | run
  | dormant
  deriving DecidableEq, Repr, Inhabited

/-- Table in R402: `busy` when a context is RUNNING or SAVING. A drain under way is waited for. -/
def powOut (s : State) (target : Nat) : PowOut :=
  let busy := s.ctxs.any (fun e => e.2.state == .running || e.2.state == .saving)
  let moving := s.power.entering.isSome || s.power.leaving.isSome
  if s.boot.phase == 6 && s.hide.draining && !s.hide.drainDone then .wait
  else if target == 3 then .dormant
  else if !s.boot.ready || s.power.state == .dormant then .ends .wrongState
  else if moving then .wait
  else if target == 2 then
    if s.power.state == .doze then .ends .done else if busy then .ends .wrongState else .doze
  else if s.power.state == .doze then .run
  else .ends .done

/-- Every notice queued for a partition that has room is written before power goes. -/
def flushAll (s : State) (p : Nat) : State := flushNotices s p (getPart s p).queue.length

/-- POWER_OFF's effect once its fields have passed. -/
def powerOff (s : State) (target : Nat) (q : PowReq) (reply : State → Nat → State) : State :=
  match powOut s target with
  | .wait => s
  | .ends c => endPow s q c.num reply
  | .doze => modPower s (fun x => { x with entering := some q })
  | .run => modPower s (fun x => { x with leaving := some q })
  | .dormant => enterDormant (flushAll (endPow s q 0 reply) 0) 1

/-- A target that R402 names. -/
def powTarget (v : Nat) : Bool := v == 0 || v == 2 || v == 3

/-- POWER_OFF by post: one that has to wait stays in front. -/
def execPowerOff (c : CtxId) (s : State) : Result :=
  let waits : Bool := match (getCtx s c).posts with
    | q :: _ => postOp q.data == 0x22 && powTarget (numAt q.data 16 1) && powOut s (numAt q.data 16 1) == .wait
    | [] => false
  .next (if waits then s
    else takePost s c 0x22 (fun s r d =>
      let v := numAt d 16 1
      match firstFail ([mgmtCheck s c, (!powTarget v, Code.badField)] ++ postChecks d [(16, 1)]) with
      | some f => completePost s c r f.num 0
      | none => powerOff s v (.post c r) (fun s _ => s)))

/-! ### PERST# (R404, R422) -/

/-- Before READY, PERST# clears the load buffer and drops a FW_LOAD in VERIFY. -/
def dropLoad (s : State) : State :=
  if s.boot.phase == 2 || s.boot.phase == 3 then
    { s with boot := { s.boot with buffer := [], verifying := none, phase := 2,
                                   phaseAt := if s.boot.phase == 3 then s.odometer else s.boot.phaseAt } }
  else s

/-- The endpoint resets: its link registers and its functions' MSI-X state. -/
def resetEndpoint (s : State) : State :=
  let s := clearRegs s pgPcie [0x040, 0x044]
  { s with parts := s.parts.map (fun e => (e.1, { e.2 with vecMask := 0xFF, vecPend := 0 })) }

/-- PERST_ASSERT. -/
def execPerstAssert (s : State) : Result :=
  let t := modPower s (fun x => { x with perst := true })
  .next (if !hubPowered s then t else if s.boot.ready then hubReset t else dropLoad (resetEndpoint t))

/-- PERST_DEASSERT: the HOST comparator's event, when its ARG selects it. -/
def execPerstDeassert (s : State) : Result :=
  let t := modPower s (fun x => { x with perst := false })
  let x := getCmp s 7
  .next (if s.power.state != .off && s.power.perst && x.en && x.arg.getLsbD 0 then fireCmp t 7 else t)

end Sys2Proof.Machine
end

