-- ==== Sys2Proof/Machine/Bringup.lean ====
section
/-!
DEFINITION. Bring-up (chapter 21): its phases, identity, training without firmware, loading and verifying the image, START, TEST and
READY, and bring-up that ends drained (R412 to R423, R425, R426).
-/
namespace Sys2Proof.Machine

def modBoot (s : State) (f : Boot → Boot) : State := { s with boot := f s.boot }
def modRecord (s : State) (f : Record → Record) : State := { s with record := f s.record }

/-- The next phase starts now. -/
def toPhase (s : State) (n : Nat) : State := modBoot s (fun b => { b with phase := n, phaseAt := s.odometer })

/-- CODE and FAIL_UNIT of the last bring-up failure. -/
def bootFail (s : State) (c : Code) (unit : Nat) : State := modBoot s (fun b => { b with code := c.num, failUnit := unit })

/-! ### POWER (R413, R430, R431) -/

/-- A pending life-cycle transition takes effect: PROVISIONED brings a new identity, and from RETURN the certificate goes. -/
def applyLifecycle (s : State) : State :=
  modRecord s (fun r =>
    if !r.pending then r
    else
      let r' := { r with lcState := r.pendingState, pending := false, pendingState := 0 }
      if r.pendingState == 1 then
        { r' with identity := r.identity + 1,
                  certLen := if r.lcState == 3 then 0 else r.certLen, cert := if r.lcState == 3 then [] else r.cert }
      else r')

/-- The page that DRAINED names for a cause (Table 102), of instance `g`. -/
def causePage (cause g : Nat) : Nat :=
  if cause == causeStack then pgHbm (g % 12)
  else if cause == causeResidue then pgKerb (g % 192)
  else if cause == causeDie then pgCtl (g % 4)
  else if cause == causeBridge then pgBridge (g % 12)
  else if cause == causeShared then pgFabric (g % 4)
  else pgAtlas

/-- REPLACE found in the non-volatile record: the module will end drained under the recorded CAUSE. The record holds no instance of the
page that DRAINED names, so the instance is free. -/
def drainRecorded (s : State) : State :=
  if !s.record.replace then s
  else
    let (v, s) := noCode s
    let (g, s) := freshNat s
    beginDrain s s.record.cause (causePage s.record.cause g) v

/-- The record is read and POWER ends. The BYPASS rails came up at a time within POWER that the spec leaves free
(notes/assumptions/159.md). -/
def endPower (s : State) : State :=
  let (g, s) := freshNat (drainRecorded (applyLifecycle s))
  toPhase (modBoot s (fun b => { b with railsAt := s.odometer - g % (s.odometer - b.phaseAt + 1) })) 1

/-- BRINGUP_POWER_DONE. -/
def execBringupPowerDone (s : State) : Result :=
  .next (if s.power.state == .on && s.boot.phase == 0 then endPower s else s)

/-! ### IDENTITY (R414) and training (R415) -/

/-- Training of every port with light starts. -/
def trainPorts (s : State) : State :=
  (List.range 32).foldl (fun s p =>
    let x := getPort s p
    if x.light && !x.txOff && (x.tstate == 0 || x.tstate == 7) then startTraining s p else s) s

/-- A compute die's fuse record agrees with the non-volatile record (R414). -/
def fuseAgrees (s : State) (d : Nat) (r : FuseRecord) : Bool :=
  r.placed == 1024 && decide (1 ≤ r.shoulder) && decide (r.shoulder ≤ 32) &&
    (List.range 1024).all (fun i => look r.signpost (1024 * d + i) (planSignpost (1024 * d + i)) == homeOf s (1024 * d + i))

/-- The fuse records of the four compute dies and, last, of the hub. -/
def fusesOk (s : State) (l : List FuseRecord) : Bool :=
  l.length == 5 && l.all (fun r => r.crcOk) && (List.range 4).all (fun d => match l[d]? with | some r => fuseAgrees s d r | none => false)

/-- All five dies report the same stepping. -/
def sameStepping (l : List Nat) : Bool := l.length == 5 && l.all (fun v => v == nth l 0)

/-- IDENTITY_CHECK: the first failing check stops bring-up; otherwise the hardware state machines start. -/
def execIdentityCheck (straps : List Nat) (fuses : List FuseRecord) (steppings : List Nat) (slot : BitVec 6) (s : State) : Result :=
  let placed := straps.length == 4 && (List.range 4).all (fun k => straps.contains k)
  let t := modBoot s (fun b => { b with straps := slot.toNat })
  .next (if s.power.state != .on || s.boot.phase != 1 then s
    else if !placed || !fusesOk s fuses then toPhase (bootFail t .checkFailed 1) 8
    else if !sameStepping steppings then toPhase (bootFail t .checkFailed 2) 8
    else trainPorts (modBoot (toPhase t 2) (fun b => { b with trainAt := s.odometer })))

/-- The state machines of R415 run. -/
def training (s : State) : Bool := s.power.state == .on && decide (2 ≤ s.boot.phase) && s.boot.phase != 8

/-- A slice passes the wire test (R269) with `n` failed data wires and a mask of failed spare wires: at most 4 failed wires, and the
spares that the repair uses, from the first on, are good. -/
def sliceOk (n mask : Nat) : Bool :=
  decide (n + popcount mask 4 ≤ 4) && (List.range n).all (fun i => !bitOf mask i)

/-- SLICE_MAP and WIRES after the test of a bridge of `n` slices. -/
def testedBridge (n : Nat) (data spare : List Nat) (x : Bridge) : Bridge :=
  let ok := (List.range n).filter (fun k => sliceOk (nth data k) (nth spare k))
  { x with
    sliceMap := BitVec.ofNat 20 ((ok.map (fun k => 2 ^ k)).sum),
    wires := BitVec.ofNat 64 ((ok.map (fun k => nth data k * 2 ^ (3 * k))).sum),
    retries := [] }

/-- BRIDGE_TEST_DONE. -/
def execBridgeTestDone (die : DieId) (bridge : Fin 3) (data spare : List Nat) (s : State) : Result :=
  let k := bridgeOf die bridge
  .next (if !training s || s.boot.bridgesDone.contains k then s
    else
      let x := testedBridge (if bridge.val == 2 then 4 else 20) data spare (getBridge s k)
      let s := modBoot (setBridge s k { x with lastAt := s.odometer }) (fun b => { b with bridgesDone := b.bridgesDone ++ [k] })
      if sliceCount x < sliceFloor bridge then
        beginDrain (bootFail s .checkFailed 3) causeBridge (pgBridge k) Code.checkFailed.num
      else s)

/-- HBM_TRAINING_DONE: the stack is ready, and its pending soft repairs are hard now (R208). -/
def execHbmTrainingDone (stack : StackId) (s : State) : Result :=
  .next (if training s && (getStack s stack).state == 0 then
      modStack s stack (fun x => { x with state := 1, softPending := [] })
    else s)

/-- STACK_TRAINING_OVERRUN: 16 ms have passed, and the stack is lost (R421). -/
def execStackTrainingOverrun (stack : StackId) (s : State) : Result :=
  .next (if training s && (getStack s stack).state == 0 && passed s s.boot.trainAt (16 * msNs) then
      let s := raise (modStack (bootFail s .timedOut 4) stack (fun x => { x with state := 2 })) (pgHbm stack) 4
      beginDrain s causeStack (pgHbm stack) Code.timedOut.num
    else s)

/-- RESERVED_ZERO_DONE: the frame map is clear, and IL_SPLIT is 32. -/
def execReservedZeroDone (s : State) : Result :=
  .next (if training s && !s.boot.zeroDone then
      modBoot (clearRegs { s with fm := {} } fmPage [0x100]) (fun b => { b with zeroDone := true })
    else s)

/-! ### Loading the firmware (R416, R417) -/

def loadNum (s : State) (o n : Nat) : Nat := memNum s.boot.buffer o n

/-- A header field of the image in the load buffer is wrong, or a section is misplaced or oversized. -/
def imageBad (s : State) (len : Nat) : Bool :=
  let sec := (List.range 4).map (fun i => (loadNum s (16 + 8 * i) 4, loadNum s (20 + 8 * i) 4))
  loadNum s 0 4 != 1 || loadNum s 4 4 != len || loadNum s 12 4 != 0 || loadNum s 48 8 != 0 || loadNum s 56 8 != 0 ||
    sec.any (fun e => e.1 % 64 != 0 || e.2 % 64 != 0 || decide (len - 256 < e.1 + e.2)) ||
    decide (2 ^ 19 < nth (sec.map (fun e => e.2)) 2)

/-- A FW_LOAD fails: counted, and the module is back in LOAD_WAIT with the buffer unchanged. -/
def loadFail (s : State) (c : Nat) (r : PostRef) (f : Code) : State :=
  let s := modBoot (bootFail s f 6) (fun b => { b with fwFails := sat32 b.fwFails 1 })
  completePost s c r f.num 0

/-- FW_LOAD. Before LOAD_WAIT it waits at the front of its context's posts. -/
def execFwLoad (c : CtxId) (s : State) : Result :=
  .next (if s.boot.phase < 2 || s.boot.phase == 8 then s
    else takePost s c 0x23 (fun s r d =>
      let len := numAt d 16 4
      match firstFail ([mgmtCheck s c, (len % 4096 != 0, Code.align), (len < 2 ^ 16 || 2 ^ 24 < len, .badField), (s.boot.accepted, .wrongState),
          (s.boot.verifying.isSome, .busy)] ++ postChecks d [(16, 4)]) with
      | some .notOwner => completePost s c r Code.notOwner.num 0
      | some f => loadFail s c r f
      | none =>
        if imageBad s len then loadFail s c r .badField
        else modBoot (toPhase s 3) (fun b => { b with verifying := some (c.val, r, len) })))

/-! ### VERIFY (R425, R426) -/

/-- The image as its digest covers it: the 64 bytes of SIG taken as 0. -/
def digestedImage (buf : SMap Byte) (len : Nat) : List Byte :=
  loadBytes buf 0 (len - 128) ++ List.replicate 64 0 ++ loadBytes buf (len - 64) 64

/-- Key slots that Table 119 permits in a life-cycle state. DESIGN CHOICE (notes/assumptions/160.md): the scan and chip-level tests of an
image of slot 3 are left out. -/
def slotPermitted (lc slot : Nat) : Bool := slot != 3 || lc == 0 || lc == 3

/-- The first check of R426 that fails. -/
def verifyFail (s : State) (len : Nat) : Option Code :=
  let b := len - 256
  let head := loadNum s b 4
  let slot := fieldOf head 8 2
  let rest := loadBytes s.boot.buffer (b + 4) 60 ++ loadBytes s.boot.buffer (b + 0xC0) 64
  let pub := loadBytes s.boot.buffer (b + 0x40) 64
  inOrder [
    (fieldOf head 0 8 != 1 || fieldOf head 10 22 != 0 || rest.any (fun v => v != 0), .badField),
    (!slotPermitted s.record.lcState slot, .lifecycle),
    (sha256 pub != Config.romHash slot, .signature),
    (!ecdsaOk pub (sha256 (digestedImage s.boot.buffer len)) (loadBytes s.boot.buffer (b + 0x80) 64), .signature)]

/-- Steps 1 to 3 of START (R418): the image is copied to the reserved frames, and the hub (source 4) and the dies that are not lost run
their firmware and have written their first heartbeats. -/
def startControl (s : State) : State :=
  let now := (List.range 5).map (fun k => (k, s.odometer))
  let s : State := { s with hang := { s.hang with
    beaten := (List.range 5).map (fun k => (k, k == 4 || look s.hang.dstate k 0 != 4)), beats := now, windows := now, misses := [],
    polls := (List.range 4).map (fun d => (d, s.odometer)) } }
  modBoot s (fun b => { b with image := b.buffer, buffer := [], startDone := true })

/-- The image is accepted: QSC's record of it, and START, or the end of a bring-up with a cause recorded. -/
def acceptImage (s : State) (c : Nat) (r : PostRef) (len : Nat) : State :=
  let version := loadNum s 8 4
  let digest := sha256 (digestedImage s.boot.buffer len)
  let s : State := { s with
    qsc := { s.qsc with
      fwValid := true, fwKey := fieldOf (loadNum s (len - 256) 4) 8 2,
      fwDigest := (List.range 8).map (fun i => BitVec.ofNat 32 (numAt digest (4 * i) 4)) },
    boot := { s.boot with accepted := true, verifying := none, fwVersion := BitVec.ofNat 32 version } }
  let s := completePost s c r 0 version
  if s.hide.draining then endBootDrained (startControl s) else toPhase s 4

/-- FW_VERIFY_DONE. -/
def execFwVerifyDone (s : State) : Result :=
  .next (match s.boot.verifying with
    | none => s
    | some (c, r, len) =>
      match verifyFail s len with
      | some f => loadFail (modBoot (toPhase s 2) (fun b => { b with verifying := none })) c r f
      | none => acceptImage s c r len)

/-! ### START (R418) and TEST (R419) -/

/-- The broadcast of the core firmware: each site that is not DEFECTIVE checks the CRC-32 of what it received and asks again, up to three
times; which sites then still have none is free (notes/assumptions/161.md). -/
def broadcast (s : State) : State :=
  let l := Config.firmwareLost s.fresh
  modBoot { s with fresh := s.fresh + 1 } (fun b => { b with fwFailed := l.filter (fun n => siteOk n && (getSite s n).role != 0) })

/-- FIRMWARE_START: the image is copied, the five processors run, and the core firmware is broadcast. -/
def execFirmwareStart (s : State) : Result :=
  .next (if s.power.state != .on || s.boot.phase != 4 then s else toPhase (broadcast (startControl s)) 5)

/-- Table 116: what a failing test leaves of a site's groups, or none when the site is DEFECTIVE. -/
def narrowed (x : Site) (t : SiteTest) : Option Site :=
  let without := fun (w : Nat) (l : List Nat) => ((List.range 16).filter (fun i => bitOf w i && !l.contains i)).map (fun i => 2 ^ i)
  let lr := (without x.lrMap.toNat t.lrGroups).sum
  let op := (without x.opMap.toNat t.opGroups).sum
  let y := { x with lrMap := BitVec.ofNat 16 lr, opMap := BitVec.ofNat 8 op }
  if t.other || lrWidth y + 16 < lrWidth x || opColumns y + 8 < opColumns x || lrWidth y < 112 || (x.jcap && opColumns y < 24) then none
  else some y

/-- The atlas changes during the bring-up test (R374, R420). -/
def atlasChange (s : State) : State := bump32 (dirtyAtlas s) pgAtlas 0x068 1

/-- One site's outcome. A placed site that fails moves its logical core, or bring-up ends drained. -/
def applyTest (s : State) (t : SiteTest) : State :=
  let x := getSite s t.site
  if x.role == 0 || (t.lrGroups.isEmpty && t.opGroups.isEmpty && !t.other) then s
  else match narrowed x t with
    | some y => if y == x then s else atlasChange (setSite s t.site y)
    | none =>
      let gone := fun (s : State) => atlasChange (modSite s t.site (fun y => { y with role := 0, logical := 0 }))
      if x.role == 2 || siteLeft s t.site then gone s
      else match fittingSite s x.logical with
        | some n =>
          let s := modSite s n (fun y => { y with role := 1, logical := x.logical })
          gone { s with signpost := store s.signpost x.logical n, home := store s.home x.logical n }
        | none => beginDrain (bootFail (gone s) .checkFailed 5) causeShoulder pgAtlas Code.checkFailed.num

/-- Results in ascending site identifier. -/
def insertTest (t : SiteTest) (l : List SiteTest) : List SiteTest :=
  match l with
  | [] => [t]
  | a :: r => if t.site ≤ a.site then t :: a :: r else a :: insertTest t r
def sortTests (l : List SiteTest) : List SiteTest := l.foldl (fun r t => insertTest t r) []

/-- A site without its core firmware fails the bring-up test (R418). -/
def firmwareFails (s : State) : List SiteTest := s.boot.fwFailed.map (fun n => { site := n, lrGroups := [], opGroups := [], other := true })

/-- BRINGUP_TEST_DONE: the results of sites that did not pass; every other site passed. Once a cause has ended bring-up the rest is
not applied. -/
def execBringupTestDone (results : List SiteTest) (s : State) : Result :=
  .next (if s.power.state != .on || s.boot.phase != 5 || s.boot.testDone then s
    else
      let good := (firmwareFails s ++ results).filter (fun t => siteOk t.site)
      let s := (sortTests good).foldl (fun s t => if s.hide.draining then s else applyTest s t) s
      let s : State := { s with sites := s.sites.map (fun e => (e.1, { e.2 with faults := [] })) }
      if s.hide.draining then s
      else modBoot s (fun b => { b with testDone := true, testAt := s.odometer }))

/-! ### READY (R420) -/

/-- Every condition of R420 holds. -/
def readyNow (s : State) : Bool :=
  s.power.state == .on && s.boot.phase == 5 && s.boot.accepted && s.boot.startDone && s.boot.testDone && !s.hide.draining &&
    (List.range 12).all (fun k => s.boot.bridgesDone.contains k && decide (sliceFloor (k % 3) ≤ sliceCount (getBridge s k))) &&
    (List.range 12).all (fun k => (getStack s k).state == 1) &&
    ((List.range 32).all (fun p => [0, 6, 7].contains (getPort s p).tstate) || passed s s.boot.railsAt (40 * msNs))

/-- READY_SEND. -/
def execReadySend (s : State) : Result :=
  .next (if !readyNow s then s
    else
      let s := modBoot (toPhase s 6) (fun b => { b with ready := true, readyAt := s.odometer })
      let s := chipNotice s { typ := 5, odo := BitVec.ofNat 64 s.odometer, arg0 := Config.stepping.toNat }
      let s := if s.record.atlasDirty then chipNotice s { typ := 6, odo := BitVec.ofNat 64 s.odometer, arg0 := 0xFFFF } else s
      modRecord s (fun r => { r with atlasDirty := false }))

/-! ### Overruns (R421) -/

/-- A die does not finish a phase: it is lost. -/
def bootDieLost (s : State) (d unit : Nat) : State :=
  let s : State := { s with hang := { s.hang with dstate := store s.hang.dstate d 4 } }
  beginDrain (bootFail s .timedOut unit) causeDie (pgCtl d) Code.timedOut.num

/-- BRINGUP_OVERRUN of POWER (8 ms), START (8 ms) or TEST (12 ms). -/
def execBringupOverrun (hub : Bool) (die : DieId) (s : State) : Result :=
  let tooLong := fun (n : Nat) => passed s s.boot.phaseAt (n * msNs)
  .next (if s.power.state != .on then s
    else if s.boot.phase == 0 && tooLong 8 then
      if hub then enterDormant (bootFail s .timedOut 7) 4 else bootDieLost (endPower s) die 7
    else if s.boot.phase == 4 && tooLong 8 then bootDieLost s die 6
    else if s.boot.phase == 5 && !s.boot.testDone && tooLong 12 then bootDieLost s die 6
    else s)

end Sys2Proof.Machine
end

