-- ==== Sys2Proof/Machine/Hang.lean ====
section
/-!
DEFINITION. The ends and overruns of resets, the return of a die, and the watchdog (R382 to R388).
-/
namespace Sys2Proof.Machine

/-- The reset of exactly this domain that is in progress. -/
def resetOf (s : State) (x : Domain) : Option Reset := s.hang.resets.find? (fun r => r.dom == x)

/-- A domain leaves reset: its roadblock is lowered. -/
def endReset (s : State) (x : Domain) : State :=
  { s with hang := { s.hang with resets := s.hang.resets.filter (fun r => r.dom != x) } }

/-- Contexts that wait for a die (R387) replay once all their dies are up. -/
def replayAfterReturn (s : State) : State :=
  { s with ctxs := s.ctxs.map (fun e =>
      (e.1, if e.2.replay == 3 && e.2.cores.all (fun k => dieUp s (dieOfCore k)) then { e.2 with replay := 1 } else e.2)) }

/-- Unfence (Table 107): the channels are retrained, DIE_RETURNED is raised, sites whose tests were abandoned are tested again, and
FAULTED contexts replay. -/
def unfence (s : State) (d : Nat) : State :=
  let s : State := { s with hang := { s.hang with
    dstate := drop1 s.hang.dstate d, polls := store s.hang.polls d s.odometer,
    windows := store s.hang.windows d s.odometer, beats := store s.hang.beats d s.odometer } }
  let s := (List.range 3).foldl (fun s i => modStack s (3 * d + i) (fun x => { x with selfRefresh := false })) s
  let s := raise s (pgCtl d) 1
  replayAfterReturn (if mayTest s d then retestFirst s d else s)

/-- The end of a core reset: a core that hung without a culprit is tested in place (R385). -/
def coreResetDone (s : State) (c : Nat) (test : Bool) : State :=
  if test && !s.hide.draining then startTest (retestFirst s (dieOfCore c)) (siteOf s c) 3 c else s

/-- The reset completes in the cycle of its overrun: it has completed, and the tie is counted (R384). -/
def countTie (s : State) (d : Domain) (r : Reset) : State :=
  if r.start + domBudget d == s.odometer then addTie s (pgCtl (domDie d)) else s

/-- The domain is a core whose site stays off behind its roadblock after an overrun (Table 106). -/
def leftBehind (s : State) (d : Domain) : Bool := match d with | .core c => (coreSite s c).failed | _ => false

/-- RESET_COMPLETE. A port reset keeps the transmitter off for 100 µs. -/
def execResetComplete (d : Domain) (s : State) : Result :=
  .next (match resetOf s d with
    | none => s
    | some r =>
      let s := if d == .hub then s else countTie s d r
      match d with
      | .engine _ _ => endReset s d
      | .core c => if leftBehind s d then s else coreResetDone (endReset s d) c r.test
      | .kerb _ => endReset s d
      | .port p => if passed s r.start (100 * usNs) then relightPort (endReset s d) p else s
      | .bypass e => (diePorts e).foldl relightPort (endReset s d)
      | .die e => unfence (endReset s d) e
      | .fullDie e => (diePorts e).foldl relightPort (unfence (endReset s d) e)
      | .hub => endReset s d)

/-- A site whose core reset overran is DEFECTIVE, and its logical core goes elsewhere (Table 106, R385). Until then the site stays
behind its roadblock. -/
def coreOverrun (s : State) (c : Nat) (r : Reset) : State :=
  let n := siteOf s c
  let s := modCore s c (fun x => { x with accused := [], trial := none })
  let s := if (getSite s n).role == 2 then returnHome (retireShoulder s n) c else leaveSite s c
  let s := if (coreSite s c).failed then { s with hang := { s.hang with resets := s.hang.resets ++ [r] } } else s
  resumeReplays s c

/-- A die whose reset overran is lost, and the chip drains. -/
def dieLost (s : State) (d : Nat) : State :=
  let s : State := { s with hang := { s.hang with dstate := store s.hang.dstate d 4 } }
  beginDrain s causeDie (pgCtl d) Code.timedOut.num

/-- RESET_OVERRUN: the next step of the ladder, counted in ESCALATIONS. -/
def execResetOverrun (d : Domain) (s : State) : Result :=
  .next (match resetOf s d with
    | none => s
    | some r =>
      if s.odometer ≤ r.start + domBudget d || leftBehind s d then s
      else
        let s := bump32 (endReset s d) pgAon 0x068 1
        let code := Code.timedOut.num
        match d with
        | .engine c _ => startReset s (.core c) code false
        | .core c => coreOverrun s c r
        | .kerb k => startReset s (.die (Fin.ofNat 4 (dieOfChan k))) code false
        | .port p => startReset s (.bypass (Fin.ofNat 4 (dieOfPort p))) code false
        | .bypass e => startReset s (.fullDie e) code false
        | .die e => dieLost s e
        | .fullDie e => dieLost s e
        | .hub => enterDormant (modRecord s (fun x => { x with replace := true })) 4)

/-! ### The watchdog (R382) -/

/-- Source k's processor has power and is out of reset. -/
def sourceUp (s : State) (k : Nat) : Bool :=
  s.power.state == .on && s.boot.accepted && (if k < 4 then dieUp s k else hubUp s)

/-- HEARTBEAT. The first one after a restart ends the restart; one in the cycle of the third miss wins (R193). -/
def execHeartbeat (k : Fin 5) (s : State) : Result :=
  let third := look s.hang.misses k 0 == 2 && look s.hang.windows k 0 + msNs == s.odometer
  let s := if sourceUp s k && third then addTie s pgAon else s
  .next (if !sourceUp s k then s
    else
      let waited := restarting s k
      let s : State := { s with hang := { s.hang with
        beaten := store s.hang.beaten k true, beats := store s.hang.beats k s.odometer, windows := store s.hang.windows k s.odometer,
        misses := drop1 s.hang.misses k, restartAt := drop1 s.hang.restartAt k } }
      if waited then leaveWaiting s k else s)

/-- WATCHDOG_MISS: a window of 1 ms without a heartbeat; the third in a row resets the processor alone. -/
def execWatchdogMiss (k : Fin 5) (s : State) : Result :=
  let h := s.hang
  let w := look h.windows k 0
  let n := look h.misses k 0 + 1
  .next (if !sourceUp s k || !look h.beaten k false || (look h.restartAt k none).isSome || s.odometer ≤ w + msNs then s
    else if n < 3 then { s with hang := { h with windows := store h.windows k (w + msNs), misses := store h.misses k n } }
    else
      let s : State := { s with hang := { h with
        windows := store h.windows k (w + msNs), misses := drop1 h.misses k, restartAt := store h.restartAt k (some s.odometer) } }
      let s := queueNotice (bump32 s pgAon (0x044 + 4 * k) 1) 0 { typ := 8, odo := BitVec.ofNat 64 s.odometer, arg0 := k }
      alertCause s 3)

/-- PROCESSOR_RESTART_OVERRUN: no heartbeat within 5 ms of the processor's reset. -/
def execProcessorRestartOverrun (k : Fin 5) (s : State) : Result :=
  .next (match look s.hang.restartAt k none with
    | none => s
    | some t =>
      if !passed s t (5 * msNs) then s
      else
        let s : State := { s with hang := { s.hang with restartAt := drop1 s.hang.restartAt k } }
        if h : k.val < 4 then startReset s (.die ⟨k.val, h⟩) Code.timedOut.num false
        else recordStep (hubReset s) 8 Code.timedOut.num 0 0)

end Sys2Proof.Machine
end

