-- ==== Sys2Proof/Machine/Clock.lean ====
section
/-!
DEFINITION. What happens on an empty queue: a nanosecond passes for the odometer and in the die fabrics, the counters of time and of
cycles of the cores count, accesses that waited for a channel go on, and the times that R169 and R378 do not count stand still
(notes/assumptions/6.md).
-/
namespace Sys2Proof.Machine

/-- Phase 1 of a context waits only for awaited ADDs (R169). -/
def onlyAwaits (s : State) (x : Ctx) : Bool :=
  x.cores.any (fun k => awaitsAdd (getCore s k)) && x.cores.all (fun k => coreStopped (getCore s k) || awaitsAdd (getCore s k))

/-- The limits of phase 1 do not count `n` ns in which it waited only for awaited ADDs. -/
def skipAwaits (s : State) (n : Nat) : State :=
  { s with ctxs := s.ctxs.map (fun e => match e.2.saving with
    | some v =>
      if e.2.state == .saving && !v.phase2 && onlyAwaits s e.2 then (e.1, { e.2 with saving := some { v with waited := v.waited + n } })
      else e
    | none => e) }

/-- An engine whose started instruction spends time that R378 does not count has its last progress now. -/
def skipWaits (s : State) : State :=
  { s with cores := s.cores.map (fun e =>
    (e.1, (e.2.window.filter (fun w => w.st == 1 && notCounted s e.1 w)).foldl (fun x w =>
      { x with progress := store x.progress (iEngine w.ins) s.odometer }) e.2)) }

/-- LR's weight front waits for a fill (R82): a token of its step may not be issued, its bank being empty. -/
def frontWaits (x : Core) (w : Nat) : Bool :=
  match lrEnt x with
  | some e => !x.lr.ended && decide (x.lr.pass < lrPasses (lrDesc e.td) w) && !hasBank x.lr.banks (e.id, x.lr.pass, x.lr.step)
  | none => false

/-- A STREAM condition is unmet (R81). -/
def streamWaits (x : Core) (w : Nat) : Bool :=
  match lrEnt x with
  | some e => (lrDesc e.td).stream && decide (x.lr.pass < lrPasses (lrDesc e.td) w) && !streamReady x e x.lr.token
  | none => false

/-- The counters of cycles on a core page that may count now: offset, and whether 64-bit (R87, R107, R148, R410): dummy operations and
waits of LR, those of OP, a tile store requester refused, source edges withheld from a running island below its full step. -/
def cyclesOn (x : Core) (w : Nat) : List (Nat × Bool) :=
  let run := x.runState == 1 || x.runState == 2
  let on := fun (b : Bool) (o : Nat) (q : Bool) => if b then [(o, q)] else []
  on (run && !x.lr.gated && decide (0 < x.lr.dummy) && x.window.any (fun e => iEngine e.ins == 1 && e.st != 2)) 0x058 true ++
  on (run && frontWaits x w) 0x060 true ++ on (run && streamWaits x w) 0x068 false ++
  on (run && !x.op.gated && decide (0 < x.op.dummy) && x.window.any (fun e => iEngine e.ins == 2 && e.st != 2)) 0x10C true ++
  on (run && x.op.ent.isSome) 0x114 true ++ on (x.window.any (fun e => e.st == 1)) 0x22C true ++
  on ((x.istate == 1 || x.istate == 2) && decide (x.step < 64)) 0x408 true

/-- A counter of cycles gains a free number of cycles, at most the 3 of 3.0 GHz (DESIGN CHOICE, notes/assumptions/8.md). -/
def countCycles (core : Nat) (s : State) (c : Nat × Bool) : State :=
  let (k, s) := freshNat s
  if c.2 then siteBump64 s core c.1 (k % 4) else siteBump32 s core c.1 (k % 4)

/-- What `n` ns of odometer time count on a core: WAIT_NS while every instruction in its window waits on a milestone (R441), LENT_NS
while its grant is lent (R410), the counters of cycles, and the parked time (R194). -/
def coreTick (n : Nat) (s : State) (core : Nat) : State :=
  let x := getCore s core
  let s := if allWait x then siteBump64 s core 0xC14 n else s
  let s := if x.lent then siteBump64 s core 0x410 n else s
  let s := (cyclesOn x (lrWidth (coreSite s core))).foldl (countCycles core) s
  modCore s core (fun x => repark x s.odometer)

/-- Flits sent and received over a die's hub bridge in a nanosecond, and cycles in which one waited (R272). The hub's traffic has no
packets in this model, so the numbers are free (DESIGN CHOICE, notes/assumptions/8.md). -/
def hubBridgeTick (s : State) (d : Nat) : State :=
  let k := 3 * d + 2
  if s.power.state == .on && dieUp s d && s.boot.bridgesDone.contains k then
    [0x050, 0x058, 0x060].foldl (fun s o => let (v, s) := freshNat s; bump64 s (pgBridge k) o (v % 8)) s
  else s

/-- What waits for a channel's engine goes on (R196, R211): BAR4 accesses, writes whose outcome is not awaited, and the status words
with which rounds end. -/
def runWaiting (s : State) : State :=
  rerunAll <| (List.range 4).foldl (fun s d =>
    let s := ((getIx s d).slots.map (fun e => e.1)).foldl (fun s k =>
      if (getIxSlot s d k).sigs.isEmpty && !gated s (pgIx d) then ixDrive s d k ixFuel else s) s
    ((getCol s d).slots.map (fun e => e.1)).foldl (fun s k =>
      if (getColSlot s d k).sigs.isEmpty && !gated s (pgCol d) then colDrive s d k else s) s) (bar4Run s.bar4Q.length (landLate s))

/-- What happens on an empty queue. -/
def tick (s : State) : State :=
  let t := (List.range 4).foldl hubBridgeTick (runWaiting (fabricRun (idle s)))
  let n := t.odometer - s.odometer
  skipWaits (skipAwaits ((t.cores.map (fun e => e.1)).foldl (coreTick n) t) n)

end Sys2Proof.Machine
end

