-- ==== Sys2Proof/Machine/Security.lean ====
section
/-!
DEFINITION. QSC (chapter 22): attestation, life-cycle transitions and REPLACE_CLR (R427 to R433).
-/
namespace Sys2Proof.Machine

def modQsc (s : State) (f : Qsc → Qsc) : State := { s with qsc := f s.qsc }

/-! ### ATTEST (R428) -/

/-- ATTEST: the post is checked and queued behind earlier ones. -/
def execAttest (c : CtxId) (s : State) : Result :=
  .next (takePost s c 0x24 (fun s r d =>
    let a := numAt d 16 8
    match firstFail ([mgmtCheck s c, (a % 256 != 0, Code.align), (s.record.lcState == 0, .lifecycle)] ++ postChecks d [(16, 5), (24, 32)]) with
    | some f => completePost s c r f.num 0
    | none => modQsc s (fun q => { q with attests := q.attests ++ [{ ctx := c, ref := r, report := a, nonce := (d.drop 24).take 32 }] })))

/-- The private key of the device identity (R427). -/
def identityKey (s : State) : Nat := keyOf (Config.identitySecret s.record.identity)

/-- Bytes 0x000 to 0x0BF of a report (Table 118). -/
def reportBody (s : State) (nonce : List Byte) : List Byte :=
  let r := s.record
  leBytes 4 (1 + r.lcState * 2 ^ 8 + bit r.replace * 2 ^ 10 + r.cause * 2 ^ 16) ++
    leBytes 4 Config.stepping.toNat ++ leBytes 8 Config.devSerial.toNat ++ leBytes 8 s.odometer ++
    leBytes 4 s.boot.fwVersion.toNat ++ leBytes 4 (regOf s pgAtlas 0x068) ++
    (List.range 8).flatMap (fun i => leBytes 4 (s.qsc.fwDigest.getD i 0).toNat) ++ nonce ++
    publicKey (identityKey s) ++
    leBytes 4 (s.qsc.fwKey + bit s.qsc.fwValid * 4 + r.lcCount * 2 ^ 8) ++ List.replicate 28 0

/-- ATTEST_DONE: the oldest post's report is signed under the identity key, with a nonce from the random bit generator, and
written as partition 0. -/
def execAttestDone (s : State) : Result :=
  .next (match s.qsc.attests with
    | [] => s
    | a :: rest =>
      if !rangeReady s 0 a.report 256 then s else
      let s := modQsc s (fun q => { q with attests := rest })
      let body := reportBody s a.nonce
      let (k, s) := freshNat s
      let sig := ecdsaSign (identityKey s) (sha256 body) k 4
      let (s, f) := writeRange s 0 a.report (body ++ sig)
      completePost s a.ctx a.ref (match f with | some c => c.num | none => 0) 0)

/-! ### Life cycle (R430, R431) -/

/-- TOKEN_DATA_WRITE: word TOKEN_SEL is written, and TOKEN_SEL advances. -/
def tokenWrite (s : State) (v : Nat) : State :=
  modQsc s (fun q => { q with
    token := store q.token q.tokenSel (BitVec.ofNat 32 v), tokenSel := (q.tokenSel + 1) % 64 })

/-- A write beyond word 33, where TOKEN_SEL has advanced past the token, is a value TOKEN_SEL may not hold. -/
def execTokenDataWrite (p : PartId) (val : Word) (s : State) : Result :=
  .next (writeReg s p pgQsc 0x060 [(decide (33 < s.qsc.tokenSel), .badField)] (fun s => tokenWrite s val.toNat))

/-- The checks of a write of 0x064: REPLACE_CLR is permitted in RETURN only, and GO not while BUSY. -/
def lcFails (s : State) (clr go : Bool) : List (Bool × Code) :=
  [(clr && s.record.lcState != 3, .lifecycle), (go && s.qsc.busy, .busy)]

/-- A write of 0x064. -/
def lcControl (s : State) (p : Nat) (clr go : Bool) : State :=
  writeReg s p pgQsc 0x064 (lcFails s clr go) (fun s =>
    let s := if clr then modRecord s (fun r => { r with replace := false, cause := 0 }) else s
    if go then modQsc s (fun q => { q with busy := true }) else s)

def execLcGo (p : PartId) (s : State) : Result := .next (lcControl s p false true)
def execReplaceClr (p : PartId) (s : State) : Result := .next (lcControl s p true false)

/-- Permitted transitions (R431). -/
def lcPermitted (a b : Nat) : Bool := (a == 0 && b == 1) || (a == 1 && b == 2) || (a == 2 && b == 3) || (a == 3 && b == 1)

/-- The token's 136 bytes. -/
def tokenBytes (q : Qsc) : List Byte := (List.range 34).flatMap (fun i => leBytes 4 (look q.token i 0).toNat)

/-- The 16 bytes that a token signs. -/
def lcMessage (s : State) : List Byte :=
  leBytes 8 Config.devSerial.toNat ++ leBytes 1 s.record.lcState ++ leBytes 1 s.qsc.target ++ leBytes 1 s.record.lcCount ++
    List.replicate 5 0

/-- The first check of R431 that fails. -/
def lcFail (s : State) : Option Code :=
  let t := tokenBytes s.qsc
  let pub := (t.drop 4).take 64
  let sig := (t.drop 68).take 64
  let slot := numAt t 0 1 % 2
  inOrder [
    (decide (1 < numAt t 0 4) || numAt t 132 4 != 0, .reservedSet),
    (!lcPermitted s.record.lcState s.qsc.target, .lifecycle),
    ((s.qsc.target == 2 && s.record.certLen == 0) || s.record.pending, .wrongState),
    (sha256 pub != Config.romHash (4 + slot) || !ecdsaOk pub (sha256 (lcMessage s)) sig, .signature),
    (s.record.lcCount == 255, .noSpace)]

/-- LC_CHECK_DONE: CODE takes the result; a transition that passes is written to the record and awaits the next bring-up. -/
def execLcCheckDone (s : State) : Result :=
  .next (if !s.qsc.busy then s
    else match lcFail s with
      | some f => modQsc s (fun q => { q with busy := false, code := f.num })
      | none =>
        let target := s.qsc.target
        modQsc (modRecord s (fun r => { r with pending := true, pendingState := target, lcCount := r.lcCount + 1 }))
          (fun q => { q with busy := false, code := 0 }))

end Sys2Proof.Machine
end

