-- ==== Sys2Proof/Machine/Observe.lean ====
section
/-!
DEFINITION. Observation (chapter 23): the trace buffers' records, fabric samples, and the analogue checks (R437, R442 to R446).
-/
namespace Sys2Proof.Machine

/-! ### Trace buffers -/

def trCapacity (s : State) (i : Nat) : Nat := 128 * (regOf s (pgTrace i) 0x050 + 1)
def trWrap (t : Trace) : Bool := t.ctl.getLsbD 30
def trEnabled (t : Trace) : Bool := t.ctl.getLsbD 31

/-- The 32 bytes of a record (R443). -/
def traceBytes (r : TraceRec) : List Byte :=
  leBytes 1 r.source ++ leBytes 1 (bit r.lost) ++ leBytes 2 r.target ++ leBytes 1 r.ctx ++ leBytes 3 0 ++ leBytes 8 r.odo ++
    (List.range 4).flatMap (fun i => leBytes 4 (nth r.payload i))

/-- ACTIVE returns to 0 when a disabled or stopped buffer's queue has been written out. -/
def traceRest (s : State) (i : Nat) : State :=
  let t := getTrace s i
  if t.queue.isEmpty && (t.stopped || !trEnabled t) then setTrace s i { t with active := false } else s

/-- The oldest record of a buffer's queue is written, once its channel serves (R196, R211); a WRAP 0 ring that fills up raises TRACE_FULL and drops what follows. -/
def traceWrite (s : State) (i : Nat) : State :=
  let t := getTrace s i
  match t.queue with
  | [] => s
  | r :: rest =>
    let addr := reg64 s (pgTrace i) 0x048 + 32 * (t.written % trCapacity s i)
    let ready := rangeReady s t.part addr 32
    let s := if t.full || ready then setTrace s i { t with queue := rest } else s
    if t.full then bump32 s (pgTrace i) 0x060 1
    else if !ready then s
    else
      let (u, f) := writeRange s t.part addr (traceBytes r)
      match f with
      | some c => traceStop u i c.num
      | none =>
        let t := getTrace u i
        let full := !trWrap t && t.written + 1 == trCapacity u i
        let u := setTrace u i { t with written := t.written + 1, full := full }
        if full then raise u (pgTrace i) 0 else u

/-- TRACE_WRITE. -/
def execTraceWrite (buf : Fin 4) (s : State) : Result := .next (traceRest (traceWrite s buf) buf)

/-- BUSY_CYCLES and CLOCK_CYCLES of a page, which this model leaves free (notes/assumptions/8.md); 0 until the first nanosecond after
power-up has passed. -/
def freeCount (s : State) (pg off : Nat) : Nat := if s.odometer = 0 then 0 else (Config.cycles pg off s.odometer s.fresh).toNat

/-- FABRIC_SAMPLE (Table 122): the telemetry of the stop that TEL_SEL names, every 2^SAMPLE_LOG2 µs from the enable. -/
def execFabricSample (buf : Fin 4) (s : State) : Result :=
  let t := getTrace s buf
  let d := trField t 0 12
  let x := getTel s d
  let every := 2 ^ (regOf s (pgTrace buf) 0x044) * usNs
  .next (if !t.active || t.stopped || !trEnabled t || trField t 24 4 != 5 || !dieUp s d || !passed s t.sampledAt every then s
    else tracePush (setTrace s buf { t with sampledAt := t.sampledAt + every }) buf {
      target := d, ctx := 0, odo := s.odometer,
      payload := [x.flits % 2 ^ 32, x.flits / 2 ^ 32 % 2 ^ 32, min x.stall 0xFFFFFFFF, min x.marks 0xFFFFFFFF], source := 5 })

/-! ### Analogue checks (Table 121) -/

/-- OPTICAL_CHECK: a lane above the bias limit is not good at the transmitter; three checks in a row below the received-power limit
fail a receiving lane. -/
def execOpticalCheck (port : PortId) (bias power : BitVec 8) (s : State) : Result :=
  let x := getPort s port
  let runs := (List.range 8).map (fun i => (i, if power.getLsbD i then look x.lowPower i 0 + 1 else 0))
  let dead := ((runs.filter (fun e => decide (3 ≤ e.2))).map (fun e => 2 ^ e.1)).sum
  let y := { x with lowPower := runs }
  let z := { y with txGood := y.txGood &&& ~~~bias, laneReq := y.laneReq &&& ~~~(BitVec.ofNat 8 dead) }
  .next (if !portUp s port then s
    else if !([4, 5, 6].contains x.tstate) then setPort s port { y with txGood := z.txGood }
    else if z.txGood == x.txGood && z.laneReq == x.laneReq then setPort s port z
    else widthChange (setPort s port z) port)

/-- PLL_CHECK: a fabric PLL is treated as loss of lock, a bypass PLL resets its BYPASS domain, the hub's resets the hub. -/
def execPllCheck (fabric bypass : BitVec 4) (hub : Bool) (s : State) : Result :=
  let s1 := if s.power.state != .on then s
    else (List.range 4).foldl (fun s d => if fabric.getLsbD d && dieUp s d then startPlain s (.die (Fin.ofNat 4 d)) else s) s
  let s2 := if !hubPowered s then s1
    else (List.range 4).foldl (fun s d => if bypass.getLsbD d then startPlain s (.bypass (Fin.ofNat 4 d)) else s) s1
  .next (if hub then hubReset s2 else s2)

/-- A run of failed checks: three in a row stand until the next bring-up. -/
def runOf (runs : SMap Nat) (k : Nat) (bad : Bool) : SMap Nat :=
  let n := look runs k 0
  if 3 ≤ n then runs else if bad then store runs k (n + 1) else drop1 runs k

/-- SENSOR_CHECK: an excluded junction sensor is counted; a stack whose sensor fails runs at half access rate. -/
def execSensorCheck (junction hbmStacks : List Nat) (s : State) : Result :=
  let x := s.power
  let jr := (List.range 272).foldl (fun m k => runOf m k (junction.contains k)) x.sensorRuns
  let sr := (List.range 12).foldl (fun m k => runOf m k (hbmStacks.contains k)) x.stackRuns
  let new := (List.range 272).filter (fun k => decide (3 ≤ look jr k 0) && !x.excluded.contains k)
  let s' := addEvent (modPower s (fun x => { x with sensorRuns := jr, stackRuns := sr, excluded := x.excluded ++ new })) pgQpc new.length
  .next (if s.power.state != .on then s
    else (List.range 12).foldl (fun s k => if 3 ≤ look sr k 0 then modStack s k (fun y => { y with halfRate := true }) else s) s')

/-- VIN_MONITOR_CHECK: after 1 ms of difference QPC uses the lower reading, which gives the lower effective cap, for as long as the
monitors differ. -/
def execVinMonitorCheck (a b : Nat) (s : State) : Result :=
  let lo := min a b
  let bad := decide (lo < 50 * (max a b - lo))
  .next (if s.power.state == .off then s
    else if !bad then modPower s (fun x => withEff { x with monitorAt := none, vinUse := none })
    else match s.power.monitorAt with
      | none => modPower s (fun x => { x with monitorAt := some s.odometer })
      | some t =>
        if passed s t msNs then
          addCorrected (modPower s (fun x => withEff { x with monitorAt := some s.odometer, vinUse := some lo })) pgQpc 1
        else modPower s (fun x => withEff { x with vinUse := x.vinUse.map (fun _ => lo) }))

end Sys2Proof.Machine
end

