-- ==== Sys2Proof/Machine/Reads.lean ====
section
/-!
DEFINITION. Reads of the control pages: the value of every register of every page (R34, and the register tables of the chapters), who
may read it (R32, R35), latched halves (R38) and the milestone view (R178).
-/
namespace Sys2Proof.Machine

def lo32 (v : Nat) : Nat := v % 2 ^ 32
def hi32 (v : Nat) : Nat := v / 2 ^ 32 % 2 ^ 32
/-- One half of a 64-bit quantity whose low word lies at `o`. -/
def half (o at_ v : Nat) : Nat := if at_ == o then lo32 v else hi32 v

/-! ### The header (R34, R39, R42, R43) -/

def ownerWord (o : Option (Nat × Nat)) : Nat :=
  match o with | some (p, f) => 2 ^ 31 + p * 2 ^ 24 + f | none => 0

/-- BLK_OWNER: of the selected comparator on the always-on page, of the page's resource elsewhere. -/
def ownerOf (s : State) (pg : Nat) : Option (Nat × Nat) :=
  if pg == pgAon then (getCmp s s.power.cmpSel).owner else (getPage s pg).owner

def capWord (s : State) (b : Blk) : Nat :=
  match b with | .core n => lrWidth (coreSite s n) + opWidth s n * 2 ^ 8 | _ => 0

/-- A header word; BUSY_CYCLES and CLOCK_CYCLES are free (notes/assumptions/8.md). -/
def headRead (s : State) (pg : Nat) (b : Blk) (o : Nat) : Nat :=
  let x := getPage s pg
  if o == 0x000 then (blkType b).1 * 2 ^ 24 + (blkType b).2 * 2 ^ 12 + Config.stepping.toNat
  else if o == 0x004 then capWord s b
  else if o == 0x00C then blkState s b + bit (roadblocked s b) * 2 ^ 8 + bit x.moving * 2 ^ 9
  else if o == 0x010 then x.rejCode * 2 ^ 24 + x.rejOff * 2 ^ 12 + x.rejCount
  else if o == 0x014 then x.mask.toNat
  else if o == 0x018 then x.pend.toNat
  else if o == 0x01C then ownerWord (ownerOf s pg)
  else if 0x020 ≤ o && o < 0x030 then freeCount s pg o
  else if o == 0x030 then x.errCorrected
  else if o == 0x034 then x.errUncorrected
  else if o == 0x038 then x.ties
  else if o == 0x03C then x.events
  else 0

/-! ### Core pages -/

/-- GETs with run-ahead reads in progress. DESIGN CHOICE (notes/assumptions/146.md): a GET counts while a run-ahead read of it is in
flight, one whose data will be discarded too, and not once all its data stand in the shadow buffer (R148). -/
def aheadGets (x : Core) : Nat :=
  ((x.reqs.filterMap (fun r => match r.2 with | some q => if q.kind == 4 then some q.ent else none | none => none)).eraseDups).length

/-- ISTATE (R410): an island without power reads 4, that of a site kept behind its roadblock after an overrun too (Table 106). -/
def islandState (s : State) (n : Nat) : Nat :=
  if baseState s (.core n) == 0 || roadblockStays s n then 4 else (getCore s n).istate

/-- A register of a core page. DESIGN CHOICE (notes/assumptions/132.md): SHADOW_BUSY counts the slots that hold returned data or a held
fault, not those that reads in flight will fill (R148). -/
def coreRead (s : State) (n o : Nat) : Nat :=
  let x := getCore s n
  let site := coreSite s n
  let f := x.fr
  if 0x100 ≤ o && o < 0x180 && opWidth s n == 0 then 0
  else if o == 0x040 then site.lrMap.toNat * 2 ^ 16 + lrWidth site
  else if o == 0x044 then x.lrPos.toNat
  else if o == 0x048 then x.lrPass.toNat
  else if o == 0x04C then x.lrFill.toNat
  else if o == 0x050 then x.lrFree.toNat
  else if o == 0x100 then site.opMap.toNat * 2 ^ 16 + opColumns site
  else if o == 0x104 then x.opPos.toNat
  else if o == 0x180 then bit x.flush
  else if o == 0x184 then x.arithStat.toNat
  else if o == 0x188 then (if blkState s (.core n) == 3 then x.srSeen.toNat else x.srState.toNat)
  else if o == 0x200 then aheadGets x * 2 ^ 16 + x.shadow.length * 2 ^ 8 + slotsBusy x
  else if 0x208 ≤ o && o < 0x218 then cmbSlotWord (look x.slots ((o - 0x208) / 4) {})
  else if o == 0x300 then
    (match x.ctx with | some c => 2 ^ 31 + ctxPart s c * 2 ^ 24 + c | none => 0)
  else if o == 0x304 then x.window.length * 2 ^ 8 + x.runState
  else if o == 0x308 || o == 0x30C then half 0x308 o x.pc
  else if o == 0x310 || o == 0x314 then half 0x310 o x.tdSrc
  else if 0x318 ≤ o && o < 0x328 then nth x.loops ((o - 0x318) / 4)
  else if o == 0x328 then x.saveSeq.toNat
  else if o == 0x330 then frStatWord f
  else if o == 0x334 || o == 0x338 then half 0x334 o f.pc
  else if o == 0x33C then f.detail
  else if o == 0x340 || o == 0x344 then half 0x340 o f.addr
  else if o == 0x348 || o == 0x34C then half 0x348 o f.time
  else if o == 0x400 then x.grant * 2 ^ 16 + x.step * 2 ^ 8 + islandState s n
  else if o == 0x404 then x.islLimit
  else if 0x800 ≤ o && o < 0xB00 then
    let w := mileWords x ((o - 0x800) / 16)
    if o % 16 == 0 then w.1 else if o % 16 == 4 then w.2.1 else if o % 16 == 8 then w.2.2.1 else w.2.2.2
  else if o == 0x350 || o == 0x354 || o == 0x358 then regOf s (pgCore n) o
  else siteReg s n o

/-! ### HBM, kerbside and remote-line cache pages (R219 to R221, R241) -/

def hbmRead (s : State) (k o : Nat) : Nat :=
  let x := getStack s k
  if o == 0x040 then x.state + ((List.range 16).map (fun i => bit (look x.maint i false) * 2 ^ (16 + i))).sum
  else if o == 0x048 || o == 0x04C then half 0x048 o ((List.range 16).map (fun i => min 15 (sparesOf x i) * 16 ^ i)).sum
  else if o == 0x050 then x.badRows.length
  else if o == 0x058 then
    (match x.badRows[regOf s (pgHbm k) 0x054]? with | some e => e.1 * 2 ^ 22 + e.2 | none => 0)
  else if o == 0x104 then ((s.fm.entries.filter (fun e => feState e.2 == 1 || feState e.2 == 2)).length)
  else if o == 0x118 then bit s.fm.op.isSome * 2 ^ 31 + s.fm.code * 2 ^ 16
  else if o == 0x11C then (match s.fm.log with | [] => 0 | f :: _ => 2 ^ 31 + f) + bit s.fm.logOver * 2 ^ 30
  else regOf s (pgHbm k) o

def kerbRead (s : State) (k o : Nat) : Nat :=
  let r := min 2 (recentRes s k).length
  if o == 0x040 then bit (r != 0) * 2 ^ 31 + r * 2 ^ 24 + (getKerb s k).sb
  else if o == 0x044 then (getKerb s k).done.length
  else regOf s (pgKerb k) o

def rlcRead (s : State) (d o : Nat) : Nat := if o == 0x050 then bit (getRlc s d).flush.isSome else regOf s (pgRlc d) o

/-! ### Fabric, bridges, routers, ports (R271 to R273, R292 to R294) -/

def fabricRead (s : State) (d o : Nat) : Nat :=
  let t := getTel s d
  if o < 0x054 then regOf s (pgFabric d) o
  else if o == 0x054 || o == 0x058 then half 0x054 o t.flits
  else if o == 0x05C then min t.stall 0xFFFFFFFF
  else if o == 0x060 then t.depth % 32
  else if o == 0x064 then min t.marks 0xFFFFFFFF
  else if o < 0x090 then
    let k := (o - 0x068) / 8
    half (0x068 + 8 * k) o (look s.fabric.cwFlits (8 * d + k) 0)
  else 0

def bridgeRead (s : State) (k o : Nat) : Nat :=
  let x := getBridge s k
  if o == 0x040 then sliceCount x * 2 ^ 24 + x.sliceMap.toNat
  else if o == 0x044 || o == 0x048 then half 0x044 o x.wires.toNat
  else regOf s (pgBridge k) o

def bypassRead (s : State) (p o : Nat) : Nat :=
  let r := getRoute s (p / 8)
  if o < 0x100 then regOf s (pgBypass p) o
  else if p % 8 != 0 then 0
  else if o == 0x108 then 0
  else if o == 0x10C then bit r.op.isSome * 2 ^ 31 + r.code * 2 ^ 16 + bit r.active
  else if o == 0x110 then bit r.hold
  else if o == 0x114 then outstanding s (p / 8)
  else regOf s (pgBypass p) o

def portRead (s : State) (p o : Nat) : Nat :=
  let x := getPort s p
  if o == 0x040 then
    x.txLanes.toNat * 2 ^ 24 + x.rxLanes.toNat * 2 ^ 16 + x.qreason * 2 ^ 12 + x.rxWidth * 2 ^ 8 + x.txWidth * 2 ^ 4 + x.tstate
  else if o == 0x048 then
    (match x.nbr with | some i => bit i.assigned * 2 ^ 31 + i.port.toNat * 2 ^ 16 + i.chip.toNat | none => 0)
  else if o == 0x04C then (match x.nbr with | some i => i.digest.toNat | none => 0)
  else if o == 0x110 && p == 0 then
    bit (syncedNow s) * 2 ^ 31 + bit s.time.onB * 2 ^ 30 + (s.time.offset % 65536).toNat
  else regOf s (pgPort p) o

/-! ### Interchange and collective controller pages (R311, R331) -/

/-- Word i of a flow entry (Table 83). -/
def flowWord (f : Flow) (i : Nat) : Nat :=
  if i == 0 then
    f.kind + f.slot * 2 ^ 2 + f.peer * 2 ^ 8 + f.expert * 2 ^ 18 + bit f.countIn * 2 ^ 26 + bit f.grantIn * 2 ^ 27 + bit f.readyIn * 2 ^ 28
  else if i == 1 then f.count
  else if i == 2 then f.base
  else f.moved + f.fetched * 2 ^ 16

def armedFlows (s : State) (d : Nat) : Nat :=
  (((getIx s d).slots.filter (fun e => e.2.armed)).map (fun e => ixFlows e.2.words)).sum

def ixRead (s : State) (d o : Nat) : Nat :=
  let i := getIx s d
  let x := getIxSlot s d (regOf s (pgIx d) 0x040)
  if o == 0x044 then
    (if x.armed then 2 ^ 31 + x.phase * 2 ^ 28 + ctxPart s x.ctx * 2 ^ 24 + x.ctx * 2 ^ 16 + x.round else 0)
  else if o == 0x048 then (if x.armed then ixTag x.words else 0)
  else if o == 0x04C then (if x.armed then x.flowBase else 0)
  else if o == 0x050 then (if x.armed then ixFlows x.words else 0)
  else if 0x058 ≤ o && o < 0x068 then flowWord (look i.flows (regOf s (pgIx d) 0x054) {}) ((o - 0x058) / 4)
  else if o == 0x068 then 262144 - armedFlows s d
  else if o == 0x06C then i.early.length
  else regOf s (pgIx d) o

def colRead (s : State) (d o : Nat) : Nat :=
  let c := getCol s d
  let x := getColSlot s d (regOf s (pgCol d) 0x040)
  if o == 0x044 then
    (if x.armed then 2 ^ 31 + colKind x.words * 2 ^ 27 + x.phase * 2 ^ 24 + x.ctx * 2 ^ 16 + x.round else 0)
  else if o == 0x048 then (if x.armed then x.step * 2 ^ 16 + colTag x.words else 0)
  else if o == 0x04C then c.store.length
  else if o == 0x050 then c.early.length
  else regOf s (pgCol d) o

/-! ### Hub and always-on pages (R354, R391, R392, R409, R411, R423, R433, R446, R459) -/

/-- DSTATE: a die in reset is fenced, then in reset, then returning as Table 107 times it. -/
def dieState (s : State) (d : Nat) : Nat :=
  let v := look s.hang.dstate d 0
  if v == 4 then 4
  else match s.hang.resets.find? (fun r => r.dom == .die (Fin.ofNat 4 d) || r.dom == .fullDie (Fin.ofNat 4 d)) with
    | some r => if !passed s r.start (200 * usNs) then 1 else if !passed s r.start msNs then 2 else 3
    | none => v

def ctlRead (s : State) (d o : Nat) : Nat :=
  if o == 0x040 then 0
  else if o == 0x044 then dieState s d
  else if o == 0x058 then
    min 8 ((s.cores.filter (fun e => dieOfCore e.1 == d)).flatMap (fun e => e.2.suspects)).eraseDups.length
  else regOf s (pgCtl d) o

def cstateNum (c : CState) : Nat :=
  match c with | .free => 0 | .idle => 1 | .running => 2 | .saving => 3 | .faulted => 4 | .halted => 5

def postRead (s : State) (o : Nat) : Nat :=
  let x := getCtx s (regOf s pgPost 0x040)
  let y := getPart s (regOf s pgPost 0x04C)
  if o == 0x044 then x.credits * 2 ^ 16 + x.part * 2 ^ 8 + cstateNum x.state
  else if o == 0x048 then x.expSeq
  else if o == 0x050 then
    (match y.area with | some a => 2 ^ 31 + a.log2 * 2 ^ 16 | none => 0) + y.written
  else if o == 0x054 then y.queue.length * 2 ^ 16 + y.read
  else if o == 0x058 then y.lost
  else regOf s pgPost o

/-- PSTATE: RUN while a context is RUNNING or SAVING. -/
def pstate (s : State) : Nat :=
  if s.power.state == .doze then 2
  else if s.ctxs.any (fun e => e.2.state == .running || e.2.state == .saving) then 0 else 1

def qpcRead (s : State) (o : Nat) : Nat :=
  let x := s.power
  let d := regOf s pgQpc 0x050
  if o == 0x040 then x.cap
  else if o == 0x044 then x.limitSrc * 2 ^ 12 + x.effCap
  else if o == 0x048 then vinOf x % 65536 * 2 ^ 16 + x.pIn % 65536
  else if o == 0x04C then hottestJunction x / 4 % 256 * 2 ^ 24 + hottestStack x / 4 % 256 * 2 ^ 16 + x.iIn % 65536
  else if o == 0x054 then dieHottest x d / 4 % 256 * 2 ^ 24 + nth x.dieStep d * 2 ^ 16 + nth x.pool d % 65536
  else if o == 0x058 then pstate s
  else if o == 0x05C || o == 0x060 then half 0x05C o (x.energy / 10 ^ 7)
  else if o == 0x064 then x.lastStop
  else if o == 0x068 then sat32 (regOf s pgQpc 0x068) (match x.throttleAt with | some t => (s.odometer - t) / usNs | none => 0)
  else regOf s pgQpc o

def qscRead (s : State) (o : Nat) : Nat :=
  let r := s.record
  let q := s.qsc
  if o == 0x040 then r.lcCount * 2 ^ 8 + bit r.pending * 2 ^ 7 + r.pendingState * 2 ^ 4 + r.lcState
  else if o == 0x044 || o == 0x048 then half 0x044 o Config.devSerial.toNat
  else if o == 0x04C then r.certLen
  else if o == 0x050 then regOf s pgQsc 0x050
  else if o == 0x054 then (look r.cert (regOf s pgQsc 0x050) 0).toNat
  else if o == 0x058 then q.target
  else if o == 0x05C then q.tokenSel
  else if o == 0x068 then bit q.busy * 2 ^ 31 + q.code * 2 ^ 16
  else if o == 0x06C then bit q.fwValid * 2 ^ 2 + q.fwKey
  else if 0x070 ≤ o && o < 0x090 then (q.fwDigest.getD ((o - 0x070) / 4) 0).toNat
  else 0

def qmcRead (s : State) (o : Nat) : Nat :=
  let b := s.boot
  let m := s.mgmt
  if o == 0x040 then bit b.ready * 2 ^ 31 + b.phase * 2 ^ 24 + b.code * 2 ^ 16 + b.failUnit * 2 ^ 8
  else if o == 0x044 then b.straps
  else if o == 0x048 then b.fwVersion.toNat
  else if o == 0x04C then b.fwFails
  else if o == 0x050 || o == 0x054 then half 0x050 o b.readyAt
  else if o == 0x058 || o == 0x05C then half 0x058 o b.bootAt
  else if o == 0x060 then m.dynAddr
  else if o == 0x064 then bit m.alertEn * 2 ^ 31 + m.alertSel.toNat
  else if o == 0x068 then m.alertPend.toNat
  else regOf s pgQmc o

/-- The always-on page; `sel` is the comparator that the reading path selects (R411). -/
def aonRead (s : State) (sel o : Nat) : Nat :=
  let c := getCmp s sel
  if o == 0x040 then
    ((List.range 5).map (fun k =>
      bit (look s.hang.beaten k false && !passed s (look s.hang.beats k 0) (3 * msNs)) * 2 ^ k)).sum
  else if o == 0x05C then
    (match s.hang.fault with
      | some (step, code, die, target) => 2 ^ 31 + step * 2 ^ 27 + code * 2 ^ 16 + die * 2 ^ 14 + target
      | none => 0)
  else if o == 0x060 || o == 0x064 then half 0x060 o s.hang.faultTime
  else if o == 0x080 then sel
  else if o == 0x084 then bit c.en * 2 ^ 31 + bit c.fired * 2 ^ 30 + bit c.wake
  else if o == 0x088 || o == 0x08C then half 0x088 o c.arg.toNat
  else if o == 0x090 || o == 0x094 then half 0x090 o c.firedAt
  else regOf s pgAon o

def traceRead (s : State) (i o : Nat) : Nat :=
  let t := getTrace s i
  if o == 0x040 then t.ctl.toNat
  else if o == 0x054 then bit (t.active && !(t.full && t.queue.isEmpty)) * 2 ^ 31 + bit t.full * 2 ^ 30 + t.code * 2 ^ 16
  else if o == 0x058 || o == 0x05C then half 0x058 o t.written
  else regOf s (pgTrace i) o

/-- LOGICAL of a site: the logical core that it carries, as its placed site or standing in. -/
def carried (s : State) (n : Nat) : Nat :=
  let x := getSite s n
  if x.role == 1 then x.logical
  else if x.standIn then ((s.signpost.find? (fun e => e.2 == n)).map (fun e => e.1)).getD 0
  else 0

/-- Hard-shoulder sites of a die. -/
def shoulder (s : State) (d : Nat) : List Site := ((dieSites d).map (getSite s)).filter (fun x => x.role == 2)

/-- An atlas register. DESIGN CHOICE (notes/assumptions/131.md): OP_WIDTH of a junction-capable site that carries a non-junction core is
the width of its column groups, as R20 disables only the core's use of them. -/
def atlasRead (s : State) (o : Nat) : Nat :=
  let n := regOf s pgAtlas 0x040
  let x := getSite s n
  let c := regOf s pgAtlas 0x054
  if o == 0x044 then
    x.role * 2 ^ 30 + bit x.jcap * 2 ^ 29 + bit x.testing * 2 ^ 28 + bit x.standIn * 2 ^ 27 + min 2 (siteFaults s n) * 2 ^ 24 + carried s n
  else if o == 0x048 then if x.role == 0 then 0 else (if x.jcap then opColumns x else 0) * 2 ^ 8 + lrWidth x
  else if o == 0x04C || o == 0x050 then half 0x04C o (siteKat s n)
  else if o == 0x058 then bit (getPage s (pgCore c)).moving * 2 ^ 31 + siteOf s c
  else if o == 0x05C then homeOf s c
  else if o == 0x060 then ((List.range 4).map (fun d => (shoulder s d).length * 256 ^ d)).sum
  else if o == 0x064 then ((List.range 4).map (fun d => ((shoulder s d).filter (fun y => y.jcap)).length * 16 ^ d)).sum
  else if o == 0x06C then bit s.record.replace * 2 ^ 31 + bit s.hide.draining * 2 ^ 30 + s.record.cause
  else regOf s pgAtlas o

/-- The value of a block-specific register; reserved words read 0. -/
def blkRead (s : State) (b : Blk) (sel o : Nat) : Nat :=
  if (regDef b o).bits == 0 then 0
  else match b with
    | .core n => coreRead s n o | .kerb k => kerbRead s k o | .hbm k => hbmRead s k o | .port p => portRead s p o
    | .fabric d => fabricRead s d o | .bridge k => bridgeRead s k o | .bypass p => bypassRead s p o | .ix d => ixRead s d o
    | .col d => colRead s d o | .rlc d => rlcRead s d o | .ctl d => ctlRead s d o
    | .pcie => regOf s pgPcie o | .post => postRead s o | .qpc => qpcRead s o | .qsc => qscRead s o | .qmc => qmcRead s o
    | .aon => aonRead s sel o | .odo => half 0x040 o s.odometer | .trace i => traceRead s i o | .atlas => atlasRead s o

/-- A word that no access right hides: gated pages read 0 beyond the header (R35), save always-on registers. -/
def wordRead (s : State) (b : Blk) (pg sel o : Nat) : Nat :=
  if o < 0x040 then headRead s pg b o
  else if gated s pg && !aonReg pg o then 0
  else blkRead s b sel o

/-- A partition may read a word (R32). On a trace page it reads the header, and the registers while the buffer is free or its own. -/
def mayRead (s : State) (p pg o : Nat) : Bool :=
  pageOwn s p pg || (isTracePage pg && (o < 0x040 || (getPage s pg).owner.isNone || heldBy (getPage s pg).owner p))

/-- Half of a pair at an offset: 1 low, 2 high, 0 neither. -/
def pairOf (b : Blk) (o : Nat) : Nat :=
  if o == 0x020 || o == 0x028 then 1 else if o == 0x024 || o == 0x02C then 2 else if o < 0x040 then 0 else (regDef b o).pair

/-- A word read through a path with its own latch key: reading a low word latches the high one (R38), and a VALUE word its
milestone (R178). -/
def latchedRead (s : State) (b : Blk) (pg sel p o : Nat) : State × Nat :=
  let live := fun (a : Nat) => wordRead s b pg sel a
  let key := fun (a : Nat) => 16 * a + p
  let x := getPage s pg
  if 0x040 ≤ o && gated s pg && !aonReg pg o then (s, 0)
  else if viewWord b o then
    let ms := (o - 0x800) / 16
    let base := 0x800 + 16 * ms
    if o == base then
      let w := fun (i : Nat) => BitVec.ofNat 32 (live (base + 4 * i))
      (setPage s pg { x with view := store x.view (16 * ms + p) (some (w 1, w 2, w 3)) }, live o)
    else match look x.view (16 * ms + p) none with
      | some v => (s, if o == base + 4 then v.1.toNat else if o == base + 8 then v.2.1.toNat else v.2.2.toNat)
      | none => (s, live o)
  else if pairOf b o == 1 then
    (setPage s pg { x with latch := store x.latch (key o) (some (BitVec.ofNat 32 (live (o + 4)))) }, live o)
  else if pairOf b o == 2 then
    match look x.latch (key (o - 4)) none with
    | some v => (s, v.toNat)
    | none => (s, live o)
  else (s, live o)

/-- What a BAR0 read answers. -/
def readValue (s : State) (v : Nat) : State := { s with rdata := BitVec.ofNat 32 v }

/-- A BAR0 read of the 32-bit word at an offset (R32, R33). The poison log and TEL_DEPTH are cleared by their reads. -/
def busRead (s : State) (p off : Nat) : State :=
  let pg := off / 4096
  let o := off % 4096
  if !hubPowered s then s
  else match blkOf pg with
    | none => readValue s 0
    | some b =>
      if !mayRead s p pg o then readValue s 0
      else if b == .hbm 0 && o == 0x11C then readPoisonLog s p
      else match b with
        | .fabric d =>
          if o == 0x060 then telDepthRead s p d
          else let (t, v) := latchedRead s b pg s.power.cmpSel p o; readValue t v
        | _ => let (t, v) := latchedRead s b pg s.power.cmpSel p o; readValue t v

/-- The bytes of the register that a read of `size` bytes at place `at_` within it takes, from bit 0 upward. -/
def takeBytes (s : State) (at_ size : Nat) : State := readValue s (s.rdata.toNat / 256 ^ at_ % 256 ^ size)

/-- A BAR0 read of any size (R30): bytes within one register, or all ones and nothing else where it crosses a register's boundary.
A part of a register read is a read of it in every other respect (notes/assumptions/10.md). -/
def hostRead (s : State) (p off size : Nat) : State :=
  if !hubPowered s then s
  else if 4 < off % 4 + size && (blkOf (off / 4096)).isSome then readValue s 0xFFFFFFFF
  else takeBytes (busRead s p (off - off % 4)) (off % 4) size

/-- LOW_WORD_READ. Every read of BAR2 answers 0 (R45). -/
def execLowWordRead (p : PartId) (off : ReadAt) (s : State) : Result :=
  .next (if off.bar2 then (if !hubPowered s then s else readValue s 0) else hostRead s p off.off.toNat off.size)

/-- MILESTONE_VIEW_READ: the VALUE word of a milestone of a core page. -/
def execMilestoneViewRead (p : PartId) (core : CoreId) (ms : Fin 48) (s : State) : Result :=
  .next (busRead s p (pgCore core * 4096 + 0x800 + 16 * ms))

end Sys2Proof.Machine
end

