-- ==== Sys2Proof/Machine/Writes.lean ====
section
/-!
DEFINITION. Writes of the control pages: the header (R34, R37, R40, R41), every writable register with its checks, staged pairs
(R38), and the shared resources: trace buffers, comparators and ALERT# (R39, R40, R404, R446, R458).
-/
namespace Sys2Proof.Machine

/-! ### The header -/

/-- RELEASE (R40): the page's resource, on the always-on page the comparator that CMP_SEL selects. -/
def releasePage (s : State) (b : Blk) : State :=
  match b with
  | .trace i => releaseTrace s i
  | .qmc => releaseAlert s
  | .aon => releaseCmp s s.power.cmpSel
  | _ => s

/-- A write of BLK_CTL: its low half is reserved in every block. -/
def ctlWrite (s : State) (p pg : Nat) (b : Blk) (v : Nat) : State :=
  let low := v % 65536 != 0
  match firstFail [(!(pageOwn s p pg || isTracePage pg) || (bitOf v 30 && p != 0), .notOwner), (low && gated s pg, .fenced),
      (low || fieldOf v 16 14 != 0, .reservedSet), (low && (getPage s pg).moving, .busy)] with
  | some c => reject s pg 0x008 c
  | none =>
    let s := if bitOf v 31 then modPage s pg (fun x => { x with rejCode := 0, rejOff := 0, rejCount := 0 }) else s
    if bitOf v 30 then releasePage s b else s

/-- BLK_NOTICE_MASK: clearing a MASK bit whose PEND bit is 1 sends the notice (R41). -/
def maskWrite (s : State) (pg v : Nat) : State :=
  let x := getPage s pg
  let w := BitVec.ofNat 32 v
  let fresh := (x.mask &&& ~~~w &&& x.pend).toNat
  let s := setPage s pg { x with mask := w }
  if fresh == 0 then s else blockNotice s pg fresh

/-- BLK_NOTICE_PEND: W1C. -/
def pendWrite (s : State) (pg v : Nat) : State := modPage s pg (fun x => { x with pend := x.pend &&& ~~~(BitVec.ofNat 32 v) })

/-- A write to the header; RO registers ignore it. DESIGN CHOICE (notes/assumptions/113.md): Table 3 gives a 1 in a reserved bit
RESERVED_SET, and R35 ignores writes to RO header registers; the bits of an RO header register that no field covers are ignored too.
DESIGN CHOICE (notes/assumptions/114.md): any partition may write the mask, the pending bits and REJECT_CLR of a trace buffer page,
whoever holds the buffer. -/
def headWrite (s : State) (p pg : Nat) (b : Blk) (o v : Nat) : State :=
  if o == 0x008 then ctlWrite s p pg b v
  else if !(pageOwn s p pg || isTracePage pg) then reject s pg o .notOwner
  else if o == 0x014 then maskWrite s pg v
  else if o == 0x018 then pendWrite s pg v
  else s

/-! ### Shared resources -/

/-- A shared resource's configuration may not be written by one that does not hold it (R40). -/
def heldByOther (o : Option (Nat × Nat)) (p f : Nat) : Bool := match o with | some q => q != (p, f) | none => false

/-- A trace buffer's TARGET lies within a partition's reach (Table 122). -/
def traceReach (s : State) (p source target : Nat) : Bool :=
  if source == 1 || source == 2 then partOfCore s target == p
  else if source == 3 then true
  else if source == 4 then p == 0 && decide (target < 192)
  else p == 0 && decide (target < 4)

/-- Records left in a queue are written before a new enable, as far as their channels serve. -/
def traceFlush (s : State) (i n : Nat) : State :=
  match n with
  | 0 => s
  | n + 1 => traceFlush (traceWrite s i) i n

/-- The enable itself: the partition takes the buffer, whose ring starts afresh. DESIGN CHOICE (notes/assumptions/162.md): records of an
earlier enable that still wait are kept ahead of the new ones. -/
def traceTake (s : State) (p i v : Nat) : State :=
  let s := traceFlush s i (getTrace s i).queue.length
  let s := setTrace s i { ctl := BitVec.ofNat 32 v, part := p, active := true, queue := (getTrace s i).queue, code := (getTrace s i).code, sampledAt := s.odometer }
  addEvent (setOwner s (pgTrace i) (some (p, fieldOf v 24 4))) (pgTrace i) 1

/-- A write of word 0x040 of a trace buffer page. -/
def traceCtl (s : State) (p i v : Nat) : State :=
  let pg := pgTrace i
  let t := getTrace s i
  let own := (getPage s pg).owner
  let source := fieldOf v 24 4
  let ms := fieldOf v 16 6
  let takes := bitOf v 31
  let mine := own == some (p, source)
  let changed := fieldOf v 0 31 != fieldOf t.ctl.toNat 0 31
  writeReg s p pg 0x040
    [(own.isSome && !takes && !heldBy own p, .notOwner),
     (own.isNone && takes && !traceReach s p source (fieldOf v 0 12), .notOwner),
     (outside v 0xCF3F0FFF, .reservedSet),
     (source == 0 || 5 < source || (47 < ms && ms != 63), .badField),
     (trEnabled t && changed && (mine || (!takes && heldBy own p)), .wrongState),
     (own.isSome && takes && !mine, .held)]
    (fun s =>
      if takes then (if own.isSome then s else traceTake s p i v)
      else if own.isSome then releaseTrace s i
      else setTrace s i { t with ctl := BitVec.ofNat 32 v })

/-- The checks of a write to a trace buffer's other registers. -/
def traceFails (s : State) (p i : Nat) : List (Bool × Code) :=
  let own := (getPage s (pgTrace i)).owner
  [(own.isSome && !heldBy own p, .notOwner), (trEnabled (getTrace s i), .wrongState)]

/-- The feature of a path: 1 BAR0, 2 the management interface. The checks of a write of a comparator's control word. -/
def cmpCtlFails (s : State) (k f v : Nat) : List (Bool × Code) :=
  let own := (getCmp s k).owner
  [(outside v 0xC0000001, .reservedSet), (heldByOther own 0 f && !bitOf v 31, .notOwner), (heldByOther own 0 f && bitOf v 31, .held)]

/-- EN takes or releases the comparator, FIRED is W1C, and an enable whose condition holds fires at once. -/
def cmpCtlAct (s : State) (k f v : Nat) : State :=
  let x := getCmp s k
  let en := bitOf v 31
  let s := setCmp s k { x with
    en := en, wake := bitOf v 0, fired := x.fired && !bitOf v 30, owner := if en then some (0, f) else none }
  if en && !x.en then enabledFire s k else wakeFired s

/-- CMP_ARG's ranges and reserved bits (Table 111). -/
def argFails (k lo hi : Nat) : List (Bool × Code) :=
  let low := fieldOf lo 0 16
  let high := fieldOf lo 16 16
  if k < 4 then []
  else if k == 4 then [(hi != 0, .reservedSet), (low < 3600 || 4600 < high || high ≤ low, .badField)]
  else if k == 5 then [(hi != 0 || 256 ≤ lo, .reservedSet), (fieldOf lo 0 8 < 40 || 105 < fieldOf lo 0 8, .badField)]
  else if k == 6 then [(hi != 0, .reservedSet)]
  else [(hi != 0 || 4 ≤ lo, .reservedSet), (fieldOf lo 0 2 == 0, .badField)]

/-- The reserved bits of the lower half of CMP_ARG of comparators 5 and 7 (Table 111). -/
def argLow (k lo : Nat) : List (Bool × Code) := [((k == 5 && decide (256 ≤ lo)) || (k == 7 && decide (4 ≤ lo)), .reservedSet)]

/-- The reserved upper half of CMP_ARG of comparators 4 to 7 (Table 111). -/
def argHigh (k hi : Nat) : List (Bool × Code) := [(decide (4 ≤ k) && hi != 0, .reservedSet)]

def argGuard (s : State) (k f : Nat) : List (Bool × Code) := [(heldByOther (getCmp s k).owner 0 f, .notOwner), ((getCmp s k).en, .wrongState)]
/-- CMP_ARG takes a value; the time outside a new VIN range starts now. -/
def argAct (s : State) (k lo hi : Nat) : State :=
  cmpWatch (setCmp s k { getCmp s k with arg := BitVec.ofNat 64 (lo + 2 ^ 32 * hi), met := false, holdAt := 0 })

/-- The checks of a write of ALERT_EN and ALERT_SEL through a path. -/
def alertFails (s : State) (f v : Nat) : List (Bool × Code) :=
  let own := (getPage s pgQmc).owner
  [(outside v 0x800000FF, .reservedSet), (heldByOther own 0 f && !bitOf v 31, .notOwner), (heldByOther own 0 f && bitOf v 31, .held)]
def alertAct (s : State) (f v : Nat) : State :=
  let s := setOwner s pgQmc (if bitOf v 31 then some (0, f) else none)
  updateAlert { s with mgmt := { s.mgmt with alertEn := bitOf v 31, alertSel := BitVec.ofNat 8 v } }
def alertClear (s : State) (v : Nat) : State :=
  updateAlert { s with mgmt := { s.mgmt with alertPend := s.mgmt.alertPend &&& ~~~(BitVec.ofNat 7 v) } }

/-! ### Plain registers -/

/-- The core's STATE reads RUNNING. -/
def coreBusy (s : State) (n : Nat) : Bool := blkState s (.core n) == 3

/-- A weight field of 0 among `n` bytes. -/
def zeroWeight (v n : Nat) : Bool := (List.range n).any (fun i => fieldOf v (8 * i) 8 == 0)

/-- DIE_ROUTE of die d (R255): 0 for the own die and the neighbours, 1 or 2 for the diagonal die. -/
def dieRouteBad (d v : Nat) : Bool :=
  (List.range 4).any (fun e =>
    let x := fieldOf v (2 * e) 2
    if e == (d + 2) % 4 then x != 1 && x != 2 else x != 0)

/-- The checks beyond reserved bits, and the effect, of a write to a register that is no half of a pair. -/
def plainWrite (s : State) (b : Blk) (o v : Nat) : List (Bool × Code) × (State → State) :=
  let w := BitVec.ofNat 32 v
  let reg := fun (pg : Nat) (s : State) => setReg s pg o v
  match b with
  | .core n =>
    let busy : Bool × Code := (coreBusy s n, .wrongState)
    let core := fun (f : Core → Core) (s : State) => modCore s n f
    if o == 0x044 then ([busy, (v % 65536 == 65535, .badField)], core (fun x => { x with lrPos := w }))
    else if o == 0x048 then ([busy, (decide (585 < v % 1024), .badField)], core (fun x => { x with lrPass := w }))
    else if o == 0x04C then ([busy], core (fun x => { x with lrFill := w }))
    else if o == 0x050 then ([busy], core (fun x => { x with lrFree := w }))
    else if o == 0x104 then ([busy], core (fun x => { x with opPos := w }))
    else if o == 0x180 then ([busy], core (fun x => { x with flush := bitOf v 0 }))
    else if o == 0x184 then ([], core (fun x => { x with arithStat := x.arithStat &&& ~~~(BitVec.ofNat 5 v) }))
    else if o == 0x188 then ([busy, (v == 0, .badField)], core (fun x => { x with srState := w, srSeen := w }))
    else if o == 0x204 then ([], fun s => if bitOf v 0 then laInvalidate s n else s)
    else if 0x318 ≤ o && o < 0x328 then ([busy], core (fun x => { x with loops := setNth x.loops ((o - 0x318) / 4) v }))
    else if o == 0x330 then ([], core (fun x => if bitOf v 31 then { x with fr := {} } else x))
    else if o == 0x404 then ([(v == 0 || decide (64 < v), .badField)], core (fun x => { x with islLimit := v }))
    else ([], id)
  | .hbm k =>
    if o == 0x044 then ([(fieldOf v 0 8 == 0 || decide (168 < fieldOf v 0 8), .badField)], reg (pgHbm k))
    else if o == 0x054 then ([(decide ((getStack s k).badRows.length ≤ v), .badField)], reg (pgHbm k))
    else if k != 0 then ([], id)
    else if o == 0x100 then ([(v == 0 || decide (64 < v), .badField), (!s.fm.entries.isEmpty, .wrongState)], reg (pgHbm k))
    else if o == 0x108 then ([], reg (pgHbm k))
    else ([], id)
  | .port p =>
    if o == 0x044 || (p == 0 && (o == 0x100 || o == 0x104)) then ([(!planOpen s, .wrongState)], reg (pgPort p)) else ([], id)
  | .fabric d =>
    if o == 0x040 then ([(dieRouteBad d v, .badField)], reg (pgFabric d))
    else if o == 0x044 then ([(zeroWeight v 4, .badField)], reg (pgFabric d))
    else if o == 0x048 then ([(zeroWeight v 1, .badField)], reg (pgFabric d))
    else if o == 0x04C then ([(fieldOf v 0 5 == 0 || decide (27 < fieldOf v 0 5), .badField)], reg (pgFabric d))
    else ([], id)
  | .bypass p =>
    if o == 0x040 then ([(zeroWeight v 4, .badField)], reg (pgBypass p))
    else if o == 0x044 then ([(zeroWeight v 1, .badField)], reg (pgBypass p))
    else if o == 0x100 || o == 0x104 then ([], reg (pgBypass p))
    else ([], id)
  | .ix d => if o == 0x040 || o == 0x054 then ([], reg (pgIx d)) else ([], id)
  | .col d => if o == 0x040 then ([], reg (pgCol d)) else ([], id)
  | .rlc d => if o == 0x048 then ([((getRlc s d).flush.isSome, .busy)], reg (pgRlc d)) else ([], id)
  | .post => if o == 0x040 || o == 0x04C then ([], reg pgPost) else ([], id)
  | .qpc =>
    if o == 0x040 then ([(capBad v, .badField)], fun s => setCap s v) else if o == 0x050 then ([], reg pgQpc) else ([], id)
  | .qsc =>
    let cert : Bool × Code := (s.record.lcState != 1, .lifecycle)
    if o == 0x04C then ([cert, (decide (2048 < v), .badField)], fun s => modRecord s (fun r => { r with certLen := v }))
    else if o == 0x050 then ([], reg pgQsc)
    else if o == 0x054 then ([cert], fun s => modRecord s (fun r => { r with cert := store r.cert (regOf s pgQsc 0x050) w }))
    else if o == 0x058 then ([], fun s => modQsc s (fun q => { q with target := v }))
    else if o == 0x05C then ([(decide (33 < v), .badField)], fun s => modQsc s (fun q => { q with tokenSel := v }))
    else ([], id)
  | .qmc =>
    if o == 0x064 then (alertFails s 1 v, fun s => alertAct s 1 v) else if o == 0x068 then ([], fun s => alertClear s v) else ([], id)
  | .aon =>
    if o == 0x058 then ([], reg pgAon)
    else if o == 0x080 then ([], fun s => modPower s (fun x => { x with cmpSel := v }))
    else if o == 0x084 then (cmpCtlFails s s.power.cmpSel 1 v, fun s => cmpCtlAct s s.power.cmpSel 1 v)
    else ([], id)
  | .trace i => if o == 0x044 then ([(decide (20 < v), .badField)], reg (pgTrace i)) else if o == 0x050 then ([], reg (pgTrace i)) else ([], id)
  | .atlas =>
    if o == 0x040 then ([(!siteOk v, .badField)], reg pgAtlas) else if o == 0x054 then ([], reg pgAtlas) else ([], id)
  | _ => ([], id)

/-! ### 64-bit pairs (R38) -/

/-- The checks of the state that both halves of a writable pair pass. -/
def pairGuard (s : State) (p : Nat) (b : Blk) : List (Bool × Code) :=
  match b with
  | .core n => [(coreBusy s n, .wrongState)]
  | .aon => argGuard s s.power.cmpSel 1
  | .trace i => traceFails s p i
  | .rlc d => [((getRlc s d).flush.isSome, .busy)]
  | _ => []

/-- The checks of a whole pair. -/
def pairFails (s : State) (b : Blk) (lo hi : Nat) : List (Bool × Code) :=
  match b with
  | .aon => argFails s.power.cmpSel lo hi
  | _ => []

/-- The checks that a high word fails whatever its low word is. -/
def highFails (s : State) (b : Blk) (hi : Nat) : List (Bool × Code) :=
  match b with
  | .aon => argHigh s.power.cmpSel hi
  | _ => []

/-- The checks that a low word fails whatever its high word is. -/
def lowFails (s : State) (b : Blk) (lo : Nat) : List (Bool × Code) :=
  match b with
  | .aon => argLow s.power.cmpSel lo
  | _ => []

/-- A pair at low offset `o` takes its new value. -/
def pairAct (s : State) (b : Blk) (o lo hi : Nat) : State :=
  let v := lo + 2 ^ 32 * hi
  match b with
  | .core n =>
    if o == 0x308 then modCore s n (fun x => { x with pc := v }) else modCore s n (fun x => { x with tdSrc := v })
  | .aon => argAct s s.power.cmpSel lo hi
  | .hbm _ => setReg64 s fmPage o v
  | .rlc d => setReg64 s (pgRlc d) o v
  | .trace i => setReg64 s (pgTrace i) o v
  | _ => s

def stageWord (s : State) (pg key : Nat) (v : Option Word) : State :=
  modPage s pg (fun x => { x with stage := match v with | some _ => store x.stage key v | none => drop1 x.stage key })

/-- A low word is staged; a high word applies both, or fails with SEQUENCE where none is staged. -/
def pairWrite (s : State) (p pg : Nat) (b : Blk) (o v : Nat) (r : RegDef) : State :=
  let reserved : Bool × Code := (outside v r.bits, .reservedSet)
  if r.pair == 1 then
    writeReg s p pg o (reserved :: (pairGuard s p b ++ lowFails s b v)) (fun s => stageWord s pg (16 * o + p) (some (BitVec.ofNat 32 v)))
  else
    let low := o - 4
    match look (getPage s pg).stage (16 * low + p) none with
    | none => writeReg s p pg o (reserved :: (true, .sequence) :: (pairGuard s p b ++ highFails s b v)) id
    | some w =>
      writeReg s p pg o (reserved :: (pairGuard s p b ++ pairFails s b w.toNat v))
        (fun s => stageWord (pairAct s b low w.toNat v) pg (16 * low + p) none)

/-! ### Every write -/

/-- An operation written through its own checks; `ahead` are those of its checks that rank before reserved bits (R36). -/
def commandWrite (s : State) (p pg o v bits : Nat) (bad : Bool) (ahead : List (Bool × Code)) (act : State) : State :=
  if outside v bits || bad then writeReg s p pg o ((outside v bits, .reservedSet) :: (bad, .badField) :: ahead) id else act

/-- RST_REQ's domain: KIND and TARGET, and whether the target lies on the die. -/
def rstDomain (d v : Nat) : Bool × Domain :=
  let k := fieldOf v 28 4
  let t := fieldOf v 0 12
  let die := Fin.ofNat 4 d
  if k == 0 then (dieOfCore t == d, .core (Fin.ofNat 4096 t))
  else if k == 1 then (decide (t < 192) && dieOfChan t == d, .kerb (Fin.ofNat 192 t))
  else if k == 2 then (decide (t < 32) && dieOfPort t == d, .port (Fin.ofNat 32 t))
  else if k == 3 then (t == 0, .bypass die)
  else (k == 4 && t == 0, .die die)

/-- A write to a block-specific offset. -/
def blkWrite (s : State) (p pg : Nat) (b : Blk) (o v : Nat) : State :=
  let r := regDef b o
  let plain :=
    let (fails, act) := plainWrite s b o v
    let trace := match b with | .trace i => if r.kind == .rw then traceFails s p i else [] | _ => []
    writeReg s p pg o ((outside v r.bits, .reservedSet) :: (trace ++ fails)) act
  match b with
  | .core n =>
    if 0x100 ≤ o && o < 0x180 && opWidth s n == 0 then writeReg s p pg o [(true, .absent)] id
    else if r.kind == .rw && r.pair != 0 then pairWrite s p pg b o v r
    else plain
  | .hbm k =>
    if k == 0 && o == 0x114 then commandWrite s p pg o v r.bits false [] (fmStart s p (v % 8) (bitOf v 8))
    else if r.kind == .rw && r.pair != 0 then pairWrite s p pg b o v r
    else plain
  | .rlc d =>
    if o == 0x04C then commandWrite s p pg o v r.bits false [] (flushCtl s p d (bitOf v 0) (bitOf v 1))
    else if r.kind == .rw && r.pair != 0 then pairWrite s p pg b o v r
    else plain
  | .fabric d =>
    if o == 0x050 then
      writeReg s p pg o [(outside v 0x1FFFF, .reservedSet), (!stopOk (bitOf v 16) (v % 65536), .badField)]
        (fun s => telSelect s d v)
    else plain
  | .bypass q =>
    if q % 8 == 0 && o == 0x108 then commandWrite s p pg o v r.bits (v == 0 || 5 < v) [] (rtStart s p (q / 8) v)
    else if q % 8 == 0 && o == 0x110 then commandWrite s p pg o v r.bits false [] (holdWrite s p (q / 8) (bitOf v 0))
    else plain
  | .port q =>
    if q == 0 && o == 0x108 then
      writeReg s p pg o (planFails s v) (fun s => if bitOf v 0 then setReg s pg o v else applyPlan s v)
    else plain
  | .ctl d =>
    if o == 0x040 then
      commandWrite s p pg o v r.bits (4 < fieldOf v 28 4) [] (rstReq s p d (rstDomain d v).1 (rstDomain d v).2)
    else plain
  | .qsc =>
    if o == 0x060 then writeReg s p pg o [(decide (33 < s.qsc.tokenSel), .badField)] (fun s => tokenWrite s v)
    else if o == 0x064 then commandWrite s p pg o v r.bits false (lcFails s (bitOf v 1) (bitOf v 0)) (lcControl s p (bitOf v 1) (bitOf v 0))
    else plain
  | .trace i =>
    if o == 0x040 then traceCtl s p i v
    else if r.kind == .rw && r.pair != 0 then pairWrite s p pg b o v r
    else plain
  | .aon => if r.kind == .rw && r.pair != 0 then pairWrite s p pg b o v r else plain
  | _ => plain

/-- A BAR0 write of `size` bytes (R30, R31, R33, R36). -/
def regWrite (s : State) (p off size v : Nat) : State :=
  let pg := off / 4096
  let o := off % 4096
  if !hubPowered s then s
  else match blkOf pg with
    | none => bump32 s pgPcie 0x048 1
    | some b =>
      if size != 4 || o % 4 != 0 then reject s pg (o - o % 4) .align
      else if o < 0x040 then headWrite s p pg b o v
      else blkWrite s p pg b o v

end Sys2Proof.Machine
end

