-- ==== Sys2Proof/Machine/Mgmt.lean ====
section
/-!
DEFINITION. The management interface (chapter 24): the mailbox, its opcodes and responses, status reads and addressing (R454 to
R459), and the ends of DOZE transitions, which a mailbox may have asked for (R402).
-/
namespace Sys2Proof.Machine

def modMgmt (s : State) (f : Mgmt → Mgmt) : State := { s with mgmt := f s.mgmt }

/-- The responder answers while the always-on domain runs (R454). -/
def mgmtUp (s : State) : Bool := s.power.state != .off

/-- A COMPLETION record with PHASE 0 and FLAGS 0 (R347, R456). -/
def mboxRecord (s : State) (code arg0 arg1 : Nat) : List Byte :=
  leBytes 1 1 ++ leBytes 1 code ++ leBytes 2 (numAt s.mgmt.req 0 2) ++ leBytes 4 0 ++ leBytes 8 s.odometer ++ leBytes 8 arg0 ++ leBytes 8 arg1

/-- The request in service ends: BUSY clears and RESP_VALID sets. -/
def mboxEnd (s : State) (code arg0 arg1 : Nat) : State :=
  let s := modMgmt s (fun m => { m with resp := mboxRecord s code arg0 arg1, respValid := true, busy := false })
  alertCause (addEvent s pgQmc 1) 5

/-- Every opcode but READ returns the request's COOKIE in ARG0. -/
def mboxReply (s : State) (code arg1 : Nat) : State := mboxEnd s code (numAt s.mgmt.req 8 8) arg1

/-- Table 126. -/
def mboxOps : List Nat := [0x00, 0x21, 0x22, 0x30, 0x31, 0x32]

/-- The reserved header bits of a request: FLAGS are 0. -/
def mboxReserved (s : State) (used : List (Nat × Nat)) : Bool × Code :=
  (postFlags s.mgmt.req != 0 || numAt s.mgmt.req 6 2 != 0 || bodyReserved s.mgmt.req used, .reservedSet)

/-- The address that the target answers to (R453, R454). DESIGN CHOICE (notes/assumptions/157.md): the dynamic one once it is assigned,
the static one before. -/
def mgmtAddr (s : State) : Nat := if s.mgmt.dynAddr == 0 then 0x40 + s.boot.straps % 16 else s.mgmt.dynAddr

/-- A whole mailbox request is written: refused while BUSY; an opcode that Table 126 does not name completes at once. -/
def submitReq (s : State) (data : List Byte) : State :=
  if s.mgmt.busy then bump32 (modMgmt s (fun m => { m with rejCode := Code.busy.num })) pgQmc 0x06C 1
  else
    let s := modMgmt s (fun m => { m with req := data, busy := true, busyAt := s.odometer })
    if mboxOps.contains (postOp data) then s
    else mboxReply s (if (mboxReserved s [(16, 48)]).1 then Code.reservedSet.num else Code.badField.num) 0

/-- The last transfer's acknowledgement and the bytes it read. -/
def answerI3c (s : State) (acked : Bool) (l : List Byte) : State := modMgmt s (fun m => { m with acked := acked, out := l })

/-- MBOX_RESP of Table 125. -/
def respBytes (m : Mgmt) : List Byte := (m.resp ++ List.replicate 32 0).take 32

/-- The word at 0x60 of Table 125. -/
def statusWord (m : Mgmt) : Nat := m.rejCode * 2 ^ 8 + bit m.respValid * 2 + bit m.busy

/-- The transfer lies within one register that it may reach: MBOX_REQ for a write, MBOX_RESP or the status word for a read. -/
def i3cReaches (x : I3cTransfer) : Bool :=
  let i := x.index.toNat
  if x.read == 0 then decide (i + x.data.length ≤ 0x40)
  else (decide (0x40 ≤ i) && decide (i + x.read ≤ 0x60)) || (decide (0x60 ≤ i) && decide (i + x.read ≤ 0x64))

/-- MBOX_SUBMIT, a private transfer to the target space (R455): all 64 bytes of MBOX_REQ submit a request and a shorter write is
discarded, a read gives the bytes it names, and one that reaches nothing or runs beyond its register is not acknowledged. Whether the bus saw an error is the operand's (R459). DESIGN CHOICE
(notes/assumptions/157.md, 158.md). -/
def execMboxSubmit (data : I3cTransfer) (s : State) : Result :=
  let i := data.index.toNat
  .next (if !mgmtUp s then s
    else if data.err then bump32 (answerI3c s false []) pgQmc 0x070 1
    else if data.target.toNat != mgmtAddr s || !i3cReaches data then answerI3c s false []
    else if data.read == 0 then
      let s := answerI3c s true []
      if i == 0 && data.data.length == 64 then submitReq s data.data else s
    else if i < 0x60 then answerI3c s true (((respBytes s.mgmt).drop (i - 0x40)).take data.read)
    else
      let s := answerI3c s true (((leBytes 4 (statusWord s.mgmt)).drop (i - 0x60)).take data.read)
      modMgmt s (fun m => { m with respValid := m.respValid && i != 0x60 }))

/-- The request in service has an opcode. -/
def mboxServes (s : State) (op : Nat) : Bool := mgmtUp s && s.mgmt.busy && postOp s.mgmt.req == op

/-- MBOX_NOP. -/
def execMboxNop (s : State) : Result :=
  .next (if !mboxServes s 0x00 then s
    else match firstFail [mboxReserved s []] with
      | some c => mboxReply s c.num 0
      | none => mboxReply s 0 0)

/-- MBOX_CAP: ARG1 is the previous cap. -/
def execMboxCap (s : State) : Result :=
  .next (if !mboxServes s 0x21 then s
    else
      let v := numAt s.mgmt.req 16 2
      match firstFail [mboxReserved s [(16, 2)], (capBad v, .badField)] with
      | some c => mboxReply s c.num 0
      | none => mboxReply (setCap s v) 0 (capBefore s v))

/-- A POWER_OFF of the mailbox has been taken and awaits its end. -/
def mboxWaits (s : State) : Bool := s.power.entering == some .mailbox || s.power.leaving == some .mailbox

/-- MBOX_POWER_OFF. -/
def execMboxPowerOff (s : State) : Result :=
  .next (if !mboxServes s 0x22 || mboxWaits s then s
    else
      let v := numAt s.mgmt.req 16 1
      match firstFail [mboxReserved s [(16, 1)], (!powTarget v, .badField)] with
      | some c => mboxReply s c.num 0
      | none => powerOff s v .mailbox (fun s code => mboxReply s code 0))

/-- MBOX_WAKE: the MGMT event of comparator 7. -/
def execMboxWake (s : State) : Result :=
  let x := getCmp s 7
  .next (if !mboxServes s 0x31 then s
    else match firstFail [mboxReserved s [], (!(x.en && x.arg.getLsbD 1), .wrongState)] with
      | some c => mboxReply s c.num 0
      | none => fireCmp (mboxReply s 0 0) 7)

/-! ### READ and WRITE (R457, R459) -/

/-- The latch key of the management path. -/
def mgmtPath : Nat := 16 * 4096

/-- A page's domain is unpowered or in reset, so that a READ of its registers cannot be answered. -/
def mgmtGated (s : State) (b : Blk) (pg o : Nat) : Bool :=
  o ≥ 0x040 && !aonReg pg o && (blkState s b == 0 || roadblocked s b || blkState s b == 1)

/-- Words from an offset, for the management path: no partition's latch is touched. -/
def mgmtWords (s : State) (b : Blk) (pg o : Nat) (n : Nat) : List Nat :=
  (List.range n).map (fun i =>
    let a := o + 4 * i
    let latched := i == 0 && pairOf b a == 2
    let live := wordRead s b pg s.power.cmpSelMgmt a
    if latched then match look (getPage s pg).latch (mgmtPath + a - 4) none with | some v => v.toNat | none => live
    else live)

/-- READ latches the high word of a pair whose low word it read last. -/
def mgmtLatch (s : State) (b : Blk) (pg o n : Nat) : State :=
  let a := o + 4 * (n - 1)
  if pairOf b a == 1 then
    modPage s pg (fun x => { x with latch := store x.latch (mgmtPath + a) (some (BitVec.ofNat 32 (wordRead s b pg s.power.cmpSelMgmt (a + 4)))) })
  else s

/-- What the READ of a register that a read clears leaves (R10): the poison log (R220) and TEL_DEPTH (R271), unless the page is
gated. -/
def readClears (s : State) (pg a : Nat) : State :=
  if gated s pg then s
  else match blkOf pg with
    | some (.hbm k) => if k == 0 && a == 0x11C then popPoisonLog s else s
    | some (.fabric d) => if a == 0x060 then clearDepth s d else s
    | _ => s

/-- The registers of a READ in rising order. -/
def mgmtClears (s : State) (pg o n : Nat) : State := (List.range n).foldl (fun s i => readClears s pg (o + 4 * i)) s

/-- MBOX_READ: an address in no page reads 0 (R33). -/
def execMboxRead (s : State) : Result :=
  .next (if !mboxServes s 0x30 then s
    else
      let off := numAt s.mgmt.req 16 4
      let n := numAt s.mgmt.req 20 1
      let pg := off / 4096
      let o := off % 4096
      match firstFail [mboxReserved s [(16, 5)], (off % 4 != 0, .align), (n == 0 || 4 < n || 4096 < o + 4 * n || 2 ^ 26 ≤ off, .badField)] with
      | some c => mboxReply s c.num 0
      | none =>
        match blkOf pg with
        | none => mboxEnd s 0 0 0
        | some b =>
          if (List.range n).any (fun i => mgmtGated s b pg (o + 4 * i)) then mboxReply s Code.fenced.num 0
          else
            let w := mgmtWords s b pg o n
            mboxEnd (mgmtClears (mgmtLatch s b pg o n) pg o n) 0 (nth w 0 + 2 ^ 32 * nth w 1) (nth w 2 + 2 ^ 32 * nth w 3))

/-- MBOX_READ_TIMEOUT: 1 ms passes without an answer. -/
def execMboxReadTimeout (s : State) : Result :=
  .next (if mboxServes s 0x30 && passed s s.mgmt.busyAt msNs then mboxReply s Code.timedOut.num 0 else s)

/-- What a WRITE does at the offsets it accepts: the failing checks and the effect. -/
def mgmtWrite (s : State) (off v : Nat) : Option (List (Bool × Code) × (State → State)) :=
  let k := s.power.cmpSelMgmt
  let key := mgmtPath + 0x088
  let w := BitVec.ofNat 32 v
  if off == 0x4064 then some (alertFails s 2 v, fun s => alertAct s 2 v)
  else if off == 0x4068 then some ([(outside v 0x7F, .reservedSet)], fun s => alertClear s v)
  else if off == 0x5080 then some ([(outside v 0x7, .reservedSet)], fun s => modPower s (fun x => { x with cmpSelMgmt := v }))
  else if off == 0x5084 then some (cmpCtlFails s k 2 v, fun s => cmpCtlAct s k 2 v)
  else if off == 0x5088 then some (argGuard s k 2 ++ argLow k v, fun s => stageWord s pgAon key (some w))
  else if off == 0x508C then
    match look (getPage s pgAon).stage key none with
    | none => some ((true, .sequence) :: (argGuard s k 2 ++ argHigh k v), id)
    | some lo => some (argGuard s k 2 ++ argFails k lo.toNat v, fun s => stageWord (argAct s k lo.toNat v) pgAon key none)
  else none

/-- MBOX_WRITE: any other offset is NOT_OWNER. -/
def execMboxWrite (s : State) : Result :=
  .next (if !mboxServes s 0x32 then s
    else
      let off := numAt s.mgmt.req 16 4
      let v := numAt s.mgmt.req 20 4
      let (fails, act) := (mgmtWrite s off v).getD ([(true, .notOwner)], id)
      match firstFail ([mboxReserved s [(16, 8)], (off % 4 != 0, .align)] ++ fails) with
      | some c => mboxReply s c.num 0
      | none => mboxReply (act s) 0 0)

/-! ### The target's own registers (Table 125) -/

/-- MGMT_STATUS_READ: the word at 0x60, whose read clears RESP_VALID. -/
def execMgmtStatusRead (s : State) : Result :=
  let m := s.mgmt
  .next (if !mgmtUp s then s
    else { modMgmt s (fun m => { m with respValid := false }) with
      rdata := BitVec.ofNat 32 (statusWord m) })

/-- SETDASA (R454): a dynamic address is assigned. -/
def execSetdasa (addr : BitVec 7) (s : State) : Result :=
  .next (if mgmtUp s then modMgmt s (fun m => { m with dynAddr := addr.toNat }) else s)

/-! ### DOZE (R402, R403) -/

/-- DOZE_ENTERED: every channel is in self-refresh, and the dies and their resets are without power. Tests under way end first. -/
def execDozeEntered (s : State) : Result :=
  .next (match s.power.entering with
    | none => s
    | some q =>
      if !s.hide.tests.isEmpty || !s.hide.moves.isEmpty then s
      else
        let s := (List.range 4).foldl resetFabric s
        let s := (List.range 12).foldl (fun s k => modStack s k (fun x => { x with selfRefresh := true })) s
        let s : State := { s with hang := { s.hang with resets := s.hang.resets.filter (fun r =>
          match r.dom with | .port _ => true | .bypass _ => true | .hub => true | _ => false) } }
        let s := modPower s (fun x => { x with state := .doze, entering := none })
        wakeFired (endPow s q 0 (fun s code => mboxReply s code 0)))

/-- DOZE_EXIT_DONE: the channels are retrained, the die firmware is loaded, and the cores are READY. -/
def execDozeExitDone (s : State) : Result :=
  .next (match s.power.leaving with
    | none => s
    | some q =>
      let s := (List.range 12).foldl (fun s k => modStack s k (fun x => { x with selfRefresh := false })) s
      let now := s.odometer
      let s : State := { s with hang := { s.hang with
        polls := (List.range 4).map (fun d => (d, now)), windows := (List.range 5).map (fun k => (k, now)),
        beats := (List.range 5).map (fun k => (k, now)), misses := [] } }
      let s := modPower s (fun x => { x with state := .on, leaving := none })
      endPow s q 0 (fun s code => mboxReply s code 0))

end Sys2Proof.Machine
end

