-- ==== Sys2Proof/Machine/Pages.lean ====
section
/-!
DEFINITION. The register rows of the control pages: writes through BAR0 by what they write (R30 to R41, R133, R173).
-/
namespace Sys2Proof.Machine

/-- REGISTER_WRITE. -/
def execRegisterWrite (p : PartId) (off : Bar0) (size : Nat) (val : Word) (s : State) : Result :=
  .next (regWrite s p off.toNat size val.toNat)

/-- STRAY_BAR0_WRITE: no page lies at the offset, whatever the size. -/
def execStrayBar0Write (p : PartId) (off : Bar0) (val : Word) (s : State) : Result :=
  .next (regWrite s p off.toNat 4 val.toNat)

/-- REJECT_CLR: BLK_CTL written with bit 31 and the low half given. -/
def execRejectClr (p : PartId) (page : BitVec 14) (ctl : BitVec 16) (s : State) : Result :=
  .next (regWrite s p (page.toNat * 4096 + 0x008) 4 (2 ^ 31 + ctl.toNat))

/-- RELEASE: BLK_CTL written with bit 30. -/
def execRelease (p : PartId) (page : BitVec 14) (ctl : BitVec 16) (s : State) : Result :=
  .next (regWrite s p (page.toNat * 4096 + 0x008) 4 (2 ^ 30 + ctl.toNat))

/-- NOTICE_MASK_WRITE. -/
def execNoticeMaskWrite (p : PartId) (page : BitVec 14) (val : Word) (s : State) : Result :=
  .next (regWrite s p (page.toNat * 4096 + 0x014) 4 val.toNat)

/-- LOW_WORD_WRITE and HIGH_WORD_WRITE: the halves of a pair (R38). -/
def execLowWordWrite (p : PartId) (off : Bar0) (val : Word) (s : State) : Result := .next (regWrite s p off.toNat 4 val.toNat)
def execHighWordWrite (p : PartId) (off : Bar0) (val : Word) (s : State) : Result := .next (regWrite s p off.toNat 4 val.toNat)

/-- RESOURCE_ENABLE_WRITE: the word that holds a shared resource's enable (R40). -/
def execResourceEnableWrite (p : PartId) (off : Bar0) (val : Word) (s : State) : Result :=
  .next (regWrite s p off.toNat 4 val.toNat)

/-- FR_CLEAR: VALID of FR_STAT written as 1. -/
def execFrClear (p : PartId) (core : CoreId) (s : State) : Result :=
  .next (regWrite s p (pgCore core * 4096 + 0x330) 4 (2 ^ 31))

/-- LA_INVALIDATE: DM_CTL written with bit 0. -/
def execLaInvalidate (p : PartId) (core : CoreId) (s : State) : Result :=
  .next (regWrite s p (pgCore core * 4096 + 0x204) 4 1)

end Sys2Proof.Machine
end

