-- ==== Sys2Proof/Machine/Dispatch.lean ====
section
/-!
DEFINITION. exec: the effect of each command on everything but the queue, one arm per row of the table, each a direct
call of that row's meaning.
-/
namespace Sys2Proof.Machine

def exec (i : Instr) (s : State) : Host.Outcome State Fault Refusal :=
  match i with
  | .registerWrite p off size val => Sys2Proof.Machine.execRegisterWrite p off size val s
  | .strayBar0Write p off val => Sys2Proof.Machine.execStrayBar0Write p off val s
  | .rejectClr p page ctl => Sys2Proof.Machine.execRejectClr p page ctl s
  | .release p page ctl => Sys2Proof.Machine.execRelease p page ctl s
  | .noticeMaskWrite p page val => Sys2Proof.Machine.execNoticeMaskWrite p page val s
  | .lowWordRead p off => Sys2Proof.Machine.execLowWordRead p off s
  | .lowWordWrite p off val => Sys2Proof.Machine.execLowWordWrite p off val s
  | .highWordWrite p off val => Sys2Proof.Machine.execHighWordWrite p off val s
  | .milestoneViewRead p core ms => Sys2Proof.Machine.execMilestoneViewRead p core ms s
  | .resourceEnableWrite p off val => Sys2Proof.Machine.execResourceEnableWrite p off val s
  | .frClear p core => Sys2Proof.Machine.execFrClear p core s
  | .laInvalidate p core => Sys2Proof.Machine.execLaInvalidate p core s
  | .telSelWrite p die val => Sys2Proof.Machine.execTelSelWrite p die val s
  | .telDepthRead p die => Sys2Proof.Machine.execTelDepthRead p die s
  | .poisonLogRead p => Sys2Proof.Machine.execPoisonLogRead p s
  | .fmRead p zero => Sys2Proof.Machine.execFmRead p zero s
  | .fmWrite p zero => Sys2Proof.Machine.execFmWrite p zero s
  | .fmInvalidate p zero => Sys2Proof.Machine.execFmInvalidate p zero s
  | .fmRetire p zero => Sys2Proof.Machine.execFmRetire p zero s
  | .fmOpDone => Sys2Proof.Machine.execFmOpDone s
  | .fmPoison => Sys2Proof.Machine.execFmPoison s
  | .rlcFlushStart p die => Sys2Proof.Machine.execRlcFlushStart p die s
  | .rlcFlushAll p die => Sys2Proof.Machine.execRlcFlushAll p die s
  | .rlcFlushDone die => Sys2Proof.Machine.execRlcFlushDone die s
  | .rtRead p die => Sys2Proof.Machine.execRtRead p die s
  | .rtWrite p die => Sys2Proof.Machine.execRtWrite p die s
  | .rtCopy p die => Sys2Proof.Machine.execRtCopy p die s
  | .rtSwap p die => Sys2Proof.Machine.execRtSwap p die s
  | .rtClear p die => Sys2Proof.Machine.execRtClear p die s
  | .rtOpDone die => Sys2Proof.Machine.execRtOpDone die s
  | .holdWrite p die hold => Sys2Proof.Machine.execHoldWrite p die hold s
  | .planOpen p val => Sys2Proof.Machine.execPlanOpen p val s
  | .planApply p val => Sys2Proof.Machine.execPlanApply p val s
  | .planApplyDone => Sys2Proof.Machine.execPlanApplyDone s
  | .rstReqCore p die target => Sys2Proof.Machine.execRstReqCore p die target s
  | .rstReqKerb p die target => Sys2Proof.Machine.execRstReqKerb p die target s
  | .rstReqPort p die target => Sys2Proof.Machine.execRstReqPort p die target s
  | .rstReqBypass p die target => Sys2Proof.Machine.execRstReqBypass p die target s
  | .rstReqDie p die target => Sys2Proof.Machine.execRstReqDie p die target s
  | .capWWrite p val => Sys2Proof.Machine.execCapWWrite p val s
  | .tokenDataWrite p val => Sys2Proof.Machine.execTokenDataWrite p val s
  | .lcGo p => Sys2Proof.Machine.execLcGo p s
  | .lcCheckDone => Sys2Proof.Machine.execLcCheckDone s
  | .replaceClr p => Sys2Proof.Machine.execReplaceClr p s
  | .postArrival p c off data => Sys2Proof.Machine.execPostArrival p c off data s
  | .nop p c off data => Sys2Proof.Machine.execNop p c off data s
  | .noticeArea c => Sys2Proof.Machine.execNoticeArea c s
  | .window c => Sys2Proof.Machine.execWindow c s
  | .create c => Sys2Proof.Machine.execCreate c s
  | .run c => Sys2Proof.Machine.execRun c s
  | .preempt c => Sys2Proof.Machine.execPreempt c s
  | .destroy c => Sys2Proof.Machine.execDestroy c s
  | .signal c => Sys2Proof.Machine.execSignal c s
  | .flush c => Sys2Proof.Machine.execFlush c s
  | .kerbArm c => Sys2Proof.Machine.execKerbArm c s
  | .ixArm c => Sys2Proof.Machine.execIxArm c s
  | .ixDisarm c => Sys2Proof.Machine.execIxDisarm c s
  | .colArm c => Sys2Proof.Machine.execColArm c s
  | .colDisarm c => Sys2Proof.Machine.execColDisarm c s
  | .partSet c => Sys2Proof.Machine.execPartSet c s
  | .cap c => Sys2Proof.Machine.execCap c s
  | .powerOff c => Sys2Proof.Machine.execPowerOff c s
  | .fwLoad c => Sys2Proof.Machine.execFwLoad c s
  | .attest c => Sys2Proof.Machine.execAttest c s
  | .attestDone => Sys2Proof.Machine.execAttestDone s
  | .creditNotice c => Sys2Proof.Machine.execCreditNotice c s
  | .noticeDequeue p => Sys2Proof.Machine.execNoticeDequeue p s
  | .bar4Read p off len => Sys2Proof.Machine.execBar4Read p off len s
  | .bar4Write p off data => Sys2Proof.Machine.execBar4Write p off data s
  | .functionLevelReset p => Sys2Proof.Machine.execFunctionLevelReset p s
  | .hotReset => Sys2Proof.Machine.execHotReset s
  | .perstAssert => Sys2Proof.Machine.execPerstAssert s
  | .perstDeassert => Sys2Proof.Machine.execPerstDeassert s
  | .linkChange up flit rate width vfs => Sys2Proof.Machine.execLinkChange up flit rate width vfs s
  | .seqNop core ph => Sys2Proof.Machine.execSeqNop core ph s
  | .jump core => Sys2Proof.Machine.execJump core s
  | .setloop core => Sys2Proof.Machine.execSetloop core s
  | .loop core => Sys2Proof.Machine.execLoop core s
  | .branch core => Sys2Proof.Machine.execBranch core s
  | .branchResolve core => Sys2Proof.Machine.execBranchResolve core s
  | .tdLoad core => Sys2Proof.Machine.execTdLoad core s
  | .tdLoadDone core => Sys2Proof.Machine.execTdLoadDone core s
  | .save core ph => Sys2Proof.Machine.execSave core ph s
  | .halt core ph => Sys2Proof.Machine.execHalt core ph s
  | .fetchLineReturn core line => Sys2Proof.Machine.execFetchLineReturn core line s
  | .instructionStart core eng => Sys2Proof.Machine.execInstructionStart core eng s
  | .mm core ph => Sys2Proof.Machine.execMm core ph s
  | .mma core ph => Sys2Proof.Machine.execMma core ph s
  | .lrFillDone core => Sys2Proof.Machine.execLrFillDone core s
  | .lrStreamToken core => Sys2Proof.Machine.execLrStreamToken core s
  | .lrPassEnd core => Sys2Proof.Machine.execLrPassEnd core s
  | .lrComplete core => Sys2Proof.Machine.execLrComplete core s
  | .lrDummyStepDown core => Sys2Proof.Machine.execLrDummyStepDown core s
  | .lrStop core => Sys2Proof.Machine.execLrStop core s
  | .opm core ph => Sys2Proof.Machine.execOpm core ph s
  | .opma core ph => Sys2Proof.Machine.execOpma core ph s
  | .opFillDone core => Sys2Proof.Machine.execOpFillDone core s
  | .opPassEnd core => Sys2Proof.Machine.execOpPassEnd core s
  | .opComplete core => Sys2Proof.Machine.execOpComplete core s
  | .opDummyStepDown core => Sys2Proof.Machine.execOpDummyStepDown core s
  | .opStop core => Sys2Proof.Machine.execOpStop core s
  | .cvt core ph => Sys2Proof.Machine.execCvt core ph s
  | .vxAdd core ph => Sys2Proof.Machine.execVxAdd core ph s
  | .vxSub core ph => Sys2Proof.Machine.execVxSub core ph s
  | .vxMul core ph => Sys2Proof.Machine.execVxMul core ph s
  | .vxFma core ph => Sys2Proof.Machine.execVxFma core ph s
  | .scale core ph => Sys2Proof.Machine.execScale core ph s
  | .argmax core ph => Sys2Proof.Machine.execArgmax core ph s
  | .argmin core ph => Sys2Proof.Machine.execArgmin core ph s
  | .rowsum core ph => Sys2Proof.Machine.execRowsum core ph s
  | .exp core ph => Sys2Proof.Machine.execExp core ph s
  | .log core ph => Sys2Proof.Machine.execLog core ph s
  | .rsqrt core ph => Sys2Proof.Machine.execRsqrt core ph s
  | .recip core ph => Sys2Proof.Machine.execRecip core ph s
  | .tanh core ph => Sys2Proof.Machine.execTanh core ph s
  | .erf core ph => Sys2Proof.Machine.execErf core ph s
  | .maxmin core ph => Sys2Proof.Machine.execMaxmin core ph s
  | .vxComplete core => Sys2Proof.Machine.execVxComplete core s
  | .vxStop core => Sys2Proof.Machine.execVxStop core s
  | .get core ph => Sys2Proof.Machine.execGet core ph s
  | .put core ph => Sys2Proof.Machine.execPut core ph s
  | .acc core ph => Sys2Proof.Machine.execAcc core ph s
  | .accOrd core ph => Sys2Proof.Machine.execAccOrd core ph s
  | .cmbOpen core ph => Sys2Proof.Machine.execCmbOpen core ph s
  | .runAheadReturn core slot => Sys2Proof.Machine.execRunAheadReturn core slot s
  | .laMissReturn core line => Sys2Proof.Machine.execLaMissReturn core line s
  | .getDataReturn core slot mark => Sys2Proof.Machine.execGetDataReturn core slot mark s
  | .putAck core slot mark => Sys2Proof.Machine.execPutAck core slot mark s
  | .cwWindowIncrease src cw => Sys2Proof.Machine.execCwWindowIncrease src cw s
  | .accArrival idx => Sys2Proof.Machine.execAccArrival idx s
  | .accOrdArrival idx => Sys2Proof.Machine.execAccOrdArrival idx s
  | .accAck idx => Sys2Proof.Machine.execAccAck idx s
  | .msSet core ph => Sys2Proof.Machine.execMsSet core ph s
  | .msAdd core ph => Sys2Proof.Machine.execMsAdd core ph s
  | .msBinit core ph => Sys2Proof.Machine.execMsBinit core ph s
  | .msArrive core ph => Sys2Proof.Machine.execMsArrive core ph s
  | .msTwait core ph => Sys2Proof.Machine.execMsTwait core ph s
  | .twaitExpiry core => Sys2Proof.Machine.execTwaitExpiry core s
  | .msAddArrival idx => Sys2Proof.Machine.execMsAddArrival idx s
  | .msAddAck idx => Sys2Proof.Machine.execMsAddAck idx s
  | .remoteAddArrival idx => Sys2Proof.Machine.execRemoteAddArrival idx s
  | .addRetry core => Sys2Proof.Machine.execAddRetry core s
  | .barrierArrival idx => Sys2Proof.Machine.execBarrierArrival idx s
  | .barrierRoundComplete core ms => Sys2Proof.Machine.execBarrierRoundComplete core ms s
  | .barrierReleaseArrival idx => Sys2Proof.Machine.execBarrierReleaseArrival idx s
  | .grantLend core => Sys2Proof.Machine.execGrantLend core s
  | .engineFault core eng seg => Sys2Proof.Machine.execEngineFault core eng seg s
  | .replayStopped c => Sys2Proof.Machine.execReplayStopped c s
  | .preemptPhase1Done c => Sys2Proof.Machine.execPreemptPhase1Done c s
  | .imageComplete c => Sys2Proof.Machine.execImageComplete c s
  | .preemptOverrun c => Sys2Proof.Machine.execPreemptOverrun c s
  | .kerbDescriptorRead chan c slot => Sys2Proof.Machine.execKerbDescriptorRead chan c slot s
  | .kerbTrigger die c slot => Sys2Proof.Machine.execKerbTrigger die c slot s
  | .kerbBlockStep chan c slot bad => Sys2Proof.Machine.execKerbBlockStep chan c slot bad s
  | .residueExpiry chan => Sys2Proof.Machine.execResidueExpiry chan s
  | .kerbShareDone chan c slot => Sys2Proof.Machine.execKerbShareDone chan c slot s
  | .kerbSignalRetry chan c slot => Sys2Proof.Machine.execKerbSignalRetry chan c slot s
  | .kerbPause c => Sys2Proof.Machine.execKerbPause c s
  | .chunkReductionDone die bad => Sys2Proof.Machine.execChunkReductionDone die bad s
  | .channelAccess chan off write ecc => Sys2Proof.Machine.execChannelAccess chan off write ecc s
  | .scrubRead stack ecc => Sys2Proof.Machine.execScrubRead stack ecc s
  | .rlcFill die => Sys2Proof.Machine.execRlcFill die s
  | .maintWindowOpen chan => Sys2Proof.Machine.execMaintWindowOpen chan s
  | .maintWindowClose chan => Sys2Proof.Machine.execMaintWindowClose chan s
  | .maintWindowAbandon chan => Sys2Proof.Machine.execMaintWindowAbandon chan s
  | .stackLost stack => Sys2Proof.Machine.execStackLost stack s
  | .reservationGrant chan => Sys2Proof.Machine.execReservationGrant chan s
  | .bridgeFlitReceive die bridge slice crcOk => Sys2Proof.Machine.execBridgeFlitReceive die bridge slice crcOk s
  | .handshakeLost die bridge => Sys2Proof.Machine.execHandshakeLost die bridge s
  | .linkFlitReceive port f => Sys2Proof.Machine.execLinkFlitReceive port f s
  | .linkFlitSend port => Sys2Proof.Machine.execLinkFlitSend port s
  | .transitPacket port => Sys2Proof.Machine.execTransitPacket port s
  | .arrivalPacket port => Sys2Proof.Machine.execArrivalPacket port s
  | .requestTimeout req => Sys2Proof.Machine.execRequestTimeout req s
  | .portRetrain port => Sys2Proof.Machine.execPortRetrain port s
  | .lightOn port => Sys2Proof.Machine.execLightOn port s
  | .lightLoss port => Sys2Proof.Machine.execLightLoss port s
  | .trainStepDone port tx rx => Sys2Proof.Machine.execTrainStepDone port tx rx s
  | .identReceive port id => Sys2Proof.Machine.execIdentReceive port id s
  | .trainTimeout port => Sys2Proof.Machine.execTrainTimeout port s
  | .trainRetry port => Sys2Proof.Machine.execTrainRetry port s
  | .laneFail port lane => Sys2Proof.Machine.execLaneFail port lane s
  | .widthChangeDone port => Sys2Proof.Machine.execWidthChangeDone port s
  | .syncRequest => Sys2Proof.Machine.execSyncRequest s
  | .syncReply t1 t2 t3 t4 synced => Sys2Proof.Machine.execSyncReply t1 t2 t3 t4 synced s
  | .timeLost => Sys2Proof.Machine.execTimeLost s
  | .ixRoundTrigger die slot => Sys2Proof.Machine.execIxRoundTrigger die slot s
  | .ixCount idx => Sys2Proof.Machine.execIxCount idx s
  | .ixGrant idx => Sys2Proof.Machine.execIxGrant idx s
  | .ixToken idx => Sys2Proof.Machine.execIxToken idx s
  | .ixReady idx => Sys2Proof.Machine.execIxReady idx s
  | .ixFetch idx => Sys2Proof.Machine.execIxFetch idx s
  | .ixFetchData idx => Sys2Proof.Machine.execIxFetchData idx s
  | .ixAbort idx => Sys2Proof.Machine.execIxAbort idx s
  | .ixAck idx => Sys2Proof.Machine.execIxAck idx s
  | .ixCombineTrigger die slot => Sys2Proof.Machine.execIxCombineTrigger die slot s
  | .ixLimitExpiry die slot => Sys2Proof.Machine.execIxLimitExpiry die slot s
  | .ixCountRetry die slot => Sys2Proof.Machine.execIxCountRetry die slot s
  | .ixSignalRetry die slot => Sys2Proof.Machine.execIxSignalRetry die slot s
  | .colRoundTrigger die slot => Sys2Proof.Machine.execColRoundTrigger die slot s
  | .colReady idx => Sys2Proof.Machine.execColReady idx s
  | .colCount idx => Sys2Proof.Machine.execColCount idx s
  | .colGo idx => Sys2Proof.Machine.execColGo idx s
  | .colPart idx => Sys2Proof.Machine.execColPart idx s
  | .colAck idx => Sys2Proof.Machine.execColAck idx s
  | .colNak idx => Sys2Proof.Machine.execColNak idx s
  | .colArrive idx => Sys2Proof.Machine.execColArrive idx s
  | .colRelease idx => Sys2Proof.Machine.execColRelease idx s
  | .colAbort idx => Sys2Proof.Machine.execColAbort idx s
  | .colGetReq idx => Sys2Proof.Machine.execColGetReq idx s
  | .colGetData idx => Sys2Proof.Machine.execColGetData idx s
  | .colLimitExpiry die slot => Sys2Proof.Machine.execColLimitExpiry die slot s
  | .colCountRetry die slot => Sys2Proof.Machine.execColCountRetry die slot s
  | .engineHang core eng => Sys2Proof.Machine.execEngineHang core eng s
  | .corePoll die silent => Sys2Proof.Machine.execCorePoll die silent s
  | .kerbHang chan => Sys2Proof.Machine.execKerbHang chan s
  | .roadblockHalfBudget d => Sys2Proof.Machine.execRoadblockHalfBudget d s
  | .resetComplete d => Sys2Proof.Machine.execResetComplete d s
  | .resetOverrun d => Sys2Proof.Machine.execResetOverrun d s
  | .contextStall c => Sys2Proof.Machine.execContextStall c s
  | .heartbeat k => Sys2Proof.Machine.execHeartbeat k s
  | .watchdogMiss k => Sys2Proof.Machine.execWatchdogMiss k s
  | .processorRestartOverrun k => Sys2Proof.Machine.execProcessorRestartOverrun k s
  | .trialPass core => Sys2Proof.Machine.execTrialPass core s
  | .pllLockLoss die => Sys2Proof.Machine.execPllLockLoss die s
  | .katStart die => Sys2Proof.Machine.execKatStart die s
  | .katForced core => Sys2Proof.Machine.execKatForced core s
  | .standInMoveDone core => Sys2Proof.Machine.execStandInMoveDone core s
  | .katDone site r => Sys2Proof.Machine.execKatDone site r s
  | .shadowRunDone core crc => Sys2Proof.Machine.execShadowRunDone core crc s
  | .shadowVoteDone core crc => Sys2Proof.Machine.execShadowVoteDone core crc s
  | .fault24hExpiry site => Sys2Proof.Machine.execFault24hExpiry site s
  | .drainComplete => Sys2Proof.Machine.execDrainComplete s
  | .powerMeasure pIn vIn iIn other dies => Sys2Proof.Machine.execPowerMeasure pIn vIn iIn other dies s
  | .grantAllocate unit => Sys2Proof.Machine.execGrantAllocate unit s
  | .poolSplit => Sys2Proof.Machine.execPoolSplit s
  | .islandRampStep core => Sys2Proof.Machine.execIslandRampStep core s
  | .sensorRead junction hub hbmStacks => Sys2Proof.Machine.execSensorRead junction hub hbmStacks s
  | .thermalTrip => Sys2Proof.Machine.execThermalTrip s
  | .thermTripRelease => Sys2Proof.Machine.execThermTripRelease s
  | .vinFault => Sys2Proof.Machine.execVinFault s
  | .alwaysOnLoss => Sys2Proof.Machine.execAlwaysOnLoss s
  | .powerUp => Sys2Proof.Machine.execPowerUp s
  | .comparatorFire k => Sys2Proof.Machine.execComparatorFire k s
  | .dozeEntered => Sys2Proof.Machine.execDozeEntered s
  | .dozeExitDone => Sys2Proof.Machine.execDozeExitDone s
  | .bringupPowerDone => Sys2Proof.Machine.execBringupPowerDone s
  | .identityCheck straps fuses steppings slot => Sys2Proof.Machine.execIdentityCheck straps fuses steppings slot s
  | .bridgeTestDone die bridge data spare => Sys2Proof.Machine.execBridgeTestDone die bridge data spare s
  | .hbmTrainingDone stack => Sys2Proof.Machine.execHbmTrainingDone stack s
  | .reservedZeroDone => Sys2Proof.Machine.execReservedZeroDone s
  | .fwVerifyDone => Sys2Proof.Machine.execFwVerifyDone s
  | .firmwareStart => Sys2Proof.Machine.execFirmwareStart s
  | .bringupTestDone results => Sys2Proof.Machine.execBringupTestDone results s
  | .readySend => Sys2Proof.Machine.execReadySend s
  | .bringupOverrun hub die => Sys2Proof.Machine.execBringupOverrun hub die s
  | .opticalCheck port bias power => Sys2Proof.Machine.execOpticalCheck port bias power s
  | .pllCheck fabric bypass hub => Sys2Proof.Machine.execPllCheck fabric bypass hub s
  | .sensorCheck junction hbmStacks => Sys2Proof.Machine.execSensorCheck junction hbmStacks s
  | .vinMonitorCheck a b => Sys2Proof.Machine.execVinMonitorCheck a b s
  | .traceWrite buf => Sys2Proof.Machine.execTraceWrite buf s
  | .mboxSubmit data => Sys2Proof.Machine.execMboxSubmit data s
  | .mboxNop => Sys2Proof.Machine.execMboxNop s
  | .mboxCap => Sys2Proof.Machine.execMboxCap s
  | .mboxPowerOff => Sys2Proof.Machine.execMboxPowerOff s
  | .mboxRead => Sys2Proof.Machine.execMboxRead s
  | .mboxReadTimeout => Sys2Proof.Machine.execMboxReadTimeout s
  | .mboxWake => Sys2Proof.Machine.execMboxWake s
  | .mboxWrite => Sys2Proof.Machine.execMboxWrite s
  | .mgmtStatusRead => Sys2Proof.Machine.execMgmtStatusRead s
  | .setdasa addr => Sys2Proof.Machine.execSetdasa addr s
  | .fabricSample buf => Sys2Proof.Machine.execFabricSample buf s
  | .colSignalRetry die slot => Sys2Proof.Machine.execColSignalRetry die slot s
  | .stackTrainingOverrun stack => Sys2Proof.Machine.execStackTrainingOverrun stack s
  | .msiXUnmask p v => Sys2Proof.Machine.execMsiXUnmask p v s

end Sys2Proof.Machine
end

