-- ==== Sys2Proof/Safety.lean ====
section
/-!
DEFINITION. What counts as a sound state of the module: the HBM's bytes in canonical form, a life cycle that stays on the permitted
transitions of R431, and core partitions that exist (R334).
-/

namespace Sys2Proof.Machine

/-- The record's life cycle is one of the four states, a pending transition is a permitted one, and LC_COUNT fits its byte (R430,
R431). -/
def LcLegal (r : Record) : Prop :=
  r.lcState ≤ 3 ∧ (r.pending = true → lcPermitted r.lcState r.pendingState = true) ∧ r.lcCount ≤ 255

/-- Every listed core belongs to one of the partitions 1 to 15; an unlisted core belongs to partition 0 (R334). -/
def PartsLegal (m : SMap Nat) : Prop := ∀ e ∈ m, e.2 ≤ 15

/-- The invariant that every command keeps. -/
structure Inv (s : State) : Prop where
  hbm : Memory.wf s.hbm = true
  lifecycle : LcLegal s.record
  parts : PartsLegal s.corePart

/-- A BAR0 write to a block-specific register arrives and meets no check of owner, gate or move (R21, R32, R35). -/
def writable (s : State) (p pg off : Nat) : Bool :=
  hubPowered s && (pageOwn s p pg || isTracePage pg) && (!gated s pg || aonReg pg off) && !(getPage s pg).moving

/-- Nothing waits for a channel's engine or for a test: no BAR4 access, no late write, no slot of an exchange or a collective, and no
context that a forced test puts back (R196, R211, R361). -/
structure NothingWaits (s : State) : Prop where
  bar4 : s.bar4Q = []
  late : s.late = []
  exchanges : ∀ d, d < 4 → (getIx s d).slots = [] ∧ (getCol s d).slots = []
  tests : ∀ e ∈ s.ctxs, ∀ v, e.2.saving = some v → v.after ≠ 5

/-- A command completes, and the state it leaves has a property. -/
def Runs (c : Instr) (s : State) (P : State → Prop) : Prop := ∃ t, exec c s = .next t ∧ P t

/-- A post of opcode `op` stands at the front of a context's queue and may be taken now (R339, R341). -/
def Front (s : State) (c op : Nat) (q : Post) (rest : List Post) : Prop :=
  (getCtx s c).posts = q :: rest ∧ postOp q.data = op ∧ (inDoze s = false ∨ alwaysOp op = true) ∧ bar4Waits s (ctxPart s c) = false

/-- The state right after the front post is taken: the post is gone, its credit is back and owed, and one event is counted. -/
def taken (s : State) (c : Nat) (rest : List Post) : State :=
  addEvent (returnCredit (modCtx s c (fun x => { x with posts := rest })) c) pgPost 1

/-- The reserved bits of a post are 0: in its header and in its body outside the ranges its opcode uses (R340). -/
def cleanPost (d : List Byte) (used : List (Nat × Nat)) : Bool := !(headReserved d || bodyReserved d used)

/-- The dispatch rows of the opcodes of Tables 26, 33, 42, 50, 52 and 58: engine, opcode, command. -/
def dispatchRows (core : CoreId) : List (Nat × Nat × Instr) :=
  [(0, 0, .seqNop core .dispatch), (0, 1, .jump core), (0, 2, .setloop core), (0, 3, .loop core), (0, 4, .branch core),
   (0, 5, .tdLoad core), (0, 6, .save core .dispatch), (0, 7, .halt core .dispatch), (1, 0, .mm core .dispatch),
   (1, 1, .mma core .dispatch), (2, 0, .opm core .dispatch), (2, 1, .opma core .dispatch), (3, 0, .cvt core .dispatch),
   (3, 1, .vxAdd core .dispatch), (3, 2, .vxSub core .dispatch), (3, 3, .vxMul core .dispatch), (3, 4, .vxFma core .dispatch),
   (3, 5, .scale core .dispatch), (3, 6, .argmax core .dispatch), (3, 7, .argmin core .dispatch),
   (3, 8, .rowsum core .dispatch), (3, 9, .exp core .dispatch), (3, 10, .log core .dispatch), (3, 11, .rsqrt core .dispatch),
   (3, 12, .recip core .dispatch), (3, 13, .tanh core .dispatch), (3, 14, .erf core .dispatch), (3, 15, .maxmin core .dispatch),
   (4, 0, .get core .dispatch), (4, 1, .put core .dispatch), (4, 2, .acc core .dispatch), (4, 3, .accOrd core .dispatch),
   (4, 4, .cmbOpen core .dispatch), (5, 0, .msSet core .dispatch), (5, 1, .msAdd core .dispatch),
   (5, 2, .msBinit core .dispatch), (5, 3, .msArrive core .dispatch), (5, 4, .msTwait core .dispatch)]

/-- The word, the tensor descriptor and the failing check of the instruction that comes next, where line `l` holds it (R153, R156). -/
def nextWord (s : State) (core : Nat) (l : Line) : Nat := memNum l.bytes ((nextTarget (getCore s core)).addr % 512) 16
def nextTd (s : State) (core : Nat) (l : Line) : List Nat :=
  let i := nextWord s core l
  if iEngine i == 0 then [] else tdWords (getCore s core) (iTd i) (if iEngine i == 4 then 16 else 8)
def nextFail (s : State) (core : Nat) (l : Line) : Option Code :=
  let t := nextTarget (getCore s core)
  let i := nextWord s core l
  firstFail (if t.st == 2 then [] else dispatchChecks s core i (nextTd s core l) (startedSt i t.st) t.run)

/-- The life cycle stays where it is or takes one permitted transition. -/
def LcMoves (a b : Nat) : Prop := b = a ∨ lcPermitted a b = true

/-- A sequencer instruction whose effect came at dispatch completes, and a waiting SAVE may go on (R154, R166). -/
def finishThen (s : State) (core : Nat) (e : WEnt) : State := afterSeq (finishEnt s core e) core

/-- An instruction's signal meets no milestone in BARRIER mode (R181). -/
def signalsFree (x : Core) (e : WEnt) : Prop := iSigMs e.ins = 63 ∨ (mileOf x (iSigMs e.ins)).barrier = false

/-- One packet has gone into the die fabric: a message sent from a die (R252). -/
def Puts (s t : State) (die : Nat) (m : Msg) : Prop :=
  t.fabric.packets = s.fabric.packets ++ [packetOf (msgFrom s die m) (msgTo s m) (.msg m) m]

/-- The core has not halted and holds no HALT, so a completing instruction ends no context. -/
def staysUp (x : Core) : Prop := x.halted = false ∧ ∀ e ∈ x.window, isSeqOp e 7 = false

/-- A request of an exchange stands at the interchange of die d. -/
structure IxComes (s : State) (idx typ d : Nat) (m : Msg) (b : IxMsg) : Prop where
  here : s.net[idx]? = some m
  body : m.body = .ix b
  typ : b.typ = typ
  request : m.resp = false
  die : m.dstDie = d

/-- It may be taken there: no fence has turned it away, the interchange does not refuse requests, and the checks of R188 pass. -/
structure IxTaken (s : State) (idx typ d : Nat) (m : Msg) (b : IxMsg) : Prop extends IxComes s idx typ d m b where
  code : m.code = 0
  admitted : ixShut s d b.ctx = false
  accepts : ctxAccepts (dropMsg s idx) m b.ctx = true

/-- The channels that a request of type typ reaches in its round serve (R196, R211). -/
def ixServes (s : State) (typ : Nat) (x : IxSlot) (b : IxMsg) : Bool :=
  let home := fun (g : Nat) => g / ixLocal x.words == b.srcRank
  match typ with
  | 1 => ixTableReady s x
  | 2 => ixSendReady s x b.srcRank && (!ixCombine x.words || ixCombReady s x home)
  | 3 => ixPartReady s 22 x b
  | 4 => ixCombReady s x home
  | 5 => ixPartReady s 24 x b
  | _ => true

/-- It is for slot k and for the round in progress, and what it reaches serves: every check of R306 passes. -/
structure IxArrives (s : State) (idx typ d k : Nat) (m : Msg) (b : IxMsg) : Prop extends IxTaken s idx typ d m b where
  slot : ixFind (dropMsg s idx) d b = some k
  round : b.round = (getIxSlot s d k).round
  live : (getIxSlot s d k).phase ≠ 0 ∧ (getIxSlot s d k).phase ≠ 6
  rank : b.srcRank < ixRanks (getIxSlot s d k).words
  serves : ixServes s b.typ (getIxSlot s d k) b = true

/-- The commands of an exchange's requests, by message type (Table 85). -/
def ixCommands (idx : Nat) : List (Nat × Instr) :=
  [(1, .ixCount idx), (2, .ixGrant idx), (3, .ixToken idx), (4, .ixReady idx), (5, .ixFetch idx), (7, .ixAbort idx)]

/-- An answer of an exchange stands at this chip. -/
structure IxBack (s : State) (idx typ : Nat) (m : Msg) (b : IxMsg) : Prop where
  here : s.net[idx]? = some m
  body : m.body = .ix b
  typ : b.typ = typ
  answer : m.resp = true

/-- It answers the request `r` that the interchange of die d has open. -/
structure IxAnswers (s : State) (idx typ d : Nat) (m : Msg) (b : IxMsg) (r : IxReq) : Prop extends IxBack s idx typ m b where
  die : ixOpenDie s m.req = some d
  serves : b.typ = 6 → fetchWaits s m = false
  open_ : (getIx s d).open_.find? (fun q => q.req == m.req) = some r

/-- The request is one of a round in progress, not an ABORT. -/
def ixLive (s : State) (d : Nat) (r : IxReq) : Prop :=
  r.typ ≠ 7 ∧ (getIxSlot s d r.slot).phase ≠ 0 ∧ (getIxSlot s d r.slot).phase ≠ 6

/-- The state right after an answered request of an interchange has ended; a congestion mark narrows its window (R262). -/
def ixAnswered (s : State) (idx d : Nat) (m : Msg) : State :=
  let s1 := (settleOut (dropMsg s idx) m.req).1
  let s2 := if m.mark then cwDecrease s1 (.ix (Fin.ofNat 4 d)) 2 else s1
  setIx s2 d { getIx s2 d with open_ := (getIx s1 d).open_.filter (fun r => r.req != m.req) }

/-- A request stands at the collective controller of die d. -/
structure ColComes (s : State) (idx typ d : Nat) (m : Msg) (b : ColMsg) : Prop where
  here : s.net[idx]? = some m
  body : m.body = .col b
  typ : b.typ = typ
  request : m.resp = false
  die : m.dstDie = d

/-- The channels that a request of type typ reaches serve (R196, R211). -/
def colServes (s : State) (typ d : Nat) (m : Msg) (b : ColMsg) : Bool :=
  match typ with
  | 2 => colWhen s (fun x b => !colLastCount x b || colPlaceReady s x) d b
  | 3 => colWhen s (fun x b => colRange s x (colBlockAt x b.srcRank) (min (64 * b.offset) (nth x.sendCounts b.srcRank))) d b
  | 4 => colPartReady s d m b
  | 10 => rangeReady s (ctxPart s b.ctx) (nth b.ext 0) (min 512 (nth b.ext 1))
  | _ => true

/-- It may be taken there: no fence has turned it away, the controller does not refuse requests, the checks of R188 pass, and what it
reaches serves. -/
structure ColTaken (s : State) (idx typ d : Nat) (m : Msg) (b : ColMsg) : Prop extends ColComes s idx typ d m b where
  code : m.code = 0
  admitted : colShut s d b.typ b.ctx = false
  accepts : ctxAccepts (dropMsg s idx) m b.ctx = true
  serves : colServes s b.typ d m b = true

/-- It is for slot k (R329). -/
structure ColArrives (s : State) (idx typ d k : Nat) (m : Msg) (b : ColMsg) : Prop extends ColTaken s idx typ d m b where
  slot : colFind (dropMsg s idx) d b = some k

/-- The commands of a collective's requests, by message type (Table 92). -/
def colCommands (idx : Nat) : List (Nat × Instr) :=
  [(1, .colReady idx), (2, .colCount idx), (3, .colGo idx), (4, .colPart idx), (7, .colArrive idx), (8, .colRelease idx),
   (9, .colAbort idx), (10, .colGetReq idx)]

/-- The message belongs to the slot's round, which is in progress, and its sender is a member. -/
def colNow (x : ColSlot) (b : ColMsg) : Prop := colAhead x b = 0 ∧ colLive x = true ∧ b.srcRank < colRanks x.words

/-- An answer stands at this chip. -/
structure ColBack (s : State) (idx typ : Nat) (m : Msg) (b : ColMsg) : Prop where
  here : s.net[idx]? = some m
  body : m.body = .col b
  typ : b.typ = typ
  answer : m.resp = true

/-- It concerns the collective controller of die d. -/
structure ColAnswers (s : State) (idx typ d : Nat) (m : Msg) (b : ColMsg) : Prop extends ColBack s idx typ m b where
  die : colOpenDie (dropMsg s idx) m b = some d
  serves : b.typ = 11 → getReady s d m b = true

/-- The state once an answer is taken; a congestion mark narrows the controller's window (R262). -/
def colTakenBack (s : State) (idx d : Nat) (m : Msg) : State :=
  let s0 := dropMsg s idx
  if m.mark then cwDecrease s0 (.col (Fin.ofNat 4 d)) m.cw else s0

/-- What a kerbside block from lo to hi computes: the row i of a gather or scatter, an optimiser step, or a simple operation
(R229 to R235). -/
def blockOut (s : State) (chan : ChanId) (c : CtxId) (w : List Nat) (lo hi i : Nat) : KOut :=
  if kGather w then kMove s chan c w lo hi i
  else if kOp w == 6 || kOp w == 7 then kOptimise s chan c w lo hi
  else kSimple s chan c w lo hi

/-- The begin of a collective's round: its phase and time, the READY of a ring to its predecessor, and the first work of its kind
(R316 to R322). -/
def colBegun (s : State) (die : DieId) (slot : Fin 16) : State × Option (Code × Nat) :=
  let x := getColSlot s die slot
  let w := x.words
  let phase := if colKind w == 4 || colKind w == 6 then 1 else if colReduces w then 2 else 3
  let s1 := setColSlot s die slot { x with phase := phase, startAt := s.odometer, waitAt := s.odometer }
  let s2 := if colRing w && colRanks w != 1 then colQueue s1 die slot 0 (colMsgTo s1 x (ringPrev w) 1 0 0 0 0 [] []) else s1
  colBegin s2 die slot

/-- The reduction of a part with this chip's own bytes: the state with the part taken off the kerbside engine's list, the bytes read
counted and the flags kept, and the sum (R324). -/
def reduceSum (s : State) (die : DieId) (chan : Nat) (q : Reduce) (rest : List Reduce) (b : ColMsg) (own : List Byte) :
    State × List Byte :=
  let w := (getColSlot s die q.slot).words
  let r := kRun (colFlush w) (colRed w) 0x3F800000 (if 4 ≤ colRed w then 8 else 4) b.payload own
  (modColSlot (bump64 (setCol s die { getCol s die with reduce := rest }) (pgKerb chan) 0x054 own.length) die q.slot
    (fun x => { x with flags := x.flags ||| r.2 }), r.1)

/-- The combine phase of an exchange begins: the rows of COMB_BUF of routes that name no expert are zeroed (R302). -/
def combineRows (s : State) (die : DieId) (slot : Fin 16) : State × Option (Code × Nat) :=
  let x := getIxSlot s die slot
  (List.range x.routes.length).foldl (fun (t : State × Option (Code × Nat)) i =>
    if t.2.isSome || (x.routes.getD i (0, 0)).2 < ixRanks x.words * ixLocal x.words then t else ixZeroRow t.1 die x i)
    (setIxSlot s die slot { x with phase := 5, readySent := true, combineAt := s.odometer }, none)

/-- No comparator that has fired wakes the module (R405). -/
def WakesNone (s : State) : Prop := ∀ k, k < 8 → (getCmp s k).fired = false ∨ (getCmp s k).wake = false

/-- A port after an optical check: runs of low received power by lane, the lanes of the transmitter whose bias is in range, and the
lanes requested without those of three low readings in a row (R437). -/
def opticalPort (x : Port) (bias power : BitVec 8) : Port :=
  let runs := (List.range 8).map (fun i => (i, if power.getLsbD i then look x.lowPower i 0 + 1 else 0))
  let dead := ((runs.filter (fun e => decide (3 ≤ e.2))).map (fun e => 2 ^ e.1)).sum
  { x with lowPower := runs, txGood := x.txGood &&& ~~~bias, laneReq := x.laneReq &&& ~~~(BitVec.ofNat 8 dead) }

/-- The state once the test x of site n has ended and its outcome is noted: the slice and the pass are recorded, the tile store of a
placed core without a context is cleared, and a failure is counted (R365, R434 to R436). -/
def testNoted (s : State) (n : Nat) (x : Test) (r : KatResult) : State :=
  let s1 : State := { s with hide := { s.hide with tests := s.hide.tests.filter (fun q => q.site != n) } }
  let s2 := noteSlice (modSite s1 n (fun y => { y with testing := false, kat := if r = .pass then s.odometer else y.kat })) x r
  let s3 := clearTested s2 n (getSite s2 n).logical false
  if r = .pass then s3 else noteKatFail s3 n

/-- The commands that never write a byte of the HBM and take no power away. -/
def leavesMemory (c : Instr) : Bool :=
  match c with
  | .lowWordRead .. | .milestoneViewRead .. | .telSelWrite .. | .telDepthRead .. | .poisonLogRead .. | .fmRead ..
  | .fmWrite .. | .fmInvalidate .. | .fmRetire .. | .fmPoison .. | .rlcFlushStart .. | .rlcFlushAll ..
  | .rlcFlushDone .. | .rtRead .. | .rtWrite .. | .rtCopy .. | .rtSwap .. | .rtClear .. | .rtOpDone ..
  | .holdWrite .. | .planOpen .. | .planApply .. | .planApplyDone .. | .capWWrite .. | .tokenDataWrite .. | .lcGo ..
  | .lcCheckDone .. | .replaceClr .. | .postArrival .. | .nop .. | .noticeArea .. | .window .. | .preempt ..
  | .flush .. | .kerbArm .. | .ixArm .. | .ixDisarm .. | .colArm .. | .colDisarm .. | .partSet .. | .cap ..
  | .fwLoad .. | .attest .. | .creditNotice .. | .noticeDequeue .. | .bar4Read .. | .perstDeassert ..
  | .fetchLineReturn .. | .lrFillDone .. | .lrDummyStepDown .. | .lrStop .. | .opFillDone .. | .opDummyStepDown ..
  | .opStop .. | .vxStop .. | .runAheadReturn .. | .laMissReturn .. | .cwWindowIncrease .. | .barrierArrival ..
  | .barrierRoundComplete .. | .grantLend .. | .residueExpiry .. | .kerbPause .. | .rlcFill .. | .maintWindowOpen ..
  | .maintWindowClose .. | .reservationGrant .. | .linkFlitReceive .. | .linkFlitSend .. | .transitPacket ..
  | .arrivalPacket .. | .portRetrain .. | .lightOn .. | .lightLoss .. | .trainStepDone .. | .identReceive ..
  | .trainTimeout .. | .trainRetry .. | .laneFail .. | .widthChangeDone .. | .syncRequest .. | .syncReply ..
  | .timeLost .. | .colReady .. | .colArrive .. | .colGetReq .. | .roadblockHalfBudget .. | .resetComplete ..
  | .contextStall .. | .watchdogMiss .. | .katStart .. | .katForced .. | .standInMoveDone ..
  | .shadowRunDone .. | .fault24hExpiry .. | .powerMeasure .. | .grantAllocate .. | .poolSplit ..
  | .islandRampStep .. | .sensorRead .. | .thermTripRelease .. | .powerUp .. | .comparatorFire ..
  | .dozeExitDone .. | .identityCheck .. | .hbmTrainingDone .. | .reservedZeroDone .. | .fwVerifyDone ..
  | .firmwareStart .. | .readySend .. | .opticalCheck .. | .sensorCheck .. | .vinMonitorCheck .. | .mboxSubmit ..
  | .mboxNop .. | .mboxCap .. | .mboxRead .. | .mboxReadTimeout .. | .mboxWake .. | .mboxWrite ..
  | .mgmtStatusRead .. | .setdasa .. | .fabricSample .. | .msiXUnmask .. => true
  | _ => false

end Sys2Proof.Machine
end

