-- ==== Sys2Proof/Certificates/Slice0/Obligations.lean ====
section
/-!
DEFINITION. What the provers are asked to prove: the statements of OBLIGATIONS.json, in its order.
-/
open Sys2Proof Sys2Proof.Machine

/-! ### The whole module -/

/-- The queue's rule: a step runs the command at the front of the queue on the state with the queue's rest. With an empty queue, and
where nothing waits for a channel's engine no byte of the HBM changes; and where no packet is under way in the die fabrics either, time
alone passes, and only while the input is powered: of the pages only those of the hub bridges, whose traffic the model leaves free,
may count (the model's choice, notes/assumptions/6.md and 8.md). -/
def Obligations.StepRunsFront : Prop :=
  ∀ (c : Instr) (rest : List Instr) (s : State),
    (s.pending = c :: rest → step s = exec c { s with pending := rest }) ∧
    (s.pending = [] → ∃ t, step s = .next t ∧ t.pending = [] ∧
      (NothingWaits s → t.hbm = s.hbm ∧ t.record = s.record ∧
        (s.fabric.packets = [] → s.odometer ≤ t.odometer ∧ t.odometer ≤ s.odometer + 2 ∧
          (s.power.state = .off → t.odometer = s.odometer) ∧ t.fabric.packets = [] ∧ t.net = s.net ∧
          (∀ pg, (∀ d, d < 4 → pg ≠ pgBridge (3 * d + 2)) → getPage t pg = getPage s pg) ∧
          t.power = s.power ∧ t.ports = s.ports ∧ t.hostLog = s.hostLog)))

/-- The state right after reset is sound, its queue is empty, the module is without power, and the registers read what the tables
of the spec give for reset. -/
def Obligations.ResetState : Prop :=
  Inv State.reset ∧ State.reset.pending = [] ∧ State.reset.hbm = [] ∧ State.reset.power.state = .off ∧ State.reset.power.cap = 1600 ∧
    ilSplit State.reset = 32 ∧ regOf State.reset pgAon 0x058 = 1000 ∧ regOf State.reset (pgFabric 0) 0x044 = 0x40404020 ∧
    (∀ c, (getCtx State.reset c).state = .free ∧ (getCtx State.reset c).posts = []) ∧
    (∀ k, getCore State.reset k = {}) ∧ (getCmp State.reset 7).en = true ∧ (getCmp State.reset 7).wake = true

/-- Every command keeps the invariant: the HBM's bytes stay in canonical form, the life cycle stays on the transitions of R431,
and every core belongs to a partition that exists. -/
def Obligations.InvariantStep : Prop := ∀ s t : State, Inv s → step s = .next t → Inv t

/-- No command reads or changes the queue of commands that wait: a step takes exactly one. -/
def Obligations.QueueFrame : Prop := ∀ (c : Instr) (s t : State), exec c s = .next t → t.pending = s.pending

/-- R430, R431, R334: the life-cycle state and the identity change at the end of POWER alone, along one permitted transition; a
pending transition comes from a token check alone; and the cores' partitions change by PART_SET alone, but for a loss of power,
which clears them. -/
def Obligations.GuardedState : Prop :=
  ∀ (c : Instr) (s t : State), exec c s = .next t →
    (Inv s → LcMoves s.record.lcState t.record.lcState) ∧
    (c ≠ .bringupPowerDone → (∀ h d, c ≠ .bringupOverrun h d) →
      t.record.lcState = s.record.lcState ∧ t.record.identity = s.record.identity ∧
      (c ≠ .lcCheckDone → t.record.pending = s.record.pending ∧ t.record.pendingState = s.record.pendingState ∧
        t.record.lcCount = s.record.lcCount)) ∧
    ((∀ k, c ≠ .partSet k) → t.corePart = s.corePart ∨ (leavesMemory c = false ∧ t.corePart = []))

/-- The commands that leavesMemory names (register and port operations other than stores, posts that only arm or signal, training,
measurements, timers and the management interface), and a heartbeat of a processor that is not restarting, change no byte of the
HBM. -/
def Obligations.MemoryUnwritten : Prop :=
  ∀ (c : Instr) (s t : State), leavesMemory c = true ∨ (∃ k : Fin 5, c = .heartbeat k ∧ restarting s k = false) →
    exec c s = .next t → t.hbm = s.hbm

/-! ### Control pages (chapter 2) -/

/-- R33: a write to an address of BAR0 in no page is discarded and counted in STRAY, whatever command brings it; a read of one
returns 0 and changes nothing else. -/
def Obligations.OutsidePages : Prop :=
  ∀ (p : PartId) (off : Bar0) (size : Nat) (val : Word) (s : State), hubPowered s = true → blkOf (off.toNat / 4096) = none →
    exec (.strayBar0Write p off val) s = .next (bump32 s pgPcie 0x048 1) ∧
    exec (.registerWrite p off size val) s = .next (bump32 s pgPcie 0x048 1) ∧
    exec (.lowWordWrite p off val) s = .next (bump32 s pgPcie 0x048 1) ∧
    exec (.highWordWrite p off val) s = .next (bump32 s pgPcie 0x048 1) ∧
    exec (.resourceEnableWrite p off val) s = .next (bump32 s pgPcie 0x048 1) ∧
    (∀ n, exec (.lowWordRead p ⟨false, off, n⟩) s = .next { s with rdata := 0 })

/-- R45: a write of BAR2 beyond the 256 apertures is discarded, and every read of BAR2 returns 0; neither changes anything else. -/
def Obligations.Bar2Outside : Prop :=
  ∀ (p : PartId) (c : CtxId) (off : BitVec 16) (data : List Byte) (s : State), hubPowered s = true →
    (4096 ≤ off.toNat → exec (.postArrival p c off data) s = .next s) ∧
    (∀ (at_ : Bar0) (n : Nat), exec (.lowWordRead p ⟨true, at_, n⟩) s = .next { s with rdata := 0 })

/-- R37, R41 and R36: a REJECT_CLR empties BLK_REJECT; a write of BLK_NOTICE_MASK takes the mask, and one that unmasks a pending
cause sends one notice with the causes newly unmasked. Nothing else changes. -/
def Obligations.HeaderCommands : Prop :=
  ∀ (p : PartId) (page : BitVec 14) (b : Blk) (val : Word) (s : State),
    hubPowered s = true → blkOf page.toNat = some b → pageOwn s p page.toNat = true →
    exec (.rejectClr p page 0) s =
      .next (modPage s page.toNat (fun x => { x with rejCode := 0, rejOff := 0, rejCount := 0 })) ∧
    ((getPage s page.toNat).mask &&& ~~~val &&& (getPage s page.toNat).pend = 0 →
      exec (.noticeMaskWrite p page val) s = .next (modPage s page.toNat (fun x => { x with mask := val }))) ∧
    ((getPage s page.toNat).mask &&& ~~~val &&& (getPage s page.toNat).pend ≠ 0 →
      exec (.noticeMaskWrite p page val) s =
        .next (blockNotice (modPage s page.toNat (fun x => { x with mask := val })) page.toNat
          ((getPage s page.toNat).mask &&& ~~~val &&& (getPage s page.toNat).pend).toNat))

/-- R40: RELEASE by partition 0 frees a page's shared resource: a trace buffer is no longer enabled, ALERT# is no longer enabled,
and the comparator that CMP_SEL selects loses its holder; every other comparator and buffer stays. R39, R40, R458: partition 0
takes ALERT# by its enable when nobody holds it, and is refused with HELD when the management interface holds it. -/
def Obligations.SharedResources : Prop :=
  (∀ s : State, hubPowered s = true →
     (∀ i, i < 4 → Runs (.release 0 (BitVec.ofNat 14 (7 + i)) 0) s (fun t =>
       (getPage t (pgTrace i)).owner = none ∧ trEnabled (getTrace t i) = false ∧
       (∀ j, j ≠ i → getTrace t j = getTrace s j) ∧ t.power = s.power ∧ t.mgmt = s.mgmt)) ∧
     Runs (.release 0 4 0) s (fun t => (getPage t pgQmc).owner = none ∧ t.mgmt.alertEn = false ∧ t.traces = s.traces) ∧
     Runs (.release 0 5 0) s (fun t => (getCmp t s.power.cmpSel).owner = none ∧
       (∀ k, k ≠ s.power.cmpSel → getCmp t k = getCmp s k) ∧ t.traces = s.traces)) ∧
  (∀ (off : Bar0) (sel : BitVec 8) (s : State), off.toNat = pgQmc * 4096 + 0x064 → writable s 0 pgQmc 0x064 = true →
     ((getPage s pgQmc).owner = none →
       Runs (.resourceEnableWrite 0 off (BitVec.ofNat 32 (2 ^ 31 + sel.toNat))) s (fun t =>
         t.mgmt.alertEn = true ∧ t.mgmt.alertSel = sel ∧ t.mgmt.alertPend = s.mgmt.alertPend ∧
         (getPage t pgQmc).owner = some (0, 1))) ∧
     ((getPage s pgQmc).owner = some (0, 2) →
       exec (.resourceEnableWrite 0 off (BitVec.ofNat 32 (2 ^ 31 + sel.toNat))) s = .next (reject s pgQmc 0x064 .held)))

/-- R30: a write that is not one whole aligned word is rejected with ALIGN at the word that holds its first byte, and does nothing
else. R32, R35, R21, R36: a write to a block-specific register of a core page by a partition that does not own the core is
rejected with NOT_OWNER, one to a gated page of the own core with FENCED; neither reaches the register. -/
def Obligations.WritesTurnedAway : Prop :=
  (∀ (p : PartId) (off : Bar0) (size : Nat) (val : Word) (s : State), hubPowered s = true →
     (∀ b, blkOf (off.toNat / 4096) = some b → size ≠ 4 ∨ off.toNat % 4 ≠ 0 →
       exec (.registerWrite p off size val) s =
         .next (reject s (off.toNat / 4096) (off.toNat % 4096 - off.toNat % 4096 % 4) .align))) ∧
  (∀ (p : PartId) (core : CoreId) (off : Bar0) (val : Word) (s : State), hubPowered s = true →
     (off.toNat = pgCore core * 4096 + 0x404 ∨ off.toNat = pgCore core * 4096 + 0x188) →
     (pageOwn s p (pgCore core) = false →
       exec (.registerWrite p off 4 val) s = .next (reject s (pgCore core) (off.toNat % 4096) .notOwner)) ∧
     (pageOwn s p (pgCore core) = true → gated s (pgCore core) = true →
       exec (.registerWrite p off 4 val) s = .next (reject s (pgCore core) (off.toNat % 4096) .fenced)))

/-- R173, R148, R410: an accepted write of ISL_LIMIT (1 to 64) and, while the core is not RUNNING, of SR_STATE (not 0) takes the
value; R173: VALID of FR_STAT written as 1 empties the fault record. Nothing else changes. -/
def Obligations.CoreRegisterWrites : Prop :=
  ∀ (p : PartId) (core : CoreId) (off : Bar0) (val : Word) (s : State), writable s p (pgCore core) 0x330 = true →
    (off.toNat = pgCore core * 4096 + 0x404 → 1 ≤ val.toNat → val.toNat ≤ 64 →
      exec (.registerWrite p off 4 val) s = .next (modCore s core (fun x => { x with islLimit := val.toNat }))) ∧
    (off.toNat = pgCore core * 4096 + 0x188 → val ≠ 0 → coreBusy s core = false →
      exec (.registerWrite p off 4 val) s = .next (modCore s core (fun x => { x with srState := val, srSeen := val }))) ∧
    exec (.frClear p core) s = .next (modCore s core (fun x => { x with fr := {} })) ∧
    Runs (.laInvalidate p core) s (fun t => (getCore t core).look = [] ∧ t.hbm = s.hbm)

/-- R38: the low word of SEQ_PC is staged and changes no register; the high word that follows applies both at once, and without a
staged low word it is rejected with SEQUENCE. R38 and R178: a read of the low word of the odometer answers it and latches the high
word, and a read of a milestone's VALUE word answers it and latches the milestone's other three; no register changes. -/
def Obligations.PairedRegisters : Prop :=
  (∀ (p : PartId) (core : CoreId) (lo hi : Bar0) (val : Word) (s : State),
     lo.toNat = pgCore core * 4096 + 0x308 → hi.toNat = pgCore core * 4096 + 0x30C →
     writable s p (pgCore core) 0x308 = true → coreBusy s core = false →
     (val.toNat % 16 = 0 → Runs (.lowWordWrite p lo val) s (fun t =>
       look (getPage t (pgCore core)).stage (16 * 0x308 + p) none = some val ∧ t.cores = s.cores)) ∧
     (val.toNat < 256 → look (getPage s (pgCore core)).stage (16 * 0x308 + p) none = none →
       exec (.highWordWrite p hi val) s = .next (reject s (pgCore core) 0x30C .sequence)) ∧
     (∀ w, val.toNat < 256 → look (getPage s (pgCore core)).stage (16 * 0x308 + p) none = some w →
       Runs (.highWordWrite p hi val) s (fun t => (getCore t core).pc = w.toNat + 2 ^ 32 * val.toNat ∧
         (∀ j, j ≠ core.val → getCore t j = getCore s j) ∧
         look (getPage t (pgCore core)).stage (16 * 0x308 + p) none = none))) ∧
  (∀ (p : PartId) (core : CoreId) (ms : Fin 48) (off : Bar0) (s : State), hubPowered s = true →
     (p.val = 0 → off.toNat = pgOdo * 4096 + 0x040 → Runs (.lowWordRead p ⟨false, off, 4⟩) s (fun t =>
       t.rdata = BitVec.ofNat 32 (s.odometer % 2 ^ 32) ∧
       look (getPage t pgOdo).latch (16 * 0x040) none = some (BitVec.ofNat 32 (s.odometer / 2 ^ 32 % 2 ^ 32)) ∧
       t.cores = s.cores ∧ t.odometer = s.odometer)) ∧
     (pageOwn s p (pgCore core) = true → gated s (pgCore core) = false → Runs (.milestoneViewRead p core ms) s (fun t =>
       t.rdata = BitVec.ofNat 32 (mileWords (getCore s core) ms).1 ∧
       look (getPage t (pgCore core)).view (16 * ms + p) none =
         some (BitVec.ofNat 32 (mileWords (getCore s core) ms).2.1, BitVec.ofNat 32 (mileWords (getCore s core) ms).2.2.1,
           BitVec.ofNat 32 (mileWords (getCore s core) ms).2.2.2) ∧
       t.cores = s.cores)))

/-! ### Memory, fabric, routing and resets by register (chapters 10, 13, 14, 19 to 22) -/

/-- R220: an accepted write of FM_CTL begins the operation on the frame that FM_FRAME names, with the entry that FM_ENTRY holds, and
FM_STAT reads BUSY from then on; while one runs, another is rejected with BUSY. Nothing else changes. R203: the poisons that wait run
before it. R202, R211: the operation does not end while a request placed in its frame is under way or a channel that it reaches does
not serve. R220: when it ends, with no poison left before it, FM_STAT is not
BUSY and holds its code: READ leaves the entry in FM_ENTRY; INVALIDATE makes the entry 0 (the model's choice,
notes/assumptions/127.md); RETIRE makes a VALID entry RETIRED and answers WRONG_STATE otherwise. No other frame's entry changes. An
operation whose words of the maps cannot be read or written fails with that access's code and changes no entry (the model's choice,
notes/assumptions/127.md). -/
def Obligations.FrameMapPort : Prop :=
  (∀ (p : PartId) (zero : Bool) (s : State), writable s p fmPage 0x114 = true →
     (s.fm.op = none →
       (let begun := fun (op : Nat) (z : Bool) => ({ s with fm := { s.fm with op := some {
           op := op, zero := z, frame := regOf s fmPage 0x108, entry := reg64 s fmPage 0x10C, start := s.odometer,
           before := s.fm.poisonQ.length } } } : State)
        exec (.fmRead p false) s = .next (begun 1 false) ∧
        exec (.fmInvalidate p false) s = .next (begun 3 false) ∧
        exec (.fmRetire p false) s = .next (begun 4 false) ∧
        (fmEntryBad s (reg64 s fmPage 0x10C) = false → exec (.fmWrite p zero) s = .next (begun 2 zero)) ∧
        (fmEntryBad s (reg64 s fmPage 0x10C) = true → exec (.fmWrite p zero) s = .next (reject s fmPage 0x114 .badField)))) ∧
     (s.fm.op ≠ none →
       exec (.fmRead p false) s = .next (reject s fmPage 0x114 .busy) ∧
       exec (.fmInvalidate p false) s = .next (reject s fmPage 0x114 .busy) ∧
       exec (.fmRetire p false) s = .next (reject s fmPage 0x114 .busy))) ∧
  (∀ (o : FmOp) (s : State), s.fm.op = some o →
     (o.before ≠ 0 → poisonReady s = false → exec .fmOpDone s = .next s) ∧
     (o.before = 0 → frameInUse s o.frame = true ∨ fmReady s o = false → exec .fmOpDone s = .next s)) ∧
  (∀ (o : FmOp) (c : Code) (s : State), s.fm.op = some o → o.before = 0 → frameInUse s o.frame = false → fmReady s o = true →
     (fmWords s o).findSome? (mapFail s) = some c → exec .fmOpDone s = .next { s with fm := { s.fm with op := none, code := c.num } }) ∧
  (∀ (o : FmOp) (s : State), s.fm.op = some o → o.before = 0 → frameInUse s o.frame = false → fmReady s o = true →
     (fmWords s o).findSome? (mapFail s) = none → Runs .fmOpDone s (fun t => t.fm.op = none ∧
       (o.op = 1 → t.fm.code = 0 ∧ t.fm.entries = s.fm.entries ∧
         (frameEntry s o.frame < 2 ^ 64 → reg64 t fmPage 0x10C = frameEntry s o.frame)) ∧
       (o.op = 3 → t.fm.code = 0 ∧ frameEntry t o.frame = 0 ∧ ∀ f, f ≠ o.frame → frameEntry t f = frameEntry s f) ∧
       (o.op = 4 → feState (frameEntry s o.frame) = 1 →
         t.fm.code = 0 ∧ frameEntry t o.frame = frameEntry s o.frame + 1 ∧ ∀ f, f ≠ o.frame → frameEntry t f = frameEntry s f) ∧
       (o.op = 4 → feState (frameEntry s o.frame) ≠ 1 → t.fm.code = 3 ∧ t.fm.entries = s.fm.entries)))

/-- R206, R220: reading the poison log as partition 0 answers and removes its oldest frame and clears the overflow flag; another
partition reads 0 and removes nothing. R206: FM_POISON marks the entry of the queue's first frame POISONED when the entry is VALID,
still claims the frame that failed, can be read and written and is not marked yet; it appends the frame to the log of 64, or notes
the overflow. It waits while a request placed in the frame is under way or the entry's channel does not serve (R202, R211). -/
def Obligations.PoisonLog : Prop :=
  (∀ (p : PartId) (s : State),
     (p.val = 0 → gated s fmPage = false → Runs (.poisonLogRead p) s (fun t =>
       t.fm.log = s.fm.log.tail ∧ t.fm.logOver = false ∧ t.fm.entries = s.fm.entries ∧
       (s.fm.log = [] → t.rdata = BitVec.ofNat 32 (bit s.fm.logOver * 2 ^ 30)) ∧
       (∀ f rest, s.fm.log = f :: rest → t.rdata = BitVec.ofNat 32 (2 ^ 31 + f + bit s.fm.logOver * 2 ^ 30)))) ∧
     (p.val ≠ 0 → exec (.poisonLogRead p) s = .next { s with rdata := 0 })) ∧
  (∀ (s : State), poisonReady s = false → exec .fmPoison s = .next s) ∧
  (∀ (f i : Nat) (rest : List (Nat × Nat)) (s : State), s.fm.op = none → s.fm.poisonQ = (f, i) :: rest → poisonReady s = true →
     Runs .fmPoison s (fun t => t.fm.poisonQ = rest ∧
       (s.fm.log.length < 64 → t.fm.log = s.fm.log ++ [f] ∧ t.fm.logOver = s.fm.logOver) ∧
       (64 ≤ s.fm.log.length → t.fm.log = s.fm.log ∧ t.fm.logOver = true) ∧
       (feState (frameEntry s f) = 1 → claimIndex (ilSplit s) (frameEntry s f) = i → mapFail s (entryAddr f) = none →
         fePoison (frameEntry s f) = false →
         frameEntry t f = frameEntry s f + 32) ∧
       (feState (frameEntry s f) ≠ 1 → frameEntry t f = frameEntry s f) ∧
       (∀ g, g ≠ f → frameEntry t g = frameEntry s g)))

/-- R217, R218: a FLUSH of a remote-line cache drops every line of its range at once and is BUSY until it ends; FLUSH_ALL takes
every line. The end clears BUSY and counts one event. -/
def Obligations.RemoteLineFlush : Prop :=
  ∀ (p : PartId) (die : DieId) (s : State),
    (writable s p (pgRlc die) 0x04C = true → (getRlc s die).flush = none →
      rlcBase s die + 128 * rlcLines s die ≤ 2 ^ 40 → Runs (.rlcFlushStart p die) s (fun t =>
        (getRlc t die).flush = some { lo := rlcBase s die / 128, hi := rlcBase s die / 128 + rlcLines s die } ∧
        (getRlc t die).lines = (getRlc s die).lines.filter (fun l =>
          !decide (rlcBase s die / 128 ≤ l.line ∧ l.line < rlcBase s die / 128 + rlcLines s die)) ∧
        (∀ d, d ≠ die.val → getRlc t d = getRlc s d) ∧ t.hbm = s.hbm)) ∧
    (writable s p (pgRlc die) 0x04C = true → (getRlc s die).flush = none → Runs (.rlcFlushAll p die) s (fun t =>
        (getRlc t die).flush = some { lo := 0, hi := 2 ^ 33 } ∧
        (getRlc t die).lines = (getRlc s die).lines.filter (fun l => !decide (0 ≤ l.line ∧ l.line < 2 ^ 33)) ∧
        (∀ d, d ≠ die.val → getRlc t d = getRlc s d) ∧ t.hbm = s.hbm)) ∧
    (∀ f, (getRlc s die).flush = some f → f.post = none → (getRlc s die).waiting = [] → Runs (.rlcFlushDone die) s (fun t =>
        (getRlc t die).flush = none ∧ (getRlc t die).lines = (getRlc s die).lines ∧
        (getPage t (pgRlc die)).events = sat32 (getPage s (pgRlc die)).events 1))

/-- R271: a write of TEL_SEL that names a stop takes the value and starts the telemetry counts of the die again; a read of TEL_DEPTH
answers the largest depth since the last read, and starts it again, to the one who may read the page, and 0 to another. -/
def Obligations.Telemetry : Prop :=
  ∀ (p : PartId) (die : DieId) (val : Word) (s : State),
    (writable s p (pgFabric die) 0x050 = true → val.toNat < 2 ^ 17 → stopOk (bitOf val.toNat 16) (val.toNat % 65536) = true →
      Runs (.telSelWrite p die val) s (fun t => regOf t (pgFabric die) 0x050 = val.toNat ∧
        (∀ o, o ∈ [0x054, 0x058, 0x05C, 0x060, 0x064] → fabricRead t die o = 0) ∧
        (∀ o, o ≠ 0x050 → regOf t (pgFabric die) o = regOf s (pgFabric die) o) ∧
        (∀ d, d ≠ die.val → getTel t d = getTel s d) ∧ t.fabric.packets = s.fabric.packets ∧ t.routes = s.routes)) ∧
    (pageOwn s p (pgFabric die) = true → gated s (pgFabric die) = false → Runs (.telDepthRead p die) s (fun t =>
        t.rdata.toNat = (getTel s die).depth % 32 ∧ getTel t die = { getTel s die with depth := 0 } ∧
        (∀ d, d ≠ die.val → getTel t d = getTel s d) ∧ t.pages = s.pages ∧ t.fabric.packets = s.fabric.packets)) ∧
    (pageOwn s p (pgFabric die) = false → exec (.telDepthRead p die) s = .next { s with rdata := 0 })

/-- R263: an accepted write of RT_CTL begins READ, WRITE, COPY, SWAP or CLEAR with the index, bank and data that RT_INDEX and
RT_DATA hold; while one runs another is rejected with BUSY. Nothing else changes. R263, R264: an operation's end clears BUSY and
gives its code: READ leaves the entry in RT_DATA; WRITE changes the standby bank at its index alone; COPY makes the standby bank
the active one's copy; CLEAR empties it; SWAP exchanges the banks only while HOLD is set and no request is outstanding, and
answers WRONG_STATE otherwise. The active bank changes by SWAP alone. -/
def Obligations.RoutingPort : Prop :=
  (∀ (p : PartId) (die : DieId) (s : State), writable s p (pgRoute die) 0x108 = true →
     (let begun := fun (op : Nat) => setRoute s die { getRoute s die with op := some {
         op := op, index := regOf s (pgRoute die) 0x100 % 65536, bank := bitOf (regOf s (pgRoute die) 0x100) 16,
         data := regOf s (pgRoute die) 0x104 } }
      ((getRoute s die).op = none →
         exec (.rtRead p die) s = .next (begun 1) ∧ exec (.rtWrite p die) s = .next (begun 2) ∧
         exec (.rtCopy p die) s = .next (begun 3) ∧ exec (.rtSwap p die) s = .next (begun 4) ∧
         exec (.rtClear p die) s = .next (begun 5)) ∧
      ((getRoute s die).op ≠ none →
         exec (.rtRead p die) s = .next (reject s (pgRoute die) 0x108 .busy) ∧
         exec (.rtWrite p die) s = .next (reject s (pgRoute die) 0x108 .busy) ∧
         exec (.rtSwap p die) s = .next (reject s (pgRoute die) 0x108 .busy)))) ∧
  (∀ (die : DieId) (o : RtOp) (s : State), (getRoute s die).op = some o →
     Runs (.rtOpDone die) s (fun t => (getRoute t die).op = none ∧
       (o.op ≠ 4 → activeBank (getRoute t die) = activeBank (getRoute s die)) ∧
       (o.op = 1 → o.bank = false → (getRoute t die).code = 0 ∧
         regOf t (pgRoute die) 0x104 = look (activeBank (getRoute s die)) o.index 0 % 2 ^ 32) ∧
       (o.op = 2 → badEntry o.data = false → (getRoute t die).code = 0 ∧
         look (standbyBank (getRoute t die)) o.index 0 = o.data ∧
         ∀ i, i ≠ o.index → look (standbyBank (getRoute t die)) i 0 = look (standbyBank (getRoute s die)) i 0) ∧
       (o.op = 2 → badEntry o.data = true → (getRoute t die).code = 1 ∧
         standbyBank (getRoute t die) = standbyBank (getRoute s die)) ∧
       (o.op = 3 → standbyBank (getRoute t die) = activeBank (getRoute s die)) ∧
       (o.op = 5 → standbyBank (getRoute t die) = []) ∧
       (o.op = 4 → (getRoute s die).hold = true → outstanding s die = 0 →
         (standbyBank (getRoute s die)).any (fun e => badRoute s e.2) = false →
         (getRoute t die).code = 0 ∧ activeBank (getRoute t die) = standbyBank (getRoute s die)) ∧
       (o.op = 4 → (getRoute s die).hold = false ∨ outstanding s die ≠ 0 →
         (standbyBank (getRoute s die)).any (fun e => badRoute s e.2) = false →
         (getRoute t die).code = 3 ∧ activeBank (getRoute t die) = activeBank (getRoute s die))))

/-- R264: an accepted HOLD write takes the bit. R280: a plan opens with PLAN_ID plus its open bit while every die holds; its
closing write takes the new identity, starts the identity exchange on every trained port, and makes a port without light ABSENT where
it is planned and DARK elsewhere; BUSY clears when every port has been checked, and at the latest when 1 ms has passed. -/
def Obligations.HoldAndPlan : Prop :=
  ∀ (p : PartId) (die : DieId) (val : Word) (s : State),
    (writable s p (pgRoute die) 0x110 = true →
      exec (.holdWrite p die true) s = .next (setRoute s die { getRoute s die with hold := true }) ∧
      ((getIx s die).outbox = [] → (getCol s die).outbox = [] →
        exec (.holdWrite p die false) s = .next (setRoute s die { getRoute s die with hold := false })) ∧
      Runs (.holdWrite p die false) s (fun t => t.pending = s.pending ∧ t.hbm = s.hbm)) ∧
    (writable s p (pgPort 0) 0x108 = true → planOpen s = false → planBusy s = false →
      val.toNat = regOf s (pgPort 0) 0x108 + 1 → outside val.toNat planMask = false →
      bitOf val.toNat 0 = true → (∀ d, d < 4 → (getRoute s d).hold = true) →
      exec (.planOpen p val) s = .next (setReg s (pgPort 0) 0x108 val.toNat)) ∧
    (writable s p (pgPort 0) 0x108 = true → planOpen s = true → outside val.toNat planMask = false → bitOf val.toNat 0 = false →
      Runs (.planApply p val) s (fun t => regOf t (pgPort 0) 0x108 = val.toNat ∧ planBusy t = true ∧
        ∀ q, q < 32 →
          ((getPort s q).tstate = 4 ∨ (getPort s q).tstate = 5 ∨ (getPort s q).tstate = 6 →
            (getPort t q).identOut = true ∧ (getPort t q).identChecked = false) ∧
          ((getPort s q).tstate = 0 ∨ (getPort s q).tstate = 7 → (getPort t q).tstate = if portUse t q then 7 else 0))) ∧
    (planBusy s = true → planOpen s = false → passed s s.time.planAt msNs = true →
      Runs .planApplyDone s (fun t => planBusy t = false)) ∧
    (planBusy s = true → planOpen s = false → (∀ q, q < 32 → (getPort s q).tstate = 4 ∨ (getPort s q).tstate = 5 ∨ (getPort s q).tstate = 6 →
        (getPort s q).identChecked = true) →
      exec .planApplyDone s = .next (setReg s (pgPort 0) 0x10C 0))

/-- R398: an accepted CAP_W from 500 to 2,000 W becomes the cap, and one outside is rejected with BAD_FIELD. R397: of two cap
commands in the same cycle the lower stands, and the tie is counted. R430 to R432:
TOKEN_DATA fills the token word by word; LC_GO starts the check while none runs; a check that passes leaves the transition
pending, counts it and answers code 0, and one that fails answers its code and changes no record; REPLACE_CLR clears REPLACE and
its CAUSE in RETURN, and is rejected with LIFECYCLE elsewhere. -/
def Obligations.SecurityCommands : Prop :=
  (∀ (p : PartId) (val : Word) (s : State), writable s p pgQpc 0x040 = true → val.toNat < 2048 →
     (500 ≤ val.toNat → val.toNat ≤ 2000 → capTied s = false → Runs (.capWWrite p val) s (fun t =>
       t = { s with power := t.power } ∧ t.power.cap = val.toNat ∧ t.power.comps = s.power.comps ∧ t.power.vIn = s.power.vIn)) ∧
     (500 ≤ val.toNat → val.toNat ≤ 2000 → capTied s = true → Runs (.capWWrite p val) s (fun t =>
       t.power.cap = min s.power.cap val.toNat ∧ (getPage t pgQpc).ties = sat32 (getPage s pgQpc).ties 1)) ∧
     (val.toNat < 500 ∨ 2000 < val.toNat → exec (.capWWrite p val) s = .next (reject s pgQpc 0x040 .badField))) ∧
  (∀ (p : PartId) (val : Word) (s : State),
     (writable s p pgQsc 0x060 = true → s.qsc.tokenSel ≤ 33 → Runs (.tokenDataWrite p val) s (fun t =>
       look t.qsc.token s.qsc.tokenSel 0 = val ∧ t.qsc.tokenSel = s.qsc.tokenSel + 1 ∧ t.record = s.record)) ∧
     (writable s p pgQsc 0x064 = true → s.qsc.busy = false →
       exec (.lcGo p) s = .next { s with qsc := { s.qsc with busy := true } }) ∧
     (writable s p pgQsc 0x064 = true → s.qsc.busy = true → exec (.lcGo p) s = .next (reject s pgQsc 0x064 .busy)) ∧
     (s.qsc.busy = true → exec .lcCheckDone s = .next (match lcFail s with
       | none => { s with
           record := { s.record with pending := true, pendingState := s.qsc.target, lcCount := s.record.lcCount + 1 },
           qsc := { s.qsc with busy := false, code := 0 } }
       | some c => { s with qsc := { s.qsc with busy := false, code := c.num } })) ∧
     (writable s p pgQsc 0x064 = true → s.record.lcState = 3 →
       exec (.replaceClr p) s = .next { s with record := { s.record with replace := false, cause := 0 } }) ∧
     (writable s p pgQsc 0x064 = true → s.record.lcState ≠ 3 → exec (.replaceClr p) s = .next (reject s pgQsc 0x064 .lifecycle)))

/-! ### Host interface (chapter 17) -/

/-- R337 to R339: a post that passes the arrival checks in a powered hub, while its function's PARTITION reset does not stand, is
accepted: EXP_SEQ advances; a NOP completes at once,
without a credit, with one event counted; any other defined post takes a credit and queues, and with an empty queue before it is
the context's only waiting post. R337, R338: a post that fails an arrival check other than the alignment is answered by a REJECT
notice with that code, SEQ, COOKIE, and EXP_SEQ and the credits in ARG1; it changes nothing else. R352, R389: while the hub or the function's partition is in reset a post is discarded and counted in
STRAY. -/
def Obligations.PostArrivals : Prop :=
  (∀ (p : PartId) (c : CtxId) (off : BitVec 12) (data : List Byte) (s : State),
     hubPowered s = true → hubUp s = true → partReset s p = false → arrivalFail s p c off.toNat data = none → postNread data = 0 →
     (postOp data = 0 → headReserved data = false → bodyReserved data [] = false →
       exec (.nop p c off data) s = .next (completePost (addEvent (modCtx (takeNread s p 0) c (fun x =>
         { x with expSeq := (x.expSeq + 1) % 65536 })) pgPost 1) c (postRef data) 0 0)) ∧
     (postOp data ∈ definedOps → postOp data ≠ 0 → (getCtx s c).posts = [] →
       Runs (.postArrival p c (off.setWidth 16) data) s (fun t =>
         (getCtx t c).posts = [{ data := data }] ∧ (getCtx t c).credits = (getCtx s c).credits - 1 ∧
         (getCtx t c).expSeq = ((getCtx s c).expSeq + 1) % 65536 ∧ t.cores = s.cores ∧ t.hbm = s.hbm))) ∧
  (∀ (p : PartId) (c : CtxId) (off : BitVec 12) (data : List Byte) (f : Code) (s : State),
     hubPowered s = true → hubUp s = true → partReset s p = false → arrivalFail s p c off.toNat data = some f → f ≠ .align →
     exec (.postArrival p c (off.setWidth 16) data) s = .next (queueNotice s p
       { typ := 2, code := f.num, seq := postSeq data, ctx := some c, odo := BitVec.ofNat 64 s.odometer, arg0 := numAt data 8 8,
         arg1 := (getCtx s c).expSeq + (getCtx s c).credits * 65536 })) ∧
  (∀ (p : PartId) (c : CtxId) (off : BitVec 12) (data : List Byte) (s : State), hubPowered s = true →
     hubUp s = false ∨ partReset s p = true → exec (.postArrival p c (off.setWidth 16) data) s = .next (bump32 s pgPcie 0x048 1))

/-- R346, R340: NOTICE_AREA registers the area with its ring at the start, phase 1 and READ at WRITTEN, and its COMPLETION goes to the
front of the partition's notices, and of a full queue at once into the area (R348), unless the post is QUIET; an area that is not 4 KiB aligned is refused with ALIGN, and a size or a
vector out of range with BAD_FIELD. R351: WINDOW takes the base of the partition's BAR4 window, and refuses one above 15 with
BAD_FIELD. -/
def Obligations.AreaAndWindow : Prop :=
  ∀ (c : CtxId) (q : Post) (rest : List Post) (s : State),
    (Front s c 0x01 q rest → numAt q.data 16 8 % 4096 = 0 → 6 ≤ numAt q.data 24 1 → numAt q.data 24 1 ≤ 15 →
      (∀ i, i < 4 → numAt q.data (25 + i) 1 ≤ 7) → cleanPost q.data [(16, 8), (24, 1), (25, 4)] = true →
      (let u := modPart (taken s c rest) (ctxPart s c) (fun x => { x with
        area := some { addr := numAt q.data 16 8, log2 := numAt q.data 24 1, vec := (List.range 4).map (fun i => numAt q.data (25 + i) 1) },
        index := 0, phase := true, read := x.written })
       let v := modPart u (ctxPart s c) (fun x => { x with
        queue := { typ := 1, seq := postSeq q.data, ctx := some c.val, odo := BitVec.ofNat 64 s.odometer, arg0 := numAt q.data 8 8 } ::
          x.queue })
       exec (.noticeArea c) s = .next (endUndefinedAll (if bitOf (postFlags q.data) 0 then u
         else if (getPart s (ctxPart s c)).queue.length < 1024 then v else dequeueNotice v (ctxPart s c)) c))) ∧
    (Front s c 0x01 q rest → numAt q.data 16 8 % 4096 = 0 → cleanPost q.data [(16, 8), (24, 1), (25, 4)] = true →
      numAt q.data 24 1 < 6 ∨ 15 < numAt q.data 24 1 ∨ (∃ i, i < 4 ∧ 7 < numAt q.data (25 + i) 1) → exec (.noticeArea c) s =
        .next (endUndefinedAll (completePost (taken s c rest) c (postRef q.data) Code.badField.num 0) c)) ∧
    (Front s c 0x01 q rest → numAt q.data 16 8 % 4096 ≠ 0 → exec (.noticeArea c) s =
      .next (endUndefinedAll (completePost (taken s c rest) c (postRef q.data) Code.align.num 0) c)) ∧
    (Front s c 0x02 q rest → numAt q.data 16 1 ≤ 15 → cleanPost q.data [(16, 1)] = true →
      exec (.window c) s = .next (endUndefinedAll (completePost (modPart (taken s c rest) (ctxPart s c) (fun x =>
        { x with base := numAt q.data 16 1 })) c (postRef q.data) 0 0) c)) ∧
    (Front s c 0x02 q rest → 15 < numAt q.data 16 1 → cleanPost q.data [(16, 1)] = true →
      exec (.window c) s = .next (endUndefinedAll (completePost (taken s c rest) c (postRef q.data) Code.badField.num 0) c))

/-- R342: a CREATE whose checks pass makes the context IDLE with the area, the core set, the rounding and seed of the post, and
clears the header of the second image slot; CREATE and RUN wait while a channel they reach does not serve (R211). R343, R344: RUN of an IDLE or HALTED context whose cores are free and reachable
restores its newest complete image and runs it, and the post stays open; RUN in another state ends with WRONG_STATE. PREEMPT of a
RUNNING context begins a KIND 2 save, and of a context that saves by a SAVE joins that save (R168); of an IDLE one it ends with
WRONG_STATE, and counts a tie when its cores halted in this cycle. DESTROY of an IDLE or HALTED context frees it. -/
def Obligations.ContextPosts : Prop :=
  (∀ (c : CtxId) (q : Post) (rest : List Post) (m : SMap Byte) (s : State), Front s c 0x08 q rest →
     createReady s c q.data = true →
     (firstFail (createFails (taken s c rest) c q.data) = none →
       readSparse (taken s c rest) hubDie (ctxPart s c) (postAddr q.data 16) 0x4000 = .ok m →
       createHeaderFail (taken s c rest) c m = none →
       exec (.create c) s = .next (endUndefinedAll (completePost
         (writeLater (setCtx (taken s c rest) c (createdCtx s (getCtx (taken s c rest) c) q.data (headerList m))) hubDie (ctxPart s c)
           (postAddr q.data 16 + slotSize (headerList m).length) (List.replicate 0x2000 0)) c (postRef q.data) 0 0) c)) ∧
     (∀ f, firstFail (createFails (taken s c rest) c q.data) = some f →
       exec (.create c) s = .next (endUndefinedAll (completePost (taken s c rest) c (postRef q.data) f.num 0) c))) ∧
  (∀ (c : CtxId) (q : Post) (rest : List Post) (s : State), cleanPost q.data [] = true →
     (Front s c 0x09 q rest → imageReady s (getCtx s c) = false → exec (.run c) s = .next s) ∧
     (Front s c 0x09 q rest → imageReady s (getCtx s c) = true → (getCtx s c).state = .idle ∨ (getCtx s c).state = .halted →
       (∀ k ∈ (getCtx s c).cores, gated (taken s c rest) (pgCore k) = false) → overlaps (taken s c rest) c = false →
       exec (.run c) s = .next (endUndefinedAll (match restoreImage (taken s c rest) c false with
         | .ok t => enterRunning (startTrials (modCtx t c (fun x => { x with runPost := some (postRef q.data) })) c) c false
         | .error e => completePost (restoreFault (taken s c rest) c e) c (postRef q.data) e.1.num e.2) c)) ∧
     (Front s c 0x09 q rest → imageReady s (getCtx s c) = true → (getCtx s c).state = .running →
       (∀ k ∈ (getCtx s c).cores, gated (taken s c rest) (pgCore k) = false) →
       exec (.run c) s = .next (endUndefinedAll (completePost (taken s c rest) c (postRef q.data) Code.wrongState.num 0) c)) ∧
     (Front s c 0x0A q rest → (getCtx s c).state = .running → (getCtx s c).saving = none →
       exec (.preempt c) s = .next (endUndefinedAll (beginSave (modCtx (taken s c rest) c (fun x =>
         { x with preemptPost := some (postRef q.data) })) c { kind := 2, tag := 0, start := 0, after := 0 }) c)) ∧
     (∀ v, Front s c 0x0A q rest → (getCtx s c).state = .saving → (getCtx s c).saving = some v → v.kind = 1 →
       (getCtx s c).preemptPost = none → exec (.preempt c) s = .next (endUndefinedAll (modCtx (taken s c rest) c (fun x =>
         { x with preemptPost := some (postRef q.data) })) c)) ∧
     (Front s c 0x0A q rest → (getCtx s c).state = .idle →
       exec (.preempt c) s = .next (endUndefinedAll (completePost
         (if (getCtx s c).doneAt = s.odometer + 1 then addTie (taken s c rest) pgPost else taken s c rest) c (postRef q.data)
         Code.wrongState.num 0) c)) ∧
     (Front s c 0x0B q rest → (getCtx s c).state = .idle ∨ (getCtx s c).state = .halted →
       exec (.destroy c) s = .next (endUndefinedAll (completePost (clearCtx (taken s c rest) c) c (postRef q.data) 0 0) c)) ∧
     (Front s c 0x0B q rest → (getCtx s c).state = .running →
       exec (.destroy c) s = .next (endUndefinedAll (completePost (taken s c rest) c (postRef q.data) Code.wrongState.num 0) c)))

/-- R344: SIGNAL to a core of the context adds to its milestone through the delivery that every signal takes, and completes DONE
when it was applied or held, NO_SPACE when the queue was full, WRONG_STATE at a milestone in BARRIER mode and NOT_OWNER when the
context has no such core any more. R345: FLUSH starts on the four dies' remote-line caches for the lines of its range and stays
open. R225, R299, R316: the arming posts. KERB_ARM fills a free list slot and answers the arm sequence number, which counts up; a
slot still in use answers BUSY. IX_ARM and COL_ARM fill the operation slot with the words read from memory; IX_DISARM and COL_DISARM
empty an idle slot of the context, and answer BUSY while its round runs. -/
def Obligations.WorkPosts : Prop :=
  (∀ (c : CtxId) (q : Post) (rest : List Post) (t : State) (o : SigOut) (s : State),
     (Front s c 0x0C q rest → (getCtx s c).cores.contains (numAt q.data 16 2) = true → numAt q.data 18 1 ≤ 47 →
       numAt q.data 20 4 ≠ 0 → cleanPost q.data [(16, 2), (18, 1), (20, 4)] = true →
       deliverSignal (taken s c rest) c (numAt q.data 16 2) (numAt q.data 18 1) (numAt q.data 20 4)
         (blockLast (taken s c rest) 0 0xC) true = (t, o) →
       exec (.signal c) s = .next (endUndefinedAll (completePost t c (postRef q.data) (match o with
         | .applied => 0 | .held => 0 | .full => 8 | .barrier => 3 | .gone => 5) 0) c)) ∧
     (Front s c 0x0C q rest → (getCtx s c).cores.contains (numAt q.data 16 2) = false →
       exec (.signal c) s = .next (endUndefinedAll (completePost (taken s c rest) c (postRef q.data) Code.notOwner.num 0) c)) ∧
     (Front s c 0x0D q rest → postAddr q.data 16 % 128 = 0 → numAt q.data 24 4 % 128 = 0 → 128 ≤ numAt q.data 24 4 →
       numAt q.data 24 4 ≤ 2 ^ 30 → postAddr q.data 16 + numAt q.data 24 4 ≤ 2 ^ 40 →
       (∀ e ∈ rangeFail (taken s c rest) (ctxPart s c) (postAddr q.data 16) (numAt q.data 24 4) true, e.1 = false) →
       cleanPost q.data [(16, 5), (24, 4)] = true →
       exec (.flush c) s = .next (endUndefinedAll ((List.range 4).foldl (fun s d => startFlush s d
           { lo := postAddr q.data 16 / 128, hi := (postAddr q.data 16 + numAt q.data 24 4) / 128, post := some c.val })
         (modCtx (taken s c rest) c (fun x => { x with flushes := x.flushes ++ [(postRef q.data, [0, 1, 2, 3])] }))) c))) ∧
  (∀ (c : CtxId) (q : Post) (rest : List Post) (w peers : List Nat) (s : State),
     (Front s c 0x10 q rest → postAddr q.data 24 % 128 = 0 → numAt q.data 16 1 ≤ 3 → numAt q.data 32 2 ≠ 0 →
       cleanPost q.data [(16, 1), (24, 5), (32, 2)] = true →
       ((getList s c (numAt q.data 16 1)).armed = false →
         exec (.kerbArm c) s = .next (endUndefinedAll (completePost
           (modCtx { taken s c rest with armSeq := (s.armSeq + 1) % 65536 } c (fun x => { x with
             lists := store x.lists (numAt q.data 16 1)
               { armed := true, addr := postAddr q.data 24, count := numAt q.data 32 2, seq := s.armSeq,
                 paused := x.state != .running } })) c (postRef q.data) 0 s.armSeq) c)) ∧
       ((getList s c (numAt q.data 16 1)).armed = true →
         exec (.kerbArm c) s = .next (endUndefinedAll (completePost (taken s c rest) c (postRef q.data) Code.busy.num 0) c))) ∧
     (Front s c 0x12 q rest → postAddr q.data 24 % 64 = 0 → numAt q.data 16 1 ≤ 3 → numAt q.data 17 1 ≤ 15 →
       gated (taken s c rest) (pgIx (numAt q.data 16 1)) = false → cleanPost q.data [(16, 1), (17, 1), (24, 5)] = true →
       armReady s c (postAddr q.data 24) (fun w => wAddr w 16) ixRanks = true →
       readArm (taken s c rest) c (postAddr q.data 24) (fun w => wAddr w 16) ixRanks = .ok (w, peers) →
       firstFail (ixFails (taken s c rest) (numAt q.data 16 1) (numAt q.data 17 1) c w peers) = none →
       exec (.ixArm c) s = .next (endUndefinedAll (completePost
         (let base := (flowRange (taken s c rest) (numAt q.data 16 1) (ixFlows w)).getD 0
          let x : IxSlot := { armed := true, ctx := c, words := w, peers := peers, flowBase := base }
          setFlows (setIxSlot (taken s c rest) (numAt q.data 16 1) (numAt q.data 17 1) x) (numAt q.data 16 1) x.flowBase (ixFlows w)
            (heldFlow x (numAt q.data 17 1))) c (postRef q.data) 0 0) c)) ∧
     (Front s c 0x14 q rest → postAddr q.data 24 % 64 = 0 → numAt q.data 16 1 ≤ 3 → numAt q.data 17 1 ≤ 15 →
       gated (taken s c rest) (pgCol (numAt q.data 16 1)) = false → cleanPost q.data [(16, 1), (17, 1), (24, 5)] = true →
       armReady s c (postAddr q.data 24) (fun w => wAddr w 10) colRanks = true →
       readArm (taken s c rest) c (postAddr q.data 24) (fun w => wAddr w 10) colRanks = .ok (w, peers) →
       firstFail (colFails (taken s c rest) (numAt q.data 16 1) (numAt q.data 17 1) c w peers) = none →
       exec (.colArm c) s = .next (endUndefinedAll (completePost
         (setColSlot (taken s c rest) (numAt q.data 16 1) (numAt q.data 17 1) { armed := true, ctx := c, words := w, peers := peers })
         c (postRef q.data) 0 0) c)) ∧
     (Front s c 0x13 q rest → numAt q.data 16 1 ≤ 3 → numAt q.data 17 1 ≤ 15 → cleanPost q.data [(16, 1), (17, 1)] = true →
       (getIxSlot s (numAt q.data 16 1) (numAt q.data 17 1)).armed = true →
       (getIxSlot s (numAt q.data 16 1) (numAt q.data 17 1)).ctx = c.val →
       ((getIxSlot s (numAt q.data 16 1) (numAt q.data 17 1)).phase = 0 →
         exec (.ixDisarm c) s = .next (endUndefinedAll (completePost (ixFree (taken s c rest) (numAt q.data 16 1) (numAt q.data 17 1))
           c (postRef q.data) 0 0) c)) ∧
       ((getIxSlot s (numAt q.data 16 1) (numAt q.data 17 1)).phase ≠ 0 →
         exec (.ixDisarm c) s = .next (endUndefinedAll (completePost (taken s c rest) c (postRef q.data) Code.busy.num 0) c))) ∧
     (Front s c 0x15 q rest → numAt q.data 16 1 ≤ 3 → numAt q.data 17 1 ≤ 15 → cleanPost q.data [(16, 1), (17, 1)] = true →
       (getColSlot s (numAt q.data 16 1) (numAt q.data 17 1)).armed = true →
       (getColSlot s (numAt q.data 16 1) (numAt q.data 17 1)).ctx = c.val →
       (getColSlot s (numAt q.data 16 1) (numAt q.data 17 1)).phase = 0 →
       exec (.colDisarm c) s = .next (endUndefinedAll (completePost (colFree (taken s c rest) (numAt q.data 16 1) (numAt q.data 17 1))
         c (postRef q.data) 0 0) c)))

/-- R334, R396, R402, R417, R428: the management posts, from a context of partition 0. PART_SET gives every core of its bitmap to
the partition and every other core of the partition back to partition 0; CAP takes the cap and answers the one it replaces;
POWER_OFF to RUN in RUN ends at once and in DOZE begins to leave it, to DOZE with no context RUNNING or SAVING begins to enter it,
to DORMANT completes and then takes every domain's power; FW_LOAD of a sound header begins VERIFY; ATTEST queues a report. From
another partition each ends with NOT_OWNER. R428, R429: ATTEST_DONE takes the oldest queued report, writes the report's bytes and
the ECDSA signature of their SHA-256 under the identity's key at its address as partition 0, and completes its post with what the
write met; it waits while a channel of the report does not serve (R211). -/
def Obligations.ManagementPosts : Prop :=
  (∀ (c : CtxId) (q : Post) (rest : List Post) (bits : List Byte) (s : State),
     (ctxPart s c = 0 →
       (Front s c 0x20 q rest → 1 ≤ numAt q.data 16 1 → numAt q.data 16 1 ≤ 15 → numAt q.data 18 2 + numAt q.data 20 2 ≤ 256 →
         (∀ k, k < 256 → (getCtx s k).state = .free) →
         (∀ e ∈ rangeFail (taken s c rest) 0 (postAddr q.data 24) 512 false, e.1 = false) →
         cleanPost q.data [(16, 1), (18, 2), (20, 2), (24, 5)] = true → rangeReady s 0 (postAddr q.data 24) 512 = true →
         readRange (taken s c rest) 0 (postAddr q.data 24) 512 = .ok bits →
         Runs (.partSet c) s (fun t => ∀ k, k < 4096 →
           (bitOf (numAt bits (k / 8) 1) (k % 8) = true → partOfCore t k = numAt q.data 16 1) ∧
           (bitOf (numAt bits (k / 8) 1) (k % 8) = false →
             partOfCore t k = if partOfCore s k = numAt q.data 16 1 then 0 else partOfCore s k))) ∧
       (Front s c 0x21 q rest → 500 ≤ numAt q.data 16 2 → numAt q.data 16 2 ≤ 2000 → cleanPost q.data [(16, 2)] = true →
         exec (.cap c) s = .next (endUndefinedAll (completePost (setCap (taken s c rest) (numAt q.data 16 2)) c (postRef q.data) 0
           (capBefore s (numAt q.data 16 2))) c)) ∧
       (Front s c 0x22 q rest → numAt q.data 16 1 = 0 → cleanPost q.data [(16, 1)] = true → s.hide.draining = false →
         s.boot.ready = true → s.power.state = .on → s.power.entering = none → s.power.leaving = none →
         exec (.powerOff c) s = .next (endUndefinedAll (completePost (taken s c rest) c (postRef q.data) 0 0) c)) ∧
       (Front s c 0x22 q rest → cleanPost q.data [(16, 1)] = true → s.hide.draining = false → s.boot.ready = true →
         s.power.entering = none → s.power.leaving = none →
         (numAt q.data 16 1 = 0 → s.power.state = .doze → exec (.powerOff c) s = .next (endUndefinedAll
           (modPower (taken s c rest) (fun x => { x with leaving := some (.post c (postRef q.data)) })) c)) ∧
         (numAt q.data 16 1 = 2 → s.power.state = .on → (∀ e ∈ s.ctxs, e.2.state ≠ .running ∧ e.2.state ≠ .saving) →
           exec (.powerOff c) s = .next (endUndefinedAll
             (modPower (taken s c rest) (fun x => { x with entering := some (.post c (postRef q.data)) })) c))) ∧
       (Front s c 0x22 q rest → numAt q.data 16 1 = 3 → cleanPost q.data [(16, 1)] = true → s.hide.draining = false →
         exec (.powerOff c) s = .next (endUndefinedAll
           (enterDormant (flushAll (completePost (taken s c rest) c (postRef q.data) 0 0) 0) 1) c)) ∧
       (Front s c 0x23 q rest → 2 ≤ s.boot.phase → s.boot.phase ≠ 8 → numAt q.data 16 4 % 4096 = 0 → 2 ^ 16 ≤ numAt q.data 16 4 →
         numAt q.data 16 4 ≤ 2 ^ 24 → s.boot.accepted = false → s.boot.verifying = none → cleanPost q.data [(16, 4)] = true →
         imageBad (taken s c rest) (numAt q.data 16 4) = false →
         Runs (.fwLoad c) s (fun t => t.boot.phase = 3 ∧ t.boot.phaseAt = s.odometer ∧
           t.boot.verifying = some (c.val, postRef q.data, numAt q.data 16 4) ∧ t.boot.buffer = s.boot.buffer)) ∧
       (Front s c 0x24 q rest → numAt q.data 16 8 % 256 = 0 → s.record.lcState ≠ 0 → cleanPost q.data [(16, 5), (24, 32)] = true →
         Runs (.attest c) s (fun t => t.qsc = { s.qsc with attests := s.qsc.attests ++
           [{ ctx := c, ref := postRef q.data, report := numAt q.data 16 8, nonce := (q.data.drop 24).take 32 }] } ∧
           t.record = s.record))) ∧
     (ctxPart s c ≠ 0 →
       (Front s c 0x21 q rest → exec (.cap c) s =
         .next (endUndefinedAll (completePost (taken s c rest) c (postRef q.data) Code.notOwner.num 0) c)) ∧
       (Front s c 0x20 q rest → rangeReady s 0 (postAddr q.data 24) 512 = true → exec (.partSet c) s =
         .next (endUndefinedAll (completePost (taken s c rest) c (postRef q.data) Code.notOwner.num 0) c)))) ∧
  (∀ (a : Attest) (rest : List Attest) (s : State), s.qsc.attests = a :: rest →
     let s1 : State := { s with qsc := { s.qsc with attests := rest }, fresh := s.fresh + 1 }
     let w := writeRange s1 0 a.report (reportBody s a.nonce ++
       ecdsaSign (identityKey s) (sha256 (reportBody s a.nonce)) (Config.freshNat s.fresh) 4)
     (rangeReady s 0 a.report 256 = true →
       exec .attestDone s = .next (completePost w.1 a.ctx a.ref (match w.2 with | some c => c.num | none => 0) 0)) ∧
     (rangeReady s 0 a.report 256 = false → exec .attestDone s = .next s))

/-- R339, R347, R348, R350: credits owed for 2 µs are reported by a CREDIT notice, and nothing happens before. A partition's oldest
notice is written as a record into its area unless the area is full: WRITTEN and the index advance, the phase flips at the wrap, and
the credits of the record's context, if it is the partition's, stand in the record and are no longer owed; with no area, a full one
or no notice nothing happens. Unmasking an MSI-X vector sends its pending message. R351, R403, R416: while the hub has power BAR4 is
the load buffer of partition 0 until an image is accepted; then a read answers the bytes of the partition's window and a write
stores them there; one whose channels do not serve it waits, and every later one behind it (R211, R223, R249); what cannot be reached, is poisoned, or is not
there in DOZE is answered as ones or as poisoned or discarded, and counted on the PCIe page. -/
def Obligations.HostAccesses : Prop :=
  (∀ (c : CtxId) (p : PartId) (v : Fin 8) (a : Area) (n : Notice) (rest : List Notice) (s : State),
     (0 < (getCtx s c).owed → passed s (getCtx s c).owedAt 2000 = true →
       exec (.creditNotice c) s = .next (queueNotice s (ctxPart s c)
         { typ := 3, ctx := some c, odo := BitVec.ofNat 64 s.odometer })) ∧
     ((getCtx s c).owed = 0 ∨ passed s (getCtx s c).owedAt 2000 = false → exec (.creditNotice c) s = .next s) ∧
     ((getPart s p).area = some a → (getPart s p).queue = n :: rest → areaFull (getPart s p) = false →
       Runs (.noticeDequeue p) s (fun t => (getPart t p).queue = rest ∧
         (getPart t p).written = ((getPart s p).written + 1) % 65536 ∧
         (getPart t p).index = ((getPart s p).index + 1) % 2 ^ a.log2 ∧ (getPart t p).lostFlag = false ∧
         (∃ w, t.hostLog = s.hostLog ++ [.record p (a.addr + 32 * ((getPart s p).index % 2 ^ a.log2)) (recordBytes p (getPart s p) n
           (match n.ctx with | some k => if ctxPart s k = p.val then (getCtx s k).owed else 0 | none => 0))] ++ w) ∧
         ∀ k, (getCtx t k).owed = if n.ctx = some k ∧ ctxPart s k = p.val then 0 else (getCtx s k).owed)) ∧
     ((getPart s p).area = none ∨ (getPart s p).queue = [] ∨ areaFull (getPart s p) = true →
       exec (.noticeDequeue p) s = .next s) ∧
     ((getPart s p).vecPend.getLsbD v = true →
       Runs (.msiXUnmask p v) s (fun t => t.hostLog = s.hostLog ++ [.msix p v] ∧ (getPart t p).vecMask.getLsbD v = false ∧
         (getPart t p).vecPend.getLsbD v = false)) ∧
     ((getPart s p).vecPend.getLsbD v = false →
       Runs (.msiXUnmask p v) s (fun t => t.hostLog = s.hostLog ∧ (getPart t p).vecMask.getLsbD v = false))) ∧
  (∀ (p : PartId) (off : BitVec 36) (len : Nat) (data l : List Byte) (c : Code) (s : State), hubPowered s = true →
     (s.boot.accepted = false → p.val = 0 → off.toNat + len ≤ 2 ^ 24 →
       exec (.bar4Read p off len) s = .next { s with bar4 := .data (loadBytes s.boot.buffer off.toNat len) }) ∧
     (s.boot.accepted = false → p.val = 0 → off.toNat + data.length ≤ 2 ^ 24 → s.boot.verifying = none →
       exec (.bar4Write p off data) s = .next { s with boot := { s.boot with buffer := storeBytes s.boot.buffer off.toNat data } }) ∧
     (s.boot.accepted = false → p.val ≠ 0 ∨ 2 ^ 24 < off.toNat + len →
       exec (.bar4Read p off len) s = .next { s with bar4 := .ones len }) ∧
     (s.boot.accepted = false → p.val ≠ 0 ∨ 2 ^ 24 < off.toNat + data.length ∨ s.boot.verifying ≠ none →
       exec (.bar4Write p off data) s = .next (bump32 s pgPcie 0x04C 1)) ∧
     (s.boot.accepted = true → s.power.state = .on → s.bar4Q = [] → rangeReady s p (bar4Addr s p off.toNat) len = true →
       (readRange s p (bar4Addr s p off.toNat) len = .ok l → exec (.bar4Read p off len) s = .next { s with bar4 := .data l }) ∧
       (readRange s p (bar4Addr s p off.toNat) len = .error .checkFailed →
         exec (.bar4Read p off len) s = .next (bump32 { s with bar4 := .poisoned } pgPcie 0x04C 1)) ∧
       (readRange s p (bar4Addr s p off.toNat) len = .error c → c ≠ .checkFailed →
         exec (.bar4Read p off len) s = .next (bump32 { s with bar4 := .ones len } pgPcie 0x04C 1))) ∧
     (s.boot.accepted = true → s.power.state = .on → s.bar4Q = [] →
       rangeReady s p (bar4Addr s p off.toNat) data.length = true →
       exec (.bar4Write p off data) s = .next (
         if (bar4Store s p (bar4Addr s p off.toNat) data).2 then (bar4Store s p (bar4Addr s p off.toNat) data).1
         else bump32 (bar4Store s p (bar4Addr s p off.toNat) data).1 pgPcie 0x04C 1)) ∧
     (s.boot.accepted = true → s.power.state = .on →
       (s.bar4Q ≠ [] ∨ rangeReady s p (bar4Addr s p off.toNat) len = false →
         exec (.bar4Read p off len) s = .next { s with bar4Q := s.bar4Q ++ [.read p off.toNat len] }) ∧
       (s.bar4Q ≠ [] ∨ rangeReady s p (bar4Addr s p off.toNat) data.length = false →
         exec (.bar4Write p off data) s = .next { s with bar4Q := s.bar4Q ++ [.write p off.toNat data] })) ∧
     (s.boot.accepted = true → s.power.state = .doze → s.bar4Q = [] →
       exec (.bar4Read p off len) s = .next (bump32 { s with bar4 := .ones len } pgPcie 0x04C 1) ∧
       exec (.bar4Write p off data) s = .next (bump32 s pgPcie 0x04C 1)))

/-- R352, R353, R404, R422: the resets and pins of the host interface. A function-level reset resets the partition, and in DOZE,
where no core runs, it leaves no area, no window, every vector masked, and its contexts without posts and with their first sequence
number and all their credits; a hot reset, and PERST# after READY, reset the hub; PERST# before READY empties the load buffer in
LOAD_WAIT and VERIFY and resets the endpoint alone in the other phases; its release fires comparator 7 when that watches it; a link
that comes up or changes in FLIT mode (R332) shows in the PCIe page, one that goes down resets the hub (Table 106). -/
def Obligations.HostResets : Prop :=
  ∀ (p : PartId) (flit : Bool) (rate width : BitVec 8) (vfs : BitVec 15) (s : State), hubPowered s = true →
    exec (.functionLevelReset p) s = .next (functionReset s p) ∧
    (s.power.state = .doze → Runs (.functionLevelReset p) s (fun t =>
      (getPart t p).area = none ∧ (getPart t p).base = 0 ∧ (getPart t p).vecMask = 0xFF ∧
      ∀ c, c < 256 → ctxPart s c = p.val → (getCtx t c).posts = [] ∧ (getCtx t c).expSeq = 0 ∧ (getCtx t c).credits = 32)) ∧
    (inReset s .hub = true → exec .hotReset s = .next s) ∧
    exec .hotReset s = .next (hubReset s) ∧
    (s.boot.ready = true → exec .perstAssert s = .next (hubReset { s with power := { s.power with perst := true } })) ∧
    (s.boot.ready = false → s.boot.phase = 2 ∨ s.boot.phase = 3 → Runs .perstAssert s (fun t =>
      t.power = { s.power with perst := true } ∧ t.boot.buffer = [] ∧ t.boot.verifying = none ∧ t.boot.phase = 2)) ∧
    (s.boot.ready = false → s.boot.phase ≠ 2 → s.boot.phase ≠ 3 → Runs .perstAssert s (fun t =>
      t.power = { s.power with perst := true } ∧ t.boot = s.boot ∧ t.cores = s.cores)) ∧
    ((getCmp s 7).en = false ∨ s.power.perst = false →
      exec .perstDeassert s = .next { s with power := { s.power with perst := false } }) ∧
    (s.power.perst = true → (getCmp s 7).en = true → (getCmp s 7).arg.getLsbD 0 = true →
      exec .perstDeassert s = .next (fireCmp { s with power := { s.power with perst := false } } 7)) ∧
    (hubUp s = true → s.endpoint.rates.contains rate.toNat = true → s.endpoint.widths.contains width.toNat = true →
      Runs (.linkChange true true rate width vfs) s (fun t =>
        regOf t pgPcie 0x040 = 3 + rate.toNat * 2 ^ 8 + width.toNat * 2 ^ 16 ∧
        regOf t pgPcie 0x044 = 2 * vfs.toNat ∧ t.cores = s.cores ∧ ((getPage s pgPcie).mask.getLsbD 0 = true → t.parts = s.parts))) ∧
    exec (.linkChange true false rate width vfs) s = .next s ∧
    (hubUp s = true → bitOf (regOf s pgPcie 0x040) 0 = true → ∃ u, exec (.linkChange false flit rate width vfs) s = .next (hubReset u) ∧
      regOf u pgPcie 0x040 = 0 ∧ regOf u pgPcie 0x044 = 2 * vfs.toNat ∧ u.cores = s.cores ∧ u.ctxs = s.ctxs ∧ u.power = s.power) ∧
    (hubUp s = true → bitOf (regOf s pgPcie 0x040) 0 = false → Runs (.linkChange false flit rate width vfs) s (fun t =>
      regOf t pgPcie 0x040 = 0 ∧ regOf t pgPcie 0x044 = 2 * vfs.toNat ∧ t.cores = s.cores))

/-! ### Cores (chapters 4 to 9) -/

/-- R153: when the sequencer may dispatch, the next instruction's line is there and every dispatch check of its engine passes, the
instruction enters the window and the fetch continues: for each opcode of Tables 26, 33, 42, 50, 52 and 58. R157, R152, R155: an
instruction that fails its dispatch checks, or whose opcode is undefined, is rejected with the first code of R36's order; behind
an unresolved BRANCH the rejection is held and nothing else happens; a line that could not be read faults the sequencer once no BRANCH
before it is unresolved. -/
def Obligations.Dispatch : Prop :=
  (∀ (core : CoreId) (l : Line) (s : State),
     let x := getCore s core
     let t := nextTarget x
     let i := nextWord s core l
     let td := nextTd s core l
     mayDispatch s core = true → lineFor x t.addr = some l → l.fault = 0 → nextFail s core l = none →
     (let row := fun (eng op : Nat) (c : Instr) =>
        iEngine i = eng → iOpcode i = op → exec c s = .next (acceptInstr s core i t td)
      row 0 0 (.seqNop core .dispatch) ∧ row 0 1 (.jump core) ∧ row 0 2 (.setloop core) ∧ row 0 3 (.loop core) ∧
      row 0 4 (.branch core) ∧ row 0 5 (.tdLoad core) ∧ row 0 6 (.save core .dispatch) ∧ row 0 7 (.halt core .dispatch) ∧
      row 1 0 (.mm core .dispatch) ∧ row 1 1 (.mma core .dispatch) ∧ row 2 0 (.opm core .dispatch) ∧
      row 2 1 (.opma core .dispatch) ∧ row 3 0 (.cvt core .dispatch) ∧ row 3 1 (.vxAdd core .dispatch) ∧
      row 3 2 (.vxSub core .dispatch) ∧ row 3 3 (.vxMul core .dispatch) ∧ row 3 4 (.vxFma core .dispatch) ∧
      row 3 5 (.scale core .dispatch) ∧ row 3 6 (.argmax core .dispatch) ∧ row 3 7 (.argmin core .dispatch) ∧
      row 3 8 (.rowsum core .dispatch) ∧ row 3 9 (.exp core .dispatch) ∧ row 3 10 (.log core .dispatch) ∧
      row 3 11 (.rsqrt core .dispatch) ∧ row 3 12 (.recip core .dispatch) ∧ row 3 13 (.tanh core .dispatch) ∧
      row 3 14 (.erf core .dispatch) ∧ row 3 15 (.maxmin core .dispatch) ∧ row 4 0 (.get core .dispatch) ∧
      row 4 1 (.put core .dispatch) ∧ row 4 2 (.acc core .dispatch) ∧ row 4 3 (.accOrd core .dispatch) ∧
      row 4 4 (.cmbOpen core .dispatch) ∧ row 5 0 (.msSet core .dispatch) ∧ row 5 1 (.msAdd core .dispatch) ∧
      row 5 2 (.msBinit core .dispatch) ∧ row 5 3 (.msArrive core .dispatch) ∧ row 5 4 (.msTwait core .dispatch))) ∧
  (∀ (core : CoreId) (l : Line) (code : Code) (s : State),
     let x := getCore s core
     let t := nextTarget x
     let i := nextWord s core l
     mayDispatch s core = true → lineFor x t.addr = some l →
     (l.fault = 0 → nextFail s core l = some code →
       (let rejects := fun (c : Instr) =>
          (x.window.any openBranch = false → exec c s = .next (coreReject s core (iEngine i) code.num t.addr)) ∧
          (x.window.any openBranch = true →
            exec c s = .next (modCore s core (fun x => { x with heldReject := some (code.num + 256 * iEngine i, t.addr) })))
        (∀ r ∈ dispatchRows core, iEngine i = r.1 → iOpcode i = r.2.1 → rejects r.2.2) ∧
        (opcodeDefined (iEngine i) (iOpcode i) = false → rejects (.seqNop core .dispatch)))) ∧
     (l.fault ≠ 0 → ∀ r ∈ dispatchRows core,
       (x.window.any openBranch = false → exec r.2.2 s = .next (coreFault s core 0 l.fault false t.addr 0 (t.addr / 512 * 512))) ∧
       (x.window.any openBranch = true → exec r.2.2 s = .next s)))

/-- R153, Table 50: an accepted instruction stands last in the window, and where the fetch continues and what the loop counters
hold follow its opcode: JUMP goes to its target, SETLOOP loads a counter, LOOP counts it down and goes back while it is not 0,
everything else falls through; HALT ends dispatch. R152, R154, R155, R156, R166: the sequencer's own work. A returning line is
held with the one before it, once the channel serves it; a read that fails is held with its line; the next instruction of an engine
that may start does so; BRANCH goes to its target when its condition holds and lets what follows start otherwise; TD_LOAD writes the
descriptor memory, or its failing read faults the sequencer. -/
def Obligations.SequencerWork : Prop :=
  (∀ (core : CoreId) (i : Nat) (t : Target) (td : List Nat) (s : State), t.resumed = false → t.st = 0 →
     let x := getCore s core
     let y := getCore (acceptInstr s core i t td) core
     let k := fieldOf (iFlags i) 0 2
     let next := (t.addr + 16) % 2 ^ 40
     let target := (((t.addr : Int) + 16 * sext 24 (iImm i)) % (2 ^ 40 : Int)).toNat
     let count := (nth x.loops k + 2 ^ 24 - 1) % 2 ^ 24
     staysUp x →
     (∃ e, y.window.getLast? = some e ∧ e.ins = i ∧ e.addr = t.addr ∧ e.td = td ∧ e.st = 0) ∧
     (iEngine i ≠ 0 → y.pc = next ∧ y.loops = x.loops ∧ y.closed = x.closed) ∧
     (iEngine i = 0 → iOpcode i = 1 → y.pc = target ∧ y.loops = x.loops) ∧
     (iEngine i = 0 → iOpcode i = 2 → y.pc = next ∧ y.loops = x.loops.set k (iImm i)) ∧
     (iEngine i = 0 → iOpcode i = 3 → y.loops = x.loops.set k count ∧
       (nth (x.loops.set k count) k ≠ 0 → y.pc = target) ∧ (nth (x.loops.set k count) k = 0 → y.pc = next)) ∧
     (iEngine i = 0 → iOpcode i ∉ [1, 2, 3] → y.pc = next ∧ y.loops = x.loops) ∧
     (iEngine i = 0 → iOpcode i = 7 → y.closed = true)) ∧
  (∀ (core : CoreId) (e : WEnt) (line : BitVec 31) (r : Except Code (List Byte)) (s1 : State) (s : State),
     (runningCtx s core).isSome = true →
     let x := getCore s core
     (line.toNat = (nextTarget x).addr / 512 ∨ line.toNat = (nextTarget x).addr / 512 + 1 → x.closed = false →
       (viaReady s (dieOfCore core) (partOfCore s core) (line.toNat * 512) 512 = true →
         readSeq s (dieOfCore core) (partOfCore s core) (line.toNat * 512) 512 = (s1, r) →
         exec (.fetchLineReturn core line) s = .next (modCore s1 core (fun x => { x with
           lines := (match r with
             | .ok b => { line := line.toNat, bytes := storeBytes [] 0 b }
             | .error c => { line := line.toNat, fault := c.num }) :: (x.lines.filter (fun y => y.line != line.toNat)).take 1 }))) ∧
       (viaReady s (dieOfCore core) (partOfCore s core) (line.toNat * 512) 512 = false →
         exec (.fetchLineReturn core line) s = .next s)) ∧
     (nextOf x 1 = some e → canStart x e = true → x.lr.ent ≠ none ∨ x.window.any (fun e => iEngine e.ins == 1 && e.st == 1) = false →
       exec (.instructionStart core 1) s = .next (startLr s core e)) ∧
     (nextOf x 2 = some e → canStart x e = true → x.op.ent ≠ none ∨ x.window.any (fun e => iEngine e.ins == 2 && e.st == 1) = false →
       exec (.instructionStart core 2) s = .next (startOp s core e)) ∧
     (nextOf x 3 = some e → canStart x e = true → exec (.instructionStart core 3) s =
       .next (settle (progressed (modEnt s core e.id (fun e => { e with st := 1, sat := true })) core 3) core)) ∧
     (nextOf x 4 = some e → canStart x e = true → exec (.instructionStart core 4) s = .next (startDm s core e)) ∧
     (nextOf x 5 = some e → canStart x e = true → exec (.instructionStart core 5) s = .next (msProgress (startMs s core e) core)) ∧
     (nextOf x 0 = some e → canStart x e = true →
       exec (.instructionStart core 0) s = .next (startSeq s core e) ∧
       (iOpcode e.ins = 0 → exec (.seqNop core .work) s = .next (finishThen s core e)) ∧
       (iOpcode e.ins = 7 → exec (.halt core .work) s = .next (finishThen s core e)) ∧
       (iOpcode e.ins = 6 → exec (.save core .work) s = .next (afterSeq (afterSeq (settle (modCore (modEnt s core e.id
         (fun e => { e with st := 1, sat := true })) core (fun x => { x with runState := 2 })) core) core) core))) ∧
     (branchReady x = some e → entWaitHolds x e = true → Runs (.branchResolve core) s (fun t =>
       t = branchTaken s core e ∧ (iSigMs e.ins = 63 →
         (getCore t core).pc = (((e.addr : Int) + 16 * sext 24 (iImm e.ins)) % (2 ^ 40 : Int)).toNat ∧
         (getCore t core).loops = e.loops))) ∧
     (branchReady x = some e → entWaitHolds x e = false → Runs (.branchResolve core) s (fun t =>
       t = branchPassed s core e ∧ (iSigMs e.ins = 63 → x.heldReject = none → t = finishEnt s core e))) ∧
     (∀ (q : Except (Code × Nat) (List Byte)), x.window.find? (fun e => isSeqOp e 5 && e.st == 1) = some e →
       viaReady s (dieOfCore core) (partOfCore s core) (x.tdSrc + 32 * fieldOf (iImm e.ins) 0 10)
         (32 * (fieldOf (iImm e.ins) 10 10 + 1)) = true →
       readViaAt s (dieOfCore core) (partOfCore s core) (x.tdSrc + 32 * fieldOf (iImm e.ins) 0 10)
         (32 * (fieldOf (iImm e.ins) 10 10 + 1)) = (s1, q) →
       exec (.tdLoadDone core) s = .next (match q with
         | .ok b => finishEnt (modCore s1 core (fun x => { x with
             descMem := storeBytes x.descMem (32 * fieldOf (iImm e.ins) 0 10) b })) core e
         | .error f => coreFault s1 core 0 f.1.num false e.addr 0 f.2)))

/-- R74, R78, R81, R84, R109, R110: with its bank filled, LR issues one token: MM, MMA or a stream token whose conditions hold writes
the pass's part of the token's Y row with the products of its weights and X, sets the sticky flags, and advances token, step and pass; a
stream token's row is its number modulo the ring, and it adds 1 to the instruction's milestone. The commands of LR complete: a fill
takes the first wanted bank that is missing, with the weights as they stand in the tile store (R78 to R80); a stream token issues
(R81); a pass end counts the pass and, with PASS_SIGNAL, adds to the instruction's milestone, and the next pass begins (R71, R87);
when every pass has ended the instruction completes, its position is no longer valid and the next one is taken up (R71, R85); a stall
drops one lane group of the dummy work and gates LR after the last (R82); a stop records the position of the next token, none where no
token was issued, empties the banks and changes no result (R84). -/
def Obligations.LinearEngine : Prop :=
  (∀ (core : CoreId) (e : WEnt) (b : Bank) (s : State),
     let x := getCore s core
     let d := lrDesc e.td
     let w := lrWidth (coreSite s core)
     (runningCtx s core).isSome = true → lrEnt x = some e → x.lr.ended = false → x.lr.stopped = false → x.lr.pass < lrPasses d w →
     x.lr.banks.find? (fun b => b.ent == e.id && b.a == x.lr.pass && b.b == x.lr.step) = some b →
     (d.stream = true → streamReady x e x.lr.token = true) →
     (iOpcode e.ins = 0 → exec (.mm core .work) s = .next (lrStep s core e b)) ∧
     (iOpcode e.ins = 1 → exec (.mma core .work) s = .next (lrStep s core e b)) ∧
     (d.stream = true → exec (.lrStreamToken core) s = .next (lrStep s core e b)) ∧
     (let y := getCore (lrStep s core e b) core
      (d.stream = true → signalsFree x e →
        y.ts = storeBytes x.ts (rowAt d.yBase d.yPitch (x.lr.token % d.ring) + 4 * (x.lr.pass * w))
          ((lrToken x e w x.lr.pass x.lr.step x.lr.token b).1.flatMap (leBytes 4)) ∧
        (iSigMs e.ins ≠ 63 → (mileOf y (iSigMs e.ins)).value = (mileOf x (iSigMs e.ins)).value + 1)) ∧
      (d.stream = false →
        y.ts = storeBytes x.ts (rowAt d.yBase d.yPitch x.lr.token + 4 * (x.lr.pass * w))
          ((lrToken x e w x.lr.pass x.lr.step x.lr.token b).1.flatMap (leBytes 4)) ∧
        y.arithStat = (x.arithStat ||| (lrToken x e w x.lr.pass x.lr.step x.lr.token b).2) ∧
        y.lr.token = (if x.lr.token + 1 < d.n then x.lr.token + 1 else 0) ∧
        y.miles = x.miles ∧ (lrStep s core e b).hbm = s.hbm))) ∧
  (∀ (core : CoreId) (q : WEnt × Nat × Nat) (s : State), (runningCtx s core).isSome = true →
     let x := getCore s core
     (lrWanted x (lrWidth (coreSite s core))).find? (fun q => !hasBank x.lr.banks (q.1.id, q.2.1, q.2.2)) = some q →
     exec (.lrFillDone core) s = .next (progressed (modCore s core (fun x => { x with lr := { x.lr with
       banks := x.lr.banks ++ [{ ent := q.1.id, a := q.2.1, b := q.2.2, bytes := lrWeights x q.1 }] } })) core 1)) ∧
  (∀ (core : CoreId) (c : Nat) (e : WEnt) (s : State), activeCtx s core = some c → lrEnt (getCore s core) = some e →
     (getCore s core).lr.ended = true →
     let x := getCore s core
     let d := lrDesc e.td
     let s1 := shadowEnd (siteBump32 (modCore s core (fun x => { x with lr := { x.lr with ended := false } })) core 0x054 1) core
     let s2 := if bitOf (iFlags e.ins) 0 then signalEnt s1 core e else s1
     let y := getCore s2 core
     exec (.lrPassEnd core) s = .next (if x.lr.pass < lrPasses d (lrWidth (coreSite s2 core)) then
         shadowSelect s2 core c x.lr.pass (d.n * kCycles (lrFa e) (lrFb e) d.k) else s2) ∧
     (bitOf (iFlags e.ins) 0 = false ∨ iSigMs e.ins = 63 → y.miles = x.miles ∧ y.ts = x.ts ∧ y.lr.ended = false) ∧
     (bitOf (iFlags e.ins) 0 = true → iSigMs e.ins < 48 → (mileOf x (iSigMs e.ins)).barrier = false →
       y.lr.ended = false ∧ y.ts = x.ts ∧
       (mileOf y (iSigMs e.ins)).value = (mileOf x (iSigMs e.ins)).value + BitVec.ofNat 32 (iSigInc e.ins))) ∧
  (∀ (core : CoreId) (e : WEnt) (s : State), (activeCtx s core).isSome = true → lrEnt (getCore s core) = some e →
     let x := getCore s core
     let d := lrDesc e.td
     x.lr.ended = false → lrPasses d (lrWidth (coreSite s core)) ≤ x.lr.pass →
     let s1 := modCore s core (fun x => { x with
       lrPass := x.lrPass &&& 0x7FFFFFFF#32, lrFill := 0, lrFree := 0,
       lr := { x.lr with ent := none, banks := x.lr.banks.filter (fun b => b.ent != e.id) } })
     let s2 := if bitOf (iFlags e.ins) 0 || d.stream then retire s1 core e else finishEnt s1 core e
     let t := if (runningCtx s2 core).isSome then lrTakeNext s2 core else s2
     exec (.lrComplete core) s = .next t ∧
     (signalsFree x e → (getCore t core).lrPass = x.lrPass &&& 0x7FFFFFFF#32 ∧ (getCore t core).ts = x.ts)) ∧
  (∀ (core : CoreId) (s : State), (runningCtx s core).isSome = true → (getCore s core).lr.gated = false →
     (getCore s core).window.any (fun e => iEngine e.ins == 1 && e.st != 2) = true →
     exec (.lrDummyStepDown core) s = .next (modCore s core (fun x => { x with
       lr := { x.lr with dummy := x.lr.dummy - 1, gated := decide (x.lr.dummy ≤ 1) } }))) ∧
  (∀ (core : CoreId) (c : Nat) (e : WEnt) (s : State), (getCore s core).ctx = some c → stopsNow s core c = true →
     let x := getCore s core
     let still := fun (y : Core) => { y with lr := { y.lr with stopped := true, gated := true, dummy := 0, banks := [] } }
     x.lr.stopped = false →
     (lrEnt x = none → exec (.lrStop core) s = .next (modCore s core still)) ∧
     (lrEnt x = some e → x.lr.ended = false → x.lr.pass < lrPasses (lrDesc e.td) (lrWidth (coreSite s core)) →
       (e.run = 0 → exec (.lrStop core) s = .next (shadowAbandon (modCore s core still) core)) ∧
       (e.run ≠ 0 → exec (.lrStop core) s = .next (shadowAbandon (modCore (modCore s core still) core (fun x => { x with
         lrPos := BitVec.ofNat 32 (x.lr.step * 2 ^ 16 + x.lr.token),
         lrPass := BitVec.ofNat 32 (2 ^ 31 + x.lr.pass) })) core))))

/-- R97, R98, R109, R110: OP's K-block adds the products of its banked operands to the accumulators; a fill takes the operands as
they stand in the tile store, and an OPMA pass loads its accumulators from D first. R93, R97, R103, R104: at a pass end OP's tiles
are written to D and its file is empty again; after the last pass the instruction completes and OP_POS is no longer valid, nor says
that tiles are kept (the model's deduction, notes/assumptions/115.md); a stop records the row block, the K-block, the width and
whether tiles are kept, also one that abandons an accumulator load, and nothing where no work has begun. -/
def Obligations.OuterEngine : Prop :=
  (∀ (core : CoreId) (e : WEnt) (b : Bank) (q : WEnt × Nat × Nat) (more : List (WEnt × Nat × Nat)) (s : State),
     let x := getCore s core
     let d := opDesc e.td
     let c := opWidth s core
     (runningCtx s core).isSome = true → opEnt x = some e →
     (x.op.loaded = true → x.op.stopped = false → x.op.rowFirst < opRb d → x.op.kblock < opKb d →
       x.op.banks.find? (fun b => b.ent == e.id && b.a == x.op.rowFirst && b.b == x.op.kblock) = some b →
       (let block := fun (r : Instr) => Runs r s (fun t =>
          (getCore t core).op.acc = (opBlock x e c b).1 ∧ (getCore t core).op.kblock = x.op.kblock + 1 ∧
          (getCore t core).arithStat = (x.arithStat ||| (opBlock x e c b).2) ∧ (getCore t core).ts = x.ts ∧
          (getCore t core).miles = x.miles ∧ t.hbm = s.hbm)
        (iOpcode e.ins = 0 → block (.opm core .work)) ∧ (iOpcode e.ins = 1 → block (.opma core .work)))) ∧
     ((opWanted x c).filter (fun q => !hasBank x.op.banks (q.1.id, q.2.1, q.2.2)) = q :: more →
       (x.op.loaded = true ∨ (q.1.id = e.id ∧ q.2 = (x.op.rowFirst, x.op.kblock)) → Runs (.opFillDone core) s (fun t =>
         (getCore t core).op.banks = x.op.banks ++ [{ ent := q.1.id, a := q.2.1, b := q.2.2, bytes := opOperands x q.1 }] ∧
         (getCore t core).op.acc = x.op.acc)) ∧
       (x.op.loaded = false → q.1.id ≠ e.id ∨ q.2 ≠ (x.op.rowFirst, x.op.kblock) → Runs (.opFillDone core) s (fun t =>
         (getCore t core).op.acc = (opLoad x e c).1 ∧ (getCore t core).op.loaded = true ∧
         (getCore t core).op.banks = x.op.banks))) ∧
     ((opWanted x c).filter (fun q => !hasBank x.op.banks (q.1.id, q.2.1, q.2.2)) = [] → x.op.loaded = false → x.op.rowFirst < opRb d →
       Runs (.opFillDone core) s (fun t => (getCore t core).op.acc = (opLoad x e c).1 ∧ (getCore t core).op.loaded = true ∧
         (getCore t core).op.banks = x.op.banks)) ∧
     (x.op.gated = false → x.window.any (fun e => iEngine e.ins == 2 && e.st != 2) = true →
       exec (.opDummyStepDown core) s = .next (modCore s core (fun x => { x with
         op := { x.op with dummy := x.op.dummy - 1, gated := decide (x.op.dummy ≤ 1) } })))) ∧
  (∀ (core : CoreId) (e : WEnt) (s : State),
     let x := getCore s core
     let d := opDesc e.td
     let c := opWidth s core
     opEnt x = some e →
     ((activeCtx s core).isSome = true → x.op.rowFirst < opRb d → opKb d ≤ x.op.kblock → x.op.stopped = false →
       Runs (.opPassEnd core) s (fun t =>
         (bitOf (iFlags e.ins) 0 = false ∨ iSigMs e.ins = 63 →
           (getCore t core).ts = opWrite x e c ∧ (getCore t core).miles = x.miles ∧ (getCore t core).op.acc = [] ∧
           (getCore t core).op.rowFirst = x.op.rowFirst + opPassRows d c x.op.rowFirst ∧ (getCore t core).op.kblock = 0) ∧
         (bitOf (iFlags e.ins) 0 = true → iSigMs e.ins < 48 → (mileOf x (iSigMs e.ins)).barrier = false →
           (getCore t core).ts = opWrite x e c ∧
           (mileOf (getCore t core) (iSigMs e.ins)).value =
             (mileOf x (iSigMs e.ins)).value + BitVec.ofNat 32 (iSigInc e.ins)))) ∧
     ((activeCtx s core).isSome = true → opRb d ≤ x.op.rowFirst → signalsFree x e →
       (∀ y ∈ x.window, iEngine y.ins = 2 → y.st = 1 → y.id = e.id) → Runs (.opComplete core) s (fun t =>
         (getCore t core).opPos = x.opPos &&& 0x3FFFFFFF#32 ∧ (getCore t core).ts = x.ts)) ∧
     (∀ k, x.ctx = some k → stopsNow s core k = true → x.op.stopped = false → x.op.rowFirst < opRb d → x.op.kblock < opKb d →
       Runs (.opStop core) s (fun t =>
         (getCore t core).op.stopped = true ∧ (getCore t core).op.acc = x.op.acc ∧ (getCore t core).ts = x.ts ∧
         (e.run = 0 → opLoading x e = false → (getCore t core).opPos = x.opPos) ∧
         (e.run ≠ 0 ∨ opLoading x e = true → (getCore t core).opPos =
           BitVec.ofNat 32 (2 ^ 31 + bit (x.op.kblock != 0) * 2 ^ 30 + c * 2 ^ 16 + x.op.rowFirst * 2 ^ 14 + x.op.kblock)))))

/-- R158, R160, Table 52: VX takes one row of the instruction in progress: every source byte is read before the row's results are
written, its flags join ARITH_STAT, and the next row is due; for each of the 16 opcodes. R160, R167: after its last row a VX
instruction completes and signals; a stop holds VX at a row boundary with rows left and changes no result (R171). A CVT that completes shows its
generator's state (R65). -/
def Obligations.VectorEngine : Prop :=
  (∀ (core : CoreId) (e : WEnt) (s : State),
     let x := getCore s core
     let o := vxRow x e e.run
     (runningCtx s core).isSome = true → vxEnt x = some e → x.vxStopped = false → e.run < (vxDesc e.td).rows →
     (let row := fun (op : Nat) (c : Instr) => iOpcode e.ins = op → Runs c s (fun t =>
        (getCore t core).ts = o.writes.foldl (fun ts w => storeBytes ts w.1 w.2) x.ts ∧
        (getCore t core).arithStat = (x.arithStat ||| o.flags) ∧ (getCore t core).srState = o.sr ∧
        (getCore t core).miles = x.miles ∧ (getCore t core).pc = x.pc ∧ t.hbm = s.hbm ∧ t.pages = s.pages ∧
        (∀ k, k ≠ core.val → getCore t k = getCore s k) ∧
        (∀ y ∈ (getCore t core).window, y.id = e.id → ∃ z ∈ x.window, z.id = e.id ∧ y = { z with run := z.run + 1 }))
      row 0 (.cvt core .work) ∧ row 1 (.vxAdd core .work) ∧ row 2 (.vxSub core .work) ∧ row 3 (.vxMul core .work) ∧
      row 4 (.vxFma core .work) ∧ row 5 (.scale core .work) ∧ row 6 (.argmax core .work) ∧ row 7 (.argmin core .work) ∧
      row 8 (.rowsum core .work) ∧ row 9 (.exp core .work) ∧ row 10 (.log core .work) ∧ row 11 (.rsqrt core .work) ∧
      row 12 (.recip core .work) ∧ row 13 (.tanh core .work) ∧ row 14 (.erf core .work) ∧ row 15 (.maxmin core .work))) ∧
  (∀ (core : CoreId) (e : WEnt) (s : State),
     let x := getCore s core
     ((activeCtx s core).isSome = true → vxEnt x = some e → (vxDesc e.td).rows ≤ e.run →
       (iOpcode e.ins ≠ 0 → exec (.vxComplete core) s = .next (finishEnt s core e)) ∧
       (iOpcode e.ins = 0 → exec (.vxComplete core) s =
         .next (finishEnt (modCore s core (fun x => { x with srSeen := x.srState })) core e))) ∧
     (∀ c, x.ctx = some c → stopsNow s core c = true → vxEnding x = false →
       exec (.vxStop core) s = .next (modCore s core (fun x => { x with vxStopped := true }))) ∧
     (∀ c, x.ctx = some c → stopsNow s core c = false ∨ vxEnding x = true → exec (.vxStop core) s = .next s))

/-- R120, R121: the winner of two pairs does not depend on their order, nor that of several on their grouping or order, up to the
canonical NaN that is stored; the pair of a row is stored as 4 bytes of value and 4 bytes of index. -/
def Obligations.WinnerRule : Prop :=
  (∀ (isMin : Bool) (a b c : Nat × Int), a.1 < 2 ^ 32 → b.1 < 2 ^ 32 → c.1 < 2 ^ 32 →
    (let out := fun (v : Nat × Int) => (canon32 v.1, v.2)
     out (winner isMin a b) = out (winner isMin b a) ∧
     out (winner isMin (winner isMin a b) c) = out (winner isMin a (winner isMin b c)) ∧
     (isNan32 a.1 = true → isNan32 b.1 = false → winner isMin a b = a) ∧
     (a.1 = b.1 → a.2 < b.2 → out (winner isMin a b) = out a))) ∧
  (∀ (isMin : Bool) (a : Nat × Int) (l m : List (Nat × Int)), (∀ v ∈ a :: l, v.1 < 2 ^ 32) → l.Perm m →
    (canon32 (l.foldl (winner isMin) a).1, (l.foldl (winner isMin) a).2) =
      (canon32 (m.foldl (winner isMin) a).1, (m.foldl (winner isMin) a).2)) ∧
  (∀ (x : Core) (e : WEnt) (row : Nat), ∃ v i, (argRow x e row).writes =
    [(64 * (vxDesc e.td).dBase + 8 * row, leBytes 4 (canon32 v) ++ leBytes 4 i)])

/-- R128, R129, R136 to R144: a step of a started DM instruction. GET writes a padding run of zeros itself and sends a request for
the bytes that follow in one 512-byte block, and again for what an overlapping PUT made it discard; a GET that may run ahead sends
its next read; PUT sends the bytes as they stand in the tile store; ACC and ACC_ORD send up to 8 segments to the destination core,
the last run of an ACC with the number of segments sent in all; CMB_OPEN opens its slot. Each request takes a free request slot, and
no tile store byte changes for it. -/
def Obligations.DmSteps : Prop :=
  ∀ (core : CoreId) (e : WEnt) (i : Nat) (s : State),
    let x := getCore s core
    let d := moveDesc e.td
    let a := accDesc e.td
    (runningCtx s core).isSome = true → freeSlot x = some i → dmRoom s core = true →
    (let sends := fun (c : Instr) (kind : Nat) (pieces : List Piece) (data : List Byte) => Runs c s (fun t =>
       (∃ r, look (getCore t core).reqs i none = some r ∧ r.ent = e.id ∧ r.kind = kind ∧ r.pieces = pieces ∧ r.data = data ∧
         r.dead = false) ∧ (getCore t core).ts = x.ts ∧ t.hbm = s.hbm)
     (dmHead x 0 = some e → e.redo = [] → e.run < moveTotal d → (pieceAt d e.run).2 = false →
       sends (.get core .work) 0 (gather d 32 e.run (pieceAt d e.run).1.src) []) ∧
     (∀ p more, dmHead x 0 = some e → e.redo = p :: more → p.src ≠ 2 ^ 40 → sends (.get core .work) 0 (mergeRedo e.redo) []) ∧
     (dmHead x 0 = none → aheadEnt x = some e → (pieceAt d e.sent).2 = false → aheadBusy x < 12 → x.shadow.length + aheadBusy x < 64 →
       sends (.get core .work) 4 (gather d 32 e.sent (pieceAt d e.sent).1.src) []) ∧
     (dmHead x 1 = some e → e.run < moveTotal d → sends (.put core .work) 1 (gather d 32 e.run (pieceAt d e.run).1.src)
       (pieceBytes x.ts (gather d 32 e.run (pieceAt d e.run).1.src))) ∧
     (let n := min 8 (a.len - e.run)
      let data := loadBytes x.ts (64 * (a.src + e.run)) (64 * n)
      let posts := fun (c : Instr) (b : Body) => Runs c s (fun t => t.net = s.net ∧
        Puts s t (dieOfCore core) { innerMsg s (dieOfCore a.core) 3 0 false b with epoch := epochTag s core 4 })
      (dmHead x 2 = some e → sends (.acc core .work) 2 [] [] ∧ posts (.acc core .work)
        (.acc core a.core a.ms (a.dst + e.run) data e.id (if a.len ≤ e.run + n then some (e.sent + n) else none) i)) ∧
      (dmHead x 3 = some e → sends (.accOrd core .work) 3 [] [] ∧ posts (.accOrd core .work)
        (.accOrd core a.core a.slot a.index e.run a.len data i)))) ∧
    (dmHead x 0 = some e → e.redo = [] → e.run < moveTotal d → (pieceAt d e.run).2 = true →
      e.run + (pieceAt d e.run).1.len < moveTotal d → (∀ y, findEnt x e.id = some y → y = e) → Runs (.get core .work) s (fun t =>
        (getCore t core).ts = clearBytes x.ts (pieceAt d e.run).1.dst (pieceAt d e.run).1.len ∧
        (getCore t core).reqs = x.reqs ∧ t.fabric = s.fabric)) ∧
    (dmHead x 4 = none → nextOf x 4 = some e → iOpcode e.ins = 4 → canStart x e = true → signalsFree x e → staysUp x →
      Runs (.cmbOpen core .work) s (fun t => (getCore t core).ts = x.ts ∧
        look (getCore t core).slots (cmbDesc (nth e.td 0) (nth e.td 1)).slot {} =
          { isOpen := true, w0 := nth e.td 0, w1 := nth e.td 1 }))

/-- R133, R140, R142, R144, R146: what comes back to DM once its response has crossed the fabric. A GET's bytes land where its runs
name, a PUT is accepted by its channel, run-ahead data or the fault it met waits in the shadow buffer, a refused request faults DM, a
lookaside miss installs its line's eight frame map entries or refuses the requests that need a line that cannot be read; the request's
slot is free again. R262: a marked response halves the core's window, to no less than 1; a congestion window rises by 1, up to its
source's slot count, after 512 fabric cycles without a decrease, and no other window changes. -/
def Obligations.DmReturns : Prop :=
  (∀ (core : CoreId) (slot : Fin 16) (r : DmReq) (b : List Byte) (code : Code) (line : BitVec 21) (s1 : State) (s : State),
     let x := getCore s core
     (look x.reqs slot none = some r → reqBack s x r = true →
       (r.mark = false →
         (r.kind = 0 → heldByPut x r = false → r.dead = false → (activeCtx s core).isSome = true →
           (readReq s core r = (s1, .ok b) → exec (.getDataReturn core slot false) s = .next (checkMove (progressed
             (modCore (endReq s1 core slot r) core (fun x => { x with ts := placePieces x.ts r.pieces b })) core 4) core r.ent)) ∧
           (readReq s core r = (s1, .error code) → exec (.getDataReturn core slot false) s =
             .next (dmFault (endReq s1 core slot r) core r code.num 0 (srcOf r))) ∧
           (readReq s core r = (s1, .ok b) → (∀ y, findEnt x r.ent = some y → y.run < moveTotal (moveDesc y.td)) →
             Runs (.getDataReturn core slot false) s (fun t =>
               (getCore t core).ts = placePieces x.ts r.pieces b ∧ look (getCore t core).reqs slot none = none ∧
               (getCore t core).miles = x.miles))) ∧
         (r.kind = 1 → r.dead = false →
           (badCode r = none → writeVia s (dieOfCore core) (partOfCore s core) (srcOf r) r.data = (s1, none) →
             exec (.putAck core slot false) s = .next (checkMove (progressed (endReq s1 core slot r) core 4) core r.ent)) ∧
           (badCode r = none → writeVia s (dieOfCore core) (partOfCore s core) (srcOf r) r.data = (s1, some code) →
             exec (.putAck core slot false) s = .next (dmFault (endReq s1 core slot r) core r code.num 0 (srcOf r))) ∧
           (badCode r = some code → exec (.putAck core slot false) s =
             .next (dmFault (endReq s core slot r) core r code.num 0 (srcOf r)))) ∧
         (r.kind = 4 → r.dead = false → heldByPut x r = false →
           (readReq s core r = (s1, .ok b) → Runs (.runAheadReturn core slot) s (fun t =>
             (getCore t core).shadow = x.shadow ++ [{ ent := r.ent, pieces := r.pieces, data := b }] ∧
             (getCore t core).ts = x.ts ∧ look (getCore t core).reqs slot none = none)) ∧
           (readReq s core r = (s1, .error code) → Runs (.runAheadReturn core slot) s (fun t =>
             (getCore t core).shadow =
               x.shadow ++ [{ ent := r.ent, pieces := r.pieces, data := [], fault := code.num, faultAddr := srcOf r }] ∧
             (getCore t core).fr = x.fr ∧ (getCore t core).ts = x.ts)))) ∧
       (r.kind = 0 → heldByPut x r = false → r.dead = true → ∀ mark, Runs (.getDataReturn core slot mark) s (fun t =>
         (getCore t core).ts = x.ts ∧ look (getCore t core).reqs slot none = none ∧
         (mark = true ∨ r.mark = true → (winOf s (dmSource core) 3).lastDec = 0 → (winOf s (dmSource core) 3).rose ≠ s.odometer + 1 →
           (winOf t (dmSource core) 3).w = max 1 ((winOf s (dmSource core) 3).w / 2)) ∧
         (mark = false → r.mark = false → winOf t (dmSource core) 3 = winOf s (dmSource core) 3))) ∧
       (r.kind = 4 → r.dead = true → Runs (.runAheadReturn core slot) s (fun t =>
         (getCore t core).shadow = x.shadow ∧ (getCore t core).ts = x.ts ∧ look (getCore t core).reqs slot none = none))) ∧
     (x.misses.contains line.toNat = true → mapLineFail s line.toNat = none → Runs (.laMissReturn core line) s (fun t =>
       (getCore t core).misses.contains line.toNat = false ∧ (getCore t core).look.length ≤ 64 ∧
       (∀ i, i < 8 → (8 * line.toNat + i, frameEntry s (8 * line.toNat + i)) ∈ (getCore t core).look) ∧
       (getCore t core).ts = x.ts)) ∧
     (x.misses.contains line.toNat = true → mapLineFail s line.toNat = some code → Runs (.laMissReturn core line) s (fun t =>
       (getCore t core).misses.contains line.toNat = false ∧ (getCore t core).look = x.look ∧ (getCore t core).ts = x.ts ∧
       ∀ k q, (k, some q) ∈ x.reqs → needsLine line.toNat q = true → (k, some { q with bad := code.num }) ∈ (getCore t core).reqs))) ∧
  (∀ (src : Source) (cw : Fin 3) (s : State),
     ((winOf s src (cw.val + 1)).since + 256 ≤ s.odometer → Runs (.cwWindowIncrease src cw) s (fun t =>
       (winOf t src (cw.val + 1)).w = min (winMax src) ((winOf s src (cw.val + 1)).w + 1) ∧
       (∀ k, k ≠ cw.val + 1 → winOf t src k = winOf s src k) ∧ t.hbm = s.hbm ∧ t.net = s.net ∧ t.fabric = s.fabric)) ∧
     (s.odometer < (winOf s src (cw.val + 1)).since + 256 → exec (.cwWindowIncrease src cw) s = .next s))

/-- R114, R116, R117, R127 to R130: contributions. Segments that arrive are added in the destination's bank, in arrival order or in
the slot's tree, and acknowledged; the contribution whose last segments they are adds 1 to the bank's milestone; one that meets no
open slot is refused with WRONG_STATE, and one whose core cannot be reached with FENCED, and both change no bank; an ORDERED one of
another length, of an index the slot does not have, or sent twice abandons the combine; while a core moves its arrivals wait (R365).
An acknowledgement frees the request's slot, a refusal faults the sender's DM naming the destination, and one that no request awaits
is late (R377). -/
def Obligations.Contributions : Prop :=
  ∀ (idx : Nat) (m : Msg) (s : State), s.net[idx]? = some m →
    (∀ src dst ms seg data id total slot, m.body = .acc src dst ms seg data id total slot →
      (getPage s (pgCore dst)).moving = false → msgReach s m dst 4 = true →
      (let y := getCore s dst
       let sum := accSegments y.flush y.ts seg data
       let note := accNote y.accIn src id (data.length / 64) total
       let acked := fun (t : State) => Puts s t (dieOfCore dst)
         { innerMsg s (dieOfCore src) 0 0 true (.accAck src dst slot) with mark := m.mark, epoch := m.epoch }
       (note.2 = false → Runs (.accArrival idx) s (fun t =>
         (getCore t dst).ts = sum.1 ∧ (getCore t dst).arithStat = (y.arithStat ||| sum.2) ∧ (getCore t dst).accIn = note.1 ∧
         (getCore t dst).miles = y.miles ∧ (∀ k, k ≠ dst → getCore t k = getCore s k) ∧ t.net = s.net.eraseIdx idx ∧ acked t)) ∧
       (note.2 = true → (mileOf y ms).barrier = false → Runs (.accArrival idx) s (fun t =>
         (getCore t dst).ts = sum.1 ∧ (getCore t dst).arithStat = (y.arithStat ||| sum.2) ∧ (getCore t dst).accIn = note.1 ∧
         (mileOf (getCore t dst) ms).value = (mileOf y ms).value + 1 ∧ (∀ k, k ≠ dst → getCore t k = getCore s k) ∧
         t.net = s.net.eraseIdx idx ∧ acked t)))) ∧
    (∀ src dst ms seg data id total slot, m.body = .acc src dst ms seg data id total slot →
      ((getPage s (pgCore dst)).moving = true → exec (.accArrival idx) s = .next s) ∧
      ((getPage s (pgCore dst)).moving = false → msgReach s m dst 4 = false →
        exec (.accArrival idx) s = .next (ackAcc (dropMsg s idx) m src dst slot Code.fenced.num))) ∧
    (∀ src dst cslot index seg len data slot, m.body = .accOrd src dst cslot index seg len data slot →
      (getPage s (pgCore dst)).moving = false →
      (let k := look (getCore s dst).slots cslot {}
       let c := cmbDesc k.w0 k.w1
       let there := fun (j : Nat) => k.got.contains (index, seg + j)
       (msgReach s m dst 4 = false →
         exec (.accOrdArrival idx) s = .next (ackAcc (dropMsg s idx) m src dst slot Code.fenced.num)) ∧
       (msgReach s m dst 4 = true →
         (k.isOpen = false → exec (.accOrdArrival idx) s = .next (ackAcc (dropMsg s idx) m src dst slot Code.wrongState.num)) ∧
         (k.isOpen = true → len = c.len → index < c.p → (∀ j, j < data.length / 64 → there j = false) →
           exec (.accOrdArrival idx) s =
             .next (ackAcc (combineTake (dropMsg s idx) dst cslot index seg data) m src dst slot 0)) ∧
         (k.isOpen = true → len = c.len → index < c.p → (∃ j, j < data.length / 64 ∧ there j = true) →
           exec (.accOrdArrival idx) s =
             .next (combineAbandon (ackAcc (dropMsg s idx) m src dst slot 0) dst cslot Code.sequence.num src)) ∧
         (k.isOpen = true → len ≠ c.len ∨ c.p ≤ index → exec (.accOrdArrival idx) s =
           .next (combineAbandon (ackAcc (dropMsg s idx) m src dst slot 0) dst cslot Code.badField.num src))))) ∧
    (∀ src dst slot r, m.body = .accAck src dst slot → look (getCore s src).reqs slot none = some r →
      m.epoch = epochTag s src 4 → r.kind = 2 ∨ r.kind = 3 → r.dead = false → m.mark = false → (activeCtx s src).isSome = true →
      (m.code = 0 → exec (.accAck idx) s =
        .next (checkAcc (progressed (endReq (dropMsg s idx) src slot r) src 4) src r.ent)) ∧
      (m.code ≠ 0 → exec (.accAck idx) s = .next (dmFault (endReq (dropMsg s idx) src slot r) src r m.code dst 0))) ∧
    (∀ src dst slot, m.body = .accAck src dst slot → look (getCore s src).reqs slot none = none →
      exec (.accAck idx) s = .next (lateAnswer (dropMsg s idx) src 4))

/-- R176, R179, R187 to R189, R192, R193, R359, Table 58: MS starts its next instruction when none is in progress. SET and BINIT
give the milestone its new state. ADD on the own core adds at once; to another core, or to this chip by its number, it sends a
message; to another chip it sends a request that is outstanding until its answer, unless a replay skips it, HOLD keeps it or no port
serves. ARRIVE counts its round and sends it; one in progress that has been presented the release of its round completes once its arrival is
answered (the model's deduction, notes/assumptions/138.md), and an ADD that HOLD kept is sent. A TWAIT whose wait holds completes; one whose limit passed at an earlier odometer value signals TIMEOUT_MS, and at that very
value it may still be satisfied. A BARRIER-mode target faults the context. -/
def Obligations.MsInstructions : Prop :=
  ∀ (core : CoreId) (e : WEnt) (c : Nat) (s : State),
    let x := getCore s core
    let d := msDesc e.td
    let lone := ∀ y ∈ x.window, y.id = e.id → y = e
    let other := fun (k : Nat) => iSigMs e.ins = 63 ∨ iSigMs e.ins ≠ k
    let tagged := fun (m : Msg) => { m with req := s.nextReq, epoch := epochTag s core 5 }
    runningCtx s core = some c →
    (msEnt x = none → nextOf x 5 = some e → canStart x e = true →
      (let row := fun (op : Nat) (i : Instr) (P : State → Prop) => iOpcode e.ins = op →
         Runs i s (fun t => t = msProgress (startMs s core e) core ∧ P t)
       row 0 (.msSet core .work) (fun t => staysUp x → other d.targetMs → mileOf (getCore t core) d.targetMs =
         { value := BitVec.ofNat 32 d.value, gen := BitVec.ofNat 32 (d.value % 65536), barrier := false, relMs := 0,
           last := lastWord s core 5 }) ∧
       row 2 (.msBinit core .work) (fun t => staysUp x → other d.targetMs → mileOf (getCore t core) d.targetMs =
         { value := BitVec.ofNat 32 (d.value % 65536 * 65536), gen := 0, barrier := true, relMs := d.localMs,
           last := lastWord s core 5 }) ∧
       row 1 (.msAdd core .work) (fun t =>
         (d.otherChip = false → d.targetCore = core →
           ((mileOf x d.targetMs).barrier = false → staysUp x → other d.targetMs →
             (mileOf (getCore t core) d.targetMs).value = (mileOf x d.targetMs).value + BitVec.ofNat 32 d.value ∧
             (mileOf (getCore t core) d.targetMs).last = lastWord s core 5) ∧
           ((mileOf x d.targetMs).barrier = true → (getCtx t c).state = .faulted ∧ (getCtx t c).faultCode = Code.wrongState.num)) ∧
         (d.otherChip = false → d.targetCore ≠ core → lone → (getCore t core).miles = x.miles ∧
           Puts s t (dieOfCore core) (tagged (innerMsg s (dieOfCore d.targetCore) 0 0 false
             (.localAdd core d.targetCore d.targetMs (BitVec.ofNat 32 d.value))))) ∧
         (d.otherChip = true → 0 < x.remoteSkip → staysUp x → (getCore t core).remoteSkip = x.remoteSkip - 1) ∧
         (d.otherChip = true → x.remoteSkip = 0 → lone →
           (d.chip = chipId s → Puts s t (dieOfCore core) (tagged (remoteAddMsg s core e))) ∧
           (d.chip ≠ chipId s → (getRoute s (dieOfCore core)).hold = true → t.outs = s.outs ∧ t.fabric = s.fabric) ∧
           (d.chip ≠ chipId s → (getRoute s (dieOfCore core)).hold = false →
             (routeFor s (dieOfCore core) (chipId s) d.chip = none →
               (getCtx t c).state = .faulted ∧ (getCtx t c).faultCode = Code.absent.num) ∧
             (∀ p, routeFor s (dieOfCore core) (chipId s) d.chip = some p → t.nextReq = s.nextReq + 1 ∧
               t.outs = s.outs ++ [{ req := s.nextReq, die := dieOfCore core, sentAt := s.odometer,
                                     msg := { remoteAddMsg s core e with req := s.nextReq } }] ∧
               ∃ q, t.fabric.packets = s.fabric.packets ++ [q] ∧ q.src = coreStop s core ∧ q.dst = linkStop p ∧ q.cw = 0)))) ∧
       row 3 (.msArrive core .work) (fun t =>
         ((mileOf x d.localMs).barrier = true → (getCtx t c).state = .faulted ∧ (getCtx t c).faultCode = Code.wrongState.num) ∧
         ((mileOf x d.localMs).barrier = false →
           (let r := (mileOf x d.localMs).gen.toNat % 65536
            (staysUp x → (mileOf (getCore t core) d.localMs).gen = BitVec.ofNat 32 ((r + 1) % 65536)) ∧
            (lone → (mileOf (getCore t core) d.localMs).value = (mileOf x d.localMs).value ∧
              Puts s t (dieOfCore core)
                (tagged (innerMsg s (dieOfCore d.targetCore) 0 0 false (.arrive core d.targetCore d.targetMs r))))))) ∧
       row 4 (.msTwait core .work) (fun t => staysUp x →
         (∀ k, k ≠ iSigMs e.ins → mileOf (getCore t core) k = mileOf x k) ∧
         (iSigMs e.ins ≠ 63 → (mileOf x (iSigMs e.ins)).barrier = false → (mileOf (getCore t core) (iSigMs e.ins)).value =
           (mileOf x (iSigMs e.ins)).value + BitVec.ofNat 32 (iSigInc e.ins))))) ∧
    (msEnt x = some e →
      (iOpcode e.ins = 3 → exec (.msArrive core .work) s =
        .next (if arriveWaits e && e.sat && e.sent == 0 then finishEnt s core e else s)) ∧
      (iOpcode e.ins = 1 → d.otherChip = true → e.sent = 0 → e.firstTry = 0 →
        exec (.msAdd core .work) s = .next (sendRemote s core e))) ∧
    (nextOf x 5 = some e → isTwait e = true → readyEnt x e = true → e.sat = false → e.since ≠ 0 →
      (s.odometer ≤ twaitEnd e → exec (.twaitExpiry core) s = .next s) ∧
      (twaitEnd e < s.odometer → (mileOf x d.timeoutMs).barrier = false → staysUp x → Runs (.twaitExpiry core) s (fun t =>
        (mileOf (getCore t core) d.timeoutMs).value = (mileOf x d.timeoutMs).value + 1 ∧
        (mileOf (getCore t core) d.timeoutMs).last = lastWord s core 5 ∧
        (∀ k, k ≠ d.timeoutMs → mileOf (getCore t core) k = mileOf x k))) ∧
      (twaitEnd e < s.odometer → (mileOf x d.timeoutMs).barrier = true → Runs (.twaitExpiry core) s (fun t =>
        (getCtx t c).state = .faulted ∧ (getCtx t c).faultCode = Code.wrongState.num)))

/-- R179 to R181, R187, R261, R377: an ADD that arrives adds to a COUNT-mode milestone, sets its LAST and is acknowledged; it leaves
a BARRIER-mode one alone and answers WRONG_STATE; a fence on its way, or a core out of reach, answers FENCED; while its core moves
it waits. The answer that the instruction in progress awaits ends it, or faults the source, naming the target core of an ADD that
met BARRIER mode; an answer of an earlier epoch is discarded and counted (R377), and an acknowledged ADD to another chip counts for R359 also when its
context has faulted. R188: an ADD from another chip is applied while the
context runs, held in the die's queue while it does not, and refused when the queue is full, when the context does not exist, holds
no such core or carries another job's tag, when the milestone is in BARRIER mode, and while the chip drains; a source refused for
want of room tries again after 1 µs and faults with TIMED_OUT 1 ms after its first attempt. -/
def Obligations.AddMessages : Prop :=
  (∀ (idx : Nat) (m : Msg) (src core ms home : Nat) (inc : Word) (e : WEnt) (s : State), s.net[idx]? = some m →
     (m.body = .localAdd src core ms inc →
       ((getPage s (pgCore core)).moving = true → exec (.msAddArrival idx) s = .next s) ∧
       ((getPage s (pgCore core)).moving = false →
         (msgReach s m core 5 = true → (mileOf (getCore s core) ms).barrier = false →
           exec (.msAddArrival idx) s = .next (ackLocal
             (msProgress (signalMs (dropMsg s idx) core ms inc.toNat (lastWord s src 5)).1 core) m src core 0)) ∧
         (msgReach s m core 5 = true → (mileOf (getCore s core) ms).barrier = false → msEnt (getCore s core) = none →
           Runs (.msAddArrival idx) s (fun t =>
             (mileOf (getCore t core) ms).value = (mileOf (getCore s core) ms).value + inc ∧
             (mileOf (getCore t core) ms).last = lastWord s src 5 ∧
             (∀ k, k ≠ ms → mileOf (getCore t core) k = mileOf (getCore s core) k) ∧ t.net = s.net.eraseIdx idx ∧
             Puts s t (edgeDie s (dieOfCore core)) { innerMsg s (dieOfCore src) 0 0 true (.localAck src core) with
               req := m.req, mark := m.mark, epoch := m.epoch })) ∧
         (msgReach s m core 5 = true → (mileOf (getCore s core) ms).barrier = true →
           exec (.msAddArrival idx) s = .next (ackLocal (dropMsg s idx) m src core Code.wrongState.num)) ∧
         (msgReach s m core 5 = false →
           exec (.msAddArrival idx) s = .next (ackLocal (dropMsg s idx) m src core Code.fenced.num)))) ∧
     (m.body = .localAck src home → (m.epoch ≠ epochTag s src 5 → exec (.msAddAck idx) s = .next (lateAnswer (dropMsg s idx) src 5)) ∧
       (m.epoch = epochTag s src 5 → (activeCtx s src).isSome = true → msEnt (getCore s src) = some e →
         (e.sent ≠ m.req + 1 → exec (.msAddAck idx) s = .next (dropMsg s idx)) ∧
         (e.sent = m.req + 1 → m.code = 0 →
           exec (.msAddAck idx) s = .next (if isArrive e && !bitOf (iFlags e.ins) 0
             then msProgress (modEnt (progressed (dropMsg s idx) src 5) src e.id (fun y => { y with sent := 0 })) src
             else finishEnt (progressed (dropMsg s idx) src 5) src e)) ∧
         (e.sent = m.req + 1 → m.code ≠ 0 → exec (.msAddAck idx) s =
           .next (coreFault (dropMsg s idx) src 5 m.code false e.addr
             (if m.code = Code.sequence.num ∨ (iOpcode e.ins = 1 ∧ m.code = Code.wrongState.num) then home else 0) 0)))) ∧
     (m.body = .remoteAddAck src home → msEnt (getCore s src) = some e →
       (let s1 := (settleOut (dropMsg s idx) m.req).1
        let there := (s.outs.find? (fun o => o.req == m.req)).isSome = true ∨ m.srcChip = chipId s
        (¬ there → exec (.msAddAck idx) s = .next s1) ∧
        (there → e.sent ≠ m.req + 1 → exec (.msAddAck idx) s = .next (lateAnswer s1 src 5)) ∧
        (there → e.sent = m.req + 1 → activeCtx s src = none → faultedOn s src = true → m.code = 0 → exec (.msAddAck idx) s =
          .next (modCore (modEnt s1 src e.id (fun y => { y with sent := 0 })) src (fun x =>
            { x with remoteAcked := x.remoteAcked + 1 }))) ∧
        (there → e.sent = m.req + 1 → (activeCtx s src).isSome = true →
        (m.code = 0 → isArrive e = false → exec (.msAddAck idx) s = .next (finishEnt (progressed
          (modCore s1 src (fun x => { x with remoteAcked := x.remoteAcked + 1 })) src 5) src e)) ∧
        (m.code = Code.noSpace.num → exec (.msAddAck idx) s = .next (modEnt s1 src e.id (fun y => { y with sent := 0 }))) ∧
        (m.code ≠ 0 → m.code ≠ Code.noSpace.num → exec (.msAddAck idx) s =
          .next (coreFault s1 src 5 m.code false e.addr (msDetail e (msDesc e.td).targetCore m.code) 0)))))) ∧
  (∀ (idx : Nat) (m : Msg) (src ctx core ms : Nat) (inc : Word) (k : CoreId) (e : WEnt) (s : State),
     (s.net[idx]? = some m → m.body = .remoteAdd src ctx core ms inc →
       ((getPage s (pgCore core)).moving = true → exec (.remoteAddArrival idx) s = .next s) ∧
       ((getPage s (pgCore core)).moving = false →
         (let answer := fun (s : State) (code : Nat) =>
            sendAnswer s (dieOfCore core) (answerTo s (dieOfCore src) code m (.remoteAddAck src core))
          let last := BitVec.ofNat 32 (m.srcChip * 65536 + src * 16 + 5)
          let mine := (getCtx s ctx).cores.contains core = true ∧ (getCtx s ctx).jobTag = m.job
          let q := look s.heldQ (dieOfCore core) []
          let s1 := dropMsg s idx
          (msgReach s m core 5 = false ∨ s.hide.draining = true →
            exec (.remoteAddArrival idx) s = .next (answer s1 Code.fenced.num)) ∧
          (msgReach s m core 5 = true → s.hide.draining = false →
            ((getCtx s ctx).state = .free ∨ ¬ mine →
              exec (.remoteAddArrival idx) s = .next (answer (addEvent s1 (pgCtl (dieOfCore core)) 1) Code.notOwner.num)) ∧
            ((getCtx s ctx).state ≠ .free → (getCtx s ctx).state ≠ .running → mine →
              (q.length < 1024 → exec (.remoteAddArrival idx) s =
                (let h := { core := core, ms := ms, last := last, inc := inc, ctx := ctx : Held }
                 .next (answer { s1 with heldQ := store s.heldQ (dieOfCore core) (q ++ [h]) } 0))) ∧
              (1024 ≤ q.length → exec (.remoteAddArrival idx) s = .next (answer s1 Code.noSpace.num))) ∧
            ((getCtx s ctx).state = .running → mine →
              ((mileOf (getCore s core) ms).barrier = true →
                exec (.remoteAddArrival idx) s = .next (answer s1 Code.wrongState.num)) ∧
              ((mileOf (getCore s core) ms).barrier = false → msEnt (getCore s core) = none → Runs (.remoteAddArrival idx) s (fun t =>
                (mileOf (getCore t core) ms).value = (mileOf (getCore s core) ms).value + inc ∧
                (mileOf (getCore t core) ms).last = last ∧
                (∀ j, j ≠ ms → mileOf (getCore t core) j = mileOf (getCore s core) j))) ∧
              ((mileOf (getCore s core) ms).barrier = false → exec (.remoteAddArrival idx) s = .next (answer (msProgress
                (logChange (signalMs s1 core ms inc.toNat last).1 core ms inc.toNat ctx last) core) 0))))))) ∧
     ((runningCtx s k).isSome = true → msEnt (getCore s k) = some e → iOpcode e.ins = 1 → e.sent = 0 → e.firstTry ≠ 0 →
       (passed s (e.firstTry - 1) 1000000 = true →
         exec (.addRetry k) s = .next (coreFault s k 5 Code.timedOut.num false e.addr 0 0)) ∧
       (passed s (e.firstTry - 1) 1000000 = false → passed s (e.since - 1) 1000 = true →
         exec (.addRetry k) s = .next (sendRemote s k e)) ∧
       (passed s (e.firstTry - 1) 1000000 = false → passed s (e.since - 1) 1000 = false → exec (.addRetry k) s = .next s)))

/-- R190, R191: an arrival of the barrier's round is counted, one of the next round is kept pending, any other is refused with
SEQUENCE, one for a milestone that is no barrier with WRONG_STATE, and one that a fence turns away with FENCED. The arrival that
fills a round completes it at once, and a round that PENDING has filled completes in a cycle of its own: GEN advances, ARRIVED takes
PENDING, and a release goes to every core of the context; an arrival that finds such a round comes after it. A release that arrives adds 1 to the release milestone; a BARRIER-mode one
faults the home core. -/
def Obligations.Barriers : Prop :=
  ∀ (idx : Nat) (msg : Msg) (src home core ms r : Nat) (k : CoreId) (b : Fin 48) (s : State),
    let releases := fun (c j : Nat) (m : Mile) => (getCtx s c).cores.map (fun i =>
      let q := innerMsg s (dieOfCore i) 0 0 false (.release j i m.relMs)
      packetOf (coreStop s j) (coreStop s i) (.msg q) q)
    (s.net[idx]? = some msg → msg.body = .arrive src home ms r →
      ((getPage s (pgCore home)).moving = true → exec (.barrierArrival idx) s = .next s) ∧
      ((getPage s (pgCore home)).moving = false →
        (let m := mileOf (getCore s home) ms
         let g := m.gen.toNat
         let v := (m.value + 1#32).toNat
         let due := v / 65536 ≤ v % 65536
         let ack := { innerMsg s (dieOfCore src) 0 0 true (.localAck src home) with
                      req := msg.req, mark := msg.mark, epoch := msg.epoch }
         let acked := packetOf (coreStop s home) (coreStop s src) (.msg ack) ack
         let quiet := activeCtx s home = none ∨ roundDue m = false
         (¬ quiet →
           (let t1 := completeRound (dropMsg s idx) home ms
            let m := mileOf (getCore t1 home) ms
            let g := m.gen.toNat
            let last := lastWord t1 src 5
            (msgReach t1 msg home 5 = false → exec (.barrierArrival idx) s = .next (ackLocal t1 msg src home Code.fenced.num)) ∧
            (msgReach t1 msg home 5 = true → m.barrier = true →
              (r = g % 65536 → exec (.barrierArrival idx) s = .next (ackLocal
                (completeRound (putMile t1 home ms { m with value := m.value + 1, last := last }) home ms) msg src home 0)) ∧
              (r ≠ g % 65536 → r = (g % 65536 + 1) % 65536 → g / 65536 < 65535 → exec (.barrierArrival idx) s = .next (ackLocal
                (putMile t1 home ms { m with gen := m.gen + 0x10000#32, last := last }) msg src home 0)) ∧
              (r ≠ g % 65536 → r ≠ (g % 65536 + 1) % 65536 ∨ g / 65536 = 65535 →
                exec (.barrierArrival idx) s = .next (ackLocal t1 msg src home Code.sequence.num))))) ∧
         (quiet → msgReach s msg home 5 = false →
           exec (.barrierArrival idx) s = .next (ackLocal (dropMsg s idx) msg src home Code.fenced.num)) ∧
         (quiet → msgReach s msg home 5 = true →
           (m.barrier = false → exec (.barrierArrival idx) s = .next (ackLocal (dropMsg s idx) msg src home Code.wrongState.num)) ∧
           (m.barrier = true → r = g % 65536 → ¬ due ∨ activeCtx s home = none → Runs (.barrierArrival idx) s (fun t =>
             mileOf (getCore t home) ms = { m with value := m.value + 1, last := lastWord s src 5 } ∧
             t.fabric.packets = s.fabric.packets ++ [acked])) ∧
           (∀ c, m.barrier = true → r = g % 65536 → due → activeCtx s home = some c → Runs (.barrierArrival idx) s (fun t =>
             mileOf (getCore t home) ms = { m with value := BitVec.ofNat 32 (v / 65536 * 65536 + g / 65536),
                                                   gen := BitVec.ofNat 32 ((g + 1) % 65536), last := lastWord s src 5 } ∧
             t.fabric.packets = s.fabric.packets ++ releases c home m ++ [acked])) ∧
           (m.barrier = true → r = (g % 65536 + 1) % 65536 → g / 65536 < 65535 → Runs (.barrierArrival idx) s (fun t =>
             mileOf (getCore t home) ms = { m with gen := m.gen + 0x10000#32, last := lastWord s src 5 } ∧
             t.fabric.packets = s.fabric.packets ++ [acked])) ∧
           (m.barrier = true → r ≠ g % 65536 → r ≠ (g % 65536 + 1) % 65536 ∨ g / 65536 = 65535 →
             exec (.barrierArrival idx) s = .next (ackLocal (dropMsg s idx) msg src home Code.sequence.num)))))) ∧
    (let m := mileOf (getCore s k) b
     let v := m.value.toNat
     (∀ c, activeCtx s k = some c → m.barrier = true → v / 65536 ≤ v % 65536 → Runs (.barrierRoundComplete k b) s (fun t =>
        mileOf (getCore t k) b = { m with value := BitVec.ofNat 32 (v / 65536 * 65536 + m.gen.toNat / 65536),
                                          gen := BitVec.ofNat 32 ((m.gen.toNat + 1) % 65536) } ∧
        t.fabric.packets = s.fabric.packets ++ releases c k m ∧ t.net = s.net)) ∧
     (m.barrier = false ∨ v % 65536 < v / 65536 → exec (.barrierRoundComplete k b) s = .next s)) ∧
    (s.net[idx]? = some msg → msg.body = .release home core ms →
      ((getPage s (pgCore core)).moving = true → exec (.barrierReleaseArrival idx) s = .next s) ∧
      ((getPage s (pgCore core)).moving = false →
        ((getCore s core).ctx = none ∨ msgReach s msg core 5 = false → exec (.barrierReleaseArrival idx) s = .next (dropMsg s idx)) ∧
        ((getCore s core).ctx.isSome = true → msgReach s msg core 5 = true → (mileOf (getCore s core) ms).barrier = true →
          exec (.barrierReleaseArrival idx) s = .next (coreFault (dropMsg s idx) home 5 Code.wrongState.num false 0 core 0)) ∧
        ((getCore s core).ctx.isSome = true → msgReach s msg core 5 = true → (mileOf (getCore s core) ms).barrier = false →
          exec (.barrierReleaseArrival idx) s =
            .next (msProgress (signalMs (dropMsg s idx) core ms 1 (lastWord s home 5)).1 core)) ∧
        ((getCore s core).ctx.isSome = true → msgReach s msg core 5 = true → (mileOf (getCore s core) ms).barrier = false →
          msEnt (getCore s core) = none → Runs (.barrierReleaseArrival idx) s (fun t =>
            (mileOf (getCore t core) ms).value = (mileOf (getCore s core) ms).value + 1 ∧
            (mileOf (getCore t core) ms).last = lastWord s home 5 ∧ t.net = s.net.eraseIdx idx))))

/-- R126, R173, R356, R357: a check of its own logic or an error in a tile store segment that an engine meets on a core of a RUNNING
or SAVING context records the engine, CHECK_FAILED, the segment and the time in an empty fault record, counts against the context,
which is FAULTED, and stops every core of it; a full record keeps what it holds and notes the overflow; without a context the site
at work is charged, but for a check of DM's own logic; a parity error of an engine's control state resets the engine besides (R383); a
corrected error is counted alone. R167 to R169, R357, R360, R361: a save of a
context. Once every core has stopped the core records are written and phase 2 begins; the header then completes the image, after
which a pre-empted context is IDLE without its cores, a halt is HALTED, a forced test begins, and any other save runs on; a write
that fails faults the context, and a header is not written once 1 ms has passed; a first phase that lasts 60 µs apart from its waits
for ADDs to other chips hangs the cores that have not stopped; the image is not written while its channels do not serve (R211). A
fault that has settled restores the newest image, tests in place every site whose first hardware fault it was, and leaves those whose
second it was, once their control processors run. -/
def Obligations.FaultsAndSaves : Prop :=
  (∀ (core : CoreId) (eng : Fin 6) (k : EngineCheck) (g : BitVec 12) (c : Nat) (s : State),
     let y := getCore s core
     let pc := ((headOf y eng).map (fun e => e.addr)).getD 0
     let noted := fun (s : State) (d : Nat) => recordFault s core 2 eng Code.checkFailed.num none pc d 0
     let worked := fun (s : State) => ((workingSite s core).map (fun q => q.1)).getD (siteOf s core)
     exec (.engineFault core eng (.corrected g)) s = .next (addCorrected s (pgCore core) 1) ∧
     exec (.engineFault core eng .control) s =
       .next (startReset (engineFault s core eng (eng.val != 4) 0) (.engine core eng) Code.checkFailed.num false) ∧
     (y.ctx = some c → (getCtx s c).state = .running ∨ (getCtx s c).state = .saving → (getCtx s c).cores.contains core = true →
       (∀ g, k ≠ .corrected g) → k ≠ .control → Runs (.engineFault core eng k) s (fun t =>
         (getCtx t c).state = .faulted ∧ (getCtx t c).faults = (getCtx s c).faults + 1 ∧ (getCtx t c).faultCode = Code.checkFailed.num ∧
         (∀ j, (getCtx s c).cores.contains j = true → (getCore t j).runState = 5) ∧
         (y.fr.valid = false → (getCore t core).fr =
           { valid := true, overflow := false, engine := eng, code := Code.checkFailed.num, ctx := c, ctxNamed := true, kind := 2,
             pc := pc, detail := (getCore t core).fr.detail, addr := 0, time := s.odometer }) ∧
         (y.fr.valid = false → k = .logic → (getCore t core).fr.detail = 0) ∧
         (y.fr.valid = false → k = .tileStore g → (getCore t core).fr.detail = g.toNat) ∧
         (k = .tileStore g →
           (getPage t (pgCore core)).errUncorrected = sat32 (getPage s (pgCore core)).errUncorrected 1) ∧
         (y.fr.valid = true → (getCore t core).fr = { y.fr with overflow := true }))) ∧
     (y.ctx = none →
       (eng = 4 → exec (.engineFault core eng .logic) s = .next (noted s 0)) ∧
       (eng ≠ 4 → exec (.engineFault core eng .logic) s = .next (siteFault (noted s 0) (worked (noted s 0)))) ∧
       (let u := addUncorrected s (pgCore core) 1
        exec (.engineFault core eng (.tileStore g)) s = .next (siteFault (noted u g.toNat) (worked (noted u g.toNat)))))) ∧
  (∀ (c : CtxId) (v : Saving) (s : State),
     let x := getCtx s c
     let base := slotAt x (freeImageSlot s c)
     (x.saving = some v → x.state = .saving → imageReady s x = false →
       exec (.preemptPhase1Done c) s = .next s ∧ exec (.imageComplete c) s = .next s) ∧
     (x.saving = some v → x.state = .saving → v.phase2 = false → phase1Done s c = true → imageReady s x = true →
       (let w := writeRecords (writeHeader s x base (List.replicate 0x20 0)) x base
        (w.2 = none → exec (.preemptPhase1Done c) s =
          .next (modCtx w.1 c (fun x => { x with saving := some { v with phase2 := true } }))) ∧
        (∀ f, w.2 = some f → exec (.preemptPhase1Done c) s = .next (imageFault w.1 c f)))) ∧
     (x.saving = some v → x.state = .saving → v.phase2 = true → v.after < 5 → shadowsDone s c = true → imageReady s x = true →
       (let w := writeHeader s x base (newHeader s c v)
        (saveLate s x v = true → exec (.imageComplete c) s = .next s) ∧
        (saveLate s x v = false →
          (∀ f, w.2 = some f → exec (.imageComplete c) s = .next (imageFault w.1 c f)) ∧
          (w.2 = none →
            (v.after ≠ 3 → x.preemptPost.isSome = true ∨ v.after = 0 ∨ w.1.hide.draining = true → Runs (.imageComplete c) s (fun t =>
              (getCtx t c).state = .idle ∧ (getCtx t c).saving = none ∧ (getCtx t c).faults = 0 ∧ (getCtx t c).runPost = none ∧
              (getCtx t c).preemptPost = none ∧ ∀ k, x.cores.contains k = true → (getCore t k).ctx = none)) ∧
            (v.after = 3 → exec (.imageComplete c) s = .next (completePreempt
              (enterHalted (imageReleases w.1 c) c v.haltCode v.haltCore) c Code.wrongState.num 0)) ∧
            (x.preemptPost = none → w.1.hide.draining = false → v.after = 4 → Runs (.imageComplete c) s (fun t =>
              (getCtx t c).saving = some { v with after := 5 } ∧ (getCtx t c).state = .saving ∧ t.hide.tests =
                s.hide.tests ++ [{ site := siteOf s v.haltCore, why := 4, core := v.haltCore, start := s.odometer }])) ∧
            (x.preemptPost = none → w.1.hide.draining = false → v.after = 1 ∨ v.after = 2 →
              exec (.imageComplete c) s = .next (runOn (imageReleases w.1 c) c)))))) ∧
     (x.saving = some v → x.state = .saving → v.after < 5 →
       (v.phase2 = true → exec (.preemptOverrun c) s =
         .next (if saveLate s x v then enterFaulted s c Code.timedOut.num (x.cores.headD 0) else s)) ∧
       (v.phase2 = false → passed s (v.start + v.waited) 60000 = false → exec (.preemptOverrun c) s = .next s) ∧
       (v.phase2 = false → passed s (v.start + v.waited) 60000 = true →
         (let stuck := x.cores.filter (fun k => !coreStopped (getCore s k) && !awaitsAdd (getCore s k))
          (stuck = [] → x.cores.any (fun k => awaitsAdd (getCore s k)) = true → exec (.preemptOverrun c) s = .next s) ∧
          (stuck ≠ [] ∨ x.cores.any (fun k => awaitsAdd (getCore s k)) = false → exec (.preemptOverrun c) s =
            .next (stuck.foldl hangCore (enterFaulted s c Code.timedOut.num (stuck.headD (x.cores.headD 0)))))))) ∧
     (x.state = .faulted → x.replay = 1 → s.hide.draining = false → s.power.state = .on → faultSettled s c = true →
       (x.cores.any (fun k => !dieUp s (dieOfCore k)) = true →
         exec (.replayStopped c) s = .next (modCtx s c (fun x => { x with replay := 3 }))) ∧
       (x.cores.any (fun k => !dieUp s (dieOfCore k)) = false →
         (x.cores.any (fun k => (coreSite s k).testing) = true → exec (.replayStopped c) s = .next s) ∧
         (x.cores.any (fun k => (coreSite s k).testing) = false →
           (x.hwCores = [] → exec (.replayStopped c) s = .next (replayNow s c)) ∧
           (let new := x.hwCores.filter (fun k => !siteGoes s (siteOf s k))
            (new ≠ [] → exec (.replayStopped c) s = .next (modCtx
              (new.foldl (fun s k => startTest (retestFirst s (dieOfCore k)) (siteOf s k) 2 k) s) c (fun x => { x with replay := 2 }))) ∧
            (new = [] → x.hwCores.any (fun k => restarting s (dieOfCore k)) = true →
              exec (.replayStopped c) s = .next (x.hwCores.foldl markFailed s)) ∧
            (new = [] → x.hwCores.any (fun k => restarting s (dieOfCore k)) = false →
              exec (.replayStopped c) s = .next (replayNow (x.hwCores.foldl leaveFaulted s) c)))))))

/-! ### Kerbside engines and channels (chapters 10 and 11) -/

/-- R225, R226, R229, R238, R240: an engine reads the next descriptor of a list that runs, once its channels take the read. It
passes a descriptor of another die over, stops the list on a program error, waits for a trigger or starts its share; a descriptor
that cannot be read faults every engine that has come to it and cannot reach it; a trigger that is reached starts the shares that wait for it, engine by
engine; a save pauses every list, once a list that has stopped has ended its shares in progress. -/
def Obligations.KerbLists : Prop :=
  ∀ (chan : ChanId) (die : DieId) (c : CtxId) (slot : Fin 4) (b : List Byte) (f : Code) (fa : Code × Nat) (s : State),
    let p := kPos s chan c slot
    let w := wordsOf b 32
    let q : KPos := { p with words := w, block := 0, flags := 0, range := false, code := 0 }
    let at_ := (getList s c slot).addr + 128 * p.desc
    (listRuns s chan c slot = true → p.stage = 0 → rangeReady s (ctxPart s c) at_ 128 = true →
      (readRangeAt s (dieOfChan chan) (ctxPart s c) at_ 128 = .ok b →
        (kTakesPart w chan = false →
          exec (.kerbDescriptorRead chan c slot) s = .next (freeIfDone (setKPos s chan c slot { desc := p.desc + 1 }) c slot)) ∧
        (kTakesPart w chan = true → kCheck (getCtx s c).cores w = some f →
          exec (.kerbDescriptorRead chan c slot) s = .next (programError s chan c slot q f.num)) ∧
        (kTakesPart w chan = true → kCheck (getCtx s c).cores w = none → kTrigEn w = true →
          exec (.kerbDescriptorRead chan c slot) s = .next (setKPos s chan c slot { q with stage := 1 })) ∧
        (kTakesPart w chan = true → kCheck (getCtx s c).cores w = none → kTrigEn w = false →
          exec (.kerbDescriptorRead chan c slot) s = .next (startShare s chan c slot q))) ∧
      (readRangeAt s (dieOfChan chan) (ctxPart s c) at_ 128 = .error fa →
        exec (.kerbDescriptorRead chan c slot) s =
          .next (((List.range 192).filter (fun k => kerbUp s k && (kPos s k c slot).desc == p.desc && (kPos s k c slot).stage == 0 &&
              !(readRangeAt s (dieOfChan k) (ctxPart s c) at_ 128).isOk)).foldl
            (fun u k => shareFault u k c slot (kPos u k c slot) fa.1.num at_) s))) ∧
    (listRuns s chan c slot = false ∨ p.stage ≠ 0 ∨ rangeReady s (ctxPart s c) at_ 128 = false →
      exec (.kerbDescriptorRead chan c slot) s = .next s) ∧
    (let due := fun (u : State) (k : Nat) => listRuns u k c slot && (kPos u k c slot).stage == 1 &&
       waitHolds (mileOf (getCore u (kTrigCore (kPos u k c slot).words)) (kTrigMs (kPos u k c slot).words)) 1
         (nth (kPos u k c slot).words 2)
     (ctlAlive s die = false → exec (.kerbTrigger die c slot) s = .next s) ∧
     (ctlAlive s die = true →
       exec (.kerbTrigger die c slot) s = .next ((List.range 48).foldl (fun u i =>
         if due u (48 * die.val + i) then startShare u (48 * die.val + i) c slot (kPos u (48 * die.val + i) c slot) else u) s) ∧
       ((∀ k, dieOfChan k = die → due s k = false) → exec (.kerbTrigger die c slot) s = .next s) ∧
       (dieOfChan chan = die → due s chan = true → (∀ k, k ≠ chan.val → dieOfChan k = die → due s k = false) →
         exec (.kerbTrigger die c slot) s = .next (startShare s chan c slot p)))) ∧
    ((getCtx s c).state = .saving → endsShare s c = false → Runs (.kerbPause c) s (fun t =>
      (∀ e ∈ (getCtx t c).lists, e.2.paused = true) ∧
      (getCtx t c).lists.length = (getCtx s c).lists.length ∧ t.kerbs = s.kerbs ∧ t.hbm = s.hbm)) ∧
    ((getCtx s c).state ≠ .saving ∨ endsShare s c = true → exec (.kerbPause c) s = .next s)

/-- R211, R223, R226, R227, R229, R230, R232, R236 to R239: a block step of the list whose turn it is writes what its operation
computes, in order, after every residue check has passed, counts the bytes moved at home and away, and records the next block; an
operand that cannot be read or written faults the share, one out of its channel is a program error, and a third failed check in 24
hours ends the share while the chip drains; a row whose index is out of range is counted, and a gather fills it with zeros. A share
without blocks left writes its status word, is finished in the done list, counts one event and signals DONE_MS; a signal that found
no room is tried again after 1 µs; failures of the residue check older than 24 hours no longer count. R324: the oldest part that
waits at a collective's member is reduced once its check has passed and its channels serve, and goes on, or is written at its last
step, which counts the bytes written in the engine's own channel at home and the others away. -/
def Obligations.KerbSteps : Prop :=
  (∀ (chan : ChanId) (c : CtxId) (slot : Fin 4) (bad k lo hi i home away addr code : Nat) (f : Code)
     (l : List (Nat × List Byte × Bool)) (fl : Flags) (s : State),
     let p := kPos s chan c slot
     let w := p.words
     let run := exec (.kerbBlockStep chan c slot bad) s
     (hasTurn s chan c slot = false ∨ chanReady s chan = false → run = .next s) ∧
     (hasTurn s chan c slot = true → chanReady s chan = true →
       (let out := blockOut s chan c w lo hi i
        (kStepOf s chan c p = .fault code addr → run = .next (shareFault s chan c slot p code addr)) ∧
        (kStepOf s chan c p = .block k lo hi i → kBlockFail s c lo = some f → run = .next (shareFault s chan c slot p f.num lo)) ∧
        (kStepOf s chan c p = .block k lo hi i → kBlockFail s c lo = none →
          (out = .wait → run = .next s) ∧
          (out = .align → run = .next (programError s chan c slot p Code.align.num)) ∧
          (out = .fault f addr → run = .next (shareFault s chan c slot p f.num addr)) ∧
          (out = .writes l home away fl →
            (let ready := l.any (fun e => !rangeReady s (ctxPart s c) e.1 e.2.1.length) = false
             let s1 := if kChecked w then residueFails s chan bad else (s, false)
             let s2 := kWrite s1.1 chan c l
             (¬ ready → run = .next s) ∧
             (ready → s1.2 = true → run = .next (setKPos (leaveStatus s1.1 chan c w (kStatus p Code.checkFailed.num)) chan c slot
               { p with stage := 4, code := Code.checkFailed.num })) ∧
             (ready → s1.2 = false → s2.2 = some (f, addr) → run = .next (shareFault s2.1 chan c slot p f.num addr)) ∧
             (ready → s1.2 = false → s2.2 = none →
               run = .next (kAdvance (bump64 (bump64 s2.1 (pgKerb chan) 0x054 home) (pgKerb chan) 0x05C away)
                 chan c slot { p with block := k + 1, flags := p.flags ||| fl }))))) ∧
        (kStepOf s chan c p = .zero k i →
          (let s1 := bump32 s (pgKerb chan) 0x064 1
           let at_ := kAddr w 2 + i * kRowBytes w
           let s2 := writeRangeAt s1 (dieOfChan chan) (ctxPart s1 c) at_ (List.replicate (kRowBytes w) 0)
           let next := { p with block := k + 1, range := true }
           let ready := rangeReady s (ctxPart s c) at_ (kRowBytes w) = true
           (kOp w = 8 → ¬ ready → run = .next s) ∧
           (kOp w ≠ 8 → run = .next (kAdvance (bump64 s1 (pgKerb chan) 0x05C 0) chan c slot next)) ∧
           (kOp w = 8 → ready → s2.2 = none → run = .next (kAdvance (bump64 s2.1 (pgKerb chan) 0x05C (kRowBytes w)) chan c slot next)) ∧
           (kOp w = 8 → ready → s2.2 = some (f, addr) → run = .next (shareFault s2.1 chan c slot next f.num at_))))))) ∧
  (∀ (chan : ChanId) (c : CtxId) (slot : Fin 4) (f : Code) (s : State),
     let p := kPos s chan c slot
     let at_ := kAddr p.words 5 + 4 * kIndex p.words chan
     let s1 := writeStatus s chan c p.words (kStatus p 0)
     let same := fun (d : Done) => d.ctx == c.val && d.slot == slot.val && d.seq == (getList s c slot).seq && d.desc == p.desc
     (shareGoes s chan c slot = true → (p.stage = 2 ∧ kStepOf s chan c p = .done) ∨ (p.stage = 3 ∧ p.at_ = 0) →
       (rangeReady s (ctxPart s c) at_ 4 = false → exec (.kerbShareDone chan c slot) s = .next s) ∧
       (rangeReady s (ctxPart s c) at_ 4 = true →
         (s1.2 = some f → exec (.kerbShareDone chan c slot) s = .next (shareFault s1.1 chan c slot p f.num at_)) ∧
         (s1.2 = none →
           (let s2 := modKerb s1.1 chan (fun k =>
              { k with stepAt := none, done := k.done.map (fun d => if same d then { d with finished := true } else d) })
            exec (.kerbShareDone chan c slot) s = .next (shareSignal (traceEvent (addEvent s2 (pgKerb chan) 1) 4 chan c 0 0
              [(getList s c slot).seq, p.desc, kStatus p 0, 0]) chan c slot p))))) ∧
     (kerbUp s chan = true → p.stage = 3 → p.at_ ≠ 0 →
       (passed s p.at_ 1000 = true → exec (.kerbSignalRetry chan c slot) s = .next (shareSignal s chan c slot p)) ∧
       (passed s p.at_ 1000 = false → exec (.kerbSignalRetry chan c slot) s = .next s)) ∧
     Runs (.residueExpiry chan) s (fun t =>
       (getKerb t chan).resTimes = (getKerb s chan).resTimes.filter (fun t => s.odometer < t + 86400000000000) ∧
       (∀ k, k ≠ chan.val → getKerb t k = getKerb s k) ∧ t.pages = s.pages ∧ t.hbm = s.hbm)) ∧
  (∀ (die : DieId) (bad : Nat) (q : Reduce) (rest : List Reduce) (b : ColMsg) (own : List Byte) (f : Code × Nat) (s : State),
     let x := getColSlot s die q.slot
     let w := x.words
     let off := 64 * b.offset
     let src := wAddr w 12 + off
     let chan := (placeOf s (frameEntry s (src / 65536)) src).1
     let drop := fun (s : State) => setCol s die { getCol s die with reduce := rest }
     let run := exec (.chunkReductionDone die bad) s
     ((getCol s die).reduce = [] → run = .next s) ∧
     let seg := ringSub w (ringPrev w) b.step
     let lo := seg * colSeg w
     let at_ := if colKind w == 2 then off - lo else off
     let last := colRanks w ≤ b.step + 1
     let ready := colRange s x src b.payload.length = true ∧ (last → colDstReady s x at_ b.payload.length = true)
     ((getCol s die).reduce = q :: rest → q.msg.body = .col b → ¬ ready → run = .next s) ∧
     ((getCol s die).reduce = q :: rest → q.msg.body = .col b → ready →
       (readRangeAt s die (ctxPart s x.ctx) src b.payload.length = .error f →
         run = .next (colAbort (colAnswer (drop s) die q.msg 5 f.1.num) die q.slot f.1.num f.2 true)) ∧
       (readRangeAt s die (ctxPart s x.ctx) src b.payload.length = .ok own →
         (kerbUp s chan = false → run = .next s) ∧
         (kerbUp s chan = true →
           (let s1 := residueFails s chan bad
            let r := reduceSum s1.1 die chan q rest b own
            let s2 := r.1
            let s3 := colWrite s2 die q.slot at_ r.2
            (s1.2 = true → run = .next s1.1) ∧
            (s1.2 = false → ¬ last → run = .next (colDrive (colPump (colForward
              (colTaken s2 die q.slot q.msg (b.step, b.offset)) die q.slot (b.step + 1) off lo (segLen w seg) r.2) die) die q.slot)) ∧
            (s1.2 = false → last → s3.2 = some f →
              run = .next (colAbort (colAnswer s3.1 die q.msg 5 f.1.num) die q.slot f.1.num f.2 true)) ∧
            (s1.2 = false → last → s3.2 = none →
              (let u := colCountWrite s3.1 chan (wAddr w 14 + at_) r.2.length
               let s4 := colTaken (if colOutEn w then colCountWrite u chan (wAddr w 16 + at_ / 2) (r.2.length / 2) else u)
                 die q.slot q.msg (b.step, b.offset)
               let s5 := if colKind w == 1 then colForward s4 die q.slot (colRanks w) off lo (segLen w seg) r.2 else s4
               run = .next (colDrive (colPump s5 die) die q.slot))))))))

/-- R196, R205 to R209, R223, R242: an access to a channel that is ready. A good read changes nothing; a corrected granule is
counted and noted with its row, and the fourth of a row within 24 hours wants a repair; an uncorrectable one poisons its granule and
wants one; a row that no spare can replace joins the bad-row list; a write to a claimed frame is accepted under its owner's key;
scrub reads take the granules in turn. R211 to R213, R215, R217, R253, R415: maintenance windows open on at most one channel of a
stack and four of the module, 100 ms apart, and close with the wanted repairs done, or are abandoned after 40 µs, the third in a row
losing the stack; a lost stack drains the module; a returning fill is installed unless a flush covered it; a line whose parity fails
is dropped, counted and read again; a free scoreboard entry goes to the oldest reservation, whose request leaves its source. -/
def Obligations.Channels : Prop :=
  (∀ (chan : ChanId) (stack : StackId) (off : Word) (l : List Byte) (f i : Nat) (ecc : Ecc) (write : Option (List Byte)) (s : State),
     let k := chan.val / 16
     let x := getStack s k
     let row := (chan.val % 16, off.toNat / 1024)
     let wanted := (x.need.filter (fun e => e.1 == chan.val % 16)).length
     let old := fun (r : Nat × Nat × Nat) => r.1 == row.1 && r.2.1 == row.2 && decide (s.odometer < r.2.2 + 86400000000000)
     (channelServes s chan = false ∨ chanReady s chan = false → exec (.channelAccess chan off write ecc) s = .next s) ∧
     (channelServes s chan = true → chanReady s chan = true →
       exec (.channelAccess chan off none .good) s = .next s ∧
       Runs (.channelAccess chan off none .corrected) s (fun t =>
         ((x.rowErrs.filter old).length < 3 ∨ wanted < sparesOf x row.1 → t.hbm = s.hbm ∧ t.poison = s.poison) ∧
         ((x.rowErrs.filter old).length < 3 →
           (getPage t (pgHbm k)).errCorrected = sat32 (getPage s (pgHbm k)).errCorrected 1 ∧ (getStack t k).need = x.need) ∧
         (3 ≤ (x.rowErrs.filter old).length → wanted < sparesOf x row.1 → row ∈ (getStack t k).need)) ∧
       Runs (.channelAccess chan off none .uncorrectable) s (fun t =>
         (wanted < sparesOf x row.1 ∨ x.badRows.length < 256 →
           t.hbm = s.hbm ∧ look t.poison (physOf (chan, off.toNat) / 32) false = true) ∧
         (wanted < sparesOf x row.1 → row ∈ (getStack t k).need ∧
           (getPage t (pgHbm k)).errUncorrected = sat32 (getPage s (pgHbm k)).errUncorrected 1) ∧
         (sparesOf x row.1 ≤ wanted → row ∉ x.need → x.badRows.length < 256 → row ∈ (getStack t k).badRows)) ∧
       (ownerFrame s chan off.toNat = some (f, i) → off.toNat % 32 + l.length ≤ 32 →
         exec (.channelAccess chan off (some l) ecc) s = .next (writePhys s chan (physOf (chan, off.toNat))
           (sealOf s (fePart (frameEntry s f)) (ownerAddr s chan off.toNat f / 512)) l).1) ∧
       (ownerFrame s chan off.toNat = none → exec (.channelAccess chan off (some l) ecc) s = .next s)) ∧
     (let y := getStack s stack
      let chan := stack.val * 16 + y.scrub % 16
      let on := bitOf (regOf s (pgHbm stack) 0x044) 8 = true ∧ channelServes s chan = true
      (on → exec (.scrubRead stack ecc) s =
        .next (eccOutcome (modStack s stack (fun x => { x with scrub := (x.scrub + 1) % (16 * 2 ^ 27) })) chan (y.scrub / 16 * 32) ecc)) ∧
      (on → Runs (.scrubRead stack .good) s (fun t => (getStack t stack).scrub = (y.scrub + 1) % (16 * 2 ^ 27) ∧ t.hbm = s.hbm)) ∧
      (¬ on → exec (.scrubRead stack ecc) s = .next s))) ∧
  (∀ (chan : ChanId) (stack : StackId) (die : DieId) (line : BitVec 33) (l : RlcFill) (r : Nat × Nat) (d : DmReq) (rest : List RlcFill)
     (more : List (Nat × Nat)) (s : State),
     let k := chan.val / 16
     let x := getStack s k
     let ch := chan.val % 16
     let start := look x.maintStart ch 0
     let total := (List.range 12).foldl (fun n j => n + openWindows (getStack s j)) 0
     let may := channelServes s chan = true ∧ hbmTraining s = false ∧ openWindows x = 0 ∧ total < 4 ∧
       (start = 0 ∨ start - 1 + 100000000 ≤ s.odometer)
     (may → Runs (.maintWindowOpen chan) s (fun t => look (getStack t k).maint ch false = true ∧
       (getPage t (pgHbm k)).events = sat32 (getPage s (pgHbm k)).events 1)) ∧
     (¬ may → exec (.maintWindowOpen chan) s = .next s) ∧
     (look x.maint ch false = true → s.odometer ≤ start - 1 + 40000 → Runs (.maintWindowClose chan) s (fun t =>
       (getStack t k).need = x.need.filter (fun e => e.1 != ch) ∧ look (getStack t k).maint ch false = false ∧
       look (getStack t k).winFails ch 0 = 0)) ∧
     (look x.maint ch false = false ∨ start - 1 + 40000 < s.odometer → exec (.maintWindowClose chan) s = .next s) ∧
     (look x.maint ch false = true → start - 1 + 40000 ≤ s.odometer → Runs (.maintWindowAbandon chan) s (fun t =>
       look (getStack t k).maint ch false = false ∧ look (getStack t k).winFails ch 0 = look x.winFails ch 0 + 1 ∧
       (getStack t k).state = (if look x.winFails ch 0 < 2 then x.state else 2))) ∧
     (look x.maint ch false = false ∨ s.odometer < start - 1 + 40000 → exec (.maintWindowAbandon chan) s = .next s) ∧
     ((getStack s stack).state ≠ 2 → exec (.stackLost stack) s = .next (beginDrain
       (raise (modStack s stack (fun x => { x with state := 2 })) (pgHbm stack) 4) causeStack (pgHbm stack) Code.checkFailed.num)) ∧
     ((getStack s stack).state = 2 → exec (.stackLost stack) s = .next s) ∧
     ((getRlc s die).fills = l :: rest → Runs (.rlcFill (.back die)) s (fun t => (getRlc t die).fills = rest ∧
       (getRlc t die).lines = if l.dead then (getRlc s die).lines
         else installLine (getRlc s die).lines { line := l.line, bytes := l.bytes })) ∧
     ((getRlc s die).fills = [] → exec (.rlcFill (.back die)) s = .next s) ∧
     (let serves := rangeReady s (fePart (frameEntry s (line.toNat / 512))) (128 * line.toNat) 128
      (cacheHolds s die (128 * line.toNat) 128 = false ∨ serves = false → exec (.rlcFill (.parity die line)) s = .next s) ∧
      (cacheHolds s die (128 * line.toNat) 128 = true → serves = true → Runs (.rlcFill (.parity die line)) s (fun t =>
       (getRlc t die).lines = (getRlc s die).lines.filter (fun x => x.line != line.toNat) ∧
       (getPage t (pgRlc die)).errCorrected = sat32 (getPage s (pgRlc die)).errCorrected 1 ∧
       (∀ w, readBlock s (fePart (frameEntry s (line.toNat / 512))) (128 * line.toNat) 128 = .ok w →
         (getRlc t die).fills = (getRlc s die).fills ++ [{ line := line.toNat, bytes := storeBytes [] 0 w }])))) ∧
     ((getKerb s chan).resv = r :: more → (getKerb s chan).sb < 384 → look (getCore s r.1).reqs r.2 none = some d →
       Runs (.reservationGrant chan) s (fun t =>
         ((getKerb t chan).resv = more ∨ ∃ i, (getKerb t chan).resv = more ++ [(r.1, i)]) ∧
         (getKerb t chan).sb = (getKerb s chan).sb + 1 ∧ look (getCore t r.1).reqs r.2 none = some { d with granted := true } ∧
         ∃ q, t.fabric.packets = s.fabric.packets ++ [q] ∧ q.src = coreStop s r.1 ∧ q.cw = 3 ∧ q.resp = false)) ∧
     ((getKerb s chan).resv = [] ∨ 384 ≤ (getKerb s chan).sb → exec (.reservationGrant chan) s = .next s))

/-! ### Links, bridges and traces (chapters 13, 14 and 23) -/

/-- R277, R278, R282: training a port. Light starts an attempt at a dark port that works; each step leads to the next state with the
lanes that are good, and one that leaves no lane fails; a state that outlasts its budget is a failed attempt, tried again 10 ms
later, as is retraining in place 10 ms after its start; loss of light makes the port dark or, where it is planned, absent, and a
LIGHT comparator that watches the port fires at either change; an ACTIVE port retrains in place after 100 µs without progress of ACK
or more than 64 NAKs in 1 ms; a trained one drops a lane that fails, and takes its new widths once both ends are aligned. R279,
R280: the neighbour's identity makes a trained port ACTIVE when every check of the plan passes, and quarantines it with the first
reason otherwise, its queued units discarded and its replay buffer kept, unless the plan is open, which only notes the neighbour;
one that changed while the port retrained takes the port out of ACTIVE. -/
def Obligations.PortTraining : Prop :=
  (∀ (port : PortId) (tx rx : BitVec 8) (lane : Fin 8) (s : State),
     let x := getPort s port
     let dark := x.tstate = 0 ∨ x.tstate = 7
     let others := fun (t : State) => ∀ k, k ≠ port.val → getPort t k = getPort s k
     let ready := portUp s port = true ∧ x.txOff = false ∧ dark
     let watched := s.power.state ≠ .off ∧ (getCmp s 6).en = true ∧ bitOf (getCmp s 6).arg.toNat port = true
     (x.light = true → exec (.lightOn port) s = .next s) ∧
     (x.light = false → exec (.lightLoss port) s = .next s) ∧
     (watched →
       (x.light = false → exec (.lightOn port) s = .next (fireCmp (lightOn s port) 6)) ∧
       (x.light = true → exec (.lightLoss port) s = .next (fireCmp (lightLoss s port) 6))) ∧
     (¬ watched → x.light = false →
       (ready → Runs (.lightOn port) s (fun t => (getPort t port).light = true ∧ (getPort t port).tstate = 1 ∧
         (getPort t port).trainAt = s.odometer ∧ (getPage t (pgPort port)).events = sat32 (getPage s (pgPort port)).events 1 ∧ others t)) ∧
       (¬ ready → exec (.lightOn port) s = .next (setPort s port { x with light := true }))) ∧
     (¬ watched → x.light = true → Runs (.lightLoss port) s (fun t => (getPort t port).light = false ∧
       (getPort t port).tstate = (if portUse s port then 7 else 0) ∧ (getPort t port).replay = (if wasActive x then [] else x.replay) ∧
       others t)) ∧
     (let t2 := if x.retrain then x.txGood &&& tx else tx
      let r2 := if x.retrain then x.laneReq &&& rx else rx
      let f2 := if x.retrain then x.farReq else 0xFF#8
      let fails := t2 &&& f2 = 0 ∨ r2 = 0
      let t3 := x.txGood &&& tx
      let r3 := x.laneReq &&& rx
      let run := exec (.trainStepDone port tx rx) s
      (portUp s port = false ∨ x.tstate ≠ 1 ∧ x.tstate ≠ 2 ∧ x.tstate ≠ 3 → run = .next s) ∧
      (portUp s port = true →
        (x.tstate = 1 → x.trainAt + 10000 ≤ s.odometer → run = .next (setPort s port { x with tstate := 2, trainAt := s.odometer })) ∧
        (x.tstate = 1 → s.odometer < x.trainAt + 10000 → run = .next s) ∧
        (x.tstate = 2 → ¬ fails → run = .next (setPort s port { x with
          tstate := 3, txGood := t2, laneReq := r2, farReq := f2, trainAt := s.odometer })) ∧
        (x.tstate = 2 → fails → run = .next (failTraining s port)) ∧
        (x.tstate = 3 → t3 &&& x.farReq = 0 ∨ r3 = 0 → run = .next (failTraining s port)) ∧
        (x.tstate = 3 → ¬ (t3 &&& x.farReq = 0 ∨ r3 = 0) → Runs (.trainStepDone port tx rx) s (fun t =>
          (getPort t port).tstate = 4 ∧ (getPort t port).identOut = true ∧ (getPort t port).identChecked = false ∧
          (getPort t port).txWidth = widthOf (x.farReq &&& t3) ∧ (getPort t port).txLanes = lanesOf (x.farReq &&& t3) ∧
          (getPort t port).rxWidth = widthOf r3 ∧ (getPort t port).rxLanes = lanesOf r3 ∧ (getPort t port).widthChanging = false ∧
          others t)))) ∧
     (let trains := x.tstate = 2 ∨ x.tstate = 3 ∨ x.tstate = 4
      let tooLong := (x.retrain = true ∧ x.tstate ≠ 4 ∧ x.retrainAt + 10000000 ≤ s.odometer) ∨
        (if x.tstate = 2 then x.trainAt + 30000000 ≤ s.odometer
         else if x.tstate = 3 then x.trainAt + 5000000 ≤ s.odometer
         else x.trainAt + 1000000 ≤ s.odometer ∧ planOpen s = false)
      (trains → tooLong → Runs (.trainTimeout port) s (fun t => t = failTraining s port ∧ (getPort t port).retryAt = s.odometer + 1 ∧
        (getPort t port).tstate = (if portUse s port then 7 else 0) ∧ others t)) ∧
      (¬ trains ∨ ¬ tooLong → exec (.trainTimeout port) s = .next s)) ∧
     (let due := x.light = true ∧ ready ∧ x.retryAt ≠ 0 ∧ x.retryAt - 1 + 10000000 ≤ s.odometer
      (due → exec (.trainRetry port) s = .next (startTraining s port)) ∧ (¬ due → exec (.trainRetry port) s = .next s)) ∧
     (let stuck := 64 < (x.nakTimes.filter (fun t => s.odometer < t + 1000000)).length ∨ (x.replay ≠ [] ∧ x.ackAt + 100000 ≤ s.odometer)
      let due := x.tstate = 5 ∧ portUp s port = true ∧ stuck
      (due → Runs (.portRetrain port) s (fun t => (getPort t port).tstate = 2 ∧ (getPort t port).retrain = true ∧
        (getPort t port).retrainAt = s.odometer ∧ (getPort t port).replay = x.replay ∧ (getPage t (pgPort port)).events = sat32 (getPage s (pgPort port)).events 1 ∧ others t)) ∧
      (¬ due → exec (.portRetrain port) s = .next s)) ∧
     (trained s port = true → exec (.laneFail port lane) s =
       .next (widthChange (setPort s port { x with laneReq := x.laneReq &&& ~~~(1#8 <<< lane.val) }) port)) ∧
     (trained s port = false → exec (.laneFail port lane) s = .next s) ∧
     (trained s port = true → x.widthChanging = true → x.chgOut = false → Runs (.widthChangeDone port) s (fun t =>
       (getPort t port).txLanes = lanesOf (x.farReq &&& x.txGood) ∧ (getPort t port).rxLanes = lanesOf x.laneReq ∧
       (getPort t port).widthChanging = false ∧
       (getPort t port).resendFrom = (if x.widthAt = 0 then x.resendFrom else x.replay.head?.map (fun f => f.seq)) ∧ others t)) ∧
     (trained s port = false ∨ x.widthChanging = false ∨ x.chgOut = true → exec (.widthChangeDone port) s = .next s)) ∧
  (∀ (port : PortId) (id : Ident) (s : State),
     let x := getPort s port
     let r := identReason s port id
     let plan := regOf s (pgPort port) 0x044
     let changed := x.retrain = true ∧ x.nbr ≠ some id
     (trained s port = false → exec (.identReceive port id) s = .next s) ∧
     (trained s port = true →
       (planOpen s = true → Runs (.identReceive port id) s (fun t => (getPort t port).nbr = some id ∧
         (getPort t port).tstate = x.tstate ∧ (getPort t port).qreason = x.qreason ∧ (getPort t port).replay = x.replay)) ∧
       (planOpen s = false → ¬ changed → Runs (.identReceive port id) s (fun t =>
         (getPort t port).tstate = (if r = 0 then 5 else 6) ∧ (getPort t port).qreason = r ∧ (getPort t port).nbr = some id ∧
         (getPort t port).retrain = false ∧ (getPort t port).replay = x.replay ∧
         (getPort t port).rxQueue = (if x.tstate = 4 ∧ x.retrain = false ∧ r ≠ 0 then [] else x.rxQueue) ∧
         (r = 0 → x.tstate ≠ 5 → (getPage t (pgPort port)).pend.getLsbD 3 = true) ∧
         (r ≠ 0 → x.tstate ≠ 6 → (getPage t (pgPort port)).pend.getLsbD 2 = true) ∧
         (r ≠ 0 → wasActive x = true → queuedUnits (getPort t port) = 0 ∧ (getPage t (pgPort port)).pend.getLsbD 0 = true))) ∧
       (planOpen s = false → changed → Runs (.identReceive port id) s (fun t => (getPort t port).nbr = some id ∧
         (getPort t port).retrain = false ∧ (getPort t port).replay = [] ∧ (getPage t (pgPort port)).pend.getLsbD 0 = true))) ∧
     (assigned s = false → r = 1) ∧
     (assigned s = true → bitOf plan 31 = false → r = 2) ∧
     (assigned s = true → bitOf plan 31 = true →
       (id.assigned = false ∨ id.chip.toNat ≠ fieldOf plan 0 16 → r = 3) ∧
       (id.assigned = true → id.chip.toNat = fieldOf plan 0 16 →
         (id.port.toNat ≠ fieldOf plan 16 5 → r = 4) ∧
         (id.port.toNat = fieldOf plan 16 5 → r = if id.digest.toNat = regOf s (pgPort 0) 0x104 then 0 else 5))))

/-- R275, R276, R283 to R287: traffic of a port. A sequenced flit in order is accepted once, one out of order asks for a repetition,
a bad one does too, or repeats its exchange; the header of an IDENT or SYNC flit counts, its SEQ does not. An IDENT flit that is due
goes first, then the answer to a SYNC request, then a flit sent again, then a new one, numbered and kept for replay; a slot of an
ACTIVE port passes and is numbered whether or not a flit goes. Packets of a port in EXCHANGE wait for its check. A packet in
transit is routed by the arrival die's bank, over the bypass bridges to another die, or counted as discarded; one for this chip
enters the fabric of the arrival die or of the next that is up, and in DOZE a request is refused with FENCED; a request without an answer for more than 2 ms leaves OUTSTANDING.
R289, R290: the chip asks its time port once a millisecond; a reply steps or slews the odometer by half the difference of the two
ways, clipped where it is shown; without an exchange for 10 ms the chip is no longer synchronised. -/
def Obligations.LinkTraffic : Prop :=
  (∀ (port : PortId) (f : Flit) (id : Ident) (s : State),
     let x := getPort s port
     let u := bump64 s (pgPort port) 0x060 1
     let run := exec (.linkFlitReceive port f) s
     (trained s port = false → run = .next s) ∧
     (trained s port = true →
       (f.crcOk = false →
         (f.ident = some id → run = .next (setPort s port { x with identOut := true })) ∧
         (f.ident = none → f.sync = true → run = .next s) ∧
         (f.ident = none → f.sync = false → run = .next (setPort s port { x with nakOut := true }))) ∧
       (f.crcOk = true →
         (f.ident = some id → run = .next (takeIdent (takeHeader u port f) port id)) ∧
         (f.ident = none → f.sync = true → run = .next (takeSync (takeHeader u port f) port f)) ∧
         (f.ident = none → f.sync = false → f.seq ≠ x.rxSeq → run = .next (setPort u port { x with nakOut := true })) ∧
         (f.ident = none → f.sync = false → f.seq = x.rxSeq →
           (x.farReq &&& f.laneReq &&& x.txGood ≠ 0 ∧ x.laneReq ≠ 0) ∨
             lanesOf (x.farReq &&& x.txGood) = lanesOf (x.farReq &&& f.laneReq &&& x.txGood) → Runs (.linkFlitReceive port f) s (fun t =>
             (getPort t port).rxQueue = (if x.tstate = 6 then x.rxQueue else x.rxQueue ++ f.msgs) ∧
             (getPort t port).rxSeq = x.rxSeq + 1 ∧ (getPort t port).lastGood = f.seq ∧ (getPort t port).nakOut = false ∧
             (getPort t port).replay = x.replay.filter (fun g => !acked g.seq f.ack) ∧
             (getPort t port).farReq = x.farReq &&& f.laneReq ∧
             reg64 t (pgPort port) 0x060 = (reg64 s (pgPort port) 0x060 + 1) % 2 ^ 64 ∧
             (∀ k, k ≠ port.val → getPort t k = getPort s k)))))) ∧
  (∀ (port : PortId) (q : BitVec 16) (g : Flit) (t1 t2 : Nat) (s : State),
     let x := getPort s port
     let busy := x.widthAt ≠ 0
     let run := exec (.linkFlitSend port) s
     (trained s port = false → run = .next s) ∧
     (trained s port = true →
       (x.identOut = true ∨ x.tstate = 4 → run = .next (emitFlit s port { x with identOut := false, identAt := s.odometer + 1 }
         { blankFlit x with ident := some (identOf s port) })) ∧
       (x.identOut = false → x.tstate = 5 → x.syncOut = some (t1, t2) → run = .next (emitFlit s port { x with syncOut := none }
         { blankFlit x with sync := true, stamps := [t1, t2, s.odometer, bit (syncedNow s)] })) ∧
       (x.identOut = false → x.tstate = 6 ∨ x.syncOut = none →
         (busy → run = .next (passSlot s port)) ∧
         (¬ busy → x.tstate ≠ 4 →
           (x.resendFrom = some q → x.replay.find? (fun g => g.seq == q) = some g → run = .next (emitFlit s port
             { marked s x with resendFrom := if x.replay.any (fun g => g.seq == q + 1) then some (q + 1) else none }
             { g with ack := x.lastGood, nak := x.nakOut, laneReq := x.laneReq, widthChg := x.chgOut })) ∧
           (x.resendFrom = some q → x.replay.find? (fun g => g.seq == q) = none →
             run = .next (setPort s port { x with resendFrom := x.replay.head?.map (fun g => g.seq) })) ∧
           (x.resendFrom = none → 8192 ≤ x.replay.length → run = .next (passSlot s port)) ∧
           (x.resendFrom = none → x.replay.length < 8192 → Runs (.linkFlitSend port) s (fun t =>
             ∃ g, (getPort t port).sent = x.sent ++ [g] ∧ g.seq = x.txSeq ∧ g.ack = x.lastGood ∧ g.widthChg = x.chgOut ∧
               (x.tstate = 6 → g.msgs = []) ∧ (getPort t port).slot = (if x.tstate = 5 then x.slot + 1 else x.slot) ∧
               (getPort t port).replay = x.replay ++ [g] ∧ (getPort t port).txSeq = x.txSeq + 1)))))) ∧
  (∀ (port : PortId) (m : Msg) (rest : List Msg) (req e : Nat) (o : OutReq) (s : State),
     let x := getPort s port
     let d := dieOfPort port
     let room := fun (k : Nat) => bypassUp s d && decide (queued s (.bypass (bypassWay d k)) m.cw m.resp + 18 ≤ 27)
     let first := ((List.range 4).map (fun i => (d + i) % 4)).find? (fun k => s.power.state == .on && dieUp s k)
     (x.rxQueue = [] → exec (.transitPacket port) s = .next s ∧ exec (.arrivalPacket port) s = .next s) ∧
     (x.rxQueue = m :: rest →
       (portUp s port = false ∨ awaitsCheck s port = true →
         exec (.transitPacket port) s = .next s ∧ exec (.arrivalPacket port) s = .next s) ∧
       (m.dstChip = chipId s → exec (.transitPacket port) s = .next s) ∧
       (m.dstChip ≠ chipId s → exec (.arrivalPacket port) s = .next s) ∧
       (m.dstChip ≠ chipId s → portUp s port = true → awaitsCheck s port = false →
         (routeFor s d m.srcChip m.dstChip = none → Runs (.transitPacket port) s (fun t =>
           (getPort t port).rxQueue = rest ∧ regOf t (pgRoute d) 0x118 = sat32 (regOf s (pgRoute d) 0x118) 1)) ∧
         (routeFor s d m.srcChip m.dstChip = some e →
           (dieOfPort e = d → exec (.transitPacket port) s = .next (pushEgress (takeRx s port m) e true false m)) ∧
           (dieOfPort e ≠ d → room (dieOfPort e) = false → exec (.transitPacket port) s = .next s) ∧
           (dieOfPort e ≠ d → room (dieOfPort e) = true → Runs (.transitPacket port) s (fun t => (getPort t port).rxQueue = rest ∧
             ∃ q, t.fabric.packets = s.fabric.packets ++ [q] ∧ q.here = some (.bypass (bypassWay d (dieOfPort e))) ∧
               q.dst = linkStop e ∧ q.cargo = .transit e m)))) ∧
       (m.dstChip = chipId s → portUp s port = true → awaitsCheck s port = false →
         (s.power.state = .doze → m.resp = false → exec (.arrivalPacket port) s =
           .next (bypassSend (takeRx s port m) d (refusalOf s m))) ∧
         (first = none → s.power.state ≠ .doze ∨ m.resp = true → Runs (.arrivalPacket port) s (fun t =>
           (getPort t port).rxQueue = rest ∧ regOf t (pgRoute d) 0x118 = sat32 (regOf s (pgRoute d) 0x118) 1)) ∧
         (first = some d → Runs (.arrivalPacket port) s (fun t => (getPort t port).rxQueue = rest ∧
           t.fabric.packets = s.fabric.packets ++ [packetOf (linkStop port) (msgTo s m) (.msg m) m] ∧ t.net = s.net)) ∧
         (first = some e → e ≠ d → room e = false → exec (.arrivalPacket port) s = .next s) ∧
         (first = some e → e ≠ d → room e = true → Runs (.arrivalPacket port) s (fun t => (getPort t port).rxQueue = rest ∧
           ∃ q, t.fabric.packets = s.fabric.packets ++ [q] ∧ q.here = some (.bypass (bypassWay d e)) ∧
             q.cargo = .transit (8 * e + port.val % 8) m)))) ∧
     (s.outs.find? (fun o => o.req == req) = some o →
       (o.sentAt + 2000000 < s.odometer → exec (.requestTimeout req) s =
         .next (failRequest { s with outs := s.outs.filter (fun q => q.req != req) } o)) ∧
       (s.odometer ≤ o.sentAt + 2000000 → exec (.requestTimeout req) s = .next s)) ∧
     (s.outs.find? (fun o => o.req == req) = none → exec (.requestTimeout req) s = .next s)) ∧
  (∀ (t1 t2 t3 t4 : Quad) (synced : Bool) (p : Nat) (b : Bool) (s : State),
     let due := s.time.askedAt = 0 ∨ s.time.askedAt - 1 + 1000000 ≤ s.odometer
     (timePort s = none → exec .syncRequest s = .next s) ∧
     (timePort s = some (p, b) →
       (timeRoot s = true → exec .syncRequest s = .next s) ∧
       (timeRoot s = false → due → Runs .syncRequest s (fun t =>
         t.time.asked = some (BitVec.ofNat 64 s.odometer) ∧ t.time.askedAt = s.odometer + 1 ∧ t.time.onB = b ∧ t.odometer = s.odometer ∧
         ∃ g, (getPort t p).sent = (getPort s p).sent ++ [g] ∧ g.sync = true ∧ g.stamps = [s.odometer])) ∧
       (¬ due → exec .syncRequest s = .next s)) ∧
     (let o : Int := (((t2.toNat : Int) - t1.toNat) - ((s.odometer : Int) - t3.toNat)) / 2
      (s.time.asked = some t1 → t4.toNat = s.odometer → Runs (.syncReply t1 t2 t3 t4 synced) s (fun t =>
        t.time.asked = none ∧ t.time.synced = synced ∧ t.time.offset = max (-32767) (min 32767 o) ∧ t.time.lastExchange = t.odometer ∧
        (o.natAbs ≤ 1000 → t.odometer = s.odometer ∧ t.time.trim = o ∧ t.time.halfRate = 0) ∧
        (1000 < o → t.odometer = s.odometer + o.toNat ∧ t.time.halfRate = 0) ∧
        (o < -1000 → t.odometer = s.odometer ∧ t.time.halfRate = o.natAbs))) ∧
      (s.time.asked ≠ some t1 ∨ t4.toNat ≠ s.odometer → exec (.syncReply t1 t2 t3 t4 synced) s = .next s)) ∧
     (let lost := timeRoot s = false ∧ s.time.synced = true ∧ s.time.lastExchange + 10000000 ≤ s.odometer
      (lost → Runs .timeLost s (fun t => t.time.synced = false ∧ (getPage t (pgPort 0)).pend.getLsbD 4 = true ∧
        t.odometer = s.odometer)) ∧
      (¬ lost → exec .timeLost s = .next s)))

/-- R267 to R270, R442 to R445: bridges and trace buffers. A good flit counts, a bad one is a retry of its slice, and the
seventeenth within 1 ms disables the slice, which drains the chip where too few are left; what one end receives the other has sent;
a handshake lost for 1 µs is reported once
and fences the far die; a sample of the fabric's telemetry joins its buffer's queue every 2^SAMPLE_LOG2 µs; the oldest record is
written at the buffer's place once its channel takes it, and a buffer without WRAP that is full says so. -/
def Obligations.BridgesAndTraces : Prop :=
  ∀ (die : DieId) (bridge : Fin 3) (slice : Fin 20) (buf : Fin 4) (e : Nat) (c : Code) (r : TraceRec) (rest : List TraceRec) (s : State),
    let k := bridgeOf die bridge
    let x := getBridge s k
    let tr := getTrace s buf
    let recent := ((look x.retries slice []).filter (fun t => s.odometer < t + 1000000)).length
    let left := x.sliceMap &&& ~~~(1#20 <<< slice.val)
    let few := sliceCount { x with sliceMap := left } < sliceFloor bridge
    let runs := gated s (pgBridge k) = false ∧ x.sliceMap.getLsbD slice = true
    (¬ runs → ∀ ok, exec (.bridgeFlitReceive die bridge slice ok) s = .next s) ∧
    (runs →
      Runs (.bridgeFlitReceive die bridge slice true) s (fun t => (getBridge t k).lastAt = s.odometer ∧
        (getBridge t k).sliceMap = x.sliceMap ∧ reg64 t (pgBridge k) 0x058 = (reg64 s (pgBridge k) 0x058 + 1) % 2 ^ 64 ∧
        (bridge ≠ 2 → reg64 t (pgBridge (bridgeBack k)) 0x050 = (reg64 s (pgBridge (bridgeBack k)) 0x050 + 1) % 2 ^ 64)) ∧
      (recent < 16 → Runs (.bridgeFlitReceive die bridge slice false) s (fun t => (getBridge t k).sliceMap = x.sliceMap ∧
        regOf t (pgBridge k) 0x04C = sat32 (regOf s (pgBridge k) 0x04C) 1)) ∧
      (16 ≤ recent → Runs (.bridgeFlitReceive die bridge slice false) s (fun t => (getBridge t k).sliceMap = left ∧
        (getPage t (pgBridge k)).pend.getLsbD 0 = true ∧ (few → t.hide.draining = true) ∧
        (¬ few → t.hide.draining = s.hide.draining)))) ∧
    (let lost := gated s (pgBridge k) = false ∧ x.lost = false ∧ x.lastAt + 1000 ≤ s.odometer
     let u := raise (setBridge s k { x with lost := true }) (pgBridge k) 1
     (¬ lost → exec (.handshakeLost die bridge) s = .next s) ∧
     (lost →
       (farDie die bridge = some e → dieUp s e = true → exec (.handshakeLost die bridge) s = .next (startPlain u (.die (Fin.ofNat 4 e)))) ∧
       (farDie die bridge = some e → dieUp s e = false → exec (.handshakeLost die bridge) s = .next u) ∧
       (farDie die bridge = none → exec (.handshakeLost die bridge) s = .next u))) ∧
    (let d := trField tr 0 12
     let every := 2 ^ (regOf s (pgTrace buf) 0x044) * 1000
     let due := tr.active = true ∧ tr.stopped = false ∧ trEnabled tr = true ∧ trField tr 24 4 = 5 ∧ dieUp s d = true ∧
       tr.sampledAt + every ≤ s.odometer
     let v := getTel s d
     (¬ due → exec (.fabricSample buf) s = .next s) ∧
     (due → tr.full = true ∨ 64 ≤ tr.queue.length → Runs (.fabricSample buf) s (fun t => (getTrace t buf).queue = tr.queue ∧
       (getTrace t buf).lost = true ∧ regOf t (pgTrace buf) 0x060 = sat32 (regOf s (pgTrace buf) 0x060) 1)) ∧
     (due → tr.full = false → tr.queue.length < 64 → Runs (.fabricSample buf) s (fun t =>
       (getTrace t buf).sampledAt = tr.sampledAt + every ∧ (getTrace t buf).queue = tr.queue ++ [{
         target := d, ctx := 0, odo := s.odometer, lost := tr.lost, payload := [v.flits % 2 ^ 32, v.flits / 2 ^ 32 % 2 ^ 32,
           min v.stall 0xFFFFFFFF, min v.marks 0xFFFFFFFF], source := 5 }]))) ∧
    (let t0 := setTrace s buf { tr with queue := rest }
     let addr := reg64 s (pgTrace buf) 0x048 + 32 * (tr.written % trCapacity s buf)
     let ready := rangeReady s tr.part addr 32 = true
     let w := writeRange t0 tr.part addr (traceBytes r)
     let fills := trWrap tr = false ∧ tr.written + 1 = trCapacity s buf
     (tr.queue = [] → exec (.traceWrite buf) s = .next (traceRest s buf)) ∧
     (tr.queue = r :: rest →
       (tr.full = true → exec (.traceWrite buf) s = .next (traceRest (bump32 t0 (pgTrace buf) 0x060 1) buf)) ∧
       (tr.full = false → ¬ ready → exec (.traceWrite buf) s = .next (traceRest s buf)) ∧
       (tr.full = false → ready → w.2 = some c → exec (.traceWrite buf) s = .next (traceRest (traceStop w.1 buf c.num) buf)) ∧
       (tr.full = false → ready → w.2 = none → Runs (.traceWrite buf) s (fun t => t.hbm = w.1.hbm ∧ (getTrace t buf).queue = rest ∧
         (getTrace t buf).written = tr.written + 1 ∧ (fills → (getTrace t buf).full = true ∧ (getPage t (pgTrace buf)).pend.getLsbD 0 = true) ∧
         (¬ fills → (getTrace t buf).full = false)))))

/-! ### Exchanges and collectives (chapters 15 and 16) -/

/-- R297, R302, R303, R306, R307: what starts or ends parts of an exchange. The round trigger reads the routes, counts them and
sends a COUNT to every rank; the combine trigger sends READY to every rank once the rows without a route are zero; a wait that
outlasts the limit aborts with TIMED_OUT; a refused COUNT is sent again after 1 µs and aborts after 2 ms; waiting signals are tried
again. R188, R305, R306, Table 84: requests of an exchange that arrive. One that a fence has turned away is answered as it came; one
that the interchange, the context or the round does not take is refused or stray, and a COUNT ahead of its round is held. COUNT
reaches the home's flows; GRANT lets the rows go; TOKEN is written at its row before it is acknowledged; READY asks for the output
rows once the GRANT is here; FETCH reads and returns one; ABORT ends the round, and one ahead of it, with its code. What reaches a
channel that does not serve waits (R211). -/
def Obligations.ExchangeRounds : Prop :=
  (∀ (die : DieId) (slot : Fin 16) (b : List Byte) (f : Code × Nat) (e : Nat × Nat × Nat) (s : State),
     let x := getIxSlot s die slot
     let w := x.words
     let n := ixRanks w * ixLocal w
     let asks := fun (s : State) (typ j : Nat) (m : Msg) => ixQueue s die { req := 0, slot := slot, typ := typ, rank := j } m
     (let may := x.armed = true ∧ x.phase = 0 ∧ gated s (pgIx die) = false ∧
        trigReached s x.ctx (nth w 6) (nth w 7 + x.round * ixStep w) = true ∧
        rangeReady s (ctxPart s x.ctx) (wAddr w 18) (8 * ixRoutes w) = true ∧ ixTableReady s x = true
      let routes := (List.range (ixRoutes w)).map (fun i => (numAt b (8 * i) 4, numAt b (8 * i + 4) 4))
      let y := { x with
        phase := 1, startAt := s.odometer, routes := routes, dropped := 0,
        noRoute := (routes.filter (fun e => e.2 == 0xFFFFFFFF)).length,
        outRange := (routes.filter (fun e => n ≤ e.2 && e.2 != 0xFFFFFFFF)).length }
      let s1 := setIxSlot (setFlows s die x.flowBase (2 * n) (fun j =>
        { heldFlow x slot j with count := if j < n then (routes.filter (fun e => e.2 == j)).length else 0 })) die slot y
      (¬ may → exec (.ixRoundTrigger die slot) s = .next s) ∧
      (may → readRangeAt s die (ctxPart s x.ctx) (wAddr w 18) (8 * ixRoutes w) = .ok b →
        exec (.ixRoundTrigger die slot) s = .next (ixPump (ixTakeEarly
          ((List.range (ixRanks w)).foldl (fun s r => asks s 1 r (ixCountMsg s die y r)) s1) die slot) die) ∧
        ((getIx s die).early = [] → Runs (.ixRoundTrigger die slot) s (fun t => (getIxSlot t die slot).phase = 1 ∧
          (getIxSlot t die slot).startAt = s.odometer ∧ (getIxSlot t die slot).routes = routes ∧ t.hbm = s.hbm))) ∧
      (may → readRangeAt s die (ctxPart s x.ctx) (wAddr w 18) (8 * ixRoutes w) = .error f →
        exec (.ixRoundTrigger die slot) s = .next (ixAbort s die slot f.1.num f.2 true))) ∧
     (let may := x.armed = true ∧ 3 ≤ x.phase ∧ x.phase ≠ 6 ∧ ixCombine w = true ∧ x.readySent = false ∧ x.arriveDone = true ∧
        gated s (pgIx die) = false ∧ trigReached s x.ctx (nth w 11) (nth w 12 + x.round * ixStep w) = true ∧
        ixCombReady s x (fun g => decide (n ≤ g)) = true
      let r := combineRows s die slot
      (¬ may → exec (.ixCombineTrigger die slot) s = .next s) ∧
      (may → r.2 = some f → exec (.ixCombineTrigger die slot) s = .next (ixAbort r.1 die slot f.1.num f.2 true)) ∧
      (may → r.2 = none → exec (.ixCombineTrigger die slot) s = .next (ixDrive (ixPump
        ((List.range (ixRanks w)).foldl (fun s j => asks s 4 j (ixMsgTo s x j 4 0 0 [])) r.1) die) die slot ixFuel))) ∧
     (let due := x.armed = true ∧ x.phase ≠ 0 ∧ x.phase ≠ 6 ∧ ((x.counted = false ∧ x.startAt + ixLimit w * 1000 < s.odometer) ∨
        (x.readySent = true ∧ x.readyIn.length < ixRanks w ∧ x.combineAt + ixLimit w * 1000 < s.odometer))
      (due → exec (.ixLimitExpiry die slot) s = .next (ixAbort s die slot Code.timedOut.num 0 true)) ∧
      (¬ due → exec (.ixLimitExpiry die slot) s = .next s)) ∧
     (let waits := x.retries.find? (fun e => e.2.2 != 0 && passed s (e.2.2 - 1) 1000)
      let s1 := setIxSlot s die slot { x with retries := x.retries.map (fun q => if q.1 == e.1 then (q.1, q.2.1, 0) else q) }
      (waits = none ∨ x.phase = 0 ∨ x.phase = 6 → exec (.ixCountRetry die slot) s = .next s) ∧
      (waits = some e → x.phase ≠ 0 → x.phase ≠ 6 →
        (e.2.1 + 2000000 ≤ s.odometer → exec (.ixCountRetry die slot) s = .next (ixAbort s die slot Code.timedOut.num 0 true)) ∧
        (s.odometer < e.2.1 + 2000000 →
          exec (.ixCountRetry die slot) s = .next (ixPump (asks s1 1 e.1 (ixCountMsg s1 die x e.1)) die)))) ∧
     (x.sigs ≠ [] → x.sigAt ≠ 0 → exec (.ixSignalRetry die slot) s = .next (ixDrive s die slot ixFuel)) ∧
     (x.sigs = [] ∨ x.sigAt = 0 → exec (.ixSignalRetry die slot) s = .next s)) ∧
  (∀ (idx d k typ : Nat) (i : Instr) (m : Msg) (b : IxMsg) (s : State), (typ, i) ∈ ixCommands idx →
     let x := getIxSlot s d k
     let s0 := dropMsg s idx
     let ahead := (b.round + 65536 - x.round) % 65536
     let live := x.phase ≠ 0 ∧ x.phase ≠ 6
     let known := b.srcRank < ixRanks x.words
     let far := (if x.phase = 0 then 0 else 1) < ahead
     (IxComes s idx typ d m b →
       (m.code ≠ 0 → exec i s = .next (ixAnswer s0 d m m.code)) ∧
       (m.code = 0 → ixShut s d b.ctx = true → exec i s = .next (ixAnswer s0 d m Code.fenced.num)) ∧
       (m.code = 0 → ixShut s d b.ctx = false → ctxAccepts s0 m b.ctx = false →
         exec i s = .next (ixStray s0 d m))) ∧
     (IxTaken s idx typ d m b →
       (ixFind s0 d b = none → exec i s = .next (if typ = 1 then ixHold s0 d m else ixStray s0 d m)) ∧
       (ixFind s0 d b = some k →
         (ahead = 0 → live → ¬ known → exec i s = .next (ixStray s0 d m)) ∧
         (b.round = x.round → live → known → ixServes s typ x b = false → exec i s = .next s) ∧
         (ahead ≠ 0 ∨ ¬ live →
           (far → exec i s = .next (ixStray s0 d m)) ∧
           (¬ far → typ = 1 → exec i s = .next (ixHold s0 d m)) ∧
           (¬ far → typ = 7 → x.phase = 6 → exec i s = .next (ixAnswer s0 d m 0)) ∧
           (¬ far → typ = 7 → x.phase ≠ 6 → known → exec i s = .next (ixAbort (ixAnswer s0 d m 0) d k (b.arg % 256) 0 false)) ∧
           (¬ far → typ = 7 → x.phase ≠ 6 → ¬ known → exec i s = .next (ixStray s0 d m)) ∧
           (¬ far → typ ≠ 1 → typ ≠ 7 → exec i s = .next (ixStray s0 d m)))))) ∧
  (∀ (idx d k : Nat) (m : Msg) (b : IxMsg) (f : Code × Nat) (l : List Byte) (s : State),
     let x := getIxSlot s d k
     let w := x.words
     let n := ixLocal w
     let s0 := dropMsg s idx
     let s1 := ixAnswer s0 d m 0
     let row := fieldOf b.arg 0 20
     let ex := fieldOf b.arg 20 8
     let inside := ex < n ∧ row < ixCap w ∧ b.part < ixParts w
     let at_ := fun (i : Nat) => wAddr w i + (ex * ixCap w + row) * ixRowBytes w + 512 * b.part
     (IxArrives s idx 1 d k m b → exec (.ixCount idx) s = .next (ixTakeCount s1 d k b)) ∧
     (IxArrives s idx 2 d k m b →
       (let lo := 128 * b.part
        let hi := min n (lo + 128)
        let again := (getFlow s d (sendFlow x (b.srcRank * n + lo))).grantIn
        let s2 := (List.range (hi - lo)).foldl (fun s i => modFlow s d (sendFlow x (b.srcRank * n + lo + i))
          (fun f => { f with grantIn := true, base := numAt b.payload (4 * i) 4 })) s1
        let t := ixDispatch s2 d k b.srcRank lo hi
        (hi ≤ lo ∨ again = true → exec (.ixGrant idx) s = .next s1) ∧
        (lo < hi → again = false → exec (.ixGrant idx) s = .next (ixAfter
          (if t.2.isNone && x.readyIn.contains b.srcRank && homeGranted t.1 d x b.srcRank then ixCombineHome t.1 d k b.srcRank
           else t) d k)))) ∧
     (IxArrives s idx 3 d k m b →
       (let v := writeFrom s0 d (ctxPart s0 x.ctx) (at_ 22) (b.payload.take (partLen w b.part))
        let s2 := ixAnswer v.1 d m 0
        let p := addPart (getIxSlot s2 d k) (1, b.srcRank, ex, row, b.part)
        let s3 := setIxSlot s2 d k p.1
        (x.phase < 3 ∨ ¬ inside → exec (.ixToken idx) s = .next (ixStray s0 d m)) ∧
        (3 ≤ x.phase → inside → v.2 = none → exec (.ixToken idx) s = .next (ixDrive (if p.2 then bump64 (modFlow s3 d
          (recvFlow p.1 b.srcRank ex) (fun f => { f with moved := f.moved + 1 })) (pgIx d) 0x078 1 else s3) d k ixFuel)) ∧
        (3 ≤ x.phase → inside → v.2 = some f →
          exec (.ixToken idx) s = .next (ixAbort (ixAnswer v.1 d m f.1.num) d k f.1.num f.2 true)))) ∧
     (IxArrives s idx 4 d k m b →
       (let s2 := if x.readySent && x.readyIn.length + 1 == ixRanks w then ixTie s1 d x x.combineAt else s1
        let s3 := (List.range n).foldl (fun s e => modFlow s d (sendFlow x (b.srcRank * n + e)) (fun f => { f with readyIn := true }))
          (setIxSlot s2 d k { x with readyIn := b.srcRank :: x.readyIn })
        (ixCombine w = false → exec (.ixReady idx) s = .next (ixStray s0 d m)) ∧
        (ixCombine w = true → x.readyIn.contains b.srcRank = true → exec (.ixReady idx) s = .next s1) ∧
        (ixCombine w = true → x.readyIn.contains b.srcRank = false → exec (.ixReady idx) s = .next (ixAfter
          (if homeGranted s3 d x b.srcRank then ixCombineHome s3 d k b.srcRank else (s3, none)) d k)))) ∧
     (IxArrives s idx 5 d k m b →
       (let v := readRangeAt s0 d (ctxPart s0 x.ctx) (at_ 24) (partLen w b.part)
        let s2 := sendAnswer s0 d (ixReply s0 d 0 m 6 0 l)
        let p := addPart (getIxSlot s2 d k) (2, b.srcRank, ex, row, b.part)
        let s3 := setIxSlot s2 d k p.1
        (x.readySent = false ∨ ¬ inside → exec (.ixFetch idx) s = .next (ixStray s0 d m)) ∧
        (x.readySent = true → inside → v = .ok l → exec (.ixFetch idx) s = .next (ixDrive (if p.2 then modFlow s3 d
          (recvFlow p.1 b.srcRank ex) (fun f => { f with fetched := f.fetched + 1 }) else s3) d k ixFuel)) ∧
        (x.readySent = true → inside → v = .error f →
          exec (.ixFetch idx) s = .next (ixAbort (ixAnswer s0 d m f.1.num) d k f.1.num f.2 true)))) ∧
     (IxArrives s idx 7 d k m b → exec (.ixAbort idx) s = .next (ixAbort s1 d k (b.arg % 256) 0 false)))

/-- R306, R307, R262, R377: answers to an exchange's requests. A mark narrows the window. Fetched bytes are written at their route's
row, once its channel serves; an accepted COUNT is counted in, and the last accepted part of a row moves it; a COUNT refused for want of room is tried again,
any other refusal aborts the round with its code. An answer after the round has ended lets the slot await its trigger again; one
that no request awaits is discarded. -/
def Obligations.ExchangeAnswers : Prop :=
  ∀ (idx d : Nat) (m : Msg) (b : IxMsg) (r : IxReq) (f : Code × Nat) (s : State),
    let x := getIxSlot s d r.slot
    let w := x.words
    let s0 := ixAnswered s idx d m
    let unknown := .next (unawaited (settleOut (dropMsg s idx) m.req).1 m)
    (IxBack s idx 6 m b → ixOpenDie s m.req = none → exec (.ixFetchData idx) s = unknown) ∧
    (IxBack s idx 8 m b → ixOpenDie s m.req = none → exec (.ixAck idx) s = unknown) ∧
    (IxBack s idx 6 m b → fetchWaits s m = true → exec (.ixFetchData idx) s = .next s) ∧
    (IxAnswers s idx 6 d m b r →
      (let v := writeFrom s0 d (ctxPart s0 x.ctx) (wAddr w 26 + r.route * ixRowBytes w + 512 * r.part) (b.payload.take (partLen w r.part))
       let p := addPart (getIxSlot v.1 d r.slot) (3, r.rank, r.expert, r.row, r.part)
       let s1 := setIxSlot v.1 d r.slot p.1
       (¬ ixLive s d r → exec (.ixFetchData idx) s = .next (ixPump (ixQuiet s0 d r.slot) d)) ∧
       (ixLive s d r → v.2 = none → exec (.ixFetchData idx) s = .next (ixDrive (ixPump (if p.2 then modFlow s1 d
         (sendFlow p.1 (r.rank * ixLocal w + r.expert)) (fun f => { f with fetched := f.fetched + 1 }) else s1) d) d r.slot ixFuel)) ∧
       (ixLive s d r → v.2 = some f → exec (.ixFetchData idx) s = .next (ixAbort v.1 d r.slot f.1.num f.2 true)))) ∧
    (IxAnswers s idx 8 d m b r →
      (let forget := x.retries.filter (fun e => e.1 != r.rank)
       let first := ((x.retries.find? (fun e => e.1 == r.rank)).map (fun e => e.2.1)).getD s.odometer
       let p := addPart x (0, r.rank, r.expert, r.row, r.part)
       let s1 := setIxSlot s0 d r.slot p.1
       let on := fun (u : State) => .next (ixDrive (ixPump u d) d r.slot ixFuel)
       (¬ ixLive s d r → exec (.ixAck idx) s = .next (ixPump (ixQuiet s0 d r.slot) d)) ∧
       (ixLive s d r →
         (m.code = Code.noSpace.num → r.typ = 1 → exec (.ixAck idx) s =
           .next (ixPump (setIxSlot s0 d r.slot { x with retries := forget ++ [(r.rank, first, s.odometer + 1)] }) d)) ∧
         (m.code ≠ 0 → m.code ≠ Code.noSpace.num ∨ r.typ ≠ 1 → exec (.ixAck idx) s = .next (ixAbort s0 d r.slot m.code 0 true)) ∧
         (m.code = 0 → r.typ = 1 → exec (.ixAck idx) s = on ((List.range (ixLocal w)).foldl (fun s e =>
           modFlow s d (sendFlow x (r.rank * ixLocal w + e)) (fun f => { f with countIn := true }))
           (setIxSlot s0 d r.slot { x with retries := forget }))) ∧
         (m.code = 0 → r.typ = 3 → exec (.ixAck idx) s = on (if p.2 then modFlow s1 d
           (sendFlow p.1 (r.rank * ixLocal w + r.expert)) (fun f => { f with moved := f.moved + 1 }) else s1)) ∧
         (m.code = 0 → r.typ ≠ 1 → r.typ ≠ 3 → exec (.ixAck idx) s = on s0))))

/-- R297, R312, R317 to R321, R325, R327: a collective round begins at its trigger: the wait starts, a ring member tells its
predecessor that it is ready, and the kind's first messages go out; a wait beyond the limit aborts; refused COUNTs and ARRIVEs and
undelivered signals are tried again. R188, R317 to R325, R327, R329, R330: requests of a collective that arrive. One that a fence
has turned away is answered as it came; one that the controller, the context or the operation does not take is refused or stray, and
a COUNT or ARRIVE ahead of its time is held. READY opens the successor's way for this round or the next, COUNT and GO let an
all-to-all-v block out, ARRIVE and RELEASE make the barrier, a part is taken once its PART_CRC agrees and sent back as NAK
otherwise, ABORT ends the round, or one ahead of it, with its code, and at a PUT's target forgets the attempt. What reaches a
channel that does not serve waits (R211). -/
def Obligations.CollectiveRounds : Prop :=
  (∀ (die : DieId) (slot : Fin 16) (e : Nat × Nat × Nat) (f : Code × Nat) (s : State),
     let x := getColSlot s die slot
     let w := x.words
     (let may := x.armed = true ∧ x.phase = 0 ∧ gated s (pgCol die) = false ∧
        trigReached s x.ctx (nth w 5) (nth w 6 + x.round * colStep w) = true ∧ colBeginReady s x = true
      let p := colBegun s die slot
      let s3 := colTakeEarly p.1 die slot
      let s4 := if colKind w == 4 then colTakeCount s3 die slot (colMyRank w) (nth (getColSlot s3 die slot).sendCounts (colMyRank w))
        else if colKind w == 6 && colMyRank w == colRoot w then colRelease s3 die slot else s3
      (¬ may → exec (.colRoundTrigger die slot) s = .next s) ∧
      (may → p.2 = some f → exec (.colRoundTrigger die slot) s = .next (colAbort p.1 die slot f.1.num f.2 true)) ∧
      (may → p.2 = none → exec (.colRoundTrigger die slot) s = .next (colDrive (colPump s4 die) die slot))) ∧
     (let due := x.armed = true ∧ colLive x = true ∧ colLate s die slot = true
      (due → exec (.colLimitExpiry die slot) s = .next (colAbort s die slot Code.timedOut.num 0 true)) ∧
      (¬ due → exec (.colLimitExpiry die slot) s = .next s)) ∧
     (let waits := x.retries.find? (fun e => e.2.2 != 0 && passed s (e.2.2 - 1) 1000)
      let s1 := setColSlot s die slot { x with retries := x.retries.map (fun q => if q.1 == e.1 then (q.1, q.2.1, 0) else q) }
      (waits = none ∨ colLive x = false → exec (.colCountRetry die slot) s = .next s) ∧
      (waits = some e → colLive x = true →
        (e.2.1 + 2000000 ≤ s.odometer → exec (.colCountRetry die slot) s = .next (colAbort s die slot Code.timedOut.num 0 true)) ∧
        (s.odometer < e.2.1 + 2000000 → exec (.colCountRetry die slot) s = .next (colPump (colQueue s1 die slot 0
          (if colKind w == 6 then colArriveMsg s1 x else colCountMsg s1 x e.1)) die)))) ∧
     (let s1 := retryPutSigs s die
      let y := getColSlot s1 die slot
      let r := deliverSignal s1 y.ctx (wCore (nth y.words 7)) (wMs (nth y.words 7)) 1 (blockLast s1 (die * 16) 0xA) true
      (y.sigs = [] ∨ passed s1 y.sigAt 1000 = false → exec (.colSignalRetry die slot) s = .next s1) ∧
      (y.sigs ≠ [] → passed s1 y.sigAt 1000 = true →
        (r.2 = .applied ∨ r.2 = .held → exec (.colSignalRetry die slot) s = .next (colEnd r.1 die slot)) ∧
        (r.2 = .full → exec (.colSignalRetry die slot) s = .next (modColSlot r.1 die slot (fun x => { x with sigAt := r.1.odometer }))) ∧
        (r.2 = .barrier → exec (.colSignalRetry die slot) s = .next (colAbort r.1 die slot Code.wrongState.num 0 true)) ∧
        (r.2 = .gone → exec (.colSignalRetry die slot) s = .next (colAbort r.1 die slot Code.notOwner.num 0 true))))) ∧
  (∀ (idx d typ : Nat) (i : Instr) (m : Msg) (b : ColMsg) (s : State), (typ, i) ∈ colCommands idx →
     (typ = 10 → (getCol s d).store.length < 4096) →
     let s0 := dropMsg s idx
     (ColComes s idx typ d m b →
       (m.code ≠ 0 → exec i s = .next (colAnswer s0 d m 5 m.code)) ∧
       (m.code = 0 → colShut s d typ b.ctx = true → exec i s = .next (colAnswer s0 d m 5 Code.fenced.num)) ∧
       (m.code = 0 → colShut s d typ b.ctx = false →
         (ctxAccepts s0 m b.ctx = false → exec i s = .next (colStray s0 d m)) ∧
         (ctxAccepts s0 m b.ctx = true → colServes s typ d m b = false → exec i s = .next s))) ∧
     (ColTaken s idx typ d m b → colFind s0 d b = none → typ ≠ 10 → (typ ≠ 4 ∧ typ ≠ 9) ∨ m.cw ≠ 3 →
       exec i s = .next (if typ = 2 ∨ typ = 7 then colHold s0 d m else colStray s0 d m))) ∧
  (∀ (idx d k : Nat) (m : Msg) (b : ColMsg) (s : State),
     let x := getColSlot s d k
     let w := x.words
     let s0 := dropMsg s idx
     let s1 := colAnswer s0 d m 5 0
     let tied := if colLive x then colTie s1 d k x.startAt else s1
     let now := colNow x b
     let ahead := colAhead x b
     let with_ := fun (l : List Nat) => if l.contains b.srcRank then l else b.srcRank :: l
     let sum := bump64 s0 (pgCol d) 0x05C 1
     let nak := colAnswer (bump32 s0 (pgCol d) 0x064 1) d m 6 Code.checkFailed.num
     (ColArrives s idx 1 d k m b →
       (b.srcRank ≠ ringNext w ∨ 1 < ahead → exec (.colReady idx) s = .next (colStray s0 d m)) ∧
       (b.srcRank = ringNext w → ahead = 1 → exec (.colReady idx) s = .next (setColSlot s1 d k { x with nextReady := true })) ∧
       (b.srcRank = ringNext w → ahead = 0 →
         exec (.colReady idx) s = .next (colPump (setColSlot tied d k { x with ready := true }) d))) ∧
     (ColArrives s idx 2 d k m b →
       (1 < ahead ∨ colRanks w ≤ b.srcRank → exec (.colCount idx) s = .next (colStray s0 d m)) ∧
       (now → exec (.colCount idx) s = .next (colDrive (colPump (colTakeCount s1 d k b.srcRank (64 * b.arg)) d) d k)) ∧
       (ahead ≤ 1 → b.srcRank < colRanks w → ¬ now → exec (.colCount idx) s = .next (colHold s0 d m))) ∧
     (ColArrives s idx 3 d k m b →
       (¬ now → exec (.colGo idx) s = .next (colStray s0 d m)) ∧
       (now → x.goes.contains b.srcRank = true ∨ colKind w ≠ 4 → exec (.colGo idx) s = .next s1) ∧
       (now → x.goes.contains b.srcRank = false → colKind w = 4 → exec (.colGo idx) s = .next (colAfter (colSendBytes
         (setColSlot (colTie s1 d k x.startAt) d k { x with goes := b.srcRank :: x.goes }) d k b.srcRank 0
         (wAddr w 12 + ((List.range b.srcRank).map (nth x.sendCounts)).sum) 0 (min (64 * b.offset) (nth x.sendCounts b.srcRank)) [])
         d k))) ∧
     (ColArrives s idx 7 d k m b →
       (let bad := 1 < ahead ∨ colRanks w ≤ b.srcRank ∨ colMyRank w ≠ colRoot w ∨ colKind w ≠ 6
        (bad → exec (.colArrive idx) s = .next (colStray s0 d m)) ∧
        (¬ bad → ahead = 0 → exec (.colArrive idx) s =
          .next (colPump (colRelease (setColSlot tied d k { x with arrived := with_ x.arrived }) d k) d)) ∧
        (¬ bad → ahead = 1 → x.released = true →
          exec (.colArrive idx) s = .next (setColSlot s1 d k { x with nextArrived := with_ x.nextArrived })) ∧
        (¬ bad → ahead = 1 → x.released = false → exec (.colArrive idx) s = .next (colHold s0 d m)))) ∧
     (ColArrives s idx 8 d k m b →
       (let mine := b.srcRank = colRoot w ∧ colKind w = 6
        (¬ now ∨ ¬ mine → exec (.colRelease idx) s = .next (colStray s0 d m)) ∧
        (now → mine → exec (.colRelease idx) s =
          .next (colDrive (modColSlot (colTie s1 d k x.startAt) d k (fun x => { x with placed := true })) d k)))) ∧
     (ColArrives s idx 9 d k m b → m.cw ≠ 3 →
       (let far := (if x.phase = 0 then 0 else 1) < ahead ∨ colRanks w ≤ b.srcRank
        (far → exec (.colAbort idx) s = .next (colStray s0 d m)) ∧
        (¬ far → x.phase = 4 → exec (.colAbort idx) s = .next s1) ∧
        (¬ far → x.phase ≠ 4 → exec (.colAbort idx) s = .next (colAbort s1 d k (b.arg % 256) 0 false)))) ∧
     (ColTaken s idx 9 d m b → m.cw = 3 → exec (.colAbort idx) s = .next (colAnswer (setCol s0 d
       { getCol s0 d with puts := (getCol s0 d).puts.filter (fun p => !sameTry m b p) }) d m 5 0)) ∧
     (ColArrives s idx 4 d k m b → m.cw ≠ 3 →
       (¬ now → exec (.colPart idx) s = .next (colStray s0 d m)) ∧
       (now → crc32c b.payload = b.crc → exec (.colPart idx) s = .next (colPartKind sum d k m b)) ∧
       (now → crc32c b.payload ≠ b.crc → exec (.colPart idx) s = .next nak)) ∧
     (ColTaken s idx 4 d m b → m.cw = 3 →
       (crc32c b.payload = b.crc → exec (.colPart idx) s = .next (colPutPart sum d m b)) ∧
       (crc32c b.payload ≠ b.crc → exec (.colPart idx) s = .next nak)))

/-- R321 to R323, R325, R327, R262, R377: answers to a collective's requests, and gets. A mark narrows the window. An acknowledged
part leaves the resend store; a COUNT or ARRIVE refused for want of room is tried again, any other refusal aborts the round with its
code; a NAK sends the same bytes again and aborts at the fourth failure; a get's target reads the bytes and keeps them until they
are answered; data with a good PART_CRC is written and then acknowledged, the fourth bad one aborts; after the round has ended data is
checked all the same. An answer after the round has
ended lets the slot await its trigger again; one that no request awaits is discarded. -/
def Obligations.CollectiveAnswers : Prop :=
  ∀ (idx d k typ rank : Nat) (m : Msg) (b : ColMsg) (r : Resend) (a : ColReq) (f : Code × Nat) (l : List Byte) (s : State),
    let s0 := colTakenBack s idx d m
    let i := getCol s0 d
    let x := getColSlot s d k
    let live := x.phase ≠ 0 ∧ x.phase ≠ 4
    let own := fun (q : Resend) => q.req == m.req && q.slot != 16
    let gone := { i with store := i.store.filter (fun q => q.req != m.req || q.slot == 16) }
    (∀ c ∈ [(5, Instr.colAck idx), (6, Instr.colNak idx), (11, Instr.colGetData idx)], ColBack s idx c.1 m b →
      colOpenDie (dropMsg s idx) m b = none → exec c.2 s = .next (unawaited (dropMsg s idx) m)) ∧
    (ColBack s idx 11 m b → colOpenDie (dropMsg s idx) m b = some d → getReady s d m b = false → exec (.colGetData idx) s = .next s) ∧
    (ColAnswers s idx 5 d m b → b.ext = [1] →
      exec (.colAck idx) s = .next (setCol s0 d { i with store := i.store.filter (fun q => !servesGet m b q) })) ∧
    (ColAnswers s idx 5 d m b → b.ext ≠ [1] → (i.store.find? own = some r ∧ k = r.slot ∧ typ = 4) ∨
        (i.store.find? own = none ∧ i.open_.find? (fun q => q.req == m.req) = some a ∧ k = a.slot ∧ typ = a.typ ∧ rank = a.rank) →
      (let s2 := setCol (settleOut s0 m.req).1 d { gone with open_ := i.open_.filter (fun q => q.req != m.req) }
       let asks := typ = 2 ∨ typ = 7
       let forget := x.retries.filter (fun e => e.1 != rank)
       let first := ((x.retries.find? (fun e => e.1 == rank)).map (fun e => e.2.1)).getD s.odometer
       (typ = 9 ∨ ¬ live → exec (.colAck idx) s = .next (colPump (colQuiet s2 d k) d)) ∧
       (typ ≠ 9 → live →
         (m.code = Code.noSpace.num → asks → exec (.colAck idx) s =
           .next (colPump (setColSlot s2 d k { x with retries := forget ++ [(rank, first, s.odometer + 1)] }) d)) ∧
         (m.code ≠ 0 → m.code ≠ Code.noSpace.num ∨ ¬ asks → exec (.colAck idx) s = .next (colAbort s2 d k m.code 0 true)) ∧
         (m.code = 0 → ¬ asks → exec (.colAck idx) s = .next (colDrive (colPump s2 d) d k)) ∧
         (m.code = 0 → asks → exec (.colAck idx) s =
           .next (colDrive (colPump (setColSlot s2 d k { x with retries := forget }) d) d k))))) ∧
    (ColAnswers s idx 6 d m b → b.ext = [1] → i.store.find? (servesGet m b) = some r →
      (3 ≤ r.fails → exec (.colNak idx) s = .next (setCol s0 d { i with store := i.store.filter (fun q => !servesGet m b q) })) ∧
      (r.fails < 3 → exec (.colNak idx) s = .next (bump32 (sendAnswer (setCol s0 d
        { i with store := i.store.map (fun q => if servesGet m b q then { q with fails := q.fails + 1 } else q) }) d r.msg)
        (pgCol d) 0x068 1))) ∧
    (ColAnswers s idx 6 d m b → b.ext ≠ [1] → i.store.find? own = some r → k = r.slot →
      (let s1 := (settleOut s0 m.req).1
       (¬ live → exec (.colNak idx) s = .next (colPump (colQuiet (setCol s1 d gone) d k) d)) ∧
       (live → 3 ≤ r.fails → exec (.colNak idx) s = .next (colAbort (setCol s1 d gone) d k Code.checkFailed.num 0 true)) ∧
       (live → r.fails < 3 → exec (.colNak idx) s = .next (colPump (colQueue (modColSlot (setCol s1 d
         { i with store := i.store.map (fun q => if own q then { q with fails := q.fails + 1 } else q) }) d k
         (fun x => { x with resent := x.resent + 1 })) d k 1 { r.msg with req := r.req }) d)))) ∧
    (ColComes s idx 10 d m b → 4096 ≤ (getCol s d).store.length → exec (.colGetReq idx) s = .next s) ∧
    (ColTaken s idx 10 d m b → (getCol s d).store.length < 4096 →
      (let u := dropMsg s idx
       let v := readRangeAt u d (ctxPart u b.ctx) (nth b.ext 0) (min 512 (nth b.ext 1))
       let q := colReply u d 0 m 11 (crc32c l) l
       (v = .error f → exec (.colGetReq idx) s = .next (colAnswer u d m 5 f.1.num)) ∧
       (v = .ok l → exec (.colGetReq idx) s = .next (bump64 (sendAnswer (setCol u d { getCol u d with
          store := (getCol u d).store ++ [{ req := m.req, slot := 16, msg := q }] }) d q) (pgCol d) 0x054 1)))) ∧
    (ColAnswers s idx 11 d m b → i.open_.find? (fun q => q.req == m.req) = none → exec (.colGetData idx) s = .next s0) ∧
    (ColAnswers s idx 11 d m b → i.open_.find? (fun q => q.req == m.req) = some a → k = a.slot →
      (let ends := fun (u : State) =>
         (settleOut (setCol u d { getCol u d with open_ := (getCol u d).open_.filter (fun q => q.req != m.req) }) m.req).1
       let n := look x.fails b.offset 0 + 1
       let bad := getAnswer (bump32 (setColSlot s0 d k { x with fails := store x.fails b.offset n }) (pgCol d) 0x064 1)
         d k 6 Code.checkFailed.num m b
       let v := colWriteOwn (ends (bump64 s0 (pgCol d) 0x05C 1)) d k (64 * b.offset) b.payload
       let s3 := colTie (getAnswer v.1 d k 5 0 m b) d k x.waitAt
       (¬ live → crc32c b.payload = b.crc →
         exec (.colGetData idx) s = .next (colPump (colQuiet (getAnswer (ends s0) d k 5 0 m b) d k) d)) ∧
       (¬ live → crc32c b.payload ≠ b.crc → exec (.colGetData idx) s =
         .next (getAnswer (bump32 s0 (pgCol d) 0x064 1) d k 6 Code.checkFailed.num m b)) ∧
       (live → crc32c b.payload ≠ b.crc → n < 4 → exec (.colGetData idx) s = .next bad) ∧
       (live → crc32c b.payload ≠ b.crc → 4 ≤ n → exec (.colGetData idx) s =
         .next (colAbort (ends bad) d k Code.checkFailed.num 0 true)) ∧
       (live → crc32c b.payload = b.crc → v.2 = some f → exec (.colGetData idx) s =
         .next (colAbort (getAnswer v.1 d k 5 f.1.num m b) d k f.1.num f.2 true)) ∧
       (live → crc32c b.payload = b.crc → v.2 = none → exec (.colGetData idx) s = .next (colDrive (colPump
         (modColSlot s3 d k (fun x => { x with got := x.got ++ [(0, b.offset)], waitAt := s3.odometer })) d) d k))))

/-! ### Faults, hangs and resets (chapters 18 and 19) -/

/-- R378, R379, R381, R385, R387: an engine without progress for 1 ms records TIMED_OUT and its reset starts, and one of a site
under test or in a shadow run for 1 ms is charged to that site; every 100 µs a first missed poll is counted and a second one is a hang; a
kerbside step of 100 µs outside maintenance windows resets its engine; a stalled context notes the time and raises its cause; a
fabric PLL's loss of lock resets the die. R382: a heartbeat restarts its window and clears the misses; the first after a restart
ends the restart, and what waited for the processor goes on; one at the instant of the third miss wins, and the tie is counted
(R193). A first and second window without one are counted; the third restarts the processor, counts it and raises the alert; 5 ms
without a heartbeat then reset the die, or for source 4 the hub. None of them acts before its time. -/
def Obligations.HangsAndWatchdog : Prop :=
  (∀ (core : CoreId) (eng : Fin 6) (die : DieId) (silent : List CoreId) (chan : ChanId) (c : CtxId) (s : State),
     (let stuck := engineStuck s core eng
      (stuck = true → Runs (.engineHang core eng) s (fun t => inReset t (.engine core eng) = true ∧
        t = startReset (coreFault s core eng Code.timedOut.num false
          ((((getCore s core).window.find? (fun e => iEngine e.ins == eng.val && e.st == 1)).map (fun e => e.addr)).getD 0) 0 0)
          (.engine core eng) Code.timedOut.num false)) ∧
      (stuck = false → workingSite s core = none → exec (.engineHang core eng) s = .next s) ∧
      (∀ n t0, stuck = false → workingSite s core = some (n, t0) →
        (passed s t0 msNs = false → exec (.engineHang core eng) s = .next s) ∧
        (passed s t0 msNs = true → n = siteOf s core → Runs (.engineHang core eng) s (fun t =>
          inReset t (.engine core eng) = true ∧ t = startReset (siteFault s n) (.engine core eng) Code.timedOut.num false)) ∧
        (passed s t0 msNs = true → n ≠ siteOf s core →
          exec (.engineHang core eng) s = .next (siteEngineReset (siteFault s n) (dieOfSite n) core)))) ∧
     (let due := ctlAlive s die = true ∧ gated s (pgCtl die) = false ∧ passed s (look s.hang.polls die 0) (100 * usNs) = true
      let mute := (silent.map (fun c => c.val)).filter (fun c => dieOfCore c == die.val && !inReset s (.core (Fin.ofNat 4096 c)))
      let s1 := { s with
        hang := { s.hang with polls := store s.hang.polls die s.odometer },
        cores := s.cores.map (fun e =>
          (e.1, if dieOfCore e.1 == die.val && !mute.contains e.1 then { e.2 with missedPolls := 0 } else e.2)) }
      (¬ due → exec (.corePoll die silent) s = .next s) ∧
      (due → exec (.corePoll die silent) s = .next (mute.foldl (fun u k =>
        if (getCore u k).missedPolls = 0 then modCore u k (fun x => { x with missedPolls := 1 })
        else hangCore (modCore u k (fun x => { x with missedPolls := 0 })) k) s1)) ∧
      (due → dieOfCore core = die.val → inReset s (.core core) = false →
        ((getCore s core).missedPolls = 0 → Runs (.corePoll die [core]) s (fun t => (getCore t core).missedPolls = 1 ∧
          look t.hang.polls die 0 = s.odometer ∧ t.hang.resets = s.hang.resets ∧
          (∀ j, j ≠ core.val → dieOfCore j = die.val → (getCore t j).missedPolls = 0))) ∧
        (1 ≤ (getCore s core).missedPolls → (getCore s core).ctx = none → (getCore s core).trial = none →
          (getCore s core).suspects = [] →
          Runs (.corePoll die [core]) s (fun t => inReset t (.core core) = true ∧ look t.hang.polls die 0 = s.odometer)))) ∧
     (let works := s.ctxs.any (fun e => e.2.lists.any (fun l => l.2.armed && (look l.2.pos chan {}).stage == 2)) = true
      let due := fun (t : Nat) => passed s t (100 * usNs) = true ∧ kerbUp s chan = true ∧
        look (getStack s (chan / 16)).maint (chan % 16) false = false ∧ works
      (∀ t, (getKerb s chan).stepAt = some t → due t → exec (.kerbHang chan) s =
        .next (startReset (modKerb s chan (fun k => { k with stepAt := none })) (.kerb chan) Code.timedOut.num false)) ∧
      ((∀ t, (getKerb s chan).stepAt = some t → ¬ due t) → exec (.kerbHang chan) s = .next s)) ∧
     (let x := getCtx s c
      let due := x.state = .running ∧ regOf s pgAon 0x058 ≠ 0 ∧
        (∀ k, k ∈ x.cores → (getCore s k).parkedAt.isSome = true ∨ (getCore s k).halted = true) ∧
        passed s (x.cores.foldl (fun t k => max t (if (getCore s k).halted then (getCore s k).haltAt else (getCore s k).parkedAt.getD 0))
          (x.stallAt.getD 0)) (regOf s pgAon 0x058 * msNs) = true
      (due → exec (.contextStall c) s =
        .next (raise (modCtx s c (fun x => { x with stallAt := some s.odometer })) (pgCore (x.cores.headD 0)) 1)) ∧
      (¬ due → exec (.contextStall c) s = .next s)) ∧
     exec (.pllLockLoss die) s = .next (startPlain s (.die die))) ∧
  (∀ (k : Fin 5) (s : State),
     let h := s.hang
     let w := look h.windows k 0
     (let tie := look h.misses k 0 = 2 ∧ w + msNs = s.odometer
      let beat := fun (u : State) => { u with hang := { u.hang with
        beaten := store u.hang.beaten k true, beats := store u.hang.beats k u.odometer, windows := store u.hang.windows k u.odometer,
        misses := drop1 u.hang.misses k, restartAt := drop1 u.hang.restartAt k } }
      let s1 := if tie then addTie s pgAon else s
      (sourceUp s k = false → exec (.heartbeat k) s = .next s) ∧
      (sourceUp s k = true → restarting s k = true → exec (.heartbeat k) s = .next (leaveWaiting (beat s1) k)) ∧
      (sourceUp s k = true → restarting s k = false → Runs (.heartbeat k) s (fun t => t = beat s1 ∧
        look t.hang.beats k 0 = s.odometer ∧ look t.hang.windows k 0 = s.odometer ∧ look t.hang.misses k 0 = 0 ∧
        look t.hang.restartAt k none = none ∧ t.hang.resets = s.hang.resets ∧ t.cores = s.cores ∧ t.hbm = s.hbm))) ∧
     (let due := sourceUp s k = true ∧ look h.beaten k false = true ∧ look h.restartAt k none = none ∧ w + msNs < s.odometer
      (¬ due → exec (.watchdogMiss k) s = .next s) ∧
      (due → look h.misses k 0 < 2 → Runs (.watchdogMiss k) s (fun t => look t.hang.misses k 0 = look h.misses k 0 + 1 ∧
        look t.hang.windows k 0 = w + msNs ∧ look t.hang.restartAt k none = none ∧ t.hang.resets = h.resets)) ∧
      (due → 2 ≤ look h.misses k 0 → Runs (.watchdogMiss k) s (fun t => look t.hang.misses k 0 = 0 ∧
        look t.hang.windows k 0 = w + msNs ∧ look t.hang.restartAt k none = some s.odometer ∧
        regOf t pgAon (0x044 + 4 * k) = sat32 (regOf s pgAon (0x044 + 4 * k)) 1 ∧ t.mgmt.alertPend.getLsbD 3 = true ∧
        t.hang.resets = h.resets))) ∧
     ((∀ t0, look h.restartAt k none = some t0 → passed s t0 (5 * msNs) = false) →
       exec (.processorRestartOverrun k) s = .next s) ∧
     (∀ t0, look h.restartAt k none = some t0 → passed s t0 (5 * msNs) = true →
       (let s1 := ({ s with hang := { h with restartAt := drop1 h.restartAt k } } : State)
        (∀ h : k.val < 4, exec (.processorRestartOverrun k) s = .next (startReset s1 (.die ⟨k.val, h⟩) Code.timedOut.num false)) ∧
        (k.val = 4 → exec (.processorRestartOverrun k) s = .next (recordStep (hubReset s1) 8 Code.timedOut.num 0 0)))))

/-- R385, R391: an accepted RST_REQ whose target lies on the die starts the reset of the domain it names (startPlain); a target that
does not is rejected with BAD_FIELD, one already in reset with BUSY (of a die in reset the page itself is gated, R35). R376: at half
a budget every request that waits at the domain's edge is answered with FENCED, once, and what stands in the fabric of a die in reset is
refused. R377, R384, R387: a domain whose reset completes leaves reset, a port trains again once its transmitter has been off for
100 µs, and a core that hung without a culprit is tested; a completion at the instant of the overrun has completed, and the tie is
counted; a returning die leaves self-refresh and raises DIE_RETURNED. R383 to R385: a reset that overruns its budget ends, is
counted, and the next step of the ladder begins: the core of an engine, the site of a core, the die of a kerbside engine, the BYPASS
domain of a port, the full die of a BYPASS domain, the loss of a die, and the power of the hub. A site left after an overrun stays
behind its roadblock until its core has moved. None of the commands acts without such a reset or before its time. -/
def Obligations.Resets : Prop :=
  (∀ (p : PartId) (die : DieId) (target : BitVec 12) (s : State), writable s p (pgCtl die) 0x040 = true →
     let n := target.toNat
     (∀ r ∈ [(Instr.rstReqCore p die target, Domain.core (Fin.ofNat 4096 n), dieOfCore n == die.val),
        (.rstReqKerb p die target, .kerb (Fin.ofNat 192 n), decide (n < 192) && dieOfChan n == die.val),
        (.rstReqPort p die target, .port (Fin.ofNat 32 n), decide (n < 32) && dieOfPort n == die.val),
        (.rstReqBypass p die target, .bypass die, target == 0), (.rstReqDie p die target, .die die, target == 0)],
       (r.2.2 = false → exec r.1 s = .next (reject s (pgCtl die) 0x040 .badField)) ∧
       (r.2.2 = true → r.2.1 ≠ .die die → inReset s r.2.1 = true → exec r.1 s = .next (reject s (pgCtl die) 0x040 .busy)) ∧
       (r.2.2 = true → inReset s r.2.1 = false → exec r.1 s = .next (startPlain s r.2.1))) ∧
     (n < 192 → dieOfChan n = die.val → inReset s (.kerb (Fin.ofNat 192 n)) = false →
       Runs (.rstReqKerb p die target) s (fun t => inReset t (.kerb (Fin.ofNat 192 n)) = true ∧ t.hbm = s.hbm))) ∧
  (∀ (d : Domain) (s : State), resetOf s d = none →
     exec (.roadblockHalfBudget d) s = .next s ∧ exec (.resetComplete d) s = .next s ∧ exec (.resetOverrun d) s = .next s) ∧
  (∀ (d : Domain) (r : Reset) (s : State), resetOf s d = some r →
     (r.half = false → passed s r.start (domBudget d / 2) = true →
       (let hit := msgWaits d
        exec (.roadblockHalfBudget d) s = .next (refuseDie ((s.net.filter hit).foldl fenceAnswer { s with
          net := s.net.filter (fun m => !hit m),
          hang := { s.hang with resets := s.hang.resets.map (fun q => if q.dom == d then { q with half := true } else q) } }) d))) ∧
     (r.half = true ∨ passed s r.start (domBudget d / 2) = false → exec (.roadblockHalfBudget d) s = .next s) ∧
     (let s1 := if r.start + domBudget d = s.odometer then addTie s (pgCtl (domDie d)) else s
      let done := endReset s1 d
      (∀ c e, d = .engine c e → Runs (.resetComplete d) s (fun t => t = done ∧ resetOf t d = none)) ∧
      (∀ k, d = .kerb k → Runs (.resetComplete d) s (fun t => t = done ∧ resetOf t d = none)) ∧
      (d = .hub → Runs (.resetComplete d) s (fun t => t = endReset s d ∧ resetOf t d = none)) ∧
      (∀ c, d = .core c →
        (leftBehind s d = true → exec (.resetComplete d) s = .next s1) ∧
        (leftBehind s d = false → r.test = false ∨ s.hide.draining = true →
          Runs (.resetComplete d) s (fun t => t = done ∧ resetOf t d = none)) ∧
        (leftBehind s d = false → r.test = true → s.hide.draining = false →
          exec (.resetComplete d) s = .next (startTest (retestFirst done (dieOfCore c)) (siteOf s c) 3 c))) ∧
      (∀ p, d = .port p →
        (passed s r.start (100 * usNs) = true →
          Runs (.resetComplete d) s (fun t => t = relightPort done p ∧ (getPort t p).txOff = false ∧ resetOf t d = none)) ∧
        (passed s r.start (100 * usNs) = false → exec (.resetComplete d) s = .next s)) ∧
      (∀ e, d = .bypass e → exec (.resetComplete d) s = .next ((diePorts e).foldl relightPort done)) ∧
      (∀ e, d = .die e → Runs (.resetComplete d) s (fun t => t = unfence done e ∧ resetOf t d = none ∧
        dieUp t e = true ∧ (∀ i, i < 3 → (getStack t (3 * e.val + i)).selfRefresh = false))) ∧
      (∀ e, d = .fullDie e → exec (.resetComplete d) s = .next ((diePorts e).foldl relightPort (unfence done e))))) ∧
  (∀ (d : Domain) (r : Reset) (s : State), resetOf s d = some r →
     (s.odometer ≤ r.start + domBudget d ∨ leftBehind s d = true → exec (.resetOverrun d) s = .next s) ∧
     (r.start + domBudget d < s.odometer → leftBehind s d = false →
       (let s1 := bump32 (endReset s d) pgAon 0x068 1
        let code := Code.timedOut.num
        (∀ c e, d = .engine c e → exec (.resetOverrun d) s = .next (startReset s1 (.core c) code false)) ∧
        (∀ c, d = .core c → exec (.resetOverrun d) s = .next (coreOverrun s1 c r)) ∧
        (∀ k, d = .kerb k → exec (.resetOverrun d) s = .next (startReset s1 (.die (Fin.ofNat 4 (dieOfChan k))) code false)) ∧
        (∀ p, d = .port p → exec (.resetOverrun d) s = .next (startReset s1 (.bypass (Fin.ofNat 4 (dieOfPort p))) code false)) ∧
        (∀ e, d = .bypass e → exec (.resetOverrun d) s = .next (startReset s1 (.fullDie e) code false)) ∧
        (∀ e, d = .die e ∨ d = .fullDie e → exec (.resetOverrun d) s = .next (dieLost s1 e)) ∧
        (d = .hub → exec (.resetOverrun d) s = .next (enterDormant (modRecord s1 (fun x => { x with replace := true })) 4)) ∧
        (d = .hub → WakesNone s → Runs (.resetOverrun d) s (fun t => t.power.state = .dormant ∧ t.record.replace = true ∧ t.cores = [] ∧
          t.ctxs = [] ∧ t.power.lastStop = 4)))))

/-- R364, R365, R366, R435, R436: every 16 s a rotation test starts on the next site of its die that may be tested; a forced one on
a placed site whose last pass is 5.75 hours old, after a save when the context runs; a move's end takes the core's record along,
moves the signpost, and tests the site left or frees the stand-in; a test's end records the slice and the pass or the failure,
clears the site of a core that runs no context there, and acts on it by why it ran: a core that stands in goes home or stays, a site
that failed is left or condemned, and contexts that waited go on. A test that has taken more than 3 ms does not pass. R361: faults
older than 24 hours leave a site's count. A site outside the floor plan stops the two commands that name it. -/
def Obligations.FieldTests : Prop :=
  ∀ (die : DieId) (core : CoreId) (site : BitVec 16) (r : KatResult) (s : State),
    (let due := mayTest s die = true ∧ passed s (look s.hide.lastStart die 0) (16 * 1000 * msNs) = true
     (¬ due ∨ nextInRotation s die = none → exec (.katStart die) s = .next s) ∧
     (∀ n, nextInRotation s die = some n → rotationStart s n = none → exec (.katStart die) s = .next s) ∧
     (∀ n t, due → nextInRotation s die = some n → rotationStart s n = some t →
       exec (.katStart die) s = .next { t with hide := { t.hide with
         rotation := store t.hide.rotation die (siteIndex n + 1), first := store t.hide.first die ((look t.hide.first die []).filter (fun k => k != n)),
         lastStart := store t.hide.lastStart die s.odometer } })) ∧
    (let n := siteOf s core
     let due := mayTest s (dieOfCore core) = true ∧ (getSite s n).testing = false ∧ (getSite s n).role = 1 ∧
       passed s (siteKat s n) (23 * hourNs / 4) = true ∧ mayTestSite s n = true ∧ (getSite s n).failed = false ∧
       (getPage s (pgCore core)).moving = false
     (¬ due → exec (.katForced core) s = .next s) ∧
     (due → (getCore s core).ctx = none → exec (.katForced core) s = .next (startTest s n 0 core)) ∧
     (∀ c, due → (getCore s core).ctx = some c →
       ((getCtx s c).state = .running →
         exec (.katForced core) s = .next (beginSave s c { kind := 2, tag := 0, start := 0, after := 4, haltCore := core })) ∧
       ((getCtx s c).state ≠ .running → exec (.katForced core) s = .next s))) ∧
    (s.hide.moves.find? (fun m => m.core == core.val) = none → exec (.standInMoveDone core) s = .next s) ∧
    (∀ m, s.hide.moves.find? (fun m => m.core == core.val) = some m →
      (coreStopped (getCore s core) = false → exec (.standInMoveDone core) s = .next s) ∧
      (coreStopped (getCore s core) = true →
        (let s1 := (getCore s core).ctx.elim s (fun c => moveRecord s core c)
         let s2 := modPage { s1 with
           signpost := store s1.signpost core m.dst,
           hide := { s1.hide with moves := s1.hide.moves.filter (fun q => q.core != core.val) } } (pgCore core)
           (fun p => { p with moving := false })
         (m.why = 0 → exec (.standInMoveDone core) s = .next (startTest s2 m.src 1 core)) ∧
         (m.why ≠ 0 → exec (.standInMoveDone core) s = .next (modSite s2 m.src (fun x => { x with standIn := false }))))) ∧
      ((getCore s core).ctx = none → coreStopped (getCore s core) = true →
        Runs (.standInMoveDone core) s (fun t => siteOf t core = m.dst ∧ (getPage t (pgCore core)).moving = false ∧
          (∀ q, q ∈ t.hide.moves → q.core ≠ core.val) ∧
          (m.why = 0 → ∃ x, x ∈ t.hide.tests ∧ x.site = m.src ∧ x.why = 1 ∧ x.core = core.val)))) ∧
    (siteOk site.toNat = true → s.hide.tests.find? (fun x => x.site == site.toNat) = none → exec (.katDone site r) s = .next s) ∧
    (∀ x, siteOk site.toNat = true → s.hide.tests.find? (fun x => x.site == site.toNat) = some x →
      (r = .pass → x.start + 3 * msNs < s.odometer → exec (.katDone site r) s = .next s) ∧
      (r ≠ .pass ∨ s.odometer ≤ x.start + 3 * msNs →
        (let n := site.toNat
         let ok := r = .pass
         let u := testNoted s n x r
         let away := siteOf u x.core
         let role := (getSite u n).role
         let runs := fun (t : State) => exec (.katDone site r) s = .next t
         (x.why = 0 → ok → runs u) ∧
         (x.why = 0 → ¬ ok → (role = 2 → runs (makeDefective u n)) ∧ (role = 1 → runs (condemn u n)) ∧
           (role ≠ 1 → role ≠ 2 → runs u)) ∧
         (x.why = 1 → away = n → (ok → runs u) ∧ (¬ ok → runs (condemn u n))) ∧
         (x.why = 1 → away ≠ n → (ok → runs (goHome u x.core)) ∧ (¬ ok → runs (keepStandIn u x.core n))) ∧
         (x.why = 2 → ok → runs (resumeReplays u x.core)) ∧
         (x.why = 2 → ¬ ok → (role = 2 → runs (resumeReplays (returnHome (makeDefective u n) x.core) x.core)) ∧
           (role ≠ 2 → runs (resumeReplays (leaveSite u x.core) x.core))) ∧
         (x.why = 3 → ok → runs (resumeReplays (markSuspects u x.core) x.core)) ∧
         (x.why = 3 → ¬ ok → runs (resumeReplays (modCore (leaveSite u x.core) x.core (fun y => { y with accused := [] })) x.core)) ∧
         (3 < x.why → runs (rerunAll (if ok then u else substitute u x.core)))))) ∧
    (∀ x, siteOk site.toNat = true → s.hide.tests.find? (fun x => x.site == site.toNat) = some x → x.why = 0 → r = .pass →
      s.odometer ≤ x.start + 3 * msNs →
      Runs (.katDone site r) s (fun t => (getSite t site.toNat).testing = false ∧ (getSite t site.toNat).kat = s.odometer ∧
        (getSite t site.toNat).role = (getSite s site.toNat).role ∧ (∀ q, q ∈ t.hide.tests → q.site ≠ site.toNat) ∧
        t.hide.katFailed = s.hide.katFailed)) ∧
    (∀ x, siteOk site.toNat = true → s.hide.tests.find? (fun x => x.site == site.toNat) = some x → x.why = 0 → r = .progFail →
      (getSite s site.toNat).role = 2 → (recent s (look s.hide.defects (dieOfSite site.toNat) [])).length < 3 →
      Runs (.katDone site r) s (fun t => (getSite t site.toNat).role = 0 ∧
        t.hide.katFailed = s.hide.katFailed ++ [(site.toNat, siteKat s site.toNat, s.odometer)])) ∧
    (siteOk site.toNat = true → Runs (.fault24hExpiry site) s (fun t =>
      (getSite t site.toNat).faults = (getSite s site.toNat).faults.filter (fun x => s.odometer < x + dayNs) ∧
      (getSite t site.toNat).role = (getSite s site.toNat).role ∧ (∀ j, j ≠ site.toNat → getSite t j = getSite s j))) ∧
    (siteOk site.toNat = false → exec (.fault24hExpiry site) s = .fault .noSuchSite ∧ exec (.katDone site r) s = .fault .noSuchSite)

/-- R367, R368: a shadow run that agrees ends; one that disagrees is counted, and a second site runs the pass, when one is free. The
vote's majority names the placed core or the first shadow site; without one the vote is split; it waits for a second site. R386: a
trial that its core survived clears the mark and ends. R371, R373: once no context runs or saves, or 1 ms has passed, and no move is
under way, a drain's end makes the RUNNING, SAVING and FAULTED ones IDLE, writes the records and is complete. R194: a core parked for
2 µs lends its grant and its island gates. None of the commands acts without such a pass, trial, drain or core. -/
def Obligations.VotesTrialsDrains : Prop :=
  (∀ (core : CoreId) (crc : Word) (r : ShadowRun) (s : State),
     (shadowOf s core false = none → exec (.shadowRunDone core crc) s = .next s) ∧
     (shadowOf s core false = some r →
       (crc = r.crc → exec (.shadowRunDone core crc) s = .next (setShadow (bump64 s pgAtlas 0x074 1) r [])) ∧
       (crc ≠ r.crc →
         (let s1 := raise (bump32 (bump64 s pgAtlas 0x074 1) pgAtlas 0x07C 1) pgAtlas 2
          let second := nearest ((shadowFree s1 (dieOfCore core)).filter (fun n => n != r.site1)) (siteOf s1 core)
          exec (.shadowRunDone core crc) s = .next (setShadow s1 r [{ r with crc1 := some crc, at_ := s1.odometer, site2 := second }]) ∧
          Runs (.shadowRunDone core crc) s (fun t => regOf t pgAtlas 0x07C = sat32 (regOf s pgAtlas 0x07C) 1 ∧
            (∃ q, q ∈ t.hide.shadows ∧ q.core = r.core ∧ q.crc = r.crc ∧ q.crc1 = some crc ∧ q.at_ = s.odometer ∧ q.site1 = r.site1 ∧
              q.site2 ≠ some r.site1))))) ∧
     (shadowOf s core true = none → exec (.shadowVoteDone core crc) s = .next s) ∧
     (shadowOf s core true = some r →
       (let free := (shadowFree s (dieOfCore core)).filter (fun n => n != r.site1)
        (r.site2 = none → free = [] → exec (.shadowVoteDone core crc) s = .next s) ∧
        (r.site2 ≠ none ∨ free ≠ [] →
          (r.crc1 = some crc → exec (.shadowVoteDone core crc) s = .next (placedLoses (setShadow s r []) r)) ∧
          (r.crc1 ≠ some crc → crc = r.crc → exec (.shadowVoteDone core crc) s = .next (siteFault (setShadow s r []) r.site1)) ∧
          (r.crc1 ≠ some crc → crc ≠ r.crc → exec (.shadowVoteDone core crc) s = .next (splitVote (setShadow s r []) r)))))) ∧
  (∀ (core : CoreId) (s : State),
     (let ended := fun (c t : Nat) => (getCtx s c).state = .halted ∨ (getCtx s c).state = .free ∨ (getCtx s c).state = .idle ∨
        (getCore s core).halted = true ∨ t < (getCtx s c).imageAt ∨
        ((getCtx s c).state = .running ∧ passed s t (100 * msNs) = true)
      (∀ c t, (getCore s core).trial = some (c, t) → ended c t →
        exec (.trialPass core) s = .next (goHome (clearMark (modCore s core (fun x => { x with trial := none })) core c) core)) ∧
      ((∀ c t, (getCore s core).trial = some (c, t) → ¬ ended c t) → exec (.trialPass core) s = .next s)) ∧
     (let works := fun (c : Nat) => (getCtx s c).state = .running ∨ (getCtx s c).state = .saving
      let due := s.hide.draining = true ∧ s.hide.drainDone = false ∧ s.hide.moves = [] ∧ s.boot.phase = 6 ∧ drainReady s = true ∧
        ((∀ c, c < 256 → ¬ works c) ∨ passed s s.hide.drainAt msNs = true)
      (¬ due → exec .drainComplete s = .next s) ∧
      (due → Runs .drainComplete s (fun t => t.hide.drainDone = true ∧ t.hide.draining = true ∧
        (∀ c, c < 256 → works c ∨ (getCtx s c).state = .faulted → (getCtx t c).state = .idle) ∧
        (∀ c, c < 256 → ¬ works c → (getCtx s c).state ≠ .faulted → (getCtx t c).state = (getCtx s c).state)) ∧
        exec .drainComplete s = .next (
          let u := (List.range 256).foldl writeDrainRecord ((List.range 256).foldl endDrainCtx s)
          chipNotice { u with hide := { u.hide with drainDone := true } }
            { typ := 7, odo := BitVec.ofNat 64 u.odometer, arg0 := u.hide.drainPage }))) ∧
     (let due := fun (t : Nat) => (getCore s core).lent = false ∧ parked (getCore s core) = true ∧ passed s t (2 * usNs + 1) = true
      (∀ t, (getCore s core).parkedAt = some t → due t →
        Runs (.grantLend core) s (fun u => (getCore u core).lent = true ∧
          (getCore u core).step = 0 ∧ (getCore u core).istate = 3 ∧ (getCore u core).parkedAt = some t ∧
          siteReg u core 0x418 = sat32 (siteReg s core 0x418) 1 ∧
          (∀ j, j ≠ core.val → getCore u j = getCore s j) ∧ u.power = s.power)) ∧
      ((∀ t, (getCore s core).parkedAt = some t → ¬ due t) → exec (.grantLend core) s = .next s)))

/-! ### Power, bring-up and management (chapters 20 to 24) -/

/-- R398, R399, R394, R395: a measurement is taken with its energy and the effective cap follows; VIN_OUT is raised as the voltage
leaves its rating; the core budget is split by resident cores; every unparked core of a die takes the die's step, at most its
ISL_LIMIT, and the step is the largest under the ceiling that fits what sites under test leave of the pool, or 1. R400: the first waiting island starts at up to 16
slices, at most 128 of a die in 1 µs, and a running one rises by one after 16 ns. A module without power does none of this. -/
def Obligations.MeasuresAndGrants : Prop :=
  ∀ (pIn vIn iIn other : Nat) (dies unit : List Nat) (core : CoreId) (d : Nat) (s : State), d < 4 →
    (s.power.state = .off → exec (.powerMeasure pIn vIn iIn other dies) s = .next s) ∧
    (s.power.state ≠ .off → Runs (.powerMeasure pIn vIn iIn other dies) s (fun t =>
      t.power.pIn = pIn ∧ t.power.vIn = vIn ∧ t.power.iIn = iIn ∧ t.power.other = other ∧ t.power.diePower = dies ∧
      t.power.energy = s.power.energy + pIn * (s.odometer - s.power.measuredAt) ∧ t.power.measuredAt = s.odometer ∧
      t.power.effCap = (if vIn = 0 then s.power.cap else min s.power.cap (s.power.vinUse.getD vIn / 2)) ∧ t.power.cap = s.power.cap ∧
      t.power.vinLowAt = (if vinBad vIn then some (s.power.vinLowAt.getD s.odometer) else none) ∧
      t.cores = s.cores ∧ t.hbm = s.hbm ∧
      (vinOut vIn = true → vinOut s.power.vIn = false → t.mgmt.alertPend.getLsbD 1 = true) ∧
      (vinOut vIn = false ∨ vinOut s.power.vIn = true → t.mgmt = s.mgmt))) ∧
    Runs .poolSplit s (fun t => t = { s with power := { s.power with pool := t.power.pool } } ∧
      nth t.power.pool d = (10 * s.power.effCap - s.power.other) * (residentCores s d).length /
        ((residentCores s 0).length + (residentCores s 1).length + (residentCores s 2).length + (residentCores s 3).length)) ∧
    (s.power.state ≠ .on → exec (.grantAllocate unit) s = .next s ∧ exec (.islandRampStep core) s = .next s) ∧
    (s.power.state = .on → Runs (.grantAllocate unit) s (fun t =>
      (let fits := fun (k : Nat) => predicted s (grantedCores s d) (nth unit d) k ≤ poolLeft s d (nth unit d)
       (nth t.power.dieStep d = 1 ∨ fits (nth t.power.dieStep d)) ∧
       (∀ k, nth t.power.dieStep d < k → k ≤ 64 → k ≤ nth s.power.ceiling d → ¬ fits k)) ∧
      1 ≤ nth t.power.dieStep d ∧ nth t.power.dieStep d ≤ max 1 (nth s.power.ceiling d) ∧
      (∀ c, c ∈ grantedCores s d →
        (getCore t c).grant = min (nth t.power.dieStep d) (getCore s c).islLimit ∧ (getCore t c).step ≤ (getCore t c).grant) ∧
      (∀ c, (getCore s c).lent = true ∨ (coreSite s c).testing = true → getCore t c = getCore s c))) ∧
    (s.power.state = .on →
      (let x := getCore s core
       let late := s.power.released.filter (fun r => s.odometer < r.2 + usNs)
       let free := firstWaiting s (dieOfCore core) = some core.val ∧ (late.filter (fun r => r.1 == dieOfCore core)).length < 128
       let gates := x.ctx = none ∨ x.lent = true ∨ (coreSite s core).testing = true ∨ x.grant = 0
       (gates → exec (.islandRampStep core) s = .next s) ∧
       (¬ gates → x.step = 0 →
         (free → Runs (.islandRampStep core) s (fun t => (getCore t core).step = min 16 x.grant ∧
           (getCore t core).rampAt = s.odometer ∧ t.power.released = late ++ [(dieOfCore core, s.odometer)] ∧
           (∀ j, j ≠ core.val → getCore t j = getCore s j))) ∧
         (¬ free → exec (.islandRampStep core) s = .next s)) ∧
       (¬ gates → x.step ≠ 0 →
         (x.step < x.grant → passed s x.rampAt 16 = true → Runs (.islandRampStep core) s (fun t =>
           (getCore t core).step = x.step + 1 ∧ (getCore t core).rampAt = s.odometer ∧ t.power = s.power ∧
           (∀ j, j ≠ core.val → getCore t j = getCore s j))) ∧
         (x.grant ≤ x.step ∨ passed s x.rampAt 16 = false → exec (.islandRampStep core) s = .next s))))

/-- R438: a compute die with fewer than 48 junction sensors left has its step capped at 32; with fewer than 16 on any die the
module trips. -/
def Obligations.FewSensors : Prop :=
  ∀ (junction hub hbmStacks unit : List Nat) (d : Nat) (s : State), d < 4 → s.power.state = .on →
    ((dieReadings s.power d).length < 48 →
      Runs (.sensorRead junction hub hbmStacks) s (fun t => nth t.power.ceiling d ≤ 32)) ∧
    (nth s.power.ceiling d ≤ 32 → Runs (.grantAllocate unit) s (fun t => nth t.power.dieStep d ≤ 32 ∧
      (∀ c, c ∈ grantedCores s d → (getCore t c).step ≤ 32))) ∧
    ((dieReadings s.power d).length < 16 ∨ (hubReadings s.power).length < 16 →
      Runs .thermalTrip s (fun t => t.power.tripped = true ∧ t.cores = [] ∧ t.ctxs = [] ∧ t.hbm = [] ∧
        (WakesNone s → t.power.state = .dormant)))

/-- R406, R438: temperatures are taken, the time under a ceiling is counted (THROTTLE_US), and while the module runs each die's
ceiling and each stack's access rate follow them. R407, R393: a trip and an input fault take the power of every domain but
ALWAYS_ON, in DORMANT a trip only notes itself; a fired comparator with WAKE brings the module back at once (R405); below 90 °C the
trip is released, and a held wake goes on. R393, R412, R429: a loss of the always-on domain leaves the
non-volatile record alone; power-up starts bring-up from time 0 with new keys for every partition. R404: an enabled comparator fires,
with the time, each time its condition comes to hold; one with WAKE wakes a dormant or dozing module below
90 °C. R402: DOZE puts every stack into self-refresh once no test or move is under way, and its exit takes it out. None of them acts
without its cause. -/
def Obligations.PowerStates : Prop :=
  (∀ (junction hub hbmStacks : List Nat) (s : State),
     (s.power.state = .off → exec (.sensorRead junction hub hbmStacks) s = .next s) ∧
     (s.power.state ≠ .off → Runs (.sensorRead junction hub hbmStacks) s (fun t =>
       t.power.junction = junction ∧ t.power.hub = hub ∧ t.power.stackT = hbmStacks ∧ t.cores = s.cores ∧
       regOf t pgQpc 0x068 = s.power.throttleAt.elim (regOf s pgQpc 0x068)
         (fun t0 => sat32 (regOf s pgQpc 0x068) ((s.odometer - t0) / usNs)) ∧
       (hubPowered s = true →
         t.power.ceiling = (List.range 4).map (ceilingOf { s.power with junction := junction, hub := hub, stackT := hbmStacks }) ∧
         (∀ k, k < 12 → (getStack t k).halfRate = (decide (380 ≤ nth hbmStacks k) || decide (3 ≤ look s.power.stackRuns k 0))) ∧
         (let hot := (List.range 4).any (ceilingOn { s.power with junction := junction, hub := hub, stackT := hbmStacks })
          t.power.throttleAt.isSome = hot ∧
          (hot = true → s.power.throttleAt = none → t.power.throttleAt = some s.odometer ∧ t.mgmt.alertPend.getLsbD 0 = true))))) ∧
     (let trips := s.power.state ≠ .off ∧ tripNow s.power = true
      let s1 := modPower s (fun x => { x with tripped := true })
      (trips → hubPowered s = true → exec .thermalTrip s = .next (enterDormant s1 2)) ∧
      (trips → hubPowered s = false → exec .thermalTrip s = .next (modPower s1 (fun x => { x with lastStop := 2 }))) ∧
      (trips → hubPowered s = true → WakesNone s → Runs .thermalTrip s (fun t =>
        t.power.state = .dormant ∧ t.power.tripped = true ∧ t.power.lastStop = 2 ∧ t.cores = [] ∧ t.ctxs = [] ∧ t.hbm = [] ∧
        t.record = s.record ∧ t.odometer = s.odometer)) ∧
      (¬ trips → exec .thermalTrip s = .next s)) ∧
     (let due := fun (t0 : Nat) => hubPowered s = true ∧ passed s t0 (100 * usNs) = true
      (∀ t0, s.power.vinLowAt = some t0 → due t0 → exec .vinFault s = .next (enterDormant s 3)) ∧
      (∀ t0, s.power.vinLowAt = some t0 → due t0 → WakesNone s → Runs .vinFault s (fun t =>
        t.power.state = .dormant ∧ t.power.lastStop = 3 ∧ t.cores = [] ∧ t.ctxs = [] ∧ t.hbm = [] ∧ t.record = s.record)) ∧
      (∀ t0, s.power.vinLowAt = some t0 → due t0 → ¬ WakesNone s → stillHot s.power = false → Runs .vinFault s (fun t =>
        t.power.state = .on ∧ t.boot.phase = 0 ∧ t.boot.bootAt = s.odometer)) ∧
      ((∀ t0, s.power.vinLowAt = some t0 → ¬ due t0) → exec .vinFault s = .next s)) ∧
     (stillHot s.power = true ∨ s.power.state = .off → exec .thermTripRelease s = .next s) ∧
     (stillHot s.power = false → s.power.state ≠ .off →
       (s.power.heldWake = false → exec .thermTripRelease s = .next (modPower s (fun x => { x with tripped := false }))) ∧
       (s.power.heldWake = true → exec .thermTripRelease s = .next (wakeNow (modPower s (fun x => { x with tripped := false })))) ∧
       (s.power.state = .dormant → s.power.heldWake = true →
         Runs .thermTripRelease s (fun t => t.power.state = .on ∧ t.power.tripped = false ∧ t.power.heldWake = false ∧
           t.boot.phase = 0 ∧ t.boot.bootAt = s.odometer)))) ∧
  (∀ (k : Fin 8) (s : State),
     Runs .alwaysOnLoss s (fun t => t.power.state = .off ∧ t.record = s.record ∧ t.cores = [] ∧ t.ctxs = [] ∧ t.hbm = [] ∧
       t.traces = [] ∧ t.pending = s.pending) ∧
     (s.power.state = .off → Runs .powerUp s (fun t => t.power.state = .on ∧ t.odometer = 0 ∧ t.power.cap = 1600 ∧ t.boot.phase = 0 ∧
       t.boot.ready = false ∧ t.record = s.record ∧ (∀ j, j < 17 → look t.qsc.keyGen j 0 = look s.qsc.keyGen j 0 + 1))) ∧
     (s.power.state ≠ .off → exec .powerUp s = .next s) ∧
     (let c := getCmp s k
      let fires := s.power.state ≠ .off ∧ c.en = true ∧ c.met = false ∧ cmpHolds s k = true
      (¬ fires → exec (.comparatorFire k) s = .next s) ∧
      (fires → Runs (.comparatorFire k) s (fun t => (getCmp t k).fired = true ∧ (getCmp t k).firedAt = s.odometer ∧ (getCmp t k).met = true ∧
        (getCmp t k).en = true ∧ (∀ j, j ≠ k.val → getCmp t j = getCmp s j) ∧ t.mgmt.alertPend.getLsbD 2 = true ∧
        (c.wake = false ∨ (s.power.state ≠ .dormant ∧ s.power.state ≠ .doze) → t.power.state = s.power.state ∧
          t.power.heldWake = s.power.heldWake) ∧
        (c.wake = true → s.power.state = .dormant → stillHot s.power = false → t.power.state = .on ∧ t.boot.phase = 0) ∧
        (c.wake = true → s.power.state = .doze → stillHot s.power = false →
          t.power.state = .doze ∧ t.power.leaving = some (s.power.leaving.getD .wake)) ∧
        (c.wake = true → s.power.state = .dormant ∨ s.power.state = .doze → stillHot s.power = true →
          t.power.state = s.power.state ∧ t.power.heldWake = true)))) ∧
     (∀ q, s.power.entering = some q →
       (s.hide.tests = [] → s.hide.moves = [] → Runs .dozeEntered s (fun t =>
         t.power.state = .doze ∧ t.power.entering = none ∧ (∀ j, j < 12 → (getStack t j).selfRefresh = true))) ∧
       (s.hide.tests ≠ [] ∨ s.hide.moves ≠ [] → exec .dozeEntered s = .next s)) ∧
     (s.power.entering = none → exec .dozeEntered s = .next s) ∧
     (∀ q, s.power.leaving = some q → Runs .dozeExitDone s (fun t =>
       t.power.state = .on ∧ t.power.leaving = none ∧ (∀ j, j < 12 → (getStack t j).selfRefresh = false))) ∧
     (s.power.leaving = none → exec .dozeExitDone s = .next s))

/-- R412 to R416: POWER ends with the record's pending transition applied, and a REPLACE found there begins the drain; IDENTITY
passes to training or stops with its code, by the fuse records of the five dies and their steppings; a bridge test, a trained stack and the cleared frame map are noted, and a bridge below
its floor or a stack that overruns ends bring-up drained. R425, R418 to R421: an image whose checks pass is accepted and the load
buffer is emptied, and one that fails is counted; START, TEST and READY follow one another, the image copied and the processors of the dies that are not lost started; the bring-up test leaves no fault
counts, takes a hard-shoulder site that fails out of the pool, and stops once a cause has ended bring-up; READY is noticed to every
partition that has an area; a phase that overruns loses the die, or in POWER for the hub everything. Out of its phase none of them
acts. -/
def Obligations.BringUp : Prop :=
  (∀ (straps steppings : List Nat) (fuses : List FuseRecord) (slot : BitVec 6) (die : DieId) (bridge : Fin 3) (data spare : List Nat)
     (stack : StackId) (s : State),
     (s.power.state ≠ .on ∨ s.boot.phase ≠ 0 → exec .bringupPowerDone s = .next s) ∧
     (s.power.state = .on → s.boot.phase = 0 → Runs .bringupPowerDone s (fun t =>
       t.boot.phase = 1 ∧ t.boot.phaseAt = s.odometer ∧ t.boot.railsAt ≤ s.odometer ∧
       (s.boot.phaseAt ≤ s.odometer → s.boot.phaseAt ≤ t.boot.railsAt) ∧ t.record.pending = false ∧
       t.record.lcState = (if s.record.pending then s.record.pendingState else s.record.lcState) ∧
       t.record.identity = (if s.record.pending = true ∧ s.record.pendingState = 1 then s.record.identity + 1 else s.record.identity) ∧
       t.hide.draining = (s.hide.draining || s.record.replace))) ∧
     (s.power.state ≠ .on ∨ s.boot.phase ≠ 1 → exec (.identityCheck straps fuses steppings slot) s = .next s) ∧
     (s.power.state = .on → s.boot.phase = 1 → Runs (.identityCheck straps fuses steppings slot) s (fun t =>
       t.boot.straps = slot.toNat ∧ t.boot.phaseAt = s.odometer ∧
       ((straps.length = 4 ∧ (∀ j, j < 4 → j ∈ straps)) → fusesOk s fuses = true → sameStepping steppings = true →
         t.boot.phase = 2 ∧ t.boot.trainAt = s.odometer ∧ t.boot.code = s.boot.code ∧
         t = trainPorts { s with boot := t.boot }) ∧
       (¬(straps.length = 4 ∧ (∀ j, j < 4 → j ∈ straps)) ∨ fusesOk s fuses = false →
         t.boot.phase = 8 ∧ t.boot.code = Code.checkFailed.num ∧ t.boot.failUnit = 1) ∧
       ((straps.length = 4 ∧ (∀ j, j < 4 → j ∈ straps)) → fusesOk s fuses = true → sameStepping steppings = false →
         t.boot.phase = 8 ∧ t.boot.code = Code.checkFailed.num ∧ t.boot.failUnit = 2))) ∧
     (training s = false ∨ s.boot.bridgesDone.contains (bridgeOf die bridge) = true →
       exec (.bridgeTestDone die bridge data spare) s = .next s) ∧
     (training s = true → s.boot.bridgesDone.contains (bridgeOf die bridge) = false →
       (let x := testedBridge (if bridge.val = 2 then 4 else 20) data spare (getBridge s (bridgeOf die bridge))
        let s1 := modBoot (setBridge s (bridgeOf die bridge) { x with lastAt := s.odometer })
          (fun b => { b with bridgesDone := b.bridgesDone ++ [bridgeOf die bridge] })
        (sliceFloor bridge ≤ sliceCount x → exec (.bridgeTestDone die bridge data spare) s = .next s1) ∧
        (sliceCount x < sliceFloor bridge → exec (.bridgeTestDone die bridge data spare) s =
          .next (beginDrain (bootFail s1 .checkFailed 3) causeBridge (pgBridge (bridgeOf die bridge)) Code.checkFailed.num)))) ∧
     (training s = false ∨ (getStack s stack).state ≠ 0 →
       exec (.hbmTrainingDone stack) s = .next s ∧ exec (.stackTrainingOverrun stack) s = .next s) ∧
     (training s = true → (getStack s stack).state = 0 →
       exec (.hbmTrainingDone stack) s = .next (modStack s stack (fun x => { x with state := 1, softPending := [] })) ∧
       (passed s s.boot.trainAt (16 * msNs) = false → exec (.stackTrainingOverrun stack) s = .next s) ∧
       (passed s s.boot.trainAt (16 * msNs) = true → exec (.stackTrainingOverrun stack) s = .next (beginDrain
         (raise (modStack (bootFail s .timedOut 4) stack (fun x => { x with state := 2 })) (pgHbm stack) 4)
         causeStack (pgHbm stack) Code.timedOut.num))) ∧
     (training s = false ∨ s.boot.zeroDone = true → exec .reservedZeroDone s = .next s) ∧
     (training s = true → s.boot.zeroDone = false → Runs .reservedZeroDone s (fun t =>
       t.boot.zeroDone = true ∧ (∀ f, frameEntry t f = 0) ∧ ilSplit t = 32 ∧ t.hbm = s.hbm))) ∧
  (∀ (hub : Bool) (die : DieId) (results : List SiteTest) (x : SiteTest) (s : State),
     (s.boot.verifying = none → exec .fwVerifyDone s = .next s) ∧
     (∀ c r len, s.boot.verifying = some (c, r, len) →
       (verifyFail s len = none → exec .fwVerifyDone s = .next (acceptImage s c r len)) ∧
       (∀ f, verifyFail s len = some f →
         exec .fwVerifyDone s = .next (loadFail (modBoot (toPhase s 2) (fun b => { b with verifying := none })) c r f)) ∧
       Runs .fwVerifyDone s (fun t => t.boot.verifying = none ∧
         (verifyFail s len = none → t.boot.accepted = true ∧ t.qsc.fwValid = true ∧
           t.boot.buffer = (if s.hide.draining then [] else s.boot.buffer) ∧ (s.hide.draining = true → t.boot.image = s.boot.buffer) ∧
           t.boot.phase = (if s.hide.draining then 7 else 4)) ∧
         (∀ f, verifyFail s len = some f → t.boot.accepted = s.boot.accepted ∧ t.boot.buffer = s.boot.buffer ∧ t.boot.phase = 2 ∧
           t.boot.fwFails = sat32 s.boot.fwFails 1 ∧ t.boot.code = f.num))) ∧
     (s.power.state ≠ .on ∨ s.boot.phase ≠ 4 → exec .firmwareStart s = .next s) ∧
     (s.power.state = .on → s.boot.phase = 4 → Runs .firmwareStart s (fun t => t.boot.phase = 5 ∧ t.boot.startDone = true ∧
       t.boot.image = s.boot.buffer ∧ t.boot.buffer = [] ∧ (∀ n, n ∈ t.boot.fwFailed → siteOk n = true ∧ (getSite s n).role ≠ 0) ∧
       (∀ k, k < 5 → look t.hang.beaten k false = decide (k = 4 ∨ look s.hang.dstate k 0 ≠ 4) ∧ look t.hang.beats k 0 = s.odometer) ∧
       t.sites = s.sites)) ∧
     (let due := s.power.state = .on ∧ s.boot.phase = 5 ∧ s.boot.testDone = false
      let u := (sortTests ((firmwareFails s ++ results).filter (fun t => siteOk t.site))).foldl (fun s t => if s.hide.draining then s else applyTest s t) s
      let v := ({ u with sites := u.sites.map (fun e => (e.1, { e.2 with faults := [] })) } : State)
      (¬ due → exec (.bringupTestDone results) s = .next s) ∧
      (due → u.hide.draining = true → exec (.bringupTestDone results) s = .next v) ∧
      (due → u.hide.draining = false → exec (.bringupTestDone results) s =
        .next (modBoot v (fun b => { b with testDone := true, testAt := v.odometer })))) ∧
     (s.power.state = .on → s.boot.phase = 5 → s.boot.testDone = false → s.hide.draining = false → s.boot.fwFailed = [] →
       Runs (.bringupTestDone []) s (fun t => t.boot.testDone = true ∧ t.boot.testAt = s.odometer ∧
         (∀ n, (getSite t n).faults = [] ∧ (getSite t n).role = (getSite s n).role)) ∧
       (siteOk x.site = true → x.other = true → (getSite s x.site).role = 2 → Runs (.bringupTestDone [x]) s (fun t =>
         t.boot.testDone = true ∧ (getSite t x.site).role = 0 ∧ (∀ n, n ≠ x.site → (getSite t n).role = (getSite s n).role)))) ∧
     (readyNow s = false → exec .readySend s = .next s) ∧
     (readyNow s = true → Runs .readySend s (fun t => t.boot.phase = 6 ∧ t.boot.ready = true ∧ t.boot.readyAt = s.odometer ∧
       t.record.atlasDirty = false ∧
       (∀ p, p < 16 → s.record.atlasDirty = false → (getPart s p).area ≠ none → (getPart s p).queue.length < 1024 →
         (getPart t p).queue = (getPart s p).queue ++ [{ typ := 5, odo := BitVec.ofNat 64 s.odometer, arg0 := Config.stepping.toNat }]))) ∧
     (let late := fun (n : Nat) => passed s s.boot.phaseAt (n * msNs) = true
      let overrun := s.power.state = .on ∧ ((s.boot.phase = 0 ∧ late 8) ∨ (s.boot.phase = 4 ∧ late 8) ∨
        (s.boot.phase = 5 ∧ s.boot.testDone = false ∧ late 12))
      (¬ overrun → exec (.bringupOverrun hub die) s = .next s) ∧
      (overrun → s.boot.phase = 0 →
        exec (.bringupOverrun true die) s = .next (enterDormant (bootFail s .timedOut 7) 4) ∧
        (WakesNone s → Runs (.bringupOverrun true die) s (fun t => t.power.state = .dormant ∧ t.power.lastStop = 4 ∧ t.boot.failUnit = 7)) ∧
        exec (.bringupOverrun false die) s = .next (bootDieLost (endPower s) die 7)) ∧
      (overrun → s.boot.phase ≠ 0 → exec (.bringupOverrun hub die) s = .next (bootDieLost s die 6))))

/-- R437, R438: bias above its limit takes lanes from the transmitter's good ones, and three low received powers in a row a lane
from those requested, and a trained port changes its width; a PLL that fails resets its die, its BYPASS domain or the hub; a junction
sensor that fails three checks in a row is excluded and counted, and a stack whose sensor does runs at half access rate; two input
monitors that differ for 1 ms leave the lower reading in use until they agree, each further 1 ms counted. -/
def Obligations.AnalogueChecks : Prop :=
  ∀ (port : PortId) (bias power : BitVec 8) (fabric bypass : BitVec 4) (hub : Bool) (junction hbmStacks : List Nat) (die : DieId)
    (k a b : Nat) (s : State),
    (let x := getPort s port
     let runs := (List.range 8).map (fun i => (i, if power.getLsbD i then look x.lowPower i 0 + 1 else 0))
     let z := opticalPort x bias power
     (portUp s port = false → exec (.opticalCheck port bias power) s = .next s) ∧
     let bound := x.tstate = 4 ∨ x.tstate = 5 ∨ x.tstate = 6
     (portUp s port = true → ¬ bound → exec (.opticalCheck port bias power) s =
         .next (setPort s port { x with lowPower := runs, txGood := x.txGood &&& ~~~bias }) ∧
       Runs (.opticalCheck port bias power) s (fun t =>
         (∀ i, i < 8 → look (getPort t port).lowPower i 0 = (if power.getLsbD i then look x.lowPower i 0 + 1 else 0)) ∧
         (getPort t port).txGood = x.txGood &&& ~~~bias ∧ (getPort t port).laneReq = x.laneReq ∧ (∀ j, j ≠ port.val → getPort t j = getPort s j))) ∧
     (portUp s port = true → bound → z.txGood = x.txGood → z.laneReq = x.laneReq →
       exec (.opticalCheck port bias power) s = .next (setPort s port z)) ∧
     (portUp s port = true → bound → z.txGood ≠ x.txGood ∨ z.laneReq ≠ x.laneReq →
       exec (.opticalCheck port bias power) s = .next (widthChange (setPort s port z) port))) ∧
    (let s1 := if s.power.state = .on then
       (List.range 4).foldl (fun s d => if fabric.getLsbD d && dieUp s d then startPlain s (.die (Fin.ofNat 4 d)) else s) s else s
     let s2 := if hubPowered s = true then
       (List.range 4).foldl (fun s d => if bypass.getLsbD d then startPlain s (.bypass (Fin.ofNat 4 d)) else s) s1 else s1
     exec (.pllCheck fabric bypass hub) s = .next (if hub = true then hubReset s2 else s2)) ∧
    exec (.pllCheck 0 0 false) s = .next s ∧
    (s.power.state = .on → dieUp s die = true →
      exec (.pllCheck (1#4 <<< die.val) 0 false) s = .next (startPlain s (.die die))) ∧
    (hubPowered s = true → exec (.pllCheck 0 (1#4 <<< die.val) false) s = .next (startPlain s (.bypass die))) ∧
    exec (.pllCheck 0 0 true) s = .next (hubReset s) ∧
    (s.power.state ≠ .on → exec (.sensorCheck junction hbmStacks) s = .next s) ∧
    (s.power.state = .on → Runs (.sensorCheck junction hbmStacks) s (fun t =>
      (∀ j, j < 272 → (j ∈ t.power.excluded ↔ j ∈ s.power.excluded ∨ 3 ≤ look t.power.sensorRuns j 0)) ∧
      (∀ j, j < 272 → look t.power.sensorRuns j 0 = (let n := look s.power.sensorRuns j 0
        if 3 ≤ n then n else if j ∈ junction then n + 1 else 0)) ∧
      (∀ j, j < 12 → look t.power.stackRuns j 0 = (let n := look s.power.stackRuns j 0
        if 3 ≤ n then n else if j ∈ hbmStacks then n + 1 else 0)) ∧
      (∀ j, j < 12 → (getStack t j).halfRate = ((getStack s j).halfRate || decide (3 ≤ look t.power.stackRuns j 0))) ∧
      t.cores = s.cores)) ∧
    (k < 272 → s.power.state = .on → look s.power.sensorRuns k 0 = 2 → k ∉ s.power.excluded →
      (∀ j, j ≠ k → look s.power.sensorRuns j 0 < 3) → Runs (.sensorCheck [k] []) s (fun t =>
        t.power.excluded = s.power.excluded ++ [k] ∧ (getPage t pgQpc).events = sat32 (getPage s pgQpc).events 1 ∧
        t.cores = s.cores)) ∧
    (s.power.state = .off → exec (.vinMonitorCheck a b) s = .next s) ∧
    (s.power.state ≠ .off →
      (50 * (max a b - min a b) ≤ min a b → exec (.vinMonitorCheck a b) s =
        .next (modPower s (fun x => withEff { x with monitorAt := none, vinUse := none }))) ∧
      (min a b < 50 * (max a b - min a b) → s.power.monitorAt = none →
        exec (.vinMonitorCheck a b) s = .next (modPower s (fun x => { x with monitorAt := some s.odometer }))) ∧
      (∀ t0, min a b < 50 * (max a b - min a b) → s.power.monitorAt = some t0 → passed s t0 msNs = false →
        exec (.vinMonitorCheck a b) s = .next (modPower s (fun x => withEff { x with vinUse := x.vinUse.map (fun _ => min a b) }))) ∧
      (∀ t0, min a b < 50 * (max a b - min a b) → s.power.monitorAt = some t0 → passed s t0 msNs = true →
        Runs (.vinMonitorCheck a b) s (fun t => t.power.vinUse = some (min a b) ∧ t.power.vIn = s.power.vIn ∧ t.power.monitorAt = some s.odometer ∧
          t.power.effCap = effCapOf t.power ∧
          (getPage t pgQpc).errCorrected = sat32 (getPage s pgQpc).errCorrected 1)))

/-- R455, R456: a transfer to the target's address within a register it may reach is acknowledged, a protocol error is counted
(I3C_ERRORS); a request of 64 bytes is taken while none is in service; one during service is refused and changes no response; the
response and the status word are read; an
opcode that the table does not name completes with BAD_FIELD, or RESERVED_SET. A request in service whose fields fail completes with
that code. NOP and CAP complete with 0 and the cookie; CAP answers the previous cap, and of two caps in one cycle the lower stands
(R397); an accepted POWER_OFF of SLEEP empties the chip and of DOZE begins it, one that has to wait stays in service; a wake fires
comparator 7 when it is enabled for it. R457: a READ of one to four words of a page answers them, with 0 beyond, and clears what a
read clears (R10); one of an address in no page answers 0, of a page without power or in reset FENCED, and one without an answer for
1 ms TIMED_OUT. R459: a WRITE acts at the offsets it accepts and is NOT_OWNER elsewhere. R454, R455: the status word tells BUSY and
RESP_VALID and clears the latter; SETDASA assigns the address; nothing answers without the always-on domain. -/
def Obligations.Management : Prop :=
  (∀ (data : I3cTransfer) (addr : BitVec 7) (s : State), mgmtUp s = false →
     exec (.mboxSubmit data) s = .next s ∧ exec .mgmtStatusRead s = .next s ∧ exec (.setdasa addr) s = .next s) ∧
  (∀ (c : Code) (s : State),
     let r := s.mgmt.req
     let off := numAt r 16 4
     let n := numAt r 20 1
     let v := numAt r 20 4
     ∀ q ∈ [(0x00, Instr.mboxNop, [mboxReserved s []]),
       (0x21, .mboxCap, [mboxReserved s [(16, 2)], (capBad (numAt r 16 2), Code.badField)]),
       (0x22, .mboxPowerOff, [mboxReserved s [(16, 1)], (!powTarget (numAt r 16 1), Code.badField)]),
       (0x30, .mboxRead, [mboxReserved s [(16, 5)], (off % 4 != 0, Code.align),
         (n == 0 || 4 < n || 4096 < off % 4096 + 4 * n || 2 ^ 26 ≤ off, Code.badField)]),
       (0x31, .mboxWake, [mboxReserved s [], (!((getCmp s 7).en && (getCmp s 7).arg.getLsbD 1), Code.wrongState)]),
       (0x32, .mboxWrite, [mboxReserved s [(16, 8)], (off % 4 != 0, Code.align)] ++
         ((mgmtWrite s off v).getD ([(true, .notOwner)], id)).1)],
       (mboxServes s q.1 = false → exec q.2.1 s = .next s) ∧
       (mboxServes s q.1 = true → q.1 ≠ 0x22 ∨ mboxWaits s = false → firstFail q.2.2 = some c →
         exec q.2.1 s = .next (mboxReply s c.num 0))) ∧
  (∀ (data : I3cTransfer) (s : State), mgmtUp s = true →
     (let i := data.index.toNat
      let reaches := data.target.toNat = mgmtAddr s ∧ i3cReaches data = true
      let whole := i = 0 ∧ data.data.length = 64
      let w := leBytes 4 (s.mgmt.rejCode * 2 ^ 8 + bit s.mgmt.respValid * 2 + bit s.mgmt.busy)
      (data.err = true → exec (.mboxSubmit data) s = .next (bump32 (answerI3c s false []) pgQmc 0x070 1)) ∧
      (data.err = false → ¬ reaches → exec (.mboxSubmit data) s = .next (answerI3c s false [])) ∧
      (data.err = false → reaches → data.read = 0 → whole →
        (s.mgmt.busy = true → Runs (.mboxSubmit data) s (fun t => t.mgmt.rejCode = Code.busy.num ∧ t.mgmt.req = s.mgmt.req ∧
          t.mgmt.resp = s.mgmt.resp ∧ t.mgmt.acked = true ∧ regOf t pgQmc 0x06C = sat32 (regOf s pgQmc 0x06C) 1)) ∧
        (let s1 := ({ s with mgmt := { (answerI3c s true []).mgmt with req := data.data, busy := true, busyAt := s.odometer } } : State)
         (s.mgmt.busy = false → mboxOps.contains (postOp data.data) = true → exec (.mboxSubmit data) s = .next s1) ∧
         (s.mgmt.busy = false → mboxOps.contains (postOp data.data) = false → Runs (.mboxSubmit data) s (fun t =>
           t.mgmt.busy = false ∧ t.mgmt.respValid = true ∧
           t = mboxReply s1 (if (mboxReserved s1 [(16, 48)]).1 = true then Code.reservedSet.num else Code.badField.num) 0)))) ∧
      (data.err = false → reaches → data.read = 0 → ¬ whole → exec (.mboxSubmit data) s = .next (answerI3c s true [])) ∧
      (data.err = false → reaches → data.read ≠ 0 → i < 0x60 →
        exec (.mboxSubmit data) s = .next (answerI3c s true (((respBytes s.mgmt).drop (i - 0x40)).take data.read))) ∧
      (data.err = false → reaches → data.read ≠ 0 → 0x60 ≤ i → Runs (.mboxSubmit data) s (fun t =>
        t.mgmt.out = (w.drop (i - 0x60)).take data.read ∧ t.mgmt.acked = true ∧ t.mgmt.resp = s.mgmt.resp ∧
        t.mgmt.respValid = (s.mgmt.respValid && i != 0x60)))) ∧
     (mboxServes s 0x00 = true → (mboxReserved s []).1 = false → Runs .mboxNop s (fun t =>
       t.mgmt.resp = mboxRecord s 0 (numAt s.mgmt.req 8 8) 0 ∧ t.mgmt.busy = false ∧ t.mgmt.respValid = true ∧ t.power = s.power)) ∧
     (mboxServes s 0x21 = true → (mboxReserved s [(16, 2)]).1 = false → 500 ≤ numAt s.mgmt.req 16 2 → numAt s.mgmt.req 16 2 ≤ 2000 →
       (let v := numAt s.mgmt.req 16 2
        exec .mboxCap s = .next (mboxReply (setCap s v) 0 (capBefore s v)) ∧
        (capTied s = false → Runs .mboxCap s (fun t => t.power.cap = v ∧
          t.mgmt.resp = mboxRecord s 0 (numAt s.mgmt.req 8 8) s.power.cap ∧ t.mgmt.busy = false)) ∧
        (capTied s = true → Runs .mboxCap s (fun t => t.power.cap = min s.power.cap v ∧ t.mgmt.busy = false)))) ∧
     (mboxServes s 0x22 = true → mboxWaits s = true → exec .mboxPowerOff s = .next s) ∧
     (mboxServes s 0x22 = true → mboxWaits s = false → (mboxReserved s [(16, 1)]).1 = false → powTarget (numAt s.mgmt.req 16 1) = true →
       (let v := numAt s.mgmt.req 16 1
        (∀ c, powOut s v = .ends c → exec .mboxPowerOff s = .next (mboxReply s c.num 0)) ∧
        (powOut s v = .wait → exec .mboxPowerOff s = .next s) ∧
        (powOut s v = .doze → exec .mboxPowerOff s = .next (modPower s (fun x => { x with entering := some .mailbox }))) ∧
        (powOut s v = .run → exec .mboxPowerOff s = .next (modPower s (fun x => { x with leaving := some .mailbox }))) ∧
        (powOut s v = .dormant → exec .mboxPowerOff s = .next (enterDormant (flushAll (mboxReply s 0 0) 0) 1)) ∧
        (v = 3 → s.hide.draining = false → WakesNone s → Runs .mboxPowerOff s (fun t =>
          t.power.state = .dormant ∧ t.power.lastStop = 1 ∧ t.cores = [] ∧ t.ctxs = [] ∧ t.mgmt.busy = false)) ∧
        (v = 2 → s.hide.draining = false → s.boot.ready = true → s.power.state = .on →
          s.power.entering = none → s.power.leaving = none →
          (∀ e, e ∈ s.ctxs → e.2.state ≠ .running ∧ e.2.state ≠ .saving) →
          exec .mboxPowerOff s = .next (modPower s (fun x => { x with entering := some .mailbox }))))) ∧
     (mboxServes s 0x31 = true → (mboxReserved s []).1 = false →
       ((getCmp s 7).en = true → (getCmp s 7).arg.getLsbD 1 = true → exec .mboxWake s = .next (fireCmp (mboxReply s 0 0) 7)) ∧
       ((getCmp s 7).en = false ∨ (getCmp s 7).arg.getLsbD 1 = false →
         exec .mboxWake s = .next (mboxReply s Code.wrongState.num 0)))) ∧
  (∀ (addr : BitVec 7) (s : State), mgmtUp s = true →
     (let off := numAt s.mgmt.req 16 4
      let n := numAt s.mgmt.req 20 1
      let v := numAt s.mgmt.req 20 4
      let pg := off / 4096
      let o := off % 4096
      (mboxServes s 0x30 = true → (mboxReserved s [(16, 5)]).1 = false → off % 4 = 0 → 1 ≤ n → n ≤ 4 → o + 4 * n ≤ 4096 →
        off < 2 ^ 26 →
        (blkOf pg = none → exec .mboxRead s = .next (mboxEnd s 0 0 0)) ∧
        (∀ b, blkOf pg = some b →
          ((List.range n).any (fun i => mgmtGated s b pg (o + 4 * i)) = false → Runs .mboxRead s (fun t =>
            (let w := mgmtWords s b pg o n
             t = mboxEnd (mgmtClears (mgmtLatch s b pg o n) pg o n) 0 (nth w 0 + 2 ^ 32 * nth w 1) (nth w 2 + 2 ^ 32 * nth w 3) ∧
             t.mgmt.resp = mboxRecord s 0 (nth w 0 + 2 ^ 32 * nth w 1) (nth w 2 + 2 ^ 32 * nth w 3)) ∧
            t.mgmt.busy = false ∧ t.mgmt.respValid = true ∧ t.power = s.power)) ∧
          ((List.range n).any (fun i => mgmtGated s b pg (o + 4 * i)) = true →
            exec .mboxRead s = .next (mboxReply s Code.fenced.num 0)))) ∧
      (mboxServes s 0x30 = true → passed s s.mgmt.busyAt msNs = true →
        exec .mboxReadTimeout s = .next (mboxReply s Code.timedOut.num 0)) ∧
      (mboxServes s 0x30 = false ∨ passed s s.mgmt.busyAt msNs = false → exec .mboxReadTimeout s = .next s) ∧
      (mboxServes s 0x32 = true → (mboxReserved s [(16, 8)]).1 = false → off % 4 = 0 →
        (∀ fails act, mgmtWrite s off v = some (fails, act) → firstFail fails = none →
          exec .mboxWrite s = .next (mboxReply (act s) 0 0)) ∧
        (mgmtWrite s off v = none → exec .mboxWrite s = .next (mboxReply s Code.notOwner.num 0)) ∧
        (off = 0x5080 → v ≤ 7 → Runs .mboxWrite s (fun t => t.power.cmpSelMgmt = v ∧ t.power.cmpSel = s.power.cmpSel ∧
          t.mgmt.busy = false)))) ∧
     exec .mgmtStatusRead s = .next { s with
       mgmt := { s.mgmt with respValid := false },
       rdata := BitVec.ofNat 32 (s.mgmt.rejCode * 2 ^ 8 + bit s.mgmt.respValid * 2 + bit s.mgmt.busy) } ∧
     exec (.setdasa addr) s = .next { s with mgmt := { s.mgmt with dynAddr := addr.toNat } })
end

