-- ==== Sys2Proof/Laws/Memory.lean ====
section
/-! SUPPORT. Every operation on a byte memory keeps its canonical form, and reading back what was written. -/

namespace Sys2Proof.Machine

/-! ### The canonical form -/

theorem memoryWf_mono {m : SMap Byte} {lo lo' : Nat} (h : memoryWf lo m = true) (le : lo' ≤ lo) : memoryWf lo' m = true := by
  cases m with
  | nil => rfl
  | cons e t =>
    simp only [memoryWf, Bool.and_eq_true, decide_eq_true_eq] at h ⊢
    exact ⟨⟨by omega, h.1.2⟩, h.2⟩

theorem memoryWf_filter {m : SMap Byte} (p : Nat × Byte → Bool) {lo : Nat} (h : memoryWf lo m = true) :
    memoryWf lo (m.filter p) = true := by
  induction m generalizing lo with
  | nil => rfl
  | cons e t ih =>
    simp only [memoryWf, Bool.and_eq_true, decide_eq_true_eq] at h
    rw [List.filter_cons]
    split
    · simp only [memoryWf, Bool.and_eq_true, decide_eq_true_eq]
      exact ⟨h.1, ih h.2⟩
    · exact memoryWf_mono (ih h.2) (by omega)

theorem memoryWf_drop1 {m : SMap Byte} {lo : Nat} (k : Nat) (h : memoryWf lo m = true) : memoryWf lo (drop1 m k) = true :=
  memoryWf_filter _ h

theorem memoryWf_store {m : SMap Byte} {lo k : Nat} {v : Byte} (h : memoryWf lo m = true) (hk : lo ≤ k) (hv : v ≠ 0) :
    memoryWf lo (store m k v) = true := by
  induction m generalizing lo with
  | nil => simp only [store, memoryWf, Bool.and_eq_true, decide_eq_true_eq]; exact ⟨⟨hk, hv⟩, trivial⟩
  | cons e t ih =>
    obtain ⟨a, x⟩ := e
    simp only [memoryWf, Bool.and_eq_true, decide_eq_true_eq] at h
    unfold store
    split
    · subst a
      simp only [memoryWf, Bool.and_eq_true, decide_eq_true_eq]
      exact ⟨⟨hk, hv⟩, h.2⟩
    · split
      · simp only [memoryWf, Bool.and_eq_true, decide_eq_true_eq]
        exact ⟨⟨hk, hv⟩, ⟨by omega, h.1.2⟩, h.2⟩
      · simp only [memoryWf, Bool.and_eq_true, decide_eq_true_eq]
        exact ⟨h.1, ih h.2 (by omega)⟩

theorem wf_storeByte {m : SMap Byte} (k : Nat) (v : Byte) (h : Memory.wf m = true) : Memory.wf (storeByte m k v) = true := by
  unfold storeByte
  split
  · exact memoryWf_drop1 k h
  · exact memoryWf_store h (Nat.zero_le k) ‹_›

theorem wf_storeBytes {m : SMap Byte} (a : Nat) (l : List Byte) (h : Memory.wf m = true) :
    Memory.wf (storeBytes m a l) = true := by
  induction l generalizing m a with
  | nil => exact h
  | cons b t ih => exact ih (a + 1) (wf_storeByte a b h)

theorem wf_clearBytes {m : SMap Byte} (a n : Nat) (h : Memory.wf m = true) : Memory.wf (clearBytes m a n) = true :=
  memoryWf_filter _ h

theorem memoryWf_map_sub {m : SMap Byte} {a lo : Nat} (h : memoryWf lo m = true) (le : a ≤ lo) :
    memoryWf (lo - a) (m.map (fun e => (e.1 - a, e.2))) = true := by
  induction m generalizing lo with
  | nil => rfl
  | cons e t ih =>
    simp only [memoryWf, Bool.and_eq_true, decide_eq_true_eq, List.map_cons] at h ⊢
    refine ⟨⟨by omega, h.1.2⟩, ?_⟩
    have := ih h.2 (by omega)
    exact memoryWf_mono this (by omega)

theorem memoryWf_filter_ge {m : SMap Byte} (p : Nat × Byte → Bool) (b : Nat) {lo : Nat} (hp : ∀ e, p e = true → b ≤ e.1)
    (h : memoryWf lo m = true) : memoryWf b (m.filter p) = true := by
  induction m generalizing lo with
  | nil => rfl
  | cons e t ih =>
    simp only [memoryWf, Bool.and_eq_true, decide_eq_true_eq] at h
    rw [List.filter_cons]
    split
    · simp only [memoryWf, Bool.and_eq_true, decide_eq_true_eq]
      exact ⟨⟨hp e ‹_›, h.1.2⟩, memoryWf_filter _ h.2⟩
    · exact ih h.2

theorem wf_sliceBytes {m : SMap Byte} (a n : Nat) (h : Memory.wf m = true) : Memory.wf (sliceBytes m a n) = true := by
  have := memoryWf_filter_ge (fun e => a ≤ e.1 && e.1 < a + n) a (fun e he => by simp at he; exact he.1) h
  simpa [sliceBytes, Memory.wf] using memoryWf_map_sub this (Nat.le_refl a)

theorem memoryWf_append {m n : SMap Byte} {lo hi : Nat} (h : memoryWf lo m = true) (hm : ∀ e ∈ m, e.1 < hi)
    (le : lo ≤ hi) (hn : memoryWf hi n = true) : memoryWf lo (m ++ n) = true := by
  induction m generalizing lo with
  | nil => exact memoryWf_mono hn le
  | cons e t ih =>
    simp only [memoryWf, Bool.and_eq_true, decide_eq_true_eq, List.cons_append] at h ⊢
    exact ⟨h.1, ih h.2 (fun x hx => hm x (List.mem_cons_of_mem _ hx)) (hm e (List.mem_cons_self ..))⟩

theorem memoryWf_map_add {m : SMap Byte} {a lo : Nat} (h : memoryWf lo m = true) :
    memoryWf (lo + a) (m.map (fun e => (e.1 + a, e.2))) = true := by
  induction m generalizing lo with
  | nil => rfl
  | cons e t ih =>
    simp only [memoryWf, Bool.and_eq_true, decide_eq_true_eq, List.map_cons] at h ⊢
    exact ⟨⟨by omega, h.1.2⟩, by have := ih h.2; rwa [Nat.add_right_comm] at this⟩

theorem wf_pasteBytes {m b : SMap Byte} (a n : Nat) (h : Memory.wf m = true) (hb : Memory.wf b = true) :
    Memory.wf (pasteBytes m a n b) = true := by
  unfold pasteBytes Memory.wf
  rw [List.append_assoc]
  refine memoryWf_append (hi := a) (memoryWf_filter _ h) (fun e he => by simpa using (List.mem_filter.1 he).2) (Nat.zero_le a) ?_
  refine memoryWf_append (hi := a + n) ?_ ?_ (by omega) (memoryWf_filter_ge _ (a + n) (fun e he => by simpa using he) h)
  · have := memoryWf_map_add (a := a) (memoryWf_filter (fun e => e.1 < n) hb)
    rwa [Nat.zero_add] at this
  · intro e he
    obtain ⟨x, hx, rfl⟩ := List.mem_map.1 he
    have : x.1 < n := by simpa using (List.mem_filter.1 hx).2
    simp only; omega

/-- The memory of the module after reset is in its canonical form. -/
theorem wf_reset : Memory.wf State.reset.hbm = true := rfl

/-! ### Reading back -/

theorem look_store_self {α : Type} (m : SMap α) (k : Nat) (v d : α) : look (store m k v) k d = v := by
  induction m with
  | nil => simp [store, look]
  | cons e t ih =>
    obtain ⟨a, x⟩ := e
    unfold store
    split
    · simp [look]
    · split
      · simp [look]
      · rename_i h _
        simp only [look, if_neg (Ne.symm h), ih]

theorem look_store_of_ne {α : Type} (m : SMap α) {k j : Nat} (v d : α) (h : j ≠ k) : look (store m k v) j d = look m j d := by
  induction m with
  | nil => simp [store, look, Ne.symm h]
  | cons e t ih =>
    obtain ⟨a, x⟩ := e
    unfold store
    split
    · subst a; simp only [look, if_neg (Ne.symm h)]
    · split
      · simp only [look, if_neg (Ne.symm h)]
      · simp only [look, ih]

theorem look_drop1_self {α : Type} (m : SMap α) (k : Nat) (d : α) : look (drop1 m k) k d = d := by
  induction m with
  | nil => rfl
  | cons e t ih =>
    unfold drop1 at ih ⊢
    rw [List.filter_cons]
    split
    · rename_i h; simp only [look, if_neg (by simpa using h), ih]
    · exact ih

theorem look_drop1_of_ne {α : Type} (m : SMap α) {k j : Nat} (d : α) (h : j ≠ k) : look (drop1 m k) j d = look m j d := by
  induction m with
  | nil => rfl
  | cons e t ih =>
    unfold drop1 at ih ⊢
    rw [List.filter_cons]
    split
    · simp only [look, ih]
    · rename_i he
      have : e.1 = k := by simpa using he
      simp only [look, if_neg (show e.1 ≠ j from fun x => h (x.symm.trans this)), ih]

/-- A byte written reads back. -/
theorem loadByte_storeByte_self (m : SMap Byte) (k : Nat) (v : Byte) : loadByte (storeByte m k v) k = v := by
  unfold loadByte storeByte
  split
  · rw [look_drop1_self]; exact (by assumption : v = 0).symm
  · exact look_store_self ..

/-- Every other byte reads as before. -/
theorem loadByte_storeByte_of_ne (m : SMap Byte) {k j : Nat} (v : Byte) (h : j ≠ k) :
    loadByte (storeByte m k v) j = loadByte m j := by
  unfold loadByte storeByte
  split
  · exact look_drop1_of_ne _ _ h
  · exact look_store_of_ne _ _ _ h

/-- Bytes outside the stored range read as before. -/
theorem loadByte_storeBytes_outside (l : List Byte) (m : SMap Byte) (a j : Nat) (h : j < a ∨ a + l.length ≤ j) :
    loadByte (storeBytes m a l) j = loadByte m j := by
  induction l generalizing m a with
  | nil => rfl
  | cons b t ih =>
    simp only [List.length_cons] at h
    exact (ih _ (a + 1) (by omega)).trans (loadByte_storeByte_of_ne _ _ (by omega))

/-- Each stored byte reads back. -/
theorem loadByte_storeBytes_inside (l : List Byte) (m : SMap Byte) (a i : Nat) (h : i < l.length) :
    loadByte (storeBytes m a l) (a + i) = l[i] := by
  induction l generalizing m a i with
  | nil => simp at h
  | cons b t ih =>
    cases i with
    | zero =>
      refine (loadByte_storeBytes_outside t _ (a + 1) (a + 0) (Or.inl (by omega))).trans ?_
      exact loadByte_storeByte_self ..
    | succ i =>
      have := ih (storeByte m a b) (a + 1) i (by simpa using h)
      rw [show a + (i + 1) = a + 1 + i by omega]
      simpa [storeBytes] using this

end Sys2Proof.Machine
end

