-- ==== Sys2Proof/Laws/Keeps.lean ====
section
/-!
SUPPORT. What almost every operation and command leaves alone, said once as a relation of the state before and the state after; one
lemma for each operation of the lowest layers.
-/

namespace Sys2Proof.Machine

/-- What almost every command leaves alone, said of two states: the command queue, the life cycle and identity of the record;
the partitions of the cores, which only a loss of power clears; the canonical form of the
HBM's bytes is kept; and with `wr` false every byte of the HBM stays. -/
structure Keeps (wr : Bool) (s t : State) : Prop where
  queue : t.pending = s.pending
  lcState : t.record.lcState = s.record.lcState
  lcCount : t.record.lcCount = s.record.lcCount
  identity : t.record.identity = s.record.identity
  lcPending : t.record.pending = s.record.pending
  lcNext : t.record.pendingState = s.record.pendingState
  corePart : t.corePart = s.corePart ∨ wr = true ∧ t.corePart = []
  hbm : Memory.wf s.hbm = true → Memory.wf t.hbm = true
  bytes : wr = false → t.hbm = s.hbm

theorem Keeps.refl {wr : Bool} (s : State) : Keeps wr s s := ⟨rfl, rfl, rfl, rfl, rfl, rfl, .inl rfl, id, fun _ => rfl⟩

theorem Keeps.trans {wr : Bool} {s t u : State} (a : Keeps wr s t) (b : Keeps wr t u) : Keeps wr s u :=
  ⟨b.1.trans a.1, b.2.trans a.2, b.3.trans a.3, b.4.trans a.4, b.5.trans a.5, b.6.trans a.6,
    b.7.elim (fun h => a.7.imp h.trans (fun g => ⟨g.1, h.trans g.2⟩)) .inr, b.8 ∘ a.8, fun h => (b.9 h).trans (a.9 h)⟩

/-- A frame that leaves every byte is a frame. -/
theorem Keeps.weaken {s t : State} (h : Keeps false s t) (wr : Bool) : Keeps wr s t :=
  ⟨h.1, h.2, h.3, h.4, h.5, h.6, .inl (h.7.resolve_right nofun), h.8, fun _ => h.9 rfl⟩

theorem keeps_pair {wr : Bool} {β : Type} {p : State × β} {s0 s : State} {x : β} (h : p = (s, x)) (hk : Keeps wr s0 p.1) :
    Keeps wr s0 s := by
  subst h; exact hk

/-- An update of any other field. -/
theorem keeps_mk {wr : Bool} (s t : State) {odometer} {fresh} {pages} {cores} {ctxs} {parts} {hostLog} {rdata} {bar4} {endpoint} {bar4Q}
    {late} {seals} {poison} {fm} {hbmStacks} {rlcs} {kerbs} {routes} {bridges} {ports} {time} {net} {fabric} {outs} {nextReq} {armSeq}
    {ixs} {cols} {heldQ} {replayLog} {sites} {signpost} {home} {hide} {hang} {power} {boot} {qsc} {traces} {mgmt} :
    Keeps wr s (State.mk t.pending odometer fresh pages cores ctxs t.corePart parts hostLog rdata bar4 endpoint bar4Q late t.hbm
    seals poison fm hbmStacks rlcs kerbs routes bridges ports time net fabric outs nextReq armSeq ixs cols heldQ replayLog sites signpost
    home hide hang power boot t.record qsc traces mgmt) ↔ Keeps wr s t :=
  ⟨fun h => ⟨h.1, h.2, h.3, h.4, h.5, h.6, h.7, h.8, h.9⟩, fun h => ⟨h.1, h.2, h.3, h.4, h.5, h.6, h.7, h.8, h.9⟩⟩

theorem keeps_foldl {wr : Bool} {α : Type} {f : State → α → State} {l : List α} {s s0 : State} (hk : Keeps wr s0 s)
    (h : ∀ s a, Keeps wr s0 s → Keeps wr s0 (f s a)) : Keeps wr s0 (l.foldl f s) := by
  induction l generalizing s with
  | nil => exact hk
  | cons a t ih => exact ih (h _ _ hk)

theorem keeps_foldl1 {wr : Bool} {α β : Type} {f : State × β → α → State × β} {l : List α} {t : State × β} {s0 : State} (hk : Keeps wr s0 t.1)
    (h : ∀ t a, Keeps wr s0 t.1 → Keeps wr s0 (f t a).1) : Keeps wr s0 (l.foldl f t).1 := by
  induction l generalizing t with
  | nil => exact hk
  | cons a l ih => exact ih (h _ _ hk)

/-! ### Ops -/

theorem setPage_keeps (s : State) (k : Nat) (x : Page) {wr : Bool} {s0 : State} (hk : Keeps wr s0 s) : Keeps wr s0 (setPage s k
    x) := by
  dsimp only [setPage]
  with_reducible repeat' first | assumption | split | simp only [↓keeps_mk]

theorem modPage_keeps (s : State) (k : Nat) (f : Page → Page) {wr : Bool} {s0 : State} (hk : Keeps wr s0 s) : Keeps wr s0
    (modPage s k f) := by
  dsimp only [modPage]
  with_reducible repeat' first | assumption | apply setPage_keeps | split

theorem setCore_keeps (s : State) (k : Nat) (x : Core) {wr : Bool} {s0 : State} (hk : Keeps wr s0 s) : Keeps wr s0 (setCore s k
    x) := by
  dsimp only [setCore]
  with_reducible repeat' first | assumption | split | simp only [↓keeps_mk]

theorem modCore_keeps (s : State) (k : Nat) (f : Core → Core) {wr : Bool} {s0 : State} (hk : Keeps wr s0 s) : Keeps wr s0
    (modCore s k f) := by
  dsimp only [modCore]
  with_reducible repeat' first | assumption | apply setCore_keeps | split

theorem setCtx_keeps (s : State) (k : Nat) (x : Ctx) {wr : Bool} {s0 : State} (hk : Keeps wr s0 s) : Keeps wr s0 (setCtx s k x)
    := by
  dsimp only [setCtx]
  with_reducible repeat' first | assumption | split | simp only [↓keeps_mk]

theorem modCtx_keeps (s : State) (k : Nat) (f : Ctx → Ctx) {wr : Bool} {s0 : State} (hk : Keeps wr s0 s) : Keeps wr s0 (modCtx
    s k f) := by
  dsimp only [modCtx]
  with_reducible repeat' first | assumption | apply setCtx_keeps | split

theorem setPart_keeps (s : State) (k : Nat) (x : Part) {wr : Bool} {s0 : State} (hk : Keeps wr s0 s) : Keeps wr s0 (setPart s k
    x) := by
  dsimp only [setPart]
  with_reducible repeat' first | assumption | split | simp only [↓keeps_mk]

theorem modPart_keeps (s : State) (k : Nat) (f : Part → Part) {wr : Bool} {s0 : State} (hk : Keeps wr s0 s) : Keeps wr s0
    (modPart s k f) := by
  dsimp only [modPart]
  with_reducible repeat' first | assumption | apply setPart_keeps | split

theorem setStack_keeps (s : State) (k : Nat) (x : Stack) {wr : Bool} {s0 : State} (hk : Keeps wr s0 s) : Keeps wr s0 (setStack
    s k x) := by
  dsimp only [setStack]
  with_reducible repeat' first | assumption | split | simp only [↓keeps_mk]

theorem modStack_keeps (s : State) (k : Nat) (f : Stack → Stack) {wr : Bool} {s0 : State} (hk : Keeps wr s0 s) : Keeps wr s0
    (modStack s k f) := by
  dsimp only [modStack]
  with_reducible repeat' first | assumption | apply setStack_keeps | split

theorem setRlc_keeps (s : State) (k : Nat) (x : Rlc) {wr : Bool} {s0 : State} (hk : Keeps wr s0 s) : Keeps wr s0 (setRlc s k x)
    := by
  dsimp only [setRlc]
  with_reducible repeat' first | assumption | split | simp only [↓keeps_mk]

theorem setKerb_keeps (s : State) (k : Nat) (x : Kerb) {wr : Bool} {s0 : State} (hk : Keeps wr s0 s) : Keeps wr s0 (setKerb s k
    x) := by
  dsimp only [setKerb]
  with_reducible repeat' first | assumption | split | simp only [↓keeps_mk]

theorem modKerb_keeps (s : State) (k : Nat) (f : Kerb → Kerb) {wr : Bool} {s0 : State} (hk : Keeps wr s0 s) : Keeps wr s0
    (modKerb s k f) := by
  dsimp only [modKerb]
  with_reducible repeat' first | assumption | apply setKerb_keeps | split

theorem setRoute_keeps (s : State) (k : Nat) (x : Route) {wr : Bool} {s0 : State} (hk : Keeps wr s0 s) : Keeps wr s0 (setRoute
    s k x) := by
  dsimp only [setRoute]
  with_reducible repeat' first | assumption | split | simp only [↓keeps_mk]

theorem setBridge_keeps (s : State) (k : Nat) (x : Bridge) {wr : Bool} {s0 : State} (hk : Keeps wr s0 s) : Keeps wr s0
    (setBridge s k x) := by
  dsimp only [setBridge]
  with_reducible repeat' first | assumption | split | simp only [↓keeps_mk]

theorem setPort_keeps (s : State) (k : Nat) (x : Port) {wr : Bool} {s0 : State} (hk : Keeps wr s0 s) : Keeps wr s0 (setPort s k
    x) := by
  dsimp only [setPort]
  with_reducible repeat' first | assumption | split | simp only [↓keeps_mk]

theorem modPort_keeps (s : State) (k : Nat) (f : Port → Port) {wr : Bool} {s0 : State} (hk : Keeps wr s0 s) : Keeps wr s0
    (modPort s k f) := by
  dsimp only [modPort]
  with_reducible repeat' first | assumption | apply setPort_keeps | split

theorem setTel_keeps (s : State) (d : Nat) (x : Tel) {wr : Bool} {s0 : State} (hk : Keeps wr s0 s) : Keeps wr s0 (setTel s d x)
    := by
  dsimp only [setTel]
  with_reducible repeat' first | assumption | split | simp only [↓keeps_mk]

theorem setIx_keeps (s : State) (d : Nat) (x : Ix) {wr : Bool} {s0 : State} (hk : Keeps wr s0 s) : Keeps wr s0 (setIx s d x) :=
    by
  dsimp only [setIx]
  with_reducible repeat' first | assumption | split | simp only [↓keeps_mk]

theorem setCol_keeps (s : State) (d : Nat) (x : Col) {wr : Bool} {s0 : State} (hk : Keeps wr s0 s) : Keeps wr s0 (setCol s d x)
    := by
  dsimp only [setCol]
  with_reducible repeat' first | assumption | split | simp only [↓keeps_mk]

theorem setSite_keeps (s : State) (n : Nat) (x : Site) {wr : Bool} {s0 : State} (hk : Keeps wr s0 s) : Keeps wr s0 (setSite s n
    x) := by
  dsimp only [setSite]
  with_reducible repeat' first | assumption | split | simp only [↓keeps_mk]

theorem modSite_keeps (s : State) (n : Nat) (f : Site → Site) {wr : Bool} {s0 : State} (hk : Keeps wr s0 s) : Keeps wr s0
    (modSite s n f) := by
  dsimp only [modSite]
  with_reducible repeat' first | assumption | apply setSite_keeps | split

theorem setTrace_keeps (s : State) (k : Nat) (x : Trace) {wr : Bool} {s0 : State} (hk : Keeps wr s0 s) : Keeps wr s0 (setTrace
    s k x) := by
  dsimp only [setTrace]
  with_reducible repeat' first | assumption | split | simp only [↓keeps_mk]

theorem setReg_keeps (s : State) (pg off v : Nat) {wr : Bool} {s0 : State} (hk : Keeps wr s0 s) : Keeps wr s0 (setReg s pg off
    v) := by
  dsimp only [setReg]
  with_reducible repeat' first | assumption | apply modPage_keeps | split | simp only [↓keeps_mk]

theorem bump32_keeps (s : State) (pg off n : Nat) {wr : Bool} {s0 : State} (hk : Keeps wr s0 s) : Keeps wr s0 (bump32 s pg off
    n) := by
  dsimp only [bump32]
  with_reducible repeat' first | assumption | apply setReg_keeps | split

theorem setReg64_keeps (s : State) (pg off v : Nat) {wr : Bool} {s0 : State} (hk : Keeps wr s0 s) : Keeps wr s0 (setReg64 s pg
    off v) := by
  dsimp only [setReg64]
  with_reducible repeat' first | assumption | apply setReg_keeps | split

theorem bump64_keeps (s : State) (pg off n : Nat) {wr : Bool} {s0 : State} (hk : Keeps wr s0 s) : Keeps wr s0 (bump64 s pg off
    n) := by
  dsimp only [bump64]
  with_reducible repeat' first | assumption | apply setReg64_keeps | split

theorem addCorrected_keeps (s : State) (pg n : Nat) {wr : Bool} {s0 : State} (hk : Keeps wr s0 s) : Keeps wr s0 (addCorrected s
    pg n) := by
  dsimp only [addCorrected]
  with_reducible repeat' first | assumption | apply modPage_keeps | split | simp only [↓keeps_mk]

theorem addUncorrected_keeps (s : State) (pg n : Nat) {wr : Bool} {s0 : State} (hk : Keeps wr s0 s) : Keeps wr s0
    (addUncorrected s pg n) := by
  dsimp only [addUncorrected]
  with_reducible repeat' first | assumption | apply modPage_keeps | split | simp only [↓keeps_mk]

theorem addEvent_keeps (s : State) (pg n : Nat) {wr : Bool} {s0 : State} (hk : Keeps wr s0 s) : Keeps wr s0 (addEvent s pg n)
    := by
  dsimp only [addEvent]
  with_reducible repeat' first | assumption | apply modPage_keeps | split | simp only [↓keeps_mk]

theorem addTie_keeps (s : State) (pg : Nat) {wr : Bool} {s0 : State} (hk : Keeps wr s0 s) : Keeps wr s0 (addTie s pg) := by
  dsimp only [addTie]
  with_reducible repeat' first | assumption | apply modPage_keeps | split | simp only [↓keeps_mk]

theorem setSiteReg_keeps (s : State) (core off v : Nat) {wr : Bool} {s0 : State} (hk : Keeps wr s0 s) : Keeps wr s0 (setSiteReg
    s core off v) := by
  dsimp only [setSiteReg]
  with_reducible repeat' first | assumption | apply modSite_keeps | split | simp only [↓keeps_mk]

theorem siteBump32_keeps (s : State) (core off n : Nat) {wr : Bool} {s0 : State} (hk : Keeps wr s0 s) : Keeps wr s0 (siteBump32
    s core off n) := by
  dsimp only [siteBump32]
  with_reducible repeat' first | assumption | apply setSiteReg_keeps | split

theorem siteBump64_keeps (s : State) (core off n : Nat) {wr : Bool} {s0 : State} (hk : Keeps wr s0 s) : Keeps wr s0 (siteBump64
    s core off n) := by
  dsimp only [siteBump64]
  with_reducible repeat' first | assumption | apply setSiteReg_keeps | split

theorem bumpEpoch_keeps (s : State) (k : Nat) {wr : Bool} {s0 : State} (hk : Keeps wr s0 s) : Keeps wr s0 (bumpEpoch s k) := by
  dsimp only [bumpEpoch]
  with_reducible repeat' first | assumption | split | simp only [↓keeps_mk]

theorem queueNotice_keeps (s : State) (p : Nat) (n : Notice) {wr : Bool} {s0 : State} (hk : Keeps wr s0 s) : Keeps wr s0
    (queueNotice s p n) := by
  dsimp only [queueNotice]
  with_reducible repeat' first | assumption | apply setPart_keeps | split | simp only [↓keeps_mk]

theorem chipNotice_keeps (s : State) (n : Notice) {wr : Bool} {s0 : State} (hk : Keeps wr s0 s) : Keeps wr s0 (chipNotice s n)
    := by
  dsimp only [chipNotice]
  with_reducible repeat' first
      | assumption | apply queueNotice_keeps | refine keeps_foldl ?_ (fun _ _ _ => ?_)
      | refine keeps_foldl1 ?_ (fun _ _ _ => ?_) | split

theorem blockNotice_keeps (s : State) (pg bits : Nat) {wr : Bool} {s0 : State} (hk : Keeps wr s0 s) : Keeps wr s0 (blockNotice
    s pg bits) := by
  dsimp only [blockNotice]
  with_reducible repeat' first | assumption | apply queueNotice_keeps | split

theorem raiseCause_keeps (s : State) (pg c : Nat) {wr : Bool} {s0 : State} (hk : Keeps wr s0 s) : Keeps wr s0 (raiseCause s pg
    c) := by
  dsimp only [raiseCause]
  with_reducible repeat' first
      | assumption | apply setPage_keeps | apply blockNotice_keeps | split | refine keeps_pair (by assumption) ?_
      | simp only [↓keeps_mk]

theorem updateAlert_keeps (s : State) {wr : Bool} {s0 : State} (hk : Keeps wr s0 s) : Keeps wr s0 (updateAlert s) := by
  dsimp only [updateAlert]
  with_reducible repeat' first | assumption | apply raiseCause_keeps | split | simp only [↓keeps_mk]

theorem alertCause_keeps (s : State) (i : Nat) {wr : Bool} {s0 : State} (hk : Keeps wr s0 s) : Keeps wr s0 (alertCause s i) :=
    by
  dsimp only [alertCause]
  with_reducible repeat' first
      | assumption | apply updateAlert_keeps | split | refine keeps_pair (by assumption) ?_ | simp only [↓keeps_mk]

theorem raise_keeps (s : State) (pg c : Nat) {wr : Bool} {s0 : State} (hk : Keeps wr s0 s) : Keeps wr s0 (raise s pg c) := by
  dsimp only [raise]
  with_reducible repeat' first | assumption | apply raiseCause_keeps | apply alertCause_keeps | split

theorem ctxNotice_keeps (s : State) (c typ code : Nat) (seq arg0 arg1 : Nat) {wr : Bool} {s0 : State} (hk : Keeps wr s0 s) :
    Keeps wr s0 (ctxNotice s c typ code seq arg0 arg1) := by
  dsimp only [ctxNotice]
  with_reducible repeat' first | assumption | apply queueNotice_keeps | split

theorem completePost_keeps (s : State) (c : Nat) (r : PostRef) (code arg1 : Nat) {wr : Bool} {s0 : State} (hk : Keeps wr s0 s)
    : Keeps wr s0 (completePost s c r code arg1) := by
  dsimp only [completePost]
  with_reducible repeat' first | assumption | apply ctxNotice_keeps | split

theorem completeRun_keeps (s : State) (c code arg1 : Nat) {wr : Bool} {s0 : State} (hk : Keeps wr s0 s) : Keeps wr s0
    (completeRun s c code arg1) := by
  dsimp only [completeRun]
  with_reducible repeat' first | assumption | apply completePost_keeps | apply modCtx_keeps | split | simp only [↓keeps_mk]

theorem completePreempt_keeps (s : State) (c code arg1 : Nat) {wr : Bool} {s0 : State} (hk : Keeps wr s0 s) : Keeps wr s0
    (completePreempt s c code arg1) := by
  dsimp only [completePreempt]
  with_reducible repeat' first | assumption | apply completePost_keeps | apply modCtx_keeps | split | simp only [↓keeps_mk]

theorem freshNat_keeps (s : State) {wr : Bool} {s0 : State} (hk : Keeps wr s0 s) : Keeps wr s0 (freshNat s).2 := by
  dsimp only [freshNat]
  with_reducible repeat' first | assumption | split | simp only [↓keeps_mk]

theorem idle_keeps (s : State) {wr : Bool} {s0 : State} (hk : Keeps wr s0 s) : Keeps wr s0 (idle s) := by
  dsimp only [idle]
  with_reducible repeat' first | assumption | split | simp only [↓keeps_mk]

/-! ### Access -/

theorem reject_keeps (s : State) (pg off : Nat) (c : Code) {wr : Bool} {s0 : State} (hk : Keeps wr s0 s) : Keeps wr s0 (reject
    s pg off c) := by
  dsimp only [reject]
  with_reducible repeat' first | assumption | apply modPage_keeps | split | simp only [↓keeps_mk]

theorem writeReg_keeps (s : State) (p pg off : Nat) (fails : List (Bool × Code)) (act : State → State) {wr : Bool} {s0 : State}
    (hk : Keeps wr s0 s) (ha : ∀ s', Keeps wr s0 s' → Keeps wr s0 (act s')) : Keeps wr s0 (writeReg s p pg off fails act) := by
  dsimp only [writeReg]
  with_reducible repeat' first | assumption | apply ha | apply reject_keeps | split | simp only [↓keeps_mk]

theorem recordStep_keeps (s : State) (step code die target : Nat) {wr : Bool} {s0 : State} (hk : Keeps wr s0 s) : Keeps wr s0
    (recordStep s step code die target) := by
  dsimp only [recordStep]
  with_reducible repeat' first | assumption | split | simp only [↓keeps_mk]

/-! ### Rings -/

theorem inject_keeps (s : State) (p : Packet) {wr : Bool} {s0 : State} (hk : Keeps wr s0 s) : Keeps wr s0 (inject s p) := by
  dsimp only [inject]
  with_reducible repeat' first | assumption | split | simp only [↓keeps_mk]

theorem arrived_keeps (s : State) (m : Msg) {wr : Bool} {s0 : State} (hk : Keeps wr s0 s) : Keeps wr s0 (arrived s m) := by
  dsimp only [arrived]
  with_reducible repeat' first | assumption | split | simp only [↓keeps_mk]

/-! ### Mem -/

theorem sealBlock_keeps (s : State) (q z : Nat) (new : Nat → Option Byte) {s0 : State} (hk : Keeps true s0 s) : Keeps true s0
    (sealBlock s q z new) := ⟨hk.1, hk.2, hk.3, hk.4, hk.5, hk.6, hk.7, fun h => wf_storeBytes _ _ (hk.8 h), nofun⟩

theorem sealBytes_keeps (s : State) (phys z : Nat) (l : List Byte) {s0 : State} (hk : Keeps true s0 s) : Keeps true s0
    (sealBytes s phys z l) := by
  dsimp only [sealBytes]
  with_reducible repeat' first
      | assumption | apply sealBlock_keeps | refine keeps_foldl ?_ (fun _ _ _ => ?_) | refine keeps_foldl1 ?_ (fun _ _ _ => ?_)
      | split

theorem writeGranules_keeps (s : State) (clears : Bool) (chan phys z : Nat) (l : List Byte) {s0 : State} (hk : Keeps true s0 s)
    : Keeps true s0 (writeGranules s clears chan phys z l).1 := by
  dsimp only [writeGranules]
  with_reducible repeat' first
      | assumption | apply sealBytes_keeps | refine keeps_foldl ?_ (fun _ _ _ => ?_) | refine keeps_foldl1 ?_ (fun _ _ _ => ?_)
      | split | simp only [↓keeps_mk]

theorem writePhys_keeps (s : State) (chan phys z : Nat) (l : List Byte) {s0 : State} (hk : Keeps true s0 s) : Keeps true s0
    (writePhys s chan phys z l).1 := by
  dsimp only [writePhys]
  with_reducible repeat' first | assumption | apply writeGranules_keeps | split

theorem writeBlock_keeps (s : State) (part addr : Nat) (l : List Byte) {s0 : State} (hk : Keeps true s0 s) : Keeps true s0
    (writeBlock s part addr l).1 := by
  dsimp only [writeBlock]
  with_reducible repeat' first
      | assumption | apply writePhys_keeps | split | refine keeps_pair (by assumption) ?_ | simp only [↓keeps_mk]

theorem writeCached_keeps (s : State) (part addr : Nat) (l : List Byte) {s0 : State} (hk : Keeps true s0 s) : Keeps true s0
    (writeCached s part addr l).1 := by
  dsimp only [writeCached]
  with_reducible repeat' first | assumption | apply writeBlock_keeps | split | simp only [↓keeps_mk]

theorem writeRange_keeps (s : State) (part addr : Nat) (l : List Byte) {s0 : State} (hk : Keeps true s0 s) : Keeps true s0
    (writeRange s part addr l).1 := by
  dsimp only [writeRange]
  with_reducible repeat' first
      | assumption | apply writeCached_keeps | refine keeps_foldl ?_ (fun _ _ _ => ?_)
      | refine keeps_foldl1 ?_ (fun _ _ _ => ?_) | split | refine keeps_pair (by assumption) ?_ | simp only [↓keeps_mk]

theorem writeWay_keeps (s : State) (die part addr : Nat) (l : List Byte) {s0 : State} (hk : Keeps true s0 s) : Keeps true s0
    (writeWay s die part addr l).1 := by
  dsimp only [writeWay]
  with_reducible repeat' first | assumption | apply writeCached_keeps | split

theorem writeSparse_keeps (s : State) (die part addr n : Nat) (m : SMap Byte) {s0 : State} (hk : Keeps true s0 s) : Keeps true
    s0 (writeSparse s die part addr n m).1 := by
  dsimp only [writeSparse]
  with_reducible repeat' first
      | assumption | apply writeWay_keeps | refine keeps_foldl ?_ (fun _ _ _ => ?_) | refine keeps_foldl1 ?_ (fun _ _ _ => ?_)
      | split | refine keeps_pair (by assumption) ?_ | simp only [↓keeps_mk]

theorem writeRangeAt_keeps (s : State) (die part addr : Nat) (l : List Byte) {s0 : State} (hk : Keeps true s0 s) : Keeps true
    s0 (writeRangeAt s die part addr l).1 := by
  dsimp only [writeRangeAt]
  with_reducible repeat' first
      | assumption | apply writeWay_keeps | refine keeps_foldl ?_ (fun _ _ _ => ?_) | refine keeps_foldl1 ?_ (fun _ _ _ => ?_)
      | split | refine keeps_pair (by assumption) ?_ | simp only [↓keeps_mk]

theorem dropLines_keeps (s : State) (die : Nat) (p : Nat → Bool) {wr : Bool} {s0 : State} (hk : Keeps wr s0 s) : Keeps wr s0
    (dropLines s die p) := by
  dsimp only [dropLines]
  with_reducible repeat' first | assumption | apply setRlc_keeps | split | simp only [↓keeps_mk]

theorem dropOwn_keeps (s : State) (die part addr n : Nat) {wr : Bool} {s0 : State} (hk : Keeps wr s0 s) : Keeps wr s0 (dropOwn
    s die part addr n) := by
  dsimp only [dropOwn]
  with_reducible repeat' first | assumption | apply dropLines_keeps | split

theorem landWrite_keeps (s : State) (w : LateWrite) {s0 : State} (hk : Keeps true s0 s) : Keeps true s0 (landWrite s w) := by
  dsimp only [landWrite]
  with_reducible repeat' first | assumption | apply writeRangeAt_keeps | apply dropOwn_keeps | split

theorem writeLater_keeps (s : State) (die part addr : Nat) (l : List Byte) {s0 : State} (hk : Keeps true s0 s) : Keeps true s0
    (writeLater s die part addr l) := by
  dsimp only [writeLater]
  with_reducible repeat' first | assumption | apply landWrite_keeps | split | simp only [↓keeps_mk]

theorem landLate_keeps (s : State) {s0 : State} (hk : Keeps true s0 s) : Keeps true s0 (landLate s) := by
  dsimp only [landLate]
  with_reducible repeat' first
      | assumption | apply landWrite_keeps | refine keeps_foldl ?_ (fun _ _ _ => ?_) | refine keeps_foldl1 ?_ (fun _ _ _ => ?_)
      | split | simp only [↓keeps_mk]

theorem dropLinesAll_keeps (s : State) (p : Nat → Bool) {wr : Bool} {s0 : State} (hk : Keeps wr s0 s) : Keeps wr s0
    (dropLinesAll s p) := by
  dsimp only [dropLinesAll]
  with_reducible repeat' first
      | assumption | apply dropLines_keeps | refine keeps_foldl ?_ (fun _ _ _ => ?_) | refine keeps_foldl1 ?_ (fun _ _ _ => ?_)
      | split

theorem readVia_keeps (s : State) (die part addr n : Nat) {wr : Bool} {s0 : State} (hk : Keeps wr s0 s) : Keeps wr s0 (readVia
    s die part addr n).1 := by
  dsimp only [readVia]
  with_reducible repeat' first
      | assumption | apply setRlc_keeps | apply bump64_keeps | refine keeps_foldl ?_ (fun _ _ _ => ?_)
      | refine keeps_foldl1 ?_ (fun _ _ _ => ?_) | split | simp only [↓keeps_mk]

theorem writeVia_keeps (s : State) (die part addr : Nat) (l : List Byte) {s0 : State} (hk : Keeps true s0 s) : Keeps true s0
    (writeVia s die part addr l).1 := by
  dsimp only [writeVia]
  with_reducible repeat' first
      | assumption | apply writeBlock_keeps | apply dropLines_keeps | split | refine keeps_pair (by assumption) ?_
      | simp only [↓keeps_mk]

/-! ### Net -/

theorem setWins_keeps (s : State) (src : Source) (w : SMap CwWin) {wr : Bool} {s0 : State} (hk : Keeps wr s0 s) : Keeps wr s0
    (setWins s src w) := by
  dsimp only [setWins]
  with_reducible repeat' first
      | assumption | apply modCore_keeps | apply modKerb_keeps | apply setIx_keeps | apply setCol_keeps | split
      | simp only [↓keeps_mk]

theorem cwDecrease_keeps (s : State) (src : Source) (cw : Nat) {wr : Bool} {s0 : State} (hk : Keeps wr s0 s) : Keeps wr s0
    (cwDecrease s src cw) := by
  dsimp only [cwDecrease]
  with_reducible repeat' first | assumption | apply setWins_keeps | split

theorem cwIncrease_keeps (s : State) (src : Source) (cw : Nat) {wr : Bool} {s0 : State} (hk : Keeps wr s0 s) : Keeps wr s0
    (cwIncrease s src cw) := by
  dsimp only [cwIncrease]
  with_reducible repeat' first | assumption | apply setWins_keeps | split | simp only [↓keeps_mk]

theorem execCwWindowIncrease_keeps (src : Source) (cw : Fin 3) (s : State) {wr : Bool} {s0 : State} (hk : Keeps wr s0 s) {t :
    State} (h : execCwWindowIncrease src cw s = .next t) : Keeps wr s0 t := by
  dsimp only [execCwWindowIncrease] at h; cases h
  with_reducible repeat' first | assumption | apply cwIncrease_keeps | split

theorem sbTake_keeps (s : State) (chan : Nat) {wr : Bool} {s0 : State} (hk : Keeps wr s0 s) : Keeps wr s0 (sbTake s chan).1 :=
    by
  dsimp only [sbTake]
  with_reducible repeat' first | assumption | apply setKerb_keeps | split | simp only [↓keeps_mk]

theorem sbFree_keeps (s : State) (chan : Nat) {wr : Bool} {s0 : State} (hk : Keeps wr s0 s) : Keeps wr s0 (sbFree s chan) := by
  dsimp only [sbFree]
  with_reducible repeat' first | assumption | apply modKerb_keeps | split | simp only [↓keeps_mk]

theorem sendReq_keeps (s : State) (core slot : Nat) (r : DmReq) {wr : Bool} {s0 : State} (hk : Keeps wr s0 s) : Keeps wr s0
    (sendReq s core slot r) := by
  dsimp only [sendReq]
  with_reducible repeat' first | assumption | apply inject_keeps | split

theorem queueResv_keeps (s : State) (core chan : Nat) {wr : Bool} {s0 : State} (hk : Keeps wr s0 s) : Keeps wr s0 (queueResv s
    core chan) := by
  dsimp only [queueResv]
  with_reducible repeat' first | assumption | apply setKerb_keeps | split | simp only [↓keeps_mk]

theorem execReservationGrant_keeps (chan : ChanId) (s : State) {wr : Bool} {s0 : State} (hk : Keeps wr s0 s) {t : State} (h :
    execReservationGrant chan s = .next t) : Keeps wr s0 t := by
  dsimp only [execReservationGrant] at h; cases h
  with_reducible repeat' first
      | assumption | apply modCore_keeps | apply setKerb_keeps | apply sendReq_keeps | apply queueResv_keeps | split
      | simp only [↓keeps_mk]

theorem postMsg_keeps (s : State) (die : Nat) (m : Msg) {wr : Bool} {s0 : State} (hk : Keeps wr s0 s) : Keeps wr s0 (postMsg s
    die m) := by
  dsimp only [postMsg]
  with_reducible repeat' first | assumption | apply inject_keeps | split

theorem postFrom_keeps (s : State) (port : Nat) (m : Msg) {wr : Bool} {s0 : State} (hk : Keeps wr s0 s) : Keeps wr s0 (postFrom
    s port m) := by
  dsimp only [postFrom]
  with_reducible repeat' first | assumption | apply inject_keeps | split

theorem absorbMsgs_keeps (s : State) (hit : Msg → Bool) {wr : Bool} {s0 : State} (hk : Keeps wr s0 s) : Keeps wr s0 (absorbMsgs
    s hit) := by
  dsimp only [absorbMsgs]
  with_reducible repeat' first | assumption | split | simp only [↓keeps_mk]

theorem dropMsg_keeps (s : State) (i : Nat) {wr : Bool} {s0 : State} (hk : Keeps wr s0 s) : Keeps wr s0 (dropMsg s i) := by
  dsimp only [dropMsg]
  with_reducible repeat' first | assumption | split | simp only [↓keeps_mk]

theorem sendEgress_keeps (s : State) (die port : Nat) (m : Msg) {wr : Bool} {s0 : State} (hk : Keeps wr s0 s) : Keeps wr s0
    (sendEgress s die port m) := by
  dsimp only [sendEgress]
  with_reducible repeat' first | assumption | apply inject_keeps | split

theorem pushEgress_keeps (s : State) (port : Nat) (transit wide : Bool) (m : Msg) {wr : Bool} {s0 : State} (hk : Keeps wr s0 s)
    : Keeps wr s0 (pushEgress s port transit wide m) := by
  dsimp only [pushEgress]
  with_reducible repeat' first | assumption | apply modPort_keeps | apply bump32_keeps | split | simp only [↓keeps_mk]

theorem setArb_keeps (s : State) (o : Bool × Place) (a : Arb) {wr : Bool} {s0 : State} (hk : Keeps wr s0 s) : Keeps wr s0
    (setArb s o a) := by
  dsimp only [setArb]
  with_reducible repeat' first | assumption | split | simp only [↓keeps_mk]

theorem countTel_keeps (s : State) (q : Place) (n : Nat) {wr : Bool} {s0 : State} (hk : Keeps wr s0 s) : Keeps wr s0 (countTel
    s q n) := by
  dsimp only [countTel]
  with_reducible repeat' first | assumption | apply setTel_keeps | split | simp only [↓keeps_mk]

theorem countEnter_keeps (s : State) (d port n : Nat) {wr : Bool} {s0 : State} (hk : Keeps wr s0 s) : Keeps wr s0 (countEnter s
    d port n) := by
  dsimp only [countEnter]
  with_reducible repeat' first | assumption | apply setTel_keeps | split | simp only [↓keeps_mk]

theorem countPast_keeps (s : State) (q : Place) (n : Nat) {wr : Bool} {s0 : State} (hk : Keeps wr s0 s) : Keeps wr s0
    (countPast s q n) := by
  dsimp only [countPast]
  with_reducible repeat' first
      | assumption | apply countTel_keeps | apply bump64_keeps | apply countEnter_keeps | apply setBridge_keeps | split
      | simp only [↓keeps_mk]

theorem countIn_keeps (s : State) (src : Stop) (cw n : Nat) {wr : Bool} {s0 : State} (hk : Keeps wr s0 s) : Keeps wr s0
    (countIn s src cw n) := by
  dsimp only [countIn]
  with_reducible repeat' first | assumption | apply countEnter_keeps | split | simp only [↓keeps_mk]

theorem lateAnswer_keeps (s : State) (core eng : Nat) {wr : Bool} {s0 : State} (hk : Keeps wr s0 s) : Keeps wr s0 (lateAnswer s
    core eng) := by
  dsimp only [lateAnswer]
  with_reducible repeat' first | assumption | apply addEvent_keeps | split

theorem dmLanded_keeps (s : State) (p : Packet) (core slot seq : Nat) (resp : Bool) {wr : Bool} {s0 : State} (hk : Keeps wr s0
    s) : Keeps wr s0 (dmLanded s p core slot seq resp) := by
  dsimp only [dmLanded]
  with_reducible repeat' first
      | assumption | apply lateAnswer_keeps | apply modCore_keeps | apply inject_keeps | split | simp only [↓keeps_mk]

theorem landed_keeps (s : State) (p : Packet) {wr : Bool} {s0 : State} (hk : Keeps wr s0 s) : Keeps wr s0 (landed s p) := by
  dsimp only [landed]
  with_reducible repeat' first
      | assumption | apply arrived_keeps | apply pushEgress_keeps | apply postFrom_keeps | apply dmLanded_keeps | split
      | simp only [↓keeps_mk]

theorem refuse_keeps (s : State) (p : Packet) {wr : Bool} {s0 : State} (hk : Keeps wr s0 s) : Keeps wr s0 (refuse s p) := by
  dsimp only [refuse]
  with_reducible repeat' first | assumption | apply arrived_keeps | apply modCore_keeps | split | simp only [↓keeps_mk]

theorem rotate_keeps (s : State) (p : Packet) (q : Place) {wr : Bool} {s0 : State} (hk : Keeps wr s0 s) : Keeps wr s0 (rotate s
    p q) := by
  dsimp only [rotate]
  with_reducible repeat' first | assumption | split | simp only [↓keeps_mk]

theorem takeHop_keeps (s : State) (p : Packet) (h : Hop) {wr : Bool} {s0 : State} (hk : Keeps wr s0 s) : Keeps wr s0 (takeHop s
    p h) := by
  dsimp only [takeHop]
  with_reducible repeat' first
      | assumption | apply countPast_keeps | apply countIn_keeps | apply landed_keeps | apply refuse_keeps | apply rotate_keeps
      | apply inject_keeps | split | simp only [↓keeps_mk]

theorem serveOutput_keeps (s : State) (l : List (Nat × Packet × Hop)) (o : Bool × Place) {wr : Bool} {s0 : State} (hk : Keeps
    wr s0 s) : Keeps wr s0 (serveOutput s l o) := by
  dsimp only [serveOutput]
  with_reducible repeat' first
      | assumption | apply setArb_keeps | apply takeHop_keeps | split | refine keeps_pair (by assumption) ?_
      | simp only [↓keeps_mk]

theorem markWaiting_keeps (s : State) (d : Nat) {wr : Bool} {s0 : State} (hk : Keeps wr s0 s) : Keeps wr s0 (markWaiting s d)
    := by
  dsimp only [markWaiting]
  with_reducible repeat' first
      | assumption | apply setTel_keeps | apply bump64_keeps | apply addEvent_keeps | refine keeps_foldl ?_ (fun _ _ _ => ?_)
      | refine keeps_foldl1 ?_ (fun _ _ _ => ?_) | split | simp only [↓keeps_mk]

theorem fabricCycle_keeps (s : State) {wr : Bool} {s0 : State} (hk : Keeps wr s0 s) : Keeps wr s0 (fabricCycle s) := by
  dsimp only [fabricCycle]
  with_reducible repeat' first
      | assumption | apply serveOutput_keeps | apply markWaiting_keeps | refine keeps_foldl ?_ (fun _ _ _ => ?_)
      | refine keeps_foldl1 ?_ (fun _ _ _ => ?_) | split | simp only [↓keeps_mk]

theorem fabricRun_keeps (s : State) {wr : Bool} {s0 : State} (hk : Keeps wr s0 s) : Keeps wr s0 (fabricRun s) := by
  dsimp only [fabricRun]
  with_reducible repeat' first | assumption | apply fabricCycle_keeps | split | simp only [↓keeps_mk]

theorem sendRequest_keeps (s : State) (die : Nat) (m : Msg) {wr : Bool} {s0 : State} (hk : Keeps wr s0 s) {t : State} {q : Nat}
    (h : sendRequest s die m = .sent t q) : Keeps wr s0 t := by
  unfold sendRequest at h
  split at h
  · cases h
  · split at h
    · cases h
    · cases h; apply sendEgress_keeps; simp only [↓keeps_mk]; exact hk

theorem sendAnswer_keeps (s : State) (die : Nat) (m : Msg) {wr : Bool} {s0 : State} (hk : Keeps wr s0 s) : Keeps wr s0
    (sendAnswer s die m) := by
  dsimp only [sendAnswer]
  with_reducible repeat' first | assumption | apply postMsg_keeps | apply sendEgress_keeps | split | simp only [↓keeps_mk]

theorem unawaited_keeps (s : State) (m : Msg) {wr : Bool} {s0 : State} (hk : Keeps wr s0 s) : Keeps wr s0 (unawaited s m) := by
  dsimp only [unawaited]
  with_reducible repeat' first | assumption | apply addEvent_keeps | split

theorem settleOut_keeps (s : State) (req : Nat) {wr : Bool} {s0 : State} (hk : Keeps wr s0 s) : Keeps wr s0 (settleOut s req).1
    := by
  dsimp only [settleOut]
  with_reducible repeat' first | assumption | apply addTie_keeps | split | simp only [↓keeps_mk]

/-! ### Abort -/

theorem requestOut_keeps (s : State) (die : Nat) (m : Msg) (ack : Body) {wr : Bool} {s0 : State} (hk : Keeps wr s0 s) {t :
    State} {q : Nat} (h : requestOut s die m ack = some (t, q)) : Keeps wr s0 t := by
  dsimp only [requestOut] at h
  split at h
  · cases h; apply postMsg_keeps; simp only [↓keeps_mk]; exact hk
  · split at h
    · cases h
    · cases h; exact sendRequest_keeps _ _ _ hk (by assumption)
    · cases h; apply arrived_keeps; simp only [↓keeps_mk]; exact hk

theorem setIxSlot_keeps (s : State) (d k : Nat) (x : IxSlot) {wr : Bool} {s0 : State} (hk : Keeps wr s0 s) : Keeps wr s0
    (setIxSlot s d k x) := by
  dsimp only [setIxSlot]
  with_reducible repeat' first | assumption | apply setIx_keeps | split | simp only [↓keeps_mk]

theorem modIxSlot_keeps (s : State) (d k : Nat) (f : IxSlot → IxSlot) {wr : Bool} {s0 : State} (hk : Keeps wr s0 s) : Keeps wr
    s0 (modIxSlot s d k f) := by
  dsimp only [modIxSlot]
  with_reducible repeat' first | assumption | apply setIxSlot_keeps | split

theorem ixQueue_keeps (s : State) (d : Nat) (r : IxReq) (m : Msg) {wr : Bool} {s0 : State} (hk : Keeps wr s0 s) : Keeps wr s0
    (ixQueue s d r m) := by
  dsimp only [ixQueue]
  with_reducible repeat' first | assumption | apply setIx_keeps | split | simp only [↓keeps_mk]

theorem setFlow_keeps (s : State) (d i : Nat) (f : Flow) {wr : Bool} {s0 : State} (hk : Keeps wr s0 s) : Keeps wr s0 (setFlow s
    d i f) := by
  dsimp only [setFlow]
  with_reducible repeat' first | assumption | apply setIx_keeps | split | simp only [↓keeps_mk]

theorem modFlow_keeps (s : State) (d i : Nat) (f : Flow → Flow) {wr : Bool} {s0 : State} (hk : Keeps wr s0 s) : Keeps wr s0
    (modFlow s d i f) := by
  dsimp only [modFlow]
  with_reducible repeat' first | assumption | apply setFlow_keeps | split

theorem ixSent_keeps (s : State) (d : Nat) (r : IxReq) (m : Msg) {wr : Bool} {s0 : State} (hk : Keeps wr s0 s) : Keeps wr s0
    (ixSent s d r m) := by
  dsimp only [ixSent]
  with_reducible repeat' first
      | assumption | apply modFlow_keeps | apply bump64_keeps | refine keeps_foldl ?_ (fun _ _ _ => ?_)
      | refine keeps_foldl1 ?_ (fun _ _ _ => ?_) | split | simp only [↓keeps_mk]

theorem ixPumpN_keeps (s : State) (d n : Nat) {wr : Bool} {s0 : State} (hk : Keeps wr s0 s) : Keeps wr s0 (ixPumpN s d n) := by
  induction n generalizing s with
  | zero => exact hk
  | succ n ih =>
    simp only [ixPumpN]
    with_reducible repeat' first
      | assumption | apply ih | refine requestOut_keeps _ _ _ _ ?_ (by assumption) | apply ixSent_keeps | apply setIx_keeps | split

theorem ixPump_keeps (s : State) (d : Nat) {wr : Bool} {s0 : State} (hk : Keeps wr s0 s) : Keeps wr s0 (ixPump s d) := by
  dsimp only [ixPump]
  with_reducible repeat' first | assumption | apply ixPumpN_keeps | split

theorem setFlows_keeps (s : State) (d base n : Nat) (f : Nat → Flow) {wr : Bool} {s0 : State} (hk : Keeps wr s0 s) : Keeps wr
    s0 (setFlows s d base n f) := by
  dsimp only [setFlows]
  with_reducible repeat' first
      | assumption | apply setIx_keeps | refine keeps_foldl ?_ (fun _ _ _ => ?_) | refine keeps_foldl1 ?_ (fun _ _ _ => ?_)
      | split | simp only [↓keeps_mk]

theorem ixQuiet_keeps (s : State) (d k : Nat) {wr : Bool} {s0 : State} (hk : Keeps wr s0 s) : Keeps wr s0 (ixQuiet s d k) := by
  dsimp only [ixQuiet]
  with_reducible repeat' first | assumption | apply setIxSlot_keeps | split | simp only [↓keeps_mk]

theorem ixAbortQuiet_keeps (s : State) (d k code : Nat) (tell : Bool) {s0 : State} (hk : Keeps true s0 s) : Keeps true s0
    (ixAbortQuiet s d k code tell) := by
  dsimp only [ixAbortQuiet]
  with_reducible repeat' first
      | assumption | apply setIx_keeps | apply ixQueue_keeps | apply writeLater_keeps | apply setFlows_keeps
      | apply setIxSlot_keeps | apply ixPump_keeps | apply bump32_keeps | apply raise_keeps
      | refine keeps_foldl ?_ (fun _ _ _ => ?_) | refine keeps_foldl1 ?_ (fun _ _ _ => ?_) | split | simp only [↓keeps_mk]

theorem ixFree_keeps (s : State) (d k : Nat) {wr : Bool} {s0 : State} (hk : Keeps wr s0 s) : Keeps wr s0 (ixFree s d k) := by
  dsimp only [ixFree]
  with_reducible repeat' first | assumption | apply setFlows_keeps | apply setIx_keeps | split | simp only [↓keeps_mk]

theorem setColSlot_keeps (s : State) (d k : Nat) (x : ColSlot) {wr : Bool} {s0 : State} (hk : Keeps wr s0 s) : Keeps wr s0
    (setColSlot s d k x) := by
  dsimp only [setColSlot]
  with_reducible repeat' first | assumption | apply setCol_keeps | split | simp only [↓keeps_mk]

theorem modColSlot_keeps (s : State) (d k : Nat) (f : ColSlot → ColSlot) {wr : Bool} {s0 : State} (hk : Keeps wr s0 s) : Keeps
    wr s0 (modColSlot s d k f) := by
  dsimp only [modColSlot]
  with_reducible repeat' first | assumption | apply setColSlot_keeps | split

theorem colQueue_keeps (s : State) (d k prio : Nat) (m : Msg) {wr : Bool} {s0 : State} (hk : Keeps wr s0 s) : Keeps wr s0
    (colQueue s d k prio m) := by
  dsimp only [colQueue]
  with_reducible repeat' first | assumption | apply setCol_keeps | split | simp only [↓keeps_mk]

theorem colPumpN_keeps (s : State) (d n : Nat) {wr : Bool} {s0 : State} (hk : Keeps wr s0 s) : Keeps wr s0 (colPumpN s d n) :=
    by
  induction n generalizing s with
  | zero => exact hk
  | succ n ih =>
    simp only [colPumpN]
    with_reducible repeat' first
      | assumption | apply ih | refine requestOut_keeps _ _ _ _ ?_ (by assumption) | apply setCol_keeps
      | apply modColSlot_keeps | apply bump32_keeps | apply bump64_keeps | split

theorem colPump_keeps (s : State) (d : Nat) {wr : Bool} {s0 : State} (hk : Keeps wr s0 s) : Keeps wr s0 (colPump s d) := by
  dsimp only [colPump]
  with_reducible repeat' first | assumption | apply colPumpN_keeps | split

theorem colAnswer_keeps (s : State) (d : Nat) (m : Msg) (typ code : Nat) {wr : Bool} {s0 : State} (hk : Keeps wr s0 s) : Keeps
    wr s0 (colAnswer s d m typ code) := by
  dsimp only [colAnswer]
  with_reducible repeat' first | assumption | apply sendAnswer_keeps | split

theorem colQuiet_keeps (s : State) (d k : Nat) {wr : Bool} {s0 : State} (hk : Keeps wr s0 s) : Keeps wr s0 (colQuiet s d k) :=
    by
  dsimp only [colQuiet]
  with_reducible repeat' first | assumption | apply setColSlot_keeps | split | simp only [↓keeps_mk]

theorem colAbortQuiet_keeps (s : State) (d k code : Nat) (tell : Bool) {s0 : State} (hk : Keeps true s0 s) : Keeps true s0
    (colAbortQuiet s d k code tell) := by
  dsimp only [colAbortQuiet]
  with_reducible repeat' first
      | assumption | apply colAnswer_keeps | apply setCol_keeps | apply colQueue_keeps | apply writeLater_keeps
      | apply setColSlot_keeps | apply arrived_keeps | apply colPump_keeps | apply bump32_keeps | apply raise_keeps
      | refine keeps_foldl ?_ (fun _ _ _ => ?_) | refine keeps_foldl1 ?_ (fun _ _ _ => ?_) | split | simp only [↓keeps_mk]

theorem colFree_keeps (s : State) (d k : Nat) {wr : Bool} {s0 : State} (hk : Keeps wr s0 s) : Keeps wr s0 (colFree s d k) := by
  dsimp only [colFree]
  with_reducible repeat' first | assumption | apply setCol_keeps | split | simp only [↓keeps_mk]

theorem abortRounds_keeps (s : State) (c : Nat) {s0 : State} (hk : Keeps true s0 s) : Keeps true s0 (abortRounds s c) := by
  dsimp only [abortRounds]
  with_reducible repeat' first
      | assumption | apply ixQuiet_keeps | apply ixAbortQuiet_keeps | apply colQuiet_keeps | apply colAbortQuiet_keeps
      | refine keeps_foldl ?_ (fun _ _ _ => ?_) | refine keeps_foldl1 ?_ (fun _ _ _ => ?_) | split

theorem freeSlots_keeps (s : State) (c : Nat) {s0 : State} (hk : Keeps true s0 s) : Keeps true s0 (freeSlots s c) := by
  dsimp only [freeSlots]
  with_reducible repeat' first
      | assumption | apply abortRounds_keeps | apply ixFree_keeps | apply colFree_keeps
      | refine keeps_foldl ?_ (fun _ _ _ => ?_) | refine keeps_foldl1 ?_ (fun _ _ _ => ?_) | split

end Sys2Proof.Machine
end

