-- ==== Sys2Proof/Laws/KeepsCore.lean ====
section
/-!
SUPPORT. The frame lemmas (Keeps) of the core commands: the window, the sequencer, the engines, and contexts.
-/

namespace Sys2Proof.Machine

/-! ### Window -/

theorem tracePush_keeps (s : State) (i : Nat) (r : TraceRec) {wr : Bool} {s0 : State} (hk : Keeps wr s0 s) : Keeps wr s0
    (tracePush s i r) := by
  dsimp only [tracePush]
  with_reducible repeat' first | assumption | apply bump32_keeps | apply setTrace_keeps | split | simp only [↓keeps_mk]

theorem traceEvent_keeps (s : State) (source target ctx ms part : Nat) (payload : List Nat) {wr : Bool} {s0 : State} (hk :
    Keeps wr s0 s) : Keeps wr s0 (traceEvent s source target ctx ms part payload) := by
  dsimp only [traceEvent]
  with_reducible repeat' first
      | assumption | apply setTrace_keeps | apply tracePush_keeps | refine keeps_foldl ?_ (fun _ _ _ => ?_)
      | refine keeps_foldl1 ?_ (fun _ _ _ => ?_) | split | simp only [↓keeps_mk]

theorem recordFault_keeps (s : State) (core kind eng code : Nat) (ctx : Option Nat) (pc detail addr : Nat) {wr : Bool} {s0 :
    State} (hk : Keeps wr s0 s) : Keeps wr s0 (recordFault s core kind eng code ctx pc detail addr) := by
  dsimp only [recordFault]
  with_reducible repeat' first
      | assumption | apply setCore_keeps | apply raise_keeps | apply traceEvent_keeps | split | simp only [↓keeps_mk]

theorem stopCore_keeps (s : State) (core : Nat) {wr : Bool} {s0 : State} (hk : Keeps wr s0 s) : Keeps wr s0 (stopCore s core)
    := by
  dsimp only [stopCore]
  with_reducible repeat' first
      | assumption | apply siteBump32_keeps | apply modCore_keeps | split | dsimp only [id] | simp only [↓keeps_mk]

theorem stopCores_keeps (s : State) (l : List Nat) {wr : Bool} {s0 : State} (hk : Keeps wr s0 s) : Keeps wr s0 (stopCores s l)
    := by
  dsimp only [stopCores]
  with_reducible repeat' first
      | assumption | apply stopCore_keeps | refine keeps_foldl ?_ (fun _ _ _ => ?_) | refine keeps_foldl1 ?_ (fun _ _ _ => ?_)
      | split

theorem abandonMoves_keeps (s : State) (cores : List Nat) {wr : Bool} {s0 : State} (hk : Keeps wr s0 s) : Keeps wr s0
    (abandonMoves s cores) := by
  dsimp only [abandonMoves]
  with_reducible repeat' first
      | assumption | apply modPage_keeps | apply modSite_keeps | refine keeps_foldl ?_ (fun _ _ _ => ?_)
      | refine keeps_foldl1 ?_ (fun _ _ _ => ?_) | split | simp only [↓keeps_mk]

theorem enterFaulted_keeps (s : State) (c code core : Nat) {s0 : State} (hk : Keeps true s0 s) : Keeps true s0 (enterFaulted s
    c code core) := by
  dsimp only [enterFaulted]
  with_reducible repeat' first
      | assumption | apply completePreempt_keeps | apply modCtx_keeps | apply abortRounds_keeps | apply stopCores_keeps
      | apply abandonMoves_keeps | apply modCore_keeps | refine keeps_foldl ?_ (fun _ _ _ => ?_)
      | refine keeps_foldl1 ?_ (fun _ _ _ => ?_) | split | simp only [↓keeps_mk]

theorem chargeSite_keeps (s : State) (site : Nat) {wr : Bool} {s0 : State} (hk : Keeps wr s0 s) : Keeps wr s0 (chargeSite s
    site) := by
  dsimp only [chargeSite]
  with_reducible repeat' first | assumption | apply modSite_keeps | split | simp only [↓keeps_mk]

theorem noteHw_keeps (s : State) (c core : Nat) {wr : Bool} {s0 : State} (hk : Keeps wr s0 s) : Keeps wr s0 (noteHw s c core)
    := by
  dsimp only [noteHw]
  with_reducible repeat' first | assumption | apply modCtx_keeps | split | simp only [↓keeps_mk]

theorem coreFault_keeps (s : State) (core eng code : Nat) (hw : Bool) (pc detail addr : Nat) {s0 : State} (hk : Keeps true s0
    s) : Keeps true s0 (coreFault s core eng code hw pc detail addr) := by
  dsimp only [coreFault]
  with_reducible repeat' first
      | assumption | apply recordFault_keeps | apply noteHw_keeps | apply chargeSite_keeps | apply enterFaulted_keeps | split
      | simp only [↓keeps_mk]

theorem abandonSaves_keeps (s : State) (core : Nat) {wr : Bool} {s0 : State} (hk : Keeps wr s0 s) : Keeps wr s0 (abandonSaves s
    core) := by
  dsimp only [abandonSaves]
  with_reducible repeat' first | assumption | apply modCore_keeps | split | simp only [↓keeps_mk]

theorem beginSave_keeps (s : State) (c : Nat) (v : Saving) {wr : Bool} {s0 : State} (hk : Keeps wr s0 s) : Keeps wr s0
    (beginSave s c v) := by
  dsimp only [beginSave]
  with_reducible repeat' first
      | assumption | apply stopCores_keeps | apply setCtx_keeps | apply abandonSaves_keeps
      | refine keeps_foldl ?_ (fun _ _ _ => ?_) | refine keeps_foldl1 ?_ (fun _ _ _ => ?_) | split | simp only [↓keeps_mk]

theorem vacateCore_keeps (s : State) (core : Nat) {wr : Bool} {s0 : State} (hk : Keeps wr s0 s) : Keeps wr s0 (vacateCore s
    core) := by
  dsimp only [vacateCore]
  with_reducible repeat' first | assumption | apply modCore_keeps | apply reject_keeps | split | simp only [↓keeps_mk]

theorem vacate_keeps (s : State) (c : Nat) {wr : Bool} {s0 : State} (hk : Keeps wr s0 s) : Keeps wr s0 (vacate s c) := by
  dsimp only [vacate]
  with_reducible repeat' first
      | assumption | apply vacateCore_keeps | refine keeps_foldl ?_ (fun _ _ _ => ?_)
      | refine keeps_foldl1 ?_ (fun _ _ _ => ?_) | split

theorem checkReject_keeps (s : State) (core : Nat) {wr : Bool} {s0 : State} (hk : Keeps wr s0 s) : Keeps wr s0 (checkReject s
    core) := by
  dsimp only [checkReject]
  with_reducible repeat' first | assumption | apply beginSave_keeps | split | simp only [↓keeps_mk]

theorem checkDone_keeps (s : State) (c : Nat) {wr : Bool} {s0 : State} (hk : Keeps wr s0 s) : Keeps wr s0 (checkDone s c) := by
  dsimp only [checkDone]
  with_reducible repeat' first
      | assumption | apply completeRun_keeps | apply modCtx_keeps | apply vacate_keeps | split | simp only [↓keeps_mk]

theorem modEnt_keeps (s : State) (core id : Nat) (f : WEnt → WEnt) {wr : Bool} {s0 : State} (hk : Keeps wr s0 s) : Keeps wr s0
    (modEnt s core id f) := by
  dsimp only [modEnt]
  with_reducible repeat' first | assumption | apply modCore_keeps | split | dsimp only [id] | simp only [↓keeps_mk]

theorem settle_keeps (s : State) (core : Nat) {wr : Bool} {s0 : State} (hk : Keeps wr s0 s) : Keeps wr s0 (settle s core) := by
  dsimp only [settle]
  with_reducible repeat' first | assumption | apply addTie_keeps | apply setCore_keeps | split | simp only [↓keeps_mk]

theorem putMile_keeps (s : State) (core ms : Nat) (m : Mile) {wr : Bool} {s0 : State} (hk : Keeps wr s0 s) : Keeps wr s0
    (putMile s core ms m) := by
  dsimp only [putMile]
  with_reducible repeat' first
      | assumption | apply modCore_keeps | apply traceEvent_keeps | apply settle_keeps | split | simp only [↓keeps_mk]

theorem signalMs_keeps (s : State) (core ms inc : Nat) (last : Word) {wr : Bool} {s0 : State} (hk : Keeps wr s0 s) : Keeps wr
    s0 (signalMs s core ms inc last).1 := by
  dsimp only [signalMs]
  with_reducible repeat' first | assumption | apply putMile_keeps | split | simp only [↓keeps_mk]

theorem signalOwn_keeps (s : State) (core : Nat) (e : WEnt) (ms inc : Nat) {s0 : State} (hk : Keeps true s0 s) : Keeps true s0
    (signalOwn s core e ms inc) := by
  dsimp only [signalOwn]
  with_reducible repeat' first
      | assumption | apply signalMs_keeps | apply coreFault_keeps | split | refine keeps_pair (by assumption) ?_

theorem signalEnt_keeps (s : State) (core : Nat) (e : WEnt) {s0 : State} (hk : Keeps true s0 s) : Keeps true s0 (signalEnt s
    core e) := by
  dsimp only [signalEnt]
  with_reducible repeat' first | assumption | apply signalOwn_keeps | split

theorem popWindow_keeps (s : State) (core : Nat) {wr : Bool} {s0 : State} (hk : Keeps wr s0 s) : Keeps wr s0 (popWindow s core)
    := by
  dsimp only [popWindow]
  with_reducible repeat' first
      | assumption | apply setCore_keeps | apply modCore_keeps | apply settle_keeps | apply checkReject_keeps
      | apply checkDone_keeps | split | simp only [↓keeps_mk]

theorem retire_keeps (s : State) (core : Nat) (e : WEnt) {wr : Bool} {s0 : State} (hk : Keeps wr s0 s) : Keeps wr s0 (retire s
    core e) := by
  dsimp only [retire]
  with_reducible repeat' first
      | assumption | apply modEnt_keeps | apply bump64_keeps | apply modCore_keeps | apply traceEvent_keeps
      | apply popWindow_keeps | split | dsimp only [id] | simp only [↓keeps_mk]

theorem finishEnt_keeps (s : State) (core : Nat) (e : WEnt) {s0 : State} (hk : Keeps true s0 s) : Keeps true s0 (finishEnt s
    core e) := by
  dsimp only [finishEnt]
  with_reducible repeat' first | assumption | apply retire_keeps | apply signalEnt_keeps | split

theorem wakeEngines_keeps (s : State) (core : Nat) {wr : Bool} {s0 : State} (hk : Keeps wr s0 s) : Keeps wr s0 (wakeEngines s
    core) := by
  dsimp only [wakeEngines]
  with_reducible repeat' first | assumption | apply modCore_keeps | split | simp only [↓keeps_mk]

theorem progressed_keeps (s : State) (core cls : Nat) {wr : Bool} {s0 : State} (hk : Keeps wr s0 s) : Keeps wr s0 (progressed s
    core cls) := by
  dsimp only [progressed]
  with_reducible repeat' first | assumption | apply modCore_keeps | split | simp only [↓keeps_mk]

/-! ### Seq -/

theorem readSeq_keeps (s : State) (die part addr n : Nat) {wr : Bool} {s0 : State} (hk : Keeps wr s0 s) : Keeps wr s0 (readSeq
    s die part addr n).1 := by
  dsimp only [readSeq]
  with_reducible repeat' first | assumption | apply readVia_keeps | split | simp only [↓keeps_mk]

theorem readViaAt_keeps (s : State) (die part addr n : Nat) {wr : Bool} {s0 : State} (hk : Keeps wr s0 s) : Keeps wr s0
    (readViaAt s die part addr n).1 := by
  dsimp only [readViaAt]
  with_reducible repeat' first
      | assumption | apply readSeq_keeps | refine keeps_foldl ?_ (fun _ _ _ => ?_) | refine keeps_foldl1 ?_ (fun _ _ _ => ?_)
      | split | refine keeps_pair (by assumption) ?_ | simp only [↓keeps_mk]

theorem coreReject_keeps (s : State) (core eng code addr : Nat) {wr : Bool} {s0 : State} (hk : Keeps wr s0 s) : Keeps wr s0
    (coreReject s core eng code addr) := by
  dsimp only [coreReject]
  with_reducible repeat' first
      | assumption | apply recordFault_keeps | apply checkReject_keeps | apply modCore_keeps | apply reject_keeps | split
      | simp only [↓keeps_mk]

theorem acceptInstr_keeps (s : State) (core i : Nat) (t : Target) (td : List Nat) {wr : Bool} {s0 : State} (hk : Keeps wr s0 s)
    : Keeps wr s0 (acceptInstr s core i t td) := by
  dsimp only [acceptInstr]
  with_reducible repeat' first
      | assumption | apply modCore_keeps | apply siteBump64_keeps | apply popWindow_keeps | apply wakeEngines_keeps | split
      | refine keeps_pair (by assumption) ?_ | dsimp only [id] | simp only [↓keeps_mk]

theorem dispatchNext_keeps (s : State) (core : Nat) (want : Nat → Nat → Bool) {s0 : State} (hk : Keeps true s0 s) : Keeps true
    s0 (dispatchNext s core want) := by
  dsimp only [dispatchNext]
  with_reducible repeat' first
      | assumption | apply coreFault_keeps | apply modCore_keeps | apply coreReject_keeps | apply acceptInstr_keeps | split
      | simp only [↓keeps_mk]

theorem dispatchAs_keeps (s : State) (core eng op : Nat) {s0 : State} (hk : Keeps true s0 s) : Keeps true s0 (dispatchAs s core
    eng op) := by
  dsimp only [dispatchAs]
  with_reducible repeat' first | assumption | apply dispatchNext_keeps | split

theorem execFetchLineReturn_keeps (core : CoreId) (line : BitVec 31) (s : State) {wr : Bool} {s0 : State} (hk : Keeps wr s0 s)
    {t : State} (h : execFetchLineReturn core line s = .next t) : Keeps wr s0 t := by
  dsimp only [execFetchLineReturn] at h; cases h
  with_reducible repeat' first
      | assumption | apply readSeq_keeps | apply modCore_keeps | split | refine keeps_pair (by assumption) ?_
      | simp only [↓keeps_mk]

theorem trySave_keeps (s : State) (c : Nat) {s0 : State} (hk : Keeps true s0 s) : Keeps true s0 (trySave s c) := by
  dsimp only [trySave]
  with_reducible repeat' first
      | assumption | apply recordFault_keeps | apply modCtx_keeps | apply vacate_keeps | apply completeRun_keeps
      | apply beginSave_keeps | apply finishEnt_keeps | refine keeps_foldl ?_ (fun _ _ _ => ?_)
      | refine keeps_foldl1 ?_ (fun _ _ _ => ?_) | split | refine keeps_pair (by assumption) ?_ | simp only [↓keeps_mk]

theorem afterSeq_keeps (s : State) (core : Nat) {s0 : State} (hk : Keeps true s0 s) : Keeps true s0 (afterSeq s core) := by
  dsimp only [afterSeq]
  with_reducible repeat' first | assumption | apply trySave_keeps | split | simp only [↓keeps_mk]

theorem startSeq_keeps (s : State) (core : Nat) (e : WEnt) {s0 : State} (hk : Keeps true s0 s) : Keeps true s0 (startSeq s core
    e) := by
  dsimp only [startSeq]
  with_reducible repeat' first
      | assumption | apply settle_keeps | apply modEnt_keeps | apply modCore_keeps | apply afterSeq_keeps
      | apply finishEnt_keeps | split | dsimp only [id] | simp only [↓keeps_mk]

theorem startSeqAs_keeps (s : State) (core : Nat) (op : Option Nat) {s0 : State} (hk : Keeps true s0 s) : Keeps true s0
    (startSeqAs s core op) := by
  dsimp only [startSeqAs]
  with_reducible repeat' first | assumption | apply startSeq_keeps | split | simp only [↓keeps_mk]

theorem execSeqNop_keeps (core : CoreId) (ph : Phase) (s : State) {s0 : State} (hk : Keeps true s0 s) {t : State} (h :
    execSeqNop core ph s = .next t) : Keeps true s0 t := by
  dsimp only [execSeqNop] at h; cases h
  with_reducible repeat' first | assumption | apply dispatchAs_keeps | apply startSeqAs_keeps | split | simp only [↓keeps_mk]

theorem execJump_keeps (core : CoreId) (s : State) {s0 : State} (hk : Keeps true s0 s) {t : State} (h : execJump core s = .next
    t) : Keeps true s0 t := by
  dsimp only [execJump] at h; cases h
  with_reducible repeat' first | assumption | apply dispatchAs_keeps | split

theorem execSetloop_keeps (core : CoreId) (s : State) {s0 : State} (hk : Keeps true s0 s) {t : State} (h : execSetloop core s =
    .next t) : Keeps true s0 t := by
  dsimp only [execSetloop] at h; cases h
  with_reducible repeat' first | assumption | apply dispatchAs_keeps | split

theorem execLoop_keeps (core : CoreId) (s : State) {s0 : State} (hk : Keeps true s0 s) {t : State} (h : execLoop core s = .next
    t) : Keeps true s0 t := by
  dsimp only [execLoop] at h; cases h
  with_reducible repeat' first | assumption | apply dispatchAs_keeps | split

theorem execBranch_keeps (core : CoreId) (s : State) {s0 : State} (hk : Keeps true s0 s) {t : State} (h : execBranch core s =
    .next t) : Keeps true s0 t := by
  dsimp only [execBranch] at h; cases h
  with_reducible repeat' first | assumption | apply dispatchAs_keeps | split

theorem execTdLoad_keeps (core : CoreId) (s : State) {s0 : State} (hk : Keeps true s0 s) {t : State} (h : execTdLoad core s =
    .next t) : Keeps true s0 t := by
  dsimp only [execTdLoad] at h; cases h
  with_reducible repeat' first | assumption | apply dispatchAs_keeps | split

theorem execSave_keeps (core : CoreId) (ph : Phase) (s : State) {s0 : State} (hk : Keeps true s0 s) {t : State} (h : execSave
    core ph s = .next t) : Keeps true s0 t := by
  dsimp only [execSave] at h; cases h
  with_reducible repeat' first
      | assumption | apply dispatchAs_keeps | apply afterSeq_keeps | apply startSeqAs_keeps | split | simp only [↓keeps_mk]

theorem execHalt_keeps (core : CoreId) (ph : Phase) (s : State) {s0 : State} (hk : Keeps true s0 s) {t : State} (h : execHalt
    core ph s = .next t) : Keeps true s0 t := by
  dsimp only [execHalt] at h; cases h
  with_reducible repeat' first | assumption | apply dispatchAs_keeps | apply startSeqAs_keeps | split | simp only [↓keeps_mk]

theorem dropAhead_keeps (s : State) (core id : Nat) {wr : Bool} {s0 : State} (hk : Keeps wr s0 s) : Keeps wr s0 (dropAhead s
    core id) := by
  dsimp only [dropAhead]
  with_reducible repeat' first | assumption | apply modCore_keeps | split | dsimp only [id] | simp only [↓keeps_mk]

theorem squashAll_keeps (s : State) (core : Nat) (l : List WEnt) {wr : Bool} {s0 : State} (hk : Keeps wr s0 s) : Keeps wr s0
    (squashAll s core l) := by
  dsimp only [squashAll]
  with_reducible repeat' first
      | assumption | apply siteBump32_keeps | apply dropAhead_keeps | refine keeps_foldl ?_ (fun _ _ _ => ?_)
      | refine keeps_foldl1 ?_ (fun _ _ _ => ?_) | split | dsimp only [id]

theorem branchTaken_keeps (s : State) (core : Nat) (e : WEnt) {s0 : State} (hk : Keeps true s0 s) : Keeps true s0 (branchTaken
    s core e) := by
  dsimp only [branchTaken]
  with_reducible repeat' first
      | assumption | apply squashAll_keeps | apply modCore_keeps | apply bump32_keeps | apply finishEnt_keeps | split
      | dsimp only [id] | simp only [↓keeps_mk]

theorem branchPassed_keeps (s : State) (core : Nat) (e : WEnt) {s0 : State} (hk : Keeps true s0 s) : Keeps true s0
    (branchPassed s core e) := by
  dsimp only [branchPassed]
  with_reducible repeat' first
      | assumption | apply finishEnt_keeps | apply coreReject_keeps | apply modCore_keeps | split | simp only [↓keeps_mk]

theorem execBranchResolve_keeps (core : CoreId) (s : State) {s0 : State} (hk : Keeps true s0 s) {t : State} (h :
    execBranchResolve core s = .next t) : Keeps true s0 t := by
  dsimp only [execBranchResolve] at h; cases h
  with_reducible repeat' first
      | assumption | apply branchTaken_keeps | apply branchPassed_keeps | split | simp only [↓keeps_mk]

theorem execTdLoadDone_keeps (core : CoreId) (s : State) {s0 : State} (hk : Keeps true s0 s) {t : State} (h : execTdLoadDone
    core s = .next t) : Keeps true s0 t := by
  dsimp only [execTdLoadDone] at h; cases h
  with_reducible repeat' first
      | assumption | apply readViaAt_keeps | apply coreFault_keeps | apply finishEnt_keeps | apply modCore_keeps | split
      | refine keeps_pair (by assumption) ?_ | simp only [↓keeps_mk]

/-! ### Sites -/

theorem shadowSelect_keeps (s : State) (core ctx pass cycles : Nat) {wr : Bool} {s0 : State} (hk : Keeps wr s0 s) : Keeps wr s0
    (shadowSelect s core ctx pass cycles) := by
  dsimp only [shadowSelect]
  with_reducible repeat' first
      | assumption | apply freshNat_keeps | apply bump32_keeps | split | refine keeps_pair (by assumption) ?_
      | simp only [↓keeps_mk]

theorem shadowNote_keeps (s : State) (core : Nat) (l : List Byte) {wr : Bool} {s0 : State} (hk : Keeps wr s0 s) : Keeps wr s0
    (shadowNote s core l) := by
  dsimp only [shadowNote]
  with_reducible repeat' first | assumption | split | simp only [↓keeps_mk]

theorem shadowEnd_keeps (s : State) (core : Nat) {wr : Bool} {s0 : State} (hk : Keeps wr s0 s) : Keeps wr s0 (shadowEnd s core)
    := by
  dsimp only [shadowEnd]
  with_reducible repeat' first | assumption | split | simp only [↓keeps_mk]

theorem shadowAbandon_keeps (s : State) (core : Nat) {wr : Bool} {s0 : State} (hk : Keeps wr s0 s) : Keeps wr s0 (shadowAbandon
    s core) := by
  dsimp only [shadowAbandon]
  with_reducible repeat' first | assumption | split | simp only [↓keeps_mk]

theorem dropShadowsOn_keeps (s : State) (n : Nat) {wr : Bool} {s0 : State} (hk : Keeps wr s0 s) : Keeps wr s0 (dropShadowsOn s
    n) := by
  dsimp only [dropShadowsOn]
  with_reducible repeat' first | assumption | split | simp only [↓keeps_mk]

theorem clearTested_keeps (s : State) (n core : Nat) (slice : Bool) {wr : Bool} {s0 : State} (hk : Keeps wr s0 s) : Keeps wr s0
    (clearTested s n core slice) := by
  dsimp only [clearTested]
  with_reducible repeat' first | assumption | apply modCore_keeps | split

theorem startTest_keeps (s : State) (n why core : Nat) {wr : Bool} {s0 : State} (hk : Keeps wr s0 s) : Keeps wr s0 (startTest s
    n why core) := by
  dsimp only [startTest]
  with_reducible repeat' first
      | assumption | apply clearTested_keeps | apply modSite_keeps | apply dropShadowsOn_keeps | split | simp only [↓keeps_mk]

/-! ### Lr -/

theorem lrActivate_keeps (s : State) (core : Nat) (e : WEnt) {wr : Bool} {s0 : State} (hk : Keeps wr s0 s) : Keeps wr s0
    (lrActivate s core e) := by
  dsimp only [lrActivate]
  with_reducible repeat' first
      | assumption | apply modCore_keeps | apply shadowSelect_keeps | split | dsimp only [id] | simp only [↓keeps_mk]

theorem lrTakeNext_keeps (s : State) (core : Nat) {wr : Bool} {s0 : State} (hk : Keeps wr s0 s) : Keeps wr s0 (lrTakeNext s
    core) := by
  dsimp only [lrTakeNext]
  with_reducible repeat' first | assumption | apply lrActivate_keeps | apply modCore_keeps | split | simp only [↓keeps_mk]

theorem startLr_keeps (s : State) (core : Nat) (e : WEnt) {wr : Bool} {s0 : State} (hk : Keeps wr s0 s) : Keeps wr s0 (startLr
    s core e) := by
  dsimp only [startLr]
  with_reducible repeat' first
      | assumption | apply progressed_keeps | apply modEnt_keeps | apply lrActivate_keeps | apply settle_keeps | split
      | dsimp only [id] | simp only [↓keeps_mk]

theorem continueLr_keeps (s : State) (core : Nat) {wr : Bool} {s0 : State} (hk : Keeps wr s0 s) : Keeps wr s0 (continueLr s
    core) := by
  dsimp only [continueLr]
  with_reducible repeat' first | assumption | apply settle_keeps | apply lrTakeNext_keeps | split

theorem startLrNext_keeps (s : State) (core : Nat) {wr : Bool} {s0 : State} (hk : Keeps wr s0 s) : Keeps wr s0 (startLrNext s
    core) := by
  dsimp only [startLrNext]
  with_reducible repeat' first | assumption | apply continueLr_keeps | apply startLr_keeps | split | simp only [↓keeps_mk]

theorem execLrFillDone_keeps (core : CoreId) (s : State) {wr : Bool} {s0 : State} (hk : Keeps wr s0 s) {t : State} (h :
    execLrFillDone core s = .next t) : Keeps wr s0 t := by
  dsimp only [execLrFillDone] at h; cases h
  with_reducible repeat' first
      | assumption | apply progressed_keeps | apply modCore_keeps | split | dsimp only [id] | simp only [↓keeps_mk]

theorem lrStep_keeps (s : State) (core : Nat) (e : WEnt) (bank : Bank) {s0 : State} (hk : Keeps true s0 s) : Keeps true s0
    (lrStep s core e bank) := by
  dsimp only [lrStep]
  with_reducible repeat' first
      | assumption | apply modCore_keeps | apply modEnt_keeps | apply progressed_keeps | apply shadowNote_keeps
      | apply signalOwn_keeps | split | refine keeps_pair (by assumption) ?_ | dsimp only [id] | simp only [↓keeps_mk]

theorem lrIssue_keeps (s : State) (core : Nat) (want : WEnt → Bool) {s0 : State} (hk : Keeps true s0 s) : Keeps true s0
    (lrIssue s core want) := by
  dsimp only [lrIssue]
  with_reducible repeat' first | assumption | apply lrStep_keeps | split | dsimp only [id] | simp only [↓keeps_mk]

theorem execMm_keeps (core : CoreId) (ph : Phase) (s : State) {s0 : State} (hk : Keeps true s0 s) {t : State} (h : execMm core
    ph s = .next t) : Keeps true s0 t := by
  dsimp only [execMm] at h; cases h
  with_reducible repeat' first | assumption | apply dispatchAs_keeps | apply lrIssue_keeps | split | simp only [↓keeps_mk]

theorem execMma_keeps (core : CoreId) (ph : Phase) (s : State) {s0 : State} (hk : Keeps true s0 s) {t : State} (h : execMma
    core ph s = .next t) : Keeps true s0 t := by
  dsimp only [execMma] at h; cases h
  with_reducible repeat' first | assumption | apply dispatchAs_keeps | apply lrIssue_keeps | split | simp only [↓keeps_mk]

theorem execLrStreamToken_keeps (core : CoreId) (s : State) {s0 : State} (hk : Keeps true s0 s) {t : State} (h :
    execLrStreamToken core s = .next t) : Keeps true s0 t := by
  dsimp only [execLrStreamToken] at h; cases h
  with_reducible repeat' first | assumption | apply lrIssue_keeps | split

theorem execLrPassEnd_keeps (core : CoreId) (s : State) {s0 : State} (hk : Keeps true s0 s) {t : State} (h : execLrPassEnd core
    s = .next t) : Keeps true s0 t := by
  dsimp only [execLrPassEnd] at h; cases h
  with_reducible repeat' first
      | assumption | apply shadowEnd_keeps | apply siteBump32_keeps | apply modCore_keeps | apply signalEnt_keeps
      | apply shadowSelect_keeps | split | simp only [↓keeps_mk]

theorem execLrComplete_keeps (core : CoreId) (s : State) {s0 : State} (hk : Keeps true s0 s) {t : State} (h : execLrComplete
    core s = .next t) : Keeps true s0 t := by
  dsimp only [execLrComplete] at h; cases h
  with_reducible repeat' first
      | assumption | apply modCore_keeps | apply retire_keeps | apply finishEnt_keeps | apply lrTakeNext_keeps | split
      | dsimp only [id] | simp only [↓keeps_mk]

theorem execLrDummyStepDown_keeps (core : CoreId) (s : State) {wr : Bool} {s0 : State} (hk : Keeps wr s0 s) {t : State} (h :
    execLrDummyStepDown core s = .next t) : Keeps wr s0 t := by
  dsimp only [execLrDummyStepDown] at h; cases h
  with_reducible repeat' first | assumption | apply modCore_keeps | split | simp only [↓keeps_mk]

theorem execLrStop_keeps (core : CoreId) (s : State) {wr : Bool} {s0 : State} (hk : Keeps wr s0 s) {t : State} (h : execLrStop
    core s = .next t) : Keeps wr s0 t := by
  dsimp only [execLrStop] at h; cases h
  with_reducible repeat' first | assumption | apply modCore_keeps | apply shadowAbandon_keeps | split | simp only [↓keeps_mk]

/-! ### Op -/

theorem opActivate_keeps (s : State) (core : Nat) (e : WEnt) {s0 : State} (hk : Keeps true s0 s) : Keeps true s0 (opActivate s
    core e) := by
  dsimp only [opActivate]
  with_reducible repeat' first
      | assumption | apply coreFault_keeps | apply modCore_keeps | split | dsimp only [id] | simp only [↓keeps_mk]

theorem opTakeNext_keeps (s : State) (core : Nat) {s0 : State} (hk : Keeps true s0 s) : Keeps true s0 (opTakeNext s core) := by
  dsimp only [opTakeNext]
  with_reducible repeat' first | assumption | apply opActivate_keeps | apply modCore_keeps | split | simp only [↓keeps_mk]

theorem startOp_keeps (s : State) (core : Nat) (e : WEnt) {s0 : State} (hk : Keeps true s0 s) : Keeps true s0 (startOp s core
    e) := by
  dsimp only [startOp]
  with_reducible repeat' first
      | assumption | apply progressed_keeps | apply modEnt_keeps | apply opActivate_keeps | apply settle_keeps | split
      | dsimp only [id] | simp only [↓keeps_mk]

theorem startOpNext_keeps (s : State) (core : Nat) {s0 : State} (hk : Keeps true s0 s) : Keeps true s0 (startOpNext s core) :=
    by
  dsimp only [startOpNext]
  with_reducible repeat' first
      | assumption | apply settle_keeps | apply opTakeNext_keeps | apply startOp_keeps | split | simp only [↓keeps_mk]

theorem execOpFillDone_keeps (core : CoreId) (s : State) {wr : Bool} {s0 : State} (hk : Keeps wr s0 s) {t : State} (h :
    execOpFillDone core s = .next t) : Keeps wr s0 t := by
  dsimp only [execOpFillDone] at h; cases h
  with_reducible repeat' first
      | assumption | apply progressed_keeps | apply modCore_keeps | split | refine keeps_pair (by assumption) ?_
      | dsimp only [id] | simp only [↓keeps_mk]

theorem opIssue_keeps (s : State) (core : Nat) (op : Nat) {wr : Bool} {s0 : State} (hk : Keeps wr s0 s) : Keeps wr s0 (opIssue
    s core op) := by
  dsimp only [opIssue]
  with_reducible repeat' first
      | assumption | apply modCore_keeps | apply progressed_keeps | apply modEnt_keeps | split
      | refine keeps_pair (by assumption) ?_ | dsimp only [id] | simp only [↓keeps_mk]

theorem execOpm_keeps (core : CoreId) (ph : Phase) (s : State) {s0 : State} (hk : Keeps true s0 s) {t : State} (h : execOpm
    core ph s = .next t) : Keeps true s0 t := by
  dsimp only [execOpm] at h; cases h
  with_reducible repeat' first | assumption | apply dispatchAs_keeps | apply opIssue_keeps | split | simp only [↓keeps_mk]

theorem execOpma_keeps (core : CoreId) (ph : Phase) (s : State) {s0 : State} (hk : Keeps true s0 s) {t : State} (h : execOpma
    core ph s = .next t) : Keeps true s0 t := by
  dsimp only [execOpma] at h; cases h
  with_reducible repeat' first | assumption | apply dispatchAs_keeps | apply opIssue_keeps | split | simp only [↓keeps_mk]

theorem execOpPassEnd_keeps (core : CoreId) (s : State) {s0 : State} (hk : Keeps true s0 s) {t : State} (h : execOpPassEnd core
    s = .next t) : Keeps true s0 t := by
  dsimp only [execOpPassEnd] at h; cases h
  with_reducible repeat' first
      | assumption | apply siteBump32_keeps | apply modCore_keeps | apply progressed_keeps | apply signalEnt_keeps | split
      | simp only [↓keeps_mk]

theorem execOpComplete_keeps (core : CoreId) (s : State) {s0 : State} (hk : Keeps true s0 s) {t : State} (h : execOpComplete
    core s = .next t) : Keeps true s0 t := by
  dsimp only [execOpComplete] at h; cases h
  with_reducible repeat' first
      | assumption | apply modCore_keeps | apply retire_keeps | apply finishEnt_keeps | apply opTakeNext_keeps | split
      | dsimp only [id] | simp only [↓keeps_mk]

theorem execOpDummyStepDown_keeps (core : CoreId) (s : State) {wr : Bool} {s0 : State} (hk : Keeps wr s0 s) {t : State} (h :
    execOpDummyStepDown core s = .next t) : Keeps wr s0 t := by
  dsimp only [execOpDummyStepDown] at h; cases h
  with_reducible repeat' first | assumption | apply modCore_keeps | split | simp only [↓keeps_mk]

theorem execOpStop_keeps (core : CoreId) (s : State) {wr : Bool} {s0 : State} (hk : Keeps wr s0 s) {t : State} (h : execOpStop
    core s = .next t) : Keeps wr s0 t := by
  dsimp only [execOpStop] at h; cases h
  with_reducible repeat' first | assumption | apply modCore_keeps | split | simp only [↓keeps_mk]

/-! ### Vx -/

theorem vxStep_keeps (s : State) (core : Nat) (op : Nat) {wr : Bool} {s0 : State} (hk : Keeps wr s0 s) : Keeps wr s0 (vxStep s
    core op) := by
  dsimp only [vxStep]
  with_reducible repeat' first
      | assumption | apply modCore_keeps | apply progressed_keeps | apply modEnt_keeps
      | refine keeps_foldl ?_ (fun _ _ _ => ?_) | refine keeps_foldl1 ?_ (fun _ _ _ => ?_) | split
      | refine keeps_pair (by assumption) ?_ | dsimp only [id] | simp only [↓keeps_mk]

theorem startVxNext_keeps (s : State) (core : Nat) {wr : Bool} {s0 : State} (hk : Keeps wr s0 s) : Keeps wr s0 (startVxNext s
    core) := by
  dsimp only [startVxNext]
  with_reducible repeat' first
      | assumption | apply settle_keeps | apply progressed_keeps | apply modEnt_keeps | split | dsimp only [id]
      | simp only [↓keeps_mk]

theorem vxCmd_keeps (s : State) (core : Nat) (ph : Phase) (op : Nat) {s0 : State} (hk : Keeps true s0 s) : Keeps true s0 (vxCmd
    s core ph op) := by
  dsimp only [vxCmd]
  with_reducible repeat' first | assumption | apply dispatchAs_keeps | apply vxStep_keeps | split | simp only [↓keeps_mk]

theorem execCvt_keeps (core : CoreId) (ph : Phase) (s : State) {s0 : State} (hk : Keeps true s0 s) {t : State} (h : execCvt
    core ph s = .next t) : Keeps true s0 t := by
  dsimp only [execCvt] at h; cases h
  with_reducible repeat' first | assumption | apply vxCmd_keeps | split

theorem execVxAdd_keeps (core : CoreId) (ph : Phase) (s : State) {s0 : State} (hk : Keeps true s0 s) {t : State} (h : execVxAdd
    core ph s = .next t) : Keeps true s0 t := by
  dsimp only [execVxAdd] at h; cases h
  with_reducible repeat' first | assumption | apply vxCmd_keeps | split

theorem execVxSub_keeps (core : CoreId) (ph : Phase) (s : State) {s0 : State} (hk : Keeps true s0 s) {t : State} (h : execVxSub
    core ph s = .next t) : Keeps true s0 t := by
  dsimp only [execVxSub] at h; cases h
  with_reducible repeat' first | assumption | apply vxCmd_keeps | split

theorem execVxMul_keeps (core : CoreId) (ph : Phase) (s : State) {s0 : State} (hk : Keeps true s0 s) {t : State} (h : execVxMul
    core ph s = .next t) : Keeps true s0 t := by
  dsimp only [execVxMul] at h; cases h
  with_reducible repeat' first | assumption | apply vxCmd_keeps | split

theorem execVxFma_keeps (core : CoreId) (ph : Phase) (s : State) {s0 : State} (hk : Keeps true s0 s) {t : State} (h : execVxFma
    core ph s = .next t) : Keeps true s0 t := by
  dsimp only [execVxFma] at h; cases h
  with_reducible repeat' first | assumption | apply vxCmd_keeps | split

theorem execScale_keeps (core : CoreId) (ph : Phase) (s : State) {s0 : State} (hk : Keeps true s0 s) {t : State} (h : execScale
    core ph s = .next t) : Keeps true s0 t := by
  dsimp only [execScale] at h; cases h
  with_reducible repeat' first | assumption | apply vxCmd_keeps | split

theorem execArgmax_keeps (core : CoreId) (ph : Phase) (s : State) {s0 : State} (hk : Keeps true s0 s) {t : State} (h :
    execArgmax core ph s = .next t) : Keeps true s0 t := by
  dsimp only [execArgmax] at h; cases h
  with_reducible repeat' first | assumption | apply vxCmd_keeps | split

theorem execArgmin_keeps (core : CoreId) (ph : Phase) (s : State) {s0 : State} (hk : Keeps true s0 s) {t : State} (h :
    execArgmin core ph s = .next t) : Keeps true s0 t := by
  dsimp only [execArgmin] at h; cases h
  with_reducible repeat' first | assumption | apply vxCmd_keeps | split

theorem execRowsum_keeps (core : CoreId) (ph : Phase) (s : State) {s0 : State} (hk : Keeps true s0 s) {t : State} (h :
    execRowsum core ph s = .next t) : Keeps true s0 t := by
  dsimp only [execRowsum] at h; cases h
  with_reducible repeat' first | assumption | apply vxCmd_keeps | split

theorem execExp_keeps (core : CoreId) (ph : Phase) (s : State) {s0 : State} (hk : Keeps true s0 s) {t : State} (h : execExp
    core ph s = .next t) : Keeps true s0 t := by
  dsimp only [execExp] at h; cases h
  with_reducible repeat' first | assumption | apply vxCmd_keeps | split

theorem execLog_keeps (core : CoreId) (ph : Phase) (s : State) {s0 : State} (hk : Keeps true s0 s) {t : State} (h : execLog
    core ph s = .next t) : Keeps true s0 t := by
  dsimp only [execLog] at h; cases h
  with_reducible repeat' first | assumption | apply vxCmd_keeps | split

theorem execRsqrt_keeps (core : CoreId) (ph : Phase) (s : State) {s0 : State} (hk : Keeps true s0 s) {t : State} (h : execRsqrt
    core ph s = .next t) : Keeps true s0 t := by
  dsimp only [execRsqrt] at h; cases h
  with_reducible repeat' first | assumption | apply vxCmd_keeps | split

theorem execRecip_keeps (core : CoreId) (ph : Phase) (s : State) {s0 : State} (hk : Keeps true s0 s) {t : State} (h : execRecip
    core ph s = .next t) : Keeps true s0 t := by
  dsimp only [execRecip] at h; cases h
  with_reducible repeat' first | assumption | apply vxCmd_keeps | split

theorem execTanh_keeps (core : CoreId) (ph : Phase) (s : State) {s0 : State} (hk : Keeps true s0 s) {t : State} (h : execTanh
    core ph s = .next t) : Keeps true s0 t := by
  dsimp only [execTanh] at h; cases h
  with_reducible repeat' first | assumption | apply vxCmd_keeps | split

theorem execErf_keeps (core : CoreId) (ph : Phase) (s : State) {s0 : State} (hk : Keeps true s0 s) {t : State} (h : execErf
    core ph s = .next t) : Keeps true s0 t := by
  dsimp only [execErf] at h; cases h
  with_reducible repeat' first | assumption | apply vxCmd_keeps | split

theorem execMaxmin_keeps (core : CoreId) (ph : Phase) (s : State) {s0 : State} (hk : Keeps true s0 s) {t : State} (h :
    execMaxmin core ph s = .next t) : Keeps true s0 t := by
  dsimp only [execMaxmin] at h; cases h
  with_reducible repeat' first | assumption | apply vxCmd_keeps | split

theorem execVxComplete_keeps (core : CoreId) (s : State) {s0 : State} (hk : Keeps true s0 s) {t : State} (h : execVxComplete
    core s = .next t) : Keeps true s0 t := by
  dsimp only [execVxComplete] at h; cases h
  with_reducible repeat' first | assumption | apply modCore_keeps | apply finishEnt_keeps | split | simp only [↓keeps_mk]

theorem execVxStop_keeps (core : CoreId) (s : State) {wr : Bool} {s0 : State} (hk : Keeps wr s0 s) {t : State} (h : execVxStop
    core s = .next t) : Keeps wr s0 t := by
  dsimp only [execVxStop] at h; cases h
  with_reducible repeat' first | assumption | apply modCore_keeps | split | simp only [↓keeps_mk]

/-! ### Dm -/

theorem setSlot_keeps (s : State) (core slot : Nat) (r : Option DmReq) {wr : Bool} {s0 : State} (hk : Keeps wr s0 s) : Keeps wr
    s0 (setSlot s core slot r) := by
  dsimp only [setSlot]
  with_reducible repeat' first | assumption | apply modCore_keeps | split | simp only [↓keeps_mk]

theorem lookAside_keeps (s : State) (core addr : Nat) {wr : Bool} {s0 : State} (hk : Keeps wr s0 s) : Keeps wr s0 (lookAside s
    core addr) := by
  dsimp only [lookAside]
  with_reducible repeat' first | assumption | apply modCore_keeps | apply siteBump32_keeps | split | simp only [↓keeps_mk]

theorem execLaMissReturn_keeps (core : CoreId) (line : BitVec 21) (s : State) {wr : Bool} {s0 : State} (hk : Keeps wr s0 s) {t
    : State} (h : execLaMissReturn core line s = .next t) : Keeps wr s0 t := by
  dsimp only [execLaMissReturn] at h; cases h
  with_reducible repeat' first | assumption | apply modCore_keeps | split | simp only [↓keeps_mk]

theorem issueReq_keeps (s : State) (core slot : Nat) (r : DmReq) {wr : Bool} {s0 : State} (hk : Keeps wr s0 s) : Keeps wr s0
    (issueReq s core slot r) := by
  dsimp only [issueReq]
  with_reducible repeat' first
      | assumption | apply siteBump64_keeps | apply setSlot_keeps | apply lookAside_keeps | apply sendReq_keeps
      | apply sbTake_keeps | apply queueResv_keeps | split | refine keeps_pair (by assumption) ?_ | simp only [↓keeps_mk]

theorem endReq_keeps (s : State) (core slot : Nat) (r : DmReq) {wr : Bool} {s0 : State} (hk : Keeps wr s0 s) : Keeps wr s0
    (endReq s core slot r) := by
  dsimp only [endReq]
  with_reducible repeat' first | assumption | apply setSlot_keeps | apply sbFree_keeps | split

theorem settleReqs_keeps (s : State) (core : Nat) {s0 : State} (hk : Keeps true s0 s) : Keeps true s0 (settleReqs s core) := by
  dsimp only [settleReqs]
  with_reducible repeat' first
      | assumption | apply writeLater_keeps | apply endReq_keeps | refine keeps_foldl ?_ (fun _ _ _ => ?_)
      | refine keeps_foldl1 ?_ (fun _ _ _ => ?_) | split | simp only [↓keeps_mk]

theorem checkMove_keeps (s : State) (core id : Nat) {s0 : State} (hk : Keeps true s0 s) : Keeps true s0 (checkMove s core id)
    := by
  dsimp only [checkMove]
  with_reducible repeat' first
      | assumption | apply finishEnt_keeps | apply settle_keeps | split | dsimp only [id] | simp only [↓keeps_mk]

theorem checkAcc_keeps (s : State) (core id : Nat) {s0 : State} (hk : Keeps true s0 s) : Keeps true s0 (checkAcc s core id) :=
    by
  dsimp only [checkAcc]
  with_reducible repeat' first
      | assumption | apply finishEnt_keeps | apply settle_keeps | split | dsimp only [id] | simp only [↓keeps_mk]

theorem dmFault_keeps (s : State) (core : Nat) (r : DmReq) (code detail addr : Nat) {s0 : State} (hk : Keeps true s0 s) : Keeps
    true s0 (dmFault s core r code detail addr) := by
  dsimp only [dmFault]
  with_reducible repeat' first | assumption | apply modCore_keeps | apply coreFault_keeps | split | simp only [↓keeps_mk]

theorem openSlot_keeps (s : State) (core : Nat) (e : WEnt) {s0 : State} (hk : Keeps true s0 s) : Keeps true s0 (openSlot s core
    e) := by
  dsimp only [openSlot]
  with_reducible repeat' first | assumption | apply finishEnt_keeps | apply modCore_keeps | split | simp only [↓keeps_mk]

theorem startGet_keeps (s : State) (core : Nat) (e : WEnt) {s0 : State} (hk : Keeps true s0 s) : Keeps true s0 (startGet s core
    e) := by
  dsimp only [startGet]
  with_reducible repeat' first
      | assumption | apply finishEnt_keeps | apply siteBump32_keeps | apply dropAhead_keeps | apply coreFault_keeps
      | apply modEnt_keeps | apply modCore_keeps | apply checkMove_keeps | apply progressed_keeps
      | refine keeps_foldl ?_ (fun _ _ _ => ?_) | refine keeps_foldl1 ?_ (fun _ _ _ => ?_) | split | dsimp only [id]
      | simp only [↓keeps_mk]

theorem startDm_keeps (s : State) (core : Nat) (e : WEnt) {s0 : State} (hk : Keeps true s0 s) : Keeps true s0 (startDm s core
    e) := by
  dsimp only [startDm]
  with_reducible repeat' first
      | assumption | apply openSlot_keeps | apply startGet_keeps | apply settle_keeps | apply progressed_keeps
      | apply modEnt_keeps | split | dsimp only [id] | simp only [↓keeps_mk]

theorem startDmNext_keeps (s : State) (core : Nat) {s0 : State} (hk : Keeps true s0 s) : Keeps true s0 (startDmNext s core) :=
    by
  dsimp only [startDmNext]
  with_reducible repeat' first | assumption | apply startDm_keeps | split | simp only [↓keeps_mk]

theorem squashOverlap_keeps (s : State) (core : Nat) (p : DmReq) {wr : Bool} {s0 : State} (hk : Keeps wr s0 s) : Keeps wr s0
    (squashOverlap s core p) := by
  dsimp only [squashOverlap]
  with_reducible repeat' first
      | assumption | apply modCore_keeps | apply siteBump32_keeps | split | dsimp only [id] | simp only [↓keeps_mk]

theorem workGet_keeps (s : State) (core : Nat) (e : WEnt) {s0 : State} (hk : Keeps true s0 s) : Keeps true s0 (workGet s core
    e) := by
  dsimp only [workGet]
  with_reducible repeat' first
      | assumption | apply progressed_keeps | apply modEnt_keeps | apply issueReq_keeps | apply modCore_keeps
      | apply siteBump32_keeps | apply checkMove_keeps | split | refine keeps_pair (by assumption) ?_ | dsimp only [id]
      | simp only [↓keeps_mk]

theorem workPut_keeps (s : State) (core : Nat) (e : WEnt) {wr : Bool} {s0 : State} (hk : Keeps wr s0 s) : Keeps wr s0 (workPut
    s core e) := by
  dsimp only [workPut]
  with_reducible repeat' first
      | assumption | apply issueReq_keeps | apply squashOverlap_keeps | apply progressed_keeps | apply modEnt_keeps | split
      | refine keeps_pair (by assumption) ?_ | dsimp only [id] | simp only [↓keeps_mk]

theorem workAcc_keeps (s : State) (core : Nat) (e : WEnt) (ord : Bool) {wr : Bool} {s0 : State} (hk : Keeps wr s0 s) : Keeps wr
    s0 (workAcc s core e ord) := by
  dsimp only [workAcc]
  with_reducible repeat' first
      | assumption | apply issueReq_keeps | apply postMsg_keeps | apply progressed_keeps | apply modEnt_keeps | split
      | dsimp only [id] | simp only [↓keeps_mk]

theorem workAhead_keeps (s : State) (core : Nat) {wr : Bool} {s0 : State} (hk : Keeps wr s0 s) : Keeps wr s0 (workAhead s core)
    := by
  dsimp only [workAhead]
  with_reducible repeat' first
      | assumption | apply modEnt_keeps | apply issueReq_keeps | apply settle_keeps | apply progressed_keeps | split
      | refine keeps_pair (by assumption) ?_ | dsimp only [id] | simp only [↓keeps_mk]

theorem dmWork_keeps (s : State) (core op : Nat) {s0 : State} (hk : Keeps true s0 s) : Keeps true s0 (dmWork s core op) := by
  dsimp only [dmWork]
  with_reducible repeat' first
      | assumption | apply modCore_keeps | apply siteBump32_keeps | apply modEnt_keeps | apply checkMove_keeps
      | apply progressed_keeps | apply workGet_keeps | apply workPut_keeps | apply workAcc_keeps | apply workAhead_keeps
      | apply openSlot_keeps | split | dsimp only [id] | simp only [↓keeps_mk]

theorem execGet_keeps (core : CoreId) (ph : Phase) (s : State) {s0 : State} (hk : Keeps true s0 s) {t : State} (h : execGet
    core ph s = .next t) : Keeps true s0 t := by
  dsimp only [execGet] at h; cases h
  with_reducible repeat' first | assumption | apply dispatchAs_keeps | apply dmWork_keeps | split | simp only [↓keeps_mk]

theorem execPut_keeps (core : CoreId) (ph : Phase) (s : State) {s0 : State} (hk : Keeps true s0 s) {t : State} (h : execPut
    core ph s = .next t) : Keeps true s0 t := by
  dsimp only [execPut] at h; cases h
  with_reducible repeat' first | assumption | apply dispatchAs_keeps | apply dmWork_keeps | split | simp only [↓keeps_mk]

theorem execAcc_keeps (core : CoreId) (ph : Phase) (s : State) {s0 : State} (hk : Keeps true s0 s) {t : State} (h : execAcc
    core ph s = .next t) : Keeps true s0 t := by
  dsimp only [execAcc] at h; cases h
  with_reducible repeat' first | assumption | apply dispatchAs_keeps | apply dmWork_keeps | split | simp only [↓keeps_mk]

theorem execAccOrd_keeps (core : CoreId) (ph : Phase) (s : State) {s0 : State} (hk : Keeps true s0 s) {t : State} (h :
    execAccOrd core ph s = .next t) : Keeps true s0 t := by
  dsimp only [execAccOrd] at h; cases h
  with_reducible repeat' first | assumption | apply dispatchAs_keeps | apply dmWork_keeps | split | simp only [↓keeps_mk]

theorem execCmbOpen_keeps (core : CoreId) (ph : Phase) (s : State) {s0 : State} (hk : Keeps true s0 s) {t : State} (h :
    execCmbOpen core ph s = .next t) : Keeps true s0 t := by
  dsimp only [execCmbOpen] at h; cases h
  with_reducible repeat' first | assumption | apply dispatchAs_keeps | apply dmWork_keeps | split | simp only [↓keeps_mk]

theorem readReq_keeps (s : State) (core : Nat) (r : DmReq) {wr : Bool} {s0 : State} (hk : Keeps wr s0 s) : Keeps wr s0 (readReq
    s core r).1 := by
  dsimp only [readReq]
  with_reducible repeat' first | assumption | apply readVia_keeps | split | simp only [↓keeps_mk]

theorem execRunAheadReturn_keeps (core : CoreId) (slot : Fin 16) (s : State) {wr : Bool} {s0 : State} (hk : Keeps wr s0 s) {t :
    State} (h : execRunAheadReturn core slot s = .next t) : Keeps wr s0 t := by
  dsimp only [execRunAheadReturn] at h; cases h
  with_reducible repeat' first
      | assumption | apply cwDecrease_keeps | apply settle_keeps | apply endReq_keeps | apply readReq_keeps
      | apply modCore_keeps | split | refine keeps_pair (by assumption) ?_ | simp only [↓keeps_mk]

theorem execGetDataReturn_keeps (core : CoreId) (slot : Fin 16) (mark : Bool) (s : State) {s0 : State} (hk : Keeps true s0 s)
    {t : State} (h : execGetDataReturn core slot mark s = .next t) : Keeps true s0 t := by
  dsimp only [execGetDataReturn] at h; cases h
  with_reducible repeat' first
      | assumption | apply cwDecrease_keeps | apply settle_keeps | apply endReq_keeps | apply readReq_keeps
      | apply dmFault_keeps | apply modCore_keeps | apply checkMove_keeps | apply progressed_keeps | split
      | refine keeps_pair (by assumption) ?_ | simp only [↓keeps_mk]

theorem execPutAck_keeps (core : CoreId) (slot : Fin 16) (mark : Bool) (s : State) {s0 : State} (hk : Keeps true s0 s) {t :
    State} (h : execPutAck core slot mark s = .next t) : Keeps true s0 t := by
  dsimp only [execPutAck] at h; cases h
  with_reducible repeat' first
      | assumption | apply cwDecrease_keeps | apply writeVia_keeps | apply endReq_keeps | apply settle_keeps
      | apply dmFault_keeps | apply checkMove_keeps | apply progressed_keeps | split | refine keeps_pair (by assumption) ?_
      | simp only [↓keeps_mk]

theorem laInvalidate_keeps (s : State) (core : Nat) {wr : Bool} {s0 : State} (hk : Keeps wr s0 s) : Keeps wr s0 (laInvalidate s
    core) := by
  dsimp only [laInvalidate]
  with_reducible repeat' first
      | assumption | apply squashAll_keeps | apply modCore_keeps | split | dsimp only [id] | simp only [↓keeps_mk]

theorem dropFrame_keeps (s : State) (core frame : Nat) {wr : Bool} {s0 : State} (hk : Keeps wr s0 s) : Keeps wr s0 (dropFrame s
    core frame) := by
  dsimp only [dropFrame]
  with_reducible repeat' first
      | assumption | apply squashAll_keeps | apply modCore_keeps | split | dsimp only [id] | simp only [↓keeps_mk]

theorem ackAcc_keeps (s : State) (q : Msg) (src dst slot code : Nat) {wr : Bool} {s0 : State} (hk : Keeps wr s0 s) : Keeps wr
    s0 (ackAcc s q src dst slot code) := by
  dsimp only [ackAcc]
  with_reducible repeat' first | assumption | apply postMsg_keeps | split | simp only [↓keeps_mk]

theorem bankSignal_keeps (s : State) (core ms inc : Nat) {s0 : State} (hk : Keeps true s0 s) : Keeps true s0 (bankSignal s core
    ms inc) := by
  dsimp only [bankSignal]
  with_reducible repeat' first
      | assumption | apply signalMs_keeps | apply coreFault_keeps | split | refine keeps_pair (by assumption) ?_

theorem execAccArrival_keeps (idx : Nat) (s : State) {s0 : State} (hk : Keeps true s0 s) {t : State} (h : execAccArrival idx s
    = .next t) : Keeps true s0 t := by
  dsimp only [execAccArrival] at h; cases h
  with_reducible repeat' first
      | assumption | apply dropMsg_keeps | apply ackAcc_keeps | apply modCore_keeps | apply bankSignal_keeps | split
      | refine keeps_pair (by assumption) ?_ | dsimp only [id] | simp only [↓keeps_mk]

theorem combineAbandon_keeps (s : State) (dst cslot code src : Nat) {s0 : State} (hk : Keeps true s0 s) : Keeps true s0
    (combineAbandon s dst cslot code src) := by
  dsimp only [combineAbandon]
  with_reducible repeat' first | assumption | apply modCore_keeps | apply coreFault_keeps | split | simp only [↓keeps_mk]

theorem combineTake_keeps (s : State) (dst cslot index seg : Nat) (data : List Byte) {s0 : State} (hk : Keeps true s0 s) :
    Keeps true s0 (combineTake s dst cslot index seg data) := by
  dsimp only [combineTake]
  with_reducible repeat' first
      | assumption | apply modCore_keeps | apply bankSignal_keeps | refine keeps_foldl ?_ (fun _ _ _ => ?_)
      | refine keeps_foldl1 ?_ (fun _ _ _ => ?_) | split | refine keeps_pair (by assumption) ?_ | simp only [↓keeps_mk]

theorem execAccOrdArrival_keeps (idx : Nat) (s : State) {s0 : State} (hk : Keeps true s0 s) {t : State} (h : execAccOrdArrival
    idx s = .next t) : Keeps true s0 t := by
  dsimp only [execAccOrdArrival] at h; cases h
  with_reducible repeat' first
      | assumption | apply dropMsg_keeps | apply ackAcc_keeps | apply combineAbandon_keeps | apply combineTake_keeps | split
      | simp only [↓keeps_mk]

theorem execAccAck_keeps (idx : Nat) (s : State) {s0 : State} (hk : Keeps true s0 s) {t : State} (h : execAccAck idx s = .next
    t) : Keeps true s0 t := by
  dsimp only [execAccAck] at h; cases h
  with_reducible repeat' first
      | assumption | apply dropMsg_keeps | apply lateAnswer_keeps | apply endReq_keeps | apply cwDecrease_keeps
      | apply settle_keeps | apply dmFault_keeps | apply checkAcc_keeps | apply progressed_keeps | split
      | refine keeps_pair (by assumption) ?_ | simp only [↓keeps_mk]

/-! ### Ms -/

theorem msProgress_keeps (s : State) (core : Nat) {s0 : State} (hk : Keeps true s0 s) : Keeps true s0 (msProgress s core) := by
  dsimp only [msProgress]
  with_reducible repeat' first | assumption | apply finishEnt_keeps | split | simp only [↓keeps_mk]

theorem sendMs_keeps (s : State) (core : Nat) (e : WEnt) (m : Msg) {wr : Bool} {s0 : State} (hk : Keeps wr s0 s) : Keeps wr s0
    (sendMs s core e m) := by
  dsimp only [sendMs]
  with_reducible repeat' first
      | assumption | apply postMsg_keeps | apply modEnt_keeps | split | dsimp only [id] | simp only [↓keeps_mk]

theorem sendRemote_keeps (s : State) (core : Nat) (e : WEnt) {s0 : State} (hk : Keeps true s0 s) : Keeps true s0 (sendRemote s
    core e) := by
  dsimp only [sendRemote]
  with_reducible repeat' first
      | assumption | apply sendMs_keeps | apply modEnt_keeps | apply coreFault_keeps | split
      | refine sendRequest_keeps _ _ _ ?_ (by assumption) | dsimp only [id] | simp only [↓keeps_mk]

theorem startAdd_keeps (s : State) (core : Nat) (e : WEnt) {s0 : State} (hk : Keeps true s0 s) : Keeps true s0 (startAdd s core
    e) := by
  dsimp only [startAdd]
  with_reducible repeat' first
      | assumption | apply finishEnt_keeps | apply modCore_keeps | apply sendRemote_keeps | apply modEnt_keeps
      | apply signalMs_keeps | apply coreFault_keeps | apply sendMs_keeps | split | refine keeps_pair (by assumption) ?_
      | dsimp only [id] | simp only [↓keeps_mk]

theorem startArrive_keeps (s : State) (core : Nat) (e : WEnt) {s0 : State} (hk : Keeps true s0 s) : Keeps true s0 (startArrive
    s core e) := by
  dsimp only [startArrive]
  with_reducible repeat' first
      | assumption | apply coreFault_keeps | apply modEnt_keeps | apply putMile_keeps | apply sendMs_keeps | split
      | dsimp only [id] | simp only [↓keeps_mk]

theorem startMs_keeps (s : State) (core : Nat) (e : WEnt) {s0 : State} (hk : Keeps true s0 s) : Keeps true s0 (startMs s core
    e) := by
  dsimp only [startMs]
  with_reducible repeat' first
      | assumption | apply progressed_keeps | apply putMile_keeps | apply finishEnt_keeps | apply startAdd_keeps
      | apply startArrive_keeps | split

theorem startMsNext_keeps (s : State) (core : Nat) {s0 : State} (hk : Keeps true s0 s) : Keeps true s0 (startMsNext s core) :=
    by
  dsimp only [startMsNext]
  with_reducible repeat' first | assumption | apply msProgress_keeps | apply startMs_keeps | split | simp only [↓keeps_mk]

theorem msWork_keeps (s : State) (core op : Nat) {s0 : State} (hk : Keeps true s0 s) : Keeps true s0 (msWork s core op) := by
  dsimp only [msWork]
  with_reducible repeat' first
      | assumption | apply msProgress_keeps | apply sendRemote_keeps | apply startMs_keeps | split | simp only [↓keeps_mk]

theorem execMsSet_keeps (core : CoreId) (ph : Phase) (s : State) {s0 : State} (hk : Keeps true s0 s) {t : State} (h : execMsSet
    core ph s = .next t) : Keeps true s0 t := by
  dsimp only [execMsSet] at h; cases h
  with_reducible repeat' first | assumption | apply dispatchAs_keeps | apply msWork_keeps | split | simp only [↓keeps_mk]

theorem execMsAdd_keeps (core : CoreId) (ph : Phase) (s : State) {s0 : State} (hk : Keeps true s0 s) {t : State} (h : execMsAdd
    core ph s = .next t) : Keeps true s0 t := by
  dsimp only [execMsAdd] at h; cases h
  with_reducible repeat' first | assumption | apply dispatchAs_keeps | apply msWork_keeps | split | simp only [↓keeps_mk]

theorem execMsBinit_keeps (core : CoreId) (ph : Phase) (s : State) {s0 : State} (hk : Keeps true s0 s) {t : State} (h :
    execMsBinit core ph s = .next t) : Keeps true s0 t := by
  dsimp only [execMsBinit] at h; cases h
  with_reducible repeat' first | assumption | apply dispatchAs_keeps | apply msWork_keeps | split | simp only [↓keeps_mk]

theorem execMsArrive_keeps (core : CoreId) (ph : Phase) (s : State) {s0 : State} (hk : Keeps true s0 s) {t : State} (h :
    execMsArrive core ph s = .next t) : Keeps true s0 t := by
  dsimp only [execMsArrive] at h; cases h
  with_reducible repeat' first | assumption | apply dispatchAs_keeps | apply msWork_keeps | split | simp only [↓keeps_mk]

theorem execMsTwait_keeps (core : CoreId) (ph : Phase) (s : State) {s0 : State} (hk : Keeps true s0 s) {t : State} (h :
    execMsTwait core ph s = .next t) : Keeps true s0 t := by
  dsimp only [execMsTwait] at h; cases h
  with_reducible repeat' first | assumption | apply dispatchAs_keeps | apply msWork_keeps | split | simp only [↓keeps_mk]

theorem execTwaitExpiry_keeps (core : CoreId) (s : State) {s0 : State} (hk : Keeps true s0 s) {t : State} (h : execTwaitExpiry
    core s = .next t) : Keeps true s0 t := by
  dsimp only [execTwaitExpiry] at h; cases h
  with_reducible repeat' first
      | assumption | apply addEvent_keeps | apply modEnt_keeps | apply retire_keeps | apply signalOwn_keeps | split
      | dsimp only [id] | simp only [↓keeps_mk]

theorem ackLocal_keeps (s : State) (q : Msg) (src home code : Nat) {wr : Bool} {s0 : State} (hk : Keeps wr s0 s) : Keeps wr s0
    (ackLocal s q src home code) := by
  dsimp only [ackLocal]
  with_reducible repeat' first | assumption | apply postMsg_keeps | split | simp only [↓keeps_mk]

theorem execMsAddArrival_keeps (idx : Nat) (s : State) {s0 : State} (hk : Keeps true s0 s) {t : State} (h : execMsAddArrival
    idx s = .next t) : Keeps true s0 t := by
  dsimp only [execMsAddArrival] at h; cases h
  with_reducible repeat' first
      | assumption | apply dropMsg_keeps | apply ackLocal_keeps | apply signalMs_keeps | apply msProgress_keeps | split
      | refine keeps_pair (by assumption) ?_ | simp only [↓keeps_mk]

theorem msAcked_keeps (s : State) (core req code target : Nat) (remote : Bool) {s0 : State} (hk : Keeps true s0 s) : Keeps true
    s0 (msAcked s core req code target remote) := by
  dsimp only [msAcked]
  with_reducible repeat' first
      | assumption | apply modCore_keeps | apply modEnt_keeps | apply coreFault_keeps | apply progressed_keeps
      | apply msProgress_keeps | apply finishEnt_keeps | split | dsimp only [id] | simp only [↓keeps_mk]

theorem execMsAddAck_keeps (idx : Nat) (s : State) {s0 : State} (hk : Keeps true s0 s) {t : State} (h : execMsAddAck idx s =
    .next t) : Keeps true s0 t := by
  dsimp only [execMsAddAck] at h; cases h
  with_reducible repeat' first
      | assumption | apply dropMsg_keeps | apply lateAnswer_keeps | apply msAcked_keeps | apply settleOut_keeps | split
      | refine keeps_pair (by assumption) ?_ | simp only [↓keeps_mk]

theorem logHeld_keeps (s : State) (h : Held) {wr : Bool} {s0 : State} (hk : Keeps wr s0 s) : Keeps wr s0 (logHeld s h) := by
  dsimp only [logHeld]
  with_reducible repeat' first | assumption | split | simp only [↓keeps_mk]

theorem logLimit_keeps (s : State) (d ctx : Nat) {wr : Bool} {s0 : State} (hk : Keeps wr s0 s) : Keeps wr s0 (logLimit s d ctx)
    := by
  dsimp only [logLimit]
  with_reducible repeat' first | assumption | apply beginSave_keeps | split

theorem logChange_keeps (s : State) (core ms inc ctx : Nat) (last : Word) {wr : Bool} {s0 : State} (hk : Keeps wr s0 s) : Keeps
    wr s0 (logChange s core ms inc ctx last) := by
  dsimp only [logChange]
  with_reducible repeat' first | assumption | apply logLimit_keeps | apply logHeld_keeps | split

theorem holdSignal_keeps (s : State) (core ms inc ctx : Nat) (last : Word) {wr : Bool} {s0 : State} (hk : Keeps wr s0 s) :
    Keeps wr s0 (holdSignal s core ms inc ctx last).1 := by
  dsimp only [holdSignal]
  with_reducible repeat' first | assumption | split | simp only [↓keeps_mk]

theorem deliverSignal_keeps (s : State) (ctx core ms inc : Nat) (last : Word) (logged : Bool) {s0 : State} (hk : Keeps true s0
    s) : Keeps true s0 (deliverSignal s ctx core ms inc last logged).1 := by
  dsimp only [deliverSignal]
  with_reducible repeat' first
      | assumption | apply signalMs_keeps | apply msProgress_keeps | apply logChange_keeps | apply holdSignal_keeps | split
      | refine keeps_pair (by assumption) ?_

theorem execRemoteAddArrival_keeps (idx : Nat) (s : State) {s0 : State} (hk : Keeps true s0 s) {t : State} (h :
    execRemoteAddArrival idx s = .next t) : Keeps true s0 t := by
  dsimp only [execRemoteAddArrival] at h; cases h
  with_reducible repeat' first
      | assumption | apply dropMsg_keeps | apply sendAnswer_keeps | apply addEvent_keeps | apply deliverSignal_keeps | split
      | refine keeps_pair (by assumption) ?_ | simp only [↓keeps_mk]

theorem execAddRetry_keeps (core : CoreId) (s : State) {s0 : State} (hk : Keeps true s0 s) {t : State} (h : execAddRetry core s
    = .next t) : Keeps true s0 t := by
  dsimp only [execAddRetry] at h; cases h
  with_reducible repeat' first | assumption | apply coreFault_keeps | apply sendRemote_keeps | split | simp only [↓keeps_mk]

theorem completeRound_keeps (s : State) (core ms : Nat) {wr : Bool} {s0 : State} (hk : Keeps wr s0 s) : Keeps wr s0
    (completeRound s core ms) := by
  dsimp only [completeRound]
  with_reducible repeat' first
      | assumption | apply putMile_keeps | apply postMsg_keeps | refine keeps_foldl ?_ (fun _ _ _ => ?_)
      | refine keeps_foldl1 ?_ (fun _ _ _ => ?_) | split | simp only [↓keeps_mk]

theorem execBarrierArrival_keeps (idx : Nat) (s : State) {wr : Bool} {s0 : State} (hk : Keeps wr s0 s) {t : State} (h :
    execBarrierArrival idx s = .next t) : Keeps wr s0 t := by
  dsimp only [execBarrierArrival] at h; cases h
  with_reducible repeat' first
      | assumption | apply completeRound_keeps | apply dropMsg_keeps | apply ackLocal_keeps | apply putMile_keeps | split
      | simp only [↓keeps_mk]

theorem execBarrierRoundComplete_keeps (core : CoreId) (ms : Fin 48) (s : State) {wr : Bool} {s0 : State} (hk : Keeps wr s0 s)
    {t : State} (h : execBarrierRoundComplete core ms s = .next t) : Keeps wr s0 t := by
  dsimp only [execBarrierRoundComplete] at h; cases h
  with_reducible repeat' first | assumption | apply completeRound_keeps | split

theorem execBarrierReleaseArrival_keeps (idx : Nat) (s : State) {s0 : State} (hk : Keeps true s0 s) {t : State} (h :
    execBarrierReleaseArrival idx s = .next t) : Keeps true s0 t := by
  dsimp only [execBarrierReleaseArrival] at h; cases h
  with_reducible repeat' first
      | assumption | apply dropMsg_keeps | apply signalMs_keeps | apply msProgress_keeps | apply coreFault_keeps | split
      | refine keeps_pair (by assumption) ?_ | simp only [↓keeps_mk]

theorem execInstructionStart_keeps (core : CoreId) (eng : Fin 6) (s : State) {s0 : State} (hk : Keeps true s0 s) {t : State} (h
    : execInstructionStart core eng s = .next t) : Keeps true s0 t := by
  dsimp only [execInstructionStart] at h; cases h
  with_reducible repeat' first
      | assumption | apply startSeqAs_keeps | apply startLrNext_keeps | apply startOpNext_keeps | apply startVxNext_keeps
      | apply startDmNext_keeps | apply startMsNext_keeps | split | simp only [↓keeps_mk]

/-! ### Context -/

theorem loadRecord_keeps (s : State) (c core : Nat) (m : SMap Byte) (host : Bool) (seq : Nat) (replay : Bool) {wr : Bool} {s0 :
    State} (hk : Keeps wr s0 s) : Keeps wr s0 (loadRecord s c core m host seq replay) := by
  dsimp only [loadRecord]
  with_reducible repeat' first | assumption | apply modCore_keeps | apply reject_keeps | split | simp only [↓keeps_mk]

theorem regather_keeps (s : State) (core : Nat) {wr : Bool} {s0 : State} (hk : Keeps wr s0 s) : Keeps wr s0 (regather s core)
    := by
  dsimp only [regather]
  with_reducible repeat' first
      | assumption | apply modCore_keeps | refine keeps_foldl ?_ (fun _ _ _ => ?_) | refine keeps_foldl1 ?_ (fun _ _ _ => ?_)
      | split | simp only [↓keeps_mk]

theorem applySignals_keeps (s : State) (fresh : Bool) (l : List Held) {wr : Bool} {s0 : State} (hk : Keeps wr s0 s) : Keeps wr s0
    (applySignals s fresh l).1 := by
  induction l generalizing s with
  | nil => exact hk
  | cons h l ih =>
    dsimp only [applySignals]
    with_reducible repeat' first
        | assumption | apply ih | apply logHeld_keeps | apply signalMs_keeps | split | refine keeps_pair (by assumption) ?_

theorem rewindLists_keeps (s : State) (c : Nat) {wr : Bool} {s0 : State} (hk : Keeps wr s0 s) : Keeps wr s0 (rewindLists s c)
    := by
  dsimp only [rewindLists]
  with_reducible repeat' first | assumption | apply modCtx_keeps | split | simp only [↓keeps_mk]

theorem resumeLists_keeps (s : State) (c : Nat) {wr : Bool} {s0 : State} (hk : Keeps wr s0 s) : Keeps wr s0 (resumeLists s c)
    := by
  dsimp only [resumeLists]
  with_reducible repeat' first | assumption | apply modCtx_keeps | split | simp only [↓keeps_mk]

theorem restoreFrom_keeps (s : State) (c : Nat) (replay : Bool) (image : Option (Nat × SMap Byte)) {wr : Bool} {s0 : State} (hk
    : Keeps wr s0 s) {t : State} (h : restoreFrom s c replay image = .ok t) : Keeps wr s0 t := by
  unfold restoreFrom at h
  split at h
  · cases h
  · extract_lets at h
    split at h
    · cases h
    · rename_i r _ _
      clear_value r
      cases r
      · cases h
      · cases h
        with_reducible repeat' first
          | assumption | apply regather_keeps | apply loadRecord_keeps | refine keeps_foldl ?_ (fun _ _ _ => ?_)

theorem restoreImage_keeps (s : State) (c : Nat) (replay : Bool) {wr : Bool} {s0 : State} (hk : Keeps wr s0 s) {t : State} (h :
    restoreImage s c replay = .ok t) : Keeps wr s0 t := restoreFrom_keeps _ _ _ _ hk h

theorem restoreFault_keeps (s : State) (c : Nat) (e : Code × Nat) {wr : Bool} {s0 : State} (hk : Keeps wr s0 s) : Keeps wr s0
    (restoreFault s c e) := by
  dsimp only [restoreFault]
  with_reducible repeat' first | assumption | apply recordFault_keeps | split

theorem dropHeld_keeps (s : State) (c : Nat) {wr : Bool} {s0 : State} (hk : Keeps wr s0 s) : Keeps wr s0 (dropHeld s c) := by
  dsimp only [dropHeld]
  with_reducible repeat' first | assumption | split | simp only [↓keeps_mk]

theorem holdAgain_keeps (s : State) (h : Held) {wr : Bool} {s0 : State} (hk : Keeps wr s0 s) : Keeps wr s0 (holdAgain s h) :=
    by
  dsimp only [holdAgain]
  with_reducible repeat' first | assumption | split | simp only [↓keeps_mk]

theorem goRunning_keeps (s : State) (c : Nat) (logged : List Held) {s0 : State} (hk : Keeps true s0 s) : Keeps true s0
    (goRunning s c logged) := by
  dsimp only [goRunning]
  with_reducible repeat' first
      | assumption | apply resumeLists_keeps | apply modCtx_keeps | apply applySignals_keeps | apply coreFault_keeps
      | apply dropHeld_keeps | apply holdAgain_keeps | apply logLimit_keeps | apply checkReject_keeps | apply settle_keeps
      | apply checkDone_keeps | refine keeps_foldl ?_ (fun _ _ _ => ?_) | refine keeps_foldl1 ?_ (fun _ _ _ => ?_) | split
      | refine keeps_pair (by assumption) ?_ | simp only [↓keeps_mk]

theorem enterRunning_keeps (s : State) (c : Nat) (replay : Bool) {s0 : State} (hk : Keeps true s0 s) : Keeps true s0
    (enterRunning s c replay) := by
  dsimp only [enterRunning]
  with_reducible repeat' first | assumption | apply goRunning_keeps | apply modCtx_keeps | split | simp only [↓keeps_mk]

theorem enterHalted_keeps (s : State) (c code core : Nat) {wr : Bool} {s0 : State} (hk : Keeps wr s0 s) : Keeps wr s0
    (enterHalted s c code core) := by
  dsimp only [enterHalted]
  with_reducible repeat' first
      | assumption | apply completeRun_keeps | apply modCtx_keeps | apply vacate_keeps | split | simp only [↓keeps_mk]

theorem replayWith_keeps (s : State) (c : Nat) (r : Except (Code × Nat) State) {s0 : State} (hk : Keeps true s0 s) (ha : ∀ t, r
    = .ok t → Keeps true s0 t) : Keeps true s0 (replayWith s c r) := by
  cases r with
  | error e => exact enterHalted_keeps _ _ _ _ (restoreFault_keeps _ _ _ hk)
  | ok t =>
    unfold replayWith
    dsimp only
    split
    · exact enterHalted_keeps _ _ _ _ (ha t rfl)
    · exact enterRunning_keeps _ _ _ (bump32_keeps _ _ _ _ (rewindLists_keeps _ _ (ha t rfl)))

theorem doReplay_keeps (s : State) (c : Nat) {s0 : State} (hk : Keeps true s0 s) : Keeps true s0 (doReplay s c) := by
  unfold doReplay
  have ha := keeps_foldl (l := (getCtx s c).cores) (f := shadowAbandon) hk (fun _ _ h => shadowAbandon_keeps _ _ h)
  exact replayWith_keeps _ _ _ ha (fun t ht => restoreImage_keeps _ _ _ ha ht)

theorem imageFault_keeps (s : State) (c : Nat) (f : Code) {s0 : State} (hk : Keeps true s0 s) : Keeps true s0 (imageFault s c
    f) := by
  dsimp only [imageFault]
  with_reducible repeat' first | assumption | apply coreFault_keeps | split

theorem writeHeader_keeps (s : State) (x : Ctx) (base : Nat) (l : List Byte) {s0 : State} (hk : Keeps true s0 s) : Keeps true
    s0 (writeHeader s x base l).1 := by
  dsimp only [writeHeader]
  with_reducible repeat' first | assumption | apply writeRangeAt_keeps | apply dropOwn_keeps | split

theorem orCode_keeps (a : Option Code) (r : State × Option Code) {wr : Bool} {s0 : State} (hk : Keeps wr s0 r.1) : Keeps wr s0
    (orCode a r).1 := by
  dsimp only [orCode]
  with_reducible repeat' first | assumption | split

theorem writeRecords_keeps (t : State × Option Code) (x : Ctx) (base : Nat) {s0 : State} (hk : Keeps true s0 t.1) : Keeps true
    s0 (writeRecords t x base).1 := by
  dsimp only [writeRecords]
  with_reducible repeat' first
      | assumption | apply dropOwn_keeps | apply orCode_keeps | apply writeSparse_keeps | refine keeps_foldl ?_ (fun _ _ _ => ?_)
      | refine keeps_foldl1 ?_ (fun _ _ _ => ?_)

theorem execPreemptPhase1Done_keeps (c : CtxId) (s : State) {s0 : State} (hk : Keeps true s0 s) {t : State} (h :
    execPreemptPhase1Done c s = .next t) : Keeps true s0 t := by
  dsimp only [execPreemptPhase1Done] at h; cases h
  with_reducible repeat' first
      | assumption | apply writeRecords_keeps | apply writeHeader_keeps | apply imageFault_keeps | apply modCtx_keeps | split
      | simp only [↓keeps_mk]

theorem imageReleases_keeps (s : State) (c : Nat) {wr : Bool} {s0 : State} (hk : Keeps wr s0 s) : Keeps wr s0 (imageReleases s
    c) := by
  dsimp only [imageReleases]
  with_reducible repeat' first
      | assumption | apply modCore_keeps | apply modCtx_keeps | refine keeps_foldl ?_ (fun _ _ _ => ?_)
      | refine keeps_foldl1 ?_ (fun _ _ _ => ?_) | split | simp only [↓keeps_mk]

theorem runOn_keeps (s : State) (c : Nat) {s0 : State} (hk : Keeps true s0 s) : Keeps true s0 (runOn s c) := by
  dsimp only [runOn]
  with_reducible repeat' first
      | assumption | apply goRunning_keeps | apply wakeEngines_keeps | apply modCore_keeps
      | refine keeps_foldl ?_ (fun _ _ _ => ?_) | refine keeps_foldl1 ?_ (fun _ _ _ => ?_) | split | simp only [↓keeps_mk]

theorem leaveIdle_keeps (s : State) (c : Nat) {wr : Bool} {s0 : State} (hk : Keeps wr s0 s) : Keeps wr s0 (leaveIdle s c) := by
  dsimp only [leaveIdle]
  with_reducible repeat' first
      | assumption | apply modCtx_keeps | apply vacate_keeps | apply completePreempt_keeps | apply completeRun_keeps | split
      | simp only [↓keeps_mk]

theorem execImageComplete_keeps (c : CtxId) (s : State) {s0 : State} (hk : Keeps true s0 s) {t : State} (h : execImageComplete
    c s = .next t) : Keeps true s0 t := by
  unfold execImageComplete at h
  extract_lets x at h
  injection h with h
  subst h
  split
  · exact hk
  · split
    · exact hk
    · rename_i v _ _
      have ha := writeHeader_keeps s x (slotAt x (freeImageSlot s c)) (newHeader s c v) hk
      generalize writeHeader s x (slotAt x (freeImageSlot s c)) (newHeader s c v) = w at ha
      obtain ⟨s1, f⟩ := w
      dsimp only
      split
      · exact imageFault_keeps _ _ _ ha
      · have hb := imageReleases_keeps s1 c ha
        generalize imageReleases s1 c = s2 at hb
        split
        · exact completePreempt_keeps _ _ _ _ (enterHalted_keeps _ _ _ _ hb)
        · split
          · exact leaveIdle_keeps _ _ hb
          · split
            · exact startTest_keeps _ _ _ _ (modCtx_keeps _ _ _ (vacate_keeps _ _ hb))
            · exact runOn_keeps _ _ hb

end Sys2Proof.Machine
end

