-- ==== Sys2Proof/Laws/KeepsChip.lean ====
section
/-!
SUPPORT. The frame lemmas (Keeps) of posts, drains, memory, kerbside engines, collectives, fault hiding and the interchange.
-/

namespace Sys2Proof.Machine

/-! ### Posts -/

theorem rejectPost_keeps (s : State) (p c : Nat) (code : Code) (seq cookie : Nat) {wr : Bool} {s0 : State} (hk : Keeps wr s0 s)
    : Keeps wr s0 (rejectPost s p c code seq cookie) := by
  dsimp only [rejectPost]
  with_reducible repeat' first | assumption | apply queueNotice_keeps | split

theorem takeNread_keeps (s : State) (p n : Nat) {wr : Bool} {s0 : State} (hk : Keeps wr s0 s) : Keeps wr s0 (takeNread s p n)
    := by
  dsimp only [takeNread]
  with_reducible repeat' first | assumption | apply modPart_keeps | split | simp only [↓keeps_mk]

theorem returnCredit_keeps (s : State) (c : Nat) {wr : Bool} {s0 : State} (hk : Keeps wr s0 s) : Keeps wr s0 (returnCredit s c)
    := by
  dsimp only [returnCredit]
  with_reducible repeat' first | assumption | apply modCtx_keeps | split | simp only [↓keeps_mk]

theorem endUndefined_keeps (s : State) (c n : Nat) {wr : Bool} {s0 : State} (hk : Keeps wr s0 s) : Keeps wr s0 (endUndefined s
    c n) := by
  induction n generalizing s with
  | zero => exact hk
  | succ n ih =>
    simp only [endUndefined]
    with_reducible repeat' first
      | assumption | apply ih | apply addEvent_keeps | apply returnCredit_keeps | apply modCtx_keeps
      | apply completePost_keeps | split

theorem endUndefinedAll_keeps (s : State) (c : Nat) {wr : Bool} {s0 : State} (hk : Keeps wr s0 s) : Keeps wr s0
    (endUndefinedAll s c) := by
  dsimp only [endUndefinedAll]
  with_reducible repeat' first | assumption | apply endUndefined_keeps | split

theorem takePost_keeps (s : State) (c op : Nat) (act : State → PostRef → List Byte → State) {wr : Bool} {s0 : State} (hk :
    Keeps wr s0 s) (ha : ∀ s' r d, Keeps wr s0 s' → Keeps wr s0 (act s' r d)) : Keeps wr s0 (takePost s c op act) := by
  dsimp only [takePost]
  with_reducible repeat' first
      | assumption | apply ha | apply addEvent_keeps | apply returnCredit_keeps | apply modCtx_keeps
      | apply endUndefinedAll_keeps | apply completePost_keeps | split | simp only [↓keeps_mk]

theorem takePostIf_keeps (s : State) (c op : Nat) (ready : List Byte → Bool) (act : State → PostRef → List Byte → State) {wr :
    Bool} {s0 : State} (hk : Keeps wr s0 s) (ha : ∀ s' r d, Keeps wr s0 s' → Keeps wr s0 (act s' r d)) : Keeps wr s0 (takePostIf
    s c op ready act) := by
  unfold takePostIf
  split
  · exact hk
  · split
    · exact hk
    · exact takePost_keeps _ _ _ _ hk ha

theorem acceptPost_keeps (s : State) (p c : Nat) (d : List Byte) {wr : Bool} {s0 : State} (hk : Keeps wr s0 s) : Keeps wr s0
    (acceptPost s p c d) := by
  dsimp only [acceptPost]
  with_reducible repeat' first
      | assumption | apply takeNread_keeps | apply modCtx_keeps | apply completePost_keeps | apply addEvent_keeps
      | apply endUndefinedAll_keeps | split | simp only [↓keeps_mk]

theorem arrivePost_keeps (s : State) (p c off : Nat) (d : List Byte) {wr : Bool} {s0 : State} (hk : Keeps wr s0 s) : Keeps wr
    s0 (arrivePost s p c off d) := by
  dsimp only [arrivePost]
  with_reducible repeat' first
      | assumption | apply bump32_keeps | apply rejectPost_keeps | apply acceptPost_keeps | split | simp only [↓keeps_mk]

theorem execPostArrival_keeps (p : PartId) (c : CtxId) (off : BitVec 16) (data : List Byte) (s : State) {wr : Bool} {s0 :
    State} (hk : Keeps wr s0 s) {t : State} (h : execPostArrival p c off data s = .next t) : Keeps wr s0 t := by
  dsimp only [execPostArrival] at h; cases h
  with_reducible repeat' first | assumption | apply arrivePost_keeps | split

theorem execNop_keeps (p : PartId) (c : CtxId) (off : BitVec 12) (data : List Byte) (s : State) {wr : Bool} {s0 : State} (hk :
    Keeps wr s0 s) {t : State} (h : execNop p c off data s = .next t) : Keeps wr s0 t := by
  dsimp only [execNop] at h; cases h
  with_reducible repeat' first | assumption | apply arrivePost_keeps | split

theorem execCreditNotice_keeps (c : CtxId) (s : State) {wr : Bool} {s0 : State} (hk : Keeps wr s0 s) {t : State} (h :
    execCreditNotice c s = .next t) : Keeps wr s0 t := by
  dsimp only [execCreditNotice] at h; cases h
  with_reducible repeat' first | assumption | apply ctxNotice_keeps | split

theorem sendMsix_keeps (s : State) (p v : Nat) {wr : Bool} {s0 : State} (hk : Keeps wr s0 s) : Keeps wr s0 (sendMsix s p v) :=
    by
  dsimp only [sendMsix]
  with_reducible repeat' first
      | assumption | apply setPart_keeps | split | refine keeps_pair (by assumption) ?_ | simp only [↓keeps_mk]

theorem dequeueNotice_keeps (s : State) (p : Nat) {wr : Bool} {s0 : State} (hk : Keeps wr s0 s) : Keeps wr s0 (dequeueNotice s
    p) := by
  dsimp only [dequeueNotice]
  with_reducible repeat' first
      | assumption | apply modCtx_keeps | apply setPart_keeps | apply sendMsix_keeps | split | simp only [↓keeps_mk]

theorem execNoticeDequeue_keeps (p : PartId) (s : State) {wr : Bool} {s0 : State} (hk : Keeps wr s0 s) {t : State} (h :
    execNoticeDequeue p s = .next t) : Keeps wr s0 t := by
  dsimp only [execNoticeDequeue] at h; cases h
  with_reducible repeat' first | assumption | apply dequeueNotice_keeps | split

theorem flushNotices_keeps (s : State) (p n : Nat) {wr : Bool} {s0 : State} (hk : Keeps wr s0 s) : Keeps wr s0 (flushNotices s
    p n) := by
  induction n generalizing s with
  | zero => exact hk
  | succ n ih =>
    simp only [flushNotices]
    with_reducible repeat' first | assumption | apply ih | apply dequeueNotice_keeps

theorem execMsiXUnmask_keeps (p : PartId) (v : Fin 8) (s : State) {wr : Bool} {s0 : State} (hk : Keeps wr s0 s) {t : State} (h
    : execMsiXUnmask p v s = .next t) : Keeps wr s0 t := by
  dsimp only [execMsiXUnmask] at h; cases h
  with_reducible repeat' first | assumption | apply setPart_keeps | split | simp only [↓keeps_mk]

theorem execNoticeArea_keeps (c : CtxId) (s : State) {wr : Bool} {s0 : State} (hk : Keeps wr s0 s) {t : State} (h :
    execNoticeArea c s = .next t) : Keeps wr s0 t := by
  dsimp only [execNoticeArea] at h; cases h
  with_reducible repeat' first
      | assumption | apply takePost_keeps | apply completePost_keeps | apply modPart_keeps | apply dequeueNotice_keeps | split
      | intro _ | simp only [↓keeps_mk]

theorem execWindow_keeps (c : CtxId) (s : State) {wr : Bool} {s0 : State} (hk : Keeps wr s0 s) {t : State} (h : execWindow c s
    = .next t) : Keeps wr s0 t := by
  dsimp only [execWindow] at h; cases h
  with_reducible repeat' first
      | assumption | apply takePost_keeps | apply completePost_keeps | apply modPart_keeps | split | intro _
      | simp only [↓keeps_mk]

theorem createAct_keeps (s : State) (c : Nat) (r : PostRef) (d : List Byte) {s0 : State} (hk : Keeps true s0 s) : Keeps true s0
    (createAct s c r d) := by
  dsimp only [createAct]
  with_reducible repeat' first
      | assumption | apply completePost_keeps | apply setCtx_keeps | apply writeLater_keeps | split | simp only [↓keeps_mk]

theorem execCreate_keeps (c : CtxId) (s : State) {s0 : State} (hk : Keeps true s0 s) {t : State} (h : execCreate c s = .next t)
    : Keeps true s0 t := by
  dsimp only [execCreate] at h; cases h
  with_reducible repeat' first | assumption | apply takePostIf_keeps | apply createAct_keeps | split | intro _

theorem execPreempt_keeps (c : CtxId) (s : State) {wr : Bool} {s0 : State} (hk : Keeps wr s0 s) {t : State} (h : execPreempt c
    s = .next t) : Keeps wr s0 t := by
  dsimp only [execPreempt] at h; cases h
  with_reducible repeat' first
      | assumption | apply takePost_keeps | apply completePost_keeps | apply addTie_keeps | apply modCtx_keeps
      | apply beginSave_keeps | split | intro _ | simp only [↓keeps_mk]

theorem execSignal_keeps (c : CtxId) (s : State) {s0 : State} (hk : Keeps true s0 s) {t : State} (h : execSignal c s = .next t)
    : Keeps true s0 t := by
  dsimp only [execSignal] at h; cases h
  with_reducible repeat' first
      | assumption | apply takePost_keeps | apply completePost_keeps | apply deliverSignal_keeps | split
      | refine keeps_pair (by assumption) ?_ | intro _ | simp only [↓keeps_mk]

theorem startFlush_keeps (s : State) (die : Nat) (f : RlcFlush) {wr : Bool} {s0 : State} (hk : Keeps wr s0 s) : Keeps wr s0
    (startFlush s die f) := by
  dsimp only [startFlush]
  with_reducible repeat' first | assumption | apply setRlc_keeps | apply dropLines_keeps | split | simp only [↓keeps_mk]

theorem execFlush_keeps (c : CtxId) (s : State) {wr : Bool} {s0 : State} (hk : Keeps wr s0 s) {t : State} (h : execFlush c s =
    .next t) : Keeps wr s0 t := by
  dsimp only [execFlush] at h; cases h
  with_reducible repeat' first
      | assumption | apply takePost_keeps | apply completePost_keeps | apply modCtx_keeps | apply startFlush_keeps
      | refine keeps_foldl ?_ (fun _ _ _ => ?_) | refine keeps_foldl1 ?_ (fun _ _ _ => ?_) | split | intro _
      | simp only [↓keeps_mk]

theorem bar4Block_keeps (s : State) (part addr : Nat) (l : List Byte) {s0 : State} (hk : Keeps true s0 s) : Keeps true s0
    (bar4Block s part addr l).1 := by
  unfold bar4Block
  generalize (cacheFail s addr).or (accessFail s part addr) = c
  cases c
  · extract_lets pl
    clear_value pl
    exact writeGranules_keeps _ _ _ _ _ _ hk
  · exact hk

theorem bar4Store_keeps (s : State) (part addr : Nat) (l : List Byte) {s0 : State} (hk : Keeps true s0 s) : Keeps true s0
    (bar4Store s part addr l).1 := by
  dsimp only [bar4Store]
  with_reducible repeat' first
      | assumption | apply bar4Block_keeps | refine keeps_foldl ?_ (fun _ _ _ => ?_) | refine keeps_foldl1 ?_ (fun _ _ _ => ?_)
      | split | refine keeps_pair (by assumption) ?_

theorem bar4DoRead_keeps (s : State) (p off len : Nat) {wr : Bool} {s0 : State} (hk : Keeps wr s0 s) : Keeps wr s0
    (bar4Do s (.read p off len)) := by
  dsimp only [bar4Do]
  with_reducible repeat' first | assumption | apply bump32_keeps | split | simp only [↓keeps_mk]

theorem bar4DoWrite_keeps (s : State) (p off : Nat) (data : List Byte) {s0 : State} (hk : Keeps true s0 s) : Keeps true s0
    (bar4Do s (.write p off data)) := by
  have h := bar4Store_keeps s p (bar4Addr s p off) data hk
  rw [bar4Do.eq_2]
  generalize bar4Store s p (bar4Addr s p off) data = r at h
  obtain ⟨u, ok⟩ := r
  dsimp only at h ⊢
  with_reducible repeat' first | assumption | apply bump32_keeps | split

theorem bar4Do_keeps (s : State) (a : Bar4Acc) {s0 : State} (hk : Keeps true s0 s) : Keeps true s0 (bar4Do s a) := by
  cases a with
  | read p off len => exact bar4DoRead_keeps s p off len hk
  | write p off data => exact bar4DoWrite_keeps s p off data hk

theorem bar4Take_keeps (s : State) (a : Bar4Acc) {s0 : State} (hk : Keeps true s0 s) : Keeps true s0 (bar4Take s a) := by
  dsimp only [bar4Take]
  with_reducible repeat' first | assumption | apply bar4Do_keeps | split | simp only [↓keeps_mk]

theorem bar4Run_keeps (n : Nat) (s : State) {s0 : State} (hk : Keeps true s0 s) : Keeps true s0 (bar4Run n s) := by
  induction n generalizing s with
  | zero => exact hk
  | succ n ih =>
    simp only [bar4Run]
    with_reducible repeat' first | assumption | apply ih | apply bar4Do_keeps | split | simp only [↓keeps_mk]

theorem bar4Read_keeps (s : State) (p : PartId) (off len : Nat) {wr : Bool} {s0 : State} (hk : Keeps wr s0 s) : Keeps wr s0
    (bar4Take s (.read p off len)) := by
  dsimp only [bar4Take]
  with_reducible repeat' first | assumption | apply bar4DoRead_keeps | split | simp only [↓keeps_mk]

theorem execBar4Read_keeps (p : PartId) (off : BitVec 36) (len : Nat) (s : State) {wr : Bool} {s0 : State} (hk : Keeps wr s0 s)
    {t : State} (h : execBar4Read p off len s = .next t) : Keeps wr s0 t := by
  dsimp only [execBar4Read] at h; cases h
  with_reducible repeat' first | assumption | apply bar4Read_keeps | split | simp only [↓keeps_mk]

theorem execBar4Write_keeps (p : PartId) (off : BitVec 36) (data : List Byte) (s : State) {s0 : State} (hk : Keeps true s0 s)
    {t : State} (h : execBar4Write p off data s = .next t) : Keeps true s0 t := by
  dsimp only [execBar4Write] at h; cases h
  with_reducible repeat' first | assumption | apply bump32_keeps | apply bar4Take_keeps | split | simp only [↓keeps_mk]

/-! ### Drain -/

theorem fencePosts_keeps (s : State) (c : Nat) {wr : Bool} {s0 : State} (hk : Keeps wr s0 s) : Keeps wr s0 (fencePosts s c) :=
    by
  dsimp only [fencePosts]
  with_reducible repeat' first
      | assumption | apply modCtx_keeps | apply completePost_keeps | apply addEvent_keeps | apply returnCredit_keeps
      | refine keeps_foldl ?_ (fun _ _ _ => ?_) | refine keeps_foldl1 ?_ (fun _ _ _ => ?_) | split | simp only [↓keeps_mk]

theorem drainCtx_keeps (s : State) (c : Nat) {wr : Bool} {s0 : State} (hk : Keeps wr s0 s) : Keeps wr s0 (drainCtx s c) := by
  dsimp only [drainCtx]
  with_reducible repeat' first | assumption | apply beginSave_keeps | apply completeRun_keeps | split | simp only [↓keeps_mk]

theorem endBootDrained_keeps (s : State) {wr : Bool} {s0 : State} (hk : Keeps wr s0 s) : Keeps wr s0 (endBootDrained s) := by
  dsimp only [endBootDrained]
  with_reducible repeat' first | assumption | apply chipNotice_keeps | split | simp only [↓keeps_mk]

theorem beginDrain_keeps (s : State) (cause pg code : Nat) {s0 : State} (hk : Keeps true s0 s) : Keeps true s0 (beginDrain s
    cause pg code) := by
  dsimp only [beginDrain]
  with_reducible repeat' first
      | assumption | apply bump32_keeps | apply recordStep_keeps | apply raise_keeps | apply fencePosts_keeps
      | apply drainCtx_keeps | apply abortRounds_keeps | apply endBootDrained_keeps | refine keeps_foldl ?_ (fun _ _ _ => ?_)
      | refine keeps_foldl1 ?_ (fun _ _ _ => ?_) | split | exact ⟨hk.1, hk.2, hk.3, hk.4, hk.5, hk.6, hk.7, hk.8, hk.9⟩

theorem writeDrainRecord_keeps (s : State) (c : Nat) {s0 : State} (hk : Keeps true s0 s) : Keeps true s0 (writeDrainRecord s c)
    := by
  dsimp only [writeDrainRecord]
  with_reducible repeat' first | assumption | apply writeSparse_keeps | split | refine keeps_pair (by assumption) ?_

theorem endDrainCtx_keeps (s : State) (c : Nat) {s0 : State} (hk : Keeps true s0 s) : Keeps true s0 (endDrainCtx s c) := by
  dsimp only [endDrainCtx]
  with_reducible repeat' first
      | assumption | apply completePreempt_keeps | apply completeRun_keeps | apply modCtx_keeps | apply vacate_keeps
      | apply settleReqs_keeps | refine keeps_foldl ?_ (fun _ _ _ => ?_) | refine keeps_foldl1 ?_ (fun _ _ _ => ?_) | split
      | simp only [↓keeps_mk]

theorem execDrainComplete_keeps (s : State) {s0 : State} (hk : Keeps true s0 s) {t : State} (h : execDrainComplete s = .next t)
    : Keeps true s0 t := by
  unfold execDrainComplete at h
  injection h with h
  subst h
  split
  · exact hk
  · extract_lets a b
    have ha : Keeps true s0 a := keeps_foldl hk (fun _ _ h => endDrainCtx_keeps _ _ h)
    have hb : Keeps true s0 b := keeps_foldl ha (fun _ _ h => writeDrainRecord_keeps _ _ h)
    exact chipNotice_keeps _ _ ((keeps_mk ..).2 hb)

/-! ### Hbm -/

theorem loseStack_keeps (s : State) (k : Nat) {s0 : State} (hk : Keeps true s0 s) : Keeps true s0 (loseStack s k) := by
  dsimp only [loseStack]
  with_reducible repeat' first
      | assumption | apply raise_keeps | apply modStack_keeps | apply beginDrain_keeps | split | simp only [↓keeps_mk]

theorem execStackLost_keeps (stack : StackId) (s : State) {s0 : State} (hk : Keeps true s0 s) {t : State} (h : execStackLost
    stack s = .next t) : Keeps true s0 t := by
  dsimp only [execStackLost] at h; cases h
  with_reducible repeat' first | assumption | apply loseStack_keeps | split

theorem badRow_keeps (s : State) (k ch row : Nat) {s0 : State} (hk : Keeps true s0 s) : Keeps true s0 (badRow s k ch row) := by
  dsimp only [badRow]
  with_reducible repeat' first
      | assumption | apply loseStack_keeps | apply modStack_keeps | apply raise_keeps | split | simp only [↓keeps_mk]

theorem rowEvent_keeps (s : State) (k ch row : Nat) (uncorrectable : Bool) {s0 : State} (hk : Keeps true s0 s) : Keeps true s0
    (rowEvent s k ch row uncorrectable) := by
  dsimp only [rowEvent]
  with_reducible repeat' first
      | assumption | apply raise_keeps | apply badRow_keeps | apply modStack_keeps | split | simp only [↓keeps_mk]

theorem repairRow_keeps (s : State) (k : Nat) (e : Nat × Nat) {wr : Bool} {s0 : State} (hk : Keeps wr s0 s) : Keeps wr s0
    (repairRow s k e) := by
  dsimp only [repairRow]
  with_reducible repeat' first
      | assumption | apply modStack_keeps | apply raise_keeps | apply bump32_keeps | split | simp only [↓keeps_mk]

theorem eccOutcome_keeps (s : State) (chan off : Nat) (ecc : Ecc) {s0 : State} (hk : Keeps true s0 s) : Keeps true s0
    (eccOutcome s chan off ecc) := by
  dsimp only [eccOutcome]
  with_reducible repeat' first
      | assumption | apply setReg_keeps | apply addCorrected_keeps | apply modStack_keeps | apply rowEvent_keeps
      | apply addUncorrected_keeps | split | simp only [↓keeps_mk]

theorem execChannelAccess_keeps (chan : ChanId) (off : Word) (write : Option (List Byte)) (ecc : Ecc) (s : State) {s0 : State}
    (hk : Keeps true s0 s) {t : State} (h : execChannelAccess chan off write ecc s = .next t) : Keeps true s0 t := by
  dsimp only [execChannelAccess] at h; cases h
  with_reducible repeat' first | assumption | apply eccOutcome_keeps | apply writePhys_keeps | split | simp only [↓keeps_mk]

theorem execScrubRead_keeps (stack : StackId) (ecc : Ecc) (s : State) {s0 : State} (hk : Keeps true s0 s) {t : State} (h :
    execScrubRead stack ecc s = .next t) : Keeps true s0 t := by
  dsimp only [execScrubRead] at h; cases h
  with_reducible repeat' first | assumption | apply eccOutcome_keeps | apply modStack_keeps | split | simp only [↓keeps_mk]

theorem execMaintWindowOpen_keeps (chan : ChanId) (s : State) {wr : Bool} {s0 : State} (hk : Keeps wr s0 s) {t : State} (h :
    execMaintWindowOpen chan s = .next t) : Keeps wr s0 t := by
  dsimp only [execMaintWindowOpen] at h; cases h
  with_reducible repeat' first
      | assumption | apply addEvent_keeps | apply modStack_keeps | refine keeps_foldl ?_ (fun _ _ _ => ?_)
      | refine keeps_foldl1 ?_ (fun _ _ _ => ?_) | split | refine keeps_pair (by assumption) ?_ | simp only [↓keeps_mk]

theorem excludeWindow_keeps (s : State) (chan start : Nat) {wr : Bool} {s0 : State} (hk : Keeps wr s0 s) : Keeps wr s0
    (excludeWindow s chan start) := by
  dsimp only [excludeWindow]
  with_reducible repeat' first | assumption | apply modKerb_keeps | split | simp only [↓keeps_mk]

theorem execMaintWindowClose_keeps (chan : ChanId) (s : State) {wr : Bool} {s0 : State} (hk : Keeps wr s0 s) {t : State} (h :
    execMaintWindowClose chan s = .next t) : Keeps wr s0 t := by
  dsimp only [execMaintWindowClose] at h; cases h
  with_reducible repeat' first
      | assumption | apply modStack_keeps | apply excludeWindow_keeps | apply repairRow_keeps
      | refine keeps_foldl ?_ (fun _ _ _ => ?_) | refine keeps_foldl1 ?_ (fun _ _ _ => ?_) | split | simp only [↓keeps_mk]

theorem execMaintWindowAbandon_keeps (chan : ChanId) (s : State) {s0 : State} (hk : Keeps true s0 s) {t : State} (h :
    execMaintWindowAbandon chan s = .next t) : Keeps true s0 t := by
  dsimp only [execMaintWindowAbandon] at h; cases h
  with_reducible repeat' first
      | assumption | apply raise_keeps | apply modStack_keeps | apply excludeWindow_keeps | apply loseStack_keeps | split
      | simp only [↓keeps_mk]

theorem dropFrameAll_keeps (s : State) (f : Nat) {wr : Bool} {s0 : State} (hk : Keeps wr s0 s) : Keeps wr s0 (dropFrameAll s f)
    := by
  dsimp only [dropFrameAll]
  with_reducible repeat' first
      | assumption | apply dropLinesAll_keeps | apply dropFrame_keeps | refine keeps_foldl ?_ (fun _ _ _ => ?_)
      | refine keeps_foldl1 ?_ (fun _ _ _ => ?_) | split

theorem setEntry_keeps (s : State) (f e : Nat) {wr : Bool} {s0 : State} (hk : Keeps wr s0 s) : Keeps wr s0 (setEntry s f e) :=
    by
  dsimp only [setEntry]
  with_reducible repeat' first | assumption | split | simp only [↓keeps_mk]

theorem poisonNext_keeps (s : State) {wr : Bool} {s0 : State} (hk : Keeps wr s0 s) : Keeps wr s0 (poisonNext s) := by
  dsimp only [poisonNext]
  with_reducible repeat' first
      | assumption | apply dropFrameAll_keeps | apply setEntry_keeps | split | refine keeps_pair (by assumption) ?_
      | simp only [↓keeps_mk]

theorem fmStart_keeps (s : State) (p op : Nat) (zero : Bool) {wr : Bool} {s0 : State} (hk : Keeps wr s0 s) : Keeps wr s0
    (fmStart s p op zero) := by
  dsimp only [fmStart]
  with_reducible repeat' first
      | assumption | apply writeReg_keeps | split | refine keeps_pair (by assumption) ?_ | intro _ | simp only [↓keeps_mk]

theorem execFmRead_keeps (p : PartId) (zero : Bool) (s : State) {wr : Bool} {s0 : State} (hk : Keeps wr s0 s) {t : State} (h :
    execFmRead p zero s = .next t) : Keeps wr s0 t := by
  dsimp only [execFmRead] at h; cases h
  with_reducible repeat' first | assumption | apply fmStart_keeps | split

theorem execFmWrite_keeps (p : PartId) (zero : Bool) (s : State) {wr : Bool} {s0 : State} (hk : Keeps wr s0 s) {t : State} (h :
    execFmWrite p zero s = .next t) : Keeps wr s0 t := by
  dsimp only [execFmWrite] at h; cases h
  with_reducible repeat' first | assumption | apply fmStart_keeps | split

theorem execFmInvalidate_keeps (p : PartId) (zero : Bool) (s : State) {wr : Bool} {s0 : State} (hk : Keeps wr s0 s) {t : State}
    (h : execFmInvalidate p zero s = .next t) : Keeps wr s0 t := by
  dsimp only [execFmInvalidate] at h; cases h
  with_reducible repeat' first | assumption | apply fmStart_keeps | split

theorem execFmRetire_keeps (p : PartId) (zero : Bool) (s : State) {wr : Bool} {s0 : State} (hk : Keeps wr s0 s) {t : State} (h
    : execFmRetire p zero s = .next t) : Keeps wr s0 t := by
  dsimp only [execFmRetire] at h; cases h
  with_reducible repeat' first | assumption | apply fmStart_keeps | split

theorem popPoisonLog_keeps (s : State) {wr : Bool} {s0 : State} (hk : Keeps wr s0 s) : Keeps wr s0 (popPoisonLog s) := by
  dsimp only [popPoisonLog]
  with_reducible repeat' first | assumption | split | simp only [↓keeps_mk]

theorem setClaim_keeps (s : State) (e : Nat) (v : Option Nat) {wr : Bool} {s0 : State} (hk : Keeps wr s0 s) : Keeps wr s0
    (setClaim s e v) := by
  dsimp only [setClaim]
  with_reducible repeat' first | assumption | split | simp only [↓keeps_mk]

theorem zeroFrame_keeps (s : State) (f : Nat) {s0 : State} (hk : Keeps true s0 s) : Keeps true s0 (zeroFrame s f) := by
  dsimp only [zeroFrame]
  with_reducible repeat' first
      | assumption | apply writePhys_keeps | refine keeps_foldl ?_ (fun _ _ _ => ?_) | refine keeps_foldl1 ?_ (fun _ _ _ => ?_)
      | split

theorem fmRun_keeps (s : State) (o : FmOp) {s0 : State} (hk : Keeps true s0 s) : Keeps true s0 (fmRun s o).1 := by
  dsimp only [fmRun]
  with_reducible repeat' first
      | assumption | apply dropFrameAll_keeps | apply setReg64_keeps | apply setClaim_keeps | apply setEntry_keeps
      | apply zeroFrame_keeps | split | simp only [↓keeps_mk]

theorem poisonsBefore_keeps (n : Nat) (s : State) {wr : Bool} {s0 : State} (hk : Keeps wr s0 s) : Keeps wr s0 (poisonsBefore n
    s).1 := by
  induction n generalizing s with
  | zero => exact hk
  | succ n ih =>
    simp only [poisonsBefore]
    with_reducible repeat' first | assumption | apply ih | apply poisonNext_keeps | split

theorem execFmOpDone_keeps (s : State) {s0 : State} (hk : Keeps true s0 s) {t : State} (h : execFmOpDone s = .next t) : Keeps
    true s0 t := by
  dsimp only [execFmOpDone] at h; cases h
  with_reducible repeat' first
      | assumption | apply poisonsBefore_keeps | apply fmRun_keeps | split | refine keeps_pair (by assumption) ?_
      | simp only [↓keeps_mk]

theorem execFmPoison_keeps (s : State) {wr : Bool} {s0 : State} (hk : Keeps wr s0 s) {t : State} (h : execFmPoison s = .next t)
    : Keeps wr s0 t := by
  dsimp only [execFmPoison] at h; cases h
  with_reducible repeat' first | assumption | apply poisonNext_keeps | split

theorem readPoisonLog_keeps (s : State) (p : Nat) {wr : Bool} {s0 : State} (hk : Keeps wr s0 s) : Keeps wr s0 (readPoisonLog s
    p) := by
  dsimp only [readPoisonLog]
  with_reducible repeat' first | assumption | apply popPoisonLog_keeps | split | simp only [↓keeps_mk]

theorem execPoisonLogRead_keeps (p : PartId) (s : State) {wr : Bool} {s0 : State} (hk : Keeps wr s0 s) {t : State} (h :
    execPoisonLogRead p s = .next t) : Keeps wr s0 t := by
  dsimp only [execPoisonLogRead] at h; cases h
  with_reducible repeat' first | assumption | apply readPoisonLog_keeps | split

theorem flushCtl_keeps (s : State) (p d : Nat) (start all : Bool) {wr : Bool} {s0 : State} (hk : Keeps wr s0 s) : Keeps wr s0
    (flushCtl s p d start all) := by
  dsimp only [flushCtl]
  with_reducible repeat' first | assumption | apply writeReg_keeps | apply startFlush_keeps | split | intro _

theorem execRlcFlushStart_keeps (p : PartId) (die : DieId) (s : State) {wr : Bool} {s0 : State} (hk : Keeps wr s0 s) {t :
    State} (h : execRlcFlushStart p die s = .next t) : Keeps wr s0 t := by
  dsimp only [execRlcFlushStart] at h; cases h
  with_reducible repeat' first | assumption | apply flushCtl_keeps | split

theorem execRlcFlushAll_keeps (p : PartId) (die : DieId) (s : State) {wr : Bool} {s0 : State} (hk : Keeps wr s0 s) {t : State}
    (h : execRlcFlushAll p die s = .next t) : Keeps wr s0 t := by
  dsimp only [execRlcFlushAll] at h; cases h
  with_reducible repeat' first | assumption | apply flushCtl_keeps | split

theorem flushStep_keeps (s : State) (c d : Nat) {wr : Bool} {s0 : State} (hk : Keeps wr s0 s) : Keeps wr s0 (flushStep s c d)
    := by
  dsimp only [flushStep]
  with_reducible repeat' first | assumption | apply completePost_keeps | apply modCtx_keeps | split | simp only [↓keeps_mk]

theorem execRlcFlushDone_keeps (die : DieId) (s : State) {wr : Bool} {s0 : State} (hk : Keeps wr s0 s) {t : State} (h :
    execRlcFlushDone die s = .next t) : Keeps wr s0 t := by
  dsimp only [execRlcFlushDone] at h; cases h
  with_reducible repeat' first
      | assumption | apply addEvent_keeps | apply setRlc_keeps | apply flushStep_keeps | apply startFlush_keeps | split
      | simp only [↓keeps_mk]

theorem fillBack_keeps (s : State) (d : Nat) {wr : Bool} {s0 : State} (hk : Keeps wr s0 s) : Keeps wr s0 (fillBack s d) := by
  dsimp only [fillBack]
  with_reducible repeat' first | assumption | apply setRlc_keeps | split | simp only [↓keeps_mk]

theorem parityError_keeps (s : State) (d line : Nat) {wr : Bool} {s0 : State} (hk : Keeps wr s0 s) : Keeps wr s0 (parityError s
    d line) := by
  dsimp only [parityError]
  with_reducible repeat' first
      | assumption | apply addCorrected_keeps | apply setRlc_keeps | apply bump64_keeps | split | simp only [↓keeps_mk]

theorem execRlcFill_keeps (die : FillEvent) (s : State) {wr : Bool} {s0 : State} (hk : Keeps wr s0 s) {t : State} (h :
    execRlcFill die s = .next t) : Keeps wr s0 t := by
  dsimp only [execRlcFill] at h; cases h
  with_reducible repeat' first | assumption | apply fillBack_keeps | apply parityError_keeps | split | simp only [↓keeps_mk]

/-! ### Kerb -/

theorem residueFail_keeps (s : State) (chan : Nat) {s0 : State} (hk : Keeps true s0 s) : Keeps true s0 (residueFail s chan).1
    := by
  dsimp only [residueFail]
  with_reducible repeat' first
      | assumption | apply modKerb_keeps | apply setReg64_keeps | apply bump32_keeps | apply raise_keeps
      | apply beginDrain_keeps | split | simp only [↓keeps_mk]

theorem residueFails_keeps (s : State) (chan n : Nat) {s0 : State} (hk : Keeps true s0 s) : Keeps true s0 (residueFails s chan
    n).1 := by
  induction n generalizing s with
  | zero => exact hk
  | succ n ih =>
    simp only [residueFails]
    with_reducible repeat' first | assumption | apply ih | apply residueFail_keeps | split

theorem execResidueExpiry_keeps (chan : ChanId) (s : State) {wr : Bool} {s0 : State} (hk : Keeps wr s0 s) {t : State} (h :
    execResidueExpiry chan s = .next t) : Keeps wr s0 t := by
  dsimp only [execResidueExpiry] at h; cases h
  with_reducible repeat' first | assumption | apply modKerb_keeps | split | simp only [↓keeps_mk]

theorem setKPos_keeps (s : State) (chan c slot : Nat) (p : KPos) {wr : Bool} {s0 : State} (hk : Keeps wr s0 s) : Keeps wr s0
    (setKPos s chan c slot p) := by
  dsimp only [setKPos]
  with_reducible repeat' first | assumption | apply modCtx_keeps | split | simp only [↓keeps_mk]

theorem stopList_keeps (s : State) (c slot : Nat) {wr : Bool} {s0 : State} (hk : Keeps wr s0 s) : Keeps wr s0 (stopList s c
    slot) := by
  dsimp only [stopList]
  with_reducible repeat' first | assumption | apply modCtx_keeps | split | simp only [↓keeps_mk]

theorem execKerbArm_keeps (c : CtxId) (s : State) {wr : Bool} {s0 : State} (hk : Keeps wr s0 s) {t : State} (h : execKerbArm c
    s = .next t) : Keeps wr s0 t := by
  dsimp only [execKerbArm] at h; cases h
  with_reducible repeat' first
      | assumption | apply takePost_keeps | apply completePost_keeps | apply modCtx_keeps | split | intro _
      | simp only [↓keeps_mk]

theorem writeStatus_keeps (s : State) (chan c : Nat) (w : List Nat) (v : Nat) {s0 : State} (hk : Keeps true s0 s) : Keeps true
    s0 (writeStatus s chan c w v).1 := by
  dsimp only [writeStatus]
  with_reducible repeat' first
      | assumption | apply writeRangeAt_keeps | apply bump64_keeps | split | refine keeps_pair (by assumption) ?_

theorem leaveStatus_keeps (s : State) (chan c : Nat) (w : List Nat) (v : Nat) {s0 : State} (hk : Keeps true s0 s) : Keeps true
    s0 (leaveStatus s chan c w v) := by
  dsimp only [leaveStatus]
  with_reducible repeat' first | assumption | apply writeLater_keeps | apply bump64_keeps | split

theorem shareFault_keeps (s : State) (chan c slot : Nat) (p : KPos) (code addr : Nat) {s0 : State} (hk : Keeps true s0 s) :
    Keeps true s0 (shareFault s chan c slot p code addr) := by
  dsimp only [shareFault]
  with_reducible repeat' first
      | assumption | apply leaveStatus_keeps | apply stopList_keeps | apply setKPos_keeps | apply recordFault_keeps
      | apply enterFaulted_keeps | apply raise_keeps | split | simp only [↓keeps_mk]

theorem haltCtx_keeps (s : State) (c code core : Nat) {wr : Bool} {s0 : State} (hk : Keeps wr s0 s) : Keeps wr s0 (haltCtx s c
    code core) := by
  dsimp only [haltCtx]
  with_reducible repeat' first | assumption | apply beginSave_keeps | apply modCtx_keeps | split | simp only [↓keeps_mk]

theorem programError_keeps (s : State) (chan c slot : Nat) (p : KPos) (code : Nat) {s0 : State} (hk : Keeps true s0 s) : Keeps
    true s0 (programError s chan c slot p code) := by
  dsimp only [programError]
  with_reducible repeat' first
      | assumption | apply leaveStatus_keeps | apply stopList_keeps | apply setKPos_keeps | apply haltCtx_keeps
      | apply recordFault_keeps | split | simp only [↓keeps_mk]

theorem startShare_keeps (s : State) (chan c slot : Nat) (p : KPos) {s0 : State} (hk : Keeps true s0 s) : Keeps true s0
    (startShare s chan c slot p) := by
  dsimp only [startShare]
  with_reducible repeat' first
      | assumption | apply bump64_keeps | apply setKPos_keeps | apply setKerb_keeps | apply programError_keeps | split
      | simp only [↓keeps_mk]

theorem freeIfDone_keeps (s : State) (c slot : Nat) {wr : Bool} {s0 : State} (hk : Keeps wr s0 s) : Keeps wr s0 (freeIfDone s c
    slot) := by
  dsimp only [freeIfDone]
  with_reducible repeat' first | assumption | apply modCtx_keeps | split | simp only [↓keeps_mk]

theorem unreadable_keeps (s : State) (c slot desc code addr : Nat) {s0 : State} (hk : Keeps true s0 s) : Keeps true s0
    (unreadable s c slot desc code addr) := by
  dsimp only [unreadable]
  with_reducible repeat' first
      | assumption | apply shareFault_keeps | refine keeps_foldl ?_ (fun _ _ _ => ?_)
      | refine keeps_foldl1 ?_ (fun _ _ _ => ?_) | split

theorem execKerbDescriptorRead_keeps (chan : ChanId) (c : CtxId) (slot : Fin 4) (s : State) {s0 : State} (hk : Keeps true s0 s)
    {t : State} (h : execKerbDescriptorRead chan c slot s = .next t) : Keeps true s0 t := by
  dsimp only [execKerbDescriptorRead] at h; cases h
  with_reducible repeat' first
      | assumption | apply unreadable_keeps | apply freeIfDone_keeps | apply setKPos_keeps | apply programError_keeps
      | apply startShare_keeps | split | simp only [↓keeps_mk]

theorem execKerbTrigger_keeps (die : DieId) (c : CtxId) (slot : Fin 4) (s : State) {s0 : State} (hk : Keeps true s0 s) {t :
    State} (h : execKerbTrigger die c slot s = .next t) : Keeps true s0 t := by
  dsimp only [execKerbTrigger] at h; cases h
  with_reducible repeat' first
      | assumption | apply startShare_keeps | refine keeps_foldl ?_ (fun _ _ _ => ?_)
      | refine keeps_foldl1 ?_ (fun _ _ _ => ?_) | split

theorem kWrite_keeps (s : State) (chan c : Nat) (l : List (Nat × List Byte × Bool)) {s0 : State} (hk : Keeps true s0 s) : Keeps
    true s0 (kWrite s chan c l).1 := by
  dsimp only [kWrite]
  with_reducible repeat' first
      | assumption | apply writeRangeAt_keeps | refine keeps_foldl ?_ (fun _ _ _ => ?_)
      | refine keeps_foldl1 ?_ (fun _ _ _ => ?_) | split | refine keeps_pair (by assumption) ?_ | simp only [↓keeps_mk]

theorem kAdvance_keeps (s : State) (chan c slot : Nat) (p : KPos) {wr : Bool} {s0 : State} (hk : Keeps wr s0 s) : Keeps wr s0
    (kAdvance s chan c slot p) := by
  dsimp only [kAdvance]
  with_reducible repeat' first | assumption | apply modKerb_keeps | apply setKPos_keeps | split | simp only [↓keeps_mk]

theorem execKerbBlockStep_keeps (chan : ChanId) (c : CtxId) (slot : Fin 4) (bad : Nat) (s : State) {s0 : State} (hk : Keeps
    true s0 s) {t : State} (h : execKerbBlockStep chan c slot bad s = .next t) : Keeps true s0 t := by
  dsimp only [execKerbBlockStep] at h; cases h
  with_reducible repeat' first
      | assumption | apply shareFault_keeps | apply bump32_keeps | apply writeRangeAt_keeps | apply kAdvance_keeps
      | apply bump64_keeps | apply programError_keeps | apply residueFails_keeps | apply setKPos_keeps
      | apply leaveStatus_keeps | apply kWrite_keeps | split | refine keeps_pair (by assumption) ?_ | simp only [↓keeps_mk]

theorem shareSignal_keeps (s : State) (chan c slot : Nat) (p : KPos) {s0 : State} (hk : Keeps true s0 s) : Keeps true s0
    (shareSignal s chan c slot p) := by
  dsimp only [shareSignal]
  with_reducible repeat' first
      | assumption | apply deliverSignal_keeps | apply setKPos_keeps | apply shareFault_keeps | apply freeIfDone_keeps | split
      | refine keeps_pair (by assumption) ?_ | simp only [↓keeps_mk]

theorem execKerbShareDone_keeps (chan : ChanId) (c : CtxId) (slot : Fin 4) (s : State) {s0 : State} (hk : Keeps true s0 s) {t :
    State} (h : execKerbShareDone chan c slot s = .next t) : Keeps true s0 t := by
  dsimp only [execKerbShareDone] at h; cases h
  with_reducible repeat' first
      | assumption | apply writeStatus_keeps | apply shareFault_keeps | apply modKerb_keeps | apply addEvent_keeps
      | apply traceEvent_keeps | apply shareSignal_keeps | split | refine keeps_pair (by assumption) ?_ | simp only [↓keeps_mk]

theorem execKerbSignalRetry_keeps (chan : ChanId) (c : CtxId) (slot : Fin 4) (s : State) {s0 : State} (hk : Keeps true s0 s) {t
    : State} (h : execKerbSignalRetry chan c slot s = .next t) : Keeps true s0 t := by
  dsimp only [execKerbSignalRetry] at h; cases h
  with_reducible repeat' first | assumption | apply shareSignal_keeps | split

theorem execKerbPause_keeps (c : CtxId) (s : State) {wr : Bool} {s0 : State} (hk : Keeps wr s0 s) {t : State} (h :
    execKerbPause c s = .next t) : Keeps wr s0 t := by
  dsimp only [execKerbPause] at h; cases h
  with_reducible repeat' first | assumption | apply modCtx_keeps | split | simp only [↓keeps_mk]

/-! ### Rounds -/

theorem writeFrom_keeps (s : State) (die part addr : Nat) (l : List Byte) {s0 : State} (hk : Keeps true s0 s) : Keeps true s0
    (writeFrom s die part addr l).1 := by
  dsimp only [writeFrom]
  with_reducible repeat' first | assumption | apply writeRangeAt_keeps | apply dropOwn_keeps | split

theorem roundFault_keeps (s : State) (c core code addr : Nat) {s0 : State} (hk : Keeps true s0 s) : Keeps true s0 (roundFault s
    c core code addr) := by
  dsimp only [roundFault]
  with_reducible repeat' first | assumption | apply enterFaulted_keeps | apply recordFault_keeps | split

theorem ixAbort_keeps (s : State) (d k code addr : Nat) (tell : Bool) {s0 : State} (hk : Keeps true s0 s) : Keeps true s0
    (ixAbort s d k code addr tell) := by
  dsimp only [ixAbort]
  with_reducible repeat' first | assumption | apply ixQuiet_keeps | apply roundFault_keeps | apply ixAbortQuiet_keeps | split

theorem colAbort_keeps (s : State) (d k code addr : Nat) (tell : Bool) {s0 : State} (hk : Keeps true s0 s) : Keeps true s0
    (colAbort s d k code addr tell) := by
  dsimp only [colAbort]
  with_reducible repeat' first | assumption | apply colQuiet_keeps | apply roundFault_keeps | apply colAbortQuiet_keeps | split

theorem abortDie_keeps (s : State) (d : Nat) {s0 : State} (hk : Keeps true s0 s) : Keeps true s0 (abortDie s d) := by
  dsimp only [abortDie]
  with_reducible repeat' first
      | assumption | apply colAbortQuiet_keeps | apply ixAbortQuiet_keeps | apply roundFault_keeps | apply colQuiet_keeps
      | apply ixQuiet_keeps | refine keeps_foldl ?_ (fun _ _ _ => ?_) | refine keeps_foldl1 ?_ (fun _ _ _ => ?_) | split

/-! ### Col -/

theorem execColArm_keeps (c : CtxId) (s : State) {wr : Bool} {s0 : State} (hk : Keeps wr s0 s) {t : State} (h : execColArm c s
    = .next t) : Keeps wr s0 t := by
  dsimp only [execColArm] at h; cases h
  with_reducible repeat' first
      | assumption | apply takePostIf_keeps | apply completePost_keeps | apply setColSlot_keeps | split | intro _
      | simp only [↓keeps_mk]

theorem execColDisarm_keeps (c : CtxId) (s : State) {wr : Bool} {s0 : State} (hk : Keeps wr s0 s) {t : State} (h :
    execColDisarm c s = .next t) : Keeps wr s0 t := by
  dsimp only [execColDisarm] at h; cases h
  with_reducible repeat' first
      | assumption | apply takePost_keeps | apply completePost_keeps | apply colFree_keeps | split | intro _
      | simp only [↓keeps_mk]

theorem colSendPart_keeps (s : State) (d k rank step off : Nat) (l : List Byte) (ext : List Nat) {wr : Bool} {s0 : State} (hk :
    Keeps wr s0 s) : Keeps wr s0 (colSendPart s d k rank step off l ext) := by
  dsimp only [colSendPart]
  with_reducible repeat' first | assumption | apply colQueue_keeps | split

theorem colSendBytes_keeps (s : State) (d k rank step addr off n : Nat) (ext : List Nat) {wr : Bool} {s0 : State} (hk : Keeps
    wr s0 s) : Keeps wr s0 (colSendBytes s d k rank step addr off n ext).1 := by
  dsimp only [colSendBytes]
  with_reducible repeat' first
      | assumption | apply colSendPart_keeps | refine keeps_foldl ?_ (fun _ _ _ => ?_)
      | refine keeps_foldl1 ?_ (fun _ _ _ => ?_) | split | simp only [↓keeps_mk]

theorem colTie_keeps (s : State) (d k t : Nat) {wr : Bool} {s0 : State} (hk : Keeps wr s0 s) : Keeps wr s0 (colTie s d k t) :=
    by
  dsimp only [colTie]
  with_reducible repeat' first | assumption | apply addTie_keeps | split

theorem colEnd_keeps (s : State) (d k : Nat) {wr : Bool} {s0 : State} (hk : Keeps wr s0 s) : Keeps wr s0 (colEnd s d k) := by
  dsimp only [colEnd]
  with_reducible repeat' first
      | assumption | apply addEvent_keeps | apply colFree_keeps | apply setColSlot_keeps | apply arrived_keeps | split
      | simp only [↓keeps_mk]

theorem colDrive_keeps (s : State) (d k : Nat) {s0 : State} (hk : Keeps true s0 s) : Keeps true s0 (colDrive s d k) := by
  dsimp only [colDrive]
  with_reducible repeat' first
      | assumption | apply setColSlot_keeps | apply deliverSignal_keeps | apply modColSlot_keeps | apply colAbort_keeps
      | apply colEnd_keeps | apply writeFrom_keeps | split | refine keeps_pair (by assumption) ?_ | simp only [↓keeps_mk]

theorem colWrite_keeps (s : State) (d k at_ : Nat) (l : List Byte) {s0 : State} (hk : Keeps true s0 s) : Keeps true s0
    (colWrite s d k at_ l).1 := by
  dsimp only [colWrite]
  with_reducible repeat' first
      | assumption | apply writeRangeAt_keeps | apply modColSlot_keeps | split | refine keeps_pair (by assumption) ?_
      | simp only [↓keeps_mk]

theorem colWriteOwn_keeps (s : State) (d k at_ : Nat) (l : List Byte) {s0 : State} (hk : Keeps true s0 s) : Keeps true s0
    (colWriteOwn s d k at_ l).1 := by
  dsimp only [colWriteOwn]
  with_reducible repeat' first | assumption | apply colWrite_keeps | apply dropOwn_keeps | split

theorem colCopyLocal_keeps (s : State) (d k addr at_ n : Nat) {s0 : State} (hk : Keeps true s0 s) : Keeps true s0 (colCopyLocal
    s d k addr at_ n).1 := by
  dsimp only [colCopyLocal]
  with_reducible repeat' first
      | assumption | apply colWriteOwn_keeps | refine keeps_foldl ?_ (fun _ _ _ => ?_)
      | refine keeps_foldl1 ?_ (fun _ _ _ => ?_) | split | simp only [↓keeps_mk]

theorem colAfter_keeps (t : State × Option (Code × Nat)) (d k : Nat) {s0 : State} (hk : Keeps true s0 t.1) : Keeps true s0
    (colAfter t d k) := by
  dsimp only [colAfter]
  with_reducible repeat' first | assumption | apply colAbort_keeps | apply colDrive_keeps | apply colPump_keeps | split

theorem colPlace_keeps (s : State) (d k : Nat) {s0 : State} (hk : Keeps true s0 s) : Keeps true s0 (colPlace s d k) := by
  dsimp only [colPlace]
  with_reducible repeat' first
      | assumption | apply writeFrom_keeps | apply colAbort_keeps | apply setColSlot_keeps | apply colQueue_keeps
      | apply colAfter_keeps | apply colCopyLocal_keeps | refine keeps_foldl ?_ (fun _ _ _ => ?_)
      | refine keeps_foldl1 ?_ (fun _ _ _ => ?_) | split | refine keeps_pair (by assumption) ?_ | simp only [↓keeps_mk]

theorem colTakeCount_keeps (s : State) (d k r v : Nat) {s0 : State} (hk : Keeps true s0 s) : Keeps true s0 (colTakeCount s d k
    r v) := by
  dsimp only [colTakeCount]
  with_reducible repeat' first
      | assumption | apply setColSlot_keeps | apply colTie_keeps | apply colPlace_keeps | split
      | refine keeps_pair (by assumption) ?_ | simp only [↓keeps_mk]

theorem colRelease_keeps (s : State) (d k : Nat) {wr : Bool} {s0 : State} (hk : Keeps wr s0 s) : Keeps wr s0 (colRelease s d k)
    := by
  dsimp only [colRelease]
  with_reducible repeat' first
      | assumption | apply setCol_keeps | apply setColSlot_keeps | apply colQueue_keeps
      | refine keeps_foldl ?_ (fun _ _ _ => ?_) | refine keeps_foldl1 ?_ (fun _ _ _ => ?_) | split | simp only [↓keeps_mk]

theorem colTakeEarly_keeps (s : State) (d k : Nat) {s0 : State} (hk : Keeps true s0 s) : Keeps true s0 (colTakeEarly s d k) :=
    by
  dsimp only [colTakeEarly]
  with_reducible repeat' first
      | assumption | apply setCol_keeps | apply colTakeCount_keeps | apply modColSlot_keeps | apply arrived_keeps
      | refine keeps_foldl ?_ (fun _ _ _ => ?_) | refine keeps_foldl1 ?_ (fun _ _ _ => ?_) | split | simp only [↓keeps_mk]

theorem colBegin_keeps (s : State) (d k : Nat) {s0 : State} (hk : Keeps true s0 s) : Keeps true s0 (colBegin s d k).1 := by
  dsimp only [colBegin]
  with_reducible repeat' first
      | assumption | apply colCopyLocal_keeps | apply colSendBytes_keeps | apply setColSlot_keeps | apply colQueue_keeps
      | refine keeps_foldl ?_ (fun _ _ _ => ?_) | refine keeps_foldl1 ?_ (fun _ _ _ => ?_) | split
      | refine keeps_pair (by assumption) ?_ | simp only [↓keeps_mk]

theorem execColRoundTrigger_keeps (die : DieId) (slot : Fin 16) (s : State) {s0 : State} (hk : Keeps true s0 s) {t : State} (h
    : execColRoundTrigger die slot s = .next t) : Keeps true s0 t := by
  dsimp only [execColRoundTrigger] at h; cases h
  with_reducible repeat' first
      | assumption | apply setColSlot_keeps | apply colQueue_keeps | apply colBegin_keeps | apply colAbort_keeps
      | apply colTakeEarly_keeps | apply colTakeCount_keeps | apply colRelease_keeps | apply colDrive_keeps
      | apply colPump_keeps | split | refine keeps_pair (by assumption) ?_ | simp only [↓keeps_mk]

theorem colStray_keeps (s : State) (d : Nat) (m : Msg) {wr : Bool} {s0 : State} (hk : Keeps wr s0 s) : Keeps wr s0 (colStray s
    d m) := by
  dsimp only [colStray]
  with_reducible repeat' first | assumption | apply colAnswer_keeps | apply bump32_keeps | split

theorem colHold_keeps (s : State) (d : Nat) (m : Msg) {wr : Bool} {s0 : State} (hk : Keeps wr s0 s) : Keeps wr s0 (colHold s d
    m) := by
  dsimp only [colHold]
  with_reducible repeat' first | assumption | apply colAnswer_keeps | apply setCol_keeps | split | simp only [↓keeps_mk]

theorem colChecked_keeps (s : State) (idx typ : Nat) (ready : Nat → Msg → ColMsg → Bool) (act : State → Nat → Msg → ColMsg →
    State) {wr : Bool} {s0 : State} (hk : Keeps wr s0 s) (ha : ∀ s' d m b, Keeps wr s0 s' → Keeps wr s0 (act s' d m b)) : Keeps
    wr s0 (colChecked s idx typ ready act) := by
  dsimp only [colChecked]
  with_reducible repeat' first
      | assumption | apply ha | apply dropMsg_keeps | apply colAnswer_keeps | apply colStray_keeps | split
      | refine keeps_pair (by assumption) ?_ | simp only [↓keeps_mk]

theorem colArrive_keeps (s : State) (idx typ : Nat) (ready : ColSlot → ColMsg → Bool) (act : State → Nat → Nat → Msg → ColMsg →
    State) {wr : Bool} {s0 : State} (hk : Keeps wr s0 s) (ha : ∀ s' d k m b, Keeps wr s0 s' → Keeps wr s0 (act s' d k m b)) :
    Keeps wr s0 (colArrive s idx typ ready act) := by
  dsimp only [colArrive]
  with_reducible repeat' first
      | assumption | apply ha | apply colChecked_keeps | apply colStray_keeps | split | intro _ | simp only [↓keeps_mk]

theorem execColReady_keeps (idx : Nat) (s : State) {wr : Bool} {s0 : State} (hk : Keeps wr s0 s) {t : State} (h : execColReady
    idx s = .next t) : Keeps wr s0 t := by
  dsimp only [execColReady] at h; cases h
  with_reducible repeat' first
      | assumption | apply colChecked_keeps | apply colStray_keeps | apply colAnswer_keeps | apply setColSlot_keeps
      | apply colPump_keeps | apply colTie_keeps | split | intro _ | simp only [↓keeps_mk]

theorem execColCount_keeps (idx : Nat) (s : State) {s0 : State} (hk : Keeps true s0 s) {t : State} (h : execColCount idx s =
    .next t) : Keeps true s0 t := by
  dsimp only [execColCount] at h; cases h
  with_reducible repeat' first
      | assumption | apply colChecked_keeps | apply colHold_keeps | apply colStray_keeps | apply colTakeCount_keeps
      | apply colAnswer_keeps | apply colDrive_keeps | apply colPump_keeps | split | intro _ | simp only [↓keeps_mk]

theorem execColGo_keeps (idx : Nat) (s : State) {s0 : State} (hk : Keeps true s0 s) {t : State} (h : execColGo idx s = .next t)
    : Keeps true s0 t := by
  dsimp only [execColGo] at h; cases h
  with_reducible repeat' first
      | assumption | apply colArrive_keeps | apply colAnswer_keeps | apply setColSlot_keeps | apply colTie_keeps
      | apply colAfter_keeps | apply colSendBytes_keeps | split | intro _ | simp only [↓keeps_mk]

theorem execColArrive_keeps (idx : Nat) (s : State) {wr : Bool} {s0 : State} (hk : Keeps wr s0 s) {t : State} (h :
    execColArrive idx s = .next t) : Keeps wr s0 t := by
  dsimp only [execColArrive] at h; cases h
  with_reducible repeat' first
      | assumption | apply colChecked_keeps | apply colHold_keeps | apply colStray_keeps | apply colAnswer_keeps
      | apply colTie_keeps | apply arrived_keeps | apply colPump_keeps | apply colRelease_keeps | apply setColSlot_keeps
      | split | intro _ | simp only [↓keeps_mk]

theorem execColRelease_keeps (idx : Nat) (s : State) {s0 : State} (hk : Keeps true s0 s) {t : State} (h : execColRelease idx s
    = .next t) : Keeps true s0 t := by
  dsimp only [execColRelease] at h; cases h
  with_reducible repeat' first
      | assumption | apply colArrive_keeps | apply colStray_keeps | apply colDrive_keeps | apply modColSlot_keeps
      | apply colTie_keeps | apply colAnswer_keeps | split | intro _ | simp only [↓keeps_mk]

theorem execColAbort_keeps (idx : Nat) (s : State) {s0 : State} (hk : Keeps true s0 s) {t : State} (h : execColAbort idx s =
    .next t) : Keeps true s0 t := by
  dsimp only [execColAbort] at h; cases h
  with_reducible repeat' first
      | assumption | apply colChecked_keeps | apply colAnswer_keeps | apply setCol_keeps | apply colStray_keeps
      | apply colAbort_keeps | split | intro _ | simp only [↓keeps_mk]

theorem colTaken_keeps (s : State) (d k : Nat) (m : Msg) (g : Nat × Nat) {wr : Bool} {s0 : State} (hk : Keeps wr s0 s) : Keeps
    wr s0 (colTaken s d k m g) := by
  dsimp only [colTaken]
  with_reducible repeat' first
      | assumption | apply modColSlot_keeps | apply colTie_keeps | apply colAnswer_keeps | split | simp only [↓keeps_mk]

theorem colForward_keeps (s : State) (d k step off lo n : Nat) (l : List Byte) {wr : Bool} {s0 : State} (hk : Keeps wr s0 s) :
    Keeps wr s0 (colForward s d k step off lo n l) := by
  dsimp only [colForward]
  with_reducible repeat' first
      | assumption | apply setColSlot_keeps | apply colSendPart_keeps | refine keeps_foldl ?_ (fun _ _ _ => ?_)
      | refine keeps_foldl1 ?_ (fun _ _ _ => ?_) | split | simp only [↓keeps_mk]

theorem colCopyPart_keeps (s : State) (d k : Nat) (m : Msg) (b : ColMsg) (at_ lo n : Nat) (next : Option Nat) {s0 : State} (hk
    : Keeps true s0 s) : Keeps true s0 (colCopyPart s d k m b at_ lo n next) := by
  dsimp only [colCopyPart]
  with_reducible repeat' first
      | assumption | apply colWriteOwn_keeps | apply colAbort_keeps | apply colAnswer_keeps | apply colTaken_keeps
      | apply colForward_keeps | apply colDrive_keeps | apply colPump_keeps | split | refine keeps_pair (by assumption) ?_
      | simp only [↓keeps_mk]

theorem colPartKind_keeps (s : State) (d k : Nat) (m : Msg) (b : ColMsg) {s0 : State} (hk : Keeps true s0 s) : Keeps true s0
    (colPartKind s d k m b) := by
  dsimp only [colPartKind]
  with_reducible repeat' first
      | assumption | apply colStray_keeps | apply colCopyPart_keeps | apply modColSlot_keeps | apply colTie_keeps
      | apply setCol_keeps | split | simp only [↓keeps_mk]

theorem putSignal_keeps (s : State) (d : Nat) (g : PutSig) {s0 : State} (hk : Keeps true s0 s) : Keeps true s0 (putSignal s d
    g) := by
  dsimp only [putSignal]
  with_reducible repeat' first
      | assumption | apply deliverSignal_keeps | apply setCol_keeps | apply colAnswer_keeps | split
      | refine keeps_pair (by assumption) ?_ | simp only [↓keeps_mk]

theorem colPutPart_keeps (s : State) (d : Nat) (m : Msg) (b : ColMsg) {s0 : State} (hk : Keeps true s0 s) : Keeps true s0
    (colPutPart s d m b) := by
  dsimp only [colPutPart]
  with_reducible repeat' first
      | assumption | apply colStray_keeps | apply writeRangeAt_keeps | apply colAnswer_keeps | apply setCol_keeps
      | apply putSignal_keeps | split | refine keeps_pair (by assumption) ?_ | simp only [↓keeps_mk]

theorem execColPart_keeps (idx : Nat) (s : State) {s0 : State} (hk : Keeps true s0 s) {t : State} (h : execColPart idx s =
    .next t) : Keeps true s0 t := by
  dsimp only [execColPart] at h; cases h
  with_reducible repeat' first
      | assumption | apply colChecked_keeps | apply colStray_keeps | apply colAnswer_keeps | apply bump32_keeps
      | apply bump64_keeps | apply colPartKind_keeps | apply colPutPart_keeps | split | intro _ | simp only [↓keeps_mk]

theorem colCountWrite_keeps (s : State) (chan addr n : Nat) {wr : Bool} {s0 : State} (hk : Keeps wr s0 s) : Keeps wr s0
    (colCountWrite s chan addr n) := by
  dsimp only [colCountWrite]
  with_reducible repeat' first | assumption | apply bump64_keeps | split

theorem execChunkReductionDone_keeps (die : DieId) (bad : Nat) (s : State) {s0 : State} (hk : Keeps true s0 s) {t : State} (h :
    execChunkReductionDone die bad s = .next t) : Keeps true s0 t := by
  dsimp only [execChunkReductionDone] at h; cases h
  with_reducible repeat' first
      | assumption | apply setCol_keeps | apply colAbort_keeps | apply colAnswer_keeps | apply residueFails_keeps
      | apply bump64_keeps | apply modColSlot_keeps | apply colForward_keeps | apply colTaken_keeps | apply colDrive_keeps
      | apply colPump_keeps | apply colWrite_keeps | apply colCountWrite_keeps | split | refine keeps_pair (by assumption) ?_
      | simp only [↓keeps_mk]

theorem colSettle_keeps (s : State) (idx typ : Nat) (ready : Nat → Msg → ColMsg → Bool) (act : State → Nat → Msg → ColMsg →
    State) {wr : Bool} {s0 : State} (hk : Keeps wr s0 s) (ha : ∀ s' d m b, Keeps wr s0 s' → Keeps wr s0 (act s' d m b)) : Keeps
    wr s0 (colSettle s idx typ ready act) := by
  dsimp only [colSettle]
  with_reducible repeat' first
      | assumption | apply ha | apply dropMsg_keeps | apply unawaited_keeps | apply cwDecrease_keeps | split
      | refine keeps_pair (by assumption) ?_ | simp only [↓keeps_mk]

theorem execColAck_keeps (idx : Nat) (s : State) {s0 : State} (hk : Keeps true s0 s) {t : State} (h : execColAck idx s = .next
    t) : Keeps true s0 t := by
  dsimp only [execColAck] at h; cases h
  with_reducible repeat' first
      | assumption | apply colSettle_keeps | apply setCol_keeps | apply settleOut_keeps | apply colPump_keeps
      | apply colQuiet_keeps | apply setColSlot_keeps | apply colAbort_keeps | apply colDrive_keeps | split | intro _
      | simp only [↓keeps_mk]

theorem execColNak_keeps (idx : Nat) (s : State) {s0 : State} (hk : Keeps true s0 s) {t : State} (h : execColNak idx s = .next
    t) : Keeps true s0 t := by
  dsimp only [execColNak] at h; cases h
  with_reducible repeat' first
      | assumption | apply colSettle_keeps | apply setCol_keeps | apply bump32_keeps | apply sendAnswer_keeps
      | apply settleOut_keeps | apply colPump_keeps | apply colQuiet_keeps | apply colAbort_keeps | apply modColSlot_keeps
      | apply colQueue_keeps | split | intro _ | simp only [↓keeps_mk]

theorem execColGetReq_keeps (idx : Nat) (s : State) {wr : Bool} {s0 : State} (hk : Keeps wr s0 s) {t : State} (h :
    execColGetReq idx s = .next t) : Keeps wr s0 t := by
  dsimp only [execColGetReq] at h; cases h
  with_reducible repeat' first
      | assumption | apply colChecked_keeps | apply colAnswer_keeps | apply setCol_keeps | apply bump64_keeps
      | apply sendAnswer_keeps | split | intro _ | simp only [↓keeps_mk]

theorem getAnswer_keeps (s : State) (d k typ code : Nat) (m : Msg) (b : ColMsg) {wr : Bool} {s0 : State} (hk : Keeps wr s0 s) :
    Keeps wr s0 (getAnswer s d k typ code m b) := by
  dsimp only [getAnswer]
  with_reducible repeat' first | assumption | apply sendAnswer_keeps | split | simp only [↓keeps_mk]

theorem execColGetData_keeps (idx : Nat) (s : State) {s0 : State} (hk : Keeps true s0 s) {t : State} (h : execColGetData idx s
    = .next t) : Keeps true s0 t := by
  dsimp only [execColGetData] at h; cases h
  with_reducible repeat' first
      | assumption | apply colSettle_keeps | apply settleOut_keeps | apply setCol_keeps | apply getAnswer_keeps
      | apply bump32_keeps | apply colPump_keeps | apply colQuiet_keeps | apply setColSlot_keeps | apply colAbort_keeps
      | apply colWriteOwn_keeps | apply bump64_keeps | apply colTie_keeps | apply colDrive_keeps | apply modColSlot_keeps
      | split | refine keeps_pair (by assumption) ?_ | intro _ | simp only [↓keeps_mk]

theorem execColLimitExpiry_keeps (die : DieId) (slot : Fin 16) (s : State) {s0 : State} (hk : Keeps true s0 s) {t : State} (h :
    execColLimitExpiry die slot s = .next t) : Keeps true s0 t := by
  dsimp only [execColLimitExpiry] at h; cases h
  with_reducible repeat' first | assumption | apply colAbort_keeps | split

theorem execColCountRetry_keeps (die : DieId) (slot : Fin 16) (s : State) {s0 : State} (hk : Keeps true s0 s) {t : State} (h :
    execColCountRetry die slot s = .next t) : Keeps true s0 t := by
  dsimp only [execColCountRetry] at h; cases h
  with_reducible repeat' first
      | assumption | apply colAbort_keeps | apply setColSlot_keeps | apply colPump_keeps | apply colQueue_keeps | split
      | simp only [↓keeps_mk]

theorem retryPutSigs_keeps (s : State) (d : Nat) {s0 : State} (hk : Keeps true s0 s) : Keeps true s0 (retryPutSigs s d) := by
  dsimp only [retryPutSigs]
  with_reducible repeat' first
      | assumption | apply putSignal_keeps | apply setCol_keeps | refine keeps_foldl ?_ (fun _ _ _ => ?_)
      | refine keeps_foldl1 ?_ (fun _ _ _ => ?_) | split | simp only [↓keeps_mk]

theorem execColSignalRetry_keeps (die : DieId) (slot : Fin 16) (s : State) {s0 : State} (hk : Keeps true s0 s) {t : State} (h :
    execColSignalRetry die slot s = .next t) : Keeps true s0 t := by
  dsimp only [execColSignalRetry] at h; cases h
  with_reducible repeat' first
      | assumption | apply retryPutSigs_keeps | apply deliverSignal_keeps | apply modColSlot_keeps | apply colAbort_keeps
      | apply colEnd_keeps | split | refine keeps_pair (by assumption) ?_ | simp only [↓keeps_mk]

/-! ### Hide -/

theorem dirtyAtlas_keeps (s : State) {wr : Bool} {s0 : State} (hk : Keeps wr s0 s) : Keeps wr s0 (dirtyAtlas s) := ⟨hk.1, hk.2,
    hk.3, hk.4, hk.5, hk.6, hk.7, hk.8, hk.9⟩

theorem sharedEvent_keeps (s : State) (die : Nat) {s0 : State} (hk : Keeps true s0 s) : Keeps true s0 (sharedEvent s die) := by
  dsimp only [sharedEvent]
  with_reducible repeat' first | assumption | apply bump32_keeps | apply beginDrain_keeps | split | simp only [↓keeps_mk]

theorem makeDefective_keeps (s : State) (n : Nat) {s0 : State} (hk : Keeps true s0 s) : Keeps true s0 (makeDefective s n) := by
  dsimp only [makeDefective]
  with_reducible repeat' first
      | assumption | apply modSite_keeps | apply dropShadowsOn_keeps | apply bump32_keeps | apply dirtyAtlas_keeps
      | apply sharedEvent_keeps | split | simp only [↓keeps_mk]

theorem retireShoulder_keeps (s : State) (n : Nat) {s0 : State} (hk : Keeps true s0 s) : Keeps true s0 (retireShoulder s n) :=
    by
  dsimp only [retireShoulder]
  with_reducible repeat' first | assumption | apply raise_keeps | apply makeDefective_keeps | split

theorem takeSite_keeps (s : State) (core new : Nat) {wr : Bool} {s0 : State} (hk : Keeps wr s0 s) : Keeps wr s0 (takeSite s
    core new) := by
  dsimp only [takeSite]
  with_reducible repeat' first
      | assumption | apply modSite_keeps | apply dropShadowsOn_keeps | apply raise_keeps | apply bump32_keeps
      | apply dirtyAtlas_keeps | split | simp only [↓keeps_mk]

theorem placeOn_keeps (s : State) (core bad new : Nat) {s0 : State} (hk : Keeps true s0 s) : Keeps true s0 (placeOn s core bad
    new) := by
  dsimp only [placeOn]
  with_reducible repeat' first | assumption | apply makeDefective_keeps | apply takeSite_keeps | apply chipNotice_keeps | split

theorem leaveEmpty_keeps (s : State) (n : Nat) {wr : Bool} {s0 : State} (hk : Keeps wr s0 s) : Keeps wr s0 (leaveEmpty s n) :=
    by
  dsimp only [leaveEmpty]
  with_reducible repeat' first | assumption | apply modSite_keeps | apply dropShadowsOn_keeps | split | simp only [↓keeps_mk]

theorem markSite_keeps (s : State) (n : Nat) {wr : Bool} {s0 : State} (hk : Keeps wr s0 s) : Keeps wr s0 (markSite s n) := by
  dsimp only [markSite]
  with_reducible repeat' first | assumption | apply modSite_keeps | split | simp only [↓keeps_mk]

theorem markFailed_keeps (s : State) (core : Nat) {wr : Bool} {s0 : State} (hk : Keeps wr s0 s) : Keeps wr s0 (markFailed s
    core) := by
  dsimp only [markFailed]
  with_reducible repeat' first | assumption | apply markSite_keeps | split

theorem unwait_keeps (s : State) (n : Nat) {wr : Bool} {s0 : State} (hk : Keeps wr s0 s) : Keeps wr s0 (unwait s n) := by
  dsimp only [unwait]
  with_reducible repeat' first | assumption | split | simp only [↓keeps_mk]

theorem dropRoadblock_keeps (s : State) (core : Nat) {wr : Bool} {s0 : State} (hk : Keeps wr s0 s) : Keeps wr s0 (dropRoadblock
    s core) := by
  dsimp only [dropRoadblock]
  with_reducible repeat' first | assumption | split | simp only [↓keeps_mk]

theorem substituteOn_keeps (s : State) (core n : Nat) {s0 : State} (hk : Keeps true s0 s) : Keeps true s0 (substituteOn s core
    n) := by
  dsimp only [substituteOn]
  with_reducible repeat' first
      | assumption | apply dropRoadblock_keeps | apply unwait_keeps | apply placeOn_keeps | apply takeSite_keeps
      | apply modCore_keeps | apply makeDefective_keeps | apply leaveEmpty_keeps | split | simp only [↓keeps_mk]

theorem substitute_keeps (s : State) (core : Nat) {s0 : State} (hk : Keeps true s0 s) : Keeps true s0 (substitute s core) := by
  dsimp only [substitute]
  with_reducible repeat' first
      | assumption | apply markFailed_keeps | apply beginDrain_keeps | apply substituteOn_keeps | split | simp only [↓keeps_mk]

theorem keepStandIn_keeps (s : State) (core n : Nat) {s0 : State} (hk : Keeps true s0 s) : Keeps true s0 (keepStandIn s core n)
    := by
  dsimp only [keepStandIn]
  with_reducible repeat' first | assumption | apply markSite_keeps | apply placeOn_keeps | apply unwait_keeps | split

theorem leaveSite_keeps (s : State) (core : Nat) {s0 : State} (hk : Keeps true s0 s) : Keeps true s0 (leaveSite s core) := by
  dsimp only [leaveSite]
  with_reducible repeat' first
      | assumption | apply noteHw_keeps | apply markFailed_keeps | apply substitute_keeps | split | simp only [↓keeps_mk]

theorem rerun_keeps (s : State) (c : Nat) {s0 : State} (hk : Keeps true s0 s) : Keeps true s0 (rerun s c) := by
  dsimp only [rerun]
  with_reducible repeat' first
      | assumption | apply leaveIdle_keeps | apply enterHalted_keeps | apply restoreFault_keeps | apply enterRunning_keeps
      | split | refine restoreImage_keeps _ _ _ ?_ (by assumption) | simp only [↓keeps_mk]

theorem rerunAll_keeps (s : State) {s0 : State} (hk : Keeps true s0 s) : Keeps true s0 (rerunAll s) := by
  dsimp only [rerunAll]
  with_reducible repeat' first
      | assumption | apply rerun_keeps | refine keeps_foldl ?_ (fun _ _ _ => ?_) | refine keeps_foldl1 ?_ (fun _ _ _ => ?_)
      | split | simp only [↓keeps_mk]

theorem retestFirst_keeps (s : State) (d : Nat) {wr : Bool} {s0 : State} (hk : Keeps wr s0 s) : Keeps wr s0 (retestFirst s d)
    := by
  dsimp only [retestFirst]
  with_reducible repeat' first
      | assumption | apply startTest_keeps | refine keeps_foldl ?_ (fun _ _ _ => ?_) | refine keeps_foldl1 ?_ (fun _ _ _ => ?_)
      | split | refine keeps_pair (by assumption) ?_ | simp only [↓keeps_mk]

theorem startTrial_keeps (s : State) (core c : Nat) {wr : Bool} {s0 : State} (hk : Keeps wr s0 s) : Keeps wr s0 (startTrial s
    core c) := by
  dsimp only [startTrial]
  with_reducible repeat' first
      | assumption | apply modCore_keeps | apply modSite_keeps | apply dropShadowsOn_keeps | split
      | refine keeps_pair (by assumption) ?_ | simp only [↓keeps_mk]

theorem startTrials_keeps (s : State) (c : Nat) {wr : Bool} {s0 : State} (hk : Keeps wr s0 s) : Keeps wr s0 (startTrials s c)
    := by
  dsimp only [startTrials]
  with_reducible repeat' first
      | assumption | apply startTrial_keeps | refine keeps_foldl ?_ (fun _ _ _ => ?_)
      | refine keeps_foldl1 ?_ (fun _ _ _ => ?_) | split

theorem startMove_keeps (s : State) (core dst why : Nat) {wr : Bool} {s0 : State} (hk : Keeps wr s0 s) : Keeps wr s0 (startMove
    s core dst why) := by
  dsimp only [startMove]
  with_reducible repeat' first | assumption | apply modPage_keeps | split | simp only [↓keeps_mk]

theorem returnHome_keeps (s : State) (core : Nat) {wr : Bool} {s0 : State} (hk : Keeps wr s0 s) : Keeps wr s0 (returnHome s
    core) := by
  dsimp only [returnHome]
  with_reducible repeat' first | assumption | apply modSite_keeps | split | simp only [↓keeps_mk]

theorem goHome_keeps (s : State) (core : Nat) {wr : Bool} {s0 : State} (hk : Keeps wr s0 s) : Keeps wr s0 (goHome s core) := by
  dsimp only [goHome]
  with_reducible repeat' first
      | assumption | apply startMove_keeps | apply returnHome_keeps | split | refine keeps_pair (by assumption) ?_

theorem replayNow_keeps (s : State) (c : Nat) {s0 : State} (hk : Keeps true s0 s) : Keeps true s0 (replayNow s c) := by
  dsimp only [replayNow]
  with_reducible repeat' first
      | assumption | apply modCtx_keeps | apply doReplay_keeps | apply startTrials_keeps | apply goHome_keeps
      | refine keeps_foldl ?_ (fun _ _ _ => ?_) | refine keeps_foldl1 ?_ (fun _ _ _ => ?_) | split | simp only [↓keeps_mk]

theorem leaveFaulted_keeps (s : State) (core : Nat) {s0 : State} (hk : Keeps true s0 s) : Keeps true s0 (leaveFaulted s core)
    := by
  dsimp only [leaveFaulted]
  with_reducible repeat' first
      | assumption | apply returnHome_keeps | apply retireShoulder_keeps | apply substitute_keeps | split

theorem replayStep_keeps (s : State) (c : Nat) {s0 : State} (hk : Keeps true s0 s) : Keeps true s0 (replayStep s c) := by
  dsimp only [replayStep]
  with_reducible repeat' first
      | assumption | apply modCtx_keeps | apply startTest_keeps | apply retestFirst_keeps | apply markFailed_keeps
      | apply replayNow_keeps | apply leaveFaulted_keeps | refine keeps_foldl ?_ (fun _ _ _ => ?_)
      | refine keeps_foldl1 ?_ (fun _ _ _ => ?_) | split | simp only [↓keeps_mk]

theorem leaveWaiting_keeps (s : State) (d : Nat) {s0 : State} (hk : Keeps true s0 s) : Keeps true s0 (leaveWaiting s d) := by
  dsimp only [leaveWaiting]
  with_reducible repeat' first
      | assumption | apply rerunAll_keeps | apply unwait_keeps | apply keepStandIn_keeps | apply substitute_keeps
      | apply replayStep_keeps | refine keeps_foldl ?_ (fun _ _ _ => ?_) | refine keeps_foldl1 ?_ (fun _ _ _ => ?_) | split
      | refine keeps_pair (by assumption) ?_ | simp only [↓keeps_mk]

theorem condemn_keeps (s : State) (n : Nat) {s0 : State} (hk : Keeps true s0 s) : Keeps true s0 (condemn s n) := by
  dsimp only [condemn]
  with_reducible repeat' first
      | assumption | apply retireShoulder_keeps | apply keepStandIn_keeps | apply substitute_keeps | apply leaveSite_keeps
      | apply enterFaulted_keeps | apply noteHw_keeps | split | simp only [↓keeps_mk]

theorem siteFault_keeps (s : State) (n : Nat) {s0 : State} (hk : Keeps true s0 s) : Keeps true s0 (siteFault s n) := by
  dsimp only [siteFault]
  with_reducible repeat' first | assumption | apply chargeSite_keeps | apply condemn_keeps | split

theorem execFault24hExpiry_keeps (site : BitVec 16) (s : State) {wr : Bool} {s0 : State} (hk : Keeps wr s0 s) {t : State} (h :
    execFault24hExpiry site s = .next t) : Keeps wr s0 t := by
  dsimp only [execFault24hExpiry] at h
  split at h
  · cases h; exact modSite_keeps _ _ _ hk
  · cases h

theorem clearMark_keeps (s : State) (core c : Nat) {s0 : State} (hk : Keeps true s0 s) : Keeps true s0 (clearMark s core c) :=
    by
  dsimp only [clearMark]
  with_reducible repeat' first | assumption | apply setCore_keeps | apply siteFault_keeps | split | simp only [↓keeps_mk]

theorem dropMarks_keeps (s : State) (c : Nat) {s0 : State} (hk : Keeps true s0 s) : Keeps true s0 (dropMarks s c) := by
  dsimp only [dropMarks]
  with_reducible repeat' first
      | assumption | apply clearMark_keeps | refine keeps_foldl ?_ (fun _ _ _ => ?_) | refine keeps_foldl1 ?_ (fun _ _ _ => ?_)
      | split | simp only [↓keeps_mk]

theorem execTrialPass_keeps (core : CoreId) (s : State) {s0 : State} (hk : Keeps true s0 s) {t : State} (h : execTrialPass core
    s = .next t) : Keeps true s0 t := by
  dsimp only [execTrialPass] at h; cases h
  with_reducible repeat' first
      | assumption | apply goHome_keeps | apply clearMark_keeps | apply modCore_keeps | split | simp only [↓keeps_mk]

theorem execReplayStopped_keeps (c : CtxId) (s : State) {s0 : State} (hk : Keeps true s0 s) {t : State} (h : execReplayStopped
    c s = .next t) : Keeps true s0 t := by
  dsimp only [execReplayStopped] at h; cases h
  with_reducible repeat' first | assumption | apply replayStep_keeps | split

theorem engineFault_keeps (s : State) (core : CoreId) (eng : Fin 6) (hw : Bool) (detail : Nat) {s0 : State} (hk : Keeps true s0
    s) : Keeps true s0 (engineFault s core eng hw detail) := by
  dsimp only [engineFault]
  with_reducible repeat' first
      | assumption | apply coreFault_keeps | apply recordFault_keeps | apply siteFault_keeps | split | simp only [↓keeps_mk]

theorem rotationStart_keeps (s : State) (n : Nat) {wr : Bool} {s0 : State} (hk : Keeps wr s0 s) {t : State} (h : rotationStart
    s n = some t) : Keeps wr s0 t := by
  unfold rotationStart at h
  extract_lets at h
  split at h
  · cases h
  · split at h
    · cases h; exact startTest_keeps _ _ _ _ hk
    · split at h
      · cases h
      · split at h
        · cases h; exact startTest_keeps _ _ _ _ hk
        · split at h
          · cases h
          · obtain ⟨a, _, rfl⟩ := Option.map_eq_some_iff.1 h
            with_reducible repeat' first | assumption | apply startMove_keeps | apply modSite_keeps | apply dropShadowsOn_keeps

theorem execKatStart_keeps (die : DieId) (s : State) {wr : Bool} {s0 : State} (hk : Keeps wr s0 s) {t : State} (h :
    execKatStart die s = .next t) : Keeps wr s0 t := by
  dsimp only [execKatStart] at h; cases h
  with_reducible repeat' first | assumption | split | refine rotationStart_keeps _ _ ?_ (by assumption) | simp only [↓keeps_mk]

theorem execKatForced_keeps (core : CoreId) (s : State) {wr : Bool} {s0 : State} (hk : Keeps wr s0 s) {t : State} (h :
    execKatForced core s = .next t) : Keeps wr s0 t := by
  dsimp only [execKatForced] at h; cases h
  with_reducible repeat' first
      | assumption | apply startTest_keeps | apply beginSave_keeps | split | refine keeps_pair (by assumption) ?_
      | simp only [↓keeps_mk]

theorem moveRecord_keeps (s : State) (core c : Nat) {wr : Bool} {s0 : State} (hk : Keeps wr s0 s) : Keeps wr s0 (moveRecord s
    core c) := by
  dsimp only [moveRecord]
  with_reducible repeat' first
      | assumption | apply loadRecord_keeps | apply settle_keeps | apply modCore_keeps | split | simp only [↓keeps_mk]

theorem execStandInMoveDone_keeps (core : CoreId) (s : State) {wr : Bool} {s0 : State} (hk : Keeps wr s0 s) {t : State} (h :
    execStandInMoveDone core s = .next t) : Keeps wr s0 t := by
  dsimp only [execStandInMoveDone] at h; cases h
  with_reducible repeat' first
      | assumption | apply moveRecord_keeps | apply modPage_keeps | apply startTest_keeps | apply modSite_keeps | split
      | simp only [↓keeps_mk]

theorem noteKatFail_keeps (s : State) (n : Nat) {wr : Bool} {s0 : State} (hk : Keeps wr s0 s) : Keeps wr s0 (noteKatFail s n)
    := by
  dsimp only [noteKatFail]
  with_reducible repeat' first | assumption | apply raise_keeps | apply bump32_keeps | split | simp only [↓keeps_mk]

theorem sliceTie_keeps (s : State) (t : Test) (ns : Nat) {wr : Bool} {s0 : State} (hk : Keeps wr s0 s) : Keeps wr s0 (sliceTie
    s t ns) := by
  dsimp only [sliceTie]
  with_reducible repeat' first | assumption | apply addTie_keeps | split

theorem noteSlice_keeps (s : State) (t : Test) (r : KatResult) {wr : Bool} {s0 : State} (hk : Keeps wr s0 s) : Keeps wr s0
    (noteSlice s t r) := by
  dsimp only [noteSlice]
  with_reducible repeat' first
      | assumption | apply freshNat_keeps | apply sliceTie_keeps | apply modSite_keeps | split
      | refine keeps_pair (by assumption) ?_ | simp only [↓keeps_mk]

theorem markSuspects_keeps (s : State) (core : Nat) {wr : Bool} {s0 : State} (hk : Keeps wr s0 s) : Keeps wr s0 (markSuspects s
    core) := by
  dsimp only [markSuspects]
  with_reducible repeat' first | assumption | apply modCore_keeps | split | simp only [↓keeps_mk]

theorem resumeReplays_keeps (s : State) (core : Nat) {wr : Bool} {s0 : State} (hk : Keeps wr s0 s) : Keeps wr s0 (resumeReplays
    s core) := by
  dsimp only [resumeReplays]
  with_reducible repeat' first | assumption | split | simp only [↓keeps_mk]

theorem katOutcome_keeps (s : State) (t : Test) (ok : Bool) {s0 : State} (hk : Keeps true s0 s) : Keeps true s0 (katOutcome s t
    ok) := by
  dsimp only [katOutcome]
  with_reducible repeat' first
      | assumption | apply condemn_keeps | apply goHome_keeps | apply keepStandIn_keeps | apply makeDefective_keeps
      | apply returnHome_keeps | apply leaveSite_keeps | apply resumeReplays_keeps | apply markSuspects_keeps
      | apply modCore_keeps | apply rerunAll_keeps | apply substitute_keeps | split | simp only [↓keeps_mk]

theorem execKatDone_keeps (site : BitVec 16) (r : KatResult) (s : State) {s0 : State} (hk : Keeps true s0 s) {t : State} (h :
    execKatDone site r s = .next t) : Keeps true s0 t := by
  dsimp only [execKatDone] at h
  split at h
  · cases h
  · cases h
    with_reducible repeat' first
      | assumption | apply katOutcome_keeps | apply noteKatFail_keeps | apply clearTested_keeps | apply noteSlice_keeps
      | apply modSite_keeps | split | simp only [↓keeps_mk]

theorem setShadow_keeps (s : State) (old : ShadowRun) (l : List ShadowRun) {wr : Bool} {s0 : State} (hk : Keeps wr s0 s) :
    Keeps wr s0 (setShadow s old l) := by
  dsimp only [setShadow]
  with_reducible repeat' first | assumption | split | simp only [↓keeps_mk]

theorem execShadowRunDone_keeps (core : CoreId) (crc : Word) (s : State) {wr : Bool} {s0 : State} (hk : Keeps wr s0 s) {t :
    State} (h : execShadowRunDone core crc s = .next t) : Keeps wr s0 t := by
  dsimp only [execShadowRunDone] at h; cases h
  with_reducible repeat' first
      | assumption | apply bump64_keeps | apply setShadow_keeps | apply raise_keeps | apply bump32_keeps | split
      | simp only [↓keeps_mk]

theorem placedLoses_keeps (s : State) (r : ShadowRun) {s0 : State} (hk : Keeps true s0 s) : Keeps true s0 (placedLoses s r) :=
    by
  dsimp only [placedLoses]
  with_reducible repeat' first
      | assumption | apply recordFault_keeps | apply enterFaulted_keeps | apply noteHw_keeps | apply chargeSite_keeps
      | apply siteFault_keeps | split

theorem splitVote_keeps (s : State) (r : ShadowRun) {s0 : State} (hk : Keeps true s0 s) : Keeps true s0 (splitVote s r) := by
  dsimp only [splitVote]
  with_reducible repeat' first
      | assumption | apply sharedEvent_keeps | apply enterFaulted_keeps | apply recordFault_keeps | split
      | simp only [↓keeps_mk]

theorem execShadowVoteDone_keeps (core : CoreId) (crc : Word) (s : State) {s0 : State} (hk : Keeps true s0 s) {t : State} (h :
    execShadowVoteDone core crc s = .next t) : Keeps true s0 t := by
  dsimp only [execShadowVoteDone] at h; cases h
  with_reducible repeat' first
      | assumption | apply setShadow_keeps | apply placedLoses_keeps | apply siteFault_keeps | apply splitVote_keeps | split
      | simp only [↓keeps_mk]

/-! ### Ix -/

theorem execIxArm_keeps (c : CtxId) (s : State) {wr : Bool} {s0 : State} (hk : Keeps wr s0 s) {t : State} (h : execIxArm c s =
    .next t) : Keeps wr s0 t := by
  dsimp only [execIxArm] at h; cases h
  with_reducible repeat' first
      | assumption | apply takePostIf_keeps | apply completePost_keeps | apply setFlows_keeps | apply setIxSlot_keeps | split
      | intro _ | simp only [↓keeps_mk]

theorem execIxDisarm_keeps (c : CtxId) (s : State) {wr : Bool} {s0 : State} (hk : Keeps wr s0 s) {t : State} (h : execIxDisarm
    c s = .next t) : Keeps wr s0 t := by
  dsimp only [execIxDisarm] at h; cases h
  with_reducible repeat' first
      | assumption | apply takePost_keeps | apply completePost_keeps | apply ixFree_keeps | split | intro _
      | simp only [↓keeps_mk]

theorem ixGrants_keeps (s : State) (d k : Nat) {wr : Bool} {s0 : State} (hk : Keeps wr s0 s) : Keeps wr s0 (ixGrants s d k) :=
    by
  dsimp only [ixGrants]
  with_reducible repeat' first
      | assumption | apply ixQueue_keeps | apply ixPump_keeps | apply modIxSlot_keeps | refine keeps_foldl ?_ (fun _ _ _ => ?_)
      | refine keeps_foldl1 ?_ (fun _ _ _ => ?_) | split | simp only [↓keeps_mk]

theorem ixDue_keeps (s : State) (d k : Nat) {s0 : State} (hk : Keeps true s0 s) : Keeps true s0 (ixDue s d k) := by
  dsimp only [ixDue]
  with_reducible repeat' first
      | assumption | apply modIxSlot_keeps | apply writeFrom_keeps | apply ixAbort_keeps | split
      | refine keeps_pair (by assumption) ?_ | simp only [↓keeps_mk]

theorem ixEnd_keeps (s : State) (d k : Nat) {wr : Bool} {s0 : State} (hk : Keeps wr s0 s) : Keeps wr s0 (ixEnd s d k) := by
  dsimp only [ixEnd]
  with_reducible repeat' first
      | assumption | apply setIxSlot_keeps | apply addEvent_keeps | apply ixFree_keeps | split | simp only [↓keeps_mk]

theorem ixDrive_keeps (s : State) (d k fuel : Nat) {s0 : State} (hk : Keeps true s0 s) : Keeps true s0 (ixDrive s d k fuel) :=
    by
  induction fuel generalizing s with
  | zero => exact hk
  | succ fuel ih =>
    simp only [ixDrive]
    with_reducible repeat' first
      | assumption | apply ih | apply ixDue_keeps | apply ixEnd_keeps | apply deliverSignal_keeps | apply modIxSlot_keeps
      | apply ixAbort_keeps | apply ixGrants_keeps | split | refine keeps_pair (by assumption) ?_

theorem ixAllocate_keeps (s : State) (d k : Nat) {s0 : State} (hk : Keeps true s0 s) : Keeps true s0 (ixAllocate s d k) := by
  dsimp only [ixAllocate]
  with_reducible repeat' first
      | assumption | apply setFlow_keeps | apply setIxSlot_keeps | apply writeFrom_keeps | apply ixAbort_keeps
      | apply ixDrive_keeps | apply modIxSlot_keeps | refine keeps_foldl ?_ (fun _ _ _ => ?_)
      | refine keeps_foldl1 ?_ (fun _ _ _ => ?_) | split | refine keeps_pair (by assumption) ?_ | simp only [↓keeps_mk]

theorem ixTie_keeps (s : State) (d : Nat) (x : IxSlot) (t : Nat) {wr : Bool} {s0 : State} (hk : Keeps wr s0 s) : Keeps wr s0
    (ixTie s d x t) := by
  dsimp only [ixTie]
  with_reducible repeat' first | assumption | apply addTie_keeps | split

theorem ixTakeCount_keeps (s : State) (d k : Nat) (m : IxMsg) {s0 : State} (hk : Keeps true s0 s) : Keeps true s0 (ixTakeCount
    s d k m) := by
  dsimp only [ixTakeCount]
  with_reducible repeat' first
      | assumption | apply modFlow_keeps | apply countIn_keeps | apply ixAllocate_keeps | apply ixTie_keeps
      | refine keeps_foldl ?_ (fun _ _ _ => ?_) | refine keeps_foldl1 ?_ (fun _ _ _ => ?_) | split | simp only [↓keeps_mk]

theorem ixTakeEarly_keeps (s : State) (d k : Nat) {s0 : State} (hk : Keeps true s0 s) : Keeps true s0 (ixTakeEarly s d k) := by
  dsimp only [ixTakeEarly]
  with_reducible repeat' first
      | assumption | apply setIx_keeps | apply ixTakeCount_keeps | refine keeps_foldl ?_ (fun _ _ _ => ?_)
      | refine keeps_foldl1 ?_ (fun _ _ _ => ?_) | split | simp only [↓keeps_mk]

theorem execIxRoundTrigger_keeps (die : DieId) (slot : Fin 16) (s : State) {s0 : State} (hk : Keeps true s0 s) {t : State} (h :
    execIxRoundTrigger die slot s = .next t) : Keeps true s0 t := by
  dsimp only [execIxRoundTrigger] at h; cases h
  with_reducible repeat' first
      | assumption | apply ixAbort_keeps | apply setFlows_keeps | apply setIxSlot_keeps | apply ixQueue_keeps
      | apply ixPump_keeps | apply ixTakeEarly_keeps | refine keeps_foldl ?_ (fun _ _ _ => ?_)
      | refine keeps_foldl1 ?_ (fun _ _ _ => ?_) | split | simp only [↓keeps_mk]

theorem ixAnswer_keeps (s : State) (d : Nat) (m : Msg) (code : Nat) {wr : Bool} {s0 : State} (hk : Keeps wr s0 s) : Keeps wr s0
    (ixAnswer s d m code) := by
  dsimp only [ixAnswer]
  with_reducible repeat' first | assumption | apply sendAnswer_keeps | split

theorem ixStray_keeps (s : State) (d : Nat) (m : Msg) {wr : Bool} {s0 : State} (hk : Keeps wr s0 s) : Keeps wr s0 (ixStray s d
    m) := by
  dsimp only [ixStray]
  with_reducible repeat' first | assumption | apply ixAnswer_keeps | apply bump32_keeps | split

theorem ixHold_keeps (s : State) (d : Nat) (m : Msg) {wr : Bool} {s0 : State} (hk : Keeps wr s0 s) : Keeps wr s0 (ixHold s d m)
    := by
  dsimp only [ixHold]
  with_reducible repeat' first | assumption | apply ixAnswer_keeps | apply setIx_keeps | split | simp only [↓keeps_mk]

theorem ixArrive_keeps (s : State) (idx typ : Nat) (ready : IxSlot → IxMsg → Bool) (act : State → Nat → Nat → Msg → IxMsg →
    State) {wr : Bool} {s0 : State} (hk : Keeps wr s0 s) (ha : ∀ s' d k m b, Keeps wr s0 s' → Keeps wr s0 (act s' d k m b)) :
    Keeps wr s0 (ixArrive s idx typ ready act) := by
  dsimp only [ixArrive]
  with_reducible repeat' first
      | assumption | apply ha | apply dropMsg_keeps | apply ixAnswer_keeps | apply ixStray_keeps | apply ixHold_keeps | split
      | simp only [↓keeps_mk]

theorem execIxCount_keeps (idx : Nat) (s : State) {s0 : State} (hk : Keeps true s0 s) {t : State} (h : execIxCount idx s =
    .next t) : Keeps true s0 t := by
  dsimp only [execIxCount] at h; cases h
  with_reducible repeat' first
      | assumption | apply ixArrive_keeps | apply ixTakeCount_keeps | apply ixAnswer_keeps | split | intro _

theorem ixDispatch_keeps (s : State) (d k h lo hi : Nat) {wr : Bool} {s0 : State} (hk : Keeps wr s0 s) : Keeps wr s0
    (ixDispatch s d k h lo hi).1 := by
  dsimp only [ixDispatch]
  with_reducible repeat' first
      | assumption | apply bump32_keeps | apply modIxSlot_keeps | apply ixQueue_keeps | refine keeps_foldl ?_ (fun _ _ _ => ?_)
      | refine keeps_foldl1 ?_ (fun _ _ _ => ?_) | split | simp only [↓keeps_mk]

theorem ixZeroRow_keeps (s : State) (d : Nat) (x : IxSlot) (i : Nat) {s0 : State} (hk : Keeps true s0 s) : Keeps true s0
    (ixZeroRow s d x i).1 := by
  dsimp only [ixZeroRow]
  with_reducible repeat' first | assumption | apply writeFrom_keeps | split

theorem ixCombineHome_keeps (s : State) (d k h : Nat) {s0 : State} (hk : Keeps true s0 s) : Keeps true s0 (ixCombineHome s d k
    h).1 := by
  dsimp only [ixCombineHome]
  with_reducible repeat' first
      | assumption | apply ixZeroRow_keeps | apply ixQueue_keeps | refine keeps_foldl ?_ (fun _ _ _ => ?_)
      | refine keeps_foldl1 ?_ (fun _ _ _ => ?_) | split

theorem ixAfter_keeps (t : State × Option (Code × Nat)) (d k : Nat) {s0 : State} (hk : Keeps true s0 t.1) : Keeps true s0
    (ixAfter t d k) := by
  dsimp only [ixAfter]
  with_reducible repeat' first | assumption | apply ixAbort_keeps | apply ixDrive_keeps | apply ixPump_keeps | split

theorem execIxGrant_keeps (idx : Nat) (s : State) {s0 : State} (hk : Keeps true s0 s) {t : State} (h : execIxGrant idx s =
    .next t) : Keeps true s0 t := by
  dsimp only [execIxGrant] at h; cases h
  with_reducible repeat' first
      | assumption | apply ixArrive_keeps | apply ixAnswer_keeps | apply modFlow_keeps | apply ixDispatch_keeps
      | apply ixAfter_keeps | apply ixCombineHome_keeps | refine keeps_foldl ?_ (fun _ _ _ => ?_)
      | refine keeps_foldl1 ?_ (fun _ _ _ => ?_) | split | refine keeps_pair (by assumption) ?_ | intro _
      | simp only [↓keeps_mk]

theorem execIxToken_keeps (idx : Nat) (s : State) {s0 : State} (hk : Keeps true s0 s) {t : State} (h : execIxToken idx s =
    .next t) : Keeps true s0 t := by
  dsimp only [execIxToken] at h; cases h
  with_reducible repeat' first
      | assumption | apply ixArrive_keeps | apply ixStray_keeps | apply writeFrom_keeps | apply ixAbort_keeps
      | apply ixAnswer_keeps | apply setIxSlot_keeps | apply bump64_keeps | apply modFlow_keeps | apply ixDrive_keeps | split
      | refine keeps_pair (by assumption) ?_ | intro _ | simp only [↓keeps_mk]

theorem execIxReady_keeps (idx : Nat) (s : State) {s0 : State} (hk : Keeps true s0 s) {t : State} (h : execIxReady idx s =
    .next t) : Keeps true s0 t := by
  dsimp only [execIxReady] at h; cases h
  with_reducible repeat' first
      | assumption | apply ixArrive_keeps | apply ixStray_keeps | apply ixAnswer_keeps | apply ixTie_keeps
      | apply setIxSlot_keeps | apply modFlow_keeps | apply ixAfter_keeps | apply ixCombineHome_keeps
      | refine keeps_foldl ?_ (fun _ _ _ => ?_) | refine keeps_foldl1 ?_ (fun _ _ _ => ?_) | split | intro _
      | simp only [↓keeps_mk]

theorem execIxFetch_keeps (idx : Nat) (s : State) {s0 : State} (hk : Keeps true s0 s) {t : State} (h : execIxFetch idx s =
    .next t) : Keeps true s0 t := by
  dsimp only [execIxFetch] at h; cases h
  with_reducible repeat' first
      | assumption | apply ixArrive_keeps | apply ixStray_keeps | apply ixAbort_keeps | apply ixAnswer_keeps
      | apply sendAnswer_keeps | apply setIxSlot_keeps | apply modFlow_keeps | apply ixDrive_keeps | split
      | refine keeps_pair (by assumption) ?_ | intro _ | simp only [↓keeps_mk]

theorem execIxAbort_keeps (idx : Nat) (s : State) {s0 : State} (hk : Keeps true s0 s) {t : State} (h : execIxAbort idx s =
    .next t) : Keeps true s0 t := by
  dsimp only [execIxAbort] at h; cases h
  with_reducible repeat' first
      | assumption | apply ixArrive_keeps | apply ixAbort_keeps | apply ixAnswer_keeps | split | intro _

theorem ixSettle_keeps (s : State) (idx typ : Nat) (act : State → Nat → IxReq → Msg → IxMsg → State) {wr : Bool} {s0 : State}
    (hk : Keeps wr s0 s) (ha : ∀ s' d r m b, Keeps wr s0 s' → Keeps wr s0 (act s' d r m b)) : Keeps wr s0 (ixSettle s idx typ
    act) := by
  dsimp only [ixSettle]
  with_reducible repeat' first
      | assumption | apply ha | apply settleOut_keeps | apply dropMsg_keeps | apply unawaited_keeps | apply cwDecrease_keeps
      | apply setIx_keeps | apply ixPump_keeps | apply ixQuiet_keeps | split | refine keeps_pair (by assumption) ?_
      | simp only [↓keeps_mk]

theorem execIxFetchData_keeps (idx : Nat) (s : State) {s0 : State} (hk : Keeps true s0 s) {t : State} (h : execIxFetchData idx
    s = .next t) : Keeps true s0 t := by
  dsimp only [execIxFetchData] at h; cases h
  with_reducible repeat' first
      | assumption | apply ixSettle_keeps | apply writeFrom_keeps | apply ixAbort_keeps | apply setIxSlot_keeps
      | apply modFlow_keeps | apply ixDrive_keeps | apply ixPump_keeps | split | refine keeps_pair (by assumption) ?_ | intro _
      | simp only [↓keeps_mk]

theorem execIxAck_keeps (idx : Nat) (s : State) {s0 : State} (hk : Keeps true s0 s) {t : State} (h : execIxAck idx s = .next t)
    : Keeps true s0 t := by
  dsimp only [execIxAck] at h; cases h
  with_reducible repeat' first
      | assumption | apply ixSettle_keeps | apply ixPump_keeps | apply setIxSlot_keeps | apply ixAbort_keeps
      | apply modFlow_keeps | apply countIn_keeps | apply ixDrive_keeps | refine keeps_foldl ?_ (fun _ _ _ => ?_)
      | refine keeps_foldl1 ?_ (fun _ _ _ => ?_) | split | refine keeps_pair (by assumption) ?_ | intro _
      | simp only [↓keeps_mk]

theorem execIxCombineTrigger_keeps (die : DieId) (slot : Fin 16) (s : State) {s0 : State} (hk : Keeps true s0 s) {t : State} (h
    : execIxCombineTrigger die slot s = .next t) : Keeps true s0 t := by
  dsimp only [execIxCombineTrigger] at h; cases h
  with_reducible repeat' first
      | assumption | apply setIxSlot_keeps | apply ixZeroRow_keeps | apply ixAbort_keeps | apply ixQueue_keeps
      | apply ixDrive_keeps | apply ixPump_keeps | refine keeps_foldl ?_ (fun _ _ _ => ?_)
      | refine keeps_foldl1 ?_ (fun _ _ _ => ?_) | split | refine keeps_pair (by assumption) ?_ | simp only [↓keeps_mk]

theorem execIxLimitExpiry_keeps (die : DieId) (slot : Fin 16) (s : State) {s0 : State} (hk : Keeps true s0 s) {t : State} (h :
    execIxLimitExpiry die slot s = .next t) : Keeps true s0 t := by
  dsimp only [execIxLimitExpiry] at h; cases h
  with_reducible repeat' first | assumption | apply ixAbort_keeps | split

theorem execIxCountRetry_keeps (die : DieId) (slot : Fin 16) (s : State) {s0 : State} (hk : Keeps true s0 s) {t : State} (h :
    execIxCountRetry die slot s = .next t) : Keeps true s0 t := by
  dsimp only [execIxCountRetry] at h; cases h
  with_reducible repeat' first
      | assumption | apply ixAbort_keeps | apply setIxSlot_keeps | apply ixPump_keeps | apply ixQueue_keeps | split
      | simp only [↓keeps_mk]

theorem execIxSignalRetry_keeps (die : DieId) (slot : Fin 16) (s : State) {s0 : State} (hk : Keeps true s0 s) {t : State} (h :
    execIxSignalRetry die slot s = .next t) : Keeps true s0 t := by
  dsimp only [execIxSignalRetry] at h; cases h
  with_reducible repeat' first | assumption | apply ixDrive_keeps | split

end Sys2Proof.Machine
end

