-- ==== Sys2Proof/Laws/KeepsModule.lean ====
section
/-!
SUPPORT. The frame lemmas (Keeps) of links, resets, the fabric, partitions, power, bring-up, security, observation and registers; and
what the commands that are not frames do to the queue and the invariant (Goes).
-/

namespace Sys2Proof.Machine

/-! ### Links -/

theorem dropUnits_keeps (s : State) (p : Nat) {wr : Bool} {s0 : State} (hk : Keeps wr s0 s) : Keeps wr s0 (dropUnits s p) := by
  dsimp only [dropUnits]
  with_reducible repeat' first | assumption | apply bump32_keeps | apply setPort_keeps | split | simp only [↓keeps_mk]

theorem dropQueued_keeps (s : State) (p : Nat) {wr : Bool} {s0 : State} (hk : Keeps wr s0 s) : Keeps wr s0 (dropQueued s p) :=
    by
  dsimp only [dropQueued]
  with_reducible repeat' first
      | assumption | apply dropUnits_keeps | apply bump32_keeps | apply modPort_keeps | split | simp only [↓keeps_mk]

theorem leaveActive_keeps (s : State) (p : Nat) {wr : Bool} {s0 : State} (hk : Keeps wr s0 s) : Keeps wr s0 (leaveActive s p)
    := by
  dsimp only [leaveActive]
  with_reducible repeat' first
      | assumption | apply raise_keeps | apply modPort_keeps | apply dropQueued_keeps | split | simp only [↓keeps_mk]

theorem goDark_keeps (s : State) (p : Nat) {wr : Bool} {s0 : State} (hk : Keeps wr s0 s) : Keeps wr s0 (goDark s p) := by
  dsimp only [goDark]
  with_reducible repeat' first | assumption | apply leaveActive_keeps | apply modPort_keeps | split | simp only [↓keeps_mk]

theorem startTraining_keeps (s : State) (p : Nat) {wr : Bool} {s0 : State} (hk : Keeps wr s0 s) : Keeps wr s0 (startTraining s
    p) := by
  dsimp only [startTraining]
  with_reducible repeat' first | assumption | apply addEvent_keeps | apply modPort_keeps | split | simp only [↓keeps_mk]

theorem dropOut_keeps (s : State) (p : Nat) {wr : Bool} {s0 : State} (hk : Keeps wr s0 s) : Keeps wr s0 (dropOut s p) := by
  dsimp only [dropOut]
  with_reducible repeat' first | assumption | apply goDark_keeps | apply startTraining_keeps | split

theorem failTraining_keeps (s : State) (p : Nat) {wr : Bool} {s0 : State} (hk : Keeps wr s0 s) : Keeps wr s0 (failTraining s p)
    := by
  dsimp only [failTraining]
  with_reducible repeat' first
      | assumption | apply bump32_keeps | apply goDark_keeps | apply modPort_keeps | split | simp only [↓keeps_mk]

theorem lightOn_keeps (s : State) (port : Nat) {wr : Bool} {s0 : State} (hk : Keeps wr s0 s) : Keeps wr s0 (lightOn s port) :=
    by
  dsimp only [lightOn]
  with_reducible repeat' first | assumption | apply modPort_keeps | apply startTraining_keeps | split | simp only [↓keeps_mk]

theorem lightLoss_keeps (s : State) (port : Nat) {wr : Bool} {s0 : State} (hk : Keeps wr s0 s) : Keeps wr s0 (lightLoss s port)
    := by
  dsimp only [lightLoss]
  with_reducible repeat' first | assumption | apply modPort_keeps | apply goDark_keeps | split | simp only [↓keeps_mk]

theorem setCmp_keeps (s : State) (k : Nat) (x : Comparator) {wr : Bool} {s0 : State} (hk : Keeps wr s0 s) : Keeps wr s0 (setCmp
    s k x) := by
  dsimp only [setCmp]
  with_reducible repeat' first | assumption | split | simp only [↓keeps_mk]

theorem modPower_keeps (s : State) (f : Power → Power) {wr : Bool} {s0 : State} (hk : Keeps wr s0 s) : Keeps wr s0 (modPower s
    f) := by
  dsimp only [modPower]
  with_reducible repeat' first | assumption | split | simp only [↓keeps_mk]

theorem startBringup_keeps (s : State) {wr : Bool} {s0 : State} (hk : Keeps wr s0 s) : Keeps wr s0 (startBringup s) := by
  dsimp only [startBringup]
  with_reducible repeat' first | assumption | split | simp only [↓keeps_mk]

theorem wakeNow_keeps (s : State) {wr : Bool} {s0 : State} (hk : Keeps wr s0 s) : Keeps wr s0 (wakeNow s) := by
  dsimp only [wakeNow]
  with_reducible repeat' first | assumption | apply startBringup_keeps | apply modPower_keeps | split | simp only [↓keeps_mk]

theorem wake_keeps (s : State) {wr : Bool} {s0 : State} (hk : Keeps wr s0 s) : Keeps wr s0 (wake s) := by
  dsimp only [wake]
  with_reducible repeat' first | assumption | apply modPower_keeps | apply wakeNow_keeps | split | simp only [↓keeps_mk]

theorem countThrottle_keeps (s : State) {wr : Bool} {s0 : State} (hk : Keeps wr s0 s) : Keeps wr s0 (countThrottle s) := by
  dsimp only [countThrottle]
  with_reducible repeat' first | assumption | apply modPower_keeps | apply bump32_keeps | split | simp only [↓keeps_mk]

theorem wakeFired_keeps (s : State) {wr : Bool} {s0 : State} (hk : Keeps wr s0 s) : Keeps wr s0 (wakeFired s) := by
  dsimp only [wakeFired]
  with_reducible repeat' first | assumption | apply wake_keeps | split

theorem fireCmp_keeps (s : State) (k : Nat) {wr : Bool} {s0 : State} (hk : Keeps wr s0 s) : Keeps wr s0 (fireCmp s k) := by
  dsimp only [fireCmp]
  with_reducible repeat' first
      | assumption | apply setCmp_keeps | apply alertCause_keeps | apply raiseCause_keeps | apply wake_keeps | split
      | simp only [↓keeps_mk]

theorem fireLight_keeps (s : State) (port : Nat) {wr : Bool} {s0 : State} (hk : Keeps wr s0 s) : Keeps wr s0 (fireLight s port)
    := by
  dsimp only [fireLight]
  with_reducible repeat' first | assumption | apply fireCmp_keeps | split

theorem execLightOn_keeps (port : PortId) (s : State) {wr : Bool} {s0 : State} (hk : Keeps wr s0 s) {t : State} (h :
    execLightOn port s = .next t) : Keeps wr s0 t := by
  dsimp only [execLightOn] at h; cases h
  with_reducible repeat' first | assumption | apply fireLight_keeps | apply lightOn_keeps | split

theorem execLightLoss_keeps (port : PortId) (s : State) {wr : Bool} {s0 : State} (hk : Keeps wr s0 s) {t : State} (h :
    execLightLoss port s = .next t) : Keeps wr s0 t := by
  dsimp only [execLightLoss] at h; cases h
  with_reducible repeat' first | assumption | apply fireLight_keeps | apply lightLoss_keeps | split

theorem execTrainStepDone_keeps (port : PortId) (tx rx : BitVec 8) (s : State) {wr : Bool} {s0 : State} (hk : Keeps wr s0 s) {t
    : State} (h : execTrainStepDone port tx rx s = .next t) : Keeps wr s0 t := by
  dsimp only [execTrainStepDone] at h; cases h
  with_reducible repeat' first | assumption | apply setPort_keeps | apply failTraining_keeps | split | simp only [↓keeps_mk]

theorem execTrainTimeout_keeps (port : PortId) (s : State) {wr : Bool} {s0 : State} (hk : Keeps wr s0 s) {t : State} (h :
    execTrainTimeout port s = .next t) : Keeps wr s0 t := by
  dsimp only [execTrainTimeout] at h; cases h
  with_reducible repeat' first | assumption | apply failTraining_keeps | split

theorem execTrainRetry_keeps (port : PortId) (s : State) {wr : Bool} {s0 : State} (hk : Keeps wr s0 s) {t : State} (h :
    execTrainRetry port s = .next t) : Keeps wr s0 t := by
  dsimp only [execTrainRetry] at h; cases h
  with_reducible repeat' first | assumption | apply startTraining_keeps | split

theorem failsPlan_keeps (s : State) (p : Nat) {wr : Bool} {s0 : State} (hk : Keeps wr s0 s) : Keeps wr s0 (failsPlan s p) := by
  dsimp only [failsPlan]
  with_reducible repeat' first
      | assumption | apply raise_keeps | apply modPort_keeps | apply dropUnits_keeps | split | simp only [↓keeps_mk]

theorem checkIdent_keeps (s : State) (p : Nat) (id : Ident) {wr : Bool} {s0 : State} (hk : Keeps wr s0 s) : Keeps wr s0
    (checkIdent s p id) := by
  dsimp only [checkIdent]
  with_reducible repeat' first
      | assumption | apply setPort_keeps | apply dropOut_keeps | apply failsPlan_keeps | apply modPort_keeps
      | apply raise_keeps | split | dsimp only [id] | simp only [↓keeps_mk]

theorem takeIdent_keeps (s : State) (p : Nat) (id : Ident) {wr : Bool} {s0 : State} (hk : Keeps wr s0 s) : Keeps wr s0
    (takeIdent s p id) := by
  dsimp only [takeIdent]
  with_reducible repeat' first
      | assumption | apply checkIdent_keeps | apply setPort_keeps | split | dsimp only [id] | simp only [↓keeps_mk]

theorem execIdentReceive_keeps (port : PortId) (id : Ident) (s : State) {wr : Bool} {s0 : State} (hk : Keeps wr s0 s) {t :
    State} (h : execIdentReceive port id s = .next t) : Keeps wr s0 t := by
  dsimp only [execIdentReceive] at h; cases h
  with_reducible repeat' first | assumption | apply takeIdent_keeps | split | dsimp only [id]

theorem execPortRetrain_keeps (port : PortId) (s : State) {wr : Bool} {s0 : State} (hk : Keeps wr s0 s) {t : State} (h :
    execPortRetrain port s = .next t) : Keeps wr s0 t := by
  dsimp only [execPortRetrain] at h; cases h
  with_reducible repeat' first
      | assumption | apply addEvent_keeps | apply setPort_keeps | split | refine keeps_pair (by assumption) ?_
      | simp only [↓keeps_mk]

theorem execPlanOpen_keeps (p : PartId) (val : Word) (s : State) {wr : Bool} {s0 : State} (hk : Keeps wr s0 s) {t : State} (h :
    execPlanOpen p val s = .next t) : Keeps wr s0 t := by
  dsimp only [execPlanOpen] at h; cases h
  with_reducible repeat' first | assumption | apply writeReg_keeps | apply setReg_keeps | split | intro _

theorem applyPlan_keeps (s : State) (v : Nat) {wr : Bool} {s0 : State} (hk : Keeps wr s0 s) : Keeps wr s0 (applyPlan s v) := by
  dsimp only [applyPlan]
  with_reducible repeat' first
      | assumption | apply setReg_keeps | apply setPort_keeps | refine keeps_foldl ?_ (fun _ _ _ => ?_)
      | refine keeps_foldl1 ?_ (fun _ _ _ => ?_) | split | simp only [↓keeps_mk]

theorem execPlanApply_keeps (p : PartId) (val : Word) (s : State) {wr : Bool} {s0 : State} (hk : Keeps wr s0 s) {t : State} (h
    : execPlanApply p val s = .next t) : Keeps wr s0 t := by
  dsimp only [execPlanApply] at h; cases h
  with_reducible repeat' first | assumption | apply writeReg_keeps | apply applyPlan_keeps | split | intro _

theorem execPlanApplyDone_keeps (s : State) {wr : Bool} {s0 : State} (hk : Keeps wr s0 s) {t : State} (h : execPlanApplyDone s
    = .next t) : Keeps wr s0 t := by
  dsimp only [execPlanApplyDone] at h; cases h
  with_reducible repeat' first
      | assumption | apply checkIdent_keeps | apply setReg_keeps | refine keeps_foldl ?_ (fun _ _ _ => ?_)
      | refine keeps_foldl1 ?_ (fun _ _ _ => ?_) | split | dsimp only [id] | simp only [↓keeps_mk]

theorem widthChange_keeps (s : State) (p : Nat) {wr : Bool} {s0 : State} (hk : Keeps wr s0 s) : Keeps wr s0 (widthChange s p)
    := by
  dsimp only [widthChange]
  with_reducible repeat' first
      | assumption | apply failTraining_keeps | apply dropOut_keeps | apply setPort_keeps | apply bump32_keeps
      | apply raise_keeps | split | simp only [↓keeps_mk]

theorem execLaneFail_keeps (port : PortId) (lane : Fin 8) (s : State) {wr : Bool} {s0 : State} (hk : Keeps wr s0 s) {t : State}
    (h : execLaneFail port lane s = .next t) : Keeps wr s0 t := by
  dsimp only [execLaneFail] at h; cases h
  with_reducible repeat' first | assumption | apply widthChange_keeps | apply modPort_keeps | split | simp only [↓keeps_mk]

theorem execWidthChangeDone_keeps (port : PortId) (s : State) {wr : Bool} {s0 : State} (hk : Keeps wr s0 s) {t : State} (h :
    execWidthChangeDone port s = .next t) : Keeps wr s0 t := by
  dsimp only [execWidthChangeDone] at h; cases h
  with_reducible repeat' first | assumption | apply setPort_keeps | split | simp only [↓keeps_mk]

theorem takeHeader_keeps (s : State) (p : Nat) (f : Flit) {wr : Bool} {s0 : State} (hk : Keeps wr s0 s) : Keeps wr s0
    (takeHeader s p f) := by
  dsimp only [takeHeader]
  with_reducible repeat' first
      | assumption | apply setPort_keeps | apply bump32_keeps | apply widthChange_keeps | split | simp only [↓keeps_mk]

theorem takeSeq_keeps (s : State) (p : Nat) (f : Flit) {wr : Bool} {s0 : State} (hk : Keeps wr s0 s) : Keeps wr s0 (takeSeq s p
    f) := by
  dsimp only [takeSeq]
  with_reducible repeat' first | assumption | apply takeHeader_keeps | apply modPort_keeps | split | simp only [↓keeps_mk]

theorem correct_keeps (s : State) (o : Int) {wr : Bool} {s0 : State} (hk : Keeps wr s0 s) : Keeps wr s0 (correct s o) := by
  dsimp only [correct]
  with_reducible repeat' first | assumption | split | simp only [↓keeps_mk]

theorem takeReply_keeps (s : State) (t1 t2 t3 : Nat) (synced : Bool) {wr : Bool} {s0 : State} (hk : Keeps wr s0 s) : Keeps wr
    s0 (takeReply s t1 t2 t3 synced) := by
  dsimp only [takeReply]
  with_reducible repeat' first | assumption | apply correct_keeps | split | simp only [↓keeps_mk]

theorem takeSync_keeps (s : State) (p : Nat) (f : Flit) {wr : Bool} {s0 : State} (hk : Keeps wr s0 s) : Keeps wr s0 (takeSync s
    p f) := by
  dsimp only [takeSync]
  with_reducible repeat' first | assumption | apply modPort_keeps | apply takeReply_keeps | split | simp only [↓keeps_mk]

theorem execLinkFlitReceive_keeps (port : PortId) (f : Flit) (s : State) {wr : Bool} {s0 : State} (hk : Keeps wr s0 s) {t :
    State} (h : execLinkFlitReceive port f s = .next t) : Keeps wr s0 t := by
  dsimp only [execLinkFlitReceive] at h; cases h
  with_reducible repeat' first
      | assumption | apply setPort_keeps | apply bump64_keeps | apply takeIdent_keeps | apply takeHeader_keeps
      | apply takeSync_keeps | apply takeSeq_keeps | split | dsimp only [id] | simp only [↓keeps_mk]

theorem passSlot_keeps (s : State) (p : Nat) {wr : Bool} {s0 : State} (hk : Keeps wr s0 s) : Keeps wr s0 (passSlot s p) := by
  dsimp only [passSlot]
  with_reducible repeat' first | assumption | apply setPort_keeps | apply bump32_keeps | split | simp only [↓keeps_mk]

theorem emitFlit_keeps (s : State) (p : Nat) (x : Port) (f : Flit) {wr : Bool} {s0 : State} (hk : Keeps wr s0 s) : Keeps wr s0
    (emitFlit s p x f) := by
  dsimp only [emitFlit]
  with_reducible repeat' first
      | assumption | apply passSlot_keeps | apply bump64_keeps | apply setPort_keeps | split | simp only [↓keeps_mk]

theorem execLinkFlitSend_keeps (port : PortId) (s : State) {wr : Bool} {s0 : State} (hk : Keeps wr s0 s) {t : State} (h :
    execLinkFlitSend port s = .next t) : Keeps wr s0 t := by
  dsimp only [execLinkFlitSend] at h; cases h
  with_reducible repeat' first
      | assumption | apply emitFlit_keeps | apply passSlot_keeps | apply setPort_keeps | apply bump64_keeps
      | apply bump32_keeps | split | refine keeps_pair (by assumption) ?_ | simp only [↓keeps_mk]

theorem takeRx_keeps (s : State) (p : Nat) (m : Msg) {wr : Bool} {s0 : State} (hk : Keeps wr s0 s) : Keeps wr s0 (takeRx s p m)
    := by
  dsimp only [takeRx]
  with_reducible repeat' first | assumption | apply modPort_keeps | split | simp only [↓keeps_mk]

theorem bypassCarry_keeps (s : State) (port d e target : Nat) (m : Msg) (own : State → State) {wr : Bool} {s0 : State} (hk :
    Keeps wr s0 s) (ha : ∀ s', Keeps wr s0 s' → Keeps wr s0 (own s')) : Keeps wr s0 (bypassCarry s port d e target m own) := by
  dsimp only [bypassCarry]
  with_reducible repeat' first
      | assumption | apply ha | apply takeRx_keeps | apply inject_keeps | split | simp only [↓keeps_mk]

theorem execTransitPacket_keeps (port : PortId) (s : State) {wr : Bool} {s0 : State} (hk : Keeps wr s0 s) {t : State} (h :
    execTransitPacket port s = .next t) : Keeps wr s0 t := by
  dsimp only [execTransitPacket] at h; cases h
  with_reducible repeat' first
      | assumption | apply bump32_keeps | apply takeRx_keeps | apply bypassCarry_keeps | apply pushEgress_keeps | split
      | intro _ | simp only [↓keeps_mk]

theorem bypassSend_keeps (s : State) (d : Nat) (m : Msg) {wr : Bool} {s0 : State} (hk : Keeps wr s0 s) : Keeps wr s0
    (bypassSend s d m) := by
  dsimp only [bypassSend]
  with_reducible repeat' first | assumption | apply pushEgress_keeps | apply inject_keeps | split | simp only [↓keeps_mk]

theorem execArrivalPacket_keeps (port : PortId) (s : State) {wr : Bool} {s0 : State} (hk : Keeps wr s0 s) {t : State} (h :
    execArrivalPacket port s = .next t) : Keeps wr s0 t := by
  dsimp only [execArrivalPacket] at h; cases h
  with_reducible repeat' first
      | assumption | apply bypassSend_keeps | apply takeRx_keeps | apply bump32_keeps | apply bypassCarry_keeps
      | apply postFrom_keeps | split | intro _ | simp only [↓keeps_mk]

theorem failRequest_keeps (s : State) (o : OutReq) {s0 : State} (hk : Keeps true s0 s) : Keeps true s0 (failRequest s o) := by
  dsimp only [failRequest]
  with_reducible repeat' first
      | assumption | apply coreFault_keeps | apply setIx_keeps | apply ixPump_keeps | apply ixQuiet_keeps | apply ixAbort_keeps
      | apply setCol_keeps | apply colPump_keeps | apply colQuiet_keeps | apply colAbort_keeps | split | simp only [↓keeps_mk]

theorem execRequestTimeout_keeps (req : Nat) (s : State) {s0 : State} (hk : Keeps true s0 s) {t : State} (h :
    execRequestTimeout req s = .next t) : Keeps true s0 t := by
  dsimp only [execRequestTimeout] at h; cases h
  with_reducible repeat' first | assumption | apply failRequest_keeps | split | simp only [↓keeps_mk]

theorem execSyncRequest_keeps (s : State) {wr : Bool} {s0 : State} (hk : Keeps wr s0 s) {t : State} (h : execSyncRequest s =
    .next t) : Keeps wr s0 t := by
  dsimp only [execSyncRequest] at h; cases h
  with_reducible repeat' first | assumption | apply emitFlit_keeps | split | simp only [↓keeps_mk]

theorem execSyncReply_keeps (t1 t2 t3 t4 : Quad) (synced : Bool) (s : State) {wr : Bool} {s0 : State} (hk : Keeps wr s0 s) {t :
    State} (h : execSyncReply t1 t2 t3 t4 synced s = .next t) : Keeps wr s0 t := by
  dsimp only [execSyncReply] at h; cases h
  with_reducible repeat' first | assumption | apply takeReply_keeps | split

theorem execTimeLost_keeps (s : State) {wr : Bool} {s0 : State} (hk : Keeps wr s0 s) {t : State} (h : execTimeLost s = .next t)
    : Keeps wr s0 t := by
  dsimp only [execTimeLost] at h; cases h
  with_reducible repeat' first | assumption | apply raise_keeps | split | simp only [↓keeps_mk]

/-! ### Resets -/

theorem beginReset_keeps (s : State) (x : Domain) (code : Nat) (test : Bool) {wr : Bool} {s0 : State} (hk : Keeps wr s0 s) :
    Keeps wr s0 (beginReset s x code test) := by
  dsimp only [beginReset]
  with_reducible repeat' first | assumption | apply bumpEpoch_keeps | apply recordStep_keeps | split | simp only [↓keeps_mk]

theorem noCode_keeps (s : State) {wr : Bool} {s0 : State} (hk : Keeps wr s0 s) : Keeps wr s0 (noCode s).2 := by
  dsimp only [noCode]
  with_reducible repeat' first | assumption | apply freshNat_keeps | split | refine keeps_pair (by assumption) ?_

theorem clearRegs_keeps (s : State) (pg : Nat) (offs : List Nat) {wr : Bool} {s0 : State} (hk : Keeps wr s0 s) : Keeps wr s0
    (clearRegs s pg offs) := by
  dsimp only [clearRegs]
  with_reducible repeat' first | assumption | apply modPage_keeps | split | simp only [↓keeps_mk]

theorem absorbEngine_keeps (s : State) (core : Nat) (dm ms : Bool) {wr : Bool} {s0 : State} (hk : Keeps wr s0 s) : Keeps wr s0
    (absorbEngine s core dm ms) := by
  dsimp only [absorbEngine]
  with_reducible repeat' first | assumption | apply absorbMsgs_keeps | split | simp only [↓keeps_mk]

theorem absorbAnswers_keeps (s : State) (core : Nat) {s0 : State} (hk : Keeps true s0 s) : Keeps true s0 (absorbAnswers s core)
    := by
  dsimp only [absorbAnswers]
  with_reducible repeat' first | assumption | apply absorbEngine_keeps | apply settleReqs_keeps | split

theorem resetCore_keeps (s : State) (core : Nat) {s0 : State} (hk : Keeps true s0 s) : Keeps true s0 (resetCore s core) := by
  dsimp only [resetCore]
  with_reducible repeat' first | assumption | apply absorbAnswers_keeps | apply modCore_keeps | split

theorem resetEngine_keeps (s : State) (core eng : Nat) {s0 : State} (hk : Keeps true s0 s) : Keeps true s0 (resetEngine s core
    eng) := by
  dsimp only [resetEngine]
  with_reducible repeat' first
      | assumption | apply modCore_keeps | apply absorbEngine_keeps | apply settleReqs_keeps | split | simp only [↓keeps_mk]

theorem resetKerb_keeps (s : State) (chan : Nat) {wr : Bool} {s0 : State} (hk : Keeps wr s0 s) : Keeps wr s0 (resetKerb s chan)
    := by
  dsimp only [resetKerb]
  with_reducible repeat' first | assumption | split | simp only [↓keeps_mk]

theorem resetPort_keeps (s : State) (p : Nat) {wr : Bool} {s0 : State} (hk : Keeps wr s0 s) : Keeps wr s0 (resetPort s p) := by
  dsimp only [resetPort]
  with_reducible repeat' first | assumption | apply modPort_keeps | apply goDark_keeps | split | simp only [↓keeps_mk]

theorem relightPort_keeps (s : State) (p : Nat) {wr : Bool} {s0 : State} (hk : Keeps wr s0 s) : Keeps wr s0 (relightPort s p)
    := by
  dsimp only [relightPort]
  with_reducible repeat' first | assumption | apply modPort_keeps | apply startTraining_keeps | split | simp only [↓keeps_mk]

theorem resetBypass_keeps (s : State) (d : Nat) {wr : Bool} {s0 : State} (hk : Keeps wr s0 s) : Keeps wr s0 (resetBypass s d)
    := by
  dsimp only [resetBypass]
  with_reducible repeat' first
      | assumption | apply resetPort_keeps | apply clearRegs_keeps | apply setRoute_keeps
      | refine keeps_foldl ?_ (fun _ _ _ => ?_) | refine keeps_foldl1 ?_ (fun _ _ _ => ?_) | split | simp only [↓keeps_mk]

theorem abandonTests_keeps (s : State) (d : Nat) {wr : Bool} {s0 : State} (hk : Keeps wr s0 s) : Keeps wr s0 (abandonTests s d)
    := by
  dsimp only [abandonTests]
  with_reducible repeat' first
      | assumption | apply abandonMoves_keeps | apply modSite_keeps | apply returnHome_keeps
      | refine keeps_foldl ?_ (fun _ _ _ => ?_) | refine keeps_foldl1 ?_ (fun _ _ _ => ?_) | split | simp only [↓keeps_mk]

theorem traceStop_keeps (s : State) (i code : Nat) {wr : Bool} {s0 : State} (hk : Keeps wr s0 s) : Keeps wr s0 (traceStop s i
    code) := by
  dsimp only [traceStop]
  with_reducible repeat' first | assumption | apply raise_keeps | apply setTrace_keeps | split | simp only [↓keeps_mk]

theorem resetFabric_keeps (s : State) (d : Nat) {s0 : State} (hk : Keeps true s0 s) : Keeps true s0 (resetFabric s d) := by
  dsimp only [resetFabric]
  with_reducible repeat' first
      | assumption | apply resetCore_keeps | apply resetKerb_keeps | apply setIx_keeps | apply setCol_keeps
      | apply setRlc_keeps | apply flushStep_keeps | apply clearRegs_keeps | apply setTel_keeps
      | refine keeps_foldl ?_ (fun _ _ _ => ?_) | refine keeps_foldl1 ?_ (fun _ _ _ => ?_) | split | simp only [↓keeps_mk]

theorem fenceDie_keeps (s : State) (d : Nat) {s0 : State} (hk : Keeps true s0 s) : Keeps true s0 (fenceDie s d) := by
  dsimp only [fenceDie]
  with_reducible repeat' first
      | assumption | apply abandonTests_keeps | apply abortDie_keeps | apply enterFaulted_keeps | apply dropLinesAll_keeps
      | apply modStack_keeps | apply traceStop_keeps | apply raise_keeps | refine keeps_foldl ?_ (fun _ _ _ => ?_)
      | refine keeps_foldl1 ?_ (fun _ _ _ => ?_) | split | simp only [↓keeps_mk]

theorem startReset_keeps (s : State) (x : Domain) (code : Nat) (test : Bool) {s0 : State} (hk : Keeps true s0 s) : Keeps true
    s0 (startReset s x code test) := by
  dsimp only [startReset]
  with_reducible repeat' first
      | assumption | apply resetEngine_keeps | apply bump32_keeps | apply beginReset_keeps | apply enterFaulted_keeps
      | apply resetCore_keeps | apply resetKerb_keeps | apply resetPort_keeps | apply resetBypass_keeps
      | apply resetFabric_keeps | apply fenceDie_keeps | split | simp only [↓keeps_mk]

theorem startPlain_keeps (s : State) (x : Domain) {s0 : State} (hk : Keeps true s0 s) : Keeps true s0 (startPlain s x) := by
  dsimp only [startPlain]
  with_reducible repeat' first
      | assumption | apply noCode_keeps | apply startReset_keeps | split | refine keeps_pair (by assumption) ?_

theorem rstReq_keeps (s : State) (p d : Nat) (ok : Bool) (x : Domain) {s0 : State} (hk : Keeps true s0 s) : Keeps true s0
    (rstReq s p d ok x) := by
  dsimp only [rstReq]
  with_reducible repeat' first | assumption | apply writeReg_keeps | apply startPlain_keeps | split | intro _

theorem execRstReqCore_keeps (p : PartId) (die : DieId) (target : BitVec 12) (s : State) {s0 : State} (hk : Keeps true s0 s) {t
    : State} (h : execRstReqCore p die target s = .next t) : Keeps true s0 t := by
  dsimp only [execRstReqCore] at h; cases h
  with_reducible repeat' first | assumption | apply rstReq_keeps | split

theorem execRstReqKerb_keeps (p : PartId) (die : DieId) (target : BitVec 12) (s : State) {s0 : State} (hk : Keeps true s0 s) {t
    : State} (h : execRstReqKerb p die target s = .next t) : Keeps true s0 t := by
  dsimp only [execRstReqKerb] at h; cases h
  with_reducible repeat' first | assumption | apply rstReq_keeps | split

theorem execRstReqPort_keeps (p : PartId) (die : DieId) (target : BitVec 12) (s : State) {s0 : State} (hk : Keeps true s0 s) {t
    : State} (h : execRstReqPort p die target s = .next t) : Keeps true s0 t := by
  dsimp only [execRstReqPort] at h; cases h
  with_reducible repeat' first | assumption | apply rstReq_keeps | split

theorem execRstReqBypass_keeps (p : PartId) (die : DieId) (target : BitVec 12) (s : State) {s0 : State} (hk : Keeps true s0 s)
    {t : State} (h : execRstReqBypass p die target s = .next t) : Keeps true s0 t := by
  dsimp only [execRstReqBypass] at h; cases h
  with_reducible repeat' first | assumption | apply rstReq_keeps | split

theorem execRstReqDie_keeps (p : PartId) (die : DieId) (target : BitVec 12) (s : State) {s0 : State} (hk : Keeps true s0 s) {t
    : State} (h : execRstReqDie p die target s = .next t) : Keeps true s0 t := by
  dsimp only [execRstReqDie] at h; cases h
  with_reducible repeat' first | assumption | apply rstReq_keeps | split

theorem trialFailed_keeps (s : State) (core c : Nat) {s0 : State} (hk : Keeps true s0 s) : Keeps true s0 (trialFailed s core c)
    := by
  dsimp only [trialFailed]
  with_reducible repeat' first
      | assumption | apply recordFault_keeps | apply modCore_keeps | apply enterFaulted_keeps | apply startReset_keeps
      | apply returnHome_keeps | split | simp only [↓keeps_mk]

theorem hangCore_keeps (s : State) (core : Nat) {s0 : State} (hk : Keeps true s0 s) : Keeps true s0 (hangCore s core) := by
  dsimp only [hangCore]
  with_reducible repeat' first
      | assumption | apply trialFailed_keeps | apply recordFault_keeps | apply chargeSite_keeps | apply modCore_keeps
      | apply startReset_keeps | apply enterFaulted_keeps | apply noteHw_keeps | apply condemn_keeps | apply modCtx_keeps
      | split | simp only [↓keeps_mk]

theorem siteEngineReset_keeps (s : State) (die core : Nat) {wr : Bool} {s0 : State} (hk : Keeps wr s0 s) : Keeps wr s0
    (siteEngineReset s die core) := by
  dsimp only [siteEngineReset]
  with_reducible repeat' first | assumption | apply recordStep_keeps | apply bump32_keeps | split

theorem execEngineHang_keeps (core : CoreId) (eng : Fin 6) (s : State) {s0 : State} (hk : Keeps true s0 s) {t : State} (h :
    execEngineHang core eng s = .next t) : Keeps true s0 t := by
  dsimp only [execEngineHang] at h; cases h
  with_reducible repeat' first
      | assumption | apply startReset_keeps | apply coreFault_keeps | apply siteFault_keeps | apply siteEngineReset_keeps
      | split | simp only [↓keeps_mk]

theorem execEngineFault_keeps (core : CoreId) (eng : Fin 6) (seg : EngineCheck) (s : State) {s0 : State} (hk : Keeps true s0 s)
    {t : State} (h : execEngineFault core eng seg s = .next t) : Keeps true s0 t := by
  dsimp only [execEngineFault] at h; cases h
  with_reducible repeat' first
      | assumption | apply engineFault_keeps | apply startReset_keeps | apply addUncorrected_keeps | apply addCorrected_keeps
      | split | simp only [↓keeps_mk]

theorem execCorePoll_keeps (die : DieId) (silent : List CoreId) (s : State) {s0 : State} (hk : Keeps true s0 s) {t : State} (h
    : execCorePoll die silent s = .next t) : Keeps true s0 t := by
  dsimp only [execCorePoll] at h; cases h
  with_reducible repeat' first
      | assumption | apply hangCore_keeps | apply modCore_keeps | refine keeps_foldl ?_ (fun _ _ _ => ?_)
      | refine keeps_foldl1 ?_ (fun _ _ _ => ?_) | split | simp only [↓keeps_mk]

theorem execKerbHang_keeps (chan : ChanId) (s : State) {s0 : State} (hk : Keeps true s0 s) {t : State} (h : execKerbHang chan s
    = .next t) : Keeps true s0 t := by
  dsimp only [execKerbHang] at h; cases h
  with_reducible repeat' first | assumption | apply startReset_keeps | apply modKerb_keeps | split | simp only [↓keeps_mk]

theorem execPreemptOverrun_keeps (c : CtxId) (s : State) {s0 : State} (hk : Keeps true s0 s) {t : State} (h :
    execPreemptOverrun c s = .next t) : Keeps true s0 t := by
  dsimp only [execPreemptOverrun] at h; cases h
  with_reducible repeat' first
      | assumption | apply enterFaulted_keeps | apply hangCore_keeps | refine keeps_foldl ?_ (fun _ _ _ => ?_)
      | refine keeps_foldl1 ?_ (fun _ _ _ => ?_) | split | simp only [↓keeps_mk]

theorem execContextStall_keeps (c : CtxId) (s : State) {wr : Bool} {s0 : State} (hk : Keeps wr s0 s) {t : State} (h :
    execContextStall c s = .next t) : Keeps wr s0 t := by
  dsimp only [execContextStall] at h; cases h
  with_reducible repeat' first
      | assumption | apply raise_keeps | apply modCtx_keeps | refine keeps_foldl ?_ (fun _ _ _ => ?_)
      | refine keeps_foldl1 ?_ (fun _ _ _ => ?_) | split | refine keeps_pair (by assumption) ?_ | simp only [↓keeps_mk]

theorem execPllLockLoss_keeps (die : DieId) (s : State) {s0 : State} (hk : Keeps true s0 s) {t : State} (h : execPllLockLoss
    die s = .next t) : Keeps true s0 t := by
  dsimp only [execPllLockLoss] at h; cases h
  with_reducible repeat' first | assumption | apply startPlain_keeps | split

theorem fenceAnswer_keeps (s : State) (m : Msg) {wr : Bool} {s0 : State} (hk : Keeps wr s0 s) : Keeps wr s0 (fenceAnswer s m)
    := by
  dsimp only [fenceAnswer]
  with_reducible repeat' first
      | assumption | apply ackLocal_keeps | apply ackAcc_keeps | apply sendAnswer_keeps | split | simp only [↓keeps_mk]

theorem refuseDie_keeps (s : State) (d : Domain) {wr : Bool} {s0 : State} (hk : Keeps wr s0 s) : Keeps wr s0 (refuseDie s d) :=
    by
  dsimp only [refuseDie]
  with_reducible repeat' first
      | assumption | apply refuse_keeps | refine keeps_foldl ?_ (fun _ _ _ => ?_) | refine keeps_foldl1 ?_ (fun _ _ _ => ?_)
      | split | simp only [↓keeps_mk]

theorem execRoadblockHalfBudget_keeps (d : Domain) (s : State) {wr : Bool} {s0 : State} (hk : Keeps wr s0 s) {t : State} (h :
    execRoadblockHalfBudget d s = .next t) : Keeps wr s0 t := by
  dsimp only [execRoadblockHalfBudget] at h; cases h
  with_reducible repeat' first
      | assumption | apply refuseDie_keeps | apply fenceAnswer_keeps | refine keeps_foldl ?_ (fun _ _ _ => ?_)
      | refine keeps_foldl1 ?_ (fun _ _ _ => ?_) | split | simp only [↓keeps_mk]

/-! ### Fabric -/

theorem rtStart_keeps (s : State) (p d op : Nat) {wr : Bool} {s0 : State} (hk : Keeps wr s0 s) : Keeps wr s0 (rtStart s p d op)
    := by
  dsimp only [rtStart]
  with_reducible repeat' first
      | assumption | apply writeReg_keeps | apply setRoute_keeps | split | intro _ | simp only [↓keeps_mk]

theorem execRtRead_keeps (p : PartId) (die : DieId) (s : State) {wr : Bool} {s0 : State} (hk : Keeps wr s0 s) {t : State} (h :
    execRtRead p die s = .next t) : Keeps wr s0 t := by
  dsimp only [execRtRead] at h; cases h
  with_reducible repeat' first | assumption | apply rtStart_keeps | split

theorem execRtWrite_keeps (p : PartId) (die : DieId) (s : State) {wr : Bool} {s0 : State} (hk : Keeps wr s0 s) {t : State} (h :
    execRtWrite p die s = .next t) : Keeps wr s0 t := by
  dsimp only [execRtWrite] at h; cases h
  with_reducible repeat' first | assumption | apply rtStart_keeps | split

theorem execRtCopy_keeps (p : PartId) (die : DieId) (s : State) {wr : Bool} {s0 : State} (hk : Keeps wr s0 s) {t : State} (h :
    execRtCopy p die s = .next t) : Keeps wr s0 t := by
  dsimp only [execRtCopy] at h; cases h
  with_reducible repeat' first | assumption | apply rtStart_keeps | split

theorem execRtSwap_keeps (p : PartId) (die : DieId) (s : State) {wr : Bool} {s0 : State} (hk : Keeps wr s0 s) {t : State} (h :
    execRtSwap p die s = .next t) : Keeps wr s0 t := by
  dsimp only [execRtSwap] at h; cases h
  with_reducible repeat' first | assumption | apply rtStart_keeps | split

theorem execRtClear_keeps (p : PartId) (die : DieId) (s : State) {wr : Bool} {s0 : State} (hk : Keeps wr s0 s) {t : State} (h :
    execRtClear p die s = .next t) : Keeps wr s0 t := by
  dsimp only [execRtClear] at h; cases h
  with_reducible repeat' first | assumption | apply rtStart_keeps | split

theorem execRtOpDone_keeps (die : DieId) (s : State) {wr : Bool} {s0 : State} (hk : Keeps wr s0 s) {t : State} (h :
    execRtOpDone die s = .next t) : Keeps wr s0 t := by
  dsimp only [execRtOpDone] at h; cases h
  with_reducible repeat' first | assumption | apply setRoute_keeps | apply setReg_keeps | split | simp only [↓keeps_mk]

theorem holdWrite_keeps (s : State) (p d : Nat) (hold : Bool) {wr : Bool} {s0 : State} (hk : Keeps wr s0 s) : Keeps wr s0
    (holdWrite s p d hold) := by
  dsimp only [holdWrite]
  with_reducible repeat' first
      | assumption | apply writeReg_keeps | apply setRoute_keeps | apply colPump_keeps | apply ixPump_keeps | split | intro _
      | simp only [↓keeps_mk]

theorem execHoldWrite_keeps (p : PartId) (die : DieId) (hold : Bool) (s : State) {wr : Bool} {s0 : State} (hk : Keeps wr s0 s)
    {t : State} (h : execHoldWrite p die hold s = .next t) : Keeps wr s0 t := by
  dsimp only [execHoldWrite] at h; cases h
  with_reducible repeat' first | assumption | apply holdWrite_keeps | split

theorem telSelect_keeps (s : State) (d v : Nat) {wr : Bool} {s0 : State} (hk : Keeps wr s0 s) : Keeps wr s0 (telSelect s d v)
    := by
  dsimp only [telSelect]
  with_reducible repeat' first | assumption | apply setTel_keeps | apply setReg_keeps | split

theorem execTelSelWrite_keeps (p : PartId) (die : DieId) (val : Word) (s : State) {wr : Bool} {s0 : State} (hk : Keeps wr s0 s)
    {t : State} (h : execTelSelWrite p die val s = .next t) : Keeps wr s0 t := by
  dsimp only [execTelSelWrite] at h; cases h
  with_reducible repeat' first | assumption | apply writeReg_keeps | apply telSelect_keeps | split | intro _

theorem clearDepth_keeps (s : State) (d : Nat) {wr : Bool} {s0 : State} (hk : Keeps wr s0 s) : Keeps wr s0 (clearDepth s d) :=
    by
  dsimp only [clearDepth]
  with_reducible repeat' first | assumption | apply setTel_keeps | split | simp only [↓keeps_mk]

theorem telDepthRead_keeps (s : State) (p die : Nat) {wr : Bool} {s0 : State} (hk : Keeps wr s0 s) : Keeps wr s0 (telDepthRead
    s p die) := by
  dsimp only [telDepthRead]
  with_reducible repeat' first | assumption | apply clearDepth_keeps | split | simp only [↓keeps_mk]

theorem execTelDepthRead_keeps (p : PartId) (die : DieId) (s : State) {wr : Bool} {s0 : State} (hk : Keeps wr s0 s) {t : State}
    (h : execTelDepthRead p die s = .next t) : Keeps wr s0 t := by
  dsimp only [execTelDepthRead] at h; cases h
  with_reducible repeat' first | assumption | apply telDepthRead_keeps | split

theorem bridgeRetry_keeps (s : State) (d b slice : Nat) {s0 : State} (hk : Keeps true s0 s) : Keeps true s0 (bridgeRetry s d b
    slice) := by
  dsimp only [bridgeRetry]
  with_reducible repeat' first
      | assumption | apply bump32_keeps | apply setBridge_keeps | apply raise_keeps | apply addEvent_keeps
      | apply beginDrain_keeps | split | simp only [↓keeps_mk]

theorem execBridgeFlitReceive_keeps (die : DieId) (bridge : Fin 3) (slice : Fin 20) (crcOk : Bool) (s : State) {s0 : State} (hk
    : Keeps true s0 s) {t : State} (h : execBridgeFlitReceive die bridge slice crcOk s = .next t) : Keeps true s0 t := by
  dsimp only [execBridgeFlitReceive] at h; cases h
  with_reducible repeat' first
      | assumption | apply setBridge_keeps | apply bump64_keeps | apply bridgeRetry_keeps | split | simp only [↓keeps_mk]

theorem execHandshakeLost_keeps (die : DieId) (bridge : Fin 3) (s : State) {s0 : State} (hk : Keeps true s0 s) {t : State} (h :
    execHandshakeLost die bridge s = .next t) : Keeps true s0 t := by
  dsimp only [execHandshakeLost] at h; cases h
  with_reducible repeat' first
      | assumption | apply raise_keeps | apply setBridge_keeps | apply startPlain_keeps | split | simp only [↓keeps_mk]

/-! ### Partition -/

theorem runWith_keeps (s : State) (c : Nat) (r : PostRef) (image : Except (Code × Nat) State) {s0 : State} (hk : Keeps true s0
    s) (ha : ∀ t, image = .ok t → Keeps true s0 t) : Keeps true s0 (runWith s c r image) := by
  cases image with
  | error e => exact completePost_keeps _ _ _ _ _ (restoreFault_keeps _ _ _ hk)
  | ok t => dsimp only [runWith]; exact enterRunning_keeps _ _ _ (startTrials_keeps _ _ (modCtx_keeps _ _ _ (ha t rfl)))

theorem runAct_keeps (s : State) (c : Nat) (r : PostRef) (d : List Byte) {s0 : State} (hk : Keeps true s0 s) : Keeps true s0
    (runAct s c r d) := by
  unfold runAct
  extract_lets x
  split
  · exact completePost_keeps _ _ _ _ _ hk
  · exact runWith_keeps _ _ _ _ hk (fun t ht => restoreImage_keeps _ _ _ hk ht)

theorem execRun_keeps (c : CtxId) (s : State) {s0 : State} (hk : Keeps true s0 s) {t : State} (h : execRun c s = .next t) :
    Keeps true s0 t := by
  dsimp only [execRun] at h; cases h
  with_reducible repeat' first | assumption | apply takePostIf_keeps | apply runAct_keeps | split | intro _

theorem clearCtx_keeps (s : State) (c : Nat) {s0 : State} (hk : Keeps true s0 s) : Keeps true s0 (clearCtx s c) := by
  dsimp only [clearCtx]
  with_reducible repeat' first
      | assumption | apply dropMarks_keeps | apply freeSlots_keeps | apply modCtx_keeps | split | simp only [↓keeps_mk]

theorem execDestroy_keeps (c : CtxId) (s : State) {s0 : State} (hk : Keeps true s0 s) {t : State} (h : execDestroy c s = .next
    t) : Keeps true s0 t := by
  dsimp only [execDestroy] at h; cases h
  with_reducible repeat' first
      | assumption | apply takePost_keeps | apply completePost_keeps | apply clearCtx_keeps | split | intro _
      | simp only [↓keeps_mk]

theorem setOwner_keeps (s : State) (pg : Nat) (o : Option (Nat × Nat)) {wr : Bool} {s0 : State} (hk : Keeps wr s0 s) : Keeps wr
    s0 (setOwner s pg o) := by
  dsimp only [setOwner]
  with_reducible repeat' first | assumption | apply modPage_keeps | split | simp only [↓keeps_mk]

theorem releaseCmp_keeps (s : State) (k : Nat) {wr : Bool} {s0 : State} (hk : Keeps wr s0 s) : Keeps wr s0 (releaseCmp s k) :=
    by
  dsimp only [releaseCmp]
  with_reducible repeat' first | assumption | apply setCmp_keeps | split | simp only [↓keeps_mk]

theorem releaseTrace_keeps (s : State) (i : Nat) {wr : Bool} {s0 : State} (hk : Keeps wr s0 s) : Keeps wr s0 (releaseTrace s i)
    := by
  dsimp only [releaseTrace]
  with_reducible repeat' first | assumption | apply setOwner_keeps | apply setTrace_keeps | split | simp only [↓keeps_mk]

theorem releaseAlert_keeps (s : State) {wr : Bool} {s0 : State} (hk : Keeps wr s0 s) : Keeps wr s0 (releaseAlert s) := by
  dsimp only [releaseAlert]
  with_reducible repeat' first | assumption | apply setOwner_keeps | apply updateAlert_keeps | split | simp only [↓keeps_mk]

theorem releaseAll_keeps (s : State) (p : Nat) {wr : Bool} {s0 : State} (hk : Keeps wr s0 s) : Keeps wr s0 (releaseAll s p) :=
    by
  dsimp only [releaseAll]
  with_reducible repeat' first
      | assumption | apply releaseCmp_keeps | apply noCode_keeps | apply releaseTrace_keeps | apply traceStop_keeps
      | apply releaseAlert_keeps | refine keeps_foldl ?_ (fun _ _ _ => ?_) | refine keeps_foldl1 ?_ (fun _ _ _ => ?_) | split
      | refine keeps_pair (by assumption) ?_

theorem stopForReset_keeps (s : State) (c : Nat) {s0 : State} (hk : Keeps true s0 s) : Keeps true s0 (stopForReset s c) := by
  dsimp only [stopForReset]
  with_reducible repeat' first
      | assumption | apply abandonMoves_keeps | apply clearCtx_keeps | apply vacate_keeps | apply settleReqs_keeps
      | apply leaveSite_keeps | refine keeps_foldl ?_ (fun _ _ _ => ?_) | refine keeps_foldl1 ?_ (fun _ _ _ => ?_) | split
      | simp only [↓keeps_mk]

theorem replaceKeys_keeps (s : State) (p : Nat) {wr : Bool} {s0 : State} (hk : Keeps wr s0 s) : Keeps wr s0 (replaceKeys s p)
    := by
  dsimp only [replaceKeys]
  with_reducible repeat' first | assumption | apply dropLinesAll_keeps | split | simp only [↓keeps_mk]

theorem markPartReset_keeps (s : State) (p : Nat) {wr : Bool} {s0 : State} (hk : Keeps wr s0 s) : Keeps wr s0 (markPartReset s
    p) := by
  dsimp only [markPartReset]
  with_reducible repeat' first | assumption | split | simp only [↓keeps_mk]

theorem dropBar4_keeps (s : State) (p : Nat) {wr : Bool} {s0 : State} (hk : Keeps wr s0 s) : Keeps wr s0 (dropBar4 s p) := by
  dsimp only [dropBar4]
  with_reducible repeat' first | assumption | split | simp only [↓keeps_mk]

theorem functionReset_keeps (s : State) (p : Nat) {s0 : State} (hk : Keeps true s0 s) : Keeps true s0 (functionReset s p) := by
  dsimp only [functionReset]
  with_reducible repeat' first
      | assumption | apply stopForReset_keeps | apply modCtx_keeps | apply dropBar4_keeps | apply modPart_keeps
      | apply releaseAll_keeps | apply replaceKeys_keeps | apply markPartReset_keeps | apply startPlain_keeps
      | apply bumpEpoch_keeps | refine keeps_foldl ?_ (fun _ _ _ => ?_) | refine keeps_foldl1 ?_ (fun _ _ _ => ?_) | split
      | simp only [↓keeps_mk]

theorem execFunctionLevelReset_keeps (p : PartId) (s : State) {s0 : State} (hk : Keeps true s0 s) {t : State} (h :
    execFunctionLevelReset p s = .next t) : Keeps true s0 t := by
  dsimp only [execFunctionLevelReset] at h; cases h
  with_reducible repeat' first | assumption | apply functionReset_keeps | split

theorem hubReset_keeps (s : State) {s0 : State} (hk : Keeps true s0 s) : Keeps true s0 (hubReset s) := by
  dsimp only [hubReset]
  with_reducible repeat' first
      | assumption | apply functionReset_keeps | apply clearRegs_keeps | apply startPlain_keeps
      | refine keeps_foldl ?_ (fun _ _ _ => ?_) | refine keeps_foldl1 ?_ (fun _ _ _ => ?_) | split | simp only [↓keeps_mk]

theorem execHotReset_keeps (s : State) {s0 : State} (hk : Keeps true s0 s) {t : State} (h : execHotReset s = .next t) : Keeps
    true s0 t := by
  dsimp only [execHotReset] at h; cases h
  with_reducible repeat' first | assumption | apply hubReset_keeps | split

theorem execLinkChange_keeps (up flit : Bool) (rate width : BitVec 8) (vfs : BitVec 15) (s : State) {s0 : State} (hk : Keeps
    true s0 s) {t : State} (h : execLinkChange up flit rate width vfs s = .next t) : Keeps true s0 t := by
  dsimp only [execLinkChange] at h; cases h
  with_reducible repeat' first
      | assumption | apply setReg_keeps | apply addEvent_keeps | apply raise_keeps | apply hubReset_keeps | split
      | refine keeps_pair (by assumption) ?_

/-! ### Power -/

theorem setCap_keeps (s : State) (v : Nat) {wr : Bool} {s0 : State} (hk : Keeps wr s0 s) : Keeps wr s0 (setCap s v) := by
  dsimp only [setCap]
  with_reducible repeat' first | assumption | apply addTie_keeps | apply modPower_keeps | split | simp only [↓keeps_mk]

theorem execCap_keeps (c : CtxId) (s : State) {wr : Bool} {s0 : State} (hk : Keeps wr s0 s) {t : State} (h : execCap c s =
    .next t) : Keeps wr s0 t := by
  dsimp only [execCap] at h; cases h
  with_reducible repeat' first
      | assumption | apply takePost_keeps | apply completePost_keeps | apply setCap_keeps | split | intro _
      | simp only [↓keeps_mk]

theorem execCapWWrite_keeps (p : PartId) (val : Word) (s : State) {wr : Bool} {s0 : State} (hk : Keeps wr s0 s) {t : State} (h
    : execCapWWrite p val s = .next t) : Keeps wr s0 t := by
  dsimp only [execCapWWrite] at h; cases h
  with_reducible repeat' first | assumption | apply writeReg_keeps | apply setCap_keeps | split | intro _

theorem enterDormant_keeps (s : State) (cause : Nat) {s0 : State} (hk : Keeps true s0 s) : Keeps true s0
    (enterDormant s cause) := by
  have h := countThrottle_keeps s hk
  exact wakeFired_keeps _ (updateAlert_keeps _
    ⟨h.1, h.2, h.3, h.4, h.5, h.6, .inr ⟨rfl, rfl⟩, fun _ => rfl, nofun⟩)

theorem powerLoss_keeps (s : State) {s0 : State} (hk : Keeps true s0 s) : Keeps true s0 (powerLoss s) := ⟨hk.1, hk.2, hk.3,
    hk.4, hk.5, hk.6, .inr ⟨rfl, rfl⟩, fun _ => rfl, nofun⟩

theorem execAlwaysOnLoss_keeps (s : State) {s0 : State} (hk : Keeps true s0 s) {t : State} (h : execAlwaysOnLoss s = .next t) :
    Keeps true s0 t := by
  dsimp only [execAlwaysOnLoss] at h; cases h
  with_reducible repeat' first | assumption | apply powerLoss_keeps | split

theorem execPowerUp_keeps (s : State) {wr : Bool} {s0 : State} (hk : Keeps wr s0 s) {t : State} (h : execPowerUp s = .next t) :
    Keeps wr s0 t := by
  dsimp only [execPowerUp] at h; cases h
  with_reducible repeat' first | assumption | apply startBringup_keeps | split | simp only [↓keeps_mk]

theorem readSensors_keeps (s : State) (junction hub hbmStacks : List Nat) {wr : Bool} {s0 : State} (hk : Keeps wr s0 s) : Keeps
    wr s0 (readSensors s junction hub hbmStacks) := by
  dsimp only [readSensors]
  with_reducible repeat' first
      | assumption | apply modPower_keeps | apply countThrottle_keeps | apply modStack_keeps | apply raise_keeps
      | refine keeps_foldl ?_ (fun _ _ _ => ?_) | refine keeps_foldl1 ?_ (fun _ _ _ => ?_) | split | simp only [↓keeps_mk]

theorem cmpWatch_keeps (s : State) {wr : Bool} {s0 : State} (hk : Keeps wr s0 s) : Keeps wr s0 (cmpWatch s) := by
  dsimp only [cmpWatch]
  with_reducible repeat' first
      | assumption | apply setCmp_keeps | refine keeps_foldl ?_ (fun _ _ _ => ?_) | refine keeps_foldl1 ?_ (fun _ _ _ => ?_)
      | split | simp only [↓keeps_mk]

theorem execSensorRead_keeps (junction hub hbmStacks : List Nat) (s : State) {wr : Bool} {s0 : State} (hk : Keeps wr s0 s) {t :
    State} (h : execSensorRead junction hub hbmStacks s = .next t) : Keeps wr s0 t := by
  dsimp only [execSensorRead] at h; cases h
  with_reducible repeat' first | assumption | apply cmpWatch_keeps | apply readSensors_keeps | split

theorem execThermalTrip_keeps (s : State) {s0 : State} (hk : Keeps true s0 s) {t : State} (h : execThermalTrip s = .next t) :
    Keeps true s0 t := by
  dsimp only [execThermalTrip] at h; cases h
  with_reducible repeat' first | assumption | apply modPower_keeps | apply enterDormant_keeps | split | simp only [↓keeps_mk]

theorem enabledFire_keeps (s : State) (k : Nat) {wr : Bool} {s0 : State} (hk : Keeps wr s0 s) : Keeps wr s0 (enabledFire s k)
    := by
  dsimp only [enabledFire]
  with_reducible repeat' first | assumption | apply fireCmp_keeps | split

theorem execComparatorFire_keeps (k : Fin 8) (s : State) {wr : Bool} {s0 : State} (hk : Keeps wr s0 s) {t : State} (h :
    execComparatorFire k s = .next t) : Keeps wr s0 t := by
  dsimp only [execComparatorFire] at h; cases h
  with_reducible repeat' first | assumption | apply fireCmp_keeps | split

theorem execThermTripRelease_keeps (s : State) {wr : Bool} {s0 : State} (hk : Keeps wr s0 s) {t : State} (h :
    execThermTripRelease s = .next t) : Keeps wr s0 t := by
  dsimp only [execThermTripRelease] at h; cases h
  with_reducible repeat' first | assumption | apply modPower_keeps | apply wakeNow_keeps | split | simp only [↓keeps_mk]

theorem execPowerMeasure_keeps (pIn vIn iIn other : Nat) (dies : List Nat) (s : State) {wr : Bool} {s0 : State} (hk : Keeps wr
    s0 s) {t : State} (h : execPowerMeasure pIn vIn iIn other dies s = .next t) : Keeps wr s0 t := by
  dsimp only [execPowerMeasure] at h; cases h
  with_reducible repeat' first
      | assumption | apply modPower_keeps | apply cmpWatch_keeps | apply raise_keeps | split | simp only [↓keeps_mk]

theorem execVinFault_keeps (s : State) {s0 : State} (hk : Keeps true s0 s) {t : State} (h : execVinFault s = .next t) : Keeps
    true s0 t := by
  dsimp only [execVinFault] at h; cases h
  with_reducible repeat' first | assumption | apply enterDormant_keeps | split | simp only [↓keeps_mk]

theorem execPoolSplit_keeps (s : State) {wr : Bool} {s0 : State} (hk : Keeps wr s0 s) {t : State} (h : execPoolSplit s = .next
    t) : Keeps wr s0 t := by
  dsimp only [execPoolSplit] at h; cases h
  with_reducible repeat' first | assumption | apply modPower_keeps | split | simp only [↓keeps_mk]

theorem grantCore_keeps (s : State) (k c : Nat) {wr : Bool} {s0 : State} (hk : Keeps wr s0 s) : Keeps wr s0 (grantCore s k c)
    := by
  dsimp only [grantCore]
  with_reducible repeat' first | assumption | apply modCore_keeps | split | simp only [↓keeps_mk]

theorem execGrantAllocate_keeps (unit : List Nat) (s : State) {wr : Bool} {s0 : State} (hk : Keeps wr s0 s) {t : State} (h :
    execGrantAllocate unit s = .next t) : Keeps wr s0 t := by
  dsimp only [execGrantAllocate] at h; cases h
  with_reducible repeat' first
      | assumption | apply grantCore_keeps | apply modPower_keeps | refine keeps_foldl ?_ (fun _ _ _ => ?_)
      | refine keeps_foldl1 ?_ (fun _ _ _ => ?_) | split | simp only [↓keeps_mk]

theorem execIslandRampStep_keeps (core : CoreId) (s : State) {wr : Bool} {s0 : State} (hk : Keeps wr s0 s) {t : State} (h :
    execIslandRampStep core s = .next t) : Keeps wr s0 t := by
  dsimp only [execIslandRampStep] at h; cases h
  with_reducible repeat' first
      | assumption | apply setCore_keeps | apply modPower_keeps | split | refine keeps_pair (by assumption) ?_
      | simp only [↓keeps_mk]

theorem execGrantLend_keeps (core : CoreId) (s : State) {wr : Bool} {s0 : State} (hk : Keeps wr s0 s) {t : State} (h :
    execGrantLend core s = .next t) : Keeps wr s0 t := by
  dsimp only [execGrantLend] at h; cases h
  with_reducible repeat' first | assumption | apply siteBump32_keeps | apply setCore_keeps | split | simp only [↓keeps_mk]

theorem endPow_keeps (s : State) (q : PowReq) (code : Nat) (reply : State → Nat → State) {wr : Bool} {s0 : State} (hk : Keeps
    wr s0 s) (ha : ∀ s' v, Keeps wr s0 s' → Keeps wr s0 (reply s' v)) : Keeps wr s0 (endPow s q code reply) := by
  dsimp only [endPow]
  with_reducible repeat' first | assumption | apply ha | apply completePost_keeps | split | simp only [↓keeps_mk]

theorem flushAll_keeps (s : State) (p : Nat) {wr : Bool} {s0 : State} (hk : Keeps wr s0 s) : Keeps wr s0 (flushAll s p) := by
  dsimp only [flushAll]
  with_reducible repeat' first | assumption | apply flushNotices_keeps | split

theorem powerOff_keeps (s : State) (target : Nat) (q : PowReq) (reply : State → Nat → State) {s0 : State} (hk : Keeps true s0
    s) (ha : ∀ s' v, Keeps true s0 s' → Keeps true s0 (reply s' v)) : Keeps true s0 (powerOff s target q reply) := by
  dsimp only [powerOff]
  with_reducible repeat' first
      | assumption | apply ha | apply endPow_keeps | apply modPower_keeps | apply enterDormant_keeps | apply flushAll_keeps
      | split | intro _ | simp only [↓keeps_mk]

theorem execPowerOff_keeps (c : CtxId) (s : State) {s0 : State} (hk : Keeps true s0 s) {t : State} (h : execPowerOff c s =
    .next t) : Keeps true s0 t := by
  dsimp only [execPowerOff] at h; cases h
  with_reducible repeat' first
      | assumption | apply takePost_keeps | apply completePost_keeps | apply powerOff_keeps | split | intro _
      | simp only [↓keeps_mk]

theorem dropLoad_keeps (s : State) {wr : Bool} {s0 : State} (hk : Keeps wr s0 s) : Keeps wr s0 (dropLoad s) := by
  dsimp only [dropLoad]
  with_reducible repeat' first | assumption | split | simp only [↓keeps_mk]

theorem resetEndpoint_keeps (s : State) {wr : Bool} {s0 : State} (hk : Keeps wr s0 s) : Keeps wr s0 (resetEndpoint s) := by
  dsimp only [resetEndpoint]
  with_reducible repeat' first | assumption | apply clearRegs_keeps | split | simp only [↓keeps_mk]

theorem execPerstAssert_keeps (s : State) {s0 : State} (hk : Keeps true s0 s) {t : State} (h : execPerstAssert s = .next t) :
    Keeps true s0 t := by
  dsimp only [execPerstAssert] at h; cases h
  with_reducible repeat' first
      | assumption | apply modPower_keeps | apply hubReset_keeps | apply dropLoad_keeps | apply resetEndpoint_keeps | split
      | simp only [↓keeps_mk]

theorem execPerstDeassert_keeps (s : State) {wr : Bool} {s0 : State} (hk : Keeps wr s0 s) {t : State} (h : execPerstDeassert s
    = .next t) : Keeps wr s0 t := by
  dsimp only [execPerstDeassert] at h; cases h
  with_reducible repeat' first | assumption | apply modPower_keeps | apply fireCmp_keeps | split | simp only [↓keeps_mk]

/-! ### Bringup -/

theorem modBoot_keeps (s : State) (f : Boot → Boot) {wr : Bool} {s0 : State} (hk : Keeps wr s0 s) : Keeps wr s0 (modBoot s f)
    := by
  dsimp only [modBoot]
  with_reducible repeat' first | assumption | split | simp only [↓keeps_mk]

theorem modRecord_keeps (s : State) (f : Record → Record) {wr : Bool} {s0 : State} (hk : Keeps wr s0 s) (hf : ∀ r, (f
    r).lcState = r.lcState ∧ (f r).lcCount = r.lcCount ∧ (f r).identity = r.identity ∧ (f r).pending = r.pending ∧ (f
    r).pendingState = r.pendingState) : Keeps wr s0 (modRecord s f) := 
  let ⟨a, b, c, d, e⟩ := hf s.record
  ⟨hk.1, a.trans hk.2, b.trans hk.3, c.trans hk.4, d.trans hk.5, e.trans hk.6, hk.7, hk.8, hk.9⟩

theorem toPhase_keeps (s : State) (n : Nat) {wr : Bool} {s0 : State} (hk : Keeps wr s0 s) : Keeps wr s0 (toPhase s n) := by
  dsimp only [toPhase]
  with_reducible repeat' first | assumption | apply modBoot_keeps | split | simp only [↓keeps_mk]

theorem bootFail_keeps (s : State) (c : Code) (unit : Nat) {wr : Bool} {s0 : State} (hk : Keeps wr s0 s) : Keeps wr s0
    (bootFail s c unit) := by
  dsimp only [bootFail]
  with_reducible repeat' first | assumption | apply modBoot_keeps | split | simp only [↓keeps_mk]

theorem drainRecorded_keeps (s : State) {s0 : State} (hk : Keeps true s0 s) : Keeps true s0 (drainRecorded s) := by
  dsimp only [drainRecorded]
  with_reducible repeat' first
      | assumption | apply noCode_keeps | apply freshNat_keeps | apply beginDrain_keeps | split
      | refine keeps_pair (by assumption) ?_

theorem trainPorts_keeps (s : State) {wr : Bool} {s0 : State} (hk : Keeps wr s0 s) : Keeps wr s0 (trainPorts s) := by
  dsimp only [trainPorts]
  with_reducible repeat' first
      | assumption | apply startTraining_keeps | refine keeps_foldl ?_ (fun _ _ _ => ?_)
      | refine keeps_foldl1 ?_ (fun _ _ _ => ?_) | split

theorem execIdentityCheck_keeps (straps : List Nat) (fuses : List FuseRecord) (steppings : List Nat) (slot : BitVec 6) (s :
    State) {wr : Bool} {s0 : State} (hk : Keeps wr s0 s) {t : State} (h : execIdentityCheck straps fuses steppings slot s =
    .next t) : Keeps wr s0 t := by
  dsimp only [execIdentityCheck] at h; cases h
  with_reducible repeat' first
      | assumption | apply modBoot_keeps | apply toPhase_keeps | apply bootFail_keeps | apply trainPorts_keeps | split
      | simp only [↓keeps_mk]

theorem execBridgeTestDone_keeps (die : DieId) (bridge : Fin 3) (data spare : List Nat) (s : State) {s0 : State} (hk : Keeps
    true s0 s) {t : State} (h : execBridgeTestDone die bridge data spare s = .next t) : Keeps true s0 t := by
  dsimp only [execBridgeTestDone] at h; cases h
  with_reducible repeat' first
      | assumption | apply modBoot_keeps | apply setBridge_keeps | apply beginDrain_keeps | apply bootFail_keeps | split
      | simp only [↓keeps_mk]

theorem execHbmTrainingDone_keeps (stack : StackId) (s : State) {wr : Bool} {s0 : State} (hk : Keeps wr s0 s) {t : State} (h :
    execHbmTrainingDone stack s = .next t) : Keeps wr s0 t := by
  dsimp only [execHbmTrainingDone] at h; cases h
  with_reducible repeat' first | assumption | apply modStack_keeps | split | simp only [↓keeps_mk]

theorem execStackTrainingOverrun_keeps (stack : StackId) (s : State) {s0 : State} (hk : Keeps true s0 s) {t : State} (h :
    execStackTrainingOverrun stack s = .next t) : Keeps true s0 t := by
  dsimp only [execStackTrainingOverrun] at h; cases h
  with_reducible repeat' first
      | assumption | apply raise_keeps | apply modStack_keeps | apply bootFail_keeps | apply beginDrain_keeps | split
      | simp only [↓keeps_mk]

theorem execReservedZeroDone_keeps (s : State) {wr : Bool} {s0 : State} (hk : Keeps wr s0 s) {t : State} (h :
    execReservedZeroDone s = .next t) : Keeps wr s0 t := by
  dsimp only [execReservedZeroDone] at h; cases h
  with_reducible repeat' first | assumption | apply modBoot_keeps | apply clearRegs_keeps | split | simp only [↓keeps_mk]

theorem loadFail_keeps (s : State) (c : Nat) (r : PostRef) (f : Code) {wr : Bool} {s0 : State} (hk : Keeps wr s0 s) : Keeps wr
    s0 (loadFail s c r f) := by
  dsimp only [loadFail]
  with_reducible repeat' first
      | assumption | apply modBoot_keeps | apply bootFail_keeps | apply completePost_keeps | split | simp only [↓keeps_mk]

theorem execFwLoad_keeps (c : CtxId) (s : State) {wr : Bool} {s0 : State} (hk : Keeps wr s0 s) {t : State} (h : execFwLoad c s
    = .next t) : Keeps wr s0 t := by
  dsimp only [execFwLoad] at h; cases h
  with_reducible repeat' first
      | assumption | apply takePost_keeps | apply completePost_keeps | apply loadFail_keeps | apply modBoot_keeps
      | apply toPhase_keeps | split | intro _ | simp only [↓keeps_mk]

theorem startControl_keeps (s : State) {wr : Bool} {s0 : State} (hk : Keeps wr s0 s) : Keeps wr s0 (startControl s) := by
  dsimp only [startControl]
  with_reducible repeat' first | assumption | apply modBoot_keeps | split | simp only [↓keeps_mk]

theorem acceptImage_keeps (s : State) (c : Nat) (r : PostRef) (len : Nat) {wr : Bool} {s0 : State} (hk : Keeps wr s0 s) : Keeps
    wr s0 (acceptImage s c r len) := by
  dsimp only [acceptImage]
  with_reducible repeat' first
      | assumption | apply completePost_keeps | apply endBootDrained_keeps | apply startControl_keeps | apply toPhase_keeps
      | split | simp only [↓keeps_mk]

theorem execFwVerifyDone_keeps (s : State) {wr : Bool} {s0 : State} (hk : Keeps wr s0 s) {t : State} (h : execFwVerifyDone s =
    .next t) : Keeps wr s0 t := by
  dsimp only [execFwVerifyDone] at h; cases h
  with_reducible repeat' first
      | assumption | apply loadFail_keeps | apply modBoot_keeps | apply toPhase_keeps | apply acceptImage_keeps | split
      | simp only [↓keeps_mk]

theorem broadcast_keeps (s : State) {wr : Bool} {s0 : State} (hk : Keeps wr s0 s) : Keeps wr s0 (broadcast s) := by
  dsimp only [broadcast]
  with_reducible repeat' first | assumption | apply modBoot_keeps | split | simp only [↓keeps_mk]

theorem execFirmwareStart_keeps (s : State) {wr : Bool} {s0 : State} (hk : Keeps wr s0 s) {t : State} (h : execFirmwareStart s
    = .next t) : Keeps wr s0 t := by
  dsimp only [execFirmwareStart] at h; cases h
  with_reducible repeat' first | assumption | apply toPhase_keeps | apply broadcast_keeps | apply startControl_keeps | split

theorem atlasChange_keeps (s : State) {wr : Bool} {s0 : State} (hk : Keeps wr s0 s) : Keeps wr s0 (atlasChange s) := by
  dsimp only [atlasChange]
  with_reducible repeat' first | assumption | apply bump32_keeps | apply dirtyAtlas_keeps | split

theorem applyTest_keeps (s : State) (t : SiteTest) {s0 : State} (hk : Keeps true s0 s) : Keeps true s0 (applyTest s t) := by
  dsimp only [applyTest]
  with_reducible repeat' first
      | assumption | apply atlasChange_keeps | apply setSite_keeps | apply modSite_keeps | apply beginDrain_keeps
      | apply bootFail_keeps | split | refine keeps_pair (by assumption) ?_ | simp only [↓keeps_mk]

theorem execBringupTestDone_keeps (results : List SiteTest) (s : State) {s0 : State} (hk : Keeps true s0 s) {t : State} (h :
    execBringupTestDone results s = .next t) : Keeps true s0 t := by
  dsimp only [execBringupTestDone] at h; cases h
  with_reducible repeat' first
      | assumption | apply applyTest_keeps | apply modBoot_keeps | refine keeps_foldl ?_ (fun _ _ _ => ?_)
      | refine keeps_foldl1 ?_ (fun _ _ _ => ?_) | split | simp only [↓keeps_mk]

theorem execReadySend_keeps (s : State) {wr : Bool} {s0 : State} (hk : Keeps wr s0 s) {t : State} (h : execReadySend s = .next
    t) : Keeps wr s0 t := by
  dsimp only [execReadySend] at h; cases h
  with_reducible repeat' first
      | assumption | apply modBoot_keeps | apply toPhase_keeps | apply chipNotice_keeps | apply modRecord_keeps | split
      | exact fun _ => ⟨rfl, rfl, rfl, rfl, rfl⟩ | simp only [↓keeps_mk]

theorem bootDieLost_keeps (s : State) (d unit : Nat) {s0 : State} (hk : Keeps true s0 s) : Keeps true s0 (bootDieLost s d unit)
    := by
  dsimp only [bootDieLost]
  with_reducible repeat' first | assumption | apply beginDrain_keeps | apply bootFail_keeps | split | simp only [↓keeps_mk]

/-! ### Hang -/

theorem endReset_keeps (s : State) (x : Domain) {wr : Bool} {s0 : State} (hk : Keeps wr s0 s) : Keeps wr s0 (endReset s x) :=
    by
  dsimp only [endReset]
  with_reducible repeat' first | assumption | split | simp only [↓keeps_mk]

theorem replayAfterReturn_keeps (s : State) {wr : Bool} {s0 : State} (hk : Keeps wr s0 s) : Keeps wr s0 (replayAfterReturn s)
    := by
  dsimp only [replayAfterReturn]
  with_reducible repeat' first | assumption | split | simp only [↓keeps_mk]

theorem unfence_keeps (s : State) (d : Nat) {wr : Bool} {s0 : State} (hk : Keeps wr s0 s) : Keeps wr s0 (unfence s d) := by
  dsimp only [unfence]
  with_reducible repeat' first
      | assumption | apply modStack_keeps | apply raise_keeps | apply replayAfterReturn_keeps | apply retestFirst_keeps
      | refine keeps_foldl ?_ (fun _ _ _ => ?_) | refine keeps_foldl1 ?_ (fun _ _ _ => ?_) | split | simp only [↓keeps_mk]

theorem coreResetDone_keeps (s : State) (c : Nat) (test : Bool) {wr : Bool} {s0 : State} (hk : Keeps wr s0 s) : Keeps wr s0
    (coreResetDone s c test) := by
  dsimp only [coreResetDone]
  with_reducible repeat' first | assumption | apply startTest_keeps | apply retestFirst_keeps | split

theorem countTie_keeps (s : State) (d : Domain) (r : Reset) {wr : Bool} {s0 : State} (hk : Keeps wr s0 s) : Keeps wr s0
    (countTie s d r) := by
  dsimp only [countTie]
  with_reducible repeat' first | assumption | apply addTie_keeps | split

theorem execResetComplete_keeps (d : Domain) (s : State) {wr : Bool} {s0 : State} (hk : Keeps wr s0 s) {t : State} (h :
    execResetComplete d s = .next t) : Keeps wr s0 t := by
  dsimp only [execResetComplete] at h; cases h
  with_reducible repeat' first
      | assumption | apply countTie_keeps | apply endReset_keeps | apply coreResetDone_keeps | apply relightPort_keeps
      | apply unfence_keeps | refine keeps_foldl ?_ (fun _ _ _ => ?_) | refine keeps_foldl1 ?_ (fun _ _ _ => ?_) | split
      | simp only [↓keeps_mk]

theorem coreOverrun_keeps (s : State) (c : Nat) (r : Reset) {s0 : State} (hk : Keeps true s0 s) : Keeps true s0 (coreOverrun s
    c r) := by
  dsimp only [coreOverrun]
  with_reducible repeat' first
      | assumption | apply modCore_keeps | apply returnHome_keeps | apply retireShoulder_keeps | apply leaveSite_keeps
      | apply resumeReplays_keeps | split | simp only [↓keeps_mk]

theorem dieLost_keeps (s : State) (d : Nat) {s0 : State} (hk : Keeps true s0 s) : Keeps true s0 (dieLost s d) := by
  dsimp only [dieLost]
  with_reducible repeat' first | assumption | apply beginDrain_keeps | split | simp only [↓keeps_mk]

theorem execResetOverrun_keeps (d : Domain) (s : State) {s0 : State} (hk : Keeps true s0 s) {t : State} (h : execResetOverrun d
    s = .next t) : Keeps true s0 t := by
  dsimp only [execResetOverrun] at h; cases h
  with_reducible repeat' first
      | assumption | apply bump32_keeps | apply endReset_keeps | apply startReset_keeps | apply coreOverrun_keeps
      | apply dieLost_keeps | apply enterDormant_keeps | apply modRecord_keeps | split
      | exact fun _ => ⟨rfl, rfl, rfl, rfl, rfl⟩ | simp only [↓keeps_mk]

theorem execHeartbeat_keeps (k : Fin 5) (s : State) {s0 : State} (hk : Keeps true s0 s) {t : State} (h : execHeartbeat k s =
    .next t) : Keeps true s0 t := by
  dsimp only [execHeartbeat] at h; cases h
  with_reducible repeat' first | assumption | apply addTie_keeps | apply leaveWaiting_keeps | split | simp only [↓keeps_mk]

theorem execWatchdogMiss_keeps (k : Fin 5) (s : State) {wr : Bool} {s0 : State} (hk : Keeps wr s0 s) {t : State} (h :
    execWatchdogMiss k s = .next t) : Keeps wr s0 t := by
  dsimp only [execWatchdogMiss] at h; cases h
  with_reducible repeat' first
      | assumption | apply queueNotice_keeps | apply bump32_keeps | apply alertCause_keeps | split
      | refine keeps_pair (by assumption) ?_ | simp only [↓keeps_mk]

theorem execProcessorRestartOverrun_keeps (k : Fin 5) (s : State) {s0 : State} (hk : Keeps true s0 s) {t : State} (h :
    execProcessorRestartOverrun k s = .next t) : Keeps true s0 t := by
  dsimp only [execProcessorRestartOverrun] at h; cases h
  with_reducible repeat' first
      | assumption | apply startReset_keeps | apply recordStep_keeps | apply hubReset_keeps | split | simp only [↓keeps_mk]

/-! ### Clock -/

theorem skipAwaits_keeps (s : State) (n : Nat) {wr : Bool} {s0 : State} (hk : Keeps wr s0 s) : Keeps wr s0 (skipAwaits s n) :=
    by
  dsimp only [skipAwaits]
  with_reducible repeat' first | assumption | split | simp only [↓keeps_mk]

theorem skipWaits_keeps (s : State) {wr : Bool} {s0 : State} (hk : Keeps wr s0 s) : Keeps wr s0 (skipWaits s) := by
  dsimp only [skipWaits]
  with_reducible repeat' first
      | assumption | refine keeps_foldl ?_ (fun _ _ _ => ?_) | refine keeps_foldl1 ?_ (fun _ _ _ => ?_) | split
      | simp only [↓keeps_mk]

theorem countCycles_keeps (core : Nat) (s : State) (c : Nat × Bool) {wr : Bool} {s0 : State} (hk : Keeps wr s0 s) : Keeps wr s0
    (countCycles core s c) := by
  dsimp only [countCycles]
  with_reducible repeat' first
      | assumption | apply freshNat_keeps | apply siteBump64_keeps | apply siteBump32_keeps | split
      | refine keeps_pair (by assumption) ?_

theorem coreTick_keeps (n : Nat) (s : State) (core : Nat) {wr : Bool} {s0 : State} (hk : Keeps wr s0 s) : Keeps wr s0 (coreTick
    n s core) := by
  dsimp only [coreTick]
  with_reducible repeat' first
      | assumption | apply siteBump64_keeps | apply countCycles_keeps | apply modCore_keeps
      | refine keeps_foldl ?_ (fun _ _ _ => ?_) | refine keeps_foldl1 ?_ (fun _ _ _ => ?_) | split

theorem hubBridgeTick_keeps (s : State) (d : Nat) {wr : Bool} {s0 : State} (hk : Keeps wr s0 s) : Keeps wr s0 (hubBridgeTick s
    d) := by
  dsimp only [hubBridgeTick]
  with_reducible repeat' first
      | assumption | apply freshNat_keeps | apply bump64_keeps | refine keeps_foldl ?_ (fun _ _ _ => ?_)
      | refine keeps_foldl1 ?_ (fun _ _ _ => ?_) | split | refine keeps_pair (by assumption) ?_

theorem runWaiting_keeps (s : State) {s0 : State} (hk : Keeps true s0 s) : Keeps true s0 (runWaiting s) := by
  dsimp only [runWaiting]
  with_reducible repeat' first
      | assumption | apply rerunAll_keeps | apply ixDrive_keeps | apply colDrive_keeps | apply bar4Run_keeps
      | apply landLate_keeps | refine keeps_foldl ?_ (fun _ _ _ => ?_) | refine keeps_foldl1 ?_ (fun _ _ _ => ?_) | split
      | refine keeps_pair (by assumption) ?_

theorem tick_keeps (s : State) {s0 : State} (hk : Keeps true s0 s) : Keeps true s0 (tick s) := by
  dsimp only [tick]
  with_reducible repeat' first
      | assumption | apply hubBridgeTick_keeps | apply runWaiting_keeps | apply fabricRun_keeps | apply idle_keeps
      | apply skipWaits_keeps | apply skipAwaits_keeps | apply coreTick_keeps | refine keeps_foldl ?_ (fun _ _ _ => ?_)
      | refine keeps_foldl1 ?_ (fun _ _ _ => ?_) | split

/-! ### Security -/

theorem modQsc_keeps (s : State) (f : Qsc → Qsc) {wr : Bool} {s0 : State} (hk : Keeps wr s0 s) : Keeps wr s0 (modQsc s f) := by
  dsimp only [modQsc]
  with_reducible repeat' first | assumption | split | simp only [↓keeps_mk]

theorem execAttest_keeps (c : CtxId) (s : State) {wr : Bool} {s0 : State} (hk : Keeps wr s0 s) {t : State} (h : execAttest c s
    = .next t) : Keeps wr s0 t := by
  dsimp only [execAttest] at h; cases h
  with_reducible repeat' first
      | assumption | apply takePost_keeps | apply completePost_keeps | apply modQsc_keeps | split | intro _
      | simp only [↓keeps_mk]

theorem execAttestDone_keeps (s : State) {s0 : State} (hk : Keeps true s0 s) {t : State} (h : execAttestDone s = .next t) :
    Keeps true s0 t := by
  dsimp only [execAttestDone] at h; cases h
  with_reducible repeat' first
      | assumption | apply modQsc_keeps | apply freshNat_keeps | apply writeRange_keeps | apply completePost_keeps | split
      | refine keeps_pair (by assumption) ?_ | simp only [↓keeps_mk]

theorem tokenWrite_keeps (s : State) (v : Nat) {wr : Bool} {s0 : State} (hk : Keeps wr s0 s) : Keeps wr s0 (tokenWrite s v) :=
    by
  dsimp only [tokenWrite]
  with_reducible repeat' first | assumption | apply modQsc_keeps | split | simp only [↓keeps_mk]

theorem execTokenDataWrite_keeps (p : PartId) (val : Word) (s : State) {wr : Bool} {s0 : State} (hk : Keeps wr s0 s) {t :
    State} (h : execTokenDataWrite p val s = .next t) : Keeps wr s0 t := by
  dsimp only [execTokenDataWrite] at h; cases h
  with_reducible repeat' first | assumption | apply writeReg_keeps | apply tokenWrite_keeps | split | intro _

theorem lcControl_keeps (s : State) (p : Nat) (clr go : Bool) {wr : Bool} {s0 : State} (hk : Keeps wr s0 s) : Keeps wr s0
    (lcControl s p clr go) := by
  dsimp only [lcControl]
  with_reducible repeat' first
      | assumption | apply writeReg_keeps | apply modRecord_keeps | apply modQsc_keeps | split
      | exact fun _ => ⟨rfl, rfl, rfl, rfl, rfl⟩ | intro _ | simp only [↓keeps_mk]

theorem execLcGo_keeps (p : PartId) (s : State) {wr : Bool} {s0 : State} (hk : Keeps wr s0 s) {t : State} (h : execLcGo p s =
    .next t) : Keeps wr s0 t := by
  dsimp only [execLcGo] at h; cases h
  with_reducible repeat' first | assumption | apply lcControl_keeps | split

theorem execReplaceClr_keeps (p : PartId) (s : State) {wr : Bool} {s0 : State} (hk : Keeps wr s0 s) {t : State} (h :
    execReplaceClr p s = .next t) : Keeps wr s0 t := by
  dsimp only [execReplaceClr] at h; cases h
  with_reducible repeat' first | assumption | apply lcControl_keeps | split

/-! ### Observe -/

theorem traceRest_keeps (s : State) (i : Nat) {wr : Bool} {s0 : State} (hk : Keeps wr s0 s) : Keeps wr s0 (traceRest s i) := by
  dsimp only [traceRest]
  with_reducible repeat' first | assumption | apply setTrace_keeps | split | simp only [↓keeps_mk]

theorem traceWrite_keeps (s : State) (i : Nat) {s0 : State} (hk : Keeps true s0 s) : Keeps true s0 (traceWrite s i) := by
  dsimp only [traceWrite]
  with_reducible repeat' first
      | assumption | apply setTrace_keeps | apply bump32_keeps | apply writeRange_keeps | apply traceStop_keeps
      | apply raise_keeps | split | refine keeps_pair (by assumption) ?_ | simp only [↓keeps_mk]

theorem execTraceWrite_keeps (buf : Fin 4) (s : State) {s0 : State} (hk : Keeps true s0 s) {t : State} (h : execTraceWrite buf
    s = .next t) : Keeps true s0 t := by
  dsimp only [execTraceWrite] at h; cases h
  with_reducible repeat' first | assumption | apply traceRest_keeps | apply traceWrite_keeps | split

theorem execFabricSample_keeps (buf : Fin 4) (s : State) {wr : Bool} {s0 : State} (hk : Keeps wr s0 s) {t : State} (h :
    execFabricSample buf s = .next t) : Keeps wr s0 t := by
  dsimp only [execFabricSample] at h; cases h
  with_reducible repeat' first | assumption | apply tracePush_keeps | apply setTrace_keeps | split | simp only [↓keeps_mk]

theorem execOpticalCheck_keeps (port : PortId) (bias power : BitVec 8) (s : State) {wr : Bool} {s0 : State} (hk : Keeps wr s0
    s) {t : State} (h : execOpticalCheck port bias power s = .next t) : Keeps wr s0 t := by
  dsimp only [execOpticalCheck] at h; cases h
  with_reducible repeat' first | assumption | apply setPort_keeps | apply widthChange_keeps | split | simp only [↓keeps_mk]

theorem execPllCheck_keeps (fabric bypass : BitVec 4) (hub : Bool) (s : State) {s0 : State} (hk : Keeps true s0 s) {t : State}
    (h : execPllCheck fabric bypass hub s = .next t) : Keeps true s0 t := by
  dsimp only [execPllCheck] at h; cases h
  with_reducible repeat' first
      | assumption | apply startPlain_keeps | apply hubReset_keeps | refine keeps_foldl ?_ (fun _ _ _ => ?_)
      | refine keeps_foldl1 ?_ (fun _ _ _ => ?_) | split

theorem execSensorCheck_keeps (junction hbmStacks : List Nat) (s : State) {wr : Bool} {s0 : State} (hk : Keeps wr s0 s) {t :
    State} (h : execSensorCheck junction hbmStacks s = .next t) : Keeps wr s0 t := by
  dsimp only [execSensorCheck] at h; cases h
  with_reducible repeat' first
      | assumption | apply addEvent_keeps | apply modPower_keeps | apply modStack_keeps
      | refine keeps_foldl ?_ (fun _ _ _ => ?_) | refine keeps_foldl1 ?_ (fun _ _ _ => ?_) | split | simp only [↓keeps_mk]

theorem execVinMonitorCheck_keeps (a b : Nat) (s : State) {wr : Bool} {s0 : State} (hk : Keeps wr s0 s) {t : State} (h :
    execVinMonitorCheck a b s = .next t) : Keeps wr s0 t := by
  dsimp only [execVinMonitorCheck] at h; cases h
  with_reducible repeat' first | assumption | apply modPower_keeps | apply addCorrected_keeps | split | simp only [↓keeps_mk]

/-! ### Reads -/

theorem latchedRead_keeps (s : State) (b : Blk) (pg sel p o : Nat) {wr : Bool} {s0 : State} (hk : Keeps wr s0 s) : Keeps wr s0
    (latchedRead s b pg sel p o).1 := by
  dsimp only [latchedRead]
  with_reducible repeat' first | assumption | apply setPage_keeps | split | simp only [↓keeps_mk]

theorem readValue_keeps (s : State) (v : Nat) {wr : Bool} {s0 : State} (hk : Keeps wr s0 s) : Keeps wr s0 (readValue s v) := by
  dsimp only [readValue]
  with_reducible repeat' first | assumption | split | simp only [↓keeps_mk]

theorem busRead_keeps (s : State) (p off : Nat) {wr : Bool} {s0 : State} (hk : Keeps wr s0 s) : Keeps wr s0 (busRead s p off)
    := by
  dsimp only [busRead]
  with_reducible repeat' first
      | assumption | apply readValue_keeps | apply readPoisonLog_keeps | apply telDepthRead_keeps | apply latchedRead_keeps
      | split | refine keeps_pair (by assumption) ?_ | simp only [↓keeps_mk]

theorem takeBytes_keeps (s : State) (at_ size : Nat) {wr : Bool} {s0 : State} (hk : Keeps wr s0 s) : Keeps wr s0 (takeBytes s
    at_ size) := by
  dsimp only [takeBytes]
  with_reducible repeat' first | assumption | apply readValue_keeps | split

theorem hostRead_keeps (s : State) (p off size : Nat) {wr : Bool} {s0 : State} (hk : Keeps wr s0 s) : Keeps wr s0 (hostRead s p
    off size) := by
  dsimp only [hostRead]
  with_reducible repeat' first | assumption | apply readValue_keeps | apply takeBytes_keeps | apply busRead_keeps | split

theorem execLowWordRead_keeps (p : PartId) (off : ReadAt) (s : State) {wr : Bool} {s0 : State} (hk : Keeps wr s0 s) {t : State}
    (h : execLowWordRead p off s = .next t) : Keeps wr s0 t := by
  dsimp only [execLowWordRead] at h; cases h
  with_reducible repeat' first | assumption | apply readValue_keeps | apply hostRead_keeps | split

theorem execMilestoneViewRead_keeps (p : PartId) (core : CoreId) (ms : Fin 48) (s : State) {wr : Bool} {s0 : State} (hk : Keeps
    wr s0 s) {t : State} (h : execMilestoneViewRead p core ms s = .next t) : Keeps wr s0 t := by
  dsimp only [execMilestoneViewRead] at h; cases h
  with_reducible repeat' first | assumption | apply busRead_keeps | split

/-! ### Writes -/

theorem releasePage_keeps (s : State) (b : Blk) {wr : Bool} {s0 : State} (hk : Keeps wr s0 s) : Keeps wr s0 (releasePage s b)
    := by
  dsimp only [releasePage]
  with_reducible repeat' first
      | assumption | apply releaseTrace_keeps | apply releaseAlert_keeps | apply releaseCmp_keeps | split
      | simp only [↓keeps_mk]

theorem ctlWrite_keeps (s : State) (p pg : Nat) (b : Blk) (v : Nat) {wr : Bool} {s0 : State} (hk : Keeps wr s0 s) : Keeps wr s0
    (ctlWrite s p pg b v) := by
  dsimp only [ctlWrite]
  with_reducible repeat' first
      | assumption | apply reject_keeps | apply modPage_keeps | apply releasePage_keeps | split
      | refine keeps_pair (by assumption) ?_ | simp only [↓keeps_mk]

theorem maskWrite_keeps (s : State) (pg v : Nat) {wr : Bool} {s0 : State} (hk : Keeps wr s0 s) : Keeps wr s0 (maskWrite s pg v)
    := by
  dsimp only [maskWrite]
  with_reducible repeat' first | assumption | apply setPage_keeps | apply blockNotice_keeps | split | simp only [↓keeps_mk]

theorem pendWrite_keeps (s : State) (pg v : Nat) {wr : Bool} {s0 : State} (hk : Keeps wr s0 s) : Keeps wr s0 (pendWrite s pg v)
    := by
  dsimp only [pendWrite]
  with_reducible repeat' first | assumption | apply modPage_keeps | split | simp only [↓keeps_mk]

theorem headWrite_keeps (s : State) (p pg : Nat) (b : Blk) (o v : Nat) {wr : Bool} {s0 : State} (hk : Keeps wr s0 s) : Keeps wr
    s0 (headWrite s p pg b o v) := by
  dsimp only [headWrite]
  with_reducible repeat' first
      | assumption | apply ctlWrite_keeps | apply reject_keeps | apply maskWrite_keeps | apply pendWrite_keeps | split

theorem traceFlush_keeps (s : State) (i n : Nat) {s0 : State} (hk : Keeps true s0 s) : Keeps true s0 (traceFlush s i n) := by
  induction n generalizing s with
  | zero => exact hk
  | succ n ih =>
    simp only [traceFlush]
    with_reducible repeat' first | assumption | apply ih | apply traceWrite_keeps

theorem traceTake_keeps (s : State) (p i v : Nat) {s0 : State} (hk : Keeps true s0 s) : Keeps true s0 (traceTake s p i v) := by
  dsimp only [traceTake]
  with_reducible repeat' first
      | assumption | apply traceFlush_keeps | apply setTrace_keeps | apply addEvent_keeps | apply setOwner_keeps | split

theorem traceCtl_keeps (s : State) (p i v : Nat) {s0 : State} (hk : Keeps true s0 s) : Keeps true s0 (traceCtl s p i v) := by
  dsimp only [traceCtl]
  with_reducible repeat' first
      | assumption | apply writeReg_keeps | apply traceTake_keeps | apply releaseTrace_keeps | apply setTrace_keeps | split
      | refine keeps_pair (by assumption) ?_ | intro _ | simp only [↓keeps_mk]

theorem cmpCtlAct_keeps (s : State) (k f v : Nat) {wr : Bool} {s0 : State} (hk : Keeps wr s0 s) : Keeps wr s0 (cmpCtlAct s k f
    v) := by
  dsimp only [cmpCtlAct]
  with_reducible repeat' first
      | assumption | apply setCmp_keeps | apply wake_keeps | apply enabledFire_keeps | apply wakeFired_keeps | split
      | simp only [↓keeps_mk]

theorem argAct_keeps (s : State) (k lo hi : Nat) {wr : Bool} {s0 : State} (hk : Keeps wr s0 s) : Keeps wr s0 (argAct s k lo hi)
    := by
  dsimp only [argAct]
  with_reducible repeat' first | assumption | apply cmpWatch_keeps | apply setCmp_keeps | split | simp only [↓keeps_mk]

theorem alertAct_keeps (s : State) (f v : Nat) {wr : Bool} {s0 : State} (hk : Keeps wr s0 s) : Keeps wr s0 (alertAct s f v) :=
    by
  dsimp only [alertAct]
  with_reducible repeat' first | assumption | apply setOwner_keeps | apply updateAlert_keeps | split | simp only [↓keeps_mk]

theorem alertClear_keeps (s : State) (v : Nat) {wr : Bool} {s0 : State} (hk : Keeps wr s0 s) : Keeps wr s0 (alertClear s v) :=
    by
  dsimp only [alertClear]
  with_reducible repeat' first | assumption | apply updateAlert_keeps | split | simp only [↓keeps_mk]

theorem pairAct_keeps (s : State) (b : Blk) (o lo hi : Nat) {wr : Bool} {s0 : State} (hk : Keeps wr s0 s) : Keeps wr s0
    (pairAct s b o lo hi) := by
  dsimp only [pairAct]
  with_reducible repeat' first
      | assumption | apply modCore_keeps | apply argAct_keeps | apply setReg64_keeps | split | simp only [↓keeps_mk]

theorem stageWord_keeps (s : State) (pg key : Nat) (v : Option Word) {wr : Bool} {s0 : State} (hk : Keeps wr s0 s) : Keeps wr
    s0 (stageWord s pg key v) := by
  dsimp only [stageWord]
  with_reducible repeat' first | assumption | apply modPage_keeps | split | simp only [↓keeps_mk]

theorem keeps_ite {α : Type} {c : Prop} [Decidable c] {a b : α × (State → State)} {wr : Bool} {t s0 : State} (ha : Keeps wr s0 (a.2 t))
    (hb : Keeps wr s0 (b.2 t)) : Keeps wr s0 ((if c then a else b).2 t) := by
  split <;> assumption
theorem plainAct_keeps (s : State) (b : Blk) (o v : Nat) (t : State) {wr : Bool} {s0 : State} (hk : Keeps wr s0 t) :
    Keeps wr s0 ((plainWrite s b o v).2 t) := by
  cases b <;> simp only [plainWrite]
  all_goals
    with_reducible repeat' first
      | assumption | apply modCore_keeps | apply laInvalidate_keeps | apply setReg_keeps | apply setCap_keeps | apply modQsc_keeps
      | apply modRecord_keeps | exact fun _ => ⟨rfl, rfl, rfl, rfl, rfl⟩ | apply alertAct_keeps | apply alertClear_keeps
      | apply modPower_keeps | apply cmpCtlAct_keeps | refine keeps_ite ?_ ?_ | split | dsimp only [id]

theorem pairWrite_keeps (s : State) (p pg : Nat) (b : Blk) (o v : Nat) (r : RegDef) {wr : Bool} {s0 : State} (hk : Keeps wr s0
    s) : Keeps wr s0 (pairWrite s p pg b o v r) := by
  dsimp only [pairWrite]
  with_reducible repeat' first
      | assumption | apply writeReg_keeps | apply stageWord_keeps | apply pairAct_keeps | split | intro _ | dsimp only [id]
      | simp only [↓keeps_mk]

theorem commandWrite_keeps (s : State) (p pg o v bits : Nat) (bad : Bool) (ahead : List (Bool × Code)) (act : State) {wr :
    Bool} {s0 : State} (hk : Keeps wr s0 s) (ha : Keeps wr s0 act) : Keeps wr s0 (commandWrite s p pg o v bits bad ahead act)
    := by
  dsimp only [commandWrite]
  with_reducible repeat' first | assumption | apply ha | apply writeReg_keeps | split | intro _ | dsimp only [id]

theorem blkWrite_keeps (s : State) (p pg : Nat) (b : Blk) (o v : Nat) {s0 : State} (hk : Keeps true s0 s) : Keeps true s0
    (blkWrite s p pg b o v) := by
  dsimp only [blkWrite]
  with_reducible repeat' first
      | assumption | apply writeReg_keeps | apply pairWrite_keeps | apply commandWrite_keeps | apply fmStart_keeps
      | apply flushCtl_keeps | apply telSelect_keeps | apply rtStart_keeps | apply holdWrite_keeps | apply setReg_keeps
      | apply applyPlan_keeps | apply rstReq_keeps | apply tokenWrite_keeps | apply lcControl_keeps | apply traceCtl_keeps
      | split | refine keeps_pair (by assumption) ?_ | apply plainAct_keeps | intro _ | dsimp only [id] | simp only [↓keeps_mk]

theorem regWrite_keeps (s : State) (p off size v : Nat) {s0 : State} (hk : Keeps true s0 s) : Keeps true s0 (regWrite s p off
    size v) := by
  dsimp only [regWrite]
  with_reducible repeat' first
      | assumption | apply bump32_keeps | apply reject_keeps | apply headWrite_keeps | apply blkWrite_keeps | split
      | simp only [↓keeps_mk]

/-! ### Mgmt -/

theorem modMgmt_keeps (s : State) (f : Mgmt → Mgmt) {wr : Bool} {s0 : State} (hk : Keeps wr s0 s) : Keeps wr s0 (modMgmt s f)
    := by
  dsimp only [modMgmt]
  with_reducible repeat' first | assumption | split | simp only [↓keeps_mk]

theorem mboxEnd_keeps (s : State) (code arg0 arg1 : Nat) {wr : Bool} {s0 : State} (hk : Keeps wr s0 s) : Keeps wr s0 (mboxEnd s
    code arg0 arg1) := by
  dsimp only [mboxEnd]
  with_reducible repeat' first
      | assumption | apply modMgmt_keeps | apply alertCause_keeps | apply addEvent_keeps | split | simp only [↓keeps_mk]

theorem mboxReply_keeps (s : State) (code arg1 : Nat) {wr : Bool} {s0 : State} (hk : Keeps wr s0 s) : Keeps wr s0 (mboxReply s
    code arg1) := by
  dsimp only [mboxReply]
  with_reducible repeat' first | assumption | apply mboxEnd_keeps | split

theorem submitReq_keeps (s : State) (data : List Byte) {wr : Bool} {s0 : State} (hk : Keeps wr s0 s) : Keeps wr s0 (submitReq s
    data) := by
  dsimp only [submitReq]
  with_reducible repeat' first
      | assumption | apply bump32_keeps | apply modMgmt_keeps | apply mboxReply_keeps | split | simp only [↓keeps_mk]

theorem answerI3c_keeps (s : State) (acked : Bool) (l : List Byte) {wr : Bool} {s0 : State} (hk : Keeps wr s0 s) : Keeps wr s0
    (answerI3c s acked l) := by
  dsimp only [answerI3c]
  with_reducible repeat' first | assumption | apply modMgmt_keeps | split | simp only [↓keeps_mk]

theorem execMboxSubmit_keeps (data : I3cTransfer) (s : State) {wr : Bool} {s0 : State} (hk : Keeps wr s0 s) {t : State} (h :
    execMboxSubmit data s = .next t) : Keeps wr s0 t := by
  dsimp only [execMboxSubmit] at h; cases h
  with_reducible repeat' first
      | assumption | apply bump32_keeps | apply answerI3c_keeps | apply submitReq_keeps | apply modMgmt_keeps | split
      | simp only [↓keeps_mk]

theorem execMboxNop_keeps (s : State) {wr : Bool} {s0 : State} (hk : Keeps wr s0 s) {t : State} (h : execMboxNop s = .next t) :
    Keeps wr s0 t := by
  dsimp only [execMboxNop] at h; cases h
  with_reducible repeat' first | assumption | apply mboxReply_keeps | split | simp only [↓keeps_mk]

theorem execMboxCap_keeps (s : State) {wr : Bool} {s0 : State} (hk : Keeps wr s0 s) {t : State} (h : execMboxCap s = .next t) :
    Keeps wr s0 t := by
  dsimp only [execMboxCap] at h; cases h
  with_reducible repeat' first | assumption | apply mboxReply_keeps | apply setCap_keeps | split | simp only [↓keeps_mk]

theorem execMboxPowerOff_keeps (s : State) {s0 : State} (hk : Keeps true s0 s) {t : State} (h : execMboxPowerOff s = .next t) :
    Keeps true s0 t := by
  dsimp only [execMboxPowerOff] at h; cases h
  with_reducible repeat' first
      | assumption | apply mboxReply_keeps | apply powerOff_keeps | split | intro _ | simp only [↓keeps_mk]

theorem execMboxWake_keeps (s : State) {wr : Bool} {s0 : State} (hk : Keeps wr s0 s) {t : State} (h : execMboxWake s = .next t)
    : Keeps wr s0 t := by
  dsimp only [execMboxWake] at h; cases h
  with_reducible repeat' first | assumption | apply mboxReply_keeps | apply fireCmp_keeps | split | simp only [↓keeps_mk]

theorem mgmtLatch_keeps (s : State) (b : Blk) (pg o n : Nat) {wr : Bool} {s0 : State} (hk : Keeps wr s0 s) : Keeps wr s0
    (mgmtLatch s b pg o n) := by
  dsimp only [mgmtLatch]
  with_reducible repeat' first | assumption | apply modPage_keeps | split | simp only [↓keeps_mk]

theorem readClears_keeps (s : State) (pg a : Nat) {wr : Bool} {s0 : State} (hk : Keeps wr s0 s) : Keeps wr s0 (readClears s pg
    a) := by
  dsimp only [readClears]
  with_reducible repeat' first | assumption | apply popPoisonLog_keeps | apply clearDepth_keeps | split | simp only [↓keeps_mk]

theorem mgmtClears_keeps (s : State) (pg o n : Nat) {wr : Bool} {s0 : State} (hk : Keeps wr s0 s) : Keeps wr s0 (mgmtClears s
    pg o n) := by
  dsimp only [mgmtClears]
  with_reducible repeat' first
      | assumption | apply readClears_keeps | refine keeps_foldl ?_ (fun _ _ _ => ?_)
      | refine keeps_foldl1 ?_ (fun _ _ _ => ?_) | split

theorem execMboxRead_keeps (s : State) {wr : Bool} {s0 : State} (hk : Keeps wr s0 s) {t : State} (h : execMboxRead s = .next t)
    : Keeps wr s0 t := by
  dsimp only [execMboxRead] at h; cases h
  with_reducible repeat' first
      | assumption | apply mboxReply_keeps | apply mboxEnd_keeps | apply mgmtClears_keeps | apply mgmtLatch_keeps | split
      | simp only [↓keeps_mk]

theorem execMboxReadTimeout_keeps (s : State) {wr : Bool} {s0 : State} (hk : Keeps wr s0 s) {t : State} (h :
    execMboxReadTimeout s = .next t) : Keeps wr s0 t := by
  dsimp only [execMboxReadTimeout] at h; cases h
  with_reducible repeat' first | assumption | apply mboxReply_keeps | split

theorem mgmtWrite_keeps (s : State) (off v : Nat) (t : State) {wr : Bool} {s0 : State} (hk : Keeps wr s0 t) :
    Keeps wr s0 (((mgmtWrite s off v).getD ([(true, .notOwner)], id)).2 t) := by
  unfold mgmtWrite
  extract_lets
  with_reducible repeat' first
      | assumption | apply alertAct_keeps | apply alertClear_keeps | apply modPower_keeps | apply cmpCtlAct_keeps
      | apply stageWord_keeps | apply argAct_keeps | split | dsimp only [id, Option.getD_some, Option.getD_none]

theorem execMboxWrite_keeps (s : State) {wr : Bool} {s0 : State} (hk : Keeps wr s0 s) {t : State} (h : execMboxWrite s = .next
    t) : Keeps wr s0 t := by
  dsimp only [execMboxWrite] at h; cases h
  with_reducible repeat' first
      | assumption | apply mboxReply_keeps | split | refine keeps_pair (by assumption) ?_ | apply mgmtWrite_keeps
      | dsimp only [id] | simp only [↓keeps_mk]

theorem execMgmtStatusRead_keeps (s : State) {wr : Bool} {s0 : State} (hk : Keeps wr s0 s) {t : State} (h : execMgmtStatusRead
    s = .next t) : Keeps wr s0 t := by
  dsimp only [execMgmtStatusRead] at h; cases h
  with_reducible repeat' first | assumption | apply modMgmt_keeps | split | simp only [↓keeps_mk]

theorem execSetdasa_keeps (addr : BitVec 7) (s : State) {wr : Bool} {s0 : State} (hk : Keeps wr s0 s) {t : State} (h :
    execSetdasa addr s = .next t) : Keeps wr s0 t := by
  dsimp only [execSetdasa] at h; cases h
  with_reducible repeat' first | assumption | apply modMgmt_keeps | split | simp only [↓keeps_mk]

theorem execDozeEntered_keeps (s : State) {s0 : State} (hk : Keeps true s0 s) {t : State} (h : execDozeEntered s = .next t) :
    Keeps true s0 t := by
  dsimp only [execDozeEntered] at h; cases h
  with_reducible repeat' first
      | assumption | apply resetFabric_keeps | apply modStack_keeps | apply modPower_keeps | apply wakeFired_keeps
      | apply endPow_keeps | apply mboxReply_keeps | refine keeps_foldl ?_ (fun _ _ _ => ?_)
      | refine keeps_foldl1 ?_ (fun _ _ _ => ?_) | split | intro _ | simp only [↓keeps_mk]

theorem execDozeExitDone_keeps (s : State) {wr : Bool} {s0 : State} (hk : Keeps wr s0 s) {t : State} (h : execDozeExitDone s =
    .next t) : Keeps wr s0 t := by
  dsimp only [execDozeExitDone] at h; cases h
  with_reducible repeat' first
      | assumption | apply modStack_keeps | apply modPower_keeps | apply endPow_keeps | apply mboxReply_keeps
      | refine keeps_foldl ?_ (fun _ _ _ => ?_) | refine keeps_foldl1 ?_ (fun _ _ _ => ?_) | split | intro _
      | simp only [↓keeps_mk]

/-! ### Pages -/

theorem execRegisterWrite_keeps (p : PartId) (off : Bar0) (size : Nat) (val : Word) (s : State) {s0 : State} (hk : Keeps true
    s0 s) {t : State} (h : execRegisterWrite p off size val s = .next t) : Keeps true s0 t := by
  dsimp only [execRegisterWrite] at h; cases h
  with_reducible repeat' first | assumption | apply regWrite_keeps | split

theorem execStrayBar0Write_keeps (p : PartId) (off : Bar0) (val : Word) (s : State) {s0 : State} (hk : Keeps true s0 s) {t :
    State} (h : execStrayBar0Write p off val s = .next t) : Keeps true s0 t := by
  dsimp only [execStrayBar0Write] at h; cases h
  with_reducible repeat' first | assumption | apply regWrite_keeps | split

theorem execRejectClr_keeps (p : PartId) (page : BitVec 14) (ctl : BitVec 16) (s : State) {s0 : State} (hk : Keeps true s0 s)
    {t : State} (h : execRejectClr p page ctl s = .next t) : Keeps true s0 t := by
  dsimp only [execRejectClr] at h; cases h
  with_reducible repeat' first | assumption | apply regWrite_keeps | split

theorem execRelease_keeps (p : PartId) (page : BitVec 14) (ctl : BitVec 16) (s : State) {s0 : State} (hk : Keeps true s0 s) {t
    : State} (h : execRelease p page ctl s = .next t) : Keeps true s0 t := by
  dsimp only [execRelease] at h; cases h
  with_reducible repeat' first | assumption | apply regWrite_keeps | split

theorem execNoticeMaskWrite_keeps (p : PartId) (page : BitVec 14) (val : Word) (s : State) {s0 : State} (hk : Keeps true s0 s)
    {t : State} (h : execNoticeMaskWrite p page val s = .next t) : Keeps true s0 t := by
  dsimp only [execNoticeMaskWrite] at h; cases h
  with_reducible repeat' first | assumption | apply regWrite_keeps | split

theorem execLowWordWrite_keeps (p : PartId) (off : Bar0) (val : Word) (s : State) {s0 : State} (hk : Keeps true s0 s) {t :
    State} (h : execLowWordWrite p off val s = .next t) : Keeps true s0 t := by
  dsimp only [execLowWordWrite] at h; cases h
  with_reducible repeat' first | assumption | apply regWrite_keeps | split

theorem execHighWordWrite_keeps (p : PartId) (off : Bar0) (val : Word) (s : State) {s0 : State} (hk : Keeps true s0 s) {t :
    State} (h : execHighWordWrite p off val s = .next t) : Keeps true s0 t := by
  dsimp only [execHighWordWrite] at h; cases h
  with_reducible repeat' first | assumption | apply regWrite_keeps | split

theorem execResourceEnableWrite_keeps (p : PartId) (off : Bar0) (val : Word) (s : State) {s0 : State} (hk : Keeps true s0 s) {t
    : State} (h : execResourceEnableWrite p off val s = .next t) : Keeps true s0 t := by
  dsimp only [execResourceEnableWrite] at h; cases h
  with_reducible repeat' first | assumption | apply regWrite_keeps | split

theorem execFrClear_keeps (p : PartId) (core : CoreId) (s : State) {s0 : State} (hk : Keeps true s0 s) {t : State} (h :
    execFrClear p core s = .next t) : Keeps true s0 t := by
  dsimp only [execFrClear] at h; cases h
  with_reducible repeat' first | assumption | apply regWrite_keeps | split

theorem execLaInvalidate_keeps (p : PartId) (core : CoreId) (s : State) {s0 : State} (hk : Keeps true s0 s) {t : State} (h :
    execLaInvalidate p core s = .next t) : Keeps true s0 t := by
  dsimp only [execLaInvalidate] at h; cases h
  with_reducible repeat' first | assumption | apply regWrite_keeps | split

/-! ### The commands that are no frame: the life cycle and the partitions of cores -/

/-- What every command does: it leaves the queue, keeps the invariant, and moves the life cycle along permitted transitions. -/
structure Goes (s t : State) : Prop where
  queue : t.pending = s.pending
  inv : Inv s → Inv t
  lifecycle : Inv s → LcMoves s.record.lcState t.record.lcState

theorem Keeps.inv {wr : Bool} {s t : State} (h : Keeps wr s t) (hi : Inv s) : Inv t where
  hbm := h.hbm hi.hbm
  lifecycle := by
    have := hi.lifecycle
    unfold LcLegal at this ⊢
    rw [h.lcState, h.lcCount, h.lcPending, h.lcNext]; exact this
  parts := by
    rcases h.corePart with e | ⟨_, e⟩ <;> rw [e]
    · exact hi.parts
    · intro _ h; cases h

theorem Keeps.goes {wr : Bool} {s t : State} (h : Keeps wr s t) : Goes s t := ⟨h.queue, h.inv, fun _ => .inl h.lcState⟩

theorem Goes.trans_keeps {wr : Bool} {s t u : State} (a : Goes s t) (b : Keeps wr t u) : Goes s u :=
  ⟨b.queue.trans a.queue, fun h => b.inv (a.inv h), fun h => by rw [b.lcState]; exact a.lifecycle h⟩

theorem lcPermitted_le {a b : Nat} (h : lcPermitted a b = true) : b ≤ 3 := by
  unfold lcPermitted at h
  simp only [Bool.or_eq_true, Bool.and_eq_true, beq_iff_eq] at h
  omega

theorem applyLifecycle_goes (s : State) : Goes s (applyLifecycle s) := by
  unfold applyLifecycle modRecord
  refine ⟨rfl, fun hi => ⟨hi.hbm, ?_, hi.parts⟩, fun hi => ?_⟩
  · obtain ⟨a, b, c⟩ := hi.lifecycle
    dsimp only
    split
    · exact ⟨a, b, c⟩
    · rename_i hp
      have hp : s.record.pending = true := by simpa using hp
      have := lcPermitted_le (b hp)
      split
      · exact ⟨this, nofun, c⟩
      · exact ⟨this, nofun, c⟩
  · obtain ⟨_, b, _⟩ := hi.lifecycle
    dsimp only
    split
    · exact .inl rfl
    · rename_i hp
      have := b (by simpa using hp)
      split <;> exact .inr this

theorem endPower_goes (s : State) : Goes s (endPower s) := by
  unfold endPower
  exact (applyLifecycle_goes s).trans_keeps
    (toPhase_keeps _ _ (modBoot_keeps _ _ (freshNat_keeps _ (drainRecorded_keeps _ (.refl (wr := true) _)))))

theorem execBringupPowerDone_goes {s t : State} (h : execBringupPowerDone s = .next t) : Goes s t := by
  unfold execBringupPowerDone at h
  injection h with h
  subst h
  split
  · exact endPower_goes s
  · exact (Keeps.refl (wr := true) s).goes

theorem execBringupOverrun_goes (hub : Bool) (die : DieId) {s t : State} (h : execBringupOverrun hub die s = .next t) :
    Goes s t := by
  unfold execBringupOverrun at h
  injection h with h
  subst h
  split
  · exact (Keeps.refl (wr := true) s).goes
  · split
    · split
      · exact (enterDormant_keeps _ _ (bootFail_keeps _ _ _ (.refl (wr := true) s))).goes
      · exact (endPower_goes s).trans_keeps (bootDieLost_keeps _ _ _ (.refl (wr := true) _))
    · split
      · exact (bootDieLost_keeps _ _ _ (.refl (wr := true) s)).goes
      · split
        · exact (bootDieLost_keeps _ _ _ (.refl (wr := true) s)).goes
        · exact (Keeps.refl (wr := true) s).goes

theorem inOrder_none {l : List (Bool × Code)} (h : inOrder l = none) (e : Bool × Code) (m : e ∈ l) : e.1 = false := by
  unfold inOrder at h
  rw [Option.map_eq_none_iff, List.find?_eq_none] at h
  simpa using h e m

theorem execLcCheckDone_goes {s t : State} (h : execLcCheckDone s = .next t) : Goes s t := by
  unfold execLcCheckDone at h
  injection h with h
  subst h
  split
  · exact (Keeps.refl (wr := true) s).goes
  · split
    · exact (modQsc_keeps s _ (.refl (wr := true) s)).goes
    · rename_i hf
      unfold lcFail at hf
      extract_lets at hf
      have permitted := inOrder_none hf (!lcPermitted s.record.lcState s.qsc.target, .lifecycle) (by simp)
      have count := inOrder_none hf (s.record.lcCount == 255, .noSpace) (by simp)
      refine ⟨rfl, fun hi => ⟨hi.hbm, ?_, hi.parts⟩, fun _ => .inl rfl⟩
      obtain ⟨a, _, c⟩ := hi.lifecycle
      refine ⟨a, fun _ => ?_, ?_⟩
      · show lcPermitted s.record.lcState s.qsc.target = true
        simpa using permitted
      · show s.record.lcCount + 1 ≤ 255
        have : s.record.lcCount ≠ 255 := by simpa using count
        omega

theorem PartsLegal.store {m : SMap Nat} {k v : Nat} (h : PartsLegal m) (hv : v ≤ 15) : PartsLegal (store m k v) := by
  induction m with
  | nil => intro e he; rw [List.mem_singleton.1 he]; exact hv
  | cons a t ih =>
    have ht : PartsLegal t := fun e he => h e (List.mem_cons_of_mem _ he)
    have ha := h a (List.mem_cons_self ..)
    unfold Machine.store
    split
    · intro e he
      rcases List.mem_cons.1 he with rfl | he
      · exact hv
      · exact ht e he
    · split
      · intro e he
        rcases List.mem_cons.1 he with rfl | he
        · exact hv
        · exact h e he
      · intro e he
        rcases List.mem_cons.1 he with rfl | he
        · exact ha
        · exact ih ht e he

theorem PartsLegal.drop1 {m : SMap Nat} {k : Nat} (h : PartsLegal m) : PartsLegal (drop1 m k) :=
  fun e he => h e (List.mem_filter.1 he).1

theorem firstFail_none {l : List (Bool × Code)} (h : firstFail l = none) (e : Bool × Code) (m : e ∈ l)
    (hc : e.2 ∈ [Code.badField, .wrongState, .absent, .notOwner, .align, .reservedSet, .busy]) : e.1 = false := by
  unfold firstFail at h
  extract_lets order at h
  rw [List.find?_eq_none] at h
  have : e.2 ∈ order := by
    revert hc
    generalize e.2 = c
    cases c <;> decide
  have := h _ this
  simp only [List.any_eq_true, Bool.and_eq_true, beq_iff_eq, not_exists, not_and] at this
  cases hb : e.1
  · rfl
  · exact absurd rfl (this e m hb)

theorem PartsLegal.foldl {m : SMap Nat} {l : List Nat} {f : SMap Nat → Nat → SMap Nat} (h : PartsLegal m)
    (hf : ∀ m k, PartsLegal m → PartsLegal (f m k)) : PartsLegal (l.foldl f m) := by
  induction l generalizing m with
  | nil => exact h
  | cons a t ih => exact ih (hf _ _ h)

theorem takePost_goes (s : State) (c op : Nat) (act : State → PostRef → List Byte → State)
    (ha : ∀ s' r d, Keeps true s s' → Goes s (act s' r d)) : Goes s (takePost s c op act) := by
  unfold takePost
  split
  · exact (Keeps.refl (wr := true) s).goes
  · split
    · exact (Keeps.refl (wr := true) s).goes
    · rename_i q rest _ _
      have hs := addEvent_keeps _ pgPost 1 (returnCredit_keeps _ c
        (modCtx_keeps s c (fun x => { x with posts := rest }) (.refl (wr := true) s)))
      extract_lets
      split
      · exact (endUndefinedAll_keeps _ _ (completePost_keeps _ _ _ _ _ hs)).goes
      · exact (ha _ _ _ hs).trans_keeps (endUndefinedAll_keeps _ _ (.refl (wr := true) _))

theorem takePostIf_goes (s : State) (c op : Nat) (ready : List Byte → Bool) (act : State → PostRef → List Byte → State)
    (ha : ∀ s' r d, Keeps true s s' → Goes s (act s' r d)) : Goes s (takePostIf s c op ready act) := by
  unfold takePostIf
  split
  · exact (Keeps.refl (wr := true) s).goes
  · split
    · exact (Keeps.refl (wr := true) s).goes
    · exact takePost_goes s c op act ha

theorem execPartSet_goes (c : CtxId) {s t : State} (h : execPartSet c s = .next t) : Goes s t := by
  unfold execPartSet at h
  injection h with h
  subst h
  refine takePostIf_goes _ _ _ _ _ (fun s' r d hk => ?_)
  extract_lets p first count addr got bits unread inBits inCtx movesCtx movesCore busy
  split
  · exact (completePost_keeps _ _ _ _ _ hk).goes
  · rename_i s1 s2 _ hf
    have h1 : Keeps true s s1 := keeps_foldl hk (fun _ _ h => modCtx_keeps _ _ _ h)
    have hp : p ≤ 15 := by
      have := firstFail_none hf (p == 0 || decide (15 < p) || decide (256 < first + count), .badField)
        (by simp) (show Code.badField ∈ _ by decide)
      simp at this
      omega
    have legal : PartsLegal (movesCore.foldl (fun m k => if inBits k then store m k p else drop1 m k) s1.corePart) ∨ ¬ Inv s := by
      by_cases hi : Inv s
      · left
        clear_value movesCore
        refine PartsLegal.foldl (h1.inv hi).parts (fun m k hm => ?_)
        split
        · exact hm.store hp
        · exact hm.drop1
      · exact .inr hi
    clear_value movesCore s1
    refine Goes.trans_keeps (t := s2) ⟨h1.queue, fun hi => ?_, fun _ => .inl h1.lcState⟩
      (completePost_keeps _ _ _ _ _ (.refl (wr := true) _))
    exact ⟨(h1.inv hi).hbm, (h1.inv hi).lifecycle, legal.resolve_right (not_not_intro hi)⟩

end Sys2Proof.Machine
end

