-- ==== Sys2Proof/Laws/Posts.lean ====
section
/-!
SUPPORT. What taking a post does: the opcode's effect on the state with the post taken, then the undefined posts behind it.
-/

namespace Sys2Proof.Machine

theorem takePost_front {s : State} {c op : Nat} {q : Post} {rest : List Post} (act : State → PostRef → List Byte → State)
    (h : Front s c op q rest) :
    takePost s c op act = endUndefinedAll (act (taken s c rest) (postRef q.data) q.data) c := by
  obtain ⟨hp, ho, hd, hb⟩ := h
  have hz : inDoze (taken s c rest) = inDoze s := rfl
  unfold takePost
  rw [hp]
  simp only [ho, hb, bne_self_eq_false, Bool.or_self, Bool.false_eq_true, if_false]
  rw [if_neg]
  · rfl
  · show ¬ (inDoze (taken s c rest) && !alwaysOp op) = true
    rw [hz]
    rcases hd with hd | hd <;> simp [hd]

/-- The same of a post that waits for the channels of its work, once they serve. -/
theorem takePostIf_front {s : State} {c op : Nat} {q : Post} {rest : List Post} {ready : List Byte → Bool}
    (act : State → PostRef → List Byte → State) (h : Front s c op q rest) (hr : ready q.data = true) :
    takePostIf s c op ready act = endUndefinedAll (act (taken s c rest) (postRef q.data) q.data) c := by
  unfold takePostIf
  rw [h.1]
  dsimp only
  rw [if_neg (by rw [hr]; simp)]
  exact takePost_front act h

end Sys2Proof.Machine
end

