-- ==== Sys2Proof/Laws/Ranges.lean ====
section
/-!
SUPPORT. Ranges of the HBM: when a write meets no failure, and what a sparse read of memory that nothing has written answers.
-/

namespace Sys2Proof.Machine

/-! ### Writes that meet no failure -/

theorem sealBytes_frame (s : State) (phys z : Nat) (l : List Byte) :
    (sealBytes s phys z l).poison = s.poison ∧ (sealBytes s phys z l).fm = s.fm ∧ (sealBytes s phys z l).hbmStacks = s.hbmStacks ∧
      (sealBytes s phys z l).hang = s.hang ∧ (sealBytes s phys z l).pages = s.pages ∧ (sealBytes s phys z l).hide = s.hide := by
  unfold sealBytes
  dsimp only
  generalize List.range _ = ns
  suffices h : ∀ t : State, (t.poison = s.poison ∧ t.fm = s.fm ∧ t.hbmStacks = s.hbmStacks ∧ t.hang = s.hang ∧ t.pages = s.pages ∧
      t.hide = s.hide) →
      ((ns.foldl _ t).poison = s.poison ∧ (ns.foldl _ t).fm = s.fm ∧ (ns.foldl _ t).hbmStacks = s.hbmStacks ∧
        (ns.foldl _ t).hang = s.hang ∧ (ns.foldl _ t).pages = s.pages ∧ (ns.foldl _ t).hide = s.hide) from
    h s ⟨rfl, rfl, rfl, rfl, rfl, rfl⟩
  induction ns with
  | nil => exact fun _ h => h
  | cons i r ih => exact fun t h => ih _ h

/-- What decides whether an access meets a failure, and the fault hiding, are the same. -/
structure SameAccess (s t : State) : Prop where
  poison : t.poison = s.poison
  fm : t.fm = s.fm
  hbmStacks : t.hbmStacks = s.hbmStacks
  hang : t.hang = s.hang
  pages : t.pages = s.pages
  hide : t.hide = s.hide

theorem SameAccess.refl (s : State) : SameAccess s s := ⟨rfl, rfl, rfl, rfl, rfl, rfl⟩

theorem SameAccess.trans {s t u : State} (a : SameAccess s t) (b : SameAccess t u) : SameAccess s u :=
  ⟨b.1.trans a.1, b.2.trans a.2, b.3.trans a.3, b.4.trans a.4, b.5.trans a.5,
    b.6.trans a.6⟩

/-- With no poison anywhere, a write to a stack that is not lost succeeds and changes only bytes and seals. -/
theorem writePhys_ok {s : State} {chan : Nat} (phys z : Nat) (l : List Byte) (hp : s.poison = []) (hl : stackLost s chan = false) :
    (writePhys s chan phys z l).2 = true ∧ SameAccess s (writePhys s chan phys z l).1 := by
  unfold writePhys writeGranules
  rw [if_neg (by rw [hl]; exact Bool.false_ne_true)]
  dsimp only
  generalize List.range _ = ns
  suffices h : ∀ t : State × Bool, t.2 = true → SameAccess s t.1 →
      (ns.foldl _ t).2 = true ∧ SameAccess s (ns.foldl _ t).1 from h (s, true) rfl (SameAccess.refl s)
  induction ns with
  | nil => exact fun t a b => ⟨a, b⟩
  | cons i r ih =>
    intro t a b
    rw [List.foldl_cons]
    refine ih _ ?_ ?_
    · rw [if_neg (by rw [b.poison, hp]; simp [look])]; exact a
    · rw [if_neg (by rw [b.poison, hp]; simp [look])]
      obtain ⟨f1, f2, f3, f4, f5, f6⟩ := sealBytes_frame t.1 (max phys ((phys / 32 + i) * 32)) z
        ((l.drop (max phys ((phys / 32 + i) * 32) - phys)).take
          (min (phys + l.length) ((phys / 32 + i + 1) * 32) - max phys ((phys / 32 + i) * 32)))
      exact ⟨by rw [b.poison, hp]; rfl, f2.trans b.fm, f3.trans b.hbmStacks, f4.trans b.hang, f5.trans b.pages, f6.trans b.hide⟩

/-- A block may be reached by a partition from a die: its frame is VALID and its own, its die is up, its stack is not lost, the line of the
frame map that names it can be read, and a way is open. -/
def reachesOne (s : State) (die part a : Nat) : Bool :=
  (accessFail s part a).isNone && !stackLost s (placeOf s (frameEntry s (a / 65536)) a).1 && (mapLineFail s (a / 65536 / 8)).isNone &&
    !wayShut s die part a

/-- The same of every block of a range. -/
def reaches (s : State) (die part addr n : Nat) : Bool := (pieces512 addr n).all (fun p => reachesOne s die part p.1)

theorem accessFail_same {s t : State} (h : SameAccess s t) (part a : Nat) : accessFail t part a = accessFail s part a := by
  unfold accessFail frameEntry placeOf ilSplit regOf getPage dieUp
  rw [h.fm, h.pages, h.hang]

theorem placeOf_same {s t : State} (h : SameAccess s t) (a : Nat) :
    stackLost t (placeOf t (frameEntry t (a / 65536)) a).1 = stackLost s (placeOf s (frameEntry s (a / 65536)) a).1 := by
  unfold stackLost getStack placeOf frameEntry ilSplit regOf getPage
  rw [h.fm, h.pages, h.hbmStacks]

theorem stackLost_same {s t : State} (h : SameAccess s t) (k : Nat) : stackLost t k = stackLost s k := by
  unfold stackLost getStack
  rw [h.hbmStacks]

theorem mapLineFail_same {s t : State} (h : SameAccess s t) (l : Nat) : mapLineFail t l = mapLineFail s l := by
  unfold mapLineFail mapFail ilSplit regOf getPage dieUp poisoned
  rw [h.pages, h.hang, h.poison]
  simp only [stackLost_same h]

theorem wayShut_same {s t : State} (h : SameAccess s t) (die part a : Nat) : wayShut t die part a = wayShut s die part a := by
  unfold wayShut
  rw [accessFail_same h]
  unfold dieOfAddr wayOut placeOf frameEntry ilSplit regOf getPage dieUp
  rw [h.fm, h.pages, h.hang]

/-- A cache obtains an entry whose line can be read. -/
theorem cacheFail_none {s : State} {a : Nat} (h : mapLineFail s (a / 65536 / 8) = none) : cacheFail s a = none := by
  unfold cacheFail
  rw [h]

/-- One block that the partition reaches, written where nothing has changed what decides: no failure, and still nothing has. -/
theorem writeWay_ok {s t : State} {die part a : Nat} (l : List Byte) (hp : s.poison = []) (b : SameAccess s t)
    (h : reachesOne s die part a = true) :
    (writeWay t die part a l).2 = none ∧ SameAccess s (writeWay t die part a l).1 := by
  unfold reachesOne at h
  simp only [Bool.and_eq_true, Option.isNone_iff_eq_none, Bool.not_eq_true'] at h
  obtain ⟨⟨⟨h1, h2⟩, h3⟩, h4⟩ := h
  unfold writeWay writeCached writeBlock
  rw [wayShut_same b, h4, if_neg Bool.false_ne_true, cacheFail_none ((mapLineFail_same b _).trans h3), accessFail_same b, h1]
  obtain ⟨w1, w2⟩ := writePhys_ok (physOf (placeOf t (frameEntry t (a / 65536)) a)) (sealOf t part (a / 512)) l
    (b.poison.trans hp) ((placeOf_same b a).trans h2)
  dsimp only
  rw [w1]
  exact ⟨rfl, b.trans w2⟩

/-- Blocks that the partition reaches, written one after another with the bytes `f` gives each: no failure. -/
theorem writeBlocks_ok {α : Type} {s : State} {die part : Nat} (F : State × Option α → Nat × Nat → State × Option α)
    (f : Nat × Nat → List Byte) (h1 : ∀ t p, (F t p).1 = (writeWay t.1 die part p.1 (f p)).1)
    (h2 : ∀ t p, t.2 = none → (writeWay t.1 die part p.1 (f p)).2 = none → (F t p).2 = none) (hp : s.poison = [])
    (ps : List (Nat × Nat)) (hr : ps.all (fun p => reachesOne s die part p.1) = true) (t : State × Option α) (a : t.2 = none)
    (b : SameAccess s t.1) : (ps.foldl F t).2 = none ∧ SameAccess s (ps.foldl F t).1 := by
  induction ps generalizing t with
  | nil => exact ⟨a, b⟩
  | cons p r ih =>
    rw [List.all_cons, Bool.and_eq_true] at hr
    rw [List.foldl_cons]
    obtain ⟨w1, w2⟩ := writeWay_ok (f p) hp b hr.1
    exact ih hr.2 _ (h2 t p a w1) (h1 t p ▸ w2)

/-- A write of a range that the partition reaches, with no poison anywhere, meets no failure. -/
theorem writeRangeAt_ok {s t : State} {die part addr : Nat} {l : List Byte} (hp : s.poison = []) (b : SameAccess s t)
    (hr : reaches s die part addr l.length = true) :
    (writeRangeAt t die part addr l).2 = none ∧ SameAccess s (writeRangeAt t die part addr l).1 := by
  unfold writeRangeAt
  refine writeBlocks_ok _ (fun p => (l.drop (p.1 - addr)).take p.2) ?_ ?_ hp _ hr (t, none) rfl b
  · exact fun _ _ => rfl
  intro t p a w
  dsimp only
  rw [a, w]
  rfl

/-- The same of a range written from a sparse map. -/
theorem writeSparse_ok {s t : State} {die part addr n : Nat} {m : SMap Byte} (hp : s.poison = []) (b : SameAccess s t)
    (hr : reaches s die part addr n = true) :
    (writeSparse t die part addr n m).2 = none ∧ SameAccess s (writeSparse t die part addr n m).1 := by
  unfold writeSparse
  refine writeBlocks_ok _ (fun p => loadBytes m (p.1 - addr) p.2) ?_ ?_ hp _ hr (t, none) rfl b
  · exact fun _ _ => rfl
  intro t p a w
  dsimp only
  rw [a, w]

theorem orCode_none (r : State × Option Code) : orCode none r = r := by
  cases r; rfl

/-- Lines that leave a cache change nothing that decides an access. -/
theorem dropOwn_same {s t : State} (b : SameAccess s t) (die part addr n : Nat) : SameAccess s (dropOwn t die part addr n) :=
  ⟨b.1, b.2, b.3, b.4, b.5, b.6⟩

/-- Core records, every one of which the partition reaches, written with no poison anywhere: no failure. -/
theorem writeRecords_ok {s t : State} {x : Ctx} {base : Nat} (hp : s.poison = []) (b : SameAccess s t)
    (hr : ∀ j, j < x.cores.length → reaches s (dieOfCore (nth x.cores j)) x.part (base + 0x10000 + j * recordSize) recordSize = true) :
    (writeRecords (t, none) x base).2 = none := by
  unfold writeRecords
  have hm : ∀ j ∈ List.range x.cores.length, reaches s (dieOfCore (nth x.cores j)) x.part (base + 0x10000 + j * recordSize) recordSize = true :=
    fun j hj => hr j (List.mem_range.1 hj)
  generalize List.range _ = js at hm
  suffices h : ∀ r : State × Option Code, r.2 = none → SameAccess s r.1 → (js.foldl _ r).2 = none from h (t, none) rfl b
  clear b
  induction js with
  | nil => exact fun _ a _ => a
  | cons j r ih =>
    intro u a b
    rw [List.foldl_cons]
    obtain ⟨w1, w2⟩ := writeSparse_ok (m := recordOf u.1 (nth x.cores j)) hp b (hm j (List.mem_cons_self ..))
    refine ih (fun k hk => hm k (List.mem_cons_of_mem _ hk)) _ ?_ ?_ <;> dsimp only <;> rw [a, orCode_none]
    · exact w1
    · exact dropOwn_same w2 _ _ _ _

theorem leBytes_length (n v : Nat) : (leBytes n v).length = n := by
  unfold leBytes; rw [List.length_map, List.length_range]

/-- The length of an image's header: its fixed part and the core list. -/
theorem newHeader_length (s : State) (c : Nat) (v : Saving) :
    (newHeader s c v).length = 0x2000 + 2 * (getCtx s c).cores.length := by
  have hl : ∀ l : List Nat, (l.flatMap (leBytes 2)).length = 2 * l.length := by
    intro l
    induction l with
    | nil => rfl
    | cons a t ih => rw [List.flatMap_cons, List.length_append, ih, leBytes_length, List.length_cons]; omega
  unfold newHeader
  simp only [List.length_append, leBytes_length, List.length_replicate, hl]

/-! ### Sparse reads -/

/-- A block that the partition reaches and in which nothing is stored. -/
def blankPiece (s : State) (die part : Nat) (p : Nat × Nat) : Bool :=
  let pl := placeOf s (frameEntry s (p.1 / 65536)) p.1
  reachesOne s die part p.1 && s.poison.isEmpty &&
    s.hbm.all (fun e => decide (e.1 < physOf pl) || decide (physOf pl + p.2 ≤ e.1)) &&
    s.seals.all (fun e => decide (e.1 < physOf pl / 16) || decide (physOf pl + p.2 ≤ e.1 * 16))

theorem look_absent {α : Type} (m : SMap α) (k : Nat) (d : α) (h : ∀ e ∈ m, e.1 ≠ k) : look m k d = d := by
  induction m with
  | nil => rfl
  | cons e t ih =>
    obtain ⟨a, v⟩ := e
    show (if a = k then v else look t k d) = d
    rw [if_neg (h (a, v) (List.mem_cons_self ..)), ih (fun e he => h e (List.mem_cons_of_mem _ he))]

theorem openByte_blank {s : State} {die part : Nat} {p : Nat × Nat} (h : blankPiece s die part p = true) (i z : Nat) (hi : i < p.2) :
    openByte s (physOf (placeOf s (frameEntry s (p.1 / 65536)) p.1) + i) z = 0 := by
  unfold blankPiece at h
  simp only [Bool.and_eq_true, List.all_eq_true, Bool.or_eq_true, decide_eq_true_eq] at h
  obtain ⟨⟨_, h1⟩, h2⟩ := h
  unfold openByte
  rw [look_absent s.seals _ _ (fun e he => by have := h2 e he; omega)]
  exact look_absent s.hbm _ _ (fun e he => by have := h1 e he; omega)

theorem zip_zero (b : List Byte) (k : Nat) (at_ : Nat) (h : ∀ v ∈ b, v = 0) :
    ((List.range' k b.length).zip b).filterMap (fun e => if e.2 = 0 then none else some (at_ + e.1, e.2)) = [] := by
  induction b generalizing k with
  | nil => rfl
  | cons v t ih =>
    rw [List.length_cons, List.range'_succ, List.zip_cons_cons, List.filterMap_cons]
    rw [if_pos (h v (List.mem_cons_self ..))]
    exact ih (k + 1) (fun w hw => h w (List.mem_cons_of_mem _ hw))

/-- One block of a sparse read. -/
def sparseStep (s : State) (die part addr : Nat) (acc : Except (Code × Nat) (SMap Byte)) (p : Nat × Nat) :
    Except (Code × Nat) (SMap Byte) :=
  match acc with
  | .error e => .error e
  | .ok m =>
    match if wayShut s die part p.1 then .error .fenced else readCached s part p.1 p.2 with
    | .error c => .error (c, p.1)
    | .ok b => .ok (m ++ ((List.range b.length).zip b).filterMap (fun e =>
        if e.2 = 0 then none else some (p.1 - addr + e.1, e.2)))

theorem sparseStep_blank {s : State} {die part : Nat} {p : Nat × Nat} (hb : blankPiece s die part p = true) (addr : Nat)
    (acc : Except (Code × Nat) (SMap Byte)) : sparseStep s die part addr acc p = acc := by
  cases acc with
  | error e => rfl
  | ok m =>
    have h := hb
    unfold blankPiece reachesOne at h
    simp only [Bool.and_eq_true, Option.isNone_iff_eq_none, Bool.not_eq_true', List.isEmpty_iff] at h
    obtain ⟨⟨⟨⟨⟨⟨h1, h2⟩, hm⟩, hw⟩, h3⟩, _⟩, _⟩ := h
    have hr : (if wayShut s die part p.1 then .error .fenced else readCached s part p.1 p.2) = .ok (openBytes s (physOf (placeOf s (frameEntry s (p.1 / 65536)) p.1))
        (sealOf s part (p.1 / 512)) p.2) := by
      rw [hw, if_neg Bool.false_ne_true]
      unfold readCached readBlock
      rw [cacheFail_none hm, h1]
      dsimp only
      rw [h2, if_neg]
      simp [anyPoison, h3, look]
    unfold sparseStep
    rw [hr]
    dsimp only
    rw [List.range_eq_range', zip_zero, List.append_nil]
    intro v hv
    unfold openBytes at hv
    obtain ⟨i, hi, rfl⟩ := List.mem_map.1 hv
    exact openByte_blank hb i _ (List.mem_range.1 hi)

/-- Blocks in which nothing is stored add nothing to a sparse read. -/
theorem readSparse_blank (s : State) (die part addr n : Nat) :
    readSparse s die part addr n =
      ((pieces512 addr n).filter (fun p => !blankPiece s die part p)).foldl (sparseStep s die part addr) (.ok []) := by
  show (pieces512 addr n).foldl (sparseStep s die part addr) (.ok []) = _
  generalize pieces512 addr n = ps
  generalize (Except.ok [] : Except (Code × Nat) (SMap Byte)) = a
  induction ps generalizing a with
  | nil => rfl
  | cons p r ih =>
    rw [List.foldl_cons, List.filter_cons]
    cases hb : blankPiece s die part p with
    | true => rw [sparseStep_blank hb]; exact ih a
    | false => exact ih _

theorem slotAt_zero (x : Ctx) : slotAt x 0 = x.area := by
  unfold slotAt; rw [Nat.zero_mul, Nat.add_zero]

/-- A header that a sparse read answers. -/
theorem readHeader_ok {s : State} {x : Ctx} {k : Nat} {m : SMap Byte} (h : readSparse s (headDie x) x.part (slotAt x k) 0x4000 = .ok m) :
    readHeader s x k = some m := by
  unfold readHeader; rw [h]; rfl

/-- Where both slots of a context's image area are blank, an image goes to slot 0. -/
theorem freeImageSlot_blank {s : State} {c : Nat}
    (h0 : (pieces512 (slotAt (getCtx s c) 0) 0x4000).filter (fun p => !blankPiece s (headDie (getCtx s c)) (getCtx s c).part p) = [])
    (h1 : (pieces512 (slotAt (getCtx s c) 1) 0x4000).filter (fun p => !blankPiece s (headDie (getCtx s c)) (getCtx s c).part p) = []) :
    freeImageSlot s c = 0 := by
  have e : ∀ k, completeSlot k (some []) = none := by
    have h : headerComplete [] = false := by decide +kernel
    intro k
    unfold completeSlot
    dsimp only
    rw [h]
    rfl
  have r0 : readHeader s (getCtx s c) 0 = some [] := readHeader_ok ((readSparse_blank ..).trans (by rw [h0]; rfl))
  have r1 : readHeader s (getCtx s c) 1 = some [] := readHeader_ok ((readSparse_blank ..).trans (by rw [h1]; rfl))
  unfold freeImageSlot newestSlot
  rw [r0, r1, e, e]
  rfl

end Sys2Proof.Machine
end

