-- ==== Sys2Proof/Laws/Registers.lean ====
section
/-!
SUPPORT. What a register write does once its checks are known: it is applied, or recorded as rejected (R36).
-/

namespace Sys2Proof.Machine

theorem firstFail_eq_none {l : List (Bool × Code)} (h : ∀ e ∈ l, e.1 = false) : firstFail l = none := by
  unfold firstFail
  rw [List.find?_eq_none]
  intro c _
  simp only [List.any_eq_true, Bool.and_eq_true, not_exists, not_and]
  intro e he h1
  rw [h e he] at h1
  cases h1

/-- A write that meets no check is applied. -/
theorem writeReg_applied {s : State} {p pg off : Nat} {fails : List (Bool × Code)} {act : State → State}
    (h : writable s p pg off = true) (hf : ∀ e ∈ fails, e.1 = false) : writeReg s p pg off fails act = act s := by
  unfold writable at h
  simp only [Bool.and_eq_true, Bool.or_eq_true, Bool.not_eq_true'] at h
  obtain ⟨⟨⟨a, b⟩, c⟩, d⟩ := h
  unfold writeReg
  rw [a, firstFail_eq_none]
  · rfl
  · intro e he
    rcases List.mem_append.1 he with he | he
    · simp only [accessFails, List.mem_cons, List.not_mem_nil, or_false] at he
      rcases he with rfl | rfl | rfl
      · rcases b with b | b <;> simp [b]
      · rcases c with c | c <;> simp [c]
      · exact d
    · exact hf e he

/-- A write that fails a check is recorded with the first code of R36's order, and does nothing else. -/
theorem writeReg_rejected {s : State} {p pg off : Nat} {fails : List (Bool × Code)} {act : State → State} {c : Code}
    (h : hubPowered s = true) (hf : firstFail (accessFails s p pg off ++ fails) = some c) :
    writeReg s p pg off fails act = reject s pg off c := by
  unfold writeReg
  rw [h, hf]
  rfl

/-- The blocks of the core pages. -/
theorem blkOf_range {k : Nat} (h1 : 0x1000 ≤ k) (h2 : k < 0x2000) : blkOf k = some (.core (k - 0x1000)) := by
  unfold blkOf
  rw [if_neg (by omega), if_pos ⟨h1, h2⟩]

theorem blkOf_core {n : Nat} (h : n < 4096) : blkOf (pgCore n) = some (.core n) := by
  have e : pgCore n - 0x1000 = n := Nat.add_sub_cancel_left ..
  have b := blkOf_range (k := pgCore n) (Nat.le_add_right ..) (Nat.add_lt_add_left h _)
  rw [e] at b
  exact b

/-- A whole write to a block-specific word of a page. -/
theorem regWrite_blk {s : State} {p pg o v : Nat} {b : Blk} (hs : hubPowered s = true) (hb : blkOf pg = some b) (ho : o < 4096)
    (ha : o % 4 = 0) (h4 : 0x040 ≤ o) : regWrite s p (pg * 4096 + o) 4 v = blkWrite s p pg b o v := by
  have h1 : (pg * 4096 + o) / 4096 = pg := by omega
  have h2 : (pg * 4096 + o) % 4096 = o := by omega
  have h3 : ¬ o < 0x040 := by omega
  unfold regWrite
  simp only [h1, h2, hs, hb, ha, h3]
  rfl

/-- A whole write to a header word of a page. -/
theorem regWrite_head {s : State} {p pg o v : Nat} {b : Blk} (hs : hubPowered s = true) (hb : blkOf pg = some b) (ha : o % 4 = 0)
    (h4 : o < 0x040) : regWrite s p (pg * 4096 + o) 4 v = headWrite s p pg b o v := by
  have h1 : (pg * 4096 + o) / 4096 = pg := by omega
  have h2 : (pg * 4096 + o) % 4096 = o := by omega
  unfold regWrite
  simp only [h1, h2, hs, hb, ha, h4]
  rfl

end Sys2Proof.Machine
end

