-- ==== Sys2Proof/Laws/Sites.lean ====
section
/-!
SUPPORT. Where cores stand while a field test of a site ends (chapter 18).
-/
namespace Sys2Proof.Machine

@[simp] theorem modSite_signpost (s : State) (k : Nat) (f : Site → Site) : (modSite s k f).signpost = s.signpost := rfl
@[simp] theorem modCore_signpost (s : State) (k : Nat) (f : Core → Core) : (modCore s k f).signpost = s.signpost := rfl
@[simp] theorem freshNat_signpost (s : State) : (freshNat s).2.signpost = s.signpost := rfl

theorem sliceTie_signpost (s : State) (t : Test) (k : Nat) : (sliceTie s t k).signpost = s.signpost := by
  unfold sliceTie
  split
  · unfold addTie; rfl
  · rfl

theorem noteSlice_signpost (s : State) (t : Test) : (noteSlice s t .pass).signpost = s.signpost := by
  unfold noteSlice
  rw [← freshNat_signpost s]
  generalize freshNat s = q
  obtain ⟨g, u⟩ := q
  dsimp only
  rw [if_neg (by decide), if_pos (by decide)]
  exact (modSite_signpost _ _ _).trans (sliceTie_signpost u t _)

theorem clearTested_signpost (s : State) (n k : Nat) (slice : Bool) : (clearTested s n k slice).signpost = s.signpost := by
  unfold clearTested
  split
  · exact modCore_signpost _ _ _
  · rfl

/-- Noting a test that passed moves no core. -/
theorem testNoted_signpost (s : State) (n : Nat) (x : Test) : (testNoted s n x .pass).signpost = s.signpost := by
  unfold testNoted
  simp only [if_true]
  rw [clearTested_signpost, noteSlice_signpost, modSite_signpost]

theorem siteOf_noted (s : State) (n : Nat) (x : Test) (k : Nat) : siteOf (testNoted s n x .pass) k = siteOf s k := by
  rw [siteOf, siteOf, testNoted_signpost]

end Sys2Proof.Machine
end

