-- ==== Sys2Proof/Laws/State.lean ====
section
/-!
SUPPORT. The fields of State under each of its setters, true by rfl, so that no proof unfolds a record update; and what each reader
answers after each setter.
-/

namespace Sys2Proof.Machine

/-! ### setPage -/

@[simp] theorem setPage_pages (s : State) (k : Nat) (x : Page) : (setPage s k x).pages = store s.pages k x := rfl
@[simp] theorem setPage_pending (s : State) (k : Nat) (x : Page) : (setPage s k x).pending = s.pending := rfl
@[simp] theorem setPage_odometer (s : State) (k : Nat) (x : Page) : (setPage s k x).odometer = s.odometer := rfl
@[simp] theorem setPage_fresh (s : State) (k : Nat) (x : Page) : (setPage s k x).fresh = s.fresh := rfl
@[simp] theorem setPage_cores (s : State) (k : Nat) (x : Page) : (setPage s k x).cores = s.cores := rfl
@[simp] theorem setPage_ctxs (s : State) (k : Nat) (x : Page) : (setPage s k x).ctxs = s.ctxs := rfl
@[simp] theorem setPage_corePart (s : State) (k : Nat) (x : Page) : (setPage s k x).corePart = s.corePart := rfl
@[simp] theorem setPage_parts (s : State) (k : Nat) (x : Page) : (setPage s k x).parts = s.parts := rfl
@[simp] theorem setPage_hostLog (s : State) (k : Nat) (x : Page) : (setPage s k x).hostLog = s.hostLog := rfl
@[simp] theorem setPage_rdata (s : State) (k : Nat) (x : Page) : (setPage s k x).rdata = s.rdata := rfl
@[simp] theorem setPage_bar4 (s : State) (k : Nat) (x : Page) : (setPage s k x).bar4 = s.bar4 := rfl
@[simp] theorem setPage_hbm (s : State) (k : Nat) (x : Page) : (setPage s k x).hbm = s.hbm := rfl
@[simp] theorem setPage_seals (s : State) (k : Nat) (x : Page) : (setPage s k x).seals = s.seals := rfl
@[simp] theorem setPage_poison (s : State) (k : Nat) (x : Page) : (setPage s k x).poison = s.poison := rfl
@[simp] theorem setPage_fm (s : State) (k : Nat) (x : Page) : (setPage s k x).fm = s.fm := rfl
@[simp] theorem setPage_stacks (s : State) (k : Nat) (x : Page) : (setPage s k x).hbmStacks = s.hbmStacks := rfl
@[simp] theorem setPage_rlcs (s : State) (k : Nat) (x : Page) : (setPage s k x).rlcs = s.rlcs := rfl
@[simp] theorem setPage_kerbs (s : State) (k : Nat) (x : Page) : (setPage s k x).kerbs = s.kerbs := rfl
@[simp] theorem setPage_routes (s : State) (k : Nat) (x : Page) : (setPage s k x).routes = s.routes := rfl
@[simp] theorem setPage_bridges (s : State) (k : Nat) (x : Page) : (setPage s k x).bridges = s.bridges := rfl
@[simp] theorem setPage_ports (s : State) (k : Nat) (x : Page) : (setPage s k x).ports = s.ports := rfl
@[simp] theorem setPage_time (s : State) (k : Nat) (x : Page) : (setPage s k x).time = s.time := rfl
@[simp] theorem setPage_net (s : State) (k : Nat) (x : Page) : (setPage s k x).net = s.net := rfl
@[simp] theorem setPage_outs (s : State) (k : Nat) (x : Page) : (setPage s k x).outs = s.outs := rfl
@[simp] theorem setPage_nextReq (s : State) (k : Nat) (x : Page) : (setPage s k x).nextReq = s.nextReq := rfl
@[simp] theorem setPage_armSeq (s : State) (k : Nat) (x : Page) : (setPage s k x).armSeq = s.armSeq := rfl
@[simp] theorem setPage_ixs (s : State) (k : Nat) (x : Page) : (setPage s k x).ixs = s.ixs := rfl
@[simp] theorem setPage_cols (s : State) (k : Nat) (x : Page) : (setPage s k x).cols = s.cols := rfl
@[simp] theorem setPage_heldQ (s : State) (k : Nat) (x : Page) : (setPage s k x).heldQ = s.heldQ := rfl
@[simp] theorem setPage_replayLog (s : State) (k : Nat) (x : Page) : (setPage s k x).replayLog = s.replayLog := rfl
@[simp] theorem setPage_sites (s : State) (k : Nat) (x : Page) : (setPage s k x).sites = s.sites := rfl
@[simp] theorem setPage_signpost (s : State) (k : Nat) (x : Page) : (setPage s k x).signpost = s.signpost := rfl
@[simp] theorem setPage_home (s : State) (k : Nat) (x : Page) : (setPage s k x).home = s.home := rfl
@[simp] theorem setPage_hide (s : State) (k : Nat) (x : Page) : (setPage s k x).hide = s.hide := rfl
@[simp] theorem setPage_hang (s : State) (k : Nat) (x : Page) : (setPage s k x).hang = s.hang := rfl
@[simp] theorem setPage_power (s : State) (k : Nat) (x : Page) : (setPage s k x).power = s.power := rfl
@[simp] theorem setPage_boot (s : State) (k : Nat) (x : Page) : (setPage s k x).boot = s.boot := rfl
@[simp] theorem setPage_record (s : State) (k : Nat) (x : Page) : (setPage s k x).record = s.record := rfl
@[simp] theorem setPage_qsc (s : State) (k : Nat) (x : Page) : (setPage s k x).qsc = s.qsc := rfl
@[simp] theorem setPage_traces (s : State) (k : Nat) (x : Page) : (setPage s k x).traces = s.traces := rfl
@[simp] theorem setPage_mgmt (s : State) (k : Nat) (x : Page) : (setPage s k x).mgmt = s.mgmt := rfl
@[simp] theorem setPage_fabric (s : State) (k : Nat) (x : Page) : (setPage s k x).fabric = s.fabric := rfl
@[simp] theorem setPage_endpoint (s : State) (k : Nat) (x : Page) : (setPage s k x).endpoint = s.endpoint := rfl
@[simp] theorem setPage_bar4Q (s : State) (k : Nat) (x : Page) : (setPage s k x).bar4Q = s.bar4Q := rfl
@[simp] theorem setPage_late (s : State) (k : Nat) (x : Page) : (setPage s k x).late = s.late := rfl
@[simp] theorem getPage_setPage (s : State) (k : Nat) (x : Page) : getPage (setPage s k x) k = x := look_store_self ..
theorem getPage_setPage_of_ne (s : State) (k : Nat) (x : Page) {j : Nat} (h : j ≠ k) : getPage (setPage s k x) j = getPage s j :=
  look_store_of_ne _ _ _ h
@[simp] theorem getCore_setPage (s : State) (k : Nat) (x : Page) (j : Nat) : getCore (setPage s k x) j = getCore s j := rfl
@[simp] theorem getCtx_setPage (s : State) (k : Nat) (x : Page) (j : Nat) : getCtx (setPage s k x) j = getCtx s j := rfl
@[simp] theorem getPart_setPage (s : State) (k : Nat) (x : Page) (j : Nat) : getPart (setPage s k x) j = getPart s j := rfl
@[simp] theorem getStack_setPage (s : State) (k : Nat) (x : Page) (j : Nat) : getStack (setPage s k x) j = getStack s j := rfl
@[simp] theorem getRlc_setPage (s : State) (k : Nat) (x : Page) (j : Nat) : getRlc (setPage s k x) j = getRlc s j := rfl
@[simp] theorem getKerb_setPage (s : State) (k : Nat) (x : Page) (j : Nat) : getKerb (setPage s k x) j = getKerb s j := rfl
@[simp] theorem getRoute_setPage (s : State) (k : Nat) (x : Page) (j : Nat) : getRoute (setPage s k x) j = getRoute s j := rfl
@[simp] theorem getBridge_setPage (s : State) (k : Nat) (x : Page) (j : Nat) : getBridge (setPage s k x) j = getBridge s j := rfl
@[simp] theorem getPort_setPage (s : State) (k : Nat) (x : Page) (j : Nat) : getPort (setPage s k x) j = getPort s j := rfl
@[simp] theorem getIx_setPage (s : State) (k : Nat) (x : Page) (j : Nat) : getIx (setPage s k x) j = getIx s j := rfl
@[simp] theorem getCol_setPage (s : State) (k : Nat) (x : Page) (j : Nat) : getCol (setPage s k x) j = getCol s j := rfl
@[simp] theorem getSite_setPage (s : State) (k : Nat) (x : Page) (j : Nat) : getSite (setPage s k x) j = getSite s j := rfl
@[simp] theorem getTrace_setPage (s : State) (k : Nat) (x : Page) (j : Nat) : getTrace (setPage s k x) j = getTrace s j := rfl
theorem modPage_eq (s : State) (k : Nat) (f : Page → Page) : modPage s k f = setPage s k (f (getPage s k)) := rfl

/-! ### setCore -/

@[simp] theorem setCore_cores (s : State) (k : Nat) (x : Core) : (setCore s k x).cores = store s.cores k x := rfl
@[simp] theorem setCore_pending (s : State) (k : Nat) (x : Core) : (setCore s k x).pending = s.pending := rfl
@[simp] theorem setCore_odometer (s : State) (k : Nat) (x : Core) : (setCore s k x).odometer = s.odometer := rfl
@[simp] theorem setCore_fresh (s : State) (k : Nat) (x : Core) : (setCore s k x).fresh = s.fresh := rfl
@[simp] theorem setCore_pages (s : State) (k : Nat) (x : Core) : (setCore s k x).pages = s.pages := rfl
@[simp] theorem setCore_ctxs (s : State) (k : Nat) (x : Core) : (setCore s k x).ctxs = s.ctxs := rfl
@[simp] theorem setCore_corePart (s : State) (k : Nat) (x : Core) : (setCore s k x).corePart = s.corePart := rfl
@[simp] theorem setCore_parts (s : State) (k : Nat) (x : Core) : (setCore s k x).parts = s.parts := rfl
@[simp] theorem setCore_hostLog (s : State) (k : Nat) (x : Core) : (setCore s k x).hostLog = s.hostLog := rfl
@[simp] theorem setCore_rdata (s : State) (k : Nat) (x : Core) : (setCore s k x).rdata = s.rdata := rfl
@[simp] theorem setCore_bar4 (s : State) (k : Nat) (x : Core) : (setCore s k x).bar4 = s.bar4 := rfl
@[simp] theorem setCore_hbm (s : State) (k : Nat) (x : Core) : (setCore s k x).hbm = s.hbm := rfl
@[simp] theorem setCore_seals (s : State) (k : Nat) (x : Core) : (setCore s k x).seals = s.seals := rfl
@[simp] theorem setCore_poison (s : State) (k : Nat) (x : Core) : (setCore s k x).poison = s.poison := rfl
@[simp] theorem setCore_fm (s : State) (k : Nat) (x : Core) : (setCore s k x).fm = s.fm := rfl
@[simp] theorem setCore_stacks (s : State) (k : Nat) (x : Core) : (setCore s k x).hbmStacks = s.hbmStacks := rfl
@[simp] theorem setCore_rlcs (s : State) (k : Nat) (x : Core) : (setCore s k x).rlcs = s.rlcs := rfl
@[simp] theorem setCore_kerbs (s : State) (k : Nat) (x : Core) : (setCore s k x).kerbs = s.kerbs := rfl
@[simp] theorem setCore_routes (s : State) (k : Nat) (x : Core) : (setCore s k x).routes = s.routes := rfl
@[simp] theorem setCore_bridges (s : State) (k : Nat) (x : Core) : (setCore s k x).bridges = s.bridges := rfl
@[simp] theorem setCore_ports (s : State) (k : Nat) (x : Core) : (setCore s k x).ports = s.ports := rfl
@[simp] theorem setCore_time (s : State) (k : Nat) (x : Core) : (setCore s k x).time = s.time := rfl
@[simp] theorem setCore_net (s : State) (k : Nat) (x : Core) : (setCore s k x).net = s.net := rfl
@[simp] theorem setCore_outs (s : State) (k : Nat) (x : Core) : (setCore s k x).outs = s.outs := rfl
@[simp] theorem setCore_nextReq (s : State) (k : Nat) (x : Core) : (setCore s k x).nextReq = s.nextReq := rfl
@[simp] theorem setCore_armSeq (s : State) (k : Nat) (x : Core) : (setCore s k x).armSeq = s.armSeq := rfl
@[simp] theorem setCore_ixs (s : State) (k : Nat) (x : Core) : (setCore s k x).ixs = s.ixs := rfl
@[simp] theorem setCore_cols (s : State) (k : Nat) (x : Core) : (setCore s k x).cols = s.cols := rfl
@[simp] theorem setCore_heldQ (s : State) (k : Nat) (x : Core) : (setCore s k x).heldQ = s.heldQ := rfl
@[simp] theorem setCore_replayLog (s : State) (k : Nat) (x : Core) : (setCore s k x).replayLog = s.replayLog := rfl
@[simp] theorem setCore_sites (s : State) (k : Nat) (x : Core) : (setCore s k x).sites = s.sites := rfl
@[simp] theorem setCore_signpost (s : State) (k : Nat) (x : Core) : (setCore s k x).signpost = s.signpost := rfl
@[simp] theorem setCore_home (s : State) (k : Nat) (x : Core) : (setCore s k x).home = s.home := rfl
@[simp] theorem setCore_hide (s : State) (k : Nat) (x : Core) : (setCore s k x).hide = s.hide := rfl
@[simp] theorem setCore_hang (s : State) (k : Nat) (x : Core) : (setCore s k x).hang = s.hang := rfl
@[simp] theorem setCore_power (s : State) (k : Nat) (x : Core) : (setCore s k x).power = s.power := rfl
@[simp] theorem setCore_boot (s : State) (k : Nat) (x : Core) : (setCore s k x).boot = s.boot := rfl
@[simp] theorem setCore_record (s : State) (k : Nat) (x : Core) : (setCore s k x).record = s.record := rfl
@[simp] theorem setCore_qsc (s : State) (k : Nat) (x : Core) : (setCore s k x).qsc = s.qsc := rfl
@[simp] theorem setCore_traces (s : State) (k : Nat) (x : Core) : (setCore s k x).traces = s.traces := rfl
@[simp] theorem setCore_mgmt (s : State) (k : Nat) (x : Core) : (setCore s k x).mgmt = s.mgmt := rfl
@[simp] theorem setCore_fabric (s : State) (k : Nat) (x : Core) : (setCore s k x).fabric = s.fabric := rfl
@[simp] theorem setCore_endpoint (s : State) (k : Nat) (x : Core) : (setCore s k x).endpoint = s.endpoint := rfl
@[simp] theorem setCore_bar4Q (s : State) (k : Nat) (x : Core) : (setCore s k x).bar4Q = s.bar4Q := rfl
@[simp] theorem setCore_late (s : State) (k : Nat) (x : Core) : (setCore s k x).late = s.late := rfl
@[simp] theorem getCore_setCore (s : State) (k : Nat) (x : Core) : getCore (setCore s k x) k = x := look_store_self ..
theorem getCore_setCore_of_ne (s : State) (k : Nat) (x : Core) {j : Nat} (h : j ≠ k) : getCore (setCore s k x) j = getCore s j :=
  look_store_of_ne _ _ _ h
@[simp] theorem getPage_setCore (s : State) (k : Nat) (x : Core) (j : Nat) : getPage (setCore s k x) j = getPage s j := rfl
@[simp] theorem getCtx_setCore (s : State) (k : Nat) (x : Core) (j : Nat) : getCtx (setCore s k x) j = getCtx s j := rfl
@[simp] theorem getPart_setCore (s : State) (k : Nat) (x : Core) (j : Nat) : getPart (setCore s k x) j = getPart s j := rfl
@[simp] theorem getStack_setCore (s : State) (k : Nat) (x : Core) (j : Nat) : getStack (setCore s k x) j = getStack s j := rfl
@[simp] theorem getRlc_setCore (s : State) (k : Nat) (x : Core) (j : Nat) : getRlc (setCore s k x) j = getRlc s j := rfl
@[simp] theorem getKerb_setCore (s : State) (k : Nat) (x : Core) (j : Nat) : getKerb (setCore s k x) j = getKerb s j := rfl
@[simp] theorem getRoute_setCore (s : State) (k : Nat) (x : Core) (j : Nat) : getRoute (setCore s k x) j = getRoute s j := rfl
@[simp] theorem getBridge_setCore (s : State) (k : Nat) (x : Core) (j : Nat) : getBridge (setCore s k x) j = getBridge s j := rfl
@[simp] theorem getPort_setCore (s : State) (k : Nat) (x : Core) (j : Nat) : getPort (setCore s k x) j = getPort s j := rfl
@[simp] theorem getIx_setCore (s : State) (k : Nat) (x : Core) (j : Nat) : getIx (setCore s k x) j = getIx s j := rfl
@[simp] theorem getCol_setCore (s : State) (k : Nat) (x : Core) (j : Nat) : getCol (setCore s k x) j = getCol s j := rfl
@[simp] theorem getSite_setCore (s : State) (k : Nat) (x : Core) (j : Nat) : getSite (setCore s k x) j = getSite s j := rfl
@[simp] theorem getTrace_setCore (s : State) (k : Nat) (x : Core) (j : Nat) : getTrace (setCore s k x) j = getTrace s j := rfl
theorem modCore_eq (s : State) (k : Nat) (f : Core → Core) : modCore s k f = setCore s k (f (getCore s k)) := rfl

/-! ### setCtx -/

@[simp] theorem setCtx_ctxs (s : State) (k : Nat) (x : Ctx) : (setCtx s k x).ctxs = store s.ctxs k x := rfl
@[simp] theorem setCtx_pending (s : State) (k : Nat) (x : Ctx) : (setCtx s k x).pending = s.pending := rfl
@[simp] theorem setCtx_odometer (s : State) (k : Nat) (x : Ctx) : (setCtx s k x).odometer = s.odometer := rfl
@[simp] theorem setCtx_fresh (s : State) (k : Nat) (x : Ctx) : (setCtx s k x).fresh = s.fresh := rfl
@[simp] theorem setCtx_pages (s : State) (k : Nat) (x : Ctx) : (setCtx s k x).pages = s.pages := rfl
@[simp] theorem setCtx_cores (s : State) (k : Nat) (x : Ctx) : (setCtx s k x).cores = s.cores := rfl
@[simp] theorem setCtx_corePart (s : State) (k : Nat) (x : Ctx) : (setCtx s k x).corePart = s.corePart := rfl
@[simp] theorem setCtx_parts (s : State) (k : Nat) (x : Ctx) : (setCtx s k x).parts = s.parts := rfl
@[simp] theorem setCtx_hostLog (s : State) (k : Nat) (x : Ctx) : (setCtx s k x).hostLog = s.hostLog := rfl
@[simp] theorem setCtx_rdata (s : State) (k : Nat) (x : Ctx) : (setCtx s k x).rdata = s.rdata := rfl
@[simp] theorem setCtx_bar4 (s : State) (k : Nat) (x : Ctx) : (setCtx s k x).bar4 = s.bar4 := rfl
@[simp] theorem setCtx_hbm (s : State) (k : Nat) (x : Ctx) : (setCtx s k x).hbm = s.hbm := rfl
@[simp] theorem setCtx_seals (s : State) (k : Nat) (x : Ctx) : (setCtx s k x).seals = s.seals := rfl
@[simp] theorem setCtx_poison (s : State) (k : Nat) (x : Ctx) : (setCtx s k x).poison = s.poison := rfl
@[simp] theorem setCtx_fm (s : State) (k : Nat) (x : Ctx) : (setCtx s k x).fm = s.fm := rfl
@[simp] theorem setCtx_stacks (s : State) (k : Nat) (x : Ctx) : (setCtx s k x).hbmStacks = s.hbmStacks := rfl
@[simp] theorem setCtx_rlcs (s : State) (k : Nat) (x : Ctx) : (setCtx s k x).rlcs = s.rlcs := rfl
@[simp] theorem setCtx_kerbs (s : State) (k : Nat) (x : Ctx) : (setCtx s k x).kerbs = s.kerbs := rfl
@[simp] theorem setCtx_routes (s : State) (k : Nat) (x : Ctx) : (setCtx s k x).routes = s.routes := rfl
@[simp] theorem setCtx_bridges (s : State) (k : Nat) (x : Ctx) : (setCtx s k x).bridges = s.bridges := rfl
@[simp] theorem setCtx_ports (s : State) (k : Nat) (x : Ctx) : (setCtx s k x).ports = s.ports := rfl
@[simp] theorem setCtx_time (s : State) (k : Nat) (x : Ctx) : (setCtx s k x).time = s.time := rfl
@[simp] theorem setCtx_net (s : State) (k : Nat) (x : Ctx) : (setCtx s k x).net = s.net := rfl
@[simp] theorem setCtx_outs (s : State) (k : Nat) (x : Ctx) : (setCtx s k x).outs = s.outs := rfl
@[simp] theorem setCtx_nextReq (s : State) (k : Nat) (x : Ctx) : (setCtx s k x).nextReq = s.nextReq := rfl
@[simp] theorem setCtx_armSeq (s : State) (k : Nat) (x : Ctx) : (setCtx s k x).armSeq = s.armSeq := rfl
@[simp] theorem setCtx_ixs (s : State) (k : Nat) (x : Ctx) : (setCtx s k x).ixs = s.ixs := rfl
@[simp] theorem setCtx_cols (s : State) (k : Nat) (x : Ctx) : (setCtx s k x).cols = s.cols := rfl
@[simp] theorem setCtx_heldQ (s : State) (k : Nat) (x : Ctx) : (setCtx s k x).heldQ = s.heldQ := rfl
@[simp] theorem setCtx_replayLog (s : State) (k : Nat) (x : Ctx) : (setCtx s k x).replayLog = s.replayLog := rfl
@[simp] theorem setCtx_sites (s : State) (k : Nat) (x : Ctx) : (setCtx s k x).sites = s.sites := rfl
@[simp] theorem setCtx_signpost (s : State) (k : Nat) (x : Ctx) : (setCtx s k x).signpost = s.signpost := rfl
@[simp] theorem setCtx_home (s : State) (k : Nat) (x : Ctx) : (setCtx s k x).home = s.home := rfl
@[simp] theorem setCtx_hide (s : State) (k : Nat) (x : Ctx) : (setCtx s k x).hide = s.hide := rfl
@[simp] theorem setCtx_hang (s : State) (k : Nat) (x : Ctx) : (setCtx s k x).hang = s.hang := rfl
@[simp] theorem setCtx_power (s : State) (k : Nat) (x : Ctx) : (setCtx s k x).power = s.power := rfl
@[simp] theorem setCtx_boot (s : State) (k : Nat) (x : Ctx) : (setCtx s k x).boot = s.boot := rfl
@[simp] theorem setCtx_record (s : State) (k : Nat) (x : Ctx) : (setCtx s k x).record = s.record := rfl
@[simp] theorem setCtx_qsc (s : State) (k : Nat) (x : Ctx) : (setCtx s k x).qsc = s.qsc := rfl
@[simp] theorem setCtx_traces (s : State) (k : Nat) (x : Ctx) : (setCtx s k x).traces = s.traces := rfl
@[simp] theorem setCtx_mgmt (s : State) (k : Nat) (x : Ctx) : (setCtx s k x).mgmt = s.mgmt := rfl
@[simp] theorem setCtx_fabric (s : State) (k : Nat) (x : Ctx) : (setCtx s k x).fabric = s.fabric := rfl
@[simp] theorem setCtx_endpoint (s : State) (k : Nat) (x : Ctx) : (setCtx s k x).endpoint = s.endpoint := rfl
@[simp] theorem setCtx_bar4Q (s : State) (k : Nat) (x : Ctx) : (setCtx s k x).bar4Q = s.bar4Q := rfl
@[simp] theorem setCtx_late (s : State) (k : Nat) (x : Ctx) : (setCtx s k x).late = s.late := rfl
@[simp] theorem getCtx_setCtx (s : State) (k : Nat) (x : Ctx) : getCtx (setCtx s k x) k = x := look_store_self ..
theorem getCtx_setCtx_of_ne (s : State) (k : Nat) (x : Ctx) {j : Nat} (h : j ≠ k) : getCtx (setCtx s k x) j = getCtx s j :=
  look_store_of_ne _ _ _ h
@[simp] theorem getPage_setCtx (s : State) (k : Nat) (x : Ctx) (j : Nat) : getPage (setCtx s k x) j = getPage s j := rfl
@[simp] theorem getCore_setCtx (s : State) (k : Nat) (x : Ctx) (j : Nat) : getCore (setCtx s k x) j = getCore s j := rfl
@[simp] theorem getPart_setCtx (s : State) (k : Nat) (x : Ctx) (j : Nat) : getPart (setCtx s k x) j = getPart s j := rfl
@[simp] theorem getStack_setCtx (s : State) (k : Nat) (x : Ctx) (j : Nat) : getStack (setCtx s k x) j = getStack s j := rfl
@[simp] theorem getRlc_setCtx (s : State) (k : Nat) (x : Ctx) (j : Nat) : getRlc (setCtx s k x) j = getRlc s j := rfl
@[simp] theorem getKerb_setCtx (s : State) (k : Nat) (x : Ctx) (j : Nat) : getKerb (setCtx s k x) j = getKerb s j := rfl
@[simp] theorem getRoute_setCtx (s : State) (k : Nat) (x : Ctx) (j : Nat) : getRoute (setCtx s k x) j = getRoute s j := rfl
@[simp] theorem getBridge_setCtx (s : State) (k : Nat) (x : Ctx) (j : Nat) : getBridge (setCtx s k x) j = getBridge s j := rfl
@[simp] theorem getPort_setCtx (s : State) (k : Nat) (x : Ctx) (j : Nat) : getPort (setCtx s k x) j = getPort s j := rfl
@[simp] theorem getIx_setCtx (s : State) (k : Nat) (x : Ctx) (j : Nat) : getIx (setCtx s k x) j = getIx s j := rfl
@[simp] theorem getCol_setCtx (s : State) (k : Nat) (x : Ctx) (j : Nat) : getCol (setCtx s k x) j = getCol s j := rfl
@[simp] theorem getSite_setCtx (s : State) (k : Nat) (x : Ctx) (j : Nat) : getSite (setCtx s k x) j = getSite s j := rfl
@[simp] theorem getTrace_setCtx (s : State) (k : Nat) (x : Ctx) (j : Nat) : getTrace (setCtx s k x) j = getTrace s j := rfl
theorem modCtx_eq (s : State) (k : Nat) (f : Ctx → Ctx) : modCtx s k f = setCtx s k (f (getCtx s k)) := rfl

/-! ### setPart -/

@[simp] theorem setPart_parts (s : State) (k : Nat) (x : Part) : (setPart s k x).parts = store s.parts k x := rfl
@[simp] theorem setPart_pending (s : State) (k : Nat) (x : Part) : (setPart s k x).pending = s.pending := rfl
@[simp] theorem setPart_odometer (s : State) (k : Nat) (x : Part) : (setPart s k x).odometer = s.odometer := rfl
@[simp] theorem setPart_fresh (s : State) (k : Nat) (x : Part) : (setPart s k x).fresh = s.fresh := rfl
@[simp] theorem setPart_pages (s : State) (k : Nat) (x : Part) : (setPart s k x).pages = s.pages := rfl
@[simp] theorem setPart_cores (s : State) (k : Nat) (x : Part) : (setPart s k x).cores = s.cores := rfl
@[simp] theorem setPart_ctxs (s : State) (k : Nat) (x : Part) : (setPart s k x).ctxs = s.ctxs := rfl
@[simp] theorem setPart_corePart (s : State) (k : Nat) (x : Part) : (setPart s k x).corePart = s.corePart := rfl
@[simp] theorem setPart_hostLog (s : State) (k : Nat) (x : Part) : (setPart s k x).hostLog = s.hostLog := rfl
@[simp] theorem setPart_rdata (s : State) (k : Nat) (x : Part) : (setPart s k x).rdata = s.rdata := rfl
@[simp] theorem setPart_bar4 (s : State) (k : Nat) (x : Part) : (setPart s k x).bar4 = s.bar4 := rfl
@[simp] theorem setPart_hbm (s : State) (k : Nat) (x : Part) : (setPart s k x).hbm = s.hbm := rfl
@[simp] theorem setPart_seals (s : State) (k : Nat) (x : Part) : (setPart s k x).seals = s.seals := rfl
@[simp] theorem setPart_poison (s : State) (k : Nat) (x : Part) : (setPart s k x).poison = s.poison := rfl
@[simp] theorem setPart_fm (s : State) (k : Nat) (x : Part) : (setPart s k x).fm = s.fm := rfl
@[simp] theorem setPart_stacks (s : State) (k : Nat) (x : Part) : (setPart s k x).hbmStacks = s.hbmStacks := rfl
@[simp] theorem setPart_rlcs (s : State) (k : Nat) (x : Part) : (setPart s k x).rlcs = s.rlcs := rfl
@[simp] theorem setPart_kerbs (s : State) (k : Nat) (x : Part) : (setPart s k x).kerbs = s.kerbs := rfl
@[simp] theorem setPart_routes (s : State) (k : Nat) (x : Part) : (setPart s k x).routes = s.routes := rfl
@[simp] theorem setPart_bridges (s : State) (k : Nat) (x : Part) : (setPart s k x).bridges = s.bridges := rfl
@[simp] theorem setPart_ports (s : State) (k : Nat) (x : Part) : (setPart s k x).ports = s.ports := rfl
@[simp] theorem setPart_time (s : State) (k : Nat) (x : Part) : (setPart s k x).time = s.time := rfl
@[simp] theorem setPart_net (s : State) (k : Nat) (x : Part) : (setPart s k x).net = s.net := rfl
@[simp] theorem setPart_outs (s : State) (k : Nat) (x : Part) : (setPart s k x).outs = s.outs := rfl
@[simp] theorem setPart_nextReq (s : State) (k : Nat) (x : Part) : (setPart s k x).nextReq = s.nextReq := rfl
@[simp] theorem setPart_armSeq (s : State) (k : Nat) (x : Part) : (setPart s k x).armSeq = s.armSeq := rfl
@[simp] theorem setPart_ixs (s : State) (k : Nat) (x : Part) : (setPart s k x).ixs = s.ixs := rfl
@[simp] theorem setPart_cols (s : State) (k : Nat) (x : Part) : (setPart s k x).cols = s.cols := rfl
@[simp] theorem setPart_heldQ (s : State) (k : Nat) (x : Part) : (setPart s k x).heldQ = s.heldQ := rfl
@[simp] theorem setPart_replayLog (s : State) (k : Nat) (x : Part) : (setPart s k x).replayLog = s.replayLog := rfl
@[simp] theorem setPart_sites (s : State) (k : Nat) (x : Part) : (setPart s k x).sites = s.sites := rfl
@[simp] theorem setPart_signpost (s : State) (k : Nat) (x : Part) : (setPart s k x).signpost = s.signpost := rfl
@[simp] theorem setPart_home (s : State) (k : Nat) (x : Part) : (setPart s k x).home = s.home := rfl
@[simp] theorem setPart_hide (s : State) (k : Nat) (x : Part) : (setPart s k x).hide = s.hide := rfl
@[simp] theorem setPart_hang (s : State) (k : Nat) (x : Part) : (setPart s k x).hang = s.hang := rfl
@[simp] theorem setPart_power (s : State) (k : Nat) (x : Part) : (setPart s k x).power = s.power := rfl
@[simp] theorem setPart_boot (s : State) (k : Nat) (x : Part) : (setPart s k x).boot = s.boot := rfl
@[simp] theorem setPart_record (s : State) (k : Nat) (x : Part) : (setPart s k x).record = s.record := rfl
@[simp] theorem setPart_qsc (s : State) (k : Nat) (x : Part) : (setPart s k x).qsc = s.qsc := rfl
@[simp] theorem setPart_traces (s : State) (k : Nat) (x : Part) : (setPart s k x).traces = s.traces := rfl
@[simp] theorem setPart_mgmt (s : State) (k : Nat) (x : Part) : (setPart s k x).mgmt = s.mgmt := rfl
@[simp] theorem setPart_fabric (s : State) (k : Nat) (x : Part) : (setPart s k x).fabric = s.fabric := rfl
@[simp] theorem setPart_endpoint (s : State) (k : Nat) (x : Part) : (setPart s k x).endpoint = s.endpoint := rfl
@[simp] theorem setPart_bar4Q (s : State) (k : Nat) (x : Part) : (setPart s k x).bar4Q = s.bar4Q := rfl
@[simp] theorem setPart_late (s : State) (k : Nat) (x : Part) : (setPart s k x).late = s.late := rfl
@[simp] theorem getPart_setPart (s : State) (k : Nat) (x : Part) : getPart (setPart s k x) k = x := look_store_self ..
theorem getPart_setPart_of_ne (s : State) (k : Nat) (x : Part) {j : Nat} (h : j ≠ k) : getPart (setPart s k x) j = getPart s j :=
  look_store_of_ne _ _ _ h
@[simp] theorem getPage_setPart (s : State) (k : Nat) (x : Part) (j : Nat) : getPage (setPart s k x) j = getPage s j := rfl
@[simp] theorem getCore_setPart (s : State) (k : Nat) (x : Part) (j : Nat) : getCore (setPart s k x) j = getCore s j := rfl
@[simp] theorem getCtx_setPart (s : State) (k : Nat) (x : Part) (j : Nat) : getCtx (setPart s k x) j = getCtx s j := rfl
@[simp] theorem getStack_setPart (s : State) (k : Nat) (x : Part) (j : Nat) : getStack (setPart s k x) j = getStack s j := rfl
@[simp] theorem getRlc_setPart (s : State) (k : Nat) (x : Part) (j : Nat) : getRlc (setPart s k x) j = getRlc s j := rfl
@[simp] theorem getKerb_setPart (s : State) (k : Nat) (x : Part) (j : Nat) : getKerb (setPart s k x) j = getKerb s j := rfl
@[simp] theorem getRoute_setPart (s : State) (k : Nat) (x : Part) (j : Nat) : getRoute (setPart s k x) j = getRoute s j := rfl
@[simp] theorem getBridge_setPart (s : State) (k : Nat) (x : Part) (j : Nat) : getBridge (setPart s k x) j = getBridge s j := rfl
@[simp] theorem getPort_setPart (s : State) (k : Nat) (x : Part) (j : Nat) : getPort (setPart s k x) j = getPort s j := rfl
@[simp] theorem getIx_setPart (s : State) (k : Nat) (x : Part) (j : Nat) : getIx (setPart s k x) j = getIx s j := rfl
@[simp] theorem getCol_setPart (s : State) (k : Nat) (x : Part) (j : Nat) : getCol (setPart s k x) j = getCol s j := rfl
@[simp] theorem getSite_setPart (s : State) (k : Nat) (x : Part) (j : Nat) : getSite (setPart s k x) j = getSite s j := rfl
@[simp] theorem getTrace_setPart (s : State) (k : Nat) (x : Part) (j : Nat) : getTrace (setPart s k x) j = getTrace s j := rfl
theorem modPart_eq (s : State) (k : Nat) (f : Part → Part) : modPart s k f = setPart s k (f (getPart s k)) := rfl

/-! ### setStack -/

@[simp] theorem setStack_stacks (s : State) (k : Nat) (x : Stack) : (setStack s k x).hbmStacks = store s.hbmStacks k x := rfl
@[simp] theorem setStack_pending (s : State) (k : Nat) (x : Stack) : (setStack s k x).pending = s.pending := rfl
@[simp] theorem setStack_odometer (s : State) (k : Nat) (x : Stack) : (setStack s k x).odometer = s.odometer := rfl
@[simp] theorem setStack_fresh (s : State) (k : Nat) (x : Stack) : (setStack s k x).fresh = s.fresh := rfl
@[simp] theorem setStack_pages (s : State) (k : Nat) (x : Stack) : (setStack s k x).pages = s.pages := rfl
@[simp] theorem setStack_cores (s : State) (k : Nat) (x : Stack) : (setStack s k x).cores = s.cores := rfl
@[simp] theorem setStack_ctxs (s : State) (k : Nat) (x : Stack) : (setStack s k x).ctxs = s.ctxs := rfl
@[simp] theorem setStack_corePart (s : State) (k : Nat) (x : Stack) : (setStack s k x).corePart = s.corePart := rfl
@[simp] theorem setStack_parts (s : State) (k : Nat) (x : Stack) : (setStack s k x).parts = s.parts := rfl
@[simp] theorem setStack_hostLog (s : State) (k : Nat) (x : Stack) : (setStack s k x).hostLog = s.hostLog := rfl
@[simp] theorem setStack_rdata (s : State) (k : Nat) (x : Stack) : (setStack s k x).rdata = s.rdata := rfl
@[simp] theorem setStack_bar4 (s : State) (k : Nat) (x : Stack) : (setStack s k x).bar4 = s.bar4 := rfl
@[simp] theorem setStack_hbm (s : State) (k : Nat) (x : Stack) : (setStack s k x).hbm = s.hbm := rfl
@[simp] theorem setStack_seals (s : State) (k : Nat) (x : Stack) : (setStack s k x).seals = s.seals := rfl
@[simp] theorem setStack_poison (s : State) (k : Nat) (x : Stack) : (setStack s k x).poison = s.poison := rfl
@[simp] theorem setStack_fm (s : State) (k : Nat) (x : Stack) : (setStack s k x).fm = s.fm := rfl
@[simp] theorem setStack_rlcs (s : State) (k : Nat) (x : Stack) : (setStack s k x).rlcs = s.rlcs := rfl
@[simp] theorem setStack_kerbs (s : State) (k : Nat) (x : Stack) : (setStack s k x).kerbs = s.kerbs := rfl
@[simp] theorem setStack_routes (s : State) (k : Nat) (x : Stack) : (setStack s k x).routes = s.routes := rfl
@[simp] theorem setStack_bridges (s : State) (k : Nat) (x : Stack) : (setStack s k x).bridges = s.bridges := rfl
@[simp] theorem setStack_ports (s : State) (k : Nat) (x : Stack) : (setStack s k x).ports = s.ports := rfl
@[simp] theorem setStack_time (s : State) (k : Nat) (x : Stack) : (setStack s k x).time = s.time := rfl
@[simp] theorem setStack_net (s : State) (k : Nat) (x : Stack) : (setStack s k x).net = s.net := rfl
@[simp] theorem setStack_outs (s : State) (k : Nat) (x : Stack) : (setStack s k x).outs = s.outs := rfl
@[simp] theorem setStack_nextReq (s : State) (k : Nat) (x : Stack) : (setStack s k x).nextReq = s.nextReq := rfl
@[simp] theorem setStack_armSeq (s : State) (k : Nat) (x : Stack) : (setStack s k x).armSeq = s.armSeq := rfl
@[simp] theorem setStack_ixs (s : State) (k : Nat) (x : Stack) : (setStack s k x).ixs = s.ixs := rfl
@[simp] theorem setStack_cols (s : State) (k : Nat) (x : Stack) : (setStack s k x).cols = s.cols := rfl
@[simp] theorem setStack_heldQ (s : State) (k : Nat) (x : Stack) : (setStack s k x).heldQ = s.heldQ := rfl
@[simp] theorem setStack_replayLog (s : State) (k : Nat) (x : Stack) : (setStack s k x).replayLog = s.replayLog := rfl
@[simp] theorem setStack_sites (s : State) (k : Nat) (x : Stack) : (setStack s k x).sites = s.sites := rfl
@[simp] theorem setStack_signpost (s : State) (k : Nat) (x : Stack) : (setStack s k x).signpost = s.signpost := rfl
@[simp] theorem setStack_home (s : State) (k : Nat) (x : Stack) : (setStack s k x).home = s.home := rfl
@[simp] theorem setStack_hide (s : State) (k : Nat) (x : Stack) : (setStack s k x).hide = s.hide := rfl
@[simp] theorem setStack_hang (s : State) (k : Nat) (x : Stack) : (setStack s k x).hang = s.hang := rfl
@[simp] theorem setStack_power (s : State) (k : Nat) (x : Stack) : (setStack s k x).power = s.power := rfl
@[simp] theorem setStack_boot (s : State) (k : Nat) (x : Stack) : (setStack s k x).boot = s.boot := rfl
@[simp] theorem setStack_record (s : State) (k : Nat) (x : Stack) : (setStack s k x).record = s.record := rfl
@[simp] theorem setStack_qsc (s : State) (k : Nat) (x : Stack) : (setStack s k x).qsc = s.qsc := rfl
@[simp] theorem setStack_traces (s : State) (k : Nat) (x : Stack) : (setStack s k x).traces = s.traces := rfl
@[simp] theorem setStack_mgmt (s : State) (k : Nat) (x : Stack) : (setStack s k x).mgmt = s.mgmt := rfl
@[simp] theorem setStack_fabric (s : State) (k : Nat) (x : Stack) : (setStack s k x).fabric = s.fabric := rfl
@[simp] theorem setStack_endpoint (s : State) (k : Nat) (x : Stack) : (setStack s k x).endpoint = s.endpoint := rfl
@[simp] theorem setStack_bar4Q (s : State) (k : Nat) (x : Stack) : (setStack s k x).bar4Q = s.bar4Q := rfl
@[simp] theorem setStack_late (s : State) (k : Nat) (x : Stack) : (setStack s k x).late = s.late := rfl
@[simp] theorem getStack_setStack (s : State) (k : Nat) (x : Stack) : getStack (setStack s k x) k = x := look_store_self ..
theorem getStack_setStack_of_ne (s : State) (k : Nat) (x : Stack) {j : Nat} (h : j ≠ k) : getStack (setStack s k x) j = getStack s j :=
  look_store_of_ne _ _ _ h
@[simp] theorem getPage_setStack (s : State) (k : Nat) (x : Stack) (j : Nat) : getPage (setStack s k x) j = getPage s j := rfl
@[simp] theorem getCore_setStack (s : State) (k : Nat) (x : Stack) (j : Nat) : getCore (setStack s k x) j = getCore s j := rfl
@[simp] theorem getCtx_setStack (s : State) (k : Nat) (x : Stack) (j : Nat) : getCtx (setStack s k x) j = getCtx s j := rfl
@[simp] theorem getPart_setStack (s : State) (k : Nat) (x : Stack) (j : Nat) : getPart (setStack s k x) j = getPart s j := rfl
@[simp] theorem getRlc_setStack (s : State) (k : Nat) (x : Stack) (j : Nat) : getRlc (setStack s k x) j = getRlc s j := rfl
@[simp] theorem getKerb_setStack (s : State) (k : Nat) (x : Stack) (j : Nat) : getKerb (setStack s k x) j = getKerb s j := rfl
@[simp] theorem getRoute_setStack (s : State) (k : Nat) (x : Stack) (j : Nat) : getRoute (setStack s k x) j = getRoute s j := rfl
@[simp] theorem getBridge_setStack (s : State) (k : Nat) (x : Stack) (j : Nat) : getBridge (setStack s k x) j = getBridge s j := rfl
@[simp] theorem getPort_setStack (s : State) (k : Nat) (x : Stack) (j : Nat) : getPort (setStack s k x) j = getPort s j := rfl
@[simp] theorem getIx_setStack (s : State) (k : Nat) (x : Stack) (j : Nat) : getIx (setStack s k x) j = getIx s j := rfl
@[simp] theorem getCol_setStack (s : State) (k : Nat) (x : Stack) (j : Nat) : getCol (setStack s k x) j = getCol s j := rfl
@[simp] theorem getSite_setStack (s : State) (k : Nat) (x : Stack) (j : Nat) : getSite (setStack s k x) j = getSite s j := rfl
@[simp] theorem getTrace_setStack (s : State) (k : Nat) (x : Stack) (j : Nat) : getTrace (setStack s k x) j = getTrace s j := rfl
theorem modStack_eq (s : State) (k : Nat) (f : Stack → Stack) : modStack s k f = setStack s k (f (getStack s k)) := rfl

/-! ### setRlc -/

@[simp] theorem setRlc_rlcs (s : State) (k : Nat) (x : Rlc) : (setRlc s k x).rlcs = store s.rlcs k x := rfl
@[simp] theorem setRlc_pending (s : State) (k : Nat) (x : Rlc) : (setRlc s k x).pending = s.pending := rfl
@[simp] theorem setRlc_odometer (s : State) (k : Nat) (x : Rlc) : (setRlc s k x).odometer = s.odometer := rfl
@[simp] theorem setRlc_fresh (s : State) (k : Nat) (x : Rlc) : (setRlc s k x).fresh = s.fresh := rfl
@[simp] theorem setRlc_pages (s : State) (k : Nat) (x : Rlc) : (setRlc s k x).pages = s.pages := rfl
@[simp] theorem setRlc_cores (s : State) (k : Nat) (x : Rlc) : (setRlc s k x).cores = s.cores := rfl
@[simp] theorem setRlc_ctxs (s : State) (k : Nat) (x : Rlc) : (setRlc s k x).ctxs = s.ctxs := rfl
@[simp] theorem setRlc_corePart (s : State) (k : Nat) (x : Rlc) : (setRlc s k x).corePart = s.corePart := rfl
@[simp] theorem setRlc_parts (s : State) (k : Nat) (x : Rlc) : (setRlc s k x).parts = s.parts := rfl
@[simp] theorem setRlc_hostLog (s : State) (k : Nat) (x : Rlc) : (setRlc s k x).hostLog = s.hostLog := rfl
@[simp] theorem setRlc_rdata (s : State) (k : Nat) (x : Rlc) : (setRlc s k x).rdata = s.rdata := rfl
@[simp] theorem setRlc_bar4 (s : State) (k : Nat) (x : Rlc) : (setRlc s k x).bar4 = s.bar4 := rfl
@[simp] theorem setRlc_hbm (s : State) (k : Nat) (x : Rlc) : (setRlc s k x).hbm = s.hbm := rfl
@[simp] theorem setRlc_seals (s : State) (k : Nat) (x : Rlc) : (setRlc s k x).seals = s.seals := rfl
@[simp] theorem setRlc_poison (s : State) (k : Nat) (x : Rlc) : (setRlc s k x).poison = s.poison := rfl
@[simp] theorem setRlc_fm (s : State) (k : Nat) (x : Rlc) : (setRlc s k x).fm = s.fm := rfl
@[simp] theorem setRlc_stacks (s : State) (k : Nat) (x : Rlc) : (setRlc s k x).hbmStacks = s.hbmStacks := rfl
@[simp] theorem setRlc_kerbs (s : State) (k : Nat) (x : Rlc) : (setRlc s k x).kerbs = s.kerbs := rfl
@[simp] theorem setRlc_routes (s : State) (k : Nat) (x : Rlc) : (setRlc s k x).routes = s.routes := rfl
@[simp] theorem setRlc_bridges (s : State) (k : Nat) (x : Rlc) : (setRlc s k x).bridges = s.bridges := rfl
@[simp] theorem setRlc_ports (s : State) (k : Nat) (x : Rlc) : (setRlc s k x).ports = s.ports := rfl
@[simp] theorem setRlc_time (s : State) (k : Nat) (x : Rlc) : (setRlc s k x).time = s.time := rfl
@[simp] theorem setRlc_net (s : State) (k : Nat) (x : Rlc) : (setRlc s k x).net = s.net := rfl
@[simp] theorem setRlc_outs (s : State) (k : Nat) (x : Rlc) : (setRlc s k x).outs = s.outs := rfl
@[simp] theorem setRlc_nextReq (s : State) (k : Nat) (x : Rlc) : (setRlc s k x).nextReq = s.nextReq := rfl
@[simp] theorem setRlc_armSeq (s : State) (k : Nat) (x : Rlc) : (setRlc s k x).armSeq = s.armSeq := rfl
@[simp] theorem setRlc_ixs (s : State) (k : Nat) (x : Rlc) : (setRlc s k x).ixs = s.ixs := rfl
@[simp] theorem setRlc_cols (s : State) (k : Nat) (x : Rlc) : (setRlc s k x).cols = s.cols := rfl
@[simp] theorem setRlc_heldQ (s : State) (k : Nat) (x : Rlc) : (setRlc s k x).heldQ = s.heldQ := rfl
@[simp] theorem setRlc_replayLog (s : State) (k : Nat) (x : Rlc) : (setRlc s k x).replayLog = s.replayLog := rfl
@[simp] theorem setRlc_sites (s : State) (k : Nat) (x : Rlc) : (setRlc s k x).sites = s.sites := rfl
@[simp] theorem setRlc_signpost (s : State) (k : Nat) (x : Rlc) : (setRlc s k x).signpost = s.signpost := rfl
@[simp] theorem setRlc_home (s : State) (k : Nat) (x : Rlc) : (setRlc s k x).home = s.home := rfl
@[simp] theorem setRlc_hide (s : State) (k : Nat) (x : Rlc) : (setRlc s k x).hide = s.hide := rfl
@[simp] theorem setRlc_hang (s : State) (k : Nat) (x : Rlc) : (setRlc s k x).hang = s.hang := rfl
@[simp] theorem setRlc_power (s : State) (k : Nat) (x : Rlc) : (setRlc s k x).power = s.power := rfl
@[simp] theorem setRlc_boot (s : State) (k : Nat) (x : Rlc) : (setRlc s k x).boot = s.boot := rfl
@[simp] theorem setRlc_record (s : State) (k : Nat) (x : Rlc) : (setRlc s k x).record = s.record := rfl
@[simp] theorem setRlc_qsc (s : State) (k : Nat) (x : Rlc) : (setRlc s k x).qsc = s.qsc := rfl
@[simp] theorem setRlc_traces (s : State) (k : Nat) (x : Rlc) : (setRlc s k x).traces = s.traces := rfl
@[simp] theorem setRlc_mgmt (s : State) (k : Nat) (x : Rlc) : (setRlc s k x).mgmt = s.mgmt := rfl
@[simp] theorem setRlc_fabric (s : State) (k : Nat) (x : Rlc) : (setRlc s k x).fabric = s.fabric := rfl
@[simp] theorem setRlc_endpoint (s : State) (k : Nat) (x : Rlc) : (setRlc s k x).endpoint = s.endpoint := rfl
@[simp] theorem setRlc_bar4Q (s : State) (k : Nat) (x : Rlc) : (setRlc s k x).bar4Q = s.bar4Q := rfl
@[simp] theorem setRlc_late (s : State) (k : Nat) (x : Rlc) : (setRlc s k x).late = s.late := rfl
@[simp] theorem getRlc_setRlc (s : State) (k : Nat) (x : Rlc) : getRlc (setRlc s k x) k = x := look_store_self ..
theorem getRlc_setRlc_of_ne (s : State) (k : Nat) (x : Rlc) {j : Nat} (h : j ≠ k) : getRlc (setRlc s k x) j = getRlc s j :=
  look_store_of_ne _ _ _ h
@[simp] theorem getPage_setRlc (s : State) (k : Nat) (x : Rlc) (j : Nat) : getPage (setRlc s k x) j = getPage s j := rfl
@[simp] theorem getCore_setRlc (s : State) (k : Nat) (x : Rlc) (j : Nat) : getCore (setRlc s k x) j = getCore s j := rfl
@[simp] theorem getCtx_setRlc (s : State) (k : Nat) (x : Rlc) (j : Nat) : getCtx (setRlc s k x) j = getCtx s j := rfl
@[simp] theorem getPart_setRlc (s : State) (k : Nat) (x : Rlc) (j : Nat) : getPart (setRlc s k x) j = getPart s j := rfl
@[simp] theorem getStack_setRlc (s : State) (k : Nat) (x : Rlc) (j : Nat) : getStack (setRlc s k x) j = getStack s j := rfl
@[simp] theorem getKerb_setRlc (s : State) (k : Nat) (x : Rlc) (j : Nat) : getKerb (setRlc s k x) j = getKerb s j := rfl
@[simp] theorem getRoute_setRlc (s : State) (k : Nat) (x : Rlc) (j : Nat) : getRoute (setRlc s k x) j = getRoute s j := rfl
@[simp] theorem getBridge_setRlc (s : State) (k : Nat) (x : Rlc) (j : Nat) : getBridge (setRlc s k x) j = getBridge s j := rfl
@[simp] theorem getPort_setRlc (s : State) (k : Nat) (x : Rlc) (j : Nat) : getPort (setRlc s k x) j = getPort s j := rfl
@[simp] theorem getIx_setRlc (s : State) (k : Nat) (x : Rlc) (j : Nat) : getIx (setRlc s k x) j = getIx s j := rfl
@[simp] theorem getCol_setRlc (s : State) (k : Nat) (x : Rlc) (j : Nat) : getCol (setRlc s k x) j = getCol s j := rfl
@[simp] theorem getSite_setRlc (s : State) (k : Nat) (x : Rlc) (j : Nat) : getSite (setRlc s k x) j = getSite s j := rfl
@[simp] theorem getTrace_setRlc (s : State) (k : Nat) (x : Rlc) (j : Nat) : getTrace (setRlc s k x) j = getTrace s j := rfl

/-! ### setKerb -/

@[simp] theorem setKerb_kerbs (s : State) (k : Nat) (x : Kerb) : (setKerb s k x).kerbs = store s.kerbs k x := rfl
@[simp] theorem setKerb_pending (s : State) (k : Nat) (x : Kerb) : (setKerb s k x).pending = s.pending := rfl
@[simp] theorem setKerb_odometer (s : State) (k : Nat) (x : Kerb) : (setKerb s k x).odometer = s.odometer := rfl
@[simp] theorem setKerb_fresh (s : State) (k : Nat) (x : Kerb) : (setKerb s k x).fresh = s.fresh := rfl
@[simp] theorem setKerb_pages (s : State) (k : Nat) (x : Kerb) : (setKerb s k x).pages = s.pages := rfl
@[simp] theorem setKerb_cores (s : State) (k : Nat) (x : Kerb) : (setKerb s k x).cores = s.cores := rfl
@[simp] theorem setKerb_ctxs (s : State) (k : Nat) (x : Kerb) : (setKerb s k x).ctxs = s.ctxs := rfl
@[simp] theorem setKerb_corePart (s : State) (k : Nat) (x : Kerb) : (setKerb s k x).corePart = s.corePart := rfl
@[simp] theorem setKerb_parts (s : State) (k : Nat) (x : Kerb) : (setKerb s k x).parts = s.parts := rfl
@[simp] theorem setKerb_hostLog (s : State) (k : Nat) (x : Kerb) : (setKerb s k x).hostLog = s.hostLog := rfl
@[simp] theorem setKerb_rdata (s : State) (k : Nat) (x : Kerb) : (setKerb s k x).rdata = s.rdata := rfl
@[simp] theorem setKerb_bar4 (s : State) (k : Nat) (x : Kerb) : (setKerb s k x).bar4 = s.bar4 := rfl
@[simp] theorem setKerb_hbm (s : State) (k : Nat) (x : Kerb) : (setKerb s k x).hbm = s.hbm := rfl
@[simp] theorem setKerb_seals (s : State) (k : Nat) (x : Kerb) : (setKerb s k x).seals = s.seals := rfl
@[simp] theorem setKerb_poison (s : State) (k : Nat) (x : Kerb) : (setKerb s k x).poison = s.poison := rfl
@[simp] theorem setKerb_fm (s : State) (k : Nat) (x : Kerb) : (setKerb s k x).fm = s.fm := rfl
@[simp] theorem setKerb_stacks (s : State) (k : Nat) (x : Kerb) : (setKerb s k x).hbmStacks = s.hbmStacks := rfl
@[simp] theorem setKerb_rlcs (s : State) (k : Nat) (x : Kerb) : (setKerb s k x).rlcs = s.rlcs := rfl
@[simp] theorem setKerb_routes (s : State) (k : Nat) (x : Kerb) : (setKerb s k x).routes = s.routes := rfl
@[simp] theorem setKerb_bridges (s : State) (k : Nat) (x : Kerb) : (setKerb s k x).bridges = s.bridges := rfl
@[simp] theorem setKerb_ports (s : State) (k : Nat) (x : Kerb) : (setKerb s k x).ports = s.ports := rfl
@[simp] theorem setKerb_time (s : State) (k : Nat) (x : Kerb) : (setKerb s k x).time = s.time := rfl
@[simp] theorem setKerb_net (s : State) (k : Nat) (x : Kerb) : (setKerb s k x).net = s.net := rfl
@[simp] theorem setKerb_outs (s : State) (k : Nat) (x : Kerb) : (setKerb s k x).outs = s.outs := rfl
@[simp] theorem setKerb_nextReq (s : State) (k : Nat) (x : Kerb) : (setKerb s k x).nextReq = s.nextReq := rfl
@[simp] theorem setKerb_armSeq (s : State) (k : Nat) (x : Kerb) : (setKerb s k x).armSeq = s.armSeq := rfl
@[simp] theorem setKerb_ixs (s : State) (k : Nat) (x : Kerb) : (setKerb s k x).ixs = s.ixs := rfl
@[simp] theorem setKerb_cols (s : State) (k : Nat) (x : Kerb) : (setKerb s k x).cols = s.cols := rfl
@[simp] theorem setKerb_heldQ (s : State) (k : Nat) (x : Kerb) : (setKerb s k x).heldQ = s.heldQ := rfl
@[simp] theorem setKerb_replayLog (s : State) (k : Nat) (x : Kerb) : (setKerb s k x).replayLog = s.replayLog := rfl
@[simp] theorem setKerb_sites (s : State) (k : Nat) (x : Kerb) : (setKerb s k x).sites = s.sites := rfl
@[simp] theorem setKerb_signpost (s : State) (k : Nat) (x : Kerb) : (setKerb s k x).signpost = s.signpost := rfl
@[simp] theorem setKerb_home (s : State) (k : Nat) (x : Kerb) : (setKerb s k x).home = s.home := rfl
@[simp] theorem setKerb_hide (s : State) (k : Nat) (x : Kerb) : (setKerb s k x).hide = s.hide := rfl
@[simp] theorem setKerb_hang (s : State) (k : Nat) (x : Kerb) : (setKerb s k x).hang = s.hang := rfl
@[simp] theorem setKerb_power (s : State) (k : Nat) (x : Kerb) : (setKerb s k x).power = s.power := rfl
@[simp] theorem setKerb_boot (s : State) (k : Nat) (x : Kerb) : (setKerb s k x).boot = s.boot := rfl
@[simp] theorem setKerb_record (s : State) (k : Nat) (x : Kerb) : (setKerb s k x).record = s.record := rfl
@[simp] theorem setKerb_qsc (s : State) (k : Nat) (x : Kerb) : (setKerb s k x).qsc = s.qsc := rfl
@[simp] theorem setKerb_traces (s : State) (k : Nat) (x : Kerb) : (setKerb s k x).traces = s.traces := rfl
@[simp] theorem setKerb_mgmt (s : State) (k : Nat) (x : Kerb) : (setKerb s k x).mgmt = s.mgmt := rfl
@[simp] theorem setKerb_fabric (s : State) (k : Nat) (x : Kerb) : (setKerb s k x).fabric = s.fabric := rfl
@[simp] theorem setKerb_endpoint (s : State) (k : Nat) (x : Kerb) : (setKerb s k x).endpoint = s.endpoint := rfl
@[simp] theorem setKerb_bar4Q (s : State) (k : Nat) (x : Kerb) : (setKerb s k x).bar4Q = s.bar4Q := rfl
@[simp] theorem setKerb_late (s : State) (k : Nat) (x : Kerb) : (setKerb s k x).late = s.late := rfl
@[simp] theorem getKerb_setKerb (s : State) (k : Nat) (x : Kerb) : getKerb (setKerb s k x) k = x := look_store_self ..
theorem getKerb_setKerb_of_ne (s : State) (k : Nat) (x : Kerb) {j : Nat} (h : j ≠ k) : getKerb (setKerb s k x) j = getKerb s j :=
  look_store_of_ne _ _ _ h
@[simp] theorem getPage_setKerb (s : State) (k : Nat) (x : Kerb) (j : Nat) : getPage (setKerb s k x) j = getPage s j := rfl
@[simp] theorem getCore_setKerb (s : State) (k : Nat) (x : Kerb) (j : Nat) : getCore (setKerb s k x) j = getCore s j := rfl
@[simp] theorem getCtx_setKerb (s : State) (k : Nat) (x : Kerb) (j : Nat) : getCtx (setKerb s k x) j = getCtx s j := rfl
@[simp] theorem getPart_setKerb (s : State) (k : Nat) (x : Kerb) (j : Nat) : getPart (setKerb s k x) j = getPart s j := rfl
@[simp] theorem getStack_setKerb (s : State) (k : Nat) (x : Kerb) (j : Nat) : getStack (setKerb s k x) j = getStack s j := rfl
@[simp] theorem getRlc_setKerb (s : State) (k : Nat) (x : Kerb) (j : Nat) : getRlc (setKerb s k x) j = getRlc s j := rfl
@[simp] theorem getRoute_setKerb (s : State) (k : Nat) (x : Kerb) (j : Nat) : getRoute (setKerb s k x) j = getRoute s j := rfl
@[simp] theorem getBridge_setKerb (s : State) (k : Nat) (x : Kerb) (j : Nat) : getBridge (setKerb s k x) j = getBridge s j := rfl
@[simp] theorem getPort_setKerb (s : State) (k : Nat) (x : Kerb) (j : Nat) : getPort (setKerb s k x) j = getPort s j := rfl
@[simp] theorem getIx_setKerb (s : State) (k : Nat) (x : Kerb) (j : Nat) : getIx (setKerb s k x) j = getIx s j := rfl
@[simp] theorem getCol_setKerb (s : State) (k : Nat) (x : Kerb) (j : Nat) : getCol (setKerb s k x) j = getCol s j := rfl
@[simp] theorem getSite_setKerb (s : State) (k : Nat) (x : Kerb) (j : Nat) : getSite (setKerb s k x) j = getSite s j := rfl
@[simp] theorem getTrace_setKerb (s : State) (k : Nat) (x : Kerb) (j : Nat) : getTrace (setKerb s k x) j = getTrace s j := rfl
theorem modKerb_eq (s : State) (k : Nat) (f : Kerb → Kerb) : modKerb s k f = setKerb s k (f (getKerb s k)) := rfl

/-! ### setRoute -/

@[simp] theorem setRoute_routes (s : State) (k : Nat) (x : Route) : (setRoute s k x).routes = store s.routes k x := rfl
@[simp] theorem setRoute_pending (s : State) (k : Nat) (x : Route) : (setRoute s k x).pending = s.pending := rfl
@[simp] theorem setRoute_odometer (s : State) (k : Nat) (x : Route) : (setRoute s k x).odometer = s.odometer := rfl
@[simp] theorem setRoute_fresh (s : State) (k : Nat) (x : Route) : (setRoute s k x).fresh = s.fresh := rfl
@[simp] theorem setRoute_pages (s : State) (k : Nat) (x : Route) : (setRoute s k x).pages = s.pages := rfl
@[simp] theorem setRoute_cores (s : State) (k : Nat) (x : Route) : (setRoute s k x).cores = s.cores := rfl
@[simp] theorem setRoute_ctxs (s : State) (k : Nat) (x : Route) : (setRoute s k x).ctxs = s.ctxs := rfl
@[simp] theorem setRoute_corePart (s : State) (k : Nat) (x : Route) : (setRoute s k x).corePart = s.corePart := rfl
@[simp] theorem setRoute_parts (s : State) (k : Nat) (x : Route) : (setRoute s k x).parts = s.parts := rfl
@[simp] theorem setRoute_hostLog (s : State) (k : Nat) (x : Route) : (setRoute s k x).hostLog = s.hostLog := rfl
@[simp] theorem setRoute_rdata (s : State) (k : Nat) (x : Route) : (setRoute s k x).rdata = s.rdata := rfl
@[simp] theorem setRoute_bar4 (s : State) (k : Nat) (x : Route) : (setRoute s k x).bar4 = s.bar4 := rfl
@[simp] theorem setRoute_hbm (s : State) (k : Nat) (x : Route) : (setRoute s k x).hbm = s.hbm := rfl
@[simp] theorem setRoute_seals (s : State) (k : Nat) (x : Route) : (setRoute s k x).seals = s.seals := rfl
@[simp] theorem setRoute_poison (s : State) (k : Nat) (x : Route) : (setRoute s k x).poison = s.poison := rfl
@[simp] theorem setRoute_fm (s : State) (k : Nat) (x : Route) : (setRoute s k x).fm = s.fm := rfl
@[simp] theorem setRoute_stacks (s : State) (k : Nat) (x : Route) : (setRoute s k x).hbmStacks = s.hbmStacks := rfl
@[simp] theorem setRoute_rlcs (s : State) (k : Nat) (x : Route) : (setRoute s k x).rlcs = s.rlcs := rfl
@[simp] theorem setRoute_kerbs (s : State) (k : Nat) (x : Route) : (setRoute s k x).kerbs = s.kerbs := rfl
@[simp] theorem setRoute_bridges (s : State) (k : Nat) (x : Route) : (setRoute s k x).bridges = s.bridges := rfl
@[simp] theorem setRoute_ports (s : State) (k : Nat) (x : Route) : (setRoute s k x).ports = s.ports := rfl
@[simp] theorem setRoute_time (s : State) (k : Nat) (x : Route) : (setRoute s k x).time = s.time := rfl
@[simp] theorem setRoute_net (s : State) (k : Nat) (x : Route) : (setRoute s k x).net = s.net := rfl
@[simp] theorem setRoute_outs (s : State) (k : Nat) (x : Route) : (setRoute s k x).outs = s.outs := rfl
@[simp] theorem setRoute_nextReq (s : State) (k : Nat) (x : Route) : (setRoute s k x).nextReq = s.nextReq := rfl
@[simp] theorem setRoute_armSeq (s : State) (k : Nat) (x : Route) : (setRoute s k x).armSeq = s.armSeq := rfl
@[simp] theorem setRoute_ixs (s : State) (k : Nat) (x : Route) : (setRoute s k x).ixs = s.ixs := rfl
@[simp] theorem setRoute_cols (s : State) (k : Nat) (x : Route) : (setRoute s k x).cols = s.cols := rfl
@[simp] theorem setRoute_heldQ (s : State) (k : Nat) (x : Route) : (setRoute s k x).heldQ = s.heldQ := rfl
@[simp] theorem setRoute_replayLog (s : State) (k : Nat) (x : Route) : (setRoute s k x).replayLog = s.replayLog := rfl
@[simp] theorem setRoute_sites (s : State) (k : Nat) (x : Route) : (setRoute s k x).sites = s.sites := rfl
@[simp] theorem setRoute_signpost (s : State) (k : Nat) (x : Route) : (setRoute s k x).signpost = s.signpost := rfl
@[simp] theorem setRoute_home (s : State) (k : Nat) (x : Route) : (setRoute s k x).home = s.home := rfl
@[simp] theorem setRoute_hide (s : State) (k : Nat) (x : Route) : (setRoute s k x).hide = s.hide := rfl
@[simp] theorem setRoute_hang (s : State) (k : Nat) (x : Route) : (setRoute s k x).hang = s.hang := rfl
@[simp] theorem setRoute_power (s : State) (k : Nat) (x : Route) : (setRoute s k x).power = s.power := rfl
@[simp] theorem setRoute_boot (s : State) (k : Nat) (x : Route) : (setRoute s k x).boot = s.boot := rfl
@[simp] theorem setRoute_record (s : State) (k : Nat) (x : Route) : (setRoute s k x).record = s.record := rfl
@[simp] theorem setRoute_qsc (s : State) (k : Nat) (x : Route) : (setRoute s k x).qsc = s.qsc := rfl
@[simp] theorem setRoute_traces (s : State) (k : Nat) (x : Route) : (setRoute s k x).traces = s.traces := rfl
@[simp] theorem setRoute_mgmt (s : State) (k : Nat) (x : Route) : (setRoute s k x).mgmt = s.mgmt := rfl
@[simp] theorem setRoute_fabric (s : State) (k : Nat) (x : Route) : (setRoute s k x).fabric = s.fabric := rfl
@[simp] theorem setRoute_endpoint (s : State) (k : Nat) (x : Route) : (setRoute s k x).endpoint = s.endpoint := rfl
@[simp] theorem setRoute_bar4Q (s : State) (k : Nat) (x : Route) : (setRoute s k x).bar4Q = s.bar4Q := rfl
@[simp] theorem setRoute_late (s : State) (k : Nat) (x : Route) : (setRoute s k x).late = s.late := rfl
@[simp] theorem getRoute_setRoute (s : State) (k : Nat) (x : Route) : getRoute (setRoute s k x) k = x := look_store_self ..
theorem getRoute_setRoute_of_ne (s : State) (k : Nat) (x : Route) {j : Nat} (h : j ≠ k) : getRoute (setRoute s k x) j = getRoute s j :=
  look_store_of_ne _ _ _ h
@[simp] theorem getPage_setRoute (s : State) (k : Nat) (x : Route) (j : Nat) : getPage (setRoute s k x) j = getPage s j := rfl
@[simp] theorem getCore_setRoute (s : State) (k : Nat) (x : Route) (j : Nat) : getCore (setRoute s k x) j = getCore s j := rfl
@[simp] theorem getCtx_setRoute (s : State) (k : Nat) (x : Route) (j : Nat) : getCtx (setRoute s k x) j = getCtx s j := rfl
@[simp] theorem getPart_setRoute (s : State) (k : Nat) (x : Route) (j : Nat) : getPart (setRoute s k x) j = getPart s j := rfl
@[simp] theorem getStack_setRoute (s : State) (k : Nat) (x : Route) (j : Nat) : getStack (setRoute s k x) j = getStack s j := rfl
@[simp] theorem getRlc_setRoute (s : State) (k : Nat) (x : Route) (j : Nat) : getRlc (setRoute s k x) j = getRlc s j := rfl
@[simp] theorem getKerb_setRoute (s : State) (k : Nat) (x : Route) (j : Nat) : getKerb (setRoute s k x) j = getKerb s j := rfl
@[simp] theorem getBridge_setRoute (s : State) (k : Nat) (x : Route) (j : Nat) : getBridge (setRoute s k x) j = getBridge s j := rfl
@[simp] theorem getPort_setRoute (s : State) (k : Nat) (x : Route) (j : Nat) : getPort (setRoute s k x) j = getPort s j := rfl
@[simp] theorem getIx_setRoute (s : State) (k : Nat) (x : Route) (j : Nat) : getIx (setRoute s k x) j = getIx s j := rfl
@[simp] theorem getCol_setRoute (s : State) (k : Nat) (x : Route) (j : Nat) : getCol (setRoute s k x) j = getCol s j := rfl
@[simp] theorem getSite_setRoute (s : State) (k : Nat) (x : Route) (j : Nat) : getSite (setRoute s k x) j = getSite s j := rfl
@[simp] theorem getTrace_setRoute (s : State) (k : Nat) (x : Route) (j : Nat) : getTrace (setRoute s k x) j = getTrace s j := rfl

/-! ### setBridge -/

@[simp] theorem setBridge_bridges (s : State) (k : Nat) (x : Bridge) : (setBridge s k x).bridges = store s.bridges k x := rfl
@[simp] theorem setBridge_pending (s : State) (k : Nat) (x : Bridge) : (setBridge s k x).pending = s.pending := rfl
@[simp] theorem setBridge_odometer (s : State) (k : Nat) (x : Bridge) : (setBridge s k x).odometer = s.odometer := rfl
@[simp] theorem setBridge_fresh (s : State) (k : Nat) (x : Bridge) : (setBridge s k x).fresh = s.fresh := rfl
@[simp] theorem setBridge_pages (s : State) (k : Nat) (x : Bridge) : (setBridge s k x).pages = s.pages := rfl
@[simp] theorem setBridge_cores (s : State) (k : Nat) (x : Bridge) : (setBridge s k x).cores = s.cores := rfl
@[simp] theorem setBridge_ctxs (s : State) (k : Nat) (x : Bridge) : (setBridge s k x).ctxs = s.ctxs := rfl
@[simp] theorem setBridge_corePart (s : State) (k : Nat) (x : Bridge) : (setBridge s k x).corePart = s.corePart := rfl
@[simp] theorem setBridge_parts (s : State) (k : Nat) (x : Bridge) : (setBridge s k x).parts = s.parts := rfl
@[simp] theorem setBridge_hostLog (s : State) (k : Nat) (x : Bridge) : (setBridge s k x).hostLog = s.hostLog := rfl
@[simp] theorem setBridge_rdata (s : State) (k : Nat) (x : Bridge) : (setBridge s k x).rdata = s.rdata := rfl
@[simp] theorem setBridge_bar4 (s : State) (k : Nat) (x : Bridge) : (setBridge s k x).bar4 = s.bar4 := rfl
@[simp] theorem setBridge_hbm (s : State) (k : Nat) (x : Bridge) : (setBridge s k x).hbm = s.hbm := rfl
@[simp] theorem setBridge_seals (s : State) (k : Nat) (x : Bridge) : (setBridge s k x).seals = s.seals := rfl
@[simp] theorem setBridge_poison (s : State) (k : Nat) (x : Bridge) : (setBridge s k x).poison = s.poison := rfl
@[simp] theorem setBridge_fm (s : State) (k : Nat) (x : Bridge) : (setBridge s k x).fm = s.fm := rfl
@[simp] theorem setBridge_stacks (s : State) (k : Nat) (x : Bridge) : (setBridge s k x).hbmStacks = s.hbmStacks := rfl
@[simp] theorem setBridge_rlcs (s : State) (k : Nat) (x : Bridge) : (setBridge s k x).rlcs = s.rlcs := rfl
@[simp] theorem setBridge_kerbs (s : State) (k : Nat) (x : Bridge) : (setBridge s k x).kerbs = s.kerbs := rfl
@[simp] theorem setBridge_routes (s : State) (k : Nat) (x : Bridge) : (setBridge s k x).routes = s.routes := rfl
@[simp] theorem setBridge_ports (s : State) (k : Nat) (x : Bridge) : (setBridge s k x).ports = s.ports := rfl
@[simp] theorem setBridge_time (s : State) (k : Nat) (x : Bridge) : (setBridge s k x).time = s.time := rfl
@[simp] theorem setBridge_net (s : State) (k : Nat) (x : Bridge) : (setBridge s k x).net = s.net := rfl
@[simp] theorem setBridge_outs (s : State) (k : Nat) (x : Bridge) : (setBridge s k x).outs = s.outs := rfl
@[simp] theorem setBridge_nextReq (s : State) (k : Nat) (x : Bridge) : (setBridge s k x).nextReq = s.nextReq := rfl
@[simp] theorem setBridge_armSeq (s : State) (k : Nat) (x : Bridge) : (setBridge s k x).armSeq = s.armSeq := rfl
@[simp] theorem setBridge_ixs (s : State) (k : Nat) (x : Bridge) : (setBridge s k x).ixs = s.ixs := rfl
@[simp] theorem setBridge_cols (s : State) (k : Nat) (x : Bridge) : (setBridge s k x).cols = s.cols := rfl
@[simp] theorem setBridge_heldQ (s : State) (k : Nat) (x : Bridge) : (setBridge s k x).heldQ = s.heldQ := rfl
@[simp] theorem setBridge_replayLog (s : State) (k : Nat) (x : Bridge) : (setBridge s k x).replayLog = s.replayLog := rfl
@[simp] theorem setBridge_sites (s : State) (k : Nat) (x : Bridge) : (setBridge s k x).sites = s.sites := rfl
@[simp] theorem setBridge_signpost (s : State) (k : Nat) (x : Bridge) : (setBridge s k x).signpost = s.signpost := rfl
@[simp] theorem setBridge_home (s : State) (k : Nat) (x : Bridge) : (setBridge s k x).home = s.home := rfl
@[simp] theorem setBridge_hide (s : State) (k : Nat) (x : Bridge) : (setBridge s k x).hide = s.hide := rfl
@[simp] theorem setBridge_hang (s : State) (k : Nat) (x : Bridge) : (setBridge s k x).hang = s.hang := rfl
@[simp] theorem setBridge_power (s : State) (k : Nat) (x : Bridge) : (setBridge s k x).power = s.power := rfl
@[simp] theorem setBridge_boot (s : State) (k : Nat) (x : Bridge) : (setBridge s k x).boot = s.boot := rfl
@[simp] theorem setBridge_record (s : State) (k : Nat) (x : Bridge) : (setBridge s k x).record = s.record := rfl
@[simp] theorem setBridge_qsc (s : State) (k : Nat) (x : Bridge) : (setBridge s k x).qsc = s.qsc := rfl
@[simp] theorem setBridge_traces (s : State) (k : Nat) (x : Bridge) : (setBridge s k x).traces = s.traces := rfl
@[simp] theorem setBridge_mgmt (s : State) (k : Nat) (x : Bridge) : (setBridge s k x).mgmt = s.mgmt := rfl
@[simp] theorem setBridge_fabric (s : State) (k : Nat) (x : Bridge) : (setBridge s k x).fabric = s.fabric := rfl
@[simp] theorem setBridge_endpoint (s : State) (k : Nat) (x : Bridge) : (setBridge s k x).endpoint = s.endpoint := rfl
@[simp] theorem setBridge_bar4Q (s : State) (k : Nat) (x : Bridge) : (setBridge s k x).bar4Q = s.bar4Q := rfl
@[simp] theorem setBridge_late (s : State) (k : Nat) (x : Bridge) : (setBridge s k x).late = s.late := rfl
@[simp] theorem getBridge_setBridge (s : State) (k : Nat) (x : Bridge) : getBridge (setBridge s k x) k = x := look_store_self ..
theorem getBridge_setBridge_of_ne (s : State) (k : Nat) (x : Bridge) {j : Nat} (h : j ≠ k) : getBridge (setBridge s k x) j = getBridge s j :=
  look_store_of_ne _ _ _ h
@[simp] theorem getPage_setBridge (s : State) (k : Nat) (x : Bridge) (j : Nat) : getPage (setBridge s k x) j = getPage s j := rfl
@[simp] theorem getCore_setBridge (s : State) (k : Nat) (x : Bridge) (j : Nat) : getCore (setBridge s k x) j = getCore s j := rfl
@[simp] theorem getCtx_setBridge (s : State) (k : Nat) (x : Bridge) (j : Nat) : getCtx (setBridge s k x) j = getCtx s j := rfl
@[simp] theorem getPart_setBridge (s : State) (k : Nat) (x : Bridge) (j : Nat) : getPart (setBridge s k x) j = getPart s j := rfl
@[simp] theorem getStack_setBridge (s : State) (k : Nat) (x : Bridge) (j : Nat) : getStack (setBridge s k x) j = getStack s j := rfl
@[simp] theorem getRlc_setBridge (s : State) (k : Nat) (x : Bridge) (j : Nat) : getRlc (setBridge s k x) j = getRlc s j := rfl
@[simp] theorem getKerb_setBridge (s : State) (k : Nat) (x : Bridge) (j : Nat) : getKerb (setBridge s k x) j = getKerb s j := rfl
@[simp] theorem getRoute_setBridge (s : State) (k : Nat) (x : Bridge) (j : Nat) : getRoute (setBridge s k x) j = getRoute s j := rfl
@[simp] theorem getPort_setBridge (s : State) (k : Nat) (x : Bridge) (j : Nat) : getPort (setBridge s k x) j = getPort s j := rfl
@[simp] theorem getIx_setBridge (s : State) (k : Nat) (x : Bridge) (j : Nat) : getIx (setBridge s k x) j = getIx s j := rfl
@[simp] theorem getCol_setBridge (s : State) (k : Nat) (x : Bridge) (j : Nat) : getCol (setBridge s k x) j = getCol s j := rfl
@[simp] theorem getSite_setBridge (s : State) (k : Nat) (x : Bridge) (j : Nat) : getSite (setBridge s k x) j = getSite s j := rfl
@[simp] theorem getTrace_setBridge (s : State) (k : Nat) (x : Bridge) (j : Nat) : getTrace (setBridge s k x) j = getTrace s j := rfl

/-! ### setPort -/

@[simp] theorem setPort_ports (s : State) (k : Nat) (x : Port) : (setPort s k x).ports = store s.ports k x := rfl
@[simp] theorem setPort_pending (s : State) (k : Nat) (x : Port) : (setPort s k x).pending = s.pending := rfl
@[simp] theorem setPort_odometer (s : State) (k : Nat) (x : Port) : (setPort s k x).odometer = s.odometer := rfl
@[simp] theorem setPort_fresh (s : State) (k : Nat) (x : Port) : (setPort s k x).fresh = s.fresh := rfl
@[simp] theorem setPort_pages (s : State) (k : Nat) (x : Port) : (setPort s k x).pages = s.pages := rfl
@[simp] theorem setPort_cores (s : State) (k : Nat) (x : Port) : (setPort s k x).cores = s.cores := rfl
@[simp] theorem setPort_ctxs (s : State) (k : Nat) (x : Port) : (setPort s k x).ctxs = s.ctxs := rfl
@[simp] theorem setPort_corePart (s : State) (k : Nat) (x : Port) : (setPort s k x).corePart = s.corePart := rfl
@[simp] theorem setPort_parts (s : State) (k : Nat) (x : Port) : (setPort s k x).parts = s.parts := rfl
@[simp] theorem setPort_hostLog (s : State) (k : Nat) (x : Port) : (setPort s k x).hostLog = s.hostLog := rfl
@[simp] theorem setPort_rdata (s : State) (k : Nat) (x : Port) : (setPort s k x).rdata = s.rdata := rfl
@[simp] theorem setPort_bar4 (s : State) (k : Nat) (x : Port) : (setPort s k x).bar4 = s.bar4 := rfl
@[simp] theorem setPort_hbm (s : State) (k : Nat) (x : Port) : (setPort s k x).hbm = s.hbm := rfl
@[simp] theorem setPort_seals (s : State) (k : Nat) (x : Port) : (setPort s k x).seals = s.seals := rfl
@[simp] theorem setPort_poison (s : State) (k : Nat) (x : Port) : (setPort s k x).poison = s.poison := rfl
@[simp] theorem setPort_fm (s : State) (k : Nat) (x : Port) : (setPort s k x).fm = s.fm := rfl
@[simp] theorem setPort_stacks (s : State) (k : Nat) (x : Port) : (setPort s k x).hbmStacks = s.hbmStacks := rfl
@[simp] theorem setPort_rlcs (s : State) (k : Nat) (x : Port) : (setPort s k x).rlcs = s.rlcs := rfl
@[simp] theorem setPort_kerbs (s : State) (k : Nat) (x : Port) : (setPort s k x).kerbs = s.kerbs := rfl
@[simp] theorem setPort_routes (s : State) (k : Nat) (x : Port) : (setPort s k x).routes = s.routes := rfl
@[simp] theorem setPort_bridges (s : State) (k : Nat) (x : Port) : (setPort s k x).bridges = s.bridges := rfl
@[simp] theorem setPort_time (s : State) (k : Nat) (x : Port) : (setPort s k x).time = s.time := rfl
@[simp] theorem setPort_net (s : State) (k : Nat) (x : Port) : (setPort s k x).net = s.net := rfl
@[simp] theorem setPort_outs (s : State) (k : Nat) (x : Port) : (setPort s k x).outs = s.outs := rfl
@[simp] theorem setPort_nextReq (s : State) (k : Nat) (x : Port) : (setPort s k x).nextReq = s.nextReq := rfl
@[simp] theorem setPort_armSeq (s : State) (k : Nat) (x : Port) : (setPort s k x).armSeq = s.armSeq := rfl
@[simp] theorem setPort_ixs (s : State) (k : Nat) (x : Port) : (setPort s k x).ixs = s.ixs := rfl
@[simp] theorem setPort_cols (s : State) (k : Nat) (x : Port) : (setPort s k x).cols = s.cols := rfl
@[simp] theorem setPort_heldQ (s : State) (k : Nat) (x : Port) : (setPort s k x).heldQ = s.heldQ := rfl
@[simp] theorem setPort_replayLog (s : State) (k : Nat) (x : Port) : (setPort s k x).replayLog = s.replayLog := rfl
@[simp] theorem setPort_sites (s : State) (k : Nat) (x : Port) : (setPort s k x).sites = s.sites := rfl
@[simp] theorem setPort_signpost (s : State) (k : Nat) (x : Port) : (setPort s k x).signpost = s.signpost := rfl
@[simp] theorem setPort_home (s : State) (k : Nat) (x : Port) : (setPort s k x).home = s.home := rfl
@[simp] theorem setPort_hide (s : State) (k : Nat) (x : Port) : (setPort s k x).hide = s.hide := rfl
@[simp] theorem setPort_hang (s : State) (k : Nat) (x : Port) : (setPort s k x).hang = s.hang := rfl
@[simp] theorem setPort_power (s : State) (k : Nat) (x : Port) : (setPort s k x).power = s.power := rfl
@[simp] theorem setPort_boot (s : State) (k : Nat) (x : Port) : (setPort s k x).boot = s.boot := rfl
@[simp] theorem setPort_record (s : State) (k : Nat) (x : Port) : (setPort s k x).record = s.record := rfl
@[simp] theorem setPort_qsc (s : State) (k : Nat) (x : Port) : (setPort s k x).qsc = s.qsc := rfl
@[simp] theorem setPort_traces (s : State) (k : Nat) (x : Port) : (setPort s k x).traces = s.traces := rfl
@[simp] theorem setPort_mgmt (s : State) (k : Nat) (x : Port) : (setPort s k x).mgmt = s.mgmt := rfl
@[simp] theorem setPort_fabric (s : State) (k : Nat) (x : Port) : (setPort s k x).fabric = s.fabric := rfl
@[simp] theorem setPort_endpoint (s : State) (k : Nat) (x : Port) : (setPort s k x).endpoint = s.endpoint := rfl
@[simp] theorem setPort_bar4Q (s : State) (k : Nat) (x : Port) : (setPort s k x).bar4Q = s.bar4Q := rfl
@[simp] theorem setPort_late (s : State) (k : Nat) (x : Port) : (setPort s k x).late = s.late := rfl
@[simp] theorem getPort_setPort (s : State) (k : Nat) (x : Port) : getPort (setPort s k x) k = x := look_store_self ..
theorem getPort_setPort_of_ne (s : State) (k : Nat) (x : Port) {j : Nat} (h : j ≠ k) : getPort (setPort s k x) j = getPort s j :=
  look_store_of_ne _ _ _ h
@[simp] theorem getPage_setPort (s : State) (k : Nat) (x : Port) (j : Nat) : getPage (setPort s k x) j = getPage s j := rfl
@[simp] theorem getCore_setPort (s : State) (k : Nat) (x : Port) (j : Nat) : getCore (setPort s k x) j = getCore s j := rfl
@[simp] theorem getCtx_setPort (s : State) (k : Nat) (x : Port) (j : Nat) : getCtx (setPort s k x) j = getCtx s j := rfl
@[simp] theorem getPart_setPort (s : State) (k : Nat) (x : Port) (j : Nat) : getPart (setPort s k x) j = getPart s j := rfl
@[simp] theorem getStack_setPort (s : State) (k : Nat) (x : Port) (j : Nat) : getStack (setPort s k x) j = getStack s j := rfl
@[simp] theorem getRlc_setPort (s : State) (k : Nat) (x : Port) (j : Nat) : getRlc (setPort s k x) j = getRlc s j := rfl
@[simp] theorem getKerb_setPort (s : State) (k : Nat) (x : Port) (j : Nat) : getKerb (setPort s k x) j = getKerb s j := rfl
@[simp] theorem getRoute_setPort (s : State) (k : Nat) (x : Port) (j : Nat) : getRoute (setPort s k x) j = getRoute s j := rfl
@[simp] theorem getBridge_setPort (s : State) (k : Nat) (x : Port) (j : Nat) : getBridge (setPort s k x) j = getBridge s j := rfl
@[simp] theorem getIx_setPort (s : State) (k : Nat) (x : Port) (j : Nat) : getIx (setPort s k x) j = getIx s j := rfl
@[simp] theorem getCol_setPort (s : State) (k : Nat) (x : Port) (j : Nat) : getCol (setPort s k x) j = getCol s j := rfl
@[simp] theorem getSite_setPort (s : State) (k : Nat) (x : Port) (j : Nat) : getSite (setPort s k x) j = getSite s j := rfl
@[simp] theorem getTrace_setPort (s : State) (k : Nat) (x : Port) (j : Nat) : getTrace (setPort s k x) j = getTrace s j := rfl
theorem modPort_eq (s : State) (k : Nat) (f : Port → Port) : modPort s k f = setPort s k (f (getPort s k)) := rfl

/-! ### setIx -/

@[simp] theorem setIx_ixs (s : State) (d : Nat) (x : Ix) : (setIx s d x).ixs = store s.ixs d x := rfl
@[simp] theorem setIx_pending (s : State) (d : Nat) (x : Ix) : (setIx s d x).pending = s.pending := rfl
@[simp] theorem setIx_odometer (s : State) (d : Nat) (x : Ix) : (setIx s d x).odometer = s.odometer := rfl
@[simp] theorem setIx_fresh (s : State) (d : Nat) (x : Ix) : (setIx s d x).fresh = s.fresh := rfl
@[simp] theorem setIx_pages (s : State) (d : Nat) (x : Ix) : (setIx s d x).pages = s.pages := rfl
@[simp] theorem setIx_cores (s : State) (d : Nat) (x : Ix) : (setIx s d x).cores = s.cores := rfl
@[simp] theorem setIx_ctxs (s : State) (d : Nat) (x : Ix) : (setIx s d x).ctxs = s.ctxs := rfl
@[simp] theorem setIx_corePart (s : State) (d : Nat) (x : Ix) : (setIx s d x).corePart = s.corePart := rfl
@[simp] theorem setIx_parts (s : State) (d : Nat) (x : Ix) : (setIx s d x).parts = s.parts := rfl
@[simp] theorem setIx_hostLog (s : State) (d : Nat) (x : Ix) : (setIx s d x).hostLog = s.hostLog := rfl
@[simp] theorem setIx_rdata (s : State) (d : Nat) (x : Ix) : (setIx s d x).rdata = s.rdata := rfl
@[simp] theorem setIx_bar4 (s : State) (d : Nat) (x : Ix) : (setIx s d x).bar4 = s.bar4 := rfl
@[simp] theorem setIx_hbm (s : State) (d : Nat) (x : Ix) : (setIx s d x).hbm = s.hbm := rfl
@[simp] theorem setIx_seals (s : State) (d : Nat) (x : Ix) : (setIx s d x).seals = s.seals := rfl
@[simp] theorem setIx_poison (s : State) (d : Nat) (x : Ix) : (setIx s d x).poison = s.poison := rfl
@[simp] theorem setIx_fm (s : State) (d : Nat) (x : Ix) : (setIx s d x).fm = s.fm := rfl
@[simp] theorem setIx_stacks (s : State) (d : Nat) (x : Ix) : (setIx s d x).hbmStacks = s.hbmStacks := rfl
@[simp] theorem setIx_rlcs (s : State) (d : Nat) (x : Ix) : (setIx s d x).rlcs = s.rlcs := rfl
@[simp] theorem setIx_kerbs (s : State) (d : Nat) (x : Ix) : (setIx s d x).kerbs = s.kerbs := rfl
@[simp] theorem setIx_routes (s : State) (d : Nat) (x : Ix) : (setIx s d x).routes = s.routes := rfl
@[simp] theorem setIx_bridges (s : State) (d : Nat) (x : Ix) : (setIx s d x).bridges = s.bridges := rfl
@[simp] theorem setIx_ports (s : State) (d : Nat) (x : Ix) : (setIx s d x).ports = s.ports := rfl
@[simp] theorem setIx_time (s : State) (d : Nat) (x : Ix) : (setIx s d x).time = s.time := rfl
@[simp] theorem setIx_net (s : State) (d : Nat) (x : Ix) : (setIx s d x).net = s.net := rfl
@[simp] theorem setIx_outs (s : State) (d : Nat) (x : Ix) : (setIx s d x).outs = s.outs := rfl
@[simp] theorem setIx_nextReq (s : State) (d : Nat) (x : Ix) : (setIx s d x).nextReq = s.nextReq := rfl
@[simp] theorem setIx_armSeq (s : State) (d : Nat) (x : Ix) : (setIx s d x).armSeq = s.armSeq := rfl
@[simp] theorem setIx_cols (s : State) (d : Nat) (x : Ix) : (setIx s d x).cols = s.cols := rfl
@[simp] theorem setIx_heldQ (s : State) (d : Nat) (x : Ix) : (setIx s d x).heldQ = s.heldQ := rfl
@[simp] theorem setIx_replayLog (s : State) (d : Nat) (x : Ix) : (setIx s d x).replayLog = s.replayLog := rfl
@[simp] theorem setIx_sites (s : State) (d : Nat) (x : Ix) : (setIx s d x).sites = s.sites := rfl
@[simp] theorem setIx_signpost (s : State) (d : Nat) (x : Ix) : (setIx s d x).signpost = s.signpost := rfl
@[simp] theorem setIx_home (s : State) (d : Nat) (x : Ix) : (setIx s d x).home = s.home := rfl
@[simp] theorem setIx_hide (s : State) (d : Nat) (x : Ix) : (setIx s d x).hide = s.hide := rfl
@[simp] theorem setIx_hang (s : State) (d : Nat) (x : Ix) : (setIx s d x).hang = s.hang := rfl
@[simp] theorem setIx_power (s : State) (d : Nat) (x : Ix) : (setIx s d x).power = s.power := rfl
@[simp] theorem setIx_boot (s : State) (d : Nat) (x : Ix) : (setIx s d x).boot = s.boot := rfl
@[simp] theorem setIx_record (s : State) (d : Nat) (x : Ix) : (setIx s d x).record = s.record := rfl
@[simp] theorem setIx_qsc (s : State) (d : Nat) (x : Ix) : (setIx s d x).qsc = s.qsc := rfl
@[simp] theorem setIx_traces (s : State) (d : Nat) (x : Ix) : (setIx s d x).traces = s.traces := rfl
@[simp] theorem setIx_mgmt (s : State) (d : Nat) (x : Ix) : (setIx s d x).mgmt = s.mgmt := rfl
@[simp] theorem setIx_fabric (s : State) (d : Nat) (x : Ix) : (setIx s d x).fabric = s.fabric := rfl
@[simp] theorem setIx_endpoint (s : State) (d : Nat) (x : Ix) : (setIx s d x).endpoint = s.endpoint := rfl
@[simp] theorem setIx_bar4Q (s : State) (d : Nat) (x : Ix) : (setIx s d x).bar4Q = s.bar4Q := rfl
@[simp] theorem setIx_late (s : State) (d : Nat) (x : Ix) : (setIx s d x).late = s.late := rfl
@[simp] theorem getIx_setIx (s : State) (d : Nat) (x : Ix) : getIx (setIx s d x) d = x := look_store_self ..
theorem getIx_setIx_of_ne (s : State) (d : Nat) (x : Ix) {j : Nat} (h : j ≠ d) : getIx (setIx s d x) j = getIx s j :=
  look_store_of_ne _ _ _ h
@[simp] theorem getPage_setIx (s : State) (d : Nat) (x : Ix) (j : Nat) : getPage (setIx s d x) j = getPage s j := rfl
@[simp] theorem getCore_setIx (s : State) (d : Nat) (x : Ix) (j : Nat) : getCore (setIx s d x) j = getCore s j := rfl
@[simp] theorem getCtx_setIx (s : State) (d : Nat) (x : Ix) (j : Nat) : getCtx (setIx s d x) j = getCtx s j := rfl
@[simp] theorem getPart_setIx (s : State) (d : Nat) (x : Ix) (j : Nat) : getPart (setIx s d x) j = getPart s j := rfl
@[simp] theorem getStack_setIx (s : State) (d : Nat) (x : Ix) (j : Nat) : getStack (setIx s d x) j = getStack s j := rfl
@[simp] theorem getRlc_setIx (s : State) (d : Nat) (x : Ix) (j : Nat) : getRlc (setIx s d x) j = getRlc s j := rfl
@[simp] theorem getKerb_setIx (s : State) (d : Nat) (x : Ix) (j : Nat) : getKerb (setIx s d x) j = getKerb s j := rfl
@[simp] theorem getRoute_setIx (s : State) (d : Nat) (x : Ix) (j : Nat) : getRoute (setIx s d x) j = getRoute s j := rfl
@[simp] theorem getBridge_setIx (s : State) (d : Nat) (x : Ix) (j : Nat) : getBridge (setIx s d x) j = getBridge s j := rfl
@[simp] theorem getPort_setIx (s : State) (d : Nat) (x : Ix) (j : Nat) : getPort (setIx s d x) j = getPort s j := rfl
@[simp] theorem getCol_setIx (s : State) (d : Nat) (x : Ix) (j : Nat) : getCol (setIx s d x) j = getCol s j := rfl
@[simp] theorem getSite_setIx (s : State) (d : Nat) (x : Ix) (j : Nat) : getSite (setIx s d x) j = getSite s j := rfl
@[simp] theorem getTrace_setIx (s : State) (d : Nat) (x : Ix) (j : Nat) : getTrace (setIx s d x) j = getTrace s j := rfl

/-! ### setCol -/

@[simp] theorem setCol_cols (s : State) (d : Nat) (x : Col) : (setCol s d x).cols = store s.cols d x := rfl
@[simp] theorem setCol_pending (s : State) (d : Nat) (x : Col) : (setCol s d x).pending = s.pending := rfl
@[simp] theorem setCol_odometer (s : State) (d : Nat) (x : Col) : (setCol s d x).odometer = s.odometer := rfl
@[simp] theorem setCol_fresh (s : State) (d : Nat) (x : Col) : (setCol s d x).fresh = s.fresh := rfl
@[simp] theorem setCol_pages (s : State) (d : Nat) (x : Col) : (setCol s d x).pages = s.pages := rfl
@[simp] theorem setCol_cores (s : State) (d : Nat) (x : Col) : (setCol s d x).cores = s.cores := rfl
@[simp] theorem setCol_ctxs (s : State) (d : Nat) (x : Col) : (setCol s d x).ctxs = s.ctxs := rfl
@[simp] theorem setCol_corePart (s : State) (d : Nat) (x : Col) : (setCol s d x).corePart = s.corePart := rfl
@[simp] theorem setCol_parts (s : State) (d : Nat) (x : Col) : (setCol s d x).parts = s.parts := rfl
@[simp] theorem setCol_hostLog (s : State) (d : Nat) (x : Col) : (setCol s d x).hostLog = s.hostLog := rfl
@[simp] theorem setCol_rdata (s : State) (d : Nat) (x : Col) : (setCol s d x).rdata = s.rdata := rfl
@[simp] theorem setCol_bar4 (s : State) (d : Nat) (x : Col) : (setCol s d x).bar4 = s.bar4 := rfl
@[simp] theorem setCol_hbm (s : State) (d : Nat) (x : Col) : (setCol s d x).hbm = s.hbm := rfl
@[simp] theorem setCol_seals (s : State) (d : Nat) (x : Col) : (setCol s d x).seals = s.seals := rfl
@[simp] theorem setCol_poison (s : State) (d : Nat) (x : Col) : (setCol s d x).poison = s.poison := rfl
@[simp] theorem setCol_fm (s : State) (d : Nat) (x : Col) : (setCol s d x).fm = s.fm := rfl
@[simp] theorem setCol_stacks (s : State) (d : Nat) (x : Col) : (setCol s d x).hbmStacks = s.hbmStacks := rfl
@[simp] theorem setCol_rlcs (s : State) (d : Nat) (x : Col) : (setCol s d x).rlcs = s.rlcs := rfl
@[simp] theorem setCol_kerbs (s : State) (d : Nat) (x : Col) : (setCol s d x).kerbs = s.kerbs := rfl
@[simp] theorem setCol_routes (s : State) (d : Nat) (x : Col) : (setCol s d x).routes = s.routes := rfl
@[simp] theorem setCol_bridges (s : State) (d : Nat) (x : Col) : (setCol s d x).bridges = s.bridges := rfl
@[simp] theorem setCol_ports (s : State) (d : Nat) (x : Col) : (setCol s d x).ports = s.ports := rfl
@[simp] theorem setCol_time (s : State) (d : Nat) (x : Col) : (setCol s d x).time = s.time := rfl
@[simp] theorem setCol_net (s : State) (d : Nat) (x : Col) : (setCol s d x).net = s.net := rfl
@[simp] theorem setCol_outs (s : State) (d : Nat) (x : Col) : (setCol s d x).outs = s.outs := rfl
@[simp] theorem setCol_nextReq (s : State) (d : Nat) (x : Col) : (setCol s d x).nextReq = s.nextReq := rfl
@[simp] theorem setCol_armSeq (s : State) (d : Nat) (x : Col) : (setCol s d x).armSeq = s.armSeq := rfl
@[simp] theorem setCol_ixs (s : State) (d : Nat) (x : Col) : (setCol s d x).ixs = s.ixs := rfl
@[simp] theorem setCol_heldQ (s : State) (d : Nat) (x : Col) : (setCol s d x).heldQ = s.heldQ := rfl
@[simp] theorem setCol_replayLog (s : State) (d : Nat) (x : Col) : (setCol s d x).replayLog = s.replayLog := rfl
@[simp] theorem setCol_sites (s : State) (d : Nat) (x : Col) : (setCol s d x).sites = s.sites := rfl
@[simp] theorem setCol_signpost (s : State) (d : Nat) (x : Col) : (setCol s d x).signpost = s.signpost := rfl
@[simp] theorem setCol_home (s : State) (d : Nat) (x : Col) : (setCol s d x).home = s.home := rfl
@[simp] theorem setCol_hide (s : State) (d : Nat) (x : Col) : (setCol s d x).hide = s.hide := rfl
@[simp] theorem setCol_hang (s : State) (d : Nat) (x : Col) : (setCol s d x).hang = s.hang := rfl
@[simp] theorem setCol_power (s : State) (d : Nat) (x : Col) : (setCol s d x).power = s.power := rfl
@[simp] theorem setCol_boot (s : State) (d : Nat) (x : Col) : (setCol s d x).boot = s.boot := rfl
@[simp] theorem setCol_record (s : State) (d : Nat) (x : Col) : (setCol s d x).record = s.record := rfl
@[simp] theorem setCol_qsc (s : State) (d : Nat) (x : Col) : (setCol s d x).qsc = s.qsc := rfl
@[simp] theorem setCol_traces (s : State) (d : Nat) (x : Col) : (setCol s d x).traces = s.traces := rfl
@[simp] theorem setCol_mgmt (s : State) (d : Nat) (x : Col) : (setCol s d x).mgmt = s.mgmt := rfl
@[simp] theorem setCol_fabric (s : State) (d : Nat) (x : Col) : (setCol s d x).fabric = s.fabric := rfl
@[simp] theorem setCol_endpoint (s : State) (d : Nat) (x : Col) : (setCol s d x).endpoint = s.endpoint := rfl
@[simp] theorem setCol_bar4Q (s : State) (d : Nat) (x : Col) : (setCol s d x).bar4Q = s.bar4Q := rfl
@[simp] theorem setCol_late (s : State) (d : Nat) (x : Col) : (setCol s d x).late = s.late := rfl
@[simp] theorem getCol_setCol (s : State) (d : Nat) (x : Col) : getCol (setCol s d x) d = x := look_store_self ..
theorem getCol_setCol_of_ne (s : State) (d : Nat) (x : Col) {j : Nat} (h : j ≠ d) : getCol (setCol s d x) j = getCol s j :=
  look_store_of_ne _ _ _ h
@[simp] theorem getPage_setCol (s : State) (d : Nat) (x : Col) (j : Nat) : getPage (setCol s d x) j = getPage s j := rfl
@[simp] theorem getCore_setCol (s : State) (d : Nat) (x : Col) (j : Nat) : getCore (setCol s d x) j = getCore s j := rfl
@[simp] theorem getCtx_setCol (s : State) (d : Nat) (x : Col) (j : Nat) : getCtx (setCol s d x) j = getCtx s j := rfl
@[simp] theorem getPart_setCol (s : State) (d : Nat) (x : Col) (j : Nat) : getPart (setCol s d x) j = getPart s j := rfl
@[simp] theorem getStack_setCol (s : State) (d : Nat) (x : Col) (j : Nat) : getStack (setCol s d x) j = getStack s j := rfl
@[simp] theorem getRlc_setCol (s : State) (d : Nat) (x : Col) (j : Nat) : getRlc (setCol s d x) j = getRlc s j := rfl
@[simp] theorem getKerb_setCol (s : State) (d : Nat) (x : Col) (j : Nat) : getKerb (setCol s d x) j = getKerb s j := rfl
@[simp] theorem getRoute_setCol (s : State) (d : Nat) (x : Col) (j : Nat) : getRoute (setCol s d x) j = getRoute s j := rfl
@[simp] theorem getBridge_setCol (s : State) (d : Nat) (x : Col) (j : Nat) : getBridge (setCol s d x) j = getBridge s j := rfl
@[simp] theorem getPort_setCol (s : State) (d : Nat) (x : Col) (j : Nat) : getPort (setCol s d x) j = getPort s j := rfl
@[simp] theorem getIx_setCol (s : State) (d : Nat) (x : Col) (j : Nat) : getIx (setCol s d x) j = getIx s j := rfl
@[simp] theorem getSite_setCol (s : State) (d : Nat) (x : Col) (j : Nat) : getSite (setCol s d x) j = getSite s j := rfl
@[simp] theorem getTrace_setCol (s : State) (d : Nat) (x : Col) (j : Nat) : getTrace (setCol s d x) j = getTrace s j := rfl

/-! ### setSite -/

@[simp] theorem setSite_sites (s : State) (n : Nat) (x : Site) : (setSite s n x).sites = store s.sites n x := rfl
@[simp] theorem setSite_pending (s : State) (n : Nat) (x : Site) : (setSite s n x).pending = s.pending := rfl
@[simp] theorem setSite_odometer (s : State) (n : Nat) (x : Site) : (setSite s n x).odometer = s.odometer := rfl
@[simp] theorem setSite_fresh (s : State) (n : Nat) (x : Site) : (setSite s n x).fresh = s.fresh := rfl
@[simp] theorem setSite_pages (s : State) (n : Nat) (x : Site) : (setSite s n x).pages = s.pages := rfl
@[simp] theorem setSite_cores (s : State) (n : Nat) (x : Site) : (setSite s n x).cores = s.cores := rfl
@[simp] theorem setSite_ctxs (s : State) (n : Nat) (x : Site) : (setSite s n x).ctxs = s.ctxs := rfl
@[simp] theorem setSite_corePart (s : State) (n : Nat) (x : Site) : (setSite s n x).corePart = s.corePart := rfl
@[simp] theorem setSite_parts (s : State) (n : Nat) (x : Site) : (setSite s n x).parts = s.parts := rfl
@[simp] theorem setSite_hostLog (s : State) (n : Nat) (x : Site) : (setSite s n x).hostLog = s.hostLog := rfl
@[simp] theorem setSite_rdata (s : State) (n : Nat) (x : Site) : (setSite s n x).rdata = s.rdata := rfl
@[simp] theorem setSite_bar4 (s : State) (n : Nat) (x : Site) : (setSite s n x).bar4 = s.bar4 := rfl
@[simp] theorem setSite_hbm (s : State) (n : Nat) (x : Site) : (setSite s n x).hbm = s.hbm := rfl
@[simp] theorem setSite_seals (s : State) (n : Nat) (x : Site) : (setSite s n x).seals = s.seals := rfl
@[simp] theorem setSite_poison (s : State) (n : Nat) (x : Site) : (setSite s n x).poison = s.poison := rfl
@[simp] theorem setSite_fm (s : State) (n : Nat) (x : Site) : (setSite s n x).fm = s.fm := rfl
@[simp] theorem setSite_stacks (s : State) (n : Nat) (x : Site) : (setSite s n x).hbmStacks = s.hbmStacks := rfl
@[simp] theorem setSite_rlcs (s : State) (n : Nat) (x : Site) : (setSite s n x).rlcs = s.rlcs := rfl
@[simp] theorem setSite_kerbs (s : State) (n : Nat) (x : Site) : (setSite s n x).kerbs = s.kerbs := rfl
@[simp] theorem setSite_routes (s : State) (n : Nat) (x : Site) : (setSite s n x).routes = s.routes := rfl
@[simp] theorem setSite_bridges (s : State) (n : Nat) (x : Site) : (setSite s n x).bridges = s.bridges := rfl
@[simp] theorem setSite_ports (s : State) (n : Nat) (x : Site) : (setSite s n x).ports = s.ports := rfl
@[simp] theorem setSite_time (s : State) (n : Nat) (x : Site) : (setSite s n x).time = s.time := rfl
@[simp] theorem setSite_net (s : State) (n : Nat) (x : Site) : (setSite s n x).net = s.net := rfl
@[simp] theorem setSite_outs (s : State) (n : Nat) (x : Site) : (setSite s n x).outs = s.outs := rfl
@[simp] theorem setSite_nextReq (s : State) (n : Nat) (x : Site) : (setSite s n x).nextReq = s.nextReq := rfl
@[simp] theorem setSite_armSeq (s : State) (n : Nat) (x : Site) : (setSite s n x).armSeq = s.armSeq := rfl
@[simp] theorem setSite_ixs (s : State) (n : Nat) (x : Site) : (setSite s n x).ixs = s.ixs := rfl
@[simp] theorem setSite_cols (s : State) (n : Nat) (x : Site) : (setSite s n x).cols = s.cols := rfl
@[simp] theorem setSite_heldQ (s : State) (n : Nat) (x : Site) : (setSite s n x).heldQ = s.heldQ := rfl
@[simp] theorem setSite_replayLog (s : State) (n : Nat) (x : Site) : (setSite s n x).replayLog = s.replayLog := rfl
@[simp] theorem setSite_signpost (s : State) (n : Nat) (x : Site) : (setSite s n x).signpost = s.signpost := rfl
@[simp] theorem setSite_home (s : State) (n : Nat) (x : Site) : (setSite s n x).home = s.home := rfl
@[simp] theorem setSite_hide (s : State) (n : Nat) (x : Site) : (setSite s n x).hide = s.hide := rfl
@[simp] theorem setSite_hang (s : State) (n : Nat) (x : Site) : (setSite s n x).hang = s.hang := rfl
@[simp] theorem setSite_power (s : State) (n : Nat) (x : Site) : (setSite s n x).power = s.power := rfl
@[simp] theorem setSite_boot (s : State) (n : Nat) (x : Site) : (setSite s n x).boot = s.boot := rfl
@[simp] theorem setSite_record (s : State) (n : Nat) (x : Site) : (setSite s n x).record = s.record := rfl
@[simp] theorem setSite_qsc (s : State) (n : Nat) (x : Site) : (setSite s n x).qsc = s.qsc := rfl
@[simp] theorem setSite_traces (s : State) (n : Nat) (x : Site) : (setSite s n x).traces = s.traces := rfl
@[simp] theorem setSite_mgmt (s : State) (n : Nat) (x : Site) : (setSite s n x).mgmt = s.mgmt := rfl
@[simp] theorem setSite_fabric (s : State) (n : Nat) (x : Site) : (setSite s n x).fabric = s.fabric := rfl
@[simp] theorem setSite_endpoint (s : State) (n : Nat) (x : Site) : (setSite s n x).endpoint = s.endpoint := rfl
@[simp] theorem setSite_bar4Q (s : State) (n : Nat) (x : Site) : (setSite s n x).bar4Q = s.bar4Q := rfl
@[simp] theorem setSite_late (s : State) (n : Nat) (x : Site) : (setSite s n x).late = s.late := rfl
@[simp] theorem getSite_setSite (s : State) (n : Nat) (x : Site) : getSite (setSite s n x) n = x := look_store_self ..
theorem getSite_setSite_of_ne (s : State) (n : Nat) (x : Site) {j : Nat} (h : j ≠ n) : getSite (setSite s n x) j = getSite s j :=
  look_store_of_ne _ _ _ h
@[simp] theorem getPage_setSite (s : State) (n : Nat) (x : Site) (j : Nat) : getPage (setSite s n x) j = getPage s j := rfl
@[simp] theorem getCore_setSite (s : State) (n : Nat) (x : Site) (j : Nat) : getCore (setSite s n x) j = getCore s j := rfl
@[simp] theorem getCtx_setSite (s : State) (n : Nat) (x : Site) (j : Nat) : getCtx (setSite s n x) j = getCtx s j := rfl
@[simp] theorem getPart_setSite (s : State) (n : Nat) (x : Site) (j : Nat) : getPart (setSite s n x) j = getPart s j := rfl
@[simp] theorem getStack_setSite (s : State) (n : Nat) (x : Site) (j : Nat) : getStack (setSite s n x) j = getStack s j := rfl
@[simp] theorem getRlc_setSite (s : State) (n : Nat) (x : Site) (j : Nat) : getRlc (setSite s n x) j = getRlc s j := rfl
@[simp] theorem getKerb_setSite (s : State) (n : Nat) (x : Site) (j : Nat) : getKerb (setSite s n x) j = getKerb s j := rfl
@[simp] theorem getRoute_setSite (s : State) (n : Nat) (x : Site) (j : Nat) : getRoute (setSite s n x) j = getRoute s j := rfl
@[simp] theorem getBridge_setSite (s : State) (n : Nat) (x : Site) (j : Nat) : getBridge (setSite s n x) j = getBridge s j := rfl
@[simp] theorem getPort_setSite (s : State) (n : Nat) (x : Site) (j : Nat) : getPort (setSite s n x) j = getPort s j := rfl
@[simp] theorem getIx_setSite (s : State) (n : Nat) (x : Site) (j : Nat) : getIx (setSite s n x) j = getIx s j := rfl
@[simp] theorem getCol_setSite (s : State) (n : Nat) (x : Site) (j : Nat) : getCol (setSite s n x) j = getCol s j := rfl
@[simp] theorem getTrace_setSite (s : State) (n : Nat) (x : Site) (j : Nat) : getTrace (setSite s n x) j = getTrace s j := rfl
theorem modSite_eq (s : State) (n : Nat) (f : Site → Site) : modSite s n f = setSite s n (f (getSite s n)) := rfl

/-! ### setTrace -/

@[simp] theorem setTrace_traces (s : State) (k : Nat) (x : Trace) : (setTrace s k x).traces = store s.traces k x := rfl
@[simp] theorem setTrace_pending (s : State) (k : Nat) (x : Trace) : (setTrace s k x).pending = s.pending := rfl
@[simp] theorem setTrace_odometer (s : State) (k : Nat) (x : Trace) : (setTrace s k x).odometer = s.odometer := rfl
@[simp] theorem setTrace_fresh (s : State) (k : Nat) (x : Trace) : (setTrace s k x).fresh = s.fresh := rfl
@[simp] theorem setTrace_pages (s : State) (k : Nat) (x : Trace) : (setTrace s k x).pages = s.pages := rfl
@[simp] theorem setTrace_cores (s : State) (k : Nat) (x : Trace) : (setTrace s k x).cores = s.cores := rfl
@[simp] theorem setTrace_ctxs (s : State) (k : Nat) (x : Trace) : (setTrace s k x).ctxs = s.ctxs := rfl
@[simp] theorem setTrace_corePart (s : State) (k : Nat) (x : Trace) : (setTrace s k x).corePart = s.corePart := rfl
@[simp] theorem setTrace_parts (s : State) (k : Nat) (x : Trace) : (setTrace s k x).parts = s.parts := rfl
@[simp] theorem setTrace_hostLog (s : State) (k : Nat) (x : Trace) : (setTrace s k x).hostLog = s.hostLog := rfl
@[simp] theorem setTrace_rdata (s : State) (k : Nat) (x : Trace) : (setTrace s k x).rdata = s.rdata := rfl
@[simp] theorem setTrace_bar4 (s : State) (k : Nat) (x : Trace) : (setTrace s k x).bar4 = s.bar4 := rfl
@[simp] theorem setTrace_hbm (s : State) (k : Nat) (x : Trace) : (setTrace s k x).hbm = s.hbm := rfl
@[simp] theorem setTrace_seals (s : State) (k : Nat) (x : Trace) : (setTrace s k x).seals = s.seals := rfl
@[simp] theorem setTrace_poison (s : State) (k : Nat) (x : Trace) : (setTrace s k x).poison = s.poison := rfl
@[simp] theorem setTrace_fm (s : State) (k : Nat) (x : Trace) : (setTrace s k x).fm = s.fm := rfl
@[simp] theorem setTrace_stacks (s : State) (k : Nat) (x : Trace) : (setTrace s k x).hbmStacks = s.hbmStacks := rfl
@[simp] theorem setTrace_rlcs (s : State) (k : Nat) (x : Trace) : (setTrace s k x).rlcs = s.rlcs := rfl
@[simp] theorem setTrace_kerbs (s : State) (k : Nat) (x : Trace) : (setTrace s k x).kerbs = s.kerbs := rfl
@[simp] theorem setTrace_routes (s : State) (k : Nat) (x : Trace) : (setTrace s k x).routes = s.routes := rfl
@[simp] theorem setTrace_bridges (s : State) (k : Nat) (x : Trace) : (setTrace s k x).bridges = s.bridges := rfl
@[simp] theorem setTrace_ports (s : State) (k : Nat) (x : Trace) : (setTrace s k x).ports = s.ports := rfl
@[simp] theorem setTrace_time (s : State) (k : Nat) (x : Trace) : (setTrace s k x).time = s.time := rfl
@[simp] theorem setTrace_net (s : State) (k : Nat) (x : Trace) : (setTrace s k x).net = s.net := rfl
@[simp] theorem setTrace_outs (s : State) (k : Nat) (x : Trace) : (setTrace s k x).outs = s.outs := rfl
@[simp] theorem setTrace_nextReq (s : State) (k : Nat) (x : Trace) : (setTrace s k x).nextReq = s.nextReq := rfl
@[simp] theorem setTrace_armSeq (s : State) (k : Nat) (x : Trace) : (setTrace s k x).armSeq = s.armSeq := rfl
@[simp] theorem setTrace_ixs (s : State) (k : Nat) (x : Trace) : (setTrace s k x).ixs = s.ixs := rfl
@[simp] theorem setTrace_cols (s : State) (k : Nat) (x : Trace) : (setTrace s k x).cols = s.cols := rfl
@[simp] theorem setTrace_heldQ (s : State) (k : Nat) (x : Trace) : (setTrace s k x).heldQ = s.heldQ := rfl
@[simp] theorem setTrace_replayLog (s : State) (k : Nat) (x : Trace) : (setTrace s k x).replayLog = s.replayLog := rfl
@[simp] theorem setTrace_sites (s : State) (k : Nat) (x : Trace) : (setTrace s k x).sites = s.sites := rfl
@[simp] theorem setTrace_signpost (s : State) (k : Nat) (x : Trace) : (setTrace s k x).signpost = s.signpost := rfl
@[simp] theorem setTrace_home (s : State) (k : Nat) (x : Trace) : (setTrace s k x).home = s.home := rfl
@[simp] theorem setTrace_hide (s : State) (k : Nat) (x : Trace) : (setTrace s k x).hide = s.hide := rfl
@[simp] theorem setTrace_hang (s : State) (k : Nat) (x : Trace) : (setTrace s k x).hang = s.hang := rfl
@[simp] theorem setTrace_power (s : State) (k : Nat) (x : Trace) : (setTrace s k x).power = s.power := rfl
@[simp] theorem setTrace_boot (s : State) (k : Nat) (x : Trace) : (setTrace s k x).boot = s.boot := rfl
@[simp] theorem setTrace_record (s : State) (k : Nat) (x : Trace) : (setTrace s k x).record = s.record := rfl
@[simp] theorem setTrace_qsc (s : State) (k : Nat) (x : Trace) : (setTrace s k x).qsc = s.qsc := rfl
@[simp] theorem setTrace_mgmt (s : State) (k : Nat) (x : Trace) : (setTrace s k x).mgmt = s.mgmt := rfl
@[simp] theorem setTrace_fabric (s : State) (k : Nat) (x : Trace) : (setTrace s k x).fabric = s.fabric := rfl
@[simp] theorem setTrace_endpoint (s : State) (k : Nat) (x : Trace) : (setTrace s k x).endpoint = s.endpoint := rfl
@[simp] theorem setTrace_bar4Q (s : State) (k : Nat) (x : Trace) : (setTrace s k x).bar4Q = s.bar4Q := rfl
@[simp] theorem setTrace_late (s : State) (k : Nat) (x : Trace) : (setTrace s k x).late = s.late := rfl
@[simp] theorem getTrace_setTrace (s : State) (k : Nat) (x : Trace) : getTrace (setTrace s k x) k = x := look_store_self ..
theorem getTrace_setTrace_of_ne (s : State) (k : Nat) (x : Trace) {j : Nat} (h : j ≠ k) : getTrace (setTrace s k x) j = getTrace s j :=
  look_store_of_ne _ _ _ h
@[simp] theorem getPage_setTrace (s : State) (k : Nat) (x : Trace) (j : Nat) : getPage (setTrace s k x) j = getPage s j := rfl
@[simp] theorem getCore_setTrace (s : State) (k : Nat) (x : Trace) (j : Nat) : getCore (setTrace s k x) j = getCore s j := rfl
@[simp] theorem getCtx_setTrace (s : State) (k : Nat) (x : Trace) (j : Nat) : getCtx (setTrace s k x) j = getCtx s j := rfl
@[simp] theorem getPart_setTrace (s : State) (k : Nat) (x : Trace) (j : Nat) : getPart (setTrace s k x) j = getPart s j := rfl
@[simp] theorem getStack_setTrace (s : State) (k : Nat) (x : Trace) (j : Nat) : getStack (setTrace s k x) j = getStack s j := rfl
@[simp] theorem getRlc_setTrace (s : State) (k : Nat) (x : Trace) (j : Nat) : getRlc (setTrace s k x) j = getRlc s j := rfl
@[simp] theorem getKerb_setTrace (s : State) (k : Nat) (x : Trace) (j : Nat) : getKerb (setTrace s k x) j = getKerb s j := rfl
@[simp] theorem getRoute_setTrace (s : State) (k : Nat) (x : Trace) (j : Nat) : getRoute (setTrace s k x) j = getRoute s j := rfl
@[simp] theorem getBridge_setTrace (s : State) (k : Nat) (x : Trace) (j : Nat) : getBridge (setTrace s k x) j = getBridge s j := rfl
@[simp] theorem getPort_setTrace (s : State) (k : Nat) (x : Trace) (j : Nat) : getPort (setTrace s k x) j = getPort s j := rfl
@[simp] theorem getIx_setTrace (s : State) (k : Nat) (x : Trace) (j : Nat) : getIx (setTrace s k x) j = getIx s j := rfl
@[simp] theorem getCol_setTrace (s : State) (k : Nat) (x : Trace) (j : Nat) : getCol (setTrace s k x) j = getCol s j := rfl
@[simp] theorem getSite_setTrace (s : State) (k : Nat) (x : Trace) (j : Nat) : getSite (setTrace s k x) j = getSite s j := rfl

end Sys2Proof.Machine
end

