-- ==== Sys2Proof/WellFormed.lean ====
section
/-!
DEFINITION. Which terms of Instr are commands that the outside world or the silicon can produce: the bounds that the spec gives
their operands beyond their types.
-/
namespace Sys2Proof

/-- A site identifier of R16: column 0 to 39, row 0 to 29, reserved bits 0. -/
def siteWf (site : BitVec 16) : Bool :=
  decide ((site.toNat / 256) % 64 < 40) && decide (site.toNat % 32 < 30) && decide ((site.toNat / 32) % 8 = 0)

/-- An access of 1, 2, 4 or 8 bytes (R30; PCI Express writes of up to two words). -/
def sizeWf (n : Nat) : Bool := n == 1 || n == 2 || n == 4 || n == 8

/-- The bridge to the hub has 4 slices, the others 20 (Table 75). -/
def slicesOf (bridge : Fin 3) : Nat := if bridge.val = 2 then 4 else 20

/-- A test outcome: groups of the 16 lane groups and 8 column groups (R76, R100). -/
def siteTestWf (t : SiteTest) : Bool :=
  decide (t.site < 65536) && siteWf (BitVec.ofNat 16 t.site) && t.lrGroups.all (fun g => decide (g < 16)) &&
    t.opGroups.all (fun g => decide (g < 8))

/-- The well-formed commands. -/
def Instr.wf (i : Instr) : Bool :=
  match i with
  | .registerWrite _ _ size _ => sizeWf size
  | .lowWordRead _ r => sizeWf r.size && (!r.bar2 || decide (r.off.toNat < 2 ^ 24))
  | .katDone site _ => siteWf site
  | .fault24hExpiry site => siteWf site
  | .linkChange up flit rate width _ =>
    !up || (flit && (rate == 128 || rate == 64 || rate == 32) && (width == 16 || width == 8 || width == 4))
  | .linkFlitReceive _ f => f.units.length == 10
  | .bridgeFlitReceive _ bridge slice _ => decide (slice.val < slicesOf bridge)
  | .bridgeTestDone _ bridge data spare =>
    data.length == slicesOf bridge && spare.length == slicesOf bridge && data.all (fun n => decide (n ≤ 144)) &&
      spare.all (fun m => decide (m < 16))
  | .identityCheck straps fuses steppings _ => straps.length == 4 && fuses.length == 5 && steppings.length == 5
  | .powerMeasure _ _ _ _ dies => dies.length == 4
  | .grantAllocate unit => unit.length == 4
  | .sensorRead junction hub hbmStacks => junction.length == 256 && hub.length == 16 && hbmStacks.length == 12
  | .sensorCheck junction hbmStacks => junction.all (fun k => decide (k < 272)) && hbmStacks.all (fun k => decide (k < 12))
  | .bringupTestDone results => results.all siteTestWf
  | .corePoll die silent => silent.all (fun c => c.val / 1024 == die.val)
  | .channelAccess _ off write _ => off.toNat % 32 == 0 && (match write with | some l => l.length == 32 | none => true)
  | _ => true

end Sys2Proof
end

