-- ==== Sys2Proof/Tests/Slice0.lean ====
section
/-!
SUPPORT. Tests: each check of Instr.wf refuses an ill-formed term, small steps with results worked out from the spec's rules, and for
every statement of Certificates/Slice0/Obligations.lean one theorem that its hypotheses are met, clause by clause, at concrete states
and operands (meets_<statement>).
-/
open Sys2Proof Sys2Proof.Machine
set_option maxRecDepth 20000
-- One theorem after another: elaborated side by side, each `decide +kernel` holds a thread of its own while it waits for the kernel.
set_option Elab.async false

namespace Sys2Proof.Tests

theorem ok_of {α β : Type} {b : β} {x : Except α β} (h : x.toOption = some b) : x = .ok b := by
  cases x with
  | error e => simp [Except.toOption] at h
  | ok a => simp [Except.toOption] at h; rw [h]

/-- The state an outcome answers; the reset state where it answers none. -/
def nx (r : Host.Outcome State Fault Refusal) : State := match r with | .next t => t | _ => State.reset
/-- The outcome is a next state. -/
def isNext (r : Host.Outcome State Fault Refusal) : Bool := match r with | .next _ => true | _ => false
theorem next_of {r : Host.Outcome State Fault Refusal} (h : isNext r = true) : r = .next (nx r) := by
  cases r with
  | next t => rfl
  | fault f => exact absurd h Bool.false_ne_true
  | refused f => exact absurd h Bool.false_ne_true

/-! ### Ill-formed commands (WellFormed.lean) -/

/-- Three bytes is no access size (R30). -/
theorem test_wf_size : (Instr.registerWrite 0 0 3 0).wf = false ∧ (Instr.registerWrite 0 0 4 0).wf = true := by decide
/-- Column 40 and row 30 are no sites, and bits 7:5 are reserved (R16). -/
theorem test_wf_site : (Instr.katDone 10240 .pass).wf = false ∧ (Instr.fault24hExpiry 30).wf = false ∧
    (Instr.fault24hExpiry 32).wf = false ∧ (Instr.fault24hExpiry 10013).wf = true := by decide
/-- A link runs at rate 128, 64 or 32 and at width 16, 8 or 4. -/
theorem test_wf_link : (Instr.linkChange true true 16 16 0).wf = false ∧ (Instr.linkChange true true 64 2 0).wf = false := by decide
/-- A FLIT has 10 units; the hub's bridge has 4 slices, the others 20, and a test answers once for each slice. -/
def flitShort : Flit :=
  { seq := 0, ack := 0, nak := false, sync := false, ident := none, widthChg := false, laneReq := 0, creditHalf := 0, credit := 0,
    crcOk := true, msgs := [], units := [] }
theorem test_wf_flit : (Instr.linkFlitReceive 3 flitShort).wf = false ∧
    (Instr.linkFlitReceive 3 { flitShort with units := List.replicate 10 0 }).wf = true := by decide
theorem test_wf_bridge : (Instr.bridgeFlitReceive 0 2 4 true).wf = false ∧ (Instr.bridgeFlitReceive 0 1 19 true).wf = true ∧
    (Instr.bridgeTestDone 0 2 [0, 0, 0] [0, 0, 0, 0]).wf = false ∧ (Instr.bridgeTestDone 0 2 [0, 0, 0, 145] [0, 0, 0, 0]).wf = false ∧
    (Instr.bridgeTestDone 0 2 [0, 0, 0, 144] [0, 0, 0, 16]).wf = false := by decide
/-- Four straps, dies and unit grants; 256 core junctions, 16 of the hub and 12 HBM stacks. -/
theorem test_wf_counts : (Instr.identityCheck [0, 0, 0] [] [0, 0, 0, 0, 0] 0).wf = false ∧ (Instr.powerMeasure 0 0 0 0 [1, 2, 3]).wf = false ∧
    (Instr.grantAllocate [1, 2, 3, 4, 5]).wf = false ∧ (Instr.sensorRead [] [] []).wf = false ∧
    (Instr.sensorCheck [272] []).wf = false ∧ (Instr.sensorCheck [] [12]).wf = false ∧ (Instr.sensorCheck [271] [11]).wf = true := by decide
/-- 16 lane groups at a site; a poll of a die names its own cores; a channel access is 32 bytes, aligned. -/
theorem test_wf_ranges : (Instr.bringupTestDone [⟨0, [16], [], false⟩]).wf = false ∧ (Instr.bringupTestDone [⟨0, [], [8], false⟩]).wf = false ∧
    (Instr.corePoll 1 [1023]).wf = false ∧ (Instr.corePoll 1 [1024]).wf = true ∧ (Instr.channelAccess 0 16 none .good).wf = false ∧
    (Instr.channelAccess 0 32 (some [0]) .good).wf = false := by decide

/-! ### Small helpers for what ranges over every number -/

theorem look_other {α : Type} {a : Nat} {v d : α} {k : Nat} (h : k ≠ a) : look [(a, v)] k d = d := if_neg (Ne.symm h)

/-! ### States and operands -/

/-- The module READY and in RUN, after a second. -/
def base : State :=
  { odometer := 1000000000,
    power := { state := .on, vIn := 4000, perst := false, comps := [(7, { en := true, wake := true, arg := 1, owner := some (0, 3) })] },
    boot := { phase := 6, ready := true, accepted := true, bridgesDone := List.range 12, zeroDone := true, startDone := true, testDone := true },
    hbmStacks := (List.range 12).map (fun k => (k, { state := 1 })) }
/-- The 64 bytes of a post: opcode and fields (offset, bytes, value). -/
def post (op : Nat) (l : List (Nat × Nat × Nat)) : Post :=
  { data := loadBytes (l.foldl (fun m e => put m e.1 e.2.1 e.2.2) (put [] 2 1 op)) 0 64 }
/-- Page `pg` changed. -/
def onPage (pg : Nat) (f : Page → Page) : State := modPage base pg f
def dormant : State := { base with power := { base.power with state := .dormant } }
def dozing : State := { base with power := { base.power with state := .doze } }
def withRegs (s : State) (pg : Nat) (l : List (Nat × Nat)) : State := l.foldl (fun s e => setReg s pg e.1 e.2) s
def sFm : State := withRegs base fmPage [(0x108, 5), (0x10C, 1)]
def fmBusy (op : Nat) (old : Nat) : State :=
  { base with fm := { entries := if old = 0 then [(6, 1)] else [(5, old), (6, 1)],
                      op := some { op := op, zero := false, frame := 5, entry := 1, start := 0 } } }
def sPoisonQ (n : Nat) (i : Nat) : State := { base with fm := { entries := [(5, 1)], poisonQ := [(5, i), (6, 0)], log := List.replicate n 9 } }
def sRlc : State := { withRegs base (pgRlc 1) [(0x040, 256), (0x044, 0), (0x048, 2)] with rlcs := [(1, { lines := [{ line := 2, bytes := [] }, { line := 9, bytes := [] }] })] }
def sRlcFlush : State := { base with rlcs := [(1, { lines := [{ line := 9, bytes := [] }], flush := some { lo := 0, hi := 4 } })] }
def rtBusy (op : Nat) (hold : Bool) (data : Nat) : State :=
  { base with routes := [(2, { bank0 := [(7, 1), (9, 1)], bank1 := [(8, 2)], hold := hold, op := some { op := op, index := 7, bank := false, data := data } })] }
def sHolds : State := { base with routes := (List.range 4).map (fun d => (d, { hold := true })) }
def sPlanBusy : State := withRegs base (pgPort 0) [(0x10C, 2 ^ 31)]
def sLc (st : Nat) (busy : Bool) : State := { base with record := { lcState := st }, qsc := { busy := busy } }
/-- Frames 0 to 31 are VALID for partition 0, at consecutive frames of PACKAGE space. -/
def frames (s : State) : State := { s with fm := { s.fm with entries := (List.range 32).map (fun f => (f, 5 + 65536 * (2816 + f))) } }
/-- Context 3 changed. -/
def onCtx (s : State) (f : Ctx → Ctx) : State := modCtx s 3 f
/-- Context 3 with one post in its queue. -/
def queued (s : State) (q : Post) : State := onCtx s (fun x => { x with posts := [q] })
def area0 : Area := { addr := 0x10000, log2 := 6, vec := [0, 1, 2, 3] }
/-- Context 3 holds core 7. -/
def resident (s : State) (st : CState) : State :=
  { onCtx s (fun x => { x with state := st, cores := [7], area := 0 }) with cores := [(7, { ctx := some 3 })] }
def bytesAt (s : State) (addr : Nat) (l : List Byte) : State := (writeRange s 0 addr l).1
/-- Operation words of an exchange: 1 rank, roster 0, LIMIT 1; its peer list names this chip, die 1, context 3. -/
def ixWords : List Nat := [0, 0, 5, 1, 0, 1, 7, 0, 7, 7, 7, 0, 0, 0, 0, 0] ++ List.replicate 16 0
def words (l : List Nat) : List Byte := l.flatMap (fun v => leBytes 4 v)
def sArm (q : Post) (w : List Nat) : State :=
  queued (bytesAt (bytesAt (resident (frames base) .running) 0 (words w)) 0x100 (words [3 * 65536 + 2 ^ 24])) q
def ixW : List Nat := (ixWords.set 16 0x100)
/-- Operation words of a collective: BARRIER (kind 6) of one rank, LIMIT 1. -/
def colW : List Nat := [6, 0, 5, 0, 1, 7, 0, 7, 0, 0, 0x100] ++ List.replicate 21 0
def ixArmPost : Post := post 18 [(16, 1, 1), (17, 1, 15)]
def colArmPost : Post := post 20 [(16, 1, 1), (17, 1, 15)]
def partSetPost : Post := post 32 [(16, 1, 15), (18, 2, 250), (20, 2, 6), (24, 5, 0)]
def sBits : State := queued (bytesAt (frames base) 0 [0x81]) partSetPost
/-- Before LOAD_WAIT ends: no image accepted, and a sound header of 64 KiB in the load buffer. -/
def loading (phase : Nat) : State :=
  { base with boot := { base.boot with phase := phase, ready := false, accepted := false, testDone := false, buffer := put (put [] 0 4 1) 4 4 65536 } }
def sAttest : State := { frames base with qsc := { attests := [{ ctx := 3, ref := { seq := 0, cookie := 0, quiet := false }, report := 0x100, nonce := List.replicate 32 1 }] } }
def foreign (q : Post) : State := onCtx base (fun x => { x with part := 2, posts := [q] })
def note0 : Notice := { typ := 4, code := 1 }
def sNotice : State := { base with parts := [(2, { area := some area0, queue := [note0], index := 63 })] }
def sVec (b : BitVec 8) : State := { base with parts := [(2, { vecPend := b })] }
def createPost : Post := post 8 [(16, 5, 0)]
def sCreate : State :=
  queued { base with
    fm := { entries := (List.range 32).map (fun f => (f, 5 + 65536 * (2816 + f))) }
    hbm := [(68720437760, 1), (68720437761, 3), (68720437764, 1), (68720437784, 241), (68720437785, 92), (68720437786, 117),
      (68720437787, 37), (274878867968, 7)]
    seals := [(4295027360, some 0), (4295027361, some 0), (17179929248, some 16)] } createPost
def runPost : Post := post 9 []
/-- Context 3 IDLE with core 0, and at address 0 a complete image of it: a host-built header and an empty core record. -/
def image0 : State :=
  let s := { base with fm := { entries := (List.range 32).map (fun f => (f, 5 + 65536 * (2816 + f))) } }
  let h := put (put (put [] 0 4 (1 + 3 * 256)) 4 4 1) 0x2000 2 0
  let h := put h 0x18 4 (headerCrc h).toNat
  let s := bytesAt (bytesAt s 0 (loadBytes h 0 32)) 0x10000 (leBytes 4 0 ++ leBytes 4 (crcSparse 0xFFFFFFFF [] 0x40 0x7C0 ^^^ 0xFFFFFFFF#32).toNat)
  onCtx s (fun x => { x with state := .idle, cores := [0], area := 0, posts := [runPost] })
/-- An instruction word (R149): engine, opcode, and further fields by their lowest bit. -/
def ins (eng op : Nat) (l : List (Nat × Nat)) : Nat :=
  eng * 2 ^ 124 + op * 2 ^ 120 + 63 * 2 ^ 84 + (l.map (fun e => e.1 * 2 ^ e.2)).sum
/-- Core 7, running context 3, changed. -/
def running (f : Core → Core) : State := modCore (resident base .running) 7 (fun x => f { x with runState := 1, grant := 64 })
/-- The instruction stands at address 0, fetched; `st` is the STATE of the restored window entry that names it, or 0. -/
def fetched (st : Nat) (i : Nat) : State :=
  running (fun x => { x with lines := [{ line := 0, bytes := put [] 0 16 i }], resume := if st = 0 then [] else [(0, st, 0)] })
def line0 (i : Nat) : Line := { line := 0, bytes := put [] 0 16 i }
/-- As `fetched`, behind an unresolved BRANCH. -/
def behindBranch (i : Nat) : State :=
  modCore (fetched 0 i) 7 (fun x => { x with window := [{ id := 0, addr := 0, ins := ins 0 4 [(1, 8), (1, 96)] }], nextId := 1 })
def faulted0 : State := running (fun x => { x with lines := [{ line := 0, fault := 5 }] })
/-- As `running`, with the frames of partition 0 mapped. -/
def runningM (f : Core → Core) : State := modCore (resident (frames base) .running) 7 (fun x => f { x with runState := 1, grant := 64 })
/-- Window entry `id`, not started. -/
def went (id i : Nat) : WEnt := { id := id, addr := 16 * id, ins := i }
def inWindow (l : List WEnt) : State := runningM (fun x => { x with window := l, nextId := l.length })
/-- Entry `e` runs in LR of core 7, with `lr` in progress. -/
def inLr (e : WEnt) (lr : LrRun) (f : Core → Core) : State :=
  runningM (fun x => f { x with window := [e], nextId := 1, lr := { lr with ent := some 0 } })
/-- One token of one pass: M 1, N 1, K 16, W at 64 × 1, X at 64 × 2, Y at 64 × 3. -/
def lrTd : List Nat := [2 ^ 16, 0, 1, 2, 3, 0, 0, 3]
def streamTd : List Nat := [2 ^ 16, 0, 1, 2, 3, 0, 0, 4 + 3 + 0x500 + 2 ^ 16]
def lrBank : Bank := { ent := 0, a := 0, b := 0, bytes := [] }
def opTd : List Nat := [0, 0, 1, 2, 3, 0, 0, 3]
/-- A started entry. -/
def wrun (i : Nat) (td : List Nat) (run : Nat) : WEnt := { id := 0, addr := 0, ins := i, td := td, st := 1, run := run, sat := true }
def saving (s : State) : State := onCtx s (fun x => { x with state := .saving })
/-- Context 3 holds junction 15, running; entries `l` in its window and `op` in progress. -/
def atJunction (l : List WEnt) (op : OpRun) (f : Core → Core) : State :=
  modCore { onCtx (frames base) (fun x => { x with state := .running, cores := [15], area := 0 }) with cores := [(15, { ctx := some 3 })] } 15
    (fun x => f { x with runState := 1, grant := 64, window := l, nextId := 1, op := { op with ent := some 0 } })
/-- GET or PUT of one run of 16 bytes between address 0 and tile store byte 0; and a convolution view whose first run is padding. -/
def moveTd : List Nat := List.replicate 16 0
def padTd : List Nat := [1, 0, 0, 0, 1 + 2 ^ 16, 2 + 2 ^ 16, 1 + 16 + 256 + 4096 + 2 ^ 24] ++ List.replicate 9 0
def accTd : List Nat := [2 * 4096, 9 + 4096 * 8, 1] ++ List.replicate 13 0
/-- A DM request in slot 0, with `dm` its entry in the window. -/
def inDm (r : DmReq) : State :=
  runningM (fun x => { x with window := [{ wrun (ins 4 r.kind []) moveTd 0 with run := 16 }], nextId := 1, reqs := [(0, some r)] })
def dmReq (kind : Nat) : DmReq := { ent := 0, kind := kind, pieces := [{ src := 0, dst := 0, len := 16 }] }
def inDmBad (r : DmReq) : State :=
  modCore (resident base .running) 7 (fun x => { x with runState := 1, window := [{ wrun (ins 4 r.kind []) moveTd 0 with run := 16 }], nextId := 1, reqs := [(0, some r)] })
/-- As `inDm`, but the instruction has more of its run to request. -/
def inDmMore (r : DmReq) : State :=
  runningM (fun x => { x with window := [wrun (ins 4 r.kind []) moveTd 0], nextId := 1, reqs := [(0, some r)] })
def imsg (b : Body) : Msg :=
  { srcChip := 0, dstChip := 0, dstDie := 0, cw := 0, resp := false, mark := false, req := 0, code := 0, job := 0, body := b }
/-- Context 3 runs on cores 7 and 9, with one message on its way. -/
def twoCores (f7 f9 : Core → Core) (l : List Msg) : State :=
  let s := { onCtx (frames base) (fun x => { x with state := .running, cores := [7, 9], area := 0 }) with
    cores := [(7, { ctx := some 3, runState := 1 }), (9, { ctx := some 3, runState := 1 })], net := l }
  modCore (modCore s 7 f7) 9 f9
def idleCtx (s : State) : State := onCtx s (fun x => { x with state := .idle })
def off (s : State) : State := { s with power := { s.power with state := .doze } }
def msTd (l : List Nat) : List Nat := l ++ List.replicate (8 - l.length) 0
def inMs (e : WEnt) : State := twoCores (fun x => { x with window := [e], nextId := 1 }) id []
def mwent (op : Nat) (more : List (Nat × Nat)) (td : List Nat) : WEnt := { went 0 (ins 5 op more) with td := msTd td }
/-- Context 3, RUNNING on no core but named 0, being saved. -/
def savingCtx (v : Saving) (s : State) (f : Ctx → Ctx) : State :=
  onCtx s (fun x => f { x with state := .saving, cores := [7], saving := some v, area := 0 })
def ref0 : PostRef := { seq := 1, cookie := 2, quiet := false }
/-- A kerbside descriptor's words: operation and bits of word 0, trigger word, trigger value, elements, row word, rows, addresses. -/
def kDesc (w0 trig val count row rows : Nat) (a : List Nat) : List Nat :=
  [w0, trig, val, 7 + 4096 * 3, count, row, rows, 0] ++ a ++ List.replicate (24 - a.length) 0
def addDesc : List Nat := kDesc (2 + 32) 0 0 4 0 0 [0, 0, 0x18000, 0, 0, 0, 0, 0, 0, 0, 0x100, 0]
def trigDesc : List Nat := kDesc (2 + 32) (7 + 4096 * 5 + 2 ^ 18) 1 4 0 0 [0, 0, 0x18000, 0, 0, 0, 0, 0, 0, 0, 0x100, 0]
def gatherDesc : List Nat := kDesc (8 + 32 + 9 * 65536) 0 0 1 0 1 [0, 0, 0x400, 0, 0x200, 0, 0, 0, 0, 0, 0x1000, 0]
/-- Context 3 runs on core 7 with a list of one descriptor at 0x800 in slot 1; `p` where channel `ch` stands. -/
def inList (w : List Nat) (ch : Nat) (p : KPos) : State :=
  onCtx (bytesAt (runningM id) 0x800 (words w)) (fun x => { x with
    lists := [(1, { armed := true, addr := 0x800, count := 1, seq := 5, pos := [(ch, p)] })] })
/-- Port 3 as `x`. -/
def onPort (x : Port) (s : State) : State := setPort s 3 x
/-- Identity assigned (chip 0), the plan of port 3 in use: its neighbour is chip 1 at port 2. -/
def planned (s : State) : State := withRegs (withRegs s (pgPort 0) [(0x100, 2 ^ 16), (0x104, 77)]) (pgPort 3) [(0x044, 2 ^ 31 + 2 * 65536 + 1)]
def id1 : Ident := { chip := 1, port := 2, assigned := true, digest := 77, stepping := 0 }
def flit0 : Flit :=
  { seq := 0, ack := 0xFFFF, nak := false, sync := false, ident := none, widthChg := false, laneReq := 0xFF, creditHalf := 0, credit := 0,
    crcOk := true, msgs := [], units := [0, 0, 0, 0, 0, 0, 0, 0, 0, 0] }
def msgTo (chip : Nat) : Msg := { imsg (.remoteAddAck 7 9) with srcChip := 9, dstChip := chip }
def outReq (t : Nat) : OutReq := { req := 5, die := 0, sentAt := t, msg := imsg (.remoteAdd 7 1 2 3 4) }
/-- The time port is port 3, ACTIVE. -/
def timed (root : Nat) : State :=
  onPort { tstate := 5, light := true } (withRegs (planned base) (pgPort 0) [(0x108, 2 ^ 13 + 3 * 256 + root)])
/-- Operation words of an exchange of two ranks: this chip's dies 0 and 1, one expert each, one route at 0x100. -/
def ex2 : List Nat :=
  [5 + 65536, 2 ^ 24, 0, 1, 3, 1 + 65536, 7, 0, 7, 7, 7, 7, 0, 0, 0, 0, 0, 0, 0x100, 0, 0x200, 0, 0x1000, 0, 0x2000, 0, 0x3000, 0, 0, 0, 0, 0]
def peers2 : List Nat := [3 * 65536, 3 * 65536 + 2 ^ 24]
/-- Slot 2 of the interchange of die 0 as `x`, context 3 running on core 7, and messages on their way. -/
def inIx (x : IxSlot) (i : Ix) (l : List Msg) : State :=
  { runningM id with
    ixs := [(0, { i with slots := [(2, { x with armed := true, ctx := 3, words := ex2, peers := peers2, flowBase := 0 })] })], net := l }
def ixm (typ arg part : Nat) (payload : List Byte) : IxMsg :=
  { typ := typ, part := part, tag := 5, round := 0, srcRank := 1, ctx := 3, arg := arg, payload := payload }
def ixMsg (b : IxMsg) : Msg := imsg (.ix b)
/-- Operation words of a collective of two ranks: kind, own rank, root. -/
def col2 (kind me root : Nat) : List Nat :=
  [kind, 1 + me * 65536, 5 + root * 65536, 2, 1 + 65536, 7, 0, 7, 7, 0, 0, 0, 0x200, 0, 0x1000, 0, 0, 0, 0x100, 0, 0, 0, 0, 0, 0, 0, 0, 0, 0, 0, 0, 0]
/-- Slot 2 of the collective controller of die 0 as `x`, context 3 running on core 7, and messages on their way. -/
def inCol (w : List Nat) (x : ColSlot) (i : Col) (l : List Msg) : State :=
  { runningM id with
    cols := [(0, { i with slots := [(2, { x with armed := true, ctx := 3, words := w, peers := peers2 })] })], net := l }
def colm (typ src : Nat) (arg : Nat) (payload : List Byte) : ColMsg :=
  { typ := typ, tag := 5, round := 0, srcRank := src, ctx := 3, step := 0, offset := 0, crc := crc32c payload, arg := arg,
    payload := payload, ext := [] }
def colMsg (b : ColMsg) : Msg := imsg (.col b)
/-- Long after the start. -/
def late (s : State) : State := { s with odometer := 10 ^ 15 }
/-- One domain in reset since `t`. -/
def inRst (d : Domain) (t : Nat) (half test : Bool) : State := { base with hang := { resets := [{ dom := d, start := t, half := half, test := test }] } }
def moving7 (why : Nat) : State :=
  modPage { base with hide := { moves := [{ core := 7, src := 7, dst := 8708, why := why, start := 0 }] } } (pgCore 7) (fun p => { p with moving := true })
/-- Site 8708 (a spare) is under test, its role `r`. -/
def tested (r : Nat) : State :=
  let s := late base
  { modSite s 8708 (fun x => { x with testing := true, role := r, faults := [5] }) with hide := { tests := [{ site := 8708, why := 0, core := 0, start := 0 }] } }
def shadowRun : ShadowRun := { core := 7, ctx := 3, pass := 1, crc := 5, ended := true, site0 := 7, site1 := 8708 }
def shadowed (r : ShadowRun) : State := let s := running id; { s with hide := { shadows := [r] } }
def mboxed (q : Post) : State := { base with mgmt := { req := q.data, busy := true, busyAt := 5 } }
def powered (f : Power → Power) : State := { base with power := f base.power }
def booting (f : Boot → Boot) : State := { base with boot := f { base.boot with ready := false } }
def c6_hm : SMap Byte := [(0, 1), (1, 3), (4, 1), (24, 241), (25, 92), (26, 117), (27, 37), (8192, 7)]
def d2_tdl : WEnt := { went 0 (ins 0 5 [(3,8)]) with st := 1 }
def d4_opTwo : WEnt := { wrun (ins 2 1 []) opTd 0 with id := 1 }
def e2_aMsg := imsg (.acc 7 9 2 4 (List.replicate 64 1) 0 none 0)
def e2_oMsg := imsg (.accOrd 7 9 1 0 0 1 (List.replicate 64 1) 0)
def e2_slot1 (x : Core) : Core := { x with slots := [(1, { isOpen := true, w0 := 3 + 4096 + 2 ^ 24, w1 := 5 + 2 * 2 ^ 16 })] }
def e2_oMsg2 := imsg (.accOrd 7 9 1 2 0 1 (List.replicate 64 1) 0)
def e2_kMsg := imsg (.accAck 7 9 0)
def e2_inAcc (x : Core) : Core := { x with window := [{ wrun (ins 4 2 []) accTd 0 with run := 2 }], nextId := 1, reqs := [(0, some (dmReq 2))] }
def e2_tw := mwent 4 [(1, 96), (3, 32), (8, 90)] [0, 0, 0, 5, 4]
def e2_addM := imsg (.localAdd 7 9 4 3)
def e2_bar (x : Core) : Core := { x with miles := [(4, { barrier := true, gen := 2, value := 0x30001, relMs := 6 })] }
def e2_addA := imsg (.localAck 7 9)
def e2_sentAdd : WEnt := { mwent 1 [] [5 + 256 * 9, 0, 9] with st := 1, sat := true, sent := 1 }
def e2_inAdd (x : Core) : Core := { x with window := [e2_sentAdd], nextId := 1 }
def e2_remA := imsg (.remoteAdd 100 3 9 4 3)
def e2_retry (t since : Nat) : WEnt := { mwent 1 [] [5 + 256 * 9 + 2 ^ 20, 1 + 3 * 65536, 9] with st := 1, sat := true, firstTry := t + 1, since := since + 1 }
def e4_arr (r : Nat) := imsg (.arrive 7 9 4 r)
def e4_bar (x : Core) : Core := { x with miles := [(4, { barrier := true, gen := 2, value := 0x30001, relMs := 6 })] }
def e4_barF (x : Core) : Core := { x with miles := [(4, { barrier := true, gen := 2, value := 0x30003, relMs := 6 })] }
def e4_v1 : Saving := { kind := 1, tag := 5, start := 900000000 }
def e4_v2 : Saving := { e4_v1 with phase2 := true }
def e4_v3 : Saving := { e4_v2 with after := 1 }
def e4_v4 : Saving := { e4_v2 with after := 3 }
def e4_v5 : Saving := { e4_v1 with start := 999990000 }
def e4_flt (x : Ctx) : Ctx := { x with state := .faulted, replay := 1, cores := [7] }
def e6_dieDesc := addDesc.set 0 (2 + 64)
def e6_badDesc := addDesc.set 4 0
def e6_sNoMap := let x := inList e6_badDesc 16 {}; { x with fm := {} }
def e6_sTrig := modCore (inList trigDesc 16 { words := trigDesc, stage := 1 }) 7 (fun x => { x with miles := [(5, { value := 1 })] })
def e6_kp : KPos := { words := addDesc, stage := 2 }
def e6_sShare := inList addDesc 16 e6_kp
def e6_addBytes := match kSimple e6_sShare 16 3 addDesc 0 16 with | .writes l _ _ _ => l | _ => []
def e6_gp : KPos := { words := gatherDesc, stage := 2 }
def e6_sGath := bytesAt (inList gatherDesc 0 e6_gp) 0x400 (words [0xFFFFFFFF])
def e6_kdp : KPos := { words := addDesc, stage := 2, block := 1 }
def e6_sDone := inList addDesc 16 e6_kdp
def e6_krp (t : Nat) : KPos := { words := addDesc, stage := 3, block := 1, at_ := t }
def e7_cm : ColMsg := { typ := 1, tag := 5, round := 1, srcRank := 0, ctx := 3, step := 0, offset := 0, crc := 0, arg := 0, payload := List.replicate 16 0, ext := [] }
def e7_cmsg := imsg (.col e7_cm)
def e7_ringW : List Nat := [2, 1, 5, 2, 0, 0, 0, 0, 0, 0, 0x100, 0, 0, 0, 0, 0, 0, 0] ++ List.replicate 14 0
def e7_red1 : Reduce := { slot := 0, msg := e7_cmsg }
def e7_sRed : State := let s := runningM id; { s with cols := [(0, { reduce := [e7_red1], slots := [(0, { armed := true, ctx := 3, words := e7_ringW })] })] }
def e8_claim0 : State := let s := frames base; { s with fm := { s.fm with claims := [(0, some 5)] } }
def e8_fill0 : RlcFill := { line := 4, bytes := [] }
def e8_opened (t : Nat) : State := modStack base 0 (fun x => { x with maint := [(0, true)], maintStart := [(0, t + 1)], need := [(0, 5), (1, 6)] })
def e8_sFill (d : Bool) : State := { base with rlcs := [(0, { fills := [{ e8_fill0 with dead := d }] })] }
def e8_sRes : State := modKerb (inDm { dmReq 0 with chan := 0, resv := true, granted := false }) 0 (fun k => { k with resv := [(7, 0)] })
def f0_P (x : Port) := onPort x base
def f0_L (x : Port) := onPort x (planned base)
def f0_routed : State := let s := f0_L { tstate := 5, light := true, rxQueue := [msgTo 8] }; { s with routes := [(0, { bank0 := [(8, 2 ^ 15 + 3)], bank1 := [(8, 2 ^ 15 + 3)] })] }
def f1_trc : Trace := { ctl := 0xC5000000#32, active := true }
def f1_traced (t : Trace) : State := { frames base with traces := [(2, t)] }
def f1_rec0 : TraceRec := { target := 0, ctx := 3, odo := 5, payload := [1,2,3,4] }
def f1_sTr := f1_traced { f1_trc with queue := [f1_rec0] }
def g1_sI (x : IxSlot) := inIx x {} []
def g1_e0 : Nat × Nat × Nat := (1, 999999000, 999990000)
def g1_e1 : Nat × Nat × Nat := (1, 5, 6)
def g1_routesB := words [1, 1]
def g1_sR := g1_sI { phase := 1, startAt := 999999999, retries := [g1_e0] }
def g1_M (x : IxSlot) (b : IxMsg) := inIx x {} [ixMsg b]
def g1_tk := ixm 3 0 0 (List.replicate 64 7)
def g1_sTk := g1_M { phase := 3 } g1_tk
def g1_sTk2 := { g1_sTk with fm := {} }
def g1_sFe := g1_M { phase := 5, readySent := true } (ixm 5 0 0 [])
def g1_req (typ : Nat) : IxReq := { req := 5, slot := 2, typ := typ, rank := 1 }
def g1_A (typ : Nat) (code : Nat) (b : IxMsg) := inIx { phase := 3 } { open_ := [g1_req typ] } [{ ixMsg b with resp := true, req := 5, code := code }]
def g1_fd := ixm 6 0 0 (List.replicate 64 9)
def g1_sFd := g1_A 5 0 g1_fd
def g1_sFdE := { g1_sFd with fm := {} }
def h1_e0 : Nat × Nat × Nat := (1, 999999000, 999990000)
def h1_e1 : Nat × Nat × Nat := (1, 5, 6)
def h1_C (w : List Nat) (x : ColSlot) := inCol w x {} []
def h1_bar1 := col2 6 1 0
def h1_put7 := col2 7 0 0
def h1_sPutE := { h1_C h1_put7 {} with fm := {} }
def h1_sR := h1_C h1_bar1 { phase := 1, retries := [h1_e0] }
def h1_K (w : List Nat) (x : ColSlot) (b : ColMsg) := inCol w x {} [colMsg b]
def h1_ring0 := col2 1 0 0
def h1_a2a := col2 4 0 0
def h1_pt := colm 4 1 0 (List.replicate 64 3)
def h1_ptb := { h1_pt with crc := 1 }
def h1_an (b : ColMsg) (code : Nat) : Msg := { colMsg b with resp := true, req := 5, code := code }
def h1_ak := colm 5 1 0 []
def h1_rs (n : Nat) : Resend := { req := 5, slot := 2, msg := colMsg h1_pt, fails := n }
def h1_aN : ColReq := { req := 5, slot := 2, rank := 1, typ := 10, cw := 3 }
def h1_nk := colm 6 1 0 []
def h1_gq := { colm 10 1 0 [] with ext := [0x200, 64] }
def h1_gd := colm 11 1 0 (List.replicate 64 4)
def h1_get8 := col2 8 0 0
def h1_sGd := inCol h1_get8 { phase := 3 } { open_ := [h1_aN] } [h1_an h1_gd 0]
def h1_gdb := { h1_gd with crc := 3 }
def i1_polled (n : Nat) : State := modCore base 7 (fun x => { x with missedPolls := n })
def j1_r0 (s : State) := ((rotationStart s 0).getD s)
def j1_votedRun : ShadowRun := { shadowRun with crc1 := some 6, site2 := some 8709 }
def k1_warm (x : Power) : Power := { x with junction := List.replicate 256 500, hub := List.replicate 16 300, stackT := List.replicate 12 300 }
def k1_sTrain := { booting (fun b => { b with phase := 2, bridgesDone := [], zeroDone := false, accepted := false }) with hbmStacks := [] }
def k1_sVer (len : Nat) := booting (fun b => { b with phase := 3, accepted := false, verifying := some (3, ref0, len), buffer := [(5, 1)] })
def l1_nopM := post 0x00 []
def a1_w0 : State := { base with pending := [.hotReset, .mboxNop] }
def a1_w1 : State := onPage 5 (fun x => { x with pend := 3 })
def a1_w3 : State := modPage base pgQmc (fun x => { x with owner := some (0, 2) })
def a1_w5 : State := { base with hang := { resets := [{ dom := .core 7, start := 0 }] } }
def a1_w9 : State := modPage base (pgCore 4095) (fun x => { x with stage := [(16 * 0x308, some 0x123450)] })
def b1_w0 : State := fmBusy 1 1
def b1_w1 : FmOp := { op := 1, zero := false, frame := 5, entry := 1, start := 0 }
def b1_w7 : List (Nat × Nat) := [(6,0)]
def b1_w10 : State := sPoisonQ 63 0
def b1_w11 : RlcFlush := { lo := 0, hi := 4 }
def b1_w13 : State := rtBusy 1 false 0
def b1_w14 : RtOp := { op := 1, index := 7, bank := false, data := 0 }
def c1_w0 : State := sLc 3 true
def c1_w2 : List Byte := (post 0 []).data
def c1_w3 : List Byte := (post 8 []).data
def c1_w4 : Post := post 1 [(3,1,1),(16,8,0x10000),(24,1,15),(25,4,0x07010203)]
def c1_w5 : State := queued base (post 1 [(3,1,1),(16,8,0x10000),(24,1,15),(25,4,0x07010203)])
def c1_w6 : Post := post 1 [(16,8,0x10001)]
def c1_w7 : State := queued base (post 1 [(16,8,0x10001)])
def c1_w8 : Post := post 2 [(16,1,15)]
def c1_w9 : State := queued base (post 2 [(16,1,15)])
def c1_w10 : Post := post 2 [(16,1,16)]
def c1_w11 : State := queued base (post 2 [(16,1,16)])
def c1_w12 : Post := post 8 [(16,5,0x10001)]
def c1_w13 : State := queued base (post 8 [(16,5,0x10001)])
def c1_w14 : State := queued (resident base .running) (post 9 [])
def c1_w15 : State := queued (resident base .running) (post 10 [])
def c1_w16 : State := queued (resident base .running) (post 11 [])
def c1_w17 : State := queued (resident base .idle) (post 11 [])
def c1_w18 : Post := post 12 [(16,2,7),(18,1,47),(20,4,1)]
def c1_w19 : State := (deliverSignal (taken (queued (resident base .running) (post 12 [(16,2,7),(18,1,47),(20,4,1)])) 3 []) 3 7 47 1 (blockLast base 0 0xC) true).1
def c1_w20 : State := queued (resident base .running) (post 12 [(16,2,7),(18,1,47),(20,4,1)])
def c1_w21 : Post := post 12 [(16,2,8)]
def c1_w22 : State := queued (resident base .running) (post 12 [(16,2,8)])
def c1_w23 : Post := post 13 [(16,5,0x80),(24,4,128)]
def c1_w24 : State := queued (frames base) (post 13 [(16,5,0x80),(24,4,128)])
def c1_w25 : Post := post 16 [(16,1,3),(24,5,0x80),(32,2,65535)]
def c1_w26 : State := queued base (post 16 [(16,1,3),(24,5,0x80),(32,2,65535)])
def c1_w27 : State := onCtx base (fun x => { x with posts := [post 16 [(16,1,3),(24,5,0x80),(32,2,65535)]], lists := [(3, { armed := true })] })
def c1_w28 : Post := post 19 [(16,1,3),(17,1,15)]
def c1_w29 : State := queued { base with ixs := [(3, { slots := [(15, { armed := true, ctx := 3 })] })] } (post 19 [(16,1,3),(17,1,15)])
def c1_w30 : State := queued { base with ixs := [(3, { slots := [(15, { armed := true, ctx := 3, phase := 2 })] })] } (post 19 [(16,1,3),(17,1,15)])
def c1_w31 : Post := post 21 [(16,1,3),(17,1,15)]
def c1_w32 : State := queued { base with cols := [(3, { slots := [(15, { armed := true, ctx := 3 })] })] } (post 21 [(16,1,3),(17,1,15)])
def c3_w0 : State := sArm ixArmPost ixW
def c3_w1 : State := sArm colArmPost colW
def c4_w0 : List Byte := [0x81] ++ List.replicate 511 0
def c4_w1 : Post := post 33 [(16,2,2000)]
def c4_w2 : State := queued base (post 33 [(16,2,2000)])
def c4_w3 : State := queued base (post 34 [])
def c4_w4 : Post := post 35 [(16,4,65536)]
def c4_w5 : State := queued (loading 2) (post 35 [(16,4,65536)])
def c4_w6 : Post := post 36 [(16,5,256)]
def c4_w7 : State := queued base (post 36 [(16,5,256)])
def c4_w8 : State := foreign (post 33 [])
def c4_w9 : State := foreign (post 32 [])
def c4_w10 : Attest := { ctx := 3, ref := { seq := 0, cookie := 0, quiet := false }, report := 0x100, nonce := List.replicate 32 1 }
def c4_w11 : State := onCtx base (fun x => { x with owed := 2 })
def c4_w12 : State := sVec 0x80
def c4_w13 : State := loading 2
def c4_w15 : State := { base with hang := { resets := [{ dom := .hub, start := 0 }] } }
def c4_w16 : State := { loading 2 with power := { base.power with perst := true } }
def d1_w80 : State := behindBranch (ins 1 0 [(15,116)])
def d2_w0 : Target := { addr := 0x100, st := 0, run := 0, resumed := false }
def d2_w5 : State := running (fun x => { x with loops := [1,0,0,0] })
def d2_w8 : State := inWindow [went 0 (ins 0 0 [])]
def d2_w9 : WEnt := went 0 (ins 0 0 [])
def d2_w10 : State := inWindow [went 0 (ins 0 7 [])]
def d2_w11 : WEnt := went 0 (ins 0 7 [])
def d2_w12 : State := inWindow [went 0 (ins 0 6 [])]
def d2_w13 : WEnt := went 0 (ins 0 6 [])
def d2_w16 : State := inWindow [went 0 (ins 0 4 [(5,8),(1,96),(3,32)]), went 1 0]
def d2_w17 : WEnt := went 0 (ins 0 4 [(5,8),(1,96),(3,32)])
def d2_w18 : State := inWindow [d2_tdl]
def d3_w0 : WEnt := wrun (ins 1 0 []) lrTd 1
def d3_w1 : State := inLr (wrun (ins 1 0 []) lrTd 1) { banks := [lrBank] } id
def d3_w2 : WEnt := wrun (ins 1 1 []) lrTd 1
def d3_w3 : State := inLr (wrun (ins 1 1 []) lrTd 1) { banks := [lrBank] } id
def d3_w4 : WEnt := wrun (ins 1 0 [(1,96),(4,90)]) streamTd 1
def d3_w5 : State := inLr (wrun (ins 1 0 [(1,96),(4,90)]) streamTd 1) { banks := [lrBank] } (fun x => { x with miles := [(4, { value := 1 })] })
def d3_w6 : State := inLr (wrun (ins 1 0 []) lrTd 1) { gated := false, dummy := 3 } id
def d3_w7 : WEnt × Nat × Nat := (wrun (ins 1 0 []) lrTd 1, 0, 0)
def d3_w8 : State := inLr (wrun (ins 1 0 []) lrTd 1) { pass := 1, ended := true } id
def d3_w9 : WEnt := wrun (ins 1 0 [(1,0)] - 60 * 2^84 + 2^76) lrTd 1
def d3_w10 : State := inLr (wrun (ins 1 0 [(1,0)] - 60 * 2^84 + 2^76) lrTd 1) { pass := 1, ended := true } id
def d3_w11 : State := inLr (wrun (ins 1 0 []) lrTd 1) { pass := 1 } id
def d3_w12 : State := saving (inLr (wrun (ins 1 0 []) lrTd 1) {} id)
def d3_w13 : WEnt := wrun (ins 1 0 []) lrTd 0
def d3_w14 : State := saving (inLr (wrun (ins 1 0 []) lrTd 0) {} id)
def d4_w0 : WEnt := wrun (ins 2 0 []) opTd 1
def d4_w1 : WEnt × Nat × Nat := (wrun (ins 2 0 []) opTd 1, 0, 0)
def d4_w2 : State := atJunction [wrun (ins 2 0 []) opTd 1] { loaded := true, banks := [lrBank] } id
def d4_w3 : WEnt := wrun (ins 2 1 []) opTd 1
def d4_w4 : State := atJunction [wrun (ins 2 1 []) opTd 1] { loaded := true, banks := [lrBank] } id
def d4_w5 : State := atJunction [wrun (ins 2 0 []) opTd 1] { loaded := true } id
def d4_w6 : WEnt × Nat × Nat := (d4_opTwo, 0, 0)
def d4_w7 : State := atJunction [wrun (ins 2 1 []) opTd 1, d4_opTwo] { gated := false, dummy := 2, banks := [lrBank] } id
def d4_w9 : WEnt := wrun (ins 2 0 [(1,0)] - 60 * 2^84 + 2^76) opTd 1
def d4_w10 : State := atJunction [wrun (ins 2 0 [(1,0)] - 60 * 2^84 + 2^76) opTd 1] { kblock := 1 } id
def d4_w11 : State := atJunction [wrun (ins 2 0 []) opTd 1] { rowFirst := 1 } id
def d4_w12 : State := saving (atJunction [wrun (ins 2 0 []) opTd 1] {} id)
def d5_w0 : WEnt := wrun (ins 3 0 []) [0, 16, 32, 2^16, 0, 0, 0, 0] 0
def d5_w1 : State := inWindow [wrun (ins 3 0 []) [0, 16, 32, 2^16, 0, 0, 0, 0] 0]
def d5_w2 : WEnt := wrun (ins 3 1 []) [0, 16, 32, 2^16, 0, 0, 0, 0] 0
def d5_w3 : State := inWindow [wrun (ins 3 1 []) [0, 16, 32, 2^16, 0, 0, 0, 0] 0]
def d5_w4 : WEnt := wrun (ins 3 2 []) [0, 16, 32, 2^16, 0, 0, 0, 0] 0
def d5_w5 : State := inWindow [wrun (ins 3 2 []) [0, 16, 32, 2^16, 0, 0, 0, 0] 0]
def d5_w6 : WEnt := wrun (ins 3 3 []) [0, 16, 32, 2^16, 0, 0, 0, 0] 0
def d5_w7 : State := inWindow [wrun (ins 3 3 []) [0, 16, 32, 2^16, 0, 0, 0, 0] 0]
def d5_w8 : WEnt := wrun (ins 3 4 []) [0, 16, 32, 2^16, 0, 0, 0, 0] 0
def d5_w9 : State := inWindow [wrun (ins 3 4 []) [0, 16, 32, 2^16, 0, 0, 0, 0] 0]
def d5_w10 : WEnt := wrun (ins 3 5 []) [0, 16, 32, 2^16, 0, 0, 0, 0] 0
def d5_w11 : State := inWindow [wrun (ins 3 5 []) [0, 16, 32, 2^16, 0, 0, 0, 0] 0]
def d5_w12 : WEnt := wrun (ins 3 6 []) [0, 16, 32, 2^16, 0, 0, 0, 0] 0
def d5_w13 : State := inWindow [wrun (ins 3 6 []) [0, 16, 32, 2^16, 0, 0, 0, 0] 0]
def d5_w14 : WEnt := wrun (ins 3 7 []) [0, 16, 32, 2^16, 0, 0, 0, 0] 0
def d5_w15 : State := inWindow [wrun (ins 3 7 []) [0, 16, 32, 2^16, 0, 0, 0, 0] 0]
def d5_w16 : WEnt := wrun (ins 3 8 []) [0, 16, 32, 2^16, 0, 0, 0, 0] 0
def d5_w17 : State := inWindow [wrun (ins 3 8 []) [0, 16, 32, 2^16, 0, 0, 0, 0] 0]
def d5_w18 : WEnt := wrun (ins 3 9 []) [0, 16, 32, 2^16, 0, 0, 0, 0] 0
def d5_w19 : State := inWindow [wrun (ins 3 9 []) [0, 16, 32, 2^16, 0, 0, 0, 0] 0]
def d5_w20 : WEnt := wrun (ins 3 10 []) [0, 16, 32, 2^16, 0, 0, 0, 0] 0
def d5_w21 : State := inWindow [wrun (ins 3 10 []) [0, 16, 32, 2^16, 0, 0, 0, 0] 0]
def d5_w22 : WEnt := wrun (ins 3 11 []) [0, 16, 32, 2^16, 0, 0, 0, 0] 0
def d5_w23 : State := inWindow [wrun (ins 3 11 []) [0, 16, 32, 2^16, 0, 0, 0, 0] 0]
def d5_w24 : WEnt := wrun (ins 3 12 []) [0, 16, 32, 2^16, 0, 0, 0, 0] 0
def d5_w25 : State := inWindow [wrun (ins 3 12 []) [0, 16, 32, 2^16, 0, 0, 0, 0] 0]
def d5_w26 : WEnt := wrun (ins 3 13 []) [0, 16, 32, 2^16, 0, 0, 0, 0] 0
def d5_w27 : State := inWindow [wrun (ins 3 13 []) [0, 16, 32, 2^16, 0, 0, 0, 0] 0]
def d5_w28 : WEnt := wrun (ins 3 14 []) [0, 16, 32, 2^16, 0, 0, 0, 0] 0
def d5_w29 : State := inWindow [wrun (ins 3 14 []) [0, 16, 32, 2^16, 0, 0, 0, 0] 0]
def d5_w30 : WEnt := wrun (ins 3 15 []) [0, 16, 32, 2^16, 0, 0, 0, 0] 0
def d5_w31 : State := inWindow [wrun (ins 3 15 []) [0, 16, 32, 2^16, 0, 0, 0, 0] 0]
def d5_w32 : WEnt := wrun (ins 3 0 []) [0, 16, 32, 2^16, 0, 0, 0, 0] 1
def d5_w33 : State := inWindow [wrun (ins 3 0 []) [0, 16, 32, 2^16, 0, 0, 0, 0] 1]
def d5_w34 : WEnt := wrun (ins 3 1 []) [0, 16, 32, 2^16, 0, 0, 0, 0] 1
def d5_w35 : State := inWindow [wrun (ins 3 1 []) [0, 16, 32, 2^16, 0, 0, 0, 0] 1]
def d5_w37 : Nat × Int := (0x3F800000, 3)
def d5_w38 : Nat × Int := (0x3F800000, 4)
def d5_w39 : Nat × Int := (0x7FC00000, 5)
def e1_w0 : WEnt := wrun (ins 4 0 []) moveTd 0
def e1_w1 : State := inWindow [wrun (ins 4 0 []) moveTd 0]
def e1_w2 : WEnt := wrun (ins 4 1 []) moveTd 0
def e1_w3 : State := inWindow [wrun (ins 4 1 []) moveTd 0]
def e1_w4 : WEnt := wrun (ins 4 2 []) accTd 0
def e1_w5 : State := inWindow [wrun (ins 4 2 []) accTd 0]
def e1_w6 : WEnt := wrun (ins 4 3 []) accTd 0
def e1_w7 : State := inWindow [wrun (ins 4 3 []) accTd 0]
def e1_w8 : WEnt := wrun (ins 4 0 []) padTd 0
def e1_w9 : State := inWindow [wrun (ins 4 0 []) padTd 0]
def e1_w10 : WEnt := { went 0 (ins 4 4 []) with td := [3 + 4096, 5] }
def e1_w11 : State := inWindow [{ went 0 (ins 4 4 []) with td := [3 + 4096, 5] }]
def e1_w12 : State := (readReq (inDmMore (dmReq 0)) 7 (dmReq 0)).1
def e1_w14 : DmReq := { dmReq 0 with dead := true }
def e1_w15 : State := inDm { dmReq 0 with dead := true }
def e1_w16 : DmReq := { dmReq 1 with data := List.replicate 16 5 }
def e1_w17 : State := (writeVia (inDm { dmReq 1 with data := List.replicate 16 5 }) 0 0 0 (List.replicate 16 5)).1
def e1_w19 : State := (writeVia (inDmBad { dmReq 1 with data := List.replicate 16 5 }) 0 0 0 (List.replicate 16 5)).1
def e1_w21 : State := (readReq (inDm (dmReq 4)) 7 (dmReq 4)).1
def e1_w23 : State := (readReq (inDmBad (dmReq 4)) 7 (dmReq 4)).1
def e1_w25 : DmReq := { dmReq 4 with dead := true }
def e1_w26 : State := inDm { dmReq 4 with dead := true }
def e1_w27 : State := runningM (fun x => { x with misses := [0] })
def e1_w29 : State := { base with odometer := 100 }
def e2_w0 : State := twoCores id id [e2_aMsg]
def e2_w1 : State := off (twoCores id id [e2_aMsg])
def e2_w2 : State := twoCores id id [e2_oMsg]
def e2_w3 : State := twoCores id e2_slot1 [e2_oMsg]
def e2_w4 : State := twoCores id e2_slot1 [e2_oMsg2]
def e2_w5 : State := twoCores e2_inAcc id [e2_kMsg]
def e2_w6 : Msg := { e2_kMsg with code := 6 }
def e2_w7 : State := twoCores e2_inAcc id [{ e2_kMsg with code := 6 }]
def e2_w8 : WEnt := mwent 0 [] [5 + 256 * 7, 0, 9]
def e2_w9 : State := inMs (mwent 0 [] [5 + 256 * 7, 0, 9])
def e2_w10 : WEnt := mwent 1 [] [5 + 256 * 7, 0, 9]
def e2_w11 : State := inMs (mwent 1 [] [5 + 256 * 7, 0, 9])
def e2_w14 : WEnt := mwent 2 [] [5 + 256 * 7, 0, 9, 0, 256 * 6]
def e2_w15 : State := inMs (mwent 2 [] [5 + 256 * 7, 0, 9, 0, 256 * 6])
def e2_w16 : WEnt := mwent 3 [(1, 0)] [5 + 256 * 7, 0, 0, 0, 256 * 6]
def e2_w17 : State := inMs (mwent 3 [(1, 0)] [5 + 256 * 7, 0, 0, 0, 256 * 6])
def e2_w18 : WEnt := mwent 4 [] [0, 0, 0, 5, 4]
def e2_w19 : State := inMs (mwent 4 [] [0, 0, 0, 5, 4])
def e2_w20 : WEnt := { e2_tw with since := 1 }
def e2_w21 : State := inMs { e2_tw with since := 1 }
def e2_w22 : State := twoCores id id [e2_addM]
def e2_w23 : State := twoCores id e2_bar [e2_addM]
def e2_w24 : State := off (twoCores id id [e2_addM])
def e2_w25 : State := twoCores e2_inAdd id [e2_addA]
def e2_w26 : Msg := { e2_addA with code := 6 }
def e2_w27 : State := twoCores e2_inAdd id [{ e2_addA with code := 6 }]
def e2_w28 : State := onCtx (twoCores id id [e2_remA]) (fun x => { x with jobTag := 8 })
def e2_w29 : State := idleCtx (twoCores id id [e2_remA])
def e2_w30 : State := twoCores (fun x => { x with window := [e2_retry 0 0] }) id []
def e2_w31 : State := twoCores (fun x => { x with window := [e2_retry 999500000 0] }) id []
def e2_w32 : WEnt := e2_retry 999500000 999999500
def e2_w33 : State := twoCores (fun x => { x with window := [e2_retry 999500000 999999500] }) id []
def e4_w0 : State := twoCores id e4_bar [e4_arr 2]
def e4_w1 : State := twoCores id e4_bar [e4_arr 3]
def e4_w2 : State := twoCores id e4_bar [e4_arr 5]
def e4_w4 : Msg := imsg (.release 7 9 6)
def e4_w5 : State := twoCores id id [imsg (.release 7 9 6)]
def e4_w10 : State := savingCtx e4_v2 (frames base) (fun x => { x with preemptPost := some ref0, runPost := some ref0 })
def e4_w11 : State := savingCtx e4_v3 (frames base) id
def e4_w12 : State := savingCtx e4_v4 (frames base) id
def e4_w13 : State := savingCtx e4_v5 (frames base) id
def e4_w14 : State := onCtx base e4_flt
def e4_w15 : State := { onCtx base e4_flt with hang := { dstate := [(0, 3)], resets := [{ dom := .die 0, start := 0 }] } }
def e5_w0 : State := { onCtx base (fun x => { x with state := .faulted, replay := 1, cores := [7] }) with hang := { dstate := [(0, 3)] } }
def e6_w2 : State := inList e6_dieDesc 16 {}
def e6_w3 : State := inList e6_badDesc 16 {}
def e6_w9 : State := inList addDesc 16 (e6_krp 5)
def e6_w10 : State := inList addDesc 16 (e6_krp 999999999)
def e8_w1 : Nat × Nat := (7, 0)
def e8_w4 : State := e8_opened 999990000
def e8_w5 : State := e8_opened 999900000
def e8_w6 : State := modStack base 0 (fun x => { x with state := 2 })
def e8_w7 : State := e8_sFill false
def f0_w1 : State := f0_P { light := true, retryAt := 1 }
def f0_w2 : State := f0_P { light := true, tstate := 1 }
def f0_w3 : State := f0_P { light := true, tstate := 2 }
def f0_w5 : State := f0_P { light := true, tstate := 3 }
def f0_w6 : State := f0_P { light := true, tstate := 5, replay := [flit0] }
def f0_w7 : State := f0_P { light := true, tstate := 5, replay := [flit0], widthChanging := true }
def f0_w9 : Ident := { id1 with digest := 0 }
def f0_w10 : State := f0_P { light := true, tstate := 4 }
def f0_w11 : State := onPort { light := true, tstate := 4 } (withRegs base (pgPort 0) [(0x108, 1)])
def f0_w14 : Flit := { flit0 with seq := 9 }
def f0_w15 : State := { f0_L { tstate := 5, light := true, identOut := true } with outs := [outReq 0] }
def f0_w16 : Flit := { flit0 with crcOk := false }
def f0_w17 : State := { f0_L { tstate := 5, light := true, rxQueue := [msgTo 0] } with outs := [outReq 999999000] }
def f0_w18 : State := f0_L { tstate := 5, light := true, rxQueue := [msgTo 8] }
def f0_w19 : State := timed 0
def f0_w20 : State := timed 2
def f0_w21 : State := { timed 0 with time := { asked := some 10 } }
def f0_w22 : State := { timed 0 with time := { asked := some 10, synced := true } }
def f1_w2 : State := setBridge base 0 { sliceMap := 0xFFFFF, retries := [(4, List.replicate 16 999999999)] }
def g1_w0 : Code × Nat := (.absent, 0x100)
def g1_w1 : State := bytesAt (g1_sI {}) 0x100 g1_routesB
def g1_w2 : State := { g1_sI {} with fm := {} }
def g1_w3 : State := g1_sI { phase := 3, arriveDone := true, routes := [(1, 1)] }
def g1_w5 : State := g1_sI { phase := 1, retries := [g1_e1], sigs := [{ kind := 0, core := 7, ms := 1, inc := 1 }] }
def g1_w7 : Msg := ixMsg (ixm 1 0 0 (words [0]))
def g1_w8 : IxMsg := ixm 1 0 0 (words [0])
def g1_w10 : State := g1_M { phase := 1 } (ixm 1 0 0 (words [0]))
def g1_w11 : Msg := ixMsg (ixm 2 0 0 (words [0]))
def g1_w12 : IxMsg := ixm 2 0 0 (words [0])
def g1_w13 : State := g1_M { phase := 1 } (ixm 2 0 0 (words [0]))
def g1_w15 : Code × Nat := (.absent, 0x1000)
def g1_w17 : State := g1_M { phase := 1 } g1_tk
def g1_w18 : Msg := ixMsg (ixm 4 0 0 [])
def g1_w19 : State := g1_M { phase := 3, readyIn := [1] } (ixm 4 0 0 [])
def g1_w20 : State := g1_M { phase := 3 } (ixm 4 0 0 [])
def g1_w21 : Msg := ixMsg (ixm 5 0 0 [])
def g1_w22 : Code × Nat := (.absent, 0x2000)
def g1_w23 : State := { g1_sFe with fm := {} }
def g1_w24 : Msg := ixMsg (ixm 7 9 0 [])
def g1_w25 : State := g1_M { phase := 5 } (ixm 7 9 0 [])
def g1_w26 : Msg := { ixMsg g1_fd with resp := true, req := 5 }
def g1_w27 : Code × Nat := (.absent, 0x3000)
def g1_w30 : Msg := { ixMsg (ixm 8 0 0 []) with resp := true, req := 5 }
def g1_w31 : State := g1_A 2 0 (ixm 8 0 0 [])
def g1_w32 : State := g1_A 1 0 (ixm 8 0 0 [])
def g1_w33 : Msg := { ixMsg (ixm 8 0 0 []) with resp := true, req := 5, code := Code.notOwner.num }
def g1_w34 : State := g1_A 1 Code.notOwner.num (ixm 8 0 0 [])
def g1_w35 : Msg := { ixMsg (ixm 8 0 0 []) with resp := true, req := 5, code := Code.noSpace.num }
def g1_w36 : State := g1_A 1 Code.noSpace.num (ixm 8 0 0 [])
def h1_w3 : Code × Nat := (.absent, 0x200)
def h1_w7 : State := h1_C h1_bar1 { phase := 1, retries := [h1_e1] }
def h1_w9 : State := idleCtx (h1_C h1_bar1 { phase := 3, sigs := [{ kind := 1, core := 7, ms := 0, inc := 1 }] })
def h1_w10 : Msg := colMsg (colm 1 1 0 [])
def h1_w11 : State := h1_K h1_ring0 { phase := 1 } (colm 1 1 0 [])
def h1_w12 : Msg := colMsg (colm 1 0 0 [])
def h1_w13 : State := h1_K h1_ring0 { phase := 1 } (colm 1 0 0 [])
def h1_w14 : Msg := colMsg (colm 2 1 1 [])
def h1_w15 : State := h1_K h1_a2a { phase := 1, sendCounts := [0, 64] } (colm 2 1 1 [])
def h1_w16 : Msg := colMsg (colm 3 1 1 [])
def h1_w17 : State := h1_K h1_a2a { phase := 1, sendCounts := [0, 64] } (colm 3 1 1 [])
def h1_w18 : State := h1_K h1_a2a { phase := 1, sendCounts := [0, 64], goes := [1] } (colm 3 1 1 [])
def h1_w19 : Msg := colMsg (colm 7 1 1 [])
def h1_w20 : State := h1_K (col2 6 0 0) { phase := 1 } (colm 7 1 1 [])
def h1_w21 : Msg := colMsg (colm 8 0 1 [])
def h1_w22 : State := h1_K h1_bar1 { phase := 1 } (colm 8 0 1 [])
def h1_w23 : Msg := colMsg (colm 9 0 1 [])
def h1_w24 : State := h1_K h1_bar1 { phase := 1 } (colm 9 0 1 [])
def h1_w25 : State := h1_K h1_ring0 { phase := 2, ready := true } h1_pt
def h1_w26 : State := h1_K h1_ring0 { phase := 2, ready := true } h1_ptb
def h1_w27 : State := inCol h1_ring0 { phase := 2 } { store := [h1_rs 0] } [h1_an h1_ak 0]
def h1_w28 : State := inCol h1_ring0 { phase := 2 } { store := [h1_rs 0] } [h1_an h1_ak 6]
def h1_w29 : State := inCol h1_ring0 { phase := 2 } { store := [h1_rs 0] } [h1_an h1_nk 6]
def h1_w30 : State := inCol h1_ring0 { phase := 2 } { store := [h1_rs 3] } [h1_an h1_nk 6]
def h1_w31 : State := inCol h1_ring0 { phase := 0 } { } [colMsg h1_gq]
def h1_w32 : State := inCol h1_get8 { phase := 3 } { open_ := [h1_aN] } [h1_an h1_gdb 0]
def i1_w0 : State := running (fun x => { x with progress := [(1, 5)], window := [wrun (ins 1 0 []) lrTd 1] })
def i1_w3 : State := i1_polled 1
def i1_w4 : State := modKerb (inList addDesc 16 { words := addDesc, stage := 2 }) 16 (fun k => { k with stepAt := some 5 })
def i1_w5 : State := setReg (running (fun x => { x with parkedAt := some 5 })) pgAon 0x058 10
def i1_w6 : State := { base with hang := { beaten := [(2, true)], windows := [(2, 5)], misses := [(2, 1)] } }
def i1_w7 : State := { base with hang := { beaten := [(2, true)], windows := [(2, 5)], misses := [(2, 2)] } }
def i1_w8 : State := { base with hang := { beaten := [(2, true)], restartAt := [(2, some 5)] } }
def i1_w9 : State := { base with hang := { beaten := [(4, true)], restartAt := [(4, some 5)] } }
def i1_w11 : Reset := { dom := .core 7, start := 0 }
def i1_w12 : Reset := { dom := .core 7, start := 0, half := true, test := true }
def i1_w13 : State := inRst (.core 7) 0 true true
def i1_w14 : Reset := { dom := .port 7, start := 0 }
def i1_w15 : State := inRst (.port 7) 0 false false
def i1_w16 : Reset := { dom := .bypass 1, start := 0 }
def i1_w17 : State := inRst (.bypass 1) 0 false false
def i1_w18 : Reset := { dom := .die 1, start := 0 }
def i1_w19 : State := inRst (.die 1) 0 false false
def i1_w20 : Reset := { dom := .fullDie 1, start := 0 }
def i1_w21 : State := inRst (.fullDie 1) 0 false false
def i1_w22 : Reset := { dom := .kerb 50, start := 0 }
def i1_w23 : State := inRst (.kerb 50) 0 false false
def i1_w24 : Reset := { dom := .hub, start := 0 }
def i1_w26 : Reset := { dom := .engine 7 2, start := 0 }
def i1_w27 : State := inRst (.engine 7 2) 0 false false
def j1_w0 : State := late base
def j1_w1 : State := j1_r0 (late base)
def j1_w2 : State := late (running id)
def j1_w4 : Move := { core := 7, src := 7, dst := 8708, why := 0, start := 0 }
def j1_w5 : State := tested 2
def j1_w6 : Test := { site := 8708, why := 0, core := 0, start := 0 }
def j1_w7 : State := shadowed shadowRun
def j1_w8 : State := shadowed j1_votedRun
def j1_w9 : State := onCtx (modCore base 7 (fun x => { x with trial := some (3, 5), suspects := [3] })) (fun x => { x with state := .idle, cores := [7] })
def j1_w10 : State := onCtx { base with hide := { draining := true } } (fun x => { x with state := .faulted })
def k1_w1 : State := running (fun x => { x with step := 20 })
def k1_w3 : State := { running id with power := { (running id).power with ceiling := [32, 32, 32, 32] } }
def k1_w4 : State := powered (fun x => { x with junction := List.replicate 256 1300, vinLowAt := some 5 })
def k1_w10 : State := powered (fun x => { k1_warm x with state := .dormant, hub := [1200], junction := List.replicate 256 1200, comps := [(6, { en := true, arg := 9, wake := true })] })
def k1_w11 : State := powered (fun x => { x with entering := some .mailbox })
def k1_w12 : State := powered (fun x => { x with state := .doze, leaving := some .mailbox })
def k1_w13 : State := booting (fun b => { b with phase := 0 })
def k1_w14 : State := booting (fun b => { b with phase := 1 })
def k1_w16 : State := k1_sVer 100
def k1_w17 : State := booting (fun b => { b with phase := 4 })
def k1_w18 : SiteTest := { site := 8708, lrGroups := [], opGroups := [], other := true }
def k1_w19 : State := modSite (booting (fun b => { b with phase := 5, testDone := false })) 8708 (fun x => { x with role := 2 })
def k1_w20 : State := booting (fun b => { b with phase := 5 })
def k1_w21 : State := powered (fun x => { x with excluded := List.range 60, sensorRuns := [] })
def k1_w22 : State := powered (fun x => { x with tripped := true, state := .dormant, heldWake := true })
def k1_w23 : State := powered (fun x => { x with state := .off })
def l1_w2 : State := powered (fun x => { x with monitorAt := some 5, sensorRuns := [(5, 2)] })
def l1_w4 : State := mboxed l1_nopM
def l1_w6 : State := mboxed (post 0x21 [(16, 2, 800)])
def l1_w7 : State := mboxed (post 0x22 [(16, 1, 3)])
def l1_w8 : State := mboxed (post 0x22 [(16, 1, 2)])
def l1_w9 : State := let s := mboxed (post 0x31 []); { s with power := { s.power with comps := [(7, { en := true, wake := true, arg := 2 })] } }
def l1_w10 : State := let s := mboxed (post 0x31 []); { s with power := { s.power with comps := [] } }
def l1_w11 : State := mboxed (post 0x30 [(16, 4, 0x5000), (20, 1, 2)])
def l1_w12 : State := { mboxed (post 0x30 [(16, 4, 0x1007040), (20, 1, 2)]) with hang := { dstate := [(0, 4)], resets := [{ dom := .core 7, start := 0 }] } }
def l1_w13 : State := mboxed (post 0x32 [(16, 4, 0x5080), (20, 4, 2)])
def l1_w14 : List (Bool × Code) := [(outside 2 0x7, .reservedSet)]
def l1_w15 : State → State := fun s => modPower s (fun x => { x with cmpSelMgmt := 2 })
def l1_w16 : State := mboxed (post 0x32 [(16, 4, 0x5040), (20, 4, 2)])

/-! ### Hypotheses that take a lemma -/

/-- Records of the cores of a context whose image area is blank, after the header's slot is cleared. -/
theorem records_written {s : State} (hp : s.poison = [])
    (h0 : (pieces512 (slotAt (getCtx s 3) 0) 0x4000).filter (fun p => !blankPiece s (headDie (getCtx s 3)) (getCtx s 3).part p) = [])
    (h1 : (pieces512 (slotAt (getCtx s 3) 1) 0x4000).filter (fun p => !blankPiece s (headDie (getCtx s 3)) (getCtx s 3).part p) = [])
    (hr : reaches s (headDie (getCtx s 3)) (getCtx s 3).part (slotAt (getCtx s 3) 0) 32 = true)
    (hs : ∀ j, j < (getCtx s 3).cores.length →
      reaches s (dieOfCore (nth (getCtx s 3).cores j)) (getCtx s 3).part (slotAt (getCtx s 3) 0 + 0x10000 + j * recordSize) recordSize = true) :
    (writeRecords (writeHeader s (getCtx s 3) (slotAt (getCtx s 3) (freeImageSlot s 3)) (List.replicate 32 0)) (getCtx s 3)
      (slotAt (getCtx s 3) (freeImageSlot s 3))).2 = none := by
  rw [freeImageSlot_blank h0 h1]
  obtain ⟨w1, w2⟩ := writeRangeAt_ok (l := List.replicate 32 0) hp (SameAccess.refl s) (by rw [List.length_replicate]; exact hr)
  rw [writeHeader, w1]
  exact writeRecords_ok hp (dropOwn_same w2 _ _ _ _) hs

/-- The header of a save of a context whose image area is blank. -/
theorem header_written {s : State} {v : Saving} (hp : s.poison = [])
    (h0 : (pieces512 (slotAt (getCtx s 3) 0) 0x4000).filter (fun p => !blankPiece s (headDie (getCtx s 3)) (getCtx s 3).part p) = [])
    (h1 : (pieces512 (slotAt (getCtx s 3) 1) 0x4000).filter (fun p => !blankPiece s (headDie (getCtx s 3)) (getCtx s 3).part p) = [])
    (hr : reaches s (headDie (getCtx s 3)) (getCtx s 3).part (slotAt (getCtx s 3) 0) (0x2000 + 2 * (getCtx s 3).cores.length) = true) :
    (writeHeader s (getCtx s 3) (slotAt (getCtx s 3) (freeImageSlot s 3)) (newHeader s 3 v)).2 = none ∧
    SameAccess s (writeHeader s (getCtx s 3) (slotAt (getCtx s 3) (freeImageSlot s 3)) (newHeader s 3 v)).1 := by
  rw [freeImageSlot_blank h0 h1]
  obtain ⟨w1, w2⟩ := writeRangeAt_ok hp (SameAccess.refl s) (newHeader_length s 3 v ▸ hr)
  rw [writeHeader, w1]
  exact ⟨rfl, dropOwn_same w2 _ _ _ _⟩
theorem header_calm {s : State} {v : Saving} (hp : s.poison = [])
    (h0 : (pieces512 (slotAt (getCtx s 3) 0) 0x4000).filter (fun p => !blankPiece s (headDie (getCtx s 3)) (getCtx s 3).part p) = [])
    (h1 : (pieces512 (slotAt (getCtx s 3) 1) 0x4000).filter (fun p => !blankPiece s (headDie (getCtx s 3)) (getCtx s 3).part p) = [])
    (hr : reaches s (headDie (getCtx s 3)) (getCtx s 3).part (slotAt (getCtx s 3) 0) (0x2000 + 2 * (getCtx s 3).cores.length) = true)
    (hd : s.hide.draining = false) :
    (writeHeader s (getCtx s 3) (slotAt (getCtx s 3) (freeImageSlot s 3)) (newHeader s 3 v)).1.hide.draining = false :=
  (congrArg Hide.draining (header_written hp h0 h1 hr).2.hide).trans hd

/-- CREATE's checks where the image's header can be read. -/
theorem createFails_none {s : State} {c : Nat} {d : List Byte} {m : SMap Byte}
    (h : readHeader s { getCtx s c with area := postAddr d 16 } 0 = some m)
    (k : firstFail ([(postAddr d 16 % 65536 != 0, Code.align)] ++
      rangeFail s (getCtx s c).part (postAddr d 16) (2 * slotSize (areaCores (some m))) false ++
      postChecks d [(16, 5), (24, 1), (28, 4), (32, 4)] ++
      [(decide (4 ≤ numAt d 24 1), .reservedSet), ((getCtx s c).state != .free, .wrongState)]) = none) :
    firstFail (createFails s c d) = none := by
  rw [← h] at k
  unfold createFails
  exact k

theorem create_header :
    readSparse (taken sCreate 3 []) hubDie (ctxPart sCreate 3) (postAddr createPost.data 16) 16384 = Except.ok c6_hm := by
  rw [readSparse_blank]
  exact ok_of (by decide +kernel)

/-- The same header, as a core of die 0 reads it. -/
theorem create_header_core :
    readSparse (taken sCreate 3 []) 0 (ctxPart sCreate 3) (postAddr createPost.data 16) 16384 = Except.ok c6_hm := by
  rw [readSparse_blank]
  exact ok_of (by decide +kernel)

theorem create_passes : firstFail (createFails (taken sCreate 3 []) 3 createPost.data) = none := by
  refine createFails_none (m := c6_hm) (readHeader_ok ?_) (by decide +kernel)
  rw [slotAt_zero]
  exact create_header_core

/-- Equations of reads, from what can be decided of their two sides. -/
def errorOf {α β : Type} (x : Except α β) : Option α := match x with | .error e => some e | .ok _ => none
theorem error_of {α β : Type} {e : α} {x : Except α β} (h : errorOf x = some e) : x = .error e := by
  cases x with
  | error f => exact congrArg _ (Option.some.inj h)
  | ok a => exact absurd h nofun
theorem pair_ok {σ α β : Type} {p : σ × Except α β} {t : σ} {b : β} (h : p.1 = t) (k : p.2.toOption = some b) : p = (t, .ok b) :=
  Prod.ext h (ok_of k)
theorem pair_error {σ α β : Type} {p : σ × Except α β} {t : σ} {e : α} (h : p.1 = t) (k : errorOf p.2 = some e) : p = (t, .error e) :=
  Prod.ext h (error_of k)

/-- What a block step that succeeds writes. -/
def writesOf (o : KOut) : Option (List (Nat × List Byte × Bool) × Nat × Nat × Flags) :=
  match o with | .writes l a b f => some (l, a, b, f) | _ => none
theorem writes_of {o : KOut} {l : List (Nat × List Byte × Bool)} {a b : Nat} {f : Flags} (h : writesOf o = some (l, a, b, f)) :
    o = .writes l a b f := by
  cases o with
  | writes => obtain ⟨⟩ := h; rfl
  | _ => exact absurd h nofun

theorem residue_pair {s : State} {a b n : Nat} (h : a = b) (k : (residueFails s b n).2 = true) :
    residueFails s a n = ((residueFails s b n).1, true) := by
  subst h; exact Prod.ext rfl k

theorem selects_comparator {s : State} {off v : Nat} (h : off = 0x5080) (k : v = 2) : mgmtWrite s off v = some (l1_w14, l1_w15) := by
  subst h; subst k; rfl
/-- An operation on frame 5 with a core's request in that frame, and one whose words of the maps lie on a fenced die. -/
def fmHeld : State :=
  let s := fmBusy 1 1
  { s with cores := [(7, { reqs := [(0, some { ent := 0, kind := 0, pieces := [{ src := 5 * 65536, dst := 0, len := 16 }] })] })] }
def fmFenced : State := let s := fmBusy 1 1; { s with hang := { dstate := [(0, 1), (1, 1), (2, 1), (3, 1)] } }
/-- A cap command of 900 W has been applied in this cycle. -/
def capped : State := powered (fun x => { x with cap := 900, capAt := 1000000001, capWas := 1600 })
def areaPost5 : Post := post 1 [(3, 1, 1), (16, 8, 0x10000), (24, 1, 5), (25, 4, 0x07010203)]
def preemptPost : Post := post 10 []
def ctxSaving : State :=
  onCtx (queued (resident base .saving) preemptPost) (fun x => { x with saving := some { kind := 1, tag := 5, start := 0 } })
def preemptIdle : State := queued (resident base .idle) preemptPost
def offPost (v : Nat) : Post := post 34 [(16, 1, v)]
def off0 : Post := offPost 0
def off2 : Post := offPost 2
def off3 : Post := offPost 3
def offDozing : State := queued dozing off0
def capForeign : Post := post 33 []
def partForeign : Post := post 32 []
/-- The link is up. -/
def linked : State := withRegs base pgPcie [(0x040, 1)]
def areaQueued : State := queued base areaPost5
def save0 : Saving := { kind := 1, tag := 5, start := 0 }
def offQueued2 : State := queued base off2
def offQueued3 : State := queued base off3
/-- Before acceptance with PARTITION 2's frames; a VALID frame whose granules are poisoned; a channel in a maintenance window. -/
def poisoned0 : State := { frames base with poison := [(physOf (placeOf (frames base) (frameEntry (frames base) 0) 0) / 32, true)] }
def inMaint : State := { frames base with hbmStacks := (List.range 12).map (fun k => (k, { state := 1, maint := (List.range 16).map (fun i => (i, true)) })) }
/-- What an answer holds, `d` where it holds the other. -/
def okOr {α β : Type} (x : Except α β) (d : β) : β := match x with | .ok a => a | .error _ => d
def errOr {α β : Type} (x : Except α β) (d : α) : α := match x with | .ok _ => d | .error e => e
/-- Every channel is in a maintenance window; a core moves; messages on their way. -/
def maintained (s : State) : State :=
  { s with hbmStacks := (List.range 12).map (fun k => (k, { state := 1, maint := (List.range 16).map (fun i => (i, true)) })) }
def moves (core : Nat) (s : State) : State := modPage s (pgCore core) (fun p => { p with moving := true })
def fenced (d : Nat) (s : State) : State := { s with hang := { s.hang with dstate := [(d, 3)] } }
def lineWaits : State := maintained (runningM id)
def startsLr : State := inWindow [went 0 (ins 1 0 [])]
def startsOp : State := inWindow [went 0 (ins 2 0 [])]
def startsVx : State := inWindow [went 0 (ins 3 0 [])]
def piece0 : Piece := { src := 0, dst := 0, len := 16 }
def redoes : State := inWindow [{ wrun (ins 4 0 []) moveTd 0 with redo := [piece0] }]
def aheadTd : List Nat := moveTd.set 0 4
def refusedReq : DmReq := { dmReq 1 with bad := 4 }
def putRefused : State := inDm refusedReq
def missFails : State := { runningM (fun x => { x with misses := [0] }) with hang := { dstate := [(0, 1), (1, 1), (2, 1), (3, 1)] } }
def ahead0 : State := inWindow [{ went 0 (ins 4 0 []) with td := aheadTd }]
/-- Contributions: whole, to a core that moves, behind a fence, sent twice, and an acknowledgement that nothing awaits. -/
def accWhole : State := twoCores id id [imsg (.acc 7 9 2 4 (List.replicate 64 1) 0 (some 1) 0)]
def accMoving : State := moves 9 (twoCores id id [e2_aMsg])
def ordFenced : State := off (twoCores id e2_slot1 [e2_oMsg])
def ordTwice : State :=
  twoCores id (fun x => { x with slots := [(1, { isOpen := true, w0 := 3 + 4096 + 2 ^ 24, w1 := 5 + 2 * 2 ^ 16, got := [(0, 0)] })] }) [e2_oMsg]
def accLate : State := twoCores id id [e2_kMsg]
/-- MS: an ARRIVE in progress, an ADD that HOLD kept, a TWAIT within its limit, and one whose timeout milestone is a barrier. -/
def arriving : State := inMs { mwent 3 [] [5 + 256 * 7, 0, 0, 0, 256 * 6] with st := 1, sat := true }
def addKept : State := inMs { mwent 1 [] [5 + 256 * 9 + 2 ^ 20, 1 + 3 * 65536, 9] with st := 1, sat := true }
def twaitOpen : State := inMs { e2_tw with since := 1000000001 }
def twaitBarrier : State := twoCores (fun x => { e2_bar x with window := [{ e2_tw with since := 1 }], nextId := 1 }) id []
/-- ADD messages that wait, come late or are refused. -/
def addMoving : State := moves 9 (twoCores id id [e2_addM])
def addEpoch : State := twoCores e2_inAdd id [{ e2_addA with epoch := 1 }]
def addOther : State := twoCores e2_inAdd id [{ e2_addA with req := 3 }]
def remAck : Msg := imsg (.remoteAddAck 7 9)
def remGone : State := twoCores e2_inAdd id [{ remAck with srcChip := 9 }]
def remOther : State := twoCores e2_inAdd id [{ remAck with req := 3 }]
def remDone : State := twoCores e2_inAdd id [remAck]
def remFull : State := twoCores e2_inAdd id [{ remAck with code := Code.noSpace.num }]
def remRefused : State := twoCores e2_inAdd id [{ remAck with code := Code.wrongState.num }]
def remMoving : State := moves 9 (twoCores id id [e2_remA])
def remFenced : State := off (twoCores id id [e2_remA])
def remHeldFull : State :=
  { idleCtx (twoCores id id [e2_remA]) with heldQ := [(0, List.replicate 1024 { core := 9, ms := 4, last := 0, inc := 1, ctx := 3 })] }
def remBarrier : State := twoCores id e2_bar [e2_remA]
def remTaken : State := twoCores id id [e2_remA]
/-- Barrier messages that wait or are turned away, and an arrival that fills its round. -/
def arrMoving : State := moves 9 (twoCores id e4_bar [e4_arr 2])
def arrFenced : State := off (twoCores id e4_bar [e4_arr 2])
def arrCount : State := twoCores id id [e4_arr 2]
def arrFills : State :=
  twoCores id (fun x => { x with miles := [(4, { barrier := true, gen := 2, value := 0x30002, relMs := 6 })] }) [e4_arr 2]
def relMoving : State := moves 9 (twoCores id id [e4_w4])
def relFenced : State := twoCores id id [{ e4_w4 with code := 4 }]
def relBarrier : State := twoCores id (fun x => { x with miles := [(6, { barrier := true })] }) [e4_w4]
/-- Saves: a header that cannot be written, one that ends a pre-emption, one before a forced test, and an ADD to another chip awaited. -/
def saveNow : Saving := { kind := 1, tag := 5, start := 999990000, phase2 := true }
def saveUnmapped : State := savingCtx saveNow base id
def savePreempt : State := savingCtx saveNow (frames base) (fun x => { x with preemptPost := some ref0 })
def saveForced : State := savingCtx { saveNow with after := 4 } (frames base) id
def saveAwaits : State :=
  modCore (savingCtx { saveNow with phase2 := false, start := 900000000 } (frames base) id) 7 (fun x =>
    { x with window := [{ mwent 1 [] [5 + 256 * 9 + 2 ^ 20, 1 + 3 * 65536, 9] with st := 1, sat := true, sent := 1 }] })
/-- A fault of core 7's site has settled. -/
def settledOf (f : Site → Site) : State := modSite (onCtx base (fun x => { e4_flt x with hwCores := [7] })) (siteOf base 7) f
def settledTesting : State := settledOf (fun x => { x with testing := true })
def settledFirst : State := settledOf id
def settledAgain : State := settledOf (fun x => { x with failed := true })
def settledRestart : State := { settledAgain with hang := { restartAt := [(0, some 5)] } }
/-- A kerbside share in progress of the descriptor `w`. -/
def inShare (w : List Nat) (ch : Nat) : State := inList w ch { words := w, stage := 2 }
def alignDesc : List Nat := addDesc.set 10 0x200
def readFails : State := inShare (addDesc.set 10 0x400000) 16
def alignFails : State := inShare alignDesc 16
def blockFails : State := inShare (addDesc.set 8 0x400000) 128
def indexFails : State := inShare (gatherDesc.set 10 0x400000) 0
def statusFails : State := inList (addDesc.set 18 0x400000) 16 { words := addDesc.set 18 0x400000, stage := 2, block := 1 }
def statusWaits : State := maintained e6_sDone
/-- A gather or scatter of one row, its index word as given; another channel's window holds its output or its input back. -/
def gath (w : List Nat) (ch idx : Nat) : State := bytesAt (inShare w ch) 0x400 (words [idx])
def scatDesc : List Nat := gatherDesc.set 0 (9 + 32 + 9 * 65536)
def otherWindow (s : State) : State := modStack s 1 (fun x => { x with maint := [(1, true)] })
def outWaits : State := otherWindow (gath gatherDesc 16 0)
def scatWaits : State := otherWindow (gath scatDesc 16 0)
def scatZero : State := gath scatDesc 0 0xFFFFFFFF
def gathOutFails : State := gath (gatherDesc.set 12 0x400000) 16 0
def zeroFails : State := gath (gatherDesc.set 12 0x400000) 0 0xFFFFFFFF
/-- The part that waits for its reduction: its own bytes unmapped, its channel in a window, and its last step. -/
def redUnmapped : State := { e7_sRed with fm := {} }
def redWaits : State := maintained e7_sRed
def redLastMsg : ColMsg := { e7_cm with step := 1 }
def redLastOf (w : List Nat) : State :=
  { runningM id with cols := [(0, { reduce := [{ slot := 0, msg := imsg (.col redLastMsg) }], slots := [(0, { armed := true, ctx := 3, words := w })] })] }
def redLastRed : Reduce := { slot := 0, msg := imsg (.col redLastMsg) }
/-- Where the member's own bytes of a part lie, the channel that holds them, and the bytes. -/
def ownAt (s : State) (k : Nat) (m : ColMsg) : Nat := wAddr (getColSlot s 0 k).words 12 + 64 * m.offset
def ownChan (s : State) (k : Nat) (m : ColMsg) : Nat := (placeOf s (frameEntry s (ownAt s k m / 65536)) (ownAt s k m)).1
def ownRead (s : State) (k : Nat) (m : ColMsg) : Except (Code × Nat) (List Byte) :=
  readRangeAt s 0 (ctxPart s (getColSlot s 0 k).ctx) (ownAt s k m) m.payload.length
def redLast : State := redLastOf e7_ringW
def redLastFails : State := redLastOf (e7_ringW.set 14 0x400000)
/-- What a computation answers. -/
def writesAll (o : KOut) : List (Nat × List Byte × Bool) × Nat × Nat × Flags := (writesOf o).getD ([], 0, 0, 0)
/-- Port 3: attempts that go on, an identity that changed, flits that are due, and packets that cannot go on. -/
def justLit : State := f0_P { light := true, tstate := 1, trainAt := 999999999 }
def idChanged : State := f0_L { tstate := 4, light := true, retrain := true, nbr := some f0_w9 }
def idOther : Ident := { id1 with chip := 9 }
def idPort : Ident := { id1 with port := 9 }
def flitIdBad : Flit := { flit0 with crcOk := false, ident := some id1 }
def flitSyncBad : Flit := { flit0 with crcOk := false, sync := true }
def flitId : Flit := { flit0 with ident := some id1 }
def flitSync : Flit := { flit0 with sync := true, stamps := [5] }
def sendsSync : State := f0_L { tstate := 5, light := true, syncOut := some (5, 6) }
def sendsLater : State := f0_L { tstate := 5, light := true, widthChanging := true, widthAt := 7 }
def sendsAgain : State := f0_L { tstate := 5, light := true, resendFrom := some 0, replay := [flit0] }
def sendsFull : State := f0_L { tstate := 5, light := true, replay := List.replicate 8192 flit0 }
def inReset (d : Domain) (s : State) : State := { s with hang := { s.hang with resets := [{ dom := d, start := 0 }] } }
def rxDown : State := inReset (.port 3) f0_w18
def routedFar : State := { setPort f0_w18 11 { tstate := 5, light := true } with routes := [(0, { bank0 := [(8, 2 ^ 15 + 11)], bank1 := [(8, 2 ^ 15 + 11)] })] }
def bypassFull (s : State) : State :=
  let m := msgTo 8
  { s with fabric := { s.fabric with packets := [{ packetOf (linkStop 3) (linkStop 11) (.msg m) m with here := some (.bypass (bypassWay 0 1)), flits := 20 }] } }
def routedShut : State := bypassFull routedFar
def out0 : OutReq := outReq 0
def rxHere : State := f0_L { tstate := 5, light := true, rxQueue := [msgTo 0] }
def downDies (l : List Nat) (s : State) : State := { s with hang := { s.hang with dstate := l.map (fun d => (d, 1)) } }
def rxNowhere : State := downDies [0, 1, 2, 3] rxHere
def rxNext : State := downDies [0] rxHere
def rxNextShut : State := bypassFull rxNext
/-- Trace buffers that are full, or whose record cannot be written. -/
def traceFull : State := f1_traced { f1_trc with queue := [f1_rec0], full := true }
def traceUnmapped : State := setTrace base 2 { f1_trc with queue := [f1_rec0] }
def ixReq0 : IxReq := g1_req 1
def resend0 : Resend := h1_rs 0
/-- The exchange or collective message that a message carries. -/
def ixOf (b : Body) : IxMsg := match b with | .ix b => b | _ => g1_tk
def colOf (b : Body) : ColMsg := match b with | .col b => b | _ => h1_pt
/-- Exchanges: a zero row that cannot be written, a signal that waits, and requests that are turned away, strays, held or ahead. -/
def ixRowFails : State := { g1_sI { phase := 3, arriveDone := true, routes := [(1, 0xFFFFFFFF)] } with fm := {} }
def ixSigWaits : State := g1_sI { phase := 1, sigs := [{ kind := 0, core := 7, ms := 1, inc := 1 }], sigAt := 5 }
def ixCnt : IxMsg := ixm 1 0 0 (words [0])
def ixEnd0 : IxMsg := ixm 7 9 0 []
def ixFenced : State := inIx { phase := 1 } {} [{ ixMsg ixCnt with code := 4 }]
def ixDown : State := downDies [0] (g1_M { phase := 1 } ixCnt)
def ixOtherJob : State := onCtx (g1_M { phase := 1 } ixCnt) (fun x => { x with jobTag := 8 })
def ixNoSlot : State := g1_M { phase := 1 } { ixCnt with tag := 6 }
def ixNoRank : State := g1_M { phase := 1 } { ixCnt with srcRank := 5 }
def ixFar : State := g1_M { phase := 1 } { ixCnt with round := 3 }
def ixAhead : State := g1_M { phase := 1 } { ixCnt with round := 1 }
def ixAbortOver : State := g1_M { phase := 6 } ixEnd0
def ixAbortAhead : State := g1_M { phase := 1 } { ixEnd0 with round := 1 }
def ixAbortNoRank : State := g1_M { phase := 1 } { ixEnd0 with round := 1, srcRank := 5 }
def ixTokenAhead : State := g1_M { phase := 3 } { g1_tk with round := 1 }
def ixGrantBeyond : State := g1_M { phase := 1 } (ixm 2 0 1 (words [0]))
def ixWordsSet (w : List Nat) (s : State) : State := setIxSlot s 0 2 { getIxSlot s 0 2 with words := w }
def ixReadyPlain : State := ixWordsSet (ex2.set 1 0) (g1_M { phase := 3 } (ixm 4 0 0 []))
def ixFetchEarly : State := g1_M { phase := 3 } (ixm 5 0 0 [])
def ixFdLost : State := inIx { phase := 3 } {} [{ ixMsg g1_fd with resp := true, req := 5 }]
def ixAckLost : State := inIx { phase := 3 } {} [{ ixMsg (ixm 8 0 0 []) with resp := true, req := 5 }]
def ixFdOver : State := inIx { phase := 6 } { open_ := [g1_req 5] } [{ ixMsg g1_fd with resp := true, req := 5 }]
def ixAckOver : State := inIx { phase := 6 } { open_ := [g1_req 1] } [{ ixMsg (ixm 8 0 0 []) with resp := true, req := 5 }]
def ixAckRow : State := g1_A 3 0 (ixm 8 0 0 [])
/-- Collectives: signals at a round's end, and requests that are turned away, strays, held or ahead. -/
def colSigAt (f : Core → Core) (l : List Held) : State :=
  modCore { h1_C h1_bar1 { phase := 3, sigs := [{ kind := 1, core := 7, ms := 0, inc := 1 }], sigAt := 5 } with heldQ := [(0, l)] } 7 f
def colSigFull : State := idleCtx (colSigAt id (List.replicate 1024 { core := 9, ms := 4, last := 0, inc := 1, ctx := 3 }))
def colSigBarrier : State := colSigAt (fun x => { x with miles := [(0, { barrier := true })] }) []
def colSigGone : State := onCtx (colSigAt id []) (fun x => { x with state := .free })
def colCnt : ColMsg := colm 2 1 1 []
def colEnd0 : ColMsg := colm 9 0 1 []
def colFenced : State := inCol h1_a2a { phase := 1 } {} [{ colMsg colCnt with code := 4 }]
def colDown : State := downDies [0] (h1_K h1_a2a { phase := 1 } colCnt)
def colOtherJob : State := onCtx (h1_K h1_a2a { phase := 1 } colCnt) (fun x => { x with jobTag := 8 })
def colNoSlot : State := h1_K h1_a2a { phase := 1 } { colCnt with tag := 6 }
def colReadyNext : State := h1_K h1_ring0 { phase := 2 } { colm 1 1 0 [] with round := 1 }
def colCntFar : State := h1_K h1_a2a { phase := 1 } { colCnt with round := 3 }
def colCntNext : State := h1_K h1_a2a { phase := 1 } { colCnt with round := 1 }
def colGoNext : State := h1_K h1_a2a { phase := 1 } { colm 3 1 1 [] with round := 1 }
def colArrFar : State := h1_K (col2 6 0 0) { phase := 1 } { colm 7 1 1 [] with round := 3 }
def colArrNext : State := h1_K (col2 6 0 0) { phase := 1, released := true } { colm 7 1 1 [] with round := 1 }
def colArrEarly : State := h1_K (col2 6 0 0) { phase := 1 } { colm 7 1 1 [] with round := 1 }
def colRelNext : State := h1_K h1_bar1 { phase := 1 } { colm 8 0 1 [] with round := 1 }
def colAbortFar : State := h1_K h1_bar1 { phase := 1 } { colEnd0 with round := 3 }
def colAbortOver : State := h1_K h1_bar1 { phase := 4 } colEnd0
def colPutMsg : Msg := { colMsg h1_pt with cw := 3 }
def colPutComes : State := inCol h1_put7 { phase := 3 } {} [colPutMsg]
def colPutBad : State := inCol h1_put7 { phase := 3 } {} [{ colMsg h1_ptb with cw := 3 }]
def colPutForgets : State := inCol h1_put7 { phase := 3 } {} [{ colMsg colEnd0 with cw := 3 }]
def colPartNext : State := h1_K h1_ring0 { phase := 2 } { h1_pt with round := 1 }
def colOnes (b : ColMsg) : ColMsg := { b with ext := [1] }
def served (n : Nat) : Resend := { req := 5, slot := 16, msg := imsg (.col h1_gd), fails := n }
def served3 : Resend := served 3
def resend3 : Resend := h1_rs 3
def colLostAck : State := inCol h1_ring0 { phase := 2 } {} [h1_an h1_ak 0]
def colLostNak : State := inCol h1_ring0 { phase := 2 } {} [h1_an h1_nk 6]
def colLostData : State := inCol h1_get8 { phase := 3 } {} [h1_an h1_gd 0]
def colServedAck : State := inCol h1_get8 { phase := 3 } { store := [served 0] } [h1_an (colOnes h1_ak) 0]
def colServedNak (n : Nat) : State := inCol h1_get8 { phase := 3 } { store := [served n] } [h1_an (colOnes h1_nk) 6]
def colServedNak0 : State := colServedNak 0
def colServedNak3 : State := colServedNak 3
def colAckOver : State := inCol h1_ring0 { phase := 4 } { store := [h1_rs 0] } [h1_an h1_ak 0]
def colNakOver : State := inCol h1_ring0 { phase := 4 } { store := [h1_rs 0] } [h1_an h1_nk 6]
def asks2 : ColReq := { req := 5, slot := 2, rank := 1, typ := 2, cw := 1 }
def colAsks (code : Nat) : State := inCol h1_a2a { phase := 1 } { open_ := [asks2] } [h1_an h1_ak code]
def colAsks0 : State := colAsks 0
def colAsksFull : State := colAsks Code.noSpace.num
def colGetFull : State := inCol h1_put7 { phase := 0 } { store := List.replicate 4096 resend0 } [colMsg h1_gq]
def colGetUnmapped : State := { h1_w31 with fm := {} }
def colDataOver : State := inCol h1_get8 { phase := 4 } { open_ := [h1_aN] } [h1_an h1_gd 0]
def colDataFourth : State := inCol h1_get8 { phase := 3, fails := [(0, 3)] } { open_ := [h1_aN] } [h1_an h1_gdb 0]
def colDataUnmapped : State := { h1_sGd with fm := {} }
def served0 : Resend := served 0
def colDataLate : State := inCol h1_get8 { phase := 3 } { store := [resend0] } [h1_an h1_gd 0]
/-- Site n is under test since 1 µs, for the reason `why`, and its role is r. -/
def underTest (n why core r : Nat) : State :=
  { modSite base n (fun x => { x with testing := true, role := r, faults := [5] }) with
    hide := { tests := [{ site := n, why := why, core := core, start := 999999000 }] } }
def test0 (r : Nat) : State := underTest 8708 0 0 r
def test00 : State := test0 0
def test1Home : State := underTest (siteOf base 7) 1 7 1
def test1Away : State := underTest 8708 1 7 1
def test21 : State := underTest 8708 2 7 1
def test22 : State := underTest 8708 2 7 2
def test3 : State := underTest 8708 3 7 1
def test4 : State := underTest 8708 4 7 1
def katOther : State := idleCtx (late (running id))
def moveBack : State := moving7 1
def coreLeft : State := modSite (inRst (.core 7) 0 true false) (siteOf base 7) (fun x => { x with failed := true })
def portSoon : State := inRst (.port 7) 999999999 false false
def moveBusy : State := { running (fun x => { x with reqs := [(0, some (dmReq 0))] }) with hide := { moves := [j1_w4] } }
def votedRun1 : ShadowRun := { shadowRun with crc1 := some 6, site2 := none }
def onlySite (r : ShadowRun) : State :=
  let s := shadowed r
  { s with sites := (freeSites s 0).filterMap (fun n => if n == 8708 then none else some (n, { getSite s n with testing := true })) }
def voteWaits : State := onlySite votedRun1
def rampWaits : State :=
  let s := running (fun x => { x with grant := 20, step := 0 })
  { s with power := { s.power with released := List.replicate 128 (0, 999999999) } }
def rampSoon : State := running (fun x => { x with grant := 20, step := 20, rampAt := 5 })
def stackTrains : State := { k1_sTrain with boot := { k1_sTrain.boot with trainAt := 999999999 } }
def monitorNew : State := powered (fun x => { x with monitorAt := some 999999999 })
def mboxBadNop : State := mboxed (post 0 [(16, 1, 1)])
def mboxBadCap : State := mboxed (post 0x21 [(16, 2, 5)])
def mboxBadOff : State := mboxed (post 0x22 [(16, 1, 1)])
def mboxBadRead : State := mboxed (post 0x30 [(16, 4, 2)])
def mboxNoRead : State := mboxed (post 0x30 [(16, 4, 0xD000), (20, 1, 1)])
def mboxCapTied : State := let s := mboxed (post 0x21 [(16, 2, 800)]); { s with power := { s.power with capAt := 1000000001, capWas := 900 } }
def mboxOffWaits : State := let s := mboxed (post 0x22 [(16, 1, 2)]); { s with power := { s.power with entering := some .mailbox } }
def mboxOffRuns : State := mboxed (post 0x22 [(16, 1, 0)])
def mboxOffDrains : State := let s := mboxed (post 0x22 [(16, 1, 2)]); { s with hide := { draining := true } }
def mboxOffLeaves : State := let s := mboxed (post 0x22 [(16, 1, 0)]); { s with power := { s.power with state := .doze } }
def dozeWaits : State := { k1_w11 with hide := { moves := [j1_w4] } }
def testDrained : State := { booting (fun b => { b with phase := 5, testDone := false }) with hide := { draining := true } }
/-- An image of 256 bytes with no code, signed by the private key 1 with the nonce 1: the public key is the generator. -/
def keyOne : List Byte := beBytes 32 g256.1 ++ beBytes 32 g256.2
def signedImage : List Byte := [1] ++ List.replicate 63 0 ++ keyOne ++ beBytes 32 g256.1 ++
  beBytes 32 0xbcc7deac08133197c200dbad5fb9143115fbc339819bf364bd2223c1cb627788 ++ List.replicate 64 0
def verSigned : State := booting (fun b => {
  b with phase := 3, accepted := false, verifying := some (3, ref0, 256), buffer := ((List.range 256).zip signedImage).filter (fun e => e.2 != 0) })
def faultedBranch : State :=
  modCore faulted0 7 (fun x => { x with window := [{ id := 0, addr := 0, ins := ins 0 4 [(1, 8), (1, 96)] }], nextId := 1 })
/-- What waits for channels in maintenance windows: poisons, posts, saves, zero rows, records, parts and their answers. -/
def fmPoisonWaits : State :=
  let s := maintained (sPoisonQ 0 0); { s with fm := { s.fm with op := some { b1_w1 with before := 1 } } }
def runWaits : State := maintained image0
def attestWaits : State := maintained sAttest
def saveWaits : State := maintained savePreempt
def zeroWaits : State := otherWindow e6_sGath
def traceWaits : State := maintained f1_sTr
def ixCountWaits : State := maintained (g1_M { phase := 1 } ixCnt)
def ixFetchWaits : State := maintained g1_sFd
def colGetWaits : State := maintained h1_w31
def colDataWaits : State := maintained h1_sGd
/-- A reduction whose kerbside engine is in reset, and data of a round that is over and does not pass its check. -/
def redStopped : State := inReset (.kerb 16) e7_sRed
def colDataOverBad : State := inCol h1_get8 { phase := 4 } { open_ := [h1_aN] } [h1_an h1_gdb 0]
/-- A token that signals in stream mode. -/
def streamSigEnt : WEnt := wrun (ins 1 0 [(1, 96), (4, 90)] - 58 * 2 ^ 84) streamTd 1
def streamSig : State := inLr streamSigEnt { banks := [lrBank] } (fun x => { x with miles := [(4, { value := 1 })] })
/-- The acknowledgement of an ADD to another chip comes after its context has faulted; a round that is due before an arrival. -/
def remFault : State := onCtx remDone (fun x => { x with state := .faulted, replay := 1 })
def arrDue (r : Nat) : State := twoCores id e4_barF [e4_arr r]
def arrDue2 : State := arrDue 2
def arrDue3 : State := arrDue 3
def arrDue4 : State := arrDue 4
def arrDueShut : State := off (arrDue 2)
/-- Ports: a watched loss of light, a resend that has nothing to resend, a request in DOZE, and a synchronisation just asked for. -/
def lit6 : State :=
  let s := f0_P { light := true, tstate := 5 }; { s with power := { s.power with comps := [(6, { en := true, arg := 8 })] } }
def sendsGone : State := f0_L { tstate := 5, light := true, resendFrom := some 0 }
def rxDozing : State := off rxHere
def timedJust : State := { timed 0 with time := { askedAt := 1000000000 } }
/-- A site under test for its own core hangs; a core parked; a comparator that is due, and one that has fired and wakes. -/
def hangHome : State := late test1Home
def parkedOne : State := modCore (inWindow [went 0 (ins 1 0 [(1, 96), (4, 90)])]) 7 (fun x => { x with parkedAt := some 5 })
def cmpDue : State := powered (fun x => { x with comps := [(0, { en := true, arg := 5 })] })
def vinWakes : State := powered (fun x => { x with vinLowAt := some 5, comps := [(7, { en := true, wake := true, arg := 1, fired := true })] })
/-- Transfers on the I3C bus: with an error, to another target, a request, part of one, and reads of the response and the status. -/
def i3cTo (index : BitVec 8) (data : List Byte) (read : Nat) : I3cTransfer := { target := 0x40, index := index, data := data, read := read }
def i3cErr : I3cTransfer := { i3cTo 0 [] 0 with err := true }
def i3cElse : I3cTransfer := { i3cTo 0 [] 0 with target := 0x41 }
def i3cReq : I3cTransfer := i3cTo 0 (post 0 []).data 0
def i3cReqBad : I3cTransfer := i3cTo 0 (post 0x77 []).data 0
def i3cShort : I3cTransfer := i3cTo 0 [1] 0
def i3cResp : I3cTransfer := i3cTo 0x40 [] 4
def i3cStatus : I3cTransfer := i3cTo 0x60 [] 4

/-! ### Equations whose value is read off the left side -/

theorem some_at {α : Type} {o : Option α} {d : α} (h : o.isSome = true) : o = some (o.getD d) := by
  cases o with
  | some a => rfl
  | none => exact absurd h nofun
theorem ok_at {α β : Type} {x : Except α β} {d : β} (h : x.toOption.isSome = true) : x = .ok (okOr x d) := by
  cases x with
  | ok a => rfl
  | error e => exact absurd h nofun
theorem err_at {α β : Type} {x : Except α β} {d : α} (h : x.toOption.isNone = true) : x = .error (errOr x d) := by
  cases x with
  | error e => rfl
  | ok a => exact absurd h nofun
theorem pair_ok_at {σ α β : Type} {p : σ × Except α β} {d : β} (h : p.2.toOption.isSome = true) : p = (p.1, .ok (okOr p.2 d)) :=
  Prod.ext rfl (ok_at h)
theorem pair_ok_is {σ α β : Type} {p : σ × Except α β} {b : β} (h : p.2.toOption = some b) : p = (p.1, .ok b) :=
  Prod.ext rfl (ok_of h)
theorem pair_error_is {σ α β : Type} {p : σ × Except α β} {e : α} (h : errorOf p.2 = some e) : p = (p.1, .error e) :=
  Prod.ext rfl (error_of h)
theorem pair_is {σ α : Type} {p : σ × α} {b : α} (h : p.2 = b) : p = (p.1, b) := Prod.ext rfl h
theorem writes_at {o : KOut} (h : (writesOf o).isSome = true) :
    o = .writes (writesAll o).1 (writesAll o).2.1 (writesAll o).2.2.1 (writesAll o).2.2.2 := by
  cases o with
  | writes => rfl
  | _ => exact absurd h nofun
theorem all_some {α : Type} {o : Option α} {P : α → Prop} (h : (∃ a, o = some a ∧ P a) ∨ o = none) : ∀ t, o = some t → P t := by
  rintro t rfl
  rcases h with ⟨a, e, k⟩ | e
  · cases e; exact k
  · cases e
theorem wait_of {o : KOut} (h : (match o with | .wait => true | _ => false) = true) : o = .wait := by
  cases o with
  | wait => rfl
  | _ => exact absurd h nofun
theorem align_of {o : KOut} (h : (match o with | .align => true | _ => false) = true) : o = .align := by
  cases o with
  | align => rfl
  | _ => exact absurd h nofun
theorem fault_of {o : KOut} {f : Code} {a : Nat} (h : (match o with | .fault f a => some (f, a) | _ => none) = some (f, a)) :
    o = .fault f a := by
  cases o with
  | fault => obtain ⟨⟩ := h; rfl
  | _ => exact absurd h nofun
/-- Lists of a context that does not run wait for nothing. -/
theorem list_idle {s : State} {k c slot : Nat} (h : ((getCtx s c).state == .running) = false) : listRuns s k c slot = false := by
  simp only [listRuns, h, Bool.and_false, Bool.false_and]
theorem waits_idle {s : State} {c slot : Nat} {p q : Nat → Bool} (h : ((getCtx s c).state == .running) = false) :
    ∀ k, dieOfChan k = 0 → (listRuns s k c slot && p k && q k) = false := fun k _ => by
  rw [list_idle h, Bool.false_and, Bool.false_and]
/-- Engines that the list's record does not name stand at no trigger. -/
theorem waits_elsewhere {s : State} {c slot n : Nat} {p : KPos} {q : Nat → Bool} (h : (getList s c slot).pos = [(n, p)]) :
    ∀ k, k ≠ n → dieOfChan k = 0 → (listRuns s k c slot && (kPos s k c slot).stage == 1 && q k) = false := fun k hk _ => by
  have e : kPos s k c slot = {} := by
    rw [kPos, h]
    exact look_absent _ _ _ (fun e he => by rw [List.mem_singleton.1 he]; exact fun e => hk e.symm)
  rw [e]
  simp only [show ((({} : KPos).stage == 1)) = false from rfl, Bool.and_false, Bool.false_and]
theorem runs_elsewhere {m : SMap Nat} (h : m = [(5, 2)]) : ∀ j, j ≠ 5 → look m j 0 < 3 := fun j hj => by
  rw [h, look_absent _ _ _ (fun e he => by rw [List.mem_singleton.1 he]; exact fun e => hj e.symm)]
  decide

/-! ### The hypotheses of every statement are met: clause by clause, at the concrete states and operands above -/

/-- A sound state with bytes listed in its HBM, and a post waiting for the command in front. -/
def front0 : State := { c1_w15 with hbm := sCreate.hbm, pending := [.preempt 3, .hotReset] }
theorem front0_sound : Inv front0 := ⟨by decide +kernel, ⟨by decide +kernel, by decide +kernel, by decide +kernel⟩, nofun⟩
theorem meets_InvariantStep : Inv front0 ∧ step front0 = .next (nx (step front0)) :=
  ⟨front0_sound, next_of (by decide +kernel)⟩
theorem meets_QueueFrame : exec (.preempt 3) front0 = .next (nx (exec (.preempt 3) front0)) := next_of (by decide +kernel)
theorem meets_GuardedState : exec (.preempt 3) front0 = .next (nx (exec (.preempt 3) front0)) ∧ Inv front0 ∧
    Instr.preempt 3 ≠ .bringupPowerDone ∧ (∀ h d, Instr.preempt 3 ≠ .bringupOverrun h d) ∧ Instr.preempt 3 ≠ .lcCheckDone ∧
    (∀ k, Instr.preempt 3 ≠ .partSet k) :=
  ⟨meets_QueueFrame, front0_sound, nofun, nofun, nofun, nofun⟩
theorem meets_MemoryUnwritten : leavesMemory (.preempt 3) = true ∧ exec (.preempt 3) front0 = .next (nx (exec (.preempt 3) front0)) ∧
    front0.hbm ≠ [] ∧ restarting front0 4 = false ∧
    exec (.heartbeat 4) front0 = .next (nx (exec (.heartbeat 4) front0)) :=
  ⟨rfl, meets_QueueFrame, by decide +kernel, by decide +kernel, next_of (by decide +kernel)⟩
/-- The line that holds an instruction, with a reserved bit set in the second. -/
def goodWord (r : Nat × Nat × Instr) : Nat := ins r.1 r.2.1 []
def badWord (r : Nat × Nat × Instr) : Nat := ins r.1 r.2.1 [(1, 119)]
/-- Core 7 may dispatch the instruction i, which line 0 holds, and its word is of the row. -/
def comesNext (s : State) (i : Nat) (r : Nat × Nat × Instr) : Bool :=
  mayDispatch s 7 && lineFor (getCore s 7) (nextTarget (getCore s 7)).addr == some (line0 i) &&
    iEngine (nextWord s 7 (line0 i)) == r.1 && iOpcode (nextWord s 7 (line0 i)) == r.2.1
theorem meets_Dispatch :
    (∀ r ∈ dispatchRows 7, comesNext (fetched 2 (goodWord r)) (goodWord r) r = true ∧
      nextFail (fetched 2 (goodWord r)) 7 (line0 (goodWord r)) = none) ∧
    comesNext (fetched 0 (ins 0 2 [(5, 8)])) (ins 0 2 [(5, 8)]) (0, 2, .setloop 7) = true ∧
    nextFail (fetched 0 (ins 0 2 [(5, 8)])) 7 (line0 (ins 0 2 [(5, 8)])) = none ∧
    (∀ r ∈ dispatchRows 7, comesNext (fetched 0 (badWord r)) (badWord r) r = true ∧
      (nextFail (fetched 0 (badWord r)) 7 (line0 (badWord r))).isSome = true ∧
      (getCore (fetched 0 (badWord r)) 7).window.any openBranch = false ∧
      comesNext (behindBranch (badWord r)) (badWord r) r = true ∧
      (nextFail (behindBranch (badWord r)) 7 (line0 (badWord r))).isSome = true ∧
      (getCore (behindBranch (badWord r)) 7).window.any openBranch = true) ∧
    comesNext (fetched 0 (ins 9 1 [])) (ins 9 1 []) (9, 1, .seqNop 7 .dispatch) = true ∧
    comesNext (behindBranch (ins 9 1 [])) (ins 9 1 []) (9, 1, .seqNop 7 .dispatch) = true ∧
    opcodeDefined 9 1 = false ∧
    nextFail (fetched 0 (ins 9 1 [])) 7 (line0 (ins 9 1 [])) = some .badField ∧
    nextFail (behindBranch (ins 9 1 [])) 7 (line0 (ins 9 1 [])) = some .badField ∧
    mayDispatch faulted0 7 = true ∧ lineFor (getCore faulted0 7) (nextTarget (getCore faulted0 7)).addr = some { line := 0, fault := 5 } ∧
    (getCore faulted0 7).window.any openBranch = false ∧
    mayDispatch faultedBranch 7 = true ∧
    lineFor (getCore faultedBranch 7) (nextTarget (getCore faultedBranch 7)).addr = some { line := 0, fault := 5 } ∧
    (getCore faultedBranch 7).window.any openBranch = true := by
  and_intros <;> decide +kernel
theorem meets_StepRunsFront :
    a1_w0.pending = [Instr.hotReset, Instr.mboxNop] ∧
    base.pending = [] := by
  and_intros <;> first
    | decide +kernel
    | (unfold Front; decide +kernel)
    | (unfold signalsFree; decide +kernel)
    | (unfold staysUp; decide +kernel)
    | (unfold ixLive; decide +kernel)
    | (unfold colNow; decide +kernel)
    | (unfold WakesNone; decide +kernel)
    | ((repeat' first | decide +kernel | constructor); done)
    | exact ok_of (by decide +kernel)
    | exact error_of (by decide +kernel)
    | exact ok_at (by decide +kernel)
    | exact err_at (by decide +kernel)
    | exact pair_is (by decide +kernel)
    | exact pair_ok_at (by decide +kernel)
    | exact pair_ok_is (by decide +kernel)
    | exact pair_error_is (by decide +kernel)
    | exact writes_at (by decide +kernel)
    | exact wait_of (by decide +kernel)
    | exact align_of (by decide +kernel)
    | exact fault_of (by decide +kernel)
    | exact all_some (by decide +kernel)
    | (intro _ h; cases h; done)
    | (intro _ _ h; cases h; done)
theorem meets_OutsidePages :
    hubPowered base = true ∧
    blkOf (67108860 / 4096) = none := by
  and_intros <;> first
    | decide +kernel
    | (unfold Front; decide +kernel)
    | (unfold signalsFree; decide +kernel)
    | (unfold staysUp; decide +kernel)
    | (unfold ixLive; decide +kernel)
    | (unfold colNow; decide +kernel)
    | (unfold WakesNone; decide +kernel)
    | ((repeat' first | decide +kernel | constructor); done)
    | exact ok_of (by decide +kernel)
    | exact error_of (by decide +kernel)
    | exact ok_at (by decide +kernel)
    | exact err_at (by decide +kernel)
    | exact pair_is (by decide +kernel)
    | exact pair_ok_at (by decide +kernel)
    | exact pair_ok_is (by decide +kernel)
    | exact pair_error_is (by decide +kernel)
    | exact writes_at (by decide +kernel)
    | exact wait_of (by decide +kernel)
    | exact align_of (by decide +kernel)
    | exact fault_of (by decide +kernel)
    | exact all_some (by decide +kernel)
    | (intro _ h; cases h; done)
    | (intro _ _ h; cases h; done)
theorem meets_Bar2Outside :
    hubPowered base = true ∧
    4096 ≤ 4096 := by
  and_intros <;> first
    | decide +kernel
    | (unfold Front; decide +kernel)
    | (unfold signalsFree; decide +kernel)
    | (unfold staysUp; decide +kernel)
    | (unfold ixLive; decide +kernel)
    | (unfold colNow; decide +kernel)
    | (unfold WakesNone; decide +kernel)
    | ((repeat' first | decide +kernel | constructor); done)
    | exact ok_of (by decide +kernel)
    | exact error_of (by decide +kernel)
    | exact ok_at (by decide +kernel)
    | exact err_at (by decide +kernel)
    | exact pair_is (by decide +kernel)
    | exact pair_ok_at (by decide +kernel)
    | exact pair_ok_is (by decide +kernel)
    | exact pair_error_is (by decide +kernel)
    | exact writes_at (by decide +kernel)
    | exact wait_of (by decide +kernel)
    | exact align_of (by decide +kernel)
    | exact fault_of (by decide +kernel)
    | exact all_some (by decide +kernel)
    | (intro _ h; cases h; done)
    | (intro _ _ h; cases h; done)
theorem meets_HeaderCommands :
    hubPowered base = true ∧
    blkOf 5 = some Blk.aon ∧
    pageOwn base 0 5 = true ∧
    (getPage base 5).mask &&& ~~~0 &&& (getPage base 5).pend = 0 ∧
    hubPowered a1_w1 = true ∧
    pageOwn a1_w1 0 5 = true ∧
    (getPage a1_w1 5).mask &&& ~~~0 &&& (getPage a1_w1 5).pend ≠ 0 := by
  and_intros <;> first
    | decide +kernel
    | (unfold Front; decide +kernel)
    | (unfold signalsFree; decide +kernel)
    | (unfold staysUp; decide +kernel)
    | (unfold ixLive; decide +kernel)
    | (unfold colNow; decide +kernel)
    | (unfold WakesNone; decide +kernel)
    | ((repeat' first | decide +kernel | constructor); done)
    | exact ok_of (by decide +kernel)
    | exact error_of (by decide +kernel)
    | exact ok_at (by decide +kernel)
    | exact err_at (by decide +kernel)
    | exact pair_is (by decide +kernel)
    | exact pair_ok_at (by decide +kernel)
    | exact pair_ok_is (by decide +kernel)
    | exact pair_error_is (by decide +kernel)
    | exact writes_at (by decide +kernel)
    | exact wait_of (by decide +kernel)
    | exact align_of (by decide +kernel)
    | exact fault_of (by decide +kernel)
    | exact all_some (by decide +kernel)
    | (intro _ h; cases h; done)
    | (intro _ _ h; cases h; done)
theorem meets_SharedResources :
    hubPowered base = true ∧
    3 < 4 ∧
    16484 = pgQmc * 4096 + 100 ∧
    writable base 0 pgQmc 100 = true ∧
    (getPage base pgQmc).owner = none ∧
    writable a1_w3 0 pgQmc 100 = true ∧
    (getPage a1_w3 pgQmc).owner = some (0, 2) := by
  and_intros <;> first
    | decide +kernel
    | (unfold Front; decide +kernel)
    | (unfold signalsFree; decide +kernel)
    | (unfold staysUp; decide +kernel)
    | (unfold ixLive; decide +kernel)
    | (unfold colNow; decide +kernel)
    | (unfold WakesNone; decide +kernel)
    | ((repeat' first | decide +kernel | constructor); done)
    | exact ok_of (by decide +kernel)
    | exact error_of (by decide +kernel)
    | exact ok_at (by decide +kernel)
    | exact err_at (by decide +kernel)
    | exact pair_is (by decide +kernel)
    | exact pair_ok_at (by decide +kernel)
    | exact pair_ok_is (by decide +kernel)
    | exact pair_error_is (by decide +kernel)
    | exact writes_at (by decide +kernel)
    | exact wait_of (by decide +kernel)
    | exact align_of (by decide +kernel)
    | exact fault_of (by decide +kernel)
    | exact all_some (by decide +kernel)
    | (intro _ h; cases h; done)
    | (intro _ _ h; cases h; done)
theorem meets_WritesTurnedAway :
    hubPowered base = true ∧
    blkOf (20608 / 4096) = some Blk.aon ∧
    (2 ≠ 4 ∨ 20608 % 4 ≠ 0) ∧
    (16806916 = pgCore 7 * 4096 + 1028 ∨ 16806916 = pgCore 7 * 4096 + 392) ∧
    pageOwn base 3 (pgCore 7) = false ∧
    hubPowered a1_w5 = true ∧
    pageOwn a1_w5 0 (pgCore 7) = true ∧
    gated a1_w5 (pgCore 7) = true := by
  and_intros <;> first
    | decide +kernel
    | (unfold Front; decide +kernel)
    | (unfold signalsFree; decide +kernel)
    | (unfold staysUp; decide +kernel)
    | (unfold ixLive; decide +kernel)
    | (unfold colNow; decide +kernel)
    | (unfold WakesNone; decide +kernel)
    | ((repeat' first | decide +kernel | constructor); done)
    | exact ok_of (by decide +kernel)
    | exact error_of (by decide +kernel)
    | exact ok_at (by decide +kernel)
    | exact err_at (by decide +kernel)
    | exact pair_is (by decide +kernel)
    | exact pair_ok_at (by decide +kernel)
    | exact pair_ok_is (by decide +kernel)
    | exact pair_error_is (by decide +kernel)
    | exact writes_at (by decide +kernel)
    | exact wait_of (by decide +kernel)
    | exact align_of (by decide +kernel)
    | exact fault_of (by decide +kernel)
    | exact all_some (by decide +kernel)
    | (intro _ h; cases h; done)
    | (intro _ _ h; cases h; done)
theorem meets_CoreRegisterWrites :
    writable base 0 (pgCore 7) 816 = true ∧
    16806916 = pgCore 7 * 4096 + 1028 ∧
    1 ≤ 64 ∧
    64 ≤ 64 ∧
    16806280 = pgCore 7 * 4096 + 392 ∧
    64 ≠ 0 ∧
    coreBusy base 7 = false := by
  and_intros <;> first
    | decide +kernel
    | (unfold Front; decide +kernel)
    | (unfold signalsFree; decide +kernel)
    | (unfold staysUp; decide +kernel)
    | (unfold ixLive; decide +kernel)
    | (unfold colNow; decide +kernel)
    | (unfold WakesNone; decide +kernel)
    | ((repeat' first | decide +kernel | constructor); done)
    | exact ok_of (by decide +kernel)
    | exact error_of (by decide +kernel)
    | exact ok_at (by decide +kernel)
    | exact err_at (by decide +kernel)
    | exact pair_is (by decide +kernel)
    | exact pair_ok_at (by decide +kernel)
    | exact pair_ok_is (by decide +kernel)
    | exact pair_error_is (by decide +kernel)
    | exact writes_at (by decide +kernel)
    | exact wait_of (by decide +kernel)
    | exact align_of (by decide +kernel)
    | exact fault_of (by decide +kernel)
    | exact all_some (by decide +kernel)
    | (intro _ h; cases h; done)
    | (intro _ _ h; cases h; done)
theorem meets_PairedRegisters :
    33551112 = pgCore 4095 * 4096 + 776 ∧
    33551116 = pgCore 4095 * 4096 + 780 ∧
    writable base 0 (pgCore 4095) 776 = true ∧
    coreBusy base 4095 = false ∧
    240 % 16 = 0 ∧
    240 < 256 ∧
    look (getPage base (pgCore 4095)).stage (16 * 776 + 0) none = none ∧
    writable a1_w9 0 (pgCore 4095) 776 = true ∧
    coreBusy a1_w9 4095 = false ∧
    look (getPage a1_w9 (pgCore 4095)).stage (16 * 776 + 0) none = some 1193040 ∧
    hubPowered base = true ∧
    0 = 0 ∧
    24640 = pgOdo * 4096 + 64 ∧
    pageOwn base 0 (pgCore 4095) = true ∧
    gated base (pgCore 4095) = false := by
  and_intros <;> first
    | decide +kernel
    | (unfold Front; decide +kernel)
    | (unfold signalsFree; decide +kernel)
    | (unfold staysUp; decide +kernel)
    | (unfold ixLive; decide +kernel)
    | (unfold colNow; decide +kernel)
    | (unfold WakesNone; decide +kernel)
    | ((repeat' first | decide +kernel | constructor); done)
    | exact ok_of (by decide +kernel)
    | exact error_of (by decide +kernel)
    | exact ok_at (by decide +kernel)
    | exact err_at (by decide +kernel)
    | exact pair_is (by decide +kernel)
    | exact pair_ok_at (by decide +kernel)
    | exact pair_ok_is (by decide +kernel)
    | exact pair_error_is (by decide +kernel)
    | exact writes_at (by decide +kernel)
    | exact wait_of (by decide +kernel)
    | exact align_of (by decide +kernel)
    | exact fault_of (by decide +kernel)
    | exact all_some (by decide +kernel)
    | (intro _ h; cases h; done)
    | (intro _ _ h; cases h; done)
theorem meets_FrameMapPort :
    writable base 0 fmPage 276 = true ∧
    base.fm.op = none ∧
    writable sFm 0 fmPage 276 = true ∧
    sFm.fm.op = none ∧
    fmEntryBad sFm (reg64 sFm fmPage 268) = false ∧
    fmEntryBad base (reg64 base fmPage 268) = true ∧
    writable b1_w0 0 fmPage 276 = true ∧
    b1_w0.fm.op ≠ none ∧
    fmPoisonWaits.fm.op = some (fmPoisonWaits.fm.op.getD b1_w1) ∧
    (fmPoisonWaits.fm.op.getD b1_w1).before ≠ 0 ∧
    poisonReady fmPoisonWaits = false ∧
    fmHeld.fm.op = some b1_w1 ∧
    b1_w1.before = 0 ∧
    (frameInUse fmHeld b1_w1.frame = true ∨ fmReady fmHeld b1_w1 = false) ∧
    fmFenced.fm.op = some b1_w1 ∧
    frameInUse fmFenced b1_w1.frame = false ∧
    fmReady fmFenced b1_w1 = true ∧
    List.findSome? (mapFail fmFenced) (fmWords fmFenced b1_w1) = some Code.fenced ∧
    b1_w0.fm.op = some b1_w1 ∧
    frameInUse b1_w0 b1_w1.frame = false ∧
    fmReady b1_w0 b1_w1 = true ∧
    List.findSome? (mapFail b1_w0) (fmWords b1_w0 b1_w1) = none := by
  and_intros <;> first
    | decide +kernel
    | (unfold Front; decide +kernel)
    | (unfold signalsFree; decide +kernel)
    | (unfold staysUp; decide +kernel)
    | (unfold ixLive; decide +kernel)
    | (unfold colNow; decide +kernel)
    | (unfold WakesNone; decide +kernel)
    | ((repeat' first | decide +kernel | constructor); done)
    | exact ok_of (by decide +kernel)
    | exact error_of (by decide +kernel)
    | exact ok_at (by decide +kernel)
    | exact err_at (by decide +kernel)
    | exact pair_is (by decide +kernel)
    | exact pair_ok_at (by decide +kernel)
    | exact pair_ok_is (by decide +kernel)
    | exact pair_error_is (by decide +kernel)
    | exact writes_at (by decide +kernel)
    | exact wait_of (by decide +kernel)
    | exact align_of (by decide +kernel)
    | exact fault_of (by decide +kernel)
    | exact all_some (by decide +kernel)
    | (intro _ h; cases h; done)
    | (intro _ _ h; cases h; done)
theorem meets_PoisonLog :
    0 = 0 ∧
    gated base fmPage = false ∧
    1 ≠ 0 ∧
    poisonReady fmPoisonWaits = false ∧
    b1_w10.fm.op = none ∧
    b1_w10.fm.poisonQ = (5, 0) :: b1_w7 ∧
    poisonReady b1_w10 = true := by
  and_intros <;> first
    | decide +kernel
    | (unfold Front; decide +kernel)
    | (unfold signalsFree; decide +kernel)
    | (unfold staysUp; decide +kernel)
    | (unfold ixLive; decide +kernel)
    | (unfold colNow; decide +kernel)
    | (unfold WakesNone; decide +kernel)
    | ((repeat' first | decide +kernel | constructor); done)
    | exact ok_of (by decide +kernel)
    | exact error_of (by decide +kernel)
    | exact ok_at (by decide +kernel)
    | exact err_at (by decide +kernel)
    | exact pair_is (by decide +kernel)
    | exact pair_ok_at (by decide +kernel)
    | exact pair_ok_is (by decide +kernel)
    | exact pair_error_is (by decide +kernel)
    | exact writes_at (by decide +kernel)
    | exact wait_of (by decide +kernel)
    | exact align_of (by decide +kernel)
    | exact fault_of (by decide +kernel)
    | exact all_some (by decide +kernel)
    | (intro _ h; cases h; done)
    | (intro _ _ h; cases h; done)
theorem meets_RemoteLineFlush :
    writable base 0 (pgRlc 0) 76 = true ∧
    (getRlc base 0).flush = none ∧
    rlcBase base 0 + 128 * rlcLines base 0 ≤ 2 ^ 40 ∧
    (getRlc sRlcFlush 1).flush = some b1_w11 ∧
    b1_w11.post = none ∧
    (getRlc sRlcFlush 1).waiting = [] := by
  and_intros <;> first
    | decide +kernel
    | (unfold Front; decide +kernel)
    | (unfold signalsFree; decide +kernel)
    | (unfold staysUp; decide +kernel)
    | (unfold ixLive; decide +kernel)
    | (unfold colNow; decide +kernel)
    | (unfold WakesNone; decide +kernel)
    | ((repeat' first | decide +kernel | constructor); done)
    | exact ok_of (by decide +kernel)
    | exact error_of (by decide +kernel)
    | exact ok_at (by decide +kernel)
    | exact err_at (by decide +kernel)
    | exact pair_is (by decide +kernel)
    | exact pair_ok_at (by decide +kernel)
    | exact pair_ok_is (by decide +kernel)
    | exact pair_error_is (by decide +kernel)
    | exact writes_at (by decide +kernel)
    | exact wait_of (by decide +kernel)
    | exact align_of (by decide +kernel)
    | exact fault_of (by decide +kernel)
    | exact all_some (by decide +kernel)
    | (intro _ h; cases h; done)
    | (intro _ _ h; cases h; done)
theorem meets_Telemetry :
    writable base 0 (pgFabric 0) 80 = true ∧
    0 < 2 ^ 17 ∧
    stopOk (bitOf 0 16) (0 % 65536) = true ∧
    pageOwn base 0 (pgFabric 0) = true ∧
    gated base (pgFabric 0) = false ∧
    pageOwn base 1 (pgFabric 0) = false := by
  and_intros <;> first
    | decide +kernel
    | (unfold Front; decide +kernel)
    | (unfold signalsFree; decide +kernel)
    | (unfold staysUp; decide +kernel)
    | (unfold ixLive; decide +kernel)
    | (unfold colNow; decide +kernel)
    | (unfold WakesNone; decide +kernel)
    | ((repeat' first | decide +kernel | constructor); done)
    | exact ok_of (by decide +kernel)
    | exact error_of (by decide +kernel)
    | exact ok_at (by decide +kernel)
    | exact err_at (by decide +kernel)
    | exact pair_is (by decide +kernel)
    | exact pair_ok_at (by decide +kernel)
    | exact pair_ok_is (by decide +kernel)
    | exact pair_error_is (by decide +kernel)
    | exact writes_at (by decide +kernel)
    | exact wait_of (by decide +kernel)
    | exact align_of (by decide +kernel)
    | exact fault_of (by decide +kernel)
    | exact all_some (by decide +kernel)
    | (intro _ h; cases h; done)
    | (intro _ _ h; cases h; done)
theorem meets_RoutingPort :
    writable base 0 (pgRoute 0) 264 = true ∧
    (getRoute base 0).op = none ∧
    writable b1_w13 0 (pgRoute 2) 264 = true ∧
    (getRoute b1_w13 2).op ≠ none ∧
    (getRoute b1_w13 2).op = some b1_w14 := by
  and_intros <;> first
    | decide +kernel
    | (unfold Front; decide +kernel)
    | (unfold signalsFree; decide +kernel)
    | (unfold staysUp; decide +kernel)
    | (unfold ixLive; decide +kernel)
    | (unfold colNow; decide +kernel)
    | (unfold WakesNone; decide +kernel)
    | ((repeat' first | decide +kernel | constructor); done)
    | exact ok_of (by decide +kernel)
    | exact error_of (by decide +kernel)
    | exact ok_at (by decide +kernel)
    | exact err_at (by decide +kernel)
    | exact pair_is (by decide +kernel)
    | exact pair_ok_at (by decide +kernel)
    | exact pair_ok_is (by decide +kernel)
    | exact pair_error_is (by decide +kernel)
    | exact writes_at (by decide +kernel)
    | exact wait_of (by decide +kernel)
    | exact align_of (by decide +kernel)
    | exact fault_of (by decide +kernel)
    | exact all_some (by decide +kernel)
    | (intro _ h; cases h; done)
    | (intro _ _ h; cases h; done)
theorem meets_HoldAndPlan :
    writable base 0 (pgRoute 0) 272 = true ∧
    (getIx base 0).outbox = [] ∧
    (getCol base 0).outbox = [] ∧
    writable sHolds 0 (pgPort 0) 264 = true ∧
    planOpen sHolds = false ∧
    planBusy sHolds = false ∧
    1 = regOf sHolds (pgPort 0) 264 + 1 ∧
    outside 1 planMask = false ∧
    bitOf 1 0 = true ∧
    (∀ (d : Nat), d < 4 → (getRoute sHolds d).hold = true) ∧
    writable f0_w11 0 (pgPort 0) 264 = true ∧
    planOpen f0_w11 = true ∧
    outside 0 planMask = false ∧
    bitOf 0 0 = false ∧
    planBusy sPlanBusy = true ∧
    planOpen sPlanBusy = false ∧
    passed sPlanBusy sPlanBusy.time.planAt msNs = true ∧
    (∀ (q : Nat), q < 32 → (getPort sPlanBusy q).tstate = 4 ∨ (getPort sPlanBusy q).tstate = 5 ∨ (getPort sPlanBusy q).tstate = 6 → (getPort sPlanBusy q).identChecked = true) := by
  and_intros <;> first
    | decide +kernel
    | (unfold Front; decide +kernel)
    | (unfold signalsFree; decide +kernel)
    | (unfold staysUp; decide +kernel)
    | (unfold ixLive; decide +kernel)
    | (unfold colNow; decide +kernel)
    | (unfold WakesNone; decide +kernel)
    | ((repeat' first | decide +kernel | constructor); done)
    | exact ok_of (by decide +kernel)
    | exact error_of (by decide +kernel)
    | exact ok_at (by decide +kernel)
    | exact err_at (by decide +kernel)
    | exact pair_is (by decide +kernel)
    | exact pair_ok_at (by decide +kernel)
    | exact pair_ok_is (by decide +kernel)
    | exact pair_error_is (by decide +kernel)
    | exact writes_at (by decide +kernel)
    | exact wait_of (by decide +kernel)
    | exact align_of (by decide +kernel)
    | exact fault_of (by decide +kernel)
    | exact all_some (by decide +kernel)
    | (intro _ h; cases h; done)
    | (intro _ _ h; cases h; done)
theorem meets_SecurityCommands :
    writable base 0 pgQpc 64 = true ∧
    500 < 2048 ∧
    500 ≤ 500 ∧
    500 ≤ 2000 ∧
    capTied base = false ∧
    writable capped 0 pgQpc 64 = true ∧
    capTied capped = true ∧
    499 < 2048 ∧
    (499 < 500 ∨ 2000 < 499) ∧
    writable base 0 pgQsc 96 = true ∧
    base.qsc.tokenSel ≤ 33 ∧
    writable base 0 pgQsc 100 = true ∧
    base.qsc.busy = false ∧
    writable c1_w0 0 pgQsc 100 = true ∧
    c1_w0.qsc.busy = true ∧
    c1_w0.record.lcState = 3 ∧
    base.record.lcState ≠ 3 := by
  and_intros <;> first
    | decide +kernel
    | (unfold Front; decide +kernel)
    | (unfold signalsFree; decide +kernel)
    | (unfold staysUp; decide +kernel)
    | (unfold ixLive; decide +kernel)
    | (unfold colNow; decide +kernel)
    | (unfold WakesNone; decide +kernel)
    | ((repeat' first | decide +kernel | constructor); done)
    | exact ok_of (by decide +kernel)
    | exact error_of (by decide +kernel)
    | exact ok_at (by decide +kernel)
    | exact err_at (by decide +kernel)
    | exact pair_is (by decide +kernel)
    | exact pair_ok_at (by decide +kernel)
    | exact pair_ok_is (by decide +kernel)
    | exact pair_error_is (by decide +kernel)
    | exact writes_at (by decide +kernel)
    | exact wait_of (by decide +kernel)
    | exact align_of (by decide +kernel)
    | exact fault_of (by decide +kernel)
    | exact all_some (by decide +kernel)
    | (intro _ h; cases h; done)
    | (intro _ _ h; cases h; done)
theorem meets_PostArrivals :
    hubPowered base = true ∧
    hubUp base = true ∧
    partReset base 0 = false ∧
    arrivalFail base 0 3 0 c1_w2 = none ∧
    postNread c1_w2 = 0 ∧
    postOp c1_w2 = 0 ∧
    headReserved c1_w2 = false ∧
    bodyReserved c1_w2 [] = false ∧
    arrivalFail base 0 3 0 c1_w3 = none ∧
    postNread c1_w3 = 0 ∧
    postOp c1_w3 ∈ definedOps ∧
    postOp c1_w3 ≠ 0 ∧
    (getCtx base 3).posts = [] ∧
    arrivalFail base 0 3 0 keyOne = some Code.sequence ∧
    Code.sequence ≠ Code.align ∧
    hubPowered c4_w15 = true ∧
    (hubUp c4_w15 = false ∨ partReset c4_w15 0 = true) := by
  and_intros <;> first
    | decide +kernel
    | (unfold Front; decide +kernel)
    | (unfold signalsFree; decide +kernel)
    | (unfold staysUp; decide +kernel)
    | (unfold ixLive; decide +kernel)
    | (unfold colNow; decide +kernel)
    | (unfold WakesNone; decide +kernel)
    | ((repeat' first | decide +kernel | constructor); done)
    | exact ok_of (by decide +kernel)
    | exact error_of (by decide +kernel)
    | exact ok_at (by decide +kernel)
    | exact err_at (by decide +kernel)
    | exact pair_is (by decide +kernel)
    | exact pair_ok_at (by decide +kernel)
    | exact pair_ok_is (by decide +kernel)
    | exact pair_error_is (by decide +kernel)
    | exact writes_at (by decide +kernel)
    | exact wait_of (by decide +kernel)
    | exact align_of (by decide +kernel)
    | exact fault_of (by decide +kernel)
    | exact all_some (by decide +kernel)
    | (intro _ h; cases h; done)
    | (intro _ _ h; cases h; done)
theorem meets_AreaAndWindow :
    Front c1_w5 3 1 c1_w4 [] ∧
    numAt c1_w4.data 16 8 % 4096 = 0 ∧
    6 ≤ numAt c1_w4.data 24 1 ∧
    numAt c1_w4.data 24 1 ≤ 15 ∧
    (∀ (i : Nat), i < 4 → numAt c1_w4.data (25 + i) 1 ≤ 7) ∧
    cleanPost c1_w4.data [(16, 8), (24, 1), (25, 4)] = true ∧
    Front areaQueued 3 1 areaPost5 [] ∧
    numAt areaPost5.data 16 8 % 4096 = 0 ∧
    cleanPost areaPost5.data [(16, 8), (24, 1), (25, 4)] = true ∧
    (numAt areaPost5.data 24 1 < 6 ∨ 15 < numAt areaPost5.data 24 1 ∨ ∃ (i : Nat), i < 4 ∧ 7 < numAt areaPost5.data (25 + i) 1) ∧
    Front c1_w7 3 1 c1_w6 [] ∧
    numAt c1_w6.data 16 8 % 4096 ≠ 0 ∧
    Front c1_w9 3 2 c1_w8 [] ∧
    numAt c1_w8.data 16 1 ≤ 15 ∧
    cleanPost c1_w8.data [(16, 1)] = true ∧
    Front c1_w11 3 2 c1_w10 [] ∧
    15 < numAt c1_w10.data 16 1 ∧
    cleanPost c1_w10.data [(16, 1)] = true := by
  and_intros <;> first
    | decide +kernel
    | (unfold Front; decide +kernel)
    | (unfold signalsFree; decide +kernel)
    | (unfold staysUp; decide +kernel)
    | (unfold ixLive; decide +kernel)
    | (unfold colNow; decide +kernel)
    | (unfold WakesNone; decide +kernel)
    | ((repeat' first | decide +kernel | constructor); done)
    | exact ok_of (by decide +kernel)
    | exact error_of (by decide +kernel)
    | exact ok_at (by decide +kernel)
    | exact err_at (by decide +kernel)
    | exact pair_is (by decide +kernel)
    | exact pair_ok_at (by decide +kernel)
    | exact pair_ok_is (by decide +kernel)
    | exact pair_error_is (by decide +kernel)
    | exact writes_at (by decide +kernel)
    | exact wait_of (by decide +kernel)
    | exact align_of (by decide +kernel)
    | exact fault_of (by decide +kernel)
    | exact all_some (by decide +kernel)
    | (intro _ h; cases h; done)
    | (intro _ _ h; cases h; done)
theorem meets_ContextPosts :
    Front sCreate 3 8 createPost [] ∧
    createReady sCreate 3 createPost.data = true ∧
    firstFail (createFails (taken sCreate 3 []) 3 createPost.data) = none ∧
    readSparse (taken sCreate 3 []) hubDie (ctxPart sCreate 3) (postAddr createPost.data 16) 16384 = Except.ok c6_hm ∧
    createHeaderFail (taken sCreate 3 []) 3 c6_hm = none ∧
    Front c1_w13 3 8 c1_w12 [] ∧
    createReady c1_w13 3 c1_w12.data = true ∧
    firstFail (createFails (taken c1_w13 3 []) 3 c1_w12.data) = some Code.align ∧
    cleanPost (post 9 []).data [] = true ∧
    Front runWaits 3 9 (post 9 []) [] ∧
    imageReady runWaits (getCtx runWaits 3) = false ∧
    Front image0 3 9 (post 9 []) [] ∧
    imageReady image0 (getCtx image0 3) = true ∧
    ((getCtx image0 3).state = CState.idle ∨ (getCtx image0 3).state = CState.halted) ∧
    (∀ (k : Nat), k ∈ (getCtx image0 3).cores → gated (taken image0 3 []) (pgCore k) = false) ∧
    overlaps (taken image0 3 []) 3 = false ∧
    Front c1_w14 3 9 (post 9 []) [] ∧
    imageReady c1_w14 (getCtx c1_w14 3) = true ∧
    (getCtx c1_w14 3).state = CState.running ∧
    (∀ (k : Nat), k ∈ (getCtx c1_w14 3).cores → gated (taken c1_w14 3 []) (pgCore k) = false) ∧
    cleanPost (post 10 []).data [] = true ∧
    Front c1_w15 3 10 (post 10 []) [] ∧
    (getCtx c1_w15 3).state = CState.running ∧
    (getCtx c1_w15 3).saving = none ∧
    Front ctxSaving 3 10 (post 10 []) [] ∧
    (getCtx ctxSaving 3).state = CState.saving ∧
    (getCtx ctxSaving 3).saving = some save0 ∧
    save0.kind = 1 ∧
    (getCtx ctxSaving 3).preemptPost = none ∧
    Front preemptIdle 3 10 (post 10 []) [] ∧
    (getCtx preemptIdle 3).state = CState.idle ∧
    cleanPost (post 11 []).data [] = true ∧
    Front c1_w17 3 11 (post 11 []) [] ∧
    ((getCtx c1_w17 3).state = CState.idle ∨ (getCtx c1_w17 3).state = CState.halted) ∧
    Front c1_w16 3 11 (post 11 []) [] ∧
    (getCtx c1_w16 3).state = CState.running := by
  have h0 :
      firstFail (createFails (taken sCreate 3 []) 3 createPost.data) = none :=
    create_passes
  have h1 :
      readSparse (taken sCreate 3 []) hubDie (ctxPart sCreate 3) (postAddr createPost.data 16) 16384 = Except.ok c6_hm :=
    create_header
  and_intros <;> first
    | with_reducible assumption
    | decide +kernel
    | (unfold Front; decide +kernel)
    | (unfold signalsFree; decide +kernel)
    | (unfold staysUp; decide +kernel)
    | (unfold ixLive; decide +kernel)
    | (unfold colNow; decide +kernel)
    | (unfold WakesNone; decide +kernel)
    | ((repeat' first | decide +kernel | constructor); done)
    | exact ok_of (by decide +kernel)
    | exact error_of (by decide +kernel)
    | exact ok_at (by decide +kernel)
    | exact err_at (by decide +kernel)
    | exact pair_is (by decide +kernel)
    | exact pair_ok_at (by decide +kernel)
    | exact pair_ok_is (by decide +kernel)
    | exact pair_error_is (by decide +kernel)
    | exact writes_at (by decide +kernel)
    | exact wait_of (by decide +kernel)
    | exact align_of (by decide +kernel)
    | exact fault_of (by decide +kernel)
    | exact all_some (by decide +kernel)
    | (intro _ h; cases h; done)
    | (intro _ _ h; cases h; done)
theorem meets_WorkPosts :
    Front c1_w20 3 12 c1_w18 [] ∧
    (getCtx c1_w20 3).cores.contains (numAt c1_w18.data 16 2) = true ∧
    numAt c1_w18.data 18 1 ≤ 47 ∧
    numAt c1_w18.data 20 4 ≠ 0 ∧
    cleanPost c1_w18.data [(16, 2), (18, 1), (20, 4)] = true ∧
    deliverSignal (taken c1_w20 3 []) 3 (numAt c1_w18.data 16 2) (numAt c1_w18.data 18 1) (numAt c1_w18.data 20 4) (blockLast (taken c1_w20 3 []) 0 12) true = (c1_w19, SigOut.applied) ∧
    Front c1_w22 3 12 c1_w21 [] ∧
    (getCtx c1_w22 3).cores.contains (numAt c1_w21.data 16 2) = false ∧
    Front c1_w24 3 13 c1_w23 [] ∧
    postAddr c1_w23.data 16 % 128 = 0 ∧
    numAt c1_w23.data 24 4 % 128 = 0 ∧
    128 ≤ numAt c1_w23.data 24 4 ∧
    numAt c1_w23.data 24 4 ≤ 2 ^ 30 ∧
    postAddr c1_w23.data 16 + numAt c1_w23.data 24 4 ≤ 2 ^ 40 ∧
    (∀ (e : Bool × Code), e ∈ rangeFail (taken c1_w24 3 []) (ctxPart c1_w24 3) (postAddr c1_w23.data 16) (numAt c1_w23.data 24 4) true → e.fst = false) ∧
    cleanPost c1_w23.data [(16, 5), (24, 4)] = true ∧
    Front c1_w26 3 16 c1_w25 [] ∧
    postAddr c1_w25.data 24 % 128 = 0 ∧
    numAt c1_w25.data 16 1 ≤ 3 ∧
    numAt c1_w25.data 32 2 ≠ 0 ∧
    cleanPost c1_w25.data [(16, 1), (24, 5), (32, 2)] = true ∧
    (getList c1_w26 3 (numAt c1_w25.data 16 1)).armed = false ∧
    Front c1_w27 3 16 c1_w25 [] ∧
    (getList c1_w27 3 (numAt c1_w25.data 16 1)).armed = true ∧
    Front c3_w0 3 18 ixArmPost [] ∧
    postAddr ixArmPost.data 24 % 64 = 0 ∧
    numAt ixArmPost.data 16 1 ≤ 3 ∧
    numAt ixArmPost.data 17 1 ≤ 15 ∧
    gated (taken c3_w0 3 []) (pgIx (numAt ixArmPost.data 16 1)) = false ∧
    cleanPost ixArmPost.data [(16, 1), (17, 1), (24, 5)] = true ∧
    armReady c3_w0 3 (postAddr ixArmPost.data 24) (fun (w : List Nat) => wAddr w 16) ixRanks = true ∧
    readArm (taken c3_w0 3 []) 3 (postAddr ixArmPost.data 24) (fun (w : List Nat) => wAddr w 16) ixRanks = Except.ok (ixW, [3 * 65536 + 2 ^ 24]) ∧
    firstFail (ixFails (taken c3_w0 3 []) (numAt ixArmPost.data 16 1) (numAt ixArmPost.data 17 1) 3 ixW [3 * 65536 + 2 ^ 24]) = none ∧
    Front c3_w1 3 20 colArmPost [] ∧
    postAddr colArmPost.data 24 % 64 = 0 ∧
    numAt colArmPost.data 16 1 ≤ 3 ∧
    numAt colArmPost.data 17 1 ≤ 15 ∧
    gated (taken c3_w1 3 []) (pgCol (numAt colArmPost.data 16 1)) = false ∧
    cleanPost colArmPost.data [(16, 1), (17, 1), (24, 5)] = true ∧
    armReady c3_w1 3 (postAddr colArmPost.data 24) (fun (w : List Nat) => wAddr w 10) colRanks = true ∧
    readArm (taken c3_w1 3 []) 3 (postAddr colArmPost.data 24) (fun (w : List Nat) => wAddr w 10) colRanks = Except.ok (colW, [3 * 65536 + 2 ^ 24]) ∧
    firstFail (colFails (taken c3_w1 3 []) (numAt colArmPost.data 16 1) (numAt colArmPost.data 17 1) 3 colW [3 * 65536 + 2 ^ 24]) = none ∧
    Front c1_w29 3 19 c1_w28 [] ∧
    numAt c1_w28.data 16 1 ≤ 3 ∧
    numAt c1_w28.data 17 1 ≤ 15 ∧
    cleanPost c1_w28.data [(16, 1), (17, 1)] = true ∧
    (getIxSlot c1_w29 (numAt c1_w28.data 16 1) (numAt c1_w28.data 17 1)).armed = true ∧
    (getIxSlot c1_w29 (numAt c1_w28.data 16 1) (numAt c1_w28.data 17 1)).ctx = 3 ∧
    (getIxSlot c1_w29 (numAt c1_w28.data 16 1) (numAt c1_w28.data 17 1)).phase = 0 ∧
    Front c1_w30 3 19 c1_w28 [] ∧
    (getIxSlot c1_w30 (numAt c1_w28.data 16 1) (numAt c1_w28.data 17 1)).armed = true ∧
    (getIxSlot c1_w30 (numAt c1_w28.data 16 1) (numAt c1_w28.data 17 1)).ctx = 3 ∧
    (getIxSlot c1_w30 (numAt c1_w28.data 16 1) (numAt c1_w28.data 17 1)).phase ≠ 0 ∧
    Front c1_w32 3 21 c1_w31 [] ∧
    numAt c1_w31.data 16 1 ≤ 3 ∧
    numAt c1_w31.data 17 1 ≤ 15 ∧
    cleanPost c1_w31.data [(16, 1), (17, 1)] = true ∧
    (getColSlot c1_w32 (numAt c1_w31.data 16 1) (numAt c1_w31.data 17 1)).armed = true ∧
    (getColSlot c1_w32 (numAt c1_w31.data 16 1) (numAt c1_w31.data 17 1)).ctx = 3 ∧
    (getColSlot c1_w32 (numAt c1_w31.data 16 1) (numAt c1_w31.data 17 1)).phase = 0 := by
  and_intros <;> first
    | decide +kernel
    | (unfold Front; decide +kernel)
    | (unfold signalsFree; decide +kernel)
    | (unfold staysUp; decide +kernel)
    | (unfold ixLive; decide +kernel)
    | (unfold colNow; decide +kernel)
    | (unfold WakesNone; decide +kernel)
    | ((repeat' first | decide +kernel | constructor); done)
    | exact ok_of (by decide +kernel)
    | exact error_of (by decide +kernel)
    | exact ok_at (by decide +kernel)
    | exact err_at (by decide +kernel)
    | exact pair_is (by decide +kernel)
    | exact pair_ok_at (by decide +kernel)
    | exact pair_ok_is (by decide +kernel)
    | exact pair_error_is (by decide +kernel)
    | exact writes_at (by decide +kernel)
    | exact wait_of (by decide +kernel)
    | exact align_of (by decide +kernel)
    | exact fault_of (by decide +kernel)
    | exact all_some (by decide +kernel)
    | (intro _ h; cases h; done)
    | (intro _ _ h; cases h; done)
theorem meets_ManagementPosts :
    ctxPart sBits 3 = 0 ∧
    Front sBits 3 32 partSetPost [] ∧
    1 ≤ numAt partSetPost.data 16 1 ∧
    numAt partSetPost.data 16 1 ≤ 15 ∧
    numAt partSetPost.data 18 2 + numAt partSetPost.data 20 2 ≤ 256 ∧
    (∀ (k : Nat), k < 256 → (getCtx sBits k).state = CState.free) ∧
    (∀ (e : Bool × Code), e ∈ rangeFail (taken sBits 3 []) 0 (postAddr partSetPost.data 24) 512 false → e.fst = false) ∧
    cleanPost partSetPost.data [(16, 1), (18, 2), (20, 2), (24, 5)] = true ∧
    rangeReady sBits 0 (postAddr partSetPost.data 24) 512 = true ∧
    readRange (taken sBits 3 []) 0 (postAddr partSetPost.data 24) 512 = Except.ok c4_w0 ∧
    ctxPart c4_w2 3 = 0 ∧
    Front c4_w2 3 33 c4_w1 [] ∧
    500 ≤ numAt c4_w1.data 16 2 ∧
    numAt c4_w1.data 16 2 ≤ 2000 ∧
    cleanPost c4_w1.data [(16, 2)] = true ∧
    ctxPart c4_w3 3 = 0 ∧
    Front c4_w3 3 34 off0 [] ∧
    numAt off0.data 16 1 = 0 ∧
    cleanPost off0.data [(16, 1)] = true ∧
    c4_w3.hide.draining = false ∧
    c4_w3.boot.ready = true ∧
    c4_w3.power.state = PState.on ∧
    c4_w3.power.entering = none ∧
    c4_w3.power.leaving = none ∧
    ctxPart offDozing 3 = 0 ∧
    Front offDozing 3 34 off0 [] ∧
    offDozing.hide.draining = false ∧
    offDozing.boot.ready = true ∧
    offDozing.power.entering = none ∧
    offDozing.power.leaving = none ∧
    offDozing.power.state = PState.doze ∧
    ctxPart offQueued2 3 = 0 ∧
    Front offQueued2 3 34 off2 [] ∧
    cleanPost off2.data [(16, 1)] = true ∧
    offQueued2.hide.draining = false ∧
    offQueued2.boot.ready = true ∧
    offQueued2.power.entering = none ∧
    offQueued2.power.leaving = none ∧
    numAt off2.data 16 1 = 2 ∧
    offQueued2.power.state = PState.on ∧
    (∀ (e : Nat × Ctx), e ∈ offQueued2.ctxs → e.snd.state ≠ CState.running ∧ e.snd.state ≠ CState.saving) ∧
    ctxPart offQueued3 3 = 0 ∧
    Front offQueued3 3 34 off3 [] ∧
    numAt off3.data 16 1 = 3 ∧
    cleanPost off3.data [(16, 1)] = true ∧
    offQueued3.hide.draining = false ∧
    ctxPart c4_w5 3 = 0 ∧
    Front c4_w5 3 35 c4_w4 [] ∧
    2 ≤ c4_w5.boot.phase ∧
    c4_w5.boot.phase ≠ 8 ∧
    numAt c4_w4.data 16 4 % 4096 = 0 ∧
    2 ^ 16 ≤ numAt c4_w4.data 16 4 ∧
    numAt c4_w4.data 16 4 ≤ 2 ^ 24 ∧
    c4_w5.boot.accepted = false ∧
    c4_w5.boot.verifying = none ∧
    cleanPost c4_w4.data [(16, 4)] = true ∧
    imageBad (taken c4_w5 3 []) (numAt c4_w4.data 16 4) = false ∧
    ctxPart c4_w7 3 = 0 ∧
    Front c4_w7 3 36 c4_w6 [] ∧
    numAt c4_w6.data 16 8 % 256 = 0 ∧
    c4_w7.record.lcState ≠ 0 ∧
    cleanPost c4_w6.data [(16, 5), (24, 32)] = true ∧
    ctxPart c4_w8 3 ≠ 0 ∧
    Front c4_w8 3 33 capForeign [] ∧
    ctxPart c4_w9 3 ≠ 0 ∧
    Front c4_w9 3 32 partForeign [] ∧
    rangeReady c4_w9 0 (postAddr partForeign.data 24) 512 = true ∧
    sAttest.qsc.attests = [c4_w10] ∧
    rangeReady sAttest 0 c4_w10.report 256 = true ∧
    attestWaits.qsc.attests = [c4_w10] ∧
    rangeReady attestWaits 0 c4_w10.report 256 = false := by
  have h0 :
      readRange (taken sBits 3 []) 0 (postAddr partSetPost.data 24) 512 = Except.ok c4_w0 :=
    ok_of (by decide +kernel)
  and_intros <;> first
    | with_reducible assumption
    | decide +kernel
    | (unfold Front; decide +kernel)
    | (unfold signalsFree; decide +kernel)
    | (unfold staysUp; decide +kernel)
    | (unfold ixLive; decide +kernel)
    | (unfold colNow; decide +kernel)
    | (unfold WakesNone; decide +kernel)
    | ((repeat' first | decide +kernel | constructor); done)
    | exact ok_of (by decide +kernel)
    | exact error_of (by decide +kernel)
    | exact ok_at (by decide +kernel)
    | exact err_at (by decide +kernel)
    | exact pair_is (by decide +kernel)
    | exact pair_ok_at (by decide +kernel)
    | exact pair_ok_is (by decide +kernel)
    | exact pair_error_is (by decide +kernel)
    | exact writes_at (by decide +kernel)
    | exact wait_of (by decide +kernel)
    | exact align_of (by decide +kernel)
    | exact fault_of (by decide +kernel)
    | exact all_some (by decide +kernel)
    | (intro _ h; cases h; done)
    | (intro _ _ h; cases h; done)
theorem meets_HostAccesses :
    0 < (getCtx c4_w11 3).owed ∧
    passed c4_w11 (getCtx c4_w11 3).owedAt 2000 = true ∧
    ((getCtx base 3).owed = 0 ∨ passed base (getCtx base 3).owedAt 2000 = false) ∧
    (getPart sNotice 2).area = some area0 ∧
    (getPart sNotice 2).queue = [note0] ∧
    areaFull (getPart sNotice 2) = false ∧
    ((getPart base 2).area = none ∨ (getPart base 2).queue = [] ∨ areaFull (getPart base 2) = true) ∧
    (getPart c4_w12 2).vecPend.getLsbD 7 = true ∧
    (getPart base 2).vecPend.getLsbD 7 = false ∧
    hubPowered c4_w13 = true ∧
    c4_w13.boot.accepted = false ∧
    0 = 0 ∧
    0 + 16 ≤ 2 ^ 24 ∧
    0 + (List.replicate 16 1).length ≤ 2 ^ 24 ∧
    c4_w13.boot.verifying = none ∧
    (2 ≠ 0 ∨ 2 ^ 24 < 0 + 16) ∧
    (2 ≠ 0 ∨ 2 ^ 24 < 0 + (List.replicate 16 1).length ∨ c4_w13.boot.verifying ≠ none) ∧
    hubPowered accLate = true ∧
    accLate.boot.accepted = true ∧
    accLate.power.state = PState.on ∧
    accLate.bar4Q = [] ∧
    rangeReady accLate 0 (bar4Addr accLate 0 0) 16 = true ∧
    readRange accLate 0 (bar4Addr accLate 0 0) 16 = Except.ok (List.replicate 16 0) ∧
    hubPowered poisoned0 = true ∧
    poisoned0.boot.accepted = true ∧
    poisoned0.power.state = PState.on ∧
    poisoned0.bar4Q = [] ∧
    rangeReady poisoned0 0 (bar4Addr poisoned0 0 0) 16 = true ∧
    readRange poisoned0 0 (bar4Addr poisoned0 0 0) 16 = Except.error Code.checkFailed ∧
    hubPowered base = true ∧
    base.boot.accepted = true ∧
    base.power.state = PState.on ∧
    base.bar4Q = [] ∧
    rangeReady base 2 (bar4Addr base 2 0) 16 = true ∧
    readRange base 2 (bar4Addr base 2 0) 16 = Except.error Code.absent ∧
    Code.absent ≠ Code.checkFailed ∧
    rangeReady base 2 (bar4Addr base 2 0) (List.replicate 16 1).length = true ∧
    hubPowered inMaint = true ∧
    inMaint.boot.accepted = true ∧
    inMaint.power.state = PState.on ∧
    (inMaint.bar4Q ≠ [] ∨ rangeReady inMaint 0 (bar4Addr inMaint 0 0) 16 = false) ∧
    (inMaint.bar4Q ≠ [] ∨ rangeReady inMaint 0 (bar4Addr inMaint 0 0) (List.replicate 16 1).length = false) ∧
    hubPowered arrFenced = true ∧
    arrFenced.boot.accepted = true ∧
    arrFenced.power.state = PState.doze ∧
    arrFenced.bar4Q = [] := by
  and_intros <;> first
    | decide +kernel
    | (unfold Front; decide +kernel)
    | (unfold signalsFree; decide +kernel)
    | (unfold staysUp; decide +kernel)
    | (unfold ixLive; decide +kernel)
    | (unfold colNow; decide +kernel)
    | (unfold WakesNone; decide +kernel)
    | ((repeat' first | decide +kernel | constructor); done)
    | exact ok_of (by decide +kernel)
    | exact error_of (by decide +kernel)
    | exact ok_at (by decide +kernel)
    | exact err_at (by decide +kernel)
    | exact pair_is (by decide +kernel)
    | exact pair_ok_at (by decide +kernel)
    | exact pair_ok_is (by decide +kernel)
    | exact pair_error_is (by decide +kernel)
    | exact writes_at (by decide +kernel)
    | exact wait_of (by decide +kernel)
    | exact align_of (by decide +kernel)
    | exact fault_of (by decide +kernel)
    | exact all_some (by decide +kernel)
    | (intro _ h; cases h; done)
    | (intro _ _ h; cases h; done)
theorem meets_HostResets :
    hubPowered base = true ∧
    hubPowered arrFenced = true ∧
    arrFenced.power.state = PState.doze ∧
    hubPowered c4_w15 = true ∧
    Machine.inReset c4_w15 Domain.hub = true ∧
    base.boot.ready = true ∧
    hubPowered c4_w13 = true ∧
    c4_w13.boot.ready = false ∧
    (c4_w13.boot.phase = 2 ∨ c4_w13.boot.phase = 3) ∧
    hubPowered k1_w13 = true ∧
    k1_w13.boot.ready = false ∧
    k1_w13.boot.phase ≠ 2 ∧
    k1_w13.boot.phase ≠ 3 ∧
    ((getCmp base 7).en = false ∨ base.power.perst = false) ∧
    hubPowered c4_w16 = true ∧
    c4_w16.power.perst = true ∧
    (getCmp c4_w16 7).en = true ∧
    BitVec.getLsbD (getCmp c4_w16 7).arg 0 = true ∧
    hubUp base = true ∧
    base.endpoint.rates.contains 128 = true ∧
    base.endpoint.widths.contains 16 = true ∧
    hubPowered linked = true ∧
    hubUp linked = true ∧
    bitOf (regOf linked pgPcie 64) 0 = true ∧
    bitOf (regOf base pgPcie 64) 0 = false := by
  and_intros <;> first
    | decide +kernel
    | (unfold Front; decide +kernel)
    | (unfold signalsFree; decide +kernel)
    | (unfold staysUp; decide +kernel)
    | (unfold ixLive; decide +kernel)
    | (unfold colNow; decide +kernel)
    | (unfold WakesNone; decide +kernel)
    | ((repeat' first | decide +kernel | constructor); done)
    | exact ok_of (by decide +kernel)
    | exact error_of (by decide +kernel)
    | exact ok_at (by decide +kernel)
    | exact err_at (by decide +kernel)
    | exact pair_is (by decide +kernel)
    | exact pair_ok_at (by decide +kernel)
    | exact pair_ok_is (by decide +kernel)
    | exact pair_error_is (by decide +kernel)
    | exact writes_at (by decide +kernel)
    | exact wait_of (by decide +kernel)
    | exact align_of (by decide +kernel)
    | exact fault_of (by decide +kernel)
    | exact all_some (by decide +kernel)
    | (intro _ h; cases h; done)
    | (intro _ _ h; cases h; done)
theorem meets_SequencerWork :
    d2_w0.resumed = false ∧
    d2_w0.st = 0 ∧
    staysUp (getCore base 7) ∧
    iEngine (ins 1 0 []) ≠ 0 ∧
    iEngine (ins 0 1 [(5, 8)]) = 0 ∧
    iOpcode (ins 0 1 [(5, 8)]) = 1 ∧
    iEngine (ins 0 2 [(5, 8)]) = 0 ∧
    iOpcode (ins 0 2 [(5, 8)]) = 2 ∧
    iEngine (ins 0 3 [(5, 8)]) = 0 ∧
    iOpcode (ins 0 3 [(5, 8)]) = 3 ∧
    nth ((getCore base 7).loops.set (fieldOf (iFlags (ins 0 3 [(5, 8)])) 0 2) ((nth (getCore base 7).loops (fieldOf (iFlags (ins 0 3 [(5, 8)])) 0 2) + 2 ^ 24 - 1) % 2 ^ 24)) (fieldOf (iFlags (ins 0 3 [(5, 8)])) 0 2) ≠ 0 ∧
    staysUp (getCore d2_w5 7) ∧
    nth ((getCore d2_w5 7).loops.set (fieldOf (iFlags (ins 0 3 [(5, 8)])) 0 2) ((nth (getCore d2_w5 7).loops (fieldOf (iFlags (ins 0 3 [(5, 8)])) 0 2) + 2 ^ 24 - 1) % 2 ^ 24)) (fieldOf (iFlags (ins 0 3 [(5, 8)])) 0 2) = 0 ∧
    iEngine (ins 0 7 []) = 0 ∧
    ¬iOpcode (ins 0 7 []) ∈ [1, 2, 3] ∧
    iOpcode (ins 0 7 []) = 7 ∧
    (runningCtx accLate 7).isSome = true ∧
    (0 = (nextTarget (getCore accLate 7)).addr / 512 ∨ 0 = (nextTarget (getCore accLate 7)).addr / 512 + 1) ∧
    (getCore accLate 7).closed = false ∧
    viaReady accLate (dieOfCore 7) (partOfCore accLate 7) (0 * 512) 512 = true ∧
    readSeq accLate (dieOfCore 7) (partOfCore accLate 7) (0 * 512) 512 = ((readSeq accLate (dieOfCore 7) (partOfCore accLate 7) (0 * 512) 512).fst, (readSeq accLate (dieOfCore 7) (partOfCore accLate 7) (0 * 512) 512).snd) ∧
    (runningCtx lineWaits 7).isSome = true ∧
    (0 = (nextTarget (getCore lineWaits 7)).addr / 512 ∨ 0 = (nextTarget (getCore lineWaits 7)).addr / 512 + 1) ∧
    (getCore lineWaits 7).closed = false ∧
    viaReady lineWaits (dieOfCore 7) (partOfCore lineWaits 7) (0 * 512) 512 = false ∧
    (runningCtx startsLr 7).isSome = true ∧
    nextOf (getCore startsLr 7) 1 = some ((nextOf (getCore startsLr 7) 1).getD d2_tdl) ∧
    canStart (getCore startsLr 7) ((nextOf (getCore startsLr 7) 1).getD d2_tdl) = true ∧
    ((getCore startsLr 7).lr.ent ≠ none ∨ ((getCore startsLr 7).window.any fun (e : WEnt) => iEngine e.ins == 1 && e.st == 1) = false) ∧
    (runningCtx startsOp 7).isSome = true ∧
    nextOf (getCore startsOp 7) 2 = some ((nextOf (getCore startsOp 7) 2).getD d2_tdl) ∧
    canStart (getCore startsOp 7) ((nextOf (getCore startsOp 7) 2).getD d2_tdl) = true ∧
    ((getCore startsOp 7).op.ent ≠ none ∨ ((getCore startsOp 7).window.any fun (e : WEnt) => iEngine e.ins == 2 && e.st == 1) = false) ∧
    (runningCtx startsVx 7).isSome = true ∧
    nextOf (getCore startsVx 7) 3 = some ((nextOf (getCore startsVx 7) 3).getD d2_tdl) ∧
    canStart (getCore startsVx 7) ((nextOf (getCore startsVx 7) 3).getD d2_tdl) = true ∧
    (runningCtx ahead0 7).isSome = true ∧
    nextOf (getCore ahead0 7) 4 = some ((nextOf (getCore ahead0 7) 4).getD d2_tdl) ∧
    canStart (getCore ahead0 7) ((nextOf (getCore ahead0 7) 4).getD d2_tdl) = true ∧
    (runningCtx e2_w11 7).isSome = true ∧
    nextOf (getCore e2_w11 7) 5 = some e2_w10 ∧
    canStart (getCore e2_w11 7) e2_w10 = true ∧
    (runningCtx d2_w10 7).isSome = true ∧
    nextOf (getCore d2_w10 7) 0 = some d2_w11 ∧
    canStart (getCore d2_w10 7) d2_w11 = true ∧
    (runningCtx d2_w8 7).isSome = true ∧
    nextOf (getCore d2_w8 7) 0 = some d2_w9 ∧
    canStart (getCore d2_w8 7) d2_w9 = true ∧
    iOpcode d2_w9.ins = 0 ∧
    iOpcode d2_w11.ins = 7 ∧
    (runningCtx d2_w12 7).isSome = true ∧
    nextOf (getCore d2_w12 7) 0 = some d2_w13 ∧
    canStart (getCore d2_w12 7) d2_w13 = true ∧
    iOpcode d2_w13.ins = 6 ∧
    (runningCtx d1_w80 7).isSome = true ∧
    branchReady (getCore d1_w80 7) = some ((branchReady (getCore d1_w80 7)).getD d2_tdl) ∧
    entWaitHolds (getCore d1_w80 7) ((branchReady (getCore d1_w80 7)).getD d2_tdl) = true ∧
    (runningCtx d2_w16 7).isSome = true ∧
    branchReady (getCore d2_w16 7) = some d2_w17 ∧
    entWaitHolds (getCore d2_w16 7) d2_w17 = false ∧
    (runningCtx d2_w18 7).isSome = true ∧
    List.find? (fun (e : WEnt) => isSeqOp e 5 && e.st == 1) (getCore d2_w18 7).window = some d2_tdl ∧
    viaReady d2_w18 (dieOfCore 7) (partOfCore d2_w18 7) ((getCore d2_w18 7).tdSrc + 32 * fieldOf (iImm d2_tdl.ins) 0 10) (32 * (fieldOf (iImm d2_tdl.ins) 10 10 + 1)) = true ∧
    readViaAt d2_w18 (dieOfCore 7) (partOfCore d2_w18 7) ((getCore d2_w18 7).tdSrc + 32 * fieldOf (iImm d2_tdl.ins) 0 10) (32 * (fieldOf (iImm d2_tdl.ins) 10 10 + 1)) = ((readViaAt d2_w18 (dieOfCore 7) (partOfCore d2_w18 7) ((getCore d2_w18 7).tdSrc + 32 * fieldOf (iImm d2_tdl.ins) 0 10) (32 * (fieldOf (iImm d2_tdl.ins) 10 10 + 1))).fst, (readViaAt d2_w18 (dieOfCore 7) (partOfCore d2_w18 7) ((getCore d2_w18 7).tdSrc + 32 * fieldOf (iImm d2_tdl.ins) 0 10) (32 * (fieldOf (iImm d2_tdl.ins) 10 10 + 1))).snd) := by
  and_intros <;> first
    | decide +kernel
    | (unfold Front; decide +kernel)
    | (unfold signalsFree; decide +kernel)
    | (unfold staysUp; decide +kernel)
    | (unfold ixLive; decide +kernel)
    | (unfold colNow; decide +kernel)
    | (unfold WakesNone; decide +kernel)
    | ((repeat' first | decide +kernel | constructor); done)
    | exact ok_of (by decide +kernel)
    | exact error_of (by decide +kernel)
    | exact ok_at (by decide +kernel)
    | exact err_at (by decide +kernel)
    | exact pair_is (by decide +kernel)
    | exact pair_ok_at (by decide +kernel)
    | exact pair_ok_is (by decide +kernel)
    | exact pair_error_is (by decide +kernel)
    | exact writes_at (by decide +kernel)
    | exact wait_of (by decide +kernel)
    | exact align_of (by decide +kernel)
    | exact fault_of (by decide +kernel)
    | exact all_some (by decide +kernel)
    | (intro _ h; cases h; done)
    | (intro _ _ h; cases h; done)
theorem meets_LinearEngine :
    (runningCtx d3_w1 7).isSome = true ∧
    lrEnt (getCore d3_w1 7) = some d3_w0 ∧
    (getCore d3_w1 7).lr.ended = false ∧
    (getCore d3_w1 7).lr.stopped = false ∧
    (getCore d3_w1 7).lr.pass < lrPasses (lrDesc d3_w0.td) (lrWidth (coreSite d3_w1 7)) ∧
    List.find? (fun (b : Bank) => b.ent == d3_w0.id && b.a == (getCore d3_w1 7).lr.pass && b.b == (getCore d3_w1 7).lr.step) (getCore d3_w1 7).lr.banks = some lrBank ∧
    ((lrDesc d3_w0.td).stream = true → streamReady (getCore d3_w1 7) d3_w0 (getCore d3_w1 7).lr.token = true) ∧
    iOpcode d3_w0.ins = 0 ∧
    (runningCtx d3_w3 7).isSome = true ∧
    lrEnt (getCore d3_w3 7) = some d3_w2 ∧
    (getCore d3_w3 7).lr.ended = false ∧
    (getCore d3_w3 7).lr.stopped = false ∧
    (getCore d3_w3 7).lr.pass < lrPasses (lrDesc d3_w2.td) (lrWidth (coreSite d3_w3 7)) ∧
    List.find? (fun (b : Bank) => b.ent == d3_w2.id && b.a == (getCore d3_w3 7).lr.pass && b.b == (getCore d3_w3 7).lr.step) (getCore d3_w3 7).lr.banks = some lrBank ∧
    ((lrDesc d3_w2.td).stream = true → streamReady (getCore d3_w3 7) d3_w2 (getCore d3_w3 7).lr.token = true) ∧
    iOpcode d3_w2.ins = 1 ∧
    (runningCtx d3_w5 7).isSome = true ∧
    lrEnt (getCore d3_w5 7) = some d3_w4 ∧
    (getCore d3_w5 7).lr.ended = false ∧
    (getCore d3_w5 7).lr.stopped = false ∧
    (getCore d3_w5 7).lr.pass < lrPasses (lrDesc d3_w4.td) (lrWidth (coreSite d3_w5 7)) ∧
    List.find? (fun (b : Bank) => b.ent == d3_w4.id && b.a == (getCore d3_w5 7).lr.pass && b.b == (getCore d3_w5 7).lr.step) (getCore d3_w5 7).lr.banks = some lrBank ∧
    ((lrDesc d3_w4.td).stream = true → streamReady (getCore d3_w5 7) d3_w4 (getCore d3_w5 7).lr.token = true) ∧
    (lrDesc d3_w4.td).stream = true ∧
    signalsFree (getCore d3_w5 7) d3_w4 ∧
    (runningCtx streamSig 7).isSome = true ∧
    lrEnt (getCore streamSig 7) = some streamSigEnt ∧
    (getCore streamSig 7).lr.ended = false ∧
    (getCore streamSig 7).lr.stopped = false ∧
    (getCore streamSig 7).lr.pass < lrPasses (lrDesc streamSigEnt.td) (lrWidth (coreSite streamSig 7)) ∧
    List.find? (fun (b : Bank) => b.ent == streamSigEnt.id && b.a == (getCore streamSig 7).lr.pass && b.b == (getCore streamSig 7).lr.step) (getCore streamSig 7).lr.banks = some lrBank ∧
    ((lrDesc streamSigEnt.td).stream = true → streamReady (getCore streamSig 7) streamSigEnt (getCore streamSig 7).lr.token = true) ∧
    (lrDesc streamSigEnt.td).stream = true ∧
    signalsFree (getCore streamSig 7) streamSigEnt ∧
    iSigMs streamSigEnt.ins ≠ 63 ∧
    (lrDesc d3_w0.td).stream = false ∧
    (runningCtx d3_w6 7).isSome = true ∧
    List.find? (fun (q : WEnt × Nat × Nat) => !hasBank (getCore d3_w6 7).lr.banks (q.fst.id, q.snd.fst, q.snd.snd)) (lrWanted (getCore d3_w6 7) (lrWidth (coreSite d3_w6 7))) = some d3_w7 ∧
    activeCtx d3_w10 7 = some 3 ∧
    lrEnt (getCore d3_w10 7) = some d3_w9 ∧
    (getCore d3_w10 7).lr.ended = true ∧
    activeCtx d3_w8 7 = some 3 ∧
    lrEnt (getCore d3_w8 7) = some d3_w0 ∧
    (getCore d3_w8 7).lr.ended = true ∧
    (bitOf (iFlags d3_w0.ins) 0 = false ∨ iSigMs d3_w0.ins = 63) ∧
    bitOf (iFlags d3_w9.ins) 0 = true ∧
    iSigMs d3_w9.ins < 48 ∧
    (mileOf (getCore d3_w10 7) (iSigMs d3_w9.ins)).barrier = false ∧
    (activeCtx d3_w11 7).isSome = true ∧
    lrEnt (getCore d3_w11 7) = some d3_w0 ∧
    (getCore d3_w11 7).lr.ended = false ∧
    lrPasses (lrDesc d3_w0.td) (lrWidth (coreSite d3_w11 7)) ≤ (getCore d3_w11 7).lr.pass ∧
    signalsFree (getCore d3_w11 7) d3_w0 ∧
    (getCore d3_w6 7).lr.gated = false ∧
    ((getCore d3_w6 7).window.any fun (e : WEnt) => iEngine e.ins == 1 && e.st != 2) = true ∧
    (getCore accMoving 9).ctx = some 3 ∧
    stopsNow accMoving 9 3 = true ∧
    (getCore accMoving 9).lr.stopped = false ∧
    lrEnt (getCore accMoving 9) = none ∧
    (getCore d3_w14 7).ctx = some 3 ∧
    stopsNow d3_w14 7 3 = true ∧
    (getCore d3_w14 7).lr.stopped = false ∧
    lrEnt (getCore d3_w14 7) = some d3_w13 ∧
    (getCore d3_w14 7).lr.ended = false ∧
    (getCore d3_w14 7).lr.pass < lrPasses (lrDesc d3_w13.td) (lrWidth (coreSite d3_w14 7)) ∧
    d3_w13.run = 0 ∧
    (getCore d3_w12 7).ctx = some 3 ∧
    stopsNow d3_w12 7 3 = true ∧
    (getCore d3_w12 7).lr.stopped = false ∧
    lrEnt (getCore d3_w12 7) = some d3_w0 ∧
    (getCore d3_w12 7).lr.ended = false ∧
    (getCore d3_w12 7).lr.pass < lrPasses (lrDesc d3_w0.td) (lrWidth (coreSite d3_w12 7)) ∧
    d3_w0.run ≠ 0 := by
  and_intros <;> first
    | decide +kernel
    | (unfold Front; decide +kernel)
    | (unfold signalsFree; decide +kernel)
    | (unfold staysUp; decide +kernel)
    | (unfold ixLive; decide +kernel)
    | (unfold colNow; decide +kernel)
    | (unfold WakesNone; decide +kernel)
    | ((repeat' first | decide +kernel | constructor); done)
    | exact ok_of (by decide +kernel)
    | exact error_of (by decide +kernel)
    | exact ok_at (by decide +kernel)
    | exact err_at (by decide +kernel)
    | exact pair_is (by decide +kernel)
    | exact pair_ok_at (by decide +kernel)
    | exact pair_ok_is (by decide +kernel)
    | exact pair_error_is (by decide +kernel)
    | exact writes_at (by decide +kernel)
    | exact wait_of (by decide +kernel)
    | exact align_of (by decide +kernel)
    | exact fault_of (by decide +kernel)
    | exact all_some (by decide +kernel)
    | (intro _ h; cases h; done)
    | (intro _ _ h; cases h; done)
theorem meets_OuterEngine :
    (runningCtx d4_w2 15).isSome = true ∧
    opEnt (getCore d4_w2 15) = some d4_w0 ∧
    (getCore d4_w2 15).op.loaded = true ∧
    (getCore d4_w2 15).op.stopped = false ∧
    (getCore d4_w2 15).op.rowFirst < opRb (opDesc d4_w0.td) ∧
    (getCore d4_w2 15).op.kblock < opKb (opDesc d4_w0.td) ∧
    List.find? (fun (b : Bank) => b.ent == d4_w0.id && b.a == (getCore d4_w2 15).op.rowFirst && b.b == (getCore d4_w2 15).op.kblock) (getCore d4_w2 15).op.banks = some lrBank ∧
    iOpcode d4_w0.ins = 0 ∧
    (runningCtx d4_w4 15).isSome = true ∧
    opEnt (getCore d4_w4 15) = some d4_w3 ∧
    (getCore d4_w4 15).op.loaded = true ∧
    (getCore d4_w4 15).op.stopped = false ∧
    (getCore d4_w4 15).op.rowFirst < opRb (opDesc d4_w3.td) ∧
    (getCore d4_w4 15).op.kblock < opKb (opDesc d4_w3.td) ∧
    List.find? (fun (b : Bank) => b.ent == d4_w3.id && b.a == (getCore d4_w4 15).op.rowFirst && b.b == (getCore d4_w4 15).op.kblock) (getCore d4_w4 15).op.banks = some lrBank ∧
    iOpcode d4_w3.ins = 1 ∧
    (runningCtx d4_w5 15).isSome = true ∧
    opEnt (getCore d4_w5 15) = some d4_w0 ∧
    List.filter (fun (q : WEnt × Nat × Nat) => !hasBank (getCore d4_w5 15).op.banks (q.fst.id, q.snd.fst, q.snd.snd)) (opWanted (getCore d4_w5 15) (opWidth d4_w5 15)) = [d4_w1] ∧
    ((getCore d4_w5 15).op.loaded = true ∨ d4_w1.fst.id = d4_w0.id ∧ d4_w1.snd = ((getCore d4_w5 15).op.rowFirst, (getCore d4_w5 15).op.kblock)) ∧
    (runningCtx d4_w7 15).isSome = true ∧
    opEnt (getCore d4_w7 15) = some d4_w3 ∧
    List.filter (fun (q : WEnt × Nat × Nat) => !hasBank (getCore d4_w7 15).op.banks (q.fst.id, q.snd.fst, q.snd.snd)) (opWanted (getCore d4_w7 15) (opWidth d4_w7 15)) = [d4_w6] ∧
    (getCore d4_w7 15).op.loaded = false ∧
    (d4_w6.fst.id ≠ d4_w3.id ∨ d4_w6.snd ≠ ((getCore d4_w7 15).op.rowFirst, (getCore d4_w7 15).op.kblock)) ∧
    (runningCtx d4_w10 15).isSome = true ∧
    opEnt (getCore d4_w10 15) = some d4_w9 ∧
    List.filter (fun (q : WEnt × Nat × Nat) => !hasBank (getCore d4_w10 15).op.banks (q.fst.id, q.snd.fst, q.snd.snd)) (opWanted (getCore d4_w10 15) (opWidth d4_w10 15)) = [] ∧
    (getCore d4_w10 15).op.loaded = false ∧
    (getCore d4_w10 15).op.rowFirst < opRb (opDesc d4_w9.td) ∧
    (getCore d4_w7 15).op.gated = false ∧
    ((getCore d4_w7 15).window.any fun (e : WEnt) => iEngine e.ins == 2 && e.st != 2) = true ∧
    (activeCtx d4_w10 15).isSome = true ∧
    opKb (opDesc d4_w9.td) ≤ (getCore d4_w10 15).op.kblock ∧
    (getCore d4_w10 15).op.stopped = false ∧
    opEnt (getCore d4_w11 15) = some d4_w0 ∧
    (activeCtx d4_w11 15).isSome = true ∧
    opRb (opDesc d4_w0.td) ≤ (getCore d4_w11 15).op.rowFirst ∧
    signalsFree (getCore d4_w11 15) d4_w0 ∧
    (∀ (y : WEnt), y ∈ (getCore d4_w11 15).window → iEngine y.ins = 2 → y.st = 1 → y.id = d4_w0.id) ∧
    opEnt (getCore d4_w12 15) = some d4_w0 ∧
    (getCore d4_w12 15).ctx = some 3 ∧
    stopsNow d4_w12 15 3 = true ∧
    (getCore d4_w12 15).op.stopped = false ∧
    (getCore d4_w12 15).op.rowFirst < opRb (opDesc d4_w0.td) ∧
    (getCore d4_w12 15).op.kblock < opKb (opDesc d4_w0.td) := by
  and_intros <;> first
    | decide +kernel
    | (unfold Front; decide +kernel)
    | (unfold signalsFree; decide +kernel)
    | (unfold staysUp; decide +kernel)
    | (unfold ixLive; decide +kernel)
    | (unfold colNow; decide +kernel)
    | (unfold WakesNone; decide +kernel)
    | ((repeat' first | decide +kernel | constructor); done)
    | exact ok_of (by decide +kernel)
    | exact error_of (by decide +kernel)
    | exact ok_at (by decide +kernel)
    | exact err_at (by decide +kernel)
    | exact pair_is (by decide +kernel)
    | exact pair_ok_at (by decide +kernel)
    | exact pair_ok_is (by decide +kernel)
    | exact pair_error_is (by decide +kernel)
    | exact writes_at (by decide +kernel)
    | exact wait_of (by decide +kernel)
    | exact align_of (by decide +kernel)
    | exact fault_of (by decide +kernel)
    | exact all_some (by decide +kernel)
    | (intro _ h; cases h; done)
    | (intro _ _ h; cases h; done)
theorem meets_VectorEngine :
    (runningCtx d5_w1 7).isSome = true ∧
    vxEnt (getCore d5_w1 7) = some d5_w0 ∧
    (getCore d5_w1 7).vxStopped = false ∧
    d5_w0.run < (vxDesc d5_w0.td).rows ∧
    iOpcode d5_w0.ins = 0 ∧
    (runningCtx d5_w3 7).isSome = true ∧
    vxEnt (getCore d5_w3 7) = some d5_w2 ∧
    (getCore d5_w3 7).vxStopped = false ∧
    d5_w2.run < (vxDesc d5_w2.td).rows ∧
    iOpcode d5_w2.ins = 1 ∧
    (runningCtx d5_w5 7).isSome = true ∧
    vxEnt (getCore d5_w5 7) = some d5_w4 ∧
    (getCore d5_w5 7).vxStopped = false ∧
    d5_w4.run < (vxDesc d5_w4.td).rows ∧
    iOpcode d5_w4.ins = 2 ∧
    (runningCtx d5_w7 7).isSome = true ∧
    vxEnt (getCore d5_w7 7) = some d5_w6 ∧
    (getCore d5_w7 7).vxStopped = false ∧
    d5_w6.run < (vxDesc d5_w6.td).rows ∧
    iOpcode d5_w6.ins = 3 ∧
    (runningCtx d5_w9 7).isSome = true ∧
    vxEnt (getCore d5_w9 7) = some d5_w8 ∧
    (getCore d5_w9 7).vxStopped = false ∧
    d5_w8.run < (vxDesc d5_w8.td).rows ∧
    iOpcode d5_w8.ins = 4 ∧
    (runningCtx d5_w11 7).isSome = true ∧
    vxEnt (getCore d5_w11 7) = some d5_w10 ∧
    (getCore d5_w11 7).vxStopped = false ∧
    d5_w10.run < (vxDesc d5_w10.td).rows ∧
    iOpcode d5_w10.ins = 5 ∧
    (runningCtx d5_w13 7).isSome = true ∧
    vxEnt (getCore d5_w13 7) = some d5_w12 ∧
    (getCore d5_w13 7).vxStopped = false ∧
    d5_w12.run < (vxDesc d5_w12.td).rows ∧
    iOpcode d5_w12.ins = 6 ∧
    (runningCtx d5_w15 7).isSome = true ∧
    vxEnt (getCore d5_w15 7) = some d5_w14 ∧
    (getCore d5_w15 7).vxStopped = false ∧
    d5_w14.run < (vxDesc d5_w14.td).rows ∧
    iOpcode d5_w14.ins = 7 ∧
    (runningCtx d5_w17 7).isSome = true ∧
    vxEnt (getCore d5_w17 7) = some d5_w16 ∧
    (getCore d5_w17 7).vxStopped = false ∧
    d5_w16.run < (vxDesc d5_w16.td).rows ∧
    iOpcode d5_w16.ins = 8 ∧
    (runningCtx d5_w19 7).isSome = true ∧
    vxEnt (getCore d5_w19 7) = some d5_w18 ∧
    (getCore d5_w19 7).vxStopped = false ∧
    d5_w18.run < (vxDesc d5_w18.td).rows ∧
    iOpcode d5_w18.ins = 9 ∧
    (runningCtx d5_w21 7).isSome = true ∧
    vxEnt (getCore d5_w21 7) = some d5_w20 ∧
    (getCore d5_w21 7).vxStopped = false ∧
    d5_w20.run < (vxDesc d5_w20.td).rows ∧
    iOpcode d5_w20.ins = 10 ∧
    (runningCtx d5_w23 7).isSome = true ∧
    vxEnt (getCore d5_w23 7) = some d5_w22 ∧
    (getCore d5_w23 7).vxStopped = false ∧
    d5_w22.run < (vxDesc d5_w22.td).rows ∧
    iOpcode d5_w22.ins = 11 ∧
    (runningCtx d5_w25 7).isSome = true ∧
    vxEnt (getCore d5_w25 7) = some d5_w24 ∧
    (getCore d5_w25 7).vxStopped = false ∧
    d5_w24.run < (vxDesc d5_w24.td).rows ∧
    iOpcode d5_w24.ins = 12 ∧
    (runningCtx d5_w27 7).isSome = true ∧
    vxEnt (getCore d5_w27 7) = some d5_w26 ∧
    (getCore d5_w27 7).vxStopped = false ∧
    d5_w26.run < (vxDesc d5_w26.td).rows ∧
    iOpcode d5_w26.ins = 13 ∧
    (runningCtx d5_w29 7).isSome = true ∧
    vxEnt (getCore d5_w29 7) = some d5_w28 ∧
    (getCore d5_w29 7).vxStopped = false ∧
    d5_w28.run < (vxDesc d5_w28.td).rows ∧
    iOpcode d5_w28.ins = 14 ∧
    (runningCtx d5_w31 7).isSome = true ∧
    vxEnt (getCore d5_w31 7) = some d5_w30 ∧
    (getCore d5_w31 7).vxStopped = false ∧
    d5_w30.run < (vxDesc d5_w30.td).rows ∧
    iOpcode d5_w30.ins = 15 ∧
    (activeCtx d5_w35 7).isSome = true ∧
    vxEnt (getCore d5_w35 7) = some d5_w34 ∧
    (vxDesc d5_w34.td).rows ≤ d5_w34.run ∧
    iOpcode d5_w34.ins ≠ 0 ∧
    (activeCtx d5_w33 7).isSome = true ∧
    vxEnt (getCore d5_w33 7) = some d5_w32 ∧
    (vxDesc d5_w32.td).rows ≤ d5_w32.run ∧
    iOpcode d5_w32.ins = 0 ∧
    (getCore accMoving 9).ctx = some 3 ∧
    stopsNow accMoving 9 3 = true ∧
    vxEnding (getCore accMoving 9) = false ∧
    (getCore accLate 7).ctx = some 3 ∧
    (stopsNow accLate 7 3 = false ∨ vxEnding (getCore accLate 7) = true) := by
  and_intros <;> first
    | decide +kernel
    | (unfold Front; decide +kernel)
    | (unfold signalsFree; decide +kernel)
    | (unfold staysUp; decide +kernel)
    | (unfold ixLive; decide +kernel)
    | (unfold colNow; decide +kernel)
    | (unfold WakesNone; decide +kernel)
    | ((repeat' first | decide +kernel | constructor); done)
    | exact ok_of (by decide +kernel)
    | exact error_of (by decide +kernel)
    | exact ok_at (by decide +kernel)
    | exact err_at (by decide +kernel)
    | exact pair_is (by decide +kernel)
    | exact pair_ok_at (by decide +kernel)
    | exact pair_ok_is (by decide +kernel)
    | exact pair_error_is (by decide +kernel)
    | exact writes_at (by decide +kernel)
    | exact wait_of (by decide +kernel)
    | exact align_of (by decide +kernel)
    | exact fault_of (by decide +kernel)
    | exact all_some (by decide +kernel)
    | (intro _ h; cases h; done)
    | (intro _ _ h; cases h; done)
theorem meets_WinnerRule :
    d5_w37.fst < 2 ^ 32 ∧
    d5_w39.fst < 2 ^ 32 ∧
    isNan32 d5_w39.fst = true ∧
    isNan32 d5_w37.fst = false ∧
    d5_w38.fst < 2 ^ 32 ∧
    d5_w37.fst = d5_w38.fst ∧
    d5_w37.snd < d5_w38.snd ∧
    (∀ (v : Nat × Int), v ∈ [d5_w37] → v.fst < 2 ^ 32) ∧
    [d5_w37, d5_w39].Perm [d5_w39, d5_w37] := by
  and_intros <;> first
    | decide +kernel
    | (unfold Front; decide +kernel)
    | (unfold signalsFree; decide +kernel)
    | (unfold staysUp; decide +kernel)
    | (unfold ixLive; decide +kernel)
    | (unfold colNow; decide +kernel)
    | (unfold WakesNone; decide +kernel)
    | ((repeat' first | decide +kernel | constructor); done)
    | exact ok_of (by decide +kernel)
    | exact error_of (by decide +kernel)
    | exact ok_at (by decide +kernel)
    | exact err_at (by decide +kernel)
    | exact pair_is (by decide +kernel)
    | exact pair_ok_at (by decide +kernel)
    | exact pair_ok_is (by decide +kernel)
    | exact pair_error_is (by decide +kernel)
    | exact writes_at (by decide +kernel)
    | exact wait_of (by decide +kernel)
    | exact align_of (by decide +kernel)
    | exact fault_of (by decide +kernel)
    | exact all_some (by decide +kernel)
    | (intro _ h; cases h; done)
    | (intro _ _ h; cases h; done)
theorem meets_DmSteps :
    (runningCtx e1_w1 7).isSome = true ∧
    freeSlot (getCore e1_w1 7) = some 0 ∧
    dmRoom e1_w1 7 = true ∧
    dmHead (getCore e1_w1 7) 0 = some e1_w0 ∧
    e1_w0.redo = [] ∧
    e1_w0.run < moveTotal (moveDesc e1_w0.td) ∧
    (pieceAt (moveDesc e1_w0.td) e1_w0.run).snd = false ∧
    (runningCtx redoes 7).isSome = true ∧
    freeSlot (getCore redoes 7) = some 0 ∧
    dmRoom redoes 7 = true ∧
    dmHead (getCore redoes 7) 0 = some ((dmHead (getCore redoes 7) 0).getD d2_tdl) ∧
    ((dmHead (getCore redoes 7) 0).getD d2_tdl).redo = [piece0] ∧
    piece0.src ≠ 2 ^ 40 ∧
    (runningCtx ahead0 7).isSome = true ∧
    freeSlot (getCore ahead0 7) = some 0 ∧
    dmRoom ahead0 7 = true ∧
    dmHead (getCore ahead0 7) 0 = none ∧
    aheadEnt (getCore ahead0 7) = some ((aheadEnt (getCore ahead0 7)).getD d2_tdl) ∧
    (pieceAt (moveDesc ((aheadEnt (getCore ahead0 7)).getD d2_tdl).td) ((aheadEnt (getCore ahead0 7)).getD d2_tdl).sent).snd = false ∧
    aheadBusy (getCore ahead0 7) < 12 ∧
    (getCore ahead0 7).shadow.length + aheadBusy (getCore ahead0 7) < 64 ∧
    (runningCtx e1_w3 7).isSome = true ∧
    freeSlot (getCore e1_w3 7) = some 0 ∧
    dmRoom e1_w3 7 = true ∧
    dmHead (getCore e1_w3 7) 1 = some e1_w2 ∧
    e1_w2.run < moveTotal (moveDesc e1_w2.td) ∧
    (runningCtx e1_w5 7).isSome = true ∧
    freeSlot (getCore e1_w5 7) = some 0 ∧
    dmRoom e1_w5 7 = true ∧
    dmHead (getCore e1_w5 7) 2 = some e1_w4 ∧
    (runningCtx e1_w7 7).isSome = true ∧
    freeSlot (getCore e1_w7 7) = some 0 ∧
    dmRoom e1_w7 7 = true ∧
    dmHead (getCore e1_w7 7) 3 = some e1_w6 ∧
    (runningCtx e1_w9 7).isSome = true ∧
    freeSlot (getCore e1_w9 7) = some 0 ∧
    dmRoom e1_w9 7 = true ∧
    dmHead (getCore e1_w9 7) 0 = some e1_w8 ∧
    e1_w8.redo = [] ∧
    e1_w8.run < moveTotal (moveDesc e1_w8.td) ∧
    (pieceAt (moveDesc e1_w8.td) e1_w8.run).snd = true ∧
    e1_w8.run + (pieceAt (moveDesc e1_w8.td) e1_w8.run).fst.len < moveTotal (moveDesc e1_w8.td) ∧
    (∀ (y : WEnt), findEnt (getCore e1_w9 7) e1_w8.id = some y → y = e1_w8) ∧
    (runningCtx e1_w11 7).isSome = true ∧
    freeSlot (getCore e1_w11 7) = some 0 ∧
    dmRoom e1_w11 7 = true ∧
    dmHead (getCore e1_w11 7) 4 = none ∧
    nextOf (getCore e1_w11 7) 4 = some e1_w10 ∧
    iOpcode e1_w10.ins = 4 ∧
    canStart (getCore e1_w11 7) e1_w10 = true ∧
    signalsFree (getCore e1_w11 7) e1_w10 ∧
    staysUp (getCore e1_w11 7) := by
  and_intros <;> first
    | decide +kernel
    | (unfold Front; decide +kernel)
    | (unfold signalsFree; decide +kernel)
    | (unfold staysUp; decide +kernel)
    | (unfold ixLive; decide +kernel)
    | (unfold colNow; decide +kernel)
    | (unfold WakesNone; decide +kernel)
    | ((repeat' first | decide +kernel | constructor); done)
    | exact ok_of (by decide +kernel)
    | exact error_of (by decide +kernel)
    | exact ok_at (by decide +kernel)
    | exact err_at (by decide +kernel)
    | exact pair_is (by decide +kernel)
    | exact pair_ok_at (by decide +kernel)
    | exact pair_ok_is (by decide +kernel)
    | exact pair_error_is (by decide +kernel)
    | exact writes_at (by decide +kernel)
    | exact wait_of (by decide +kernel)
    | exact align_of (by decide +kernel)
    | exact fault_of (by decide +kernel)
    | exact all_some (by decide +kernel)
    | (intro _ h; cases h; done)
    | (intro _ _ h; cases h; done)
theorem meets_DmReturns :
    look (getCore e1_w12 7).reqs 0 none = some ((look (getCore e1_w12 7).reqs 0 none).getD e1_w14) ∧
    reqBack e1_w12 (getCore e1_w12 7) ((look (getCore e1_w12 7).reqs 0 none).getD e1_w14) = true ∧
    ((look (getCore e1_w12 7).reqs 0 none).getD e1_w14).mark = false ∧
    ((look (getCore e1_w12 7).reqs 0 none).getD e1_w14).kind = 0 ∧
    heldByPut (getCore e1_w12 7) ((look (getCore e1_w12 7).reqs 0 none).getD e1_w14) = false ∧
    ((look (getCore e1_w12 7).reqs 0 none).getD e1_w14).dead = false ∧
    (activeCtx e1_w12 7).isSome = true ∧
    readReq e1_w12 7 ((look (getCore e1_w12 7).reqs 0 none).getD e1_w14) = ((readReq e1_w12 7 ((look (getCore e1_w12 7).reqs 0 none).getD e1_w14)).fst, Except.ok (okOr (readReq e1_w12 7 ((look (getCore e1_w12 7).reqs 0 none).getD e1_w14)).snd [])) ∧
    look (getCore moveBusy 7).reqs 0 none = some ((look (getCore moveBusy 7).reqs 0 none).getD e1_w14) ∧
    reqBack moveBusy (getCore moveBusy 7) ((look (getCore moveBusy 7).reqs 0 none).getD e1_w14) = true ∧
    ((look (getCore moveBusy 7).reqs 0 none).getD e1_w14).mark = false ∧
    ((look (getCore moveBusy 7).reqs 0 none).getD e1_w14).kind = 0 ∧
    heldByPut (getCore moveBusy 7) ((look (getCore moveBusy 7).reqs 0 none).getD e1_w14) = false ∧
    ((look (getCore moveBusy 7).reqs 0 none).getD e1_w14).dead = false ∧
    (activeCtx moveBusy 7).isSome = true ∧
    readReq moveBusy 7 ((look (getCore moveBusy 7).reqs 0 none).getD e1_w14) = ((readReq moveBusy 7 ((look (getCore moveBusy 7).reqs 0 none).getD e1_w14)).fst, Except.error Code.absent) ∧
    (∀ (y : WEnt), findEnt (getCore e1_w12 7) ((look (getCore e1_w12 7).reqs 0 none).getD e1_w14).ent = some y → y.run < moveTotal (moveDesc y.td)) ∧
    look (getCore e1_w17 7).reqs 0 none = some e1_w16 ∧
    reqBack e1_w17 (getCore e1_w17 7) e1_w16 = true ∧
    e1_w16.mark = false ∧
    e1_w16.kind = 1 ∧
    e1_w16.dead = false ∧
    badCode e1_w16 = none ∧
    writeVia e1_w17 (dieOfCore 7) (partOfCore e1_w17 7) (srcOf e1_w16) e1_w16.data = ((writeVia e1_w17 (dieOfCore 7) (partOfCore e1_w17 7) (srcOf e1_w16) e1_w16.data).fst, none) ∧
    look (getCore e1_w19 7).reqs 0 none = some e1_w16 ∧
    reqBack e1_w19 (getCore e1_w19 7) e1_w16 = true ∧
    writeVia e1_w19 (dieOfCore 7) (partOfCore e1_w19 7) (srcOf e1_w16) e1_w16.data = ((writeVia e1_w19 (dieOfCore 7) (partOfCore e1_w19 7) (srcOf e1_w16) e1_w16.data).fst, some Code.absent) ∧
    look (getCore putRefused 7).reqs 0 none = some refusedReq ∧
    reqBack putRefused (getCore putRefused 7) refusedReq = true ∧
    refusedReq.mark = false ∧
    refusedReq.kind = 1 ∧
    refusedReq.dead = false ∧
    badCode refusedReq = some Code.checkFailed ∧
    look (getCore e1_w21 7).reqs 0 none = some ((look (getCore e1_w21 7).reqs 0 none).getD e1_w14) ∧
    reqBack e1_w21 (getCore e1_w21 7) ((look (getCore e1_w21 7).reqs 0 none).getD e1_w14) = true ∧
    ((look (getCore e1_w21 7).reqs 0 none).getD e1_w14).mark = false ∧
    ((look (getCore e1_w21 7).reqs 0 none).getD e1_w14).kind = 4 ∧
    ((look (getCore e1_w21 7).reqs 0 none).getD e1_w14).dead = false ∧
    heldByPut (getCore e1_w21 7) ((look (getCore e1_w21 7).reqs 0 none).getD e1_w14) = false ∧
    readReq e1_w21 7 ((look (getCore e1_w21 7).reqs 0 none).getD e1_w14) = ((readReq e1_w21 7 ((look (getCore e1_w21 7).reqs 0 none).getD e1_w14)).fst, Except.ok (okOr (readReq e1_w21 7 ((look (getCore e1_w21 7).reqs 0 none).getD e1_w14)).snd [])) ∧
    look (getCore e1_w23 7).reqs 0 none = some ((look (getCore e1_w23 7).reqs 0 none).getD e1_w14) ∧
    reqBack e1_w23 (getCore e1_w23 7) ((look (getCore e1_w23 7).reqs 0 none).getD e1_w14) = true ∧
    ((look (getCore e1_w23 7).reqs 0 none).getD e1_w14).mark = false ∧
    ((look (getCore e1_w23 7).reqs 0 none).getD e1_w14).kind = 4 ∧
    ((look (getCore e1_w23 7).reqs 0 none).getD e1_w14).dead = false ∧
    heldByPut (getCore e1_w23 7) ((look (getCore e1_w23 7).reqs 0 none).getD e1_w14) = false ∧
    readReq e1_w23 7 ((look (getCore e1_w23 7).reqs 0 none).getD e1_w14) = ((readReq e1_w23 7 ((look (getCore e1_w23 7).reqs 0 none).getD e1_w14)).fst, Except.error Code.absent) ∧
    look (getCore e1_w15 7).reqs 0 none = some e1_w14 ∧
    reqBack e1_w15 (getCore e1_w15 7) e1_w14 = true ∧
    e1_w14.kind = 0 ∧
    heldByPut (getCore e1_w15 7) e1_w14 = false ∧
    e1_w14.dead = true ∧
    look (getCore e1_w26 7).reqs 0 none = some e1_w25 ∧
    reqBack e1_w26 (getCore e1_w26 7) e1_w25 = true ∧
    e1_w25.kind = 4 ∧
    e1_w25.dead = true ∧
    (getCore e1_w27 7).misses.contains 0 = true ∧
    mapLineFail e1_w27 0 = none ∧
    (getCore missFails 7).misses.contains 0 = true ∧
    mapLineFail missFails 0 = some Code.fenced ∧
    (winOf base (Source.dm 7) (0 + 1)).since + 256 ≤ base.odometer ∧
    e1_w29.odometer < (winOf e1_w29 (Source.dm 7) (0 + 1)).since + 256 := by
  and_intros <;> first
    | decide +kernel
    | (unfold Front; decide +kernel)
    | (unfold signalsFree; decide +kernel)
    | (unfold staysUp; decide +kernel)
    | (unfold ixLive; decide +kernel)
    | (unfold colNow; decide +kernel)
    | (unfold WakesNone; decide +kernel)
    | ((repeat' first | decide +kernel | constructor); done)
    | exact ok_of (by decide +kernel)
    | exact error_of (by decide +kernel)
    | exact ok_at (by decide +kernel)
    | exact err_at (by decide +kernel)
    | exact pair_is (by decide +kernel)
    | exact pair_ok_at (by decide +kernel)
    | exact pair_ok_is (by decide +kernel)
    | exact pair_error_is (by decide +kernel)
    | exact writes_at (by decide +kernel)
    | exact wait_of (by decide +kernel)
    | exact align_of (by decide +kernel)
    | exact fault_of (by decide +kernel)
    | exact all_some (by decide +kernel)
    | (intro _ h; cases h; done)
    | (intro _ _ h; cases h; done)
theorem meets_Contributions :
    e2_w0.net[0]? = some e2_aMsg ∧
    e2_aMsg.body = Body.acc 7 9 2 4 (List.replicate 64 1) 0 none 0 ∧
    (getPage e2_w0 (pgCore 9)).moving = false ∧
    msgReach e2_w0 e2_aMsg 9 4 = true ∧
    (accNote (getCore e2_w0 9).accIn 7 0 ((List.replicate 64 1).length / 64) none).snd = false ∧
    accWhole.net[0]? = some (accWhole.net[0]?.getD colPutMsg) ∧
    (accWhole.net[0]?.getD colPutMsg).body = Body.acc 7 9 2 4 (List.replicate 64 1) 0 (some 1) 0 ∧
    (getPage accWhole (pgCore 9)).moving = false ∧
    msgReach accWhole (accWhole.net[0]?.getD colPutMsg) 9 4 = true ∧
    (accNote (getCore accWhole 9).accIn 7 0 ((List.replicate 64 1).length / 64) (some 1)).snd = true ∧
    (mileOf (getCore accWhole 9) 2).barrier = false ∧
    accMoving.net[0]? = some e2_aMsg ∧
    (getPage accMoving (pgCore 9)).moving = true ∧
    e2_w1.net[0]? = some e2_aMsg ∧
    (getPage e2_w1 (pgCore 9)).moving = false ∧
    msgReach e2_w1 e2_aMsg 9 4 = false ∧
    ordFenced.net[0]? = some e2_oMsg ∧
    e2_oMsg.body = Body.accOrd 7 9 1 0 0 1 (List.replicate 64 1) 0 ∧
    (getPage ordFenced (pgCore 9)).moving = false ∧
    msgReach ordFenced e2_oMsg 9 4 = false ∧
    e2_w2.net[0]? = some e2_oMsg ∧
    (getPage e2_w2 (pgCore 9)).moving = false ∧
    msgReach e2_w2 e2_oMsg 9 4 = true ∧
    (look (getCore e2_w2 9).slots 1 { }).isOpen = false ∧
    e2_w3.net[0]? = some e2_oMsg ∧
    (getPage e2_w3 (pgCore 9)).moving = false ∧
    msgReach e2_w3 e2_oMsg 9 4 = true ∧
    (look (getCore e2_w3 9).slots 1 { }).isOpen = true ∧
    1 = (cmbDesc (look (getCore e2_w3 9).slots 1 { }).w0 (look (getCore e2_w3 9).slots 1 { }).w1).len ∧
    0 < (cmbDesc (look (getCore e2_w3 9).slots 1 { }).w0 (look (getCore e2_w3 9).slots 1 { }).w1).p ∧
    (∀ (j : Nat), j < (List.replicate 64 1).length / 64 → (look (getCore e2_w3 9).slots 1 { }).got.contains (0, 0 + j) = false) ∧
    ordTwice.net[0]? = some e2_oMsg ∧
    (getPage ordTwice (pgCore 9)).moving = false ∧
    msgReach ordTwice e2_oMsg 9 4 = true ∧
    (look (getCore ordTwice 9).slots 1 { }).isOpen = true ∧
    1 = (cmbDesc (look (getCore ordTwice 9).slots 1 { }).w0 (look (getCore ordTwice 9).slots 1 { }).w1).len ∧
    0 < (cmbDesc (look (getCore ordTwice 9).slots 1 { }).w0 (look (getCore ordTwice 9).slots 1 { }).w1).p ∧
    (∃ (j : Nat), j < (List.replicate 64 1).length / 64 ∧ (look (getCore ordTwice 9).slots 1 { }).got.contains (0, 0 + j) = true) ∧
    e2_w4.net[0]? = some e2_oMsg2 ∧
    e2_oMsg2.body = Body.accOrd 7 9 1 2 0 1 (List.replicate 64 1) 0 ∧
    (getPage e2_w4 (pgCore 9)).moving = false ∧
    msgReach e2_w4 e2_oMsg2 9 4 = true ∧
    (look (getCore e2_w4 9).slots 1 { }).isOpen = true ∧
    (1 ≠ (cmbDesc (look (getCore e2_w4 9).slots 1 { }).w0 (look (getCore e2_w4 9).slots 1 { }).w1).len ∨ (cmbDesc (look (getCore e2_w4 9).slots 1 { }).w0 (look (getCore e2_w4 9).slots 1 { }).w1).p ≤ 2) ∧
    e2_w5.net[0]? = some e2_kMsg ∧
    e2_kMsg.body = Body.accAck 7 9 0 ∧
    look (getCore e2_w5 7).reqs 0 none = some ((look (getCore e2_w5 7).reqs 0 none).getD e1_w14) ∧
    e2_kMsg.epoch = epochTag e2_w5 7 4 ∧
    (((look (getCore e2_w5 7).reqs 0 none).getD e1_w14).kind = 2 ∨ ((look (getCore e2_w5 7).reqs 0 none).getD e1_w14).kind = 3) ∧
    ((look (getCore e2_w5 7).reqs 0 none).getD e1_w14).dead = false ∧
    e2_kMsg.mark = false ∧
    (activeCtx e2_w5 7).isSome = true ∧
    e2_kMsg.code = 0 ∧
    e2_w7.net[0]? = some e2_w6 ∧
    e2_w6.body = Body.accAck 7 9 0 ∧
    look (getCore e2_w7 7).reqs 0 none = some ((look (getCore e2_w7 7).reqs 0 none).getD e1_w14) ∧
    e2_w6.epoch = epochTag e2_w7 7 4 ∧
    (((look (getCore e2_w7 7).reqs 0 none).getD e1_w14).kind = 2 ∨ ((look (getCore e2_w7 7).reqs 0 none).getD e1_w14).kind = 3) ∧
    ((look (getCore e2_w7 7).reqs 0 none).getD e1_w14).dead = false ∧
    e2_w6.mark = false ∧
    (activeCtx e2_w7 7).isSome = true ∧
    e2_w6.code ≠ 0 ∧
    accLate.net[0]? = some e2_kMsg ∧
    look (getCore accLate 7).reqs 0 none = none := by
  and_intros <;> first
    | decide +kernel
    | (unfold Front; decide +kernel)
    | (unfold signalsFree; decide +kernel)
    | (unfold staysUp; decide +kernel)
    | (unfold ixLive; decide +kernel)
    | (unfold colNow; decide +kernel)
    | (unfold WakesNone; decide +kernel)
    | ((repeat' first | decide +kernel | constructor); done)
    | exact ok_of (by decide +kernel)
    | exact error_of (by decide +kernel)
    | exact ok_at (by decide +kernel)
    | exact err_at (by decide +kernel)
    | exact pair_is (by decide +kernel)
    | exact pair_ok_at (by decide +kernel)
    | exact pair_ok_is (by decide +kernel)
    | exact pair_error_is (by decide +kernel)
    | exact writes_at (by decide +kernel)
    | exact wait_of (by decide +kernel)
    | exact align_of (by decide +kernel)
    | exact fault_of (by decide +kernel)
    | exact all_some (by decide +kernel)
    | (intro _ h; cases h; done)
    | (intro _ _ h; cases h; done)
theorem meets_MsInstructions :
    runningCtx e2_w9 7 = some 3 ∧
    msEnt (getCore e2_w9 7) = none ∧
    nextOf (getCore e2_w9 7) 5 = some e2_w8 ∧
    canStart (getCore e2_w9 7) e2_w8 = true ∧
    iOpcode e2_w8.ins = 0 ∧
    runningCtx e2_w15 7 = some 3 ∧
    msEnt (getCore e2_w15 7) = none ∧
    nextOf (getCore e2_w15 7) 5 = some e2_w14 ∧
    canStart (getCore e2_w15 7) e2_w14 = true ∧
    iOpcode e2_w14.ins = 2 ∧
    runningCtx e2_w11 7 = some 3 ∧
    msEnt (getCore e2_w11 7) = none ∧
    nextOf (getCore e2_w11 7) 5 = some e2_w10 ∧
    canStart (getCore e2_w11 7) e2_w10 = true ∧
    iOpcode e2_w10.ins = 1 ∧
    runningCtx e2_w17 7 = some 3 ∧
    msEnt (getCore e2_w17 7) = none ∧
    nextOf (getCore e2_w17 7) 5 = some e2_w16 ∧
    canStart (getCore e2_w17 7) e2_w16 = true ∧
    iOpcode e2_w16.ins = 3 ∧
    runningCtx e2_w19 7 = some 3 ∧
    msEnt (getCore e2_w19 7) = none ∧
    nextOf (getCore e2_w19 7) 5 = some e2_w18 ∧
    canStart (getCore e2_w19 7) e2_w18 = true ∧
    iOpcode e2_w18.ins = 4 ∧
    runningCtx arriving 7 = some 3 ∧
    msEnt (getCore arriving 7) = some ((msEnt (getCore arriving 7)).getD d2_tdl) ∧
    iOpcode ((msEnt (getCore arriving 7)).getD d2_tdl).ins = 3 ∧
    runningCtx addKept 7 = some 3 ∧
    msEnt (getCore addKept 7) = some ((msEnt (getCore addKept 7)).getD d2_tdl) ∧
    iOpcode ((msEnt (getCore addKept 7)).getD d2_tdl).ins = 1 ∧
    (msDesc ((msEnt (getCore addKept 7)).getD d2_tdl).td).otherChip = true ∧
    ((msEnt (getCore addKept 7)).getD d2_tdl).sent = 0 ∧
    ((msEnt (getCore addKept 7)).getD d2_tdl).firstTry = 0 ∧
    runningCtx twaitOpen 7 = some 3 ∧
    nextOf (getCore twaitOpen 7) 5 = some ((nextOf (getCore twaitOpen 7) 5).getD d2_tdl) ∧
    isTwait ((nextOf (getCore twaitOpen 7) 5).getD d2_tdl) = true ∧
    readyEnt (getCore twaitOpen 7) ((nextOf (getCore twaitOpen 7) 5).getD d2_tdl) = true ∧
    ((nextOf (getCore twaitOpen 7) 5).getD d2_tdl).sat = false ∧
    ((nextOf (getCore twaitOpen 7) 5).getD d2_tdl).since ≠ 0 ∧
    twaitOpen.odometer ≤ twaitEnd ((nextOf (getCore twaitOpen 7) 5).getD d2_tdl) ∧
    runningCtx e2_w21 7 = some 3 ∧
    nextOf (getCore e2_w21 7) 5 = some e2_w20 ∧
    isTwait e2_w20 = true ∧
    readyEnt (getCore e2_w21 7) e2_w20 = true ∧
    e2_w20.sat = false ∧
    e2_w20.since ≠ 0 ∧
    twaitEnd e2_w20 < e2_w21.odometer ∧
    (mileOf (getCore e2_w21 7) (msDesc e2_w20.td).timeoutMs).barrier = false ∧
    staysUp (getCore e2_w21 7) ∧
    runningCtx twaitBarrier 7 = some 3 ∧
    nextOf (getCore twaitBarrier 7) 5 = some e2_w20 ∧
    readyEnt (getCore twaitBarrier 7) e2_w20 = true ∧
    twaitEnd e2_w20 < twaitBarrier.odometer ∧
    (mileOf (getCore twaitBarrier 7) (msDesc e2_w20.td).timeoutMs).barrier = true := by
  and_intros <;> first
    | decide +kernel
    | (unfold Front; decide +kernel)
    | (unfold signalsFree; decide +kernel)
    | (unfold staysUp; decide +kernel)
    | (unfold ixLive; decide +kernel)
    | (unfold colNow; decide +kernel)
    | (unfold WakesNone; decide +kernel)
    | ((repeat' first | decide +kernel | constructor); done)
    | exact ok_of (by decide +kernel)
    | exact error_of (by decide +kernel)
    | exact ok_at (by decide +kernel)
    | exact err_at (by decide +kernel)
    | exact pair_is (by decide +kernel)
    | exact pair_ok_at (by decide +kernel)
    | exact pair_ok_is (by decide +kernel)
    | exact pair_error_is (by decide +kernel)
    | exact writes_at (by decide +kernel)
    | exact wait_of (by decide +kernel)
    | exact align_of (by decide +kernel)
    | exact fault_of (by decide +kernel)
    | exact all_some (by decide +kernel)
    | (intro _ h; cases h; done)
    | (intro _ _ h; cases h; done)
theorem meets_AddMessages :
    addMoving.net[0]? = some e2_addM ∧
    e2_addM.body = Body.localAdd 7 9 4 3 ∧
    (getPage addMoving (pgCore 9)).moving = true ∧
    e2_w22.net[0]? = some e2_addM ∧
    (getPage e2_w22 (pgCore 9)).moving = false ∧
    msgReach e2_w22 e2_addM 9 5 = true ∧
    (mileOf (getCore e2_w22 9) 4).barrier = false ∧
    msEnt (getCore e2_w22 9) = none ∧
    e2_w23.net[0]? = some e2_addM ∧
    (getPage e2_w23 (pgCore 9)).moving = false ∧
    msgReach e2_w23 e2_addM 9 5 = true ∧
    (mileOf (getCore e2_w23 9) 4).barrier = true ∧
    e2_w24.net[0]? = some e2_addM ∧
    (getPage e2_w24 (pgCore 9)).moving = false ∧
    msgReach e2_w24 e2_addM 9 5 = false ∧
    addEpoch.net[0]? = some (addEpoch.net[0]?.getD colPutMsg) ∧
    (addEpoch.net[0]?.getD colPutMsg).body = Body.localAck 7 9 ∧
    (addEpoch.net[0]?.getD colPutMsg).epoch ≠ epochTag addEpoch 7 5 ∧
    addOther.net[0]? = some (addOther.net[0]?.getD colPutMsg) ∧
    (addOther.net[0]?.getD colPutMsg).body = Body.localAck 7 9 ∧
    (addOther.net[0]?.getD colPutMsg).epoch = epochTag addOther 7 5 ∧
    (activeCtx addOther 7).isSome = true ∧
    msEnt (getCore addOther 7) = some e2_sentAdd ∧
    e2_sentAdd.sent ≠ (addOther.net[0]?.getD colPutMsg).req + 1 ∧
    e2_w25.net[0]? = some e2_addA ∧
    e2_addA.body = Body.localAck 7 9 ∧
    e2_addA.epoch = epochTag e2_w25 7 5 ∧
    (activeCtx e2_w25 7).isSome = true ∧
    msEnt (getCore e2_w25 7) = some e2_sentAdd ∧
    e2_sentAdd.sent = e2_addA.req + 1 ∧
    e2_addA.code = 0 ∧
    e2_w27.net[0]? = some e2_w26 ∧
    e2_w26.body = Body.localAck 7 9 ∧
    e2_w26.epoch = epochTag e2_w27 7 5 ∧
    (activeCtx e2_w27 7).isSome = true ∧
    msEnt (getCore e2_w27 7) = some e2_sentAdd ∧
    e2_sentAdd.sent = e2_w26.req + 1 ∧
    e2_w26.code ≠ 0 ∧
    remGone.net[0]? = some (remGone.net[0]?.getD colPutMsg) ∧
    (remGone.net[0]?.getD colPutMsg).body = Body.remoteAddAck 7 9 ∧
    msEnt (getCore remGone 7) = some e2_sentAdd ∧
    (¬((List.find? (fun (o : OutReq) => o.req == (remGone.net[0]?.getD colPutMsg).req) remGone.outs).isSome = true ∨ (remGone.net[0]?.getD colPutMsg).srcChip = chipId remGone)) ∧
    remOther.net[0]? = some (remOther.net[0]?.getD colPutMsg) ∧
    (remOther.net[0]?.getD colPutMsg).body = Body.remoteAddAck 7 9 ∧
    msEnt (getCore remOther 7) = some e2_sentAdd ∧
    ((List.find? (fun (o : OutReq) => o.req == (remOther.net[0]?.getD colPutMsg).req) remOther.outs).isSome = true ∨ (remOther.net[0]?.getD colPutMsg).srcChip = chipId remOther) ∧
    e2_sentAdd.sent ≠ (remOther.net[0]?.getD colPutMsg).req + 1 ∧
    remFault.net[0]? = some remAck ∧
    remAck.body = Body.remoteAddAck 7 9 ∧
    msEnt (getCore remFault 7) = some e2_sentAdd ∧
    ((List.find? (fun (o : OutReq) => o.req == remAck.req) remFault.outs).isSome = true ∨ remAck.srcChip = chipId remFault) ∧
    e2_sentAdd.sent = remAck.req + 1 ∧
    activeCtx remFault 7 = none ∧
    faultedOn remFault 7 = true ∧
    remAck.code = 0 ∧
    remDone.net[0]? = some remAck ∧
    msEnt (getCore remDone 7) = some e2_sentAdd ∧
    ((List.find? (fun (o : OutReq) => o.req == remAck.req) remDone.outs).isSome = true ∨ remAck.srcChip = chipId remDone) ∧
    (activeCtx remDone 7).isSome = true ∧
    isArrive e2_sentAdd = false ∧
    remFull.net[0]? = some (remFull.net[0]?.getD colPutMsg) ∧
    (remFull.net[0]?.getD colPutMsg).body = Body.remoteAddAck 7 9 ∧
    msEnt (getCore remFull 7) = some e2_sentAdd ∧
    ((List.find? (fun (o : OutReq) => o.req == (remFull.net[0]?.getD colPutMsg).req) remFull.outs).isSome = true ∨ (remFull.net[0]?.getD colPutMsg).srcChip = chipId remFull) ∧
    e2_sentAdd.sent = (remFull.net[0]?.getD colPutMsg).req + 1 ∧
    (activeCtx remFull 7).isSome = true ∧
    (remFull.net[0]?.getD colPutMsg).code = Code.noSpace.num ∧
    remRefused.net[0]? = some (remRefused.net[0]?.getD colPutMsg) ∧
    (remRefused.net[0]?.getD colPutMsg).body = Body.remoteAddAck 7 9 ∧
    msEnt (getCore remRefused 7) = some e2_sentAdd ∧
    ((List.find? (fun (o : OutReq) => o.req == (remRefused.net[0]?.getD colPutMsg).req) remRefused.outs).isSome = true ∨ (remRefused.net[0]?.getD colPutMsg).srcChip = chipId remRefused) ∧
    e2_sentAdd.sent = (remRefused.net[0]?.getD colPutMsg).req + 1 ∧
    (activeCtx remRefused 7).isSome = true ∧
    (remRefused.net[0]?.getD colPutMsg).code ≠ 0 ∧
    (remRefused.net[0]?.getD colPutMsg).code ≠ Code.noSpace.num ∧
    remMoving.net[0]? = some e2_remA ∧
    e2_remA.body = Body.remoteAdd 100 3 9 4 3 ∧
    (getPage remMoving (pgCore 9)).moving = true ∧
    remFenced.net[0]? = some e2_remA ∧
    (getPage remFenced (pgCore 9)).moving = false ∧
    (msgReach remFenced e2_remA 9 5 = false ∨ remFenced.hide.draining = true) ∧
    e2_w28.net[0]? = some e2_remA ∧
    (getPage e2_w28 (pgCore 9)).moving = false ∧
    msgReach e2_w28 e2_remA 9 5 = true ∧
    e2_w28.hide.draining = false ∧
    ((getCtx e2_w28 3).state = CState.free ∨ ¬((getCtx e2_w28 3).cores.contains 9 = true ∧ (getCtx e2_w28 3).jobTag = e2_remA.job)) ∧
    e2_w29.net[0]? = some e2_remA ∧
    (getPage e2_w29 (pgCore 9)).moving = false ∧
    msgReach e2_w29 e2_remA 9 5 = true ∧
    e2_w29.hide.draining = false ∧
    (getCtx e2_w29 3).state ≠ CState.free ∧
    (getCtx e2_w29 3).state ≠ CState.running ∧
    (getCtx e2_w29 3).cores.contains 9 = true ∧
    (getCtx e2_w29 3).jobTag = e2_remA.job ∧
    (look e2_w29.heldQ (dieOfCore 9) []).length < 1024 ∧
    remHeldFull.net[0]? = some e2_remA ∧
    (getPage remHeldFull (pgCore 9)).moving = false ∧
    msgReach remHeldFull e2_remA 9 5 = true ∧
    remHeldFull.hide.draining = false ∧
    (getCtx remHeldFull 3).state ≠ CState.free ∧
    (getCtx remHeldFull 3).state ≠ CState.running ∧
    (getCtx remHeldFull 3).cores.contains 9 = true ∧
    (getCtx remHeldFull 3).jobTag = e2_remA.job ∧
    1024 ≤ (look remHeldFull.heldQ (dieOfCore 9) []).length ∧
    remBarrier.net[0]? = some e2_remA ∧
    (getPage remBarrier (pgCore 9)).moving = false ∧
    msgReach remBarrier e2_remA 9 5 = true ∧
    remBarrier.hide.draining = false ∧
    (getCtx remBarrier 3).state = CState.running ∧
    (getCtx remBarrier 3).cores.contains 9 = true ∧
    (getCtx remBarrier 3).jobTag = e2_remA.job ∧
    (mileOf (getCore remBarrier 9) 4).barrier = true ∧
    remTaken.net[0]? = some e2_remA ∧
    (getPage remTaken (pgCore 9)).moving = false ∧
    msgReach remTaken e2_remA 9 5 = true ∧
    remTaken.hide.draining = false ∧
    (getCtx remTaken 3).state = CState.running ∧
    (getCtx remTaken 3).cores.contains 9 = true ∧
    (getCtx remTaken 3).jobTag = e2_remA.job ∧
    (mileOf (getCore remTaken 9) 4).barrier = false ∧
    msEnt (getCore remTaken 9) = none ∧
    (runningCtx e2_w30 7).isSome = true ∧
    msEnt (getCore e2_w30 7) = some ((msEnt (getCore e2_w30 7)).getD d2_tdl) ∧
    iOpcode ((msEnt (getCore e2_w30 7)).getD d2_tdl).ins = 1 ∧
    ((msEnt (getCore e2_w30 7)).getD d2_tdl).sent = 0 ∧
    ((msEnt (getCore e2_w30 7)).getD d2_tdl).firstTry ≠ 0 ∧
    passed e2_w30 (((msEnt (getCore e2_w30 7)).getD d2_tdl).firstTry - 1) 1000000 = true ∧
    (runningCtx e2_w31 7).isSome = true ∧
    msEnt (getCore e2_w31 7) = some ((msEnt (getCore e2_w31 7)).getD d2_tdl) ∧
    iOpcode ((msEnt (getCore e2_w31 7)).getD d2_tdl).ins = 1 ∧
    ((msEnt (getCore e2_w31 7)).getD d2_tdl).sent = 0 ∧
    ((msEnt (getCore e2_w31 7)).getD d2_tdl).firstTry ≠ 0 ∧
    passed e2_w31 (((msEnt (getCore e2_w31 7)).getD d2_tdl).firstTry - 1) 1000000 = false ∧
    passed e2_w31 (((msEnt (getCore e2_w31 7)).getD d2_tdl).since - 1) 1000 = true ∧
    (runningCtx e2_w33 7).isSome = true ∧
    msEnt (getCore e2_w33 7) = some e2_w32 ∧
    iOpcode e2_w32.ins = 1 ∧
    e2_w32.sent = 0 ∧
    e2_w32.firstTry ≠ 0 ∧
    passed e2_w33 (e2_w32.firstTry - 1) 1000000 = false ∧
    passed e2_w33 (e2_w32.since - 1) 1000 = false := by
  and_intros <;> first
    | decide +kernel
    | (unfold Front; decide +kernel)
    | (unfold signalsFree; decide +kernel)
    | (unfold staysUp; decide +kernel)
    | (unfold ixLive; decide +kernel)
    | (unfold colNow; decide +kernel)
    | (unfold WakesNone; decide +kernel)
    | ((repeat' first | decide +kernel | constructor); done)
    | exact ok_of (by decide +kernel)
    | exact error_of (by decide +kernel)
    | exact ok_at (by decide +kernel)
    | exact err_at (by decide +kernel)
    | exact pair_is (by decide +kernel)
    | exact pair_ok_at (by decide +kernel)
    | exact pair_ok_is (by decide +kernel)
    | exact pair_error_is (by decide +kernel)
    | exact writes_at (by decide +kernel)
    | exact wait_of (by decide +kernel)
    | exact align_of (by decide +kernel)
    | exact fault_of (by decide +kernel)
    | exact all_some (by decide +kernel)
    | (intro _ h; cases h; done)
    | (intro _ _ h; cases h; done)
theorem meets_Barriers :
    arrMoving.net[0]? = some (arrMoving.net[0]?.getD colPutMsg) ∧
    (arrMoving.net[0]?.getD colPutMsg).body = Body.arrive 7 9 4 2 ∧
    (getPage arrMoving (pgCore 9)).moving = true ∧
    arrDueShut.net[0]? = some (arrDueShut.net[0]?.getD colPutMsg) ∧
    (arrDueShut.net[0]?.getD colPutMsg).body = Body.arrive 7 9 4 2 ∧
    (getPage arrDueShut (pgCore 9)).moving = false ∧
    (¬(activeCtx arrDueShut 9 = none ∨ roundDue (mileOf (getCore arrDueShut 9) 4) = false)) ∧
    msgReach (completeRound (dropMsg arrDueShut 0) 9 4) (arrDueShut.net[0]?.getD colPutMsg) 9 5 = false ∧
    arrDue3.net[0]? = some (arrDue3.net[0]?.getD colPutMsg) ∧
    (arrDue3.net[0]?.getD colPutMsg).body = Body.arrive 7 9 4 3 ∧
    (getPage arrDue3 (pgCore 9)).moving = false ∧
    (¬(activeCtx arrDue3 9 = none ∨ roundDue (mileOf (getCore arrDue3 9) 4) = false)) ∧
    msgReach (completeRound (dropMsg arrDue3 0) 9 4) (arrDue3.net[0]?.getD colPutMsg) 9 5 = true ∧
    (mileOf (getCore (completeRound (dropMsg arrDue3 0) 9 4) 9) 4).barrier = true ∧
    3 = BitVec.toNat (mileOf (getCore (completeRound (dropMsg arrDue3 0) 9 4) 9) 4).gen % 65536 ∧
    arrDue4.net[0]? = some (arrDue4.net[0]?.getD colPutMsg) ∧
    (arrDue4.net[0]?.getD colPutMsg).body = Body.arrive 7 9 4 4 ∧
    (getPage arrDue4 (pgCore 9)).moving = false ∧
    (¬(activeCtx arrDue4 9 = none ∨ roundDue (mileOf (getCore arrDue4 9) 4) = false)) ∧
    msgReach (completeRound (dropMsg arrDue4 0) 9 4) (arrDue4.net[0]?.getD colPutMsg) 9 5 = true ∧
    (mileOf (getCore (completeRound (dropMsg arrDue4 0) 9 4) 9) 4).barrier = true ∧
    4 ≠ BitVec.toNat (mileOf (getCore (completeRound (dropMsg arrDue4 0) 9 4) 9) 4).gen % 65536 ∧
    4 = (BitVec.toNat (mileOf (getCore (completeRound (dropMsg arrDue4 0) 9 4) 9) 4).gen % 65536 + 1) % 65536 ∧
    BitVec.toNat (mileOf (getCore (completeRound (dropMsg arrDue4 0) 9 4) 9) 4).gen / 65536 < 65535 ∧
    arrDue2.net[0]? = some (arrDue2.net[0]?.getD colPutMsg) ∧
    (arrDue2.net[0]?.getD colPutMsg).body = Body.arrive 7 9 4 2 ∧
    (getPage arrDue2 (pgCore 9)).moving = false ∧
    (¬(activeCtx arrDue2 9 = none ∨ roundDue (mileOf (getCore arrDue2 9) 4) = false)) ∧
    msgReach (completeRound (dropMsg arrDue2 0) 9 4) (arrDue2.net[0]?.getD colPutMsg) 9 5 = true ∧
    (mileOf (getCore (completeRound (dropMsg arrDue2 0) 9 4) 9) 4).barrier = true ∧
    2 ≠ BitVec.toNat (mileOf (getCore (completeRound (dropMsg arrDue2 0) 9 4) 9) 4).gen % 65536 ∧
    (2 ≠ (BitVec.toNat (mileOf (getCore (completeRound (dropMsg arrDue2 0) 9 4) 9) 4).gen % 65536 + 1) % 65536 ∨ BitVec.toNat (mileOf (getCore (completeRound (dropMsg arrDue2 0) 9 4) 9) 4).gen / 65536 = 65535) ∧
    arrFenced.net[0]? = some (arrFenced.net[0]?.getD colPutMsg) ∧
    (arrFenced.net[0]?.getD colPutMsg).body = Body.arrive 7 9 4 2 ∧
    (getPage arrFenced (pgCore 9)).moving = false ∧
    (activeCtx arrFenced 9 = none ∨ roundDue (mileOf (getCore arrFenced 9) 4) = false) ∧
    msgReach arrFenced (arrFenced.net[0]?.getD colPutMsg) 9 5 = false ∧
    arrCount.net[0]? = some (arrCount.net[0]?.getD colPutMsg) ∧
    (arrCount.net[0]?.getD colPutMsg).body = Body.arrive 7 9 4 2 ∧
    (getPage arrCount (pgCore 9)).moving = false ∧
    (activeCtx arrCount 9 = none ∨ roundDue (mileOf (getCore arrCount 9) 4) = false) ∧
    msgReach arrCount (arrCount.net[0]?.getD colPutMsg) 9 5 = true ∧
    (mileOf (getCore arrCount 9) 4).barrier = false ∧
    e4_w0.net[0]? = some (e4_w0.net[0]?.getD colPutMsg) ∧
    (e4_w0.net[0]?.getD colPutMsg).body = Body.arrive 7 9 4 2 ∧
    (getPage e4_w0 (pgCore 9)).moving = false ∧
    (activeCtx e4_w0 9 = none ∨ roundDue (mileOf (getCore e4_w0 9) 4) = false) ∧
    msgReach e4_w0 (e4_w0.net[0]?.getD colPutMsg) 9 5 = true ∧
    (mileOf (getCore e4_w0 9) 4).barrier = true ∧
    2 = BitVec.toNat (mileOf (getCore e4_w0 9) 4).gen % 65536 ∧
    (¬BitVec.toNat ((mileOf (getCore e4_w0 9) 4).value + 1#32) / 65536 ≤ BitVec.toNat ((mileOf (getCore e4_w0 9) 4).value + 1#32) % 65536 ∨ activeCtx e4_w0 9 = none) ∧
    arrFills.net[0]? = some (arrFills.net[0]?.getD colPutMsg) ∧
    (arrFills.net[0]?.getD colPutMsg).body = Body.arrive 7 9 4 2 ∧
    (getPage arrFills (pgCore 9)).moving = false ∧
    (activeCtx arrFills 9 = none ∨ roundDue (mileOf (getCore arrFills 9) 4) = false) ∧
    msgReach arrFills (arrFills.net[0]?.getD colPutMsg) 9 5 = true ∧
    (mileOf (getCore arrFills 9) 4).barrier = true ∧
    2 = BitVec.toNat (mileOf (getCore arrFills 9) 4).gen % 65536 ∧
    BitVec.toNat ((mileOf (getCore arrFills 9) 4).value + 1#32) / 65536 ≤ BitVec.toNat ((mileOf (getCore arrFills 9) 4).value + 1#32) % 65536 ∧
    activeCtx arrFills 9 = some 3 ∧
    e4_w1.net[0]? = some (e4_w1.net[0]?.getD colPutMsg) ∧
    (e4_w1.net[0]?.getD colPutMsg).body = Body.arrive 7 9 4 3 ∧
    (getPage e4_w1 (pgCore 9)).moving = false ∧
    (activeCtx e4_w1 9 = none ∨ roundDue (mileOf (getCore e4_w1 9) 4) = false) ∧
    msgReach e4_w1 (e4_w1.net[0]?.getD colPutMsg) 9 5 = true ∧
    (mileOf (getCore e4_w1 9) 4).barrier = true ∧
    3 = (BitVec.toNat (mileOf (getCore e4_w1 9) 4).gen % 65536 + 1) % 65536 ∧
    BitVec.toNat (mileOf (getCore e4_w1 9) 4).gen / 65536 < 65535 ∧
    e4_w2.net[0]? = some (e4_w2.net[0]?.getD colPutMsg) ∧
    (e4_w2.net[0]?.getD colPutMsg).body = Body.arrive 7 9 4 5 ∧
    (getPage e4_w2 (pgCore 9)).moving = false ∧
    (activeCtx e4_w2 9 = none ∨ roundDue (mileOf (getCore e4_w2 9) 4) = false) ∧
    msgReach e4_w2 (e4_w2.net[0]?.getD colPutMsg) 9 5 = true ∧
    (mileOf (getCore e4_w2 9) 4).barrier = true ∧
    5 ≠ BitVec.toNat (mileOf (getCore e4_w2 9) 4).gen % 65536 ∧
    (5 ≠ (BitVec.toNat (mileOf (getCore e4_w2 9) 4).gen % 65536 + 1) % 65536 ∨ BitVec.toNat (mileOf (getCore e4_w2 9) 4).gen / 65536 = 65535) ∧
    activeCtx arrDue2 9 = some 3 ∧
    (mileOf (getCore arrDue2 9) 4).barrier = true ∧
    BitVec.toNat (mileOf (getCore arrDue2 9) 4).value / 65536 ≤ BitVec.toNat (mileOf (getCore arrDue2 9) 4).value % 65536 ∧
    ((mileOf (getCore base 7) 4).barrier = false ∨ BitVec.toNat (mileOf (getCore base 7) 4).value % 65536 < BitVec.toNat (mileOf (getCore base 7) 4).value / 65536) ∧
    relMoving.net[0]? = some e4_w4 ∧
    e4_w4.body = Body.release 7 9 6 ∧
    (getPage relMoving (pgCore 9)).moving = true ∧
    relFenced.net[0]? = some (relFenced.net[0]?.getD colPutMsg) ∧
    (relFenced.net[0]?.getD colPutMsg).body = Body.release 7 9 6 ∧
    (getPage relFenced (pgCore 9)).moving = false ∧
    ((getCore relFenced 9).ctx = none ∨ msgReach relFenced (relFenced.net[0]?.getD colPutMsg) 9 5 = false) ∧
    relBarrier.net[0]? = some e4_w4 ∧
    (getPage relBarrier (pgCore 9)).moving = false ∧
    (getCore relBarrier 9).ctx.isSome = true ∧
    msgReach relBarrier e4_w4 9 5 = true ∧
    (mileOf (getCore relBarrier 9) 6).barrier = true ∧
    e4_w5.net[0]? = some e4_w4 ∧
    (getPage e4_w5 (pgCore 9)).moving = false ∧
    (getCore e4_w5 9).ctx.isSome = true ∧
    msgReach e4_w5 e4_w4 9 5 = true ∧
    (mileOf (getCore e4_w5 9) 6).barrier = false ∧
    msEnt (getCore e4_w5 9) = none := by
  and_intros <;> first
    | decide +kernel
    | (unfold Front; decide +kernel)
    | (unfold signalsFree; decide +kernel)
    | (unfold staysUp; decide +kernel)
    | (unfold ixLive; decide +kernel)
    | (unfold colNow; decide +kernel)
    | (unfold WakesNone; decide +kernel)
    | ((repeat' first | decide +kernel | constructor); done)
    | exact ok_of (by decide +kernel)
    | exact error_of (by decide +kernel)
    | exact ok_at (by decide +kernel)
    | exact err_at (by decide +kernel)
    | exact pair_is (by decide +kernel)
    | exact pair_ok_at (by decide +kernel)
    | exact pair_ok_is (by decide +kernel)
    | exact pair_error_is (by decide +kernel)
    | exact writes_at (by decide +kernel)
    | exact wait_of (by decide +kernel)
    | exact align_of (by decide +kernel)
    | exact fault_of (by decide +kernel)
    | exact all_some (by decide +kernel)
    | (intro _ h; cases h; done)
    | (intro _ _ h; cases h; done)
theorem meets_FaultsAndSaves :
    (getCore accLate 7).ctx = some 3 ∧
    ((getCtx accLate 3).state = CState.running ∨ (getCtx accLate 3).state = CState.saving) ∧
    (getCtx accLate 3).cores.contains 7 = true ∧
    (∀ (g : BitVec 12), EngineCheck.logic ≠ EngineCheck.corrected g) ∧
    EngineCheck.logic ≠ EngineCheck.control ∧
    (getCore base 7).ctx = none ∧
    4 = 4 ∧
    1 ≠ 4 ∧
    (getCtx saveWaits 3).saving = some saveNow ∧
    (getCtx saveWaits 3).state = CState.saving ∧
    imageReady saveWaits (getCtx saveWaits 3) = false ∧
    (getCtx e4_w13 3).saving = some e4_v5 ∧
    (getCtx e4_w13 3).state = CState.saving ∧
    e4_v5.phase2 = false ∧
    phase1Done e4_w13 3 = true ∧
    imageReady e4_w13 (getCtx e4_w13 3) = true ∧
    (writeRecords (writeHeader e4_w13 (getCtx e4_w13 3) (slotAt (getCtx e4_w13 3) (freeImageSlot e4_w13 3)) (List.replicate 32 0)) (getCtx e4_w13 3) (slotAt (getCtx e4_w13 3) (freeImageSlot e4_w13 3))).snd = none ∧
    (getCtx ctxSaving 3).saving = some save0 ∧
    (getCtx ctxSaving 3).state = CState.saving ∧
    save0.phase2 = false ∧
    phase1Done ctxSaving 3 = true ∧
    imageReady ctxSaving (getCtx ctxSaving 3) = true ∧
    (writeRecords (writeHeader ctxSaving (getCtx ctxSaving 3) (slotAt (getCtx ctxSaving 3) (freeImageSlot ctxSaving 3)) (List.replicate 32 0)) (getCtx ctxSaving 3) (slotAt (getCtx ctxSaving 3) (freeImageSlot ctxSaving 3))).snd = some Code.absent ∧
    (getCtx e4_w10 3).saving = some e4_v2 ∧
    (getCtx e4_w10 3).state = CState.saving ∧
    e4_v2.phase2 = true ∧
    e4_v2.after < 5 ∧
    shadowsDone e4_w10 3 = true ∧
    imageReady e4_w10 (getCtx e4_w10 3) = true ∧
    saveLate e4_w10 (getCtx e4_w10 3) e4_v2 = true ∧
    (getCtx saveUnmapped 3).saving = some saveNow ∧
    (getCtx saveUnmapped 3).state = CState.saving ∧
    saveNow.phase2 = true ∧
    saveNow.after < 5 ∧
    shadowsDone saveUnmapped 3 = true ∧
    imageReady saveUnmapped (getCtx saveUnmapped 3) = true ∧
    saveLate saveUnmapped (getCtx saveUnmapped 3) saveNow = false ∧
    (writeHeader saveUnmapped (getCtx saveUnmapped 3) (slotAt (getCtx saveUnmapped 3) (freeImageSlot saveUnmapped 3)) (newHeader saveUnmapped 3 saveNow)).snd = some Code.absent ∧
    (getCtx savePreempt 3).saving = some saveNow ∧
    (getCtx savePreempt 3).state = CState.saving ∧
    shadowsDone savePreempt 3 = true ∧
    imageReady savePreempt (getCtx savePreempt 3) = true ∧
    saveLate savePreempt (getCtx savePreempt 3) saveNow = false ∧
    (writeHeader savePreempt (getCtx savePreempt 3) (slotAt (getCtx savePreempt 3) (freeImageSlot savePreempt 3)) (newHeader savePreempt 3 saveNow)).snd = none ∧
    saveNow.after ≠ 3 ∧
    ((getCtx savePreempt 3).preemptPost.isSome = true ∨ saveNow.after = 0 ∨ (writeHeader savePreempt (getCtx savePreempt 3) (slotAt (getCtx savePreempt 3) (freeImageSlot savePreempt 3)) (newHeader savePreempt 3 saveNow)).fst.hide.draining = true) ∧
    (getCtx e4_w12 3).saving = some e4_v4 ∧
    (getCtx e4_w12 3).state = CState.saving ∧
    e4_v4.phase2 = true ∧
    e4_v4.after < 5 ∧
    shadowsDone e4_w12 3 = true ∧
    imageReady e4_w12 (getCtx e4_w12 3) = true ∧
    saveLate e4_w12 (getCtx e4_w12 3) e4_v4 = false ∧
    (writeHeader e4_w12 (getCtx e4_w12 3) (slotAt (getCtx e4_w12 3) (freeImageSlot e4_w12 3)) (newHeader e4_w12 3 e4_v4)).snd = none ∧
    e4_v4.after = 3 ∧
    (getCtx saveForced 3).saving = some ((getCtx saveForced 3).saving.getD e4_v1) ∧
    (getCtx saveForced 3).state = CState.saving ∧
    ((getCtx saveForced 3).saving.getD e4_v1).phase2 = true ∧
    ((getCtx saveForced 3).saving.getD e4_v1).after < 5 ∧
    shadowsDone saveForced 3 = true ∧
    imageReady saveForced (getCtx saveForced 3) = true ∧
    saveLate saveForced (getCtx saveForced 3) ((getCtx saveForced 3).saving.getD e4_v1) = false ∧
    (writeHeader saveForced (getCtx saveForced 3) (slotAt (getCtx saveForced 3) (freeImageSlot saveForced 3)) (newHeader saveForced 3 ((getCtx saveForced 3).saving.getD e4_v1))).snd = none ∧
    (getCtx saveForced 3).preemptPost = none ∧
    (writeHeader saveForced (getCtx saveForced 3) (slotAt (getCtx saveForced 3) (freeImageSlot saveForced 3)) (newHeader saveForced 3 ((getCtx saveForced 3).saving.getD e4_v1))).fst.hide.draining = false ∧
    ((getCtx saveForced 3).saving.getD e4_v1).after = 4 ∧
    (getCtx e4_w11 3).saving = some e4_v3 ∧
    (getCtx e4_w11 3).state = CState.saving ∧
    e4_v3.phase2 = true ∧
    e4_v3.after < 5 ∧
    shadowsDone e4_w11 3 = true ∧
    imageReady e4_w11 (getCtx e4_w11 3) = true ∧
    saveLate e4_w11 (getCtx e4_w11 3) e4_v3 = false ∧
    (writeHeader e4_w11 (getCtx e4_w11 3) (slotAt (getCtx e4_w11 3) (freeImageSlot e4_w11 3)) (newHeader e4_w11 3 e4_v3)).snd = none ∧
    (getCtx e4_w11 3).preemptPost = none ∧
    (writeHeader e4_w11 (getCtx e4_w11 3) (slotAt (getCtx e4_w11 3) (freeImageSlot e4_w11 3)) (newHeader e4_w11 3 e4_v3)).fst.hide.draining = false ∧
    (e4_v3.after = 1 ∨ e4_v3.after = 2) ∧
    e4_v5.after < 5 ∧
    passed e4_w13 (e4_v5.start + e4_v5.waited) 60000 = false ∧
    (getCtx saveAwaits 3).saving = some e4_v1 ∧
    (getCtx saveAwaits 3).state = CState.saving ∧
    e4_v1.after < 5 ∧
    e4_v1.phase2 = false ∧
    passed saveAwaits (e4_v1.start + e4_v1.waited) 60000 = true ∧
    List.filter (fun (k : Nat) => !coreStopped (getCore saveAwaits k) && !awaitsAdd (getCore saveAwaits k)) (getCtx saveAwaits 3).cores = [] ∧
    ((getCtx saveAwaits 3).cores.any fun (k : Nat) => awaitsAdd (getCore saveAwaits k)) = true ∧
    save0.after < 5 ∧
    passed ctxSaving (save0.start + save0.waited) 60000 = true ∧
    (List.filter (fun (k : Nat) => !coreStopped (getCore ctxSaving k) && !awaitsAdd (getCore ctxSaving k)) (getCtx ctxSaving 3).cores ≠ [] ∨ ((getCtx ctxSaving 3).cores.any fun (k : Nat) => awaitsAdd (getCore ctxSaving k)) = false) ∧
    (getCtx e5_w0 3).state = CState.faulted ∧
    (getCtx e5_w0 3).replay = 1 ∧
    e5_w0.hide.draining = false ∧
    e5_w0.power.state = PState.on ∧
    faultSettled e5_w0 3 = true ∧
    ((getCtx e5_w0 3).cores.any fun (k : Nat) => !dieUp e5_w0 (dieOfCore k)) = true ∧
    (getCtx settledTesting 3).state = CState.faulted ∧
    (getCtx settledTesting 3).replay = 1 ∧
    settledTesting.hide.draining = false ∧
    settledTesting.power.state = PState.on ∧
    faultSettled settledTesting 3 = true ∧
    ((getCtx settledTesting 3).cores.any fun (k : Nat) => !dieUp settledTesting (dieOfCore k)) = false ∧
    ((getCtx settledTesting 3).cores.any fun (k : Nat) => (coreSite settledTesting k).testing) = true ∧
    (getCtx e4_w14 3).state = CState.faulted ∧
    (getCtx e4_w14 3).replay = 1 ∧
    e4_w14.hide.draining = false ∧
    e4_w14.power.state = PState.on ∧
    faultSettled e4_w14 3 = true ∧
    ((getCtx e4_w14 3).cores.any fun (k : Nat) => !dieUp e4_w14 (dieOfCore k)) = false ∧
    ((getCtx e4_w14 3).cores.any fun (k : Nat) => (coreSite e4_w14 k).testing) = false ∧
    (getCtx e4_w14 3).hwCores = [] ∧
    (getCtx settledFirst 3).state = CState.faulted ∧
    (getCtx settledFirst 3).replay = 1 ∧
    settledFirst.hide.draining = false ∧
    settledFirst.power.state = PState.on ∧
    faultSettled settledFirst 3 = true ∧
    ((getCtx settledFirst 3).cores.any fun (k : Nat) => !dieUp settledFirst (dieOfCore k)) = false ∧
    ((getCtx settledFirst 3).cores.any fun (k : Nat) => (coreSite settledFirst k).testing) = false ∧
    List.filter (fun (k : Nat) => !siteGoes settledFirst (siteOf settledFirst k)) (getCtx settledFirst 3).hwCores ≠ [] ∧
    (getCtx settledRestart 3).state = CState.faulted ∧
    (getCtx settledRestart 3).replay = 1 ∧
    settledRestart.hide.draining = false ∧
    settledRestart.power.state = PState.on ∧
    faultSettled settledRestart 3 = true ∧
    ((getCtx settledRestart 3).cores.any fun (k : Nat) => !dieUp settledRestart (dieOfCore k)) = false ∧
    ((getCtx settledRestart 3).cores.any fun (k : Nat) => (coreSite settledRestart k).testing) = false ∧
    List.filter (fun (k : Nat) => !siteGoes settledRestart (siteOf settledRestart k)) (getCtx settledRestart 3).hwCores = [] ∧
    ((getCtx settledRestart 3).hwCores.any fun (k : Nat) => restarting settledRestart (dieOfCore k)) = true ∧
    List.filter (fun (k : Nat) => !siteGoes e4_w14 (siteOf e4_w14 k)) (getCtx e4_w14 3).hwCores = [] ∧
    ((getCtx e4_w14 3).hwCores.any fun (k : Nat) => restarting e4_w14 (dieOfCore k)) = false := by
  have h0 :
      (writeRecords (writeHeader e4_w13 (getCtx e4_w13 3) (slotAt (getCtx e4_w13 3) (freeImageSlot e4_w13 3)) (List.replicate 32 0)) (getCtx e4_w13 3) (slotAt (getCtx e4_w13 3) (freeImageSlot e4_w13 3))).snd = none :=
    records_written rfl (by decide +kernel) (by decide +kernel) (by decide +kernel) (by decide +kernel)
  have h1 :
      (writeHeader savePreempt (getCtx savePreempt 3) (slotAt (getCtx savePreempt 3) (freeImageSlot savePreempt 3)) (newHeader savePreempt 3 saveNow)).snd = none :=
    (header_written rfl (by decide +kernel) (by decide +kernel) (by decide +kernel)).1
  have h2 :
      (writeHeader e4_w12 (getCtx e4_w12 3) (slotAt (getCtx e4_w12 3) (freeImageSlot e4_w12 3)) (newHeader e4_w12 3 e4_v4)).snd = none :=
    (header_written rfl (by decide +kernel) (by decide +kernel) (by decide +kernel)).1
  have h3 :
      (writeHeader saveForced (getCtx saveForced 3) (slotAt (getCtx saveForced 3) (freeImageSlot saveForced 3)) (newHeader saveForced 3 ((getCtx saveForced 3).saving.getD e4_v1))).snd = none :=
    (header_written rfl (by decide +kernel) (by decide +kernel) (by decide +kernel)).1
  have h4 :
      (writeHeader saveForced (getCtx saveForced 3) (slotAt (getCtx saveForced 3) (freeImageSlot saveForced 3)) (newHeader saveForced 3 ((getCtx saveForced 3).saving.getD e4_v1))).fst.hide.draining = false :=
    header_calm rfl (by decide +kernel) (by decide +kernel) (by decide +kernel) (by decide +kernel)
  have h5 :
      (writeHeader e4_w11 (getCtx e4_w11 3) (slotAt (getCtx e4_w11 3) (freeImageSlot e4_w11 3)) (newHeader e4_w11 3 e4_v3)).snd = none :=
    (header_written rfl (by decide +kernel) (by decide +kernel) (by decide +kernel)).1
  have h6 :
      (writeHeader e4_w11 (getCtx e4_w11 3) (slotAt (getCtx e4_w11 3) (freeImageSlot e4_w11 3)) (newHeader e4_w11 3 e4_v3)).fst.hide.draining = false :=
    header_calm rfl (by decide +kernel) (by decide +kernel) (by decide +kernel) (by decide +kernel)
  and_intros <;> first
    | with_reducible assumption
    | decide +kernel
    | (unfold Front; decide +kernel)
    | (unfold signalsFree; decide +kernel)
    | (unfold staysUp; decide +kernel)
    | (unfold ixLive; decide +kernel)
    | (unfold colNow; decide +kernel)
    | (unfold WakesNone; decide +kernel)
    | ((repeat' first | decide +kernel | constructor); done)
    | exact ok_of (by decide +kernel)
    | exact error_of (by decide +kernel)
    | exact ok_at (by decide +kernel)
    | exact err_at (by decide +kernel)
    | exact pair_is (by decide +kernel)
    | exact pair_ok_at (by decide +kernel)
    | exact pair_ok_is (by decide +kernel)
    | exact pair_error_is (by decide +kernel)
    | exact writes_at (by decide +kernel)
    | exact wait_of (by decide +kernel)
    | exact align_of (by decide +kernel)
    | exact fault_of (by decide +kernel)
    | exact all_some (by decide +kernel)
    | (intro _ h; cases h; done)
    | (intro _ _ h; cases h; done)
theorem meets_KerbLists :
    listRuns e6_w2 16 3 1 = true ∧
    (kPos e6_w2 16 3 1).stage = 0 ∧
    rangeReady e6_w2 (ctxPart e6_w2 3) ((getList e6_w2 3 1).addr + 128 * (kPos e6_w2 16 3 1).desc) 128 = true ∧
    readRangeAt e6_w2 (dieOfChan 16) (ctxPart e6_w2 3) ((getList e6_w2 3 1).addr + 128 * (kPos e6_w2 16 3 1).desc) 128 = Except.ok (okOr (readRangeAt e6_w2 (dieOfChan 16) (ctxPart e6_w2 3) ((getList e6_w2 3 1).addr + 128 * (kPos e6_w2 16 3 1).desc) 128) []) ∧
    kTakesPart (wordsOf (okOr (readRangeAt e6_w2 (dieOfChan 16) (ctxPart e6_w2 3) ((getList e6_w2 3 1).addr + 128 * (kPos e6_w2 16 3 1).desc) 128) []) 32) 16 = false ∧
    listRuns e6_w3 16 3 1 = true ∧
    (kPos e6_w3 16 3 1).stage = 0 ∧
    rangeReady e6_w3 (ctxPart e6_w3 3) ((getList e6_w3 3 1).addr + 128 * (kPos e6_w3 16 3 1).desc) 128 = true ∧
    readRangeAt e6_w3 (dieOfChan 16) (ctxPart e6_w3 3) ((getList e6_w3 3 1).addr + 128 * (kPos e6_w3 16 3 1).desc) 128 = Except.ok (okOr (readRangeAt e6_w3 (dieOfChan 16) (ctxPart e6_w3 3) ((getList e6_w3 3 1).addr + 128 * (kPos e6_w3 16 3 1).desc) 128) []) ∧
    kTakesPart (wordsOf (okOr (readRangeAt e6_w3 (dieOfChan 16) (ctxPart e6_w3 3) ((getList e6_w3 3 1).addr + 128 * (kPos e6_w3 16 3 1).desc) 128) []) 32) 16 = true ∧
    kCheck (getCtx e6_w3 3).cores (wordsOf (okOr (readRangeAt e6_w3 (dieOfChan 16) (ctxPart e6_w3 3) ((getList e6_w3 3 1).addr + 128 * (kPos e6_w3 16 3 1).desc) 128) []) 32) = some Code.badField ∧
    listRuns e6_sTrig 0 3 1 = true ∧
    (kPos e6_sTrig 0 3 1).stage = 0 ∧
    rangeReady e6_sTrig (ctxPart e6_sTrig 3) ((getList e6_sTrig 3 1).addr + 128 * (kPos e6_sTrig 0 3 1).desc) 128 = true ∧
    readRangeAt e6_sTrig (dieOfChan 0) (ctxPart e6_sTrig 3) ((getList e6_sTrig 3 1).addr + 128 * (kPos e6_sTrig 0 3 1).desc) 128 = Except.ok (okOr (readRangeAt e6_sTrig (dieOfChan 0) (ctxPart e6_sTrig 3) ((getList e6_sTrig 3 1).addr + 128 * (kPos e6_sTrig 0 3 1).desc) 128) []) ∧
    kTakesPart (wordsOf (okOr (readRangeAt e6_sTrig (dieOfChan 0) (ctxPart e6_sTrig 3) ((getList e6_sTrig 3 1).addr + 128 * (kPos e6_sTrig 0 3 1).desc) 128) []) 32) 0 = true ∧
    kCheck (getCtx e6_sTrig 3).cores (wordsOf (okOr (readRangeAt e6_sTrig (dieOfChan 0) (ctxPart e6_sTrig 3) ((getList e6_sTrig 3 1).addr + 128 * (kPos e6_sTrig 0 3 1).desc) 128) []) 32) = none ∧
    kTrigEn (wordsOf (okOr (readRangeAt e6_sTrig (dieOfChan 0) (ctxPart e6_sTrig 3) ((getList e6_sTrig 3 1).addr + 128 * (kPos e6_sTrig 0 3 1).desc) 128) []) 32) = true ∧
    listRuns alignFails 0 3 1 = true ∧
    (kPos alignFails 0 3 1).stage = 0 ∧
    rangeReady alignFails (ctxPart alignFails 3) ((getList alignFails 3 1).addr + 128 * (kPos alignFails 0 3 1).desc) 128 = true ∧
    readRangeAt alignFails (dieOfChan 0) (ctxPart alignFails 3) ((getList alignFails 3 1).addr + 128 * (kPos alignFails 0 3 1).desc) 128 = Except.ok (okOr (readRangeAt alignFails (dieOfChan 0) (ctxPart alignFails 3) ((getList alignFails 3 1).addr + 128 * (kPos alignFails 0 3 1).desc) 128) []) ∧
    kTakesPart (wordsOf (okOr (readRangeAt alignFails (dieOfChan 0) (ctxPart alignFails 3) ((getList alignFails 3 1).addr + 128 * (kPos alignFails 0 3 1).desc) 128) []) 32) 0 = true ∧
    kCheck (getCtx alignFails 3).cores (wordsOf (okOr (readRangeAt alignFails (dieOfChan 0) (ctxPart alignFails 3) ((getList alignFails 3 1).addr + 128 * (kPos alignFails 0 3 1).desc) 128) []) 32) = none ∧
    kTrigEn (wordsOf (okOr (readRangeAt alignFails (dieOfChan 0) (ctxPart alignFails 3) ((getList alignFails 3 1).addr + 128 * (kPos alignFails 0 3 1).desc) 128) []) 32) = false ∧
    listRuns e6_sNoMap 16 3 1 = true ∧
    (kPos e6_sNoMap 16 3 1).stage = 0 ∧
    rangeReady e6_sNoMap (ctxPart e6_sNoMap 3) ((getList e6_sNoMap 3 1).addr + 128 * (kPos e6_sNoMap 16 3 1).desc) 128 = true ∧
    readRangeAt e6_sNoMap (dieOfChan 16) (ctxPart e6_sNoMap 3) ((getList e6_sNoMap 3 1).addr + 128 * (kPos e6_sNoMap 16 3 1).desc) 128 = Except.error (errOr (readRangeAt e6_sNoMap (dieOfChan 16) (ctxPart e6_sNoMap 3) ((getList e6_sNoMap 3 1).addr + 128 * (kPos e6_sNoMap 16 3 1).desc) 128) (Code.badField, 0)) ∧
    (listRuns base 16 3 1 = false ∨ (kPos base 16 3 1).stage ≠ 0 ∨ rangeReady base (ctxPart base 3) ((getList base 3 1).addr + 128 * (kPos base 16 3 1).desc) 128 = false) ∧
    ctlAlive colDown 0 = false ∧
    ctlAlive base 0 = true ∧
    (∀ (k : Nat), dieOfChan k = 0 → (listRuns base k 3 1 && (kPos base k 3 1).stage == 1 && waitHolds (mileOf (getCore base (kTrigCore (kPos base k 3 1).words)) (kTrigMs (kPos base k 3 1).words)) 1 (nth (kPos base k 3 1).words 2)) = false) ∧
    ctlAlive e6_sTrig 0 = true ∧
    dieOfChan 16 = 0 ∧
    (listRuns e6_sTrig 16 3 1 && (kPos e6_sTrig 16 3 1).stage == 1 && waitHolds (mileOf (getCore e6_sTrig (kTrigCore (kPos e6_sTrig 16 3 1).words)) (kTrigMs (kPos e6_sTrig 16 3 1).words)) 1 (nth (kPos e6_sTrig 16 3 1).words 2)) = true ∧
    (∀ (k : Nat), k ≠ 16 → dieOfChan k = 0 → (listRuns e6_sTrig k 3 1 && (kPos e6_sTrig k 3 1).stage == 1 && waitHolds (mileOf (getCore e6_sTrig (kTrigCore (kPos e6_sTrig k 3 1).words)) (kTrigMs (kPos e6_sTrig k 3 1).words)) 1 (nth (kPos e6_sTrig k 3 1).words 2)) = false) ∧
    (getCtx ctxSaving 3).state = CState.saving ∧
    endsShare ctxSaving 3 = false ∧
    ((getCtx base 3).state ≠ CState.saving ∨ endsShare base 3 = true) := by
  and_intros <;> first
    | decide +kernel
    | (unfold Front; decide +kernel)
    | (unfold signalsFree; decide +kernel)
    | (unfold staysUp; decide +kernel)
    | (unfold ixLive; decide +kernel)
    | (unfold colNow; decide +kernel)
    | (unfold WakesNone; decide +kernel)
    | ((repeat' first | decide +kernel | constructor); done)
    | exact ok_of (by decide +kernel)
    | exact error_of (by decide +kernel)
    | exact ok_at (by decide +kernel)
    | exact err_at (by decide +kernel)
    | exact pair_is (by decide +kernel)
    | exact pair_ok_at (by decide +kernel)
    | exact pair_ok_is (by decide +kernel)
    | exact pair_error_is (by decide +kernel)
    | exact writes_at (by decide +kernel)
    | exact wait_of (by decide +kernel)
    | exact align_of (by decide +kernel)
    | exact fault_of (by decide +kernel)
    | exact all_some (by decide +kernel)
    | exact waits_idle (by decide +kernel)
    | exact waits_elsewhere (p := { words := trigDesc, stage := 1 }) (by decide +kernel)
    | (intro _ h; cases h; done)
    | (intro _ _ h; cases h; done)
theorem meets_KerbSteps :
    (hasTurn base 16 3 1 = false ∨ chanReady base 16 = false) ∧
    hasTurn indexFails 0 3 1 = true ∧
    chanReady indexFails 0 = true ∧
    kStepOf indexFails 0 3 (kPos indexFails 0 3 1) = KStep.fault 14 4194304 ∧
    hasTurn blockFails 128 3 1 = true ∧
    chanReady blockFails 128 = true ∧
    kStepOf blockFails 128 3 (kPos blockFails 128 3 1) = KStep.block 0 4194304 4194320 0 ∧
    kBlockFail blockFails 3 4194304 = some Code.absent ∧
    hasTurn scatWaits 16 3 1 = true ∧
    chanReady scatWaits 16 = true ∧
    kStepOf scatWaits 16 3 (kPos scatWaits 16 3 1) = KStep.block 0 0 64 0 ∧
    kBlockFail scatWaits 3 0 = none ∧
    blockOut scatWaits 16 3 (kPos scatWaits 16 3 1).words 0 64 0 = KOut.wait ∧
    hasTurn alignFails 16 3 1 = true ∧
    chanReady alignFails 16 = true ∧
    kStepOf alignFails 16 3 (kPos alignFails 16 3 1) = KStep.block 0 0 16 0 ∧
    kBlockFail alignFails 3 0 = none ∧
    blockOut alignFails 16 3 (kPos alignFails 16 3 1).words 0 16 0 = KOut.align ∧
    hasTurn readFails 16 3 1 = true ∧
    chanReady readFails 16 = true ∧
    kStepOf readFails 16 3 (kPos readFails 16 3 1) = KStep.block 0 0 16 0 ∧
    kBlockFail readFails 3 0 = none ∧
    blockOut readFails 16 3 (kPos readFails 16 3 1).words 0 16 0 = KOut.fault Code.absent 4194304 ∧
    hasTurn outWaits 16 3 1 = true ∧
    chanReady outWaits 16 = true ∧
    kStepOf outWaits 16 3 (kPos outWaits 16 3 1) = KStep.block 0 0 64 0 ∧
    kBlockFail outWaits 3 0 = none ∧
    blockOut outWaits 16 3 (kPos outWaits 16 3 1).words 0 64 0 = KOut.writes (writesAll (blockOut outWaits 16 3 (kPos outWaits 16 3 1).words 0 64 0)).fst 64 64 0 ∧
    ¬((writesAll (blockOut outWaits 16 3 (kPos outWaits 16 3 1).words 0 64 0)).fst.any fun (e : Nat × List Byte × Bool) => !rangeReady outWaits (ctxPart outWaits 3) e.fst e.snd.fst.length) = false ∧
    hasTurn e6_sShare 16 3 1 = true ∧
    chanReady e6_sShare 16 = true ∧
    kStepOf e6_sShare 16 3 (kPos e6_sShare 16 3 1) = KStep.block 0 0 16 0 ∧
    kBlockFail e6_sShare 3 0 = none ∧
    blockOut e6_sShare 16 3 (kPos e6_sShare 16 3 1).words 0 16 0 = KOut.writes e6_addBytes 48 0 0 ∧
    (e6_addBytes.any fun (e : Nat × List Byte × Bool) => !rangeReady e6_sShare (ctxPart e6_sShare 3) e.fst e.snd.fst.length) = false ∧
    (if kChecked (kPos e6_sShare 16 3 1).words = true then residueFails e6_sShare 16 4 else (e6_sShare, false)).snd = true ∧
    hasTurn gathOutFails 16 3 1 = true ∧
    chanReady gathOutFails 16 = true ∧
    kStepOf gathOutFails 16 3 (kPos gathOutFails 16 3 1) = KStep.block 0 0 64 0 ∧
    kBlockFail gathOutFails 3 0 = none ∧
    blockOut gathOutFails 16 3 (kPos gathOutFails 16 3 1).words 0 64 0 = KOut.writes (writesAll (blockOut gathOutFails 16 3 (kPos gathOutFails 16 3 1).words 0 64 0)).fst 64 64 0 ∧
    ((writesAll (blockOut gathOutFails 16 3 (kPos gathOutFails 16 3 1).words 0 64 0)).fst.any fun (e : Nat × List Byte × Bool) => !rangeReady gathOutFails (ctxPart gathOutFails 3) e.fst e.snd.fst.length) = false ∧
    (if kChecked (kPos gathOutFails 16 3 1).words = true then residueFails gathOutFails 16 0 else (gathOutFails, false)).snd = false ∧
    (kWrite (if kChecked (kPos gathOutFails 16 3 1).words = true then residueFails gathOutFails 16 0 else (gathOutFails, false)).fst 16 3 (writesAll (blockOut gathOutFails 16 3 (kPos gathOutFails 16 3 1).words 0 64 0)).fst).snd = some (Code.absent, 4194304) ∧
    (if kChecked (kPos e6_sShare 16 3 1).words = true then residueFails e6_sShare 16 0 else (e6_sShare, false)).snd = false ∧
    (kWrite (if kChecked (kPos e6_sShare 16 3 1).words = true then residueFails e6_sShare 16 0 else (e6_sShare, false)).fst 16 3 e6_addBytes).snd = none ∧
    hasTurn zeroWaits 0 3 1 = true ∧
    chanReady zeroWaits 0 = true ∧
    kStepOf zeroWaits 0 3 (kPos zeroWaits 0 3 1) = KStep.zero 0 0 ∧
    kOp (kPos zeroWaits 0 3 1).words = 8 ∧
    ¬rangeReady zeroWaits (ctxPart zeroWaits 3) (kAddr (kPos zeroWaits 0 3 1).words 2 + 0 * kRowBytes (kPos zeroWaits 0 3 1).words) (kRowBytes (kPos zeroWaits 0 3 1).words) = true ∧
    hasTurn scatZero 0 3 1 = true ∧
    chanReady scatZero 0 = true ∧
    kStepOf scatZero 0 3 (kPos scatZero 0 3 1) = KStep.zero 0 0 ∧
    kOp (kPos scatZero 0 3 1).words ≠ 8 ∧
    hasTurn e6_sGath 0 3 1 = true ∧
    chanReady e6_sGath 0 = true ∧
    kStepOf e6_sGath 0 3 (kPos e6_sGath 0 3 1) = KStep.zero 0 0 ∧
    kOp (kPos e6_sGath 0 3 1).words = 8 ∧
    rangeReady e6_sGath (ctxPart e6_sGath 3) (kAddr (kPos e6_sGath 0 3 1).words 2 + 0 * kRowBytes (kPos e6_sGath 0 3 1).words) (kRowBytes (kPos e6_sGath 0 3 1).words) = true ∧
    (writeRangeAt (bump32 e6_sGath (pgKerb 0) 100 1) (dieOfChan 0) (ctxPart (bump32 e6_sGath (pgKerb 0) 100 1) 3) (kAddr (kPos e6_sGath 0 3 1).words 2 + 0 * kRowBytes (kPos e6_sGath 0 3 1).words) (List.replicate (kRowBytes (kPos e6_sGath 0 3 1).words) 0)).snd = none ∧
    hasTurn zeroFails 0 3 1 = true ∧
    chanReady zeroFails 0 = true ∧
    kStepOf zeroFails 0 3 (kPos zeroFails 0 3 1) = KStep.zero 0 0 ∧
    kOp (kPos zeroFails 0 3 1).words = 8 ∧
    rangeReady zeroFails (ctxPart zeroFails 3) (kAddr (kPos zeroFails 0 3 1).words 2 + 0 * kRowBytes (kPos zeroFails 0 3 1).words) (kRowBytes (kPos zeroFails 0 3 1).words) = true ∧
    (writeRangeAt (bump32 zeroFails (pgKerb 0) 100 1) (dieOfChan 0) (ctxPart (bump32 zeroFails (pgKerb 0) 100 1) 3) (kAddr (kPos zeroFails 0 3 1).words 2 + 0 * kRowBytes (kPos zeroFails 0 3 1).words) (List.replicate (kRowBytes (kPos zeroFails 0 3 1).words) 0)).snd = some (Code.absent, 4194304) ∧
    shareGoes statusWaits 16 3 1 = true ∧
    ((kPos statusWaits 16 3 1).stage = 2 ∧ kStepOf statusWaits 16 3 (kPos statusWaits 16 3 1) = KStep.done ∨ (kPos statusWaits 16 3 1).stage = 3 ∧ (kPos statusWaits 16 3 1).at_ = 0) ∧
    rangeReady statusWaits (ctxPart statusWaits 3) (kAddr (kPos statusWaits 16 3 1).words 5 + 4 * kIndex (kPos statusWaits 16 3 1).words 16) 4 = false ∧
    shareGoes statusFails 16 3 1 = true ∧
    ((kPos statusFails 16 3 1).stage = 2 ∧ kStepOf statusFails 16 3 (kPos statusFails 16 3 1) = KStep.done ∨ (kPos statusFails 16 3 1).stage = 3 ∧ (kPos statusFails 16 3 1).at_ = 0) ∧
    rangeReady statusFails (ctxPart statusFails 3) (kAddr (kPos statusFails 16 3 1).words 5 + 4 * kIndex (kPos statusFails 16 3 1).words 16) 4 = true ∧
    (writeStatus statusFails 16 3 (kPos statusFails 16 3 1).words (kStatus (kPos statusFails 16 3 1) 0)).snd = some Code.absent ∧
    shareGoes e6_sDone 16 3 1 = true ∧
    ((kPos e6_sDone 16 3 1).stage = 2 ∧ kStepOf e6_sDone 16 3 (kPos e6_sDone 16 3 1) = KStep.done ∨ (kPos e6_sDone 16 3 1).stage = 3 ∧ (kPos e6_sDone 16 3 1).at_ = 0) ∧
    rangeReady e6_sDone (ctxPart e6_sDone 3) (kAddr (kPos e6_sDone 16 3 1).words 5 + 4 * kIndex (kPos e6_sDone 16 3 1).words 16) 4 = true ∧
    (writeStatus e6_sDone 16 3 (kPos e6_sDone 16 3 1).words (kStatus (kPos e6_sDone 16 3 1) 0)).snd = none ∧
    kerbUp e6_w9 16 = true ∧
    (kPos e6_w9 16 3 1).stage = 3 ∧
    (kPos e6_w9 16 3 1).at_ ≠ 0 ∧
    passed e6_w9 (kPos e6_w9 16 3 1).at_ 1000 = true ∧
    kerbUp e6_w10 16 = true ∧
    (kPos e6_w10 16 3 1).stage = 3 ∧
    (kPos e6_w10 16 3 1).at_ ≠ 0 ∧
    passed e6_w10 (kPos e6_w10 16 3 1).at_ 1000 = false ∧
    (getCol base 0).reduce = [] ∧
    (getCol redWaits 0).reduce = [e7_red1] ∧
    e7_red1.msg.body = Body.col e7_cm ∧
    (¬(colRange redWaits (getColSlot redWaits 0 e7_red1.slot) (ownAt redWaits e7_red1.slot e7_cm) e7_cm.payload.length = true ∧ (colRanks (getColSlot redWaits 0 e7_red1.slot).words ≤ e7_cm.step + 1 → colDstReady redWaits (getColSlot redWaits 0 e7_red1.slot) (if (colKind (getColSlot redWaits 0 e7_red1.slot).words == 2) = true then 64 * e7_cm.offset - ringSub (getColSlot redWaits 0 e7_red1.slot).words (ringPrev (getColSlot redWaits 0 e7_red1.slot).words) e7_cm.step * colSeg (getColSlot redWaits 0 e7_red1.slot).words else 64 * e7_cm.offset) e7_cm.payload.length = true))) ∧
    (getCol redUnmapped 0).reduce = [e7_red1] ∧
    colRange redUnmapped (getColSlot redUnmapped 0 e7_red1.slot) (ownAt redUnmapped e7_red1.slot e7_cm) e7_cm.payload.length = true ∧
    (colRanks (getColSlot redUnmapped 0 e7_red1.slot).words ≤ e7_cm.step + 1 → colDstReady redUnmapped (getColSlot redUnmapped 0 e7_red1.slot) (if (colKind (getColSlot redUnmapped 0 e7_red1.slot).words == 2) = true then 64 * e7_cm.offset - ringSub (getColSlot redUnmapped 0 e7_red1.slot).words (ringPrev (getColSlot redUnmapped 0 e7_red1.slot).words) e7_cm.step * colSeg (getColSlot redUnmapped 0 e7_red1.slot).words else 64 * e7_cm.offset) e7_cm.payload.length = true) ∧
    ownRead redUnmapped e7_red1.slot e7_cm = Except.error (errOr (ownRead redUnmapped e7_red1.slot e7_cm) (Code.badField, 0)) ∧
    (getCol redStopped 0).reduce = [e7_red1] ∧
    colRange redStopped (getColSlot redStopped 0 e7_red1.slot) (ownAt redStopped e7_red1.slot e7_cm) e7_cm.payload.length = true ∧
    (colRanks (getColSlot redStopped 0 e7_red1.slot).words ≤ e7_cm.step + 1 → colDstReady redStopped (getColSlot redStopped 0 e7_red1.slot) (if (colKind (getColSlot redStopped 0 e7_red1.slot).words == 2) = true then 64 * e7_cm.offset - ringSub (getColSlot redStopped 0 e7_red1.slot).words (ringPrev (getColSlot redStopped 0 e7_red1.slot).words) e7_cm.step * colSeg (getColSlot redStopped 0 e7_red1.slot).words else 64 * e7_cm.offset) e7_cm.payload.length = true) ∧
    ownRead redStopped e7_red1.slot e7_cm = Except.ok (okOr (ownRead redStopped e7_red1.slot e7_cm) []) ∧
    kerbUp redStopped (ownChan redStopped e7_red1.slot e7_cm) = false ∧
    (getCol e7_sRed 0).reduce = [e7_red1] ∧
    colRange e7_sRed (getColSlot e7_sRed 0 e7_red1.slot) (ownAt e7_sRed e7_red1.slot e7_cm) e7_cm.payload.length = true ∧
    (colRanks (getColSlot e7_sRed 0 e7_red1.slot).words ≤ e7_cm.step + 1 → colDstReady e7_sRed (getColSlot e7_sRed 0 e7_red1.slot) (if (colKind (getColSlot e7_sRed 0 e7_red1.slot).words == 2) = true then 64 * e7_cm.offset - ringSub (getColSlot e7_sRed 0 e7_red1.slot).words (ringPrev (getColSlot e7_sRed 0 e7_red1.slot).words) e7_cm.step * colSeg (getColSlot e7_sRed 0 e7_red1.slot).words else 64 * e7_cm.offset) e7_cm.payload.length = true) ∧
    ownRead e7_sRed e7_red1.slot e7_cm = Except.ok (okOr (ownRead e7_sRed e7_red1.slot e7_cm) []) ∧
    kerbUp e7_sRed (ownChan e7_sRed e7_red1.slot e7_cm) = true ∧
    (residueFails e7_sRed (ownChan e7_sRed e7_red1.slot e7_cm) 4).snd = true ∧
    (residueFails e7_sRed (ownChan e7_sRed e7_red1.slot e7_cm) 0).snd = false ∧
    ¬colRanks (getColSlot e7_sRed 0 e7_red1.slot).words ≤ e7_cm.step + 1 ∧
    (getCol redLastFails 0).reduce = [redLastRed] ∧
    redLastRed.msg.body = Body.col redLastMsg ∧
    colRange redLastFails (getColSlot redLastFails 0 redLastRed.slot) (ownAt redLastFails redLastRed.slot redLastMsg) redLastMsg.payload.length = true ∧
    (colRanks (getColSlot redLastFails 0 redLastRed.slot).words ≤ redLastMsg.step + 1 → colDstReady redLastFails (getColSlot redLastFails 0 redLastRed.slot) (if (colKind (getColSlot redLastFails 0 redLastRed.slot).words == 2) = true then 64 * redLastMsg.offset - ringSub (getColSlot redLastFails 0 redLastRed.slot).words (ringPrev (getColSlot redLastFails 0 redLastRed.slot).words) redLastMsg.step * colSeg (getColSlot redLastFails 0 redLastRed.slot).words else 64 * redLastMsg.offset) redLastMsg.payload.length = true) ∧
    ownRead redLastFails redLastRed.slot redLastMsg = Except.ok (okOr (ownRead redLastFails redLastRed.slot redLastMsg) []) ∧
    kerbUp redLastFails (ownChan redLastFails redLastRed.slot redLastMsg) = true ∧
    (residueFails redLastFails (ownChan redLastFails redLastRed.slot redLastMsg) 0).snd = false ∧
    colRanks (getColSlot redLastFails 0 redLastRed.slot).words ≤ redLastMsg.step + 1 ∧
    (colWrite (reduceSum (residueFails redLastFails (ownChan redLastFails redLastRed.slot redLastMsg) 0).fst 0 (ownChan redLastFails redLastRed.slot redLastMsg) redLastRed [] redLastMsg (okOr (ownRead redLastFails redLastRed.slot redLastMsg) [])).fst 0 redLastRed.slot (if (colKind (getColSlot redLastFails 0 redLastRed.slot).words == 2) = true then 64 * redLastMsg.offset - ringSub (getColSlot redLastFails 0 redLastRed.slot).words (ringPrev (getColSlot redLastFails 0 redLastRed.slot).words) redLastMsg.step * colSeg (getColSlot redLastFails 0 redLastRed.slot).words else 64 * redLastMsg.offset) (reduceSum (residueFails redLastFails (ownChan redLastFails redLastRed.slot redLastMsg) 0).fst 0 (ownChan redLastFails redLastRed.slot redLastMsg) redLastRed [] redLastMsg (okOr (ownRead redLastFails redLastRed.slot redLastMsg) [])).snd).snd = some ((colWrite (reduceSum (residueFails redLastFails (ownChan redLastFails redLastRed.slot redLastMsg) 0).fst 0 (ownChan redLastFails redLastRed.slot redLastMsg) redLastRed [] redLastMsg (okOr (ownRead redLastFails redLastRed.slot redLastMsg) [])).fst 0 redLastRed.slot (if (colKind (getColSlot redLastFails 0 redLastRed.slot).words == 2) = true then 64 * redLastMsg.offset - ringSub (getColSlot redLastFails 0 redLastRed.slot).words (ringPrev (getColSlot redLastFails 0 redLastRed.slot).words) redLastMsg.step * colSeg (getColSlot redLastFails 0 redLastRed.slot).words else 64 * redLastMsg.offset) (reduceSum (residueFails redLastFails (ownChan redLastFails redLastRed.slot redLastMsg) 0).fst 0 (ownChan redLastFails redLastRed.slot redLastMsg) redLastRed [] redLastMsg (okOr (ownRead redLastFails redLastRed.slot redLastMsg) [])).snd).snd.getD (Code.badField, 0)) ∧
    (getCol redLast 0).reduce = [redLastRed] ∧
    colRange redLast (getColSlot redLast 0 redLastRed.slot) (ownAt redLast redLastRed.slot redLastMsg) redLastMsg.payload.length = true ∧
    (colRanks (getColSlot redLast 0 redLastRed.slot).words ≤ redLastMsg.step + 1 → colDstReady redLast (getColSlot redLast 0 redLastRed.slot) (if (colKind (getColSlot redLast 0 redLastRed.slot).words == 2) = true then 64 * redLastMsg.offset - ringSub (getColSlot redLast 0 redLastRed.slot).words (ringPrev (getColSlot redLast 0 redLastRed.slot).words) redLastMsg.step * colSeg (getColSlot redLast 0 redLastRed.slot).words else 64 * redLastMsg.offset) redLastMsg.payload.length = true) ∧
    ownRead redLast redLastRed.slot redLastMsg = Except.ok (okOr (ownRead redLast redLastRed.slot redLastMsg) []) ∧
    kerbUp redLast (ownChan redLast redLastRed.slot redLastMsg) = true ∧
    (residueFails redLast (ownChan redLast redLastRed.slot redLastMsg) 0).snd = false ∧
    colRanks (getColSlot redLast 0 redLastRed.slot).words ≤ redLastMsg.step + 1 ∧
    (colWrite (reduceSum (residueFails redLast (ownChan redLast redLastRed.slot redLastMsg) 0).fst 0 (ownChan redLast redLastRed.slot redLastMsg) redLastRed [] redLastMsg (okOr (ownRead redLast redLastRed.slot redLastMsg) [])).fst 0 redLastRed.slot (if (colKind (getColSlot redLast 0 redLastRed.slot).words == 2) = true then 64 * redLastMsg.offset - ringSub (getColSlot redLast 0 redLastRed.slot).words (ringPrev (getColSlot redLast 0 redLastRed.slot).words) redLastMsg.step * colSeg (getColSlot redLast 0 redLastRed.slot).words else 64 * redLastMsg.offset) (reduceSum (residueFails redLast (ownChan redLast redLastRed.slot redLastMsg) 0).fst 0 (ownChan redLast redLastRed.slot redLastMsg) redLastRed [] redLastMsg (okOr (ownRead redLast redLastRed.slot redLastMsg) [])).snd).snd = none := by
  and_intros <;> first
    | decide +kernel
    | (unfold Front; decide +kernel)
    | (unfold signalsFree; decide +kernel)
    | (unfold staysUp; decide +kernel)
    | (unfold ixLive; decide +kernel)
    | (unfold colNow; decide +kernel)
    | (unfold WakesNone; decide +kernel)
    | ((repeat' first | decide +kernel | constructor); done)
    | exact ok_of (by decide +kernel)
    | exact error_of (by decide +kernel)
    | exact ok_at (by decide +kernel)
    | exact err_at (by decide +kernel)
    | exact pair_is (by decide +kernel)
    | exact pair_ok_at (by decide +kernel)
    | exact pair_ok_is (by decide +kernel)
    | exact pair_error_is (by decide +kernel)
    | exact writes_at (by decide +kernel)
    | exact wait_of (by decide +kernel)
    | exact align_of (by decide +kernel)
    | exact fault_of (by decide +kernel)
    | exact all_some (by decide +kernel)
    | (intro _ h; cases h; done)
    | (intro _ _ h; cases h; done)
theorem meets_Channels :
    (channelServes colDown 0 = false ∨ chanReady colDown 0 = false) ∧
    channelServes base 0 = true ∧
    chanReady base 0 = true ∧
    channelServes e8_claim0 0 = true ∧
    chanReady e8_claim0 0 = true ∧
    ownerFrame e8_claim0 0 0 = some (5, 0) ∧
    0 % 32 + ([1] : List Byte).length ≤ 32 ∧
    ownerFrame base 0 0 = none ∧
    bitOf (regOf base (pgHbm 0) 68) 8 = true ∧
    channelServes base (0 * 16 + (getStack base 0).scrub % 16) = true ∧
    ¬(bitOf (regOf colDown (pgHbm 0) 68) 8 = true ∧ channelServes colDown (0 * 16 + (getStack colDown 0).scrub % 16) = true) ∧
    hbmTraining base = false ∧
    openWindows (getStack base (0 / 16)) = 0 ∧
    List.foldl (fun (n j : Nat) => n + openWindows (getStack base j)) 0 (List.range 12) < 4 ∧
    (look (getStack base (0 / 16)).maintStart (0 % 16) 0 = 0 ∨ look (getStack base (0 / 16)).maintStart (0 % 16) 0 - 1 + 100000000 ≤ base.odometer) ∧
    (¬(channelServes colDown 0 = true ∧ hbmTraining colDown = false ∧ openWindows (getStack colDown (0 / 16)) = 0 ∧ List.foldl (fun (n j : Nat) => n + openWindows (getStack colDown j)) 0 (List.range 12) < 4 ∧ (look (getStack colDown (0 / 16)).maintStart (0 % 16) 0 = 0 ∨ look (getStack colDown (0 / 16)).maintStart (0 % 16) 0 - 1 + 100000000 ≤ colDown.odometer))) ∧
    look (getStack e8_w4 (0 / 16)).maint (0 % 16) false = true ∧
    e8_w4.odometer ≤ look (getStack e8_w4 (0 / 16)).maintStart (0 % 16) 0 - 1 + 40000 ∧
    (look (getStack base (0 / 16)).maint (0 % 16) false = false ∨ look (getStack base (0 / 16)).maintStart (0 % 16) 0 - 1 + 40000 < base.odometer) ∧
    look (getStack e8_w5 (0 / 16)).maint (0 % 16) false = true ∧
    look (getStack e8_w5 (0 / 16)).maintStart (0 % 16) 0 - 1 + 40000 ≤ e8_w5.odometer ∧
    (look (getStack base (0 / 16)).maint (0 % 16) false = false ∨ base.odometer < look (getStack base (0 / 16)).maintStart (0 % 16) 0 - 1 + 40000) ∧
    (getStack base 0).state ≠ 2 ∧
    (getStack e8_w6 0).state = 2 ∧
    (getRlc e8_w7 0).fills = [e8_fill0] ∧
    (getRlc base 0).fills = [] ∧
    (cacheHolds base 0 (128 * 0) 128 = false ∨ rangeReady base (fePart (frameEntry base (0 / 512))) (128 * 0) 128 = false) ∧
    cacheHolds sRlc 1 (128 * 2) 128 = true ∧
    rangeReady sRlc (fePart (frameEntry sRlc (2 / 512))) (128 * 2) 128 = true ∧
    (getKerb e8_sRes 0).resv = [e8_w1] ∧
    (getKerb e8_sRes 0).sb < 384 ∧
    look (getCore e8_sRes e8_w1.fst).reqs e8_w1.snd none = some ((look (getCore e8_sRes e8_w1.fst).reqs e8_w1.snd none).getD e1_w14) ∧
    ((getKerb base 0).resv = [] ∨ 384 ≤ (getKerb base 0).sb) := by
  and_intros <;> first
    | decide +kernel
    | (unfold Front; decide +kernel)
    | (unfold signalsFree; decide +kernel)
    | (unfold staysUp; decide +kernel)
    | (unfold ixLive; decide +kernel)
    | (unfold colNow; decide +kernel)
    | (unfold WakesNone; decide +kernel)
    | ((repeat' first | decide +kernel | constructor); done)
    | exact ok_of (by decide +kernel)
    | exact error_of (by decide +kernel)
    | exact ok_at (by decide +kernel)
    | exact err_at (by decide +kernel)
    | exact pair_is (by decide +kernel)
    | exact pair_ok_at (by decide +kernel)
    | exact pair_ok_is (by decide +kernel)
    | exact pair_error_is (by decide +kernel)
    | exact writes_at (by decide +kernel)
    | exact wait_of (by decide +kernel)
    | exact align_of (by decide +kernel)
    | exact fault_of (by decide +kernel)
    | exact all_some (by decide +kernel)
    | (intro _ h; cases h; done)
    | (intro _ _ h; cases h; done)
theorem meets_PortTraining :
    (getPort f0_routed 3).light = true ∧
    (getPort base 3).light = false ∧
    k1_w10.power.state ≠ PState.off ∧
    (getCmp k1_w10 6).en = true ∧
    bitOf (BitVec.toNat (getCmp k1_w10 6).arg) 3 = true ∧
    (getPort k1_w10 3).light = false ∧
    lit6.power.state ≠ PState.off ∧
    (getCmp lit6 6).en = true ∧
    bitOf (BitVec.toNat (getCmp lit6 6).arg) 3 = true ∧
    (getPort lit6 3).light = true ∧
    ¬(base.power.state ≠ PState.off ∧ (getCmp base 6).en = true ∧ bitOf (BitVec.toNat (getCmp base 6).arg) 3 = true) ∧
    portUp base 3 = true ∧
    (getPort base 3).txOff = false ∧
    ((getPort base 3).tstate = 0 ∨ (getPort base 3).tstate = 7) ∧
    ¬(dormant.power.state ≠ PState.off ∧ (getCmp dormant 6).en = true ∧ bitOf (BitVec.toNat (getCmp dormant 6).arg) 3 = true) ∧
    (getPort dormant 3).light = false ∧
    (¬(portUp dormant 3 = true ∧ (getPort dormant 3).txOff = false ∧ ((getPort dormant 3).tstate = 0 ∨ (getPort dormant 3).tstate = 7))) ∧
    ¬(f0_routed.power.state ≠ PState.off ∧ (getCmp f0_routed 6).en = true ∧ bitOf (BitVec.toNat (getCmp f0_routed 6).arg) 3 = true) ∧
    (portUp base 3 = false ∨ (getPort base 3).tstate ≠ 1 ∧ (getPort base 3).tstate ≠ 2 ∧ (getPort base 3).tstate ≠ 3) ∧
    portUp f0_w2 3 = true ∧
    (getPort f0_w2 3).tstate = 1 ∧
    (getPort f0_w2 3).trainAt + 10000 ≤ f0_w2.odometer ∧
    portUp justLit 3 = true ∧
    (getPort justLit 3).tstate = 1 ∧
    justLit.odometer < (getPort justLit 3).trainAt + 10000 ∧
    portUp f0_w3 3 = true ∧
    (getPort f0_w3 3).tstate = 2 ∧
    (¬(((if (getPort f0_w3 3).retrain = true then (getPort f0_w3 3).txGood &&& 1 else 1) &&& if (getPort f0_w3 3).retrain = true then (getPort f0_w3 3).farReq else 255#8) = 0 ∨ (if (getPort f0_w3 3).retrain = true then (getPort f0_w3 3).laneReq &&& 1 else 1) = 0)) ∧
    (((if (getPort f0_w3 3).retrain = true then (getPort f0_w3 3).txGood &&& 0 else 0) &&& if (getPort f0_w3 3).retrain = true then (getPort f0_w3 3).farReq else 255#8) = 0 ∨ (if (getPort f0_w3 3).retrain = true then (getPort f0_w3 3).laneReq &&& 0 else 0) = 0) ∧
    portUp f0_w5 3 = true ∧
    (getPort f0_w5 3).tstate = 3 ∧
    ((getPort f0_w5 3).txGood &&& 0 &&& (getPort f0_w5 3).farReq = 0 ∨ (getPort f0_w5 3).laneReq &&& 0 = 0) ∧
    (¬((getPort f0_w5 3).txGood &&& 1 &&& (getPort f0_w5 3).farReq = 0 ∨ (getPort f0_w5 3).laneReq &&& 1 = 0)) ∧
    ((getPort f0_w10 3).tstate = 2 ∨ (getPort f0_w10 3).tstate = 3 ∨ (getPort f0_w10 3).tstate = 4) ∧
    ((getPort f0_w10 3).retrain = true ∧ (getPort f0_w10 3).tstate ≠ 4 ∧ (getPort f0_w10 3).retrainAt + 10000000 ≤ f0_w10.odometer ∨ if (getPort f0_w10 3).tstate = 2 then (getPort f0_w10 3).trainAt + 30000000 ≤ f0_w10.odometer else if (getPort f0_w10 3).tstate = 3 then (getPort f0_w10 3).trainAt + 5000000 ≤ f0_w10.odometer else (getPort f0_w10 3).trainAt + 1000000 ≤ f0_w10.odometer ∧ planOpen f0_w10 = false) ∧
    (¬((getPort base 3).tstate = 2 ∨ (getPort base 3).tstate = 3 ∨ (getPort base 3).tstate = 4) ∨ ¬((getPort base 3).retrain = true ∧ (getPort base 3).tstate ≠ 4 ∧ (getPort base 3).retrainAt + 10000000 ≤ base.odometer ∨ if (getPort base 3).tstate = 2 then (getPort base 3).trainAt + 30000000 ≤ base.odometer else if (getPort base 3).tstate = 3 then (getPort base 3).trainAt + 5000000 ≤ base.odometer else (getPort base 3).trainAt + 1000000 ≤ base.odometer ∧ planOpen base = false)) ∧
    (getPort f0_w1 3).light = true ∧
    portUp f0_w1 3 = true ∧
    (getPort f0_w1 3).txOff = false ∧
    ((getPort f0_w1 3).tstate = 0 ∨ (getPort f0_w1 3).tstate = 7) ∧
    (getPort f0_w1 3).retryAt ≠ 0 ∧
    (getPort f0_w1 3).retryAt - 1 + 10000000 ≤ f0_w1.odometer ∧
    (¬((getPort base 3).light = true ∧ (portUp base 3 = true ∧ (getPort base 3).txOff = false ∧ ((getPort base 3).tstate = 0 ∨ (getPort base 3).tstate = 7)) ∧ (getPort base 3).retryAt ≠ 0 ∧ (getPort base 3).retryAt - 1 + 10000000 ≤ base.odometer)) ∧
    (getPort f0_w6 3).tstate = 5 ∧
    portUp f0_w6 3 = true ∧
    (64 < (List.filter (fun (t : Nat) => decide (f0_w6.odometer < t + 1000000)) (getPort f0_w6 3).nakTimes).length ∨ (getPort f0_w6 3).replay ≠ [] ∧ (getPort f0_w6 3).ackAt + 100000 ≤ f0_w6.odometer) ∧
    (¬((getPort base 3).tstate = 5 ∧ portUp base 3 = true ∧ (64 < (List.filter (fun (t : Nat) => decide (base.odometer < t + 1000000)) (getPort base 3).nakTimes).length ∨ (getPort base 3).replay ≠ [] ∧ (getPort base 3).ackAt + 100000 ≤ base.odometer))) ∧
    trained f0_routed 3 = true ∧
    trained base 3 = false ∧
    trained f0_w7 3 = true ∧
    (getPort f0_w7 3).widthChanging = true ∧
    (getPort f0_w7 3).chgOut = false ∧
    (trained base 3 = false ∨ (getPort base 3).widthChanging = false ∨ (getPort base 3).chgOut = true) ∧
    trained f0_w11 3 = true ∧
    planOpen f0_w11 = true ∧
    planOpen f0_routed = false ∧
    ¬((getPort f0_routed 3).retrain = true ∧ (getPort f0_routed 3).nbr ≠ some f0_w9) ∧
    trained idChanged 3 = true ∧
    planOpen idChanged = false ∧
    (getPort idChanged 3).retrain = true ∧
    (getPort idChanged 3).nbr ≠ some id1 ∧
    assigned base = false ∧
    assigned f0_routed = true ∧
    bitOf (regOf f0_routed (pgPort 4) 68) 31 = false ∧
    bitOf (regOf f0_routed (pgPort 3) 68) 31 = true ∧
    (idOther.assigned = false ∨ idOther.chip.toNat ≠ fieldOf (regOf f0_routed (pgPort 3) 68) 0 16) ∧
    idPort.assigned = true ∧
    idPort.chip.toNat = fieldOf (regOf f0_routed (pgPort 3) 68) 0 16 ∧
    idPort.port.toNat ≠ fieldOf (regOf f0_routed (pgPort 3) 68) 16 5 ∧
    f0_w9.assigned = true ∧
    f0_w9.chip.toNat = fieldOf (regOf f0_routed (pgPort 3) 68) 0 16 ∧
    f0_w9.port.toNat = fieldOf (regOf f0_routed (pgPort 3) 68) 16 5 := by
  and_intros <;> first
    | decide +kernel
    | (unfold Front; decide +kernel)
    | (unfold signalsFree; decide +kernel)
    | (unfold staysUp; decide +kernel)
    | (unfold ixLive; decide +kernel)
    | (unfold colNow; decide +kernel)
    | (unfold WakesNone; decide +kernel)
    | ((repeat' first | decide +kernel | constructor); done)
    | exact ok_of (by decide +kernel)
    | exact error_of (by decide +kernel)
    | exact ok_at (by decide +kernel)
    | exact err_at (by decide +kernel)
    | exact pair_is (by decide +kernel)
    | exact pair_ok_at (by decide +kernel)
    | exact pair_ok_is (by decide +kernel)
    | exact pair_error_is (by decide +kernel)
    | exact writes_at (by decide +kernel)
    | exact wait_of (by decide +kernel)
    | exact align_of (by decide +kernel)
    | exact fault_of (by decide +kernel)
    | exact all_some (by decide +kernel)
    | (intro _ h; cases h; done)
    | (intro _ _ h; cases h; done)
theorem meets_LinkTraffic :
    trained base 3 = false ∧
    trained f0_routed 3 = true ∧
    flitIdBad.crcOk = false ∧
    flitIdBad.ident = some id1 ∧
    flitSyncBad.crcOk = false ∧
    flitSyncBad.ident = none ∧
    flitSyncBad.sync = true ∧
    f0_w16.crcOk = false ∧
    f0_w16.ident = none ∧
    f0_w16.sync = false ∧
    flitId.crcOk = true ∧
    flitId.ident = some id1 ∧
    flitSync.crcOk = true ∧
    flitSync.ident = none ∧
    flitSync.sync = true ∧
    f0_w14.crcOk = true ∧
    f0_w14.ident = none ∧
    f0_w14.sync = false ∧
    f0_w14.seq ≠ (getPort f0_routed 3).rxSeq ∧
    flit0.crcOk = true ∧
    flit0.ident = none ∧
    flit0.sync = false ∧
    flit0.seq = (getPort f0_routed 3).rxSeq ∧
    ((getPort f0_routed 3).farReq &&& flit0.laneReq &&& (getPort f0_routed 3).txGood ≠ 0 ∧ (getPort f0_routed 3).laneReq ≠ 0 ∨ lanesOf ((getPort f0_routed 3).farReq &&& (getPort f0_routed 3).txGood) = lanesOf ((getPort f0_routed 3).farReq &&& flit0.laneReq &&& (getPort f0_routed 3).txGood)) ∧
    trained f0_w10 3 = true ∧
    ((getPort f0_w10 3).identOut = true ∨ (getPort f0_w10 3).tstate = 4) ∧
    trained sendsSync 3 = true ∧
    (getPort sendsSync 3).identOut = false ∧
    (getPort sendsSync 3).tstate = 5 ∧
    (getPort sendsSync 3).syncOut = some (5, 6) ∧
    trained sendsLater 3 = true ∧
    (getPort sendsLater 3).identOut = false ∧
    ((getPort sendsLater 3).tstate = 6 ∨ (getPort sendsLater 3).syncOut = none) ∧
    (getPort sendsLater 3).widthAt ≠ 0 ∧
    trained sendsAgain 3 = true ∧
    (getPort sendsAgain 3).identOut = false ∧
    ((getPort sendsAgain 3).tstate = 6 ∨ (getPort sendsAgain 3).syncOut = none) ∧
    ¬(getPort sendsAgain 3).widthAt ≠ 0 ∧
    (getPort sendsAgain 3).tstate ≠ 4 ∧
    (getPort sendsAgain 3).resendFrom = some 0 ∧
    List.find? (fun (g : Flit) => g.seq == 0) (getPort sendsAgain 3).replay = some flit0 ∧
    trained sendsGone 3 = true ∧
    (getPort sendsGone 3).identOut = false ∧
    ((getPort sendsGone 3).tstate = 6 ∨ (getPort sendsGone 3).syncOut = none) ∧
    ¬(getPort sendsGone 3).widthAt ≠ 0 ∧
    (getPort sendsGone 3).tstate ≠ 4 ∧
    (getPort sendsGone 3).resendFrom = some 0 ∧
    List.find? (fun (g : Flit) => g.seq == 0) (getPort sendsGone 3).replay = none ∧
    trained sendsFull 3 = true ∧
    (getPort sendsFull 3).identOut = false ∧
    ((getPort sendsFull 3).tstate = 6 ∨ (getPort sendsFull 3).syncOut = none) ∧
    ¬(getPort sendsFull 3).widthAt ≠ 0 ∧
    (getPort sendsFull 3).tstate ≠ 4 ∧
    (getPort sendsFull 3).resendFrom = none ∧
    8192 ≤ (getPort sendsFull 3).replay.length ∧
    (getPort f0_routed 3).identOut = false ∧
    ((getPort f0_routed 3).tstate = 6 ∨ (getPort f0_routed 3).syncOut = none) ∧
    ¬(getPort f0_routed 3).widthAt ≠ 0 ∧
    (getPort f0_routed 3).tstate ≠ 4 ∧
    (getPort f0_routed 3).resendFrom = none ∧
    (getPort f0_routed 3).replay.length < 8192 ∧
    (getPort base 3).rxQueue = [] ∧
    (getPort rxDown 3).rxQueue = [(getPort rxDown 3).rxQueue.headD colPutMsg] ∧
    (portUp rxDown 3 = false ∨ awaitsCheck rxDown 3 = true) ∧
    (getPort f0_w17 3).rxQueue = [(getPort f0_w17 3).rxQueue.headD colPutMsg] ∧
    ((getPort f0_w17 3).rxQueue.headD colPutMsg).dstChip = chipId f0_w17 ∧
    (getPort f0_routed 3).rxQueue = [(getPort f0_routed 3).rxQueue.headD colPutMsg] ∧
    ((getPort f0_routed 3).rxQueue.headD colPutMsg).dstChip ≠ chipId f0_routed ∧
    (getPort f0_w18 3).rxQueue = [(getPort f0_w18 3).rxQueue.headD colPutMsg] ∧
    ((getPort f0_w18 3).rxQueue.headD colPutMsg).dstChip ≠ chipId f0_w18 ∧
    portUp f0_w18 3 = true ∧
    awaitsCheck f0_w18 3 = false ∧
    routeFor f0_w18 (dieOfPort 3) ((getPort f0_w18 3).rxQueue.headD colPutMsg).srcChip ((getPort f0_w18 3).rxQueue.headD colPutMsg).dstChip = none ∧
    portUp f0_routed 3 = true ∧
    awaitsCheck f0_routed 3 = false ∧
    routeFor f0_routed (dieOfPort 3) ((getPort f0_routed 3).rxQueue.headD colPutMsg).srcChip ((getPort f0_routed 3).rxQueue.headD colPutMsg).dstChip = some 3 ∧
    dieOfPort 3 = dieOfPort 3 ∧
    (getPort routedShut 3).rxQueue = [(getPort routedShut 3).rxQueue.headD colPutMsg] ∧
    ((getPort routedShut 3).rxQueue.headD colPutMsg).dstChip ≠ chipId routedShut ∧
    portUp routedShut 3 = true ∧
    awaitsCheck routedShut 3 = false ∧
    routeFor routedShut (dieOfPort 3) ((getPort routedShut 3).rxQueue.headD colPutMsg).srcChip ((getPort routedShut 3).rxQueue.headD colPutMsg).dstChip = some 11 ∧
    dieOfPort 11 ≠ dieOfPort 3 ∧
    (bypassUp routedShut (dieOfPort 3) && decide (Machine.queued routedShut (Place.bypass (bypassWay (dieOfPort 3) (dieOfPort 11))) ((getPort routedShut 3).rxQueue.headD colPutMsg).cw ((getPort routedShut 3).rxQueue.headD colPutMsg).resp + 18 ≤ 27)) = false ∧
    (getPort routedFar 3).rxQueue = [(getPort routedFar 3).rxQueue.headD colPutMsg] ∧
    ((getPort routedFar 3).rxQueue.headD colPutMsg).dstChip ≠ chipId routedFar ∧
    portUp routedFar 3 = true ∧
    awaitsCheck routedFar 3 = false ∧
    routeFor routedFar (dieOfPort 3) ((getPort routedFar 3).rxQueue.headD colPutMsg).srcChip ((getPort routedFar 3).rxQueue.headD colPutMsg).dstChip = some 11 ∧
    (bypassUp routedFar (dieOfPort 3) && decide (Machine.queued routedFar (Place.bypass (bypassWay (dieOfPort 3) (dieOfPort 11))) ((getPort routedFar 3).rxQueue.headD colPutMsg).cw ((getPort routedFar 3).rxQueue.headD colPutMsg).resp + 18 ≤ 27)) = true ∧
    (getPort rxDozing 3).rxQueue = [(getPort rxDozing 3).rxQueue.headD colPutMsg] ∧
    ((getPort rxDozing 3).rxQueue.headD colPutMsg).dstChip = chipId rxDozing ∧
    portUp rxDozing 3 = true ∧
    awaitsCheck rxDozing 3 = false ∧
    rxDozing.power.state = PState.doze ∧
    ((getPort rxDozing 3).rxQueue.headD colPutMsg).resp = false ∧
    (getPort rxNowhere 3).rxQueue = [(getPort rxNowhere 3).rxQueue.headD colPutMsg] ∧
    ((getPort rxNowhere 3).rxQueue.headD colPutMsg).dstChip = chipId rxNowhere ∧
    portUp rxNowhere 3 = true ∧
    awaitsCheck rxNowhere 3 = false ∧
    List.find? (fun (k : Nat) => rxNowhere.power.state == PState.on && dieUp rxNowhere k) (List.map (fun (i : Nat) => (dieOfPort 3 + i) % 4) (List.range 4)) = none ∧
    (rxNowhere.power.state ≠ PState.doze ∨ ((getPort rxNowhere 3).rxQueue.headD colPutMsg).resp = true) ∧
    portUp f0_w17 3 = true ∧
    awaitsCheck f0_w17 3 = false ∧
    List.find? (fun (k : Nat) => f0_w17.power.state == PState.on && dieUp f0_w17 k) (List.map (fun (i : Nat) => (dieOfPort 3 + i) % 4) (List.range 4)) = some (dieOfPort 3) ∧
    (getPort rxNextShut 3).rxQueue = [(getPort rxNextShut 3).rxQueue.headD colPutMsg] ∧
    ((getPort rxNextShut 3).rxQueue.headD colPutMsg).dstChip = chipId rxNextShut ∧
    portUp rxNextShut 3 = true ∧
    awaitsCheck rxNextShut 3 = false ∧
    List.find? (fun (k : Nat) => rxNextShut.power.state == PState.on && dieUp rxNextShut k) (List.map (fun (i : Nat) => (dieOfPort 3 + i) % 4) (List.range 4)) = some 1 ∧
    1 ≠ dieOfPort 3 ∧
    (bypassUp rxNextShut (dieOfPort 3) && decide (Machine.queued rxNextShut (Place.bypass (bypassWay (dieOfPort 3) 1)) ((getPort rxNextShut 3).rxQueue.headD colPutMsg).cw ((getPort rxNextShut 3).rxQueue.headD colPutMsg).resp + 18 ≤ 27)) = false ∧
    (getPort rxNext 3).rxQueue = [(getPort rxNext 3).rxQueue.headD colPutMsg] ∧
    ((getPort rxNext 3).rxQueue.headD colPutMsg).dstChip = chipId rxNext ∧
    portUp rxNext 3 = true ∧
    awaitsCheck rxNext 3 = false ∧
    List.find? (fun (k : Nat) => rxNext.power.state == PState.on && dieUp rxNext k) (List.map (fun (i : Nat) => (dieOfPort 3 + i) % 4) (List.range 4)) = some 1 ∧
    (bypassUp rxNext (dieOfPort 3) && decide (Machine.queued rxNext (Place.bypass (bypassWay (dieOfPort 3) 1)) ((getPort rxNext 3).rxQueue.headD colPutMsg).cw ((getPort rxNext 3).rxQueue.headD colPutMsg).resp + 18 ≤ 27)) = true ∧
    List.find? (fun (o : OutReq) => o.req == 5) f0_w15.outs = some out0 ∧
    out0.sentAt + 2000000 < f0_w15.odometer ∧
    List.find? (fun (o : OutReq) => o.req == 5) f0_w17.outs = some ((List.find? (fun (o : OutReq) => o.req == 5) f0_w17.outs).getD out0) ∧
    f0_w17.odometer ≤ ((List.find? (fun (o : OutReq) => o.req == 5) f0_w17.outs).getD out0).sentAt + 2000000 ∧
    List.find? (fun (o : OutReq) => o.req == 0) base.outs = none ∧
    timePort base = none ∧
    timePort f0_w20 = some (3, false) ∧
    timeRoot f0_w20 = true ∧
    timePort f0_w19 = some (3, false) ∧
    timeRoot f0_w19 = false ∧
    (f0_w19.time.askedAt = 0 ∨ f0_w19.time.askedAt - 1 + 1000000 ≤ f0_w19.odometer) ∧
    timePort timedJust = some (3, false) ∧
    (¬(timedJust.time.askedAt = 0 ∨ timedJust.time.askedAt - 1 + 1000000 ≤ timedJust.odometer)) ∧
    f0_w21.time.asked = some (f0_w21.time.asked.getD 0) ∧
    1000000000 = f0_w21.odometer ∧
    (base.time.asked ≠ some 0 ∨ 1000000000 ≠ base.odometer) ∧
    timeRoot f0_w22 = false ∧
    f0_w22.time.synced = true ∧
    f0_w22.time.lastExchange + 10000000 ≤ f0_w22.odometer ∧
    ¬(timeRoot base = false ∧ base.time.synced = true ∧ base.time.lastExchange + 10000000 ≤ base.odometer) := by
  and_intros <;> first
    | decide +kernel
    | (unfold Front; decide +kernel)
    | (unfold signalsFree; decide +kernel)
    | (unfold staysUp; decide +kernel)
    | (unfold ixLive; decide +kernel)
    | (unfold colNow; decide +kernel)
    | (unfold WakesNone; decide +kernel)
    | ((repeat' first | decide +kernel | constructor); done)
    | exact ok_of (by decide +kernel)
    | exact error_of (by decide +kernel)
    | exact ok_at (by decide +kernel)
    | exact err_at (by decide +kernel)
    | exact pair_is (by decide +kernel)
    | exact pair_ok_at (by decide +kernel)
    | exact pair_ok_is (by decide +kernel)
    | exact pair_error_is (by decide +kernel)
    | exact writes_at (by decide +kernel)
    | exact wait_of (by decide +kernel)
    | exact align_of (by decide +kernel)
    | exact fault_of (by decide +kernel)
    | exact all_some (by decide +kernel)
    | (intro _ h; cases h; done)
    | (intro _ _ h; cases h; done)
theorem meets_BridgesAndTraces :
    ¬(gated base (pgBridge (bridgeOf 0 2)) = false ∧ (getBridge base (bridgeOf 0 2)).sliceMap.getLsbD 4 = true) ∧
    gated base (pgBridge (bridgeOf 0 0)) = false ∧
    (getBridge base (bridgeOf 0 0)).sliceMap.getLsbD 4 = true ∧
    (List.filter (fun (t : Nat) => decide (base.odometer < t + 1000000)) (look (getBridge base (bridgeOf 0 0)).retries 4 [])).length < 16 ∧
    gated f1_w2 (pgBridge (bridgeOf 0 0)) = false ∧
    (getBridge f1_w2 (bridgeOf 0 0)).sliceMap.getLsbD 4 = true ∧
    16 ≤ (List.filter (fun (t : Nat) => decide (f1_w2.odometer < t + 1000000)) (look (getBridge f1_w2 (bridgeOf 0 0)).retries 4 [])).length ∧
    ¬(gated arrDueShut (pgBridge (bridgeOf 0 0)) = false ∧ (getBridge arrDueShut (bridgeOf 0 0)).lost = false ∧ (getBridge arrDueShut (bridgeOf 0 0)).lastAt + 1000 ≤ arrDueShut.odometer) ∧
    (getBridge base (bridgeOf 0 0)).lost = false ∧
    (getBridge base (bridgeOf 0 0)).lastAt + 1000 ≤ base.odometer ∧
    farDie 0 0 = some 1 ∧
    dieUp base 1 = true ∧
    gated colDown (pgBridge (bridgeOf 1 1)) = false ∧
    (getBridge colDown (bridgeOf 1 1)).lost = false ∧
    (getBridge colDown (bridgeOf 1 1)).lastAt + 1000 ≤ colDown.odometer ∧
    farDie 1 1 = some 0 ∧
    dieUp colDown 0 = false ∧
    gated base (pgBridge (bridgeOf 0 2)) = false ∧
    (getBridge base (bridgeOf 0 2)).lost = false ∧
    (getBridge base (bridgeOf 0 2)).lastAt + 1000 ≤ base.odometer ∧
    farDie 0 2 = none ∧
    ¬((getTrace base 0).active = true ∧ (getTrace base 0).stopped = false ∧ trEnabled (getTrace base 0) = true ∧ trField (getTrace base 0) 24 4 = 5 ∧ dieUp base (trField (getTrace base 0) 0 12) = true ∧ (getTrace base 0).sampledAt + 2 ^ regOf base (pgTrace 0) 68 * 1000 ≤ base.odometer) ∧
    (getTrace traceFull 2).active = true ∧
    (getTrace traceFull 2).stopped = false ∧
    trEnabled (getTrace traceFull 2) = true ∧
    trField (getTrace traceFull 2) 24 4 = 5 ∧
    dieUp traceFull (trField (getTrace traceFull 2) 0 12) = true ∧
    (getTrace traceFull 2).sampledAt + 2 ^ regOf traceFull (pgTrace 2) 68 * 1000 ≤ traceFull.odometer ∧
    ((getTrace traceFull 2).full = true ∨ 64 ≤ (getTrace traceFull 2).queue.length) ∧
    (getTrace f1_sTr 2).active = true ∧
    (getTrace f1_sTr 2).stopped = false ∧
    trEnabled (getTrace f1_sTr 2) = true ∧
    trField (getTrace f1_sTr 2) 24 4 = 5 ∧
    dieUp f1_sTr (trField (getTrace f1_sTr 2) 0 12) = true ∧
    (getTrace f1_sTr 2).sampledAt + 2 ^ regOf f1_sTr (pgTrace 2) 68 * 1000 ≤ f1_sTr.odometer ∧
    (getTrace f1_sTr 2).full = false ∧
    (getTrace f1_sTr 2).queue.length < 64 ∧
    (getTrace base 0).queue = [] ∧
    (getTrace traceFull 2).queue = [f1_rec0] ∧
    (getTrace traceFull 2).full = true ∧
    (getTrace traceWaits 2).queue = [f1_rec0] ∧
    (getTrace traceWaits 2).full = false ∧
    ¬rangeReady traceWaits (getTrace traceWaits 2).part (reg64 traceWaits (pgTrace 2) 72 + 32 * ((getTrace traceWaits 2).written % trCapacity traceWaits 2)) 32 = true ∧
    (getTrace traceUnmapped 2).queue = [f1_rec0] ∧
    (getTrace traceUnmapped 2).full = false ∧
    rangeReady traceUnmapped (getTrace traceUnmapped 2).part (reg64 traceUnmapped (pgTrace 2) 72 + 32 * ((getTrace traceUnmapped 2).written % trCapacity traceUnmapped 2)) 32 = true ∧
    (writeRange (setTrace traceUnmapped 2 { ctl := (getTrace traceUnmapped 2).ctl, part := (getTrace traceUnmapped 2).part, active := (getTrace traceUnmapped 2).active, full := (getTrace traceUnmapped 2).full, stopped := (getTrace traceUnmapped 2).stopped, code := (getTrace traceUnmapped 2).code, written := (getTrace traceUnmapped 2).written, events := (getTrace traceUnmapped 2).events, sampledAt := (getTrace traceUnmapped 2).sampledAt, lost := (getTrace traceUnmapped 2).lost, clearedAt := (getTrace traceUnmapped 2).clearedAt }) (getTrace traceUnmapped 2).part (reg64 traceUnmapped (pgTrace 2) 72 + 32 * ((getTrace traceUnmapped 2).written % trCapacity traceUnmapped 2)) (traceBytes f1_rec0)).snd = some Code.absent ∧
    (getTrace f1_sTr 2).queue = [f1_rec0] ∧
    rangeReady f1_sTr (getTrace f1_sTr 2).part (reg64 f1_sTr (pgTrace 2) 72 + 32 * ((getTrace f1_sTr 2).written % trCapacity f1_sTr 2)) 32 = true ∧
    (writeRange (setTrace f1_sTr 2 { ctl := (getTrace f1_sTr 2).ctl, part := (getTrace f1_sTr 2).part, active := (getTrace f1_sTr 2).active, full := (getTrace f1_sTr 2).full, stopped := (getTrace f1_sTr 2).stopped, code := (getTrace f1_sTr 2).code, written := (getTrace f1_sTr 2).written, events := (getTrace f1_sTr 2).events, sampledAt := (getTrace f1_sTr 2).sampledAt, lost := (getTrace f1_sTr 2).lost, clearedAt := (getTrace f1_sTr 2).clearedAt }) (getTrace f1_sTr 2).part (reg64 f1_sTr (pgTrace 2) 72 + 32 * ((getTrace f1_sTr 2).written % trCapacity f1_sTr 2)) (traceBytes f1_rec0)).snd = none := by
  and_intros <;> first
    | decide +kernel
    | (unfold Front; decide +kernel)
    | (unfold signalsFree; decide +kernel)
    | (unfold staysUp; decide +kernel)
    | (unfold ixLive; decide +kernel)
    | (unfold colNow; decide +kernel)
    | (unfold WakesNone; decide +kernel)
    | ((repeat' first | decide +kernel | constructor); done)
    | exact ok_of (by decide +kernel)
    | exact error_of (by decide +kernel)
    | exact ok_at (by decide +kernel)
    | exact err_at (by decide +kernel)
    | exact pair_is (by decide +kernel)
    | exact pair_ok_at (by decide +kernel)
    | exact pair_ok_is (by decide +kernel)
    | exact pair_error_is (by decide +kernel)
    | exact writes_at (by decide +kernel)
    | exact wait_of (by decide +kernel)
    | exact align_of (by decide +kernel)
    | exact fault_of (by decide +kernel)
    | exact all_some (by decide +kernel)
    | (intro _ h; cases h; done)
    | (intro _ _ h; cases h; done)
theorem meets_ExchangeRounds :
    ¬((getIxSlot base 0 2).armed = true ∧ (getIxSlot base 0 2).phase = 0 ∧ gated base (pgIx 0) = false ∧ trigReached base (getIxSlot base 0 2).ctx (nth (getIxSlot base 0 2).words 6) (nth (getIxSlot base 0 2).words 7 + (getIxSlot base 0 2).round * ixStep (getIxSlot base 0 2).words) = true ∧ rangeReady base (ctxPart base (getIxSlot base 0 2).ctx) (wAddr (getIxSlot base 0 2).words 18) (8 * ixRoutes (getIxSlot base 0 2).words) = true ∧ ixTableReady base (getIxSlot base 0 2) = true) ∧
    (getIxSlot g1_w1 0 2).armed = true ∧
    (getIxSlot g1_w1 0 2).phase = 0 ∧
    gated g1_w1 (pgIx 0) = false ∧
    trigReached g1_w1 (getIxSlot g1_w1 0 2).ctx (nth (getIxSlot g1_w1 0 2).words 6) (nth (getIxSlot g1_w1 0 2).words 7 + (getIxSlot g1_w1 0 2).round * ixStep (getIxSlot g1_w1 0 2).words) = true ∧
    rangeReady g1_w1 (ctxPart g1_w1 (getIxSlot g1_w1 0 2).ctx) (wAddr (getIxSlot g1_w1 0 2).words 18) (8 * ixRoutes (getIxSlot g1_w1 0 2).words) = true ∧
    ixTableReady g1_w1 (getIxSlot g1_w1 0 2) = true ∧
    readRangeAt g1_w1 0 (ctxPart g1_w1 (getIxSlot g1_w1 0 2).ctx) (wAddr (getIxSlot g1_w1 0 2).words 18) (8 * ixRoutes (getIxSlot g1_w1 0 2).words) = Except.ok g1_routesB ∧
    (getIx g1_w1 0).early = [] ∧
    (getIxSlot g1_w2 0 2).armed = true ∧
    (getIxSlot g1_w2 0 2).phase = 0 ∧
    gated g1_w2 (pgIx 0) = false ∧
    trigReached g1_w2 (getIxSlot g1_w2 0 2).ctx (nth (getIxSlot g1_w2 0 2).words 6) (nth (getIxSlot g1_w2 0 2).words 7 + (getIxSlot g1_w2 0 2).round * ixStep (getIxSlot g1_w2 0 2).words) = true ∧
    rangeReady g1_w2 (ctxPart g1_w2 (getIxSlot g1_w2 0 2).ctx) (wAddr (getIxSlot g1_w2 0 2).words 18) (8 * ixRoutes (getIxSlot g1_w2 0 2).words) = true ∧
    ixTableReady g1_w2 (getIxSlot g1_w2 0 2) = true ∧
    readRangeAt g1_w2 0 (ctxPart g1_w2 (getIxSlot g1_w2 0 2).ctx) (wAddr (getIxSlot g1_w2 0 2).words 18) (8 * ixRoutes (getIxSlot g1_w2 0 2).words) = Except.error g1_w0 ∧
    ¬((getIxSlot base 0 2).armed = true ∧ 3 ≤ (getIxSlot base 0 2).phase ∧ (getIxSlot base 0 2).phase ≠ 6 ∧ ixCombine (getIxSlot base 0 2).words = true ∧ (getIxSlot base 0 2).readySent = false ∧ (getIxSlot base 0 2).arriveDone = true ∧ gated base (pgIx 0) = false ∧ trigReached base (getIxSlot base 0 2).ctx (nth (getIxSlot base 0 2).words 11) (nth (getIxSlot base 0 2).words 12 + (getIxSlot base 0 2).round * ixStep (getIxSlot base 0 2).words) = true ∧ (ixCombReady base (getIxSlot base 0 2) fun (g : Nat) => decide (ixRanks (getIxSlot base 0 2).words * ixLocal (getIxSlot base 0 2).words ≤ g)) = true) ∧
    (getIxSlot ixRowFails 0 2).armed = true ∧
    3 ≤ (getIxSlot ixRowFails 0 2).phase ∧
    (getIxSlot ixRowFails 0 2).phase ≠ 6 ∧
    ixCombine (getIxSlot ixRowFails 0 2).words = true ∧
    (getIxSlot ixRowFails 0 2).readySent = false ∧
    (getIxSlot ixRowFails 0 2).arriveDone = true ∧
    gated ixRowFails (pgIx 0) = false ∧
    trigReached ixRowFails (getIxSlot ixRowFails 0 2).ctx (nth (getIxSlot ixRowFails 0 2).words 11) (nth (getIxSlot ixRowFails 0 2).words 12 + (getIxSlot ixRowFails 0 2).round * ixStep (getIxSlot ixRowFails 0 2).words) = true ∧
    (ixCombReady ixRowFails (getIxSlot ixRowFails 0 2) fun (g : Nat) => decide (ixRanks (getIxSlot ixRowFails 0 2).words * ixLocal (getIxSlot ixRowFails 0 2).words ≤ g)) = true ∧
    (combineRows ixRowFails 0 2).snd = some g1_w27 ∧
    (getIxSlot g1_w3 0 2).armed = true ∧
    3 ≤ (getIxSlot g1_w3 0 2).phase ∧
    (getIxSlot g1_w3 0 2).phase ≠ 6 ∧
    ixCombine (getIxSlot g1_w3 0 2).words = true ∧
    (getIxSlot g1_w3 0 2).readySent = false ∧
    (getIxSlot g1_w3 0 2).arriveDone = true ∧
    gated g1_w3 (pgIx 0) = false ∧
    trigReached g1_w3 (getIxSlot g1_w3 0 2).ctx (nth (getIxSlot g1_w3 0 2).words 11) (nth (getIxSlot g1_w3 0 2).words 12 + (getIxSlot g1_w3 0 2).round * ixStep (getIxSlot g1_w3 0 2).words) = true ∧
    (ixCombReady g1_w3 (getIxSlot g1_w3 0 2) fun (g : Nat) => decide (ixRanks (getIxSlot g1_w3 0 2).words * ixLocal (getIxSlot g1_w3 0 2).words ≤ g)) = true ∧
    (combineRows g1_w3 0 2).snd = none ∧
    (getIxSlot g1_sFd 0 2).armed = true ∧
    (getIxSlot g1_sFd 0 2).phase ≠ 0 ∧
    (getIxSlot g1_sFd 0 2).phase ≠ 6 ∧
    ((getIxSlot g1_sFd 0 2).counted = false ∧ (getIxSlot g1_sFd 0 2).startAt + ixLimit (getIxSlot g1_sFd 0 2).words * 1000 < g1_sFd.odometer ∨ (getIxSlot g1_sFd 0 2).readySent = true ∧ (getIxSlot g1_sFd 0 2).readyIn.length < ixRanks (getIxSlot g1_sFd 0 2).words ∧ (getIxSlot g1_sFd 0 2).combineAt + ixLimit (getIxSlot g1_sFd 0 2).words * 1000 < g1_sFd.odometer) ∧
    (¬((getIxSlot base 0 2).armed = true ∧ (getIxSlot base 0 2).phase ≠ 0 ∧ (getIxSlot base 0 2).phase ≠ 6 ∧ ((getIxSlot base 0 2).counted = false ∧ (getIxSlot base 0 2).startAt + ixLimit (getIxSlot base 0 2).words * 1000 < base.odometer ∨ (getIxSlot base 0 2).readySent = true ∧ (getIxSlot base 0 2).readyIn.length < ixRanks (getIxSlot base 0 2).words ∧ (getIxSlot base 0 2).combineAt + ixLimit (getIxSlot base 0 2).words * 1000 < base.odometer))) ∧
    (List.find? (fun (e : Nat × Nat × Nat) => e.snd.snd != 0 && passed base (e.snd.snd - 1) 1000) (getIxSlot base 0 2).retries = none ∨ (getIxSlot base 0 2).phase = 0 ∨ (getIxSlot base 0 2).phase = 6) ∧
    List.find? (fun (e : Nat × Nat × Nat) => e.snd.snd != 0 && passed g1_w5 (e.snd.snd - 1) 1000) (getIxSlot g1_w5 0 2).retries = some g1_e1 ∧
    (getIxSlot g1_w5 0 2).phase ≠ 0 ∧
    (getIxSlot g1_w5 0 2).phase ≠ 6 ∧
    g1_e1.snd.fst + 2000000 ≤ g1_w5.odometer ∧
    List.find? (fun (e : Nat × Nat × Nat) => e.snd.snd != 0 && passed g1_sR (e.snd.snd - 1) 1000) (getIxSlot g1_sR 0 2).retries = some g1_e0 ∧
    (getIxSlot g1_sR 0 2).phase ≠ 0 ∧
    (getIxSlot g1_sR 0 2).phase ≠ 6 ∧
    g1_sR.odometer < g1_e0.snd.fst + 2000000 ∧
    (getIxSlot ixSigWaits 0 2).sigs ≠ [] ∧
    (getIxSlot ixSigWaits 0 2).sigAt ≠ 0 ∧
    ((getIxSlot base 0 2).sigs = [] ∨ (getIxSlot base 0 2).sigAt = 0) ∧
    (1, Instr.ixCount 0) ∈ ixCommands 0 ∧
    IxComes ixFenced 0 1 0 (ixFenced.net[0]?.getD colPutMsg) g1_w8 ∧
    (ixFenced.net[0]?.getD colPutMsg).code ≠ 0 ∧
    IxComes ixDown 0 1 0 g1_w7 g1_w8 ∧
    g1_w7.code = 0 ∧
    ixShut ixDown 0 g1_w8.ctx = true ∧
    IxComes ixOtherJob 0 1 0 g1_w7 g1_w8 ∧
    ixShut ixOtherJob 0 g1_w8.ctx = false ∧
    ctxAccepts (dropMsg ixOtherJob 0) g1_w7 g1_w8.ctx = false ∧
    IxTaken ixNoSlot 0 1 0 (ixNoSlot.net[0]?.getD colPutMsg) (ixOf (ixNoSlot.net[0]?.getD colPutMsg).body) ∧
    ixFind (dropMsg ixNoSlot 0) 0 (ixOf (ixNoSlot.net[0]?.getD colPutMsg).body) = none ∧
    IxTaken ixNoRank 0 1 0 (ixNoRank.net[0]?.getD colPutMsg) (ixOf (ixNoRank.net[0]?.getD colPutMsg).body) ∧
    ixFind (dropMsg ixNoRank 0) 0 (ixOf (ixNoRank.net[0]?.getD colPutMsg).body) = some 2 ∧
    ((ixOf (ixNoRank.net[0]?.getD colPutMsg).body).round + 65536 - (getIxSlot ixNoRank 0 2).round) % 65536 = 0 ∧
    (getIxSlot ixNoRank 0 2).phase ≠ 0 ∧
    (getIxSlot ixNoRank 0 2).phase ≠ 6 ∧
    ¬(ixOf (ixNoRank.net[0]?.getD colPutMsg).body).srcRank < ixRanks (getIxSlot ixNoRank 0 2).words ∧
    IxTaken ixCountWaits 0 1 0 g1_w7 g1_w8 ∧
    ixFind (dropMsg ixCountWaits 0) 0 g1_w8 = some 2 ∧
    g1_w8.round = (getIxSlot ixCountWaits 0 2).round ∧
    (getIxSlot ixCountWaits 0 2).phase ≠ 0 ∧
    (getIxSlot ixCountWaits 0 2).phase ≠ 6 ∧
    g1_w8.srcRank < ixRanks (getIxSlot ixCountWaits 0 2).words ∧
    ixServes ixCountWaits 1 (getIxSlot ixCountWaits 0 2) g1_w8 = false ∧
    IxTaken ixFar 0 1 0 (ixFar.net[0]?.getD colPutMsg) (ixOf (ixFar.net[0]?.getD colPutMsg).body) ∧
    ixFind (dropMsg ixFar 0) 0 (ixOf (ixFar.net[0]?.getD colPutMsg).body) = some 2 ∧
    (((ixOf (ixFar.net[0]?.getD colPutMsg).body).round + 65536 - (getIxSlot ixFar 0 2).round) % 65536 ≠ 0 ∨ ¬((getIxSlot ixFar 0 2).phase ≠ 0 ∧ (getIxSlot ixFar 0 2).phase ≠ 6)) ∧
    (if (getIxSlot ixFar 0 2).phase = 0 then 0 else 1) < ((ixOf (ixFar.net[0]?.getD colPutMsg).body).round + 65536 - (getIxSlot ixFar 0 2).round) % 65536 ∧
    IxTaken ixAhead 0 1 0 (ixAhead.net[0]?.getD colPutMsg) (ixOf (ixAhead.net[0]?.getD colPutMsg).body) ∧
    ixFind (dropMsg ixAhead 0) 0 (ixOf (ixAhead.net[0]?.getD colPutMsg).body) = some 2 ∧
    (((ixOf (ixAhead.net[0]?.getD colPutMsg).body).round + 65536 - (getIxSlot ixAhead 0 2).round) % 65536 ≠ 0 ∨ ¬((getIxSlot ixAhead 0 2).phase ≠ 0 ∧ (getIxSlot ixAhead 0 2).phase ≠ 6)) ∧
    ¬(if (getIxSlot ixAhead 0 2).phase = 0 then 0 else 1) < ((ixOf (ixAhead.net[0]?.getD colPutMsg).body).round + 65536 - (getIxSlot ixAhead 0 2).round) % 65536 ∧
    1 = 1 ∧
    (7, Instr.ixAbort 0) ∈ ixCommands 0 ∧
    IxTaken ixAbortOver 0 7 0 g1_w24 ixEnd0 ∧
    ixFind (dropMsg ixAbortOver 0) 0 ixEnd0 = some 2 ∧
    ((ixEnd0.round + 65536 - (getIxSlot ixAbortOver 0 2).round) % 65536 ≠ 0 ∨ ¬((getIxSlot ixAbortOver 0 2).phase ≠ 0 ∧ (getIxSlot ixAbortOver 0 2).phase ≠ 6)) ∧
    ¬(if (getIxSlot ixAbortOver 0 2).phase = 0 then 0 else 1) < (ixEnd0.round + 65536 - (getIxSlot ixAbortOver 0 2).round) % 65536 ∧
    7 = 7 ∧
    (getIxSlot ixAbortOver 0 2).phase = 6 ∧
    IxTaken ixAbortAhead 0 7 0 (ixAbortAhead.net[0]?.getD colPutMsg) (ixOf (ixAbortAhead.net[0]?.getD colPutMsg).body) ∧
    ixFind (dropMsg ixAbortAhead 0) 0 (ixOf (ixAbortAhead.net[0]?.getD colPutMsg).body) = some 2 ∧
    (((ixOf (ixAbortAhead.net[0]?.getD colPutMsg).body).round + 65536 - (getIxSlot ixAbortAhead 0 2).round) % 65536 ≠ 0 ∨ ¬((getIxSlot ixAbortAhead 0 2).phase ≠ 0 ∧ (getIxSlot ixAbortAhead 0 2).phase ≠ 6)) ∧
    ¬(if (getIxSlot ixAbortAhead 0 2).phase = 0 then 0 else 1) < ((ixOf (ixAbortAhead.net[0]?.getD colPutMsg).body).round + 65536 - (getIxSlot ixAbortAhead 0 2).round) % 65536 ∧
    (getIxSlot ixAbortAhead 0 2).phase ≠ 6 ∧
    (ixOf (ixAbortAhead.net[0]?.getD colPutMsg).body).srcRank < ixRanks (getIxSlot ixAbortAhead 0 2).words ∧
    IxTaken ixAbortNoRank 0 7 0 (ixAbortNoRank.net[0]?.getD colPutMsg) (ixOf (ixAbortNoRank.net[0]?.getD colPutMsg).body) ∧
    ixFind (dropMsg ixAbortNoRank 0) 0 (ixOf (ixAbortNoRank.net[0]?.getD colPutMsg).body) = some 2 ∧
    (((ixOf (ixAbortNoRank.net[0]?.getD colPutMsg).body).round + 65536 - (getIxSlot ixAbortNoRank 0 2).round) % 65536 ≠ 0 ∨ ¬((getIxSlot ixAbortNoRank 0 2).phase ≠ 0 ∧ (getIxSlot ixAbortNoRank 0 2).phase ≠ 6)) ∧
    ¬(if (getIxSlot ixAbortNoRank 0 2).phase = 0 then 0 else 1) < ((ixOf (ixAbortNoRank.net[0]?.getD colPutMsg).body).round + 65536 - (getIxSlot ixAbortNoRank 0 2).round) % 65536 ∧
    (getIxSlot ixAbortNoRank 0 2).phase ≠ 6 ∧
    ¬(ixOf (ixAbortNoRank.net[0]?.getD colPutMsg).body).srcRank < ixRanks (getIxSlot ixAbortNoRank 0 2).words ∧
    (3, Instr.ixToken 0) ∈ ixCommands 0 ∧
    IxTaken ixTokenAhead 0 3 0 (ixTokenAhead.net[0]?.getD colPutMsg) (ixOf (ixTokenAhead.net[0]?.getD colPutMsg).body) ∧
    ixFind (dropMsg ixTokenAhead 0) 0 (ixOf (ixTokenAhead.net[0]?.getD colPutMsg).body) = some 2 ∧
    (((ixOf (ixTokenAhead.net[0]?.getD colPutMsg).body).round + 65536 - (getIxSlot ixTokenAhead 0 2).round) % 65536 ≠ 0 ∨ ¬((getIxSlot ixTokenAhead 0 2).phase ≠ 0 ∧ (getIxSlot ixTokenAhead 0 2).phase ≠ 6)) ∧
    ¬(if (getIxSlot ixTokenAhead 0 2).phase = 0 then 0 else 1) < ((ixOf (ixTokenAhead.net[0]?.getD colPutMsg).body).round + 65536 - (getIxSlot ixTokenAhead 0 2).round) % 65536 ∧
    3 ≠ 1 ∧
    3 ≠ 7 ∧
    IxArrives g1_w10 0 1 0 2 g1_w7 g1_w8 ∧
    IxArrives ixGrantBeyond 0 2 0 2 (ixGrantBeyond.net[0]?.getD colPutMsg) (ixOf (ixGrantBeyond.net[0]?.getD colPutMsg).body) ∧
    (min (ixLocal (getIxSlot ixGrantBeyond 0 2).words) (128 * (ixOf (ixGrantBeyond.net[0]?.getD colPutMsg).body).part + 128) ≤ 128 * (ixOf (ixGrantBeyond.net[0]?.getD colPutMsg).body).part ∨ (getFlow ixGrantBeyond 0 (sendFlow (getIxSlot ixGrantBeyond 0 2) ((ixOf (ixGrantBeyond.net[0]?.getD colPutMsg).body).srcRank * ixLocal (getIxSlot ixGrantBeyond 0 2).words + 128 * (ixOf (ixGrantBeyond.net[0]?.getD colPutMsg).body).part))).grantIn = true) ∧
    IxArrives g1_w13 0 2 0 2 g1_w11 g1_w12 ∧
    128 * g1_w12.part < min (ixLocal (getIxSlot g1_w13 0 2).words) (128 * g1_w12.part + 128) ∧
    (getFlow g1_w13 0 (sendFlow (getIxSlot g1_w13 0 2) (g1_w12.srcRank * ixLocal (getIxSlot g1_w13 0 2).words + 128 * g1_w12.part))).grantIn = false ∧
    IxArrives g1_w17 0 3 0 2 (g1_w17.net[0]?.getD colPutMsg) g1_tk ∧
    ((getIxSlot g1_w17 0 2).phase < 3 ∨ ¬(fieldOf g1_tk.arg 20 8 < ixLocal (getIxSlot g1_w17 0 2).words ∧ fieldOf g1_tk.arg 0 20 < ixCap (getIxSlot g1_w17 0 2).words ∧ g1_tk.part < ixParts (getIxSlot g1_w17 0 2).words)) ∧
    IxArrives g1_sTk 0 3 0 2 (g1_sTk.net[0]?.getD colPutMsg) g1_tk ∧
    3 ≤ (getIxSlot g1_sTk 0 2).phase ∧
    fieldOf g1_tk.arg 20 8 < ixLocal (getIxSlot g1_sTk 0 2).words ∧
    fieldOf g1_tk.arg 0 20 < ixCap (getIxSlot g1_sTk 0 2).words ∧
    g1_tk.part < ixParts (getIxSlot g1_sTk 0 2).words ∧
    (writeFrom (dropMsg g1_sTk 0) 0 (ctxPart (dropMsg g1_sTk 0) (getIxSlot g1_sTk 0 2).ctx) (wAddr (getIxSlot g1_sTk 0 2).words 22 + (fieldOf g1_tk.arg 20 8 * ixCap (getIxSlot g1_sTk 0 2).words + fieldOf g1_tk.arg 0 20) * ixRowBytes (getIxSlot g1_sTk 0 2).words + 512 * g1_tk.part) (List.take (partLen (getIxSlot g1_sTk 0 2).words g1_tk.part) g1_tk.payload)).snd = none ∧
    IxArrives g1_sTk2 0 3 0 2 (g1_sTk2.net[0]?.getD colPutMsg) g1_tk ∧
    3 ≤ (getIxSlot g1_sTk2 0 2).phase ∧
    fieldOf g1_tk.arg 20 8 < ixLocal (getIxSlot g1_sTk2 0 2).words ∧
    fieldOf g1_tk.arg 0 20 < ixCap (getIxSlot g1_sTk2 0 2).words ∧
    g1_tk.part < ixParts (getIxSlot g1_sTk2 0 2).words ∧
    (writeFrom (dropMsg g1_sTk2 0) 0 (ctxPart (dropMsg g1_sTk2 0) (getIxSlot g1_sTk2 0 2).ctx) (wAddr (getIxSlot g1_sTk2 0 2).words 22 + (fieldOf g1_tk.arg 20 8 * ixCap (getIxSlot g1_sTk2 0 2).words + fieldOf g1_tk.arg 0 20) * ixRowBytes (getIxSlot g1_sTk2 0 2).words + 512 * g1_tk.part) (List.take (partLen (getIxSlot g1_sTk2 0 2).words g1_tk.part) g1_tk.payload)).snd = some g1_w15 ∧
    IxArrives ixReadyPlain 0 4 0 2 g1_w18 (ixOf g1_w18.body) ∧
    ixCombine (getIxSlot ixReadyPlain 0 2).words = false ∧
    IxArrives g1_w19 0 4 0 2 g1_w18 (ixOf g1_w18.body) ∧
    ixCombine (getIxSlot g1_w19 0 2).words = true ∧
    (getIxSlot g1_w19 0 2).readyIn.contains (ixOf g1_w18.body).srcRank = true ∧
    IxArrives g1_w20 0 4 0 2 g1_w18 (ixOf g1_w18.body) ∧
    ixCombine (getIxSlot g1_w20 0 2).words = true ∧
    (getIxSlot g1_w20 0 2).readyIn.contains (ixOf g1_w18.body).srcRank = false ∧
    IxArrives ixFetchEarly 0 5 0 2 g1_w21 (ixOf g1_w21.body) ∧
    ((getIxSlot ixFetchEarly 0 2).readySent = false ∨ ¬(fieldOf (ixOf g1_w21.body).arg 20 8 < ixLocal (getIxSlot ixFetchEarly 0 2).words ∧ fieldOf (ixOf g1_w21.body).arg 0 20 < ixCap (getIxSlot ixFetchEarly 0 2).words ∧ (ixOf g1_w21.body).part < ixParts (getIxSlot ixFetchEarly 0 2).words)) ∧
    IxArrives g1_sFe 0 5 0 2 g1_w21 (ixOf g1_w21.body) ∧
    (getIxSlot g1_sFe 0 2).readySent = true ∧
    fieldOf (ixOf g1_w21.body).arg 20 8 < ixLocal (getIxSlot g1_sFe 0 2).words ∧
    fieldOf (ixOf g1_w21.body).arg 0 20 < ixCap (getIxSlot g1_sFe 0 2).words ∧
    (ixOf g1_w21.body).part < ixParts (getIxSlot g1_sFe 0 2).words ∧
    readRangeAt (dropMsg g1_sFe 0) 0 (ctxPart (dropMsg g1_sFe 0) (getIxSlot g1_sFe 0 2).ctx) (wAddr (getIxSlot g1_sFe 0 2).words 24 + (fieldOf (ixOf g1_w21.body).arg 20 8 * ixCap (getIxSlot g1_sFe 0 2).words + fieldOf (ixOf g1_w21.body).arg 0 20) * ixRowBytes (getIxSlot g1_sFe 0 2).words + 512 * (ixOf g1_w21.body).part) (partLen (getIxSlot g1_sFe 0 2).words (ixOf g1_w21.body).part) = Except.ok c1_w2 ∧
    IxArrives g1_w23 0 5 0 2 g1_w21 (ixOf g1_w21.body) ∧
    (getIxSlot g1_w23 0 2).readySent = true ∧
    fieldOf (ixOf g1_w21.body).arg 20 8 < ixLocal (getIxSlot g1_w23 0 2).words ∧
    fieldOf (ixOf g1_w21.body).arg 0 20 < ixCap (getIxSlot g1_w23 0 2).words ∧
    (ixOf g1_w21.body).part < ixParts (getIxSlot g1_w23 0 2).words ∧
    readRangeAt (dropMsg g1_w23 0) 0 (ctxPart (dropMsg g1_w23 0) (getIxSlot g1_w23 0 2).ctx) (wAddr (getIxSlot g1_w23 0 2).words 24 + (fieldOf (ixOf g1_w21.body).arg 20 8 * ixCap (getIxSlot g1_w23 0 2).words + fieldOf (ixOf g1_w21.body).arg 0 20) * ixRowBytes (getIxSlot g1_w23 0 2).words + 512 * (ixOf g1_w21.body).part) (partLen (getIxSlot g1_w23 0 2).words (ixOf g1_w21.body).part) = Except.error g1_w22 ∧
    IxArrives g1_w25 0 7 0 2 g1_w24 ixEnd0 := by
  have h0 :
      readRangeAt g1_w1 0 (ctxPart g1_w1 (getIxSlot g1_w1 0 2).ctx) (wAddr (getIxSlot g1_w1 0 2).words 18) (8 * ixRoutes (getIxSlot g1_w1 0 2).words) = Except.ok g1_routesB :=
    ok_of (by decide +kernel)
  and_intros <;> first
    | with_reducible assumption
    | decide +kernel
    | (unfold Front; decide +kernel)
    | (unfold signalsFree; decide +kernel)
    | (unfold staysUp; decide +kernel)
    | (unfold ixLive; decide +kernel)
    | (unfold colNow; decide +kernel)
    | (unfold WakesNone; decide +kernel)
    | ((repeat' first | decide +kernel | constructor); done)
    | exact ok_of (by decide +kernel)
    | exact error_of (by decide +kernel)
    | exact ok_at (by decide +kernel)
    | exact err_at (by decide +kernel)
    | exact pair_is (by decide +kernel)
    | exact pair_ok_at (by decide +kernel)
    | exact pair_ok_is (by decide +kernel)
    | exact pair_error_is (by decide +kernel)
    | exact writes_at (by decide +kernel)
    | exact wait_of (by decide +kernel)
    | exact align_of (by decide +kernel)
    | exact fault_of (by decide +kernel)
    | exact all_some (by decide +kernel)
    | (intro _ h; cases h; done)
    | (intro _ _ h; cases h; done)
theorem meets_ExchangeAnswers :
    IxBack ixFdLost 0 6 g1_w26 g1_fd ∧
    ixOpenDie ixFdLost g1_w26.req = none ∧
    IxBack ixAckLost 0 8 g1_w30 (ixOf g1_w30.body) ∧
    ixOpenDie ixAckLost g1_w30.req = none ∧
    IxBack ixFetchWaits 0 6 g1_w26 g1_fd ∧
    fetchWaits ixFetchWaits g1_w26 = true ∧
    IxAnswers ixFdOver 0 6 0 g1_w26 g1_fd ((List.find? (fun (q : IxReq) => q.req == g1_w26.req) (getIx ixFdOver 0).open_).getD ixReq0) ∧
    ¬ixLive ixFdOver 0 ((List.find? (fun (q : IxReq) => q.req == g1_w26.req) (getIx ixFdOver 0).open_).getD ixReq0) ∧
    IxAnswers g1_sFd 0 6 0 g1_w26 g1_fd ((List.find? (fun (q : IxReq) => q.req == g1_w26.req) (getIx g1_sFd 0).open_).getD ixReq0) ∧
    ixLive g1_sFd 0 ((List.find? (fun (q : IxReq) => q.req == g1_w26.req) (getIx g1_sFd 0).open_).getD ixReq0) ∧
    (writeFrom (ixAnswered g1_sFd 0 0 g1_w26) 0 (ctxPart (ixAnswered g1_sFd 0 0 g1_w26) (getIxSlot g1_sFd 0 ((List.find? (fun (q : IxReq) => q.req == g1_w26.req) (getIx g1_sFd 0).open_).getD ixReq0).slot).ctx) (wAddr (getIxSlot g1_sFd 0 ((List.find? (fun (q : IxReq) => q.req == g1_w26.req) (getIx g1_sFd 0).open_).getD ixReq0).slot).words 26 + ((List.find? (fun (q : IxReq) => q.req == g1_w26.req) (getIx g1_sFd 0).open_).getD ixReq0).route * ixRowBytes (getIxSlot g1_sFd 0 ((List.find? (fun (q : IxReq) => q.req == g1_w26.req) (getIx g1_sFd 0).open_).getD ixReq0).slot).words + 512 * ((List.find? (fun (q : IxReq) => q.req == g1_w26.req) (getIx g1_sFd 0).open_).getD ixReq0).part) (List.take (partLen (getIxSlot g1_sFd 0 ((List.find? (fun (q : IxReq) => q.req == g1_w26.req) (getIx g1_sFd 0).open_).getD ixReq0).slot).words ((List.find? (fun (q : IxReq) => q.req == g1_w26.req) (getIx g1_sFd 0).open_).getD ixReq0).part) g1_fd.payload)).snd = none ∧
    IxAnswers g1_sFdE 0 6 0 g1_w26 g1_fd ((List.find? (fun (q : IxReq) => q.req == g1_w26.req) (getIx g1_sFdE 0).open_).getD ixReq0) ∧
    ixLive g1_sFdE 0 ((List.find? (fun (q : IxReq) => q.req == g1_w26.req) (getIx g1_sFdE 0).open_).getD ixReq0) ∧
    (writeFrom (ixAnswered g1_sFdE 0 0 g1_w26) 0 (ctxPart (ixAnswered g1_sFdE 0 0 g1_w26) (getIxSlot g1_sFdE 0 ((List.find? (fun (q : IxReq) => q.req == g1_w26.req) (getIx g1_sFdE 0).open_).getD ixReq0).slot).ctx) (wAddr (getIxSlot g1_sFdE 0 ((List.find? (fun (q : IxReq) => q.req == g1_w26.req) (getIx g1_sFdE 0).open_).getD ixReq0).slot).words 26 + ((List.find? (fun (q : IxReq) => q.req == g1_w26.req) (getIx g1_sFdE 0).open_).getD ixReq0).route * ixRowBytes (getIxSlot g1_sFdE 0 ((List.find? (fun (q : IxReq) => q.req == g1_w26.req) (getIx g1_sFdE 0).open_).getD ixReq0).slot).words + 512 * ((List.find? (fun (q : IxReq) => q.req == g1_w26.req) (getIx g1_sFdE 0).open_).getD ixReq0).part) (List.take (partLen (getIxSlot g1_sFdE 0 ((List.find? (fun (q : IxReq) => q.req == g1_w26.req) (getIx g1_sFdE 0).open_).getD ixReq0).slot).words ((List.find? (fun (q : IxReq) => q.req == g1_w26.req) (getIx g1_sFdE 0).open_).getD ixReq0).part) g1_fd.payload)).snd = some g1_w27 ∧
    IxAnswers ixAckOver 0 8 0 g1_w30 (ixOf g1_w30.body) ixReq0 ∧
    ¬ixLive ixAckOver 0 ixReq0 ∧
    IxAnswers g1_w36 0 8 0 g1_w35 (ixOf g1_w35.body) ixReq0 ∧
    ixLive g1_w36 0 ixReq0 ∧
    g1_w35.code = Code.noSpace.num ∧
    ixReq0.typ = 1 ∧
    IxAnswers g1_w34 0 8 0 g1_w33 (ixOf g1_w33.body) ixReq0 ∧
    ixLive g1_w34 0 ixReq0 ∧
    g1_w33.code ≠ 0 ∧
    (g1_w33.code ≠ Code.noSpace.num ∨ ixReq0.typ ≠ 1) ∧
    IxAnswers g1_w32 0 8 0 g1_w30 (ixOf g1_w30.body) ixReq0 ∧
    ixLive g1_w32 0 ixReq0 ∧
    g1_w30.code = 0 ∧
    IxAnswers ixAckRow 0 8 0 g1_w30 (ixOf g1_w30.body) ((List.find? (fun (q : IxReq) => q.req == g1_w30.req) (getIx ixAckRow 0).open_).getD ixReq0) ∧
    ixLive ixAckRow 0 ((List.find? (fun (q : IxReq) => q.req == g1_w30.req) (getIx ixAckRow 0).open_).getD ixReq0) ∧
    ((List.find? (fun (q : IxReq) => q.req == g1_w30.req) (getIx ixAckRow 0).open_).getD ixReq0).typ = 3 ∧
    IxAnswers g1_w31 0 8 0 g1_w30 (ixOf g1_w30.body) ((List.find? (fun (q : IxReq) => q.req == g1_w30.req) (getIx g1_w31 0).open_).getD ixReq0) ∧
    ixLive g1_w31 0 ((List.find? (fun (q : IxReq) => q.req == g1_w30.req) (getIx g1_w31 0).open_).getD ixReq0) ∧
    ((List.find? (fun (q : IxReq) => q.req == g1_w30.req) (getIx g1_w31 0).open_).getD ixReq0).typ ≠ 1 ∧
    ((List.find? (fun (q : IxReq) => q.req == g1_w30.req) (getIx g1_w31 0).open_).getD ixReq0).typ ≠ 3 := by
  and_intros <;> first
    | decide +kernel
    | (unfold Front; decide +kernel)
    | (unfold signalsFree; decide +kernel)
    | (unfold staysUp; decide +kernel)
    | (unfold ixLive; decide +kernel)
    | (unfold colNow; decide +kernel)
    | (unfold WakesNone; decide +kernel)
    | ((repeat' first | decide +kernel | constructor); done)
    | exact ok_of (by decide +kernel)
    | exact error_of (by decide +kernel)
    | exact ok_at (by decide +kernel)
    | exact err_at (by decide +kernel)
    | exact pair_is (by decide +kernel)
    | exact pair_ok_at (by decide +kernel)
    | exact pair_ok_is (by decide +kernel)
    | exact pair_error_is (by decide +kernel)
    | exact writes_at (by decide +kernel)
    | exact wait_of (by decide +kernel)
    | exact align_of (by decide +kernel)
    | exact fault_of (by decide +kernel)
    | exact all_some (by decide +kernel)
    | (intro _ h; cases h; done)
    | (intro _ _ h; cases h; done)
theorem meets_CollectiveRounds :
    ¬((getColSlot base 0 2).armed = true ∧ (getColSlot base 0 2).phase = 0 ∧ gated base (pgCol 0) = false ∧ trigReached base (getColSlot base 0 2).ctx (nth (getColSlot base 0 2).words 5) (nth (getColSlot base 0 2).words 6 + (getColSlot base 0 2).round * colStep (getColSlot base 0 2).words) = true ∧ colBeginReady base (getColSlot base 0 2) = true) ∧
    (getColSlot h1_sPutE 0 2).armed = true ∧
    (getColSlot h1_sPutE 0 2).phase = 0 ∧
    gated h1_sPutE (pgCol 0) = false ∧
    trigReached h1_sPutE (getColSlot h1_sPutE 0 2).ctx (nth (getColSlot h1_sPutE 0 2).words 5) (nth (getColSlot h1_sPutE 0 2).words 6 + (getColSlot h1_sPutE 0 2).round * colStep (getColSlot h1_sPutE 0 2).words) = true ∧
    colBeginReady h1_sPutE (getColSlot h1_sPutE 0 2) = true ∧
    (colBegun h1_sPutE 0 2).snd = some h1_w3 ∧
    (getColSlot colGetFull 0 2).armed = true ∧
    (getColSlot colGetFull 0 2).phase = 0 ∧
    gated colGetFull (pgCol 0) = false ∧
    trigReached colGetFull (getColSlot colGetFull 0 2).ctx (nth (getColSlot colGetFull 0 2).words 5) (nth (getColSlot colGetFull 0 2).words 6 + (getColSlot colGetFull 0 2).round * colStep (getColSlot colGetFull 0 2).words) = true ∧
    colBeginReady colGetFull (getColSlot colGetFull 0 2) = true ∧
    (colBegun colGetFull 0 2).snd = none ∧
    (getColSlot colAbortFar 0 2).armed = true ∧
    colLive (getColSlot colAbortFar 0 2) = true ∧
    colLate colAbortFar 0 2 = true ∧
    ¬((getColSlot base 0 2).armed = true ∧ colLive (getColSlot base 0 2) = true ∧ colLate base 0 2 = true) ∧
    (List.find? (fun (e : Nat × Nat × Nat) => e.snd.snd != 0 && passed base (e.snd.snd - 1) 1000) (getColSlot base 0 2).retries = none ∨ colLive (getColSlot base 0 2) = false) ∧
    List.find? (fun (e : Nat × Nat × Nat) => e.snd.snd != 0 && passed h1_w7 (e.snd.snd - 1) 1000) (getColSlot h1_w7 0 2).retries = some g1_e1 ∧
    colLive (getColSlot h1_w7 0 2) = true ∧
    g1_e1.snd.fst + 2000000 ≤ h1_w7.odometer ∧
    List.find? (fun (e : Nat × Nat × Nat) => e.snd.snd != 0 && passed h1_sR (e.snd.snd - 1) 1000) (getColSlot h1_sR 0 2).retries = some g1_e0 ∧
    colLive (getColSlot h1_sR 0 2) = true ∧
    h1_sR.odometer < g1_e0.snd.fst + 2000000 ∧
    ((getColSlot (retryPutSigs base 0) 0 2).sigs = [] ∨ passed (retryPutSigs base 0) (getColSlot (retryPutSigs base 0) 0 2).sigAt 1000 = false) ∧
    (getColSlot (retryPutSigs h1_w9 0) 0 2).sigs ≠ [] ∧
    passed (retryPutSigs h1_w9 0) (getColSlot (retryPutSigs h1_w9 0) 0 2).sigAt 1000 = true ∧
    ((deliverSignal (retryPutSigs h1_w9 0) (getColSlot (retryPutSigs h1_w9 0) 0 2).ctx (wCore (nth (getColSlot (retryPutSigs h1_w9 0) 0 2).words 7)) (wMs (nth (getColSlot (retryPutSigs h1_w9 0) 0 2).words 7)) 1 (blockLast (retryPutSigs h1_w9 0) (0 * 16) 10) true).snd = SigOut.applied ∨ (deliverSignal (retryPutSigs h1_w9 0) (getColSlot (retryPutSigs h1_w9 0) 0 2).ctx (wCore (nth (getColSlot (retryPutSigs h1_w9 0) 0 2).words 7)) (wMs (nth (getColSlot (retryPutSigs h1_w9 0) 0 2).words 7)) 1 (blockLast (retryPutSigs h1_w9 0) (0 * 16) 10) true).snd = SigOut.held) ∧
    (getColSlot (retryPutSigs colSigFull 0) 0 2).sigs ≠ [] ∧
    passed (retryPutSigs colSigFull 0) (getColSlot (retryPutSigs colSigFull 0) 0 2).sigAt 1000 = true ∧
    (deliverSignal (retryPutSigs colSigFull 0) (getColSlot (retryPutSigs colSigFull 0) 0 2).ctx (wCore (nth (getColSlot (retryPutSigs colSigFull 0) 0 2).words 7)) (wMs (nth (getColSlot (retryPutSigs colSigFull 0) 0 2).words 7)) 1 (blockLast (retryPutSigs colSigFull 0) (0 * 16) 10) true).snd = SigOut.full ∧
    (getColSlot (retryPutSigs colSigBarrier 0) 0 2).sigs ≠ [] ∧
    passed (retryPutSigs colSigBarrier 0) (getColSlot (retryPutSigs colSigBarrier 0) 0 2).sigAt 1000 = true ∧
    (deliverSignal (retryPutSigs colSigBarrier 0) (getColSlot (retryPutSigs colSigBarrier 0) 0 2).ctx (wCore (nth (getColSlot (retryPutSigs colSigBarrier 0) 0 2).words 7)) (wMs (nth (getColSlot (retryPutSigs colSigBarrier 0) 0 2).words 7)) 1 (blockLast (retryPutSigs colSigBarrier 0) (0 * 16) 10) true).snd = SigOut.barrier ∧
    (getColSlot (retryPutSigs colSigGone 0) 0 2).sigs ≠ [] ∧
    passed (retryPutSigs colSigGone 0) (getColSlot (retryPutSigs colSigGone 0) 0 2).sigAt 1000 = true ∧
    (deliverSignal (retryPutSigs colSigGone 0) (getColSlot (retryPutSigs colSigGone 0) 0 2).ctx (wCore (nth (getColSlot (retryPutSigs colSigGone 0) 0 2).words 7)) (wMs (nth (getColSlot (retryPutSigs colSigGone 0) 0 2).words 7)) 1 (blockLast (retryPutSigs colSigGone 0) (0 * 16) 10) true).snd = SigOut.gone ∧
    (2, Instr.colCount 0) ∈ colCommands 0 ∧
    (2 = 10 → (getCol colFenced 0).store.length < 4096) ∧
    ColComes colFenced 0 2 0 (colFenced.net[0]?.getD colPutMsg) colCnt ∧
    (colFenced.net[0]?.getD colPutMsg).code ≠ 0 ∧
    (2 = 10 → (getCol colDown 0).store.length < 4096) ∧
    ColComes colDown 0 2 0 h1_w14 colCnt ∧
    h1_w14.code = 0 ∧
    colShut colDown 0 2 colCnt.ctx = true ∧
    (2 = 10 → (getCol colOtherJob 0).store.length < 4096) ∧
    ColComes colOtherJob 0 2 0 h1_w14 colCnt ∧
    colShut colOtherJob 0 2 colCnt.ctx = false ∧
    ctxAccepts (dropMsg colOtherJob 0) h1_w14 colCnt.ctx = false ∧
    (10, Instr.colGetReq 0) ∈ colCommands 0 ∧
    (10 = 10 → (getCol colGetWaits 0).store.length < 4096) ∧
    ColComes colGetWaits 0 10 0 (colGetWaits.net[0]?.getD colPutMsg) h1_gq ∧
    (colGetWaits.net[0]?.getD colPutMsg).code = 0 ∧
    colShut colGetWaits 0 10 h1_gq.ctx = false ∧
    ctxAccepts (dropMsg colGetWaits 0) (colGetWaits.net[0]?.getD colPutMsg) h1_gq.ctx = true ∧
    colServes colGetWaits 10 0 (colGetWaits.net[0]?.getD colPutMsg) h1_gq = false ∧
    (2 = 10 → (getCol colNoSlot 0).store.length < 4096) ∧
    ColTaken colNoSlot 0 2 0 (colNoSlot.net[0]?.getD colPutMsg) (colOf (colNoSlot.net[0]?.getD colPutMsg).body) ∧
    colFind (dropMsg colNoSlot 0) 0 (colOf (colNoSlot.net[0]?.getD colPutMsg).body) = none ∧
    2 ≠ 10 ∧
    (2 ≠ 4 ∧ 2 ≠ 9 ∨ (colNoSlot.net[0]?.getD colPutMsg).cw ≠ 3) ∧
    ColArrives h1_w13 0 1 0 2 h1_w12 (colOf h1_w12.body) ∧
    ((colOf h1_w12.body).srcRank ≠ ringNext (getColSlot h1_w13 0 2).words ∨ 1 < colAhead (getColSlot h1_w13 0 2) (colOf h1_w12.body)) ∧
    ColArrives colReadyNext 0 1 0 2 (colReadyNext.net[0]?.getD colPutMsg) (colOf (colReadyNext.net[0]?.getD colPutMsg).body) ∧
    (colOf (colReadyNext.net[0]?.getD colPutMsg).body).srcRank = ringNext (getColSlot colReadyNext 0 2).words ∧
    colAhead (getColSlot colReadyNext 0 2) (colOf (colReadyNext.net[0]?.getD colPutMsg).body) = 1 ∧
    ColArrives h1_w11 0 1 0 2 h1_w10 (colOf h1_w10.body) ∧
    (colOf h1_w10.body).srcRank = ringNext (getColSlot h1_w11 0 2).words ∧
    colAhead (getColSlot h1_w11 0 2) (colOf h1_w10.body) = 0 ∧
    ColArrives colCntFar 0 2 0 2 (colCntFar.net[0]?.getD colPutMsg) (colOf (colCntFar.net[0]?.getD colPutMsg).body) ∧
    (1 < colAhead (getColSlot colCntFar 0 2) (colOf (colCntFar.net[0]?.getD colPutMsg).body) ∨ colRanks (getColSlot colCntFar 0 2).words ≤ (colOf (colCntFar.net[0]?.getD colPutMsg).body).srcRank) ∧
    ColArrives h1_w15 0 2 0 2 h1_w14 colCnt ∧
    colNow (getColSlot h1_w15 0 2) colCnt ∧
    ColArrives colCntNext 0 2 0 2 (colCntNext.net[0]?.getD colPutMsg) (colOf (colCntNext.net[0]?.getD colPutMsg).body) ∧
    colAhead (getColSlot colCntNext 0 2) (colOf (colCntNext.net[0]?.getD colPutMsg).body) ≤ 1 ∧
    (colOf (colCntNext.net[0]?.getD colPutMsg).body).srcRank < colRanks (getColSlot colCntNext 0 2).words ∧
    ¬colNow (getColSlot colCntNext 0 2) (colOf (colCntNext.net[0]?.getD colPutMsg).body) ∧
    ColArrives colGoNext 0 3 0 2 (colGoNext.net[0]?.getD colPutMsg) (colOf (colGoNext.net[0]?.getD colPutMsg).body) ∧
    ¬colNow (getColSlot colGoNext 0 2) (colOf (colGoNext.net[0]?.getD colPutMsg).body) ∧
    ColArrives h1_w18 0 3 0 2 h1_w16 (colOf h1_w16.body) ∧
    colNow (getColSlot h1_w18 0 2) (colOf h1_w16.body) ∧
    ((getColSlot h1_w18 0 2).goes.contains (colOf h1_w16.body).srcRank = true ∨ colKind (getColSlot h1_w18 0 2).words ≠ 4) ∧
    ColArrives h1_w17 0 3 0 2 h1_w16 (colOf h1_w16.body) ∧
    colNow (getColSlot h1_w17 0 2) (colOf h1_w16.body) ∧
    (getColSlot h1_w17 0 2).goes.contains (colOf h1_w16.body).srcRank = false ∧
    colKind (getColSlot h1_w17 0 2).words = 4 ∧
    ColArrives colArrFar 0 7 0 2 (colArrFar.net[0]?.getD colPutMsg) (colOf (colArrFar.net[0]?.getD colPutMsg).body) ∧
    (1 < colAhead (getColSlot colArrFar 0 2) (colOf (colArrFar.net[0]?.getD colPutMsg).body) ∨ colRanks (getColSlot colArrFar 0 2).words ≤ (colOf (colArrFar.net[0]?.getD colPutMsg).body).srcRank ∨ colMyRank (getColSlot colArrFar 0 2).words ≠ colRoot (getColSlot colArrFar 0 2).words ∨ colKind (getColSlot colArrFar 0 2).words ≠ 6) ∧
    ColArrives h1_w20 0 7 0 2 h1_w19 (colOf h1_w19.body) ∧
    (¬(1 < colAhead (getColSlot h1_w20 0 2) (colOf h1_w19.body) ∨ colRanks (getColSlot h1_w20 0 2).words ≤ (colOf h1_w19.body).srcRank ∨ colMyRank (getColSlot h1_w20 0 2).words ≠ colRoot (getColSlot h1_w20 0 2).words ∨ colKind (getColSlot h1_w20 0 2).words ≠ 6)) ∧
    colAhead (getColSlot h1_w20 0 2) (colOf h1_w19.body) = 0 ∧
    ColArrives colArrNext 0 7 0 2 (colArrNext.net[0]?.getD colPutMsg) (colOf (colArrNext.net[0]?.getD colPutMsg).body) ∧
    (¬(1 < colAhead (getColSlot colArrNext 0 2) (colOf (colArrNext.net[0]?.getD colPutMsg).body) ∨ colRanks (getColSlot colArrNext 0 2).words ≤ (colOf (colArrNext.net[0]?.getD colPutMsg).body).srcRank ∨ colMyRank (getColSlot colArrNext 0 2).words ≠ colRoot (getColSlot colArrNext 0 2).words ∨ colKind (getColSlot colArrNext 0 2).words ≠ 6)) ∧
    colAhead (getColSlot colArrNext 0 2) (colOf (colArrNext.net[0]?.getD colPutMsg).body) = 1 ∧
    (getColSlot colArrNext 0 2).released = true ∧
    ColArrives colArrEarly 0 7 0 2 (colArrEarly.net[0]?.getD colPutMsg) (colOf (colArrEarly.net[0]?.getD colPutMsg).body) ∧
    (¬(1 < colAhead (getColSlot colArrEarly 0 2) (colOf (colArrEarly.net[0]?.getD colPutMsg).body) ∨ colRanks (getColSlot colArrEarly 0 2).words ≤ (colOf (colArrEarly.net[0]?.getD colPutMsg).body).srcRank ∨ colMyRank (getColSlot colArrEarly 0 2).words ≠ colRoot (getColSlot colArrEarly 0 2).words ∨ colKind (getColSlot colArrEarly 0 2).words ≠ 6)) ∧
    colAhead (getColSlot colArrEarly 0 2) (colOf (colArrEarly.net[0]?.getD colPutMsg).body) = 1 ∧
    (getColSlot colArrEarly 0 2).released = false ∧
    ColArrives colRelNext 0 8 0 2 (colRelNext.net[0]?.getD colPutMsg) (colOf (colRelNext.net[0]?.getD colPutMsg).body) ∧
    (¬colNow (getColSlot colRelNext 0 2) (colOf (colRelNext.net[0]?.getD colPutMsg).body) ∨ ¬((colOf (colRelNext.net[0]?.getD colPutMsg).body).srcRank = colRoot (getColSlot colRelNext 0 2).words ∧ colKind (getColSlot colRelNext 0 2).words = 6)) ∧
    ColArrives h1_w22 0 8 0 2 h1_w21 (colOf h1_w21.body) ∧
    colNow (getColSlot h1_w22 0 2) (colOf h1_w21.body) ∧
    (colOf h1_w21.body).srcRank = colRoot (getColSlot h1_w22 0 2).words ∧
    colKind (getColSlot h1_w22 0 2).words = 6 ∧
    ColArrives colAbortFar 0 9 0 2 (colAbortFar.net[0]?.getD colPutMsg) (colOf (colAbortFar.net[0]?.getD colPutMsg).body) ∧
    (colAbortFar.net[0]?.getD colPutMsg).cw ≠ 3 ∧
    ((if (getColSlot colAbortFar 0 2).phase = 0 then 0 else 1) < colAhead (getColSlot colAbortFar 0 2) (colOf (colAbortFar.net[0]?.getD colPutMsg).body) ∨ colRanks (getColSlot colAbortFar 0 2).words ≤ (colOf (colAbortFar.net[0]?.getD colPutMsg).body).srcRank) ∧
    ColArrives colAbortOver 0 9 0 2 h1_w23 colEnd0 ∧
    h1_w23.cw ≠ 3 ∧
    (¬((if (getColSlot colAbortOver 0 2).phase = 0 then 0 else 1) < colAhead (getColSlot colAbortOver 0 2) colEnd0 ∨ colRanks (getColSlot colAbortOver 0 2).words ≤ colEnd0.srcRank)) ∧
    (getColSlot colAbortOver 0 2).phase = 4 ∧
    ColArrives h1_w24 0 9 0 2 h1_w23 colEnd0 ∧
    (¬((if (getColSlot h1_w24 0 2).phase = 0 then 0 else 1) < colAhead (getColSlot h1_w24 0 2) colEnd0 ∨ colRanks (getColSlot h1_w24 0 2).words ≤ colEnd0.srcRank)) ∧
    (getColSlot h1_w24 0 2).phase ≠ 4 ∧
    ColTaken colPutForgets 0 9 0 (colPutForgets.net[0]?.getD colPutMsg) colEnd0 ∧
    (colPutForgets.net[0]?.getD colPutMsg).cw = 3 ∧
    ColArrives colPartNext 0 4 0 2 (colPartNext.net[0]?.getD colPutMsg) (colOf (colPartNext.net[0]?.getD colPutMsg).body) ∧
    (colPartNext.net[0]?.getD colPutMsg).cw ≠ 3 ∧
    ¬colNow (getColSlot colPartNext 0 2) (colOf (colPartNext.net[0]?.getD colPutMsg).body) ∧
    ColArrives h1_w25 0 4 0 2 (h1_w25.net[0]?.getD colPutMsg) h1_pt ∧
    (h1_w25.net[0]?.getD colPutMsg).cw ≠ 3 ∧
    colNow (getColSlot h1_w25 0 2) h1_pt ∧
    crc32c h1_pt.payload = h1_pt.crc ∧
    ColArrives h1_w26 0 4 0 2 (h1_w26.net[0]?.getD colPutMsg) h1_ptb ∧
    (h1_w26.net[0]?.getD colPutMsg).cw ≠ 3 ∧
    colNow (getColSlot h1_w26 0 2) h1_ptb ∧
    crc32c h1_ptb.payload ≠ h1_ptb.crc ∧
    ColTaken colPutComes 0 4 0 colPutMsg h1_pt ∧
    colPutMsg.cw = 3 ∧
    ColTaken colPutBad 0 4 0 (colPutBad.net[0]?.getD colPutMsg) h1_ptb ∧
    (colPutBad.net[0]?.getD colPutMsg).cw = 3 := by
  and_intros <;> first
    | decide +kernel
    | (unfold Front; decide +kernel)
    | (unfold signalsFree; decide +kernel)
    | (unfold staysUp; decide +kernel)
    | (unfold ixLive; decide +kernel)
    | (unfold colNow; decide +kernel)
    | (unfold WakesNone; decide +kernel)
    | ((repeat' first | decide +kernel | constructor); done)
    | exact ok_of (by decide +kernel)
    | exact error_of (by decide +kernel)
    | exact ok_at (by decide +kernel)
    | exact err_at (by decide +kernel)
    | exact pair_is (by decide +kernel)
    | exact pair_ok_at (by decide +kernel)
    | exact pair_ok_is (by decide +kernel)
    | exact pair_error_is (by decide +kernel)
    | exact writes_at (by decide +kernel)
    | exact wait_of (by decide +kernel)
    | exact align_of (by decide +kernel)
    | exact fault_of (by decide +kernel)
    | exact all_some (by decide +kernel)
    | (intro _ h; cases h; done)
    | (intro _ _ h; cases h; done)
theorem meets_CollectiveAnswers :
    ColBack colLostAck 0 5 (colLostAck.net[0]?.getD colPutMsg) h1_ak ∧
    colOpenDie (dropMsg colLostAck 0) (colLostAck.net[0]?.getD colPutMsg) h1_ak = none ∧
    ColBack colLostNak 0 6 (colLostNak.net[0]?.getD colPutMsg) h1_nk ∧
    colOpenDie (dropMsg colLostNak 0) (colLostNak.net[0]?.getD colPutMsg) h1_nk = none ∧
    ColBack colLostData 0 11 (colLostData.net[0]?.getD colPutMsg) h1_gd ∧
    colOpenDie (dropMsg colLostData 0) (colLostData.net[0]?.getD colPutMsg) h1_gd = none ∧
    ColBack colDataWaits 0 11 (colDataWaits.net[0]?.getD colPutMsg) h1_gd ∧
    colOpenDie (dropMsg colDataWaits 0) (colDataWaits.net[0]?.getD colPutMsg) h1_gd = some 0 ∧
    getReady colDataWaits 0 (colDataWaits.net[0]?.getD colPutMsg) h1_gd = false ∧
    ColAnswers colServedAck 0 5 0 (colServedAck.net[0]?.getD colPutMsg) (colOf (colServedAck.net[0]?.getD colPutMsg).body) ∧
    (colOf (colServedAck.net[0]?.getD colPutMsg).body).ext = [1] ∧
    ColAnswers colAckOver 0 5 0 (colAckOver.net[0]?.getD colPutMsg) h1_ak ∧
    h1_ak.ext ≠ [1] ∧
    (List.find? (fun (q : Resend) => q.req == (colAckOver.net[0]?.getD colPutMsg).req && q.slot != 16) (getCol (colTakenBack colAckOver 0 0 (colAckOver.net[0]?.getD colPutMsg)) 0).store = some resend0 ∧ 2 = resend0.slot ∧ 4 = 4 ∨ List.find? (fun (q : Resend) => q.req == (colAckOver.net[0]?.getD colPutMsg).req && q.slot != 16) (getCol (colTakenBack colAckOver 0 0 (colAckOver.net[0]?.getD colPutMsg)) 0).store = none ∧ List.find? (fun (q : ColReq) => q.req == (colAckOver.net[0]?.getD colPutMsg).req) (getCol (colTakenBack colAckOver 0 0 (colAckOver.net[0]?.getD colPutMsg)) 0).open_ = some asks2 ∧ 2 = asks2.slot ∧ 4 = asks2.typ ∧ 1 = asks2.rank) ∧
    (4 = 9 ∨ ¬((getColSlot colAckOver 0 2).phase ≠ 0 ∧ (getColSlot colAckOver 0 2).phase ≠ 4)) ∧
    ColAnswers colAsksFull 0 5 0 (colAsksFull.net[0]?.getD colPutMsg) h1_ak ∧
    (List.find? (fun (q : Resend) => q.req == (colAsksFull.net[0]?.getD colPutMsg).req && q.slot != 16) (getCol (colTakenBack colAsksFull 0 0 (colAsksFull.net[0]?.getD colPutMsg)) 0).store = some resend0 ∧ 2 = resend0.slot ∧ 2 = 4 ∨ List.find? (fun (q : Resend) => q.req == (colAsksFull.net[0]?.getD colPutMsg).req && q.slot != 16) (getCol (colTakenBack colAsksFull 0 0 (colAsksFull.net[0]?.getD colPutMsg)) 0).store = none ∧ List.find? (fun (q : ColReq) => q.req == (colAsksFull.net[0]?.getD colPutMsg).req) (getCol (colTakenBack colAsksFull 0 0 (colAsksFull.net[0]?.getD colPutMsg)) 0).open_ = some asks2 ∧ 2 = asks2.slot ∧ 2 = asks2.typ ∧ 1 = asks2.rank) ∧
    2 ≠ 9 ∧
    (getColSlot colAsksFull 0 2).phase ≠ 0 ∧
    (getColSlot colAsksFull 0 2).phase ≠ 4 ∧
    (colAsksFull.net[0]?.getD colPutMsg).code = Code.noSpace.num ∧
    (2 = 2 ∨ 2 = 7) ∧
    ColAnswers h1_w28 0 5 0 (h1_w28.net[0]?.getD colPutMsg) h1_ak ∧
    (List.find? (fun (q : Resend) => q.req == (h1_w28.net[0]?.getD colPutMsg).req && q.slot != 16) (getCol (colTakenBack h1_w28 0 0 (h1_w28.net[0]?.getD colPutMsg)) 0).store = some resend0 ∧ 2 = resend0.slot ∧ 4 = 4 ∨ List.find? (fun (q : Resend) => q.req == (h1_w28.net[0]?.getD colPutMsg).req && q.slot != 16) (getCol (colTakenBack h1_w28 0 0 (h1_w28.net[0]?.getD colPutMsg)) 0).store = none ∧ List.find? (fun (q : ColReq) => q.req == (h1_w28.net[0]?.getD colPutMsg).req) (getCol (colTakenBack h1_w28 0 0 (h1_w28.net[0]?.getD colPutMsg)) 0).open_ = some asks2 ∧ 2 = asks2.slot ∧ 4 = asks2.typ ∧ 1 = asks2.rank) ∧
    4 ≠ 9 ∧
    (getColSlot h1_w28 0 2).phase ≠ 0 ∧
    (getColSlot h1_w28 0 2).phase ≠ 4 ∧
    (h1_w28.net[0]?.getD colPutMsg).code ≠ 0 ∧
    ((h1_w28.net[0]?.getD colPutMsg).code ≠ Code.noSpace.num ∨ ¬(4 = 2 ∨ 4 = 7)) ∧
    ColAnswers h1_w27 0 5 0 (h1_w27.net[0]?.getD colPutMsg) h1_ak ∧
    (List.find? (fun (q : Resend) => q.req == (h1_w27.net[0]?.getD colPutMsg).req && q.slot != 16) (getCol (colTakenBack h1_w27 0 0 (h1_w27.net[0]?.getD colPutMsg)) 0).store = some resend0 ∧ 2 = resend0.slot ∧ 4 = 4 ∨ List.find? (fun (q : Resend) => q.req == (h1_w27.net[0]?.getD colPutMsg).req && q.slot != 16) (getCol (colTakenBack h1_w27 0 0 (h1_w27.net[0]?.getD colPutMsg)) 0).store = none ∧ List.find? (fun (q : ColReq) => q.req == (h1_w27.net[0]?.getD colPutMsg).req) (getCol (colTakenBack h1_w27 0 0 (h1_w27.net[0]?.getD colPutMsg)) 0).open_ = some asks2 ∧ 2 = asks2.slot ∧ 4 = asks2.typ ∧ 1 = asks2.rank) ∧
    (getColSlot h1_w27 0 2).phase ≠ 0 ∧
    (getColSlot h1_w27 0 2).phase ≠ 4 ∧
    (h1_w27.net[0]?.getD colPutMsg).code = 0 ∧
    (¬(4 = 2 ∨ 4 = 7)) ∧
    ColAnswers colAsks0 0 5 0 (colAsks0.net[0]?.getD colPutMsg) h1_ak ∧
    (List.find? (fun (q : Resend) => q.req == (colAsks0.net[0]?.getD colPutMsg).req && q.slot != 16) (getCol (colTakenBack colAsks0 0 0 (colAsks0.net[0]?.getD colPutMsg)) 0).store = some resend0 ∧ 2 = resend0.slot ∧ 2 = 4 ∨ List.find? (fun (q : Resend) => q.req == (colAsks0.net[0]?.getD colPutMsg).req && q.slot != 16) (getCol (colTakenBack colAsks0 0 0 (colAsks0.net[0]?.getD colPutMsg)) 0).store = none ∧ List.find? (fun (q : ColReq) => q.req == (colAsks0.net[0]?.getD colPutMsg).req) (getCol (colTakenBack colAsks0 0 0 (colAsks0.net[0]?.getD colPutMsg)) 0).open_ = some asks2 ∧ 2 = asks2.slot ∧ 2 = asks2.typ ∧ 1 = asks2.rank) ∧
    (getColSlot colAsks0 0 2).phase ≠ 0 ∧
    (getColSlot colAsks0 0 2).phase ≠ 4 ∧
    (colAsks0.net[0]?.getD colPutMsg).code = 0 ∧
    ColAnswers colServedNak3 0 6 0 (colServedNak3.net[0]?.getD colPutMsg) (colOf (colServedNak3.net[0]?.getD colPutMsg).body) ∧
    (colOf (colServedNak3.net[0]?.getD colPutMsg).body).ext = [1] ∧
    List.find? (servesGet (colServedNak3.net[0]?.getD colPutMsg) (colOf (colServedNak3.net[0]?.getD colPutMsg).body)) (getCol (colTakenBack colServedNak3 0 0 (colServedNak3.net[0]?.getD colPutMsg)) 0).store = some served3 ∧
    3 ≤ served3.fails ∧
    ColAnswers colServedNak0 0 6 0 (colServedNak0.net[0]?.getD colPutMsg) (colOf (colServedNak0.net[0]?.getD colPutMsg).body) ∧
    (colOf (colServedNak0.net[0]?.getD colPutMsg).body).ext = [1] ∧
    List.find? (servesGet (colServedNak0.net[0]?.getD colPutMsg) (colOf (colServedNak0.net[0]?.getD colPutMsg).body)) (getCol (colTakenBack colServedNak0 0 0 (colServedNak0.net[0]?.getD colPutMsg)) 0).store = some served0 ∧
    served0.fails < 3 ∧
    ColAnswers colNakOver 0 6 0 (colNakOver.net[0]?.getD colPutMsg) h1_nk ∧
    h1_nk.ext ≠ [1] ∧
    List.find? (fun (q : Resend) => q.req == (colNakOver.net[0]?.getD colPutMsg).req && q.slot != 16) (getCol (colTakenBack colNakOver 0 0 (colNakOver.net[0]?.getD colPutMsg)) 0).store = some resend0 ∧
    2 = resend0.slot ∧
    ¬((getColSlot colNakOver 0 2).phase ≠ 0 ∧ (getColSlot colNakOver 0 2).phase ≠ 4) ∧
    ColAnswers h1_w30 0 6 0 (h1_w30.net[0]?.getD colPutMsg) h1_nk ∧
    List.find? (fun (q : Resend) => q.req == (h1_w30.net[0]?.getD colPutMsg).req && q.slot != 16) (getCol (colTakenBack h1_w30 0 0 (h1_w30.net[0]?.getD colPutMsg)) 0).store = some resend3 ∧
    2 = resend3.slot ∧
    (getColSlot h1_w30 0 2).phase ≠ 0 ∧
    (getColSlot h1_w30 0 2).phase ≠ 4 ∧
    3 ≤ resend3.fails ∧
    ColAnswers h1_w29 0 6 0 (h1_w29.net[0]?.getD colPutMsg) h1_nk ∧
    List.find? (fun (q : Resend) => q.req == (h1_w29.net[0]?.getD colPutMsg).req && q.slot != 16) (getCol (colTakenBack h1_w29 0 0 (h1_w29.net[0]?.getD colPutMsg)) 0).store = some resend0 ∧
    (getColSlot h1_w29 0 2).phase ≠ 0 ∧
    (getColSlot h1_w29 0 2).phase ≠ 4 ∧
    resend0.fails < 3 ∧
    ColComes colGetFull 0 10 0 (colGetFull.net[0]?.getD colPutMsg) h1_gq ∧
    4096 ≤ (getCol colGetFull 0).store.length ∧
    ColTaken colGetUnmapped 0 10 0 (colGetUnmapped.net[0]?.getD colPutMsg) h1_gq ∧
    (getCol colGetUnmapped 0).store.length < 4096 ∧
    readRangeAt (dropMsg colGetUnmapped 0) 0 (ctxPart (dropMsg colGetUnmapped 0) h1_gq.ctx) (nth h1_gq.ext 0) (min 512 (nth h1_gq.ext 1)) = Except.error h1_w3 ∧
    ColTaken h1_w31 0 10 0 (h1_w31.net[0]?.getD colPutMsg) h1_gq ∧
    (getCol h1_w31 0).store.length < 4096 ∧
    readRangeAt (dropMsg h1_w31 0) 0 (ctxPart (dropMsg h1_w31 0) h1_gq.ctx) (nth h1_gq.ext 0) (min 512 (nth h1_gq.ext 1)) = Except.ok c1_w2 ∧
    ColAnswers colDataLate 0 11 0 (colDataLate.net[0]?.getD colPutMsg) h1_gd ∧
    List.find? (fun (q : ColReq) => q.req == (colDataLate.net[0]?.getD colPutMsg).req) (getCol (colTakenBack colDataLate 0 0 (colDataLate.net[0]?.getD colPutMsg)) 0).open_ = none ∧
    ColAnswers colDataOver 0 11 0 (colDataOver.net[0]?.getD colPutMsg) h1_gd ∧
    List.find? (fun (q : ColReq) => q.req == (colDataOver.net[0]?.getD colPutMsg).req) (getCol (colTakenBack colDataOver 0 0 (colDataOver.net[0]?.getD colPutMsg)) 0).open_ = some h1_aN ∧
    2 = h1_aN.slot ∧
    ¬((getColSlot colDataOver 0 2).phase ≠ 0 ∧ (getColSlot colDataOver 0 2).phase ≠ 4) ∧
    crc32c h1_gd.payload = h1_gd.crc ∧
    ColAnswers colDataOverBad 0 11 0 (colDataOverBad.net[0]?.getD colPutMsg) h1_gdb ∧
    List.find? (fun (q : ColReq) => q.req == (colDataOverBad.net[0]?.getD colPutMsg).req) (getCol (colTakenBack colDataOverBad 0 0 (colDataOverBad.net[0]?.getD colPutMsg)) 0).open_ = some h1_aN ∧
    ¬((getColSlot colDataOverBad 0 2).phase ≠ 0 ∧ (getColSlot colDataOverBad 0 2).phase ≠ 4) ∧
    crc32c h1_gdb.payload ≠ h1_gdb.crc ∧
    ColAnswers h1_w32 0 11 0 (h1_w32.net[0]?.getD colPutMsg) h1_gdb ∧
    List.find? (fun (q : ColReq) => q.req == (h1_w32.net[0]?.getD colPutMsg).req) (getCol (colTakenBack h1_w32 0 0 (h1_w32.net[0]?.getD colPutMsg)) 0).open_ = some h1_aN ∧
    (getColSlot h1_w32 0 2).phase ≠ 0 ∧
    (getColSlot h1_w32 0 2).phase ≠ 4 ∧
    look (getColSlot h1_w32 0 2).fails h1_gdb.offset 0 + 1 < 4 ∧
    ColAnswers colDataFourth 0 11 0 (colDataFourth.net[0]?.getD colPutMsg) h1_gdb ∧
    List.find? (fun (q : ColReq) => q.req == (colDataFourth.net[0]?.getD colPutMsg).req) (getCol (colTakenBack colDataFourth 0 0 (colDataFourth.net[0]?.getD colPutMsg)) 0).open_ = some h1_aN ∧
    (getColSlot colDataFourth 0 2).phase ≠ 0 ∧
    (getColSlot colDataFourth 0 2).phase ≠ 4 ∧
    4 ≤ look (getColSlot colDataFourth 0 2).fails h1_gdb.offset 0 + 1 ∧
    ColAnswers colDataUnmapped 0 11 0 (colDataUnmapped.net[0]?.getD colPutMsg) h1_gd ∧
    List.find? (fun (q : ColReq) => q.req == (colDataUnmapped.net[0]?.getD colPutMsg).req) (getCol (colTakenBack colDataUnmapped 0 0 (colDataUnmapped.net[0]?.getD colPutMsg)) 0).open_ = some h1_aN ∧
    (getColSlot colDataUnmapped 0 2).phase ≠ 0 ∧
    (getColSlot colDataUnmapped 0 2).phase ≠ 4 ∧
    (colWriteOwn (settleOut (setCol (bump64 (colTakenBack colDataUnmapped 0 0 (colDataUnmapped.net[0]?.getD colPutMsg)) (pgCol 0) 92 1) 0 (have __src := getCol (bump64 (colTakenBack colDataUnmapped 0 0 (colDataUnmapped.net[0]?.getD colPutMsg)) (pgCol 0) 92 1) 0; { wins := __src.wins, slots := __src.slots, early := __src.early, store := __src.store, reduce := __src.reduce, outbox := __src.outbox, open_ := List.filter (fun (q : ColReq) => q.req != (colDataUnmapped.net[0]?.getD colPutMsg).req) (getCol (bump64 (colTakenBack colDataUnmapped 0 0 (colDataUnmapped.net[0]?.getD colPutMsg)) (pgCol 0) 92 1) 0).open_, puts := __src.puts, putSigs := __src.putSigs })) (colDataUnmapped.net[0]?.getD colPutMsg).req).fst 0 2 (64 * h1_gd.offset) h1_gd.payload).snd = some g1_w15 ∧
    ColAnswers h1_sGd 0 11 0 (h1_sGd.net[0]?.getD colPutMsg) h1_gd ∧
    List.find? (fun (q : ColReq) => q.req == (h1_sGd.net[0]?.getD colPutMsg).req) (getCol (colTakenBack h1_sGd 0 0 (h1_sGd.net[0]?.getD colPutMsg)) 0).open_ = some h1_aN ∧
    (getColSlot h1_sGd 0 2).phase ≠ 0 ∧
    (getColSlot h1_sGd 0 2).phase ≠ 4 ∧
    (colWriteOwn (settleOut (setCol (bump64 (colTakenBack h1_sGd 0 0 (h1_sGd.net[0]?.getD colPutMsg)) (pgCol 0) 92 1) 0 (have __src := getCol (bump64 (colTakenBack h1_sGd 0 0 (h1_sGd.net[0]?.getD colPutMsg)) (pgCol 0) 92 1) 0; { wins := __src.wins, slots := __src.slots, early := __src.early, store := __src.store, reduce := __src.reduce, outbox := __src.outbox, open_ := List.filter (fun (q : ColReq) => q.req != (h1_sGd.net[0]?.getD colPutMsg).req) (getCol (bump64 (colTakenBack h1_sGd 0 0 (h1_sGd.net[0]?.getD colPutMsg)) (pgCol 0) 92 1) 0).open_, puts := __src.puts, putSigs := __src.putSigs })) (h1_sGd.net[0]?.getD colPutMsg).req).fst 0 2 (64 * h1_gd.offset) h1_gd.payload).snd = none := by
  and_intros <;> first
    | decide +kernel
    | (unfold Front; decide +kernel)
    | (unfold signalsFree; decide +kernel)
    | (unfold staysUp; decide +kernel)
    | (unfold ixLive; decide +kernel)
    | (unfold colNow; decide +kernel)
    | (unfold WakesNone; decide +kernel)
    | ((repeat' first | decide +kernel | constructor); done)
    | exact ok_of (by decide +kernel)
    | exact error_of (by decide +kernel)
    | exact ok_at (by decide +kernel)
    | exact err_at (by decide +kernel)
    | exact pair_is (by decide +kernel)
    | exact pair_ok_at (by decide +kernel)
    | exact pair_ok_is (by decide +kernel)
    | exact pair_error_is (by decide +kernel)
    | exact writes_at (by decide +kernel)
    | exact wait_of (by decide +kernel)
    | exact align_of (by decide +kernel)
    | exact fault_of (by decide +kernel)
    | exact all_some (by decide +kernel)
    | (intro _ h; cases h; done)
    | (intro _ _ h; cases h; done)
theorem meets_HangsAndWatchdog :
    engineStuck i1_w0 7 1 = true ∧
    engineStuck base 3 0 = false ∧
    workingSite base 3 = none ∧
    engineStuck j1_w1 0 0 = false ∧
    workingSite j1_w1 0 = some (0, 1000000000000000) ∧
    passed j1_w1 1000000000000000 msNs = false ∧
    engineStuck hangHome 7 0 = false ∧
    workingSite hangHome 7 = some (7, 999999000) ∧
    passed hangHome 999999000 msNs = true ∧
    7 = siteOf hangHome 7 ∧
    engineStuck j1_w5 3 0 = false ∧
    workingSite j1_w5 3 = some (8708, 0) ∧
    passed j1_w5 0 msNs = true ∧
    8708 ≠ siteOf j1_w5 3 ∧
    ¬(ctlAlive arrDueShut 0 = true ∧ gated arrDueShut (pgCtl 0) = false ∧ passed arrDueShut (look arrDueShut.hang.polls 0 0) (100 * usNs) = true) ∧
    ctlAlive base 0 = true ∧
    gated base (pgCtl 0) = false ∧
    passed base (look base.hang.polls 0 0) (100 * usNs) = true ∧
    dieOfCore 3 = 0 ∧
    Machine.inReset base (Domain.core 3) = false ∧
    (getCore base 3).missedPolls = 0 ∧
    ctlAlive i1_w3 0 = true ∧
    gated i1_w3 (pgCtl 0) = false ∧
    passed i1_w3 (look i1_w3.hang.polls 0 0) (100 * usNs) = true ∧
    dieOfCore 7 = 0 ∧
    Machine.inReset i1_w3 (Domain.core 7) = false ∧
    1 ≤ (getCore i1_w3 7).missedPolls ∧
    (getCore i1_w3 7).ctx = none ∧
    (getCore i1_w3 7).trial = none ∧
    (getCore i1_w3 7).suspects = [] ∧
    (getKerb i1_w4 16).stepAt = some 5 ∧
    passed i1_w4 5 (100 * usNs) = true ∧
    kerbUp i1_w4 16 = true ∧
    look (getStack i1_w4 (16 / 16)).maint (16 % 16) false = false ∧
    (List.any i1_w4.ctxs fun (e : Nat × Ctx) => List.any e.snd.lists fun (l : Nat × KList) => l.snd.armed && (look l.snd.pos 16 { }).stage == 2) = true ∧
    (∀ (t : Nat), (getKerb base 3).stepAt = some t → ¬(passed base t (100 * usNs) = true ∧ kerbUp base 3 = true ∧ look (getStack base (3 / 16)).maint (3 % 16) false = false ∧ (List.any base.ctxs fun (e : Nat × Ctx) => List.any e.snd.lists fun (l : Nat × KList) => l.snd.armed && (look l.snd.pos 3 { }).stage == 2) = true)) ∧
    (getCtx i1_w5 3).state = CState.running ∧
    regOf i1_w5 pgAon 88 ≠ 0 ∧
    (∀ (k : Nat), k ∈ (getCtx i1_w5 3).cores → (getCore i1_w5 k).parkedAt.isSome = true ∨ (getCore i1_w5 k).halted = true) ∧
    passed i1_w5 (List.foldl (fun (t k : Nat) => max t (if (getCore i1_w5 k).halted = true then (getCore i1_w5 k).haltAt else (getCore i1_w5 k).parkedAt.getD 0)) ((getCtx i1_w5 3).stallAt.getD 0) (getCtx i1_w5 3).cores) (regOf i1_w5 pgAon 88 * msNs) = true ∧
    (¬((getCtx base 3).state = CState.running ∧ regOf base pgAon 88 ≠ 0 ∧ (∀ (k : Nat), k ∈ (getCtx base 3).cores → (getCore base k).parkedAt.isSome = true ∨ (getCore base k).halted = true) ∧ passed base (List.foldl (fun (t k : Nat) => max t (if (getCore base k).halted = true then (getCore base k).haltAt else (getCore base k).parkedAt.getD 0)) ((getCtx base 3).stallAt.getD 0) (getCtx base 3).cores) (regOf base pgAon 88 * msNs) = true)) ∧
    sourceUp arrDueShut 0 = false ∧
    sourceUp i1_w8 2 = true ∧
    restarting i1_w8 2 = true ∧
    sourceUp base 0 = true ∧
    restarting base 0 = false ∧
    ¬(sourceUp base 0 = true ∧ look base.hang.beaten 0 false = true ∧ look base.hang.restartAt 0 none = none ∧ look base.hang.windows 0 0 + msNs < base.odometer) ∧
    sourceUp i1_w6 2 = true ∧
    look i1_w6.hang.beaten 2 false = true ∧
    look i1_w6.hang.restartAt 2 none = none ∧
    look i1_w6.hang.windows 2 0 + msNs < i1_w6.odometer ∧
    look i1_w6.hang.misses 2 0 < 2 ∧
    sourceUp i1_w7 2 = true ∧
    look i1_w7.hang.beaten 2 false = true ∧
    look i1_w7.hang.restartAt 2 none = none ∧
    look i1_w7.hang.windows 2 0 + msNs < i1_w7.odometer ∧
    2 ≤ look i1_w7.hang.misses 2 0 ∧
    (∀ (t0 : Nat), look base.hang.restartAt 0 none = some t0 → passed base t0 (5 * msNs) = false) ∧
    look i1_w8.hang.restartAt 2 none = some 5 ∧
    passed i1_w8 5 (5 * msNs) = true ∧
    2 < 4 ∧
    look i1_w9.hang.restartAt 4 none = some 5 ∧
    passed i1_w9 5 (5 * msNs) = true ∧
    4 = 4 := by
  and_intros <;> first
    | decide +kernel
    | (unfold Front; decide +kernel)
    | (unfold signalsFree; decide +kernel)
    | (unfold staysUp; decide +kernel)
    | (unfold ixLive; decide +kernel)
    | (unfold colNow; decide +kernel)
    | (unfold WakesNone; decide +kernel)
    | ((repeat' first | decide +kernel | constructor); done)
    | exact ok_of (by decide +kernel)
    | exact error_of (by decide +kernel)
    | exact ok_at (by decide +kernel)
    | exact err_at (by decide +kernel)
    | exact pair_is (by decide +kernel)
    | exact pair_ok_at (by decide +kernel)
    | exact pair_ok_is (by decide +kernel)
    | exact pair_error_is (by decide +kernel)
    | exact writes_at (by decide +kernel)
    | exact wait_of (by decide +kernel)
    | exact align_of (by decide +kernel)
    | exact fault_of (by decide +kernel)
    | exact all_some (by decide +kernel)
    | (intro _ h; cases h; done)
    | (intro _ _ h; cases h; done)
theorem meets_Resets :
    writable base 0 (pgCtl 1) 64 = true ∧
    (dieOfCore 50 == 1) = false ∧
    writable a1_w5 0 (pgCtl 0) 64 = true ∧
    (dieOfCore 7 == 0) = true ∧
    Domain.core (Fin.ofNat 4096 7) ≠ Domain.die 0 ∧
    Machine.inReset a1_w5 (Domain.core (Fin.ofNat 4096 7)) = true ∧
    writable base 0 (pgCtl 0) 64 = true ∧
    (dieOfCore 50 == 0) = true ∧
    Machine.inReset base (Domain.core (Fin.ofNat 4096 50)) = false ∧
    (decide (7 < 192) && dieOfChan 7 == 1) = false ∧
    writable i1_w23 0 (pgCtl 1) 64 = true ∧
    (decide (50 < 192) && dieOfChan 50 == 1) = true ∧
    Domain.kerb (Fin.ofNat 192 50) ≠ Domain.die 1 ∧
    Machine.inReset i1_w23 (Domain.kerb (Fin.ofNat 192 50)) = true ∧
    Machine.inReset base (Domain.kerb (Fin.ofNat 192 50)) = false ∧
    (decide (50 < 32) && dieOfPort 50 == 1) = false ∧
    writable i1_w15 0 (pgCtl 0) 64 = true ∧
    (decide (7 < 32) && dieOfPort 7 == 0) = true ∧
    Domain.port (Fin.ofNat 32 7) ≠ Domain.die 0 ∧
    Machine.inReset i1_w15 (Domain.port (Fin.ofNat 32 7)) = true ∧
    Machine.inReset base (Domain.port (Fin.ofNat 32 7)) = false ∧
    (50 == 0) = false ∧
    writable i1_w17 0 (pgCtl 1) 64 = true ∧
    (0 == 0) = true ∧
    Domain.bypass 1 ≠ Domain.die 1 ∧
    Machine.inReset i1_w17 (Domain.bypass 1) = true ∧
    Machine.inReset base (Domain.bypass 1) = false ∧
    Machine.inReset base (Domain.die 1) = false ∧
    50 < 192 ∧
    dieOfChan 50 = 1 ∧
    resetOf base (Domain.core 7) = none ∧
    resetOf a1_w5 (Domain.core 7) = some i1_w11 ∧
    i1_w11.half = false ∧
    passed a1_w5 i1_w11.start (domBudget (Domain.core 7) / 2) = true ∧
    resetOf coreLeft (Domain.core 7) = some ((resetOf coreLeft (Domain.core 7)).getD i1_w11) ∧
    (((resetOf coreLeft (Domain.core 7)).getD i1_w11).half = true ∨ passed coreLeft ((resetOf coreLeft (Domain.core 7)).getD i1_w11).start (domBudget (Domain.core 7) / 2) = false) ∧
    resetOf i1_w27 (Domain.engine 7 2) = some i1_w26 ∧
    Domain.engine 7 2 = Domain.engine 7 2 ∧
    resetOf i1_w23 (Domain.kerb 50) = some i1_w22 ∧
    Domain.kerb 50 = Domain.kerb 50 ∧
    resetOf c4_w15 Domain.hub = some i1_w24 ∧
    Domain.hub = Domain.hub ∧
    Domain.core 7 = Domain.core 7 ∧
    leftBehind coreLeft (Domain.core 7) = true ∧
    leftBehind a1_w5 (Domain.core 7) = false ∧
    (i1_w11.test = false ∨ a1_w5.hide.draining = true) ∧
    resetOf i1_w13 (Domain.core 7) = some i1_w12 ∧
    leftBehind i1_w13 (Domain.core 7) = false ∧
    i1_w12.test = true ∧
    i1_w13.hide.draining = false ∧
    resetOf i1_w15 (Domain.port 7) = some i1_w14 ∧
    Domain.port 7 = Domain.port 7 ∧
    passed i1_w15 i1_w14.start (100 * usNs) = true ∧
    resetOf portSoon (Domain.port 7) = some ((resetOf portSoon (Domain.port 7)).getD i1_w11) ∧
    passed portSoon ((resetOf portSoon (Domain.port 7)).getD i1_w11).start (100 * usNs) = false ∧
    resetOf i1_w17 (Domain.bypass 1) = some i1_w16 ∧
    Domain.bypass 1 = Domain.bypass 1 ∧
    resetOf i1_w19 (Domain.die 1) = some i1_w18 ∧
    Domain.die 1 = Domain.die 1 ∧
    resetOf i1_w21 (Domain.fullDie 1) = some i1_w20 ∧
    Domain.fullDie 1 = Domain.fullDie 1 ∧
    (coreLeft.odometer ≤ ((resetOf coreLeft (Domain.core 7)).getD i1_w11).start + domBudget (Domain.core 7) ∨ leftBehind coreLeft (Domain.core 7) = true) ∧
    i1_w26.start + domBudget (Domain.engine 7 2) < i1_w27.odometer ∧
    leftBehind i1_w27 (Domain.engine 7 2) = false ∧
    i1_w11.start + domBudget (Domain.core 7) < a1_w5.odometer ∧
    i1_w22.start + domBudget (Domain.kerb 50) < i1_w23.odometer ∧
    leftBehind i1_w23 (Domain.kerb 50) = false ∧
    i1_w14.start + domBudget (Domain.port 7) < i1_w15.odometer ∧
    leftBehind i1_w15 (Domain.port 7) = false ∧
    i1_w16.start + domBudget (Domain.bypass 1) < i1_w17.odometer ∧
    leftBehind i1_w17 (Domain.bypass 1) = false ∧
    i1_w18.start + domBudget (Domain.die 1) < i1_w19.odometer ∧
    leftBehind i1_w19 (Domain.die 1) = false ∧
    (Domain.die 1 = Domain.die 1 ∨ Domain.die 1 = Domain.fullDie 1) ∧
    i1_w24.start + domBudget Domain.hub < c4_w15.odometer ∧
    leftBehind c4_w15 Domain.hub = false ∧
    WakesNone c4_w15 := by
  and_intros <;> first
    | decide +kernel
    | (unfold Front; decide +kernel)
    | (unfold signalsFree; decide +kernel)
    | (unfold staysUp; decide +kernel)
    | (unfold ixLive; decide +kernel)
    | (unfold colNow; decide +kernel)
    | (unfold WakesNone; decide +kernel)
    | ((repeat' first | decide +kernel | constructor); done)
    | exact ok_of (by decide +kernel)
    | exact error_of (by decide +kernel)
    | exact ok_at (by decide +kernel)
    | exact err_at (by decide +kernel)
    | exact pair_is (by decide +kernel)
    | exact pair_ok_at (by decide +kernel)
    | exact pair_ok_is (by decide +kernel)
    | exact pair_error_is (by decide +kernel)
    | exact writes_at (by decide +kernel)
    | exact wait_of (by decide +kernel)
    | exact align_of (by decide +kernel)
    | exact fault_of (by decide +kernel)
    | exact all_some (by decide +kernel)
    | (intro _ h; cases h; done)
    | (intro _ _ h; cases h; done)
theorem meets_FieldTests :
    (¬(mayTest base 0 = true ∧ passed base (look base.hide.lastStart 0 0) (16 * 1000 * msNs) = true) ∨ nextInRotation base 0 = none) ∧
    nextInRotation e4_w15 0 = some 0 ∧
    rotationStart e4_w15 0 = none ∧
    mayTest j1_w0 0 = true ∧
    passed j1_w0 (look j1_w0.hide.lastStart 0 0) (16 * 1000 * msNs) = true ∧
    nextInRotation j1_w0 0 = some 0 ∧
    rotationStart j1_w0 0 = some ((rotationStart j1_w0 0).getD base) ∧
    ¬(mayTest base (dieOfCore 7) = true ∧ (getSite base (siteOf base 7)).testing = false ∧ (getSite base (siteOf base 7)).role = 1 ∧ passed base (siteKat base (siteOf base 7)) (23 * hourNs / 4) = true ∧ mayTestSite base (siteOf base 7) = true ∧ (getSite base (siteOf base 7)).failed = false ∧ (getPage base (pgCore 7)).moving = false) ∧
    mayTest j1_w0 (dieOfCore 7) = true ∧
    (getSite j1_w0 (siteOf j1_w0 7)).testing = false ∧
    (getSite j1_w0 (siteOf j1_w0 7)).role = 1 ∧
    passed j1_w0 (siteKat j1_w0 (siteOf j1_w0 7)) (23 * hourNs / 4) = true ∧
    mayTestSite j1_w0 (siteOf j1_w0 7) = true ∧
    (getSite j1_w0 (siteOf j1_w0 7)).failed = false ∧
    (getPage j1_w0 (pgCore 7)).moving = false ∧
    (getCore j1_w0 7).ctx = none ∧
    mayTest j1_w2 (dieOfCore 7) = true ∧
    (getSite j1_w2 (siteOf j1_w2 7)).testing = false ∧
    (getSite j1_w2 (siteOf j1_w2 7)).role = 1 ∧
    passed j1_w2 (siteKat j1_w2 (siteOf j1_w2 7)) (23 * hourNs / 4) = true ∧
    mayTestSite j1_w2 (siteOf j1_w2 7) = true ∧
    (getSite j1_w2 (siteOf j1_w2 7)).failed = false ∧
    (getPage j1_w2 (pgCore 7)).moving = false ∧
    (getCore j1_w2 7).ctx = some 3 ∧
    (getCtx j1_w2 3).state = CState.running ∧
    mayTest katOther (dieOfCore 7) = true ∧
    (getSite katOther (siteOf katOther 7)).testing = false ∧
    (getSite katOther (siteOf katOther 7)).role = 1 ∧
    passed katOther (siteKat katOther (siteOf katOther 7)) (23 * hourNs / 4) = true ∧
    mayTestSite katOther (siteOf katOther 7) = true ∧
    (getSite katOther (siteOf katOther 7)).failed = false ∧
    (getPage katOther (pgCore 7)).moving = false ∧
    (getCore katOther 7).ctx = some 3 ∧
    (getCtx katOther 3).state ≠ CState.running ∧
    List.find? (fun (m : Move) => m.core == 7) base.hide.moves = none ∧
    List.find? (fun (m : Move) => m.core == 7) moveBusy.hide.moves = some j1_w4 ∧
    coreStopped (getCore moveBusy 7) = false ∧
    List.find? (fun (m : Move) => m.core == 7) dozeWaits.hide.moves = some j1_w4 ∧
    coreStopped (getCore dozeWaits 7) = true ∧
    j1_w4.why = 0 ∧
    List.find? (fun (m : Move) => m.core == 7) moveBack.hide.moves = some ((List.find? (fun (m : Move) => m.core == 7) moveBack.hide.moves).getD j1_w4) ∧
    coreStopped (getCore moveBack 7) = true ∧
    ((List.find? (fun (m : Move) => m.core == 7) moveBack.hide.moves).getD j1_w4).why ≠ 0 ∧
    (getCore dozeWaits 7).ctx = none ∧
    siteOk 8708 = true ∧
    List.find? (fun (x : Test) => x.site == 8708) base.hide.tests = none ∧
    List.find? (fun (x : Test) => x.site == 8708) j1_w5.hide.tests = some j1_w6 ∧
    KatResult.pass = KatResult.pass ∧
    j1_w6.start + 3 * msNs < j1_w5.odometer ∧
    siteOk 0 = true ∧
    List.find? (fun (x : Test) => x.site == 0) j1_w1.hide.tests = some ((List.find? (fun (x : Test) => x.site == 0) j1_w1.hide.tests).getD j1_w6) ∧
    (KatResult.pass ≠ KatResult.pass ∨ j1_w1.odometer ≤ ((List.find? (fun (x : Test) => x.site == 0) j1_w1.hide.tests).getD j1_w6).start + 3 * msNs) ∧
    ((List.find? (fun (x : Test) => x.site == 0) j1_w1.hide.tests).getD j1_w6).why = 0 ∧
    (KatResult.progFail ≠ KatResult.pass ∨ j1_w5.odometer ≤ j1_w6.start + 3 * msNs) ∧
    j1_w6.why = 0 ∧
    ¬KatResult.progFail = KatResult.pass ∧
    (getSite (testNoted j1_w5 8708 j1_w6 KatResult.progFail) 8708).role = 2 ∧
    (KatResult.progFail ≠ KatResult.pass ∨ j1_w1.odometer ≤ ((List.find? (fun (x : Test) => x.site == 0) j1_w1.hide.tests).getD j1_w6).start + 3 * msNs) ∧
    (getSite (testNoted j1_w1 0 ((List.find? (fun (x : Test) => x.site == 0) j1_w1.hide.tests).getD j1_w6) KatResult.progFail) 0).role = 1 ∧
    List.find? (fun (x : Test) => x.site == 8708) test00.hide.tests = some ((List.find? (fun (x : Test) => x.site == 8708) test00.hide.tests).getD j1_w6) ∧
    (KatResult.progFail ≠ KatResult.pass ∨ test00.odometer ≤ ((List.find? (fun (x : Test) => x.site == 8708) test00.hide.tests).getD j1_w6).start + 3 * msNs) ∧
    ((List.find? (fun (x : Test) => x.site == 8708) test00.hide.tests).getD j1_w6).why = 0 ∧
    (getSite (testNoted test00 8708 ((List.find? (fun (x : Test) => x.site == 8708) test00.hide.tests).getD j1_w6) KatResult.progFail) 8708).role ≠ 1 ∧
    (getSite (testNoted test00 8708 ((List.find? (fun (x : Test) => x.site == 8708) test00.hide.tests).getD j1_w6) KatResult.progFail) 8708).role ≠ 2 ∧
    siteOk 7 = true ∧
    List.find? (fun (x : Test) => x.site == 7) test1Home.hide.tests = some ((List.find? (fun (x : Test) => x.site == 7) test1Home.hide.tests).getD j1_w6) ∧
    (KatResult.pass ≠ KatResult.pass ∨ test1Home.odometer ≤ ((List.find? (fun (x : Test) => x.site == 7) test1Home.hide.tests).getD j1_w6).start + 3 * msNs) ∧
    ((List.find? (fun (x : Test) => x.site == 7) test1Home.hide.tests).getD j1_w6).why = 1 ∧
    siteOf (testNoted test1Home 7 ((List.find? (fun (x : Test) => x.site == 7) test1Home.hide.tests).getD j1_w6) KatResult.pass) ((List.find? (fun (x : Test) => x.site == 7) test1Home.hide.tests).getD j1_w6).core = 7 ∧
    (KatResult.progFail ≠ KatResult.pass ∨ test1Home.odometer ≤ ((List.find? (fun (x : Test) => x.site == 7) test1Home.hide.tests).getD j1_w6).start + 3 * msNs) ∧
    siteOf (testNoted test1Home 7 ((List.find? (fun (x : Test) => x.site == 7) test1Home.hide.tests).getD j1_w6) KatResult.progFail) ((List.find? (fun (x : Test) => x.site == 7) test1Home.hide.tests).getD j1_w6).core = 7 ∧
    List.find? (fun (x : Test) => x.site == 8708) test1Away.hide.tests = some ((List.find? (fun (x : Test) => x.site == 8708) test1Away.hide.tests).getD j1_w6) ∧
    (KatResult.pass ≠ KatResult.pass ∨ test1Away.odometer ≤ ((List.find? (fun (x : Test) => x.site == 8708) test1Away.hide.tests).getD j1_w6).start + 3 * msNs) ∧
    ((List.find? (fun (x : Test) => x.site == 8708) test1Away.hide.tests).getD j1_w6).why = 1 ∧
    siteOf (testNoted test1Away 8708 ((List.find? (fun (x : Test) => x.site == 8708) test1Away.hide.tests).getD j1_w6) KatResult.pass) ((List.find? (fun (x : Test) => x.site == 8708) test1Away.hide.tests).getD j1_w6).core ≠ 8708 ∧
    (KatResult.progFail ≠ KatResult.pass ∨ test1Away.odometer ≤ ((List.find? (fun (x : Test) => x.site == 8708) test1Away.hide.tests).getD j1_w6).start + 3 * msNs) ∧
    siteOf (testNoted test1Away 8708 ((List.find? (fun (x : Test) => x.site == 8708) test1Away.hide.tests).getD j1_w6) KatResult.progFail) ((List.find? (fun (x : Test) => x.site == 8708) test1Away.hide.tests).getD j1_w6).core ≠ 8708 ∧
    List.find? (fun (x : Test) => x.site == 8708) test21.hide.tests = some ((List.find? (fun (x : Test) => x.site == 8708) test21.hide.tests).getD j1_w6) ∧
    (KatResult.pass ≠ KatResult.pass ∨ test21.odometer ≤ ((List.find? (fun (x : Test) => x.site == 8708) test21.hide.tests).getD j1_w6).start + 3 * msNs) ∧
    ((List.find? (fun (x : Test) => x.site == 8708) test21.hide.tests).getD j1_w6).why = 2 ∧
    List.find? (fun (x : Test) => x.site == 8708) test22.hide.tests = some ((List.find? (fun (x : Test) => x.site == 8708) test22.hide.tests).getD j1_w6) ∧
    (KatResult.progFail ≠ KatResult.pass ∨ test22.odometer ≤ ((List.find? (fun (x : Test) => x.site == 8708) test22.hide.tests).getD j1_w6).start + 3 * msNs) ∧
    ((List.find? (fun (x : Test) => x.site == 8708) test22.hide.tests).getD j1_w6).why = 2 ∧
    (getSite (testNoted test22 8708 ((List.find? (fun (x : Test) => x.site == 8708) test22.hide.tests).getD j1_w6) KatResult.progFail) 8708).role = 2 ∧
    (KatResult.progFail ≠ KatResult.pass ∨ test21.odometer ≤ ((List.find? (fun (x : Test) => x.site == 8708) test21.hide.tests).getD j1_w6).start + 3 * msNs) ∧
    (getSite (testNoted test21 8708 ((List.find? (fun (x : Test) => x.site == 8708) test21.hide.tests).getD j1_w6) KatResult.progFail) 8708).role ≠ 2 ∧
    List.find? (fun (x : Test) => x.site == 8708) test3.hide.tests = some ((List.find? (fun (x : Test) => x.site == 8708) test3.hide.tests).getD j1_w6) ∧
    (KatResult.pass ≠ KatResult.pass ∨ test3.odometer ≤ ((List.find? (fun (x : Test) => x.site == 8708) test3.hide.tests).getD j1_w6).start + 3 * msNs) ∧
    ((List.find? (fun (x : Test) => x.site == 8708) test3.hide.tests).getD j1_w6).why = 3 ∧
    (KatResult.progFail ≠ KatResult.pass ∨ test3.odometer ≤ ((List.find? (fun (x : Test) => x.site == 8708) test3.hide.tests).getD j1_w6).start + 3 * msNs) ∧
    List.find? (fun (x : Test) => x.site == 8708) test4.hide.tests = some ((List.find? (fun (x : Test) => x.site == 8708) test4.hide.tests).getD j1_w6) ∧
    (KatResult.pass ≠ KatResult.pass ∨ test4.odometer ≤ ((List.find? (fun (x : Test) => x.site == 8708) test4.hide.tests).getD j1_w6).start + 3 * msNs) ∧
    3 < ((List.find? (fun (x : Test) => x.site == 8708) test4.hide.tests).getD j1_w6).why ∧
    j1_w1.odometer ≤ ((List.find? (fun (x : Test) => x.site == 0) j1_w1.hide.tests).getD j1_w6).start + 3 * msNs ∧
    KatResult.progFail = KatResult.progFail ∧
    (getSite j1_w5 8708).role = 2 ∧
    (recent j1_w5 (look j1_w5.hide.defects (dieOfSite 8708) [])).length < 3 ∧
    siteOk 30 = false := by
  and_intros <;> first
    | decide +kernel
    | (unfold Front; decide +kernel)
    | (unfold signalsFree; decide +kernel)
    | (unfold staysUp; decide +kernel)
    | (unfold ixLive; decide +kernel)
    | (unfold colNow; decide +kernel)
    | (unfold WakesNone; decide +kernel)
    | ((repeat' first | decide +kernel | constructor); done)
    | exact ok_of (by decide +kernel)
    | exact error_of (by decide +kernel)
    | exact ok_at (by decide +kernel)
    | exact err_at (by decide +kernel)
    | exact pair_is (by decide +kernel)
    | exact pair_ok_at (by decide +kernel)
    | exact pair_ok_is (by decide +kernel)
    | exact pair_error_is (by decide +kernel)
    | exact writes_at (by decide +kernel)
    | exact wait_of (by decide +kernel)
    | exact align_of (by decide +kernel)
    | exact fault_of (by decide +kernel)
    | exact all_some (by decide +kernel)
    | (rw [siteOf_noted]; decide +kernel)
    | (intro _ h; cases h; done)
    | (intro _ _ h; cases h; done)
theorem meets_VotesTrialsDrains :
    shadowOf base 7 false = none ∧
    shadowOf j1_w7 7 false = some shadowRun ∧
    5 = shadowRun.crc ∧
    6 ≠ shadowRun.crc ∧
    shadowOf base 7 true = none ∧
    shadowOf voteWaits 7 true = some votedRun1 ∧
    votedRun1.site2 = none ∧
    List.filter (fun (n : Nat) => n != votedRun1.site1) (shadowFree voteWaits (dieOfCore 7)) = [] ∧
    shadowOf j1_w8 7 true = some j1_votedRun ∧
    (j1_votedRun.site2 ≠ none ∨ List.filter (fun (n : Nat) => n != j1_votedRun.site1) (shadowFree j1_w8 (dieOfCore 7)) ≠ []) ∧
    j1_votedRun.crc1 = some 6 ∧
    j1_votedRun.crc1 ≠ some 5 ∧
    5 = j1_votedRun.crc ∧
    j1_votedRun.crc1 ≠ some 7 ∧
    7 ≠ j1_votedRun.crc ∧
    (getCore j1_w9 7).trial = some (3, 5) ∧
    ((getCtx j1_w9 3).state = CState.halted ∨ (getCtx j1_w9 3).state = CState.free ∨ (getCtx j1_w9 3).state = CState.idle ∨ (getCore j1_w9 7).halted = true ∨ 5 < (getCtx j1_w9 3).imageAt ∨ (getCtx j1_w9 3).state = CState.running ∧ passed j1_w9 5 (100 * msNs) = true) ∧
    (∀ (c t : Nat), (getCore base 7).trial = some (c, t) → ¬((getCtx base c).state = CState.halted ∨ (getCtx base c).state = CState.free ∨ (getCtx base c).state = CState.idle ∨ (getCore base 7).halted = true ∨ t < (getCtx base c).imageAt ∨ (getCtx base c).state = CState.running ∧ passed base t (100 * msNs) = true)) ∧
    (¬(base.hide.draining = true ∧ base.hide.drainDone = false ∧ base.hide.moves = [] ∧ base.boot.phase = 6 ∧ drainReady base = true ∧ ((∀ (c : Nat), c < 256 → ¬((getCtx base c).state = CState.running ∨ (getCtx base c).state = CState.saving)) ∨ passed base base.hide.drainAt msNs = true))) ∧
    j1_w10.hide.draining = true ∧
    j1_w10.hide.drainDone = false ∧
    j1_w10.hide.moves = [] ∧
    j1_w10.boot.phase = 6 ∧
    drainReady j1_w10 = true ∧
    ((∀ (c : Nat), c < 256 → ¬((getCtx j1_w10 c).state = CState.running ∨ (getCtx j1_w10 c).state = CState.saving)) ∨ passed j1_w10 j1_w10.hide.drainAt msNs = true) ∧
    (getCore parkedOne 7).parkedAt = some 5 ∧
    (getCore parkedOne 7).lent = false ∧
    parked (getCore parkedOne 7) = true ∧
    passed parkedOne 5 (2 * usNs + 1) = true ∧
    (∀ (t : Nat), (getCore base 7).parkedAt = some t → ¬((getCore base 7).lent = false ∧ parked (getCore base 7) = true ∧ passed base t (2 * usNs + 1) = true)) := by
  and_intros <;> first
    | decide +kernel
    | (unfold Front; decide +kernel)
    | (unfold signalsFree; decide +kernel)
    | (unfold staysUp; decide +kernel)
    | (unfold ixLive; decide +kernel)
    | (unfold colNow; decide +kernel)
    | (unfold WakesNone; decide +kernel)
    | ((repeat' first | decide +kernel | constructor); done)
    | exact ok_of (by decide +kernel)
    | exact error_of (by decide +kernel)
    | exact ok_at (by decide +kernel)
    | exact err_at (by decide +kernel)
    | exact pair_is (by decide +kernel)
    | exact pair_ok_at (by decide +kernel)
    | exact pair_ok_is (by decide +kernel)
    | exact pair_error_is (by decide +kernel)
    | exact writes_at (by decide +kernel)
    | exact wait_of (by decide +kernel)
    | exact align_of (by decide +kernel)
    | exact fault_of (by decide +kernel)
    | exact all_some (by decide +kernel)
    | (intro _ h; cases h; done)
    | (intro _ _ h; cases h; done)
theorem meets_MeasuresAndGrants :
    0 < 4 ∧
    k1_w23.power.state = PState.off ∧
    base.power.state ≠ PState.off ∧
    arrFenced.power.state ≠ PState.on ∧
    base.power.state = PState.on ∧
    ((getCore base 7).ctx = none ∨ (getCore base 7).lent = true ∨ (coreSite base 7).testing = true ∨ (getCore base 7).grant = 0) ∧
    ahead0.power.state = PState.on ∧
    (¬((getCore ahead0 7).ctx = none ∨ (getCore ahead0 7).lent = true ∨ (coreSite ahead0 7).testing = true ∨ (getCore ahead0 7).grant = 0)) ∧
    (getCore ahead0 7).step = 0 ∧
    firstWaiting ahead0 (dieOfCore 7) = some 7 ∧
    (List.filter (fun (r : Nat × Nat) => r.fst == dieOfCore 7) (List.filter (fun (r : Nat × Nat) => decide (ahead0.odometer < r.snd + usNs)) ahead0.power.released)).length < 128 ∧
    rampWaits.power.state = PState.on ∧
    (¬((getCore rampWaits 7).ctx = none ∨ (getCore rampWaits 7).lent = true ∨ (coreSite rampWaits 7).testing = true ∨ (getCore rampWaits 7).grant = 0)) ∧
    (getCore rampWaits 7).step = 0 ∧
    ¬(firstWaiting rampWaits (dieOfCore 7) = some 7 ∧ (List.filter (fun (r : Nat × Nat) => r.fst == dieOfCore 7) (List.filter (fun (r : Nat × Nat) => decide (rampWaits.odometer < r.snd + usNs)) rampWaits.power.released)).length < 128) ∧
    k1_w1.power.state = PState.on ∧
    (¬((getCore k1_w1 7).ctx = none ∨ (getCore k1_w1 7).lent = true ∨ (coreSite k1_w1 7).testing = true ∨ (getCore k1_w1 7).grant = 0)) ∧
    (getCore k1_w1 7).step ≠ 0 ∧
    (getCore k1_w1 7).step < (getCore k1_w1 7).grant ∧
    passed k1_w1 (getCore k1_w1 7).rampAt 16 = true ∧
    rampSoon.power.state = PState.on ∧
    (¬((getCore rampSoon 7).ctx = none ∨ (getCore rampSoon 7).lent = true ∨ (coreSite rampSoon 7).testing = true ∨ (getCore rampSoon 7).grant = 0)) ∧
    (getCore rampSoon 7).step ≠ 0 ∧
    ((getCore rampSoon 7).grant ≤ (getCore rampSoon 7).step ∨ passed rampSoon (getCore rampSoon 7).rampAt 16 = false) := by
  and_intros <;> first
    | decide +kernel
    | (unfold Front; decide +kernel)
    | (unfold signalsFree; decide +kernel)
    | (unfold staysUp; decide +kernel)
    | (unfold ixLive; decide +kernel)
    | (unfold colNow; decide +kernel)
    | (unfold WakesNone; decide +kernel)
    | ((repeat' first | decide +kernel | constructor); done)
    | exact ok_of (by decide +kernel)
    | exact error_of (by decide +kernel)
    | exact ok_at (by decide +kernel)
    | exact err_at (by decide +kernel)
    | exact pair_is (by decide +kernel)
    | exact pair_ok_at (by decide +kernel)
    | exact pair_ok_is (by decide +kernel)
    | exact pair_error_is (by decide +kernel)
    | exact writes_at (by decide +kernel)
    | exact wait_of (by decide +kernel)
    | exact align_of (by decide +kernel)
    | exact fault_of (by decide +kernel)
    | exact all_some (by decide +kernel)
    | (intro _ h; cases h; done)
    | (intro _ _ h; cases h; done)
theorem meets_FewSensors :
    0 < 4 ∧
    k1_w21.power.state = PState.on ∧
    (dieReadings k1_w21.power 0).length < 48 ∧
    k1_w3.power.state = PState.on ∧
    nth k1_w3.power.ceiling 0 ≤ 32 ∧
    ((dieReadings k1_w21.power 0).length < 16 ∨ (hubReadings k1_w21.power).length < 16) := by
  and_intros <;> first
    | decide +kernel
    | (unfold Front; decide +kernel)
    | (unfold signalsFree; decide +kernel)
    | (unfold staysUp; decide +kernel)
    | (unfold ixLive; decide +kernel)
    | (unfold colNow; decide +kernel)
    | (unfold WakesNone; decide +kernel)
    | ((repeat' first | decide +kernel | constructor); done)
    | exact ok_of (by decide +kernel)
    | exact error_of (by decide +kernel)
    | exact ok_at (by decide +kernel)
    | exact err_at (by decide +kernel)
    | exact pair_is (by decide +kernel)
    | exact pair_ok_at (by decide +kernel)
    | exact pair_ok_is (by decide +kernel)
    | exact pair_error_is (by decide +kernel)
    | exact writes_at (by decide +kernel)
    | exact wait_of (by decide +kernel)
    | exact align_of (by decide +kernel)
    | exact fault_of (by decide +kernel)
    | exact all_some (by decide +kernel)
    | (intro _ h; cases h; done)
    | (intro _ _ h; cases h; done)
theorem meets_PowerStates :
    k1_w23.power.state = PState.off ∧
    base.power.state ≠ PState.off ∧
    k1_w21.power.state ≠ PState.off ∧
    tripNow k1_w21.power = true ∧
    hubPowered k1_w21 = true ∧
    k1_w10.power.state ≠ PState.off ∧
    tripNow k1_w10.power = true ∧
    hubPowered k1_w10 = false ∧
    WakesNone k1_w21 ∧
    ¬(base.power.state ≠ PState.off ∧ tripNow base.power = true) ∧
    k1_w4.power.vinLowAt = some 5 ∧
    hubPowered k1_w4 = true ∧
    passed k1_w4 5 (100 * usNs) = true ∧
    WakesNone k1_w4 ∧
    vinWakes.power.vinLowAt = some 5 ∧
    hubPowered vinWakes = true ∧
    passed vinWakes 5 (100 * usNs) = true ∧
    ¬WakesNone vinWakes ∧
    stillHot vinWakes.power = false ∧
    (∀ (t0 : Nat), base.power.vinLowAt = some t0 → ¬(hubPowered base = true ∧ passed base t0 (100 * usNs) = true)) ∧
    (stillHot k1_w10.power = true ∨ k1_w10.power.state = PState.off) ∧
    stillHot base.power = false ∧
    base.power.heldWake = false ∧
    stillHot k1_w22.power = false ∧
    k1_w22.power.state ≠ PState.off ∧
    k1_w22.power.heldWake = true ∧
    k1_w22.power.state = PState.dormant ∧
    ¬(base.power.state ≠ PState.off ∧ (getCmp base 0).en = true ∧ (getCmp base 0).met = false ∧ cmpHolds base 0 = true) ∧
    cmpDue.power.state ≠ PState.off ∧
    (getCmp cmpDue 0).en = true ∧
    (getCmp cmpDue 0).met = false ∧
    cmpHolds cmpDue 0 = true ∧
    k1_w11.power.entering = some PowReq.mailbox ∧
    k1_w11.hide.tests = [] ∧
    k1_w11.hide.moves = [] ∧
    dozeWaits.power.entering = some PowReq.mailbox ∧
    (dozeWaits.hide.tests ≠ [] ∨ dozeWaits.hide.moves ≠ []) ∧
    base.power.entering = none ∧
    k1_w12.power.leaving = some PowReq.mailbox ∧
    base.power.leaving = none := by
  and_intros <;> first
    | decide +kernel
    | (unfold Front; decide +kernel)
    | (unfold signalsFree; decide +kernel)
    | (unfold staysUp; decide +kernel)
    | (unfold ixLive; decide +kernel)
    | (unfold colNow; decide +kernel)
    | (unfold WakesNone; decide +kernel)
    | ((repeat' first | decide +kernel | constructor); done)
    | exact ok_of (by decide +kernel)
    | exact error_of (by decide +kernel)
    | exact ok_at (by decide +kernel)
    | exact err_at (by decide +kernel)
    | exact pair_is (by decide +kernel)
    | exact pair_ok_at (by decide +kernel)
    | exact pair_ok_is (by decide +kernel)
    | exact pair_error_is (by decide +kernel)
    | exact writes_at (by decide +kernel)
    | exact wait_of (by decide +kernel)
    | exact align_of (by decide +kernel)
    | exact fault_of (by decide +kernel)
    | exact all_some (by decide +kernel)
    | (intro _ h; cases h; done)
    | (intro _ _ h; cases h; done)
theorem meets_BringUp :
    (base.power.state ≠ PState.on ∨ base.boot.phase ≠ 0) ∧
    k1_w13.power.state = PState.on ∧
    k1_w13.boot.phase = 0 ∧
    (base.power.state ≠ PState.on ∨ base.boot.phase ≠ 1) ∧
    k1_w14.power.state = PState.on ∧
    k1_w14.boot.phase = 1 ∧
    (training base = false ∨ base.boot.bridgesDone.contains (bridgeOf 0 0) = true) ∧
    training k1_sTrain = true ∧
    k1_sTrain.boot.bridgesDone.contains (bridgeOf 0 0) = false ∧
    sliceFloor 0 ≤ sliceCount (testedBridge (if 0 = 2 then 4 else 20) [] [] (getBridge k1_sTrain (bridgeOf 0 0))) ∧
    sliceCount (testedBridge (if 0 = 2 then 4 else 20) addDesc addDesc (getBridge k1_sTrain (bridgeOf 0 0))) < sliceFloor 0 ∧
    (training base = false ∨ (getStack base 0).state ≠ 0) ∧
    (getStack k1_sTrain 0).state = 0 ∧
    training stackTrains = true ∧
    (getStack stackTrains 0).state = 0 ∧
    passed stackTrains stackTrains.boot.trainAt (16 * msNs) = false ∧
    passed k1_sTrain k1_sTrain.boot.trainAt (16 * msNs) = true ∧
    (training base = false ∨ base.boot.zeroDone = true) ∧
    k1_sTrain.boot.zeroDone = false ∧
    base.boot.verifying = none ∧
    k1_w16.boot.verifying = some (3, ref0, 100) ∧
    verifyFail k1_w16 100 = some Code.badField ∧
    (base.power.state ≠ PState.on ∨ base.boot.phase ≠ 4) ∧
    k1_w17.power.state = PState.on ∧
    k1_w17.boot.phase = 4 ∧
    ¬(base.power.state = PState.on ∧ base.boot.phase = 5 ∧ base.boot.testDone = false) ∧
    testDrained.power.state = PState.on ∧
    testDrained.boot.phase = 5 ∧
    testDrained.boot.testDone = false ∧
    (List.foldl (fun (s : State) (t : SiteTest) => if s.hide.draining = true then s else applyTest s t) testDrained (sortTests (List.filter (fun (t : SiteTest) => siteOk t.site) (firmwareFails testDrained ++ [])))).hide.draining = true ∧
    k1_w19.power.state = PState.on ∧
    k1_w19.boot.phase = 5 ∧
    k1_w19.boot.testDone = false ∧
    (List.foldl (fun (s : State) (t : SiteTest) => if s.hide.draining = true then s else applyTest s t) k1_w19 (sortTests (List.filter (fun (t : SiteTest) => siteOk t.site) (firmwareFails k1_w19 ++ [])))).hide.draining = false ∧
    k1_w19.hide.draining = false ∧
    k1_w19.boot.fwFailed = [] ∧
    siteOk k1_w18.site = true ∧
    k1_w18.other = true ∧
    (getSite k1_w19 k1_w18.site).role = 2 ∧
    readyNow base = false ∧
    readyNow k1_w20 = true ∧
    (¬(base.power.state = PState.on ∧ (base.boot.phase = 0 ∧ passed base base.boot.phaseAt (8 * msNs) = true ∨ base.boot.phase = 4 ∧ passed base base.boot.phaseAt (8 * msNs) = true ∨ base.boot.phase = 5 ∧ base.boot.testDone = false ∧ passed base base.boot.phaseAt (12 * msNs) = true))) ∧
    (k1_w13.boot.phase = 0 ∧ passed k1_w13 k1_w13.boot.phaseAt (8 * msNs) = true ∨ k1_w13.boot.phase = 4 ∧ passed k1_w13 k1_w13.boot.phaseAt (8 * msNs) = true ∨ k1_w13.boot.phase = 5 ∧ k1_w13.boot.testDone = false ∧ passed k1_w13 k1_w13.boot.phaseAt (12 * msNs) = true) ∧
    WakesNone k1_w13 ∧
    (k1_w17.boot.phase = 0 ∧ passed k1_w17 k1_w17.boot.phaseAt (8 * msNs) = true ∨ k1_w17.boot.phase = 4 ∧ passed k1_w17 k1_w17.boot.phaseAt (8 * msNs) = true ∨ k1_w17.boot.phase = 5 ∧ k1_w17.boot.testDone = false ∧ passed k1_w17 k1_w17.boot.phaseAt (12 * msNs) = true) ∧
    k1_w17.boot.phase ≠ 0 := by
  and_intros <;> first
    | decide +kernel
    | (unfold Front; decide +kernel)
    | (unfold signalsFree; decide +kernel)
    | (unfold staysUp; decide +kernel)
    | (unfold ixLive; decide +kernel)
    | (unfold colNow; decide +kernel)
    | (unfold WakesNone; decide +kernel)
    | ((repeat' first | decide +kernel | constructor); done)
    | exact ok_of (by decide +kernel)
    | exact error_of (by decide +kernel)
    | exact ok_at (by decide +kernel)
    | exact err_at (by decide +kernel)
    | exact pair_is (by decide +kernel)
    | exact pair_ok_at (by decide +kernel)
    | exact pair_ok_is (by decide +kernel)
    | exact pair_error_is (by decide +kernel)
    | exact writes_at (by decide +kernel)
    | exact wait_of (by decide +kernel)
    | exact align_of (by decide +kernel)
    | exact fault_of (by decide +kernel)
    | exact all_some (by decide +kernel)
    | (intro _ h; cases h; done)
    | (intro _ _ h; cases h; done)
/-- The signature of the image is valid: a check of ECDSA P-256 against a signature computed outside. -/
theorem image_signed :
    ecdsaOk keyOne (sha256 (digestedImage verSigned.boot.buffer 256)) (loadBytes verSigned.boot.buffer 128 64) = true := by
  decide +kernel
/-- On a part whose key slot 0 holds the digest of that key (R426) the image is accepted. -/
theorem meets_BringUp_accepted (h : sha256 keyOne = Config.romHash 0) :
    verSigned.boot.verifying = some (3, ref0, 256) ∧ verifyFail verSigned 256 = none := by
  have e : loadBytes verSigned.boot.buffer 0x40 64 = keyOne := by decide +kernel
  have f : fieldOf (loadNum verSigned 0 4) 8 2 = 0 := by decide +kernel
  refine ⟨by decide +kernel, ?_⟩
  unfold verifyFail
  simp only [Nat.sub_self, Nat.zero_add, e, f, h, image_signed, bne_self_eq_false]
  decide +kernel
theorem meets_AnalogueChecks :
    portUp dormant 3 = false ∧
    portUp base 3 = true ∧
    (¬((getPort base 3).tstate = 4 ∨ (getPort base 3).tstate = 5 ∨ (getPort base 3).tstate = 6)) ∧
    portUp f0_routed 3 = true ∧
    ((getPort f0_routed 3).tstate = 4 ∨ (getPort f0_routed 3).tstate = 5 ∨ (getPort f0_routed 3).tstate = 6) ∧
    (opticalPort (getPort f0_routed 3) 0 0).txGood = (getPort f0_routed 3).txGood ∧
    (opticalPort (getPort f0_routed 3) 0 0).laneReq = (getPort f0_routed 3).laneReq ∧
    ((opticalPort (getPort f0_routed 3) 1 0).txGood ≠ (getPort f0_routed 3).txGood ∨ (opticalPort (getPort f0_routed 3) 1 0).laneReq ≠ (getPort f0_routed 3).laneReq) ∧
    base.power.state = PState.on ∧
    dieUp base 0 = true ∧
    hubPowered base = true ∧
    arrFenced.power.state ≠ PState.on ∧
    5 < 272 ∧
    l1_w2.power.state = PState.on ∧
    look l1_w2.power.sensorRuns 5 0 = 2 ∧
    ¬5 ∈ l1_w2.power.excluded ∧
    (∀ (j : Nat), j ≠ 5 → look l1_w2.power.sensorRuns j 0 < 3) ∧
    k1_w23.power.state = PState.off ∧
    base.power.state ≠ PState.off ∧
    50 * (max 0 0 - min 0 0) ≤ min 0 0 ∧
    min 0 1 < 50 * (max 0 1 - min 0 1) ∧
    base.power.monitorAt = none ∧
    monitorNew.power.state ≠ PState.off ∧
    monitorNew.power.monitorAt = some 999999999 ∧
    passed monitorNew 999999999 msNs = false ∧
    l1_w2.power.state ≠ PState.off ∧
    l1_w2.power.monitorAt = some 5 ∧
    passed l1_w2 5 msNs = true := by
  and_intros <;> first
    | decide +kernel
    | (unfold Front; decide +kernel)
    | (unfold signalsFree; decide +kernel)
    | (unfold staysUp; decide +kernel)
    | (unfold ixLive; decide +kernel)
    | (unfold colNow; decide +kernel)
    | (unfold WakesNone; decide +kernel)
    | ((repeat' first | decide +kernel | constructor); done)
    | exact ok_of (by decide +kernel)
    | exact error_of (by decide +kernel)
    | exact ok_at (by decide +kernel)
    | exact err_at (by decide +kernel)
    | exact pair_is (by decide +kernel)
    | exact pair_ok_at (by decide +kernel)
    | exact pair_ok_is (by decide +kernel)
    | exact pair_error_is (by decide +kernel)
    | exact writes_at (by decide +kernel)
    | exact wait_of (by decide +kernel)
    | exact align_of (by decide +kernel)
    | exact fault_of (by decide +kernel)
    | exact all_some (by decide +kernel)
    | exact runs_elsewhere (by decide +kernel)
    | (intro _ h; cases h; done)
    | (intro _ _ h; cases h; done)
theorem meets_Management :
    mgmtUp k1_w23 = false ∧
    mboxServes base 0 = false ∧
    mboxServes mboxBadNop 0 = true ∧
    (0 ≠ 34 ∨ mboxWaits mboxBadNop = false) ∧
    firstFail [mboxReserved mboxBadNop []] = some Code.reservedSet ∧
    mboxServes base 33 = false ∧
    mboxServes mboxBadCap 33 = true ∧
    (33 ≠ 34 ∨ mboxWaits mboxBadCap = false) ∧
    firstFail [mboxReserved mboxBadCap [(16, 2)], (capBad (numAt mboxBadCap.mgmt.req 16 2), Code.badField)] = some Code.badField ∧
    mboxServes base 34 = false ∧
    mboxServes mboxBadOff 34 = true ∧
    (34 ≠ 34 ∨ mboxWaits mboxBadOff = false) ∧
    firstFail [mboxReserved mboxBadOff [(16, 1)], (!powTarget (numAt mboxBadOff.mgmt.req 16 1), Code.badField)] = some Code.badField ∧
    mboxServes base 48 = false ∧
    mboxServes mboxBadRead 48 = true ∧
    (48 ≠ 34 ∨ mboxWaits mboxBadRead = false) ∧
    firstFail [mboxReserved mboxBadRead [(16, 5)], (numAt mboxBadRead.mgmt.req 16 4 % 4 != 0, Code.align), (numAt mboxBadRead.mgmt.req 20 1 == 0 || decide (4 < numAt mboxBadRead.mgmt.req 20 1) || decide (4096 < numAt mboxBadRead.mgmt.req 16 4 % 4096 + 4 * numAt mboxBadRead.mgmt.req 20 1) || decide (2 ^ 26 ≤ numAt mboxBadRead.mgmt.req 16 4), Code.badField)] = some Code.align ∧
    mboxServes base 49 = false ∧
    mboxServes l1_w10 49 = true ∧
    (49 ≠ 34 ∨ mboxWaits l1_w10 = false) ∧
    firstFail [mboxReserved l1_w10 [], (!((getCmp l1_w10 7).en && BitVec.getLsbD (getCmp l1_w10 7).arg 1), Code.wrongState)] = some Code.wrongState ∧
    mboxServes base 50 = false ∧
    mboxServes l1_w16 50 = true ∧
    (50 ≠ 34 ∨ mboxWaits l1_w16 = false) ∧
    firstFail ([mboxReserved l1_w16 [(16, 8)], (numAt l1_w16.mgmt.req 16 4 % 4 != 0, Code.align)] ++ ((mgmtWrite l1_w16 (numAt l1_w16.mgmt.req 16 4) (numAt l1_w16.mgmt.req 20 4)).getD ([(true, Code.notOwner)], id)).fst) = some Code.notOwner ∧
    mgmtUp base = true ∧
    i3cErr.err = true ∧
    i3cElse.err = false ∧
    ¬(i3cElse.target.toNat = mgmtAddr base ∧ i3cReaches i3cElse = true) ∧
    mgmtUp l1_w10 = true ∧
    i3cReq.err = false ∧
    i3cReq.target.toNat = mgmtAddr l1_w10 ∧
    i3cReaches i3cReq = true ∧
    i3cReq.read = 0 ∧
    i3cReq.index.toNat = 0 ∧
    i3cReq.data.length = 64 ∧
    l1_w10.mgmt.busy = true ∧
    i3cReq.target.toNat = mgmtAddr base ∧
    base.mgmt.busy = false ∧
    mboxOps.contains (postOp i3cReq.data) = true ∧
    i3cReqBad.err = false ∧
    i3cReqBad.target.toNat = mgmtAddr base ∧
    i3cReaches i3cReqBad = true ∧
    i3cReqBad.read = 0 ∧
    i3cReqBad.index.toNat = 0 ∧
    i3cReqBad.data.length = 64 ∧
    mboxOps.contains (postOp i3cReqBad.data) = false ∧
    i3cShort.err = false ∧
    i3cShort.target.toNat = mgmtAddr base ∧
    i3cReaches i3cShort = true ∧
    i3cShort.read = 0 ∧
    ¬(i3cShort.index.toNat = 0 ∧ i3cShort.data.length = 64) ∧
    i3cResp.err = false ∧
    i3cResp.target.toNat = mgmtAddr base ∧
    i3cReaches i3cResp = true ∧
    i3cResp.read ≠ 0 ∧
    i3cResp.index.toNat < 96 ∧
    i3cStatus.err = false ∧
    i3cStatus.target.toNat = mgmtAddr base ∧
    i3cReaches i3cStatus = true ∧
    i3cStatus.read ≠ 0 ∧
    96 ≤ i3cStatus.index.toNat ∧
    mgmtUp l1_w4 = true ∧
    mboxServes l1_w4 0 = true ∧
    (mboxReserved l1_w4 []).fst = false ∧
    mgmtUp l1_w6 = true ∧
    mboxServes l1_w6 33 = true ∧
    (mboxReserved l1_w6 [(16, 2)]).fst = false ∧
    500 ≤ numAt l1_w6.mgmt.req 16 2 ∧
    numAt l1_w6.mgmt.req 16 2 ≤ 2000 ∧
    capTied l1_w6 = false ∧
    mgmtUp mboxCapTied = true ∧
    mboxServes mboxCapTied 33 = true ∧
    (mboxReserved mboxCapTied [(16, 2)]).fst = false ∧
    500 ≤ numAt mboxCapTied.mgmt.req 16 2 ∧
    numAt mboxCapTied.mgmt.req 16 2 ≤ 2000 ∧
    capTied mboxCapTied = true ∧
    mgmtUp mboxOffWaits = true ∧
    mboxServes mboxOffWaits 34 = true ∧
    mboxWaits mboxOffWaits = true ∧
    mgmtUp mboxOffRuns = true ∧
    mboxServes mboxOffRuns 34 = true ∧
    mboxWaits mboxOffRuns = false ∧
    (mboxReserved mboxOffRuns [(16, 1)]).fst = false ∧
    powTarget (numAt mboxOffRuns.mgmt.req 16 1) = true ∧
    powOut mboxOffRuns (numAt mboxOffRuns.mgmt.req 16 1) = PowOut.ends Code.done ∧
    mgmtUp mboxOffDrains = true ∧
    mboxServes mboxOffDrains 34 = true ∧
    mboxWaits mboxOffDrains = false ∧
    (mboxReserved mboxOffDrains [(16, 1)]).fst = false ∧
    powTarget (numAt mboxOffDrains.mgmt.req 16 1) = true ∧
    powOut mboxOffDrains (numAt mboxOffDrains.mgmt.req 16 1) = PowOut.wait ∧
    mgmtUp l1_w8 = true ∧
    mboxServes l1_w8 34 = true ∧
    mboxWaits l1_w8 = false ∧
    (mboxReserved l1_w8 [(16, 1)]).fst = false ∧
    powTarget (numAt l1_w8.mgmt.req 16 1) = true ∧
    powOut l1_w8 (numAt l1_w8.mgmt.req 16 1) = PowOut.doze ∧
    mgmtUp mboxOffLeaves = true ∧
    mboxServes mboxOffLeaves 34 = true ∧
    mboxWaits mboxOffLeaves = false ∧
    (mboxReserved mboxOffLeaves [(16, 1)]).fst = false ∧
    powTarget (numAt mboxOffLeaves.mgmt.req 16 1) = true ∧
    powOut mboxOffLeaves (numAt mboxOffLeaves.mgmt.req 16 1) = PowOut.run ∧
    mgmtUp l1_w7 = true ∧
    mboxServes l1_w7 34 = true ∧
    mboxWaits l1_w7 = false ∧
    (mboxReserved l1_w7 [(16, 1)]).fst = false ∧
    powTarget (numAt l1_w7.mgmt.req 16 1) = true ∧
    powOut l1_w7 (numAt l1_w7.mgmt.req 16 1) = PowOut.dormant ∧
    numAt l1_w7.mgmt.req 16 1 = 3 ∧
    l1_w7.hide.draining = false ∧
    WakesNone l1_w7 ∧
    numAt l1_w8.mgmt.req 16 1 = 2 ∧
    l1_w8.hide.draining = false ∧
    l1_w8.boot.ready = true ∧
    l1_w8.power.state = PState.on ∧
    l1_w8.power.entering = none ∧
    l1_w8.power.leaving = none ∧
    (∀ (e : Nat × Ctx), e ∈ l1_w8.ctxs → e.snd.state ≠ CState.running ∧ e.snd.state ≠ CState.saving) ∧
    mgmtUp l1_w9 = true ∧
    mboxServes l1_w9 49 = true ∧
    (mboxReserved l1_w9 []).fst = false ∧
    (getCmp l1_w9 7).en = true ∧
    BitVec.getLsbD (getCmp l1_w9 7).arg 1 = true ∧
    (mboxReserved l1_w10 []).fst = false ∧
    ((getCmp l1_w10 7).en = false ∨ BitVec.getLsbD (getCmp l1_w10 7).arg 1 = false) ∧
    mgmtUp mboxNoRead = true ∧
    mboxServes mboxNoRead 48 = true ∧
    (mboxReserved mboxNoRead [(16, 5)]).fst = false ∧
    numAt mboxNoRead.mgmt.req 16 4 % 4 = 0 ∧
    1 ≤ numAt mboxNoRead.mgmt.req 20 1 ∧
    numAt mboxNoRead.mgmt.req 20 1 ≤ 4 ∧
    numAt mboxNoRead.mgmt.req 16 4 % 4096 + 4 * numAt mboxNoRead.mgmt.req 20 1 ≤ 4096 ∧
    numAt mboxNoRead.mgmt.req 16 4 < 2 ^ 26 ∧
    blkOf (numAt mboxNoRead.mgmt.req 16 4 / 4096) = none ∧
    mgmtUp l1_w11 = true ∧
    mboxServes l1_w11 48 = true ∧
    (mboxReserved l1_w11 [(16, 5)]).fst = false ∧
    numAt l1_w11.mgmt.req 16 4 % 4 = 0 ∧
    1 ≤ numAt l1_w11.mgmt.req 20 1 ∧
    numAt l1_w11.mgmt.req 20 1 ≤ 4 ∧
    numAt l1_w11.mgmt.req 16 4 % 4096 + 4 * numAt l1_w11.mgmt.req 20 1 ≤ 4096 ∧
    numAt l1_w11.mgmt.req 16 4 < 2 ^ 26 ∧
    blkOf (numAt l1_w11.mgmt.req 16 4 / 4096) = some Blk.aon ∧
    ((List.range (numAt l1_w11.mgmt.req 20 1)).any fun (i : Nat) => mgmtGated l1_w11 Blk.aon (numAt l1_w11.mgmt.req 16 4 / 4096) (numAt l1_w11.mgmt.req 16 4 % 4096 + 4 * i)) = false ∧
    mgmtUp l1_w12 = true ∧
    mboxServes l1_w12 48 = true ∧
    (mboxReserved l1_w12 [(16, 5)]).fst = false ∧
    numAt l1_w12.mgmt.req 16 4 % 4 = 0 ∧
    1 ≤ numAt l1_w12.mgmt.req 20 1 ∧
    numAt l1_w12.mgmt.req 20 1 ≤ 4 ∧
    numAt l1_w12.mgmt.req 16 4 % 4096 + 4 * numAt l1_w12.mgmt.req 20 1 ≤ 4096 ∧
    numAt l1_w12.mgmt.req 16 4 < 2 ^ 26 ∧
    blkOf (numAt l1_w12.mgmt.req 16 4 / 4096) = some (Blk.core 7) ∧
    ((List.range (numAt l1_w12.mgmt.req 20 1)).any fun (i : Nat) => mgmtGated l1_w12 (Blk.core 7) (numAt l1_w12.mgmt.req 16 4 / 4096) (numAt l1_w12.mgmt.req 16 4 % 4096 + 4 * i)) = true ∧
    passed l1_w11 l1_w11.mgmt.busyAt msNs = true ∧
    (mboxServes base 48 = false ∨ passed base base.mgmt.busyAt msNs = false) ∧
    mgmtUp l1_w13 = true ∧
    mboxServes l1_w13 50 = true ∧
    (mboxReserved l1_w13 [(16, 8)]).fst = false ∧
    numAt l1_w13.mgmt.req 16 4 % 4 = 0 ∧
    mgmtWrite l1_w13 (numAt l1_w13.mgmt.req 16 4) (numAt l1_w13.mgmt.req 20 4) = some (l1_w14, l1_w15) ∧
    firstFail l1_w14 = none ∧
    mgmtUp l1_w16 = true ∧
    (mboxReserved l1_w16 [(16, 8)]).fst = false ∧
    numAt l1_w16.mgmt.req 16 4 % 4 = 0 ∧
    mgmtWrite l1_w16 (numAt l1_w16.mgmt.req 16 4) (numAt l1_w16.mgmt.req 20 4) = none ∧
    numAt l1_w13.mgmt.req 16 4 = 20608 ∧
    numAt l1_w13.mgmt.req 20 4 ≤ 7 := by
  and_intros <;> first
    | decide +kernel
    | (unfold Front; decide +kernel)
    | (unfold signalsFree; decide +kernel)
    | (unfold staysUp; decide +kernel)
    | (unfold ixLive; decide +kernel)
    | (unfold colNow; decide +kernel)
    | (unfold WakesNone; decide +kernel)
    | ((repeat' first | decide +kernel | constructor); done)
    | exact ok_of (by decide +kernel)
    | exact error_of (by decide +kernel)
    | exact ok_at (by decide +kernel)
    | exact err_at (by decide +kernel)
    | exact pair_is (by decide +kernel)
    | exact pair_ok_at (by decide +kernel)
    | exact pair_ok_is (by decide +kernel)
    | exact pair_error_is (by decide +kernel)
    | exact writes_at (by decide +kernel)
    | exact wait_of (by decide +kernel)
    | exact align_of (by decide +kernel)
    | exact fault_of (by decide +kernel)
    | exact all_some (by decide +kernel)
    | exact selects_comparator (by decide +kernel) (by decide +kernel)
    | (intro _ h; cases h; done)
    | (intro _ _ h; cases h; done)

end Sys2Proof.Tests
end

section
/-!
PROOFS. BAR0 outside every page (R33): what the one path of a write and the one path of a read do there, and the statement about
the commands that take those paths.
-/
namespace Sys2Proof.Machine

/-! ### The commands that are one BAR0 access -/

section Access
variable (p : PartId) (off : Bar0) (size : Nat) (val : Word) (s : State)

theorem exec_registerWrite :
    exec (.registerWrite p off size val) s = .next (regWrite s p off.toNat size val.toNat) := rfl
theorem exec_strayBar0Write :
    exec (.strayBar0Write p off val) s = .next (regWrite s p off.toNat 4 val.toNat) := rfl
theorem exec_lowWordWrite :
    exec (.lowWordWrite p off val) s = .next (regWrite s p off.toNat 4 val.toNat) := rfl
theorem exec_highWordWrite :
    exec (.highWordWrite p off val) s = .next (regWrite s p off.toNat 4 val.toNat) := rfl
theorem exec_resourceEnableWrite :
    exec (.resourceEnableWrite p off val) s = .next (regWrite s p off.toNat 4 val.toNat) := rfl
theorem exec_lowWordRead_bar0 :
    exec (.lowWordRead p ⟨false, off, size⟩) s = .next (hostRead s p off.toNat size) := rfl

end Access

/-! ### Outside every page -/

section Outside
variable {s : State} {off : Nat}

/-- A write outside every page, whole or not, counts in STRAY and does nothing else. -/
theorem regWrite_outside (hs : hubPowered s = true) (hb : blkOf (off / 4096) = none) (p size v : Nat) :
    regWrite s p off size v = bump32 s pgPcie 0x048 1 := by
  unfold regWrite
  simp only [hs, hb]
  rfl

/-- A bus read outside every page answers 0. -/
theorem busRead_outside (hs : hubPowered s = true) (hb : blkOf (off / 4096) = none) (p : Nat) :
    busRead s p off = readValue s 0 := by
  unfold busRead
  simp only [hs, hb]
  rfl

/-- Any part of a word that reads 0 is 0. -/
theorem takeBytes_readValue_zero (s : State) (at_ size : Nat) : takeBytes (readValue s 0) at_ size = readValue s 0 := by
  simp [takeBytes, readValue]

/-- The word that holds a byte lies in the byte's page. -/
theorem wordStart_page (off : Nat) : (off - off % 4) / 4096 = off / 4096 := by omega

/-- A read of any size outside every page answers 0: there is no register whose boundary it could cross. -/
theorem hostRead_outside (hs : hubPowered s = true) (hb : blkOf (off / 4096) = none) (p size : Nat) :
    hostRead s p off size = readValue s 0 := by
  have hword : blkOf ((off - off % 4) / 4096) = none := (congrArg blkOf (wordStart_page off)).trans hb
  unfold hostRead
  rw [busRead_outside hs hword, takeBytes_readValue_zero]
  simp [hs, hb]

end Outside

/-- Settles O7: the five writes are one register write, which outside every page does nothing but count in STRAY, and the read is
one host read, which answers 0 there. -/
theorem outsidePages : Obligations.OutsidePages := by
  intro p off size val s hs hb
  have hwrite (size : Nat) : (.next (regWrite s p off.toNat size val.toNat) : Result) = .next (bump32 s pgPcie 0x048 1) :=
    congrArg _ (regWrite_outside hs hb p size val.toNat)
  exact ⟨(exec_strayBar0Write p off val s).trans (hwrite 4), (exec_registerWrite p off size val s).trans (hwrite size),
    (exec_lowWordWrite p off val s).trans (hwrite 4), (exec_highWordWrite p off val s).trans (hwrite 4),
    (exec_resourceEnableWrite p off val s).trans (hwrite 4),
    fun n => (exec_lowWordRead_bar0 p off n s).trans (congrArg _ (hostRead_outside hs hb p n))⟩

end Sys2Proof.Machine
end

section
/-!
PROOFS. Excluded junction sensors (R438): the ceiling of a die with few readings left, the grants under a ceiling, and the trip; with
what temperature readings, grants and a loss of power (R399, R406, R407) do to the power block.
-/
namespace Sys2Proof.Machine

/-! ### The power block's setter -/

@[simp] theorem modPower_power (s : State) (f : Power → Power) : (modPower s f).power = f s.power := rfl
@[simp] theorem getCore_modPower (s : State) (f : Power → Power) (j : Nat) : getCore (modPower s f) j = getCore s j := rfl

/-! ### Causes and ALERT# change pages, notice queues and the QMC's state alone -/

theorem queueNotice_eq (s : State) (p : Nat) (n : Notice) : ∃ parts, queueNotice s p n = { s with parts := parts } := by
  dsimp only [queueNotice]
  split
  · exact ⟨s.parts, rfl⟩
  · split <;> exact ⟨_, rfl⟩

theorem blockNotice_eq (s : State) (pg bits : Nat) : ∃ parts, blockNotice s pg bits = { s with parts := parts } := by
  unfold blockNotice
  exact queueNotice_eq s _ _

theorem raiseCause_eq (s : State) (pg c : Nat) :
    ∃ pages parts, raiseCause s pg c = { s with pages := pages, parts := parts } := by
  unfold raiseCause
  dsimp only
  split
  · exact ⟨_, s.parts, rfl⟩
  · exact ⟨_, blockNotice_eq (setPage s pg _) pg (2 ^ c)⟩

theorem updateAlert_eq (s : State) :
    ∃ pages parts mgmt, updateAlert s = { s with pages := pages, parts := parts, mgmt := mgmt } := by
  dsimp only [updateAlert]
  split
  · obtain ⟨pages, parts, h⟩ := raiseCause_eq { s with mgmt := { s.mgmt with alertLow := alertDriven s.mgmt } } pgQmc 0
    exact ⟨pages, parts, _, h⟩
  · exact ⟨s.pages, s.parts, _, rfl⟩

@[simp] theorem raiseCause_power (s : State) (pg c : Nat) : (raiseCause s pg c).power = s.power := by
  obtain ⟨_, _, h⟩ := raiseCause_eq s pg c
  rw [h]

@[simp] theorem updateAlert_power (s : State) : (updateAlert s).power = s.power := by
  obtain ⟨_, _, _, h⟩ := updateAlert_eq s
  rw [h]

@[simp] theorem alertCause_power (s : State) (i : Nat) : (alertCause s i).power = s.power := updateAlert_power _

@[simp] theorem raise_power (s : State) (pg c : Nat) : (raise s pg c).power = s.power := by
  have hcause (i : Nat) : (alertCause (raiseCause s pg c) i).power = s.power :=
    (alertCause_power _ i).trans (raiseCause_power s pg c)
  unfold raise
  simp only [apply_ite State.power, hcause, raiseCause_power, ite_self]

/-! ### Temperature readings -/

/-- Counting THROTTLE_US moves the start of the count and nothing else of the power block. -/
theorem countThrottle_power (s : State) : ∃ t, (countThrottle s).power = { s.power with throttleAt := t } := by
  unfold countThrottle
  split
  · exact ⟨s.power.throttleAt, rfl⟩
  · exact ⟨_, rfl⟩

theorem foldl_modStack_power (f : Nat → Stack → Stack) (l : List Nat) (s : State) :
    (l.foldl (fun s k => modStack s k (f k)) s).power = s.power := by
  induction l generalizing s with
  | nil => rfl
  | cons k t ih => exact ih _

/-- While the hub is powered, each die's ceiling follows the new readings. -/
theorem readSensors_ceiling {s : State} (hs : hubPowered s = true) (junction hub hbmStacks : List Nat) :
    (readSensors s junction hub hbmStacks).power.ceiling =
      (List.range 4).map (ceilingOf { s.power with junction := junction, hub := hub, stackT := hbmStacks }) := by
  obtain ⟨t, ht⟩ := countThrottle_power s
  have hup : hubPowered (modPower (countThrottle s) (fun x => { x with junction := junction, hub := hub, stackT := hbmStacks })) =
      true := by
    simpa [hubPowered, ht] using hs
  unfold readSensors
  dsimp only
  rw [if_neg (by simp [hup]), apply_ite State.power, raise_power, ite_self, foldl_modStack_power]
  show (List.range 4).map (ceilingOf { (countThrottle s).power with junction := junction, hub := hub, stackT := hbmStacks }) = _
  rw [ht]
  rfl

/-- New readings leave a die as many sensors as it had: an exclusion is no reading. -/
theorem dieReadings_length_reading (x : Power) (junction hub hbmStacks : List Nat) (d : Nat) :
    (dieReadings { x with junction := junction, hub := hub, stackT := hbmStacks } d).length = (dieReadings x d).length := by
  simp [dieReadings]

theorem ceilingOf_le_of_few {x : Power} {d : Nat} (h : (dieReadings x d).length < 48) : ceilingOf x d ≤ 32 := by
  simp only [ceilingOf, if_pos h]
  exact Nat.min_le_left ..

theorem nth_map_range {f : Nat → Nat} {n d : Nat} (h : d < n) : nth ((List.range n).map f) d = f d := by
  simp [nth, h]

@[simp] theorem cmpWatch_ceiling (s : State) : (cmpWatch s).power.ceiling = s.power.ceiling := rfl

theorem exec_sensorRead {s : State} (hs : s.power.state ≠ .off) (junction hub hbmStacks : List Nat) :
    exec (.sensorRead junction hub hbmStacks) s = .next (cmpWatch (readSensors s junction hub hbmStacks)) :=
  congrArg Host.Outcome.next (if_neg (by simpa using hs))

/-! ### Grants -/

theorem grantCore_step_le (s : State) (k c : Nat) : (getCore (grantCore s k c) c).step ≤ k := by
  rw [grantCore, modCore_eq, getCore_setCore]
  exact Nat.le_trans (Nat.min_le_right ..) (Nat.min_le_left ..)

/-- A grant raises no core's step: an increase waits for the ramp. -/
theorem grantCore_step_mono (s : State) (k c j : Nat) : (getCore (grantCore s k c) j).step ≤ (getCore s j).step := by
  rw [grantCore, modCore_eq]
  by_cases h : j = c
  · subst h
    rw [getCore_setCore]
    exact Nat.min_le_left ..
  · exact Nat.le_of_eq (congrArg Core.step (getCore_setCore_of_ne _ _ _ h))

section Fold
variable {α : Type} {f : State → α → State} (hf : ∀ s a j, (getCore (f s a) j).step ≤ (getCore s j).step)
include hf

theorem foldl_step_mono (l : List α) (s : State) (j : Nat) : (getCore (l.foldl f s) j).step ≤ (getCore s j).step := by
  induction l generalizing s with
  | nil => exact Nat.le_refl _
  | cons a t ih => exact Nat.le_trans (ih _) (hf s a j)

/-- Where nothing raises a core's step, a bound that one element of the list sets holds at the end. -/
theorem foldl_step_le {l : List α} {a : α} (ha : a ∈ l) {j k : Nat} (hk : ∀ s, (getCore (f s a) j).step ≤ k) (s : State) :
    (getCore (l.foldl f s) j).step ≤ k := by
  induction l generalizing s with
  | nil => cases ha
  | cons b t ih =>
    rcases List.mem_cons.1 ha with rfl | ht
    · exact Nat.le_trans (foldl_step_mono hf t _ j) (hk s)
    · exact ih ht _

end Fold

/-- Grants given die by die leave a core of a die at most at the die's step, whatever the other dies' grants are. -/
theorem grantDies_step_le {live : Nat → List Nat} {d c : Nat} (hd : d < 4) (hc : c ∈ live d) (steps : List Nat) (s : State) :
    (getCore ((List.range 4).foldl (fun s d => (live d).foldl (fun s c => grantCore s (nth steps d) c) s) s) c).step ≤
      nth steps d := by
  have hmono (d : Nat) (s : State) (c j : Nat) := grantCore_step_mono s (nth steps d) c j
  exact foldl_step_le (fun s d => foldl_step_mono (hmono d) (live d) s) (List.mem_range.2 hd)
    (foldl_step_le (hmono d) hc (grantCore_step_le · _ c)) s

/-- An allocation gives each die a step within its ceiling (and at least 1), and each core that takes part runs within its die's. -/
theorem grantAllocate_within_ceiling {s : State} (hs : s.power.state = .on) {d : Nat} (hd : d < 4) (unit : List Nat) :
    Runs (.grantAllocate unit) s (fun t => nth t.power.dieStep d ≤ max 1 (nth s.power.ceiling d) ∧
      ∀ c ∈ grantedCores s d, (getCore t c).step ≤ nth t.power.dieStep d) := by
  refine ⟨_, congrArg Host.Outcome.next (if_neg (by simp [hs])), ?_, fun c hc => ?_⟩
  · simp only [modPower_power, nth_map_range hd]
    exact Nat.min_le_right ..
  · rw [getCore_modPower]
    exact grantDies_step_le hd hc _ s

/-! ### The loss of power of R407 -/

/-- What a wake leaves alone, a bring-up included: the trip, and what the cores, contexts and HBM hold. -/
structure WakeKeeps (s t : State) : Prop where
  tripped : t.power.tripped = s.power.tripped
  cores : t.cores = s.cores
  ctxs : t.ctxs = s.ctxs
  hbm : t.hbm = s.hbm

theorem WakeKeeps.refl (s : State) : WakeKeeps s s := ⟨rfl, rfl, rfl, rfl⟩

theorem wakeNow_wakeKeeps (s : State) : WakeKeeps s (wakeNow s) := by
  unfold wakeNow
  split
  · exact ⟨rfl, rfl, rfl, rfl⟩
  · exact ⟨rfl, rfl, rfl, rfl⟩
  · exact .refl s

theorem wake_wakeKeeps (s : State) : WakeKeeps s (wake s) := by
  unfold wake
  split
  · exact .refl s
  · split
    · exact ⟨rfl, rfl, rfl, rfl⟩
    · exact wakeNow_wakeKeeps s

theorem wakeFired_wakeKeeps (s : State) : WakeKeeps s (wakeFired s) := by
  unfold wakeFired
  split
  · exact wake_wakeKeeps s
  · exact .refl s

/-- With no fired comparator that has WAKE, nothing wakes the module. -/
theorem wakeFired_of_wakesNone {s : State} (h : WakesNone s) : wakeFired s = s := by
  refine if_neg ?_
  simp only [List.any_eq_true, List.mem_range, Bool.and_eq_true, not_exists, not_and]
  intro k hk hfired hwake
  rcases h k hk with hf | hw
  · simp [hf] at hfired
  · simp [hw] at hwake

/-- The state of a loss of power, before any wake: DORMANT with empty cores, contexts and HBM; the trip and the comparators stay. -/
theorem enterDormant_eq (s : State) (cause : Nat) : ∃ u, enterDormant s cause = wakeFired u ∧ u.power.state = .dormant ∧
    u.power.tripped = s.power.tripped ∧ u.power.comps = s.power.comps ∧ u.cores = [] ∧ u.ctxs = [] ∧ u.hbm = [] := by
  obtain ⟨t, ht⟩ := countThrottle_power s
  refine ⟨_, rfl, ?_⟩
  simp only [updateAlert_power, ht, true_and]
  obtain ⟨_, _, _, hu⟩ := updateAlert_eq _
  rw [hu]
  exact ⟨rfl, rfl, rfl⟩

theorem tripNow_of_fewSensors {x : Power} {d : Nat} (hd : d < 4)
    (h : (dieReadings x d).length < 16 ∨ (hubReadings x).length < 16) : tripNow x = true := by
  simp only [tripNow, Bool.or_eq_true, decide_eq_true_eq, List.any_eq_true, List.mem_range]
  exact h.elim (fun hdie => .inr ⟨d, hd, hdie⟩) (fun hhub => .inl (.inr hhub))

/-- A trip while the hub is powered takes the power of every domain but ALWAYS_ON. -/
theorem exec_thermalTrip_powered {s : State} (hp : hubPowered s = true) (ht : tripNow s.power = true) :
    exec .thermalTrip s = .next (enterDormant (modPower s (fun x => { x with tripped := true })) 2) := by
  have hoff : s.power.state ≠ .off := fun h => by simp [hubPowered, h] at hp
  refine congrArg Host.Outcome.next ((if_neg ?_).trans (if_pos hp))
  simp [hoff, ht]

theorem thermalTrip_runs {s : State} (hp : hubPowered s = true) (ht : tripNow s.power = true) :
    Runs .thermalTrip s (fun t => t.power.tripped = true ∧ t.cores = [] ∧ t.ctxs = [] ∧ t.hbm = [] ∧
      (WakesNone s → t.power.state = .dormant)) := by
  obtain ⟨u, hu, hstate, htripped, hcomps, hcores, hctxs, hhbm⟩ :=
    enterDormant_eq (modPower s (fun x => { x with tripped := true })) 2
  have hkeeps := wakeFired_wakeKeeps u
  refine ⟨wakeFired u, (exec_thermalTrip_powered hp ht).trans (congrArg _ hu), hkeeps.tripped.trans htripped,
    hkeeps.cores.trans hcores, hkeeps.ctxs.trans hctxs, hkeeps.hbm.trans hhbm, fun hw => ?_⟩
  have hwu : WakesNone u := fun k hk => by
    have hget : getCmp u k = getCmp s k := congrArg (look · k ({} : Comparator)) hcomps
    rw [hget]
    exact hw k hk
  rw [wakeFired_of_wakesNone hwu, hstate]

theorem hubPowered_of_on {s : State} (hs : s.power.state = .on) : hubPowered s = true := by
  simp [hubPowered, hs]

/-- Settles O56: the ceiling of a die with few readings is at most 32, an allocation keeps to it, and with fewer than 16 of the
die's or the hub's sensors left the trip's condition holds. -/
theorem fewSensors : Obligations.FewSensors := by
  intro junction hub hbmStacks unit d s hd hs
  refine ⟨fun hfew => ?_, fun hceil => ?_, fun hfew => ?_⟩
  · refine ⟨_, exec_sensorRead (by simp [hs]) junction hub hbmStacks, ?_⟩
    show nth (cmpWatch _).power.ceiling d ≤ 32
    rw [cmpWatch_ceiling, readSensors_ceiling (hubPowered_of_on hs), nth_map_range hd]
    exact ceilingOf_le_of_few (Nat.lt_of_le_of_lt (Nat.le_of_eq (dieReadings_length_reading ..)) hfew)
  · obtain ⟨t, hexec, hdie, hcores⟩ := grantAllocate_within_ceiling hs hd unit
    have hstep : nth t.power.dieStep d ≤ 32 := Nat.le_trans hdie (Nat.max_le.2 ⟨by decide, hceil⟩)
    exact ⟨t, hexec, hstep, fun c hc => Nat.le_trans (hcores c hc) hstep⟩
  · exact thermalTrip_runs (hubPowered_of_on hs) (tripNow_of_fewSensors hd hfew)

end Sys2Proof.Machine
end

section
/-!
PROOFS. What every command of the table leaves alone: the case split over the commands, once, and the statements about the whole
module that follow from it (the queue, the invariant of R195, R334 and R431, the guarded state, and the commands that store nothing).
-/
namespace Sys2Proof.Machine

/-! ### The four commands that are no frame -/

/-- Everything that `Keeps false` names stays, but for the partitions of the cores. -/
def KeepsButParts (s t : State) : Prop := Keeps false s { t with corePart := s.corePart }

theorem Keeps.butParts {s t : State} (h : Keeps false s t) : KeepsButParts s t :=
  ⟨h.queue, h.lcState, h.lcCount, h.identity, h.lcPending, h.lcNext, .inl rfl, h.hbm, h.bytes⟩

theorem KeepsButParts.trans_keeps {s t u : State} (a : KeepsButParts s t) (b : Keeps false t u) : KeepsButParts s u :=
  ⟨b.queue.trans a.queue, b.lcState.trans a.lcState, b.lcCount.trans a.lcCount, b.identity.trans a.identity,
    b.lcPending.trans a.lcPending, b.lcNext.trans a.lcNext, .inl rfl, b.hbm ∘ a.hbm, fun h => (b.bytes h).trans (a.bytes h)⟩

theorem takePost_butParts (s : State) (c op : Nat) (act : State → PostRef → List Byte → State)
    (ha : ∀ u r d, Keeps false s u → KeepsButParts s (act u r d)) : KeepsButParts s (takePost s c op act) := by
  unfold takePost
  split
  · exact (Keeps.refl s).butParts
  · split
    · exact (Keeps.refl s).butParts
    · rename_i q rest _ _
      have hs := addEvent_keeps _ pgPost 1 (returnCredit_keeps _ c
        (modCtx_keeps s c (fun x => { x with posts := rest }) (.refl (wr := false) s)))
      extract_lets
      split
      · exact (endUndefinedAll_keeps _ _ (completePost_keeps _ _ _ _ _ hs)).butParts
      · exact (ha _ _ _ hs).trans_keeps (endUndefinedAll_keeps _ _ (.refl _))

theorem takePostIf_butParts (s : State) (c op : Nat) (ready : List Byte → Bool) (act : State → PostRef → List Byte → State)
    (ha : ∀ u r d, Keeps false s u → KeepsButParts s (act u r d)) : KeepsButParts s (takePostIf s c op ready act) := by
  unfold takePostIf
  split
  · exact (Keeps.refl s).butParts
  · split
    · exact (Keeps.refl s).butParts
    · exact takePost_butParts s c op act ha

/-- PART_SET moves cores and contexts between partitions and touches neither the record nor the HBM. -/
theorem execPartSet_butParts {c : CtxId} {s t : State} (h : execPartSet c s = .next t) : KeepsButParts s t := by
  unfold execPartSet at h
  injection h with h
  subst h
  refine takePostIf_butParts _ _ _ _ _ (fun u r d hk => ?_)
  extract_lets p first count addr got bits unread inBits inCtx movesCtx movesCore busy
  split
  · exact (completePost_keeps _ _ _ _ _ hk).butParts
  · rename_i s1 s2 _ _
    have h1 : Keeps false s s1 := keeps_foldl hk (fun _ _ h => modCtx_keeps _ _ _ h)
    have h2 : KeepsButParts s s2 := ⟨h1.queue, h1.lcState, h1.lcCount, h1.identity, h1.lcPending, h1.lcNext, .inl rfl, h1.hbm, h1.bytes⟩
    exact h2.trans_keeps (completePost_keeps _ _ _ _ _ (.refl _))

/-- A life-cycle check writes a pending transition and its count, and nothing else of the guarded state. -/
theorem execLcCheckDone_frame {s t : State} (h : execLcCheckDone s = .next t) :
    t.record.lcState = s.record.lcState ∧ t.record.identity = s.record.identity ∧ t.corePart = s.corePart ∧ t.hbm = s.hbm := by
  unfold execLcCheckDone at h
  injection h with h
  subst h
  split
  · exact ⟨rfl, rfl, rfl, rfl⟩
  · split <;> exact ⟨rfl, rfl, rfl, rfl⟩

theorem endPower_corePart (s : State) : (endPower s).corePart = s.corePart ∨ (endPower s).corePart = [] := by
  have hk : Keeps true (applyLifecycle s) (endPower s) := by
    unfold endPower
    exact toPhase_keeps _ _ (modBoot_keeps _ _ (freshNat_keeps _ (drainRecorded_keeps _ (.refl _))))
  exact hk.corePart.imp id And.right

theorem execBringupPowerDone_corePart {s t : State} (h : execBringupPowerDone s = .next t) :
    t.corePart = s.corePart ∨ t.corePart = [] := by
  unfold execBringupPowerDone at h
  injection h with h
  subst h
  split
  · exact endPower_corePart s
  · exact .inl rfl

theorem execBringupOverrun_corePart {hub : Bool} {die : DieId} {s t : State} (h : execBringupOverrun hub die s = .next t) :
    t.corePart = s.corePart ∨ t.corePart = [] := by
  have lost (u : State) (unit : Nat) : (bootDieLost u die unit).corePart = u.corePart ∨ (bootDieLost u die unit).corePart = [] :=
    (bootDieLost_keeps u die unit (.refl (wr := true) u)).corePart.imp id And.right
  unfold execBringupOverrun at h
  injection h with h
  subst h
  split
  · exact .inl rfl
  · split
    · split
      · exact (enterDormant_keeps _ _ (bootFail_keeps _ _ _ (.refl (wr := true) s))).corePart.imp id And.right
      · exact (lost _ 7).elim (fun e => (endPower_corePart s).imp e.trans e.trans) .inr
    · split
      · exact lost s 6
      · split
        · exact lost s 6
        · exact .inl rfl

/-! ### Every command -/

/-- The commands that do more than `Keeps` says: the end of POWER, a life-cycle check, and PART_SET. -/
inductive Guarded : Instr → Prop
  | lcCheckDone : Guarded .lcCheckDone
  | partSet (k : CtxId) : Guarded (.partSet k)
  | bringupPowerDone : Guarded .bringupPowerDone
  | bringupOverrun (hub : Bool) (die : DieId) : Guarded (.bringupOverrun hub die)

/-- Every command but the four is a frame, and those that `leavesMemory` names leave every byte of the HBM. -/
theorem exec_keeps {c : Instr} {s t : State} (h : exec c s = .next t) : Keeps (!leavesMemory c) s t ∨ Guarded c := by
  cases c with
  | lcCheckDone => exact .inr .lcCheckDone
  | partSet k => exact .inr (.partSet k)
  | bringupPowerDone => exact .inr .bringupPowerDone
  | bringupOverrun hub die => exact .inr (.bringupOverrun hub die)
  | registerWrite => exact .inl (execRegisterWrite_keeps (hk := .refl _) (h := h) ..)
  | strayBar0Write => exact .inl (execStrayBar0Write_keeps (hk := .refl _) (h := h) ..)
  | rejectClr => exact .inl (execRejectClr_keeps (hk := .refl _) (h := h) ..)
  | release => exact .inl (execRelease_keeps (hk := .refl _) (h := h) ..)
  | noticeMaskWrite => exact .inl (execNoticeMaskWrite_keeps (hk := .refl _) (h := h) ..)
  | lowWordRead => exact .inl (execLowWordRead_keeps (hk := .refl _) (h := h) ..)
  | lowWordWrite => exact .inl (execLowWordWrite_keeps (hk := .refl _) (h := h) ..)
  | highWordWrite => exact .inl (execHighWordWrite_keeps (hk := .refl _) (h := h) ..)
  | milestoneViewRead => exact .inl (execMilestoneViewRead_keeps (hk := .refl _) (h := h) ..)
  | resourceEnableWrite => exact .inl (execResourceEnableWrite_keeps (hk := .refl _) (h := h) ..)
  | frClear => exact .inl (execFrClear_keeps (hk := .refl _) (h := h) ..)
  | laInvalidate => exact .inl (execLaInvalidate_keeps (hk := .refl _) (h := h) ..)
  | telSelWrite => exact .inl (execTelSelWrite_keeps (hk := .refl _) (h := h) ..)
  | telDepthRead => exact .inl (execTelDepthRead_keeps (hk := .refl _) (h := h) ..)
  | poisonLogRead => exact .inl (execPoisonLogRead_keeps (hk := .refl _) (h := h) ..)
  | fmRead => exact .inl (execFmRead_keeps (hk := .refl _) (h := h) ..)
  | fmWrite => exact .inl (execFmWrite_keeps (hk := .refl _) (h := h) ..)
  | fmInvalidate => exact .inl (execFmInvalidate_keeps (hk := .refl _) (h := h) ..)
  | fmRetire => exact .inl (execFmRetire_keeps (hk := .refl _) (h := h) ..)
  | fmOpDone => exact .inl (execFmOpDone_keeps (hk := .refl _) (h := h) ..)
  | fmPoison => exact .inl (execFmPoison_keeps (hk := .refl _) (h := h) ..)
  | rlcFlushStart => exact .inl (execRlcFlushStart_keeps (hk := .refl _) (h := h) ..)
  | rlcFlushAll => exact .inl (execRlcFlushAll_keeps (hk := .refl _) (h := h) ..)
  | rlcFlushDone => exact .inl (execRlcFlushDone_keeps (hk := .refl _) (h := h) ..)
  | rtRead => exact .inl (execRtRead_keeps (hk := .refl _) (h := h) ..)
  | rtWrite => exact .inl (execRtWrite_keeps (hk := .refl _) (h := h) ..)
  | rtCopy => exact .inl (execRtCopy_keeps (hk := .refl _) (h := h) ..)
  | rtSwap => exact .inl (execRtSwap_keeps (hk := .refl _) (h := h) ..)
  | rtClear => exact .inl (execRtClear_keeps (hk := .refl _) (h := h) ..)
  | rtOpDone => exact .inl (execRtOpDone_keeps (hk := .refl _) (h := h) ..)
  | holdWrite => exact .inl (execHoldWrite_keeps (hk := .refl _) (h := h) ..)
  | planOpen => exact .inl (execPlanOpen_keeps (hk := .refl _) (h := h) ..)
  | planApply => exact .inl (execPlanApply_keeps (hk := .refl _) (h := h) ..)
  | planApplyDone => exact .inl (execPlanApplyDone_keeps (hk := .refl _) (h := h) ..)
  | rstReqCore => exact .inl (execRstReqCore_keeps (hk := .refl _) (h := h) ..)
  | rstReqKerb => exact .inl (execRstReqKerb_keeps (hk := .refl _) (h := h) ..)
  | rstReqPort => exact .inl (execRstReqPort_keeps (hk := .refl _) (h := h) ..)
  | rstReqBypass => exact .inl (execRstReqBypass_keeps (hk := .refl _) (h := h) ..)
  | rstReqDie => exact .inl (execRstReqDie_keeps (hk := .refl _) (h := h) ..)
  | capWWrite => exact .inl (execCapWWrite_keeps (hk := .refl _) (h := h) ..)
  | tokenDataWrite => exact .inl (execTokenDataWrite_keeps (hk := .refl _) (h := h) ..)
  | lcGo => exact .inl (execLcGo_keeps (hk := .refl _) (h := h) ..)
  | replaceClr => exact .inl (execReplaceClr_keeps (hk := .refl _) (h := h) ..)
  | postArrival => exact .inl (execPostArrival_keeps (hk := .refl _) (h := h) ..)
  | nop => exact .inl (execNop_keeps (hk := .refl _) (h := h) ..)
  | noticeArea => exact .inl (execNoticeArea_keeps (hk := .refl _) (h := h) ..)
  | window => exact .inl (execWindow_keeps (hk := .refl _) (h := h) ..)
  | create => exact .inl (execCreate_keeps (hk := .refl _) (h := h) ..)
  | run => exact .inl (execRun_keeps (hk := .refl _) (h := h) ..)
  | preempt => exact .inl (execPreempt_keeps (hk := .refl _) (h := h) ..)
  | destroy => exact .inl (execDestroy_keeps (hk := .refl _) (h := h) ..)
  | signal => exact .inl (execSignal_keeps (hk := .refl _) (h := h) ..)
  | flush => exact .inl (execFlush_keeps (hk := .refl _) (h := h) ..)
  | kerbArm => exact .inl (execKerbArm_keeps (hk := .refl _) (h := h) ..)
  | ixArm => exact .inl (execIxArm_keeps (hk := .refl _) (h := h) ..)
  | ixDisarm => exact .inl (execIxDisarm_keeps (hk := .refl _) (h := h) ..)
  | colArm => exact .inl (execColArm_keeps (hk := .refl _) (h := h) ..)
  | colDisarm => exact .inl (execColDisarm_keeps (hk := .refl _) (h := h) ..)
  | cap => exact .inl (execCap_keeps (hk := .refl _) (h := h) ..)
  | powerOff => exact .inl (execPowerOff_keeps (hk := .refl _) (h := h) ..)
  | fwLoad => exact .inl (execFwLoad_keeps (hk := .refl _) (h := h) ..)
  | attest => exact .inl (execAttest_keeps (hk := .refl _) (h := h) ..)
  | attestDone => exact .inl (execAttestDone_keeps (hk := .refl _) (h := h) ..)
  | creditNotice => exact .inl (execCreditNotice_keeps (hk := .refl _) (h := h) ..)
  | noticeDequeue => exact .inl (execNoticeDequeue_keeps (hk := .refl _) (h := h) ..)
  | bar4Read => exact .inl (execBar4Read_keeps (hk := .refl _) (h := h) ..)
  | bar4Write => exact .inl (execBar4Write_keeps (hk := .refl _) (h := h) ..)
  | functionLevelReset => exact .inl (execFunctionLevelReset_keeps (hk := .refl _) (h := h) ..)
  | hotReset => exact .inl (execHotReset_keeps (hk := .refl _) (h := h) ..)
  | perstAssert => exact .inl (execPerstAssert_keeps (hk := .refl _) (h := h) ..)
  | perstDeassert => exact .inl (execPerstDeassert_keeps (hk := .refl _) (h := h) ..)
  | linkChange => exact .inl (execLinkChange_keeps (hk := .refl _) (h := h) ..)
  | seqNop => exact .inl (execSeqNop_keeps (hk := .refl _) (h := h) ..)
  | jump => exact .inl (execJump_keeps (hk := .refl _) (h := h) ..)
  | setloop => exact .inl (execSetloop_keeps (hk := .refl _) (h := h) ..)
  | loop => exact .inl (execLoop_keeps (hk := .refl _) (h := h) ..)
  | branch => exact .inl (execBranch_keeps (hk := .refl _) (h := h) ..)
  | branchResolve => exact .inl (execBranchResolve_keeps (hk := .refl _) (h := h) ..)
  | tdLoad => exact .inl (execTdLoad_keeps (hk := .refl _) (h := h) ..)
  | tdLoadDone => exact .inl (execTdLoadDone_keeps (hk := .refl _) (h := h) ..)
  | save => exact .inl (execSave_keeps (hk := .refl _) (h := h) ..)
  | halt => exact .inl (execHalt_keeps (hk := .refl _) (h := h) ..)
  | fetchLineReturn => exact .inl (execFetchLineReturn_keeps (hk := .refl _) (h := h) ..)
  | instructionStart => exact .inl (execInstructionStart_keeps (hk := .refl _) (h := h) ..)
  | mm => exact .inl (execMm_keeps (hk := .refl _) (h := h) ..)
  | mma => exact .inl (execMma_keeps (hk := .refl _) (h := h) ..)
  | lrFillDone => exact .inl (execLrFillDone_keeps (hk := .refl _) (h := h) ..)
  | lrStreamToken => exact .inl (execLrStreamToken_keeps (hk := .refl _) (h := h) ..)
  | lrPassEnd => exact .inl (execLrPassEnd_keeps (hk := .refl _) (h := h) ..)
  | lrComplete => exact .inl (execLrComplete_keeps (hk := .refl _) (h := h) ..)
  | lrDummyStepDown => exact .inl (execLrDummyStepDown_keeps (hk := .refl _) (h := h) ..)
  | lrStop => exact .inl (execLrStop_keeps (hk := .refl _) (h := h) ..)
  | opm => exact .inl (execOpm_keeps (hk := .refl _) (h := h) ..)
  | opma => exact .inl (execOpma_keeps (hk := .refl _) (h := h) ..)
  | opFillDone => exact .inl (execOpFillDone_keeps (hk := .refl _) (h := h) ..)
  | opPassEnd => exact .inl (execOpPassEnd_keeps (hk := .refl _) (h := h) ..)
  | opComplete => exact .inl (execOpComplete_keeps (hk := .refl _) (h := h) ..)
  | opDummyStepDown => exact .inl (execOpDummyStepDown_keeps (hk := .refl _) (h := h) ..)
  | opStop => exact .inl (execOpStop_keeps (hk := .refl _) (h := h) ..)
  | cvt => exact .inl (execCvt_keeps (hk := .refl _) (h := h) ..)
  | vxAdd => exact .inl (execVxAdd_keeps (hk := .refl _) (h := h) ..)
  | vxSub => exact .inl (execVxSub_keeps (hk := .refl _) (h := h) ..)
  | vxMul => exact .inl (execVxMul_keeps (hk := .refl _) (h := h) ..)
  | vxFma => exact .inl (execVxFma_keeps (hk := .refl _) (h := h) ..)
  | scale => exact .inl (execScale_keeps (hk := .refl _) (h := h) ..)
  | argmax => exact .inl (execArgmax_keeps (hk := .refl _) (h := h) ..)
  | argmin => exact .inl (execArgmin_keeps (hk := .refl _) (h := h) ..)
  | rowsum => exact .inl (execRowsum_keeps (hk := .refl _) (h := h) ..)
  | exp => exact .inl (execExp_keeps (hk := .refl _) (h := h) ..)
  | log => exact .inl (execLog_keeps (hk := .refl _) (h := h) ..)
  | rsqrt => exact .inl (execRsqrt_keeps (hk := .refl _) (h := h) ..)
  | recip => exact .inl (execRecip_keeps (hk := .refl _) (h := h) ..)
  | tanh => exact .inl (execTanh_keeps (hk := .refl _) (h := h) ..)
  | erf => exact .inl (execErf_keeps (hk := .refl _) (h := h) ..)
  | maxmin => exact .inl (execMaxmin_keeps (hk := .refl _) (h := h) ..)
  | vxComplete => exact .inl (execVxComplete_keeps (hk := .refl _) (h := h) ..)
  | vxStop => exact .inl (execVxStop_keeps (hk := .refl _) (h := h) ..)
  | get => exact .inl (execGet_keeps (hk := .refl _) (h := h) ..)
  | put => exact .inl (execPut_keeps (hk := .refl _) (h := h) ..)
  | acc => exact .inl (execAcc_keeps (hk := .refl _) (h := h) ..)
  | accOrd => exact .inl (execAccOrd_keeps (hk := .refl _) (h := h) ..)
  | cmbOpen => exact .inl (execCmbOpen_keeps (hk := .refl _) (h := h) ..)
  | runAheadReturn => exact .inl (execRunAheadReturn_keeps (hk := .refl _) (h := h) ..)
  | laMissReturn => exact .inl (execLaMissReturn_keeps (hk := .refl _) (h := h) ..)
  | getDataReturn => exact .inl (execGetDataReturn_keeps (hk := .refl _) (h := h) ..)
  | putAck => exact .inl (execPutAck_keeps (hk := .refl _) (h := h) ..)
  | cwWindowIncrease => exact .inl (execCwWindowIncrease_keeps (hk := .refl _) (h := h) ..)
  | accArrival => exact .inl (execAccArrival_keeps (hk := .refl _) (h := h) ..)
  | accOrdArrival => exact .inl (execAccOrdArrival_keeps (hk := .refl _) (h := h) ..)
  | accAck => exact .inl (execAccAck_keeps (hk := .refl _) (h := h) ..)
  | msSet => exact .inl (execMsSet_keeps (hk := .refl _) (h := h) ..)
  | msAdd => exact .inl (execMsAdd_keeps (hk := .refl _) (h := h) ..)
  | msBinit => exact .inl (execMsBinit_keeps (hk := .refl _) (h := h) ..)
  | msArrive => exact .inl (execMsArrive_keeps (hk := .refl _) (h := h) ..)
  | msTwait => exact .inl (execMsTwait_keeps (hk := .refl _) (h := h) ..)
  | twaitExpiry => exact .inl (execTwaitExpiry_keeps (hk := .refl _) (h := h) ..)
  | msAddArrival => exact .inl (execMsAddArrival_keeps (hk := .refl _) (h := h) ..)
  | msAddAck => exact .inl (execMsAddAck_keeps (hk := .refl _) (h := h) ..)
  | remoteAddArrival => exact .inl (execRemoteAddArrival_keeps (hk := .refl _) (h := h) ..)
  | addRetry => exact .inl (execAddRetry_keeps (hk := .refl _) (h := h) ..)
  | barrierArrival => exact .inl (execBarrierArrival_keeps (hk := .refl _) (h := h) ..)
  | barrierRoundComplete => exact .inl (execBarrierRoundComplete_keeps (hk := .refl _) (h := h) ..)
  | barrierReleaseArrival => exact .inl (execBarrierReleaseArrival_keeps (hk := .refl _) (h := h) ..)
  | grantLend => exact .inl (execGrantLend_keeps (hk := .refl _) (h := h) ..)
  | engineFault => exact .inl (execEngineFault_keeps (hk := .refl _) (h := h) ..)
  | replayStopped => exact .inl (execReplayStopped_keeps (hk := .refl _) (h := h) ..)
  | preemptPhase1Done => exact .inl (execPreemptPhase1Done_keeps (hk := .refl _) (h := h) ..)
  | imageComplete => exact .inl (execImageComplete_keeps (hk := .refl _) (h := h) ..)
  | preemptOverrun => exact .inl (execPreemptOverrun_keeps (hk := .refl _) (h := h) ..)
  | kerbDescriptorRead => exact .inl (execKerbDescriptorRead_keeps (hk := .refl _) (h := h) ..)
  | kerbTrigger => exact .inl (execKerbTrigger_keeps (hk := .refl _) (h := h) ..)
  | kerbBlockStep => exact .inl (execKerbBlockStep_keeps (hk := .refl _) (h := h) ..)
  | residueExpiry => exact .inl (execResidueExpiry_keeps (hk := .refl _) (h := h) ..)
  | kerbShareDone => exact .inl (execKerbShareDone_keeps (hk := .refl _) (h := h) ..)
  | kerbSignalRetry => exact .inl (execKerbSignalRetry_keeps (hk := .refl _) (h := h) ..)
  | kerbPause => exact .inl (execKerbPause_keeps (hk := .refl _) (h := h) ..)
  | chunkReductionDone => exact .inl (execChunkReductionDone_keeps (hk := .refl _) (h := h) ..)
  | channelAccess => exact .inl (execChannelAccess_keeps (hk := .refl _) (h := h) ..)
  | scrubRead => exact .inl (execScrubRead_keeps (hk := .refl _) (h := h) ..)
  | rlcFill => exact .inl (execRlcFill_keeps (hk := .refl _) (h := h) ..)
  | maintWindowOpen => exact .inl (execMaintWindowOpen_keeps (hk := .refl _) (h := h) ..)
  | maintWindowClose => exact .inl (execMaintWindowClose_keeps (hk := .refl _) (h := h) ..)
  | maintWindowAbandon => exact .inl (execMaintWindowAbandon_keeps (hk := .refl _) (h := h) ..)
  | stackLost => exact .inl (execStackLost_keeps (hk := .refl _) (h := h) ..)
  | reservationGrant => exact .inl (execReservationGrant_keeps (hk := .refl _) (h := h) ..)
  | bridgeFlitReceive => exact .inl (execBridgeFlitReceive_keeps (hk := .refl _) (h := h) ..)
  | handshakeLost => exact .inl (execHandshakeLost_keeps (hk := .refl _) (h := h) ..)
  | linkFlitReceive => exact .inl (execLinkFlitReceive_keeps (hk := .refl _) (h := h) ..)
  | linkFlitSend => exact .inl (execLinkFlitSend_keeps (hk := .refl _) (h := h) ..)
  | transitPacket => exact .inl (execTransitPacket_keeps (hk := .refl _) (h := h) ..)
  | arrivalPacket => exact .inl (execArrivalPacket_keeps (hk := .refl _) (h := h) ..)
  | requestTimeout => exact .inl (execRequestTimeout_keeps (hk := .refl _) (h := h) ..)
  | portRetrain => exact .inl (execPortRetrain_keeps (hk := .refl _) (h := h) ..)
  | lightOn => exact .inl (execLightOn_keeps (hk := .refl _) (h := h) ..)
  | lightLoss => exact .inl (execLightLoss_keeps (hk := .refl _) (h := h) ..)
  | trainStepDone => exact .inl (execTrainStepDone_keeps (hk := .refl _) (h := h) ..)
  | identReceive => exact .inl (execIdentReceive_keeps (hk := .refl _) (h := h) ..)
  | trainTimeout => exact .inl (execTrainTimeout_keeps (hk := .refl _) (h := h) ..)
  | trainRetry => exact .inl (execTrainRetry_keeps (hk := .refl _) (h := h) ..)
  | laneFail => exact .inl (execLaneFail_keeps (hk := .refl _) (h := h) ..)
  | widthChangeDone => exact .inl (execWidthChangeDone_keeps (hk := .refl _) (h := h) ..)
  | syncRequest => exact .inl (execSyncRequest_keeps (hk := .refl _) (h := h) ..)
  | syncReply => exact .inl (execSyncReply_keeps (hk := .refl _) (h := h) ..)
  | timeLost => exact .inl (execTimeLost_keeps (hk := .refl _) (h := h) ..)
  | ixRoundTrigger => exact .inl (execIxRoundTrigger_keeps (hk := .refl _) (h := h) ..)
  | ixCount => exact .inl (execIxCount_keeps (hk := .refl _) (h := h) ..)
  | ixGrant => exact .inl (execIxGrant_keeps (hk := .refl _) (h := h) ..)
  | ixToken => exact .inl (execIxToken_keeps (hk := .refl _) (h := h) ..)
  | ixReady => exact .inl (execIxReady_keeps (hk := .refl _) (h := h) ..)
  | ixFetch => exact .inl (execIxFetch_keeps (hk := .refl _) (h := h) ..)
  | ixFetchData => exact .inl (execIxFetchData_keeps (hk := .refl _) (h := h) ..)
  | ixAbort => exact .inl (execIxAbort_keeps (hk := .refl _) (h := h) ..)
  | ixAck => exact .inl (execIxAck_keeps (hk := .refl _) (h := h) ..)
  | ixCombineTrigger => exact .inl (execIxCombineTrigger_keeps (hk := .refl _) (h := h) ..)
  | ixLimitExpiry => exact .inl (execIxLimitExpiry_keeps (hk := .refl _) (h := h) ..)
  | ixCountRetry => exact .inl (execIxCountRetry_keeps (hk := .refl _) (h := h) ..)
  | ixSignalRetry => exact .inl (execIxSignalRetry_keeps (hk := .refl _) (h := h) ..)
  | colRoundTrigger => exact .inl (execColRoundTrigger_keeps (hk := .refl _) (h := h) ..)
  | colReady => exact .inl (execColReady_keeps (hk := .refl _) (h := h) ..)
  | colCount => exact .inl (execColCount_keeps (hk := .refl _) (h := h) ..)
  | colGo => exact .inl (execColGo_keeps (hk := .refl _) (h := h) ..)
  | colPart => exact .inl (execColPart_keeps (hk := .refl _) (h := h) ..)
  | colAck => exact .inl (execColAck_keeps (hk := .refl _) (h := h) ..)
  | colNak => exact .inl (execColNak_keeps (hk := .refl _) (h := h) ..)
  | colArrive => exact .inl (execColArrive_keeps (hk := .refl _) (h := h) ..)
  | colRelease => exact .inl (execColRelease_keeps (hk := .refl _) (h := h) ..)
  | colAbort => exact .inl (execColAbort_keeps (hk := .refl _) (h := h) ..)
  | colGetReq => exact .inl (execColGetReq_keeps (hk := .refl _) (h := h) ..)
  | colGetData => exact .inl (execColGetData_keeps (hk := .refl _) (h := h) ..)
  | colLimitExpiry => exact .inl (execColLimitExpiry_keeps (hk := .refl _) (h := h) ..)
  | colCountRetry => exact .inl (execColCountRetry_keeps (hk := .refl _) (h := h) ..)
  | engineHang => exact .inl (execEngineHang_keeps (hk := .refl _) (h := h) ..)
  | corePoll => exact .inl (execCorePoll_keeps (hk := .refl _) (h := h) ..)
  | kerbHang => exact .inl (execKerbHang_keeps (hk := .refl _) (h := h) ..)
  | roadblockHalfBudget => exact .inl (execRoadblockHalfBudget_keeps (hk := .refl _) (h := h) ..)
  | resetComplete => exact .inl (execResetComplete_keeps (hk := .refl _) (h := h) ..)
  | resetOverrun => exact .inl (execResetOverrun_keeps (hk := .refl _) (h := h) ..)
  | contextStall => exact .inl (execContextStall_keeps (hk := .refl _) (h := h) ..)
  | heartbeat => exact .inl (execHeartbeat_keeps (hk := .refl _) (h := h) ..)
  | watchdogMiss => exact .inl (execWatchdogMiss_keeps (hk := .refl _) (h := h) ..)
  | processorRestartOverrun => exact .inl (execProcessorRestartOverrun_keeps (hk := .refl _) (h := h) ..)
  | trialPass => exact .inl (execTrialPass_keeps (hk := .refl _) (h := h) ..)
  | pllLockLoss => exact .inl (execPllLockLoss_keeps (hk := .refl _) (h := h) ..)
  | katStart => exact .inl (execKatStart_keeps (hk := .refl _) (h := h) ..)
  | katForced => exact .inl (execKatForced_keeps (hk := .refl _) (h := h) ..)
  | standInMoveDone => exact .inl (execStandInMoveDone_keeps (hk := .refl _) (h := h) ..)
  | katDone => exact .inl (execKatDone_keeps (hk := .refl _) (h := h) ..)
  | shadowRunDone => exact .inl (execShadowRunDone_keeps (hk := .refl _) (h := h) ..)
  | shadowVoteDone => exact .inl (execShadowVoteDone_keeps (hk := .refl _) (h := h) ..)
  | fault24hExpiry => exact .inl (execFault24hExpiry_keeps (hk := .refl _) (h := h) ..)
  | drainComplete => exact .inl (execDrainComplete_keeps (hk := .refl _) (h := h) ..)
  | powerMeasure => exact .inl (execPowerMeasure_keeps (hk := .refl _) (h := h) ..)
  | grantAllocate => exact .inl (execGrantAllocate_keeps (hk := .refl _) (h := h) ..)
  | poolSplit => exact .inl (execPoolSplit_keeps (hk := .refl _) (h := h) ..)
  | islandRampStep => exact .inl (execIslandRampStep_keeps (hk := .refl _) (h := h) ..)
  | sensorRead => exact .inl (execSensorRead_keeps (hk := .refl _) (h := h) ..)
  | thermalTrip => exact .inl (execThermalTrip_keeps (hk := .refl _) (h := h) ..)
  | thermTripRelease => exact .inl (execThermTripRelease_keeps (hk := .refl _) (h := h) ..)
  | vinFault => exact .inl (execVinFault_keeps (hk := .refl _) (h := h) ..)
  | alwaysOnLoss => exact .inl (execAlwaysOnLoss_keeps (hk := .refl _) (h := h) ..)
  | powerUp => exact .inl (execPowerUp_keeps (hk := .refl _) (h := h) ..)
  | comparatorFire => exact .inl (execComparatorFire_keeps (hk := .refl _) (h := h) ..)
  | dozeEntered => exact .inl (execDozeEntered_keeps (hk := .refl _) (h := h) ..)
  | dozeExitDone => exact .inl (execDozeExitDone_keeps (hk := .refl _) (h := h) ..)
  | identityCheck => exact .inl (execIdentityCheck_keeps (hk := .refl _) (h := h) ..)
  | bridgeTestDone => exact .inl (execBridgeTestDone_keeps (hk := .refl _) (h := h) ..)
  | hbmTrainingDone => exact .inl (execHbmTrainingDone_keeps (hk := .refl _) (h := h) ..)
  | reservedZeroDone => exact .inl (execReservedZeroDone_keeps (hk := .refl _) (h := h) ..)
  | fwVerifyDone => exact .inl (execFwVerifyDone_keeps (hk := .refl _) (h := h) ..)
  | firmwareStart => exact .inl (execFirmwareStart_keeps (hk := .refl _) (h := h) ..)
  | bringupTestDone => exact .inl (execBringupTestDone_keeps (hk := .refl _) (h := h) ..)
  | readySend => exact .inl (execReadySend_keeps (hk := .refl _) (h := h) ..)
  | opticalCheck => exact .inl (execOpticalCheck_keeps (hk := .refl _) (h := h) ..)
  | pllCheck => exact .inl (execPllCheck_keeps (hk := .refl _) (h := h) ..)
  | sensorCheck => exact .inl (execSensorCheck_keeps (hk := .refl _) (h := h) ..)
  | vinMonitorCheck => exact .inl (execVinMonitorCheck_keeps (hk := .refl _) (h := h) ..)
  | traceWrite => exact .inl (execTraceWrite_keeps (hk := .refl _) (h := h) ..)
  | mboxSubmit => exact .inl (execMboxSubmit_keeps (hk := .refl _) (h := h) ..)
  | mboxNop => exact .inl (execMboxNop_keeps (hk := .refl _) (h := h) ..)
  | mboxCap => exact .inl (execMboxCap_keeps (hk := .refl _) (h := h) ..)
  | mboxPowerOff => exact .inl (execMboxPowerOff_keeps (hk := .refl _) (h := h) ..)
  | mboxRead => exact .inl (execMboxRead_keeps (hk := .refl _) (h := h) ..)
  | mboxReadTimeout => exact .inl (execMboxReadTimeout_keeps (hk := .refl _) (h := h) ..)
  | mboxWake => exact .inl (execMboxWake_keeps (hk := .refl _) (h := h) ..)
  | mboxWrite => exact .inl (execMboxWrite_keeps (hk := .refl _) (h := h) ..)
  | mgmtStatusRead => exact .inl (execMgmtStatusRead_keeps (hk := .refl _) (h := h) ..)
  | setdasa => exact .inl (execSetdasa_keeps (hk := .refl _) (h := h) ..)
  | fabricSample => exact .inl (execFabricSample_keeps (hk := .refl _) (h := h) ..)
  | colSignalRetry => exact .inl (execColSignalRetry_keeps (hk := .refl _) (h := h) ..)
  | stackTrainingOverrun => exact .inl (execStackTrainingOverrun_keeps (hk := .refl _) (h := h) ..)
  | msiXUnmask => exact .inl (execMsiXUnmask_keeps (hk := .refl _) (h := h) ..)

theorem exec_goes {c : Instr} {s t : State} (h : exec c s = .next t) : Goes s t := by
  rcases exec_keeps h with hk | hg
  · exact hk.goes
  · cases hg with
    | lcCheckDone => exact execLcCheckDone_goes h
    | partSet k => exact execPartSet_goes k h
    | bringupPowerDone => exact execBringupPowerDone_goes h
    | bringupOverrun hub die => exact execBringupOverrun_goes hub die h

/-- A heartbeat of a processor that is not restarting lets nothing go on that could store. -/
theorem execHeartbeat_hbm {k : Fin 5} {s t : State} (hr : restarting s k = false) (h : execHeartbeat k s = .next t) :
    t.hbm = s.hbm := by
  unfold execHeartbeat at h
  extract_lets third u waited hang beaten at h
  have hu : u.hbm = s.hbm ∧ restarting u k = false := by
    unfold u
    split
    · exact ⟨(addTie_keeps s pgAon (.refl (wr := false) s)).bytes rfl, hr⟩
    · exact ⟨rfl, hr⟩
  clear_value u
  injection h with h
  have hw : waited = false := hu.2
  rw [hw] at h
  split at h
  · exact h ▸ hu.1
  · exact h ▸ hu.1

theorem tick_keeps_inv {s : State} (hi : Inv s) : Inv (tick s) := (tick_keeps s (.refl (wr := true) s)).inv hi

/-- Settles O4: a command is a frame for the queue, or one of the four, which leave it too. -/
theorem queueFrame : Obligations.QueueFrame := fun _ _ _ h => (exec_goes h).queue

/-- Settles O3: the invariant does not look at the queue, and a step is time passing or one command. -/
theorem invariantStep : Obligations.InvariantStep := by
  intro s t hi h
  unfold step at h
  split at h
  · injection h with h
    exact h ▸ tick_keeps_inv hi
  · exact (exec_goes h).inv ⟨hi.hbm, hi.lifecycle, hi.parts⟩

/-- Settles O5: of the four commands that are no frame each changes its own part of the guarded state alone. -/
theorem guardedState : Obligations.GuardedState := by
  intro c s t h
  refine ⟨(exec_goes h).lifecycle, fun hpower hoverrun => ?_, fun hpart => ?_⟩
  · rcases exec_keeps h with hk | hg
    · exact ⟨hk.lcState, hk.identity, fun _ => ⟨hk.lcPending, hk.lcNext, hk.lcCount⟩⟩
    · cases hg with
      | lcCheckDone =>
        obtain ⟨hstate, hidentity, _⟩ := execLcCheckDone_frame h
        exact ⟨hstate, hidentity, fun hne => absurd rfl hne⟩
      | partSet k =>
        have hk := execPartSet_butParts h
        exact ⟨hk.lcState, hk.identity, fun _ => ⟨hk.lcPending, hk.lcNext, hk.lcCount⟩⟩
      | bringupPowerDone => exact absurd rfl hpower
      | bringupOverrun hub die => exact absurd rfl (hoverrun hub die)
  · rcases exec_keeps h with hk | hg
    · exact hk.corePart.imp id (fun ⟨hw, he⟩ => ⟨by simpa using hw, he⟩)
    · cases hg with
      | lcCheckDone =>
        obtain ⟨_, _, hcore, _⟩ := execLcCheckDone_frame h
        exact .inl hcore
      | partSet k => exact absurd rfl (hpart k)
      | bringupPowerDone => exact (execBringupPowerDone_corePart h).imp id (⟨rfl, ·⟩)
      | bringupOverrun hub die => exact (execBringupOverrun_corePart h).imp id (⟨rfl, ·⟩)

/-- Settles O6: a frame that stores nothing, PART_SET, a life-cycle check, or a heartbeat with nothing to go on. -/
theorem memoryUnwritten : Obligations.MemoryUnwritten := by
  intro c s t hc h
  rcases hc with hc | ⟨k, rfl, hr⟩
  · rcases exec_keeps h with hk | hg
    · exact hk.bytes (by rw [hc]; rfl)
    · cases hg with
      | lcCheckDone =>
        obtain ⟨_, _, _, hhbm⟩ := execLcCheckDone_frame h
        exact hhbm
      | partSet k => exact (execPartSet_butParts h).bytes rfl
      | bringupPowerDone => cases hc
      | bringupOverrun hub die => cases hc
  · exact execHeartbeat_hbm hr h

end Sys2Proof.Machine
end

section
/-!
PROOFS. Writes and reads of the control pages' header and of the registers that are plain or paired (R30 to R41, R178).
-/
namespace Sys2Proof.Machine

/-! ### Bits of literals -/

@[simp] theorem outside_zero (m : Nat) : outside 0 m = false := by simp [outside]

/-! ### The header -/

section Header
variable {s : State} {pg : Nat} {b : Blk}

theorem pageOwn_zero (s : State) (pg : Nat) : pageOwn s 0 pg = true := rfl

/-- A write of BLK_CTL by a partition that reaches the page, with bit 31 or 30 and no reserved bit, does what its bits ask. -/
theorem ctlWrite_accepted {p v : Nat} (ho : pageOwn s p pg = true) (h30 : bitOf v 30 = true → p = 0) (hlow : v % 65536 = 0)
    (hmid : fieldOf v 16 14 = 0) :
    ctlWrite s p pg b v =
      (let u := if bitOf v 31 then modPage s pg (fun x => { x with rejCode := 0, rejOff := 0, rejCount := 0 }) else s
       if bitOf v 30 then releasePage u b else u) := by
  have hnone : firstFail [(!(pageOwn s p pg || isTracePage pg) || (bitOf v 30 && p != 0), Code.notOwner),
      ((v % 65536 != 0) && gated s pg, .fenced), ((v % 65536 != 0) || fieldOf v 16 14 != 0, .reservedSet),
      ((v % 65536 != 0) && (getPage s pg).moving, .busy)] = none := by
    refine firstFail_eq_none fun e he => ?_
    simp only [List.mem_cons, List.not_mem_nil, or_false] at he
    rcases he with rfl | rfl | rfl | rfl
    · cases hb : bitOf v 30 with
      | true => simp [h30 hb, pageOwn_zero]
      | false => simp [ho]
    · simp [hlow]
    · simp [hlow, hmid]
    · simp [hlow]
  unfold ctlWrite
  dsimp only
  rw [hnone]

theorem headWrite_ctl (p v : Nat) : headWrite s p pg b 0x008 v = ctlWrite s p pg b v := rfl

theorem headWrite_mask {p : Nat} (ho : pageOwn s p pg = true) (v : Nat) : headWrite s p pg b 0x014 v = maskWrite s pg v := by
  simp [headWrite, ho]

theorem exec_rejectClr {p : PartId} {page : BitVec 14} (hs : hubPowered s = true) (hb : blkOf page.toNat = some b)
    (ho : pageOwn s p page.toNat = true) : exec (.rejectClr p page 0) s =
      .next (modPage s page.toNat (fun x => { x with rejCode := 0, rejOff := 0, rejCount := 0 })) := by
  refine congrArg Host.Outcome.next ((regWrite_head hs hb (by decide) (by decide)).trans ?_)
  exact ctlWrite_accepted (v := 2 ^ 31 + 0) ho (fun h => absurd h (by decide)) (by decide) (by decide)

theorem exec_noticeMaskWrite {p : PartId} {page : BitVec 14} {val : Word} (hs : hubPowered s = true)
    (hb : blkOf page.toNat = some b) (ho : pageOwn s p page.toNat = true) :
    exec (.noticeMaskWrite p page val) s = .next (maskWrite s page.toNat val.toNat) :=
  congrArg Host.Outcome.next ((regWrite_head hs hb (by decide) (by decide)).trans (headWrite_mask ho _))

theorem exec_release {page : BitVec 14} (hs : hubPowered s = true) (hb : blkOf page.toNat = some b) :
    exec (.release 0 page 0) s = .next (releasePage s b) := by
  refine congrArg Host.Outcome.next ((regWrite_head hs hb (by decide) (by decide)).trans ?_)
  exact ctlWrite_accepted (p := 0) (v := 2 ^ 30 + 0) rfl (fun _ => rfl) (by decide) (by decide)

end Header

/-- Settles O9: both commands are writes of header words that pass every check. -/
theorem headerCommands : Obligations.HeaderCommands := by
  intro p page b val s hs hb ho
  have hmask := exec_noticeMaskWrite (val := val) hs hb ho
  refine ⟨exec_rejectClr hs hb ho, fun h0 => hmask.trans (congrArg _ ?_), fun h1 => hmask.trans (congrArg _ ?_)⟩
  · simp [maskWrite, modPage, h0]
  · have hne : ((getPage s page.toNat).mask &&& ~~~val &&& (getPage s page.toNat).pend).toNat ≠ 0 :=
      fun h => h1 (BitVec.eq_of_toNat_eq h)
    unfold maskWrite
    dsimp only
    rw [BitVec.ofNat_toNat, BitVec.setWidth_eq, if_neg (by simpa using hne)]
    rfl

/-! ### BAR2 (R45) -/

theorem exec_lowWordRead_bar2 {s : State} (hs : hubPowered s = true) (p : PartId) (off : Bar0) (n : Nat) :
    exec (.lowWordRead p ⟨true, off, n⟩) s = .next { s with rdata := 0 } := by
  refine congrArg Host.Outcome.next ?_
  simp [hs, readValue]

/-- Settles O8: beyond the apertures a post is discarded, and a read of BAR2 has no other effect than its answer 0. -/
theorem bar2Outside : Obligations.Bar2Outside := by
  intro p c off data s hs
  exact ⟨fun ho => congrArg Host.Outcome.next (if_pos ho), fun at_ n => exec_lowWordRead_bar2 hs p at_ n⟩

/-! ### The shared resources (R39, R40, R458) -/

@[simp] theorem modPage_power (s : State) (k : Nat) (f : Page → Page) : (modPage s k f).power = s.power := rfl
@[simp] theorem modPage_mgmt (s : State) (k : Nat) (f : Page → Page) : (modPage s k f).mgmt = s.mgmt := rfl
@[simp] theorem modPage_traces (s : State) (k : Nat) (f : Page → Page) : (modPage s k f).traces = s.traces := rfl

theorem getPage_setOwner (s : State) (pg : Nat) (o : Option (Nat × Nat)) : (getPage (setOwner s pg o) pg).owner = o := by
  rw [setOwner, modPage_eq, getPage_setPage]

/-- ALERT# is brought to what its registers ask, and the other fields of the management target stay. -/
theorem updateAlert_mgmt (s : State) : (updateAlert s).mgmt = { s.mgmt with alertLow := alertDriven s.mgmt } := by
  unfold updateAlert
  dsimp only
  split
  · obtain ⟨_, _, h⟩ := raiseCause_eq { s with mgmt := { s.mgmt with alertLow := alertDriven s.mgmt } } pgQmc 0
    rw [h]
  · rfl

@[simp] theorem updateAlert_traces (s : State) : (updateAlert s).traces = s.traces := by
  obtain ⟨_, _, _, h⟩ := updateAlert_eq s
  rw [h]

theorem blkOf_tracePage {i : Nat} (hi : i < 4) : blkOf (BitVec.ofNat 14 (7 + i)).toNat = some (.trace i) := by
  obtain rfl | rfl | rfl | rfl : i = 0 ∨ i = 1 ∨ i = 2 ∨ i = 3 := by omega
  all_goals rfl

theorem releaseTrace_frees (s : State) (i : Nat) :
    (getPage (releaseTrace s i) (pgTrace i)).owner = none ∧ trEnabled (getTrace (releaseTrace s i) i) = false ∧
      (∀ j, j ≠ i → getTrace (releaseTrace s i) j = getTrace s j) ∧ (releaseTrace s i).power = s.power ∧
      (releaseTrace s i).mgmt = s.mgmt := by
  refine ⟨getPage_setOwner .., ?_, fun j hj => getTrace_setTrace_of_ne _ _ _ hj, rfl, rfl⟩
  show trEnabled (getTrace (setTrace s i _) i) = false
  rw [getTrace_setTrace]
  simp [trEnabled]

theorem releaseAlert_frees (s : State) :
    (getPage (releaseAlert s) pgQmc).owner = none ∧ (releaseAlert s).mgmt.alertEn = false ∧ (releaseAlert s).traces = s.traces := by
  refine ⟨getPage_setOwner .., ?_, updateAlert_traces _⟩
  show (updateAlert _).mgmt.alertEn = false
  rw [updateAlert_mgmt]

theorem getCmp_setCmp (s : State) (k : Nat) (x : Comparator) : getCmp (setCmp s k x) k = x := look_store_self ..
theorem getCmp_setCmp_of_ne (s : State) {j k : Nat} (x : Comparator) (h : j ≠ k) : getCmp (setCmp s k x) j = getCmp s j :=
  look_store_of_ne _ _ _ h

/-- What a page's block-specific registers meet when a write is accepted: no access check fails. -/
theorem accessFails_of_writable {s : State} {p pg off : Nat} (h : writable s p pg off = true) :
    ∀ e ∈ accessFails s p pg off, e.1 = false := by
  unfold writable at h
  simp only [Bool.and_eq_true, Bool.or_eq_true, Bool.not_eq_true'] at h
  obtain ⟨⟨⟨_, howner⟩, hgate⟩, hmoving⟩ := h
  intro e he
  simp only [accessFails, List.mem_cons, List.not_mem_nil, or_false] at he
  rcases he with rfl | rfl | rfl
  · rcases howner with h | h <;> simp [h]
  · rcases hgate with h | h <;> simp [h]
  · exact hmoving

theorem hubPowered_of_writable {s : State} {p pg off : Nat} (h : writable s p pg off = true) : hubPowered s = true := by
  unfold writable at h
  simp only [Bool.and_eq_true] at h
  exact h.1.1.1

/-- Checks that pass do not decide which code comes first. -/
theorem firstFail_append_left {l l' : List (Bool × Code)} (h : ∀ e ∈ l, e.1 = false) : firstFail (l ++ l') = firstFail l' := by
  have hany (c : Code) : (l ++ l').any (fun e => e.1 && e.2 == c) = l'.any (fun e => e.1 && e.2 == c) := by
    rw [List.any_append, Bool.or_eq_right_iff_imp]
    simp only [List.any_eq_true, Bool.and_eq_true]
    rintro ⟨e, he, h1, _⟩
    rw [h e he] at h1
    cases h1
  unfold firstFail
  simp only [hany]

/-- An accessible write that fails a check of its own is recorded with the first code of those. -/
theorem writeReg_refused {s : State} {p pg off : Nat} {fails : List (Bool × Code)} {act : State → State} {c : Code}
    (h : writable s p pg off = true) (hf : firstFail fails = some c) : writeReg s p pg off fails act = reject s pg off c :=
  writeReg_rejected (hubPowered_of_writable h) ((firstFail_append_left (accessFails_of_writable h)).trans hf)

/-- Bits that lie in the mask are no reserved bits. -/
theorem outside_of_testBit {v m : Nat} (h : ∀ i, v.testBit i = true → m.testBit i = true) : outside v m = false := by
  have hzero : BitVec.ofNat 32 v &&& ~~~(BitVec.ofNat 32 m) = 0#32 := by
    refine BitVec.eq_of_getLsbD_eq fun i hi => ?_
    rw [BitVec.getLsbD_and, BitVec.getLsbD_not, BitVec.getLsbD_ofNat, BitVec.getLsbD_ofNat]
    cases hv : v.testBit i with
    | false => simp
    | true => simp [h i hv, hi]
  simp [outside, hzero]

/-- A value below 2 ^ n has no bit outside a mask that holds the n low bits. -/
theorem outside_of_lt {v m n : Nat} (hv : v < 2 ^ n) (hm : ∀ i, i < n → m.testBit i = true) : outside v m = false := by
  refine outside_of_testBit fun i hi => hm i ?_
  refine Decidable.byContradiction fun hge => ?_
  rw [Nat.testBit_lt_two_pow (Nat.lt_of_lt_of_le hv (Nat.pow_le_pow_right (by decide) (Nat.le_of_not_lt hge)))] at hi
  cases hi

section Alert
variable {s : State} {sel : BitVec 8}

/-- An enable of ALERT# with a selection, as the write brings it. -/
theorem alertWord_toNat (sel : BitVec 8) : (BitVec.ofNat 32 (2 ^ 31 + sel.toNat)).toNat = 2 ^ 31 + sel.toNat := by
  rw [BitVec.toNat_ofNat]
  omega

theorem alertWord_enable (sel : BitVec 8) : bitOf (2 ^ 31 + sel.toNat) 31 = true := by
  have := sel.isLt
  simp only [bitOf, beq_iff_eq]
  omega

theorem alertWord_sel (sel : BitVec 8) : BitVec.ofNat 8 (2 ^ 31 + sel.toNat) = sel := by
  apply BitVec.eq_of_toNat_eq
  rw [BitVec.toNat_ofNat]
  omega

theorem alertWord_inside (sel : BitVec 8) : outside (2 ^ 31 + sel.toNat) 0x800000FF = false := by
  refine outside_of_testBit fun i hi => ?_
  have hlt : sel.toNat < 2 ^ 31 := by omega
  have hor : 2 ^ 31 + sel.toNat = 2 ^ 31 ||| sel.toNat := by
    have := Nat.two_pow_add_eq_or_of_lt hlt 1
    simpa using this
  rw [hor, Nat.testBit_or, Bool.or_eq_true, Nat.testBit_two_pow, decide_eq_true_eq] at hi
  rcases hi with rfl | hi
  · decide
  · have h8 : i < 8 := by
      refine Decidable.byContradiction fun hge => ?_
      rw [Nat.testBit_lt_two_pow (Nat.lt_of_lt_of_le sel.isLt (Nat.pow_le_pow_right (by decide) (by omega)))] at hi
      cases hi
    exact (show ∀ i, i < 8 → Nat.testBit 0x800000FF i = true by decide) i h8

/-- A write of ALERT_EN and ALERT_SEL through BAR0 by partition 0 is the register write with its own checks. -/
theorem exec_alertWrite {off : Bar0} (ho : off.toNat = pgQmc * 4096 + 0x064) (hs : hubPowered s = true) (sel : BitVec 8) :
    exec (.resourceEnableWrite 0 off (BitVec.ofNat 32 (2 ^ 31 + sel.toNat))) s =
      .next (writeReg s 0 pgQmc 0x064 ((outside (2 ^ 31 + sel.toNat) 0x800000FF, .reservedSet) :: alertFails s 1 (2 ^ 31 + sel.toNat))
        (fun s => alertAct s 1 (2 ^ 31 + sel.toNat))) := by
  rw [exec_resourceEnableWrite, ho, alertWord_toNat, regWrite_blk (b := .qmc) hs rfl (by decide) (by decide) (by decide)]
  rfl

theorem alertFails_unheld (hfree : (getPage s pgQmc).owner = none) (sel : BitVec 8) :
    ∀ e ∈ (outside (2 ^ 31 + sel.toNat) 0x800000FF, Code.reservedSet) :: alertFails s 1 (2 ^ 31 + sel.toNat), e.1 = false := by
  intro e he
  simp only [alertFails, hfree, List.mem_cons, List.not_mem_nil, or_false] at he
  rcases he with rfl | rfl | rfl | rfl
  · exact alertWord_inside sel
  · exact alertWord_inside sel
  · rfl
  · rfl

theorem alertAct_takes (s : State) (sel : BitVec 8) :
    (alertAct s 1 (2 ^ 31 + sel.toNat)).mgmt.alertEn = true ∧ (alertAct s 1 (2 ^ 31 + sel.toNat)).mgmt.alertSel = sel ∧
      (alertAct s 1 (2 ^ 31 + sel.toNat)).mgmt.alertPend = s.mgmt.alertPend := by
  simp only [alertAct, updateAlert_mgmt, alertWord_enable, alertWord_sel, true_and]
  rfl

theorem blockNotice_pages (s : State) (pg bits k : Nat) : getPage (blockNotice s pg bits) k = getPage s k := by
  obtain ⟨_, h⟩ := blockNotice_eq s pg bits
  rw [h]
  rfl

/-- A cause changes the pending bits of its page and no owner. -/
theorem raiseCause_owner (s : State) (pg c k : Nat) : (getPage (raiseCause s pg c) k).owner = (getPage s k).owner := by
  have hset (x : Page) (hx : x.owner = (getPage s pg).owner) : (getPage (setPage s pg x) k).owner = (getPage s k).owner := by
    by_cases hk : k = pg
    · rw [hk, getPage_setPage, hx]
    · rw [getPage_setPage_of_ne _ _ _ hk]
  unfold raiseCause
  dsimp only
  split
  · exact hset _ rfl
  · rw [blockNotice_pages]
    exact hset _ rfl

theorem updateAlert_owner (s : State) (k : Nat) : (getPage (updateAlert s) k).owner = (getPage s k).owner := by
  unfold updateAlert
  dsimp only
  split
  · exact raiseCause_owner ..
  · rfl

theorem alertAct_owner (s : State) (sel : BitVec 8) :
    (getPage (alertAct s 1 (2 ^ 31 + sel.toNat)) pgQmc).owner = some (0, 1) := by
  refine (updateAlert_owner _ _).trans ((getPage_setOwner s pgQmc _).trans ?_)
  rw [alertWord_enable]
  rfl

/-- Held by the management interface, ALERT# is refused with HELD: the last of the write's checks. -/
theorem alertFails_held (hheld : (getPage s pgQmc).owner = some (0, 2)) (sel : BitVec 8) :
    firstFail ((outside (2 ^ 31 + sel.toNat) 0x800000FF, Code.reservedSet) :: alertFails s 1 (2 ^ 31 + sel.toNat)) =
      some .held := by
  have h (v : Nat) (ho : outside v 0x800000FF = false) (he : bitOf v 31 = true) :
      firstFail ((outside v 0x800000FF, Code.reservedSet) :: alertFails s 1 v) = some .held := by
    simp [alertFails, hheld, ho, he, heldByOther, firstFail]
  exact h _ (alertWord_inside sel) (alertWord_enable sel)

end Alert

/-- Settles O10: RELEASE is a header write that frees the page's resource; the enable of ALERT# is a register write whose only
check that can fail is that of the holder. -/
theorem sharedResources : Obligations.SharedResources := by
  refine ⟨fun s hs => ⟨fun i hi => ?_, ?_, ?_⟩, fun off sel s ho hw => ⟨fun hfree => ?_, fun hheld => ?_⟩⟩
  · exact ⟨_, exec_release hs (blkOf_tracePage hi), releaseTrace_frees s i⟩
  · exact ⟨_, exec_release hs rfl, releaseAlert_frees s⟩
  · refine ⟨_, exec_release (b := .aon) hs rfl, ?_, fun k hk => getCmp_setCmp_of_ne _ _ hk, rfl⟩
    exact congrArg Comparator.owner (getCmp_setCmp ..)
  · obtain ⟨hen, hsel, hpend⟩ := alertAct_takes s sel
    refine ⟨_, (exec_alertWrite ho (hubPowered_of_writable hw) sel).trans (congrArg _ ?_), hen, hsel, hpend, alertAct_owner s sel⟩
    exact writeReg_applied hw (alertFails_unheld hfree sel)
  · exact (exec_alertWrite ho (hubPowered_of_writable hw) sel).trans
      (congrArg _ (writeReg_refused hw (alertFails_held hheld sel)))

/-! ### Writes turned away (R30, R32, R35) -/

/-- A write that is not one whole aligned word is recorded as ALIGN and does nothing else (R30). -/
theorem regWrite_misaligned {s : State} {p off size v : Nat} {b : Blk} (hs : hubPowered s = true)
    (hb : blkOf (off / 4096) = some b) (ha : size ≠ 4 ∨ off % 4 ≠ 0) :
    regWrite s p off size v = reject s (off / 4096) (off % 4096 - off % 4096 % 4) .align := by
  have hcond : (size != 4 || off % 4096 % 4 != 0) = true := by
    have hmod : off % 4096 % 4 = off % 4 := by omega
    simpa [hmod] using ha
  unfold regWrite
  simp only [hs, hb, hcond]
  rfl

theorem aonReg_core (n o : Nat) : aonReg (pgCore n) o = false := by
  have h (k : Nat) (hk : k < 0x1000) : pgCore n ≠ k := by unfold pgCore; omega
  simp [aonReg, h, pgAon, pgOdo, pgQpc, pgQsc, pgQmc, pgAtlas]

theorem isTracePage_core (n : Nat) : isTracePage (pgCore n) = false := by
  have h : ¬ pgCore n < 11 := by unfold pgCore; omega
  simp [isTracePage, h]

section CoreWrite
variable {s : State} {p o v n : Nat}

/-- A whole write to a plain register of a core page outside the OP registers. -/
theorem regWrite_coreReg (hs : hubPowered s = true) (hn : n < 4096) (h4 : 0x040 ≤ o) (ho : o < 4096) (ha : o % 4 = 0)
    (hop : ¬ (0x100 ≤ o ∧ o < 0x180)) (hpair : (regDef (.core n) o).pair = 0) :
    regWrite s p (pgCore n * 4096 + o) 4 v = writeReg s p (pgCore n) o
      ((outside v (regDef (.core n) o).bits, .reservedSet) :: (plainWrite s (.core n) o v).1) (plainWrite s (.core n) o v).2 := by
  rw [regWrite_blk hs (blkOf_core hn) ho ha h4]
  have h1 : (decide (0x100 ≤ o) && decide (o < 0x180) && opWidth s n == 0) = false := by
    rw [← Bool.decide_and, decide_eq_false hop, Bool.false_and]
  have h2 : ((regDef (.core n) o).kind == RegKind.rw && (regDef (.core n) o).pair != 0) = false := by simp [hpair]
  unfold blkWrite
  simp only [h1, h2]
  rfl

/-- A write of a core page's register by a partition that does not own the core: NOT_OWNER comes before every check but ALIGN. -/
theorem writeReg_core_notOwner {fails : List (Bool × Code)} {act : State → State} (hs : hubPowered s = true)
    (ho : pageOwn s p (pgCore n) = false) (hal : ∀ e ∈ fails, e.2 ≠ .align) :
    writeReg s p (pgCore n) o fails act = reject s (pgCore n) o .notOwner := by
  refine writeReg_rejected hs ?_
  have hany : (fails.any fun e => e.1 && e.2 == Code.align) = false := by
    simp only [List.any_eq_false, Bool.and_eq_true, beq_iff_eq, not_and]
    exact fun e he _ => hal e he
  simp [firstFail, accessFails, ho, isTracePage_core, hany]

/-- One of a gated page of the own core: FENCED comes before every check but ALIGN, NOT_OWNER and LIFECYCLE. -/
theorem writeReg_core_fenced {fails : List (Bool × Code)} {act : State → State} (hs : hubPowered s = true)
    (ho : pageOwn s p (pgCore n) = true) (hg : gated s (pgCore n) = true)
    (hal : ∀ e ∈ fails, e.2 ≠ .align ∧ e.2 ≠ .notOwner ∧ e.2 ≠ .lifecycle) :
    writeReg s p (pgCore n) o fails act = reject s (pgCore n) o .fenced := by
  refine writeReg_rejected hs ?_
  have hany (c : Code) (hc : c = .align ∨ c = .notOwner ∨ c = .lifecycle) : (fails.any fun e => e.1 && e.2 == c) = false := by
    simp only [List.any_eq_false, Bool.and_eq_true, beq_iff_eq, not_and]
    intro e he _ hce
    obtain ⟨h1, h2, h3⟩ := hal e he
    rcases hc with rfl | rfl | rfl
    · exact h1 hce
    · exact h2 hce
    · exact h3 hce
  simp [firstFail, accessFails, ho, hg, aonReg_core, hany .align (.inl rfl), hany .notOwner (.inr (.inl rfl)),
    hany .lifecycle (.inr (.inr rfl))]

end CoreWrite

/-! ### Registers of a core page (R148, R173, R410) -/

section CoreRegisters
variable {s : State} {p n v : Nat}

theorem regWrite_islLimit (hs : hubPowered s = true) (hn : n < 4096) :
    regWrite s p (pgCore n * 4096 + 0x404) 4 v = writeReg s p (pgCore n) 0x404
      [(outside v 0x7F, .reservedSet), (v == 0 || decide (64 < v), .badField)]
      (fun s => modCore s n (fun x => { x with islLimit := v })) :=
  regWrite_coreReg hs hn (by decide) (by decide) (by decide) (by decide) rfl

theorem regWrite_srState (hs : hubPowered s = true) (hn : n < 4096) :
    regWrite s p (pgCore n * 4096 + 0x188) 4 v = writeReg s p (pgCore n) 0x188
      [(outside v allBits, .reservedSet), (coreBusy s n, .wrongState), (v == 0, .badField)]
      (fun s => modCore s n (fun x => { x with srState := BitVec.ofNat 32 v, srSeen := BitVec.ofNat 32 v })) :=
  regWrite_coreReg hs hn (by decide) (by decide) (by decide) (by decide) rfl

theorem regWrite_frStat (hs : hubPowered s = true) (hn : n < 4096) :
    regWrite s p (pgCore n * 4096 + 0x330) 4 v = writeReg s p (pgCore n) 0x330 [(outside v 0xCFFFFF8F, .reservedSet)]
      (fun s => modCore s n (fun x => if bitOf v 31 then { x with fr := {} } else x)) :=
  regWrite_coreReg hs hn (by decide) (by decide) (by decide) (by decide) rfl

theorem regWrite_dmCtl (hs : hubPowered s = true) (hn : n < 4096) :
    regWrite s p (pgCore n * 4096 + 0x204) 4 v = writeReg s p (pgCore n) 0x204 [(outside v 0x1, .reservedSet)]
      (fun s => if bitOf v 0 then laInvalidate s n else s) :=
  regWrite_coreReg hs hn (by decide) (by decide) (by decide) (by decide) rfl

/-- The registers of a core page share their access checks: none of them is served without power. -/
theorem writable_core {o : Nat} (o' : Nat) (h : writable s p (pgCore n) o = true) : writable s p (pgCore n) o' = true := by
  simpa only [writable, aonReg_core] using h

theorem laInvalidate_look (s : State) (n : Nat) : (getCore (laInvalidate s n) n).look = [] := by
  unfold laInvalidate
  dsimp only
  rw [modCore_eq, getCore_setCore]

end CoreRegisters

/-- Settles O11: ALIGN is the first check of every write, then NOT_OWNER, and FENCED before the register's own. -/
theorem writesTurnedAway : Obligations.WritesTurnedAway := by
  refine ⟨fun p off size val s hs b hb ha => congrArg Host.Outcome.next (regWrite_misaligned hs hb ha),
    fun p core off val s hs hoff => ?_⟩
  have hcore (o : Nat) (ho : o < 4096) : (pgCore core * 4096 + o) % 4096 = o := by omega
  rcases hoff with hoff | hoff
  · refine ⟨fun ho => congrArg Host.Outcome.next ?_, fun ho hg => congrArg Host.Outcome.next ?_⟩
    · rw [hoff, hcore _ (by decide), regWrite_islLimit hs core.isLt]
      exact writeReg_core_notOwner hs ho (by simp)
    · rw [hoff, hcore _ (by decide), regWrite_islLimit hs core.isLt]
      exact writeReg_core_fenced hs ho hg (by simp)
  · refine ⟨fun ho => congrArg Host.Outcome.next ?_, fun ho hg => congrArg Host.Outcome.next ?_⟩
    · rw [hoff, hcore _ (by decide), regWrite_srState hs core.isLt]
      exact writeReg_core_notOwner hs ho (by simp)
    · rw [hoff, hcore _ (by decide), regWrite_srState hs core.isLt]
      exact writeReg_core_fenced hs ho hg (by simp)

/-- A 32-bit value has no bit outside a full mask. -/
theorem outside_allBits (val : Word) : outside val.toNat allBits = false :=
  outside_of_lt (n := 32) val.isLt (by decide)

/-- Settles O12: accepted writes of plain registers of a core page. -/
theorem coreRegisterWrites : Obligations.CoreRegisterWrites := by
  intro p core off val s hw
  have hs := hubPowered_of_writable hw
  refine ⟨fun hoff h1 h64 => congrArg Host.Outcome.next ?_, fun hoff hne hidle => congrArg Host.Outcome.next ?_,
    congrArg Host.Outcome.next ?_, laInvalidate s core, congrArg Host.Outcome.next ?_, laInvalidate_look s core,
    (laInvalidate_keeps s core (.refl (wr := false) s)).bytes rfl⟩
  · rw [hoff, regWrite_islLimit hs core.isLt]
    have hin : outside val.toNat 0x7F = false :=
      outside_of_lt (n := 7) (by omega) (by decide)
    refine writeReg_applied (writable_core _ hw) ?_
    simp [hin]
    omega
  · rw [hoff, regWrite_srState hs core.isLt]
    have hv : val.toNat ≠ 0 := fun h => hne (BitVec.eq_of_toNat_eq h)
    refine (writeReg_applied (writable_core _ hw) ?_).trans (by simp)
    simp [outside_allBits, hidle, hv]
  · exact (regWrite_frStat hs core.isLt).trans (writeReg_applied hw (by decide))
  · exact (regWrite_dmCtl hs core.isLt).trans (writeReg_applied (writable_core _ hw) (by decide))

/-! ### Pairs (R38) -/

section Pairs
variable {s : State} {p n v : Nat}

/-- A whole write to a half of a writable pair of a core page. -/
theorem regWrite_corePair {o : Nat} (hs : hubPowered s = true) (hn : n < 4096) (h4 : 0x040 ≤ o) (ho : o < 4096) (ha : o % 4 = 0)
    (hop : ¬ (0x100 ≤ o ∧ o < 0x180)) (hpair : ((regDef (.core n) o).kind == RegKind.rw && (regDef (.core n) o).pair != 0) = true) :
    regWrite s p (pgCore n * 4096 + o) 4 v = pairWrite s p (pgCore n) (.core n) o v (regDef (.core n) o) := by
  rw [regWrite_blk hs (blkOf_core hn) ho ha h4]
  have h1 : (decide (0x100 ≤ o) && decide (o < 0x180) && opWidth s n == 0) = false := by
    rw [← Bool.decide_and, decide_eq_false hop, Bool.false_and]
  unfold blkWrite
  simp only [h1, hpair]
  rfl

theorem regWrite_seqPcLow (hs : hubPowered s = true) (hn : n < 4096) :
    regWrite s p (pgCore n * 4096 + 0x308) 4 v = writeReg s p (pgCore n) 0x308
      [(outside v 0xFFFFFFF0, .reservedSet), (coreBusy s n, .wrongState)]
      (fun s => stageWord s (pgCore n) (16 * 0x308 + p) (some (BitVec.ofNat 32 v))) :=
  (regWrite_corePair hs hn (by decide) (by decide) (by decide) (by decide) rfl).trans rfl

/-- The high word of SEQ_PC with no low word staged. -/
theorem regWrite_seqPcHigh_unstaged (hs : hubPowered s = true) (hn : n < 4096)
    (hst : look (getPage s (pgCore n)).stage (16 * 0x308 + p) none = none) :
    regWrite s p (pgCore n * 4096 + 0x30C) 4 v = writeReg s p (pgCore n) 0x30C
      [(outside v 0xFF, .reservedSet), (true, .sequence), (coreBusy s n, .wrongState)] id := by
  refine (regWrite_corePair hs hn (by decide) (by decide) (by decide) (by decide) rfl).trans ?_
  have hr : regDef (.core n) 0x30C = { off := 0x30C, kind := .rw, bits := 0xFF, pair := 2 } := rfl
  rw [hr]
  unfold pairWrite
  dsimp only
  rw [if_neg (by decide), hst]
  rfl

/-- The high word of SEQ_PC with a low word staged applies both. -/
theorem regWrite_seqPcHigh_staged {w : Word} (hs : hubPowered s = true) (hn : n < 4096)
    (hst : look (getPage s (pgCore n)).stage (16 * 0x308 + p) none = some w) :
    regWrite s p (pgCore n * 4096 + 0x30C) 4 v = writeReg s p (pgCore n) 0x30C
      [(outside v 0xFF, .reservedSet), (coreBusy s n, .wrongState)]
      (fun s => stageWord (modCore s n (fun x => { x with pc := w.toNat + 2 ^ 32 * v })) (pgCore n) (16 * 0x308 + p) none) := by
  refine (regWrite_corePair hs hn (by decide) (by decide) (by decide) (by decide) rfl).trans ?_
  have hr : regDef (.core n) 0x30C = { off := 0x30C, kind := .rw, bits := 0xFF, pair := 2 } := rfl
  rw [hr]
  unfold pairWrite
  dsimp only
  rw [if_neg (by decide), hst]
  rfl

theorem stageWord_some (s : State) (pg key : Nat) (w : Word) :
    look (getPage (stageWord s pg key (some w)) pg).stage key none = some w := by
  rw [stageWord, modPage_eq, getPage_setPage]
  exact look_store_self ..

theorem stageWord_none (s : State) (pg key : Nat) : look (getPage (stageWord s pg key none) pg).stage key none = none := by
  rw [stageWord, modPage_eq, getPage_setPage]
  exact look_drop1_self ..

@[simp] theorem stageWord_cores (s : State) (pg key : Nat) (w : Option Word) : (stageWord s pg key w).cores = s.cores := rfl
@[simp] theorem getCore_stageWord (s : State) (pg key : Nat) (w : Option Word) (j : Nat) :
    getCore (stageWord s pg key w) j = getCore s j := rfl

end Pairs

/-- Bits 0 to 3 of a value that 16 divides are 0. -/
theorem outside_of_aligned {v : Nat} (hv : v < 2 ^ 32) (ha : v % 16 = 0) : outside v 0xFFFFFFF0 = false := by
  refine outside_of_testBit fun i hi => ?_
  have h32 : i < 32 := by
    refine Decidable.byContradiction fun hge => ?_
    rw [Nat.testBit_lt_two_pow (Nat.lt_of_lt_of_le hv (Nat.pow_le_pow_right (by decide) (Nat.le_of_not_lt hge)))] at hi
    cases hi
  have h4 : 4 ≤ i := by
    refine Decidable.byContradiction fun hlt => ?_
    have hlt : i < 4 := Nat.lt_of_not_le hlt
    have hlow : (v % 2 ^ 4).testBit i = true := by rw [Nat.testBit_mod_two_pow, hi, decide_eq_true hlt]; rfl
    rw [show v % 2 ^ 4 = 0 from ha, Nat.zero_testBit] at hlow
    cases hlow
  exact (show ∀ i, i < 32 → 4 ≤ i → Nat.testBit 0xFFFFFFF0 i = true by decide) i h32 h4

/-! ### Latched reads (R38, R178) -/

section Latched
variable {s : State}

theorem takeBytes_whole (s : State) (w : Nat) : takeBytes (readValue s w) 0 4 = readValue s w := by
  have h : BitVec.ofNat 32 ((BitVec.ofNat 32 w).toNat / 256 ^ 0 % 256 ^ 4) = BitVec.ofNat 32 w := by
    apply BitVec.eq_of_toNat_eq
    simp only [BitVec.toNat_ofNat]
    omega
  unfold takeBytes readValue
  dsimp only
  rw [h]

/-- A whole aligned read is one of the bus. -/
theorem hostRead_word {off : Nat} (hs : hubPowered s = true) (ha : off % 4 = 0) (p : Nat) :
    hostRead s p off 4 = takeBytes (busRead s p off) 0 4 := by
  simp [hostRead, hs, ha]

/-- A read of a register whose read has no effect of its own takes the page's latches alone. -/
theorem busRead_latched {p off : Nat} {b : Blk} (hs : hubPowered s = true) (hb : blkOf (off / 4096) = some b)
    (hmay : mayRead s p (off / 4096) (off % 4096) = true) (hplain : (∃ n, b = .core n) ∨ b = .odo) :
    busRead s p off =
      (let r := latchedRead s b (off / 4096) s.power.cmpSel p (off % 4096)
       readValue r.1 r.2) := by
  unfold busRead
  simp only [hs, hb, hmay]
  rcases hplain with ⟨n, rfl⟩ | rfl
  · rfl
  · rfl

/-- The low word of the odometer answers it and latches its high word (R38). -/
theorem latchedRead_odometer (s : State) (sel p : Nat) :
    latchedRead s .odo pgOdo sel p 0x040 =
      (setPage s pgOdo { getPage s pgOdo with
        latch := store (getPage s pgOdo).latch (16 * 0x040 + p) (some (BitVec.ofNat 32 (s.odometer / 2 ^ 32 % 2 ^ 32))) },
       s.odometer % 2 ^ 32) := by
  have haon : aonReg pgOdo 0x040 = true := rfl
  have hlo : wordRead s .odo pgOdo sel 0x040 = s.odometer % 2 ^ 32 := by
    unfold wordRead
    rw [if_neg (by decide), haon, Bool.not_true, Bool.and_false, if_neg (by decide)]
    rfl
  have hhi : wordRead s .odo pgOdo sel (0x040 + 4) = s.odometer / 2 ^ 32 % 2 ^ 32 := by
    unfold wordRead
    rw [if_neg (by decide), show aonReg pgOdo (0x040 + 4) = true from rfl, Bool.not_true, Bool.and_false, if_neg (by decide)]
    rfl
  unfold latchedRead
  dsimp only
  rw [haon, Bool.not_true, Bool.and_false, if_neg (by decide), if_neg (by decide), if_pos (by decide), hlo, hhi]

/-- Beyond the plain registers a core page reads the words of its milestones. -/
theorem coreRead_milestone (s : State) (n : Nat) {o : Nat} (h1 : 0x800 ≤ o) (h2 : o < 0xB00) :
    coreRead s n o =
      (let w := mileWords (getCore s n) ((o - 0x800) / 16)
       if o % 16 = 0 then w.1 else if o % 16 = 4 then w.2.1 else if o % 16 = 8 then w.2.2.1 else w.2.2.2) := by
  have hne (k : Nat) (hk : k < 0x800) : o ≠ k := by omega
  have hge (b : Nat) (hb : b ≤ 0x800) : ¬ o < b := by omega
  simp [coreRead, hne, hge, h1, h2]

/-- The words of a milestone's view, while the page is served. -/
theorem wordRead_milestone {n ms i : Nat} (hg : gated s (pgCore n) = false) (hms : ms < 48) (hi : i < 4) (sel : Nat) :
    wordRead s (.core n) (pgCore n) sel (0x800 + 16 * ms + 4 * i) =
      (let w := mileWords (getCore s n) ms
       if i = 0 then w.1 else if i = 1 then w.2.1 else if i = 2 then w.2.2.1 else w.2.2.2) := by
  have hview : viewWord (.core n) (0x800 + 16 * ms + 4 * i) = true := by simp [viewWord]; omega
  have hreg : regDef (.core n) (0x800 + 16 * ms + 4 * i) = { off := 0x800 + 16 * ms + 4 * i, kind := .ro, bits := allBits } := by
    simp [regDef, hview]
  have hidx : (0x800 + 16 * ms + 4 * i - 0x800) / 16 = ms := by omega
  have hmod : (0x800 + 16 * ms + 4 * i) % 16 = 4 * i := by omega
  unfold wordRead
  rw [if_neg (by omega), hg, Bool.false_and, if_neg (by decide)]
  unfold blkRead
  rw [hreg]
  refine (if_neg (show ¬ (allBits == 0) = true by decide)).trans ((coreRead_milestone s n (by omega) (by omega)).trans ?_)
  rw [hidx, hmod]
  obtain rfl | rfl | rfl | rfl : i = 0 ∨ i = 1 ∨ i = 2 ∨ i = 3 := by omega
  all_goals rfl

/-- A read of a milestone's VALUE word answers it and latches the other three (R178). -/
theorem latchedRead_value {n ms : Nat} (hg : gated s (pgCore n) = false) (hms : ms < 48) (sel p : Nat) :
    latchedRead s (.core n) (pgCore n) sel p (0x800 + 16 * ms) =
      (let w := mileWords (getCore s n) ms
       (setPage s (pgCore n) { getPage s (pgCore n) with
         view := store (getPage s (pgCore n)).view (16 * ms + p)
           (some (BitVec.ofNat 32 w.2.1, BitVec.ofNat 32 w.2.2.1, BitVec.ofNat 32 w.2.2.2)) }, w.1)) := by
  have hword (i : Nat) (hi : i < 4) := wordRead_milestone hg hms hi sel
  have hview : viewWord (.core n) (0x800 + 16 * ms) = true := by simp [viewWord]; omega
  have hidx : (0x800 + 16 * ms - 0x800) / 16 = ms := by omega
  have h0 := hword 0 (by decide)
  have h1 := hword 1 (by decide)
  have h2 := hword 2 (by decide)
  have h3 := hword 3 (by decide)
  rw [Nat.mul_zero, Nat.add_zero] at h0
  unfold latchedRead
  simp only [hg, hview, hidx, Bool.and_false, Bool.false_and, Bool.false_eq_true, if_false, if_true, beq_self_eq_true, h0, h1, h2, h3]
  rfl

theorem exec_milestoneViewRead {core : CoreId} {p : PartId} {ms : Fin 48} (hs : hubPowered s = true)
    (ho : pageOwn s p (pgCore core) = true) (hg : gated s (pgCore core) = false) :
    exec (.milestoneViewRead p core ms) s = .next
      (let w := mileWords (getCore s core) ms
       readValue (setPage s (pgCore core) { getPage s (pgCore core) with
         view := store (getPage s (pgCore core)).view (16 * ms + p)
           (some (BitVec.ofNat 32 w.2.1, BitVec.ofNat 32 w.2.2.1, BitVec.ofNat 32 w.2.2.2)) }) w.1) := by
  have hpg : (pgCore core * 4096 + 0x800 + 16 * ms.val) / 4096 = pgCore core := by omega
  have hoff : (pgCore core * 4096 + 0x800 + 16 * ms.val) % 4096 = 0x800 + 16 * ms.val := by omega
  have hmay : mayRead s p (pgCore core) (0x800 + 16 * ms.val) = true := by simp [mayRead, ho]
  refine congrArg Host.Outcome.next ?_
  have h := busRead_latched (p := p) (off := pgCore core * 4096 + 0x800 + 16 * ms.val) (b := .core core) hs
    (hpg.symm ▸ blkOf_core core.isLt) (by rw [hpg, hoff]; exact hmay) (.inl ⟨core, rfl⟩)
  rw [hpg, hoff, latchedRead_value hg ms.isLt] at h
  exact h

theorem exec_lowWordRead_odometer {p : PartId} {off : Bar0} (hs : hubPowered s = true) (hp : p.val = 0)
    (ho : off.toNat = pgOdo * 4096 + 0x040) :
    exec (.lowWordRead p ⟨false, off, 4⟩) s = .next (readValue (setPage s pgOdo { getPage s pgOdo with
        latch := store (getPage s pgOdo).latch (16 * 0x040) (some (BitVec.ofNat 32 (s.odometer / 2 ^ 32 % 2 ^ 32))) })
      (s.odometer % 2 ^ 32)) := by
  have hbus : busRead s 0 (pgOdo * 4096 + 0x040) = _ :=
    busRead_latched (b := .odo) hs rfl (by simp [mayRead, pageOwn_zero]) (.inr rfl)
  have hlatch := latchedRead_odometer s s.power.cmpSel 0
  rw [exec_lowWordRead_bar0, hp, ho, hostRead_word hs (by decide), hbus]
  dsimp only
  rw [show (pgOdo * 4096 + 0x040) / 4096 = pgOdo from rfl, show (pgOdo * 4096 + 0x040) % 4096 = 0x040 from rfl, hlatch,
    takeBytes_whole]

end Latched

/-- Settles O13: the pair of SEQ_PC by its stage, and the two latched reads. -/
theorem pairedRegisters : Obligations.PairedRegisters := by
  refine ⟨fun p core lo hi val s hlo hhi hw hidle => ⟨fun ha => ?_, fun hv hst => ?_, fun w hv hst => ?_⟩,
    fun p core ms off s hs => ⟨fun hp ho => ?_, fun ho hg => ?_⟩⟩
  · refine ⟨_, (congrArg Host.Outcome.next ?_), stageWord_some .., rfl⟩
    rw [hlo, regWrite_seqPcLow (hubPowered_of_writable hw) core.isLt, BitVec.ofNat_toNat, BitVec.setWidth_eq]
    exact writeReg_applied hw (by simp [outside_of_aligned val.isLt ha, hidle])
  · refine congrArg Host.Outcome.next ?_
    rw [hhi, regWrite_seqPcHigh_unstaged (hubPowered_of_writable hw) core.isLt hst]
    refine writeReg_refused (writable_core _ hw) ?_
    have hin : outside val.toNat 0xFF = false := outside_of_lt (n := 8) hv (by decide)
    simp [hin, hidle, firstFail]
  · refine ⟨stageWord (modCore s core (fun x => { x with pc := w.toNat + 2 ^ 32 * val.toNat })) (pgCore core) (16 * 0x308 + p) none,
      congrArg Host.Outcome.next ?_, ?_, fun j hj => getCore_setCore_of_ne _ _ _ hj, stageWord_none ..⟩
    · rw [hhi, regWrite_seqPcHigh_staged (hubPowered_of_writable hw) core.isLt hst]
      have hin : outside val.toNat 0xFF = false := outside_of_lt (n := 8) hv (by decide)
      exact writeReg_applied (writable_core _ hw) (by simp [hin, hidle])
    · rw [getCore_stageWord, modCore_eq, getCore_setCore]
  · refine ⟨_, exec_lowWordRead_odometer hs hp ho, rfl, ?_, rfl, rfl⟩
    refine Eq.trans (congrArg (fun x : Page => look x.latch (16 * 0x040) none) (getPage_setPage s pgOdo _)) ?_
    exact look_store_self ..
  · refine ⟨_, exec_milestoneViewRead hs ho hg, rfl, ?_, rfl⟩
    refine Eq.trans (congrArg (fun x : Page => look x.view (16 * ms + p) none) (getPage_setPage s (pgCore core) _)) ?_
    exact look_store_self ..

end Sys2Proof.Machine
end

section
/-!
PROOFS. Reset, and what passing time changes (R27; the model's choice, notes/assumptions/6.md): the die fabrics move packets, the
counters of cycles count, and nothing else happens where nothing waits.
-/
namespace Sys2Proof.Machine

/-- Settles O2: each register of the reset state reads its reset value. -/
theorem resetState : Obligations.ResetState := by
  refine ⟨⟨wf_reset, ⟨by decide, nofun, by decide⟩, fun _ he => nomatch he⟩, rfl, rfl, rfl, rfl, ?_, ?_, ?_,
    fun c => ⟨rfl, rfl⟩, fun k => rfl, rfl, rfl⟩
  · decide +kernel
  · decide +kernel
  · decide +kernel

/-! ### Views of the state -/

/-- A view of the state is the same before and after: what an operation leaves alone, said by the view that forgets the rest. -/
def Same {α : Type} (view : State → α) (s t : State) : Prop := view t = view s

section Same
variable {α β : Type} {view : State → α}

theorem Same.refl (s : State) : Same view s s := rfl

theorem Same.trans {s t u : State} (a : Same view s t) (b : Same view t u) : Same view s u := Eq.trans b a

theorem Same.foldl {f : State → β → State} {l : List β} (h : ∀ s, ∀ a ∈ l, Same view s (f s a)) (s : State) :
    Same view s (l.foldl f s) := by
  induction l generalizing s with
  | nil => exact .refl s
  | cons a t ih => exact (h s a (List.mem_cons_self ..)).trans (ih (fun s b hb => h s b (List.mem_cons_of_mem _ hb)) _)

theorem Same.ite {s t u : State} {c : Prop} [Decidable c] (ht : Same view s t) (hu : Same view s u) :
    Same view s (if c then t else u) := by
  split
  · exact ht
  · exact hu

/-- What a view does not forget is the same. -/
theorem Same.get {γ : Type} {view : State → State} {s t : State} (h : Same view s t) (part : State → γ)
    (hp : ∀ x, part (view x) = part x) : part t = part s :=
  (hp t).symm.trans ((congrArg part h).trans (hp s))

/-- A view that forgets more. -/
theorem Same.forget {γ : Type} {view' : State → γ} {s t : State} (h : Same view s t) (f : α → γ) (hf : ∀ x, view' x = f (view x)) :
    Same view' s t :=
  (hf t).trans ((congrArg f h).trans (hf s).symm)

end Same

/-! ### What moving packets changes -/

/-- The state without what packets on their way change: pages, cores, ports, fabrics, arrived messages and bridges. -/
def sansPackets (s : State) : State := { s with pages := [], cores := [], ports := [], fabric := {}, net := [], bridges := [] }

abbrev PacketsOnly (s t : State) : Prop := Same sansPackets s t

section Packets
variable (s : State)

theorem countTel_packets (q : Place) (n : Nat) : PacketsOnly s (countTel s q n) := .ite rfl rfl
theorem countEnter_packets (d port n : Nat) : PacketsOnly s (countEnter s d port n) := .ite rfl rfl

theorem bump64_packets (pg off n : Nat) : PacketsOnly s (bump64 s pg off n) := rfl
theorem setBridge_packets (k : Nat) (x : Bridge) : PacketsOnly s (setBridge s k x) := rfl

/-- A packet is no message to a block: it takes a new place. -/
theorem inject_packets (p : Packet) : PacketsOnly s (inject s p) := rfl

theorem countPast_packets (q : Place) (n : Nat) : PacketsOnly s (countPast s q n) := by
  refine (countTel_packets s q n).trans ?_
  unfold countPast
  generalize countTel s q n = u
  dsimp only
  split
  · refine (bump64_packets u _ _ _).trans (.ite ?_ (.refl _))
    exact ((bump64_packets _ _ _ _).trans (countEnter_packets ..)).trans (setBridge_packets ..)
  · exact .refl u

theorem countIn_packets (src : Stop) (cw n : Nat) : PacketsOnly s (countIn s src cw n) := by
  unfold countIn
  split
  · exact (countEnter_packets s ..).trans rfl
  · rfl

theorem pushEgress_packets (port : Nat) (transit wide : Bool) (m : Msg) : PacketsOnly s (pushEgress s port transit wide m) :=
  .ite rfl rfl

theorem lateAnswer_packets (core eng : Nat) : PacketsOnly s (lateAnswer s core eng) := .ite rfl rfl

theorem dmLanded_packets (p : Packet) (core slot seq : Nat) (resp : Bool) : PacketsOnly s (dmLanded s p core slot seq resp) := by
  refine .ite (lateAnswer_packets s core 4) (.ite rfl ?_)
  split
  · exact .ite rfl rfl
  · rfl

theorem landed_packets (p : Packet) : PacketsOnly s (landed s p) := by
  unfold landed
  split
  · rfl
  · exact pushEgress_packets ..
  · exact .ite rfl (pushEgress_packets ..)
  · exact dmLanded_packets ..

theorem refuse_packets (p : Packet) : PacketsOnly s (refuse s p) := by
  unfold refuse
  split
  · rfl
  · exact .ite rfl rfl
  · rfl
  · rfl

theorem rotate_packets (p : Packet) (q : Place) : PacketsOnly s (rotate s p q) := by
  have turn (k : Nat) : PacketsOnly s { s with fabric := { s.fabric with rot := store s.fabric.rot k ((look s.fabric.rot k 0 + 1) % 40) } } := rfl
  unfold rotate
  extract_lets turns across
  refine .ite (.refl s) ?_
  split
  · exact turn _
  · exact turn _
  · exact .refl s

/-- The count of a packet that leaves its place, or its source. -/
theorem countOut_packets (p : Packet) :
    PacketsOnly s (match p.here with | some q => countPast s q p.flits | none => countIn s p.src p.cw p.flits) := by
  split
  · exact countPast_packets ..
  · exact countIn_packets ..

theorem takeHop_packets (p : Packet) (h : Hop) : PacketsOnly s (takeHop s p h) := by
  unfold takeHop
  extract_lets _ u v
  have hv : PacketsOnly s v := (show PacketsOnly s u from rfl).trans (countOut_packets u p)
  clear_value v
  split
  · exact hv.trans (landed_packets ..)
  · exact hv.trans (refuse_packets ..)
  · exact hv.trans ((rotate_packets ..).trans (inject_packets ..))

theorem setArb_packets (o : Bool × Place) (a : Arb) : PacketsOnly s (setArb s o a) := rfl

theorem serveOutput_packets (l : List (Nat × Packet × Hop)) (o : Bool × Place) : PacketsOnly s (serveOutput s l o) := by
  unfold serveOutput
  extract_lets mine
  split
  split
  · exact setArb_packets ..
  · exact (setArb_packets ..).trans (takeHop_packets ..)

theorem markWaiting_packets (d : Nat) : PacketsOnly s (markWaiting s d) := by
  unfold markWaiting
  extract_lets reg waits full new at_ depth _ u v w
  have hv : PacketsOnly s v := (show PacketsOnly s u from rfl).trans
    (Same.foldl (fun u b _ => .ite (bump64_packets u _ _ _) (.refl u)) _)
  clear_value v
  exact hv.trans ((show PacketsOnly v w from rfl).trans rfl)

theorem fabricCycle_packets : PacketsOnly s (fabricCycle s) := by
  unfold fabricCycle
  extract_lets l u v
  have hu : PacketsOnly s u := Same.foldl (fun u o _ => serveOutput_packets u l o) _
  have hv : PacketsOnly u v := Same.foldl (fun u d _ => .ite (markWaiting_packets u d) (.refl u)) _
  clear_value u v
  exact (hu.trans hv).trans rfl

theorem fabricRun_packets : PacketsOnly s (fabricRun s) := by
  unfold fabricRun
  split
  · rfl
  · exact (fabricCycle_packets s).trans (fabricCycle_packets _)

end Packets

/-! ### What counting changes -/

/-- The state without what the counters of cycles and the times of the cores stand in: cores, contexts, sites and the free values. -/
def sansCounts (s : State) : State := { s with cores := [], ctxs := [], sites := [], fresh := 0 }

abbrev CountsOnly (s t : State) : Prop := Same sansCounts s t

theorem siteBump64_counts (s : State) (core off n : Nat) : CountsOnly s (siteBump64 s core off n) := rfl
theorem siteBump32_counts (s : State) (core off n : Nat) : CountsOnly s (siteBump32 s core off n) := rfl

theorem countCycles_counts (core : Nat) (s : State) (c : Nat × Bool) : CountsOnly s (countCycles core s c) := by
  have hfresh : CountsOnly s (freshNat s).2 := rfl
  unfold countCycles
  dsimp only
  split
  · exact hfresh.trans (siteBump64_counts ..)
  · exact hfresh.trans (siteBump32_counts ..)

theorem coreTick_counts (n : Nat) (s : State) (core : Nat) : CountsOnly s (coreTick n s core) := by
  have hite (b : Bool) (u : State) (off : Nat) : CountsOnly u (if b then siteBump64 u core off n else u) := by
    split
    · exact siteBump64_counts ..
    · exact .refl u
  unfold coreTick
  extract_lets x u v w
  have hv : CountsOnly s v := (hite _ s _).trans (hite _ u _)
  have hw : CountsOnly v w := Same.foldl (fun u c _ => countCycles_counts core u c) _
  clear_value v w
  exact (hv.trans hw).trans rfl

theorem skipAwaits_counts (s : State) (n : Nat) : CountsOnly s (skipAwaits s n) := rfl
theorem skipWaits_counts (s : State) : CountsOnly s (skipWaits s) := rfl

/-! ### The hub bridges -/

theorem getPage_bump64_of_ne (s : State) {pg k : Nat} (off n : Nat) (h : k ≠ pg) : getPage (bump64 s pg off n) k = getPage s k := by
  unfold bump64 setReg64 setReg
  rw [modPage_eq, getPage_setPage_of_ne _ _ _ h, modPage_eq, getPage_setPage_of_ne _ _ _ h]

/-- The hub bridges' counters change, by free numbers, and no other page. -/
structure HubCounts (s t : State) : Prop where
  only : Same (fun x => ({ x with pages := [], fresh := 0 } : State)) s t
  pages : ∀ pg, (∀ d, d < 4 → pg ≠ pgBridge (3 * d + 2)) → getPage t pg = getPage s pg

theorem HubCounts.refl (s : State) : HubCounts s s := ⟨.refl s, fun _ _ => rfl⟩

theorem HubCounts.trans {s t u : State} (a : HubCounts s t) (b : HubCounts t u) : HubCounts s u :=
  ⟨a.only.trans b.only, fun pg h => (b.pages pg h).trans (a.pages pg h)⟩

theorem HubCounts.foldl {α : Type} {f : State → α → State} {l : List α} (h : ∀ s, ∀ a ∈ l, HubCounts s (f s a)) (s : State) :
    HubCounts s (l.foldl f s) :=
  ⟨Same.foldl (fun s a ha => (h s a ha).only) s, fun pg hpg =>
    Same.foldl (view := (getPage · pg)) (fun s a ha => (h s a ha).pages pg hpg) s⟩

theorem hubBridgeTick_counts {d : Nat} (hd : d < 4) (s : State) : HubCounts s (hubBridgeTick s d) := by
  unfold hubBridgeTick
  dsimp only
  split
  · refine HubCounts.foldl (fun u o _ => ?_) s
    have hfresh : HubCounts u (freshNat u).2 := ⟨rfl, fun _ _ => rfl⟩
    exact hfresh.trans ⟨rfl, fun pg hpg => getPage_bump64_of_ne _ _ _ (hpg d hd)⟩
  · exact .refl s

theorem hubBridges_count (s : State) : HubCounts s ((List.range 4).foldl hubBridgeTick s) :=
  HubCounts.foldl (fun u _ hd => hubBridgeTick_counts (List.mem_range.1 hd) u) s

/-! ### Time passes -/

/-- The state without the odometer and its trim. -/
def sansTime (s : State) : State := { s with odometer := 0, time := {} }

/-- A nanosecond moves the odometer by at most 2, and only while the input is powered, and changes the trim's own state. -/
theorem idle_time (s : State) : Same sansTime s (idle s) ∧
    s.odometer ≤ (idle s).odometer ∧ (idle s).odometer ≤ s.odometer + 2 ∧
    (s.power.state = .off → (idle s).odometer = s.odometer) := by
  have hend {t : State} (h : Same sansTime s t) (h1 : s.odometer ≤ t.odometer)
      (h2 : t.odometer ≤ s.odometer + 2) (hon : s.power.state ≠ .off) : Same sansTime s t ∧
      s.odometer ≤ t.odometer ∧ t.odometer ≤ s.odometer + 2 ∧ (s.power.state = .off → t.odometer = s.odometer) :=
    ⟨h, h1, h2, fun hoff => absurd hoff hon⟩
  unfold idle
  extract_lets time f
  split
  · exact ⟨rfl, Nat.le_refl _, Nat.le_add_right .., fun _ => rfl⟩
  · rename_i hon
    have hon : s.power.state ≠ .off := by simpa using hon
    split
    · split
      · exact hend rfl (Nat.le_succ _) (Nat.le_succ _) hon
      · exact hend rfl (Nat.le_refl _) (Nat.le_add_right ..) hon
    · split
      · exact hend rfl (Nat.le_add_right ..) (Nat.le_refl _) hon
      · split
        · exact hend rfl (Nat.le_refl _) (Nat.le_add_right ..) hon
        · exact hend rfl (Nat.le_succ _) (Nat.le_succ _) hon

/-- A fold whose steps all leave its state. -/
theorem foldl_eq_self {α β : Type} {f : β → α → β} {l : List α} {s : β} (h : ∀ a ∈ l, f s a = s) : l.foldl f s = s := by
  induction l with
  | nil => rfl
  | cons a t ih =>
    rw [List.foldl_cons, h a (List.mem_cons_self ..)]
    exact ih fun b hb => h b (List.mem_cons_of_mem _ hb)

/-- Where nothing waits, nothing goes on. -/
theorem runWaiting_of_nothing {s : State} (h : NothingWaits s) : runWaiting s = s := by
  obtain ⟨hbar4, hlate, hexchanges, htests⟩ := h
  have hland : landLate s = s := by
    unfold landLate
    rw [hlate]
    exact congrArg (fun l => { s with late := l }) hlate.symm
  have hslots : ∀ d ∈ List.range 4, (getIx s d).slots = [] ∧ (getCol s d).slots = [] := fun d hd => hexchanges d (List.mem_range.1 hd)
  have hrerun : rerunAll s = s := by
    unfold rerunAll
    rw [List.filter_eq_nil_iff.2]
    · rfl
    · intro e he
      cases hv : e.2.saving with
      | none => simp
      | some v => simp [htests e he v hv]
  unfold runWaiting
  rw [hland, hbar4]
  show rerunAll (List.foldl _ s _) = s
  rw [foldl_eq_self]
  · exact hrerun
  · intro d hd
    obtain ⟨hix, hcol⟩ := hslots d hd
    rw [hix, List.map_nil, List.foldl_nil]
    dsimp only
    rw [hcol]
    rfl

/-- What a state that nothing waits in may change. -/
theorem NothingWaits.of_same {view : State → State} {s t : State} (h : NothingWaits s) (ht : Same view s t)
    (hb : ∀ x, (view x).bar4Q = x.bar4Q) (hl : ∀ x, (view x).late = x.late) (hi : ∀ x, (view x).ixs = x.ixs)
    (hc : ∀ x, (view x).cols = x.cols) (hx : ∀ x, (view x).ctxs = x.ctxs) : NothingWaits t where
  bar4 := (ht.get State.bar4Q hb).trans h.bar4
  late := (ht.get State.late hl).trans h.late
  exchanges d hd := by
    have hix : getIx t d = getIx s d := congrArg (look · d _) (ht.get State.ixs hi)
    have hcol : getCol t d = getCol s d := congrArg (look · d _) (ht.get State.cols hc)
    rw [hix, hcol]
    exact h.exchanges d hd
  tests := by
    have hctxs : t.ctxs = s.ctxs := ht.get State.ctxs hx
    rw [hctxs]
    exact h.tests

theorem NothingWaits.fabricRun_idle {s : State} (h : NothingWaits s) : NothingWaits (fabricRun (idle s)) :=
  (h.of_same (idle_time s).1 (fun _ => rfl) (fun _ => rfl) (fun _ => rfl) (fun _ => rfl) (fun _ => rfl)).of_same
    (fabricRun_packets _) (fun _ => rfl) (fun _ => rfl) (fun _ => rfl) (fun _ => rfl) (fun _ => rfl)

/-- The state without what a nanosecond counts: pages, cores, contexts, sites and the free values. -/
def sansTicks (s : State) : State := { s with pages := [], cores := [], ctxs := [], sites := [], fresh := 0 }

/-- Where nothing waits, a nanosecond moves packets, and counts: on the cores, and of the pages on those of the hub bridges alone. -/
theorem tick_of_nothing {s : State} (h : NothingWaits s) :
    Same sansTicks (fabricRun (idle s)) (tick s) ∧
      ∀ pg, (∀ d, d < 4 → pg ≠ pgBridge (3 * d + 2)) → getPage (tick s) pg = getPage (fabricRun (idle s)) pg := by
  have hrun : runWaiting (fabricRun (idle s)) = fabricRun (idle s) :=
    runWaiting_of_nothing h.fabricRun_idle
  have hhub := hubBridges_count (fabricRun (idle s))
  have hcount (u : State) (n : Nat) :
      CountsOnly u (skipWaits (skipAwaits ((u.cores.map (fun e => e.1)).foldl (coreTick n) u) n)) :=
    ((Same.foldl (fun v c _ => coreTick_counts n v c) u).trans (skipAwaits_counts ..)).trans (skipWaits_counts _)
  unfold tick
  rw [hrun]
  refine ⟨?_, fun pg hpg => ?_⟩
  · refine Same.trans (t := (List.range 4).foldl hubBridgeTick (fabricRun (idle s))) ?_ ?_
    · exact hhub.only.forget (fun x => { x with cores := [], ctxs := [], sites := [] }) fun _ => rfl
    · exact (hcount _ _).forget (fun x => { x with pages := [] }) fun _ => rfl
  · exact ((hcount _ _).get (getPage · pg) fun _ => rfl).trans (hhub.pages pg hpg)

/-- Fabrics without a packet are at rest. -/
theorem fabricRun_of_empty {s : State} (h : s.fabric.packets = []) : fabricRun s = { s with fabric := { s.fabric with arbs := [] } } := by
  unfold fabricRun
  rw [h]
  rfl

/-- Settles O1: a step is the front command's effect; with an empty queue time passes, and with nothing that waits time alone. -/
theorem stepRunsFront : Obligations.StepRunsFront := by
  intro c rest s
  refine ⟨fun hq => ?_, fun hq => ?_⟩
  · unfold step
    rw [hq]
  · have hstep : step s = .next (tick s) := by
      unfold step
      rw [hq]
    refine ⟨tick s, hstep, (tick_keeps s (.refl (wr := true) s)).queue.trans hq, fun hn => ?_⟩
    obtain ⟨hview, hpages⟩ := tick_of_nothing hn
    obtain ⟨hidle, hle, hlt, hoff⟩ := idle_time s
    have hpackets := fabricRun_packets (idle s)
    refine ⟨?_, ?_, fun hempty => ?_⟩
    · exact (hview.get State.hbm fun _ => rfl).trans ((hpackets.get State.hbm fun _ => rfl).trans (hidle.get State.hbm fun _ => rfl))
    · exact (hview.get State.record fun _ => rfl).trans ((hpackets.get State.record fun _ => rfl).trans (hidle.get State.record fun _ => rfl))
    · have hfab : (idle s).fabric = s.fabric := hidle.get State.fabric fun _ => rfl
      have hrest := fabricRun_of_empty (hfab ▸ hempty)
      rw [hrest] at hview hpages
      have hodo : (tick s).odometer = (idle s).odometer := hview.get State.odometer fun _ => rfl
      rw [hodo]
      refine ⟨hle, hlt, hoff, ?_, ?_, fun pg hpg => ?_, ?_, ?_, ?_⟩
      · exact (hview.get (fun x => x.fabric.packets) fun _ => rfl).trans (hfab ▸ hempty)
      · exact (hview.get State.net fun _ => rfl).trans (hidle.get State.net fun _ => rfl)
      · exact (hpages pg hpg).trans (hidle.get (getPage · pg) fun _ => rfl)
      · exact (hview.get State.power fun _ => rfl).trans (hidle.get State.power fun _ => rfl)
      · exact (hview.get State.ports fun _ => rfl).trans (hidle.get State.ports fun _ => rfl)
      · exact (hview.get State.hostLog fun _ => rfl).trans (hidle.get State.hostLog fun _ => rfl)

end Sys2Proof.Machine
end

section
/-!
PROOFS. Registers of a page, and the rules of the frame map port, the poison log, the remote-line caches, the routing port and the
telemetry of a stop (chapters 10 and 13).
-/
namespace Sys2Proof.Machine

/-! ### Stored registers of a page -/

section Registers
variable (s : State) (pg off v : Nat)

@[simp] theorem regOf_setReg_self : regOf (setReg s pg off v) pg off = v % 2 ^ 32 := by
  simp [regOf, setReg, modPage_eq, look_store_self]

theorem regOf_setReg_of_ne {off' : Nat} (h : off' ≠ off) : regOf (setReg s pg off v) pg off' = regOf s pg off' := by
  simp [regOf, setReg, modPage_eq, look_store_of_ne _ _ _ h]

theorem regOf_setReg_page {pg' : Nat} (off' : Nat) (h : pg' ≠ pg) : regOf (setReg s pg off v) pg' off' = regOf s pg' off' := by
  simp [regOf, setReg, modPage_eq, getPage_setPage_of_ne _ _ _ h]

theorem reg64_setReg64 (hv : v < 2 ^ 64) : reg64 (setReg64 s pg off v) pg off = v := by
  unfold reg64 setReg64
  rw [regOf_setReg_of_ne _ _ _ _ (by omega), regOf_setReg_self, regOf_setReg_self]
  omega

/-- A register is read from the pages alone. -/
theorem regOf_congr {s t : State} (h : t.pages = s.pages) (pg off : Nat) : regOf t pg off = regOf s pg off := by
  simp only [regOf, getPage, h]

theorem reg64_congr {s t : State} (h : t.pages = s.pages) (pg off : Nat) : reg64 t pg off = reg64 s pg off := by
  simp only [reg64, regOf_congr h]

end Registers

/-! ### The frame map port (R202, R220) -/

/-- The state without what the caches of a frame's entry and lines hold: the cores, with the counters of their sites, and the
remote-line caches. -/
def sansCaches (s : State) : State := { s with cores := [], sites := [], rlcs := [] }

section Caches
variable (s : State)

theorem squashAll_caches (core : Nat) (l : List WEnt) : Same sansCaches s (squashAll s core l) := by
  unfold squashAll
  refine Same.foldl (fun s e _ => ?_) s
  exact .ite rfl (.refl s)

theorem dropFrame_caches (core f : Nat) : Same sansCaches s (dropFrame s core f) :=
  (squashAll_caches s core _).trans rfl

theorem dropLinesAll_caches (p : Nat → Bool) : Same sansCaches s (dropLinesAll s p) := by
  unfold dropLinesAll
  refine Same.foldl (fun s d _ => ?_) s
  rfl

/-- Dropping a frame from every cache changes the caches alone. -/
theorem dropFrameAll_caches (f : Nat) : Same sansCaches s (dropFrameAll s f) :=
  (Same.foldl (fun s c _ => .ite (.refl s) (dropFrame_caches s c f)) s).trans (dropLinesAll_caches _ _)

@[simp] theorem dropFrameAll_fm (f : Nat) : (dropFrameAll s f).fm = s.fm :=
  (dropFrameAll_caches s f).get (fun x => x.fm) (fun _ => rfl)

@[simp] theorem dropFrameAll_pages (f : Nat) : (dropFrameAll s f).pages = s.pages :=
  (dropFrameAll_caches s f).get (fun x => x.pages) (fun _ => rfl)

end Caches

theorem frameEntry_setEntry_self (s : State) (f e : Nat) : frameEntry (setEntry s f e) f = e := by
  unfold frameEntry setEntry
  split
  · simp_all [look_drop1_self]
  · exact look_store_self ..

theorem frameEntry_setEntry_of_ne (s : State) {f g : Nat} (e : Nat) (h : g ≠ f) :
    frameEntry (setEntry s f e) g = frameEntry s g := by
  unfold frameEntry setEntry
  split
  · exact look_drop1_of_ne _ _ h
  · exact look_store_of_ne _ _ _ h

/-- The frame map is read from its port's state alone. -/
theorem frameEntry_congr {s t : State} (h : t.fm.entries = s.fm.entries) (f : Nat) : frameEntry t f = frameEntry s f := by
  simp only [frameEntry, h]

@[simp] theorem frameEntry_dropFrameAll (s : State) (f g : Nat) : frameEntry (dropFrameAll s f) g = frameEntry s g :=
  frameEntry_congr (congrArg FrameMap.entries (dropFrameAll_fm s f)) g

/-- The port after an operation that ended with a code. -/
def endFm (s : State) (c : Code) : State := { s with fm := { s.fm with op := none, code := c.num } }

section EndFm
variable (s : State) (c : Code)

@[simp] theorem endFm_op : (endFm s c).fm.op = none := (rfl)
@[simp] theorem endFm_code : (endFm s c).fm.code = c.num := (rfl)
@[simp] theorem endFm_entries : (endFm s c).fm.entries = s.fm.entries := (rfl)
@[simp] theorem endFm_pages : (endFm s c).pages = s.pages := (rfl)
@[simp] theorem frameEntry_endFm (f : Nat) : frameEntry (endFm s c) f = frameEntry s f := (rfl)

end EndFm

@[simp] theorem frameEntry_setClaim (s : State) (e : Nat) (v : Option Nat) (f : Nat) :
    frameEntry (setClaim s e v) f = frameEntry s f := rfl

theorem exec_fmOpDone_ready {s : State} {o : FmOp} (ho : s.fm.op = some o) (hb : o.before = 0) (hu : frameInUse s o.frame = false)
    (hr : fmReady s o = true) :
    exec .fmOpDone s = .next (endFm (fmRun s o).1 (fmRun s o).2) := by
  show execFmOpDone s = _
  simp [execFmOpDone, ho, hb, poisonsBefore, hu, hr, endFm]

theorem exec_fmOpDone_waits {s : State} {o : FmOp} (ho : s.fm.op = some o) (hb : o.before = 0)
    (hw : frameInUse s o.frame = true ∨ fmReady s o = false) : exec .fmOpDone s = .next s := by
  have hc : (frameInUse s o.frame || !fmReady s o) = true := by rcases hw with h | h <;> simp [h]
  have hs : { s with fm := { s.fm with op := some { o with before := 0 } } } = s := by rw [← hb, ← ho]
  show execFmOpDone s = _
  simp only [execFmOpDone, ho, hb, poisonsBefore, hc, if_true, hs]

theorem exec_fmOpDone_poisonsWait {s : State} {o : FmOp} (ho : s.fm.op = some o) (hb : o.before ≠ 0) (hp : poisonReady s = false) :
    exec .fmOpDone s = .next s := by
  obtain ⟨n, hn⟩ := Nat.exists_eq_succ_of_ne_zero hb
  have hbefore : poisonsBefore o.before s = (s, n + 1) := by simp [hn, poisonsBefore, hp]
  have hs : { s with fm := { s.fm with op := some { o with before := n + 1 } } } = s := by rw [← Nat.succ_eq_add_one, ← hn, ← ho]
  show execFmOpDone s = _
  simp only [execFmOpDone, ho, hbefore, hs]

/-! #### What each operation does, once its words can be read and written -/

section Run
variable {s : State} {o : FmOp} (hm : (fmWords s o).findSome? (mapFail s) = none)
include hm

theorem fmRun_read (h : o.op = 1) :
    fmRun s o = (dropFrameAll (setReg64 s fmPage 0x10C (frameEntry s o.frame)) o.frame, .done) := by
  simp [fmRun, hm, h]

theorem fmRun_invalidate (h : o.op = 3) :
    fmRun s o = (dropFrameAll (setEntry (if feState (frameEntry s o.frame) != 0 then setClaim s (frameEntry s o.frame) none else s)
      o.frame 0) o.frame, .done) := by
  simp [fmRun, hm, h]

theorem fmRun_retire (h : o.op = 4) (hv : feState (frameEntry s o.frame) = 1) :
    fmRun s o = (dropFrameAll (setEntry s o.frame (frameEntry s o.frame + 1)) o.frame, .done) := by
  simp [fmRun, hm, h, hv]

/-- The port after the operation. -/
theorem fmEnd_read (h : o.op = 1) :
    let t := endFm (fmRun s o).1 (fmRun s o).2
    t.fm.code = 0 ∧ t.fm.entries = s.fm.entries ∧
      (frameEntry s o.frame < 2 ^ 64 → reg64 t fmPage 0x10C = frameEntry s o.frame) := by
  rw [fmRun_read hm h]
  refine ⟨rfl, by simp [setReg64, setReg, modPage_eq], fun hlt => ?_⟩
  exact (reg64_congr (s := setReg64 s fmPage 0x10C (frameEntry s o.frame)) (by rw [endFm_pages, dropFrameAll_pages]) ..).trans
    (reg64_setReg64 _ _ _ _ hlt)

theorem fmEnd_invalidate (h : o.op = 3) :
    let t := endFm (fmRun s o).1 (fmRun s o).2
    t.fm.code = 0 ∧ frameEntry t o.frame = 0 ∧ ∀ f, f ≠ o.frame → frameEntry t f = frameEntry s f := by
  rw [fmRun_invalidate hm h]
  refine ⟨rfl, by simp [frameEntry_setEntry_self], fun f hf => ?_⟩
  rw [frameEntry_endFm, frameEntry_dropFrameAll, frameEntry_setEntry_of_ne _ _ hf]
  split <;> simp

theorem fmEnd_retire (h : o.op = 4) (hv : feState (frameEntry s o.frame) = 1) :
    let t := endFm (fmRun s o).1 (fmRun s o).2
    t.fm.code = 0 ∧ frameEntry t o.frame = frameEntry s o.frame + 1 ∧ ∀ f, f ≠ o.frame → frameEntry t f = frameEntry s f := by
  rw [fmRun_retire hm h hv]
  exact ⟨rfl, by simp [frameEntry_setEntry_self], fun f hf => by simp [frameEntry_setEntry_of_ne _ _ hf]⟩

theorem fmRun_retire_refused (h : o.op = 4) (hv : feState (frameEntry s o.frame) ≠ 1) : fmRun s o = (s, .wrongState) := by
  simp [fmRun, hm, h, hv]

end Run

theorem fmRun_fails {s : State} {o : FmOp} {c : Code} (h : (fmWords s o).findSome? (mapFail s) = some c) : fmRun s o = (s, c) := by
  simp [fmRun, h]

/-- An accepted write of FM_CTL begins its operation; another one is refused. -/
theorem fmStart_begins {s : State} {p op : Nat} {zero : Bool} (hw : writable s p fmPage 0x114 = true) (hop : s.fm.op = none)
    (hf : (op == 0 || 4 < op || (zero && op != 2) || (op == 2 && fmEntryBad s (reg64 s fmPage 0x10C))) = false) :
    fmStart s p op zero = { s with fm := { s.fm with op := some {
      op := op, zero := zero, frame := regOf s fmPage 0x108, entry := reg64 s fmPage 0x10C, start := s.odometer,
      before := s.fm.poisonQ.length } } } := by
  unfold fmStart
  exact writeReg_applied hw (by simp only [List.forall_mem_cons]; exact ⟨hf, by simp [hop], nofun⟩)

theorem fmStart_busy {s : State} {p op : Nat} (hw : writable s p fmPage 0x114 = true) (hop : s.fm.op ≠ none)
    (hf : op = 1 ∨ op = 3 ∨ op = 4) : fmStart s p op false = reject s fmPage 0x114 .busy := by
  unfold fmStart
  refine writeReg_refused hw ?_
  have := Option.isSome_iff_ne_none.2 hop
  rcases hf with rfl | rfl | rfl <;> simp [firstFail, this]

theorem fmStart_badField {s : State} {p : Nat} {zero : Bool} (hw : writable s p fmPage 0x114 = true)
    (hb : fmEntryBad s (reg64 s fmPage 0x10C) = true) : fmStart s p 2 zero = reject s fmPage 0x114 .badField := by
  unfold fmStart
  exact writeReg_refused hw (by simp [firstFail, hb])

/-- Settles O14, operation by operation. -/
theorem frameMapPort : Obligations.FrameMapPort := by
  refine ⟨fun p zero s hw => ⟨fun hop => ⟨?_, ?_, ?_, fun hb => ?_, fun hb => ?_⟩, fun hop => ⟨?_, ?_, ?_⟩⟩,
    fun o s ho => ⟨fun hb hp => exec_fmOpDone_poisonsWait ho hb hp, fun hb hw => exec_fmOpDone_waits ho hb hw⟩,
    fun o c s ho hb hu hr hm => ?_, fun o s ho hb hu hr hm => ⟨_, exec_fmOpDone_ready ho hb hu hr, endFm_op .., ?_, ?_, ?_, ?_⟩⟩
  · exact congrArg Host.Outcome.next (fmStart_begins hw hop (by simp))
  · exact congrArg Host.Outcome.next (fmStart_begins hw hop (by simp))
  · exact congrArg Host.Outcome.next (fmStart_begins hw hop (by simp))
  · exact congrArg Host.Outcome.next (fmStart_begins hw hop (by simp [hb]))
  · exact congrArg Host.Outcome.next (fmStart_badField hw hb)
  · exact congrArg Host.Outcome.next (fmStart_busy hw hop (by simp))
  · exact congrArg Host.Outcome.next (fmStart_busy hw hop (by simp))
  · exact congrArg Host.Outcome.next (fmStart_busy hw hop (by simp))
  · rw [exec_fmOpDone_ready ho hb hu hr, fmRun_fails hm]
    rfl
  · exact fun h => fmEnd_read hm h
  · exact fun h => fmEnd_invalidate hm h
  · exact fun h hv => fmEnd_retire hm h hv
  · intro h hv
    rw [fmRun_retire_refused hm h hv]
    exact ⟨rfl, rfl⟩

/-! ### The poison log (R206, R220) -/

/-- The mark of the queue's first frame f, whose failing access claimed i. -/
def markPoisoned (s : State) (f i : Nat) : State :=
  let e := frameEntry s f
  if feState e == 1 && claimIndex (ilSplit s) e == i && (mapFail s (entryAddr f)).isNone then
    dropFrameAll (if fePoison e then s else setEntry s f (e + 32)) f
  else s

/-- The queue's first frame joins the log. -/
def logPoison (s : State) (f : Nat) (rest : List (Nat × Nat)) : State :=
  { s with fm := { s.fm with
    poisonQ := rest, log := if 64 ≤ s.fm.log.length then s.fm.log else s.fm.log ++ [f],
    logOver := s.fm.logOver || decide (64 ≤ s.fm.log.length) } }

theorem poisonNext_cons {s : State} {f i : Nat} {rest : List (Nat × Nat)} (h : s.fm.poisonQ = (f, i) :: rest) :
    poisonNext s = logPoison (markPoisoned s f i) f rest := by
  simp only [poisonNext, h]
  rfl

/-- The mark changes no more of the frame map's port than its entries. -/
theorem markPoisoned_fm (s : State) (f i : Nat) :
    (markPoisoned s f i).fm = { s.fm with entries := (markPoisoned s f i).fm.entries } := by
  unfold markPoisoned
  dsimp only
  split
  · rw [dropFrameAll_fm]
    split <;> rfl
  · rfl

theorem frameEntry_markPoisoned_of_ne (s : State) {f g : Nat} (i : Nat) (h : g ≠ f) :
    frameEntry (markPoisoned s f i) g = frameEntry s g := by
  unfold markPoisoned
  dsimp only
  split
  · refine (frameEntry_congr (congrArg FrameMap.entries (dropFrameAll_fm ..)) _).trans ?_
    split
    · rfl
    · exact frameEntry_setEntry_of_ne _ _ h
  · rfl

theorem frameEntry_markPoisoned {s : State} {f i : Nat} (hv : feState (frameEntry s f) = 1)
    (hc : claimIndex (ilSplit s) (frameEntry s f) = i) (hm : mapFail s (entryAddr f) = none) (hp : fePoison (frameEntry s f) = false) :
    frameEntry (markPoisoned s f i) f = frameEntry s f + 32 := by
  simp only [markPoisoned, hv, hc, hm, hp, beq_self_eq_true, Option.isNone_none, Bool.and_self, if_true, Bool.false_eq_true, if_false]
  exact (frameEntry_congr (congrArg FrameMap.entries (dropFrameAll_fm ..)) _).trans (frameEntry_setEntry_self ..)

theorem markPoisoned_of_invalid {s : State} {f i : Nat} (hv : feState (frameEntry s f) ≠ 1) : markPoisoned s f i = s := by
  simp [markPoisoned, hv]

theorem exec_fmPoison {s : State} (ho : s.fm.op = none) (hr : poisonReady s = true) : exec .fmPoison s = .next (poisonNext s) := by
  show execFmPoison s = _
  simp [execFmPoison, ho, hr]

/-- The number that a read of the poison log gives. -/
def poisonLogWord (s : State) : Nat := (s.fm.log.head?.elim 0 (2 ^ 31 + ·)) + bit s.fm.logOver * 2 ^ 30

theorem readPoisonLog_zero {s : State} (h : gated s fmPage = false) :
    readPoisonLog s 0 = { popPoisonLog s with rdata := BitVec.ofNat 32 (poisonLogWord s) } := by
  simp only [readPoisonLog, h, bne_self_eq_false, Bool.or_self, Bool.false_eq_true, if_false, poisonLogWord]
  cases s.fm.log <;> rfl

/-- Settles O15. -/
theorem poisonLog : Obligations.PoisonLog := by
  refine ⟨fun p s => ⟨fun hp hg => ⟨_, rfl, ?_⟩, fun hp => ?_⟩, fun s hr => ?_, fun f i rest s ho hq hr => ⟨_, exec_fmPoison ho hr, ?_⟩⟩
  · rw [hp, readPoisonLog_zero hg]
    exact ⟨List.drop_one, rfl, rfl, fun h => by simp [poisonLogWord, h], fun f rest h => by simp [poisonLogWord, h]⟩
  · show execPoisonLogRead p s = _
    simp [execPoisonLogRead, readPoisonLog, hp]
  · show execFmPoison s = _
    simp [execFmPoison, hr]
  · rw [poisonNext_cons hq]
    have hfm := markPoisoned_fm s f i
    have hlog : (markPoisoned s f i).fm.log = s.fm.log := by rw [hfm]
    have hover : (markPoisoned s f i).fm.logOver = s.fm.logOver := by rw [hfm]
    refine ⟨rfl, fun hl => ⟨?_, ?_⟩, fun hl => ⟨?_, ?_⟩, fun hv hc hm hp => frameEntry_markPoisoned hv hc hm hp, fun hv => ?_,
      fun g hg => frameEntry_markPoisoned_of_ne s i hg⟩
    · simp only [logPoison, hlog, if_neg (Nat.not_le.2 hl)]
    · simp only [logPoison, hlog, hover, decide_eq_false (Nat.not_le.2 hl), Bool.or_false]
    · simp only [logPoison, hlog, if_pos hl]
    · simp only [logPoison, hlog, decide_eq_true hl, Bool.or_true]
    · rw [markPoisoned_of_invalid hv]
      rfl

/-! ### Remote-line caches (R217, R218) -/

theorem store_store {α : Type} (m : SMap α) (k : Nat) (v w : α) : store (store m k v) k w = store m k w := by
  induction m with
  | nil => simp [store]
  | cons e t ih =>
    obtain ⟨a, x⟩ := e
    by_cases he : k = a
    · simp [store, he]
    · by_cases hl : k < a
      · simp [store, he, hl]
      · simp [store, he, hl, ih]

/-- A flush of an idle cache drops its lines at once. -/
theorem startFlush_idle {s : State} {die : Nat} {f : RlcFlush} (h : (getRlc s die).flush = none) : startFlush s die f =
    setRlc s die { getRlc s die with
      flush := some f, lines := (getRlc s die).lines.filter (fun x => !decide (f.lo ≤ x.line ∧ x.line < f.hi)),
      fills := (getRlc s die).fills.map (fun x => if decide (f.lo ≤ x.line ∧ x.line < f.hi) then { x with dead := true } else x) } := by
  simp only [startFlush, h, dropLines, getRlc_setRlc]
  simp only [setRlc, store_store]

theorem flushCtl_range {s : State} {p d : Nat} (hw : writable s p (pgRlc d) 0x04C = true) (hi : (getRlc s d).flush = none)
    (hb : rlcBase s d + 128 * rlcLines s d ≤ 2 ^ 40) :
    flushCtl s p d true false = startFlush s d { lo := rlcBase s d / 128, hi := rlcBase s d / 128 + rlcLines s d } := by
  unfold flushCtl
  exact writeReg_applied hw (by
    simp only [List.forall_mem_cons]
    exact ⟨by simp only [Bool.true_and, decide_eq_false_iff_not]; omega, by simp [hi], nofun⟩)

theorem flushCtl_all {s : State} {p d : Nat} (hw : writable s p (pgRlc d) 0x04C = true) (hi : (getRlc s d).flush = none) :
    flushCtl s p d false true = startFlush s d { lo := 0, hi := 2 ^ 33 } := by
  unfold flushCtl
  exact writeReg_applied hw (by simp [hi])

/-- Settles O16. -/
theorem remoteLineFlush : Obligations.RemoteLineFlush := by
  refine fun p die s => ⟨fun hw hi hb => ⟨_, congrArg Host.Outcome.next (flushCtl_range hw hi hb), ?_⟩,
    fun hw hi => ⟨_, congrArg Host.Outcome.next (flushCtl_all hw hi), ?_⟩,
    fun f hf hp hq => ⟨addEvent (setRlc s die { getRlc s die with flush := none, waiting := [] }) (pgRlc die) 1, ?_, ?_⟩⟩
  · rw [startFlush_idle hi]
    exact ⟨by rw [getRlc_setRlc], by rw [getRlc_setRlc], fun d hd => getRlc_setRlc_of_ne _ _ _ hd, rfl⟩
  · rw [startFlush_idle hi]
    exact ⟨by rw [getRlc_setRlc], by rw [getRlc_setRlc], fun d hd => getRlc_setRlc_of_ne _ _ _ hd, rfl⟩
  · show execRlcFlushDone die s = _
    simp [execRlcFlushDone, hf, hp, hq]
  · simp [addEvent, modPage_eq]

/-! ### Telemetry of a stop (R271) -/

theorem getTel_setTel (s : State) (d : Nat) (x : Tel) : getTel (setTel s d x) d = x := look_store_self ..

theorem getTel_setTel_of_ne (s : State) {d e : Nat} (x : Tel) (h : e ≠ d) : getTel (setTel s d x) e = getTel s e :=
  look_store_of_ne _ _ _ h

/-- The telemetry registers of a stop whose counts have just started. -/
theorem fabricRead_fresh {s : State} {die : Nat} (h : getTel s die = {}) {o : Nat} (ho : o ∈ [0x054, 0x058, 0x05C, 0x060, 0x064]) :
    fabricRead s die o = 0 := by
  simp only [fabricRead, h]
  simp only [List.mem_cons, List.not_mem_nil, or_false] at ho
  rcases ho with rfl | rfl | rfl | rfl | rfl <;> rfl

/-- Settles O17. -/
theorem telemetry : Obligations.Telemetry := by
  refine fun p die val s => ⟨fun hw hv hstop => ⟨telSelect s die val.toNat, congrArg Host.Outcome.next ?_, ?_⟩,
    fun ho hg => ⟨{ clearDepth s die with rdata := BitVec.ofNat 32 ((getTel s die).depth % 32) }, ?_, ?_⟩, fun ho => ?_⟩
  · exact writeReg_applied hw (by
      simp only [List.forall_mem_cons]
      exact ⟨outside_of_lt (n := 17) hv (by decide), by simp [hstop], nofun⟩)
  · have hreg (o : Nat) : regOf (telSelect s die val.toNat) (pgFabric die) o =
        regOf (setReg s (pgFabric die) 0x050 val.toNat) (pgFabric die) o := rfl
    refine ⟨?_, fun o ho => fabricRead_fresh (getTel_setTel ..) ho, fun o ho => ?_, fun d hd => getTel_setTel_of_ne _ _ hd, rfl, rfl⟩
    · rw [hreg, regOf_setReg_self, Nat.mod_eq_of_lt val.isLt]
    · rw [hreg, regOf_setReg_of_ne _ _ _ _ ho]
  · show execTelDepthRead p die s = _
    simp [execTelDepthRead, telDepthRead, ho, hg]
  · refine ⟨?_, getTel_setTel .., fun d hd => getTel_setTel_of_ne _ _ hd, rfl, rfl⟩
    simp only [BitVec.toNat_ofNat]
    omega
  · show execTelDepthRead p die s = _
    simp [execTelDepthRead, telDepthRead, ho]

/-! ### The routing port (R263 to R266) -/

theorem rtStart_begins {s : State} {p d : Nat} (op : Nat) (hw : writable s p (pgRoute d) 0x108 = true) (hi : (getRoute s d).op = none) :
    rtStart s p d op = setRoute s d { getRoute s d with op := some {
      op := op, index := regOf s (pgRoute d) 0x100 % 65536, bank := bitOf (regOf s (pgRoute d) 0x100) 16,
      data := regOf s (pgRoute d) 0x104 } } := by
  unfold rtStart
  exact writeReg_applied hw (by simp [hi])

theorem rtStart_busy {s : State} {p d : Nat} (op : Nat) (hw : writable s p (pgRoute d) 0x108 = true) (hi : (getRoute s d).op ≠ none) :
    rtStart s p d op = reject s (pgRoute d) 0x108 .busy := by
  unfold rtStart
  exact writeReg_refused hw (by simp [firstFail, Option.isSome_iff_ne_none.2 hi])

@[simp] theorem activeBank_withStandby (r : Route) (b : SMap Nat) : activeBank (withStandby r b) = activeBank r := by
  unfold activeBank withStandby
  split <;> simp_all

@[simp] theorem standbyBank_withStandby (r : Route) (b : SMap Nat) : standbyBank (withStandby r b) = b := by
  unfold standbyBank withStandby
  split <;> simp_all

@[simp] theorem withStandby_op (r : Route) (b : SMap Nat) : (withStandby r b).op = r.op := by
  unfold withStandby
  split <;> rfl

@[simp] theorem withStandby_code (r : Route) (b : SMap Nat) : (withStandby r b).code = r.code := by
  unfold withStandby
  split <;> rfl

/-- What an operation of the routing port leaves in the port. -/
def routeAfter (s : State) (d : Nat) (o : RtOp) : Route :=
  let r := getRoute s d
  let done := { r with op := none, code := 0 }
  if o.op == 1 then done
  else if o.op == 2 then
    if badEntry o.data then { r with op := none, code := Code.badField.num }
    else withStandby done (if o.data == 0 then drop1 (standbyBank r) o.index else store (standbyBank r) o.index o.data)
  else if o.op == 3 then withStandby done (activeBank r)
  else if o.op == 4 then
    match firstFail [(!r.hold || outstanding s d != 0, .wrongState), ((standbyBank r).any (fun e => badRoute s e.2), .absent)] with
    | some c => { r with op := none, code := c.num }
    | none => { done with active := !r.active }
  else withStandby done []

theorem exec_rtOpDone {s : State} {die : DieId} {o : RtOp} (ho : (getRoute s die).op = some o) :
    Runs (.rtOpDone die) s (fun t => getRoute t die = routeAfter s die o ∧
      (o.op = 1 → regOf t (pgRoute die) 0x104 =
        look (if o.bank then standbyBank (getRoute s die) else activeBank (getRoute s die)) o.index 0 % 2 ^ 32)) := by
  refine ⟨_, rfl, ?_⟩
  simp only [ho, routeAfter]
  by_cases h1 : o.op = 1
  · simp [h1, setReg, modPage_eq, regOf, look_store_self]
  · simp only [h1, beq_iff_eq, if_false, false_implies, and_true]
    split
    · split <;> simp
    · split
      · simp
      · split
        · split <;> simp_all
        · simp

section RouteAfter
variable {s : State} {d : Nat} {o : RtOp}

@[simp] theorem routeAfter_op : (routeAfter s d o).op = none := by
  unfold routeAfter
  dsimp only
  split
  · rfl
  · split
    · split
      · rfl
      · exact withStandby_op ..
    · split
      · exact withStandby_op ..
      · split
        · split <;> rfl
        · exact withStandby_op ..

theorem activeBank_routeAfter (h : o.op ≠ 4) : activeBank (routeAfter s d o) = activeBank (getRoute s d) := by
  unfold routeAfter
  simp only [beq_iff_eq, h, if_false]
  split
  · rfl
  · split
    · split
      · rfl
      · exact activeBank_withStandby ..
    · split <;> exact activeBank_withStandby ..

theorem routeAfter_write (h : o.op = 2) (hb : badEntry o.data = false) : routeAfter s d o =
    withStandby { getRoute s d with op := none, code := 0 }
      (if o.data == 0 then drop1 (standbyBank (getRoute s d)) o.index else store (standbyBank (getRoute s d)) o.index o.data) := by
  simp [routeAfter, h, hb]

theorem routeAfter_swap (h : o.op = 4) (hh : (getRoute s d).hold = true) (ho : outstanding s d = 0)
    (hb : (standbyBank (getRoute s d)).any (fun e => badRoute s e.2) = false) :
    routeAfter s d o = { getRoute s d with op := none, code := 0, active := !(getRoute s d).active } := by
  simp [routeAfter, h, hh, ho, firstFail, hb]

theorem routeAfter_swap_refused (h : o.op = 4) (hw : (getRoute s d).hold = false ∨ outstanding s d ≠ 0)
    (hb : (standbyBank (getRoute s d)).any (fun e => badRoute s e.2) = false) :
    routeAfter s d o = { getRoute s d with op := none, code := 3 } := by
  have hc : (!(getRoute s d).hold || outstanding s d != 0) = true := by rcases hw with hw | hw <;> simp [hw]
  simp [routeAfter, h, hc, firstFail, hb, Code.num]

end RouteAfter

theorem activeBank_swapped (r : Route) (op : Option RtOp) (c : Nat) :
    activeBank { r with op := op, code := c, active := !r.active } = standbyBank r := by
  unfold activeBank standbyBank
  cases r.active <;> rfl

/-- Settles O18. -/
theorem routingPort : Obligations.RoutingPort := by
  refine ⟨fun p die s hw => ⟨fun hi => ?_, fun hi => ?_⟩, fun die o s ho => ?_⟩
  · exact ⟨congrArg Host.Outcome.next (rtStart_begins 1 hw hi), congrArg Host.Outcome.next (rtStart_begins 2 hw hi),
      congrArg Host.Outcome.next (rtStart_begins 3 hw hi), congrArg Host.Outcome.next (rtStart_begins 4 hw hi),
      congrArg Host.Outcome.next (rtStart_begins 5 hw hi)⟩
  · exact ⟨congrArg Host.Outcome.next (rtStart_busy 1 hw hi), congrArg Host.Outcome.next (rtStart_busy 2 hw hi),
      congrArg Host.Outcome.next (rtStart_busy 4 hw hi)⟩
  · obtain ⟨t, ht, hroute, hread⟩ := exec_rtOpDone ho
    refine ⟨t, ht, ?_⟩
    simp only [hroute]
    refine ⟨routeAfter_op, activeBank_routeAfter, fun h hb => ⟨?_, ?_⟩, fun h hb => ?_, fun h hb => ?_, fun h => ?_, fun h => ?_,
      fun h hh hn hb => ?_, fun h hw hb => ?_⟩
    · simp [routeAfter, h]
    · rw [hread h, hb, if_neg Bool.false_ne_true]
    · rw [routeAfter_write h hb, standbyBank_withStandby]
      by_cases hz : o.data = 0
      · exact ⟨withStandby_code .., by simp [hz, look_drop1_self], fun i hi => by simp [hz, look_drop1_of_ne _ _ hi]⟩
      · exact ⟨withStandby_code .., by simp [hz, look_store_self], fun i hi => by simp [hz, look_store_of_ne _ _ _ hi]⟩
    · exact ⟨by simp [routeAfter, h, hb, Code.num], by simp [routeAfter, h, hb, standbyBank]⟩
    · simp [routeAfter, h]
    · simp [routeAfter, h]
    · rw [routeAfter_swap h hh hn hb]
      exact ⟨rfl, activeBank_swapped ..⟩
    · rw [routeAfter_swap_refused h hw hb]
      exact ⟨rfl, rfl⟩

end Sys2Proof.Machine
end

section
/-!
PROOFS. HOLD and the neighbour plan (chapters 13 and 14), the cap and the life-cycle port (chapters 20 and 22).
-/
namespace Sys2Proof.Machine

/-! ### HOLD (R266) -/

theorem holdWrite_accepted {s : State} {p d : Nat} (hold : Bool) (hw : writable s p (pgRoute d) 0x110 = true) :
    holdWrite s p d hold =
      if hold then setRoute s d { getRoute s d with hold := hold }
      else colPump (ixPump (setRoute s d { getRoute s d with hold := hold }) d) d := by
  unfold holdWrite
  exact writeReg_applied hw (by simp)

/-- With nothing queued a pump does nothing. -/
theorem ixPump_empty {s : State} {d : Nat} (h : (getIx s d).outbox = []) : ixPump s d = s := by
  rw [ixPump, h]
  rfl

theorem colPump_empty {s : State} {d : Nat} (h : (getCol s d).outbox = []) : colPump s d = s := by
  rw [colPump, h]
  rfl

/-! ### The plan (R279, R280) -/

/-- A fold over numbers that each change the part of the state they name, under something that no step changes. -/
theorem foldl_at {β γ : Type} {f : State → Nat → State} (read : State → Nat → β) (part : State → γ) (g : γ → Nat → β → β)
    (hself : ∀ s k, read (f s k) k = g (part s) k (read s k)) (hne : ∀ s k j, j ≠ k → read (f s k) j = read s j)
    (hpart : ∀ s k, part (f s k) = part s) {l : List Nat} (hl : l.Nodup) (s : State) (j : Nat) :
    read (l.foldl f s) j = if j ∈ l then g (part s) j (read s j) else read s j := by
  induction l generalizing s with
  | nil => rfl
  | cons k t ih =>
    obtain ⟨hk, ht⟩ := List.nodup_cons.1 hl
    rw [List.foldl_cons, ih ht, hpart]
    by_cases hj : j = k
    · subst hj
      rw [if_neg hk, if_pos (List.mem_cons_self ..), hself]
    · rw [hne _ _ _ hj]
      simp [hj]

/-- A port under a plan that has just been applied. -/
def plannedPort (planned : Bool) (x : Port) : Port :=
  if x.tstate == 4 || x.tstate == 5 || x.tstate == 6 then { x with identOut := true, identChecked := false }
  else if x.tstate == 0 || x.tstate == 7 then { x with tstate := if planned then 7 else 0 }
  else x

/-- The plan applied to one port. -/
def planPort (s : State) (p : Nat) : State :=
  let x := getPort s p
  if x.tstate == 4 || x.tstate == 5 || x.tstate == 6 then setPort s p { x with identOut := true, identChecked := false }
  else if x.tstate == 0 || x.tstate == 7 then setPort s p { x with tstate := if portUse s p then 7 else 0 }
  else s

/-- The state in which a plan has been written. -/
def planWritten (s : State) (v : Nat) : State :=
  let t := setReg (setReg s (pgPort 0) 0x108 v) (pgPort 0) 0x10C (2 ^ 31)
  { t with time := { t.time with planAt := t.odometer } }

theorem applyPlan_eq (s : State) (v : Nat) : applyPlan s v = (List.range 32).foldl planPort (planWritten s v) := rfl

section PlanPort
variable (s : State) (p : Nat)

theorem getPort_planPort : getPort (planPort s p) p = plannedPort (portUse s p) (getPort s p) := by
  unfold planPort plannedPort
  dsimp only
  split
  · exact getPort_setPort ..
  · split
    · exact getPort_setPort ..
    · rfl

theorem getPort_planPort_of_ne {q : Nat} (h : q ≠ p) : getPort (planPort s p) q = getPort s q := by
  unfold planPort
  dsimp only
  split
  · exact getPort_setPort_of_ne _ _ _ h
  · split
    · exact getPort_setPort_of_ne _ _ _ h
    · rfl

theorem planPort_pages : (planPort s p).pages = s.pages := by
  unfold planPort
  dsimp only
  split
  · rfl
  · split <;> rfl

end PlanPort

theorem applyPlan_pages (s : State) (v : Nat) : (applyPlan s v).pages = (planWritten s v).pages := by
  rw [applyPlan_eq]
  exact Same.foldl (view := fun x : State => x.pages) (fun t p _ => planPort_pages t p) _

theorem portUse_congr {s t : State} (h : t.pages = s.pages) (q : Nat) : portUse t q = portUse s q := by
  simp only [portUse, regOf_congr h]

theorem getPort_applyPlan (s : State) (v : Nat) {q : Nat} (hq : q < 32) :
    getPort (applyPlan s v) q = plannedPort (portUse (applyPlan s v) q) (getPort s q) := by
  have hplanned := foldl_at (f := planPort) getPort (fun x : State => portUse x) (fun u k x => plannedPort (u k) x) getPort_planPort
    (fun s p q h => getPort_planPort_of_ne s p h) (fun s p => funext (portUse_congr (planPort_pages s p))) (List.nodup_range (n := 32))
    (planWritten s v) q
  rw [if_pos (List.mem_range.2 hq)] at hplanned
  rw [portUse_congr (applyPlan_pages s v), applyPlan_eq, hplanned]
  rfl

theorem regOf_applyPlan (s : State) (v : Nat) (off : Nat) :
    regOf (applyPlan s v) (pgPort 0) off =
      regOf (setReg (setReg s (pgPort 0) 0x108 v) (pgPort 0) 0x10C (2 ^ 31)) (pgPort 0) off :=
  regOf_congr (applyPlan_pages s v) ..

/-- Settles O19. -/
theorem holdAndPlan : Obligations.HoldAndPlan := by
  refine fun p die val s => ⟨fun hw => ⟨?_, fun hix hcol => ?_, _, rfl, ?_⟩, fun hw hopen hbusy hv hout hbit hhold => ?_,
    fun hw hopen hout hbit => ⟨applyPlan s val.toNat, ?_, ?_, ?_, fun q hq => ⟨fun ht => ?_, fun ht => ?_⟩⟩,
    fun hbusy hopen hlate => ⟨_, rfl, ?_⟩, fun hbusy hopen hall => ?_⟩
  · exact congrArg Host.Outcome.next (holdWrite_accepted true hw)
  · refine congrArg Host.Outcome.next ((holdWrite_accepted false hw).trans ?_)
    rw [if_neg Bool.false_ne_true, ixPump_empty (by exact hix), colPump_empty (by exact hcol)]
  · have hkeeps : Keeps false s (holdWrite s p die false) := holdWrite_keeps _ _ _ _ (.refl s)
    exact ⟨hkeeps.queue, hkeeps.bytes rfl⟩
  · show execPlanOpen p val s = _
    simp only [execPlanOpen, hbit, if_true]
    refine congrArg Host.Outcome.next (writeReg_applied hw ?_)
    simp [planFails, hout, hbit, hopen, hbusy, ← hv]
    exact fun _ _ => hhold _ ‹_›
  · show execPlanApply p val s = _
    simp only [execPlanApply, hbit, Bool.false_eq_true, if_false]
    refine congrArg Host.Outcome.next (writeReg_applied hw ?_)
    simp [planFails, hout, hbit, hopen]
  · rw [regOf_applyPlan, regOf_setReg_of_ne _ _ _ _ (by decide), regOf_setReg_self, Nat.mod_eq_of_lt val.isLt]
  · rw [planBusy, regOf_applyPlan, regOf_setReg_self]
    rfl
  · rw [getPort_applyPlan s _ hq]
    rcases ht with ht | ht | ht <;> simp [plannedPort, ht]
  · rw [getPort_applyPlan s _ hq]
    rcases ht with ht | ht <;> simp [plannedPort, ht]
  · simp only [hbusy, hopen, hlate, Bool.not_true, Bool.or_true, Bool.or_self, Bool.false_eq_true, if_false]
    rw [planBusy, regOf_setReg_self]
    rfl
  · have hnone : unchecked s = [] := List.filter_eq_nil_iff.2 fun q hq => by
      have := hall q (List.mem_range.1 hq)
      simp only [Bool.and_eq_true, Bool.or_eq_true, beq_iff_eq, Bool.not_eq_true', not_and, Bool.not_eq_false, or_assoc]
      exact this
    show execPlanApplyDone s = _
    simp [execPlanApplyDone, hnone, hbusy, hopen]

/-! ### The cap (R396 to R398) -/

/-- Settles O20. -/
theorem securityCommands : Obligations.SecurityCommands := by
  refine ⟨fun p val s hw hlt => ?_, fun p val s => ⟨fun hw hsel => ⟨tokenWrite s val.toNat, ?_, ?_⟩, fun hw hidle => ?_,
    fun hw hbusy => ?_, fun hbusy => ?_, fun hw hst => ?_, fun hw hst => ?_⟩⟩
  · have hout : outside val.toNat 0x7FF = false := outside_of_lt (n := 11) hlt (by decide)
    have hok (h5 : 500 ≤ val.toNat) (h20 : val.toNat ≤ 2000) : exec (.capWWrite p val) s = .next (setCap s val.toNat) :=
      congrArg Host.Outcome.next (writeReg_applied hw (by simp [hout, capBad]; omega))
    refine ⟨fun h5 h20 ht => ⟨_, hok h5 h20, ?_⟩, fun h5 h20 ht => ⟨_, hok h5 h20, ?_⟩, fun hbad => ?_⟩
    · rw [setCap, ht]
      exact ⟨rfl, rfl, rfl, rfl⟩
    · rw [setCap, ht]
      exact ⟨rfl, by simp [addTie, modPage_eq]; rfl⟩
    · have hb : capBad val.toNat = true := by simpa [capBad] using hbad
      exact congrArg Host.Outcome.next (writeReg_refused hw (by simp [firstFail, hout, hb]))
  · exact congrArg Host.Outcome.next (writeReg_applied hw (by simp; omega))
  · refine ⟨(look_store_self ..).trans (BitVec.ofNat_toNat ..), Nat.mod_eq_of_lt (by omega), rfl⟩
  · exact congrArg Host.Outcome.next (writeReg_applied hw (by simp [lcFails, hidle]))
  · exact congrArg Host.Outcome.next (writeReg_refused hw (by simp [firstFail, lcFails, hbusy]))
  · show execLcCheckDone s = _
    simp only [execLcCheckDone, hbusy, Bool.not_true, Bool.false_eq_true, if_false]
    cases lcFail s <;> rfl
  · exact congrArg Host.Outcome.next (writeReg_applied hw (by simp [lcFails, hst]))
  · exact congrArg Host.Outcome.next (writeReg_refused hw (by simp [firstFail, lcFails, hst]))

end Sys2Proof.Machine
end

section
/-!
PROOFS. The post controller (chapter 17): what an arriving post does, and the posts NOTICE_AREA and WINDOW.
-/
namespace Sys2Proof.Machine

/-! ### The state right after a post is taken -/

section Taken
variable (s : State) (c : Nat) (rest : List Post) (k : Nat)

/-- A taken post changes its context's posts and credits alone. -/
theorem getCtx_taken : ∃ credits owed owedAt posts, getCtx (taken s c rest) k =
    { getCtx s k with credits := credits, owed := owed, owedAt := owedAt, posts := posts } := by
  by_cases h : k = c
  · subst h
    exact ⟨_, _, _, _, by simp [taken, addEvent, returnCredit, modCtx_eq, modPage_eq]; exact ⟨rfl, rfl, rfl, rfl⟩⟩
  · refine ⟨(getCtx s k).credits, (getCtx s k).owed, (getCtx s k).owedAt, (getCtx s k).posts, ?_⟩
    simp [taken, addEvent, returnCredit, modCtx_eq, modPage_eq, getCtx_setCtx_of_ne _ _ _ h]

@[simp] theorem taken_state : (getCtx (taken s c rest) k).state = (getCtx s k).state := by
  obtain ⟨_, _, _, _, h⟩ := getCtx_taken s c rest k
  rw [h]

@[simp] theorem taken_cores : (getCtx (taken s c rest) k).cores = (getCtx s k).cores := by
  obtain ⟨_, _, _, _, h⟩ := getCtx_taken s c rest k
  rw [h]

@[simp] theorem taken_saving : (getCtx (taken s c rest) k).saving = (getCtx s k).saving := by
  obtain ⟨_, _, _, _, h⟩ := getCtx_taken s c rest k
  rw [h]

@[simp] theorem taken_preemptPost : (getCtx (taken s c rest) k).preemptPost = (getCtx s k).preemptPost := by
  obtain ⟨_, _, _, _, h⟩ := getCtx_taken s c rest k
  rw [h]

@[simp] theorem taken_doneAt : (getCtx (taken s c rest) k).doneAt = (getCtx s k).doneAt := by
  obtain ⟨_, _, _, _, h⟩ := getCtx_taken s c rest k
  rw [h]

@[simp] theorem taken_lists : (getCtx (taken s c rest) k).lists = (getCtx s k).lists := by
  obtain ⟨_, _, _, _, h⟩ := getCtx_taken s c rest k
  rw [h]

@[simp] theorem ctxPart_taken : ctxPart (taken s c rest) k = ctxPart s k := by
  obtain ⟨_, _, _, _, h⟩ := getCtx_taken s c rest k
  rw [ctxPart, h]
  rfl

@[simp] theorem taken_odometer : (taken s c rest).odometer = s.odometer := rfl
@[simp] theorem getPart_taken : getPart (taken s c rest) k = getPart s k := rfl
@[simp] theorem taken_power : (taken s c rest).power = s.power := rfl
@[simp] theorem taken_boot : (taken s c rest).boot = s.boot := rfl
@[simp] theorem taken_hide : (taken s c rest).hide = s.hide := rfl
@[simp] theorem taken_qsc : (taken s c rest).qsc = s.qsc := rfl
@[simp] theorem taken_record : (taken s c rest).record = s.record := rfl
@[simp] theorem getIxSlot_taken (d : Nat) : getIxSlot (taken s c rest) d k = getIxSlot s d k := rfl
@[simp] theorem getColSlot_taken (d : Nat) : getColSlot (taken s c rest) d k = getColSlot s d k := rfl

end Taken

/-! ### Posts that arrive (R337 to R339) -/

/-- Posts of a defined opcode at the front stay until they are taken. -/
theorem endUndefinedAll_defined {s : State} {c : Nat} (h : ∀ q rest, (getCtx s c).posts = q :: rest → postOp q.data ∈ definedOps) :
    endUndefinedAll s c = s := by
  unfold endUndefinedAll
  cases hp : (getCtx s c).posts with
  | nil => rfl
  | cons q rest =>
    rw [List.length_cons, endUndefined, hp]
    exact if_pos (List.contains_iff_mem.2 (h q rest hp))

section Arrivals
variable {s : State} {p : PartId} {c : CtxId} {off : BitVec 12} {data : List Byte}

theorem exec_postArrival : exec (.postArrival p c (off.setWidth 16) data) s = .next (arrivePost s p c off.toNat data) := by
  have hlt := off.isLt
  have hoff : (off.setWidth 16).toNat = off.toNat := by
    rw [BitVec.toNat_setWidth]
    exact Nat.mod_eq_of_lt (by omega)
  show execPostArrival p c (off.setWidth 16) data s = _
  rw [execPostArrival, hoff, if_neg (by omega)]

theorem arrivePost_checked (h1 : hubPowered s = true) (h2 : hubUp s = true) (h3 : partReset s p = false) :
    arrivePost s p c off.toNat data = match arrivalFail s p c off.toNat data with
      | some .align => rejectPost s p c .align 0 0
      | some f => rejectPost s p c f (postSeq data) (numAt data 8 8)
      | none => acceptPost s p c data := by
  unfold arrivePost
  simp only [h1, h2, h3, Bool.not_true, Bool.false_eq_true, Bool.or_self, if_false] <;> rfl

theorem arrivePost_accepts (h1 : hubPowered s = true) (h2 : hubUp s = true) (h3 : partReset s p = false)
    (h4 : arrivalFail s p c off.toNat data = none) : arrivePost s p c off.toNat data = acceptPost s p c data := by
  rw [arrivePost_checked h1 h2 h3, h4]

theorem arrivePost_rejects {f : Code} (h1 : hubPowered s = true) (h2 : hubUp s = true) (h3 : partReset s p = false)
    (h4 : arrivalFail s p c off.toNat data = some f) (hf : f ≠ .align) :
    arrivePost s p c off.toNat data = rejectPost s p c f (postSeq data) (numAt data 8 8) := by
  rw [arrivePost_checked h1 h2 h3, h4]
  split
  · rename_i he
    exact absurd (Option.some.inj he) hf
  · rename_i he
    rw [← Option.some.inj he]
  · rename_i he
    exact nomatch he

theorem arrivePost_discards (h1 : hubPowered s = true) (h2 : hubUp s = false ∨ partReset s p = true) :
    arrivePost s p c off.toNat data = bump32 s pgPcie 0x048 1 := by
  have hr : (!hubUp s || partReset s p) = true := by rcases h2 with h | h <;> simp [h]
  unfold arrivePost
  rw [h1, hr]
  rfl

end Arrivals

/-- Settles O21. -/
theorem postArrivals : Obligations.PostArrivals := by
  refine ⟨fun p c off data s h1 h2 h3 h4 hn => ⟨fun hop hh hb => ?_, fun hdef hop hp => ?_⟩,
    fun p c off data f s h1 h2 h3 h4 hf => ?_, fun p c off data s h1 h2 => ?_⟩
  · show execNop p c off data s = _
    rw [execNop, hop, arrivePost_accepts h1 h2 h3 h4, acceptPost, hop, hn, hh, hb]
    rfl
  · refine ⟨_, exec_postArrival.trans (congrArg Host.Outcome.next (arrivePost_accepts h1 h2 h3 h4)), ?_⟩
    have hne : (postOp data == 0) = false := by simpa using hop
    have hend := endUndefinedAll_defined (s := modCtx (modCtx (takeNread s p (postNread data)) c (fun x =>
      { x with expSeq := (x.expSeq + 1) % 65536 })) c (fun x =>
        { x with credits := x.credits - 1, posts := x.posts ++ [{ data := data }] })) (c := c) (by
      intro q rest hq
      have hone : [({ data := data } : Post)] = q :: rest := by
        simpa [modCtx_eq, takeNread, modPart_eq, hp] using hq
      cases hone
      exact hdef)
    rw [acceptPost, hne, hn] at *
    simp only [Bool.false_eq_true, if_false]
    rw [hend]
    simp [modCtx_eq, takeNread, modPart_eq, hp]
  · exact exec_postArrival.trans (congrArg Host.Outcome.next (arrivePost_rejects h1 h2 h3 h4 hf))
  · exact exec_postArrival.trans (congrArg Host.Outcome.next (arrivePost_discards h1 h2))

/-! ### The checks of a post (R340) -/

/-- Reserved bits fail no check of a clean post. -/
theorem postChecks_clean {d : List Byte} {used : List (Nat × Nat)} (h : cleanPost d used = true) :
    postChecks d used = [(false, .reservedSet)] := by
  simpa [cleanPost, postChecks] using h

/-- ALIGN comes before every other code. -/
theorem firstFail_align {l : List (Bool × Code)} (h : (true, Code.align) ∈ l) : firstFail l = some .align := by
  have hany : l.any (fun e => e.1 && e.2 == Code.align) = true := List.any_eq_true.2 ⟨_, h, rfl⟩
  simp [firstFail, hany]

/-- NOT_OWNER comes next. -/
theorem firstFail_notOwner {l : List (Bool × Code)} (ha : ∀ e ∈ l, e.2 = .align → e.1 = false) (h : (true, Code.notOwner) ∈ l) :
    firstFail l = some .notOwner := by
  have hnone : l.any (fun e => e.1 && e.2 == Code.align) = false := by
    rw [List.any_eq_false]
    intro e he
    by_cases hc : e.2 = .align
    · simp [ha e he hc]
    · simp [hc]
  have hany : l.any (fun e => e.1 && e.2 == Code.notOwner) = true := List.any_eq_true.2 ⟨_, h, rfl⟩
  simp [firstFail, hany, hnone]

/-- With one check that fails alone, its code. -/
theorem firstFail_only {l : List (Bool × Code)} {f : Code} (hd : f ≠ .done) (ht : f ≠ .timedOut) (h : (true, f) ∈ l)
    (ho : ∀ e ∈ l, e.1 = true → e.2 = f) : firstFail l = some f := by
  have hany (c : Code) : l.any (fun e => e.1 && e.2 == c) = (f == c) := by
    by_cases hc : f = c
    · subst hc
      rw [beq_self_eq_true]
      exact List.any_eq_true.2 ⟨_, h, by simp⟩
    · rw [beq_eq_false_iff_ne.2 hc, List.any_eq_false]
      intro e he
      by_cases h1 : e.1 = true
      · simp [ho e he h1, hc]
      · simp [h1]
  unfold firstFail
  simp only [hany]
  cases f <;> simp at hd ht ⊢

/-- What a command that takes a post at the front of its queue does. -/
theorem exec_front {i : Instr} {s : State} {c : CtxId} {op : Nat} {q : Post} {rest : List Post} {t : State}
    {act : State → PostRef → List Byte → State} (hx : exec i s = .next (takePost s c op act)) (h : Front s c op q rest)
    (ha : act (taken s c rest) (postRef q.data) q.data = t) : exec i s = .next (endUndefinedAll t c) := by
  rw [hx, takePost_front act h, ha]

theorem noticeVectors_ok {d : List Byte} (h : ∀ i, i < 4 → numAt d (25 + i) 1 ≤ 7) :
    ((List.range 4).map (fun i => numAt d (25 + i) 1)).any (fun v => 7 < v) = false := by
  simp only [List.any_map, List.any_eq_false, List.mem_range, Function.comp_apply, decide_eq_true_eq]
  intro i hi
  have := h i hi
  omega

/-- Settles O22. -/
theorem areaAndWindow : Obligations.AreaAndWindow := by
  refine fun c q rest s => ⟨fun hf ha hlo hhi hvec hclean => exec_front rfl hf ?_, fun hf ha hclean hbad => exec_front rfl hf ?_,
    fun hf ha => exec_front rfl hf ?_, fun hf hb hclean => exec_front rfl hf ?_, fun hf hb hclean => exec_front rfl hf ?_⟩
  · dsimp only
    rw [firstFail_eq_none (by
      simp only [postChecks_clean hclean, ha, noticeVectors_ok hvec]
      simp
      omega)]
    dsimp only [postRef]
    rw [ctxPart_taken]
    have hlen (n : Notice) : (1024 < (n :: (getPart s (ctxPart s c)).queue).length) ↔ ¬ (getPart s (ctxPart s c)).queue.length < 1024 := by
      rw [List.length_cons]
      omega
    simp only [modPart_eq, getPart_setPart, getPart_taken, hlen, ite_not]
    rfl
  · dsimp only
    have hfails : (decide (numAt q.data 24 1 < 6) || decide (15 < numAt q.data 24 1) ||
        ((List.range 4).map (fun i => numAt q.data (25 + i) 1)).any (fun v => 7 < v)) = true := by
      simpa [or_assoc] using hbad
    rw [firstFail_only (f := .badField) (by decide) (by decide) (by simp only [hfails]; simp) (by
      simp [postChecks_clean hclean, ha])]
  · dsimp only
    rw [firstFail_align (by simp [ha])]
  · rw [firstFail_eq_none (by simp [postChecks_clean hclean]; omega)]
    rw [ctxPart_taken]
  · rw [firstFail_only (f := .badField) (by decide) (by decide) (by simp; omega) (by simp [postChecks_clean hclean])]

end Sys2Proof.Machine
end

section
/-!
PROOFS. The posts of a context (chapter 17): CREATE, RUN, PREEMPT and DESTROY; SIGNAL, FLUSH and the arming posts; the management
posts.
-/
namespace Sys2Proof.Machine

/-- What a command that takes a post at the front of its queue does, once the channels of the post's work serve. -/
theorem exec_frontIf {i : Instr} {s : State} {c : CtxId} {op : Nat} {q : Post} {rest : List Post} {t : State}
    {ready : List Byte → Bool} {act : State → PostRef → List Byte → State} (hx : exec i s = .next (takePostIf s c op ready act))
    (h : Front s c op q rest) (hr : ready q.data = true) (ha : act (taken s c rest) (postRef q.data) q.data = t) :
    exec i s = .next (endUndefinedAll t c) := by
  rw [hx, takePostIf_front act h hr, ha]

/-- A post waits at the front until the channels of its work serve. -/
theorem exec_frontWaits {i : Instr} {s : State} {c : CtxId} {op : Nat} {q : Post} {rest : List Post} {ready : List Byte → Bool}
    {act : State → PostRef → List Byte → State} (hx : exec i s = .next (takePostIf s c op ready act)) (h : Front s c op q rest)
    (hr : ready q.data = false) : exec i s = .next s := by
  rw [hx]
  unfold takePostIf
  rw [h.1]
  simp [h.2.1, hr]

/-! ### CREATE, RUN, PREEMPT and DESTROY (R342, R343) -/

theorem createAct_done {s : State} {c : Nat} {r : PostRef} {d : List Byte} {m : SMap Byte} (h1 : firstFail (createFails s c d) = none)
    (h2 : readSparse s hubDie (ctxPart s c) (postAddr d 16) 0x4000 = .ok m) (h3 : createHeaderFail s c m = none) :
    createAct s c r d = completePost (writeLater (setCtx s c (createdCtx s (getCtx s c) d (headerList m))) hubDie (ctxPart s c)
      (postAddr d 16 + slotSize (headerList m).length) (List.replicate 0x2000 0)) c r 0 0 := by
  simp only [createAct, h1, h2, h3]

theorem createAct_refused {s : State} {c : Nat} {r : PostRef} {d : List Byte} {f : Code} (h : firstFail (createFails s c d) = some f) :
    createAct s c r d = completePost s c r f.num 0 := by
  simp only [createAct, h]

section Run
variable {s : State} {c : Nat} {r : PostRef} {d : List Byte} (hclean : cleanPost d [] = true)
include hclean

theorem runAct_done (hst : (getCtx s c).state = .idle ∨ (getCtx s c).state = .halted)
    (hg : ∀ k ∈ (getCtx s c).cores, gated s (pgCore k) = false) (ho : overlaps s c = false) :
    runAct s c r d = runWith s c r (restoreImage s c false) := by
  have hgated : (getCtx s c).cores.any (fun k => gated s (pgCore k)) = false := List.any_eq_false.2 fun k hk => by simp [hg k hk]
  have hstate : ((getCtx s c).state != .idle && (getCtx s c).state != .halted) = false := by rcases hst with h | h <;> simp [h]
  unfold runAct
  dsimp only
  rw [firstFail_eq_none (by simp [postChecks_clean hclean, hgated, hstate, ho])]

theorem runAct_running (hst : (getCtx s c).state = .running) (hg : ∀ k ∈ (getCtx s c).cores, gated s (pgCore k) = false) :
    runAct s c r d = completePost s c r Code.wrongState.num 0 := by
  have hgated : (getCtx s c).cores.any (fun k => gated s (pgCore k)) = false := List.any_eq_false.2 fun k hk => by simp [hg k hk]
  unfold runAct
  dsimp only
  rw [postChecks_clean hclean, hst, hgated]
  cases overlaps s c <;> rfl

end Run

/-- Settles O23. -/
theorem contextPosts : Obligations.ContextPosts := by
  refine ⟨fun c q rest m s hf hr => ⟨fun h1 h2 h3 => ?_, fun f h1 => ?_⟩, fun c q rest s hclean => ⟨fun hf hr => ?_,
    fun hf hr hst hg ho => ?_, fun hf hr hst hg => ?_, fun hf hst hsv => exec_front rfl hf ?_,
    fun v hf hst hsv hk hp => exec_front rfl hf ?_, fun hf hst => exec_front rfl hf ?_, fun hf hst => exec_front rfl hf ?_,
    fun hf hst => exec_front rfl hf ?_⟩⟩
  · refine exec_frontIf rfl hf hr ((createAct_done h1 (by rw [ctxPart_taken]; exact h2) h3).trans ?_)
    rw [ctxPart_taken]
    rfl
  · exact exec_frontIf rfl hf hr (createAct_refused h1)
  · exact exec_frontWaits rfl hf hr
  · rw [exec_frontIf (i := .run c) rfl hf hr (runAct_done hclean (by rwa [taken_state]) (by rwa [taken_cores]) ho)]
    cases restoreImage (taken s c rest) c false <;> rfl
  · exact exec_frontIf rfl hf hr (runAct_running hclean (by rwa [taken_state]) (by rwa [taken_cores]))
  · dsimp only
    simp only [taken_state, taken_saving, hst, hsv]
    rw [firstFail_eq_none (by simp [postChecks_clean hclean])]
    rfl
  · dsimp only
    simp only [taken_state, taken_saving, taken_preemptPost, hst, hsv, hk, hp]
    rw [firstFail_eq_none (by simp [postChecks_clean hclean])]
    rfl
  · dsimp only
    simp only [taken_state, taken_saving, taken_preemptPost, taken_doneAt, taken_odometer, hst]
    have hfail (saving : Bool) (hs : saving = false) : firstFail (postChecks q.data [] ++
        [(CState.idle != CState.running && !saving, Code.wrongState)]) = some .wrongState := by
      rw [postChecks_clean hclean, hs]
      rfl
    rw [hfail _ (by cases (getCtx s c).saving <;> rfl)]
    simp
  · dsimp only
    rw [firstFail_eq_none (by
      simp only [taken_state, postChecks_clean hclean]
      rcases hst with h | h <;> simp [h])]
  · dsimp only
    rw [postChecks_clean hclean, taken_state, hst]
    rfl

/-! ### SIGNAL, FLUSH and the arming posts (R225, R299, R316, R344, R345) -/

/-- Settles O24. -/
theorem workPosts : Obligations.WorkPosts := by
  refine ⟨fun c q rest t o s => ⟨fun hf hcore hms hinc hclean ho => exec_front rfl hf ?_, fun hf hcore => exec_front rfl hf ?_,
    fun hf ha hn hlo hhi hend hrange hclean => exec_front rfl hf ?_⟩,
    fun c q rest w peers s => ⟨fun hf ha hslot hcount hclean => ⟨fun harm => exec_front rfl hf ?_, fun harm => exec_front rfl hf ?_⟩,
      fun hf ha hd hk hg hclean hr hread hfails => exec_frontIf rfl hf hr ?_,
      fun hf ha hd hk hg hclean hr hread hfails => exec_frontIf rfl hf hr ?_,
      fun hf hd hk hclean harm hctx => ⟨fun hph => exec_front rfl hf ?_, fun hph => exec_front rfl hf ?_⟩,
      fun hf hd hk hclean harm hctx hph => exec_front rfl hf ?_⟩⟩
  · dsimp only
    rw [firstFail_eq_none (by simp [postChecks_clean hclean, taken_cores, -List.contains_eq_mem, hcore, hinc]; omega)]
    simp only [ho]
    cases o <;> rfl
  · dsimp only
    rw [taken_cores, hcore, firstFail_notOwner (by simp [postChecks]) (by simp)]
  · dsimp only
    rw [ctxPart_taken, Nat.min_eq_left (by omega), firstFail_eq_none (by
      simp only [postChecks_clean hclean, List.forall_mem_append]
      refine ⟨⟨?_, hrange⟩, by simp⟩
      simp [ha, hn]
      omega)]
  · dsimp only
    have hl : getList (taken s c rest) c (numAt q.data 16 1) = getList s c (numAt q.data 16 1) := by rw [getList, taken_lists, getList]
    rw [hl, harm, firstFail_eq_none (by simp [postChecks_clean hclean, ha, hcount]; omega)]
    rfl
  · dsimp only
    have hl : getList (taken s c rest) c (numAt q.data 16 1) = getList s c (numAt q.data 16 1) := by rw [getList, taken_lists, getList]
    rw [hl, harm, firstFail_only (f := .busy) (by decide) (by decide) (by simp) (by simp [postChecks_clean hclean, ha, hcount]; omega)]
  · dsimp only
    rw [firstFail_eq_none (by simp [postChecks_clean hclean, ha, hg]; omega)]
    simp only [hread, hfails]
  · dsimp only
    rw [firstFail_eq_none (by simp [postChecks_clean hclean, ha, hg]; omega)]
    simp only [hread, hfails]
  · dsimp only
    rw [firstFail_eq_none (by simp [postChecks_clean hclean, harm, hctx, hph]; omega)]
  · dsimp only
    rw [firstFail_only (f := .busy) (by decide) (by decide) (by simp [harm, hph]; omega) (by
      simp [postChecks_clean hclean, harm, hctx]; omega)]
  · dsimp only
    rw [firstFail_eq_none (by simp [postChecks_clean hclean, harm, hctx, hph]; omega)]

/-! ### The management posts (R334, R396, R402, R417, R428) -/

/-- The state without what notices and credits change. -/
def sansNotices (s : State) : State := { s with pages := [], ctxs := [], parts := [] }

section Notices
variable (s : State)

theorem queueNotice_notices (p : Nat) (n : Notice) : Same sansNotices s (queueNotice s p n) := by
  unfold queueNotice
  exact .ite (.refl s) (.ite rfl rfl)

theorem completePost_notices (c : Nat) (r : PostRef) (code arg1 : Nat) : Same sansNotices s (completePost s c r code arg1) := by
  unfold completePost
  exact .ite (.refl s) (queueNotice_notices ..)

theorem taken_notices (c : Nat) (rest : List Post) : Same sansNotices s (taken s c rest) := rfl

theorem endUndefined_notices (c n : Nat) : Same sansNotices s (endUndefined s c n) := by
  induction n generalizing s with
  | zero => exact .refl s
  | succ n ih =>
    unfold endUndefined
    split
    · exact .refl s
    · rename_i q rest _
      exact .ite (.refl s) (((taken_notices s c rest).trans (completePost_notices ..)).trans (ih _))

theorem endUndefinedAll_notices (c : Nat) : Same sansNotices s (endUndefinedAll s c) := endUndefined_notices s c _

end Notices

/-- What a map holds after a key's entry is set or dropped, for each key of a list. -/
theorem look_foldl_set {α : Type} (l : List Nat) (on : Nat → Bool) (v d : α) (m : SMap α) (k : Nat) :
    look (l.foldl (fun m k => if on k then store m k v else drop1 m k) m) k d =
      if k ∈ l then (if on k then v else d) else look m k d := by
  induction l generalizing m with
  | nil => rfl
  | cons a t ih =>
    rw [List.foldl_cons, ih]
    by_cases ht : k ∈ t
    · simp [ht]
    · by_cases ha : k = a
      · subst ha
        simp only [ht, if_false, List.mem_cons, true_or, if_true]
        split
        · exact look_store_self ..
        · exact look_drop1_self ..
      · simp only [ht, if_false, List.mem_cons, ha, or_self]
        split
        · exact look_store_of_ne _ _ _ ha
        · exact look_drop1_of_ne _ _ ha

theorem mem_store {α : Type} {m : SMap α} {k : Nat} {v : α} {e : Nat × α} (h : e ∈ store m k v) : e = (k, v) ∨ e ∈ m := by
  induction m with
  | nil => simpa [store] using h
  | cons x t ih =>
    obtain ⟨a, x⟩ := x
    unfold store at h
    split at h
    · rcases List.mem_cons.1 h with h | h
      · exact .inl h
      · exact .inr (List.mem_cons_of_mem _ h)
    · split at h
      · rcases List.mem_cons.1 h with h | h
        · exact .inl h
        · exact .inr h
      · rcases List.mem_cons.1 h with h | h
        · exact .inr (h ▸ List.mem_cons_self ..)
        · exact (ih h).imp id (List.mem_cons_of_mem _)

/-- An entry of a map that is listed, or the default. -/
theorem look_mem {α : Type} (m : SMap α) (k : Nat) (d : α) : look m k d = d ∨ (k, look m k d) ∈ m := by
  induction m with
  | nil => exact .inl rfl
  | cons x t ih =>
    obtain ⟨a, x⟩ := x
    unfold look
    split
    · rename_i h
      exact .inr (h ▸ List.mem_cons_self ..)
    · exact ih.imp id (List.mem_cons_of_mem _)

/-- A state that no context has after a post is taken, where none had it before. -/
theorem taken_ctxs {s : State} {c : Nat} {rest : List Post} {P : CState → Prop} (hfree : P .free) (h : ∀ e ∈ s.ctxs, P e.2.state) :
    ∀ e ∈ (taken s c rest).ctxs, P e.2.state := by
  have hc : P (getCtx s c).state := by
    rcases look_mem s.ctxs c {} with hd | hm
    · rw [getCtx, hd]
      exact hfree
    · exact h _ hm
  have hset {t : State} {x : Ctx} (hx : P x.state) (ht : ∀ e ∈ t.ctxs, P e.2.state) : ∀ e ∈ (setCtx t c x).ctxs, P e.2.state := by
    intro e he
    rcases mem_store he with rfl | he
    · exact hx
    · exact ht e he
  unfold taken addEvent returnCredit
  simp only [modCtx_eq, modPage_eq, setPage_ctxs, getCtx_setCtx]
  exact hset hc (hset hc h)

/-- Cores move between partitions by PART_SET as its bitmap says. -/
theorem partOfCore_moved {m : SMap Nat} {p : Nat} {inBits : Nat → Bool} {k : Nat} (hk : k < 4096) :
    look (((List.range 4096).filter (fun k => (look m k 0 == p) != inBits k)).foldl
      (fun m k => if inBits k then store m k p else drop1 m k) m) k 0 =
        if inBits k then p else if look m k 0 = p then 0 else look m k 0 := by
  rw [look_foldl_set]
  by_cases hp : look m k 0 = p
  · cases hb : inBits k <;> simp [hk, hp, hb]
  · cases hb : inBits k <;> simp [hk, hp, hb]

theorem foldl_modCtx_corePart (l : List Nat) (f : Nat → Ctx → Ctx) (s : State) :
    (l.foldl (fun s k => modCtx s k (f k)) s).corePart = s.corePart :=
  Same.foldl (view := fun x : State => x.corePart) (f := fun s k => modCtx s k (f k)) (fun _ _ _ => rfl) s

theorem ite_cases {α : Type} {b : Bool} {v x y : α} (h : v = if b then x else y) : (b = true → v = x) ∧ (b = false → v = y) := by
  cases b <;> simp [h]

/-- What a core's partition is stays, whatever notices and credits change. -/
theorem partOfCore_congr {s t : State} (h : Same sansNotices s t) (k : Nat) : partOfCore t k = partOfCore s k := by
  rw [partOfCore, h.get (fun x => x.corePart) (fun _ => rfl), partOfCore]

/-- A POWER_OFF that need not wait is taken, and takes effect. -/
theorem exec_powerOff {s : State} {c : CtxId} {q : Post} {rest : List Post} {v : Nat} (hf : Front s c 0x22 q rest)
    (hp : ctxPart s c = 0) (hv : numAt q.data 16 1 = v) (hclean : cleanPost q.data [(16, 1)] = true) (ht : powTarget v = true)
    (ho : powOut s v ≠ .wait) :
    exec (.powerOff c) s = .next (endUndefinedAll (powerOff (taken s c rest) v (.post c (postRef q.data)) (fun s _ => s)) c) := by
  have hposts := hf.1
  have hne : (powOut s v == PowOut.wait) = false := beq_eq_false_iff_ne.2 ho
  show execPowerOff c s = _
  simp only [execPowerOff, hposts, hv, hne, Bool.and_false, Bool.false_eq_true, if_false]
  rw [takePost_front _ hf]
  rw [hv, firstFail_eq_none (by simp [postChecks_clean hclean, mgmtCheck, hp, ht])]

section PowOut
variable {s : State} (hd : s.hide.draining = false)
include hd

theorem powOut_dormant : powOut s 3 = .dormant := by simp [powOut, hd]

section Ready
variable (hr : s.boot.ready = true) (he : s.power.entering = none) (hl : s.power.leaving = none)
include hr he hl

theorem powOut_run_on (ho : s.power.state = .on) : powOut s 0 = .ends .done := by simp [powOut, hd, hr, he, hl, ho]

theorem powOut_run_doze (ho : s.power.state = .doze) : powOut s 0 = .run := by simp [powOut, hd, hr, he, hl, ho]

theorem powOut_doze_on (ho : s.power.state = .on) (hc : ∀ e ∈ s.ctxs, e.2.state ≠ .running ∧ e.2.state ≠ .saving) :
    powOut s 2 = .doze := by
  have hbusy : s.ctxs.any (fun e => e.2.state == .running || e.2.state == .saving) = false := List.any_eq_false.2 fun e he => by
    simpa using hc e he
  simp [powOut, hd, hr, he, hl, ho, hbusy]

end Ready
end PowOut

/-- A read fails with a code of its access, none of them ALIGN. -/
theorem accessFail_ne_align {s : State} {part addr : Nat} {f : Code} (h : accessFail s part addr = some f) : f ≠ .align := by
  unfold accessFail at h
  dsimp only at h
  split at h
  · cases h; decide
  · split at h
    · cases h; decide
    · split at h
      · cases h; decide
      · split at h <;> cases h
        decide

theorem mapFail_ne_align (s : State) (a : Nat) : mapFail s a ≠ some .align := by
  unfold mapFail
  dsimp only
  split
  · decide
  · split <;> decide

theorem cacheFail_ne_align (s : State) (addr : Nat) : cacheFail s addr ≠ some .align := by
  unfold cacheFail
  split
  · nofun
  · rename_i f hf
    split
    · nofun
    · intro h
      rw [Option.some.inj h, mapLineFail, Option.or_eq_some_iff] at hf
      rcases hf with hf | ⟨-, hf⟩ <;> exact mapFail_ne_align _ _ hf

theorem readCached_ne_align (s : State) (part addr n : Nat) : readCached s part addr n ≠ .error .align := by
  unfold readCached
  split
  · rename_i f hf
    intro h
    cases h
    exact cacheFail_ne_align _ _ hf
  · unfold readBlock
    split
    · rename_i f hf
      intro h
      cases h
      exact accessFail_ne_align hf rfl
    · dsimp only
      split <;> nofun

theorem readRange_ne_align (s : State) (part addr n : Nat) : readRange s part addr n ≠ .error .align := by
  unfold readRange
  refine List.foldlRecOn (motive := fun (acc : Except Code (List Byte)) => acc ≠ .error .align) _ _ nofun fun acc hacc p _ => ?_
  cases acc with
  | error c => exact hacc
  | ok l =>
    dsimp only
    split
    · rename_i c hc
      intro h
      cases h
      exact readCached_ne_align _ _ _ _ hc
    · nofun

/-- Settles O25. -/
theorem managementPosts : Obligations.ManagementPosts := by
  refine ⟨fun c q rest bits s => ⟨fun hp => ⟨fun hf h1 h15 hctx hfree hrange hclean hr hread => ?_, fun hf hlo hhi hclean => ?_,
    fun hf hv hclean hd hr ho he hl => ?_, fun hf hclean hd hr he hl => ⟨fun hv ho => ?_, fun hv ho hc => ?_⟩,
    fun hf hv hclean hd => ?_, fun hf h2 h8 ha hlo hhi hacc hver hclean hbad => ?_, fun hf ha hlc hclean => ?_⟩,
    fun hp => ⟨fun hf => ?_, fun hf hr => ?_⟩⟩, fun a rest s ha => ⟨fun hr => ?_, fun hr => ?_⟩⟩
  · refine ⟨_, exec_frontIf rfl hf hr rfl, fun k hk => ?_⟩
    rw [partOfCore_congr (endUndefinedAll_notices _ _)]
    dsimp only
    simp only [hread]
    rw [firstFail_eq_none ?_]
    · refine ite_cases ((partOfCore_congr (completePost_notices _ _ _ _ _) k).trans ?_)
      have hcore : partOfCore (taken s c rest) = partOfCore s := rfl
      rw [partOfCore]
      dsimp only
      rw [foldl_modCtx_corePart, hcore]
      simp only [beq_self_eq_true, Bool.true_and]
      exact partOfCore_moved hk
    · have hbusy (k : Nat) : (List.range 256).any (fun j => (getCtx (taken s c rest) j).state != .free &&
          (getCtx (taken s c rest) j).cores.contains k) = false := List.any_eq_false.2 fun j hj => by
        simp [hfree j (List.mem_range.1 hj)]
      have hmoves (l : List Nat) (hl : ∀ k ∈ l, k < 256) : l.any (fun k => (getCtx (taken s c rest) k).state != .free) = false :=
        List.any_eq_false.2 fun k hk => by simp [hfree k (hl k hk)]
      simp only [List.forall_mem_append, List.forall_mem_cons, postChecks_clean hclean, mgmtCheck, ctxPart_taken, hp, hbusy]
      rw [hmoves _ fun k hk => List.mem_range.1 (List.mem_filter.1 hk).1]
      refine ⟨⟨⟨rfl, ?_, by simp, rfl, nofun⟩, hrange⟩, trivial, nofun⟩
      simp
      omega
  · refine exec_front rfl hf ?_
    dsimp only
    rw [firstFail_eq_none (by simp [postChecks_clean hclean, mgmtCheck, hp, capBad]; omega)]
    rfl
  · rw [exec_powerOff hf hp hv hclean rfl (by rw [powOut_run_on hd hr he hl ho]; exact nofun), powerOff,
      powOut_run_on (by exact hd) (by exact hr) (by exact he) (by exact hl) (by exact ho)]
    rfl
  · rw [exec_powerOff hf hp hv hclean rfl (by rw [powOut_run_doze hd hr he hl ho]; exact nofun), powerOff,
      powOut_run_doze (by exact hd) (by exact hr) (by exact he) (by exact hl) (by exact ho)]
  · rw [exec_powerOff hf hp hv hclean rfl (by rw [powOut_doze_on hd hr he hl ho hc]; exact nofun), powerOff,
      powOut_doze_on (by exact hd) (by exact hr) (by exact he) (by exact hl) (by exact ho)
        (taken_ctxs (P := fun x => x ≠ .running ∧ x ≠ .saving) (by decide) hc)]
  · rw [exec_powerOff hf hp hv hclean rfl (by rw [powOut_dormant hd]; exact nofun), powerOff, powOut_dormant (by exact hd)]
    rfl
  · have hphase : (s.boot.phase < 2 || s.boot.phase == 8) = false := by simp; omega
    refine ⟨endUndefinedAll (modBoot (toPhase (taken s c rest) 3)
      (fun b => { b with verifying := some (c.val, postRef q.data, numAt q.data 16 4) })) c, ?_, ?_⟩
    · show execFwLoad c s = _
      simp only [execFwLoad, hphase, Bool.false_eq_true, if_false]
      rw [takePost_front _ hf, firstFail_eq_none (by
        simp [postChecks_clean hclean, mgmtCheck, hp, ha, hacc, hver]
        omega)]
      simp only [hbad, Bool.false_eq_true, if_false]
    · dsimp only
      rw [(endUndefinedAll_notices _ _).get (fun x => x.boot) (fun _ => rfl)]
      exact ⟨rfl, rfl, rfl, rfl⟩
  · refine ⟨_, exec_front rfl hf rfl, ?_⟩
    dsimp only
    rw [firstFail_eq_none (by simp [postChecks_clean hclean, mgmtCheck, hp, ha, hlc])]
    rw [(endUndefinedAll_notices _ _).get (fun x => x.qsc) (fun _ => rfl), (endUndefinedAll_notices _ _).get (fun x => x.record) (fun _ => rfl)]
    exact ⟨rfl, rfl⟩
  · refine exec_front rfl hf ?_
    dsimp only
    rw [firstFail_notOwner (by simp [mgmtCheck, postChecks]) (by simp [mgmtCheck, hp])]
  · refine exec_frontIf rfl hf hr ?_
    dsimp only
    rw [firstFail_notOwner ?_ (by simp [mgmtCheck, hp])]
    have hread := readRange_ne_align (taken s c rest) 0 (postAddr q.data 24) 512
    simp only [mgmtCheck, rangeFail, postChecks, List.forall_mem_append, List.forall_mem_cons]
    refine ⟨⟨⟨nofun, nofun, nofun, fun h => ?_, nofun⟩, nofun, nofun, nofun⟩, nofun, nofun⟩
    split at h
    · cases h
    · rename_i e he
      exact absurd (h ▸ he) hread
  · show execAttestDone s = _
    simp only [execAttestDone, ha, hr]
    rfl
  · show execAttestDone s = _
    simp [execAttestDone, ha, hr]

end Sys2Proof.Machine
end

section
/-!
PROOFS. Notices, MSI-X messages and BAR4 accesses (chapter 17).
-/
namespace Sys2Proof.Machine

/-! ### Records and MSI-X messages (R347 to R350) -/

/-- What a record's MSI-X message leaves of a partition: all but the vectors that wait. -/
theorem getPart_sendMsix (s : State) (p v : Nat) : ∃ pend, getPart (sendMsix s p v) p = { getPart s p with vecPend := pend } := by
  unfold sendMsix
  dsimp only
  split
  · exact ⟨_, getPart_setPart ..⟩
  · exact ⟨_, rfl⟩

theorem sendMsix_hostLog (s : State) (p v : Nat) : ∃ w, (sendMsix s p v).hostLog = s.hostLog ++ w := by
  unfold sendMsix
  dsimp only
  split
  · exact ⟨[], (List.append_nil _).symm⟩
  · exact ⟨_, rfl⟩

theorem getCtx_sendMsix (s : State) (p v k : Nat) : getCtx (sendMsix s p v) k = getCtx s k := by
  unfold sendMsix
  dsimp only
  split <;> rfl

theorem vector_cleared (x : BitVec 8) (v : Fin 8) : (x &&& ~~~(1#8 <<< v.val)).getLsbD v = false := by
  simp [v.isLt]

/-- The credits that a notice's record reports: those its context owes, where it is the partition's. -/
def recordCredits (s : State) (p : Nat) (n : Notice) : Nat :=
  match n.ctx with
  | some k => if ctxPart s k = p then (getCtx s k).owed else 0
  | none => 0

/-- The credits that a record reports are owed no more. -/
def creditsReported (s : State) (p : Nat) (n : Notice) : State :=
  match n.ctx with
  | some k => if ctxPart s k = p then modCtx s k (fun y => { y with owed := 0 }) else s
  | none => s

theorem owed_creditsReported (s : State) (p : Nat) (n : Notice) (k : Nat) :
    (getCtx (creditsReported s p n) k).owed = if n.ctx = some k ∧ ctxPart s k = p then 0 else (getCtx s k).owed := by
  unfold creditsReported
  cases hn : n.ctx with
  | none => simp
  | some j =>
    dsimp only
    by_cases hk : k = j
    · subst hk
      by_cases hp : ctxPart s k = p
      · simp [hp, modCtx_eq]
      · simp [hp]
    · have hne : ¬ (some j = some k ∧ ctxPart s k = p) := fun h => hk (Option.some.inj h.1).symm
      rw [if_neg hne]
      split
      · simp [modCtx_eq, getCtx_setCtx_of_ne _ _ _ hk]
      · rfl

/-- The oldest notice of a partition whose area has room becomes a record. -/
theorem dequeueNotice_record {s : State} {p : Nat} {a : Area} {n : Notice} {rest : List Notice} (ha : (getPart s p).area = some a)
    (hq : (getPart s p).queue = n :: rest) (hf : areaFull (getPart s p) = false) :
    dequeueNotice s p = sendMsix (setPart { creditsReported s p n with hostLog := s.hostLog ++
        [.record p (a.addr + 32 * ((getPart s p).index % 2 ^ a.log2)) (recordBytes p (getPart s p) n (recordCredits s p n))] } p
      { getPart s p with
        queue := rest, written := ((getPart s p).written + 1) % 65536, index := ((getPart s p).index + 1) % 2 ^ a.log2,
        phase := if ((getPart s p).index + 1) % 2 ^ a.log2 == 0 then !(getPart s p).phase else (getPart s p).phase,
        lostFlag := false }) p (nth a.vec (noticeClass n.typ)) := by
  simp only [dequeueNotice, ha, hq, hf, Bool.false_eq_true, if_false]
  unfold creditsReported recordCredits
  cases hn : n.ctx with
  | none => rfl
  | some k =>
    by_cases hk : ctxPart s k = p
    · simp only [hk, beq_self_eq_true, if_true]
      rfl
    · simp only [beq_eq_false_iff_ne.2 hk, Bool.false_eq_true, if_false, hk]

theorem dequeueNotice_nothing {s : State} {p : Nat}
    (h : (getPart s p).area = none ∨ (getPart s p).queue = [] ∨ areaFull (getPart s p) = true) : dequeueNotice s p = s := by
  unfold dequeueNotice
  dsimp only
  split
  · rename_i a n rest ha hq
    rw [ha, hq] at h
    exact if_pos (by simpa using h)
  · rfl

/-! ### BAR4 (R351, R403, R416) -/

section Bar4
variable {s : State} {p : PartId} {off : BitVec 36}

/-- A BAR4 access of a module in RUN is made once nothing waits before it and its channels serve. -/
theorem bar4Take_made {a : Bar4Acc} (hq : s.bar4Q = []) (hr : bar4Ready s a = true) : bar4Take s a = bar4Do s a := by
  simp [bar4Take, hq, hr]

theorem bar4Take_waits {a : Bar4Acc} (h : s.bar4Q ≠ [] ∨ bar4Ready s a = false) : bar4Take s a = { s with bar4Q := s.bar4Q ++ [a] } := by
  have hc : (s.bar4Q.isEmpty && bar4Ready s a) = false := by rcases h with h | h <;> simp [h]
  rw [bar4Take, hc, if_neg Bool.false_ne_true]

/-- A store whose result is a pair: what it leaves, and whether all of it was accepted. -/
theorem pair_counted (stored : State × Bool) :
    (let (s, ok) := stored
      if ok then s else bump32 s pgPcie 0x04C 1) = if stored.2 then stored.1 else bump32 stored.1 pgPcie 0x04C 1 := rfl

theorem bar4Do_write_eq (s : State) (p off : Nat) (data : List Byte) : bar4Do s (.write p off data) =
    if s.power.state != .on then bump32 s pgPcie 0x04C 1
    else
      let (s, ok) := bar4Store s p (bar4Addr s p off) data
      if ok then s else bump32 s pgPcie 0x04C 1 := rfl

theorem bar4Do_write {p off : Nat} {data : List Byte} (h : s.power.state = .on) : bar4Do s (.write p off data) =
    if (bar4Store s p (bar4Addr s p off) data).2 then (bar4Store s p (bar4Addr s p off) data).1
    else bump32 (bar4Store s p (bar4Addr s p off) data).1 pgPcie 0x04C 1 := by
  exact (bar4Do_write_eq ..).trans ((if_neg (by simp [h])).trans (pair_counted (bar4Store s p (bar4Addr s p off) data)))

variable (hs : hubPowered s = true)
include hs

theorem exec_bar4Read_loading {len : Nat} (ha : s.boot.accepted = false) : exec (.bar4Read p off len) s =
    .next (if p.val = 0 ∧ off.toNat + len ≤ 2 ^ 24 then { s with bar4 := .data (loadBytes s.boot.buffer off.toNat len) }
      else { s with bar4 := .ones len }) := by
  show execBar4Read p off len s = _
  simp only [execBar4Read, hs, ha, Bool.not_true, Bool.not_false, Bool.false_eq_true, if_false, if_true, Bool.and_eq_true, beq_iff_eq,
    decide_eq_true_eq]
  rfl

theorem exec_bar4Write_loading {data : List Byte} (ha : s.boot.accepted = false) : exec (.bar4Write p off data) s =
    .next (if (p.val = 0 ∧ off.toNat + data.length ≤ 2 ^ 24) ∧ s.boot.verifying = none then
        { s with boot := { s.boot with buffer := storeBytes s.boot.buffer off.toNat data } }
      else bump32 s pgPcie 0x04C 1) := by
  show execBar4Write p off data s = _
  simp only [execBar4Write, hs, ha, Bool.not_true, Bool.not_false, Bool.false_eq_true, if_false, if_true, Bool.and_eq_true,
    beq_iff_eq, decide_eq_true_eq, Option.isNone_iff_eq_none]
  rfl

theorem exec_bar4Read_window {len : Nat} (ha : s.boot.accepted = true) :
    exec (.bar4Read p off len) s = .next (bar4Take s (.read p off.toNat len)) := by
  show execBar4Read p off len s = _
  simp [execBar4Read, hs, ha]

theorem exec_bar4Write_window {data : List Byte} (ha : s.boot.accepted = true) :
    exec (.bar4Write p off data) s = .next (bar4Take s (.write p off.toNat data)) := by
  show execBar4Write p off data s = _
  simp [execBar4Write, hs, ha]

end Bar4

/-- Settles O26. -/
theorem hostAccesses : Obligations.HostAccesses := by
  refine ⟨fun c p v a n rest s => ⟨fun ho hp => ?_, fun h => ?_, fun ha hq hf => ⟨_, congrArg Host.Outcome.next
    (dequeueNotice_record ha hq hf), ?_⟩, fun h => congrArg Host.Outcome.next (dequeueNotice_nothing h), fun hv => ⟨_, rfl, ?_⟩,
    fun hv => ⟨_, rfl, ?_⟩⟩, fun p off len data l c s hs => ⟨fun ha hp hlen => ?_, fun ha hp hlen hver => ?_, fun ha h => ?_,
    fun ha h => ?_, fun ha hon hq hr => ⟨fun hread => ?_, fun hread => ?_, fun hread hc => ?_⟩, fun ha hon hq hr => ?_,
    fun ha hon => ⟨fun h => ?_, fun h => ?_⟩, fun ha hdoze hq => ⟨?_, ?_⟩⟩⟩
  · show execCreditNotice c s = _
    simp only [execCreditNotice, ho, decide_true, Bool.true_and, usNs, Nat.reduceMul, hp, if_true]
    rfl
  · show execCreditNotice c s = _
    simp only [execCreditNotice, usNs, Nat.reduceMul]
    rcases h with h | h <;> simp [h]
  · have hcredits : recordCredits s p n = match n.ctx with
        | some k => if ctxPart s k = p.val then (getCtx s k).owed else 0 | none => 0 := rfl
    obtain ⟨pend, hpart⟩ := getPart_sendMsix (setPart { creditsReported s p n with hostLog := s.hostLog ++
        [.record p (a.addr + 32 * ((getPart s p).index % 2 ^ a.log2)) (recordBytes p (getPart s p) n (recordCredits s p n))] } p
      { getPart s p with
        queue := rest, written := ((getPart s p).written + 1) % 65536, index := ((getPart s p).index + 1) % 2 ^ a.log2,
        phase := if ((getPart s p).index + 1) % 2 ^ a.log2 == 0 then !(getPart s p).phase else (getPart s p).phase,
        lostFlag := false }) p (nth a.vec (noticeClass n.typ))
    rw [getPart_setPart] at hpart
    simp only [hpart]
    refine ⟨trivial, trivial, trivial, trivial, ?_, fun k => ?_⟩
    · exact sendMsix_hostLog ..
    · rw [getCtx_sendMsix]
      exact owed_creditsReported s p n k
  · simp only [hv, if_true]
    refine ⟨rfl, ?_, ?_⟩
    · show (Part.vecMask (look (store _ _ _) _ _)).getLsbD v = false
      rw [look_store_self]
      exact vector_cleared _ v
    · show (Part.vecPend (look (store _ _ _) _ _)).getLsbD v = false
      rw [look_store_self]
      exact vector_cleared _ v
  · simp only [hv, Bool.false_eq_true, if_false]
    refine ⟨rfl, ?_⟩
    rw [getPart_setPart]
    exact vector_cleared _ v
  · rw [exec_bar4Read_loading hs ha, if_pos ⟨hp, hlen⟩]
  · rw [exec_bar4Write_loading hs ha, if_pos ⟨⟨hp, hlen⟩, hver⟩]
  · rw [exec_bar4Read_loading hs ha, if_neg]
    omega
  · rw [exec_bar4Write_loading hs ha, if_neg]
    rintro ⟨⟨h1, h2⟩, h3⟩
    rcases h with h | h | h
    · exact h h1
    · omega
    · exact h h3
  · rw [exec_bar4Read_window hs ha, bar4Take_made hq (by simp [bar4Ready, hr])]
    simp [bar4Do, hon, hread]
  · rw [exec_bar4Read_window hs ha, bar4Take_made hq (by simp [bar4Ready, hr])]
    simp [bar4Do, hon, hread]
  · rw [exec_bar4Read_window hs ha, bar4Take_made hq (by simp [bar4Ready, hr])]
    simp only [bar4Do, hon, hread, bne_self_eq_false, Bool.false_eq_true, if_false]
  · rw [exec_bar4Write_window hs ha, bar4Take_made hq (by simp [bar4Ready, hr])]
    exact congrArg Host.Outcome.next (bar4Do_write hon)
  · rw [exec_bar4Read_window hs ha, bar4Take_waits (h.imp id fun h => by simp [bar4Ready, hon, h])]
  · rw [exec_bar4Write_window hs ha, bar4Take_waits (h.imp id fun h => by simp [bar4Ready, hon, h])]
  · rw [exec_bar4Read_window hs ha, bar4Take_made hq (by simp [bar4Ready, hdoze])]
    simp [bar4Do, hdoze]
  · rw [exec_bar4Write_window hs ha, bar4Take_made hq (by simp [bar4Ready, hdoze])]
    simp [bar4Do, hdoze]

end Sys2Proof.Machine
end

section
/-!
PROOFS. Dispatch (chapter 8): what the sequencer makes of the next instruction.
-/
namespace Sys2Proof.Machine

/-- A dispatch command is the dispatch row of its opcode. -/
theorem exec_dispatch {core : CoreId} (s : State) : ∀ r ∈ dispatchRows core, exec r.2.2 s = .next (dispatchAs s core r.1 r.2.1) := by
  simp only [dispatchRows, List.forall_mem_cons, List.not_mem_nil, false_implies, implies_true, and_true]
  and_intros
  all_goals rfl

section Dispatch
variable {s : State} {core : Nat} {l : Line} {want : Nat → Nat → Bool} (hmay : mayDispatch s core = true)
  (hl : lineFor (getCore s core) (nextTarget (getCore s core)).addr = some l)
include hmay hl

/-- The next instruction's line is there: it is accepted, or rejected with the first code of its checks. -/
theorem dispatchNext_line (hf : l.fault = 0) (hw : opcodeDefined (iEngine (nextWord s core l)) (iOpcode (nextWord s core l)) = true →
    want (iEngine (nextWord s core l)) (iOpcode (nextWord s core l)) = true) :
    (nextFail s core l = none → dispatchNext s core want =
      acceptInstr s core (nextWord s core l) (nextTarget (getCore s core)) (nextTd s core l)) ∧
    (∀ code, nextFail s core l = some code → dispatchNext s core want =
      if (getCore s core).window.any openBranch then
        modCore s core (fun x => { x with
          heldReject := some (code.num + 256 * iEngine (nextWord s core l), (nextTarget (getCore s core)).addr) })
      else coreReject s core (iEngine (nextWord s core l)) code.num (nextTarget (getCore s core)).addr) := by
  have hgo : (opcodeDefined (iEngine (nextWord s core l)) (iOpcode (nextWord s core l)) &&
      !want (iEngine (nextWord s core l)) (iOpcode (nextWord s core l))) = false := by
    cases hd : opcodeDefined (iEngine (nextWord s core l)) (iOpcode (nextWord s core l)) with
    | false => rfl
    | true => simp [hw hd]
  unfold nextFail nextTd nextWord at *
  unfold dispatchNext
  simp only [hmay, hl, hf, hgo, Bool.not_true, Bool.false_eq_true, if_false, bne_self_eq_false]
  refine ⟨fun h => ?_, fun code h => ?_⟩ <;> simp only [h]

theorem dispatchNext_fault (hf : l.fault ≠ 0) : dispatchNext s core want =
    if (getCore s core).window.any openBranch then s
    else coreFault s core 0 l.fault false (nextTarget (getCore s core)).addr 0 ((nextTarget (getCore s core)).addr / 512 * 512) := by
  unfold dispatchNext
  simp only [hmay, hl, bne_iff_ne.2 hf, Bool.not_true, Bool.false_eq_true, if_false, if_true]

end Dispatch

/-- Settles O28. -/
theorem dispatch : Obligations.Dispatch := by
  refine ⟨fun core l s hmay hl hf hn => ?_, fun core l code s hmay hl => ⟨fun hf hn => ⟨fun r hr heng hop => ?_, fun hdef => ?_⟩,
    fun hf r hr => ?_⟩⟩
  · have row (eng op : Nat) (c : Instr) (hx : exec c s = .next (dispatchAs s core eng op))
        (heng : iEngine (nextWord s core l) = eng) (hop : iOpcode (nextWord s core l) = op) :
        exec c s = .next (acceptInstr s core (nextWord s core l) (nextTarget (getCore s core)) (nextTd s core l)) :=
      hx.trans (congrArg Host.Outcome.next ((dispatchNext_line hmay hl hf (fun _ => by simp [heng, hop])).1 hn))
    and_intros
    all_goals exact row _ _ _ rfl
  · have hx := (dispatchNext_line (want := fun e o => e == r.1 && o == r.2.1) hmay hl hf (fun _ => by simp [heng, hop])).2 code hn
    simp only [exec_dispatch s r hr, dispatchAs, hx]
    exact ⟨fun h => by rw [h, if_neg Bool.false_ne_true], fun h => by rw [h, if_pos rfl]⟩
  · have hx := (dispatchNext_line (want := fun e o => e == 0 && o == 0) hmay hl hf (fun h => by simp [hdef] at h)).2 code hn
    have hnop : exec (.seqNop core .dispatch) s = .next (dispatchAs s core 0 0) := rfl
    simp only [hnop, dispatchAs, hx]
    exact ⟨fun h => by rw [h, if_neg Bool.false_ne_true], fun h => by rw [h, if_pos rfl]⟩
  · have hx := dispatchNext_fault (want := fun e o => e == r.1 && o == r.2.1) hmay hl hf
    simp only [exec_dispatch s r hr, dispatchAs, hx]
    exact ⟨fun h => by rw [h, if_neg Bool.false_ne_true], fun h => by rw [h, if_pos rfl]⟩

end Sys2Proof.Machine
end

section
/-!
PROOFS. The window of a core (chapter 8): what an instruction's acceptance, its start and its completion leave of the core.
-/
namespace Sys2Proof.Machine

/-! ### Waits are evaluated (R182, R194) -/

/-- A core once its waits have been evaluated. -/
def settledCore (x : Core) (now : Nat) : Core := repark { x with window := x.window.map (settleEnt x now) } now

theorem settleEnt_fixed (x : Core) (now : Nat) (e : WEnt) :
    ∃ sat since, settleEnt x now e = { e with sat := sat, since := since } := by
  unfold settleEnt
  split
  · exact ⟨_, _, rfl⟩
  · split
    · exact ⟨_, _, rfl⟩
    · split <;> exact ⟨_, _, rfl⟩

@[simp] theorem getCore_addTie (s : State) (pg k : Nat) : getCore (addTie s pg) k = getCore s k := rfl

theorem getCore_settle (s : State) (core : Nat) : getCore (settle s core) core = settledCore (getCore s core) s.odometer := by
  unfold settle settledCore
  dsimp only
  rw [getCore_setCore]
  split <;> rfl

theorem getCore_settle_of_ne (s : State) {core k : Nat} (h : k ≠ core) : getCore (settle s core) k = getCore s k := by
  unfold settle
  dsimp only
  rw [getCore_setCore_of_ne _ _ _ h]
  split <;> rfl

/-! ### Contexts that end with their cores (R343) -/

section Ends
variable (s : State) (core : Nat)

theorem getCore_completeRun (c code arg1 k : Nat) : getCore (completeRun s c code arg1) k = getCore s k := by
  unfold completeRun
  split
  · rfl
  · rename_i r _
    exact congrArg (fun cores => look cores k {}) ((completePost_notices _ c r code arg1).get (fun x => x.cores) (fun _ => rfl))

theorem getCore_vacateCore (k : Nat) (h : k ≠ core) : getCore (vacateCore s k) core = getCore s core :=
  getCore_setCore_of_ne _ _ _ (Ne.symm h)

/-- A core that is not among a context's stays as it is when the context leaves its own. -/
theorem getCore_vacate {c : Nat} (h : core ∉ (getCtx s c).cores) : getCore (vacate s c) core = getCore s core :=
  Same.foldl (view := fun x => getCore x core) (fun t k hk => getCore_vacateCore t core k fun e => h (e ▸ hk)) s

/-- A context does not end while a core of it has not halted. -/
theorem getCore_checkDone {c : Nat} (h : (getCore s core).halted = false) : getCore (checkDone s c) core = getCore s core := by
  unfold checkDone
  dsimp only
  split
  · rename_i hall
    simp only [Bool.and_eq_true, List.all_eq_true] at hall
    have hnot : core ∉ (getCtx s c).cores := fun hm =>
      Bool.false_ne_true (h.symm.trans (hall.2 core hm))
    rw [getCore_completeRun, modCtx_eq, getCore_setCtx, getCore_vacate _ _ hnot]
  · rfl

/-- A held rejection halts the context once the window is empty (R157). -/
theorem checkReject_window (h : (getCore s core).window ≠ []) : checkReject s core = s := by
  unfold checkReject
  dsimp only
  split
  · rw [if_neg]
    simp [h]
  · rfl

end Ends

/-- What a pop leaves of a window: the entries from the first that has not completed. -/
def poppedWindow (w : List WEnt) : List WEnt := w.drop (w.takeWhile (fun e => e.st == 2)).length

/-- An entry that has not completed stays, and stays last. -/
theorem poppedWindow_append (w : List WEnt) {e : WEnt} (h : e.st ≠ 2) : poppedWindow (w ++ [e]) = poppedWindow w ++ [e] := by
  unfold poppedWindow
  induction w with
  | nil => simp [h]
  | cons a t ih =>
    by_cases ha : a.st = 2
    · simpa [List.takeWhile_cons, ha] using ih
    · simp [ha]

/-- With an entry left in the window and no HALT in it, a pop changes the core's window alone, and evaluates its waits. -/
theorem getCore_popWindow {s : State} {core : Nat} (hup : (getCore s core).halted = false)
    (hno : ∀ e ∈ (getCore s core).window, e.st = 2 → isSeqOp e 7 = false) (hw : poppedWindow (getCore s core).window ≠ []) :
    getCore (popWindow s core) core =
      settledCore { getCore s core with window := poppedWindow (getCore s core).window } s.odometer := by
  have hgone : ((getCore s core).window.takeWhile (fun e => e.st == 2)).any (fun e => isSeqOp e 7) = false := by
    refine List.any_eq_false.2 fun e he => ?_
    have hst : e.st = 2 := by simpa using List.all_eq_true.mp List.all_takeWhile e he
    simp [hno e ((List.takeWhile_sublist _).subset he) hst]
  unfold popWindow
  extract_lets x gone u v w y
  have hu : getCore u core = { getCore s core with window := poppedWindow (getCore s core).window } := by
    show getCore (setCore _ _ _) _ = _
    rw [getCore_setCore, hgone, Bool.or_false]
    rfl
  have hv : v = u := by
    show (if gone.any _ then _ else _) = _
    rw [hgone, if_neg Bool.false_ne_true]
  have hx : getCore w core = settledCore { getCore s core with window := poppedWindow (getCore s core).window } s.odometer := by
    show getCore (settle v core) core = _
    rw [hv, getCore_settle, hu]
    rfl
  have hy : y = w := checkReject_window w core (by
    rw [hx]
    simpa [settledCore, repark] using hw)
  have hhalt : (getCore y core).halted = false := by
    rw [hy, hx]
    exact hup
  split
  · rw [getCore_checkDone _ _ hhalt, hy, hx]
  · rw [hy, hx]

/-! ### An accepted instruction (R153, Table 50) -/

/-- The entry of an accepted instruction that no restored window holds. -/
def acceptedEnt (x : Core) (i : Nat) (t : Target) (td : List Nat) : WEnt :=
  { id := x.nextId, addr := t.addr, ins := i, td := td, st := 0, run := 0, loops := x.loops }

theorem acceptedEnt_waits {x : Core} {i : Nat} {t : Target} {td : List Nat} : (acceptedEnt x i t td).st ≠ 2 := nofun

/-- The core right after an instruction is accepted, before its waits are evaluated. -/
def acceptedCore (x : Core) (i : Nat) (t : Target) (td : List Nat) : Core :=
  { x with
    window := x.window ++ [acceptedEnt x i t td], nextId := x.nextId + 1, pc := (seqEffect x i t.addr false).1,
    loops := (seqEffect x i t.addr false).2, resume := x.resume, reloop := false,
    closed := x.closed || (iEngine i == 0 && iOpcode i == 7) }

theorem startedSt_zero (i : Nat) : startedSt i 0 = 0 := rfl

theorem resumeRun_zero (i run : Nat) (td : List Nat) : resumeRun i 0 run td = 0 := rfl

/-- An engine that leaves gating changes no more of a core than LR and OP. -/
theorem getCore_wakeEngines (s : State) (core : Nat) :
    ∃ lr op, getCore (wakeEngines s core) core = { getCore s core with lr := lr, op := op } := by
  unfold wakeEngines
  dsimp only
  rw [modCore_eq, getCore_setCore]
  exact ⟨_, _, rfl⟩

theorem getCore_acceptInstr {s : State} {core i : Nat} {t : Target} {td : List Nat} (hr : t.resumed = false) (ht : t.st = 0)
    (hup : staysUp (getCore s core)) : ∃ lr op, getCore (acceptInstr s core i t td) core =
      settledCore { acceptedCore (getCore s core) i t td with
        window := poppedWindow (acceptedCore (getCore s core) i t td).window, lr := lr, op := op } s.odometer := by
  obtain ⟨hhalt, hno⟩ := hup
  unfold acceptInstr
  extract_lets st u v
  have hu : getCore u core = acceptedCore (getCore s core) i t td := by
    show getCore (modCore _ _ _) _ = _
    rw [modCore_eq, getCore_setCore]
    simp [hr, ht, st, startedSt_zero, resumeRun_zero, acceptedCore, acceptedEnt]
  have hv : getCore v core = acceptedCore (getCore s core) i t td := by
    show getCore (if t.resumed then u else siteBump64 u core 0xC1C 1) core = _
    rw [hr, if_neg Bool.false_ne_true]
    exact hu
  have hodo : v.odometer = s.odometer := by
    show (if t.resumed then u else siteBump64 u core 0xC1C 1).odometer = _
    rw [hr, if_neg Bool.false_ne_true]
    rfl
  obtain ⟨lr, op, hw⟩ : ∃ lr op, getCore (if iEngine i == 1 || iEngine i == 2 then wakeEngines v core else v) core =
      { acceptedCore (getCore s core) i t td with lr := lr, op := op } := by
    split
    · obtain ⟨lr, op, h⟩ := getCore_wakeEngines v core
      exact ⟨lr, op, by rw [h, hv]⟩
    · exact ⟨_, _, hv⟩
  refine ⟨lr, op, ?_⟩
  rw [getCore_popWindow, hw]
  · refine congrArg (settledCore _) ?_
    split
    · exact hodo
    · exact hodo
  · rw [hw]
    exact hhalt
  · rw [hw]
    intro e he hst
    rcases List.mem_append.1 he with he | he
    · exact hno e he
    · rw [List.mem_singleton.1 he] at hst
      cases hst
  · rw [hw]
    show poppedWindow (_ ++ [_]) ≠ []
    rw [poppedWindow_append _ acceptedEnt_waits]
    simp

/-- The accepted instruction stands last in the window. -/
theorem acceptInstr_last {s : State} {core i : Nat} {t : Target} {td : List Nat} (hr : t.resumed = false) (ht : t.st = 0)
    (hup : staysUp (getCore s core)) : ∃ e, (getCore (acceptInstr s core i t td) core).window.getLast? = some e ∧ e.ins = i ∧
      e.addr = t.addr ∧ e.td = td ∧ e.st = 0 := by
  obtain ⟨lr, op, h⟩ := getCore_acceptInstr (i := i) (td := td) hr ht hup
  rw [h]
  obtain ⟨sat, since, he⟩ := settleEnt_fixed { acceptedCore (getCore s core) i t td with
    window := poppedWindow (acceptedCore (getCore s core) i t td).window, lr := lr, op := op } s.odometer
    (acceptedEnt (getCore s core) i t td)
  refine ⟨{ acceptedEnt (getCore s core) i t td with sat := sat, since := since }, ?_, rfl, rfl, rfl, rfl⟩
  rw [← he]
  show (List.map _ (poppedWindow (_ ++ [_]))).getLast? = _
  rw [poppedWindow_append _ acceptedEnt_waits, List.map_append]
  exact List.getLast?_concat

/-- Where the fetch continues, and what the loop counters hold (Table 50). -/
theorem acceptInstr_fetch {s : State} {core i : Nat} {t : Target} {td : List Nat} (hr : t.resumed = false) (ht : t.st = 0)
    (hup : staysUp (getCore s core)) :
    (getCore (acceptInstr s core i t td) core).pc = (seqEffect (getCore s core) i t.addr false).1 ∧
    (getCore (acceptInstr s core i t td) core).loops = (seqEffect (getCore s core) i t.addr false).2 ∧
    (getCore (acceptInstr s core i t td) core).closed = ((getCore s core).closed || (iEngine i == 0 && iOpcode i == 7)) := by
  obtain ⟨lr, op, h⟩ := getCore_acceptInstr (i := i) (td := td) hr ht hup
  rw [h]
  exact ⟨rfl, rfl, rfl⟩

section SeqEffect
variable (x : Core) (i addr : Nat)

theorem seqEffect_engine (h : iEngine i ≠ 0) : seqEffect x i addr false = ((addr + 16) % 2 ^ 40, x.loops) := by
  simp [seqEffect, h]

variable {i} (h : iEngine i = 0)
include h

theorem seqEffect_jump (ho : iOpcode i = 1) :
    seqEffect x i addr false = ((((addr : Int) + 16 * sext 24 (iImm i)) % (2 ^ 40 : Int)).toNat, x.loops) := by
  simp [seqEffect, h, ho]

theorem seqEffect_setloop (ho : iOpcode i = 2) :
    seqEffect x i addr false = ((addr + 16) % 2 ^ 40, x.loops.set (fieldOf (iFlags i) 0 2) (iImm i)) := by
  simp [seqEffect, h, ho]

theorem seqEffect_loop (ho : iOpcode i = 3) :
    (seqEffect x i addr false).2 =
      x.loops.set (fieldOf (iFlags i) 0 2) ((nth x.loops (fieldOf (iFlags i) 0 2) + 2 ^ 24 - 1) % 2 ^ 24) ∧
    (seqEffect x i addr false).1 = if nth (seqEffect x i addr false).2 (fieldOf (iFlags i) 0 2) ≠ 0
      then (((addr : Int) + 16 * sext 24 (iImm i)) % (2 ^ 40 : Int)).toNat else (addr + 16) % 2 ^ 40 := by
  unfold seqEffect
  extract_lets op k next target act loops pc
  have hloops : loops = x.loops.set k ((nth x.loops k + 2 ^ 24 - 1) % 2 ^ 24) := by
    show (if _ then _ else if _ then _ else if _ then _ else _) = _
    rw [if_neg (by simp [act, h]), if_neg (by simp [op, ho]), if_pos (by simp [op, ho])]
  have hpc : pc = if nth loops k ≠ 0 then target else next := by
    show (if _ then _ else if _ then _ else if _ then _ else _) = _
    rw [if_neg Bool.false_ne_true, if_neg (by simp [op, ho])]
    simp [op, h, ho]
  exact ⟨hloops, hpc⟩

omit h in
theorem seqEffect_other (ho : iOpcode i ∉ [1, 2, 3]) : seqEffect x i addr false = ((addr + 16) % 2 ^ 40, x.loops) := by
  simp only [List.mem_cons, List.not_mem_nil, or_false, not_or] at ho
  simp [seqEffect, ho]

end SeqEffect

/-! ### What a completion leaves alone (R153) -/

/-- What no completing instruction changes of a core, whether its context runs on, ends or begins an image: its registers, its fetch
PC and loop counters, the positions of its engines, and its tile store. -/
def coreRest (x : Core) : Core :=
  { x with
    ctx := none, runState := 0, lines := [], window := [], resume := [], closed := false, halted := false, heldReject := none,
    reject := none, vxStopped := false, lr := {}, op := {}, reloop := false, opHead := [], slots := [], accIn := [], miles := [],
    reqs := [], shadow := [], remoteSkip := 0, parkedAt := none, lent := false, grant := 0, step := 0, istate := 0, rampAt := 0,
    progress := [], residency := [], haltAt := 0 }

/-- Every started instruction of the window `v` is one of `w`. -/
def StartedIn (w v : List WEnt) : Prop := ∀ y ∈ v, y.st = 1 → ∃ z ∈ w, z.st = 1 ∧ z.ins = y.ins ∧ z.id = y.id

namespace StartedIn
variable {w v u : List WEnt}

theorem of_subset (h : v ⊆ w) : StartedIn w v := fun y hy hst => ⟨y, h hy, hst, rfl, rfl⟩

theorem refl (w : List WEnt) : StartedIn w w := of_subset (List.Subset.refl w)

theorem nil (w : List WEnt) : StartedIn w [] := nofun

theorem trans (a : StartedIn w v) (b : StartedIn v u) : StartedIn w u := fun y hy hst => by
  obtain ⟨z, hz, hzst, hzi, hzd⟩ := b y hy hst
  obtain ⟨q, hq, hqst, hqi, hqd⟩ := a z hz hzst
  exact ⟨q, hq, hqst, hqi.trans hzi, hqd.trans hzd⟩

/-- No instruction of the window starts. -/
theorem map {f : WEnt → WEnt} (h : ∀ e, (f e).st = 1 → e.st = 1 ∧ e.ins = (f e).ins ∧ e.id = (f e).id) (w : List WEnt) :
    StartedIn w (w.map f) := fun y hy hst => by
  obtain ⟨z, hz, rfl⟩ := List.mem_map.1 hy
  exact ⟨z, hz, h z hst⟩

end StartedIn

/-- A core whose instruction completes: the rest stays, no rejection is held where there was none, and no instruction starts. -/
structure CoreKeeps (core : Nat) (s t : State) : Prop where
  rest : coreRest (getCore t core) = coreRest (getCore s core)
  held : (getCore s core).heldReject = none → (getCore t core).heldReject = none
  started : StartedIn (getCore s core).window (getCore t core).window

namespace CoreKeeps
variable {core : Nat} {s t u : State}

theorem refl (core : Nat) (s : State) : CoreKeeps core s s := ⟨rfl, id, .refl _⟩

theorem trans (a : CoreKeeps core s t) (b : CoreKeeps core t u) : CoreKeeps core s u := 
  ⟨b.rest.trans a.rest, b.held ∘ a.held, a.started.trans b.started⟩

theorem get {γ : Type} (h : CoreKeeps core s t) (part : Core → γ) (hp : ∀ x, part (coreRest x) = part x) :
    part (getCore t core) = part (getCore s core) :=
  (hp _).symm.trans ((congrArg part h.rest).trans (hp _))

theorem pc (h : CoreKeeps core s t) : (getCore t core).pc = (getCore s core).pc := h.get (·.pc) fun _ => rfl
theorem loops (h : CoreKeeps core s t) : (getCore t core).loops = (getCore s core).loops := h.get (·.loops) fun _ => rfl

theorem of_core (h : getCore t core = getCore s core) : CoreKeeps core s t := 
  ⟨by rw [h], by rw [h]; exact id, by rw [h]; exact .refl _⟩

theorem of_cores (h : t.cores = s.cores) : CoreKeeps core s t := of_core (by rw [getCore, h, getCore])

theorem ite {c : Prop} [Decidable c] (ht : CoreKeeps core s t) (hu : CoreKeeps core s u) :
    CoreKeeps core s (if c then t else u) := by
  split
  · exact ht
  · exact hu

theorem foldl {β : Type} {f : State → β → State} {l : List β} (h : ∀ s, ∀ a ∈ l, CoreKeeps core s (f s a)) (s : State) :
    CoreKeeps core s (l.foldl f s) := by
  induction l generalizing s with
  | nil => exact refl core s
  | cons a l ih => exact (h s a (List.mem_cons_self ..)).trans (ih (fun s b hb => h s b (List.mem_cons_of_mem _ hb)) _)

/-- An update of what a completion may change. -/
theorem modCore (s : State) (k : Nat) {f : Core → Core} (hr : ∀ x, coreRest (f x) = coreRest x)
    (hh : ∀ x, x.heldReject = none → (f x).heldReject = none) (hw : ∀ x, StartedIn x.window (f x).window) :
    CoreKeeps core s (modCore s k f) := by
  by_cases h : core = k
  · subst h
    simp only [modCore_eq]
    exact ⟨by rw [getCore_setCore, hr], fun hx => by rw [getCore_setCore]; exact hh _ hx, by rw [getCore_setCore]; exact hw _⟩
  · exact of_core (by rw [modCore_eq, getCore_setCore_of_ne _ _ _ h])

end CoreKeeps

section CoreKeeps
variable (core : Nat) (s : State)

theorem traceEvent_cores (source target ctx ms part : Nat) (payload : List Nat) :
    (traceEvent s source target ctx ms part payload).cores = s.cores := by
  refine Same.foldl (view := fun x : State => x.cores) (fun t i _ => ?_) s
  refine .ite ?_ (.refl t)
  refine .ite ?_ rfl
  exact .ite rfl rfl

/-- The waits of a window are evaluated without starting an instruction. -/
theorem settleEnt_started (x : Core) (now : Nat) (e : WEnt) (h : (settleEnt x now e).st = 1) :
    e.st = 1 ∧ e.ins = (settleEnt x now e).ins ∧ e.id = (settleEnt x now e).id := by
  obtain ⟨sat, since, he⟩ := settleEnt_fixed x now e
  rw [he] at h ⊢
  exact ⟨h, rfl, rfl⟩

theorem settle_keepsCore (k : Nat) : CoreKeeps core s (settle s k) := by
  by_cases h : core = k
  · subst h
    exact ⟨by rw [getCore_settle]; rfl, fun hx => by rw [getCore_settle]; exact hx,
      by rw [getCore_settle]; exact .map (settleEnt_started _ _) _⟩
  · exact .of_core (getCore_settle_of_ne s h)

theorem vacateCore_keepsCore (k : Nat) : CoreKeeps core s (vacateCore s k) :=
  .modCore s k (fun _ => rfl) (fun _ _ => rfl) (fun _ => .nil _)

/-- No instruction starts at a stop. -/
theorem stopEnt_started (e : WEnt) (h : (stopEnt e).st = 1) : e.st = 1 ∧ e.ins = (stopEnt e).ins ∧ e.id = (stopEnt e).id := by
  unfold stopEnt at h ⊢
  split at h
  · rename_i h0
    rw [if_pos h0]
    exact ⟨h, rfl, rfl⟩
  · rename_i h0
    rw [if_neg h0]
    split at h
    · cases h
    · rename_i hm
      rw [if_neg hm]
      exact ⟨h, rfl, rfl⟩

theorem stopCore_keepsCore (k : Nat) : CoreKeeps core s (stopCore s k) := by
  unfold stopCore
  extract_lets n u
  have hu : CoreKeeps core s u := .ite (.refl core s) (.of_cores rfl)
  exact hu.trans (.modCore u k (fun _ => rfl) (fun _ h => h) fun _ => .map stopEnt_started _)

theorem abandonSaves_keepsCore (k : Nat) : CoreKeeps core s (abandonSaves s k) :=
  .modCore s k (fun _ => rfl) (fun _ h => h) fun _ => .map (fun e h => by
    split at h
    · cases h
    · rename_i hs
      rw [if_neg hs]
      exact ⟨h, rfl, rfl⟩) _

theorem beginSave_keepsCore (c : Nat) (v : Saving) : CoreKeeps core s (beginSave s c v) := by
  have hstop (t : State) (l : List Nat) : CoreKeeps core t (stopCores t l) := .foldl (fun t k _ => stopCore_keepsCore core t k) t
  unfold beginSave
  extract_lets x u
  have hu : CoreKeeps core s u := .trans (t := setCtx s c _) (.of_cores rfl) (hstop ..)
  refine .ite hu (hu.trans ?_)
  exact .foldl (fun t k _ => abandonSaves_keepsCore core t k) u

theorem checkReject_keepsCore (k : Nat) : CoreKeeps core s (checkReject s k) := by
  unfold checkReject
  dsimp only
  split
  · exact .ite (beginSave_keepsCore ..) (.refl core s)
  · exact .refl core s

theorem checkDone_keepsCore (c : Nat) : CoreKeeps core s (checkDone s c) := by
  unfold checkDone
  dsimp only
  have hvacate : CoreKeeps core s (vacate s c) := .foldl (fun t k _ => vacateCore_keepsCore core t k) s
  refine .ite (hvacate.trans ?_) (.refl core s)
  exact .trans (t := modCtx (vacate s c) c _) (.of_cores rfl) (.of_core (getCore_completeRun ..))

theorem popWindow_keepsCore (k : Nat) : CoreKeeps core s (popWindow s k) := by
  unfold popWindow
  extract_lets x gone u v w y
  have hu : CoreKeeps core s u := .modCore s k (f := fun x => { x with
    window := x.window.drop gone.length, halted := x.halted || gone.any (fun e => isSeqOp e 7) })
    (fun _ => rfl) (fun _ h => h) (fun x => .of_subset (List.drop_subset ..))
  have hv : CoreKeeps core s v :=
    hu.trans (.ite (.modCore u k (fun _ => rfl) (fun _ h => h) fun _ => .refl _) (.refl core u))
  have hy : CoreKeeps core s y := (hv.trans (settle_keepsCore core v k)).trans (checkReject_keepsCore core w k)
  split
  · exact hy.trans (checkDone_keepsCore ..)
  · exact hy

/-- The entries of a window that do not complete with the entry `id`. -/
theorem completed_started (id : Nat) (w : List WEnt) :
    StartedIn (w.filter (fun z => z.id != id)) (w.map (fun e => if e.id == id then { e with st := 2 } else e)) := fun y hy hst => by
  obtain ⟨z, hz, rfl⟩ := List.mem_map.1 hy
  by_cases hid : z.id = id
  · simp [hid] at hst
  · simp only [beq_iff_eq, hid, if_false] at hst ⊢
    exact ⟨z, List.mem_filter.2 ⟨hz, by simpa using hid⟩, hst, rfl, rfl⟩

/-- An instruction completes: its core keeps the rest, and what has started is another instruction. -/
theorem retire_completes (e : WEnt) : CoreKeeps core (modEnt s core e.id (fun e => { e with st := 2 })) (retire s core e) := by
  unfold retire
  extract_lets u v w y
  have hw : CoreKeeps core u w :=
    .trans (t := v) (.of_cores rfl) (.modCore v core (fun _ => rfl) (fun _ h => h) fun _ => .refl _)
  exact (hw.trans (.of_cores (traceEvent_cores w ..))).trans (popWindow_keepsCore core y core)

theorem retire_keepsCore (e : WEnt) : CoreKeeps core s (retire s core e) := by
  have hdone : CoreKeeps core s (modEnt s core e.id (fun e => { e with st := 2 })) :=
    .modCore s core (fun _ => rfl) (fun _ h => h) fun _ =>
      (StartedIn.of_subset (List.filter_sublist.subset)).trans (completed_started e.id _)
  exact hdone.trans (retire_completes core s e)

/-- An instruction without a signal completes by retiring. -/
theorem finishEnt_unsignalled {k : Nat} {e : WEnt} (h : iSigMs e.ins = 63) : finishEnt s k e = retire s k e := by
  simp [finishEnt, signalEnt, h]

/-- What follows a taken BRANCH is gone, and the fetch stands at its target. -/
theorem branchTaken_fetch (e : WEnt) (h : iSigMs e.ins = 63) :
    (getCore (branchTaken s core e) core).pc = (((e.addr : Int) + 16 * sext 24 (iImm e.ins)) % (2 ^ 40 : Int)).toNat ∧
    (getCore (branchTaken s core e) core).loops = e.loops := by
  unfold branchTaken
  extract_lets x after u v w
  have hv : (getCore v core).pc = (((e.addr : Int) + 16 * sext 24 (iImm e.ins)) % (2 ^ 40 : Int)).toNat ∧
      (getCore v core).loops = e.loops := by
    show (getCore (modCore _ _ _) _).pc = _ ∧ (getCore (modCore _ _ _) _).loops = _
    rw [modCore_eq, getCore_setCore]
    exact ⟨rfl, rfl⟩
  rw [finishEnt_unsignalled _ h]
  have hkeeps := retire_keepsCore core w e
  exact ⟨hkeeps.pc.trans hv.1, hkeeps.loops.trans hv.2⟩

end CoreKeeps

/-! ### Starts -/

section Starts
variable {s : State} {core : CoreId} {e : WEnt} (hrun : (runningCtx s core).isSome = true)
include hrun

/-- The sequencer's next instruction starts. -/
theorem startSeqAs_next {op : Option Nat} (hn : nextOf (getCore s core) 0 = some e) (hc : canStart (getCore s core) e = true)
    (ho : op = none ∨ op = some (iOpcode e.ins)) : startSeqAs s core op = startSeq s core e := by
  obtain ⟨c, hctx⟩ := Option.isSome_iff_exists.1 hrun
  unfold startSeqAs
  simp only [hctx, hn, hc, Bool.true_and]
  rcases ho with rfl | rfl <;> simp

theorem exec_start_lr (hn : nextOf (getCore s core) 1 = some e) (hc : canStart (getCore s core) e = true)
    (hl : (getCore s core).lr.ent ≠ none ∨ (getCore s core).window.any (fun e => iEngine e.ins == 1 && e.st == 1) = false) :
    exec (.instructionStart core 1) s = .next (startLr s core e) := by
  obtain ⟨c, hctx⟩ := Option.isSome_iff_exists.1 hrun
  have hnot : ((getCore s core).lr.ent.isNone && (getCore s core).window.any (fun e => iEngine e.ins == 1 && e.st == 1)) = false := by
    rcases hl with h | h
    · simp [h]
    · rw [h, Bool.and_false]
  refine congrArg Host.Outcome.next (show startLrNext s core = _ from ?_)
  simp only [startLrNext, hctx, hnot, hn, hc, Bool.false_eq_true, if_false, if_true]

theorem exec_start_op (hn : nextOf (getCore s core) 2 = some e) (hc : canStart (getCore s core) e = true)
    (hl : (getCore s core).op.ent ≠ none ∨ (getCore s core).window.any (fun e => iEngine e.ins == 2 && e.st == 1) = false) :
    exec (.instructionStart core 2) s = .next (startOp s core e) := by
  obtain ⟨c, hctx⟩ := Option.isSome_iff_exists.1 hrun
  have hnot : ((getCore s core).op.ent.isNone && (getCore s core).window.any (fun e => iEngine e.ins == 2 && e.st == 1)) = false := by
    rcases hl with h | h
    · simp [h]
    · rw [h, Bool.and_false]
  refine congrArg Host.Outcome.next (show startOpNext s core = _ from ?_)
  simp only [startOpNext, hctx, hnot, hn, hc, Bool.false_eq_true, if_false, if_true]

end Starts

theorem activeCtx_of_running {s : State} {core : Nat} (h : (runningCtx s core).isSome = true) : (activeCtx s core).isSome = true := by
  unfold runningCtx at h
  unfold activeCtx
  split at h
  · rename_i c hc
    split at h
    · rename_i hst
      rw [Bool.and_eq_true] at hst
      simp [hc, hst.1]
    · cases h
  · cases h

/-- Settles O29. -/
theorem sequencerWork : Obligations.SequencerWork := by
  refine ⟨fun core i t td s hr ht hup => ?_, fun core e line r s1 s hrun => ?_⟩
  · obtain ⟨hpc, hloops, hclosed⟩ := acceptInstr_fetch (i := i) (td := td) hr ht hup
    rw [hpc, hloops, hclosed]
    refine ⟨acceptInstr_last hr ht hup, fun he => ?_, fun he ho => ?_, fun he ho => ?_, fun he ho => ?_, fun he ho => ?_, fun he ho => ?_⟩
    · rw [seqEffect_engine _ _ _ he]
      simp [he]
    · rw [seqEffect_jump _ _ he ho]
      exact ⟨rfl, rfl⟩
    · rw [seqEffect_setloop _ _ he ho]
      exact ⟨rfl, rfl⟩
    · obtain ⟨hcount, htarget⟩ := seqEffect_loop (getCore s core) t.addr he ho
      rw [htarget, hcount]
      exact ⟨rfl, fun h => if_pos h, fun h => if_neg (Decidable.not_not.2 h)⟩
    · rw [seqEffect_other _ _ ho]
      exact ⟨rfl, rfl⟩
    · simp [he, ho]
  · obtain ⟨c, hctx⟩ := Option.isSome_iff_exists.1 hrun
    refine ⟨fun hline hclosed => ⟨fun hv hread => ?_, fun hv => ?_⟩, fun hn hc hl => exec_start_lr hrun hn hc hl,
      fun hn hc hl => exec_start_op hrun hn hc hl, fun hn hc => ?_, fun hn hc => ?_, fun hn hc => ?_, fun hn hc => ⟨?_, fun ho => ?_,
      fun ho => ?_, fun ho => ?_⟩, fun hb hw => ⟨_, ?_, rfl, fun hsig => ?_⟩, fun hb hw => ⟨_, ?_, rfl, fun hsig hheld => ?_⟩,
      fun q hf hv hread => ?_⟩
    · have hneed : (line.toNat == (nextTarget (getCore s core)).addr / 512 || line.toNat == (nextTarget (getCore s core)).addr / 512 + 1)
          = true := by simpa using hline
      show execFetchLineReturn core line s = _
      simp only [execFetchLineReturn, hctx, hneed, hclosed, hv, hread, Bool.not_false, Bool.and_self, if_true] <;> rfl
    · show execFetchLineReturn core line s = _
      simp only [execFetchLineReturn, hctx, hv, Bool.and_false, Bool.false_eq_true, if_false]
    · refine congrArg Host.Outcome.next (show startVxNext s core = _ from ?_)
      simp only [startVxNext, hctx, hn, hc, if_true]
    · refine congrArg Host.Outcome.next (show startDmNext s core = _ from ?_)
      simp only [startDmNext, hctx, hn, hc, if_true]
    · refine congrArg Host.Outcome.next (show startMsNext s core = _ from ?_)
      simp only [startMsNext, hctx, hn, hc, if_true]
    · exact congrArg Host.Outcome.next (startSeqAs_next hrun hn hc (.inl rfl))
    · refine congrArg Host.Outcome.next ((startSeqAs_next hrun hn hc (.inr (by rw [ho]))).trans ?_)
      simp [startSeq, ho, finishThen]
    · refine congrArg Host.Outcome.next ((startSeqAs_next hrun hn hc (.inr (by rw [ho]))).trans ?_)
      simp [startSeq, ho, finishThen]
    · refine congrArg Host.Outcome.next ((congrArg (afterSeq · core) (startSeqAs_next hrun hn hc (.inr (by rw [ho])))).trans ?_)
      simp [startSeq, ho]
    · show execBranchResolve core s = _
      simp only [execBranchResolve, hctx, hb, hw, if_true]
    · exact branchTaken_fetch core s e hsig
    · show execBranchResolve core s = _
      simp only [execBranchResolve, hctx, hb, hw, Bool.false_eq_true, if_false]
    · have hkeeps : CoreKeeps core s (finishEnt s core e) := by
        rw [finishEnt_unsignalled _ hsig]
        exact retire_keepsCore core s e
      unfold branchPassed
      dsimp only
      rw [hkeeps.held hheld]
    · obtain ⟨a, ha⟩ := Option.isSome_iff_exists.1 (activeCtx_of_running hrun)
      show execTdLoadDone core s = _
      simp only [execTdLoadDone, ha, hf, hv, hread, Bool.not_true, Bool.false_eq_true, if_false]
      cases q <;> rfl

end Sys2Proof.Machine
end

section
/-!
PROOFS. The winner of pairs and VX (chapters 6 and 8).
-/
namespace Sys2Proof.Machine

/-! ### The winner is the least pair of a linear order (R120) -/

theorem orderKey_injective {a b : Nat} (h : orderKey a = orderKey b) : a = b := by
  unfold orderKey at h
  split at h
  · split at h
    · omega
    · omega
  · split at h
    · omega
    · omega

/-- One place comes before another, component by component. -/
abbrev RankBefore (x y : Int × Int × Int) : Prop :=
  x.1 < y.1 ∨ x.1 = y.1 ∧ (x.2.1 < y.2.1 ∨ x.2.1 = y.2.1 ∧ x.2.2 < y.2.2)

section Rank
variable {x y z : Int × Int × Int}

theorem RankBefore.trans (hxy : RankBefore x y) (hyz : RankBefore y z) : RankBefore x z := by
  unfold RankBefore at hxy hyz ⊢
  omega

theorem RankBefore.asymm (hxy : RankBefore x y) : ¬ RankBefore y x := by
  unfold RankBefore at hxy ⊢
  omega

theorem not_rankBefore_trans (hyx : ¬ RankBefore y x) (hzy : ¬ RankBefore z y) : ¬ RankBefore z x := by
  unfold RankBefore at hyx hzy ⊢
  omega

/-- Places of which neither comes before the other are the same. -/
theorem eq_of_not_rankBefore (hxy : ¬ RankBefore x y) (hyx : ¬ RankBefore y x) : x = y := by
  unfold RankBefore at hxy hyx
  refine Prod.ext ?_ (Prod.ext ?_ ?_)
  · omega
  · omega
  · omega

end Rank

/-- The place of a pair in the order of R120: a NaN before every number, then by value, then by index. -/
def pairRank (isMin : Bool) (v : Nat × Int) : Int × Int × Int :=
  if isNan32 v.1 then (0, 0, v.2) else (1, if isMin then orderKey v.1 else -orderKey v.1, v.2)

/-- The first of two places. -/
def firstRank (x y : Int × Int × Int) : Int × Int × Int := if RankBefore y x then y else x

section FirstRank
variable (x y z : Int × Int × Int)

theorem firstRank_comm : firstRank x y = firstRank y x := by
  unfold firstRank
  by_cases hyx : RankBefore y x
  · rw [if_pos hyx, if_neg hyx.asymm]
  · rw [if_neg hyx]
    by_cases hxy : RankBefore x y
    · rw [if_pos hxy]
    · rw [if_neg hxy, eq_of_not_rankBefore hxy hyx]

theorem firstRank_assoc : firstRank (firstRank x y) z = firstRank x (firstRank y z) := by
  unfold firstRank
  by_cases hyx : RankBefore y x
  · rw [if_pos hyx]
    by_cases hzy : RankBefore z y
    · rw [if_pos hzy, if_pos (hzy.trans hyx)]
    · rw [if_neg hzy, if_pos hyx]
  · rw [if_neg hyx]
    by_cases hzy : RankBefore z y
    · rw [if_pos hzy]
    · rw [if_neg hzy, if_neg hyx, if_neg (not_rankBefore_trans hyx hzy)]

theorem firstRank_right_comm : firstRank (firstRank z x) y = firstRank (firstRank z y) x := by
  rw [firstRank_assoc, firstRank_comm x y, firstRank_assoc]

end FirstRank

/-- `winner` takes its second pair just where that one's place comes before the first one's. -/
theorem winner_cases (isMin : Bool) (a b : Nat × Int) :
    RankBefore (pairRank isMin b) (pairRank isMin a) ∧ winner isMin a b = b ∨
    ¬ RankBefore (pairRank isMin b) (pairRank isMin a) ∧ winner isMin a b = a := by
  have hchoice (c P : Prop) [Decidable c] (h : P ↔ c) : P ∧ (if c then b else a) = b ∨ ¬ P ∧ (if c then b else a) = a := by
    by_cases hc : c
    · exact .inl ⟨h.mpr hc, if_pos hc⟩
    · exact .inr ⟨fun hp => hc (h.mp hp), if_neg hc⟩
  unfold winner pairRank RankBefore
  cases isNan32 a.1
  · cases isNan32 b.1
    · simp only [Bool.false_eq_true, if_false, Int.lt_irrefl, false_or, true_and]
      by_cases hk : orderKey a.1 = orderKey b.1
      · simp only [hk, if_true, Int.lt_irrefl, false_or, true_and]
        exact hchoice _ _ Iff.rfl
      · simp only [hk, if_false]
        refine hchoice _ _ ?_
        cases isMin
        · simp only [Bool.false_eq_true, if_false, Bool.false_and, Bool.not_false, Bool.true_and, Bool.false_or, decide_eq_true_eq]
          omega
        · simp only [if_true, Bool.true_and, Bool.not_true, Bool.false_and, Bool.or_false, decide_eq_true_eq]
          omega
    · exact .inl ⟨.inl Int.zero_lt_one, rfl⟩
  · cases isNan32 b.1
    · simp only [Bool.false_eq_true, if_false, if_true]
      refine .inr ⟨?_, trivial⟩
      omega
    · simp only [if_true, Int.lt_irrefl, false_or, true_and]
      exact hchoice _ _ Iff.rfl

theorem pairRank_winner (isMin : Bool) (a b : Nat × Int) :
    pairRank isMin (winner isMin a b) = firstRank (pairRank isMin a) (pairRank isMin b) := by
  unfold firstRank
  obtain ⟨hbefore, heq⟩ | ⟨hnot, heq⟩ := winner_cases isMin a b
  · rw [heq, if_pos hbefore]
  · rw [heq, if_neg hnot]

/-- Pairs of one rank are stored alike: all NaNs as the canonical one. -/
theorem stored_of_rank (isMin : Bool) {a b : Nat × Int} (h : pairRank isMin a = pairRank isMin b) :
    (canon32 a.1, a.2) = (canon32 b.1, b.2) := by
  unfold pairRank at h
  unfold canon32
  cases ha : isNan32 a.1
  · cases hb : isNan32 b.1
    · simp only [ha, hb, Bool.false_eq_true, if_false, Prod.mk.injEq, true_and] at h ⊢
      obtain ⟨hkey, hidx⟩ := h
      have hkey : orderKey a.1 = orderKey b.1 := by
        cases isMin
        · simp only [Bool.false_eq_true, if_false] at hkey
          exact Int.neg_inj.mp hkey
        · simp only [if_true] at hkey
          exact hkey
      exact ⟨orderKey_injective hkey, hidx⟩
    · simp only [ha, hb, Bool.false_eq_true, if_false, if_true, Prod.mk.injEq] at h
      omega
  · cases hb : isNan32 b.1
    · simp only [ha, hb, Bool.false_eq_true, if_false, if_true, Prod.mk.injEq] at h
      omega
    · simp only [ha, hb, if_true, Prod.mk.injEq, true_and] at h ⊢
      exact h

theorem pairRank_foldl (isMin : Bool) (l : List (Nat × Int)) (a : Nat × Int) :
    pairRank isMin (l.foldl (winner isMin) a) = (l.map (pairRank isMin)).foldl firstRank (pairRank isMin a) := by
  induction l generalizing a with
  | nil => rfl
  | cons b l ih => rw [List.foldl_cons, ih, pairRank_winner, List.map_cons, List.foldl_cons]

/-- Settles O33: the winner is the first of a linear order that decides what is stored. -/
theorem winnerRule : Obligations.WinnerRule := by
  refine ⟨fun isMin a b c _ _ _ => ⟨stored_of_rank isMin ?_, stored_of_rank isMin ?_, fun ha hb => ?_, fun hv hi => ?_⟩,
    fun isMin a l m _ hperm => stored_of_rank isMin ?_, fun x e row => ⟨_, _, rfl⟩⟩
  · rw [pairRank_winner, pairRank_winner, firstRank_comm]
  · simp only [pairRank_winner, firstRank_assoc]
  · simp [winner, ha, hb]
  · obtain ⟨hbefore, -⟩ | ⟨-, heq⟩ := winner_cases isMin a b
    · have hkey : (pairRank isMin b).1 = (pairRank isMin a).1 ∧ (pairRank isMin b).2.1 = (pairRank isMin a).2.1 ∧
          (pairRank isMin b).2.2 = b.2 ∧ (pairRank isMin a).2.2 = a.2 := by
        unfold pairRank
        rw [← hv]
        cases isNan32 a.1
        · exact ⟨rfl, rfl, rfl, rfl⟩
        · exact ⟨rfl, rfl, rfl, rfl⟩
      unfold RankBefore at hbefore
      omega
    · rw [heq]
  · rw [pairRank_foldl, pairRank_foldl]
    exact (hperm.map (pairRank isMin)).foldl_eq' (fun x _ y _ z => firstRank_right_comm x y z) (pairRank isMin a)

/-! ### VX -/

@[simp] theorem getCore_modCore (s : State) (k : Nat) (f : Core → Core) : getCore (modCore s k f) k = f (getCore s k) := by
  rw [modCore_eq, getCore_setCore]

theorem getCore_modCore_of_ne (s : State) {k j : Nat} (f : Core → Core) (h : j ≠ k) : getCore (modCore s k f) j = getCore s j := by
  rw [modCore_eq, getCore_setCore_of_ne _ _ _ h]

/-- The state once VX has taken a row. -/
def vxTaken (s : State) (core : Nat) (e : WEnt) : State :=
  let o := vxRow (getCore s core) e e.run
  progressed (modEnt (modCore s core (fun x => { x with
    ts := o.writes.foldl (fun ts w => storeBytes ts w.1 w.2) x.ts, arithStat := x.arithStat ||| o.flags, srState := o.sr }))
    core e.id (fun e => { e with run := e.run + 1 })) core 3

theorem vxStep_takes {s : State} {core : Nat} {e : WEnt} (hrun : (runningCtx s core).isSome = true)
    (he : vxEnt (getCore s core) = some e) (hstop : (getCore s core).vxStopped = false) (hrow : e.run < (vxDesc e.td).rows) :
    vxStep s core (iOpcode e.ins) = vxTaken s core e := by
  obtain ⟨c, hctx⟩ := Option.isSome_iff_exists.1 hrun
  unfold vxStep
  simp only [hctx, he, hstop, bne_self_eq_false, Bool.or_self, Bool.false_or, decide_eq_true_eq, Nat.not_le.2 hrow, if_false]
  rfl

/-- The window after a row holds the same entries, of which those of the instruction have run a row more. -/
theorem vxTaken_window {s : State} {core : Nat} {e y : WEnt} (hy : y ∈ (getCore (vxTaken s core e) core).window)
    (hid : y.id = e.id) : ∃ z ∈ (getCore s core).window, z.id = e.id ∧ y = { z with run := z.run + 1 } := by
  have hmem : y ∈ (getCore s core).window.map (fun z => if z.id == e.id then { z with run := z.run + 1 } else z) := by
    simpa only [vxTaken, progressed, modEnt, getCore_modCore] using hy
  obtain ⟨z, hz, rfl⟩ := List.mem_map.1 hmem
  by_cases hz' : z.id = e.id
  · exact ⟨z, hz, hz', by simp [hz']⟩
  · simp [hz'] at hid

theorem vxTaken_core (s : State) (core : Nat) (e : WEnt) :
    ∃ window progress, getCore (vxTaken s core e) core =
      { getCore s core with
        ts := (vxRow (getCore s core) e e.run).writes.foldl (fun ts w => storeBytes ts w.1 w.2) (getCore s core).ts,
        arithStat := (getCore s core).arithStat ||| (vxRow (getCore s core) e e.run).flags,
        srState := (vxRow (getCore s core) e e.run).sr, window := window, progress := progress } := by
  unfold vxTaken progressed modEnt
  simp only [getCore_modCore]
  exact ⟨_, _, rfl⟩

theorem getCore_vxTaken_of_ne (s : State) {core k : Nat} (e : WEnt) (h : k ≠ core) :
    getCore (vxTaken s core e) k = getCore s k := by
  unfold vxTaken progressed modEnt
  simp only [getCore_modCore_of_ne _ _ h]

/-- Settles O32. -/
theorem vectorEngine : Obligations.VectorEngine := by
  refine ⟨fun core e s => ?_, fun core e s => ⟨fun hact he hrows => ?_, fun c hc hstops hend => ?_, fun c hc hnot => ?_⟩⟩
  · intro x o hrun he hstop hrow row
    have takes (op : Nat) (c : Instr) (hc : exec c s = .next (vxStep s core op)) : row op c := by
      intro ho
      refine ⟨vxTaken s core e, ?_, ?_⟩
      · rw [hc, ← ho, vxStep_takes hrun he hstop hrow]
      · obtain ⟨window, progress, hx⟩ := vxTaken_core s core e
        refine ⟨?_, ?_, ?_, ?_, ?_, rfl, rfl, fun k hk => getCore_vxTaken_of_ne s e hk, fun y => vxTaken_window⟩
        all_goals rw [hx]
    exact ⟨takes 0 _ rfl, takes 1 _ rfl, takes 2 _ rfl, takes 3 _ rfl, takes 4 _ rfl, takes 5 _ rfl, takes 6 _ rfl, takes 7 _ rfl,
      takes 8 _ rfl, takes 9 _ rfl, takes 10 _ rfl, takes 11 _ rfl, takes 12 _ rfl, takes 13 _ rfl, takes 14 _ rfl, takes 15 _ rfl⟩
  · obtain ⟨c, hctx⟩ := Option.isSome_iff_exists.1 hact
    constructor
    · intro ho
      show execVxComplete core s = _
      simp [execVxComplete, hctx, he, Nat.not_lt.mpr hrows, ho]
    · intro ho
      show execVxComplete core s = _
      simp [execVxComplete, hctx, he, Nat.not_lt.mpr hrows, ho]
  · show execVxStop core s = _
    simp only [execVxStop, hc, hstops, hend, Bool.not_false, Bool.and_self, if_true]
  · show execVxStop core s = _
    rcases hnot with h | h
    · simp only [execVxStop, hc, h, Bool.false_and, Bool.false_eq_true, if_false]
    · simp only [execVxStop, hc, h, Bool.not_true, Bool.and_false, Bool.false_eq_true, if_false]

end Sys2Proof.Machine
end

section
/-!
PROOFS. LR and OP (chapters 4 and 5): what an instruction's own signal changes of its core, and the engines' commands.
-/
namespace Sys2Proof.Machine

/-! ### Signals of an instruction (R179, R181) -/

theorem traceEvent_odometer (s : State) (source target ctx ms part : Nat) (payload : List Nat) :
    (traceEvent s source target ctx ms part payload).odometer = s.odometer := by
  refine Same.foldl (view := fun x : State => x.odometer) (fun t i _ => ?_) s
  refine .ite ?_ (.refl t)
  refine .ite ?_ rfl
  exact .ite rfl rfl

theorem getCore_traceEvent (s : State) (source target ctx ms part : Nat) (payload : List Nat) (k : Nat) :
    getCore (traceEvent s source target ctx ms part payload) k = getCore s k := by
  rw [getCore, traceEvent_cores, getCore]

theorem getCore_putMile (s : State) (core ms : Nat) (m : Mile) :
    getCore (putMile s core ms m) core =
      settledCore { getCore s core with miles := store (getCore s core).miles ms m } s.odometer := by
  unfold putMile
  rw [getCore_settle, getCore_traceEvent, traceEvent_odometer, getCore_modCore]
  rfl

/-- A milestone after a signal. -/
def signalled (m : Mile) (inc : Nat) (last : Word) : Mile := { m with value := m.value + BitVec.ofNat 32 inc, last := last }

/-- A signal of the own core's COUNT-mode milestone is applied. -/
theorem signalOwn_applied {s : State} {core ms : Nat} (e : WEnt) (inc : Nat) (h : (mileOf (getCore s core) ms).barrier = false) :
    signalOwn s core e ms inc =
      putMile s core ms (signalled (mileOf (getCore s core) ms) inc (lastWord s core (iEngine e.ins))) := by
  simp [signalOwn, signalMs, h, signalled]

theorem mileOf_putMile (s : State) (core ms : Nat) (m : Mile) : mileOf (getCore (putMile s core ms m) core) ms = m := by
  rw [getCore_putMile]
  exact look_store_self ..

theorem putMile_keepsCore (core : Nat) (s : State) (k ms : Nat) (m : Mile) : CoreKeeps core s (putMile s k ms m) := by
  unfold putMile
  extract_lets u v
  have hu : CoreKeeps core s u := .modCore s k (fun _ => rfl) (fun _ h => h) fun _ => .refl _
  exact (hu.trans (.of_cores (traceEvent_cores u ..))).trans (settle_keepsCore core v k)

theorem signalEnt_keepsCore {core : Nat} {s : State} {e : WEnt} (h : signalsFree (getCore s core) e) :
    CoreKeeps core s (signalEnt s core e) := by
  unfold signalEnt
  by_cases hs : iSigMs e.ins = 63
  · simp only [hs, beq_self_eq_true, if_true]
    exact .refl core s
  · simp only [beq_iff_eq, hs, if_false]
    rw [signalOwn_applied e _ (h.resolve_left hs)]
    exact putMile_keepsCore ..

theorem finishEnt_keepsCore {core : Nat} {s : State} {e : WEnt} (h : signalsFree (getCore s core) e) :
    CoreKeeps core s (finishEnt s core e) :=
  (signalEnt_keepsCore h).trans (retire_keepsCore ..)

/-- A pass end's signal: nothing without SIGNAL_MS, and an addition to a COUNT-mode milestone with it. -/
theorem signalEnt_none {s : State} {core : Nat} {e : WEnt} (h : iSigMs e.ins = 63) : signalEnt s core e = s := by
  simp [signalEnt, h]

theorem signalEnt_applied {s : State} {core : Nat} {e : WEnt} (hlt : iSigMs e.ins < 48)
    (h : (mileOf (getCore s core) (iSigMs e.ins)).barrier = false) :
    signalEnt s core e = putMile s core (iSigMs e.ins)
      (signalled (mileOf (getCore s core) (iSigMs e.ins)) (iSigInc e.ins) (lastWord s core (iEngine e.ins))) := by
  have hne : iSigMs e.ins ≠ 63 := by omega
  simp only [signalEnt, beq_iff_eq, hne, if_false]
  exact signalOwn_applied e _ h

/-! ### LR -/

@[simp] theorem getCore_shadowNote (s : State) (core : Nat) (l : List Byte) (k : Nat) :
    getCore (shadowNote s core l) k = getCore s k := rfl

@[simp] theorem getCore_shadowEnd (s : State) (core k : Nat) : getCore (shadowEnd s core) k = getCore s k := rfl

@[simp] theorem getCore_siteBump32 (s : State) (core off n k : Nat) : getCore (siteBump32 s core off n) k = getCore s k := rfl

theorem getCore_shadowSelect (s : State) (core ctx pass cycles k : Nat) :
    getCore (shadowSelect s core ctx pass cycles) k = getCore s k := by
  unfold shadowSelect
  dsimp only
  split
  · rfl
  · split
    · split <;> rfl
    · rfl

theorem lrAdvance_token (l : LrRun) (d : LrDesc) (id : Nat) :
    (lrAdvance l d id).token = if l.token + 1 < d.n then l.token + 1 else 0 := by
  unfold lrAdvance
  repeat' split
  all_goals rfl

section Lr
variable {s : State} {core : Nat} {e : WEnt}

/-- A token writes its part of the Y row and sets the sticky flags; a stream token then signals. -/
theorem lrStep_stepped (s : State) (core : Nat) (e : WEnt) (b : Bank) :
    let x := getCore s core
    let d := lrDesc e.td
    let o := lrToken x e (lrWidth (coreSite s core)) x.lr.pass x.lr.step x.lr.token b
    ∃ t, lrStep s core e b = (if d.stream && iSigMs e.ins != 63 then signalOwn t core e (iSigMs e.ins) 1 else t) ∧
      t.hbm = s.hbm ∧ (getCore t core).miles = x.miles ∧
      (getCore t core).ts = storeBytes x.ts (rowAt d.yBase d.yPitch (if d.stream then x.lr.token % d.ring else x.lr.token) +
        4 * (x.lr.pass * lrWidth (coreSite s core))) (o.1.flatMap (leBytes 4)) ∧
      (getCore t core).arithStat = (x.arithStat ||| o.2) ∧
      (getCore t core).lr.token = (if x.lr.token + 1 < d.n then x.lr.token + 1 else 0) := by
  refine ⟨_, rfl, rfl, ?_, ?_, ?_, ?_⟩
  all_goals simp only [progressed, modEnt, getCore_modCore, getCore_shadowNote]
  · rfl
  · rfl
  · exact lrAdvance_token ..

/-- LR's next token, when its bank is filled and the stream conditions hold. -/
theorem lrIssue_steps {b : Bank} {want : WEnt → Bool} (hrun : (runningCtx s core).isSome = true)
    (he : lrEnt (getCore s core) = some e) (hw : want e = true) (hend : (getCore s core).lr.ended = false)
    (hstop : (getCore s core).lr.stopped = false) (hpass : (getCore s core).lr.pass < lrPasses (lrDesc e.td) (lrWidth (coreSite s core)))
    (hb : (getCore s core).lr.banks.find? (fun b => b.ent == e.id && b.a == (getCore s core).lr.pass &&
      b.b == (getCore s core).lr.step) = some b)
    (hready : (lrDesc e.td).stream = true → streamReady (getCore s core) e (getCore s core).lr.token = true) :
    lrIssue s core want = lrStep s core e b := by
  obtain ⟨c, hctx⟩ := Option.isSome_iff_exists.1 hrun
  have hgo : ((lrDesc e.td).stream && !streamReady (getCore s core) e (getCore s core).lr.token) = false := by
    cases hs : (lrDesc e.td).stream
    · rfl
    · rw [hready hs]
      rfl
  unfold lrIssue
  simp only [hctx, he, hw, hend, hstop, hb, hgo, Bool.not_true, Bool.or_self, Bool.false_or, decide_eq_true_eq, Nat.not_le.2 hpass,
    Bool.false_eq_true, if_false]

/-- LR takes up its next instruction: the position record and the tile store stay. -/
theorem lrTakeNext_position (s : State) (core : Nat) :
    (getCore (lrTakeNext s core) core).lrPass = (getCore s core).lrPass ∧
    (getCore (lrTakeNext s core) core).ts = (getCore s core).ts := by
  unfold lrTakeNext
  dsimp only
  split
  · unfold lrActivate
    dsimp only
    split
    · rw [getCore_modCore]
      exact ⟨rfl, rfl⟩
    · rw [getCore_shadowSelect, getCore_modCore]
      exact ⟨rfl, rfl⟩
  · rw [getCore_modCore]
    exact ⟨rfl, rfl⟩

end Lr

/-- Settles O30. -/
theorem linearEngine : Obligations.LinearEngine := by
  refine ⟨fun core e b s => ?token, fun core q s hrun hq => ?fill, fun core c e s hact he hend => ?passEnd,
    fun core e s hact he hend hpass => ?complete, fun core s hrun hgate hany => ?stall, fun core c e s hc hstops => ?stop⟩
  case token =>
    intro x d w hrun he hend hstop hpass hb hready
    have issue (want : WEnt → Bool) (hw : want e = true) : lrIssue s core want = lrStep s core e b :=
      lrIssue_steps hrun he hw hend hstop hpass hb hready
    refine ⟨fun ho => congrArg Host.Outcome.next (issue _ (by simp [ho])), fun ho => congrArg Host.Outcome.next (issue _ (by simp [ho])),
      fun hs => congrArg Host.Outcome.next (issue _ hs), fun hs hfree => ?_, fun hs => ?_⟩
    · obtain ⟨t, ht, -, hmiles, hts, -, -⟩ := lrStep_stepped s core e b
      have hsame (ms : Nat) : mileOf (getCore t core) ms = mileOf x ms := by
        unfold mileOf
        rw [hmiles]
      rw [show (lrDesc e.td).stream = true from hs] at ht hts
      rw [ht]
      by_cases h63 : iSigMs e.ins = 63
      · simp only [h63, bne_self_eq_false, Bool.and_false, Bool.false_eq_true, if_false]
        exact ⟨hts, fun h => absurd rfl h⟩
      · have hfree' : (mileOf (getCore t core) (iSigMs e.ins)).barrier = false := by
          rw [hsame]
          exact hfree.resolve_left h63
        rw [if_pos (by simp [h63]), signalOwn_applied e 1 hfree', mileOf_putMile, hsame]
        exact ⟨((putMile_keepsCore ..).get (·.ts) fun _ => rfl).trans hts, fun _ => rfl⟩
    · obtain ⟨t, ht, hhbm, hmiles, hts, harith, htok⟩ := lrStep_stepped s core e b
      rw [show (lrDesc e.td).stream = false from hs] at ht hts
      rw [ht]
      exact ⟨hts, harith, htok, hmiles, hhbm⟩
  case fill =>
    obtain ⟨c, hctx⟩ := Option.isSome_iff_exists.1 hrun
    show execLrFillDone core s = _
    simp only [execLrFillDone, hctx, hq]
    rfl
  case passEnd =>
    intro x d s1 s2 y
    have hs1 : getCore s1 core = { x with lr := { x.lr with ended := false } } := by
      simp only [s1, getCore_shadowEnd, getCore_siteBump32, getCore_modCore]
      rfl
    have hmile (ms : Nat) : mileOf (getCore s1 core) ms = mileOf x ms := by rw [hs1]; rfl
    refine ⟨?_, fun hnone => ?_, fun hbit hlt hbar => ?_⟩
    · show execLrPassEnd core s = _
      simp only [execLrPassEnd, hact, he, hend, Bool.not_true, Bool.false_eq_true, if_false]
      rfl
    · have hy : y = getCore s1 core := by
        show getCore (if bitOf (iFlags e.ins) 0 then signalEnt s1 core e else s1) core = _
        rcases hnone with h | h
        · rw [h, if_neg Bool.false_ne_true]
        · rw [signalEnt_none h, ite_self]
      rw [hy, hs1]
      exact ⟨rfl, rfl, rfl⟩
    · have hy : y = getCore (putMile s1 core (iSigMs e.ins) (signalled (mileOf (getCore s1 core) (iSigMs e.ins)) (iSigInc e.ins)
          (lastWord s1 core (iEngine e.ins)))) core := by
        show getCore (if bitOf (iFlags e.ins) 0 then signalEnt s1 core e else s1) core = _
        rw [hbit, if_pos rfl, signalEnt_applied hlt (by rw [hmile]; exact hbar)]
      rw [hy, mileOf_putMile, hmile]
      refine ⟨?_, ?_, rfl⟩
      · rw [getCore_putMile, hs1]
        rfl
      · rw [getCore_putMile, hs1]
        rfl
  case complete =>
    intro s1 s2 t
    obtain ⟨c, hctx⟩ := Option.isSome_iff_exists.1 hact
    refine ⟨?_, fun hfree => ?_⟩
    · show execLrComplete core s = _
      simp only [execLrComplete, hctx, he, hend, Nat.not_lt.2 hpass, Bool.false_or, decide_false, Bool.false_eq_true, if_false]
      rfl
    · have hs1 : getCore s1 core = { getCore s core with
          lrPass := (getCore s core).lrPass &&& 0x7FFFFFFF#32, lrFill := 0, lrFree := 0,
          lr := { (getCore s core).lr with ent := none, banks := (getCore s core).lr.banks.filter (fun b => b.ent != e.id) } } :=
        getCore_modCore ..
      have hfree1 : signalsFree (getCore s1 core) e := by
        rw [hs1]
        exact hfree
      have hs2 : CoreKeeps core s1 s2 := .ite (retire_keepsCore ..) (finishEnt_keepsCore hfree1)
      have ht : (getCore t core).lrPass = (getCore s2 core).lrPass ∧ (getCore t core).ts = (getCore s2 core).ts := by
        show (getCore (if _ then _ else _) core).lrPass = _ ∧ (getCore (if _ then _ else _) core).ts = _
        split
        · exact lrTakeNext_position s2 core
        · exact ⟨rfl, rfl⟩
      refine ⟨ht.1.trans ((hs2.get (·.lrPass) fun _ => rfl).trans ?_), ht.2.trans ((hs2.get (·.ts) fun _ => rfl).trans ?_)⟩
      · rw [hs1]
      · rw [hs1]
  case stall =>
    show execLrDummyStepDown core s = _
    simp only [execLrDummyStepDown, hrun, hgate, hany, Bool.not_false, Bool.and_self, if_true]
  case stop =>
    dsimp only
    intro hnot
    refine ⟨fun he => ?_, fun he hend hpass => ⟨fun hr => ?_, fun hr => ?_⟩⟩
    · show execLrStop core s = _
      simp only [execLrStop, hc, hstops, hnot, he, Bool.not_true, Bool.or_self, Bool.false_eq_true, if_false]
    · show execLrStop core s = _
      simp only [execLrStop, hc, hstops, hnot, he, hend, hr, Nat.not_le.2 hpass, Bool.not_true, Bool.or_self, decide_false,
        Bool.false_eq_true, if_false, beq_self_eq_true, if_true]
    · show execLrStop core s = _
      simp only [execLrStop, hc, hstops, hnot, he, hend, beq_iff_eq, hr, Nat.not_le.2 hpass, Bool.not_true, Bool.or_self,
        decide_false, Bool.false_eq_true, if_false]
/-! ### OP -/

theorem StartedIn.filter_id {w v : List WEnt} (h : StartedIn w v) (id : Nat) :
    StartedIn (w.filter (fun z => z.id != id)) (v.filter (fun z => z.id != id)) := fun y hy hst => by
  obtain ⟨hv, hne⟩ := List.mem_filter.1 hy
  obtain ⟨z, hz, hzst, hzi, hzd⟩ := h y hv hst
  exact ⟨z, List.mem_filter.2 ⟨hz, by rw [hzd]; exact hne⟩, hzst, hzi, hzd⟩

/-- What has started once an instruction has completed is another instruction. -/
theorem retire_started (core : Nat) (s : State) (e : WEnt) :
    StartedIn ((getCore s core).window.filter (fun z => z.id != e.id)) (getCore (retire s core e) core).window := by
  have hmap := completed_started e.id (getCore s core).window
  refine hmap.trans ?_
  have hdone := (retire_completes core s e).started
  simp only [modEnt, getCore_modCore] at hdone
  exact hdone

theorem finishEnt_started {core : Nat} {s : State} {e : WEnt} (h : signalsFree (getCore s core) e) :
    StartedIn ((getCore s core).window.filter (fun z => z.id != e.id)) (getCore (finishEnt s core e) core).window :=
  ((signalEnt_keepsCore h).started.filter_id e.id).trans (retire_started core (signalEnt s core e) e)

/-- OP takes up no instruction where none has started: the position record and the tile store stay. -/
theorem opTakeNext_position {s : State} {core : Nat} (h : ∀ y ∈ (getCore s core).window, iEngine y.ins = 2 → y.st ≠ 1) :
    (getCore (opTakeNext s core) core).opPos = (getCore s core).opPos ∧
    (getCore (opTakeNext s core) core).ts = (getCore s core).ts := by
  have hnone : (getCore s core).window.find? (fun e => iEngine e.ins == 2 && e.st == 1) = none := by
    simpa [List.find?_eq_none] using h
  unfold opTakeNext
  simp only [hnone, getCore_modCore, and_self]

section OpFill
variable {s : State} {core : CoreId} {e : WEnt} (hrun : (runningCtx s core).isSome = true) (he : opEnt (getCore s core) = some e)

/-- The accumulators of OPMA's pass are loaded from D (R98). -/
theorem opFill_loads (h : execOpFillDone core s = .next (progressed (modCore s core (fun x => { x with
      arithStat := x.arithStat ||| (opLoad (getCore s core) e (opWidth s core)).2,
      op := { x.op with acc := (opLoad (getCore s core) e (opWidth s core)).1, loaded := true } })) core 2)) :
    Runs (.opFillDone core) s (fun t => (getCore t core).op.acc = (opLoad (getCore s core) e (opWidth s core)).1 ∧
      (getCore t core).op.loaded = true ∧ (getCore t core).op.banks = (getCore s core).op.banks) := by
  refine ⟨_, h, ?_⟩
  simp only [progressed, getCore_modCore, and_self]

include hrun he in
/-- A missing bank is filled: that of the current K-block first, another once the accumulators are loaded. -/
theorem opFill_bank {q : WEnt × Nat × Nat} {more : List (WEnt × Nat × Nat)}
    (hmiss : (opWanted (getCore s core) (opWidth s core)).filter
      (fun q => !hasBank (getCore s core).op.banks (q.1.id, q.2.1, q.2.2)) = q :: more)
    (hput : (getCore s core).op.loaded = true ∨
      (q.1.id = e.id ∧ q.2 = ((getCore s core).op.rowFirst, (getCore s core).op.kblock))) :
    Runs (.opFillDone core) s (fun t => (getCore t core).op.banks = (getCore s core).op.banks ++
        [{ ent := q.1.id, a := q.2.1, b := q.2.2, bytes := opOperands (getCore s core) q.1 }] ∧
      (getCore t core).op.acc = (getCore s core).op.acc) := by
  obtain ⟨c, hctx⟩ := Option.isSome_iff_exists.1 hrun
  refine ⟨progressed (modCore s core (fun x => { x with op := { x.op with
      banks := x.op.banks ++ [{ ent := q.1.id, a := q.2.1, b := q.2.2, bytes := opOperands x q.1 }] } })) core 2, ?_, ?_⟩
  · show execOpFillDone core s = _
    simp only [execOpFillDone, hctx, he, hmiss]
    by_cases hnow : q.1.id = e.id ∧ q.2 = ((getCore s core).op.rowFirst, (getCore s core).op.kblock)
    · rw [if_pos (by simp [hnow.1, hnow.2])]
    · simp [hput.resolve_right hnow]
  · simp only [progressed, getCore_modCore]
    exact ⟨trivial, trivial⟩

end OpFill

/-- Settles O31. -/
theorem outerEngine : Obligations.OuterEngine := by
  refine ⟨fun core e b q more s => ?_, fun core e s => ?_⟩
  · dsimp only
    intro hrun he
    obtain ⟨c, hctx⟩ := Option.isSome_iff_exists.1 hrun
    refine ⟨fun hload hstop hrow hk hb => ?_, fun hmiss => ⟨fun hput => opFill_bank hrun he hmiss hput, fun hload hnot => ?_⟩,
      fun hmiss hload hrow => ?_, fun hgate hany => ?_⟩
    · have block (op : Nat) (r : Instr) (hr : exec r s = .next (opIssue s core op)) (ho : iOpcode e.ins = op) : Runs r s (fun t =>
          (getCore t core).op.acc = (opBlock (getCore s core) e (opWidth s core) b).1 ∧
          (getCore t core).op.kblock = (getCore s core).op.kblock + 1 ∧
          (getCore t core).arithStat = ((getCore s core).arithStat ||| (opBlock (getCore s core) e (opWidth s core) b).2) ∧
          (getCore t core).ts = (getCore s core).ts ∧ (getCore t core).miles = (getCore s core).miles ∧ t.hbm = s.hbm) := by
        refine ⟨_, hr, ?_⟩
        unfold opIssue
        simp only [hctx, he, ho, hload, hstop, hb, bne_self_eq_false, Bool.not_true, Bool.or_self, Nat.not_le.2 hrow,
          Nat.not_le.2 hk, decide_false, Bool.false_eq_true, if_false, progressed, modEnt, getCore_modCore, true_and]
        rfl
      exact ⟨block 0 _ rfl, block 1 _ rfl⟩
    · refine opFill_loads ?_
      have hother : ¬ (q.1.id = e.id ∧ q.2 = ((getCore s core).op.rowFirst, (getCore s core).op.kblock)) := fun h =>
        hnot.elim (· h.1) (· h.2)
      simp only [execOpFillDone, hctx, he, hmiss, hload, Bool.not_false, if_true]
      rw [if_neg (by simpa using hother)]
    · refine opFill_loads ?_
      simp only [execOpFillDone, hctx, he, hmiss, hload, hrow, Bool.not_false, Bool.true_and, decide_true, if_true]
    · show execOpDummyStepDown core s = _
      simp only [execOpDummyStepDown, hrun, hgate, hany, Bool.not_false, Bool.and_self, if_true]
  · dsimp only
    intro he
    refine ⟨fun hact hrow hk hstop => ?passEnd, fun hact hrow hfree honly => ?complete, fun k hk hstops hstop hrow hkb => ?stop⟩
    case passEnd =>
      obtain ⟨c, hctx⟩ := Option.isSome_iff_exists.1 hact
      obtain ⟨s1, hs1, hcore⟩ : ∃ s1, execOpPassEnd core s =
          .next (if bitOf (iFlags e.ins) 0 then signalEnt s1 core e else s1) ∧
          ∃ progress, getCore s1 core = { getCore s core with
            ts := opWrite (getCore s core) e (opWidth s core),
            op := { (getCore s core).op with
              rowFirst := (getCore s core).op.rowFirst + opPassRows (opDesc e.td) (opWidth s core) (getCore s core).op.rowFirst,
              kblock := 0, acc := [], loaded := iOpcode e.ins == 0 }, progress := progress } := by
        refine ⟨progressed (siteBump32 (modCore s core (fun x => { x with
          ts := opWrite (getCore s core) e (opWidth s core),
          op := { x.op with
            rowFirst := x.op.rowFirst + opPassRows (opDesc e.td) (opWidth s core) x.op.rowFirst,
            kblock := 0, acc := [], loaded := iOpcode e.ins == 0 } })) core 0x108 1) core 2, ?_,
          store (getCore s core).progress 2 s.odometer, ?_⟩
        · simp only [execOpPassEnd, hctx, he, hstop, Nat.not_le.2 hrow, Nat.not_lt.2 hk, decide_false, Bool.or_self,
            Bool.false_eq_true, if_false]
          rfl
        · simp only [progressed, getCore_modCore, getCore_siteBump32]
          rfl
      obtain ⟨progress, hcore⟩ := hcore
      refine ⟨_, hs1, fun hnone => ?_, fun hbit hlt hbar => ?_⟩
      · have hsame : (if bitOf (iFlags e.ins) 0 then signalEnt s1 core e else s1) = s1 := by
          rcases hnone with h | h
          · rw [h, if_neg Bool.false_ne_true]
          · rw [signalEnt_none h, ite_self]
        rw [hsame, hcore]
        exact ⟨rfl, rfl, rfl, rfl, rfl⟩
      · have hmile : mileOf (getCore s1 core) (iSigMs e.ins) = mileOf (getCore s core) (iSigMs e.ins) := by
          rw [hcore]
          rfl
        rw [hbit, if_pos rfl, signalEnt_applied hlt (by rw [hmile]; exact hbar), mileOf_putMile, hmile]
        refine ⟨((putMile_keepsCore ..).get (·.ts) fun _ => rfl).trans ?_, rfl⟩
        rw [hcore]
    case complete =>
      obtain ⟨c, hctx⟩ := Option.isSome_iff_exists.1 hact
      let s1 := modCore s core (fun x => { x with
        opPos := x.opPos &&& 0x3FFFFFFF#32,
        op := { x.op with ent := none, banks := x.op.banks.filter (fun b => b.ent != e.id) } })
      have hs1 : getCore s1 core = _ := getCore_modCore ..
      have hfree1 : signalsFree (getCore s1 core) e := by
        rw [hs1]
        exact hfree
      let s2 := if bitOf (iFlags e.ins) 0 then retire s1 core e else finishEnt s1 core e
      have hs2 : CoreKeeps core s1 s2 := .ite (retire_keepsCore ..) (finishEnt_keepsCore hfree1)
      have hstarted : StartedIn ((getCore s1 core).window.filter (fun z => z.id != e.id)) (getCore s2 core).window := by
        show StartedIn _ (getCore (if _ then _ else _) core).window
        split
        · exact retire_started core s1 e
        · exact finishEnt_started hfree1
      have hidle : ∀ y ∈ (getCore s2 core).window, iEngine y.ins = 2 → y.st ≠ 1 := by
        intro y hy heng hst
        obtain ⟨z, hz, hzst, hzi, -⟩ := hstarted y hy hst
        obtain ⟨hw, hne⟩ := List.mem_filter.1 hz
        rw [hs1] at hw
        exact bne_iff_ne.1 hne (honly z hw (by rw [hzi]; exact heng) hzst)
      refine ⟨if (runningCtx s2 core).isSome then opTakeNext s2 core else s2, ?_, ?_⟩
      · show execOpComplete core s = _
        simp only [execOpComplete, hctx, he, Nat.not_lt.2 hrow, if_false]
        rfl
      · have ht : (getCore (if (runningCtx s2 core).isSome then opTakeNext s2 core else s2) core).opPos = (getCore s2 core).opPos ∧
            (getCore (if (runningCtx s2 core).isSome then opTakeNext s2 core else s2) core).ts = (getCore s2 core).ts := by
          split
          · exact opTakeNext_position hidle
          · exact ⟨rfl, rfl⟩
        refine ⟨ht.1.trans ((hs2.get (·.opPos) fun _ => rfl).trans ?_), ht.2.trans ((hs2.get (·.ts) fun _ => rfl).trans ?_)⟩
        · rw [hs1]
        · rw [hs1]
    case stop =>
      by_cases hidle : e.run = 0 ∧ opLoading (getCore s core) e = false
      · refine ⟨modCore s core (fun x => { x with op := { x.op with stopped := true, gated := true, dummy := 0, banks := [] } }), ?_, ?_⟩
        · show execOpStop core s = _
          simp only [execOpStop, hk, hstops, hstop, he, Nat.not_le.2 hrow, Nat.not_le.2 hkb, hidle.1, hidle.2, Bool.not_true,
            Bool.or_self, decide_false, Bool.false_eq_true, if_false, beq_self_eq_true, Bool.not_false, Bool.and_self, if_true]
        · simp only [getCore_modCore]
          exact ⟨trivial, trivial, trivial, fun _ _ => trivial, fun h => (h.elim (· hidle.1) (fun h => Bool.false_ne_true (hidle.2.symm.trans h))).elim⟩
      · refine ⟨modCore (modCore s core (fun x => { x with
            op := { x.op with stopped := true, gated := true, dummy := 0, banks := [] } })) core (fun x => { x with
          opPos := BitVec.ofNat 32 (2 ^ 31 + bit ((getCore s core).op.kblock != 0) * 2 ^ 30 + opWidth s core * 2 ^ 16 +
            (getCore s core).op.rowFirst * 2 ^ 14 + (getCore s core).op.kblock) }), ?_, ?_⟩
        · have hbusy : (e.run == 0 && !opLoading (getCore s core) e) = false := by
            simpa using hidle
          show execOpStop core s = _
          simp only [execOpStop, hk, hstops, hstop, he, Nat.not_le.2 hrow, Nat.not_le.2 hkb, hbusy, Bool.not_true,
            Bool.or_self, decide_false, Bool.false_eq_true, if_false, modCore_eq, getCore_setCore]
        · simp only [getCore_modCore]
          exact ⟨trivial, trivial, trivial, fun hr hl => (hidle ⟨hr, hl⟩).elim, fun _ => trivial⟩

end Sys2Proof.Machine
end

section
/-!
PROOFS. A completion on a core that stays up, and the data mover (chapter 7): its steps and what returns to it.
-/
namespace Sys2Proof.Machine

/-! ### A completion on a core that stays up -/

/-- What a completing instruction changes of a core that stays up is its window, its parked time, its progress and, where an image
begins, what a stop ends; the rest stays. -/
def upRest (x : Core) : Core :=
  { x with window := [], runState := 0, shadow := [], reqs := [], parkedAt := none, lent := false, istate := 0, rampAt := 0,
           progress := [] }

abbrev UpKeeps (core : Nat) : State → State → Prop := Same (fun s => upRest (getCore s core))

section UpKeeps
variable {core : Nat} {s t : State}

theorem upKeeps_part {γ : Type} (h : UpKeeps core s t) (part : Core → γ) (hp : ∀ x, part (upRest x) = part x) :
    part (getCore t core) = part (getCore s core) :=
  (hp _).symm.trans ((congrArg part h).trans (hp _))

theorem upKeeps_of_core (h : getCore t core = getCore s core) : UpKeeps core s t := congrArg upRest h

theorem upKeeps_of_cores (h : t.cores = s.cores) : UpKeeps core s t := upKeeps_of_core (by rw [getCore, h, getCore])

theorem modCore_upKeeps (s : State) (k : Nat) {f : Core → Core} (hf : ∀ x, upRest (f x) = upRest x) :
    UpKeeps core s (modCore s k f) := by
  by_cases h : core = k
  · subst h
    show upRest (getCore (modCore _ _ _) _) = _
    rw [getCore_modCore, hf]
  · exact upKeeps_of_core (getCore_modCore_of_ne s f h)

theorem settle_upKeeps (s : State) (k : Nat) : UpKeeps core s (settle s k) := by
  by_cases h : core = k
  · subst h
    show upRest (getCore (settle _ _) _) = _
    rw [getCore_settle]
    rfl
  · exact upKeeps_of_core (getCore_settle_of_ne s h)

theorem beginSave_upKeeps (s : State) (c : Nat) (v : Saving) : UpKeeps core s (beginSave s c v) := by
  have hstop (t : State) (l : List Nat) : UpKeeps core t (stopCores t l) := by
    refine Same.foldl (fun t k _ => ?_) t
    unfold stopCore
    extract_lets n u
    exact Same.trans (t := u) (.ite (.refl t) rfl) (modCore_upKeeps u k fun _ => rfl)
  have habandon (t : State) (l : List Nat) : UpKeeps core t (l.foldl abandonSaves t) :=
    Same.foldl (f := abandonSaves) (fun t k _ => modCore_upKeeps t k fun _ => rfl) t
  unfold beginSave
  extract_lets x u
  have hu : UpKeeps core s u := Same.trans (t := setCtx s c _) rfl (hstop ..)
  exact .ite hu (hu.trans (habandon ..))

theorem checkReject_upKeeps (s : State) (k : Nat) : UpKeeps core s (checkReject s k) := by
  unfold checkReject
  dsimp only
  split
  · exact .ite (beginSave_upKeeps ..) (.refl s)
  · exact .refl s

/-- What leaves the window of a core that stays up holds no HALT. -/
theorem popWindow_upKeeps (hup : staysUp (getCore s core)) : UpKeeps core s (popWindow s core) := by
  obtain ⟨hhalt, hno⟩ := hup
  unfold popWindow
  extract_lets x gone u v w y
  have hgone : gone.any (fun e => isSeqOp e 7) = false :=
    List.any_eq_false.2 fun e he => Bool.eq_false_iff.1 (hno e ((List.takeWhile_sublist _).subset he))
  have hu : UpKeeps core s u := by
    show upRest (getCore (setCore _ _ _) _) = _
    rw [getCore_setCore, hgone, Bool.or_false]
    rfl
  have hv : v = u := if_neg (by rw [hgone]; exact Bool.false_ne_true)
  have hy : UpKeeps core s y := by
    show UpKeeps core s (checkReject (settle v core) core)
    rw [hv]
    exact (hu.trans (settle_upKeeps u core)).trans (checkReject_upKeeps ..)
  have hhalted : (getCore y core).halted = false := (upKeeps_part hy (·.halted) fun _ => rfl).trans hhalt
  split
  · exact hy.trans (upKeeps_of_core (getCore_checkDone y core hhalted))
  · exact hy

/-- An instruction completes on a core that stays up. -/
theorem retire_upKeeps (e : WEnt) (hup : staysUp (getCore s core)) : UpKeeps core s (retire s core e) := by
  obtain ⟨hhalt, hno⟩ := hup
  unfold retire
  extract_lets u v w y
  have hu : getCore u core = { getCore s core with
      window := (getCore s core).window.map (fun z => if z.id == e.id then { z with st := 2 } else z) } := getCore_modCore ..
  have hw : getCore w core = { getCore u core with progress := store (getCore v core).progress (iEngine e.ins) v.odometer } :=
    getCore_modCore ..
  have hy : getCore y core = getCore w core := getCore_traceEvent ..
  have hyup : staysUp (getCore y core) := by
    rw [hy, hw, hu]
    refine ⟨hhalt, fun z hz => ?_⟩
    obtain ⟨q, hq, rfl⟩ := List.mem_map.1 hz
    split
    · exact hno q hq
    · exact hno q hq
  refine Same.trans (t := y) ?_ (popWindow_upKeeps hyup)
  show upRest (getCore y core) = _
  rw [hy, hw, hu]
  rfl

theorem putMile_staysUp (s : State) (core ms : Nat) (m : Mile) (hup : staysUp (getCore s core)) :
    staysUp (getCore (putMile s core ms m) core) := by
  rw [getCore_putMile]
  refine ⟨hup.1, fun z hz => ?_⟩
  obtain ⟨q, hq, rfl⟩ := List.mem_map.1 hz
  obtain ⟨sat, since, he⟩ := settleEnt_fixed { getCore s core with miles := store (getCore s core).miles ms m } s.odometer q
  rw [he]
  exact hup.2 q hq

theorem signalEnt_staysUp {e : WEnt} (hfree : signalsFree (getCore s core) e) (hup : staysUp (getCore s core)) :
    staysUp (getCore (signalEnt s core e) core) := by
  by_cases hs : iSigMs e.ins = 63
  · rwa [signalEnt_none hs]
  · have happ : signalEnt s core e = putMile s core (iSigMs e.ins)
        (signalled (mileOf (getCore s core) (iSigMs e.ins)) (iSigInc e.ins) (lastWord s core (iEngine e.ins))) := by
      simp only [signalEnt, beq_iff_eq, hs, if_false]
      exact signalOwn_applied e _ (hfree.resolve_left hs)
    rw [happ]
    exact putMile_staysUp _ _ _ _ hup

end UpKeeps

/-! ### Requests of DM (R140) -/

section Requests
variable (s : State) (core slot : Nat)

theorem getCore_setSlot (r : DmReq) : getCore (setSlot s core slot (some r)) core =
    { getCore s core with reqs := store (getCore s core).reqs slot (some r) } := getCore_modCore ..

theorem getCore_lookAside (addr : Nat) : ∃ look misses,
    getCore (lookAside s core addr) core = { getCore s core with look := look, misses := misses } := by
  unfold lookAside
  dsimp only
  split
  · exact ⟨_, _, getCore_modCore ..⟩
  · split
    · exact ⟨_, _, rfl⟩
    · exact ⟨_, _, by rw [getCore_siteBump32, getCore_modCore]⟩

theorem queueResv_cores (chan : Nat) : (queueResv s core chan).cores = s.cores := by
  unfold queueResv
  dsimp only
  split
  · rfl
  · split <;> rfl

theorem getCore_sbTake (chan k : Nat) : getCore (sbTake s chan).1 k = getCore s k := by
  unfold sbTake
  dsimp only
  split <;> rfl

/-- The request `q` stands in the slot; beside it the lookaside alone may have changed. -/
def Issued (s t : State) (core slot : Nat) (q : DmReq) : Prop :=
  ∃ lk misses, getCore t core =
    { getCore s core with reqs := store (getCore s core).reqs slot (some q), look := lk, misses := misses }

theorem setSlot_issued {s u : State} {core : Nat} (slot : Nat) (q : DmReq)
    (h : ∃ lk misses, getCore u core = { getCore s core with look := lk, misses := misses }) :
    Issued s (setSlot u core slot (some q)) core slot q := by
  obtain ⟨lk, misses, h⟩ := h
  exact ⟨lk, misses, by rw [getCore_setSlot, h]⟩

theorem issueReq_issued (r : DmReq) : ∃ q, Issued s (issueReq s core slot r) core slot q ∧
    q.ent = r.ent ∧ q.kind = r.kind ∧ q.pieces = r.pieces ∧ q.data = r.data ∧ q.dead = r.dead := by
  unfold issueReq
  extract_lets addr s1 q s2 s3 e mapped cached r2 chan
  have h2 : getCore s2 core = getCore s core := rfl
  have h3 : ∃ lk misses, getCore s3 core = { getCore s core with look := lk, misses := misses } := by
    rw [← h2]
    exact getCore_lookAside s2 core addr
  have hq : q.ent = r.ent ∧ q.kind = r.kind ∧ q.pieces = r.pieces ∧ q.data = r.data ∧ q.dead = r.dead := ⟨rfl, rfl, rfl, rfl, rfl⟩
  clear_value s2 s3
  split
  · exact ⟨q, setSlot_issued slot q ⟨_, _, h2⟩, hq⟩
  · split
    · exact ⟨q, setSlot_issued slot q h3, hq⟩
    · split
      · exact ⟨r2, setSlot_issued slot r2 h3, hq⟩
      · rcases htake : sbTake s3 chan with ⟨s4, ok⟩
        have h4 : getCore s4 core = getCore s3 core := by
          rw [show s4 = (sbTake s3 chan).1 by rw [htake], getCore_sbTake]
        rw [← h4] at h3
        have hset := setSlot_issued slot { q with chan := chan, resv := true, granted := ok, away := true } h3
        refine ⟨{ q with chan := chan, resv := true, granted := ok, away := true }, ?_, hq⟩
        dsimp only
        split
        · exact hset
        · unfold Issued
          rw [getCore, queueResv_cores]
          exact hset

/-- The request that an engine has put into a slot, with the tile store as it was. -/
theorem issueReq_request (r : DmReq) :
    (∃ q, look (getCore (issueReq s core slot r) core).reqs slot none = some q ∧ q.ent = r.ent ∧ q.kind = r.kind ∧
      q.pieces = r.pieces ∧ q.data = r.data ∧ q.dead = r.dead) ∧
    (getCore (issueReq s core slot r) core).ts = (getCore s core).ts := by
  obtain ⟨q, ⟨lk, misses, hcore⟩, hq⟩ := issueReq_issued s core slot r
  rw [hcore]
  exact ⟨⟨q, look_store_self .., hq⟩, rfl⟩

end Requests

/-- What the step of a started instruction leaves of the core, but for its window and progress. -/
theorem getCore_stepped (s : State) (core id cls : Nat) (f : WEnt → WEnt) :
    (getCore (progressed (modEnt s core id f) core cls) core).reqs = (getCore s core).reqs ∧
    (getCore (progressed (modEnt s core id f) core cls) core).ts = (getCore s core).ts := by
  simp only [progressed, modEnt, getCore_modCore, and_self]

theorem squashOverlap_ts (s : State) (core : Nat) (p : DmReq) :
    (getCore (squashOverlap s core p) core).ts = (getCore s core).ts := by
  unfold squashOverlap
  dsimp only
  split
  · rfl
  · rw [getCore_siteBump32, getCore_modCore]

/-- Requests, tile store and HBM of a state in which one request has been put into slot i, and nothing stored. -/
structure SentReq (s t : State) (core i : Nat) (r : DmReq) : Prop where
  slot : ∃ q, look (getCore t core).reqs i none = some q ∧ q.ent = r.ent ∧ q.kind = r.kind ∧ q.pieces = r.pieces ∧ q.data = r.data ∧
    q.dead = r.dead
  ts : (getCore t core).ts = (getCore s core).ts
  hbm : t.hbm = s.hbm

section DmSteps
variable {s u t : State} {core i : Nat} {e : WEnt} {r : DmReq}

theorem issueReq_sent (hts : (getCore u core).ts = (getCore s core).ts) (hhbm : u.hbm = s.hbm) :
    SentReq s (issueReq u core i r) core i r := by
  obtain ⟨hslot, hts'⟩ := issueReq_request u core i r
  exact ⟨hslot, hts'.trans hts, ((issueReq_keeps u core i r (.refl (wr := false) u)).bytes rfl).trans hhbm⟩

theorem SentReq.stepped (h : SentReq s u core i r) (id cls : Nat) (f : WEnt → WEnt) :
    SentReq s (progressed (modEnt u core id f) core cls) core i r := by
  obtain ⟨hreqs, hts⟩ := getCore_stepped u core id cls f
  exact ⟨by rw [hreqs]; exact h.slot, hts.trans h.ts, h.hbm⟩

theorem SentReq.settle (h : SentReq s u core i r) : SentReq s (settle u core) core i r := by
  refine ⟨?_, ?_, ((settle_keeps u core (.refl (wr := false) u)).bytes rfl).trans h.hbm⟩
  · rw [getCore_settle]
    exact h.slot
  · rw [getCore_settle]
    exact h.ts

theorem SentReq.posted (h : SentReq s u core i r) (die : Nat) (m : Msg) : SentReq s (postMsg u die m) core i r :=
  ⟨h.slot, h.ts, h.hbm⟩

section Work
variable (hrun : (runningCtx s core).isSome = true) (hfree : freeSlot (getCore s core) = some i) (hroom : dmRoom s core = true)
include hrun hfree hroom

/-- A started GET sends the bytes that follow in one block. -/
theorem dmWork_get (he : dmHead (getCore s core) 0 = some e) (hredo : e.redo = []) (hrun' : e.run < moveTotal (moveDesc e.td))
    (hpad : (pieceAt (moveDesc e.td) e.run).2 = false) : SentReq s (dmWork s core 0) core i
      { ent := e.id, kind := 0, pieces := gather (moveDesc e.td) 32 e.run (pieceAt (moveDesc e.td) e.run).1.src } := by
  obtain ⟨c, hctx⟩ := Option.isSome_iff_exists.1 hrun
  rcases hp : pieceAt (moveDesc e.td) e.run with ⟨p, pad⟩
  rw [hp] at hpad
  have hwork : dmWork s core 0 = workGet s core e := by
    simp [dmWork, hctx, he, hredo]
  rw [hwork]
  simp only [workGet, hredo, List.isEmpty_nil, Bool.not_true, Bool.false_eq_true, if_false, Nat.not_le.2 hrun', hp,
    show pad = false from hpad, hfree, hroom, if_true]
  exact (issueReq_sent rfl rfl).stepped ..

/-- A started GET sends again what an overlapping PUT made it discard. -/
theorem dmWork_redo {p : Piece} {more : List Piece} (he : dmHead (getCore s core) 0 = some e) (hredo : e.redo = p :: more)
    (hp : p.src ≠ 2 ^ 40) : SentReq s (dmWork s core 0) core i { ent := e.id, kind := 0, pieces := mergeRedo e.redo } := by
  obtain ⟨c, hctx⟩ := Option.isSome_iff_exists.1 hrun
  have hwork : dmWork s core 0 = workGet s core e := by
    simp only [dmWork, hctx, he, hredo, List.head?_cons, beq_iff_eq, hp, if_false, if_true]
  rw [hwork]
  simp only [workGet, hredo, List.isEmpty_cons, Bool.not_false, hfree, hroom, if_true]
  exact (issueReq_sent rfl rfl).stepped ..

/-- A GET that may run ahead sends its next read. -/
theorem dmWork_ahead (hnone : dmHead (getCore s core) 0 = none) (he : aheadEnt (getCore s core) = some e)
    (hpad : (pieceAt (moveDesc e.td) e.sent).2 = false) (hbusy : aheadBusy (getCore s core) < 12)
    (hshadow : (getCore s core).shadow.length + aheadBusy (getCore s core) < 64) : SentReq s (dmWork s core 0) core i
      { ent := e.id, kind := 4, pieces := gather (moveDesc e.td) 32 e.sent (pieceAt (moveDesc e.td) e.sent).1.src } := by
  obtain ⟨c, hctx⟩ := Option.isSome_iff_exists.1 hrun
  rcases hp : pieceAt (moveDesc e.td) e.sent with ⟨p, pad⟩
  rw [hp] at hpad
  have hwork : dmWork s core 0 = workAhead s core := by
    simp only [dmWork, hctx, hnone, beq_self_eq_true, if_true]
  rw [hwork]
  simp only [workAhead, he, hfree, hp, show pad = false from hpad, hbusy, hshadow, hroom, Bool.false_eq_true, if_false, Bool.and_self,
    decide_true, if_true]
  exact ((issueReq_sent rfl rfl).stepped ..).settle

/-- A started PUT sends the bytes as they stand in the tile store. -/
theorem dmWork_put (he : dmHead (getCore s core) 1 = some e) (hrun' : e.run < moveTotal (moveDesc e.td)) :
    SentReq s (dmWork s core 1) core i
      { ent := e.id, kind := 1, pieces := gather (moveDesc e.td) 32 e.run (pieceAt (moveDesc e.td) e.run).1.src,
        data := pieceBytes (getCore s core).ts (gather (moveDesc e.td) 32 e.run (pieceAt (moveDesc e.td) e.run).1.src) } := by
  obtain ⟨c, hctx⟩ := Option.isSome_iff_exists.1 hrun
  have hwork : dmWork s core 1 = workPut s core e := by
    simp only [dmWork, hctx, he]
    rfl
  rw [hwork]
  simp only [workPut, Nat.not_le.2 hrun', hfree, hroom, if_false, if_true]
  exact (issueReq_sent (squashOverlap_ts ..) ((squashOverlap_keeps s core _ (.refl (wr := false) s)).bytes rfl)).stepped ..

omit hrun hfree hroom in
/-- The request of a contribution reserves nothing: it takes its slot, and is counted at the site. -/
theorem issueReq_contribution (slot : Nat) (h : r.kind = 2 ∨ r.kind = 3) : ∃ cores sites n,
    issueReq s core slot r = { s with cores := cores, sites := sites, nextReq := n } := by
  have hk : (r.kind == 2 || r.kind == 3) = true := by simpa using h
  unfold issueReq
  simp only [hk, if_true]
  exact ⟨_, _, _, rfl⟩

/-- A contribution's next segments go to the destination core. -/
theorem dmWork_acc {op : Nat} (hop : op = 2 ∨ op = 3) (he : dmHead (getCore s core) op = some e) :
    let a := accDesc e.td
    let n := min 8 (a.len - e.run)
    let data := loadBytes (getCore s core).ts (64 * (a.src + e.run)) (64 * n)
    let b : Body := if op == 3 then .accOrd core a.core a.slot a.index e.run a.len data i
      else .acc core a.core a.ms (a.dst + e.run) data e.id (if decide (a.len ≤ e.run + n) then some (e.sent + n) else none) i
    SentReq s (dmWork s core op) core i { ent := e.id, kind := op, pieces := [] } ∧ (dmWork s core op).net = s.net ∧
      Puts s (dmWork s core op) (dieOfCore core) { innerMsg s (dieOfCore a.core) 3 0 false b with epoch := epochTag s core 4 } := by
  obtain ⟨c, hctx⟩ := Option.isSome_iff_exists.1 hrun
  have hlen : e.run < (accDesc e.td).len := by
    have := List.find?_some he
    rcases hop with rfl | rfl <;> simpa using (by simpa using this : _ ∧ _).2
  have hwork : dmWork s core op = workAcc s core e (op == 3) := by
    rcases hop with rfl | rfl
    · simp only [dmWork, hctx, he]
      rfl
    · simp only [dmWork, hctx, he]
      rfl
  rw [hwork]
  have hsent : SentReq s (issueReq s core i { ent := e.id, kind := if (op == 3) = true then 3 else 2, pieces := [] }) core i
      { ent := e.id, kind := op, pieces := [] } := by
    rcases hop with rfl | rfl
    · exact issueReq_sent rfl rfl
    · exact issueReq_sent rfl rfl
  obtain ⟨cores, sites, n, hissue⟩ := issueReq_contribution (s := s) (core := core) (slot := i)
    (r := { ent := e.id, kind := if (op == 3) = true then 3 else 2, pieces := [] })
    (hop.imp (fun h => by simp [h]) (fun h => by simp [h]))
  rw [hissue] at hsent
  simp only [workAcc, Nat.not_le.2 hlen, hfree, hroom, if_false, if_true, hissue]
  refine ⟨(hsent.posted ..).stepped .., rfl, ?_⟩
  rcases hop with rfl | rfl
  · rfl
  · rfl

end Work

/-- A padding run of a GET is written as zeros; the GET goes on while bytes are left. -/
theorem dmWork_pad (hrun : (runningCtx s core).isSome = true) (he : dmHead (getCore s core) 0 = some e) (hredo : e.redo = [])
    (hleft : e.run < moveTotal (moveDesc e.td)) (hpad : (pieceAt (moveDesc e.td) e.run).2 = true)
    (hmore : e.run + (pieceAt (moveDesc e.td) e.run).1.len < moveTotal (moveDesc e.td))
    (hone : ∀ y, findEnt (getCore s core) e.id = some y → y = e) :
    (getCore (dmWork s core 0) core).ts =
      clearBytes (getCore s core).ts (pieceAt (moveDesc e.td) e.run).1.dst (pieceAt (moveDesc e.td) e.run).1.len ∧
    (getCore (dmWork s core 0) core).reqs = (getCore s core).reqs ∧ (dmWork s core 0).fabric = s.fabric := by
  obtain ⟨c, hctx⟩ := Option.isSome_iff_exists.1 hrun
  rcases hp : pieceAt (moveDesc e.td) e.run with ⟨p, pad⟩
  rw [hp] at hpad hmore
  let u := progressed (siteBump32 (modEnt (modCore s core (fun x => { x with ts := clearBytes x.ts p.dst p.len })) core e.id
    (fun e => { e with run := e.run + p.len })) core 0x228 1) core 4
  have hwork : dmWork s core 0 = checkMove u core e.id := by
    simp only [dmWork, hctx, he, hredo, List.head?_nil, beq_self_eq_true, if_true, workGet, List.isEmpty_nil, Bool.not_true,
      Bool.false_eq_true, if_false, Nat.not_le.2 hleft, hp, show pad = true from hpad]
    rfl
  have hu : (getCore u core).window =
      (getCore s core).window.map (fun z => if z.id == e.id then { z with run := z.run + p.len } else z) ∧
      (getCore u core).ts = clearBytes (getCore s core).ts p.dst p.len ∧ (getCore u core).reqs = (getCore s core).reqs := by
    simp only [u, progressed, modEnt, getCore_modCore, getCore_siteBump32, and_self]
  obtain ⟨hwin, hts, hreqs⟩ := hu
  have hfind : findEnt (getCore u core) e.id = none ∨ findEnt (getCore u core) e.id = some { e with run := e.run + p.len } := by
    unfold findEnt at hone ⊢
    rw [hwin, List.find?_map]
    have hid : (fun z : WEnt => z.id == e.id) ∘ (fun z => if z.id == e.id then { z with run := z.run + p.len } else z) =
        fun z => z.id == e.id := by
      funext z
      simp only [Function.comp]
      split <;> rfl
    rw [hid]
    cases hf : (getCore s core).window.find? (fun z => z.id == e.id) with
    | none => exact .inl rfl
    | some y =>
      rw [hone y hf]
      exact .inr (by simp)
  have hgo : checkMove u core e.id = u ∨ checkMove u core e.id = settle u core := by
    unfold checkMove
    rcases hfind with h | h
    · exact .inl (by simp only [h])
    · exact .inr (by simp only [h, Nat.not_le.2 hmore, decide_false, Bool.and_false, Bool.false_and, Bool.false_eq_true, if_false])
  rw [hwork]
  rcases hgo with h | h
  · rw [h]
    exact ⟨hts, hreqs, rfl⟩
  · rw [h, getCore_settle]
    refine ⟨hts, hreqs, ?_⟩
    unfold settle
    dsimp only
    split <;> rfl

/-- CMB_OPEN opens its slot, and what it had received is dropped. -/
theorem openSlot_opens (hfree : signalsFree (getCore s core) e) (hup : staysUp (getCore s core)) :
    (getCore (openSlot s core e) core).ts = (getCore s core).ts ∧
    look (getCore (openSlot s core e) core).slots (cmbDesc (nth e.td 0) (nth e.td 1)).slot {} =
      { isOpen := true, w0 := nth e.td 0, w1 := nth e.td 1 } := by
  unfold openSlot
  extract_lets w k
  let u := modCore s core (fun x => { x with slots := store x.slots k { isOpen := true, w0 := w 0, w1 := w 1 } })
  have hu : getCore u core = _ := getCore_modCore ..
  have hfree' : signalsFree (getCore u core) e := by
    rw [hu]
    exact hfree
  have hsig : CoreKeeps core u (signalEnt u core e) := signalEnt_keepsCore hfree'
  have hslots : (getCore (signalEnt u core e) core).slots = (getCore u core).slots := by
    by_cases hs : iSigMs e.ins = 63
    · rw [signalEnt_none hs]
    · simp only [signalEnt, beq_iff_eq, hs, if_false]
      rw [signalOwn_applied e _ (hfree'.resolve_left hs), getCore_putMile]
      rfl
  have hdone : UpKeeps core (signalEnt u core e) (finishEnt u core e) := retire_upKeeps e (signalEnt_staysUp hfree' (by rw [hu]; exact hup))
  refine ⟨(upKeeps_part hdone (·.ts) fun _ => rfl).trans ((hsig.get (·.ts) fun _ => rfl).trans (by rw [hu])), ?_⟩
  have hend : (getCore (finishEnt u core e) core).slots = (getCore u core).slots :=
    (upKeeps_part hdone (·.slots) fun _ => rfl).trans hslots
  show look (getCore (finishEnt u core e) core).slots _ _ = _
  rw [hend, hu]
  exact look_store_self ..

end DmSteps

/-- Settles O34. -/
theorem dmSteps : Obligations.DmSteps := by
  intro core e i s x d a hrun hfree hroom
  have sends {c : Instr} {op : Nat} {r : DmReq} (hc : exec c s = .next (dmWork s core op)) (hd : r.dead = false)
      (h : SentReq s (dmWork s core op) core i r) : Runs c s (fun t =>
        (∃ q, look (getCore t core).reqs i none = some q ∧ q.ent = r.ent ∧ q.kind = r.kind ∧ q.pieces = r.pieces ∧ q.data = r.data ∧
          q.dead = false) ∧ (getCore t core).ts = x.ts ∧ t.hbm = s.hbm) := by
    obtain ⟨q, hq, he, hk, hp, hdata, hdead⟩ := h.slot
    exact ⟨_, hc, ⟨q, hq, he, hk, hp, hdata, hdead.trans hd⟩, h.ts, h.hbm⟩
  refine ⟨⟨fun he hredo hleft hpad => ?_, fun p more he hredo hp => ?_, fun hnone he hpad hb hsh => ?_, fun he hleft => ?_,
    fun he => ⟨?_, ?_⟩, fun he => ⟨?_, ?_⟩⟩, fun he hredo hleft hpad hmore hone => ⟨_, rfl, ?_⟩, fun hnone hn ho hc hfree' hup => ?_⟩
  · exact sends rfl rfl (dmWork_get hrun hfree hroom he hredo hleft hpad)
  · exact sends rfl rfl (dmWork_redo hrun hfree hroom he hredo hp)
  · exact sends rfl rfl (dmWork_ahead hrun hfree hroom hnone he hpad hb hsh)
  · exact sends rfl rfl (dmWork_put hrun hfree hroom he hleft)
  · exact sends rfl rfl (dmWork_acc hrun hfree hroom (.inl rfl) he).1
  · obtain ⟨-, hnet, hputs⟩ := dmWork_acc hrun hfree hroom (.inl rfl) he
    refine ⟨_, rfl, hnet, ?_⟩
    simpa using hputs
  · exact sends rfl rfl (dmWork_acc hrun hfree hroom (.inr rfl) he).1
  · obtain ⟨-, hnet, hputs⟩ := dmWork_acc hrun hfree hroom (.inr rfl) he
    exact ⟨_, rfl, hnet, hputs⟩
  · exact dmWork_pad hrun he hredo hleft hpad hmore hone
  · obtain ⟨c, hctx⟩ := Option.isSome_iff_exists.1 hrun
    refine ⟨openSlot s core e, ?_, openSlot_opens hfree' hup⟩
    refine congrArg Host.Outcome.next (show dmWork s core 4 = _ from ?_)
    have hc' : canStart (getCore s core) e = true := hc
    have hn' : nextOf (getCore s core) 4 = some e := hn
    have hnone' : dmHead (getCore s core) 4 = none := hnone
    simp [dmWork, hctx, hnone', hn', ho, hc']

end Sys2Proof.Machine
end

section
/-!
PROOFS. What returns to the data mover, and congestion windows (chapters 7 and 13).
-/
namespace Sys2Proof.Machine

/-! ### What a returning request leaves alone -/

/-- A view of the state of a fold over a state and a result. -/
theorem foldl_fst_same {α β γ : Type} (view : State → α) {f : State × β → γ → State × β}
    (h : ∀ t a, view (f t a).1 = view t.1) (l : List γ) (t : State × β) : view (l.foldl f t).1 = view t.1 := by
  induction l generalizing t with
  | nil => rfl
  | cons a l ih => exact (ih _).trans (h t a)

theorem readVia_cores (s : State) (die part addr n : Nat) : (readVia s die part addr n).1.cores = s.cores := by
  unfold readVia
  dsimp only
  split
  · rfl
  · split
    · rfl
    · refine foldl_fst_same (fun s => s.cores) (fun t i => ?_) _ _
      split
      · rfl
      · split
        · rfl
        · split
          · rfl
          · dsimp only
            split <;> rfl

theorem readReq_cores (s : State) (core : Nat) (r : DmReq) : (readReq s core r).1.cores = s.cores := by
  unfold readReq
  split
  · rfl
  · rfl
  · exact readVia_cores ..

theorem getCore_readReq {s s1 : State} {core : Nat} {r : DmReq} {d : Except Code (List Byte)} (h : readReq s core r = (s1, d))
    (k : Nat) : getCore s1 k = getCore s k := by
  have hc : s1.cores = s.cores := by
    rw [show s1 = (readReq s core r).1 by rw [h]]
    exact readReq_cores ..
  rw [getCore, hc, getCore]

/-- A request that ends leaves its slot, and nothing else of the core changes. -/
theorem getCore_endReq (s : State) (core slot : Nat) (r : DmReq) :
    getCore (endReq s core slot r) core = { getCore s core with reqs := drop1 (getCore s core).reqs slot } := by
  unfold endReq
  extract_lets u
  have hu : getCore u core = { getCore s core with reqs := drop1 (getCore s core).reqs slot } := getCore_modCore ..
  split
  · exact hu
  · exact hu

/-! ### Congestion windows (R262) -/

theorem winsOf_setWins (s : State) (src : Source) (w : SMap CwWin) : winsOf (setWins s src w) src = w := by
  cases src with
  | dm c => exact congrArg Core.wins (getCore_modCore ..)
  | kerb k =>
    show (getKerb (modKerb s k _) k).wins = w
    rw [modKerb_eq, getKerb_setKerb]
  | ix d => exact congrArg Ix.wins (getIx_setIx ..)
  | col d => exact congrArg Col.wins (getCol_setCol ..)

theorem winOf_setWins (s : State) (src : Source) (cw : Nat) (x : CwWin) :
    winOf (setWins s src (store (winsOf s src) cw x)) src cw = x := by
  unfold winOf
  rw [winsOf_setWins]
  exact look_store_self ..

theorem winOf_setWins_of_ne (s : State) (src : Source) {cw k : Nat} (x : CwWin) (h : k ≠ cw) :
    winOf (setWins s src (store (winsOf s src) cw x)) src k = winOf s src k := by
  unfold winOf
  rw [winsOf_setWins]
  exact look_store_of_ne _ _ _ h

/-- A mark halves a window that has not fallen within 512 fabric cycles. -/
theorem cwDecrease_halves {s : State} {src : Source} {cw : Nat} (hdec : (winOf s src cw).lastDec = 0)
    (hrose : (winOf s src cw).rose ≠ s.odometer + 1) : (winOf (cwDecrease s src cw) src cw).w = max 1 ((winOf s src cw).w / 2) := by
  unfold cwDecrease
  simp only [hdec, bne_self_eq_false, Bool.false_and, Bool.false_eq_true, if_false, winOf_setWins, beq_iff_eq, hrose]

theorem winsOf_dmSource (s : State) (core : CoreId) : winsOf s (dmSource core) = (getCore s core).wins := by
  show (getCore s (Fin.ofNat 4096 core.val).val).wins = _
  rw [show (Fin.ofNat 4096 core.val).val = core.val from Nat.mod_eq_of_lt core.isLt]

theorem winOf_dmSource_congr {s t : State} {core : CoreId} (h : (getCore t core).wins = (getCore s core).wins) (cw : Nat) :
    winOf t (dmSource core) cw = winOf s (dmSource core) cw := by
  unfold winOf
  rw [winsOf_dmSource, winsOf_dmSource, h]

theorem getCore_setWins (s : State) (src : Source) (w : SMap CwWin) (k : Nat) :
    ∃ wins, getCore (setWins s src w) k = { getCore s k with wins := wins } := by
  cases src with
  | dm c =>
    by_cases h : k = c
    · subst h
      exact ⟨_, getCore_modCore ..⟩
    · exact ⟨(getCore s k).wins, getCore_modCore_of_ne s _ h⟩
  | kerb j => exact ⟨(getCore s k).wins, rfl⟩
  | ix d => exact ⟨(getCore s k).wins, rfl⟩
  | col d => exact ⟨(getCore s k).wins, rfl⟩

theorem getCore_cwDecrease (s : State) (src : Source) (cw k : Nat) :
    ∃ wins, getCore (cwDecrease s src cw) k = { getCore s k with wins := wins } := by
  unfold cwDecrease
  dsimp only
  split
  · exact ⟨(getCore s k).wins, rfl⟩
  · exact getCore_setWins ..

/-! ### The commands -/

section Returns
variable {s s1 : State} {core : CoreId} {slot : Fin 16} {r : DmReq} {b : List Byte} {code : Code}

theorem look_drop1_endReq (s : State) (core slot : Nat) (r : DmReq) :
    look (getCore (endReq s core slot r) core).reqs slot none = none := by
  rw [getCore_endReq]
  exact look_drop1_self ..

section Data
variable (hr : look (getCore s core).reqs slot none = some r) (hback : reqBack s (getCore s core) r = true)
  (hmark : r.mark = false) (hk : r.kind = 0) (hheld : heldByPut (getCore s core) r = false) (hdead : r.dead = false)
  (hact : (activeCtx s core).isSome = true)
include hr hback hmark hk hheld hdead hact

theorem exec_getDataReturn_ok (hread : readReq s core r = (s1, .ok b)) : exec (.getDataReturn core slot false) s =
    .next (checkMove (progressed (modCore (endReq s1 core slot r) core (fun x => { x with ts := placePieces x.ts r.pieces b }))
      core 4) core r.ent) := by
  obtain ⟨c, hctx⟩ := Option.isSome_iff_exists.1 hact
  show execGetDataReturn core slot false s = _
  simp [execGetDataReturn, hr, hk, hback, hheld, hmark, hdead, hctx, hread]

theorem exec_getDataReturn_error (hread : readReq s core r = (s1, .error code)) : exec (.getDataReturn core slot false) s =
    .next (dmFault (endReq s1 core slot r) core r code.num 0 (srcOf r)) := by
  obtain ⟨c, hctx⟩ := Option.isSome_iff_exists.1 hact
  show execGetDataReturn core slot false s = _
  simp [execGetDataReturn, hr, hk, hback, hheld, hmark, hdead, hctx, hread]

/-- The bytes land, and the GET goes on while bytes are left. -/
theorem getDataReturn_lands (hread : readReq s core r = (s1, .ok b))
    (hmore : ∀ y, findEnt (getCore s core) r.ent = some y → y.run < moveTotal (moveDesc y.td)) :
    Runs (.getDataReturn core slot false) s (fun t =>
      (getCore t core).ts = placePieces (getCore s core).ts r.pieces b ∧ look (getCore t core).reqs slot none = none ∧
      (getCore t core).miles = (getCore s core).miles) := by
  refine ⟨_, exec_getDataReturn_ok hr hback hmark hk hheld hdead hact hread, ?_⟩
  let u := progressed (modCore (endReq s1 core slot r) core (fun x => { x with ts := placePieces x.ts r.pieces b })) core 4
  have hu : ∃ progress, getCore u core = { getCore s core with
      ts := placePieces (getCore s core).ts r.pieces b, reqs := drop1 (getCore s core).reqs slot, progress := progress } := by
    refine ⟨store (getCore s core).progress 4 (modCore (endReq s1 core slot r) core
      (fun x => { x with ts := placePieces x.ts r.pieces b })).odometer, ?_⟩
    simp only [u, progressed, getCore_modCore, getCore_endReq, getCore_readReq hread]
  obtain ⟨progress, hu⟩ := hu
  have hgo : checkMove u core r.ent = u ∨ checkMove u core r.ent = settle u core := by
    unfold checkMove
    dsimp only
    split
    · exact .inl rfl
    · rename_i y hy
      rw [hu] at hy
      refine .inr (if_neg ?_)
      simp [Nat.not_le.2 (hmore y hy)]
  have hslot : look (getCore u core).reqs slot none = none := by
    rw [hu]
    exact look_drop1_self ..
  show (getCore (checkMove u core r.ent) core).ts = _ ∧ look (getCore (checkMove u core r.ent) core).reqs slot none = none ∧
    (getCore (checkMove u core r.ent) core).miles = _
  rcases hgo with h | h
  · rw [h]
    exact ⟨by rw [hu], hslot, by rw [hu]⟩
  · rw [h, getCore_settle]
    exact ⟨by rw [hu]; rfl, hslot, by rw [hu]; rfl⟩

end Data

end Returns

/-- Settles O35. -/
theorem dmReturns : Obligations.DmReturns := by
  refine ⟨fun core slot r b code line s1 s => ?_, fun src cw s => ⟨fun hdue => ⟨_, rfl, ?_⟩, fun hnot => ?_⟩⟩
  · dsimp only
    refine ⟨fun hr hback => ⟨fun hmark => ⟨fun hk hheld hdead hact => ⟨fun hread => ?_, fun hread => ?_, fun hread hmore => ?_⟩,
      fun hk hdead => ⟨fun hbad hw => ?_, fun hbad hw => ?_, fun hbad => ?_⟩, fun hk hdead hheld => ⟨fun hread => ?_, fun hread => ?_⟩⟩,
      fun hk hheld hdead mark => ?_, fun hk hdead => ?_⟩, fun hmiss hmap => ?_, fun hmiss hmap => ?_⟩
    · exact exec_getDataReturn_ok hr hback hmark hk hheld hdead hact hread
    · exact exec_getDataReturn_error hr hback hmark hk hheld hdead hact hread
    · exact getDataReturn_lands hr hback hmark hk hheld hdead hact hread hmore
    · show execPutAck core slot false s = _
      simp [execPutAck, hr, hk, hback, hmark, hdead, hbad, hw]
    · show execPutAck core slot false s = _
      simp [execPutAck, hr, hk, hback, hmark, hdead, hbad, hw]
    · show execPutAck core slot false s = _
      simp [execPutAck, hr, hk, hback, hmark, hdead, hbad]
    · refine ⟨settle (modCore (endReq s1 core slot r) core (fun x => { x with
        shadow := x.shadow ++ [{ ent := r.ent, pieces := r.pieces, data := b }] })) core, ?_, ?_⟩
      · show execRunAheadReturn core slot s = _
        simp [execRunAheadReturn, hr, hk, hback, hheld, hmark, hdead, hread]
      · simp only [getCore_settle, getCore_modCore, getCore_endReq, getCore_readReq hread]
        exact ⟨rfl, rfl, look_drop1_self ..⟩
    · refine ⟨settle (modCore (endReq s1 core slot r) core (fun x => { x with
        shadow := x.shadow ++ [{ ent := r.ent, pieces := r.pieces, data := [], fault := code.num, faultAddr := srcOf r }] })) core,
        ?_, ?_⟩
      · show execRunAheadReturn core slot s = _
        simp [execRunAheadReturn, hr, hk, hback, hheld, hmark, hdead, hread]
      · simp only [getCore_settle, getCore_modCore, getCore_endReq, getCore_readReq hread]
        exact ⟨rfl, rfl, rfl⟩
    · obtain ⟨wins, hwins⟩ := getCore_cwDecrease s (dmSource core) 3 core
      refine ⟨settle (endReq (if mark || r.mark then cwDecrease s (dmSource core) 3 else s) core slot r) core, ?_, ?_, ?_, ?_, ?_⟩
      · show execGetDataReturn core slot mark s = _
        simp [execGetDataReturn, hr, hk, hback, hheld, hdead]
      · rw [getCore_settle, getCore_endReq]
        split
        · rw [hwins]
          rfl
        · rfl
      · rw [getCore_settle]
        exact look_drop1_endReq ..
      · intro hm hdec hrose
        rw [if_pos (by simpa using hm)]
        rw [winOf_dmSource_congr (s := cwDecrease s (dmSource core) 3) (by rw [getCore_settle, getCore_endReq]; rfl)]
        exact cwDecrease_halves hdec hrose
      · intro hm hrm
        rw [if_neg (by simp [hm, hrm])]
        exact winOf_dmSource_congr (by rw [getCore_settle, getCore_endReq]; rfl) 3
    · obtain ⟨wins, hwins⟩ := getCore_cwDecrease s (dmSource core) 3 core
      refine ⟨settle (endReq (if r.mark then cwDecrease s (dmSource core) 3 else s) core slot r) core, ?_, ?_, ?_, ?_⟩
      · show execRunAheadReturn core slot s = _
        simp [execRunAheadReturn, hr, hk, hback, hdead]
      · rw [getCore_settle, getCore_endReq]
        split
        · rw [hwins]
          rfl
        · rfl
      · rw [getCore_settle, getCore_endReq]
        split
        · rw [hwins]
          rfl
        · rfl
      · rw [getCore_settle]
        exact look_drop1_endReq ..
    · refine ⟨modCore s core (fun x => { x with
          misses := x.misses.filter (fun m => m != line.toNat),
          look := ((List.range 8).map (fun i => (8 * line.toNat + i, frameEntry s (8 * line.toNat + i))) ++
            x.look.filter (fun e => e.1 / 8 != line.toNat)).take 64 }), ?_, ?_⟩
      · show execLaMissReturn core line s = _
        simp only [execLaMissReturn, hmiss, hmap, if_true]
      · simp only [getCore_modCore]
        refine ⟨by simp, List.length_take_le .., fun i hi => ?_, trivial⟩
        have hlen : ((List.range 8).map (fun i => (8 * line.toNat + i, frameEntry s (8 * line.toNat + i)))).length ≤ 64 := by simp
        rw [List.take_append, List.take_of_length_le hlen]
        exact List.mem_append_left _ (List.mem_map.2 ⟨i, List.mem_range.2 hi, rfl⟩)
    · refine ⟨modCore s core (fun x => { x with
          misses := x.misses.filter (fun m => m != line.toNat),
          reqs := x.reqs.map (fun e => (e.1, e.2.map (fun r => if needsLine line.toNat r then { r with bad := code.num } else r))) }),
        ?_, ?_⟩
      · show execLaMissReturn core line s = _
        simp only [execLaMissReturn, hmiss, hmap, if_true]
      simp only [getCore_modCore]
      refine ⟨by simp, trivial, trivial, fun k q hq hn => ?_⟩
      refine List.mem_map.2 ⟨_, hq, ?_⟩
      simp [hn]
  · have hgo : cwIncrease s src (cw.val + 1) = setWins s src (store (winsOf s src) (cw.val + 1) { winOf s src (cw.val + 1) with
        w := min (winMax src) ((winOf s src (cw.val + 1)).w + 1), since := s.odometer,
        rose := if (winOf s src (cw.val + 1)).w < winMax src then s.odometer + 1 else (winOf s src (cw.val + 1)).rose }) := by
      unfold cwIncrease
      exact if_neg (Nat.not_lt.2 hdue)
    rw [hgo]
    refine ⟨by rw [winOf_setWins], fun k hk => winOf_setWins_of_ne s src _ hk, ?_⟩
    cases src <;> exact ⟨rfl, rfl, rfl⟩
  · refine congrArg Host.Outcome.next (show cwIncrease s src (cw.val + 1) = s from ?_)
    unfold cwIncrease
    exact if_pos hnot

end Sys2Proof.Machine
end

section
/-!
PROOFS. Contributions within the chip (chapters 6 and 7), and what a signal leaves alone.
-/
namespace Sys2Proof.Machine

/-! ### What a signal leaves alone (R179) -/

/-- The state without what a milestone's change shows in: cores, pages and trace buffers. -/
def sansMiles (s : State) : State := { s with cores := [], pages := [], traces := [] }

/-- A change at one core: nothing but that core, pages and trace buffers changes, and the chip keeps its number. -/
structure AtCore (core : Nat) (s t : State) : Prop where
  rest : sansMiles t = sansMiles s
  chip : chipId t = chipId s
  others : ∀ k, k ≠ core → getCore t k = getCore s k

namespace AtCore
variable {core : Nat} {s t u : State}

theorem refl (core : Nat) (s : State) : AtCore core s s := ⟨rfl, rfl, fun _ _ => rfl⟩

theorem trans (a : AtCore core s t) (b : AtCore core t u) : AtCore core s u :=
  ⟨b.rest.trans a.rest, b.chip.trans a.chip, fun k hk => (b.others k hk).trans (a.others k hk)⟩

theorem get {γ : Type} (h : AtCore core s t) (part : State → γ) (hp : ∀ x, part (sansMiles x) = part x) : part t = part s :=
  (hp _).symm.trans ((congrArg part h.rest).trans (hp _))

theorem modCore (s : State) (core : Nat) (f : Core → Core) : AtCore core s (modCore s core f) :=
  ⟨rfl, rfl, fun _ hk => getCore_modCore_of_ne s f hk⟩

theorem setCore (s : State) (core : Nat) (x : Core) : AtCore core s (setCore s core x) :=
  ⟨rfl, rfl, fun _ hk => getCore_setCore_of_ne s core x hk⟩

/-- A page's change that keeps its registers. -/
theorem modPage (s : State) (pg : Nat) {f : Page → Page} (hf : ∀ x, (f x).regs = x.regs) : AtCore core s (modPage s pg f) := by
  refine ⟨rfl, ?_, fun _ _ => rfl⟩
  unfold chipId regOf
  by_cases h : pgPort 0 = pg
  · subst h
    rw [modPage_eq, getPage_setPage, hf]
  · rw [modPage_eq, getPage_setPage_of_ne _ _ _ h]

theorem ite {c : Prop} [Decidable c] (ht : AtCore core s t) (hu : AtCore core s u) : AtCore core s (if c then t else u) := by
  split
  · exact ht
  · exact hu

/-- A register other than the chip's number. -/
theorem setReg (s : State) (pg v : Nat) {off : Nat} (h : off ≠ 0x100) : AtCore core s (setReg s pg off v) := by
  refine ⟨rfl, ?_, fun _ _ => rfl⟩
  refine congrArg (· % 65536) ?_
  by_cases hp : pgPort 0 = pg
  · subst hp
    exact regOf_setReg_of_ne _ _ _ _ h.symm
  · exact regOf_setReg_page _ _ _ _ _ hp

theorem foldl {β : Type} {f : State → β → State} (l : List β) (h : ∀ s a, AtCore core s (f s a)) (s : State) :
    AtCore core s (l.foldl f s) := by
  induction l generalizing s with
  | nil => exact refl core s
  | cons a l ih => exact (h s a).trans (ih _)

theorem setTrace (s : State) (i : Nat) (x : Trace) : AtCore core s (setTrace s i x) := ⟨rfl, rfl, fun _ _ => rfl⟩

theorem tracePush (s : State) (i : Nat) (r : TraceRec) : AtCore core s (tracePush s i r) := by
  unfold Machine.tracePush
  exact .ite ((setTrace ..).trans (setReg _ _ _ (by decide))) (setTrace ..)

theorem traceEvent (s : State) (source target ctx ms part : Nat) (payload : List Nat) :
    AtCore core s (traceEvent s source target ctx ms part payload) := by
  refine foldl _ (fun t i => ?_) s
  refine .ite ?_ (refl core t)
  exact .ite ((setTrace ..).trans (tracePush ..)) (setTrace ..)

theorem settle (s : State) (core : Nat) : AtCore core s (settle s core) := by
  unfold Machine.settle
  extract_lets x u
  exact .trans (t := u) (.ite (modPage s _ fun _ => rfl) (refl core s)) (setCore ..)

theorem putMile (s : State) (core ms : Nat) (m : Mile) : AtCore core s (putMile s core ms m) :=
  ((modCore s core _).trans (traceEvent ..)).trans (settle ..)

end AtCore

/-! ### Contributions (R114, R128 to R130) -/

section Acc
variable {s u : State} {m : Msg} {idx src dst slot : Nat}

/-- The acknowledgement of a contribution goes into the fabric from the destination core. -/
theorem ackAcc_puts (h : AtCore dst (dropMsg s idx) u) (code : Nat) : Puts s (ackAcc u m src dst slot code) (dieOfCore dst)
    { innerMsg s (dieOfCore src) 0 code true (.accAck src dst slot) with mark := m.mark, epoch := m.epoch } := by
  have hchip : chipId u = chipId s := h.chip
  have hfabric : u.fabric = s.fabric := h.get (·.fabric) fun _ => rfl
  have hsign : u.signpost = s.signpost := h.get (·.signpost) fun _ => rfl
  have hstop (k : Nat) : coreStop u k = coreStop s k := by
    unfold coreStop siteOf
    rw [hsign]
  show u.fabric.packets ++ [packetOf (coreStop u dst) (coreStop u src) _ _] = s.fabric.packets ++ [packetOf (coreStop s dst) _ _ _]
  rw [hfabric, hstop, hstop]
  unfold innerMsg
  rw [hchip]
  rfl

theorem getCore_ackAcc (code k : Nat) : getCore (ackAcc u m src dst slot code) k = getCore u k := rfl

theorem ackAcc_net (h : AtCore dst (dropMsg s idx) u) (code : Nat) : (ackAcc u m src dst slot code).net = s.net.eraseIdx idx :=
  h.get (·.net) fun _ => rfl

end Acc

/-- A bank's signal adds 1 to its COUNT-mode milestone. -/
theorem bankSignal_applied {s : State} {core ms : Nat} (inc : Nat) (h : (mileOf (getCore s core) ms).barrier = false) :
    bankSignal s core ms inc = putMile s core ms (signalled (mileOf (getCore s core) ms) inc (lastWord s core 8)) := by
  simp [bankSignal, signalMs, h, signalled]

/-- The answer that a contribution's request awaits ends the request. -/
theorem accAck_answered {idx src dst slot c : Nat} {m : Msg} {s : State} {r : DmReq} (hm : s.net[idx]? = some m)
    (hb : m.body = .accAck src dst slot) (hr : look (getCore s src).reqs slot none = some r) (hep : m.epoch = epochTag s src 4)
    (hkind : r.kind = 2 ∨ r.kind = 3) (hdead : r.dead = false) (hmark : m.mark = false) (hctx : activeCtx s src = some c) :
    exec (.accAck idx) s = .next (if m.code != 0 then dmFault (endReq (dropMsg s idx) src slot r) src r m.code dst 0
      else checkAcc (progressed (endReq (dropMsg s idx) src slot r) src 4) src r.ent) := by
  have hr' : look (getCore (dropMsg s idx) src).reqs slot none = some r := hr
  have hctx' : activeCtx (endReq (dropMsg s idx) src slot r) src = some c := by
    have hc : (getCore (endReq (dropMsg s idx) src slot r) src).ctx = (getCore s src).ctx := by
      rw [getCore_endReq]
      rfl
    have hx : (endReq (dropMsg s idx) src slot r).ctxs = s.ctxs := by
      unfold endReq
      dsimp only
      split <;> rfl
    rw [← hctx]
    unfold activeCtx getCtx
    rw [hc, hx]
  have hep' : (m.epoch != epochTag (dropMsg s idx) src 4) = false := by
    rw [hep]
    exact bne_self_eq_false (epochTag s src 4)
  have hkind' : (r.kind != 2 && r.kind != 3) = false := by
    rcases hkind with h | h <;> simp [h]
  show execAccAck idx s = _
  simp only [execAccAck, hm, hb, hr', hep', hkind', hmark, hdead, hctx', Option.isNone_some, Bool.or_self, Bool.false_eq_true, if_false]

/-- Settles O36. -/
theorem contributions : Obligations.Contributions := by
  intro idx m s hm
  refine ⟨fun src dst ms seg data id total slot hb hmov hreach => ?_, fun src dst ms seg data id total slot hb => ⟨fun hmov => ?_,
    fun hmov hreach => ?_⟩, fun src dst cslot index seg len data slot hb hmov => ?_,
    fun src dst slot r hb hr hep hkind hdead hmark hact => ⟨fun hcode => ?_, fun hcode => ?_⟩, fun src dst slot hb hr => ?_⟩
  · intro y sum note acked
    let u := modCore (dropMsg s idx) dst (fun x => { x with ts := sum.1, arithStat := x.arithStat ||| sum.2, accIn := note.1 })
    have hu : getCore u dst = { y with ts := sum.1, arithStat := y.arithStat ||| sum.2, accIn := note.1 } := getCore_modCore ..
    have hat : AtCore dst (dropMsg s idx) u := .modCore ..
    have hexec : exec (.accArrival idx) s =
        .next (ackAcc (if note.2 then bankSignal u dst ms 1 else u) m src dst slot 0) := by
      have hreach' : msgReach (dropMsg s idx) m dst 4 = true := hreach
      show execAccArrival idx s = _
      simp only [execAccArrival, hm, hb, hmov, hreach', Bool.not_true, Bool.false_eq_true, if_false]
      rfl
    refine ⟨fun hpart => ⟨_, hexec, ?_⟩, fun hwhole hbar => ⟨_, hexec, ?_⟩⟩
    · rw [hpart, if_neg Bool.false_ne_true]
      refine ⟨?_, ?_, ?_, ?_, fun k hk => hat.others k hk, ackAcc_net hat 0, ackAcc_puts hat 0⟩
      all_goals rw [getCore_ackAcc, hu]
    · have hbar' : (mileOf (getCore u dst) ms).barrier = false := by
        rw [hu]
        exact hbar
      rw [hwhole, if_pos rfl, bankSignal_applied 1 hbar']
      have hat' := hat.trans (.putMile u dst ms (signalled (mileOf (getCore u dst) ms) 1 (lastWord u dst 8)))
      refine ⟨?_, ?_, ?_, ?_, fun k hk => (getCore_ackAcc ..).trans (hat'.others k hk), ackAcc_net hat' 0, ackAcc_puts hat' 0⟩
      · rw [getCore_ackAcc, getCore_putMile, hu]
        rfl
      · rw [getCore_ackAcc, getCore_putMile, hu]
        rfl
      · rw [getCore_ackAcc, getCore_putMile, hu]
        rfl
      · rw [getCore_ackAcc, mileOf_putMile, hu]
        rfl
  · show execAccArrival idx s = _
    simp only [execAccArrival, hm, hb, hmov, if_true]
  · have hreach' : msgReach (dropMsg s idx) m dst 4 = false := hreach
    show execAccArrival idx s = _
    simp only [execAccArrival, hm, hb, hmov, hreach', Bool.not_false, Bool.false_eq_true, if_false, if_true]
  · intro k c there
    have hexec (t : State) (h : (if !msgReach s m dst 4 then ackAcc (dropMsg s idx) m src dst slot Code.fenced.num
        else if !k.isOpen then ackAcc (dropMsg s idx) m src dst slot Code.wrongState.num
        else if len != c.len || c.p ≤ index then
          combineAbandon (ackAcc (dropMsg s idx) m src dst slot 0) dst cslot Code.badField.num src
        else if (List.range (data.length / 64)).any (fun j => k.got.contains (index, seg + j)) then
          combineAbandon (ackAcc (dropMsg s idx) m src dst slot 0) dst cslot Code.sequence.num src
        else ackAcc (combineTake (dropMsg s idx) dst cslot index seg data) m src dst slot 0) = t) :
        exec (.accOrdArrival idx) s = .next t := by
      rw [← h]
      show execAccOrdArrival idx s = _
      simp only [execAccOrdArrival, hm, hb, hmov, Bool.false_eq_true, if_false]
      rfl
    refine ⟨fun hreach => hexec _ ?_, fun hreach => ⟨fun hopen => hexec _ ?_, fun hopen hlen hidx hnew => hexec _ ?_,
      fun hopen hlen hidx hold => hexec _ ?_, fun hopen hbad => hexec _ ?_⟩⟩
    · rw [hreach]
      rfl
    · rw [hreach, hopen]
      rfl
    · have hany : (List.range (data.length / 64)).any (fun j => k.got.contains (index, seg + j)) = false := by
        rw [List.any_eq_false]
        intro j hj
        exact Bool.eq_false_iff.1 (hnew j (List.mem_range.1 hj))
      simp only [hreach, hopen, hlen, bne_self_eq_false, Nat.not_le.2 hidx, decide_false, Bool.or_self, hany, Bool.not_true,
        Bool.false_eq_true, if_false]
    · obtain ⟨j, hj, hthere⟩ := hold
      have hany : (List.range (data.length / 64)).any (fun j => k.got.contains (index, seg + j)) = true :=
        List.any_eq_true.2 ⟨j, List.mem_range.2 hj, hthere⟩
      simp only [hreach, hopen, hlen, bne_self_eq_false, Nat.not_le.2 hidx, decide_false, Bool.or_self, hany, Bool.not_true,
        Bool.false_eq_true, if_false, if_true]
    · have hfail : (len != c.len || decide (c.p ≤ index)) = true := by simpa using hbad
      simp only [hreach, hopen, hfail, Bool.not_true, Bool.false_eq_true, if_false, if_true]
  · obtain ⟨c, hctx⟩ := Option.isSome_iff_exists.1 hact
    exact (accAck_answered hm hb hr hep hkind hdead hmark hctx).trans (by rw [if_neg (by simp [hcode])])
  · obtain ⟨c, hctx⟩ := Option.isSome_iff_exists.1 hact
    exact (accAck_answered hm hb hr hep hkind hdead hmark hctx).trans (by rw [if_pos (by simpa using hcode)])
  · have hr' : look (getCore (dropMsg s idx) src).reqs slot none = none := hr
    show execAccAck idx s = _
    simp only [execAccAck, hm, hb, hr']

end Sys2Proof.Machine
end

section
/-!
PROOFS. What a fault of a context changes (R357): the rounds that it ends send messages, write status words and raise causes, and
leave cores and contexts as they are.
-/
namespace Sys2Proof.Machine

/-! ### What the traffic of rounds changes -/

/-- The state without what messages, status words and causes show in. -/
def sansTraffic (s : State) : State :=
  { s with pages := [], parts := [], mgmt := {}, rlcs := [], ixs := [], cols := [], fabric := {}, net := [], outs := [], nextReq := 0,
           hbm := [], seals := [], poison := [], late := [] }

/-- What a cause raised, a register counted or a tie leaves of a page. -/
def pageRest (x : Page) : Page := { x with pend := 0, ties := 0, regs := [] }

/-- What traffic leaves: the state without its parts above, and of each page all but its registers, pending causes and ties. -/
def trafficRest (s : State) : State × (Nat → Page) := (sansTraffic s, fun p => pageRest (getPage s p))

abbrev Traffic (s t : State) : Prop := Same trafficRest s t

theorem trafficPart {s t : State} {γ : Type} (h : Traffic s t) (part : State → γ) (hp : ∀ x, part (sansTraffic x) = part x) :
    part t = part s :=
  Same.get (h.forget (view' := sansTraffic) Prod.fst fun _ => rfl) part hp

theorem trafficPage {s t : State} {γ : Type} (h : Traffic s t) (p : Nat) (part : Page → γ) (hp : ∀ x, part (pageRest x) = part x) :
    part (getPage t p) = part (getPage s p) :=
  (hp _).symm.trans ((congrArg (fun v => part (v.2 p)) h).trans (hp _))

/-! ### Causes -/

/-- The state without what causes and registers show in. -/
def sansCauses (s : State) : State := { s with pages := [], parts := [], mgmt := {} }

/-- What a cause raised, a register counted or a tie leaves: the state without its parts above, and of each page the rest. -/
def causesRest (s : State) : State × (Nat → Page) := (sansCauses s, fun p => pageRest (getPage s p))

abbrev Causes (s t : State) : Prop := Same causesRest s t

theorem causesPart {s t : State} {γ : Type} (h : Causes s t) (part : State → γ) (hp : ∀ x, part (sansCauses x) = part x) :
    part t = part s :=
  Same.get (h.forget (view' := sansCauses) Prod.fst fun _ => rfl) part hp

theorem traffic_of_causes {s t : State} (h : Causes s t) : Traffic s t :=
  h.forget (view' := trafficRest) (fun v => (sansTraffic v.1, v.2)) fun _ => rfl

section Causes
variable (s : State)

theorem modPage_causes (pg : Nat) {f : Page → Page} (hf : ∀ x, pageRest (f x) = pageRest x) : Causes s (modPage s pg f) := by
  refine Prod.ext rfl (funext fun p => ?_)
  show pageRest (look (store s.pages pg (f (getPage s pg))) p {}) = pageRest (getPage s p)
  by_cases h : p = pg
  · rw [h, look_store_self, hf]
  · rw [look_store_of_ne _ _ _ h]
    rfl

theorem setReg_causes (pg off v : Nat) : Causes s (setReg s pg off v) := modPage_causes s pg fun _ => rfl

theorem setReg64_causes (pg off v : Nat) : Causes s (setReg64 s pg off v) := (setReg_causes s ..).trans (setReg_causes ..)

theorem queueNotice_causes (p : Nat) (n : Notice) : Causes s (queueNotice s p n) := by
  unfold queueNotice
  dsimp only
  exact .ite rfl (.ite rfl rfl)

theorem raiseCause_causes (pg c : Nat) : Causes s (raiseCause s pg c) := by
  unfold raiseCause
  extract_lets x u
  have hu : Causes s u := modPage_causes s pg (f := fun x => { x with pend := x.pend ||| (1#32 <<< c) }) fun _ => rfl
  exact .ite hu (hu.trans (queueNotice_causes u ..))

theorem updateAlert_causes : Causes s (updateAlert s) := by
  unfold updateAlert
  extract_lets d src u
  have hu : Causes s u := rfl
  exact .ite (hu.trans (raiseCause_causes u ..)) hu

theorem alertCause_causes (i : Nat) : Causes s (alertCause s i) := by
  unfold alertCause
  exact Same.trans (t := { s with mgmt := _ }) rfl (updateAlert_causes _)

theorem raise_causes (pg c : Nat) : Causes s (raise s pg c) := by
  unfold raise
  extract_lets u
  have hu : Causes s u := raiseCause_causes s pg c
  have halert (i : Nat) : Causes s (alertCause u i) := hu.trans (alertCause_causes u i)
  exact .ite (halert 0) (.ite (halert 1) (.ite (halert 4) (.ite (halert 6) hu)))

end Causes

/-! ### Messages and memory -/

section Traffic
variable (s : State)

theorem modPage_traffic (pg : Nat) {f : Page → Page} (hf : ∀ x, pageRest (f x) = pageRest x) : Traffic s (modPage s pg f) :=
  traffic_of_causes (modPage_causes s pg hf)

theorem setReg_traffic (pg off v : Nat) : Traffic s (setReg s pg off v) := traffic_of_causes (setReg_causes ..)

theorem setReg64_traffic (pg off v : Nat) : Traffic s (setReg64 s pg off v) := traffic_of_causes (setReg64_causes ..)

theorem queueNotice_traffic (p : Nat) (n : Notice) : Traffic s (queueNotice s p n) := traffic_of_causes (queueNotice_causes ..)

theorem raise_traffic (pg c : Nat) : Traffic s (raise s pg c) := traffic_of_causes (raise_causes ..)

/-- A cause is raised once an event is counted. -/
theorem count_traffic (pg c pg' off n : Nat) : Traffic s (bump32 (raise s pg c) pg' off n) := (raise_traffic s pg c).trans (setReg_traffic ..)

theorem setFlow_traffic (d i : Nat) (f : Flow) : Traffic s (setFlow s d i f) := rfl

/-- A write of memory changes bytes, seals and poison alone. -/
theorem sealBytes_traffic (phys z : Nat) (l : List Byte) : Traffic s (sealBytes s phys z l) := by
  refine Same.foldl (fun t i _ => ?_) s
  rfl

theorem writeGranules_traffic (clears : Bool) (chan phys z : Nat) (l : List Byte) :
    Traffic s (writeGranules s clears chan phys z l).1 := by
  unfold writeGranules
  split
  · rfl
  · refine foldl_fst_same trafficRest (fun t i => ?_) _ (s, true)
    dsimp only
    split
    · rfl
    · exact sealBytes_traffic t.1 ..

theorem writeBlock_traffic (part addr : Nat) (l : List Byte) : Traffic s (writeBlock s part addr l).1 := by
  unfold writeBlock
  split
  · rfl
  · exact writeGranules_traffic ..

theorem writeWay_traffic (die part addr : Nat) (l : List Byte) : Traffic s (writeWay s die part addr l).1 := by
  unfold writeWay writeCached
  split
  · rfl
  · split
    · rfl
    · exact writeBlock_traffic ..

theorem writeRangeAt_traffic (die part addr : Nat) (l : List Byte) : Traffic s (writeRangeAt s die part addr l).1 := by
  refine foldl_fst_same trafficRest (fun t p => ?_) _ (s, none)
  exact writeWay_traffic t.1 ..

theorem writeLater_traffic (die part addr : Nat) (l : List Byte) : Traffic s (writeLater s die part addr l) := by
  unfold writeLater
  split
  · unfold landWrite
    extract_lets t
    have ht : Traffic s t := writeRangeAt_traffic ..
    exact .ite ht (ht.trans rfl)
  · rfl

theorem sendRequest_traffic {die q : Nat} {m : Msg} {t : State} (h : sendRequest s die m = .sent t q) : Traffic s t := by
  unfold sendRequest at h
  split at h
  · cases h
  · split at h
    · cases h
    · cases h
      rfl

theorem requestOut_traffic {die q : Nat} {m : Msg} {ack : Body} {t : State} (h : requestOut s die m ack = some (t, q)) :
    Traffic s t := by
  unfold requestOut at h
  dsimp only at h
  split at h
  · cases h
    rfl
  · split at h
    · cases h
    · rename_i hs
      cases h
      exact sendRequest_traffic s hs
    · cases h
      rfl

theorem sendAnswer_traffic (die : Nat) (m : Msg) : Traffic s (sendAnswer s die m) := by
  unfold sendAnswer
  dsimp only
  split
  · rfl
  · split <;> rfl

/-! ### The interchange -/

theorem ixSent_traffic (d : Nat) (r : IxReq) (m : Msg) : Traffic s (ixSent s d r m) := by
  unfold ixSent
  extract_lets x now
  refine .ite (Same.foldl (fun t e _ => ?_) s) (.ite (setReg64_traffic ..) (.refl s))
  rfl

theorem ixPumpN_traffic (d n : Nat) : Traffic s (ixPumpN s d n) := by
  induction n generalizing s with
  | zero => rfl
  | succ n ih =>
    unfold ixPumpN
    dsimp only
    split
    · rfl
    · split
      · rfl
      · split
        · rfl
        · rename_i t q hreq
          exact ((requestOut_traffic s hreq).trans (Same.trans (t := setIx t d _) rfl (ixSent_traffic ..))).trans (ih _)

theorem ixAbortQuiet_traffic (d k code : Nat) (tell : Bool) : Traffic s (ixAbortQuiet s d k code tell) := by
  unfold ixAbortQuiet
  extract_lets x i u v w y z
  have hu : Traffic s u := rfl
  have hv : Traffic u v := by
    refine .ite (Same.foldl (fun t r _ => ?_) u) (.refl u)
    exact .ite (.refl t) rfl
  have hw : Traffic v w := writeLater_traffic ..
  have hy : Traffic w y := rfl
  have hz : Traffic y z := rfl
  have hcount : Traffic z (bump32 (raise z (pgIx d) 0) (pgIx d) 0x088 1) := count_traffic z ..
  exact (((((hu.trans hv).trans hw).trans hy).trans hz).trans hcount).trans (ixPumpN_traffic ..)

theorem ixQuiet_traffic (d k : Nat) : Traffic s (ixQuiet s d k) := by
  unfold ixQuiet
  exact .ite rfl (.refl s)

/-! ### The collective controller -/

theorem colPumpN_traffic (d n : Nat) : Traffic s (colPumpN s d n) := by
  induction n generalizing s with
  | zero => rfl
  | succ n ih =>
    unfold colPumpN
    split
    · rfl
    · split
      · rfl
      · rename_i t q hreq
        have ht := requestOut_traffic s hreq
        dsimp only
        split
        · split
          · refine (ht.trans ?_).trans (ih _)
            exact .ite (setReg_traffic ..) (setReg64_traffic ..)
          · exact (ht.trans (t := t) rfl).trans (ih _)
        · exact ht

theorem colAbortQuiet_traffic (d k code : Nat) (tell : Bool) : Traffic s (colAbortQuiet s d k code tell) := by
  unfold colAbortQuiet
  extract_lets x u i again v w y src z
  have hu : Traffic s u := by
    refine Same.foldl (fun t r _ => ?_) s
    exact sendAnswer_traffic t ..
  have hv : Traffic u v := rfl
  have hw : Traffic v w := by
    refine .ite (Same.foldl (fun t r _ => ?_) v) (.refl v)
    exact .ite (.refl t) rfl
  have hy : Traffic w y := writeLater_traffic ..
  have hz : Traffic y z := rfl
  have hcount : Traffic z (bump32 (raise z (pgCol d) 0) (pgCol d) 0x070 1) := count_traffic z ..
  exact (((((hu.trans hv).trans hw).trans hy).trans hz).trans hcount).trans (colPumpN_traffic ..)

theorem colQuiet_traffic (d k : Nat) : Traffic s (colQuiet s d k) := by
  unfold colQuiet
  exact .ite rfl (.refl s)

/-- The rounds of a context end: cores and contexts stay as they are. -/
theorem abortRounds_traffic (c : Nat) : Traffic s (abortRounds s c) := by
  refine Same.foldl (fun t d _ => Same.foldl (fun v k _ => ?_) t) s
  extract_lets x y u
  have hu : Traffic v u := .ite ((ixAbortQuiet_traffic v ..).trans (ixQuiet_traffic ..)) (.refl v)
  exact .ite (hu.trans ((colAbortQuiet_traffic u ..).trans (colQuiet_traffic ..))) hu

end Traffic

end Sys2Proof.Machine
end

section
/-!
PROOFS. A context enters FAULTED (R356, R357), and the milestone engine's own instructions (chapter 9).
-/
namespace Sys2Proof.Machine

/-! ### What a fault leaves of a core -/

/-- The entries of a window after a stop or a settlement: the same instructions, none of which starts. -/
def TamedIn (w v : List WEnt) : Prop := ∀ z ∈ v, ∃ y ∈ w, y.ins = z.ins ∧ y.id = z.id ∧ (z.st = 1 → y.st = 1)

namespace TamedIn
variable {w v u : List WEnt}

theorem refl (w : List WEnt) : TamedIn w w := fun z hz => ⟨z, hz, rfl, rfl, id⟩

theorem trans (a : TamedIn w v) (b : TamedIn v u) : TamedIn w u := fun z hz => by
  obtain ⟨y, hy, hyi, hyd, hys⟩ := b z hz
  obtain ⟨q, hq, hqi, hqd, hqs⟩ := a y hy
  exact ⟨q, hq, hqi.trans hyi, hqd.trans hyd, hqs ∘ hys⟩

theorem map {f : WEnt → WEnt} (h : ∀ e, e.ins = (f e).ins ∧ e.id = (f e).id ∧ ((f e).st = 1 → e.st = 1)) (w : List WEnt) :
    TamedIn w (w.map f) := fun z hz => by
  obtain ⟨y, hy, rfl⟩ := List.mem_map.1 hz
  exact ⟨y, hy, h y⟩

theorem started (h : TamedIn w v) : StartedIn w v := fun z hz hst => by
  obtain ⟨y, hy, hyi, hyd, hys⟩ := h z hz
  exact ⟨y, hy, hys hst, hyi, hyd⟩

end TamedIn

/-- What a fault changes of a core: its fault record, its engines and what a stop ends; the rest stays. -/
def faultRest (x : Core) : Core :=
  { x with fr := {}, runState := 0, shadow := [], reqs := [], window := [], parkedAt := none, lr := {}, op := {} }

/-- A core after a fault of a context. -/
structure FaultKeeps (core : Nat) (s t : State) : Prop where
  rest : faultRest (getCore t core) = faultRest (getCore s core)
  window : TamedIn (getCore s core).window (getCore t core).window

namespace FaultKeeps
variable {core : Nat} {s t u : State}

theorem refl (core : Nat) (s : State) : FaultKeeps core s s := ⟨rfl, .refl _⟩

theorem trans (a : FaultKeeps core s t) (b : FaultKeeps core t u) : FaultKeeps core s u :=
  ⟨b.rest.trans a.rest, a.window.trans b.window⟩

theorem get {γ : Type} (h : FaultKeeps core s t) (part : Core → γ) (hp : ∀ x, part (faultRest x) = part x) :
    part (getCore t core) = part (getCore s core) :=
  (hp _).symm.trans ((congrArg part h.rest).trans (hp _))

theorem of_core (h : getCore t core = getCore s core) : FaultKeeps core s t := ⟨by rw [h], by rw [h]; exact .refl _⟩

theorem of_cores (h : t.cores = s.cores) : FaultKeeps core s t := of_core (by rw [getCore, h, getCore])

theorem modCore (s : State) (k : Nat) {f : Core → Core} (hr : ∀ x, faultRest (f x) = faultRest x)
    (hw : ∀ x, TamedIn x.window (f x).window) : FaultKeeps core s (modCore s k f) := by
  by_cases h : core = k
  · subst h
    exact ⟨by rw [getCore_modCore, hr], by rw [getCore_modCore]; exact hw _⟩
  · exact of_core (getCore_modCore_of_ne s f h)

theorem foldl {β : Type} {f : State → β → State} {l : List β} (h : ∀ s a, FaultKeeps core s (f s a)) (s : State) :
    FaultKeeps core s (l.foldl f s) := by
  induction l generalizing s with
  | nil => exact refl core s
  | cons a l ih => exact (h s a).trans (ih _)

theorem staysUp (h : FaultKeeps core s t) (hup : staysUp (getCore s core)) : staysUp (getCore t core) := by
  refine ⟨(h.get (·.halted) fun _ => rfl).trans hup.1, fun z hz => ?_⟩
  obtain ⟨y, hy, hi, -⟩ := h.window z hz
  have := hup.2 y hy
  unfold isSeqOp at this ⊢
  rwa [hi] at this

end FaultKeeps

section Fault
variable (s : State)

theorem recordFault_faultKeeps (core k kind eng code : Nat) (ctx : Option Nat) (pc detail addr : Nat) :
    FaultKeeps core s (recordFault s k kind eng code ctx pc detail addr) ∧
    (recordFault s k kind eng code ctx pc detail addr).ctxs = s.ctxs := by
  unfold recordFault
  extract_lets x src f u v
  have hset (fr : FaultRec) : FaultKeeps core s (setCore s k { x with fr := fr }) :=
    .modCore s k (f := fun x => { x with fr := fr }) (fun _ => rfl) fun _ => .refl _
  have hv : Traffic u v := raise_traffic ..
  split
  · exact ⟨hset _, rfl⟩
  · refine ⟨((hset f).trans (.of_cores (trafficPart hv (·.cores) fun _ => rfl))).trans (.of_cores (traceEvent_cores v ..)), ?_⟩
    rw [(AtCore.traceEvent (core := 0) v ..).get (·.ctxs) fun _ => rfl]
    exact trafficPart hv (·.ctxs) fun _ => rfl

theorem stopCores_faultKeeps (core : Nat) (l : List Nat) : FaultKeeps core s (stopCores s l) := by
  refine .foldl (fun t k => ?_) s
  unfold stopCore
  extract_lets n u
  have hu : FaultKeeps core t u := .of_cores (by simp only [u]; split <;> rfl)
  refine hu.trans (.modCore u k (fun _ => rfl) fun _ => .map (fun e => ?_) _)
  refine ⟨?_, ?_, fun h => (stopEnt_started e h).1⟩
  · unfold stopEnt
    repeat' split
    all_goals rfl
  · unfold stopEnt
    repeat' split
    all_goals rfl

theorem completePreempt_cores (c code arg1 : Nat) : (completePreempt s c code arg1).cores = s.cores := by
  unfold completePreempt
  split
  · rfl
  · rename_i r _
    exact (completePost_notices (modCtx s c _) c r code arg1).get (·.cores) fun _ => rfl

/-- The cores and contexts of a state. -/
def coresAndCtxs (s : State) : SMap Core × SMap Ctx := (s.cores, s.ctxs)

theorem abandonMoves_cores (l : List Nat) : Same coresAndCtxs s (abandonMoves s l) := by
  unfold abandonMoves
  extract_lets gone src u
  refine Same.trans (t := u) rfl (Same.foldl (fun t m _ => ?_) u)
  rfl

theorem ctxs_foldl_modCore (l : List Nat) (f : Core → Core) : (l.foldl (fun s k => modCore s k f) s).ctxs = s.ctxs := by
  refine Same.foldl (view := fun s : State => s.ctxs) (fun t k _ => ?_) s
  rfl

theorem stopCores_ctxs (l : List Nat) : (stopCores s l).ctxs = s.ctxs := by
  refine Same.foldl (view := fun s : State => s.ctxs) (f := stopCore) (fun t k _ => ?_) s
  unfold stopCore
  dsimp only
  split <;> rfl

/-- A context that enters FAULTED leaves of every core what `faultRest` says; it is FAULTED with the code. -/
theorem enterFaulted_faults (core c code k : Nat) : FaultKeeps core s (enterFaulted s c code k) ∧
    ((getCtx s c).state = .running ∨ (getCtx s c).state = .saving →
      (getCtx (enterFaulted s c code k) c).state = .faulted ∧ (getCtx (enterFaulted s c code k) c).faultCode = code) := by
  unfold enterFaulted
  extract_lets x u v w
  have hu : u.cores = s.cores := completePreempt_cores ..
  have hmoves : Same coresAndCtxs v (abandonMoves v x.cores) := abandonMoves_cores ..
  have hmc : (abandonMoves v x.cores).cores = v.cores := hmoves.forget (view' := fun s => s.cores) Prod.fst fun _ => rfl
  have hmx : (abandonMoves v x.cores).ctxs = v.ctxs := hmoves.forget (view' := fun s => s.ctxs) Prod.snd fun _ => rfl
  have hround : Traffic (stopCores (abandonMoves v x.cores) x.cores) w := abortRounds_traffic ..
  have hvc : FaultKeeps core s v := .of_cores hu
  have hw : FaultKeeps core s w :=
    ((hvc.trans (.of_cores hmc)).trans (stopCores_faultKeeps ..)).trans (.of_cores (trafficPart hround (·.cores) fun _ => rfl))
  have hwx : w.ctxs = v.ctxs := (trafficPart hround (·.ctxs) fun _ => rfl).trans ((stopCores_ctxs ..).trans hmx)
  by_cases hst : (x.state == .running || x.state == .saving) = true
  · rw [if_pos hst]
    have hstopped : FaultKeeps core w (x.cores.foldl (fun s k => modCore s k faultedCore) w) :=
      .foldl (f := fun s k => modCore s k faultedCore) (fun t k => .modCore t k (fun _ => rfl) fun _ => .refl _) w
    refine ⟨hw.trans hstopped, fun _ => ?_⟩
    have hc : getCtx (x.cores.foldl (fun s k => modCore s k faultedCore) w) c = getCtx v c := by
      unfold getCtx
      rw [ctxs_foldl_modCore, hwx]
    have hv : getCtx v c = { getCtx u c with state := .faulted, saving := none, faults := (getCtx u c).faults + 1, faultCode := code,
                                             faultCore := k, replay := 1, stallAt := none } := getCtx_setCtx ..
    rw [hc, hv]
    exact ⟨rfl, rfl⟩
  · rw [if_neg hst]
    refine ⟨.refl core s, fun h => absurd ?_ hst⟩
    rcases h with h | h
    · simp [x, h]
    · simp [x, h]

/-- An engine fault of a core's context. -/
theorem coreFault_faults (core k eng code : Nat) (hw : Bool) (pc detail addr : Nat) :
    FaultKeeps core s (coreFault s k eng code hw pc detail addr) ∧
    (∀ c, (getCore s k).ctx = some c → (getCtx s c).state = .running ∨ (getCtx s c).state = .saving →
      (getCtx (coreFault s k eng code hw pc detail addr) c).state = .faulted ∧
      (getCtx (coreFault s k eng code hw pc detail addr) c).faultCode = code) := by
  unfold coreFault
  split
  · rename_i hnone
    exact ⟨.refl core s, fun c hc => by rw [hnone] at hc; cases hc⟩
  · rename_i c hc
    extract_lets u v
    obtain ⟨hu, hux⟩ := recordFault_faultKeeps s core k 2 eng code (some c) pc detail addr
    have hv : FaultKeeps core u v ∧ (getCtx v c).state = (getCtx u c).state := by
      simp only [v]
      split
      · refine ⟨.of_cores rfl, ?_⟩
        show (getCtx (setCtx (chargeSite u (siteOf u k)) c _) c).state = _
        rw [getCtx_setCtx]
        rfl
      · exact ⟨.refl core u, rfl⟩
    obtain ⟨hfault, hstate⟩ := enterFaulted_faults v core c code k
    refine ⟨(hu.trans hv.1).trans hfault, fun c' hc' hst => ?_⟩
    obtain rfl : c = c' := Option.some.inj (hc.symm.trans hc')
    refine hstate ?_
    have hux' : getCtx u c = getCtx s c := by unfold getCtx; rw [hux]
    rw [hv.2, hux']
    exact hst

end Fault

end Sys2Proof.Machine
end

section
/-!
PROOFS. The milestone engine's own instructions (chapter 9).
-/
namespace Sys2Proof.Machine

/-! ### A completion on a core that stays up, whatever its signal meets -/

section Up
variable {s : State} {core : Nat} {e : WEnt}

theorem putMile_tamed (s : State) (core ms : Nat) (m : Mile) :
    TamedIn (getCore s core).window (getCore (putMile s core ms m) core).window := by
  rw [getCore_putMile]
  refine .map (fun q => ?_) _
  obtain ⟨sat, since, he⟩ := settleEnt_fixed { getCore s core with miles := store (getCore s core).miles ms m } s.odometer q
  rw [he]
  exact ⟨rfl, rfl, id⟩

theorem mileOf_putMile_of_ne (s : State) (core : Nat) {ms k : Nat} (m : Mile) (h : k ≠ ms) :
    mileOf (getCore (putMile s core ms m) core) k = mileOf (getCore s core) k := by
  rw [getCore_putMile]
  exact look_store_of_ne _ _ _ h

theorem putMile_remoteSkip (s : State) (core ms : Nat) (m : Mile) :
    (getCore (putMile s core ms m) core).remoteSkip = (getCore s core).remoteSkip := by
  rw [getCore_putMile]
  rfl

/-- What the signal of an instruction leaves of the core of a state, on a core that stays up. -/
structure SignalKeeps (core : Nat) (e : WEnt) (s t : State) : Prop where
  up : staysUp (getCore t core)
  window : TamedIn (getCore s core).window (getCore t core).window
  skip : (getCore t core).remoteSkip = (getCore s core).remoteSkip
  mile : ∀ k, iSigMs e.ins = 63 ∨ iSigMs e.ins ≠ k → mileOf (getCore t core) k = mileOf (getCore s core) k

/-- The fault of a signal that meets BARRIER mode changes no milestone. -/
theorem coreFault_signalKeeps (hup : staysUp (getCore s core)) (e : WEnt) (eng code : Nat) (hw : Bool) (pc detail addr : Nat) :
    SignalKeeps core e s (coreFault s core eng code hw pc detail addr) := by
  obtain ⟨hkeeps, -⟩ := coreFault_faults s core core eng code hw pc detail addr
  refine ⟨hkeeps.staysUp hup, hkeeps.window, hkeeps.get (·.remoteSkip) fun _ => rfl, fun k _ => ?_⟩
  unfold mileOf
  rw [hkeeps.get (·.miles) fun _ => rfl]

theorem signalOwn_signalKeeps (hup : staysUp (getCore s core)) (e : WEnt) (inc : Nat) (hsig : iSigMs e.ins ≠ 63) :
    SignalKeeps core e s (signalOwn s core e (iSigMs e.ins) inc) := by
  cases hbar : (mileOf (getCore s core) (iSigMs e.ins)).barrier
  · rw [signalOwn_applied e inc hbar]
    exact ⟨putMile_staysUp _ _ _ _ hup, putMile_tamed _ _ _ _, putMile_remoteSkip ..,
      fun k hk => mileOf_putMile_of_ne s core _ (hk.resolve_left hsig).symm⟩
  · have hfault : signalOwn s core e (iSigMs e.ins) inc =
        coreFault s core (iEngine e.ins) Code.wrongState.num false e.addr 0 0 := by
      simp [signalOwn, signalMs, hbar]
    rw [hfault]
    exact coreFault_signalKeeps hup ..

theorem signalEnt_signalKeeps (hup : staysUp (getCore s core)) (e : WEnt) : SignalKeeps core e s (signalEnt s core e) := by
  by_cases hsig : iSigMs e.ins = 63
  · rw [signalEnt_none hsig]
    exact ⟨hup, .refl _, rfl, fun _ _ => rfl⟩
  · have hown : signalEnt s core e = signalOwn s core e (iSigMs e.ins) (iSigInc e.ins) := by
      simp [signalEnt, hsig]
    rw [hown]
    exact signalOwn_signalKeeps hup e _ hsig

theorem mileOf_retire (hup : staysUp (getCore s core)) (e : WEnt) (k : Nat) :
    mileOf (getCore (retire s core e) core) k = mileOf (getCore s core) k := by
  unfold mileOf
  rw [upKeeps_part (retire_upKeeps e hup) (·.miles) fun _ => rfl]

/-- A completing instruction changes no milestone but its own, and starts no instruction. -/
theorem mileOf_finishEnt (hup : staysUp (getCore s core)) {k : Nat} (hk : iSigMs e.ins = 63 ∨ iSigMs e.ins ≠ k) :
    mileOf (getCore (finishEnt s core e) core) k = mileOf (getCore s core) k := by
  have hsig := signalEnt_signalKeeps hup e
  exact (mileOf_retire hsig.up e k).trans (hsig.mile k hk)

theorem finishEnt_remoteSkip (hup : staysUp (getCore s core)) (e : WEnt) :
    (getCore (finishEnt s core e) core).remoteSkip = (getCore s core).remoteSkip := by
  have hsig := signalEnt_signalKeeps hup e
  exact (upKeeps_part (retire_upKeeps e hsig.up) (·.remoteSkip) fun _ => rfl).trans hsig.skip

theorem finishEnt_startedIn (hup : staysUp (getCore s core)) (e : WEnt) :
    StartedIn (getCore s core).window (getCore (finishEnt s core e) core).window :=
  (signalEnt_signalKeeps hup e).window.started.trans (retire_keepsCore core (signalEnt s core e) e).started

/-- The signal of a completing instruction adds to its COUNT-mode milestone. -/
theorem mileOf_finishEnt_own (hup : staysUp (getCore s core)) (hsig : iSigMs e.ins ≠ 63)
    (hbar : (mileOf (getCore s core) (iSigMs e.ins)).barrier = false) :
    mileOf (getCore (finishEnt s core e) core) (iSigMs e.ins) =
      signalled (mileOf (getCore s core) (iSigMs e.ins)) (iSigInc e.ins) (lastWord s core (iEngine e.ins)) := by
  have hown : signalEnt s core e = putMile s core (iSigMs e.ins)
      (signalled (mileOf (getCore s core) (iSigMs e.ins)) (iSigInc e.ins) (lastWord s core (iEngine e.ins))) := by
    simp only [signalEnt, beq_iff_eq, hsig, if_false]
    exact signalOwn_applied e _ hbar
  rw [finishEnt, mileOf_retire (signalEnt_signalKeeps hup e).up, hown, mileOf_putMile]

end Up

/-! ### An instruction of MS in progress -/

section Progress
variable {s t : State} {core c : Nat} {e : WEnt}

/-- The entry in progress is one of MS that has started. -/
theorem msEnt_some {x : Core} (h : msEnt x = some e) : e ∈ x.window ∧ iEngine e.ins = 5 ∧ e.st = 1 := by
  have hp := List.find?_some h
  simp only [Bool.and_eq_true, beq_iff_eq] at hp
  exact ⟨List.mem_of_find?_eq_some h, hp⟩

theorem msEnt_none {x : Core} (h : msEnt x = none) {y : WEnt} (hy : y ∈ x.window) (heng : iEngine y.ins = 5) : y.st ≠ 1 := by
  intro hst
  simpa [heng, hst] using List.find?_eq_none.1 h y hy

/-- With no started ARRIVE that has its answer, nothing completes. -/
theorem msProgress_waits (h : ∀ y ∈ (getCore s core).window, iEngine y.ins = 5 → y.st = 1 → isArrive y = false ∨ y.sent ≠ 0) :
    msProgress s core = s := by
  unfold msProgress
  split
  · rename_i y _ hy
    obtain ⟨hw, heng, hst⟩ := msEnt_some hy
    refine if_neg ?_
    rcases h y hw heng hst with hno | hsent
    · simp [arriveWaits, hno]
    · simp [hsent]
  · rfl

theorem msProgress_idle (h : ∀ y ∈ (getCore s core).window, iEngine y.ins = 5 → y.st ≠ 1) : msProgress s core = s :=
  msProgress_waits fun y hy heng hst => absurd hst (h y hy heng)

/-- The context of a core that has faulted has nothing in progress. -/
theorem msProgress_faulted (hc : (getCore s core).ctx = some c) (hst : (getCtx s c).state = .faulted) : msProgress s core = s := by
  unfold msProgress activeCtx
  simp [hc, hst]

/-- Where no instruction of MS was in progress, a completion leaves none in progress. -/
theorem msProgress_finished (hno : ∀ y ∈ (getCore s core).window, iEngine y.ins = 5 → y.st ≠ 1)
    (h : StartedIn (getCore s core).window (getCore t core).window) : msProgress t core = t := by
  refine msProgress_idle fun y hy heng hst => ?_
  obtain ⟨z, hz, hzst, hzi, -⟩ := h y hy hst
  exact hno z hz (by rw [hzi]; exact heng) hzst

/-- What a message sent by an instruction leaves in progress is that instruction, which awaits the answer. -/
theorem msProgress_sent {w : List WEnt} {f : WEnt → WEnt} {id : Nat}
    (hwin : (getCore t core).window = w.map (fun y => if y.id == id then f y else y)) (hsent : ∀ y, (f y).sent ≠ 0)
    (hno : ∀ y ∈ w, y.id ≠ id → iEngine y.ins = 5 → y.st ≠ 1) : msProgress t core = t := by
  refine msProgress_waits fun y hy heng hst => .inr ?_
  rw [hwin] at hy
  obtain ⟨z, hz, rfl⟩ := List.mem_map.1 hy
  by_cases hid : z.id = id
  · simp only [hid, beq_self_eq_true, if_true]
    exact hsent z
  · simp only [beq_iff_eq, hid, if_false] at heng hst
    exact absurd hst (hno z hz hid heng)

/-- The fault of a running context's own instruction. -/
theorem msProgress_coreFault (eng code : Nat) (hw : Bool) (pc detail addr : Nat) (hc : (getCore s core).ctx = some c)
    (hst : (getCtx s c).state = .running) :
    let t := msProgress (coreFault s core eng code hw pc detail addr) core
    (getCtx t c).state = .faulted ∧ (getCtx t c).faultCode = code := by
  obtain ⟨hkeeps, hfault⟩ := coreFault_faults s core core eng code hw pc detail addr
  obtain ⟨hstate, hcode⟩ := hfault c hc (.inl hst)
  have hctx : (getCore (coreFault s core eng code hw pc detail addr) core).ctx = some c := (hkeeps.get (·.ctx) fun _ => rfl).trans hc
  intro t
  rw [show t = _ from msProgress_faulted hctx hstate]
  exact ⟨hstate, hcode⟩

end Progress

theorem runningCtx_some {s : State} {core c : Nat} (h : runningCtx s core = some c) :
    (getCore s core).ctx = some c ∧ (getCtx s c).state = .running := by
  unfold runningCtx at h
  split at h
  · rename_i k hk
    split at h
    · rename_i hst
      cases h
      rw [Bool.and_eq_true] at hst
      exact ⟨hk, by simpa using hst.1⟩
    · cases h
  · cases h

/-! ### Starts (Table 58) -/

theorem staysUp_window {x y : Core} (hup : staysUp x) (hh : y.halted = x.halted) (hw : TamedIn x.window y.window) : staysUp y := by
  refine ⟨hh.trans hup.1, fun z hz => ?_⟩
  obtain ⟨q, hq, hi, -⟩ := hw z hz
  have := hup.2 q hq
  unfold isSeqOp at this ⊢
  rwa [hi] at this

@[simp] theorem getCore_progressed (s : State) (core cls : Nat) :
    getCore (progressed s core cls) core = { getCore s core with progress := store (getCore s core).progress cls s.odometer } :=
  getCore_modCore ..

section Starts
variable {s : State} {core c : Nat} {e : WEnt} (hno : ∀ y ∈ (getCore s core).window, iEngine y.ins = 5 → y.st ≠ 1)
  (hc : (getCore s core).ctx = some c) (hst : (getCtx s c).state = .running)

include hno in
/-- An instruction that gives a milestone its state, and completes. -/
theorem putMile_finishes (hup : staysUp (getCore s core)) (ms : Nat) (m : Mile) (hother : iSigMs e.ins = 63 ∨ iSigMs e.ins ≠ ms) :
    mileOf (getCore (msProgress (finishEnt (putMile s core ms m) core e) core) core) ms = m := by
  have hup' := putMile_staysUp s core ms m hup
  have hstarted : StartedIn (getCore s core).window (getCore (finishEnt (putMile s core ms m) core e) core).window :=
    (putMile_tamed s core ms m).started.trans (finishEnt_startedIn hup' e)
  rw [msProgress_finished hno hstarted, mileOf_finishEnt hup' hother, mileOf_putMile]

include hno in
/-- What an instruction that completes leaves of the milestones other than its own. -/
theorem finishEnt_idle (hup : staysUp (getCore s core)) : msProgress (finishEnt s core e) core = finishEnt s core e :=
  msProgress_finished hno (finishEnt_startedIn hup e)

end Starts

/-! ### Messages of the milestone engine -/

theorem getCore_modEnt (s : State) (core id : Nat) (f : WEnt → WEnt) : getCore (modEnt s core id f) core =
    { getCore s core with window := (getCore s core).window.map (fun y => if y.id == id then f y else y) } := getCore_modCore ..

@[simp] theorem getCore_postMsg (s : State) (die : Nat) (m : Msg) (k : Nat) : getCore (postMsg s die m) k = getCore s k := rfl

theorem msgFrom_congr {s t : State} (h : t.signpost = s.signpost) (die : Nat) (m : Msg) : msgFrom t die m = msgFrom s die m := by
  simp only [msgFrom, coreStop, siteOf, h]

theorem msgTo_congr {s t : State} (h : t.signpost = s.signpost) (m : Msg) : msgTo t m = msgTo s m := by
  simp only [msgTo, coreStop, siteOf, h]

/-- A message posted in a state whose fabric and signpost are those of another. -/
theorem postMsg_packets {s t : State} (hf : t.fabric = s.fabric) (hs : t.signpost = s.signpost) (die : Nat) (m : Msg) :
    (postMsg t die m).fabric.packets = s.fabric.packets ++ [packetOf (msgFrom s die m) (msgTo s m) (.msg m) m] := by
  show t.fabric.packets ++ [packetOf (msgFrom t die m) (msgTo t m) (.msg m) m] = _
  rw [hf, msgFrom_congr hs, msgTo_congr hs]

theorem getCore_sendMs (s : State) (core : Nat) (e : WEnt) (m : Msg) : getCore (sendMs s core e m) core =
    { getCore s core with window := (getCore s core).window.map (fun y =>
      if y.id == e.id then { y with st := 1, sat := y.sat || !isArrive y, sent := s.nextReq + 1 } else y) } := by
  unfold sendMs
  rw [getCore_postMsg, getCore_modEnt]
  rfl

/-- A message that an instruction sends carries the request number and the epoch of the state it is sent from. -/
theorem sendMs_packets {s t : State} (hf : t.fabric = s.fabric) (hs : t.signpost = s.signpost) (hq : t.nextReq = s.nextReq)
    (hh : t.hang = s.hang) (core : Nat) (e : WEnt) (m : Msg) :
    (sendMs t core e m).fabric.packets = s.fabric.packets ++
      [packetOf (msgFrom s (dieOfCore core) { m with req := s.nextReq, epoch := epochTag s core 5 })
        (msgTo s { m with req := s.nextReq, epoch := epochTag s core 5 }) (.msg { m with req := s.nextReq, epoch := epochTag s core 5 })
        { m with req := s.nextReq, epoch := epochTag s core 5 }] := by
  have hep : epochTag t core 5 = epochTag s core 5 := by
    unfold epochTag epochOf
    rw [hh]
  unfold sendMs
  dsimp only
  rw [hq, hep]
  exact postMsg_packets hf hs _ _

section Sends
variable {s : State} {core c : Nat} {e : WEnt} (hno : ∀ y ∈ (getCore s core).window, y.id ≠ e.id → iEngine y.ins = 5 → y.st ≠ 1)
include hno

/-- An instruction that has sent its message awaits the answer. -/
theorem msProgress_sendMs (m : Msg) : msProgress (sendMs s core e m) core = sendMs s core e m :=
  msProgress_sent (w := (getCore s core).window) (f := fun y => { y with st := 1, sat := y.sat || !isArrive y, sent := s.nextReq + 1 })
    (by rw [getCore_sendMs]) (fun y => Nat.succ_ne_zero _) hno

end Sends

section Ms
variable {s : State} {core : CoreId} {c : Nat} {e : WEnt}

/-- MS starts its next instruction. -/
theorem msWork_starts (hrun : runningCtx s core = some c) (hnone : msEnt (getCore s core) = none)
    (hn : nextOf (getCore s core) 5 = some e) (hcan : canStart (getCore s core) e = true) :
    msWork s core (iOpcode e.ins) = msProgress (startMs s core e) core := by
  unfold msWork
  simp only [hrun, hnone, hn, hcan, beq_self_eq_true, Bool.and_self, if_true]

/-- The state in which an instruction of MS starts: the engine has made progress. -/
theorem startMs_add (ho : iOpcode e.ins = 1) : startMs s core e = startAdd (progressed s core 5) core e := by
  simp [startMs, ho]

theorem startMs_arrive (ho : iOpcode e.ins = 3) : startMs s core e = startArrive (progressed s core 5) core e := by
  simp [startMs, ho]

end Ms

section Add
variable {u : State} {core : CoreId} {c : Nat} {e : WEnt}

/-- What else stands in the window is idle, also when the entry `e.id` has changed. -/
theorem others_idle {f : WEnt → WEnt} (hf : ∀ y, (f y).id = y.id)
    (hno : ∀ y ∈ (getCore u core).window, y.id ≠ e.id → iEngine y.ins = 5 → y.st ≠ 1) :
    ∀ y ∈ (getCore (modEnt u core e.id f) core).window, y.id ≠ e.id → iEngine y.ins = 5 → y.st ≠ 1 := by
  rw [getCore_modEnt]
  intro y hy hid
  obtain ⟨z, hz, rfl⟩ := List.mem_map.1 hy
  by_cases hzid : z.id = e.id
  · simp only [hzid, beq_self_eq_true, if_true, hf] at hid
    exact absurd rfl hid
  · simp only [beq_iff_eq, hzid, if_false] at hid ⊢
    exact hno z hz hid

/-- An ADD to a COUNT-mode milestone of its own core adds at once. -/
theorem startAdd_own (hd : (msDesc e.td).otherChip = false) (ht : (msDesc e.td).targetCore = core)
    (hbar : (mileOf (getCore u core) (msDesc e.td).targetMs).barrier = false) :
    startAdd u core e = finishEnt (putMile u core (msDesc e.td).targetMs
      (signalled (mileOf (getCore u core) (msDesc e.td).targetMs) (msDesc e.td).value (lastWord u core 5))) core e := by
  simp [startAdd, hd, ht, signalMs, hbar, signalled]

/-- A BARRIER-mode milestone of its own core faults the context. -/
theorem startAdd_barrier (hd : (msDesc e.td).otherChip = false) (ht : (msDesc e.td).targetCore = core)
    (hbar : (mileOf (getCore u core) (msDesc e.td).targetMs).barrier = true) :
    startAdd u core e = coreFault u core 5 Code.wrongState.num false e.addr 0 0 := by
  simp [startAdd, hd, ht, signalMs, hbar]

/-- An ADD to another core sends a message. -/
theorem startAdd_core (hd : (msDesc e.td).otherChip = false) (ht : (msDesc e.td).targetCore ≠ core) :
    startAdd u core e = sendMs u core e (innerMsg u (dieOfCore (msDesc e.td).targetCore) 0 0 false
      (.localAdd core (msDesc e.td).targetCore (msDesc e.td).targetMs (BitVec.ofNat 32 (msDesc e.td).value))) := by
  simp [startAdd, hd, ht]

theorem startAdd_skips (hd : (msDesc e.td).otherChip = true) (hskip : 0 < (getCore u core).remoteSkip) :
    startAdd u core e = finishEnt (modCore u core (fun x => { x with remoteSkip := x.remoteSkip - 1 })) core e := by
  simp [startAdd, hd, hskip]

theorem startAdd_remote (hd : (msDesc e.td).otherChip = true) (hskip : (getCore u core).remoteSkip = 0) :
    startAdd u core e = sendRemote (modEnt u core e.id (fun e => { e with st := 1, sat := true })) core e := by
  simp [startAdd, hd, hskip]

theorem remoteAddMsg_congr {s t : State} (h : (getCore t core).ctx = (getCore s core).ctx) (hx : t.ctxs = s.ctxs)
    (hchip : chipId t = chipId s) : remoteAddMsg t core e = remoteAddMsg s core e := by
  unfold remoteAddMsg getCtx
  rw [h, hx, hchip]

/-- Where a request to another chip goes. -/
theorem sendRemote_held (hchip : (msDesc e.td).chip ≠ chipId u) (hhold : (getRoute u (dieOfCore core)).hold = true) :
    sendRemote u core e = u := by
  have hne : ((remoteAddMsg u core e).dstChip == chipId u) = false := beq_eq_false_iff_ne.2 hchip
  simp [sendRemote, hne, sendRequest, hhold]

theorem sendRemote_absent (hchip : (msDesc e.td).chip ≠ chipId u) (hhold : (getRoute u (dieOfCore core)).hold = false)
    (hroute : routeFor u (dieOfCore core) (chipId u) (msDesc e.td).chip = none) :
    sendRemote u core e = coreFault u core 5 Code.absent.num false e.addr 0 0 := by
  have hne : ((remoteAddMsg u core e).dstChip == chipId u) = false := beq_eq_false_iff_ne.2 hchip
  have hr : routeFor u (dieOfCore core) (remoteAddMsg u core e).srcChip (remoteAddMsg u core e).dstChip = none := hroute
  simp [sendRemote, hne, sendRequest, hhold, hr]

theorem sendRemote_sent {p : Nat} (hchip : (msDesc e.td).chip ≠ chipId u) (hhold : (getRoute u (dieOfCore core)).hold = false)
    (hroute : routeFor u (dieOfCore core) (chipId u) (msDesc e.td).chip = some p) :
    sendRemote u core e = modEnt (sendEgress { u with
        nextReq := u.nextReq + 1,
        outs := u.outs ++ [{ req := u.nextReq, die := dieOfCore core, sentAt := u.odometer,
                             msg := { remoteAddMsg u core e with req := u.nextReq } }] }
      (dieOfCore core) p { remoteAddMsg u core e with req := u.nextReq }) core e.id (fun y => { y with
        sent := u.nextReq + 1, firstTry := if y.firstTry == 0 then u.odometer + 1 else y.firstTry, since := u.odometer + 1 }) := by
  have hne : ((remoteAddMsg u core e).dstChip == chipId u) = false := beq_eq_false_iff_ne.2 hchip
  have hr : routeFor u (dieOfCore core) (remoteAddMsg u core e).srcChip (remoteAddMsg u core e).dstChip = some p := hroute
  simp only [sendRemote, hne, sendRequest, hhold, hr, Bool.false_eq_true, if_false]
  rfl

theorem sendRemote_here (hchip : (msDesc e.td).chip = chipId u) :
    sendRemote u core e = sendMs (modEnt u core e.id (fun y => { y with
      firstTry := if y.firstTry == 0 then u.odometer + 1 else y.firstTry, since := u.odometer + 1 })) core e (remoteAddMsg u core e) := by
  have heq : ((remoteAddMsg u core e).dstChip == chipId u) = true := beq_iff_eq.2 hchip
  simp [sendRemote, heq]

end Add

/-- An ADD to another chip starts: a message within the chip, nothing under HOLD, a fault without a route, or a request. -/
theorem remoteStart {s : State} {core : CoreId} {c : Nat} {e : WEnt} (hc : (getCore s core).ctx = some c)
    (hst : (getCtx s c).state = .running) (hno : ∀ y ∈ (getCore s core).window, iEngine y.ins = 5 → y.st ≠ 1)
    (ho : iOpcode e.ins = 1) (hlone : ∀ y ∈ (getCore s core).window, y.id = e.id → y = e) :
    let d := msDesc e.td
    let t := msProgress (sendRemote (modEnt (progressed s core 5) core e.id (fun e => { e with st := 1, sat := true })) core e) core
    (d.chip = chipId s → Puts s t (dieOfCore core) { remoteAddMsg s core e with req := s.nextReq, epoch := epochTag s core 5 }) ∧
    (d.chip ≠ chipId s → (getRoute s (dieOfCore core)).hold = true → t.outs = s.outs ∧ t.fabric = s.fabric) ∧
    (d.chip ≠ chipId s → (getRoute s (dieOfCore core)).hold = false →
      (routeFor s (dieOfCore core) (chipId s) d.chip = none →
        (getCtx t c).state = .faulted ∧ (getCtx t c).faultCode = Code.absent.num) ∧
      (∀ p, routeFor s (dieOfCore core) (chipId s) d.chip = some p → t.nextReq = s.nextReq + 1 ∧
        t.outs = s.outs ++ [{ req := s.nextReq, die := dieOfCore core, sentAt := s.odometer,
                              msg := { remoteAddMsg s core e with req := s.nextReq } }] ∧
        ∃ q, t.fabric.packets = s.fabric.packets ++ [q] ∧ q.src = coreStop s core ∧ q.dst = linkStop p ∧ q.cw = 0)) := by
  intro d t
  let v := modEnt (progressed s core 5) core e.id (fun e => { e with st := 1, sat := true })
  have hv : getCore v core = { getCore s core with
      progress := store (getCore s core).progress 5 s.odometer,
      window := (getCore s core).window.map (fun y => if y.id == e.id then { y with st := 1, sat := true } else y) } := by
    simp only [v, getCore_modEnt, getCore_progressed]
  have hmsg : remoteAddMsg v core e = remoteAddMsg s core e := remoteAddMsg_congr (by rw [hv]) rfl rfl
  have hothers : ∀ y ∈ (getCore v core).window, y.id ≠ e.id → iEngine y.ins = 5 → y.st ≠ 1 :=
    others_idle (u := progressed s core 5) (fun _ => rfl) (by rw [getCore_progressed]; exact fun y hy _ => hno y hy)
  refine ⟨fun hchip => ?_, fun hchip hhold => ?_, fun hchip hhold => ⟨fun hroute => ?_, fun p hroute => ?_⟩⟩
  · have ht : t = sendMs (modEnt v core e.id (fun y => { y with
        firstTry := if y.firstTry == 0 then v.odometer + 1 else y.firstTry, since := v.odometer + 1 })) core e
        (remoteAddMsg v core e) := by
      show msProgress (sendRemote v core e) core = _
      rw [sendRemote_here (u := v) hchip, msProgress_sendMs]
      exact others_idle (fun _ => rfl) hothers
    rw [ht, hmsg]
    exact sendMs_packets rfl rfl rfl rfl ..
  · have ht : t = v := by
      show msProgress (sendRemote v core e) core = _
      rw [sendRemote_held (u := v) hchip hhold]
      refine msProgress_waits fun y hy heng hyst => .inl ?_
      by_cases hid : y.id = e.id
      · rw [hv] at hy
        obtain ⟨z, hz, rfl⟩ := List.mem_map.1 hy
        by_cases hzid : z.id = e.id
        · have := hlone z hz hzid
          subst this
          simp [isArrive, ho]
        · simp only [beq_iff_eq, hzid, if_false] at hid
      · exact absurd hyst (hothers y hy hid heng)
    rw [ht]
    exact ⟨rfl, rfl⟩
  · show (getCtx (msProgress (sendRemote v core e) core) c).state = _ ∧ (getCtx (msProgress (sendRemote v core e) core) c).faultCode = _
    rw [sendRemote_absent (u := v) hchip hhold hroute]
    exact msProgress_coreFault _ _ _ _ _ _ (by rw [hv]; exact hc) hst
  · let w := sendEgress { v with
        nextReq := v.nextReq + 1,
        outs := v.outs ++ [{ req := v.nextReq, die := dieOfCore core, sentAt := v.odometer,
                             msg := { remoteAddMsg v core e with req := v.nextReq } }] }
      (dieOfCore core) p { remoteAddMsg v core e with req := v.nextReq }
    let f := fun (y : WEnt) => { y with
        sent := v.nextReq + 1, firstTry := if y.firstTry == 0 then v.odometer + 1 else y.firstTry, since := v.odometer + 1 }
    have ht : t = modEnt w core e.id f := by
      show msProgress (sendRemote v core e) core = _
      rw [sendRemote_sent (u := v) hchip hhold hroute]
      exact msProgress_sent (w := (getCore w core).window) (f := f) (by rw [getCore_modEnt]) (fun y => Nat.succ_ne_zero _) hothers
    rw [ht]
    refine ⟨rfl, ?_, ⟨_, rfl, rfl, rfl, rfl⟩⟩
    show v.outs ++ [_] = _
    rw [hmsg]
    rfl

section Arrive
variable {u : State} {core : CoreId} {c : Nat} {e : WEnt}

/-- The release milestone of an ARRIVE that enters its round. -/
def enteredMile (m : Mile) (last : Word) : Mile := { m with gen := BitVec.ofNat 32 ((m.gen.toNat % 65536 + 1) % 65536), last := last }

/-- The state in which an ARRIVE sends its arrival. -/
def entered (u : State) (core : Nat) (e : WEnt) (m : Mile) : State :=
  putMile (modEnt u core e.id (fun e => { e with st := 1, sat := false, run := m.gen.toNat % 65536 })) core (msDesc e.td).localMs
    (enteredMile m (lastWord u core 5))

theorem startArrive_enters (hbar : (mileOf (getCore u core) (msDesc e.td).localMs).barrier = false) :
    startArrive u core e =
      let m := mileOf (getCore u core) (msDesc e.td).localMs
      sendMs (entered u core e m) core e (innerMsg (entered u core e m) (dieOfCore (msDesc e.td).targetCore) 0 0 false
        (.arrive core (msDesc e.td).targetCore (msDesc e.td).targetMs (m.gen.toNat % 65536))) := by
  unfold startArrive
  exact if_neg (by simp [hbar])

theorem mileOf_entered (u : State) (core : Nat) (e : WEnt) (m : Mile) :
    mileOf (getCore (entered u core e m) core) (msDesc e.td).localMs = enteredMile m (lastWord u core 5) := by
  unfold entered
  exact mileOf_putMile ..

theorem mileOf_sendMs (s : State) (core : Nat) (e : WEnt) (m : Msg) (k : Nat) :
    mileOf (getCore (sendMs s core e m) core) k = mileOf (getCore s core) k := by
  rw [getCore_sendMs]
  rfl

theorem entered_atCore (u : State) (core : Nat) (e : WEnt) (m : Mile) : AtCore core u (entered u core e m) :=
  .trans (.modCore ..) (.putMile ..)

/-- An ARRIVE starts: its release milestone counts the round entered, and the arrival goes to the home core. -/
theorem arriveStart {s : State} {core : CoreId} {c : Nat} {e : WEnt} (hc : (getCore s core).ctx = some c)
    (hst : (getCtx s c).state = .running) (hno : ∀ y ∈ (getCore s core).window, iEngine y.ins = 5 → y.st ≠ 1) :
    let d := msDesc e.td
    let m := mileOf (getCore s core) d.localMs
    let t := msProgress (startArrive (progressed s core 5) core e) core
    (m.barrier = true → (getCtx t c).state = .faulted ∧ (getCtx t c).faultCode = Code.wrongState.num) ∧
    (m.barrier = false →
      (staysUp (getCore s core) →
        (mileOf (getCore t core) d.localMs).gen = BitVec.ofNat 32 ((m.gen.toNat % 65536 + 1) % 65536)) ∧
      ((∀ y ∈ (getCore s core).window, y.id = e.id → y = e) → (mileOf (getCore t core) d.localMs).value = m.value ∧
        Puts s t (dieOfCore core) { innerMsg s (dieOfCore d.targetCore) 0 0 false
          (.arrive core d.targetCore d.targetMs (m.gen.toNat % 65536)) with req := s.nextReq, epoch := epochTag s core 5 })) := by
  intro d m t
  let u := progressed s core 5
  have hu : getCore u core = { getCore s core with progress := store (getCore s core).progress 5 s.odometer } := getCore_progressed ..
  have hm : mileOf (getCore u core) (msDesc e.td).localMs = m := by
    rw [hu]
    rfl
  refine ⟨fun hbar => ?_, fun hbar => ?_⟩
  · have hfault : startArrive u core e = coreFault u core 5 Code.wrongState.num false e.addr 0 0 := by
      unfold startArrive
      exact if_pos (by rw [hm]; exact hbar)
    show (getCtx (msProgress (startArrive u core e) core) c).state = _ ∧ (getCtx (msProgress (startArrive u core e) core) c).faultCode = _
    rw [hfault]
    exact msProgress_coreFault _ _ _ _ _ _ (by rw [hu]; exact hc) hst
  · have hat : AtCore core s (entered u core e m) := .trans (.modCore ..) (entered_atCore ..)
    have hothers : ∀ y ∈ (getCore (entered u core e m) core).window, y.id ≠ e.id → iEngine y.ins = 5 → y.st ≠ 1 := by
      intro y hy hid heng hyst
      obtain ⟨z, hz, hzi, hzd, hzs⟩ := putMile_tamed _ core _ _ y hy
      have hidle := others_idle (u := u) (core := core) (e := e)
        (f := fun e => { e with st := 1, sat := false, run := m.gen.toNat % 65536 }) (fun _ => rfl)
        (by rw [hu]; exact fun y hy _ => hno y hy)
      exact hidle z hz (by rw [hzd]; exact hid) (by rw [hzi]; exact heng) (hzs hyst)
    have ht : t = sendMs (entered u core e m) core e (innerMsg s (dieOfCore d.targetCore) 0 0 false
        (.arrive core d.targetCore d.targetMs (m.gen.toNat % 65536))) := by
      have hinner (b : Body) : innerMsg (entered u core e m) (dieOfCore (msDesc e.td).targetCore) 0 0 false b =
          innerMsg s (dieOfCore (msDesc e.td).targetCore) 0 0 false b := by
        unfold innerMsg
        rw [hat.chip]
      have hstart := startArrive_enters (u := u) (core := core) (e := e) (by rw [hm]; exact hbar)
      simp only [hm, hinner] at hstart
      show msProgress (startArrive u core e) core = _
      rw [hstart, msProgress_sendMs hothers]
    have hmile : mileOf (getCore t core) d.localMs = enteredMile m (lastWord u core 5) := by
      rw [ht, mileOf_sendMs, mileOf_entered]
    rw [hmile]
    refine ⟨fun _ => rfl, fun _ => ⟨rfl, ?_⟩⟩
    rw [ht]
    exact sendMs_packets (hat.get (·.fabric) fun _ => rfl) (hat.get (·.signpost) fun _ => rfl) (hat.get (·.nextReq) fun _ => rfl)
      (hat.get (·.hang) fun _ => rfl) ..

end Arrive

/-! ### TWAIT (R192, R193) -/

theorem settledCore_ctx (x : Core) (now : Nat) : (settledCore x now).ctx = x.ctx := rfl

/-- An instruction that completes on a core of a context that does not run changes no context. -/
theorem getCtx_retire_stopped {s : State} {core c : Nat} (e : WEnt) (hc : (getCore s core).ctx = some c)
    (hst : (getCtx s c).state ≠ .running) : getCtx (retire s core e) c = getCtx s c := by
  have hnot : ((getCtx s c).state == .running) = false := beq_eq_false_iff_ne.2 hst
  unfold retire
  extract_lets u v w y
  have hyx : y.ctxs = s.ctxs := (AtCore.traceEvent (core := core) w ..).get (·.ctxs) fun _ => rfl
  have hyc : (getCore y core).ctx = some c := by
    rw [getCore_traceEvent, getCore_modCore]
    show (getCore u core).ctx = some c
    rw [getCore_modEnt]
    exact hc
  unfold popWindow
  extract_lets x gone u' v' w' y'
  have hu' : u'.ctxs = y.ctxs ∧ (getCore u' core).ctx = (getCore y core).ctx :=
    ⟨rfl, by rw [show getCore u' core = _ from getCore_setCore ..]⟩
  have hv' : v'.ctxs = y.ctxs ∧ (getCore v' core).ctx = (getCore y core).ctx := by
    show State.ctxs (if _ then _ else _) = _ ∧ (getCore (if _ then _ else _) core).ctx = _
    split
    · exact ⟨hu'.1, by rw [getCore_modCore]; exact hu'.2⟩
    · exact hu'
  have hsettle : AtCore core v' w' := .settle v' core
  have hw' : w'.ctxs = s.ctxs ∧ (getCore w' core).ctx = some c := by
    refine ⟨(hsettle.get (·.ctxs) fun _ => rfl).trans (hv'.1.trans hyx), ?_⟩
    show (getCore (settle v' core) core).ctx = _
    rw [getCore_settle, settledCore_ctx]
    exact hv'.2.trans hyc
  have hgetw : getCtx w' c = getCtx s c := by
    unfold getCtx
    rw [hw'.1]
  have hy' : y' = w' := by
    show checkReject w' core = w'
    unfold checkReject
    dsimp only
    split
    · rename_i k code hk hcode
      obtain rfl : c = k := Option.some.inj (hw'.2.symm.trans hk)
      rw [hgetw, hnot, Bool.and_false, if_neg Bool.false_ne_true]
    · rfl
  have hx : x.ctx = some c := hyc
  rw [hx]
  dsimp only
  have hgety : getCtx y' c = getCtx s c := by rw [hy', hgetw]
  have hdone : checkDone y' c = y' := by
    unfold checkDone
    dsimp only
    rw [hgety, hnot, Bool.false_and, if_neg Bool.false_ne_true]
  rw [hdone, hgety]


/-- A TWAIT whose limit has passed is satisfied and in progress. -/
def expired (s : State) (core id : Nat) : State :=
  modEnt (addEvent s (pgCore core) 1) core id (fun e => { e with sat := true, st := 1 })

theorem getCore_expired (s : State) (core id : Nat) : getCore (expired s core id) core =
    { getCore s core with window := (getCore s core).window.map (fun y => if y.id == id then { y with sat := true, st := 1 } else y) } :=
  getCore_modEnt (addEvent s (pgCore core) 1) core id _

section Twait
variable {s : State} {core : CoreId} {c : Nat} {e : WEnt}

theorem twaitExpiry_ends (hrun : runningCtx s core = some c) (hn : nextOf (getCore s core) 5 = some e) (htw : isTwait e = true)
    (hready : readyEnt (getCore s core) e = true) (hsat : e.sat = false) (hsince : e.since ≠ 0) (hlt : twaitEnd e < s.odometer) :
    exec (.twaitExpiry core) s = .next (retire (signalOwn (expired s core e.id) core e (msDesc e.td).timeoutMs 1) core e) := by
  show execTwaitExpiry core s = _
  simp only [execTwaitExpiry, hrun, hn, htw, hready, hsat, hlt, decide_true, Bool.not_false, Bool.and_self, bne_iff_ne.2 hsince, if_true]
  rfl

theorem twaitExpiry_signals (heng : iEngine e.ins = 5) (hup : staysUp (getCore s core)) (hbar : (mileOf (getCore s core) (msDesc e.td).timeoutMs).barrier = false) :
    let t := retire (signalOwn (expired s core e.id) core e (msDesc e.td).timeoutMs 1) core e
    (mileOf (getCore t core) (msDesc e.td).timeoutMs).value = (mileOf (getCore s core) (msDesc e.td).timeoutMs).value + 1 ∧
    (mileOf (getCore t core) (msDesc e.td).timeoutMs).last = lastWord s core 5 ∧
    (∀ k, k ≠ (msDesc e.td).timeoutMs → mileOf (getCore t core) k = mileOf (getCore s core) k) := by
  have hmile (k : Nat) : mileOf (getCore (expired s core e.id) core) k = mileOf (getCore s core) k := by
    rw [getCore_expired]
    rfl
  have hup' : staysUp (getCore (expired s core e.id) core) := by
    rw [getCore_expired]
    refine ⟨hup.1, fun z hz => ?_⟩
    obtain ⟨y, hy, rfl⟩ := List.mem_map.1 hz
    split
    · exact hup.2 y hy
    · exact hup.2 y hy
  have hat : AtCore core s (expired s core e.id) := by
    have hevent : AtCore core s (addEvent s (pgCore core) 1) := .modPage s _ fun _ => rfl
    unfold expired modEnt
    exact hevent.trans (.modCore ..)
  have hlast : lastWord (expired s core e.id) core (iEngine e.ins) = lastWord s core (iEngine e.ins) := by
    unfold lastWord
    rw [hat.chip]
  intro t
  have ht (k : Nat) : mileOf (getCore t core) k = mileOf (getCore (putMile (expired s core e.id) core (msDesc e.td).timeoutMs
      (signalled (mileOf (getCore s core) (msDesc e.td).timeoutMs) 1 (lastWord s core (iEngine e.ins)))) core) k := by
    have hown := signalOwn_applied (s := expired s core e.id) (core := core) e 1 (by rw [hmile]; exact hbar)
    show mileOf (getCore (retire (signalOwn _ _ _ _ _) core e) core) k = _
    rw [hown, mileOf_retire (putMile_staysUp _ _ _ _ hup'), hmile, hlast]
  rw [ht, mileOf_putMile]
  refine ⟨rfl, ?_, fun k hk => ?_⟩
  · rw [heng]
    rfl
  · rw [ht, mileOf_putMile_of_ne _ _ _ hk, hmile]

theorem twaitExpiry_faults (hc : (getCore s core).ctx = some c) (hst : (getCtx s c).state = .running)
    (hbar : (mileOf (getCore s core) (msDesc e.td).timeoutMs).barrier = true) :
    let t := retire (signalOwn (expired s core e.id) core e (msDesc e.td).timeoutMs 1) core e
    (getCtx t c).state = .faulted ∧ (getCtx t c).faultCode = Code.wrongState.num := by
  intro t
  have hc' : (getCore (expired s core e.id) core).ctx = some c := by
    rw [getCore_expired]
    exact hc
  have hfault : signalOwn (expired s core e.id) core e (msDesc e.td).timeoutMs 1 =
      coreFault (expired s core e.id) core (iEngine e.ins) Code.wrongState.num false e.addr 0 0 := by
    have hbar' : (mileOf (getCore (expired s core e.id) core) (msDesc e.td).timeoutMs).barrier = true := by
      rw [getCore_expired]
      exact hbar
    simp [signalOwn, signalMs, hbar']
  obtain ⟨hkeeps, hstate⟩ := coreFault_faults (expired s core e.id) core core (iEngine e.ins) Code.wrongState.num false e.addr 0 0
  obtain ⟨hfaulted, hcode⟩ := hstate c hc' (.inl hst)
  have ht : getCtx t c = getCtx (coreFault (expired s core e.id) core (iEngine e.ins) Code.wrongState.num false e.addr 0 0) c := by
    show getCtx (retire (signalOwn _ _ _ _ _) core e) c = _
    rw [hfault]
    exact getCtx_retire_stopped e ((hkeeps.get (·.ctx) fun _ => rfl).trans hc') (by rw [hfaulted]; nofun)
  rw [ht]
  exact ⟨hfaulted, hcode⟩

end Twait

/-- Settles O37. -/
theorem msInstructions : Obligations.MsInstructions := by
  intro core e c s x d lone other tagged hrun
  obtain ⟨hc, hst⟩ := runningCtx_some hrun
  refine ⟨fun hnone hn hcan => ?starts, fun he => ⟨fun ho => ?_, fun ho hchip hsent hfirst => ?_⟩,
    fun hn htw hready hsat hsince => ⟨fun hle => ?_, fun hlt hbar hup => ?_, fun hlt hbar => ?_⟩⟩
  case starts =>
    intro row
    have start (op : Nat) (i : Instr) (hi : exec i s = .next (msWork s core op)) {P : State → Prop}
        (hP : iOpcode e.ins = op → P (msProgress (startMs s core e) core)) : row op i P := by
      rintro rfl
      exact ⟨_, hi.trans (congrArg _ (msWork_starts hrun hnone hn hcan)), rfl, hP rfl⟩
    let u := progressed s core 5
    have hu : getCore u core = { x with progress := store x.progress 5 s.odometer } := getCore_progressed ..
    have hno : ∀ y ∈ (getCore u core).window, iEngine y.ins = 5 → y.st ≠ 1 := by
      rw [hu]
      exact fun y hy => msEnt_none hnone hy
    have hupu (hup : staysUp x) : staysUp (getCore u core) := by
      rw [hu]
      exact hup
    have hcu : (getCore u core).ctx = some c := by
      rw [hu]
      exact hc
    have hmile (k : Nat) : mileOf (getCore u core) k = mileOf x k := by
      rw [hu]
      rfl
    refine ⟨start 0 _ rfl fun ho hup hother => ?_, start 2 _ rfl fun ho hup hother => ?_, start 1 _ rfl fun ho => ?add,
      start 3 _ rfl fun ho => ?arrive, start 4 _ rfl fun ho hup => ?_⟩
    · have hs : startMs s core e = finishEnt (putMile u core d.targetMs {
          value := BitVec.ofNat 32 d.value, gen := BitVec.ofNat 32 (d.value % 65536), barrier := false, relMs := 0,
          last := lastWord s core 5 }) core e := by
        simp only [startMs, ho, beq_self_eq_true, if_true]
        rfl
      rw [hs]
      exact putMile_finishes hno (hupu hup) _ _ hother
    · have hs : startMs s core e = finishEnt (putMile u core d.targetMs {
          value := BitVec.ofNat 32 (d.value % 65536 * 65536), gen := 0, barrier := true, relMs := d.localMs,
          last := lastWord s core 5 }) core e := by
        simp [startMs, ho]
        rfl
      rw [hs]
      exact putMile_finishes hno (hupu hup) _ _ hother
    case add =>
      rw [startMs_add ho]
      refine ⟨fun hd ht => ⟨fun hbar hup hother => ?_, fun hbar => ?_⟩, fun hd ht _ => ?_, fun hd hskip hup => ?_,
        fun hd hskip hlone => ?_⟩
      · rw [startAdd_own hd ht (by rw [hmile]; exact hbar), putMile_finishes hno (hupu hup) _ _ hother, hmile]
        exact ⟨rfl, rfl⟩
      · rw [startAdd_barrier hd ht (by rw [hmile]; exact hbar)]
        exact msProgress_coreFault _ _ _ _ _ _ hcu hst
      · rw [startAdd_core hd ht, msProgress_sendMs fun y hy _ => hno y hy, getCore_sendMs]
        refine ⟨by rw [hu], ?_⟩
        exact sendMs_packets rfl rfl rfl rfl ..
      · have hskip' : 0 < (getCore u core).remoteSkip := by
          rw [hu]
          exact hskip
        let v := modCore u core (fun x => { x with remoteSkip := x.remoteSkip - 1 })
        have hv : getCore v core = { getCore u core with remoteSkip := (getCore u core).remoteSkip - 1 } := getCore_modCore ..
        have hnov : ∀ y ∈ (getCore v core).window, iEngine y.ins = 5 → y.st ≠ 1 := by
          rw [hv]
          exact hno
        have hupv : staysUp (getCore v core) := by
          rw [hv]
          exact hupu hup
        rw [startAdd_skips hd hskip', finishEnt_idle hnov hupv, finishEnt_remoteSkip hupv, hv, hu]
      · rw [startAdd_remote hd (by rw [hu]; exact hskip)]
        exact remoteStart (c := c) (s := s) hc hst (fun y hy => msEnt_none hnone hy) ho hlone
    case arrive =>
      rw [startMs_arrive ho]
      exact arriveStart hc hst (fun y hy => msEnt_none hnone hy)
    · have hs : startMs s core e = finishEnt u core e := by simp [startMs, ho, u]
      rw [hs, finishEnt_idle hno (hupu hup)]
      refine ⟨fun k hk => (mileOf_finishEnt (hupu hup) (.inr hk.symm)).trans (hmile k), fun hsig hbar => ?_⟩
      rw [mileOf_finishEnt_own (hupu hup) hsig (by rw [hmile]; exact hbar), hmile]
      rfl
  · refine congrArg Host.Outcome.next (show msWork s core 3 = _ from ?_)
    obtain ⟨a, ha⟩ := Option.isSome_iff_exists.1 (activeCtx_of_running (s := s) (core := core) (by rw [hrun]; rfl))
    have he' : msEnt (getCore s core) = some e := he
    simp [msWork, hrun, he', ho, msProgress, ha]
  · refine congrArg Host.Outcome.next (show msWork s core 1 = _ from ?_)
    have he' : msEnt (getCore s core) = some e := he
    have hchip' : (msDesc e.td).otherChip = true := hchip
    simp [msWork, hrun, he', ho, hchip', hsent, hfirst]
  · show execTwaitExpiry core s = _
    have hn' : nextOf (getCore s core) 5 = some e := hn
    simp [execTwaitExpiry, hrun, hn', Nat.not_lt.2 hle]
  · exact ⟨_, twaitExpiry_ends hrun hn htw hready hsat hsince hlt, twaitExpiry_signals (by simp only [isTwait, Bool.and_eq_true, beq_iff_eq] at htw; exact htw.1) hup hbar⟩
  · exact ⟨_, twaitExpiry_ends hrun hn htw hready hsat hsince hlt, twaitExpiry_faults hc hst hbar⟩

end Sys2Proof.Machine
end

section
/-!
PROOFS. Milestone additions and barriers across cores and chips (chapter 9).
-/
namespace Sys2Proof.Machine

theorem signalMs_applied {s : State} {core ms : Nat} (inc : Nat) (last : Word) (h : (mileOf (getCore s core) ms).barrier = false) :
    signalMs s core ms inc last = (putMile s core ms (signalled (mileOf (getCore s core) ms) inc last), true) := by
  simp [signalMs, h, signalled]

theorem signalMs_barrier {s : State} {core ms : Nat} (inc : Nat) (last : Word) (h : (mileOf (getCore s core) ms).barrier = true) :
    signalMs s core ms inc last = (s, false) := by
  simp [signalMs, h]

/-- A signal from outside to a core with no instruction of MS in progress changes that milestone alone. -/
theorem signalMs_outside {s : State} {core ms : Nat} (inc : Nat) (last : Word) (h : (mileOf (getCore s core) ms).barrier = false)
    (hnone : msEnt (getCore s core) = none) :
    msProgress (signalMs s core ms inc last).1 core = putMile s core ms (signalled (mileOf (getCore s core) ms) inc last) := by
  rw [signalMs_applied inc last h]
  exact msProgress_finished (fun y hy => msEnt_none hnone hy) (TamedIn.started (putMile_tamed s core ms _))

theorem signalled_value (m : Mile) (inc : Word) (last : Word) : (signalled m inc.toNat last).value = m.value + inc := by
  show m.value + BitVec.ofNat 32 inc.toNat = _
  rw [BitVec.ofNat_toNat, BitVec.setWidth_eq]

/-! ### Answers to chip-bound requests (R287) -/

theorem settleOut_traffic (s : State) (req : Nat) : Traffic s (settleOut s req).1 := by
  unfold settleOut
  split
  · rfl
  · exact .ite (Same.trans (t := { s with outs := _ }) rfl (modPage_traffic _ _ fun _ => rfl)) rfl

theorem settleOut_there (s : State) (req : Nat) : (settleOut s req).2 = (s.outs.find? (fun o => o.req == req)).isSome := by
  unfold settleOut
  split
  · rename_i h
    rw [h]
    rfl
  · rename_i h
    rw [h]
    rfl

theorem addTie_atCore (core : Nat) (s : State) (pg : Nat) : AtCore core s (addTie s pg) := .modPage s pg fun _ => rfl

theorem chipId_settleOut (s : State) (req : Nat) : chipId (settleOut s req).1 = chipId s := by
  unfold settleOut
  split
  · rfl
  · rename_i o _
    dsimp only
    split
    · exact (addTie_atCore 0 _ (outPage o)).chip
    · rfl

section Acks
variable {idx src home : Nat} {m : Msg} {s : State} {e : WEnt}

/-- What an answer to an ADD of another chip finds once it has left the list of outstanding requests. -/
theorem exec_remoteAck (hm : s.net[idx]? = some m) (hb : m.body = .remoteAddAck src home) (he : msEnt (getCore s src) = some e) :
    let s1 := (settleOut (dropMsg s idx) m.req).1
    exec (.msAddAck idx) s = .next (
      if !(s.outs.find? (fun o => o.req == m.req)).isSome && m.srcChip != chipId s then s1
      else if e.sent != m.req + 1 then lateAnswer s1 src 5
      else msAcked s1 src m.req m.code (msDesc e.td).targetCore true) := by
  intro s1
  have hcore : getCore s1 src = getCore s src := by
    have hcores : s1.cores = s.cores := trafficPart (settleOut_traffic (dropMsg s idx) m.req) (·.cores) fun _ => rfl
    rw [getCore, hcores, getCore]
  have he' : msEnt (getCore s1 src) = some e := by rw [hcore]; exact he
  have hthere : (settleOut (dropMsg s idx) m.req).2 = (s.outs.find? (fun o => o.req == m.req)).isSome := settleOut_there ..
  have hchip : chipId s1 = chipId s := chipId_settleOut ..
  show execMsAddAck idx s = _
  simp only [execMsAddAck, hm, hb]
  rcases hpair : settleOut (dropMsg s idx) m.req with ⟨t, there⟩
  have ht : t = s1 := by simp only [s1, hpair]
  rw [hpair] at hthere
  simp only [ht, he', hchip, show there = _ from hthere, Option.map_some, Option.getD_some]
  by_cases hsent : e.sent = m.req + 1
  · simp [hsent]
  · simp [hsent]

end Acks

theorem activeCtx_congr {s t : State} {core : Nat} (h : (getCore t core).ctx = (getCore s core).ctx) (hx : t.ctxs = s.ctxs) :
    activeCtx t core = activeCtx s core := by
  unfold activeCtx getCtx
  rw [h, hx]

theorem faultedOn_congr {s t : State} {core : Nat} (h : (getCore t core).ctx = (getCore s core).ctx) (hx : t.ctxs = s.ctxs) :
    faultedOn t core = faultedOn s core := by
  unfold faultedOn getCtx
  rw [h, hx]

section Awaited
variable {s : State} {core req code target : Nat} {e : WEnt} (he : msEnt (getCore s core) = some e) (hsent : e.sent = req + 1)
include he hsent

/-- The answer that the instruction in progress awaits ends it, or a refusal faults its context. -/
theorem msAcked_local (hact : (activeCtx s core).isSome = true) : msAcked s core req code target false =
    if code = 0 then (if isArrive e && !bitOf (iFlags e.ins) 0
      then msProgress (modEnt (progressed s core 5) core e.id (fun y => { y with sent := 0 })) core
      else finishEnt (progressed s core 5) core e)
    else coreFault s core 5 code false e.addr (msDetail e target code) 0 := by
  obtain ⟨a, ha⟩ := Option.isSome_iff_exists.1 hact
  unfold msAcked
  by_cases hcode : code = 0
  · simp [ha, he, hsent, hcode]
  · simp [ha, he, hsent, hcode]

theorem msAcked_remote (hact : (activeCtx s core).isSome = true) (harr : isArrive e = false) (hcode : code = 0) :
    msAcked s core req code target true = finishEnt (progressed (modCore s core (fun x => { x with
      remoteAcked := x.remoteAcked + 1 })) core 5) core e := by
  obtain ⟨a, ha⟩ := Option.isSome_iff_exists.1 hact
  unfold msAcked
  simp [ha, he, hsent, hcode, harr, show (0 == Code.noSpace.num) = false from rfl]

theorem msAcked_full (hact : (activeCtx s core).isSome = true) (hcode : code = Code.noSpace.num) :
    msAcked s core req code target true = modEnt s core e.id (fun y => { y with sent := 0 }) := by
  obtain ⟨a, ha⟩ := Option.isSome_iff_exists.1 hact
  unfold msAcked
  simp [ha, he, hsent, hcode]

theorem msAcked_refused (hact : (activeCtx s core).isSome = true) (h0 : code ≠ 0) (hfull : code ≠ Code.noSpace.num) :
    msAcked s core req code target true = coreFault s core 5 code false e.addr (msDetail e target code) 0 := by
  obtain ⟨a, ha⟩ := Option.isSome_iff_exists.1 hact
  unfold msAcked
  simp [ha, he, hsent, h0, hfull]

theorem msAcked_faulted (hact : activeCtx s core = none) (hf : faultedOn s core = true) (hcode : code = 0) :
    msAcked s core req code target true = modCore (modEnt s core e.id (fun y => { y with sent := 0 })) core (fun x =>
      { x with remoteAcked := x.remoteAcked + 1 }) := by
  unfold msAcked
  simp [hact, he, hsent, hf, hcode]

end Awaited

theorem msDetail_eq (e : WEnt) (core code : Nat) : msDetail e core code =
    if code = Code.sequence.num ∨ (iOpcode e.ins = 1 ∧ code = Code.wrongState.num) then core else 0 := by
  unfold msDetail
  simp only [Bool.or_eq_true, Bool.and_eq_true, beq_iff_eq]

/-- The answer to a message within the chip goes into the fabric. -/
theorem ackLocal_puts {s t : State} (hf : t.fabric = s.fabric) (hs : t.signpost = s.signpost) (hh : t.hang = s.hang)
    (hchip : chipId t = chipId s) (q : Msg) (src home code : Nat) : Puts s (ackLocal t q src home code) (edgeDie s (dieOfCore home))
      { innerMsg s (dieOfCore src) 0 code true (.localAck src home) with req := q.req, mark := q.mark, epoch := q.epoch } := by
  have hedge : edgeDie t (dieOfCore home) = edgeDie s (dieOfCore home) := by
    unfold edgeDie dieUp
    rw [hh]
  have hinner : innerMsg t (dieOfCore src) 0 code true (.localAck src home) = innerMsg s (dieOfCore src) 0 code true (.localAck src home) := by
    unfold innerMsg
    rw [hchip]
  unfold ackLocal Puts
  rw [hedge, hinner]
  exact postMsg_packets hf hs _ _

/-! ### Signals from outside the chip (R188, R358) -/

section Deliver
variable {s : State} {ctx core ms inc : Nat} {last : Word} {logged : Bool}

theorem deliverSignal_held (hfree : (getCtx s ctx).state ≠ .free) (hrun : (getCtx s ctx).state ≠ .running)
    (hmine : (getCtx s ctx).cores.contains core = true) (hroom : (look s.heldQ (dieOfCore core) []).length < 1024) :
    deliverSignal s ctx core ms inc last logged = ({ s with heldQ := store s.heldQ (dieOfCore core) (look s.heldQ (dieOfCore core) [] ++
      [{ core := core, ms := ms, last := last, inc := BitVec.ofNat 32 inc, ctx := ctx }]) }, .held) := by
  unfold deliverSignal holdSignal
  simp only [beq_eq_false_iff_ne.2 hfree, beq_eq_false_iff_ne.2 hrun, hmine, Nat.not_le.2 hroom, Bool.not_true, Bool.or_self,
    Bool.false_eq_true, if_false, if_true]

theorem deliverSignal_full (hfree : (getCtx s ctx).state ≠ .free) (hrun : (getCtx s ctx).state ≠ .running)
    (hmine : (getCtx s ctx).cores.contains core = true) (hfull : 1024 ≤ (look s.heldQ (dieOfCore core) []).length) :
    deliverSignal s ctx core ms inc last logged = (s, .full) := by
  unfold deliverSignal holdSignal
  simp only [beq_eq_false_iff_ne.2 hfree, beq_eq_false_iff_ne.2 hrun, hmine, hfull, Bool.not_true, Bool.or_self, Bool.false_eq_true,
    if_false, if_true]

variable (hrun : (getCtx s ctx).state = .running) (hmine : (getCtx s ctx).cores.contains core = true)
include hrun hmine

theorem deliverSignal_barrier (hbar : (mileOf (getCore s core) ms).barrier = true) :
    deliverSignal s ctx core ms inc last logged = (s, .barrier) := by
  unfold deliverSignal
  simp only [hrun, hmine, signalMs_barrier inc last hbar, show (CState.running == CState.free) = false from rfl, beq_self_eq_true,
    Bool.not_true, Bool.or_self, Bool.false_eq_true, if_false, if_true]

theorem deliverSignal_logged (hbar : (mileOf (getCore s core) ms).barrier = false) :
    deliverSignal s ctx core ms inc last true =
      (msProgress (logChange (signalMs s core ms inc last).1 core ms inc ctx last) core, .applied) := by
  unfold deliverSignal
  simp only [hrun, hmine, signalMs_applied inc last hbar, show (CState.running == CState.free) = false from rfl, beq_self_eq_true,
    Bool.not_true, Bool.or_self, Bool.false_eq_true, if_false, if_true]

end Deliver

theorem logChange_keepsCore (core : Nat) (s : State) (k ms inc ctx : Nat) (last : Word) :
    CoreKeeps core s (logChange s k ms inc ctx last) ∧ UpKeeps core s (logChange s k ms inc ctx last) := by
  unfold logChange logLimit
  extract_lets l
  split
  · exact ⟨.trans (t := logHeld s _) (.of_cores rfl) (beginSave_keepsCore ..), Same.trans (t := logHeld s _) rfl (beginSave_upKeeps ..)⟩
  · exact ⟨.of_cores rfl, rfl⟩

/-- A logged signal from outside changes that milestone alone, also where the log's limit begins a save. -/
theorem signalMs_logged {s : State} {core ms : Nat} (inc : Word) (ctx : Nat) (last : Word)
    (h : (mileOf (getCore s core) ms).barrier = false) (hnone : msEnt (getCore s core) = none) :
    let t := msProgress (logChange (signalMs s core ms inc.toNat last).1 core ms inc.toNat ctx last) core
    (mileOf (getCore t core) ms).value = (mileOf (getCore s core) ms).value + inc ∧ (mileOf (getCore t core) ms).last = last ∧
    (∀ j, j ≠ ms → mileOf (getCore t core) j = mileOf (getCore s core) j) := by
  rw [signalMs_applied inc.toNat last h]
  have htamed := putMile_tamed s core ms (signalled (mileOf (getCore s core) ms) inc.toNat last)
  have hmile := mileOf_putMile s core ms (signalled (mileOf (getCore s core) ms) inc.toNat last)
  have hother (k : Nat) (hk : k ≠ ms) := mileOf_putMile_of_ne s core (signalled (mileOf (getCore s core) ms) inc.toNat last) hk
  generalize putMile s core ms (signalled (mileOf (getCore s core) ms) inc.toNat last) = u at htamed hmile hother ⊢
  obtain ⟨hkeeps, hup⟩ := logChange_keepsCore core u core ms inc.toNat ctx last
  have hidle : msProgress (logChange u core ms inc.toNat ctx last) core = logChange u core ms inc.toNat ctx last :=
    msProgress_finished (fun y hy => msEnt_none hnone hy) (htamed.started.trans hkeeps.started)
  have hsame (k : Nat) : mileOf (getCore (logChange u core ms inc.toNat ctx last) core) k = mileOf (getCore u core) k := by
    unfold mileOf
    rw [upKeeps_part hup (·.miles) fun _ => rfl]
  dsimp only
  rw [hidle, hsame, hmile]
  exact ⟨signalled_value .., rfl, fun j hj => (hsame j).trans (hother j hj)⟩

/-- An ADD that has been applied at a core, and acknowledged. -/
theorem ackLocal_signalled {idx core ms src : Nat} {s : State} (m : Msg) (mile : Mile) (inc last : Word) :
    let t := ackLocal (putMile (dropMsg s idx) core ms (signalled mile inc.toNat last)) m src core 0
    (mileOf (getCore t core) ms).value = mile.value + inc ∧ (mileOf (getCore t core) ms).last = last ∧
    (∀ k, k ≠ ms → mileOf (getCore t core) k = mileOf (getCore s core) k) ∧ t.net = s.net.eraseIdx idx ∧
    Puts s t (edgeDie s (dieOfCore core)) { innerMsg s (dieOfCore src) 0 0 true (.localAck src core) with
      req := m.req, mark := m.mark, epoch := m.epoch } := by
  have hat := AtCore.putMile (dropMsg s idx) core ms (signalled mile inc.toNat last)
  have hmile := mileOf_putMile (dropMsg s idx) core ms (signalled mile inc.toNat last)
  have hother (k : Nat) (hk : k ≠ ms) := mileOf_putMile_of_ne (dropMsg s idx) core (signalled mile inc.toNat last) hk
  generalize putMile (dropMsg s idx) core ms (signalled mile inc.toNat last) = u at hat hmile hother ⊢
  have hcore : getCore (ackLocal u m src core 0) core = getCore u core := rfl
  dsimp only
  rw [hcore, hmile]
  exact ⟨signalled_value .., rfl, hother, hat.get (·.net) fun _ => rfl,
    ackLocal_puts (hat.get (·.fabric) fun _ => rfl) (hat.get (·.signpost) fun _ => rfl) (hat.get (·.hang) fun _ => rfl) hat.chip ..⟩

/-- Settles O38. -/
theorem addMessages : Obligations.AddMessages := by
  refine ⟨fun idx m src core ms home inc e s hm => ⟨fun hb => ?arrival, fun hb => ?localAck, fun hb he => ?remoteAck⟩,
    fun idx m src ctx core ms inc k e s => ⟨fun hm hb => ?remote, fun hrun he ho hsent hfirst => ?retry⟩⟩
  case arrival =>
    have hexec (hmov : (getPage s (pgCore core)).moving = false) : exec (.msAddArrival idx) s = .next (
        if !msgReach s m core 5 then ackLocal (dropMsg s idx) m src core Code.fenced.num
        else
          let r := signalMs (dropMsg s idx) core ms inc.toNat (lastWord s src 5)
          ackLocal (if r.2 then msProgress r.1 core else r.1) m src core (if r.2 then 0 else Code.wrongState.num)) := by
      show execMsAddArrival idx s = _
      simp only [execMsAddArrival, hm, hb, hmov, Bool.false_eq_true, if_false]
      rfl
    have happlied (hmov : (getPage s (pgCore core)).moving = false) (hreach : msgReach s m core 5 = true)
        (hbar : (mileOf (getCore s core) ms).barrier = false) : exec (.msAddArrival idx) s = .next (ackLocal
          (msProgress (signalMs (dropMsg s idx) core ms inc.toNat (lastWord s src 5)).1 core) m src core 0) := by
      rw [hexec hmov, hreach]
      have happ := signalMs_applied (s := dropMsg s idx) (core := core) inc.toNat (lastWord s src 5) hbar
      simp only [happ, Bool.not_true, Bool.false_eq_true, if_false, if_true]
    refine ⟨fun hmov => ?_, fun hmov => ⟨fun hreach hbar => happlied hmov hreach hbar, fun hreach hbar hnone => ?_, fun hreach hbar => ?_, fun hreach => ?_⟩⟩
    · show execMsAddArrival idx s = _
      simp only [execMsAddArrival, hm, hb, hmov, if_true]
    · refine ⟨_, happlied hmov hreach hbar, ?_⟩
      rw [signalMs_outside (s := dropMsg s idx) inc.toNat (lastWord s src 5) hbar hnone]
      have hm : mileOf (getCore (dropMsg s idx) core) ms = mileOf (getCore s core) ms := rfl
      rw [hm]
      exact ackLocal_signalled _ _ inc _
    · rw [hexec hmov, hreach]
      have happ := signalMs_barrier (s := dropMsg s idx) (core := core) inc.toNat (lastWord s src 5) hbar
      simp only [happ, Bool.not_true, Bool.false_eq_true, if_false]
    · rw [hexec hmov, hreach]
      rfl
  case localAck =>
    have hexec : exec (.msAddAck idx) s = .next (if m.epoch != epochTag s src 5 then lateAnswer (dropMsg s idx) src 5
        else msAcked (dropMsg s idx) src m.req m.code home false) := by
      show execMsAddAck idx s = _
      simp only [execMsAddAck, hm, hb]
      rfl
    refine ⟨fun hep => ?_, fun hep hact he => ?_⟩
    · rw [hexec, if_pos (bne_iff_ne.2 hep)]
    · rw [if_neg (by simp [hep])] at hexec
      have he' : msEnt (getCore (dropMsg s idx) src) = some e := he
      refine ⟨fun hsent => ?_, fun hsent hcode => ?_, fun hsent hcode => ?_⟩
      · obtain ⟨a, ha⟩ := Option.isSome_iff_exists.1 hact
        have ha' : activeCtx (dropMsg s idx) src = some a := ha
        rw [hexec]
        unfold msAcked
        simp [ha', he', hsent]
      · rw [hexec, msAcked_local he' hsent hact, if_pos hcode]
      · rw [hexec, msAcked_local he' hsent hact, if_neg hcode, msDetail_eq]
  case remoteAck =>
    intro s1 there
    have hexec := exec_remoteAck hm hb he
    have htraffic : Traffic (dropMsg s idx) s1 := settleOut_traffic ..
    have hcore : getCore s1 src = getCore s src := by
      rw [getCore, trafficPart htraffic (·.cores) fun _ => rfl]
      rfl
    have hctxs : s1.ctxs = s.ctxs := trafficPart htraffic (·.ctxs) fun _ => rfl
    have he1 : msEnt (getCore s1 src) = some e := by rw [hcore]; exact he
    have hactive : activeCtx s1 src = activeCtx s src := activeCtx_congr (by rw [hcore]) hctxs
    have hmine (h : there) (hsent : e.sent = m.req + 1) :
        exec (.msAddAck idx) s = .next (msAcked s1 src m.req m.code (msDesc e.td).targetCore true) := by
      rw [hexec, if_neg, if_neg (by simp [hsent])]
      rcases h with h | h
      · simp [h]
      · simp [h]
    refine ⟨fun h => ?_, fun h hsent => ?_, fun h hsent hact hf hcode => ?_, fun h hsent hact => ⟨fun hcode harr => ?_, fun hcode => ?_,
      fun h0 hfull => ?_⟩⟩
    · rw [hexec, if_pos]
      simpa [there, not_or] using h
    · rw [hexec, if_neg, if_pos (bne_iff_ne.2 hsent)]
      rcases h with h | h
      · simp [h]
      · simp [h]
    · rw [hmine h hsent, msAcked_faulted he1 hsent (hactive.trans hact) ((faultedOn_congr (by rw [hcore]) hctxs).trans hf) hcode]
    · rw [hmine h hsent, msAcked_remote he1 hsent (by rw [hactive]; exact hact) harr hcode]
    · rw [hmine h hsent, msAcked_full he1 hsent (by rw [hactive]; exact hact) hcode]
    · rw [hmine h hsent, msAcked_refused he1 hsent (by rw [hactive]; exact hact) h0 hfull]
  case remote =>
    have hexec (hmov : (getPage s (pgCore core)).moving = false) (t : State)
        (h : (let answer := fun (s : State) (code : Nat) =>
            sendAnswer s (dieOfCore core) (answerTo s (dieOfCore src) code m (.remoteAddAck src core))
          if !msgReach s m core 5 || s.hide.draining then answer (dropMsg s idx) Code.fenced.num
          else if (getCtx s ctx).state == .free || !(getCtx s ctx).cores.contains core || (getCtx s ctx).jobTag != m.job then
            answer (addEvent (dropMsg s idx) (pgCtl (dieOfCore core)) 1) Code.notOwner.num
          else
            let d := deliverSignal (dropMsg s idx) ctx core ms inc.toNat (BitVec.ofNat 32 (m.srcChip * 65536 + src * 16 + 5)) true
            answer d.1 (match d.2 with
              | .applied => 0 | .held => 0 | .full => Code.noSpace.num | .barrier => Code.wrongState.num
              | .gone => Code.notOwner.num)) = t) : exec (.remoteAddArrival idx) s = .next t := by
      rw [← h]
      show execRemoteAddArrival idx s = _
      simp only [execRemoteAddArrival, hm, hb, hmov, Bool.false_eq_true, if_false]
      rfl
    refine ⟨fun hmov => ?_, fun hmov => ?_⟩
    · show execRemoteAddArrival idx s = _
      simp only [execRemoteAddArrival, hm, hb, hmov, if_true]
    · intro answer last mine q s1
      have accepts (hfree : (getCtx s ctx).state ≠ .free) (hmine : mine) :
          ((getCtx s ctx).state == .free || !(getCtx s ctx).cores.contains core || (getCtx s ctx).jobTag != m.job) = false := by
        simp only [beq_eq_false_iff_ne.2 hfree, hmine.1, hmine.2, Bool.not_true, bne_self_eq_false, Bool.or_self]
      refine ⟨fun h => hexec hmov _ ?_, fun hreach hdrain => ⟨fun h => hexec hmov _ ?_, fun hfree hrun hmine =>
        ⟨fun hroom => hexec hmov _ ?_, fun hfull => hexec hmov _ ?_⟩, fun hrun hmine => ⟨fun hbar => hexec hmov _ ?_,
        fun hbar hnone => ⟨_, hexec hmov _ rfl, ?_⟩, fun hbar => hexec hmov _ ?_⟩⟩⟩
      · have hfence : (!msgReach s m core 5 || s.hide.draining) = true := by
          rcases h with h | h <;> simp [h]
        simp only [hfence, if_true]
        rfl
      · have hno : ((getCtx s ctx).state == .free || !(getCtx s ctx).cores.contains core || (getCtx s ctx).jobTag != m.job) = true := by
          rcases h with h | h
          · simp [h]
          · simpa [mine, Decidable.imp_iff_not_or, or_assoc] using Or.inr h
        simp only [hreach, hdrain, hno, Bool.not_true, Bool.or_self, Bool.false_eq_true, if_false, if_true]
        rfl
      · have hok := accepts hfree hmine
        have hdel := deliverSignal_held (s := dropMsg s idx) (core := core) (ms := ms) (inc := inc.toNat) (last := last) (logged := true)
          hfree hrun hmine.1 hroom
        simp only [hreach, hdrain, hok, Bool.not_true, Bool.or_self, Bool.false_eq_true, if_false]
        simp only [show BitVec.ofNat 32 (m.srcChip * 65536 + src * 16 + 5) = last from rfl, hdel, BitVec.ofNat_toNat, BitVec.setWidth_eq]
        rfl
      · have hok := accepts hfree hmine
        have hdel := deliverSignal_full (s := dropMsg s idx) (core := core) (ms := ms) (inc := inc.toNat) (last := last) (logged := true)
          hfree hrun hmine.1 hfull
        simp only [hreach, hdrain, hok, Bool.not_true, Bool.or_self, Bool.false_eq_true, if_false]
        simp only [show BitVec.ofNat 32 (m.srcChip * 65536 + src * 16 + 5) = last from rfl, hdel]
        rfl
      · have hok := accepts (by rw [hrun]; nofun) hmine
        have hdel := deliverSignal_barrier (s := dropMsg s idx) (core := core) (ms := ms) (inc := inc.toNat) (last := last)
          (logged := true) hrun hmine.1 hbar
        simp only [hreach, hdrain, hok, Bool.not_true, Bool.or_self, Bool.false_eq_true, if_false]
        simp only [show BitVec.ofNat 32 (m.srcChip * 65536 + src * 16 + 5) = last from rfl, hdel]
        rfl
      · have hok := accepts (by rw [hrun]; nofun) hmine
        have hdel := deliverSignal_logged (s := dropMsg s idx) (core := core) (ms := ms) (inc := inc.toNat) (last := last)
          hrun hmine.1 hbar
        simp only [hreach, hdrain, hok, Bool.not_true, Bool.or_self, Bool.false_eq_true, if_false]
        simp only [show BitVec.ofNat 32 (m.srcChip * 65536 + src * 16 + 5) = last from rfl, hdel]
        have hlogged := signalMs_logged (s := dropMsg s idx) (core := core) (ms := ms) inc ctx last hbar hnone
        have hans (u : State) (q : Msg) (k : Nat) : getCore (sendAnswer u (dieOfCore core) q) k = getCore u k := by
          rw [getCore, trafficPart (sendAnswer_traffic u (dieOfCore core) q) (·.cores) fun _ => rfl]
          rfl
        rw [hans]
        exact hlogged
      · have hok := accepts (by rw [hrun]; nofun) hmine
        have hdel := deliverSignal_logged (s := dropMsg s idx) (core := core) (ms := ms) (inc := inc.toNat) (last := last)
          hrun hmine.1 hbar
        simp only [hreach, hdrain, hok, Bool.not_true, Bool.or_self, Bool.false_eq_true, if_false]
        simp only [show BitVec.ofNat 32 (m.srcChip * 65536 + src * 16 + 5) = last from rfl, hdel]
        rfl
  case retry =>
    obtain ⟨a, ha⟩ := Option.isSome_iff_exists.1 hrun
    have hexec : exec (.addRetry k) s = .next (if passed s (e.firstTry - 1) msNs then coreFault s k 5 Code.timedOut.num false e.addr 0 0
        else if passed s (e.since - 1) usNs then sendRemote s k e else s) := by
      show execAddRetry k s = _
      simp [execAddRetry, ha, he, ho, hsent, hfirst]
    refine ⟨fun h => ?_, fun h hs => ?_, fun h hs => ?_⟩
    · rw [hexec, show msNs = 1000000 from rfl, h, if_pos rfl]
    · rw [hexec, show msNs = 1000000 from rfl, show usNs = 1000 from rfl, h, hs, if_neg Bool.false_ne_true, if_pos rfl]
    · rw [hexec, show msNs = 1000000 from rfl, show usNs = 1000 from rfl, h, hs, if_neg Bool.false_ne_true, if_neg Bool.false_ne_true]

end Sys2Proof.Machine
end

section
/-!
PROOFS. Barrier rounds (R189 to R191).
-/
namespace Sys2Proof.Machine

/-! ### Releases of a round -/

/-- The state without its die fabrics. -/
def sansFabric (s : State) : State := { s with fabric := {} }

/-- The packet of a release from the home core. -/
def releasePacket (s : State) (home relMs i : Nat) : Packet :=
  let q := innerMsg s (dieOfCore i) 0 0 false (.release home i relMs)
  packetOf (coreStop s home) (coreStop s i) (.msg q) q

theorem releasePacket_congr {s t : State} (hs : t.signpost = s.signpost) (hchip : chipId t = chipId s) (home relMs i : Nat) :
    releasePacket t home relMs i = releasePacket s home relMs i := by
  unfold releasePacket coreStop siteOf innerMsg
  rw [hs, hchip]

/-- The releases of a round go into the fabric in their order, and nothing else changes. -/
theorem releases_packets (home relMs : Nat) (l : List Nat) (s : State) :
    let t := l.foldl (fun s k => postMsg s (dieOfCore home) (innerMsg s (dieOfCore k) 0 0 false (.release home k relMs))) s
    t.fabric.packets = s.fabric.packets ++ l.map (releasePacket s home relMs) ∧ Same sansFabric s t := by
  induction l generalizing s with
  | nil => exact ⟨(List.append_nil _).symm, rfl⟩
  | cons k l ih =>
    obtain ⟨hpackets, hsame⟩ := ih (postMsg s (dieOfCore home) (innerMsg s (dieOfCore k) 0 0 false (.release home k relMs)))
    refine ⟨?_, hsame⟩
    rw [List.foldl_cons, hpackets]
    show (s.fabric.packets ++ [releasePacket s home relMs k]) ++ l.map (releasePacket s home relMs) = _
    rw [List.append_assoc]
    rfl

/-- A milestone once its round has completed. -/
def completedMile (m : Mile) : Mile :=
  { m with value := BitVec.ofNat 32 (m.value.toNat / 65536 * 65536 + m.gen.toNat / 65536),
           gen := BitVec.ofNat 32 ((m.gen.toNat + 1) % 65536) }

theorem completeRound_quiet {s : State} {core ms : Nat} (h : activeCtx s core = none ∨ roundDue (mileOf (getCore s core) ms) = false) :
    completeRound s core ms = s := by
  unfold completeRound
  dsimp only
  split
  · rfl
  · rename_i c hc
    refine if_neg ?_
    rcases h with h | h
    · rw [h] at hc
      cases hc
    · rw [h]
      exact Bool.false_ne_true

/-- A round that is due completes: the milestone moves on, and every core of the context gets a release. -/
theorem completeRound_due {s : State} {core ms c : Nat} (hc : activeCtx s core = some c)
    (hdue : roundDue (mileOf (getCore s core) ms) = true) :
    let m := mileOf (getCore s core) ms
    mileOf (getCore (completeRound s core ms) core) ms = completedMile m ∧
    (completeRound s core ms).fabric.packets =
      s.fabric.packets ++ (getCtx s c).cores.map (releasePacket s core m.relMs) ∧
    (completeRound s core ms).net = s.net ∧ (completeRound s core ms).signpost = s.signpost ∧
    chipId (completeRound s core ms) = chipId s ∧ (completeRound s core ms).hang = s.hang := by
  intro m
  have hat := AtCore.putMile s core ms (completedMile m)
  have hmile := mileOf_putMile s core ms (completedMile m)
  have heq : completeRound s core ms = (getCtx (putMile s core ms (completedMile m)) c).cores.foldl (fun s k =>
      postMsg s (dieOfCore core) (innerMsg s (dieOfCore k) 0 0 false (.release core k m.relMs))) (putMile s core ms (completedMile m)) := by
    unfold completeRound
    simp only [hc, hdue, if_true]
    rfl
  rw [heq]
  generalize putMile s core ms (completedMile m) = u at hat hmile ⊢
  obtain ⟨hpackets, hsame⟩ := releases_packets core m.relMs (getCtx u c).cores u
  have hctx : getCtx u c = getCtx s c := by
    unfold getCtx
    rw [hat.get (·.ctxs) fun _ => rfl]
  have hmap : (getCtx u c).cores.map (releasePacket u core m.relMs) = (getCtx s c).cores.map (releasePacket s core m.relMs) := by
    rw [hctx]
    exact List.map_congr_left fun i _ => releasePacket_congr (hat.get (·.signpost) fun _ => rfl) hat.chip ..
  generalize (getCtx u c).cores.foldl _ u = t at hpackets hsame ⊢
  have hcores : t.cores = u.cores := hsame.get (·.cores) fun _ => rfl
  have hpages : t.pages = u.pages := hsame.get (·.pages) fun _ => rfl
  refine ⟨?_, ?_, (hsame.get (·.net) fun _ => rfl).trans (hat.get (·.net) fun _ => rfl),
    (hsame.get (·.signpost) fun _ => rfl).trans (hat.get (·.signpost) fun _ => rfl), ?_,
    (hsame.get (·.hang) fun _ => rfl).trans (hat.get (·.hang) fun _ => rfl)⟩
  · rw [getCore, hcores]
    exact hmile
  · rw [hpackets, hmap, hat.get (·.fabric) fun _ => rfl]
  · unfold chipId
    rw [regOf_congr hpages]
    exact hat.chip

/-- The answer within the chip, as a packet of a state with the same places and chip number. -/
theorem ackLocal_packets {s t : State} (hs : t.signpost = s.signpost) (hchip : chipId t = chipId s) (q : Msg) (src home code : Nat) :
    (ackLocal t q src home code).fabric.packets = t.fabric.packets ++
      [let a := { innerMsg s (dieOfCore src) 0 code true (.localAck src home) with req := q.req, mark := q.mark, epoch := q.epoch }
       packetOf (coreStop s home) (coreStop s src) (.msg a) a] := by
  have hinner : innerMsg t (dieOfCore src) 0 code true (.localAck src home) = innerMsg s (dieOfCore src) 0 code true (.localAck src home) := by
    unfold innerMsg
    rw [hchip]
  have hstop (k : Nat) : coreStop t k = coreStop s k := by
    unfold coreStop siteOf
    rw [hs]
  unfold ackLocal
  rw [hinner]
  show t.fabric.packets ++ [packetOf (coreStop t home) (coreStop t src) _ _] = _
  rw [hstop, hstop]

/-! ### Arrivals -/

/-- A milestone that has been replaced, before the arrival is answered. -/
theorem ackLocal_putMile {idx home : Nat} {s : State} (msg : Msg) (ms : Nat) (m : Mile) (src : Nat) :
    let ack := { innerMsg s (dieOfCore src) 0 0 true (.localAck src home) with req := msg.req, mark := msg.mark, epoch := msg.epoch }
    let t := ackLocal (putMile (dropMsg s idx) home ms m) msg src home 0
    mileOf (getCore t home) ms = m ∧
    t.fabric.packets = s.fabric.packets ++ [packetOf (coreStop s home) (coreStop s src) (.msg ack) ack] := by
  have hat := AtCore.putMile (dropMsg s idx) home ms m
  have hmile := mileOf_putMile (dropMsg s idx) home ms m
  generalize putMile (dropMsg s idx) home ms m = u at hat hmile ⊢
  refine ⟨hmile, ?_⟩
  rw [ackLocal_packets (s := s) (hat.get (·.signpost) fun _ => rfl) hat.chip, hat.get (·.fabric) fun _ => rfl]
  rfl

/-- An arrival that fills the round: the round completes before the arrival is answered. -/
theorem ackLocal_completeRound {idx home ms c : Nat} {s : State} (msg : Msg) {m : Mile} (src : Nat)
    (hc : activeCtx s home = some c) (hdue : roundDue m = true) :
    let ack := { innerMsg s (dieOfCore src) 0 0 true (.localAck src home) with req := msg.req, mark := msg.mark, epoch := msg.epoch }
    let t := ackLocal (completeRound (putMile (dropMsg s idx) home ms m) home ms) msg src home 0
    mileOf (getCore t home) ms = completedMile m ∧
    t.fabric.packets = s.fabric.packets ++ (getCtx s c).cores.map (releasePacket s home m.relMs) ++
      [packetOf (coreStop s home) (coreStop s src) (.msg ack) ack] := by
  have hat := AtCore.putMile (dropMsg s idx) home ms m
  have hmile := mileOf_putMile (dropMsg s idx) home ms m
  have hctx : (getCore (putMile (dropMsg s idx) home ms m) home).ctx = (getCore s home).ctx := by
    rw [getCore_putMile]
    rfl
  generalize putMile (dropMsg s idx) home ms m = u at hat hmile hctx ⊢
  have hctxs : u.ctxs = s.ctxs := hat.get (·.ctxs) fun _ => rfl
  obtain ⟨hdone, hpackets, -, hsign, hchip, -⟩ :=
    completeRound_due (s := u) (core := home) (ms := ms) ((activeCtx_congr hctx hctxs).trans hc) (by rw [hmile]; exact hdue)
  generalize completeRound u home ms = v at hdone hpackets hsign hchip ⊢
  have hmap : (getCtx u c).cores.map (releasePacket u home m.relMs) = (getCtx s c).cores.map (releasePacket s home m.relMs) := by
    have hcx : getCtx u c = getCtx s c := by rw [getCtx, hctxs]; rfl
    rw [hcx]
    exact List.map_congr_left fun i _ => releasePacket_congr (hat.get (·.signpost) fun _ => rfl) hat.chip ..
  refine ⟨hdone.trans (congrArg completedMile hmile), ?_⟩
  rw [ackLocal_packets (s := s) (hsign.trans (hat.get (·.signpost) fun _ => rfl)) (hchip.trans hat.chip), hpackets, hmile, hmap,
    hat.get (·.fabric) fun _ => rfl]
  rfl

/-- What a barrier arrival does once the round that is due has completed. -/
def barrierArrived (t : State) (msg : Msg) (src home ms r : Nat) : State :=
  let m := mileOf (getCore t home) ms
  let gen := m.gen.toNat % 65536
  let last := lastWord t src 5
  if !msgReach t msg home 5 then ackLocal t msg src home Code.fenced.num
  else if !m.barrier then ackLocal t msg src home Code.wrongState.num
  else if r == gen then
    ackLocal (completeRound (putMile t home ms { m with value := m.value + 1, last := last }) home ms) msg src home 0
  else if r == (gen + 1) % 65536 && m.gen.toNat / 65536 < 65535 then
    ackLocal (putMile t home ms { m with gen := m.gen + 0x10000#32, last := last }) msg src home 0
  else ackLocal t msg src home Code.sequence.num

theorem exec_barrierArrival {idx src home ms r : Nat} {msg : Msg} {s : State} (hm : s.net[idx]? = some msg)
    (hb : msg.body = .arrive src home ms r) (hmov : (getPage s (pgCore home)).moving = false) :
    exec (.barrierArrival idx) s = .next (barrierArrived (completeRound (dropMsg s idx) home ms) msg src home ms r) := by
  show execBarrierArrival idx s = _
  simp only [execBarrierArrival, hm, hb, hmov, Bool.false_eq_true, if_false]
  rfl

section Arrived
variable {t : State} {msg : Msg} {src home ms r : Nat}

theorem barrierArrived_fenced (h : msgReach t msg home 5 = false) :
    barrierArrived t msg src home ms r = ackLocal t msg src home Code.fenced.num := by
  simp [barrierArrived, h]

variable (h : msgReach t msg home 5 = true)
include h

theorem barrierArrived_count (hbar : (mileOf (getCore t home) ms).barrier = false) :
    barrierArrived t msg src home ms r = ackLocal t msg src home Code.wrongState.num := by
  simp [barrierArrived, h, hbar]

variable (hbar : (mileOf (getCore t home) ms).barrier = true)
include hbar

theorem barrierArrived_counted (hr : r = (mileOf (getCore t home) ms).gen.toNat % 65536) :
    barrierArrived t msg src home ms r = ackLocal (completeRound (putMile t home ms { mileOf (getCore t home) ms with
      value := (mileOf (getCore t home) ms).value + 1, last := lastWord t src 5 }) home ms) msg src home 0 := by
  simp [barrierArrived, h, hbar, hr]

theorem barrierArrived_pending (hne : r ≠ (mileOf (getCore t home) ms).gen.toNat % 65536)
    (hr : r = ((mileOf (getCore t home) ms).gen.toNat % 65536 + 1) % 65536) (hroom : (mileOf (getCore t home) ms).gen.toNat / 65536 < 65535) :
    barrierArrived t msg src home ms r = ackLocal (putMile t home ms { mileOf (getCore t home) ms with
      gen := (mileOf (getCore t home) ms).gen + 0x10000#32, last := lastWord t src 5 }) msg src home 0 := by
  unfold barrierArrived
  simp only [h, hbar, beq_eq_false_iff_ne.2 hne, beq_iff_eq.2 hr, decide_eq_true hroom, Bool.not_true, Bool.and_true, Bool.false_eq_true, if_false, if_true]

theorem barrierArrived_refused (hne : r ≠ (mileOf (getCore t home) ms).gen.toNat % 65536)
    (hr : r ≠ ((mileOf (getCore t home) ms).gen.toNat % 65536 + 1) % 65536 ∨ (mileOf (getCore t home) ms).gen.toNat / 65536 = 65535) :
    barrierArrived t msg src home ms r = ackLocal t msg src home Code.sequence.num := by
  have hno : (r == ((mileOf (getCore t home) ms).gen.toNat % 65536 + 1) % 65536 &&
      decide ((mileOf (getCore t home) ms).gen.toNat / 65536 < 65535)) = false := by
    rcases hr with hr | hr
    · rw [beq_eq_false_iff_ne.2 hr, Bool.false_and]
    · rw [hr]
      exact Bool.and_false _
  unfold barrierArrived
  simp only [h, hbar, beq_eq_false_iff_ne.2 hne, hno, Bool.not_true, Bool.false_eq_true, if_false]

end Arrived

/-- Settles O39. -/
theorem barriers : Obligations.Barriers := by
  intro idx msg src home core ms r k b s releases
  refine ⟨fun hm hb => ⟨fun hmov => ?_, fun hmov => ?arrival⟩, ?round, fun hm hb => ⟨fun hmov => ?_, fun hmov => ?release⟩⟩
  · show execBarrierArrival idx s = _
    simp only [execBarrierArrival, hm, hb, hmov, if_true]
  case arrival =>
    have hexec := exec_barrierArrival hm hb hmov
    intro m g v due ack acked quiet
    refine ⟨fun _ => ⟨fun hreach => ?_, fun hreach hbar => ⟨fun hr => ?_, fun hne hr hroom => ?_, fun hne hr => ?_⟩⟩, fun hq => ?_, fun hq hreach => ?_⟩
    · rw [hexec, barrierArrived_fenced hreach]
    · rw [hexec, barrierArrived_counted hreach hbar hr]
    · rw [hexec, barrierArrived_pending hreach hbar hne hr hroom]
    · rw [hexec, barrierArrived_refused hreach hbar hne hr]
    · intro hreach
      rw [hexec, completeRound_quiet (s := dropMsg s idx) hq, barrierArrived_fenced (t := dropMsg s idx) hreach]
    · have hreach' : msgReach (dropMsg s idx) msg home 5 = true := hreach
      rw [completeRound_quiet (s := dropMsg s idx) hq] at hexec
      have hcounted (hbar : m.barrier = true) (hr : r = g % 65536) : exec (.barrierArrival idx) s = .next (ackLocal
          (completeRound (putMile (dropMsg s idx) home ms { m with value := m.value + 1, last := lastWord s src 5 }) home ms) msg src home 0) :=
        hexec.trans (congrArg Host.Outcome.next (barrierArrived_counted hreach' hbar hr))
      refine ⟨fun hbar => ?_, fun hbar hr hno => ⟨_, hcounted hbar hr, ?_⟩, fun c hbar hr hdue hc => ⟨_, hcounted hbar hr, ?_⟩,
        fun hbar hr hroom => ?_, fun hbar hne hr => ?_⟩
      · rw [hexec, barrierArrived_count hreach' hbar]
      · rw [completeRound_quiet]
        · exact ackLocal_putMile ..
        · rw [mileOf_putMile]
          rcases hno with hno | hno
          · right
            show (m.barrier && decide (v / 65536 ≤ v % 65536)) = false
            rw [decide_eq_false hno, Bool.and_false]
          · left
            refine (activeCtx_congr (s := s) ?_ ((AtCore.putMile (dropMsg s idx) home ms _).get (·.ctxs) fun _ => rfl)).trans hno
            rw [getCore_putMile]
            rfl
      · refine ackLocal_completeRound (m := { m with value := m.value + 1, last := lastWord s src 5 }) msg src hc ?_
        show (m.barrier && decide (v / 65536 ≤ v % 65536)) = true
        rw [hbar, decide_eq_true hdue]
        rfl
      · refine ⟨_, hexec.trans (congrArg Host.Outcome.next (barrierArrived_pending hreach' hbar ?_ hr hroom)), ackLocal_putMile ..⟩
        rw [hr]
        show (g % 65536 + 1) % 65536 ≠ g % 65536
        omega
      · exact hexec.trans (congrArg Host.Outcome.next (barrierArrived_refused hreach' hbar hne hr))
  case round =>
    intro m v
    refine ⟨fun c hc hbar hdue => ⟨_, rfl, ?_⟩, fun hno => congrArg Host.Outcome.next (completeRound_quiet (.inr ?_))⟩
    · obtain ⟨hmile, hpackets, hnet, -⟩ := completeRound_due (s := s) (core := k) (ms := b) hc (by
        show (m.barrier && decide (v / 65536 ≤ v % 65536)) = true
        rw [hbar, decide_eq_true hdue]
        rfl)
      exact ⟨hmile, hpackets, hnet⟩
    · show (m.barrier && decide (v / 65536 ≤ v % 65536)) = false
      rcases hno with hno | hno
      · rw [hno, Bool.false_and]
      · rw [decide_eq_false (Nat.not_le.2 hno), Bool.and_false]
  · show execBarrierReleaseArrival idx s = _
    simp only [execBarrierReleaseArrival, hm, hb, hmov, if_true]
  case release =>
    have hexec : exec (.barrierReleaseArrival idx) s = .next (
        if (getCore s core).ctx.isNone || !msgReach s msg core 5 then dropMsg s idx
        else
          let r := signalMs (dropMsg s idx) core ms 1 (lastWord s home 5)
          if r.2 then msProgress r.1 core else coreFault r.1 home 5 Code.wrongState.num false 0 core 0) := by
      show execBarrierReleaseArrival idx s = _
      simp only [execBarrierReleaseArrival, hm, hb, hmov, Bool.false_eq_true, if_false]
      rfl
    have hgoes (hc : (getCore s core).ctx.isSome = true) (hreach : msgReach s msg core 5 = true) :
        ((getCore s core).ctx.isNone || !msgReach s msg core 5) = false := by
      rw [hreach, Option.isNone_eq_false_iff.2 hc]
      rfl
    have happlied (hc : (getCore s core).ctx.isSome = true) (hreach : msgReach s msg core 5 = true)
        (hbar : (mileOf (getCore s core) ms).barrier = false) : exec (.barrierReleaseArrival idx) s =
          .next (msProgress (signalMs (dropMsg s idx) core ms 1 (lastWord s home 5)).1 core) := by
      rw [hexec, hgoes hc hreach]
      simp only [signalMs_applied (s := dropMsg s idx) 1 (lastWord s home 5) hbar, Bool.false_eq_true, if_false, if_true]
    refine ⟨fun h => ?_, fun hc hreach hbar => ?_, happlied, fun hc hreach hbar hnone => ⟨_, happlied hc hreach hbar, ?_⟩⟩
    · rw [hexec, if_pos]
      rcases h with h | h
      · simp [h]
      · simp [h]
    · rw [hexec, hgoes hc hreach]
      simp only [signalMs_barrier (s := dropMsg s idx) 1 (lastWord s home 5) hbar, Bool.false_eq_true, if_false]
    · rw [signalMs_outside (s := dropMsg s idx) 1 (lastWord s home 5) hbar hnone]
      dsimp only
      rw [mileOf_putMile]
      exact ⟨rfl, rfl, (AtCore.putMile (dropMsg s idx) core ms _).get (·.net) fun _ => rfl⟩

end Sys2Proof.Machine
end

section
/-!
PROOFS. Engine faults, saves and replays of a context (R167 to R173, R356 to R361).
-/
namespace Sys2Proof.Machine

/-- A fold of steps that each set a place to a value, and that none takes away again, leaves it at every place of the list. -/
theorem foldl_sets {β : Type} {f : State → Nat → State} {read : State → Nat → β} {v : β} (hself : ∀ s k, read (f s k) k = v)
    (hkeep : ∀ s k j, read s j = v → read (f s k) j = v) {l : List Nat} {j : Nat} (hj : j ∈ l) (s : State) :
    read (l.foldl f s) j = v := by
  have hstay (l : List Nat) (s : State) (h : read s j = v) : read (l.foldl f s) j = v := by
    induction l generalizing s with
    | nil => exact h
    | cons k l ih => exact ih _ (hkeep s k j h)
  induction l generalizing s with
  | nil => cases hj
  | cons k l ih =>
    rcases List.mem_cons.1 hj with rfl | hj
    · exact hstay l _ (hself s j)
    · exact ih hj _

/-! ### A context that enters FAULTED -/

section Enters
variable (s : State) (c : Nat)

theorem completePost_traffic (k : Nat) (r : PostRef) (code arg1 : Nat) : Traffic s (completePost s k r code arg1) := by
  unfold completePost
  exact .ite (.refl s) (queueNotice_traffic ..)

theorem completePreempt_ctx (code arg1 : Nat) :
    getCtx (completePreempt s c code arg1) c = { getCtx s c with preemptPost := none } := by
  unfold completePreempt
  split
  · rename_i h
    rw [← h]
  · rename_i r _
    rw [getCtx, trafficPart (completePost_traffic (modCtx s c _) c r code arg1) (·.ctxs) fun _ => rfl]
    exact getCtx_setCtx ..

theorem completeRun_ctx (code arg1 : Nat) : getCtx (completeRun s c code arg1) c = { getCtx s c with runPost := none } := by
  unfold completeRun
  split
  · rename_i h
    rw [← h]
  · rename_i r _
    rw [getCtx, trafficPart (completePost_traffic (modCtx s c _) c r code arg1) (·.ctxs) fun _ => rfl]
    exact getCtx_setCtx ..

/-- The state without what a move's end and a stop change. -/
def uncorrectedAt (s : State) (p : Nat) : Nat := (getPage s p).errUncorrected

def frAt (s : State) (k : Nat) : FaultRec := (getCore s k).fr

theorem abandonMoves_uncorrected (l : List Nat) : Same uncorrectedAt s (abandonMoves s l) := by
  unfold abandonMoves
  extract_lets gone src u
  refine Same.trans (t := u) rfl (Same.foldl (fun t m _ => ?_) u)
  refine funext fun p => ?_
  show (look (store t.pages _ _) p {}).errUncorrected = (look t.pages p {}).errUncorrected
  by_cases h : p = pgCore m.core
  · rw [h, look_store_self]
    rfl
  · rw [look_store_of_ne _ _ _ h]

theorem fr_modCore (k : Nat) {f : Core → Core} (h : ∀ x, (f x).fr = x.fr) : Same frAt s (modCore s k f) := by
  refine funext fun j => ?_
  unfold frAt
  by_cases hj : j = k
  · rw [hj, getCore_modCore, h]
  · rw [getCore_modCore_of_ne _ _ hj]

theorem stopCores_fr (l : List Nat) : Same frAt s (stopCores s l) := by
  refine Same.foldl (f := stopCore) (fun t k _ => ?_) s
  unfold stopCore
  extract_lets n u
  exact Same.trans (t := u) (.ite rfl rfl) (fr_modCore u k fun _ => rfl)

theorem stopCores_pages (l : List Nat) : (stopCores s l).pages = s.pages := by
  refine Same.foldl (view := fun s : State => s.pages) (f := stopCore) (fun t k _ => ?_) s
  unfold stopCore
  dsimp only
  split <;> rfl

theorem uncorrected_of_traffic {s t : State} (h : Traffic s t) : Same uncorrectedAt s t :=
  funext fun p => trafficPage h p (·.errUncorrected) fun _ => rfl

theorem completePreempt_uncorrected (code arg1 : Nat) : Same uncorrectedAt s (completePreempt s c code arg1) := by
  unfold completePreempt
  split
  · rfl
  · exact Same.trans (t := modCtx s c _) rfl (uncorrected_of_traffic (completePost_traffic ..))

theorem traceEvent_uncorrected (source target ctx ms part : Nat) (payload : List Nat) :
    Same uncorrectedAt s (traceEvent s source target ctx ms part payload) := by
  refine Same.foldl (fun t i _ => ?_) s
  extract_lets x u
  refine .ite (.ite (Same.trans (t := u) rfl ?_) rfl) (.refl t)
  unfold tracePush
  exact .ite (Same.trans (t := setTrace u i _) rfl (uncorrected_of_traffic (setReg_traffic ..))) rfl

/-- A fault record: taken by an empty one, noted as an overflow by a full one. -/
theorem recordFault_records (core kind eng code : Nat) (ctx : Option Nat) (pc detail addr : Nat) :
    let t := recordFault s core kind eng code ctx pc detail addr
    t.ctxs = s.ctxs ∧
    ((getCore s core).fr.valid = false → (getCore t core).fr =
      { valid := true, overflow := false, engine := eng, code := code, ctx := ctx.getD 0, ctxNamed := ctx.isSome,
        kind := kind, pc := pc, detail := detail, addr := addr, time := s.odometer }) ∧
    ((getCore s core).fr.valid = true → (getCore t core).fr = { (getCore s core).fr with overflow := true }) ∧
    Same uncorrectedAt s t := by
  refine ⟨(recordFault_faultKeeps s core core kind eng code ctx pc detail addr).2, ?_⟩
  unfold recordFault
  extract_lets x src f u v
  cases hfr : x.fr.valid
  case true =>
    rw [if_pos rfl]
    refine ⟨nofun, fun _ => ?_, rfl⟩
    rw [getCore_setCore]
  case false =>
    rw [if_neg Bool.false_ne_true]
    have hv : Traffic u v := raise_traffic ..
    refine ⟨fun _ => ?_, nofun, ((Same.trans (t := u) rfl (uncorrected_of_traffic hv)).trans (traceEvent_uncorrected ..))⟩
    rw [getCore_traceEvent, getCore, trafficPart hv (·.cores) fun _ => rfl]
    show (getCore (setCore s core _) core).fr = _
    rw [getCore_setCore]

/-- A RUNNING or SAVING context that enters FAULTED: its fault is counted, its cores stop, and no fault record changes. -/
theorem enterFaulted_ends {s : State} {c : Nat} (code k : Nat) (h : (getCtx s c).state = .running ∨ (getCtx s c).state = .saving) :
    let t := enterFaulted s c code k
    getCtx t c = { getCtx s c with preemptPost := none, state := .faulted, saving := none, faults := (getCtx s c).faults + 1,
                                   faultCode := code, faultCore := k, replay := 1, stallAt := none } ∧
    (∀ j ∈ (getCtx s c).cores, (getCore t j).runState = 5) ∧ Same frAt s t ∧ Same uncorrectedAt s t := by
  have hst : ((getCtx s c).state == .running || (getCtx s c).state == .saving) = true := by
    rcases h with h | h
    · rw [h]
      rfl
    · rw [h]
      rfl
  intro t
  have ht : t = enterFaulted s c code k := rfl
  clear_value t
  subst ht
  unfold enterFaulted
  extract_lets x u v w
  rw [if_pos hst]
  have hu : Same uncorrectedAt s u := completePreempt_uncorrected ..
  have hmoves : Same coresAndCtxs v (abandonMoves v x.cores) := abandonMoves_cores ..
  have hround : Traffic (stopCores (abandonMoves v x.cores) x.cores) w := abortRounds_traffic ..
  have hctx : getCtx v c = _ := getCtx_setCtx ..
  have hwx : w.ctxs = v.ctxs := (trafficPart hround (·.ctxs) fun _ => rfl).trans
    ((stopCores_ctxs ..).trans (hmoves.forget (view' := fun s => s.ctxs) Prod.snd fun _ => rfl))
  have hfr : Same frAt s w := by
    refine Same.trans (t := abandonMoves v x.cores) ?_ ((stopCores_fr _ x.cores).trans ?_)
    · have hkept : (abandonMoves v x.cores).cores = v.cores := hmoves.forget (view' := fun s => s.cores) Prod.fst fun _ => rfl
      have hcores : (abandonMoves v x.cores).cores = s.cores := hkept.trans (completePreempt_cores ..)
      exact funext fun j => by rw [frAt, getCore, hcores, frAt, getCore]
    · exact funext fun j => by rw [frAt, getCore, trafficPart hround (·.cores) fun _ => rfl, frAt, getCore]
  have hunc : Same uncorrectedAt s w := by
    refine (hu.trans (t := u) (abandonMoves_uncorrected v x.cores)).trans ((Same.trans ?_ (uncorrected_of_traffic hround)))
    exact funext fun p => by rw [uncorrectedAt, getPage, stopCores_pages, uncorrectedAt, getPage]
  refine ⟨?_, fun j hj => ?_, hfr.trans ?_, hunc.trans ?_⟩
  · rw [getCtx, ctxs_foldl_modCore, hwx]
    refine hctx.trans ?_
    rw [show getCtx u c = _ from completePreempt_ctx ..]
  · refine foldl_sets (read := fun s j => (getCore s j).runState) (fun s k => ?_) (fun s k j h => ?_) hj w
    · rw [getCore_modCore]
      rfl
    · by_cases hjk : j = k
      · rw [hjk, getCore_modCore]
        rfl
      · rw [getCore_modCore_of_ne _ _ hjk]
        exact h
  · refine Same.foldl (fun t j _ => ?_) w
    exact fr_modCore t j fun _ => rfl
  · refine Same.foldl (fun t j _ => ?_) w
    rfl

end Enters

/-- An engine fault of a core of a RUNNING or SAVING context, with the fault record as it was empty or full. -/
theorem coreFault_records {s : State} {core c : Nat} (eng code : Nat) (hw : Bool) (pc detail addr : Nat)
    (hc : (getCore s core).ctx = some c) (h : (getCtx s c).state = .running ∨ (getCtx s c).state = .saving) :
    let t := coreFault s core eng code hw pc detail addr
    ((getCtx t c).state = .faulted ∧ (getCtx t c).faults = (getCtx s c).faults + 1 ∧ (getCtx t c).faultCode = code) ∧
    (∀ j ∈ (getCtx s c).cores, (getCore t j).runState = 5) ∧
    ((getCore s core).fr.valid = false → (getCore t core).fr =
      { valid := true, overflow := false, engine := eng, code := code, ctx := c, ctxNamed := true, kind := 2, pc := pc,
        detail := detail, addr := addr, time := s.odometer }) ∧
    ((getCore s core).fr.valid = true → (getCore t core).fr = { (getCore s core).fr with overflow := true }) ∧
    Same uncorrectedAt s t := by
  intro t
  obtain ⟨hctxs, hempty, hfull, hunc⟩ := recordFault_records s core 2 eng code (some c) pc detail addr
  have ht : t = (let u := recordFault s core 2 eng code (some c) pc detail addr
      enterFaulted (if hw then noteHw (chargeSite u (siteOf u core)) c core else u) c code core) := by
    simp only [t, coreFault, hc]
  clear_value t
  subst ht
  generalize recordFault s core 2 eng code (some c) pc detail addr = u at hctxs hempty hfull hunc ⊢
  dsimp only
  have hv (v : State) (he : v = if hw then noteHw (chargeSite u (siteOf u core)) c core else u) :
      getCore v core = getCore u core ∧ Same uncorrectedAt u v ∧ ∃ hwCores, getCtx v c = { getCtx u c with hwCores := hwCores } := by
    rw [he]
    split
    · exact ⟨rfl, rfl, _, getCtx_setCtx ..⟩
    · exact ⟨rfl, rfl, _, rfl⟩
  generalize (if hw then noteHw (chargeSite u (siteOf u core)) c core else u) = v at hv ⊢
  obtain ⟨hcore, hvunc, hwCores, hctx⟩ := hv v rfl
  have hu : getCtx u c = getCtx s c := by rw [getCtx, hctxs, getCtx]
  rw [hu] at hctx
  obtain ⟨hend, hrun, hfr, hlast⟩ := enterFaulted_ends (s := v) (c := c) code core (by rw [hctx]; exact h)
  have hrec : (getCore (enterFaulted v c code core) core).fr = (getCore u core).fr := (congrFun hfr core).trans (by rw [frAt, hcore])
  refine ⟨?_, ?_, fun he => hrec.trans (hempty he), fun hf => hrec.trans (hfull hf), (hunc.trans hvunc).trans hlast⟩
  · rw [hend, hctx]
    exact ⟨rfl, rfl, rfl⟩
  · rw [hctx] at hrun
    exact hrun

/-! ### Saves -/

section Saves
variable (s : State) (c : Nat)

theorem writeHeader_traffic (x : Ctx) (base : Nat) (l : List Byte) : Traffic s (writeHeader s x base l).1 := by
  unfold writeHeader
  exact Same.trans (t := (writeRangeAt s (headDie x) x.part base l).1) (writeRangeAt_traffic ..) rfl

/-- The state without what a completed image changes. -/
def sansImage (s : State) : State := { s with cores := [], ctxs := [], replayLog := [], kerbs := [] }

theorem foldl_modCore_image (l : List Nat) (f : Core → Core) : Same sansImage s (l.foldl (fun s k => modCore s k f) s) := by
  refine Same.foldl (fun t k _ => ?_) s
  rfl

/-- A completed image clears the context's faults and keeps its cores, state and posts. -/
theorem imageReleases_ctx : Same sansImage s (imageReleases s c) ∧
    ∃ seq lists, getCtx (imageReleases s c) c =
      { getCtx s c with faults := 0, saveSeq := seq, imageAt := s.odometer, past := [], lists := lists } := by
  unfold imageReleases
  extract_lets u seq v w x
  have hv : Same sansImage u v := foldl_modCore_image ..
  have hw : Same sansImage v w := rfl
  refine ⟨(Same.trans (t := u) rfl hv).trans (hw.trans rfl), BitVec.ofNat 32 seq,
    (getCtx v c).lists.map (fun e => (e.1, { e.2 with saved := e.2.pos })), ?_⟩
  show getCtx w c = _
  have hctx : getCtx v c = getCtx s c := by
    rw [getCtx, ctxs_foldl_modCore, getCtx]
  have hodo : v.odometer = s.odometer := hv.get (·.odometer) fun _ => rfl
  rw [show getCtx w c = _ from getCtx_setCtx .., hctx, hodo]

theorem vacate_ctxs : (vacate s c).ctxs = s.ctxs := by
  refine Same.foldl (view := fun s : State => s.ctxs) (f := vacateCore) (fun t k _ => ?_) s
  rfl

theorem vacate_image : Same sansImage s (vacate s c) := by
  refine Same.foldl (f := vacateCore) (fun t k _ => ?_) s
  rfl

/-- The cores of a context that leaves them run none. -/
theorem vacate_free {k : Nat} (hk : k ∈ (getCtx s c).cores) : (getCore (vacate s c) k).ctx = none := by
  refine foldl_sets (read := fun s k => (getCore s k).ctx) (fun s k => ?_) (fun s k j h => ?_) hk s
  · rw [vacateCore, getCore_modCore]
  · by_cases hj : j = k
    · rw [hj, vacateCore, getCore_modCore]
    · rw [vacateCore, getCore_modCore_of_ne _ _ hj]
      exact h

/-- A context that leaves its cores: IDLE, its posts completed. -/
theorem leaveIdle_ends : getCtx (leaveIdle s c) c =
      { getCtx s c with state := .idle, saving := none, runPost := none, preemptPost := none } ∧
    ∀ k ∈ (getCtx s c).cores, (getCore (leaveIdle s c) k).ctx = none := by
  unfold leaveIdle
  extract_lets u
  have hu : getCtx u c = { getCtx s c with state := .idle, saving := none } := by
    rw [show getCtx u c = _ from getCtx_setCtx .., show getCtx (vacate s c) c = getCtx s c by rw [getCtx, vacate_ctxs, getCtx]]
  refine ⟨by rw [completePreempt_ctx, completeRun_ctx, hu], fun k hk => ?_⟩
  rw [getCore, completePreempt_cores, show look (completeRun u c 0 (2 ^ 16)).cores k {} = getCore u k from getCore_completeRun ..]
  exact vacate_free s c hk

/-- A test that starts joins the tests that run. -/
theorem startTest_joins (n why core : Nat) : (startTest s n why core).ctxs = s.ctxs ∧
    (startTest s n why core).hide.tests = s.hide.tests ++ [{ site := n, why := why, core := core, start := s.odometer }] := by
  unfold startTest
  extract_lets u src
  have hu : Same (fun s => (s.ctxs, s.odometer, s.hide.tests)) s u := by
    refine Same.trans (t := modSite (dropShadowsOn s n) n fun x => { x with testing := true }) rfl ?_
    exact .ite rfl (.refl _)
  have htests : u.hide.tests = s.hide.tests := congrArg (fun v => v.2.2) hu
  have hodo : u.odometer = s.odometer := congrArg (fun v => v.2.1) hu
  refine ⟨congrArg Prod.fst hu, ?_⟩
  rw [← htests, ← hodo]

end Saves

/-! ### The commands of a save -/

/-- What a context does once its image is complete. -/
def imageDone (s : State) (c : Nat) (x : Ctx) (v : Saving) : State :=
  let s := imageReleases s c
  if v.after == 3 then
    completePreempt (enterHalted s c v.haltCode v.haltCore) c Code.wrongState.num 0
  else if x.preemptPost.isSome || v.after == 0 || s.hide.draining then leaveIdle s c
  else if v.after == 4 then
    startTest (modCtx (vacate s c) c (fun x => { x with saving := some { v with after := 5 } })) (siteOf s v.haltCore) 4 v.haltCore
  else runOn s c

/-- What follows the write of an image's header. -/
def headerWritten (c : Nat) (x : Ctx) (v : Saving) (w : State × Option Code) : State :=
  let (s, f) := w
  match f with
  | some f => imageFault s c f
  | none => imageDone s c x v

theorem headerWritten_failed {c : Nat} {x : Ctx} {v : Saving} {w : State × Option Code} {f : Code} (h : w.2 = some f) :
    headerWritten c x v w = imageFault w.1 c f := by
  obtain ⟨u, g⟩ := w
  cases h
  rfl

theorem headerWritten_done {c : Nat} {x : Ctx} {v : Saving} {w : State × Option Code} (h : w.2 = none) :
    headerWritten c x v w = imageDone w.1 c x v := by
  obtain ⟨u, g⟩ := w
  cases h
  rfl

/-- A context whose header is due; the write of the header is not opened, for the sake of the kernel. -/
theorem exec_imageComplete_saving {s : State} {c : CtxId} {v : Saving} (hv : (getCtx s c).saving = some v) :
    exec (.imageComplete c) s = .next (
      if (getCtx s c).state != .saving || !v.phase2 || decide (5 ≤ v.after) || saveLate s (getCtx s c) v || !shadowsDone s c ||
        !imageReady s (getCtx s c) then s
      else headerWritten c (getCtx s c) v (writeHeader s (getCtx s c) (slotAt (getCtx s c) (freeImageSlot s c)) (newHeader s c v))) := by
  show execImageComplete c s = _
  unfold execImageComplete
  extract_lets x
  refine congrArg Host.Outcome.next ?_
  split
  · rename_i h
    rw [show x.saving = some v from hv] at h
    cases h
  · rename_i w h
    rw [show x.saving = some v from hv] at h
    cases h
    split
    · rfl
    · split
      rename_i u f heq
      rw [show writeHeader s (getCtx s c) (slotAt (getCtx s c) (freeImageSlot s c)) (newHeader s c v) = (u, f) from heq]
      cases f with
      | none => rfl
      | some f => rfl

section SaveCommands
variable {s : State} {c : CtxId} {v : Saving} (hv : (getCtx s c).saving = some v) (hst : (getCtx s c).state = .saving)
include hv hst

theorem exec_imageComplete (hp : v.phase2 = true) (hafter : v.after < 5) (hlate : saveLate s (getCtx s c) v = false)
    (hshadows : shadowsDone s c = true) (hready : imageReady s (getCtx s c) = true) :
    exec (.imageComplete c) s = .next (headerWritten c (getCtx s c) v
      (writeHeader s (getCtx s c) (slotAt (getCtx s c) (freeImageSlot s c)) (newHeader s c v))) := by
  have hsaving : ((getCtx s c).state != .saving) = false := by
    rw [hst]
    rfl
  rw [exec_imageComplete_saving hv, hready, hp, hshadows, hlate, hsaving, decide_eq_false (Nat.not_le.2 hafter)]
  exact congrArg Host.Outcome.next (if_neg Bool.false_ne_true)

omit hst in
theorem exec_imageComplete_waits (h : saveLate s (getCtx s c) v = true ∨ imageReady s (getCtx s c) = false) :
    exec (.imageComplete c) s = .next s := by
  rw [exec_imageComplete_saving hv]
  refine congrArg Host.Outcome.next (if_pos ?_)
  rcases h with h | h
  · simp [h]
  · simp [h]

omit hv hst in
theorem exec_preemptPhase1Done_waits (hready : imageReady s (getCtx s c) = false) : exec (.preemptPhase1Done c) s = .next s := by
  show execPreemptPhase1Done c s = _
  unfold execPreemptPhase1Done
  extract_lets x
  refine congrArg Host.Outcome.next ?_
  split
  · rfl
  · refine if_pos ?_
    rw [show imageReady s x = false from hready]
    exact Bool.or_true _

theorem exec_preemptPhase1Done (hp : v.phase2 = false) (hdone : phase1Done s c = true) (hready : imageReady s (getCtx s c) = true)
    {base : Nat} (hbase : base = slotAt (getCtx s c) (freeImageSlot s c)) {w : State × Option Code}
    (hw : writeRecords (writeHeader s (getCtx s c) base (List.replicate 0x20 0)) (getCtx s c) base = w) :
    exec (.preemptPhase1Done c) s = .next (
      match w.2 with
      | some f => imageFault w.1 c f
      | none => modCtx w.1 c (fun x => { x with saving := some { v with phase2 := true } })) := by
  have hgo : ((getCtx s c).state != .saving || v.phase2 || !phase1Done s c || !imageReady s (getCtx s c)) = false := by
    rw [hst, hp, hdone, hready]
    rfl
  subst hbase
  show execPreemptPhase1Done c s = _
  unfold execPreemptPhase1Done
  extract_lets x
  refine congrArg Host.Outcome.next ?_
  split
  · rename_i h
    rw [show x.saving = some v from hv] at h
    cases h
  · rename_i y h
    rw [show x.saving = some v from hv] at h
    cases h
    refine (if_neg (fun h => Bool.false_ne_true (hgo.symm.trans h))).trans ?_
    rename_i r _
    rw [show r = w from hw] <;> rfl

theorem exec_preemptOverrun (hafter : v.after < 5) :
    exec (.preemptOverrun c) s = .next (
      if v.phase2 then (if saveLate s (getCtx s c) v then enterFaulted s c Code.timedOut.num ((getCtx s c).cores.headD 0) else s)
      else if !passed s (v.start + v.waited) 60000 then s
      else
        let stuck := (getCtx s c).cores.filter (fun k => !coreStopped (getCore s k) && !awaitsAdd (getCore s k))
        if stuck.isEmpty && (getCtx s c).cores.any (fun k => awaitsAdd (getCore s k)) then s
        else stuck.foldl hangCore (enterFaulted s c Code.timedOut.num (stuck.headD ((getCtx s c).cores.headD 0)))) := by
  have hsaving : ((getCtx s c).state != .saving) = false := by
    rw [hst]
    rfl
  show execPreemptOverrun c s = _
  unfold execPreemptOverrun
  simp only [hv, hsaving, decide_eq_false (Nat.not_le.2 hafter), Bool.or_self, Bool.false_eq_true, if_false]
  rfl

end SaveCommands

section ImageDone
variable {s u : State} {c : Nat} {x : Ctx} {v : Saving} (hwrite : Traffic s u) (hx : getCtx s c = x)
include hwrite hx

/-- Where the releases of a complete image leave the context and the state. -/
theorem imageReleases_after : (imageReleases u c).hide = s.hide ∧ Same sansImage u (imageReleases u c) ∧
    ∃ seq lists, getCtx (imageReleases u c) c =
      { x with faults := 0, saveSeq := seq, imageAt := u.odometer, past := [], lists := lists } := by
  obtain ⟨himage, seq, lists, hrel⟩ := imageReleases_ctx u c
  have hctx : getCtx u c = x := by
    rw [getCtx, trafficPart hwrite (·.ctxs) fun _ => rfl]
    exact hx
  rw [hctx] at hrel
  exact ⟨(himage.get (·.hide) fun _ => rfl).trans (trafficPart hwrite (·.hide) fun _ => rfl), himage, seq, lists, hrel⟩

theorem imageDone_idle (h3 : v.after ≠ 3) (hleave : x.preemptPost.isSome = true ∨ v.after = 0 ∨ s.hide.draining = true) :
    let t := imageDone u c x v
    (getCtx t c).state = .idle ∧ (getCtx t c).saving = none ∧ (getCtx t c).faults = 0 ∧ (getCtx t c).runPost = none ∧
    (getCtx t c).preemptPost = none ∧ ∀ k, x.cores.contains k = true → (getCore t k).ctx = none := by
  obtain ⟨hhide, -, seq, lists, hrel⟩ := imageReleases_after hwrite hx
  have hcond : (x.preemptPost.isSome || v.after == 0 || s.hide.draining) = true := by
    rcases hleave with h | h | h
    · simp [h]
    · simp [h]
    · simp [h]
  unfold imageDone
  dsimp only
  rw [hhide, if_neg (by simpa using h3), if_pos hcond]
  obtain ⟨hidle, hfree⟩ := leaveIdle_ends (imageReleases u c) c
  rw [hrel] at hidle hfree
  rw [hidle]
  exact ⟨rfl, rfl, rfl, rfl, rfl, fun k hk => hfree k (List.contains_iff_mem.1 hk)⟩

theorem imageDone_tests (hst : x.state = .saving) (hnone : x.preemptPost = none) (hdr : s.hide.draining = false) (h4 : v.after = 4) :
    let t := imageDone u c x v
    (getCtx t c).saving = some { v with after := 5 } ∧ (getCtx t c).state = .saving ∧
    t.hide.tests = s.hide.tests ++ [{ site := siteOf s v.haltCore, why := 4, core := v.haltCore, start := s.odometer }] := by
  obtain ⟨hhide, himage, seq, lists, hrel⟩ := imageReleases_after hwrite hx
  have hdone : imageDone u c x v = startTest (modCtx (vacate (imageReleases u c) c) c
      (fun x => { x with saving := some { v with after := 5 } })) (siteOf (imageReleases u c) v.haltCore) 4 v.haltCore := by
    unfold imageDone
    simp only [hhide, hnone, hdr, h4, Option.isSome_none, Bool.or_self, Nat.reduceBEq, Bool.false_eq_true, if_false, if_true]
  have hsite : siteOf (imageReleases u c) v.haltCore = siteOf s v.haltCore := by
    unfold siteOf
    rw [himage.get (·.signpost) fun _ => rfl, trafficPart hwrite (·.signpost) fun _ => rfl]
  have hodo : (imageReleases u c).odometer = s.odometer :=
    (himage.get (·.odometer) fun _ => rfl).trans (trafficPart hwrite (·.odometer) fun _ => rfl)
  rw [hdone, hsite]
  generalize imageReleases u c = y at hhide hrel hodo ⊢
  have hvac : Same sansImage y (vacate y c) := vacate_image y c
  have hgone : getCtx (vacate y c) c = getCtx y c := by rw [getCtx, vacate_ctxs, getCtx]
  have hset : getCtx (modCtx (vacate y c) c fun x => { x with saving := some { v with after := 5 } }) c =
      { getCtx (vacate y c) c with saving := some { v with after := 5 } } := getCtx_setCtx ..
  have hvhide : (vacate y c).hide = s.hide := (hvac.get (·.hide) fun _ => rfl).trans hhide
  have hvodo : (vacate y c).odometer = s.odometer := (hvac.get (·.odometer) fun _ => rfl).trans hodo
  obtain ⟨hctxs, htests⟩ := startTest_joins (modCtx (vacate y c) c fun x => { x with saving := some { v with after := 5 } })
    (siteOf s v.haltCore) 4 v.haltCore
  dsimp only
  rw [getCtx, hctxs, htests]
  rw [getCtx] at hset
  rw [hset, hgone, hrel]
  refine ⟨rfl, hst, ?_⟩
  show (vacate y c).hide.tests ++ [{ site := _, why := 4, core := v.haltCore, start := (vacate y c).odometer }] = _
  rw [hvhide, hvodo]

theorem imageDone_runsOn (hnone : x.preemptPost = none) (hdr : s.hide.draining = false) (h12 : v.after = 1 ∨ v.after = 2) :
    imageDone u c x v = runOn (imageReleases u c) c := by
  have hhide := (imageReleases_after hwrite hx).1
  have h0 : (v.after == 0) = false := beq_eq_false_iff_ne.2 (by omega)
  have h3 : (v.after == 3) = false := beq_eq_false_iff_ne.2 (by omega)
  have h4 : (v.after == 4) = false := beq_eq_false_iff_ne.2 (by omega)
  unfold imageDone
  simp only [hhide, hnone, hdr, h0, h3, h4, Option.isSome_none, Bool.or_self, Bool.false_eq_true, if_false]

end ImageDone

theorem exec_replayStopped {s : State} {c : CtxId} (hst : (getCtx s c).state = .faulted) (hrep : (getCtx s c).replay = 1)
    (hdrain : s.hide.draining = false) (hon : s.power.state = .on) (hsettled : faultSettled s c = true) :
    exec (.replayStopped c) s = .next (
      if (getCtx s c).cores.any (fun k => !dieUp s (dieOfCore k)) then modCtx s c (fun x => { x with replay := 3 })
      else if (getCtx s c).cores.any (fun k => (coreSite s k).testing) then s
      else
        let new := (getCtx s c).hwCores.filter (fun k => !siteGoes s (siteOf s k))
        if !new.isEmpty then
          modCtx (new.foldl (fun s k => startTest (retestFirst s (dieOfCore k)) (siteOf s k) 2 k) s) c (fun x => { x with replay := 2 })
        else if (getCtx s c).hwCores.any (fun k => restarting s (dieOfCore k)) then (getCtx s c).hwCores.foldl markFailed s
        else replayNow ((getCtx s c).hwCores.foldl leaveFaulted s) c) := by
  refine congrArg Host.Outcome.next (show replayStep s c = _ from ?_)
  unfold replayStep
  simp only [hst, hrep, hdrain, hon, hsettled, bne_self_eq_false, Bool.not_true, Bool.or_self, Bool.false_eq_true, if_false]

/-- Settles O40. -/
theorem faultsAndSaves : Obligations.FaultsAndSaves := by
  refine ⟨fun core eng k g c s => ?fault, fun c v s => ?save⟩
  case fault =>
    intro y pc noted worked
    refine ⟨rfl, rfl, fun hc hst hmem hcorr hctl => ?run, fun hc => ⟨fun heng => ?_, fun heng => ?_, ?_⟩⟩
    case run =>
      have records {u : State} (hu : u.cores = s.cores) (hux : u.ctxs = s.ctxs) (hw : Bool) (d : Nat) :=
        coreFault_records (s := u) (core := core) (c := c) eng.val Code.checkFailed.num hw pc d 0
          (by rw [getCore, hu]; exact hc) (by rw [getCtx, hux]; exact hst)
      cases k with
      | logic =>
        refine ⟨coreFault s core eng Code.checkFailed.num (eng.val != 4) pc 0 0, ?_, ?_⟩
        · refine congrArg Host.Outcome.next (show engineFault s core eng (eng.val != 4) 0 = _ from ?_)
          unfold engineFault
          simp only [show (getCore s core).ctx = some c from hc]
          rfl
        · obtain ⟨⟨hfaulted, hcount, hcode⟩, hrun, hempty, hfull, -⟩ := records rfl rfl (eng.val != 4) 0
          refine ⟨hfaulted, hcount, hcode, fun j hj => hrun j (List.contains_iff_mem.1 hj), fun he => ?_, fun he _ => ?_, fun _ he => ?_,
            nofun, hfull⟩
          · rw [hempty he]
          · rw [hempty he]
          · cases he
      | tileStore g' =>
        refine ⟨coreFault (addUncorrected s (pgCore core) 1) core eng Code.checkFailed.num true pc g'.toNat 0, ?_, ?_⟩
        · refine congrArg Host.Outcome.next (show engineFault (addUncorrected s (pgCore core) 1) core eng true g'.toNat = _ from ?_)
          have hcu : (getCore (addUncorrected s (pgCore core) 1) core).ctx = some c := hc
          unfold engineFault
          simp only [hcu]
          rfl
        · obtain ⟨⟨hfaulted, hcount, hcode⟩, hrun, hempty, hfull, hunc⟩ := records (u := addUncorrected s (pgCore core) 1) rfl rfl true g'.toNat
          refine ⟨hfaulted, hcount, hcode, fun j hj => hrun j (List.contains_iff_mem.1 hj), fun he => ?_, nofun, fun he hg => ?_,
            fun _ => ?_, hfull⟩
          · rw [hempty he]
            rfl
          · cases hg
            rw [hempty he]
          · refine (congrFun hunc (pgCore core)).trans ?_
            rw [uncorrectedAt, addUncorrected, modPage_eq, getPage_setPage]
      | corrected g' => exact absurd rfl (hcorr g')
      | control => exact absurd rfl hctl
    · refine congrArg Host.Outcome.next (show engineFault s core eng (eng.val != 4) 0 = _ from ?_)
      have hval : (eng.val != 4) = false := by
        rw [heng]
        rfl
      unfold engineFault
      simp only [show (getCore s core).ctx = none from hc, hval, Bool.false_eq_true, if_false]
      rfl
    · refine congrArg Host.Outcome.next (show engineFault s core eng (eng.val != 4) 0 = _ from ?_)
      have hval : (eng.val != 4) = true := bne_iff_ne.2 fun h => heng (Fin.ext h)
      unfold engineFault
      simp only [show (getCore s core).ctx = none from hc, hval, if_true]
      rfl
    · intro u
      refine congrArg Host.Outcome.next (show engineFault u core eng true g.toNat = _ from ?_)
      have hu : (getCore u core).ctx = none := hc
      unfold engineFault
      simp only [hu, if_true]
      rfl
  case save =>
    intro x base
    have hstate (h : x.state = .saving) : (x.state != .saving) = false := by
      rw [h]
      rfl
    refine ⟨fun hv hst hready => ⟨?_, ?_⟩, fun hv hst hp hdone hready => ?phase1, fun hv hst hp hafter hshadows hready => ?image,
      fun hv hst hafter => ?overrun, fun hst hrep hdrain hon hsettled => ?replay⟩
    · exact exec_preemptPhase1Done_waits hready
    · exact exec_imageComplete_waits hv (.inr hready)
    case phase1 =>
      intro w
      have hexec := exec_preemptPhase1Done hv hst hp hdone hready rfl (w := w) rfl
      refine ⟨fun h => ?_, fun f h => ?_⟩
      · rw [hexec, h]
      · rw [hexec, h]
    case image =>
      intro w
      have hexec (hlate : saveLate s x v = false) := exec_imageComplete hv hst hp hafter hlate hshadows hready
      have hwrite : Traffic s w.1 := writeHeader_traffic ..
      have hdrain : w.1.hide = s.hide := trafficPart hwrite (·.hide) fun _ => rfl
      have hdone (hlate : saveLate s x v = false) (hf : w.2 = none) : exec (.imageComplete c) s = .next (imageDone w.1 c x v) :=
        (hexec hlate).trans (congrArg Host.Outcome.next (headerWritten_done hf))
      refine ⟨fun hlate => ?_, fun hlate => ⟨fun f hf => ?_, fun hf => ⟨fun h3 hleave => ?_, fun h3 => ?_, fun hnone hdr h4 => ?_,
        fun hnone hdr h12 => ?_⟩⟩⟩
      · exact exec_imageComplete_waits hv (.inl hlate)
      · exact (hexec hlate).trans (congrArg Host.Outcome.next (headerWritten_failed hf))
      · exact ⟨_, hdone hlate hf, imageDone_idle hwrite rfl h3 (hdrain ▸ hleave)⟩
      · rw [hdone hlate hf, imageDone, if_pos (by simp [h3])]
      · exact ⟨_, hdone hlate hf, imageDone_tests hwrite rfl hst hnone (hdrain ▸ hdr) h4⟩
      · rw [hdone hlate hf, imageDone_runsOn hwrite rfl hnone (hdrain ▸ hdr) h12]
    case overrun =>
      have hexec := exec_preemptOverrun hv hst hafter
      refine ⟨fun hp => ?_, fun hp hpass => ?_, fun hp hpass => ?_⟩
      · rw [hexec, hp]
        rfl
      · rw [hexec, hp, hpass]
        rfl
      · intro stuck
        rw [hp, hpass, Bool.not_true, if_neg Bool.false_ne_true, if_neg Bool.false_ne_true] at hexec
        refine ⟨fun hs hany => ?_, fun h => ?_⟩
        · rw [hexec, if_pos]
          rw [show x.cores.filter (fun k => !coreStopped (getCore s k) && !awaitsAdd (getCore s k)) = [] from hs, hany]
          rfl
        · rw [hexec, if_neg]
          intro hboth
          obtain ⟨he, hany⟩ := Bool.and_eq_true_iff.1 hboth
          rcases h with h | h
          · exact h (List.isEmpty_iff.1 he)
          · rw [h] at hany
            cases hany
    case replay =>
      have hexec := exec_replayStopped hst hrep hdrain hon hsettled
      have hdies (hup : x.cores.any (fun k => !dieUp s (dieOfCore k)) = false) : ¬ (getCtx s c).cores.any (fun k => !dieUp s (dieOfCore k)) = true :=
        fun h => Bool.false_ne_true (hup.symm.trans h)
      refine ⟨fun hdown => ?_, fun hup => ⟨fun htest => ?_, fun htest => ?_⟩⟩
      · rw [hexec, if_pos hdown]
      · rw [hexec, if_neg (hdies hup), if_pos htest]
      · rw [if_neg (hdies hup), if_neg (fun h => Bool.false_ne_true (htest.symm.trans h))] at hexec
        dsimp only at hexec
        refine ⟨fun hnone => ?_, ?_⟩
        · rw [hexec, show (getCtx s c).hwCores = [] from hnone]
          exact congrArg Host.Outcome.next ((if_neg Bool.false_ne_true).trans (if_neg Bool.false_ne_true))
        · intro new
          have hnew' : (getCtx s c).hwCores.filter (fun k => !siteGoes s (siteOf s k)) = new := rfl
          rw [hnew'] at hexec
          have hsome (h : new = []) : ¬ (!new.isEmpty) = true := by
            rw [h]
            exact Bool.false_ne_true
          refine ⟨fun hnew => ?_, fun hnew hre => ?_, fun hnew hre => ?_⟩
          · rw [hexec, if_pos]
            rw [List.isEmpty_eq_false_iff.2 hnew]
            rfl
          · rw [hexec, if_neg (hsome hnew), if_pos hre]
          · rw [hexec, if_neg (hsome hnew), if_neg (fun h => Bool.false_ne_true (hre.symm.trans h))]

end Sys2Proof.Machine
end

section
/-!
PROOFS. Kerbside lists: descriptors, triggers and pauses (R225, R226, R229, R240).
-/
namespace Sys2Proof.Machine

/-! ### Lists and places -/

/-- A map's entry at a key that was just stored, once every entry of the key has been changed. -/
theorem look_map_store {α : Type} (m : SMap α) (k : Nat) (v d : α) (f : α → α) :
    look ((store m k v).map (fun e => if e.1 == k then (e.1, f e.2) else e)) k d = f v := by
  induction m with
  | nil => simp [store, look]
  | cons e m ih =>
    unfold store
    by_cases h : k = e.1
    · simp [h, look]
    · by_cases hlt : k < e.1
      · simp [h, hlt, look]
      · simp only [h, hlt, if_false, List.map_cons, beq_eq_false_iff_ne.2 (Ne.symm h), Bool.false_eq_true, look, if_neg (Ne.symm h)]
        exact ih

section Lists
variable (s : State) (chan c slot : Nat) (p : KPos)

theorem getCtx_setKPos : getCtx (setKPos s chan c slot p) c =
    { getCtx s c with lists := store (getCtx s c).lists slot { getList s c slot with pos := store (getList s c slot).pos chan p } } :=
  getCtx_setCtx ..

theorem getList_setKPos : getList (setKPos s chan c slot p) c slot =
    { getList s c slot with pos := store (getList s c slot).pos chan p } := by
  unfold getList
  rw [getCtx_setKPos, look_store_self]
  rfl

theorem kPos_setKPos_of_ne {k : Nat} (h : k ≠ chan) : kPos (setKPos s chan c slot p) k c slot = kPos s k c slot := by
  rw [kPos, getList_setKPos]
  exact look_store_of_ne _ _ _ h

/-- A list whose place was just recorded is stopped. -/
theorem stopList_stopped : (getList (stopList (setKPos s chan c slot p) c slot) c slot).stopped = true := by
  unfold getList stopList
  rw [modCtx_eq, getCtx_setCtx, getCtx_setKPos]
  exact congrArg KList.stopped (look_map_store (getCtx s c).lists slot _ {} fun l => { l with stopped := true })

theorem beginSave_lists (v : Saving) : (getCtx (beginSave s c v) c).lists = (getCtx s c).lists := by
  unfold beginSave
  extract_lets x u
  have hu : getCtx u c = { x with state := .saving, saving := some { v with start := s.odometer }, stallAt := none } := by
    rw [getCtx, stopCores_ctxs]
    exact getCtx_setCtx ..
  split
  · rw [hu]
  · have hctxs : (x.cores.foldl abandonSaves u).ctxs = u.ctxs := by
      refine Same.foldl (view := fun s : State => s.ctxs) (f := abandonSaves) (fun t k _ => ?_) u
      unfold abandonSaves
      rfl
    rw [getCtx, hctxs, show look u.ctxs c {} = getCtx u c from rfl, hu]

theorem haltCtx_lists (code core : Nat) : (getCtx (haltCtx s c code core) c).lists = (getCtx s c).lists := by
  unfold haltCtx
  dsimp only
  split
  · exact beginSave_lists ..
  · split
    · rfl
    · rw [modCtx_eq, getCtx_setCtx]
  · rfl

/-- A program error stops the list. -/
theorem programError_stopped (code : Nat) : (getList (programError s chan c slot p code) c slot).stopped = true := by
  unfold programError
  extract_lets u v core
  have hv : (getList v c slot).stopped = true := stopList_stopped ..
  rw [getList, haltCtx_lists, getCtx, (recordFault_records v core 1 0xF code (some c) 0 0 0).1]
  exact hv

/-! ### Triggers -/

/-- An engine's share of the list waits for a trigger that has been reached (R226). -/
def trigDue (s : State) (c slot k : Nat) : Bool :=
  listRuns s k c slot && (kPos s k c slot).stage == 1 &&
    waitHolds (mileOf (getCore s (kTrigCore (kPos s k c slot).words)) (kTrigMs (kPos s k c slot).words)) 1 (nth (kPos s k c slot).words 2)

theorem trigDue_stopped {s : State} {c slot : Nat} (h : (getList s c slot).stopped = true) (k : Nat) : trigDue s c slot k = false := by
  unfold trigDue listRuns
  simp only [h, Bool.not_true, Bool.and_false, Bool.false_and]

/-- Another engine's place in the list, and its scoreboard and done list, do not bear on an engine's trigger. -/
theorem trigDue_setKPos {s u : State} {c slot chan k : Nat} (p : KPos) (hcores : u.cores = s.cores) (hhang : u.hang = s.hang)
    (hctxs : u.ctxs = s.ctxs) (h : k ≠ chan) : trigDue (setKPos u chan c slot p) c slot k = trigDue s c slot k := by
  have hctx : getCtx u c = getCtx s c := by rw [getCtx, hctxs, getCtx]
  have hlist : getList u c slot = getList s c slot := by rw [getList, hctx, getList]
  have hpos : kPos (setKPos u chan c slot p) k c slot = kPos s k c slot := by rw [kPos_setKPos_of_ne _ _ _ _ _ h, kPos, hlist, kPos]
  have hup : kerbUp (setKPos u chan c slot p) k = kerbUp s k := by
    unfold kerbUp dieUp roadblocked
    rw [show (setKPos u chan c slot p).hang = s.hang from hhang]
  have hcore (j : Nat) : getCore (setKPos u chan c slot p) j = getCore s j :=
    congrArg (fun m : SMap Core => look m j {}) hcores
  have hruns : listRuns (setKPos u chan c slot p) k c slot = listRuns s k c slot := by
    unfold listRuns
    rw [hpos, hup, getList_setKPos, getCtx_setKPos, hlist, hctx]
  unfold trigDue
  rw [hpos, hruns, hcore]

/-- A share that starts at one engine leaves the triggers of the others that were not reached. -/
theorem trigDue_startShare {k : Nat} (hk : k ≠ chan) (h : trigDue s c slot k = false) :
    trigDue (startShare s chan c slot p) c slot k = false := by
  unfold startShare
  extract_lets u x l same
  have hu : u.cores = s.cores ∧ u.hang = s.hang ∧ u.ctxs = s.ctxs := by
    simp only [u]
    split <;> exact ⟨rfl, rfl, rfl⟩
  obtain ⟨hcores, hhang, hctxs⟩ := hu
  have hset (y : Kerb) (q : KPos) : trigDue (setKPos (setKerb u chan y) chan c slot q) c slot k = false :=
    (trigDue_setKPos q hcores hhang hctxs hk).trans h
  split
  · exact hset ..
  · split
    · exact hset ..
    · split
      · exact trigDue_stopped (programError_stopped ..) k
      · exact hset ..

end Lists

/-- A fold in which no place has anything to do. -/
theorem foldl_idle {f : State → Nat → State} {l : List Nat} {u : State} (h : ∀ j ∈ l, f u j = u) : l.foldl f u = u := by
  induction l with
  | nil => rfl
  | cons j l ih =>
    rw [List.foldl_cons, h j (List.mem_cons_self ..)]
    exact ih fun k hk => h k (List.mem_cons_of_mem _ hk)

/-- A fold in which one place alone has something to do. -/
theorem foldl_only {f : State → Nat → State} {l : List Nat} (hl : l.Nodup) {i : Nat} (hi : i ∈ l) {s : State}
    (hbefore : ∀ j, j ≠ i → j ∈ l → f s j = s) (hafter : ∀ j, j ≠ i → j ∈ l → f (f s i) j = f s i) : l.foldl f s = f s i := by
  induction l with
  | nil => cases hi
  | cons j l ih =>
    obtain ⟨hj, hl⟩ := List.nodup_cons.1 hl
    rw [List.foldl_cons]
    by_cases h : j = i
    · subst h
      exact foldl_idle fun k hk => hafter k (fun e => hj (e ▸ hk)) (List.mem_cons_of_mem _ hk)
    · rw [hbefore j h (List.mem_cons_self ..)]
      exact ih hl ((List.mem_cons.1 hi).resolve_left (Ne.symm h)) (fun k hk hm => hbefore k hk (List.mem_cons_of_mem _ hm))
        fun k hk hm => hafter k hk (List.mem_cons_of_mem _ hm)

/-- Settles O41. -/
theorem kerbLists : Obligations.KerbLists := by
  intro chan die c slot b f fa s p w q at_
  refine ⟨fun hruns hstage hready => ⟨fun hb => ?read, fun hb => ?_⟩, fun hno => ?_, ?trigger, fun hst hends => ?pause, fun hno => ?_⟩
  case read =>
    have hexec : exec (.kerbDescriptorRead chan c slot) s = .next (
        if !kTakesPart w chan then freeIfDone (setKPos s chan c slot { desc := p.desc + 1 }) c slot
        else match kCheck (getCtx s c).cores w with
          | some f => programError s chan c slot q f.num
          | none => if kTrigEn w then setKPos s chan c slot { q with stage := 1 } else startShare s chan c slot q) := by
      show execKerbDescriptorRead chan c slot s = _
      unfold execKerbDescriptorRead
      simp only [hruns, show (kPos s chan c slot).stage = 0 from hstage, show rangeReady s (ctxPart s c)
        ((getList s c slot).addr + 128 * (kPos s chan c slot).desc) 128 = true from hready, show readRangeAt s (dieOfChan chan) (ctxPart s c)
        ((getList s c slot).addr + 128 * (kPos s chan c slot).desc) 128 = .ok b from hb, Bool.not_true, bne_self_eq_false, Bool.or_self,
        Bool.false_eq_true, if_false] <;> rfl
    refine ⟨fun hpart => ?_, fun hpart hcheck => ?_, fun hpart hcheck htrig => ?_, fun hpart hcheck htrig => ?_⟩
    · rw [hexec, hpart]
      rfl
    · rw [hexec, hpart, hcheck]
      rfl
    · rw [hexec, hpart, hcheck, htrig]
      rfl
    · rw [hexec, hpart, hcheck, htrig]
      rfl
  · show execKerbDescriptorRead chan c slot s = _
    unfold execKerbDescriptorRead
    simp only [hruns, show (kPos s chan c slot).stage = 0 from hstage, show rangeReady s (ctxPart s c)
      ((getList s c slot).addr + 128 * (kPos s chan c slot).desc) 128 = true from hready, show readRangeAt s (dieOfChan chan) (ctxPart s c)
      ((getList s c slot).addr + 128 * (kPos s chan c slot).desc) 128 = .error fa from hb, Bool.not_true, bne_self_eq_false, Bool.or_self,
      Bool.false_eq_true, if_false]
    rfl
  · show execKerbDescriptorRead chan c slot s = _
    unfold execKerbDescriptorRead
    refine congrArg Host.Outcome.next (if_pos ?_)
    rcases hno with h | h | h
    · rw [h]
      rfl
    · rw [bne_iff_ne.2 h, Bool.or_true, Bool.true_or]
    · rw [h, Bool.not_false, Bool.or_true]
  case trigger =>
    intro due
    have hfold (halive : ctlAlive s die = true) : exec (.kerbTrigger die c slot) s = .next ((List.range 48).foldl (fun u i =>
        if due u (48 * die.val + i) then startShare u (48 * die.val + i) c slot (kPos u (48 * die.val + i) c slot) else u) s) := by
      show execKerbTrigger die c slot s = _
      unfold execKerbTrigger
      rw [halive]
      rfl
    have hdie {i : Nat} (hi : i ∈ List.range 48) : dieOfChan (48 * die.val + i) = die := by
      have := List.mem_range.1 hi
      unfold dieOfChan
      omega
    refine ⟨fun hdead => ?_, fun halive => ⟨hfold halive, fun hnone => ?_, fun hchan hdue hothers => ?_⟩⟩
    · show execKerbTrigger die c slot s = _
      unfold execKerbTrigger
      rw [hdead]
      rfl
    · rw [hfold halive]
      refine congrArg Host.Outcome.next (foldl_idle fun i hi => if_neg ?_)
      rw [hnone _ (hdie hi)]
      exact Bool.false_ne_true
    · rw [hfold halive]
      have hat : 48 * die.val + chan.val % 48 = chan.val := by
        have : chan.val / 48 = die.val := hchan
        omega
      have hother {i : Nat} (hne : i ≠ chan.val % 48) (hi : i ∈ List.range 48) :
          48 * die.val + i ≠ chan.val ∧ trigDue s c slot (48 * die.val + i) = false := by
        have hk : 48 * die.val + i ≠ chan.val := fun e => hne (by have := List.mem_range.1 hi; omega)
        exact ⟨hk, hothers _ hk (hdie hi)⟩
      have hstart : (if due s (48 * die.val + chan.val % 48) then startShare s (48 * die.val + chan.val % 48) c slot
          (kPos s (48 * die.val + chan.val % 48) c slot) else s) = startShare s chan c slot p := by
        rw [hat, if_pos hdue]
      refine congrArg Host.Outcome.next ((foldl_only List.nodup_range (i := chan.val % 48) (List.mem_range.2 (Nat.mod_lt _ (by decide)))
        (fun i hne hi => if_neg ?_) (fun i hne hi => ?_)).trans hstart)
      · rw [show due s (48 * die.val + i) = false from (hother hne hi).2]
        exact Bool.false_ne_true
      · rw [hstart]
        refine if_neg ?_
        rw [show due (startShare s chan c slot p) (48 * die.val + i) = false from
          trigDue_startShare s chan c slot p (hother hne hi).1 (hother hne hi).2]
        exact Bool.false_ne_true
  case pause =>
    refine ⟨modCtx s c (fun x => { x with lists := x.lists.map (fun e => (e.1, { e.2 with paused := true })) }), ?_, ?_⟩
    · show execKerbPause c s = _
      unfold execKerbPause
      rw [hst, hends]
      rfl
    · dsimp only
      rw [modCtx_eq, getCtx_setCtx]
      refine ⟨fun e he => ?_, List.length_map _, rfl, rfl⟩
      obtain ⟨l, -, rfl⟩ := List.mem_map.1 he
      rfl
  · show execKerbPause c s = _
    unfold execKerbPause
    refine congrArg Host.Outcome.next (if_neg ?_)
    rcases hno with h | h
    · rw [beq_eq_false_iff_ne.2 h]
      exact Bool.false_ne_true
    · rw [h, Bool.not_true, Bool.and_false]
      exact Bool.false_ne_true

end Sys2Proof.Machine
end

section
/-!
PROOFS. Kerbside block steps, the end of a share and the reductions of collectives (R223 to R241, R324).
-/
namespace Sys2Proof.Machine

/-! ### A block step -/

section BlockStep
variable {s : State} {chan : ChanId} {c : CtxId} {slot : Fin 4} {bad : Nat}

theorem exec_kerbBlockStep_waits (h : hasTurn s chan c slot = false ∨ chanReady s chan = false) :
    exec (.kerbBlockStep chan c slot bad) s = .next s := by
  show execKerbBlockStep chan c slot bad s = _
  unfold execKerbBlockStep
  refine congrArg Host.Outcome.next (if_pos ?_)
  rcases h with h | h
  · rw [h]
    rfl
  · rw [h]
    exact Bool.or_true _

variable (hturn : hasTurn s chan c slot = true) (hready : chanReady s chan = true)
include hturn hready

theorem exec_kerbBlockStep_fault {code addr : Nat} (h : kStepOf s chan c (kPos s chan c slot) = .fault code addr) :
    exec (.kerbBlockStep chan c slot bad) s = .next (shareFault s chan c slot (kPos s chan c slot) code addr) := by
  show execKerbBlockStep chan c slot bad s = _
  unfold execKerbBlockStep
  simp only [hturn, hready, h, Bool.not_true, Bool.or_self, Bool.false_eq_true, if_false]

theorem exec_kerbBlockStep_zero {k i : Nat} (h : kStepOf s chan c (kPos s chan c slot) = .zero k i) :
    exec (.kerbBlockStep chan c slot bad) s = .next (
      let p := kPos s chan c slot
      let w := p.words
      let at_ := kAddr w 2 + i * kRowBytes w
      let next := { p with block := k + 1, range := true }
      let s1 := bump32 s (pgKerb chan) 0x064 1
      if kOp w == 8 && !rangeReady s (ctxPart s c) at_ (kRowBytes w) then s
      else
        let r := if kOp w == 8 then writeRangeAt s1 (dieOfChan chan) (ctxPart s1 c) at_ (List.replicate (kRowBytes w) 0) else (s1, none)
        match r.2 with
        | some f => shareFault r.1 chan c slot next f.1.num at_
        | none => kAdvance (bump64 r.1 (pgKerb chan) 0x05C (if kOp w == 8 then kRowBytes w else 0)) chan c slot next) := by
  show execKerbBlockStep chan c slot bad s = _
  unfold execKerbBlockStep
  simp only [hturn, hready, h, Bool.not_true, Bool.or_self, Bool.false_eq_true, if_false] <;> rfl

theorem exec_kerbBlockStep_block {k lo hi i : Nat} (h : kStepOf s chan c (kPos s chan c slot) = .block k lo hi i) :
    exec (.kerbBlockStep chan c slot bad) s = .next (
      let p := kPos s chan c slot
      let w := p.words
      match kBlockFail s c lo with
      | some f => shareFault s chan c slot p f.num lo
      | none =>
        match blockOut s chan c w lo hi i with
        | .wait => s
        | .align => programError s chan c slot p Code.align.num
        | .fault f addr => shareFault s chan c slot p f.num addr
        | .writes l home away fl =>
          if l.any (fun e => !rangeReady s (ctxPart s c) e.1 e.2.1.length) then s
          else
            let s1 := if kChecked w then residueFails s chan bad else (s, false)
            if s1.2 then setKPos (leaveStatus s1.1 chan c w (kStatus p Code.checkFailed.num)) chan c slot
              { p with stage := 4, code := Code.checkFailed.num }
            else
              let s2 := kWrite s1.1 chan c l
              match s2.2 with
              | some (f, addr) => shareFault s2.1 chan c slot p f.num addr
              | none => kAdvance (bump64 (bump64 s2.1 (pgKerb chan) 0x054 home) (pgKerb chan) 0x05C away) chan c slot
                  { p with block := k + 1, flags := p.flags ||| fl }) := by
  show execKerbBlockStep chan c slot bad s = _
  unfold execKerbBlockStep blockOut
  simp only [hturn, hready, h, Bool.not_true, Bool.or_self, Bool.false_eq_true, if_false] <;> rfl

end BlockStep

/-! ### A collective's reduction -/

/-- Failed computations that do not drain the chip leave the collectives as they are. -/
theorem residueFails_cols {chan n : Nat} {s : State} (h : (residueFails s chan n).2 = false) :
    (residueFails s chan n).1.cols = s.cols := by
  induction n generalizing s with
  | zero => rfl
  | succ n ih =>
    unfold residueFails at h ⊢
    unfold residueFail at h ⊢
    dsimp only at h ⊢
    split at h
    · cases h
    · rename_i hl
      rw [if_neg hl]
      exact (ih h).trans (causesPart (raise_causes _ _ _) (·.cols) fun _ => rfl)

/-- The channels of a part serve it. -/
theorem part_ready {a d : Bool} {last : Prop} [Decidable last] (h : a = true ∧ (last → d = true)) : (!a || (decide last && !d)) = false := by
  obtain ⟨ha, hd⟩ := h
  by_cases hl : last
  · rw [ha, hd hl, Bool.not_true, Bool.and_false]
    rfl
  · rw [ha, decide_eq_false hl]
    rfl

/-- What a reduction that passed its check goes on with. -/
def reduced (die : DieId) (q : Reduce) (b : ColMsg) (w : List Nat) (chan : Nat) (r : State × List Byte) : State :=
  let off := 64 * b.offset
  let seg := ringSub w (ringPrev w) b.step
  let lo := seg * colSeg w
  let at_ := if colKind w == 2 then off - lo else off
  if !decide (colRanks w ≤ b.step + 1) then
    colDrive (colPump (colForward (colTaken r.1 die q.slot q.msg (b.step, b.offset)) die q.slot (b.step + 1) off lo
      (segLen w seg) r.2) die) die q.slot
  else
    match colWrite r.1 die q.slot at_ r.2 with
    | (s, some f) => colAbort (colAnswer s die q.msg 5 f.1.num) die q.slot f.1.num f.2 true
    | (s, none) =>
      let s := colCountWrite s chan (wAddr w 14 + at_) r.2.length
      let s := if colOutEn w then colCountWrite s chan (wAddr w 16 + at_ / 2) (r.2.length / 2) else s
      let s := colTaken s die q.slot q.msg (b.step, b.offset)
      let s := if colKind w == 1 then colForward s die q.slot (colRanks w) off lo (segLen w seg) r.2 else s
      colDrive (colPump s die) die q.slot

/-- A part whose check has passed: what the obligation's names stand for. -/
theorem exec_chunkReductionDone {die : DieId} {bad : Nat} {q : Reduce} {rest : List Reduce} {b : ColMsg} {s u : State} {own : List Byte}
    {x : ColSlot} {src chan at_ : Nat} (hq : (getCol s die).reduce = q :: rest) (hb : q.msg.body = .col b)
    (hx : x = getColSlot s die q.slot) (hsrc : src = wAddr x.words 12 + 64 * b.offset)
    (hchan : chan = (placeOf s (frameEntry s (src / 65536)) src).1)
    (hat : at_ = if colKind x.words == 2 then 64 * b.offset - ringSub x.words (ringPrev x.words) b.step * colSeg x.words else 64 * b.offset)
    (hgo : (!colRange s x src b.payload.length ||
      (decide (colRanks x.words ≤ b.step + 1) && !colDstReady s x at_ b.payload.length)) = false)
    (hread : readRangeAt s die (ctxPart s x.ctx) src b.payload.length = .ok own) (hup : kerbUp s chan = true)
    {drained : Bool} (hres : residueFails s chan bad = (u, drained)) :
    exec (.chunkReductionDone die bad) s =
      .next (if drained then u else reduced die q b x.words chan (reduceSum u die chan q rest b own)) := by
  subst hx hsrc hchan hat
  show execChunkReductionDone die bad s = _
  unfold execChunkReductionDone
  cases drained with
  | true => simp only [hq, hb, hgo, hread, hup, hres, Bool.not_true, Bool.false_eq_true, if_false, if_true]
  | false =>
    have hcols : getColSlot u die q.slot = getColSlot s die q.slot := by
      have h := residueFails_cols (chan := _) (n := bad) (s := s) (by rw [hres])
      rw [hres] at h
      unfold getColSlot getCol
      rw [h]
    unfold reduced reduceSum
    simp only [hq, hb, hgo, hread, hup, hres, hcols, Bool.not_true, Bool.false_eq_true, if_false] <;> rfl

section Reduced
variable {die : DieId} {q : Reduce} {b : ColMsg} {w : List Nat} {chan at_ : Nat} {r : State × List Byte}
    (hat : at_ = if colKind w == 2 then 64 * b.offset - ringSub w (ringPrev w) b.step * colSeg w else 64 * b.offset)

theorem reduced_goesOn (hlast : ¬ colRanks w ≤ b.step + 1) : reduced die q b w chan r =
    colDrive (colPump (colForward (colTaken r.1 die q.slot q.msg (b.step, b.offset)) die q.slot (b.step + 1) (64 * b.offset)
      (ringSub w (ringPrev w) b.step * colSeg w) (segLen w (ringSub w (ringPrev w) b.step)) r.2) die) die q.slot := by
  unfold reduced
  simp only [decide_eq_false hlast, Bool.not_false, if_true]

variable (hlast : colRanks w ≤ b.step + 1)
include hat hlast

theorem reduced_failed {f : Code × Nat} (h : (colWrite r.1 die q.slot at_ r.2).2 = some f) :
    reduced die q b w chan r =
      colAbort (colAnswer (colWrite r.1 die q.slot at_ r.2).1 die q.msg 5 f.1.num) die q.slot f.1.num f.2 true := by
  subst hat
  unfold reduced
  simp only [decide_eq_true hlast, Bool.not_true, Bool.false_eq_true, if_false]
  split
  · rename_i u g hw
    rw [hw] at h ⊢
    cases h
    rfl
  · rename_i u hw
    rw [hw] at h
    cases h

theorem reduced_written (h : (colWrite r.1 die q.slot at_ r.2).2 = none) :
    reduced die q b w chan r =
      let u := colCountWrite (colWrite r.1 die q.slot at_ r.2).1 chan (wAddr w 14 + at_) r.2.length
      let s4 := colTaken (if colOutEn w then colCountWrite u chan (wAddr w 16 + at_ / 2) (r.2.length / 2) else u)
        die q.slot q.msg (b.step, b.offset)
      let s5 := if colKind w == 1 then colForward s4 die q.slot (colRanks w) (64 * b.offset)
        (ringSub w (ringPrev w) b.step * colSeg w) (segLen w (ringSub w (ringPrev w) b.step)) r.2 else s4
      colDrive (colPump s5 die) die q.slot := by
  subst hat
  unfold reduced
  simp only [decide_eq_true hlast, Bool.not_true, Bool.false_eq_true, if_false]
  split
  · rename_i u g hw
    rw [hw] at h
    cases h
  · rename_i u hw
    rw [hw]

end Reduced

/-! ### The end of a share -/

/-- A share with no block left to step, or whose signal is due. -/
theorem exec_kerbShareDone {s u : State} {chan : ChanId} {c : CtxId} {slot : Fin 4} {o : Option Code}
    (hgoes : shareGoes s chan c slot = true) (hstage : ((kPos s chan c slot).stage = 2 ∧ kStepOf s chan c (kPos s chan c slot) = .done) ∨
      ((kPos s chan c slot).stage = 3 ∧ (kPos s chan c slot).at_ = 0)) :
    writeStatus s chan c (kPos s chan c slot).words (kStatus (kPos s chan c slot) 0) = (u, o) →
    exec (.kerbShareDone chan c slot) s = .next (
      let p := kPos s chan c slot
      if !rangeReady s (ctxPart s c) (statusAt chan p.words) 4 then s
      else
        match o with
        | some f => shareFault u chan c slot p f.num (statusAt chan p.words)
        | none => shareSignal (traceEvent (addEvent (modKerb u chan (fun k => { k with
            stepAt := none
            done := k.done.map (fun d => if d.ctx == c.val && d.slot == slot.val && d.seq == (getList s c slot).seq && d.desc == p.desc
              then { d with finished := true } else d) })) (pgKerb chan) 1) 4 chan c 0 0
            [(getList s c slot).seq, p.desc, kStatus p 0, 0]) chan c slot p) := by
  intro hw
  show execKerbShareDone chan c slot s = _
  unfold execKerbShareDone
  rcases hstage with ⟨h2, hdone⟩ | ⟨h3, h0⟩
  · simp only [hgoes, h2, hdone, hw, Bool.not_true, Bool.false_or, beq_self_eq_true, Bool.and_self, Bool.true_or] <;> rfl
  · simp only [hgoes, h3, h0, hw, Bool.not_true, Bool.false_or, beq_self_eq_true, Bool.and_self, Bool.or_true] <;> rfl

/-- Settles O42. -/
theorem kerbSteps : Obligations.KerbSteps := by
  refine ⟨fun chan c slot bad k lo hi i home away addr code f l fl s => ?steps, fun chan c slot f s => ?ends,
    fun die bad q rest b own f s => ?reduces⟩
  case steps =>
    intro p w run
    refine ⟨exec_kerbBlockStep_waits, fun hturn hready => ?_⟩
    intro out
    refine ⟨exec_kerbBlockStep_fault hturn hready, fun hstep hfail => ?_, fun hstep hok => ?block, fun hstep => ?zero⟩
    · refine (exec_kerbBlockStep_block hturn hready hstep).trans ?_
      simp only [hfail]
      rfl
    case block =>
      have hrun := exec_kerbBlockStep_block (bad := bad) hturn hready hstep
      simp only [hok] at hrun
      have houtcome (o : KOut) (h : out = o) : blockOut s chan c (kPos s chan c slot).words lo hi i = o := h
      refine ⟨fun h => ?_, fun h => ?_, fun h => ?_, fun h => ?writes⟩
      · simp only [houtcome _ h] at hrun
        exact hrun
      · simp only [houtcome _ h] at hrun
        exact hrun
      · simp only [houtcome _ h] at hrun
        exact hrun
      case writes =>
        simp only [houtcome _ h] at hrun
        intro ready s1 s2
        refine ⟨fun hno => ?_, fun hyes hdr => ?_, fun hyes hgo hfail => ?_, fun hyes hgo hdone => ?_⟩
        · rw [if_pos (Bool.of_not_eq_false hno)] at hrun
          exact hrun
        · rw [if_neg (Bool.eq_false_iff.1 hyes), if_pos hdr] at hrun
          exact hrun
        · rw [if_neg (Bool.eq_false_iff.1 hyes), if_neg (Bool.eq_false_iff.1 hgo)] at hrun
          rw [show (kWrite (if kChecked (kPos s chan c slot).words then residueFails s chan bad else (s, false)).1 chan c l).2 =
            some (f, addr) from hfail] at hrun
          exact hrun
        · rw [if_neg (Bool.eq_false_iff.1 hyes), if_neg (Bool.eq_false_iff.1 hgo)] at hrun
          rw [show (kWrite (if kChecked (kPos s chan c slot).words then residueFails s chan bad else (s, false)).1 chan c l).2 =
            none from hdone] at hrun
          exact hrun
    case zero =>
      have hrun := exec_kerbBlockStep_zero (bad := bad) hturn hready hstep
      intro s1 at_ s2 next ready
      have hshut (h8 : ¬ kOp w = 8 ∨ ready) : ¬ (kOp w == 8 && !rangeReady s (ctxPart s c) at_ (kRowBytes w)) = true := by
        rcases h8 with h8 | h8
        · simp [h8]
        · simp [show rangeReady s (ctxPart s c) at_ (kRowBytes w) = true from h8]
      refine ⟨fun h8 hno => ?_, fun h8 => ?_, fun h8 hyes hdone => ?_, fun h8 hyes hfail => ?_⟩
      · refine hrun.trans (congrArg Host.Outcome.next (if_pos ?_))
        show (kOp w == 8 && !rangeReady s (ctxPart s c) at_ (kRowBytes w)) = true
        rw [h8, Bool.eq_false_iff.2 hno]
        rfl
      · refine hrun.trans (congrArg Host.Outcome.next ((if_neg (hshut (.inl h8))).trans ?_))
        rw [show (kOp (kPos s chan c slot).words == 8) = false from beq_eq_false_iff_ne.2 h8]
        rfl
      · refine hrun.trans (congrArg Host.Outcome.next ((if_neg (hshut (.inr hyes))).trans ?_))
        have hw8 : (kOp (kPos s chan c slot).words == 8) = true := beq_iff_eq.2 h8
        simp only [hw8, if_true]
        rw [show (writeRangeAt (bump32 s (pgKerb chan) 0x064 1) (dieOfChan chan) (ctxPart (bump32 s (pgKerb chan) 0x064 1) c)
          (kAddr (kPos s chan c slot).words 2 + i * kRowBytes (kPos s chan c slot).words)
          (List.replicate (kRowBytes (kPos s chan c slot).words) 0)).2 = none from hdone]
      · refine hrun.trans (congrArg Host.Outcome.next ((if_neg (hshut (.inr hyes))).trans ?_))
        have hw8 : (kOp (kPos s chan c slot).words == 8) = true := beq_iff_eq.2 h8
        simp only [hw8, if_true]
        rw [show (writeRangeAt (bump32 s (pgKerb chan) 0x064 1) (dieOfChan chan) (ctxPart (bump32 s (pgKerb chan) 0x064 1) c)
          (kAddr (kPos s chan c slot).words 2 + i * kRowBytes (kPos s chan c slot).words)
          (List.replicate (kRowBytes (kPos s chan c slot).words) 0)).2 = some (f, addr) from hfail]
  case ends =>
    intro p at_ s1 same
    refine ⟨fun hgoes hstage => ?done, fun hup hstage hat => ?retry, ?expiry⟩
    case done =>
      refine ⟨fun hwait => ?_, fun hready => ⟨fun hfail => ?_, fun hok => ?_⟩⟩
      · refine (exec_kerbShareDone hgoes hstage (u := s1.1) (o := s1.2) rfl).trans (congrArg Host.Outcome.next (if_pos ?_))
        rw [show rangeReady s (ctxPart s c) (statusAt chan (kPos s chan c slot).words) 4 = false from hwait]
        rfl
      · refine (exec_kerbShareDone hgoes hstage (u := s1.1) (o := some f) (Prod.ext rfl hfail)).trans (congrArg Host.Outcome.next (if_neg ?_))
        rw [show rangeReady s (ctxPart s c) (statusAt chan (kPos s chan c slot).words) 4 = true from hready]
        exact Bool.false_ne_true
      · refine (exec_kerbShareDone hgoes hstage (u := s1.1) (o := none) (Prod.ext rfl hok)).trans (congrArg Host.Outcome.next (if_neg ?_))
        rw [show rangeReady s (ctxPart s c) (statusAt chan (kPos s chan c slot).words) 4 = true from hready]
        exact Bool.false_ne_true
    case retry =>
      have hexec : exec (.kerbSignalRetry chan c slot) s = .next (
          if kerbUp s chan && p.stage == 3 && p.at_ != 0 && passed s p.at_ usNs then shareSignal s chan c slot p else s) := rfl
      rw [hup, hstage, bne_iff_ne.2 hat] at hexec
      refine ⟨fun h => ?_, fun h => ?_⟩
      · rw [hexec, show passed s p.at_ usNs = true from h]
        rfl
      · rw [hexec, show passed s p.at_ usNs = false from h]
        rfl
    case expiry =>
      refine ⟨_, rfl, ?_, fun k hk => ?_, rfl, rfl⟩
      · rw [modKerb_eq, getKerb_setKerb]
        rfl
      · exact getKerb_setKerb_of_ne _ _ _ hk
  case reduces =>
    intro x w off src chan drop run
    refine ⟨fun hnone => ?_, ?_⟩
    · show execChunkReductionDone die bad s = _
      unfold execChunkReductionDone
      simp only [hnone]
    · intro seg lo at_ last ready
      refine ⟨fun hq hb hno => ?_, fun hq hb hready => ⟨fun hread => ?_, fun hread => ⟨fun hup => ?_, fun hup => ?_⟩⟩⟩
      · show execChunkReductionDone die bad s = _
        unfold execChunkReductionDone
        simp only [hq, hb]
        refine congrArg Host.Outcome.next (if_pos (Bool.of_not_eq_false fun hgo => hno ?_))
        obtain ⟨hsrc, hdst⟩ := Bool.or_eq_false_iff.1 hgo
        refine ⟨(Bool.not_eq_false' _).mp hsrc, fun hl => ?_⟩
        rw [decide_eq_true hl, Bool.true_and] at hdst
        exact (Bool.not_eq_false' _).mp hdst
      · have hgo : (!colRange s x src b.payload.length || (decide (colRanks w ≤ b.step + 1) && !colDstReady s x at_ b.payload.length)) = false :=
          part_ready hready
        show execChunkReductionDone die bad s = _
        unfold execChunkReductionDone
        simp only [hq, hb]
        refine congrArg Host.Outcome.next ((if_neg (Bool.eq_false_iff.1 hgo)).trans ?_)
        rw [show readRangeAt s die (ctxPart s (getColSlot s die q.slot).ctx) (wAddr (getColSlot s die q.slot).words 12 + 64 * b.offset)
          b.payload.length = .error f from hread] <;> rfl
      · have hgo : (!colRange s x src b.payload.length || (decide (colRanks w ≤ b.step + 1) && !colDstReady s x at_ b.payload.length)) = false :=
          part_ready hready
        show execChunkReductionDone die bad s = _
        unfold execChunkReductionDone
        simp only [hq, hb]
        refine congrArg Host.Outcome.next ((if_neg (Bool.eq_false_iff.1 hgo)).trans ?_)
        rw [show readRangeAt s die (ctxPart s (getColSlot s die q.slot).ctx) (wAddr (getColSlot s die q.slot).words 12 + 64 * b.offset)
          b.payload.length = .ok own from hread]
        exact if_pos (by rw [show kerbUp s (placeOf s (frameEntry s _) _).1 = false from hup]; rfl)
      · intro s1 r s2 s3
        have hexec {u : State} {dr : Bool} (h : residueFails s chan bad = (u, dr)) :=
          exec_chunkReductionDone hq hb rfl rfl rfl rfl (part_ready hready) hread hup h
        refine ⟨fun hdr => ?_, fun hdr hl => ?_, fun hdr hl hfail => ?_, fun hdr hl hdone => ?_⟩
        · exact hexec (u := s1.1) (dr := true) (Prod.ext rfl hdr)
        · exact (hexec (u := s1.1) (dr := false) (Prod.ext rfl hdr)).trans (congrArg Host.Outcome.next (reduced_goesOn hl))
        · exact (hexec (u := s1.1) (dr := false) (Prod.ext rfl hdr)).trans (congrArg Host.Outcome.next (reduced_failed rfl hl hfail))
        · exact (hexec (u := s1.1) (dr := false) (Prod.ext rfl hdr)).trans (congrArg Host.Outcome.next (reduced_written rfl hl hdone))

end Sys2Proof.Machine
end

section
/-!
PROOFS. Channel accesses, maintenance windows and reservations (R196, R205 to R215, R223, R242).
-/
namespace Sys2Proof.Machine

/-! ### What a drain leaves -/

/-- The state without what the end of a context's work changes. -/
def sansWork (s : State) : State := { sansTraffic s with cores := [], ctxs := [], sites := [] }

abbrev Halts (s t : State) : Prop := Same sansWork s t

/-- The state without what the begin of a drain changes. -/
def sansDrain (s : State) : State :=
  { sansTraffic s with cores := [], ctxs := [], sites := [], hang := {}, hide := {}, boot := {}, record := {} }

abbrev Drains (s t : State) : Prop := Same sansDrain s t

theorem halts_of_traffic {s t : State} (h : Traffic s t) : Halts s t :=
  (h.forget (view' := sansTraffic) Prod.fst fun _ => rfl).forget (view' := sansWork)
    (fun v => { v with cores := [], ctxs := [], sites := [] }) fun _ => rfl

theorem drains_of_halts {s t : State} (h : Halts s t) : Drains s t :=
  h.forget (view' := sansDrain) (fun v => { v with hang := {}, hide := {}, boot := {}, record := {} }) fun _ => rfl

theorem drains_of_traffic {s t : State} (h : Traffic s t) : Drains s t := drains_of_halts (halts_of_traffic h)

section Drain
variable (s : State)

theorem completePost_halts (c : Nat) (r : PostRef) (code arg1 : Nat) : Halts s (completePost s c r code arg1) :=
  halts_of_traffic (completePost_traffic ..)

theorem completeRun_halts (c code arg1 : Nat) : Halts s (completeRun s c code arg1) := by
  unfold completeRun
  split
  · rfl
  · exact Same.trans (t := modCtx s c _) rfl (completePost_halts ..)

theorem fencePosts_halts (c : Nat) : Halts s (fencePosts s c) := by
  unfold fencePosts
  extract_lets l u
  refine Same.trans (t := u) rfl (Same.foldl (fun t q _ => ?_) u)
  exact Same.trans (t := addEvent (returnCredit t c) pgPost 1) rfl (completePost_halts ..)

theorem beginSave_halts (c : Nat) (v : Saving) : Halts s (beginSave s c v) := by
  unfold beginSave
  extract_lets x u
  have hu : Halts s u := by
    refine Same.trans (t := setCtx s c _) rfl (Same.foldl (f := stopCore) (fun t k _ => ?_) _)
    unfold stopCore
    dsimp only
    split
    · rfl
    · rfl
  refine .ite hu (hu.trans (Same.foldl (f := abandonSaves) (fun t k _ => ?_) u))
  rfl

theorem drainCtx_halts (c : Nat) : Halts s (drainCtx s c) := by
  unfold drainCtx
  dsimp only
  split
  · exact (completeRun_halts s ..).trans (beginSave_halts ..)
  · exact completeRun_halts ..
  · split
    · exact .ite (completeRun_halts ..) (.refl s)
    · rfl
  · rfl

/-- Posts are fenced, contexts stopped and rounds ended. -/
theorem stopWork_halts (l : List Nat) : Halts s (l.foldl abortRounds (l.foldl drainCtx (l.foldl fencePosts s))) :=
  (Same.foldl (fun t c _ => fencePosts_halts t c) _).trans ((Same.foldl (fun t c _ => drainCtx_halts t c) _).trans
    (Same.foldl (fun t c _ => halts_of_traffic (abortRounds_traffic t c)) _))

theorem chipNotice_causes (n : Notice) : Causes s (chipNotice s n) := by
  refine Same.foldl (fun t p _ => ?_) s
  exact .ite (queueNotice_causes ..) (.refl t)

theorem endBootDrained_drains : Drains s (endBootDrained s) := by
  unfold endBootDrained
  extract_lets src1 src2 u
  exact Same.trans (t := u) rfl (drains_of_traffic (traffic_of_causes (chipNotice_causes ..)))

theorem beginDrain_drains (cause pg code : Nat) : Drains s (beginDrain s cause pg code) := by
  unfold beginDrain
  split
  · exact drains_of_traffic (setReg_traffic ..)
  · dsimp only
    generalize hu : recordStep _ 9 code 0 0 = u
    have hsu : Drains s u := by
      rw [← hu]
      rfl
    have hv : Drains s (raise u pgAtlas 3) := hsu.trans (drains_of_traffic (raise_traffic ..))
    exact .ite (hv.trans (drains_of_halts (stopWork_halts _ _))) (.ite (hv.trans (endBootDrained_drains _)) hv)

end Drain

/-! ### Stacks -/

theorem getStack_modStack (s : State) (k : Nat) (f : Stack → Stack) : getStack (modStack s k f) k = f (getStack s k) :=
  look_store_self ..

theorem getStack_of_causes {s t : State} (h : Causes s t) (k : Nat) : getStack t k = getStack s k := by
  rw [getStack, causesPart h (·.hbmStacks) fun _ => rfl, getStack]

theorem getStack_of_drains {s t : State} (h : Drains s t) (k : Nat) : getStack t k = getStack s k := by
  rw [getStack, h.get (·.hbmStacks) fun _ => rfl, getStack]

/-- A lost stack keeps all but its state. -/
theorem getStack_loseStack (s : State) (k : Nat) : getStack (loseStack s k) k = { getStack s k with state := 2 } := by
  unfold loseStack
  split
  · rename_i h
    rw [← beq_iff_eq.1 h]
  · dsimp only
    rw [getStack_of_drains (beginDrain_drains ..), getStack_of_causes (raise_causes ..), getStack_modStack]

/-! ### Row events -/

/-- What the uncorrected count of a page and the memory are, where neither changes. -/
structure MemSame (pg : Nat) (s t : State) : Prop where
  hbm : t.hbm = s.hbm
  poison : t.poison = s.poison
  corrected : (getPage t pg).errCorrected = (getPage s pg).errCorrected
  uncorrected : (getPage t pg).errUncorrected = (getPage s pg).errUncorrected

theorem memSame_of_causes {pg : Nat} {s t : State} (h : Causes s t) : MemSame pg s t :=
  ⟨causesPart h (·.hbm) fun _ => rfl, causesPart h (·.poison) fun _ => rfl,
    trafficPage (traffic_of_causes h) pg (·.errCorrected) fun _ => rfl, trafficPage (traffic_of_causes h) pg (·.errUncorrected) fun _ => rfl⟩

theorem MemSame.trans {pg : Nat} {s t u : State} (a : MemSame pg s t) (b : MemSame pg t u) : MemSame pg s u :=
  ⟨b.hbm.trans a.hbm, b.poison.trans a.poison, b.corrected.trans a.corrected, b.uncorrected.trans a.uncorrected⟩

theorem modStack_memSame (pg : Nat) (s : State) (k : Nat) (f : Stack → Stack) : MemSame pg s (modStack s k f) := ⟨rfl, rfl, rfl, rfl⟩

section RowEvent
variable (s : State) (k ch row : Nat) (unc : Bool)

/-- A row that no spare replaces joins the list while it has room. -/
theorem badRow_listed (h : (getStack s k).badRows.length < 256) :
    MemSame (pgHbm k) s (badRow s k ch row) ∧ (ch, row) ∈ (getStack (badRow s k ch row) k).badRows := by
  unfold badRow
  extract_lets x u fs src v w
  split
  · rename_i hin
    exact ⟨⟨rfl, rfl, rfl, rfl⟩, List.contains_iff_mem.1 hin⟩
  · rw [if_neg (Nat.not_le.2 h)]
    have hu : getStack u k = { x with badRows := x.badRows ++ [(ch, row)] } := getStack_modStack ..
    have hw : Causes v w := .ite (.refl v) (raise_causes ..)
    have hmem : MemSame (pgHbm k) s w := MemSame.trans (t := v) ⟨rfl, rfl, rfl, rfl⟩ (memSame_of_causes hw)
    have hstack : getStack w k = getStack u k := getStack_of_causes hw k
    have hlisted : (ch, row) ∈ (getStack w k).badRows := by
      rw [hstack, hu]
      exact List.mem_append_right _ (List.mem_singleton_self _)
    split
    · exact ⟨hmem, hlisted⟩
    · refine ⟨(hmem.trans (modStack_memSame ..)).trans (memSame_of_causes (raise_causes ..)), ?_⟩
      rw [getStack_of_causes (raise_causes ..), getStack_modStack]
      exact hlisted

theorem noted_causes : Causes s (if unc then raise s (pgHbm k) 1 else s) := .ite (raise_causes ..) (.refl s)

/-- A row event while a spare is left wants a repair. -/
theorem rowEvent_wanted (h : ((getStack s k).need.filter (fun e => e.1 == ch)).length < sparesOf (getStack s k) ch) :
    MemSame (pgHbm k) s (rowEvent s k ch row unc) ∧ (ch, row) ∈ (getStack (rowEvent s k ch row unc) k).need := by
  unfold rowEvent
  extract_lets x noted
  have hn : Causes s noted := noted_causes ..
  split
  · rename_i hin
    refine ⟨memSame_of_causes hn, ?_⟩
    rw [getStack_of_causes hn]
    exact List.contains_iff_mem.1 hin
  · rw [if_neg (Nat.not_le.2 h)]
    refine ⟨(memSame_of_causes hn).trans (modStack_memSame ..), ?_⟩
    rw [getStack_modStack]
    exact List.mem_append_right _ (List.mem_singleton_self _)

/-- A row event whose row cannot be replaced changes no byte while the list of bad rows has room. -/
theorem rowEvent_bad (h : (getStack s k).badRows.length < 256) : MemSame (pgHbm k) s (rowEvent s k ch row unc) ∧
    (sparesOf (getStack s k) ch ≤ ((getStack s k).need.filter (fun e => e.1 == ch)).length → (ch, row) ∉ (getStack s k).need →
      (ch, row) ∈ (getStack (rowEvent s k ch row unc) k).badRows) := by
  unfold rowEvent
  extract_lets x noted
  have hn : Causes s noted := noted_causes ..
  split
  · rename_i hin
    exact ⟨memSame_of_causes hn, fun _ hnot => absurd (List.contains_iff_mem.1 hin) hnot⟩
  · split
    · exact ⟨(badRow_listed s k ch row h).1, fun _ _ => (badRow_listed s k ch row h).2⟩
    · rename_i hsp
      exact ⟨(memSame_of_causes hn).trans (modStack_memSame ..), fun hle => absurd hle hsp⟩

end RowEvent

/-! ### The controller's ECC -/

section Ecc
variable (s : State) (chan off : Nat)

/-- The state in which an error has been noted. -/
def eccNoted (s : State) (chan off un : Nat) : State := setReg (setReg s (pgHbm (chan / 16)) 0x05C off) (pgHbm (chan / 16)) 0x060 (un * 256 + chan % 16)

theorem eccNoted_causes (un : Nat) : Causes s (eccNoted s chan off un) := (setReg_causes s ..).trans (setReg_causes ..)

/-- The errors of a row within 24 hours, this one the first. -/
theorem rowErrs_counted (l : List (Nat × Nat × Nat)) (ch row now : Nat) :
    ((((ch, row, now) :: l).filter (fun r => now < r.2.2 + dayNs)).filter (fun r => r.1 == ch && r.2.1 == row)).length =
      (l.filter (fun r => r.1 == ch && r.2.1 == row && decide (now < r.2.2 + dayNs))).length + 1 := by
  have hnow : decide (now < now + dayNs) = true := decide_eq_true (Nat.lt_add_of_pos_right (by decide))
  have hself : (ch == ch && row == row) = true := by simp
  simp only [List.filter_cons, hnow, hself, if_true, List.length_cons, List.filter_filter]

/-- The errors that stand noted once a corrected one has been added. -/
def rowErrsWith (s : State) (chan off : Nat) : List (Nat × Nat × Nat) :=
  ((chan % 16, off / 1024, s.odometer) :: (getStack s (chan / 16)).rowErrs).filter (fun r => s.odometer < r.2.2 + dayNs)

/-- A corrected granule: counted, noted with its row, and at the fourth a row event. -/
theorem eccOutcome_corrected : ∃ u, eccOutcome s chan off .corrected =
      (if 4 ≤ (((getStack s (chan / 16)).rowErrs.filter (fun r => r.1 == chan % 16 && r.2.1 == off / 1024 &&
        decide (s.odometer < r.2.2 + dayNs))).length + 1) then rowEvent u (chan / 16) (chan % 16) (off / 1024) false else u) ∧
    u.hbm = s.hbm ∧ u.poison = s.poison ∧
    (getPage u (pgHbm (chan / 16))).errCorrected = sat32 (getPage s (pgHbm (chan / 16))).errCorrected 1 ∧
    ∃ l, getStack u (chan / 16) = { getStack s (chan / 16) with rowErrs := l } := by
  have hn : Causes (addCorrected s (pgHbm (chan / 16)) 1) (eccNoted (addCorrected s (pgHbm (chan / 16)) 1) chan off 0) := eccNoted_causes ..
  generalize hu : eccNoted (addCorrected s (pgHbm (chan / 16)) 1) chan off 0 = u at hn
  have hstack : getStack u (chan / 16) = getStack s (chan / 16) := getStack_of_causes hn _
  have hodo : u.odometer = s.odometer := causesPart hn (·.odometer) fun _ => rfl
  refine ⟨modStack u (chan / 16) (fun x => { x with rowErrs := rowErrsWith s chan off }), ?_, causesPart hn (·.hbm) fun _ => rfl,
    causesPart hn (·.poison) fun _ => rfl, ?_,
    rowErrsWith s chan off, ?_⟩
  · have hcount : ((rowErrsWith s chan off).filter (fun r => r.1 == chan % 16 && r.2.1 == off / 1024)).length = _ := rowErrs_counted ..
    rw [← hcount, rowErrsWith, ← hstack, ← hodo, ← hu]
    rfl
  · refine (memSame_of_causes hn).corrected.trans ?_
    rw [addCorrected, modPage_eq, getPage_setPage]
  · rw [getStack_modStack, hstack]

/-- An uncorrectable granule: counted, poisoned, and a row event. -/
theorem eccOutcome_uncorrectable : ∃ u, eccOutcome s chan off .uncorrectable = rowEvent u (chan / 16) (chan % 16) (off / 1024) true ∧
    u.hbm = s.hbm ∧ look u.poison (physOf (chan, off) / 32) false = true ∧
    (getPage u (pgHbm (chan / 16))).errUncorrected = sat32 (getPage s (pgHbm (chan / 16))).errUncorrected 1 ∧
    getStack u (chan / 16) = getStack s (chan / 16) := by
  have hn : Causes (addUncorrected s (pgHbm (chan / 16)) 1) (eccNoted (addUncorrected s (pgHbm (chan / 16)) 1) chan off 1) := eccNoted_causes ..
  generalize hu : eccNoted (addUncorrected s (pgHbm (chan / 16)) 1) chan off 1 = u at hn
  refine ⟨{ u with poison := store u.poison (physOf (chan, off) / 32) true }, ?_, causesPart hn (·.hbm) fun _ => rfl, look_store_self .., ?_,
    getStack_of_causes hn _⟩
  · rw [← hu]
    rfl
  · refine (memSame_of_causes hn).uncorrected.trans ?_
    rw [addUncorrected, modPage_eq, getPage_setPage]

end Ecc

/-! ### Maintenance windows -/

section Repairs
variable (s : State) (k : Nat) (e : Nat × Nat)

theorem repairRow_stack : (getStack (repairRow s k e) k).need = (getStack s k).need.filter (fun r => r != e) ∧
    (getStack (repairRow s k e) k).maint = (getStack s k).maint ∧ (getStack (repairRow s k e) k).winFails = (getStack s k).winFails := by
  have h : getStack (repairRow s k e) k = getStack (modStack s k _) k :=
    getStack_of_causes ((setReg_causes _ (pgHbm k) 0x064 _).trans (raise_causes ..)) k
  rw [h, getStack_modStack]
  exact ⟨rfl, rfl, rfl⟩

/-- The repairs of a window leave the rows that are not among them. -/
theorem repairRows_stack (l : List (Nat × Nat)) :
    (getStack (l.foldl (fun s e => repairRow s k e) s) k).need = (getStack s k).need.filter (fun r => !l.contains r) ∧
    (getStack (l.foldl (fun s e => repairRow s k e) s) k).maint = (getStack s k).maint ∧
    (getStack (l.foldl (fun s e => repairRow s k e) s) k).winFails = (getStack s k).winFails := by
  induction l generalizing s with
  | nil => exact ⟨(List.filter_eq_self.2 fun _ _ => rfl).symm, rfl, rfl⟩
  | cons e l ih =>
    obtain ⟨hneed, hmaint, hfails⟩ := ih (repairRow s k e)
    obtain ⟨hneed1, hmaint1, hfails1⟩ := repairRow_stack s k e
    refine ⟨?_, hmaint.trans hmaint1, hfails.trans hfails1⟩
    rw [List.foldl_cons, hneed, hneed1, List.filter_filter]
    refine List.filter_congr fun r _ => ?_
    rw [List.contains_cons, Bool.not_or, Bool.and_comm]
    rfl

end Repairs

/-- A window that is abandoned; the third in a row loses the stack (R212). -/
def windowAbandoned (s : State) (chan : ChanId) : State :=
  let k := chan.val / 16
  let ch := chan.val % 16
  let x := getStack s k
  let n := look x.winFails ch 0 + 1
  let s := raise (modStack s k (fun x => { x with maint := drop1 x.maint ch, winFails := store x.winFails ch n })) (pgHbm k) 3
  let s := excludeWindow s chan (look x.maintStart ch 0 - 1)
  if 3 ≤ n then loseStack s k else s

theorem windowAbandoned_stack (s : State) (chan : ChanId) :
    let x := getStack s (chan.val / 16)
    let n := look x.winFails (chan.val % 16) 0 + 1
    getStack (windowAbandoned s chan) (chan.val / 16) =
      { x with maint := drop1 x.maint (chan.val % 16), winFails := store x.winFails (chan.val % 16) n,
               state := if 3 ≤ n then 2 else x.state } := by
  intro x n
  unfold windowAbandoned
  extract_lets k ch y m u v
  have hv : getStack v k = { x with maint := drop1 x.maint ch, winFails := store x.winFails ch n } := by
    show getStack u k = _
    rw [getStack_of_causes (raise_causes ..), getStack_modStack]
  split
  · rw [getStack_loseStack, hv]
  · exact hv

/-- A map with the value of one key changed, at that key. -/
theorem look_map_at {α : Type} (m : SMap (Option α)) (k : Nat) (g : α → α) :
    look (m.map (fun q => if q.1 == k then (q.1, q.2.map g) else q)) k none = (look m k none).map g := by
  induction m with
  | nil => rfl
  | cons e m ih =>
    by_cases h : e.1 = k
    · simp [look, h]
    · simp only [List.map_cons, beq_eq_false_iff_ne.2 h, Bool.false_eq_true, if_false, look, if_neg h]
      exact ih

theorem queueResv_resv (s : State) (core chan : Nat) : ((getKerb (queueResv s core chan) chan).resv = (getKerb s chan).resv ∨
      ∃ i, (getKerb (queueResv s core chan) chan).resv = (getKerb s chan).resv ++ [(core, i)]) ∧
    (getKerb (queueResv s core chan) chan).sb = (getKerb s chan).sb ∧
    (queueResv s core chan).cores = s.cores ∧ (queueResv s core chan).fabric = s.fabric := by
  unfold queueResv
  dsimp only
  split
  · exact ⟨.inl rfl, rfl, rfl, rfl⟩
  · split
    · rename_i i _
      rw [getKerb_setKerb]
      exact ⟨.inr ⟨i, rfl⟩, rfl, rfl, rfl⟩
    · exact ⟨.inl rfl, rfl, rfl, rfl⟩

/-- The packet of a request. -/
def reqPacket (s : State) (core slot : Nat) (r : DmReq) : Packet :=
  { cargo := .dm core slot r.seq false, src := coreStop s core, dst := if r.resv then kerbStop r.chan else rlcStop (dieOfCore core), cw := 3,
    resp := false, flits := if r.kind == 1 then flitsOf r.data.length else 1 }

/-- A free scoreboard entry goes to the oldest reservation, whose request leaves (R223). -/
theorem exec_reservationGrant {chan : ChanId} {s : State} {r : Nat × Nat} {more : List (Nat × Nat)} {d : DmReq}
    (hr : (getKerb s chan).resv = r :: more) (hsb : (getKerb s chan).sb < 384) (hd : look (getCore s r.1).reqs r.2 none = some d) :
    ∃ u, exec (.reservationGrant chan) s = .next (queueResv (sendReq u r.1 r.2 { d with granted := true }) r.1 chan) ∧
      look (getCore u r.1).reqs r.2 none = some { d with granted := true } ∧ u.fabric = s.fabric ∧ u.signpost = s.signpost ∧
      getKerb u chan = { getKerb s chan with resv := more, sb := (getKerb s chan).sb + 1 } := by
  have hreq : look (getCore (modCore (setKerb s chan { getKerb s chan with resv := more, sb := (getKerb s chan).sb + 1 }) r.1 (fun x =>
      { x with reqs := x.reqs.map (fun q => if q.1 == r.2 then (q.1, q.2.map (fun d => { d with granted := true })) else q) })) r.1).reqs r.2 none =
      some { d with granted := true } := by
    rw [getCore_modCore]
    exact (look_map_at ..).trans (congrArg _ hd)
  refine ⟨_, ?_, hreq, rfl, rfl, getKerb_setKerb ..⟩
  show execReservationGrant chan s = _
  unfold execReservationGrant
  simp only [hr, show (getKerb s chan).sb < sbSize from hsb, if_true]
  simp only [hreq]

/-- What a read of the HBM depends on, apart from the interleaving. -/
def readView (s : State) : FrameMap × Hang × SMap Stack × SMap Bool × SMap Byte × SMap (Option Nat) × SMap Nat :=
  (s.fm, s.hang, s.hbmStacks, s.poison, s.hbm, s.seals, s.qsc.keyGen)

theorem readBlock_congr {s t : State} (h : Same readView s t) (hil : ilSplit t = ilSplit s) (part addr n : Nat) :
    readBlock t part addr n = readBlock s part addr n := by
  simp only [Same, readView, Prod.mk.injEq] at h
  obtain ⟨hfm, hhang, hstacks, hpoison, hhbm, hseals, hkeys⟩ := h
  have hbyte : openByte t = openByte s := by
    funext phys z
    unfold openByte
    rw [hhbm, hseals]
  unfold readBlock accessFail openBytes anyPoison stackLost getStack sealOf placeOf frameEntry dieUp
  rw [hfm, hhang, hstacks, hpoison, hkeys, hil, hbyte]

theorem regOf_addCorrected (s : State) (pg n p o : Nat) : regOf (addCorrected s pg n) p o = regOf s p o := by
  unfold regOf addCorrected
  rw [modPage_eq]
  by_cases h : p = pg
  · rw [h, getPage_setPage]
  · rw [getPage_setPage_of_ne _ _ _ h]

/-- A line whose parity fails is dropped, counted and read again (R215). -/
theorem parityError_drops {s : State} {d line : Nat} (hc : cacheHolds s d (128 * line) 128 = true)
    (hs : rangeReady s (fePart (frameEntry s (line / 512))) (128 * line) 128 = true) :
    let t := parityError s d line
    (getRlc t d).lines = (getRlc s d).lines.filter (fun x => x.line != line) ∧
    (getPage t (pgRlc d)).errCorrected = sat32 (getPage s (pgRlc d)).errCorrected 1 ∧
    ∀ w, readBlock s (fePart (frameEntry s (line / 512))) (128 * line) 128 = .ok w →
      (getRlc t d).fills = (getRlc s d).fills ++ [{ line := line, bytes := storeBytes [] 0 w }] := by
  intro t
  have ht : t = (let c := getRlc s d
      let u := addCorrected (setRlc s d { c with lines := c.lines.filter (fun x => x.line != line) }) (pgRlc d) 1
      match readBlock u (fePart (frameEntry u (line / 512))) (128 * line) 128 with
      | .error _ => u
      | .ok w =>
        let c := getRlc u d
        bump64 (setRlc u d { c with fills := c.fills ++ [{ line := line, bytes := storeBytes [] 0 w }] }) (pgRlc d) 0x05C 1) :=
    if_neg (by rw [hc, hs]; exact Bool.false_ne_true)
  rw [ht]
  extract_lets c u y
  have hpage : (getPage u (pgRlc d)).errCorrected = sat32 (getPage s (pgRlc d)).errCorrected 1 := by
    show (getPage (modPage _ _ _) _).errCorrected = _
    rw [modPage_eq, getPage_setPage]
    rfl
  have hrlc : getRlc u d = { c with lines := c.lines.filter (fun x => x.line != line) } := getRlc_setRlc ..
  have hread : readBlock u (fePart (frameEntry u (line / 512))) (128 * line) 128 =
      readBlock s (fePart (frameEntry s (line / 512))) (128 * line) 128 := by
    have hil : ilSplit u = ilSplit s := congrArg (fieldOf · 0 7) (regOf_addCorrected ..)
    have hentry : frameEntry u = frameEntry s := rfl
    rw [hentry]
    exact readBlock_congr (s := s) (t := u) rfl hil ..
  rw [hread]
  split
  · rename_i f hf
    refine ⟨by rw [hrlc], hpage, fun w hw => ?_⟩
    rw [hf] at hw
    cases hw
  · rename_i w hw
    have hy : getRlc (bump64 (setRlc u d { y with fills := y.fills ++ [{ line := line, bytes := storeBytes [] 0 w }] }) (pgRlc d) 0x05C 1) d =
        { y with fills := y.fills ++ [{ line := line, bytes := storeBytes [] 0 w }] } := getRlc_setRlc ..
    rw [hy, show y = _ from hrlc]
    refine ⟨rfl, ?_, fun v hv => ?_⟩
    · exact (trafficPage (setReg64_traffic (setRlc u d _) (pgRlc d) 0x05C _) (pgRlc d) (·.errCorrected) fun _ => rfl).trans hpage
    · rw [hw] at hv
      cases hv
      rfl

/-- Settles O43. -/
theorem channels : Obligations.Channels := by
  refine ⟨fun chan stack off l f i ecc write s => ?access, fun chan stack die line l r d rest more s => ?windows⟩
  case access =>
    intro k x row wanted old
    have hexec (hs : channelServes s chan = true) (hr : chanReady s chan = true) (w : Option (List Byte)) (e : Ecc) :
        exec (.channelAccess chan off w e) s = .next (match w with
          | none => eccOutcome s chan off.toNat e
          | some l =>
            match ownerFrame s chan off.toNat with
            | none => s
            | some (f, _) =>
              if 32 < off.toNat % 32 + l.length then s
              else (writePhys s chan (physOf (chan, off.toNat))
                (sealOf s (fePart (frameEntry s f)) (ownerAddr s chan off.toNat f / 512)) l).1) := by
      show execChannelAccess chan off w e s = _
      unfold execChannelAccess
      simp only [hs, hr, Bool.not_true, Bool.or_self, Bool.false_eq_true, if_false] <;> rfl
    refine ⟨fun h => ?_, fun hs hr => ⟨hexec hs hr none .good, ⟨_, hexec hs hr none .corrected, ?corrected⟩,
      ⟨_, hexec hs hr none .uncorrectable, ?uncorrectable⟩, fun ho hl => ?_, fun ho => ?_⟩, ?scrub⟩
    · show execChannelAccess chan off write ecc s = _
      unfold execChannelAccess
      refine congrArg Host.Outcome.next (if_pos ?_)
      rcases h with h | h
      · rw [h]
        rfl
      · rw [h]
        exact Bool.or_true _
    case corrected =>
      obtain ⟨u, hout, hhbm, hpoison, hcount, rows, hstack⟩ := eccOutcome_corrected s chan off.toNat
      have hwanted (h : wanted < sparesOf x row.1) := rowEvent_wanted u k (chan.val % 16) (off.toNat / 1024) false (by rw [hstack]; exact h)
      have hfew (h : (x.rowErrs.filter old).length < 3) : eccOutcome s chan off.toNat .corrected = u :=
        hout.trans (if_neg (Nat.not_le.2 (Nat.succ_lt_succ h)))
      have hmany (h : 3 ≤ (x.rowErrs.filter old).length) : eccOutcome s chan off.toNat .corrected =
          rowEvent u k (chan.val % 16) (off.toNat / 1024) false := hout.trans (if_pos (Nat.succ_le_succ h))
      refine ⟨fun h => ?_, fun h => ?_, fun hm hw => ?_⟩
      · by_cases hm : (x.rowErrs.filter old).length < 3
        · rw [hfew hm]
          exact ⟨hhbm, hpoison⟩
        · rw [hmany (Nat.not_lt.1 hm)]
          obtain ⟨hmem, -⟩ := hwanted (h.resolve_left hm)
          exact ⟨hmem.hbm.trans hhbm, hmem.poison.trans hpoison⟩
      · rw [hfew h, hstack]
        exact ⟨hcount, rfl⟩
      · rw [hmany hm]
        exact (hwanted hw).2
    case uncorrectable =>
      obtain ⟨u, hout, hhbm, hpoison, hcount, hstack⟩ := eccOutcome_uncorrectable s chan off.toNat
      have hwanted (h : wanted < sparesOf x row.1) := rowEvent_wanted u k (chan.val % 16) (off.toNat / 1024) true (by rw [hstack]; exact h)
      have hbad (h : x.badRows.length < 256) := rowEvent_bad u k (chan.val % 16) (off.toNat / 1024) true (by rw [hstack]; exact h)
      dsimp only
      rw [hout]
      refine ⟨fun h => ?_, fun h => ?_, fun hsp hnot hroom => ?_⟩
      · have hmem : MemSame (pgHbm k) u (rowEvent u k (chan.val % 16) (off.toNat / 1024) true) := by
          rcases h with h | h
          · exact (hwanted h).1
          · exact (hbad h).1
        exact ⟨hmem.hbm.trans hhbm, by rw [hmem.poison]; exact hpoison⟩
      · exact ⟨(hwanted h).2, (hwanted h).1.uncorrected.trans hcount⟩
      · exact (hbad hroom).2 (by rw [hstack]; exact hsp) (by rw [hstack]; exact hnot)
    · refine (hexec hs hr (some l) ecc).trans ?_
      simp only [ho]
      exact congrArg Host.Outcome.next (if_neg (Nat.not_lt.2 hl))
    · refine (hexec hs hr (some l) ecc).trans ?_
      simp only [ho]
    case scrub =>
      intro y chan on
      have hexec (e : Ecc) : exec (.scrubRead stack e) s = .next (
          if !bitOf (regOf s (pgHbm stack) 0x044) 8 || !channelServes s chan then s
          else eccOutcome (modStack s stack (fun x => { x with scrub := (x.scrub + 1) % (16 * 2 ^ 27) })) chan (y.scrub / 16 * 32) e) := rfl
      have hgo (h : on) (e : Ecc) := (hexec e).trans (congrArg Host.Outcome.next (if_neg (by rw [h.1, h.2]; exact Bool.false_ne_true)))
      refine ⟨fun h => hgo h ecc, fun h => ⟨_, hgo h .good, ?_, rfl⟩, fun h => ?_⟩
      · show (getStack (modStack s stack _) stack).scrub = _
        rw [getStack_modStack]
      · refine (hexec ecc).trans (congrArg Host.Outcome.next (if_pos (Bool.of_not_eq_false fun hf => h ?_)))
        obtain ⟨hb, hc⟩ := Bool.or_eq_false_iff.1 hf
        exact ⟨(Bool.not_eq_false' _).mp hb, (Bool.not_eq_false' _).mp hc⟩
  case windows =>
    intro k x ch start total may
    have hopen : exec (.maintWindowOpen chan) s = .next (
        if !channelServes s chan || hbmTraining s || openWindows x != 0 || decide (4 ≤ total) || (start != 0 && !passed s (start - 1) (100 * msNs)) then s
        else addEvent (modStack s k (fun x => { x with
          maint := store x.maint ch true, maintStart := store x.maintStart ch (s.odometer + 1) })) (pgHbm k) 1) := rfl
    have hmay : (!channelServes s chan || hbmTraining s || openWindows x != 0 || decide (4 ≤ total) ||
        (start != 0 && !passed s (start - 1) (100 * msNs))) = false ↔ may := by
      have hlast : (start != 0 && !passed s (start - 1) (100 * msNs)) = false ↔ start = 0 ∨ start - 1 + 100000000 ≤ s.odometer := by
        rw [Bool.and_eq_false_iff, bne_eq_false_iff_eq, Bool.not_eq_false', passed, decide_eq_true_iff]
        rfl
      rw [Bool.or_eq_false_iff, Bool.or_eq_false_iff, Bool.or_eq_false_iff, Bool.or_eq_false_iff, hlast, Bool.not_eq_false',
        bne_eq_false_iff_eq, decide_eq_false_iff_not, Nat.not_le, and_assoc, and_assoc, and_assoc]
    refine ⟨fun h => ?opens, fun h => ?_, fun hm ht => ?closes, fun h => ?_, fun hm ht => ?abandons, fun h => ?_, fun h => ?_, fun h => ?_, fun h => ?_,
      fun h => ?_, ?parity, fun hr hsb hd => ?grant, fun h => ?_⟩
    case opens =>
      refine ⟨addEvent (modStack s k (fun x => { x with
        maint := store x.maint ch true, maintStart := store x.maintStart ch (s.odometer + 1) })) (pgHbm k) 1, ?_, ?_, ?_⟩
      · exact hopen.trans (congrArg Host.Outcome.next (if_neg (Bool.eq_false_iff.1 (hmay.2 h))))
      · rw [addEvent, modPage_eq, getStack_setPage, getStack_modStack]
        exact look_store_self ..
      · show (getPage (modPage _ _ _) _).events = _
        rw [modPage_eq, getPage_setPage]
        rfl
    · exact hopen.trans (congrArg Host.Outcome.next (if_pos (Bool.of_not_eq_false fun e => h (hmay.1 e))))
    case closes =>
      refine ⟨(x.need.filter (fun e => e.1 == ch)).foldl (fun s e => repairRow s k e)
        (excludeWindow (modStack s k (fun x => { x with maint := drop1 x.maint ch, winFails := drop1 x.winFails ch })) chan (start - 1)), ?_, ?_⟩
      · show execMaintWindowClose chan s = _
        unfold execMaintWindowClose
        refine congrArg Host.Outcome.next (if_neg ?_)
        rw [show look (getStack s (chan.val / 16)).maint (chan.val % 16) false = true from hm,
          show decide (look (getStack s (chan.val / 16)).maintStart (chan.val % 16) 0 - 1 + 40 * usNs < s.odometer) = false from
            decide_eq_false (Nat.not_lt.2 ht)]
        exact Bool.false_ne_true
      · have hstack : getStack (excludeWindow (modStack s k (fun x => { x with maint := drop1 x.maint ch, winFails := drop1 x.winFails ch }))
            chan (start - 1)) k = { x with maint := drop1 x.maint ch, winFails := drop1 x.winFails ch } := by
          rw [excludeWindow, modKerb_eq, getStack_setKerb, getStack_modStack]
        obtain ⟨hneed, hmaint, hfails⟩ := repairRows_stack (excludeWindow (modStack s k (fun x =>
          { x with maint := drop1 x.maint ch, winFails := drop1 x.winFails ch })) chan (start - 1)) k (x.need.filter (fun e => e.1 == ch))
        rw [hstack] at hneed hmaint hfails
        refine ⟨hneed.trans (List.filter_congr fun r hr => ?_), ?_, ?_⟩
        · have : (x.need.filter (fun e => e.1 == ch)).contains r = (r.1 == ch) := by
            rw [Bool.eq_iff_iff, List.contains_iff_mem, List.mem_filter]
            exact ⟨fun h => h.2, fun h => ⟨hr, h⟩⟩
          rw [this]
          rfl
        · rw [hmaint]
          exact look_drop1_self ..
        · rw [hfails]
          exact look_drop1_self ..
    · show execMaintWindowClose chan s = _
      unfold execMaintWindowClose
      refine congrArg Host.Outcome.next (if_pos ?_)
      rcases h with h | h
      · rw [show look (getStack s (chan.val / 16)).maint (chan.val % 16) false = false from h]
        rfl
      · rw [show decide (look (getStack s (chan.val / 16)).maintStart (chan.val % 16) 0 - 1 + 40 * usNs < s.odometer) = true from decide_eq_true h]
        exact Bool.or_true _
    case abandons =>
      have hexec : exec (.maintWindowAbandon chan) s = .next (windowAbandoned s chan) := by
        show execMaintWindowAbandon chan s = _
        unfold execMaintWindowAbandon
        refine congrArg Host.Outcome.next (if_neg ?_)
        rw [show look (getStack s (chan.val / 16)).maint (chan.val % 16) false = true from hm,
          show decide (look (getStack s (chan.val / 16)).maintStart (chan.val % 16) 0 - 1 + 40 * usNs ≤ s.odometer) = true from decide_eq_true ht]
        exact Bool.false_ne_true
      refine ⟨_, hexec, ?_⟩
      dsimp only
      rw [windowAbandoned_stack]
      refine ⟨look_drop1_self .., look_store_self .., ?_⟩
      by_cases hn : look x.winFails ch 0 < 2
      · rw [if_pos hn]
        exact if_neg (by show ¬ 3 ≤ look x.winFails ch 0 + 1; omega)
      · rw [if_neg hn]
        exact if_pos (by show 3 ≤ look x.winFails ch 0 + 1; omega)
    · show execMaintWindowAbandon chan s = _
      unfold execMaintWindowAbandon
      refine congrArg Host.Outcome.next (if_pos ?_)
      rcases h with h | h
      · rw [show look (getStack s (chan.val / 16)).maint (chan.val % 16) false = false from h]
        rfl
      · rw [show decide (look (getStack s (chan.val / 16)).maintStart (chan.val % 16) 0 - 1 + 40 * usNs ≤ s.odometer) = false from
          decide_eq_false (Nat.not_le.2 h)]
        exact Bool.or_true _
    · exact congrArg Host.Outcome.next (if_neg (fun e => h (beq_iff_eq.1 e)))
    · exact congrArg Host.Outcome.next (if_pos (beq_iff_eq.2 h))
    · refine ⟨fillBack s die, rfl, ?_⟩
      unfold fillBack
      dsimp only
      rw [h]
      dsimp only
      rw [getRlc_setRlc]
      exact ⟨rfl, rfl⟩
    · refine congrArg Host.Outcome.next (show fillBack s die = s from ?_)
      unfold fillBack
      dsimp only
      rw [h]
    case parity =>
      intro serves
      refine ⟨fun h => congrArg Host.Outcome.next (if_pos ?_), fun hc hs => ⟨parityError s die line.toNat, rfl, ?_⟩⟩
      · rcases h with h | h
        · rw [h]
          rfl
        · rw [show rangeReady s _ _ 128 = false from h]
          exact Bool.or_true _
      · exact parityError_drops hc hs
    case grant =>
      obtain ⟨u, hexec, hreq, hfab, hsign, hkerb⟩ := exec_reservationGrant hr hsb hd
      obtain ⟨hresv, hsbs, hcores, hfabric⟩ := queueResv_resv (sendReq u r.1 r.2 { d with granted := true }) r.1 chan
      have hk : getKerb (sendReq u r.1 r.2 { d with granted := true }) chan = _ := hkerb
      rw [hk] at hresv hsbs
      refine ⟨_, hexec, hresv, hsbs, ?_, ?_⟩
      · rw [getCore, hcores]
        exact hreq
      · rw [hfabric]
        have hsrc : coreStop u r.1 = coreStop s r.1 := by
          unfold coreStop siteOf
          rw [hsign]
        refine ⟨reqPacket u r.1 r.2 { d with granted := true }, ?_, hsrc, rfl, rfl⟩
        rw [← hfab]
        rfl
    · show execReservationGrant chan s = _
      unfold execReservationGrant
      refine congrArg Host.Outcome.next ?_
      rcases h with h | h
      · simp only [h]
      · split
        · rfl
        · exact if_neg (Nat.not_lt.2 h)

end Sys2Proof.Machine
end

section
/-!
PROOFS. Training and identity of a port (R277 to R282).
-/
namespace Sys2Proof.Machine

/-! ### What a cause leaves of registers, and what it sets -/

/-- The registers of the pages. -/
def regsOf (s : State) : Nat → SMap Word := fun pg => (getPage s pg).regs

theorem regOf_of_regs {s t : State} (h : Same regsOf s t) (pg off : Nat) : regOf t pg off = regOf s pg off := by
  have hp : (getPage t pg).regs = (getPage s pg).regs := congrFun h pg
  rw [regOf, hp, regOf]

section Raise
variable (s : State)

theorem modPage_regs (pg : Nat) {f : Page → Page} (hf : ∀ x, (f x).regs = x.regs) : Same regsOf s (modPage s pg f) := by
  refine funext fun p => ?_
  show (look (store s.pages pg (f (getPage s pg))) p {}).regs = (look s.pages p {}).regs
  by_cases h : p = pg
  · rw [h, look_store_self, hf]
    rfl
  · rw [look_store_of_ne _ _ _ h]

theorem raiseCause_regs (pg c : Nat) : Same regsOf s (raiseCause s pg c) := by
  unfold raiseCause
  extract_lets x u
  have hu : Same regsOf s u := modPage_regs s pg (f := fun x => { x with pend := x.pend ||| (1#32 <<< c) }) fun _ => rfl
  refine .ite hu (hu.trans (funext fun p => ?_))
  rw [regsOf, blockNotice_pages, regsOf]

theorem updateAlert_regs : Same regsOf s (updateAlert s) := by
  unfold updateAlert
  extract_lets d src u
  have hu : Same regsOf s u := rfl
  exact .ite (hu.trans (raiseCause_regs u ..)) hu

theorem raise_regs (pg c : Nat) : Same regsOf s (raise s pg c) := by
  unfold raise
  extract_lets u
  have hu : Same regsOf s u := raiseCause_regs s pg c
  have halert (i : Nat) : Same regsOf s (alertCause u i) := by
    unfold alertCause
    exact hu.trans (Same.trans (t := { u with mgmt := _ }) rfl (updateAlert_regs _))
  exact .ite (halert 0) (.ite (halert 1) (.ite (halert 4) (.ite (halert 6) hu)))

/-- A pending cause stays pending. -/
def PendStays (s t : State) : Prop := ∀ pg c, (getPage s pg).pend.getLsbD c = true → (getPage t pg).pend.getLsbD c = true

theorem raiseCause_pend (pg c : Nat) (hc : c < 32) : PendStays s (raiseCause s pg c) ∧ (getPage (raiseCause s pg c) pg).pend.getLsbD c = true := by
  have hget (p : Nat) : getPage (raiseCause s pg c) p =
      getPage (setPage s pg { getPage s pg with pend := (getPage s pg).pend ||| (1#32 <<< c) }) p := by
    unfold raiseCause
    dsimp only
    split
    · rfl
    · exact blockNotice_pages ..
  refine ⟨fun p b h => ?_, ?_⟩
  · rw [hget]
    by_cases hp : p = pg
    · subst hp
      rw [getPage_setPage, BitVec.getLsbD_or, h, Bool.true_or]
    · rw [getPage_setPage_of_ne _ _ _ hp, h]
  · rw [hget, getPage_setPage, BitVec.getLsbD_or]
    simp [hc]

theorem updateAlert_pend : PendStays s (updateAlert s) := by
  unfold updateAlert
  extract_lets d src u
  have hu : PendStays s u := fun _ _ h => h
  split
  · exact fun p b h => (raiseCause_pend u _ _ (by decide)).1 p b (hu p b h)
  · exact hu

theorem raise_pend (pg c : Nat) (hc : c < 32) : PendStays s (raise s pg c) ∧ (getPage (raise s pg c) pg).pend.getLsbD c = true := by
  obtain ⟨hstays, hset⟩ := raiseCause_pend s pg c hc
  have halert (i : Nat) : PendStays (raiseCause s pg c) (alertCause (raiseCause s pg c) i) := by
    unfold alertCause
    exact fun p b h => updateAlert_pend _ p b h
  have hall : PendStays (raiseCause s pg c) (raise s pg c) := by
    unfold raise
    dsimp only
    split
    · exact halert 0
    · split
      · exact halert 1
      · split
        · exact halert 4
        · split
          · exact halert 6
          · exact fun _ _ h => h
  exact ⟨fun p b h => hall p b (hstays p b h), hall pg c hset⟩

end Raise

theorem regOf_setReg_off (s : State) (pg v : Nat) {off o : Nat} (h : o ≠ off) (p : Nat) : regOf (setReg s pg off v) p o = regOf s p o := by
  by_cases hp : p = pg
  · rw [hp]
    exact regOf_setReg_of_ne _ _ _ _ h
  · exact regOf_setReg_page _ _ _ _ _ hp

theorem regOf_modPage (s : State) (pg : Nat) {f : Page → Page} (hf : ∀ x, (f x).regs = x.regs) (p o : Nat) :
    regOf (modPage s pg f) p o = regOf s p o := regOf_of_regs (modPage_regs s pg hf) p o

theorem passed_iff {s : State} {t n : Nat} : passed s t n = true ↔ t + n ≤ s.odometer := decide_eq_true_iff

/-! ### A port that leaves ACTIVE -/

/-- What a command of one port leaves: the other ports, the time, the power state, and what the plan says. -/
structure AtPort (p : Nat) (s t : State) : Prop where
  others : ∀ k, k ≠ p → getPort t k = getPort s k
  odometer : t.odometer = s.odometer
  power : t.power = s.power
  plan : ∀ q, regOf t (pgPort q) 0x044 = regOf s (pgPort q) 0x044

namespace AtPort
variable {p : Nat} {s t u : State}

theorem refl (p : Nat) (s : State) : AtPort p s s := ⟨fun _ _ => rfl, rfl, rfl, fun _ => rfl⟩

theorem trans (a : AtPort p s t) (b : AtPort p t u) : AtPort p s u :=
  ⟨fun k hk => (b.others k hk).trans (a.others k hk), b.odometer.trans a.odometer, b.power.trans a.power,
    fun q => (b.plan q).trans (a.plan q)⟩

theorem setPort (s : State) (p : Nat) (x : Port) : AtPort p s (setPort s p x) :=
  ⟨fun _ hk => getPort_setPort_of_ne _ _ _ hk, rfl, rfl, fun _ => rfl⟩

theorem modPort (s : State) (p : Nat) (f : Port → Port) : AtPort p s (modPort s p f) := setPort ..

theorem raise (s : State) (p pg c : Nat) : AtPort p s (raise s pg c) := by
  have h : Causes s (Machine.raise s pg c) := raise_causes ..
  refine ⟨fun k _ => ?_, causesPart h (·.odometer) fun _ => rfl, causesPart h (·.power) fun _ => rfl,
    fun q => regOf_of_regs (raise_regs ..) ..⟩
  rw [getPort, causesPart h (·.ports) fun _ => rfl, getPort]

theorem setReg (s : State) (p pg v : Nat) {off : Nat} (h : off ≠ 0x044) : AtPort p s (setReg s pg off v) :=
  ⟨fun _ _ => rfl, rfl, rfl, fun _ => regOf_setReg_off _ _ _ (Ne.symm h) _⟩

theorem portUse (h : AtPort p s t) (q : Nat) : portUse t q = portUse s q := congrArg (bitOf · 31) (h.plan q)

end AtPort

/-- A port whose queued units have been discarded. -/
def unitsDropped (x : Port) : Port :=
  { x with queues := ({} : Port).queues, cur := none, paused := none, deficit := ({} : Port).deficit }

/-- A port that has left ACTIVE. -/
def leftActive (x : Port) : Port :=
  if wasActive x then { unitsDropped x with replay := [], resendFrom := none, retrain := false } else x

/-- A dark port. -/
def darkPort (use : Bool) (x : Port) : Port :=
  { x with
    tstate := if use then 7 else 0, txLanes := 0, rxLanes := 0, txWidth := 0, rxWidth := 0, laneReq := 0xFF, farReq := 0xFF,
    txGood := 0xFF, widthChanging := false, chgOut := false, widthAt := 0, qreason := 0, nakOut := false, identOut := false, identChecked := true,
    resendFrom := none, txSeq := 0, rxSeq := 0, lastGood := 0xFFFF, credits := ({} : Port).credits, freed := ({} : Port).freed,
    slot := 0, nakTimes := [], rxQueue := [], identAt := 0, syncOut := none }

section Dark
variable (s : State) (p : Nat)

theorem getPort_raise (pg c k : Nat) : getPort (raise s pg c) k = getPort s k := by
  rw [getPort, causesPart (raise_causes s pg c) (·.ports) fun _ => rfl, getPort]

theorem dropUnits_port : getPort (dropUnits s p) p = unitsDropped (getPort s p) ∧ AtPort p s (dropUnits s p) := by
  unfold dropUnits
  exact ⟨getPort_setPort .., (AtPort.setReg s p _ _ (by decide)).trans (.setPort ..)⟩

theorem leaveActive_port : getPort (leaveActive s p) p = leftActive (getPort s p) ∧ AtPort p s (leaveActive s p) := by
  unfold leaveActive leftActive
  split
  · have hdrop : AtPort p s (dropQueued s p) := by
      unfold dropQueued
      exact ((AtPort.setReg s p _ _ (by decide)).trans (dropUnits_port ..).2).trans (.modPort ..)
    refine ⟨?_, (hdrop.trans (.modPort ..)).trans (.raise ..)⟩
    rw [getPort_raise, modPort_eq, getPort_setPort]
    unfold dropQueued
    dsimp only
    rw [modPort_eq, getPort_setPort, (dropUnits_port _ p).1]
    rfl
  · exact ⟨rfl, .refl p s⟩

theorem goDark_port : getPort (goDark s p) p = darkPort (portUse s p) (leftActive (getPort s p)) ∧ AtPort p s (goDark s p) := by
  obtain ⟨hport, hat⟩ := leaveActive_port s p
  unfold goDark
  refine ⟨?_, hat.trans (.modPort ..)⟩
  rw [modPort_eq, getPort_setPort, hport, hat.portUse]
  rfl

/-- An attempt that fails leaves the port dark, to be tried again. -/
theorem failTraining_port : getPort (failTraining s p) p =
    { darkPort (portUse s p) (leftActive (getPort s p)) with retryAt := s.odometer + 1 } ∧ AtPort p s (failTraining s p) := by
  obtain ⟨hport, hat⟩ := goDark_port s p
  unfold failTraining
  have hreg : AtPort p (goDark s p) (bump32 (goDark s p) (pgPort p) 0x06C 1) := .setReg _ _ _ _ (by decide)
  refine ⟨?_, (hat.trans hreg).trans (.modPort ..)⟩
  rw [modPort_eq, getPort_setPort]
  have : getPort (bump32 (goDark s p) (pgPort p) 0x06C 1) p = getPort (goDark s p) p := rfl
  rw [this, hport, (hat.trans hreg).odometer]

/-- A training attempt that starts. -/
theorem startTraining_port : getPort (startTraining s p) p = { getPort s p with tstate := 1, trainAt := s.odometer, retryAt := 0 } ∧
    (getPage (startTraining s p) (pgPort p)).events = sat32 (getPage s (pgPort p)).events 1 ∧ AtPort p s (startTraining s p) := by
  unfold startTraining
  refine ⟨getPort_setPort .., ?_, fun k hk => getPort_setPort_of_ne _ _ _ hk, rfl, rfl, fun q => ?_⟩
  · rw [addEvent, modPage_eq, getPage_setPage]
    rfl
  · exact regOf_modPage _ (pgPort p) (f := fun x => { x with events := sat32 x.events 1 }) (fun _ => rfl) ..

end Dark

/-! ### Training steps -/

/-- A comparator of LIGHT that watches the port fires; without one nothing happens. -/
theorem fireLight_iff (s : State) (port : Nat) :
    (s.power.state ≠ .off ∧ (getCmp s 6).en = true ∧ bitOf (getCmp s 6).arg.toNat port = true → fireLight s port = fireCmp s 6) ∧
    (¬ (s.power.state ≠ .off ∧ (getCmp s 6).en = true ∧ bitOf (getCmp s 6).arg.toNat port = true) → fireLight s port = s) := by
  have hcond : (s.power.state != .off && (getCmp s 6).en && bitOf (getCmp s 6).arg.toNat port) = true ↔
      s.power.state ≠ .off ∧ (getCmp s 6).en = true ∧ bitOf (getCmp s 6).arg.toNat port = true := by
    rw [Bool.and_eq_true, Bool.and_eq_true, bne_iff_ne, and_assoc]
  exact ⟨fun h => if_pos (hcond.2 h), fun h => if_neg (mt hcond.1 h)⟩

section Light
variable (s : State) (port : Nat)

theorem lightOn_power : (lightOn s port).power = s.power := by
  unfold lightOn
  dsimp only
  split
  · rfl
  · rfl

theorem lightLoss_port : getPort (lightLoss s port) port = { darkPort (portUse s port) (leftActive (getPort s port)) with
    light := false, retryAt := 0 } ∧ AtPort port s (lightLoss s port) := by
  obtain ⟨hport, hat⟩ := goDark_port s port
  unfold lightLoss
  refine ⟨?_, hat.trans (.modPort ..)⟩
  rw [modPort_eq, getPort_setPort, hport]

theorem startsTraining_iff (x : Port) : (portUp s port && !x.txOff && (x.tstate == 0 || x.tstate == 7)) = true ↔
    portUp s port = true ∧ x.txOff = false ∧ (x.tstate = 0 ∨ x.tstate = 7) := by
  rw [Bool.and_eq_true, Bool.and_eq_true, Bool.not_eq_true', Bool.or_eq_true, beq_iff_eq, beq_iff_eq, and_assoc]

end Light

theorem leftActive_replay (x : Port) : (leftActive x).replay = if wasActive x then [] else x.replay := by
  unfold leftActive
  split
  · rfl
  · rfl

/-- The widths of a port that ends its training. -/
def trainedPort (x : Port) (tx rx : BitVec 8) (now : Nat) : Port :=
  { setWidths { x with txGood := x.txGood &&& tx, laneReq := x.laneReq &&& rx } with
    tstate := 4, trainAt := now, identOut := true, identChecked := false, widthChanging := false, chgOut := false, widthAt := 0 }

/-! ### The neighbour's identity -/

section Ident
variable {s : State} {p : Nat} {id : Ident}

/-- A port that drops out of ACTIVE loses what it has sent and raises its cause. -/
theorem dropOut_port (h : wasActive (getPort s p) = true) : (getPort (dropOut s p) p).nbr = (getPort s p).nbr ∧
    (getPort (dropOut s p) p).retrain = false ∧ (getPort (dropOut s p) p).replay = [] ∧
    (getPage (dropOut s p) (pgPort p)).pend.getLsbD 0 = true := by
  obtain ⟨hport, -⟩ := goDark_port s p
  have hpend : (getPage (goDark s p) (pgPort p)).pend.getLsbD 0 = true := by
    show (getPage (leaveActive s p) (pgPort p)).pend.getLsbD 0 = true
    unfold leaveActive
    rw [if_pos h]
    exact (raise_pend _ (pgPort p) 0 (by decide)).2
  have hleft : leftActive (getPort s p) = { unitsDropped (getPort s p) with replay := [], resendFrom := none, retrain := false } := if_pos h
  rw [hleft] at hport
  unfold dropOut
  dsimp only
  split
  · obtain ⟨hstart, -, -⟩ := startTraining_port (goDark s p) p
    rw [hstart, hport]
    refine ⟨rfl, rfl, rfl, ?_⟩
    unfold startTraining
    rw [addEvent, modPage_eq, getPage_setPage]
    exact hpend
  · rw [hport]
    exact ⟨rfl, rfl, rfl, hpend⟩

theorem queuedUnits_unitsDropped (x : Port) : queuedUnits (unitsDropped x) = 0 := rfl

/-- A plan that is open only notes the neighbour. -/
theorem checkIdent_open (h : planOpen s = true) : checkIdent s p id = setPort s p { getPort s p with nbr := some id } := if_pos h

theorem checkIdent_changed (h : planOpen s = false) (hre : (getPort s p).retrain = true) (hn : (getPort s p).nbr ≠ some id) :
    checkIdent s p id = dropOut (setPort s p { getPort s p with nbr := some id }) p := by
  have hsame : ((getPort s p).nbr == some id) = false := beq_eq_false_iff_ne.2 hn
  unfold checkIdent
  extract_lets x r same u
  exact (if_neg (Bool.eq_false_iff.1 h)).trans (if_pos (by rw [show x.retrain = true from hre, show same = false from hsame]; rfl))

/-- A port whose neighbour has been checked against the plan. -/
def checkedPort (x : Port) (id : Ident) (r now : Nat) : Port :=
  let y := if wasActive x && r != 0 then { unitsDropped { x with nbr := some id } with retrain := false } else { x with nbr := some id }
  { y with
    tstate := if r == 0 then 5 else 6, qreason := r, identChecked := true, retrain := false,
    rxQueue := if x.tstate == 4 && !x.retrain && r != 0 then [] else y.rxQueue,
    resendFrom := if x.retrain then y.replay.head?.map (fun f => f.seq) else y.resendFrom,
    ackAt := now, slot := if wasActive x && r == 0 then y.slot else 0 }

theorem checkedPort_parts (x : Port) (id : Ident) (r now : Nat) :
    let y := checkedPort x id r now
    y.tstate = (if r = 0 then 5 else 6) ∧ y.qreason = r ∧ y.nbr = some id ∧ y.retrain = false ∧ y.replay = x.replay ∧
    y.rxQueue = (if x.tstate = 4 ∧ x.retrain = false ∧ r ≠ 0 then [] else x.rxQueue) ∧
    (r ≠ 0 → wasActive x = true → queuedUnits y = 0) := by
  by_cases hr : r = 0
  · subst hr
    simp [checkedPort]
  · have hne : (r != 0) = true := bne_iff_ne.2 hr
    cases hact : wasActive x
    · simp [checkedPort, hr, hact]
    · simp [checkedPort, hr, hact, unitsDropped]
      rfl

theorem checkIdent_checked (h : planOpen s = false) (hsame : ¬ ((getPort s p).retrain = true ∧ (getPort s p).nbr ≠ some id)) :
    let x := getPort s p
    let r := identReason s p id
    let t := checkIdent s p id
    getPort t p = checkedPort x id r s.odometer ∧
    (r = 0 → x.tstate ≠ 5 → (getPage t (pgPort p)).pend.getLsbD 3 = true) ∧
    (r ≠ 0 → x.tstate ≠ 6 → (getPage t (pgPort p)).pend.getLsbD 2 = true) ∧
    (r ≠ 0 → wasActive x = true → (getPage t (pgPort p)).pend.getLsbD 0 = true) := by
  intro x r t
  have ht : t = checkIdent s p id := rfl
  clear_value t
  subst ht
  have hkeep : (x.retrain && !(x.nbr == some id)) = false := by
    refine Bool.eq_false_iff.2 fun hb => hsame ?_
    obtain ⟨hre, hn⟩ := Bool.and_eq_true_iff.1 hb
    exact ⟨hre, beq_eq_false_iff_ne.1 (Bool.not_eq_true' _ ▸ hn)⟩
  unfold checkIdent
  extract_lets same u v w
  have hopen : ¬ planOpen u = true := Bool.eq_false_iff.1 h
  have hu : getPort u p = { x with nbr := some id } := getPort_setPort ..
  have hv : getPort v p = (if wasActive x && r != 0 then { unitsDropped { x with nbr := some id } with retrain := false }
      else { x with nbr := some id }) ∧ AtPort p u v ∧
      (r ≠ 0 → wasActive x = true → (getPage v (pgPort p)).pend.getLsbD 0 = true) := by
    simp only [v]
    split
    · obtain ⟨hport, hat⟩ := dropUnits_port u p
      unfold failsPlan
      refine ⟨?_, (hat.trans (.modPort ..)).trans (.raise ..), fun _ _ => (raise_pend _ (pgPort p) 0 (by decide)).2⟩
      rw [getPort_raise, modPort_eq, getPort_setPort, hport, hu]
    · rename_i hno
      refine ⟨hu, .refl p u, fun hr hact => absurd ?_ hno⟩
      rw [show wasActive x = true from hact, show (r != 0) = true from bne_iff_ne.2 hr]
      rfl
  obtain ⟨hport, hat, hpend⟩ := hv
  have hw : getPort w p = checkedPort x id r s.odometer := by
    simp only [w]
    rw [modPort_eq, getPort_setPort, hport, hat.odometer]
    rfl
  have hwpend (hr : r ≠ 0) (hact : wasActive x = true) : (getPage w (pgPort p)).pend.getLsbD 0 = true := hpend hr hact
  rw [if_neg hopen, if_neg (Bool.eq_false_iff.1 hkeep)]
  by_cases hr : r = 0
  · rw [if_pos (show (r == 0) = true from beq_iff_eq.2 hr)]
    by_cases h5 : x.tstate = 5
    · rw [if_pos (show (x.tstate == 5) = true from beq_iff_eq.2 h5)]
      exact ⟨hw, fun _ hn => absurd h5 hn, fun hn => absurd hr hn, fun hn => absurd hr hn⟩
    · rw [if_neg (show ¬ (x.tstate == 5) = true from fun e => h5 (beq_iff_eq.1 e)), getPort_raise]
      exact ⟨hw, fun _ _ => (raise_pend w (pgPort p) 3 (by decide)).2, fun hn => absurd hr hn, fun hn => absurd hr hn⟩
  · rw [if_neg (show ¬ (r == 0) = true from fun e => hr (beq_iff_eq.1 e))]
    by_cases h6 : x.tstate = 6
    · rw [if_pos (show (x.tstate == 6) = true from beq_iff_eq.2 h6)]
      exact ⟨hw, fun h0 => absurd h0 hr, fun _ hn => absurd h6 hn, hwpend⟩
    · rw [if_neg (show ¬ (x.tstate == 6) = true from fun e => h6 (beq_iff_eq.1 e)), getPort_raise]
      obtain ⟨hstays, hset⟩ := raise_pend w (pgPort p) 2 (by decide)
      exact ⟨hw, fun h0 => absurd h0 hr, fun _ _ => hset, fun hn hact => hstays _ _ (hwpend hn hact)⟩

/-- The identity that is due goes with the answer; nothing else changes before the check. -/
theorem takeIdent_checks (s : State) (p : Nat) (id : Ident) : ∃ u b, takeIdent s p id = checkIdent u p id ∧
    getPort u p = { getPort s p with identOut := b } ∧ u.pages = s.pages ∧ u.odometer = s.odometer := by
  unfold takeIdent
  dsimp only
  split
  · exact ⟨_, true, rfl, getPort_setPort .., rfl, rfl⟩
  · exact ⟨s, _, rfl, rfl, rfl, rfl⟩

theorem identReason_congr {s t : State} (h : t.pages = s.pages) (p : Nat) (id : Ident) :
    identReason t p id = identReason s p id ∧ planOpen t = planOpen s := by
  have hreg (pg off : Nat) : regOf t pg off = regOf s pg off := regOf_congr h ..
  unfold identReason assigned planOpen
  simp only [hreg, and_self]

theorem identReason_checked {s : State} {p : Nat} {id : Ident} (ha : assigned s = true) (hp : bitOf (regOf s (pgPort p) 0x044) 31 = true)
    (hid : id.assigned = true) (hchip : id.chip.toNat = fieldOf (regOf s (pgPort p) 0x044) 0 16) :
    identReason s p id = (if id.port.toNat != fieldOf (regOf s (pgPort p) 0x044) 16 5 then 4
      else if id.digest.toNat != regOf s (pgPort 0) 0x104 then 5 else 0) := by
  unfold identReason
  simp only [ha, hp, hid, hchip, Bool.not_true, bne_self_eq_false, Bool.or_self, Bool.false_eq_true, if_false]

end Ident

section TrainStep
variable {s : State} {port : PortId} {tx rx : BitVec 8} (hup : portUp s port = true)
include hup

theorem exec_trainStepDone_two (h2 : (getPort s port).tstate = 2) : exec (.trainStepDone port tx rx) s = .next (
    let x := getPort s port
    let y := { x with txGood := if x.retrain then x.txGood &&& tx else tx, laneReq := if x.retrain then x.laneReq &&& rx else rx,
                      farReq := if x.retrain then x.farReq else 0xFF#8, trainAt := s.odometer }
    if y.txGood &&& y.farReq == 0 || y.laneReq == 0 then failTraining s port else setPort s port { y with tstate := 3 }) := by
  show execTrainStepDone port tx rx s = _
  unfold execTrainStepDone
  simp only [hup, h2, Bool.not_true, Bool.false_eq_true, if_false, Nat.reduceBEq, if_true]
  cases (getPort s port).retrain
  · rfl
  · rfl

theorem exec_trainStepDone_three (h3 : (getPort s port).tstate = 3) : exec (.trainStepDone port tx rx) s = .next (
    let x := getPort s port
    if x.txGood &&& tx &&& x.farReq == 0 || x.laneReq &&& rx == 0 then failTraining s port
    else setPort s port (trainedPort x tx rx s.odometer)) := by
  show execTrainStepDone port tx rx s = _
  unfold execTrainStepDone
  simp only [hup, h3, Bool.not_true, Bool.false_eq_true, if_false, Nat.reduceBEq, if_true]
  rfl

end TrainStep

/-- Settles O44. -/
theorem portTraining : Obligations.PortTraining := by
  refine ⟨fun port tx rx lane s => ?train, fun port id s => ?ident⟩
  case train =>
    intro x dark others ready watched
    have hready := startsTraining_iff s port x
    have hon (h : x.light = false) : exec (.lightOn port) s = .next (fireLight (lightOn s port) port) :=
      congrArg Host.Outcome.next (if_neg (by rw [show (getPort s port).light = false from h]; exact Bool.false_ne_true))
    have hloss (h : x.light = true) : exec (.lightLoss port) s = .next (fireLight (lightLoss s port) port) :=
      congrArg Host.Outcome.next (if_pos h)
    have hpower : (lightLoss s port).power = s.power := (lightLoss_port s port).2.power
    have hwon : (lightOn s port).power.state ≠ .off ∧ (getCmp (lightOn s port) 6).en = true ∧
        bitOf (getCmp (lightOn s port) 6).arg.toNat port = true ↔ watched := by
      unfold getCmp
      rw [lightOn_power]
      exact Iff.rfl
    have hwloss : (lightLoss s port).power.state ≠ .off ∧ (getCmp (lightLoss s port) 6).en = true ∧
        bitOf (getCmp (lightLoss s port) 6).arg.toNat port = true ↔ watched := by
      unfold getCmp
      rw [hpower]
      exact Iff.rfl
    refine ⟨fun h => congrArg Host.Outcome.next (if_pos h), fun h => congrArg Host.Outcome.next (if_neg (Bool.eq_false_iff.1 h)),
      fun hw => ⟨fun h => ?_, fun h => ?_⟩, fun hw h => ⟨fun hr => ?_, fun hr => ?_⟩, fun hw h => ?_, ?steps, ?timeout, ?retry, ?retrain,
      fun h => ?_, fun h => congrArg Host.Outcome.next (if_neg (Bool.eq_false_iff.1 h)), fun ht hc ho => ?_, fun h => ?_⟩
    · rw [hon h, (fireLight_iff (lightOn s port) port).1 (hwon.2 hw)]
    · rw [hloss h, (fireLight_iff (lightLoss s port) port).1 (hwloss.2 hw)]
    · refine ⟨lightOn s port, ?_, ?_⟩
      · rw [hon h, (fireLight_iff (lightOn s port) port).2 (mt hwon.1 hw)]
      · have hlight : lightOn s port = startTraining (modPort s port (fun x => { x with light := true })) port := if_pos (hready.2 hr)
        obtain ⟨hport, hev, hat⟩ := startTraining_port (modPort s port (fun x => { x with light := true })) port
        have hset : getPort (modPort s port (fun x => { x with light := true })) port = { x with light := true } := getPort_setPort ..
        rw [hset] at hport
        dsimp only
        rw [hlight, hport]
        exact ⟨rfl, rfl, rfl, hev, ((AtPort.modPort s port _).trans hat).others⟩
    · rw [hon h, (fireLight_iff (lightOn s port) port).2 (mt hwon.1 hw)]
      exact congrArg Host.Outcome.next (if_neg (mt hready.1 hr))
    · obtain ⟨hport, hat⟩ := lightLoss_port s port
      refine ⟨lightLoss s port, ?_, ?_⟩
      · rw [hloss h, (fireLight_iff (lightLoss s port) port).2 (mt hwloss.1 hw)]
      · dsimp only
        rw [hport]
        exact ⟨rfl, rfl, leftActive_replay x, hat.others⟩
    case steps =>
      intro t2 r2 f2 fails t3 r3 run
      have hfails (a b : BitVec 8) : (a == 0 || b == 0) = true ↔ a = 0 ∨ b = 0 := by
        rw [Bool.or_eq_true, beq_iff_eq, beq_iff_eq]
      refine ⟨fun h => ?_, fun hup => ⟨fun h1 ht => ?_, fun h1 ht => ?_, fun h2 hf => ?_, fun h2 hf => ?_, fun h3 hf => ?_, fun h3 hf => ?_⟩⟩
      · show execTrainStepDone port tx rx s = _
        unfold execTrainStepDone
        rcases h with h | ⟨h1, h2, h3⟩
        · simp only [h, Bool.not_false, if_true]
        · have h1 : ((getPort s port).tstate == 1) = false := beq_eq_false_iff_ne.2 h1
          have h2 : ((getPort s port).tstate == 2) = false := beq_eq_false_iff_ne.2 h2
          have h3 : ((getPort s port).tstate == 3) = false := beq_eq_false_iff_ne.2 h3
          simp only [h1, h2, h3, Bool.false_eq_true, if_false, ite_self]
      · show execTrainStepDone port tx rx s = _
        unfold execTrainStepDone
        have hpass : passed s (getPort s port).trainAt (10 * usNs) = true := decide_eq_true ht
        simp only [hup, show (getPort s port).tstate = 1 from h1, hpass, Bool.not_true, Bool.false_eq_true, if_false, beq_self_eq_true, if_true]
        rfl
      · show execTrainStepDone port tx rx s = _
        unfold execTrainStepDone
        have hpass : passed s (getPort s port).trainAt (10 * usNs) = false := decide_eq_false (Nat.not_le.2 ht)
        simp only [hup, show (getPort s port).tstate = 1 from h1, hpass, Bool.not_true, Bool.false_eq_true, if_false, beq_self_eq_true, if_true]
      · exact (exec_trainStepDone_two hup h2).trans (congrArg Host.Outcome.next (if_neg (mt (hfails _ _).1 hf)))
      · exact (exec_trainStepDone_two hup h2).trans (congrArg Host.Outcome.next (if_pos ((hfails _ _).2 hf)))
      · exact (exec_trainStepDone_three hup h3).trans (congrArg Host.Outcome.next (if_pos ((hfails _ _).2 hf)))
      · refine ⟨_, (exec_trainStepDone_three hup h3).trans (congrArg Host.Outcome.next (if_neg (mt (hfails _ _).1 hf))), ?_⟩
        dsimp only
        rw [getPort_setPort]
        exact ⟨rfl, rfl, rfl, rfl, rfl, rfl, rfl, rfl, (AtPort.setPort ..).others⟩
    case timeout =>
      intro trains tooLong
      have hcond : ((x.tstate == 2 || x.tstate == 3 || x.tstate == 4) && ((x.retrain && x.tstate != 4 && passed s x.retrainAt (10 * msNs)) ||
          (if x.tstate == 2 then passed s x.trainAt (30 * msNs)
           else if x.tstate == 3 then passed s x.trainAt (5 * msNs)
           else passed s x.trainAt msNs && !planOpen s))) = true ↔ trains ∧ tooLong := by
        have hlong : (if x.tstate == 2 then passed s x.trainAt (30 * msNs)
           else if x.tstate == 3 then passed s x.trainAt (5 * msNs)
           else passed s x.trainAt msNs && !planOpen s) = true ↔ (if x.tstate = 2 then x.trainAt + 30000000 ≤ s.odometer
             else if x.tstate = 3 then x.trainAt + 5000000 ≤ s.odometer
             else x.trainAt + 1000000 ≤ s.odometer ∧ planOpen s = false) := by
          by_cases h2 : x.tstate = 2
          · simp [h2, passed_iff, msNs]
          · by_cases h3 : x.tstate = 3
            · simp [h3, passed_iff, msNs]
            · simp [h2, h3, passed_iff, msNs]
        rw [Bool.and_eq_true, Bool.or_eq_true (_ && _), hlong]
        simp [trains, tooLong, passed_iff, msNs, or_assoc, and_assoc]
      refine ⟨fun h hl => ⟨failTraining s port, ?_, ?_⟩, fun h => ?_⟩
      · exact congrArg Host.Outcome.next (if_pos (hcond.2 ⟨h, hl⟩))
      · obtain ⟨hport, hat⟩ := failTraining_port s port
        rw [hport]
        exact ⟨rfl, rfl, rfl, hat.others⟩
      · refine congrArg Host.Outcome.next (if_neg (mt hcond.1 fun hb => ?_))
        rcases h with h | h
        · exact h hb.1
        · exact h hb.2
    case retry =>
      intro due
      have hcond : (x.light && portUp s port && !x.txOff && (x.tstate == 0 || x.tstate == 7) && x.retryAt != 0 &&
          passed s (x.retryAt - 1) (10 * msNs)) = true ↔ due := by
        simp [due, ready, dark, passed_iff, msNs, and_assoc]
      exact ⟨fun h => congrArg Host.Outcome.next (if_pos (hcond.2 h)), fun h => congrArg Host.Outcome.next (if_neg (mt hcond.1 h))⟩
    case retrain =>
      intro stuck due
      have hcond : (x.tstate == 5 && portUp s port && (decide (64 < (x.nakTimes.filter (fun t => s.odometer < t + msNs)).length) ||
          (!x.replay.isEmpty && passed s x.ackAt (100 * usNs)))) = true ↔ due := by
        rw [Bool.and_eq_true, Bool.and_eq_true, Bool.or_eq_true, Bool.and_eq_true, beq_iff_eq, decide_eq_true_iff, passed_iff,
          Bool.not_eq_true', List.isEmpty_eq_false_iff, and_assoc]
        exact Iff.rfl
      refine ⟨fun h => ⟨_, congrArg Host.Outcome.next (if_pos (hcond.2 h)), ?_⟩, fun h => congrArg Host.Outcome.next (if_neg (mt hcond.1 h))⟩
      have hset : getPort (addEvent (setPort s port
          { x with tstate := 2, retrain := true, trainAt := s.odometer, retrainAt := s.odometer, nakTimes := [] }) (pgPort port) 1) port = _ :=
        getPort_setPort ..
      dsimp only
      rw [hset]
      refine ⟨rfl, rfl, rfl, rfl, ?_, fun k hk => getPort_setPort_of_ne _ _ _ hk⟩
      rw [addEvent, modPage_eq, getPage_setPage]
      rfl
    · exact congrArg Host.Outcome.next (if_pos h)
    · have hcond : (trained s port && x.widthChanging && !x.chgOut) = true := by
        rw [ht, hc, ho]
        rfl
      refine ⟨_, congrArg Host.Outcome.next (if_pos hcond), ?_⟩
      dsimp only
      rw [getPort_setPort]
      refine ⟨rfl, rfl, rfl, ?_, (AtPort.setPort ..).others⟩
      have h0 : (getPort s port).widthAt = x.widthAt := rfl
      by_cases hw : x.widthAt = 0
      · simp [h0, x]
      · simp [h0, hw, x]
    · refine congrArg Host.Outcome.next (if_neg fun hb => ?_)
      obtain ⟨hb, ho⟩ := Bool.and_eq_true_iff.1 hb
      obtain ⟨ht, hc⟩ := Bool.and_eq_true_iff.1 hb
      rcases h with h | h | h
      · exact Bool.false_ne_true (h.symm.trans ht)
      · exact Bool.false_ne_true (h.symm.trans hc)
      · rw [show (getPort s port).chgOut = true from h] at ho
        cases ho
  case ident =>
    intro x r plan changed
    have hexec (h : trained s port = true) : exec (.identReceive port id) s = .next (takeIdent s port id) :=
      congrArg Host.Outcome.next (if_pos h)
    obtain ⟨u, b, htake, hport, hpages, hodo⟩ := takeIdent_checks s port id
    obtain ⟨hreason, hopen⟩ := identReason_congr hpages port id
    refine ⟨fun h => congrArg Host.Outcome.next (if_neg (Bool.eq_false_iff.1 h)), fun htr => ⟨fun ho => ?_, fun ho hc => ?_, fun ho hc => ?_⟩,
      fun h => ?_, fun ha hp => ?_, fun ha hp => ⟨fun h => ?_, fun hid hchip => ⟨fun h => ?_, fun h => ?_⟩⟩⟩
    · refine ⟨_, (hexec htr).trans (congrArg Host.Outcome.next (htake.trans (checkIdent_open (hopen.trans ho)))), ?_⟩
      dsimp only
      rw [getPort_setPort, hport]
      exact ⟨rfl, rfl, rfl, rfl⟩
    · have hsame : ¬ ((getPort u port).retrain = true ∧ (getPort u port).nbr ≠ some id) := by
        rw [hport]
        exact hc
      obtain ⟨hdone, h3, h2, h0⟩ := checkIdent_checked (hopen.trans ho) hsame
      rw [hport, hreason] at hdone h3 h2 h0
      refine ⟨_, (hexec htr).trans (congrArg Host.Outcome.next htake), ?_⟩
      dsimp only
      rw [hdone]
      obtain ⟨hstate, hq, hn, hre, hrep, hrx, hunits⟩ := checkedPort_parts { x with identOut := b } id r u.odometer
      exact ⟨hstate, hq, hn, hre, hrep, hrx, h3, h2, fun hr hact => ⟨hunits hr hact, h0 hr hact⟩⟩
    · have hch : (getPort u port).retrain = true ∧ (getPort u port).nbr ≠ some id := by
        rw [hport]
        exact hc
      have hset : getPort (setPort u port { getPort u port with nbr := some id }) port = { x with identOut := b, nbr := some id } := by
        rw [getPort_setPort, hport]
      have hact : wasActive (getPort (setPort u port { getPort u port with nbr := some id }) port) = true := by
        rw [hset]
        show (x.tstate == 5 || x.retrain) = true
        rw [hc.1, Bool.or_true]
      obtain ⟨hn, hre, hreplay, hpend⟩ := dropOut_port hact
      refine ⟨_, (hexec htr).trans (congrArg Host.Outcome.next (htake.trans (checkIdent_changed (hopen.trans ho) hch.1 hch.2))), ?_⟩
      rw [hset] at hn
      exact ⟨hn, hre, hreplay, hpend⟩
    · simp [r, identReason, h]
    · simp [r, identReason, ha, show bitOf (regOf s (pgPort port) 0x044) 31 = false from hp]
    · simp only [r, identReason, ha, show bitOf (regOf s (pgPort port) 0x044) 31 = true from hp, Bool.not_true, Bool.false_eq_true, if_false]
      refine if_pos ?_
      rcases h with h | h
      · rw [h]
        rfl
      · rw [bne_iff_ne.2 (show id.chip.toNat ≠ fieldOf (regOf s (pgPort port) 0x044) 0 16 from h), Bool.or_true]
    · exact (identReason_checked ha hp hid hchip).trans (if_pos (bne_iff_ne.2 h))
    · refine (identReason_checked ha hp hid hchip).trans ?_
      refine (if_neg (by rw [show id.port.toNat = fieldOf (regOf s (pgPort port) 0x044) 16 5 from h, bne_self_eq_false]; exact Bool.false_ne_true)).trans ?_
      by_cases hd : id.digest.toNat = regOf s (pgPort 0) 0x104
      · rw [if_pos hd, if_neg (by rw [hd, bne_self_eq_false]; exact Bool.false_ne_true)]
      · rw [if_neg hd, if_pos (bne_iff_ne.2 hd)]

end Sys2Proof.Machine
end

section
/-!
PROOFS. Bridge slices, handshakes and trace buffers (R267 to R270, R442 to R445).
-/
namespace Sys2Proof.Machine

/-! ### Pending causes stay through a drain -/

namespace PendStays
variable {s t u : State}

theorem refl (s : State) : PendStays s s := fun _ _ h => h

theorem trans (a : PendStays s t) (b : PendStays t u) : PendStays s u := fun pg c h => b pg c (a pg c h)

theorem of_pages (h : t.pages = s.pages) : PendStays s t := fun pg c hc => by
  rw [getPage, h]
  exact hc

theorem ite {p : Prop} [Decidable p] (a : PendStays s t) (b : PendStays s u) : PendStays s (if p then t else u) := by
  split
  · exact a
  · exact b

theorem foldl {α : Type} {f : State → α → State} (h : ∀ s a, PendStays s (f s a)) (l : List α) (s : State) : PendStays s (l.foldl f s) := by
  induction l generalizing s with
  | nil => exact .refl s
  | cons a l ih => exact (h s a).trans (ih _)

end PendStays

section Pend
variable (s : State)

theorem modPage_pend (pg : Nat) {f : Page → Page} (hf : ∀ x, (f x).pend = x.pend) : PendStays s (modPage s pg f) := fun p c h => by
  by_cases hp : p = pg
  · rw [hp, modPage_eq, getPage_setPage, hf, ← hp]
    exact h
  · rw [modPage_eq, getPage_setPage_of_ne _ _ _ hp]
    exact h

theorem setReg_pend (pg off v : Nat) : PendStays s (setReg s pg off v) := modPage_pend s pg fun _ => rfl

theorem setReg64_pend (pg off v : Nat) : PendStays s (setReg64 s pg off v) :=
  PendStays.trans (setReg_pend s _ _ _) (setReg_pend _ _ _ _)

theorem queueNotice_pages (p : Nat) (n : Notice) : (queueNotice s p n).pages = s.pages := by
  unfold queueNotice
  dsimp only
  split
  · rfl
  · split
    · rfl
    · rfl

theorem completePost_pages (c : Nat) (r : PostRef) (code arg1 : Nat) : (completePost s c r code arg1).pages = s.pages := by
  unfold completePost
  split
  · rfl
  · exact queueNotice_pages ..

theorem completeRun_pages (c code arg1 : Nat) : (completeRun s c code arg1).pages = s.pages := by
  unfold completeRun
  split
  · rfl
  · exact completePost_pages ..

theorem sealBytes_pages (phys z : Nat) (l : List Byte) : (sealBytes s phys z l).pages = s.pages := by
  refine Same.foldl (view := (·.pages)) (fun t i _ => ?_) s
  rfl

theorem writeGranules_pages (clears : Bool) (chan phys z : Nat) (l : List Byte) : (writeGranules s clears chan phys z l).1.pages = s.pages := by
  unfold writeGranules
  split
  · rfl
  · refine foldl_fst_same (·.pages) (fun t i => ?_) _ (s, true)
    dsimp only
    split
    · rfl
    · exact sealBytes_pages t.1 ..

theorem writeWay_pages (die part addr : Nat) (l : List Byte) : (writeWay s die part addr l).1.pages = s.pages := by
  unfold writeWay writeCached writeBlock
  split
  · rfl
  · split
    · rfl
    · dsimp only
      split
      · rfl
      · exact writeGranules_pages ..

theorem writeLater_pages (die part addr : Nat) (l : List Byte) : (writeLater s die part addr l).pages = s.pages := by
  have h : (writeRangeAt s die part addr l).1.pages = s.pages :=
    by
    refine foldl_fst_same (·.pages) (fun t p => ?_) _ (s, none)
    exact writeWay_pages t.1 ..
  unfold writeLater landWrite
  split
  · dsimp only
    split
    · exact h
    · exact h
  · rfl

theorem requestOut_pages {die q : Nat} {m : Msg} {ack : Body} {t : State} (h : requestOut s die m ack = some (t, q)) : t.pages = s.pages := by
  unfold requestOut sendRequest at h
  dsimp only at h
  split at h
  · cases h
    rfl
  · split at h
    · cases h
    · rename_i hs
      cases h
      split at hs
      · cases hs
      · split at hs
        · cases hs
        · cases hs
          rfl
    · cases h
      rfl

theorem sendAnswer_pages (die : Nat) (m : Msg) : (sendAnswer s die m).pages = s.pages := by
  unfold sendAnswer
  dsimp only
  split
  · rfl
  · split <;> rfl

theorem ixSent_pend (d : Nat) (i : Ix) (r : IxReq) (m : Msg) : PendStays s (ixSent (setIx s d i) d r m) := by
  refine PendStays.trans (t := setIx s d i) (.of_pages rfl) ?_
  unfold ixSent
  extract_lets x now
  refine .ite (PendStays.foldl (fun v e => ?_) _ _) (.ite (setReg64_pend _ _ _ _) (.refl _))
  exact .of_pages rfl

theorem ixPumpN_pend (d n : Nat) : PendStays s (ixPumpN s d n) := by
  induction n generalizing s with
  | zero => exact .refl s
  | succ n ih =>
    unfold ixPumpN
    dsimp only
    split
    · exact .refl s
    · split
      · exact .refl s
      · split
        · exact .refl s
        · rename_i t q hreq
          refine PendStays.trans (.trans (.of_pages (requestOut_pages s hreq)) (ixSent_pend t d _ _ _)) (ih _)

theorem colPumpN_pend (d n : Nat) : PendStays s (colPumpN s d n) := by
  induction n generalizing s with
  | zero => exact .refl s
  | succ n ih =>
    unfold colPumpN
    split
    · exact .refl s
    · split
      · exact .refl s
      · rename_i t q hreq
        have ht : PendStays s t := .of_pages (requestOut_pages s hreq)
        dsimp only
        split
        · split
          · refine PendStays.trans (.trans ht ?_) (ih _)
            generalize hv : modColSlot _ _ _ _ = v
            have hpages : PendStays t v := .of_pages (by rw [← hv]; rfl)
            exact .trans hpages (.ite (setReg_pend v _ _ _) (setReg64_pend v _ _ _))
          · exact PendStays.trans ht (PendStays.trans (.of_pages (show (setCol t d _).pages = t.pages from rfl)) (ih _))
        · exact ht

theorem ixAbortQuiet_pend (d k code : Nat) (tell : Bool) : PendStays s (ixAbortQuiet s d k code tell) := by
  unfold ixAbortQuiet
  extract_lets x i u v w y z
  have hv : v.pages = s.pages := by
    refine Same.ite (view := (·.pages)) (Same.foldl (fun t r _ => ?_) u) (.refl u)
    exact .ite (.refl t) rfl
  have hw : w.pages = v.pages := writeLater_pages ..
  have hz : PendStays s z := .of_pages (hw.trans hv)
  exact PendStays.trans (.trans (.trans hz (raise_pend z _ _ (by decide)).1) (setReg_pend _ _ _ _)) (ixPumpN_pend _ _ _)

theorem colAbortQuiet_pend (d k code : Nat) (tell : Bool) : PendStays s (colAbortQuiet s d k code tell) := by
  unfold colAbortQuiet
  extract_lets x u i again v w y src z
  have hu : u.pages = s.pages := Same.foldl (view := (·.pages)) (fun t r _ => sendAnswer_pages t ..) s
  have hw : w.pages = v.pages := by
    refine Same.ite (view := (·.pages)) (Same.foldl (fun t r _ => ?_) v) (.refl v)
    exact .ite (.refl t) rfl
  have hy : y.pages = w.pages := writeLater_pages ..
  have hz : PendStays s z := .of_pages ((hy.trans hw).trans hu)
  exact PendStays.trans (.trans (.trans hz (raise_pend z _ _ (by decide)).1) (setReg_pend _ _ _ _)) (colPumpN_pend _ _ _)

theorem abortRounds_pend (c : Nat) : PendStays s (abortRounds s c) := by
  refine PendStays.foldl (fun t d => PendStays.foldl (fun v k => ?_) _ t) _ s
  have hix (v : State) : PendStays v (ixQuiet v d k) := by
    unfold ixQuiet
    exact .ite (.of_pages rfl) (.refl v)
  have hcol (v : State) : PendStays v (colQuiet v d k) := by
    unfold colQuiet
    exact .ite (.of_pages rfl) (.refl v)
  extract_lets x y u
  have hu : PendStays v u := .ite (.trans (ixAbortQuiet_pend v _ _ _ _) (hix _)) (.refl v)
  exact .ite (.trans hu (.trans (colAbortQuiet_pend u _ _ _ _) (hcol _))) hu

theorem fencePosts_pend (c : Nat) : PendStays s (fencePosts s c) := by
  unfold fencePosts
  extract_lets l u
  refine PendStays.trans (t := u) (.of_pages rfl) (PendStays.foldl (fun t q => ?_) _ u)
  generalize hv : returnCredit t c = v
  have hpages : PendStays t v := .of_pages (by rw [← hv]; rfl)
  exact .trans hpages (.trans (t := addEvent v pgPost 1) (modPage_pend v _ fun _ => rfl) (.of_pages (completePost_pages ..)))

theorem beginSave_pages (c : Nat) (v : Saving) : (beginSave s c v).pages = s.pages := by
  unfold beginSave
  extract_lets x u
  have hu : u.pages = s.pages := stopCores_pages ..
  refine Same.ite (view := (·.pages)) hu (Same.trans (view := (·.pages)) hu (Same.foldl (f := abandonSaves) (fun t k _ => ?_) u))
  rfl

theorem drainCtx_pages (c : Nat) : (drainCtx s c).pages = s.pages := by
  unfold drainCtx
  dsimp only
  split
  · exact (beginSave_pages ..).trans (completeRun_pages ..)
  · exact completeRun_pages ..
  · split
    · exact Same.ite (view := (·.pages)) (completeRun_pages ..) rfl
    · rfl
  · rfl

theorem chipNotice_pages (n : Notice) : (chipNotice s n).pages = s.pages := by
  refine Same.foldl (view := (·.pages)) (fun t p _ => ?_) s
  exact .ite (queueNotice_pages ..) (.refl t)

theorem endBootDrained_pend : PendStays s (endBootDrained s) := by
  unfold endBootDrained
  extract_lets src1 src2 u
  exact .of_pages (chipNotice_pages u _)

theorem beginDrain_pend (cause pg code : Nat) : PendStays s (beginDrain s cause pg code) := by
  unfold beginDrain
  split
  · exact setReg_pend s _ _ _
  · dsimp only
    generalize hu : recordStep _ 9 code 0 0 = u
    have hsu : PendStays s u := .of_pages (by rw [← hu]; rfl)
    have hv : PendStays s (raise u pgAtlas 3) := PendStays.trans hsu (raise_pend u _ _ (by decide)).1
    refine .ite (.trans hv ?_) (.ite (.trans hv ?_) hv)
    · exact PendStays.trans (PendStays.foldl (fun t c => fencePosts_pend t c) _ _) (.trans (PendStays.foldl (fun t c => .of_pages (drainCtx_pages t c)) _ _)
        (PendStays.foldl (fun t c => abortRounds_pend t c) _ _))
    · exact endBootDrained_pend _

end Pend

theorem endBootDrained_notes (s : State) :
    (endBootDrained s).hide.draining = s.hide.draining ∧ (endBootDrained s).record = s.record := by
  unfold endBootDrained
  extract_lets src1 src2 u
  have h (n : Notice) : (chipNotice u n).hide = u.hide ∧ (chipNotice u n).record = u.record :=
    ⟨causesPart (chipNotice_causes u n) (·.hide) fun _ => rfl, causesPart (chipNotice_causes u n) (·.record) fun _ => rfl⟩
  rw [(h _).1, (h _).2]
  exact ⟨rfl, rfl⟩

/-- A drain stays one that is under way, and of the record it changes REPLACE and its cause alone. -/
theorem beginDrain_notes (s : State) (cause pg code : Nat) : (beginDrain s cause pg code).hide.draining = true ∧
    ∃ replace c, (beginDrain s cause pg code).record = { s.record with replace := replace, cause := c } := by
  unfold beginDrain
  split
  · rename_i h
    exact ⟨h, _, _, rfl⟩
  · dsimp only
    generalize hu : recordStep _ 9 code 0 0 = u
    have hdrain : u.hide.draining = true := by
      rw [← hu]
      rfl
    have hrecord : ∃ replace c, u.record = { s.record with replace := replace, cause := c } := by
      rw [← hu]
      exact ⟨_, _, rfl⟩
    have hraise : Halts u (raise u pgAtlas 3) := halts_of_traffic (raise_traffic ..)
    have hhide : (raise u pgAtlas 3).hide.draining = true := by
      rw [hraise.get (·.hide) fun _ => rfl, hdrain]
    have hall' {t : State} (hh : t.hide.draining = (raise u pgAtlas 3).hide.draining) (hr : t.record = (raise u pgAtlas 3).record) :
        t.hide.draining = true ∧ ∃ replace c, t.record = { s.record with replace := replace, cause := c } := by
      rw [hh, hr, hraise.get (·.record) fun _ => rfl]
      exact ⟨hhide, hrecord⟩
    have hall {t : State} (h : Halts (raise u pgAtlas 3) t) : t.hide.draining = true ∧
        ∃ replace c, t.record = { s.record with replace := replace, cause := c } :=
      hall' (congrArg (·.draining) (h.get (·.hide) fun _ => rfl)) (h.get (·.record) fun _ => rfl)
    split
    · exact hall (stopWork_halts ..)
    · split
      · refine hall' ?_ ?_
        · rw [(endBootDrained_notes _).1]
        · exact (endBootDrained_notes _).2
      · exact hall (.refl _)

/-! ### Counters -/

theorem regOf_bump32 (s : State) (pg off n : Nat) : regOf (bump32 s pg off n) pg off = sat32 (regOf s pg off) n := by
  rw [bump32, regOf_setReg_self]
  exact Nat.mod_eq_of_lt (Nat.lt_of_le_of_lt (Nat.min_le_right _ _) (by decide))

theorem reg64_bump64 (s : State) (pg off n : Nat) : reg64 (bump64 s pg off n) pg off = (reg64 s pg off + n) % 2 ^ 64 := by
  unfold bump64 reg64 setReg64
  rw [regOf_setReg_of_ne _ _ _ _ (by omega), regOf_setReg_self, regOf_setReg_self]
  omega

theorem regOf_bump64_off (s : State) (pg n : Nat) {off o : Nat} (h0 : o ≠ off) (h4 : o ≠ off + 4) (p : Nat) :
    regOf (bump64 s pg off n) p o = regOf s p o := by
  rw [bump64, setReg64, regOf_setReg_off _ _ _ h4, regOf_setReg_off _ _ _ h0]

/-! ### Bridges -/

theorem getBridge_of_causes {s t : State} (h : Causes s t) (k : Nat) : getBridge t k = getBridge s k := by
  rw [getBridge, causesPart h (·.bridges) fun _ => rfl, getBridge]

/-- A flit that has come: its end of the bridge has heard one, and the other has sent one. -/
def flitCame (s : State) (k b : Nat) : State :=
  let s := setBridge s k { getBridge s k with lastAt := s.odometer, lost := false }
  if b == 2 then s else bump64 s (pgBridge (bridgeBack k)) 0x050 1

section Flit
variable (s : State) (d : Nat) (b : Fin 3)

theorem flitCame_bridge (k : Nat) : getBridge (flitCame s k b) k = { getBridge s k with lastAt := s.odometer, lost := false } := by
  unfold flitCame
  extract_lets src u
  have hu : getBridge u k = { getBridge s k with lastAt := s.odometer, lost := false } := getBridge_setBridge ..
  split
  · exact hu
  · exact (getBridge_of_causes (setReg64_causes ..) k).trans hu

theorem flitCame_reg (k : Nat) {o : Nat} (h0 : o ≠ 0x050) (h4 : o ≠ 0x054) (p : Nat) : regOf (flitCame s k b) p o = regOf s p o := by
  unfold flitCame
  dsimp only
  split
  · rfl
  · exact regOf_bump64_off _ _ _ h0 h4 _

theorem flitCame_sent (k : Nat) (hb : b ≠ 2) :
    reg64 (flitCame s k b) (pgBridge (bridgeBack k)) 0x050 = (reg64 s (pgBridge (bridgeBack k)) 0x050 + 1) % 2 ^ 64 := by
  have h : ¬ ((b.val == 2) = true) := fun h => hb (Fin.ext (beq_iff_eq.1 h))
  unfold flitCame
  dsimp only
  rw [if_neg h]
  exact reg64_bump64 ..

theorem flitCame_hide (k : Nat) : (flitCame s k b).hide = s.hide := by
  unfold flitCame
  dsimp only
  split
  · rfl
  · rfl

theorem flitCame_odometer (k : Nat) : (flitCame s k b).odometer = s.odometer := by
  unfold flitCame
  dsimp only
  split
  · rfl
  · rfl

variable (slice : Fin 20)

/-- The retries of a slice within the last 1 ms. -/
def recentRetries (s : State) (k slice : Nat) : List Nat :=
  (look (getBridge s k).retries slice []).filter (fun t => s.odometer < t + msNs)

theorem bridgeRetry_again (h : (recentRetries s (bridgeOf d b) slice).length < 16) :
    (getBridge (bridgeRetry s d b slice) (bridgeOf d b)).sliceMap = (getBridge s (bridgeOf d b)).sliceMap ∧
    regOf (bridgeRetry s d b slice) (pgBridge (bridgeOf d b)) 0x04C = sat32 (regOf s (pgBridge (bridgeOf d b)) 0x04C) 1 := by
  unfold bridgeRetry
  extract_lets k x l u
  have hl : l.length ≤ 16 := by
    rw [show l = recentRetries s k slice ++ [s.odometer] from rfl, List.length_append]
    exact h
  rw [if_pos hl, getBridge_setBridge]
  exact ⟨rfl, regOf_bump32 ..⟩

theorem bridgeRetry_last (h : 16 ≤ (recentRetries s (bridgeOf d b) slice).length) :
    let x := getBridge s (bridgeOf d b)
    let left := x.sliceMap &&& ~~~(1#20 <<< slice.val)
    let few := sliceCount { x with sliceMap := left } < sliceFloor b
    let t := bridgeRetry s d b slice
    (getBridge t (bridgeOf d b)).sliceMap = left ∧ (getPage t (pgBridge (bridgeOf d b))).pend.getLsbD 0 = true ∧
    (few → t.hide.draining = true) ∧ (¬ few → t.hide.draining = s.hide.draining) := by
  intro x left few
  unfold bridgeRetry
  extract_lets k x' l u y v t
  have hl : ¬ l.length ≤ 16 := by
    rw [show l = recentRetries s k slice ++ [s.odometer] from rfl, List.length_append]
    exact Nat.not_le.2 (Nat.lt_succ_of_le h)
  have hraise : Causes (addEvent (setBridge u k y) (pgBridge k) 1) v := raise_causes ..
  have hmap : (getBridge v k).sliceMap = left := by
    rw [getBridge_of_causes hraise]
    exact congrArg (·.sliceMap) (getBridge_setBridge ..)
  have hpend : (getPage v (pgBridge k)).pend.getLsbD 0 = true := (raise_pend _ _ 0 (by decide)).2
  by_cases hfew : few
  · rw [show t = beginDrain v causeBridge (pgBridge k) Code.checkFailed.num from (if_neg hl).trans (if_pos hfew)]
    refine ⟨?_, beginDrain_pend v _ _ _ _ _ hpend, fun _ => (beginDrain_notes v ..).1, fun h => absurd hfew h⟩
    rw [getBridge, (beginDrain_drains v ..).get (·.bridges) fun _ => rfl]
    exact hmap
  · rw [show t = v from (if_neg hl).trans (if_neg hfew)]
    exact ⟨hmap, hpend, fun h => absurd h hfew, fun _ => congrArg (·.draining) (causesPart hraise (·.hide) fun _ => rfl)⟩

end Flit

/-! ### Trace buffers -/

theorem getTrace_of_causes {s t : State} (h : Causes s t) (k : Nat) : getTrace t k = getTrace s k := by
  rw [getTrace, causesPart h (·.traces) fun _ => rfl, getTrace]

section Traces
variable (s : State) (i : Nat)

theorem tracePush_full (r : TraceRec) (h : (getTrace s i).full = true ∨ 64 ≤ (getTrace s i).queue.length) :
    (getTrace (tracePush s i r) i).queue = (getTrace s i).queue ∧ (getTrace (tracePush s i r) i).lost = true ∧
    regOf (tracePush s i r) (pgTrace i) 0x060 = sat32 (regOf s (pgTrace i) 0x060) 1 := by
  have hc : ((getTrace s i).full || decide (64 ≤ (getTrace s i).queue.length)) = true :=
    Bool.or_eq_true_iff.2 (h.imp_right decide_eq_true)
  unfold tracePush
  dsimp only
  rw [if_pos hc, bump32, getTrace_of_causes (setReg_causes ..), getTrace_setTrace]
  exact ⟨rfl, rfl, regOf_bump32 (setTrace s i _) ..⟩

theorem tracePush_room (r : TraceRec) (hf : (getTrace s i).full = false) (hq : (getTrace s i).queue.length < 64) :
    getTrace (tracePush s i r) i =
      { getTrace s i with queue := (getTrace s i).queue ++ [{ r with lost := (getTrace s i).lost }], lost := false } := by
  have hc : ¬ ((getTrace s i).full || decide (64 ≤ (getTrace s i).queue.length)) = true := by
    rw [hf, Bool.false_or, decide_eq_true_iff]
    exact Nat.not_le.2 hq
  unfold tracePush
  dsimp only
  rw [if_neg hc, getTrace_setTrace]

theorem traceRest_keeps_trace : (traceRest s i).hbm = s.hbm ∧ (traceRest s i).pages = s.pages ∧
    ∃ active, getTrace (traceRest s i) i = { getTrace s i with active := active } := by
  unfold traceRest
  dsimp only
  split
  · exact ⟨rfl, rfl, _, getTrace_setTrace ..⟩
  · exact ⟨rfl, rfl, _, rfl⟩

theorem writeRange_traffic (part addr : Nat) (l : List Byte) : Traffic s (writeRange s part addr l).1 := by
  refine foldl_fst_same trafficRest (fun t p => ?_) _ (s, none)
  unfold writeCached
  dsimp only
  split
  · rfl
  · exact writeBlock_traffic t.1 ..

theorem writeRange_pages (part addr : Nat) (l : List Byte) : (writeRange s part addr l).1.pages = s.pages := by
  refine foldl_fst_same (·.pages) (fun t p => ?_) _ (s, none)
  unfold writeCached writeBlock
  dsimp only
  split
  · rfl
  · split
    · rfl
    · exact writeGranules_pages t.1 ..

/-- The record is written: the buffer's place advances. -/
def traceWritten (u : State) (i : Nat) : State :=
  let t := getTrace u i
  let full := !trWrap t && t.written + 1 == trCapacity u i
  let u := setTrace u i { t with written := t.written + 1, full := full }
  if full then raise u (pgTrace i) 0 else u

theorem traceWritten_ends (u : State) : let t := getTrace u i
    let fills := trWrap t = false ∧ t.written + 1 = trCapacity u i
    let v := traceWritten u i
    v.hbm = u.hbm ∧ (getTrace v i).queue = t.queue ∧ (getTrace v i).written = t.written + 1 ∧
    (fills → (getTrace v i).full = true ∧ (getPage v (pgTrace i)).pend.getLsbD 0 = true) ∧ (¬ fills → (getTrace v i).full = false) := by
  intro t fills
  unfold traceWritten
  extract_lets full w v
  have hfull : full = true ↔ fills := by
    rw [show full = (!trWrap t && t.written + 1 == trCapacity u i) from rfl, Bool.and_eq_true, beq_iff_eq, Bool.not_eq_true']
  have hw : getTrace w i = { t with written := t.written + 1, full := full } := getTrace_setTrace ..
  by_cases h : fills
  · rw [show v = raise w (pgTrace i) 0 from if_pos (hfull.2 h)]
    refine ⟨causesPart (raise_causes ..) (·.hbm) fun _ => rfl, ?_⟩
    rw [getTrace_of_causes (raise_causes ..), hw]
    exact ⟨rfl, rfl, fun _ => ⟨hfull.2 h, (raise_pend w _ 0 (by decide)).2⟩, fun hn => absurd h hn⟩
  · have hf : full = false := Bool.eq_false_iff.2 fun h' => h (hfull.1 h')
    rw [show v = w from if_neg fun h' => h (hfull.1 h'), hw]
    exact ⟨rfl, rfl, rfl, fun h' => absurd h' h, fun _ => hf⟩

variable {s i} {r : TraceRec} {rest : List TraceRec}

theorem traceWrite_empty (h : (getTrace s i).queue = []) : traceWrite s i = s := by
  unfold traceWrite
  dsimp only
  rw [h]

theorem traceWrite_lost (h : (getTrace s i).queue = r :: rest) (hf : (getTrace s i).full = true) :
    traceWrite s i = bump32 (setTrace s i { getTrace s i with queue := rest }) (pgTrace i) 0x060 1 := by
  unfold traceWrite
  dsimp only
  rw [h]
  dsimp only
  rw [if_pos hf, hf, Bool.true_or, if_pos rfl]

/-- The place of the next record. -/
def tracePlace (s : State) (i : Nat) : Nat := reg64 s (pgTrace i) 0x048 + 32 * ((getTrace s i).written % trCapacity s i)

theorem traceWrite_waits (h : (getTrace s i).queue = r :: rest) (hf : (getTrace s i).full = false)
    (hr : rangeReady s (getTrace s i).part (tracePlace s i) 32 = false) : traceWrite s i = s := by
  unfold tracePlace at hr
  unfold traceWrite
  dsimp only
  rw [h]
  dsimp only
  rw [hf, hr]
  rfl

theorem traceWrite_writes (h : (getTrace s i).queue = r :: rest) (hf : (getTrace s i).full = false)
    (hr : rangeReady s (getTrace s i).part (tracePlace s i) 32 = true) :
    let w := writeRange (setTrace s i { getTrace s i with queue := rest }) (getTrace s i).part (tracePlace s i) (traceBytes r)
    (∀ c, w.2 = some c → traceWrite s i = traceStop w.1 i c.num) ∧ (w.2 = none → traceWrite s i = traceWritten w.1 i) := by
  intro w
  have heq : traceWrite s i = match w.2 with | some c => traceStop w.1 i c.num | none => traceWritten w.1 i := by
    unfold tracePlace at hr
    unfold traceWrite
    dsimp only
    rw [h]
    dsimp only
    rw [hr, Bool.or_true, if_pos rfl, if_neg (ne_true_of_eq_false hf), Bool.not_true, if_neg Bool.false_ne_true]
    rfl
  exact ⟨fun c hc => by rw [heq, hc], fun hc => by rw [heq, hc]⟩

theorem traceWrite_ends (h : (getTrace s i).queue = r :: rest) (hf : (getTrace s i).full = false)
    (hr : rangeReady s (getTrace s i).part (tracePlace s i) 32 = true) :
    let tr := getTrace s i
    let w := writeRange (setTrace s i { tr with queue := rest }) tr.part (tracePlace s i) (traceBytes r)
    let fills := trWrap tr = false ∧ tr.written + 1 = trCapacity s i
    let t := traceRest (traceWrite s i) i
    w.2 = none → t.hbm = w.1.hbm ∧ (getTrace t i).queue = rest ∧ (getTrace t i).written = tr.written + 1 ∧
      (fills → (getTrace t i).full = true ∧ (getPage t (pgTrace i)).pend.getLsbD 0 = true) ∧ (¬ fills → (getTrace t i).full = false) := by
  intro tr w fills t hw
  have htraces : getTrace w.1 i = { tr with queue := rest } := by
    rw [getTrace, trafficPart (writeRange_traffic ..) (·.traces) fun _ => rfl]
    exact getTrace_setTrace ..
  have hcap : trCapacity w.1 i = trCapacity s i := by
    rw [trCapacity, trCapacity, regOf_congr (writeRange_pages ..)]
    rfl
  obtain ⟨hhbm, hpages, active, htrace⟩ := traceRest_keeps_trace (traceWritten w.1 i) i
  obtain ⟨hh, hq, hn, hfull, hroom⟩ := traceWritten_ends i w.1
  rw [htraces, hcap] at hfull hroom
  rw [htraces] at hq hn
  rw [show t = traceRest (traceWritten w.1 i) i from congrArg (fun u => traceRest u i) ((traceWrite_writes h hf hr).2 hw), htrace,
    getPage, hpages]
  exact ⟨hhbm.trans hh, hq, hn, hfull, hroom⟩

/-! ### The samples of the fabric's telemetry (R442) -/

/-- The record of a sample. -/
def sampleRec (s : State) (i : Nat) : TraceRec :=
  let d := trField (getTrace s i) 0 12
  let x := getTel s d
  { target := d, ctx := 0, odo := s.odometer,
    payload := [x.flits % 2 ^ 32, x.flits / 2 ^ 32 % 2 ^ 32, min x.stall 0xFFFFFFFF, min x.marks 0xFFFFFFFF], source := 5 }

end Traces

/-- A lost handshake fences the die at the bridge's far end. -/
def fencedFar (s : State) (d b : Nat) : State :=
  match farDie d b with
  | none => s
  | some e => if dieUp s e then startPlain s (.die (Fin.ofNat 4 e)) else s

/-- Settles O46: a flit, a lost handshake, a sample and a record, each by the branch of its command. -/
theorem bridgesAndTraces : Obligations.BridgesAndTraces := by
  unfold Obligations.BridgesAndTraces
  intro die bridge slice buf e c r rest s k x tr recent left few runs
  let every := 2 ^ (regOf s (pgTrace buf) 0x044) * 1000
  have hsample (h : tr.active = true ∧ tr.stopped = false ∧ trEnabled tr = true ∧ trField tr 24 4 = 5 ∧
      dieUp s (trField tr 0 12) = true ∧ tr.sampledAt + every ≤ s.odometer) : exec (.fabricSample buf) s =
        .next (tracePush (setTrace s buf { tr with sampledAt := tr.sampledAt + every }) buf (sampleRec s buf)) := by
    obtain ⟨ha, hstop, hen, hsource, hup, hp⟩ := h
    refine congrArg Host.Outcome.next (if_neg ?_)
    rw [ha, hstop, hen, hsource, hup, passed_iff.2 (show (getTrace s buf).sampledAt + 2 ^ regOf s (pgTrace buf) 68 * usNs ≤ s.odometer from hp)]
    decide
  refine ⟨fun h ok => ?_, fun ⟨hg, hm⟩ => ?_, ⟨fun h => ?_, fun ⟨hg, hl, hp⟩ => ?_⟩, ⟨fun h => ?_, fun h hq => ?_, fun h hf hq => ?_⟩,
    fun h => ?_, fun h => ⟨fun hf => ?_, fun hf hr => ?_, fun hf hr hw => ?_, fun hf hr hw => ?_⟩⟩
  · refine congrArg Host.Outcome.next (if_pos ?_)
    rw [Bool.or_eq_true, Bool.not_eq_true']
    by_cases hg : gated s (pgBridge k) = true
    · exact .inl hg
    · exact .inr (Bool.eq_false_iff.2 fun hm => h ⟨Bool.eq_false_iff.2 hg, hm⟩)
  · have hcond : ¬ (gated s (pgBridge k) || !x.sliceMap.getLsbD slice.val) = true := by
      rw [hg, hm]
      exact Bool.false_ne_true
    have hcame : getBridge (flitCame s k bridge) k = { x with lastAt := s.odometer, lost := false } := flitCame_bridge s bridge k
    have hgood : exec (.bridgeFlitReceive die bridge slice true) s = .next (bump64 (flitCame s k bridge) (pgBridge k) 0x058 1) :=
      congrArg Host.Outcome.next (if_neg hcond)
    have hbad : exec (.bridgeFlitReceive die bridge slice false) s = .next (bridgeRetry (flitCame s k bridge) die bridge slice) :=
      congrArg Host.Outcome.next (if_neg hcond)
    have hrecent : (recentRetries (flitCame s k bridge) k slice).length = recent := by
      rw [recentRetries, hcame, flitCame_odometer]
      rfl
    refine ⟨⟨_, hgood, ?_⟩, fun h => ⟨_, hbad, ?_⟩, fun h => ⟨_, hbad, ?_⟩⟩
    · dsimp only
      have hb : getBridge (bump64 (flitCame s k bridge) (pgBridge k) 0x058 1) k = _ := (getBridge_of_causes (setReg64_causes ..) k).trans hcame
      rw [hb, reg64_bump64]
      refine ⟨rfl, rfl, ?_, fun h2 => ?_⟩
      · rw [reg64, flitCame_reg _ _ _ (by decide) (by decide), flitCame_reg _ _ _ (by decide) (by decide), reg64]
      · rw [← flitCame_sent s bridge k h2, reg64, regOf_bump64_off _ _ _ (by decide) (by decide),
          regOf_bump64_off _ _ _ (by decide) (by decide), reg64]
    · obtain ⟨hmap, hreg⟩ := bridgeRetry_again (flitCame s k bridge) die bridge slice (hrecent ▸ h)
      refine ⟨hmap.trans (congrArg (·.sliceMap) hcame), hreg.trans ?_⟩
      rw [flitCame_reg _ _ _ (by decide) (by decide)]
    · have hlast := bridgeRetry_last (flitCame s k bridge) die bridge slice (hrecent ▸ h)
      rw [show getBridge (flitCame s k bridge) (bridgeOf die bridge) = _ from hcame, flitCame_hide] at hlast
      exact hlast
  · refine congrArg Host.Outcome.next (if_pos ?_)
    rw [Bool.or_eq_true, Bool.or_eq_true, Bool.not_eq_true']
    by_cases hg : gated s (pgBridge k) = true
    · exact .inl (.inl hg)
    · by_cases hl : x.lost = true
      · exact .inl (.inr hl)
      · exact .inr (Bool.eq_false_iff.2 fun hp => h ⟨Bool.eq_false_iff.2 hg, Bool.eq_false_iff.2 hl, passed_iff.1 hp⟩)
  · have hcond : ¬ (gated s (pgBridge k) || x.lost || !passed s x.lastAt usNs) = true := by
      rw [hg, hl, passed_iff.2 (show x.lastAt + usNs ≤ s.odometer from hp)]
      exact Bool.false_ne_true
    have hexec : exec (.handshakeLost die bridge) s = .next (fencedFar (raise (setBridge s k { x with lost := true }) (pgBridge k) 1) die bridge) :=
      congrArg Host.Outcome.next (if_neg hcond)
    have hup : dieUp (raise (setBridge s k { x with lost := true }) (pgBridge k) 1) e = dieUp s e := by
      rw [dieUp, causesPart (raise_causes ..) (·.hang) fun _ => rfl]
      rfl
    refine ⟨fun hf hu => ?_, fun hf hu => ?_, fun hf => ?_⟩
    · rw [hexec, fencedFar, hf]
      exact congrArg Host.Outcome.next (if_pos (hup.trans hu))
    · rw [hexec, fencedFar, hf]
      exact congrArg Host.Outcome.next (if_neg (ne_true_of_eq_false (hup.trans hu)))
    · rw [hexec, fencedFar, hf]
  · refine congrArg Host.Outcome.next (if_pos ?_)
    refine Decidable.of_not_not fun hn => h ?_
    simpa [passed_iff, usNs, and_assoc] using hn
  · obtain ⟨hqueue, hlost, hreg⟩ := tracePush_full (setTrace s buf { tr with sampledAt := tr.sampledAt + every }) buf (sampleRec s buf)
      (by rw [getTrace_setTrace]; exact hq)
    rw [getTrace_setTrace] at hqueue
    exact ⟨_, hsample h, hqueue, hlost, hreg⟩
  · have hroom := tracePush_room (setTrace s buf { tr with sampledAt := tr.sampledAt + every }) buf (sampleRec s buf)
      (by rw [getTrace_setTrace]; exact hf) (by rw [getTrace_setTrace]; exact hq)
    rw [getTrace_setTrace] at hroom
    exact ⟨_, hsample h, congrArg (·.sampledAt) hroom, congrArg (·.queue) hroom⟩
  · rw [show exec (.traceWrite buf) s = .next (traceRest (traceWrite s buf) buf) from rfl, traceWrite_empty h]
  · rw [show exec (.traceWrite buf) s = .next (traceRest (traceWrite s buf) buf) from rfl, traceWrite_lost h hf]
  · rw [show exec (.traceWrite buf) s = .next (traceRest (traceWrite s buf) buf) from rfl, traceWrite_waits h hf (Bool.eq_false_iff.2 hr)]
  · rw [show exec (.traceWrite buf) s = .next (traceRest (traceWrite s buf) buf) from rfl]
    exact congrArg (fun u => Host.Outcome.next (traceRest u buf)) ((traceWrite_writes h hf hr).1 c hw)
  · exact ⟨_, rfl, traceWrite_ends h hf hr hw⟩

end Sys2Proof.Machine
end

section
/-!
PROOFS. An exchange: its round and the requests that arrive (R297, R302 to R307, Table 84).
-/
namespace Sys2Proof.Machine

/-! ### What messages leave of the exchanges -/

section Sends
variable (s : State)

theorem sendAnswer_ixs (die : Nat) (m : Msg) : (sendAnswer s die m).ixs = s.ixs := by
  unfold sendAnswer
  dsimp only
  split
  · rfl
  · split <;> rfl

theorem ixAnswer_ixs (d : Nat) (m : Msg) (code : Nat) : (ixAnswer s d m code).ixs = s.ixs := sendAnswer_ixs ..

theorem getIxSlot_ixAnswer (d : Nat) (m : Msg) (code d' k : Nat) : getIxSlot (ixAnswer s d m code) d' k = getIxSlot s d' k := by
  rw [getIxSlot, getIx, ixAnswer_ixs, getIxSlot, getIx]

theorem getFlow_ixAnswer (d : Nat) (m : Msg) (code d' i : Nat) : getFlow (ixAnswer s d m code) d' i = getFlow s d' i := by
  rw [getFlow, getIx, ixAnswer_ixs, getFlow, getIx]

/-- The slots of the exchanges. -/
def ixSlotsOf (s : State) : Nat → SMap IxSlot := fun d => (getIx s d).slots

theorem getIxSlot_of_slots {s t : State} (h : Same ixSlotsOf s t) (d k : Nat) : getIxSlot t d k = getIxSlot s d k := by
  have hd : (getIx t d).slots = (getIx s d).slots := congrFun h d
  rw [getIxSlot, hd, getIxSlot]

theorem setIx_slots (d : Nat) (x : Ix) (hx : x.slots = (getIx s d).slots) : Same ixSlotsOf s (setIx s d x) := by
  refine funext fun j => ?_
  show (getIx (setIx s d x) j).slots = (getIx s j).slots
  by_cases h : j = d
  · rw [h, getIx_setIx, hx]
  · rw [getIx_setIx_of_ne _ _ _ h]

theorem requestOut_ixs {die q : Nat} {m : Msg} {ack : Body} {t : State} (h : requestOut s die m ack = some (t, q)) : t.ixs = s.ixs := by
  unfold requestOut sendRequest at h
  dsimp only at h
  split at h
  · cases h
    rfl
  · split at h
    · cases h
    · rename_i hs
      cases h
      split at hs
      · cases hs
      · split at hs
        · cases hs
        · cases hs
          rfl
    · cases h
      rfl

theorem ixSent_slots (d : Nat) (r : IxReq) (m : Msg) : Same ixSlotsOf s (ixSent s d r m) := by
  unfold ixSent
  extract_lets x now
  refine .ite (Same.foldl (fun t e _ => ?_) s) (.ite rfl (.refl s))
  exact setIx_slots t _ _ rfl

theorem ixPumpN_slots (d n : Nat) : Same ixSlotsOf s (ixPumpN s d n) := by
  induction n generalizing s with
  | zero => rfl
  | succ n ih =>
    unfold ixPumpN
    dsimp only
    split
    · rfl
    · split
      · rfl
      · split
        · rfl
        · rename_i t q hreq
          have ht : Same ixSlotsOf s t := funext fun j => by rw [ixSlotsOf, getIx, requestOut_ixs s hreq, ixSlotsOf, getIx]
          generalize hi : ({ getIx t d with outbox := _, open_ := _ } : Ix) = i
          have hslots : i.slots = (getIx t d).slots := by rw [← hi]
          exact (ht.trans ((setIx_slots t d i hslots).trans (ixSent_slots (setIx t d i) d _ _))).trans (ih _)

theorem ixQueue_slots (d : Nat) (r : IxReq) (m : Msg) : Same ixSlotsOf s (ixQueue s d r m) := by
  unfold ixQueue
  exact setIx_slots s d _ rfl

end Sends

/-! ### Requests that arrive (R188, R306) -/

section Arrive
variable {s : State} {idx typ d k : Nat} {m : Msg} {b : IxMsg} {ready : IxSlot → IxMsg → Bool} {act : State → Nat → Nat → Msg → IxMsg → State}

theorem ixArrive_waits (h : IxComes s idx typ d m b) (hw : ixWaits s m b ready = true) : ixArrive s idx typ ready act = s := by
  obtain ⟨hhere, hbody, htyp, hreq, hdie⟩ := h
  unfold ixArrive
  rw [hhere]
  dsimp only
  rw [hbody]
  dsimp only
  rw [hw, Bool.or_true, if_pos rfl]

/-- A request that does not wait: turned away, refused, held, or taken. -/
def ixTaken (s0 : State) (typ d : Nat) (m : Msg) (b : IxMsg) (act : State → Nat → Nat → Msg → IxMsg → State) : State :=
  if m.code != 0 then ixAnswer s0 d m m.code
  else if ixShut s0 d b.ctx then ixAnswer s0 d m Code.fenced.num
  else if !ctxAccepts s0 m b.ctx then ixStray s0 d m
  else match ixFind s0 d b with
    | none => if typ == 1 then ixHold s0 d m else ixStray s0 d m
    | some k =>
      let x := getIxSlot s0 d k
      let ahead := (b.round + 65536 - x.round) % 65536
      let live := x.phase != 0 && x.phase != 6
      let known := decide (b.srcRank < ixRanks x.words)
      if ahead == 0 && live then (if known then act s0 d k m b else ixStray s0 d m)
      else if (if x.phase == 0 then 0 else 1) < ahead then ixStray s0 d m
      else if typ == 1 then ixHold s0 d m
      else if typ == 7 && x.phase == 6 then ixAnswer s0 d m 0
      else if typ == 7 && known then act s0 d k m b
      else ixStray s0 d m

theorem ixArrive_takes (h : IxComes s idx typ d m b) (hw : ixWaits s m b ready = false) :
    ixArrive s idx typ ready act = ixTaken (dropMsg s idx) typ d m b act := by
  obtain ⟨hhere, hbody, htyp, hreq, hdie⟩ := h
  subst htyp hdie
  unfold ixArrive
  rw [hhere]
  dsimp only
  rw [hbody]
  dsimp only
  rw [hw, hreq, bne_self_eq_false, Bool.or_false, Bool.or_false, if_neg Bool.false_ne_true]
  rfl

theorem ixArrive_refused (h : IxComes s idx typ d m b) (hc : m.code ≠ 0) :
    ixArrive s idx typ ready act = ixAnswer (dropMsg s idx) d m m.code := by
  have hne : (m.code == 0) = false := beq_false_of_ne hc
  rw [ixArrive_takes h (by rw [ixWaits, hne]; rfl), ixTaken, if_pos (bne_iff_ne.2 hc)]

theorem ixArrive_shut (h : IxComes s idx typ d m b) (hc : m.code = 0) (hs : ixShut s d b.ctx = true) :
    ixArrive s idx typ ready act = ixAnswer (dropMsg s idx) d m Code.fenced.num := by
  have hw : ixWaits s m b ready = false := by
    rw [ixWaits, h.die, hs, Bool.not_true, Bool.and_false]
    rfl
  rw [ixArrive_takes h hw, ixTaken, if_neg (by rw [hc]; decide), if_pos (show ixShut (dropMsg s idx) d b.ctx = true from hs)]

theorem ixArrive_stranger (h : IxComes s idx typ d m b) (hc : m.code = 0) (hs : ixShut s d b.ctx = false)
    (ha : ctxAccepts (dropMsg s idx) m b.ctx = false) : ixArrive s idx typ ready act = ixStray (dropMsg s idx) d m := by
  have hw : ixWaits s m b ready = false := by
    rw [ixWaits, show ctxAccepts s m b.ctx = false from ha, Bool.and_false]
    rfl
  rw [ixArrive_takes h hw, ixTaken, if_neg (by rw [hc]; decide), if_neg (ne_true_of_eq_false (show ixShut (dropMsg s idx) d b.ctx = false from hs)),
    ha, Bool.not_false, if_pos rfl]

theorem ixTaken_found (h : IxTaken s idx typ d m b) : ixTaken (dropMsg s idx) typ d m b act =
    match ixFind (dropMsg s idx) d b with
    | none => if typ == 1 then ixHold (dropMsg s idx) d m else ixStray (dropMsg s idx) d m
    | some k =>
      let x := getIxSlot s d k
      let ahead := (b.round + 65536 - x.round) % 65536
      let live := x.phase != 0 && x.phase != 6
      let known := decide (b.srcRank < ixRanks x.words)
      if ahead == 0 && live then (if known then act (dropMsg s idx) d k m b else ixStray (dropMsg s idx) d m)
      else if (if x.phase == 0 then 0 else 1) < ahead then ixStray (dropMsg s idx) d m
      else if typ == 1 then ixHold (dropMsg s idx) d m
      else if typ == 7 && x.phase == 6 then ixAnswer (dropMsg s idx) d m 0
      else if typ == 7 && known then act (dropMsg s idx) d k m b
      else ixStray (dropMsg s idx) d m := by
  unfold ixTaken
  rw [h.code, if_neg (by decide), if_neg (ne_true_of_eq_false (show ixShut (dropMsg s idx) d b.ctx = false from h.admitted)), h.accepts,
    Bool.not_true, if_neg Bool.false_ne_true]
  rfl

/-- What a request that may be taken waits for: the channels of its round. -/
theorem ixWaits_taken (h : IxTaken s idx typ d m b) : ixWaits s m b ready = match ixFind (dropMsg s idx) d b with
    | some k =>
      let x := getIxSlot s d k
      x.phase != 0 && x.phase != 6 && b.round == x.round && decide (b.srcRank < ixRanks x.words) && !ready x b
    | none => false := by
  unfold ixWaits
  rw [h.code, h.die, h.admitted, show ctxAccepts s m b.ctx = true from h.accepts]
  rfl

theorem ixArrive_unfound (h : IxTaken s idx typ d m b) (hn : ixFind (dropMsg s idx) d b = none) :
    ixArrive s idx typ ready act = if typ = 1 then ixHold (dropMsg s idx) d m else ixStray (dropMsg s idx) d m := by
  rw [ixArrive_takes h.toIxComes (by rw [ixWaits_taken h, hn]), ixTaken_found h, hn]
  dsimp only
  by_cases h1 : typ = 1
  · rw [if_pos h1, if_pos (beq_iff_eq.2 h1)]
  · rw [if_neg h1, if_neg fun h => h1 (beq_iff_eq.1 h)]

/-- How far ahead of the slot's round a request is. -/
def ixAhead (x : IxSlot) (b : IxMsg) : Nat := (b.round + 65536 - x.round) % 65536

theorem ixAhead_same {x : IxSlot} (h : b.round = x.round) : ixAhead x b = 0 := by
  rw [ixAhead, h, Nat.add_sub_cancel_left]

theorem ixLive_iff {x : IxSlot} : (x.phase != 0 && x.phase != 6) = true ↔ x.phase ≠ 0 ∧ x.phase ≠ 6 := by
  rw [Bool.and_eq_true, bne_iff_ne, bne_iff_ne]

section Found
variable (h : IxTaken s idx typ d m b) (hk : ixFind (dropMsg s idx) d b = some k)
include h hk

theorem ixWaits_found : ixWaits s m b ready = true ↔
    let x := getIxSlot s d k
    (x.phase ≠ 0 ∧ x.phase ≠ 6) ∧ b.round = x.round ∧ b.srcRank < ixRanks x.words ∧ ready x b = false := by
  rw [ixWaits_taken h, hk]
  simp only [Bool.and_eq_true, bne_iff_ne, beq_iff_eq, decide_eq_true_eq, Bool.not_eq_true', and_assoc]

theorem ixArrive_current (hw : ixWaits s m b ready = false) (ha : ixAhead (getIxSlot s d k) b = 0)
    (hl : (getIxSlot s d k).phase ≠ 0 ∧ (getIxSlot s d k).phase ≠ 6) : ixArrive s idx typ ready act =
      if b.srcRank < ixRanks (getIxSlot s d k).words then act (dropMsg s idx) d k m b else ixStray (dropMsg s idx) d m := by
  rw [ixArrive_takes h.toIxComes hw, ixTaken_found h, hk]
  dsimp only
  rw [show (b.round + 65536 - (getIxSlot s d k).round) % 65536 = 0 from ha, ixLive_iff.2 hl, if_pos (by rfl)]
  by_cases hr : b.srcRank < ixRanks (getIxSlot s d k).words
  · rw [if_pos hr, if_pos (decide_eq_true hr)]
  · rw [if_neg hr, if_neg (fun h' => hr (of_decide_eq_true h'))]

theorem ixArrive_unknown (ha : ixAhead (getIxSlot s d k) b = 0) (hl : (getIxSlot s d k).phase ≠ 0 ∧ (getIxSlot s d k).phase ≠ 6)
    (hr : ¬ b.srcRank < ixRanks (getIxSlot s d k).words) : ixArrive s idx typ ready act = ixStray (dropMsg s idx) d m := by
  have hw : ixWaits s m b ready = false := Bool.eq_false_iff.2 fun hw => hr ((ixWaits_found h hk).1 hw).2.2.1
  rw [ixArrive_current h hk hw ha hl, if_neg hr]

/-- A request ahead of its round, or of a round that is not in progress. -/
theorem ixArrive_off (hoff : ixAhead (getIxSlot s d k) b ≠ 0 ∨ ¬ ((getIxSlot s d k).phase ≠ 0 ∧ (getIxSlot s d k).phase ≠ 6)) :
    ixArrive s idx typ ready act =
      let x := getIxSlot s d k
      if (if x.phase = 0 then 0 else 1) < ixAhead x b then ixStray (dropMsg s idx) d m
      else if typ = 1 then ixHold (dropMsg s idx) d m
      else if typ = 7 ∧ x.phase = 6 then ixAnswer (dropMsg s idx) d m 0
      else if typ = 7 ∧ b.srcRank < ixRanks x.words then act (dropMsg s idx) d k m b
      else ixStray (dropMsg s idx) d m := by
  have hw : ixWaits s m b ready = false := Bool.eq_false_iff.2 fun hw => by
    obtain ⟨hlive, hround, -⟩ := (ixWaits_found h hk).1 hw
    exact hoff.elim (fun ha => ha (ixAhead_same hround)) fun hl => hl hlive
  rw [ixArrive_takes h.toIxComes hw, ixTaken_found h, hk]
  dsimp only
  rw [if_neg (fun hb => ?_)]
  · simp only [beq_iff_eq, Bool.and_eq_true, decide_eq_true_eq]
    rfl
  · obtain ⟨ha, hl⟩ := Bool.and_eq_true_iff.1 hb
    exact hoff.elim (fun ho => ho (beq_iff_eq.1 ha)) fun ho => ho (ixLive_iff.1 hl)

end Found

theorem ixArrive_acts (h : IxArrives s idx typ d k m b) (hr : ready (getIxSlot s d k) b = true) :
    ixArrive s idx typ ready act = act (dropMsg s idx) d k m b := by
  have hw : ixWaits s m b ready = false := Bool.eq_false_iff.2 fun hw =>
    Bool.false_ne_true (((ixWaits_found h.toIxTaken h.slot).1 hw).2.2.2.symm.trans hr)
  rw [ixArrive_current h.toIxTaken h.slot hw (ixAhead_same h.round) h.live, if_pos h.rank]

end Arrive

/-- Every request is taken by one rule, with its channels and its own effect. -/
theorem exec_ixCommand {idx typ : Nat} {i : Instr} (h : (typ, i) ∈ ixCommands idx) : ∃ act,
    (∀ s, exec i s = .next (ixArrive s idx typ (ixServes s typ) act)) ∧
    (typ = 7 → act = fun s d k m b => ixAbort (ixAnswer s d m 0) d k (b.arg % 256) 0 false) := by
  simp only [ixCommands, List.mem_cons, Prod.mk.injEq, List.not_mem_nil, or_false] at h
  rcases h with ⟨rfl, rfl⟩ | ⟨rfl, rfl⟩ | ⟨rfl, rfl⟩ | ⟨rfl, rfl⟩ | ⟨rfl, rfl⟩ | ⟨rfl, rfl⟩
  · exact ⟨_, fun s => rfl, fun h => absurd h (by decide)⟩
  · exact ⟨_, fun s => rfl, fun h => absurd h (by decide)⟩
  · exact ⟨_, fun s => rfl, fun h => absurd h (by decide)⟩
  · exact ⟨_, fun s => rfl, fun h => absurd h (by decide)⟩
  · exact ⟨_, fun s => rfl, fun h => absurd h (by decide)⟩
  · exact ⟨_, fun s => rfl, fun _ => rfl⟩

/-! ### The round trigger (R303) -/

/-- What the queueing of requests leaves: the slots and the early requests of the exchanges, and the memory. -/
def ixHeld (s : State) : (Nat → SMap IxSlot × List Msg) × SMap Byte := (fun d => ((getIx s d).slots, (getIx s d).early), s.hbm)

theorem ixQueue_held (s : State) (d : Nat) (r : IxReq) (m : Msg) : Same ixHeld s (ixQueue s d r m) := by
  refine Prod.ext (funext fun j => ?_) rfl
  unfold ixQueue
  dsimp only [ixHeld]
  by_cases h : j = d
  · rw [h, getIx_setIx]
  · rw [getIx_setIx_of_ne _ _ _ h]

theorem setFlows_early (s : State) (d base n : Nat) (f : Nat → Flow) : (getIx (setFlows s d base n f) d).early = (getIx s d).early := by
  unfold setFlows
  dsimp only
  rw [getIx_setIx]

theorem ixTakeEarly_none {s : State} {d : Nat} (k : Nat) (h : (getIx s d).early = []) :
    Same ixSlotsOf s (ixTakeEarly s d k) ∧ (ixTakeEarly s d k).hbm = s.hbm := by
  unfold ixTakeEarly
  dsimp only
  rw [h]
  exact ⟨setIx_slots s d _ rfl, rfl⟩

theorem roundBegun_ends (s : State) (d k : Nat) (y : IxSlot) (base n : Nat) (f : Nat → Flow) (l : List Nat) (r : Nat → IxReq) (m : State → Nat → Msg)
    (he : (getIx s d).early = []) :
    let t := ixPump (ixTakeEarly (l.foldl (fun s i => ixQueue s d (r i) (m s i)) (setIxSlot (setFlows s d base n f) d k y)) d k) d
    getIxSlot t d k = y ∧ t.hbm = s.hbm := by
  intro t
  generalize hu : l.foldl (fun s i => ixQueue s d (r i) (m s i)) (setIxSlot (setFlows s d base n f) d k y) = u
  have hheld : Same ixHeld (setIxSlot (setFlows s d base n f) d k y) u := by
    rw [← hu]
    exact Same.foldl (fun t i _ => ixQueue_held t ..) _
  have hearly : (getIx u d).early = [] := by
    refine (congrArg (fun v => (v.1 d).2) hheld).trans ?_
    show (getIx (setIxSlot (setFlows s d base n f) d k y) d).early = []
    rw [setIxSlot, getIx_setIx]
    exact (setFlows_early ..).trans he
  have hslot : getIxSlot u d k = y := by
    have h := congrArg (fun v => look (v.1 d).1 k {}) hheld
    refine h.trans ?_
    show getIxSlot (setIxSlot (setFlows s d base n f) d k y) d k = y
    rw [getIxSlot, setIxSlot, getIx_setIx]
    exact look_store_self ..
  obtain ⟨hslots, hhbm⟩ := ixTakeEarly_none k hearly
  have ht : t = ixPump (ixTakeEarly u d k) d := by
    rw [← hu]
  rw [ht]
  refine ⟨(getIxSlot_of_slots (ixPumpN_slots ..) d k).trans ((getIxSlot_of_slots hslots d k).trans hslot), ?_⟩
  exact ((ixPump_keeps _ d (.refl (wr := false) _)).bytes rfl).trans (hhbm.trans (congrArg (·.2) hheld))

/-- Settles O47: the triggers and retries by the branch of their command, the requests by the one rule that takes them. -/
theorem exchangeRounds : Obligations.ExchangeRounds := by
  unfold Obligations.ExchangeRounds
  refine ⟨fun die slot b f e s => ?_, fun idx d k typ i m b s hi => ?_, fun idx d k m b f l s => ?_⟩
  · intro x w n asks
    refine ⟨?_, ?_, ?_, ?_, fun hs ha => ?_, fun h => ?_⟩
    · intro may routes y s1
      have hneg (h : may) : ¬ (!x.armed || x.phase != 0 || gated s (pgIx die) ||
          !trigReached s x.ctx (nth w 6) (nth w 7 + x.round * ixStep w) ||
          !rangeReady s (ctxPart s x.ctx) (wAddr w 18) (8 * ixRoutes w) || !ixTableReady s x) = true := by
        obtain ⟨ha, hp, hg, ht, hr, hx⟩ := h
        simp [ha, hp, hg, ht, hr, hx]
      have hbegun (h : may) (hb : readRangeAt s die (ctxPart s x.ctx) (wAddr w 18) (8 * ixRoutes w) = .ok b) :
          exec (.ixRoundTrigger die slot) s = .next (ixPump (ixTakeEarly
            ((List.range (ixRanks w)).foldl (fun s r => asks s 1 r (ixCountMsg s die y r)) s1) die slot) die) := by
        refine (congrArg Host.Outcome.next (if_neg (hneg h))).trans ?_
        split
        · rename_i heq
          cases heq.symm.trans hb
        · rename_i heq
          cases heq.symm.trans hb
          rfl
      refine ⟨fun h => congrArg Host.Outcome.next (if_pos ?_), fun h hb => ⟨hbegun h hb, fun he => ⟨_, hbegun h hb, ?_⟩⟩, fun h hb => ?_⟩
      · refine Decidable.of_not_not fun hn => h ?_
        simpa [and_assoc] using hn
      · obtain ⟨hslot, hhbm⟩ := roundBegun_ends s die slot y x.flowBase (2 * n)
          (fun j => { heldFlow x slot j with count := if j < n then (routes.filter (fun e => e.2 == j)).length else 0 })
          (List.range (ixRanks w)) (fun r => { req := 0, slot := slot, typ := 1, rank := r }) (fun s r => ixCountMsg s die y r) he
        refine ⟨congrArg (·.phase) hslot, congrArg (·.startAt) hslot, congrArg (·.routes) hslot, hhbm⟩
      · refine (congrArg Host.Outcome.next (if_neg (hneg h))).trans ?_
        split
        · rename_i heq
          cases heq.symm.trans hb
          rfl
        · rename_i heq
          cases heq.symm.trans hb
    · intro may r
      have hneg (h : may) : ¬ (!x.armed || x.phase < 3 || x.phase == 6 || !ixCombine w || x.readySent || !x.arriveDone ||
          gated s (pgIx die) || !trigReached s x.ctx (nth w 11) (nth w 12 + x.round * ixStep w) ||
          !ixCombReady s x (fun g => decide (n ≤ g))) = true := by
        obtain ⟨ha, h3, h6, hc, hs, hd, hg, ht, hr⟩ := h
        simp [ha, Nat.not_lt.2 h3, h6, hc, hs, hd, hg, ht, hr]
      refine ⟨fun h => congrArg Host.Outcome.next (if_pos ?_), fun h hr => ?_, fun h hr => ?_⟩
      · refine Decidable.of_not_not fun hn => h ?_
        simpa [and_assoc] using hn
      · refine (congrArg Host.Outcome.next (if_neg (hneg h))).trans ?_
        dsimp only
        split
        · rename_i heq
          cases heq.symm.trans hr
          rfl
        · rename_i heq
          cases heq.symm.trans hr
      · refine (congrArg Host.Outcome.next (if_neg (hneg h))).trans ?_
        dsimp only
        split
        · rename_i heq
          cases heq.symm.trans hr
        · rfl
    · intro due
      have hdue : (x.armed && x.phase != 0 && x.phase != 6 && ((!x.counted && decide (x.startAt + ixLimit w * 1000 < s.odometer)) ||
          (x.readySent && x.readyIn.length < ixRanks w && decide (x.combineAt + ixLimit w * 1000 < s.odometer)))) = true ↔ due := by
        simp [due, and_assoc]
      exact ⟨fun h => congrArg Host.Outcome.next (if_pos (hdue.2 h)), fun h => congrArg Host.Outcome.next (if_neg fun h' => h (hdue.1 h'))⟩
    · intro waits s1
      have hretry (hw : waits = some e) (h0 : x.phase ≠ 0) (h6 : x.phase ≠ 6) : exec (.ixCountRetry die slot) s = .next
          (if passed s e.2.1 (2 * msNs) then ixAbort s die slot Code.timedOut.num 0 true
           else ixPump (asks s1 1 e.1 (ixCountMsg s1 die x e.1)) die) := by
        refine congrArg Host.Outcome.next ?_
        split
        · rename_i heq
          cases heq.symm.trans hw
        · rename_i heq
          cases heq.symm.trans hw
          refine if_neg fun h => ?_
          rcases Bool.or_eq_true_iff.1 h with h | h
          · exact h0 (beq_iff_eq.1 h)
          · exact h6 (beq_iff_eq.1 h)
      refine ⟨fun h => ?_, fun hw h0 h6 => ⟨fun hp => ?_, fun hp => ?_⟩⟩
      · refine congrArg Host.Outcome.next ?_
        split
        · rfl
        · rename_i heq
          refine if_pos ?_
          rcases h with h | h | h
          · cases heq.symm.trans h
          · exact Bool.or_eq_true_iff.2 (.inl (beq_iff_eq.2 h))
          · exact Bool.or_eq_true_iff.2 (.inr (beq_iff_eq.2 h))
      · refine (hretry hw h0 h6).trans (congrArg Host.Outcome.next (if_pos (passed_iff.2 hp)))
      · refine (hretry hw h0 h6).trans (congrArg Host.Outcome.next (if_neg fun h => ?_))
        exact Nat.not_le.2 hp (passed_iff.1 h)
    · refine congrArg Host.Outcome.next (if_neg fun h => ?_)
      rcases Bool.or_eq_true_iff.1 h with h | h
      · exact hs (List.isEmpty_iff.1 h)
      · exact ha (beq_iff_eq.1 h)
    · refine congrArg Host.Outcome.next (if_pos (Bool.or_eq_true_iff.2 ?_))
      exact h.imp List.isEmpty_iff.2 beq_iff_eq.2
  · obtain ⟨act, hexec, habort⟩ := exec_ixCommand hi
    intro x s0 ahead live known far
    have hrun {t : State} (h : ixArrive s idx typ (ixServes s typ) act = t) : exec i s = .next t := (hexec s).trans (congrArg _ h)
    refine ⟨fun h => ⟨fun hc => hrun (ixArrive_refused h hc), fun hc hs => hrun (ixArrive_shut h hc hs),
      fun hc hs ha => hrun (ixArrive_stranger h hc hs ha)⟩, fun h => ⟨fun hn => hrun (ixArrive_unfound h hn), fun hk =>
      ⟨fun ha hl hr => hrun (ixArrive_unknown h hk ha hl hr), fun hround hl hr hw =>
        hrun (ixArrive_waits h.toIxComes ((ixWaits_found h hk).2 ⟨hl, hround, hr, hw⟩)), fun hoff => ?_⟩⟩⟩
    have hexec' := hrun (ixArrive_off (ready := ixServes s typ) (act := act) h hk hoff)
    refine ⟨fun hf => ?_, fun hf h1 => ?_, fun hf h7 h6 => ?_, fun hf h7 h6 hr => ?_, fun hf h7 h6 hr => ?_, fun hf h1 h7 => ?_⟩
    · exact hexec'.trans (congrArg Host.Outcome.next (if_pos hf))
    · exact hexec'.trans (congrArg Host.Outcome.next ((if_neg hf).trans (if_pos h1)))
    · exact hexec'.trans (congrArg Host.Outcome.next ((if_neg hf).trans ((if_neg (by omega)).trans (if_pos ⟨h7, h6⟩))))
    · refine hexec'.trans (congrArg Host.Outcome.next ((if_neg hf).trans ((if_neg (by omega)).trans ((if_neg fun h => h6 h.2).trans
        ((if_pos ⟨h7, hr⟩).trans ?_)))))
      rw [habort h7]
    · exact hexec'.trans (congrArg Host.Outcome.next ((if_neg hf).trans ((if_neg (by omega)).trans ((if_neg fun h => h6 h.2).trans
        (if_neg fun h => hr h.2)))))
    · exact hexec'.trans (congrArg Host.Outcome.next ((if_neg hf).trans ((if_neg h1).trans ((if_neg fun h => h7 h.1).trans
        (if_neg fun h => h7 h.1)))))
  · intro x w n s0 s1 row ex inside at_
    have hserves {typ : Nat} (h : IxArrives s idx typ d k m b) : ixServes s typ x b = true := h.typ ▸ h.serves
    refine ⟨fun h => congrArg Host.Outcome.next (ixArrive_acts h (hserves h)), fun h => ?_, fun h => ?_, fun h => ?_, fun h => ?_,
      fun h => congrArg Host.Outcome.next (ixArrive_acts h rfl)⟩
    · intro lo hi again s2 t
      have hexec : exec (.ixGrant idx) s = .next (if hi ≤ lo || again then s1 else ixAfter
          (if t.2.isNone && x.readyIn.contains b.srcRank && homeGranted t.1 d x b.srcRank then ixCombineHome t.1 d k b.srcRank
           else t) d k) := by
        refine (congrArg Host.Outcome.next (ixArrive_acts h (hserves h))).trans ?_
        dsimp only
        rw [getIxSlot_ixAnswer, getFlow_ixAnswer]
        rfl
      refine ⟨fun ho => hexec.trans (congrArg Host.Outcome.next (if_pos (Bool.or_eq_true_iff.2 (ho.imp_left decide_eq_true)))),
        fun hlo ha => hexec.trans (congrArg Host.Outcome.next (if_neg fun h => ?_))⟩
      rcases Bool.or_eq_true_iff.1 h with h | h
      · exact Nat.not_le.2 hlo (of_decide_eq_true h)
      · exact Bool.false_ne_true (ha.symm.trans h)
    · intro v s2 p s3
      have hout : (x.phase < 3 || ixLocal w ≤ ex || ixCap w ≤ row || ixParts w ≤ b.part) = true ↔ x.phase < 3 ∨ ¬ inside := by
        simp only [Bool.or_eq_true, decide_eq_true_eq, inside, Decidable.not_and_iff_not_or_not, Nat.not_lt, or_assoc]
        rfl
      have hin (h3 : 3 ≤ x.phase) (hin : inside) : ¬ (x.phase < 3 || ixLocal w ≤ ex || ixCap w ≤ row || ixParts w ≤ b.part) = true :=
        fun h => (hout.1 h).elim (Nat.not_lt.2 h3) fun h => h hin
      refine ⟨fun ho => ?_, fun h3 hi hv => ?_, fun h3 hi hv => ?_⟩
      · exact (congrArg Host.Outcome.next (ixArrive_acts h (hserves h))).trans (congrArg Host.Outcome.next (if_pos (hout.2 ho)))
      · refine (congrArg Host.Outcome.next (ixArrive_acts h (hserves h))).trans (congrArg Host.Outcome.next ((if_neg (hin h3 hi)).trans ?_))
        generalize hR : ixDrive _ d k ixFuel = R
        dsimp only
        split
        · rename_i heq
          cases (congrArg Prod.snd heq).symm.trans hv
        · rename_i u heq
          obtain rfl : v.1 = u := congrArg Prod.fst heq
          exact hR
      · refine (congrArg Host.Outcome.next (ixArrive_acts h (hserves h))).trans (congrArg Host.Outcome.next ((if_neg (hin h3 hi)).trans ?_))
        dsimp only
        split
        · rename_i u f' heq
          obtain rfl : v.1 = u := congrArg Prod.fst heq
          cases (congrArg Prod.snd heq).symm.trans hv
          rfl
        · rename_i heq
          cases (congrArg Prod.snd heq).symm.trans hv
    · intro s2 s3
      refine ⟨fun hc => ?_, fun hc hr => ?_, fun hc hr => ?_⟩
      · refine (congrArg Host.Outcome.next (ixArrive_acts h (hserves h))).trans (congrArg Host.Outcome.next (if_pos ?_))
        rw [Bool.not_eq_true']
        exact hc
      · refine (congrArg Host.Outcome.next (ixArrive_acts h (hserves h))).trans (congrArg Host.Outcome.next ((if_neg ?_).trans (if_pos hr)))
        rw [Bool.not_eq_true']
        exact ne_false_of_eq_true hc
      · refine (congrArg Host.Outcome.next (ixArrive_acts h (hserves h))).trans (congrArg Host.Outcome.next ((if_neg ?_).trans
          (if_neg (ne_true_of_eq_false hr))))
        rw [Bool.not_eq_true']
        exact ne_false_of_eq_true hc
    · intro v s2 p s3
      have hout : (!x.readySent || ixLocal w ≤ ex || ixCap w ≤ row || ixParts w ≤ b.part) = true ↔ x.readySent = false ∨ ¬ inside := by
        simp only [Bool.or_eq_true, decide_eq_true_eq, inside, Decidable.not_and_iff_not_or_not, Nat.not_lt, or_assoc, Bool.not_eq_true']
        rfl
      have hin (h3 : x.readySent = true) (hin : inside) : ¬ (!x.readySent || ixLocal w ≤ ex || ixCap w ≤ row || ixParts w ≤ b.part) = true :=
        fun h => (hout.1 h).elim (fun h => Bool.false_ne_true (h.symm.trans h3)) fun h => h hin
      refine ⟨fun ho => ?_, fun h3 hi hv => ?_, fun h3 hi hv => ?_⟩
      · exact (congrArg Host.Outcome.next (ixArrive_acts h (hserves h))).trans (congrArg Host.Outcome.next (if_pos (hout.2 ho)))
      · refine (congrArg Host.Outcome.next (ixArrive_acts h (hserves h))).trans (congrArg Host.Outcome.next ((if_neg (hin h3 hi)).trans ?_))
        generalize hR : ixDrive _ d k ixFuel = R
        dsimp only
        split
        · rename_i heq
          cases heq.symm.trans hv
        · rename_i heq
          cases heq.symm.trans hv
          exact hR
      · refine (congrArg Host.Outcome.next (ixArrive_acts h (hserves h))).trans (congrArg Host.Outcome.next ((if_neg (hin h3 hi)).trans ?_))
        dsimp only
        split
        · rename_i heq
          cases heq.symm.trans hv
          rfl
        · rename_i heq
          cases heq.symm.trans hv

end Sys2Proof.Machine
end

section
/-!
PROOFS. An exchange: the answers to its requests (R262, R306, R307, R377).
-/
namespace Sys2Proof.Machine

/-! ### The state once an answer is taken -/

section Answered
variable (s : State)

theorem settleOut_ixs (req : Nat) : (settleOut s req).1.ixs = s.ixs := by
  unfold settleOut
  split
  · rfl
  · dsimp only
    split <;> rfl

theorem settleOut_odometer (req : Nat) : (settleOut s req).1.odometer = s.odometer := by
  unfold settleOut
  split
  · rfl
  · dsimp only
    split <;> rfl

theorem ixOpenDie_congr {s t : State} (h : t.ixs = s.ixs) (req : Nat) : ixOpenDie t req = ixOpenDie s req := by
  have hget (d : Nat) : getIx t d = getIx s d := by rw [getIx, h, getIx]
  simp only [ixOpenDie, hget]

theorem cwDecrease_ix (d : Nat) (cw : Nat) : Same ixSlotsOf s (cwDecrease s (.ix (Fin.ofNat 4 d)) cw) ∧
    (cwDecrease s (.ix (Fin.ofNat 4 d)) cw).odometer = s.odometer := by
  unfold cwDecrease
  dsimp only
  split
  · exact ⟨rfl, rfl⟩
  · exact ⟨setIx_slots s _ _ rfl, rfl⟩

theorem ixAnswered_slot (idx d k d' : Nat) (m : Msg) : getIxSlot (ixAnswered s idx d m) d' k = getIxSlot s d' k := by
  have h1 : Same ixSlotsOf s (settleOut (dropMsg s idx) m.req).1 := funext fun j => by
    rw [ixSlotsOf, getIx, settleOut_ixs]
    rfl
  unfold ixAnswered
  extract_lets s1 s2
  have h2 : Same ixSlotsOf s1 s2 := .ite (cwDecrease_ix s1 ..).1 (.refl s1)
  refine (getIxSlot_of_slots (s := s2) ?_ d' k).trans (getIxSlot_of_slots (h1.trans h2) d' k)
  exact setIx_slots s2 d _ rfl

theorem ixAnswered_odometer (idx d : Nat) (m : Msg) : (ixAnswered s idx d m).odometer = s.odometer := by
  unfold ixAnswered
  extract_lets s1 s2
  have h2 : s2.odometer = s1.odometer := Same.ite (view := (·.odometer)) (cwDecrease_ix s1 ..).2 (.refl s1)
  exact h2.trans (settleOut_odometer ..)

end Answered

/-! ### Answers that come -/

section Settle
variable {s : State} {idx typ d : Nat} {m : Msg} {b : IxMsg} {r : IxReq} {act : State → Nat → IxReq → Msg → IxMsg → State}

theorem ixSettle_taken (h : IxBack s idx typ m b) (hw : typ = 6 → fetchWaits s m = false) : ixSettle s idx typ act =
    match ixOpenDie s m.req with
    | none => unawaited (settleOut (dropMsg s idx) m.req).1 m
    | some d =>
      match (getIx s d).open_.find? (fun r => r.req == m.req) with
      | none => ixAnswered s idx d m
      | some r =>
        let x := getIxSlot s d r.slot
        if r.typ == 7 || x.phase == 0 || x.phase == 6 then ixPump (ixQuiet (ixAnswered s idx d m) d r.slot) d
        else act (ixAnswered s idx d m) d r m b := by
  obtain ⟨hhere, hbody, htyp, hans⟩ := h
  subst htyp
  have hcond : ¬ (b.typ != b.typ || !m.resp || (b.typ == 6 && fetchWaits s m)) = true := by
    rw [hans, bne_self_eq_false, Bool.not_true, Bool.or_self, Bool.false_or]
    intro h
    obtain ⟨h6, hf⟩ := Bool.and_eq_true_iff.1 h
    exact Bool.false_ne_true ((hw (beq_iff_eq.1 h6)).symm.trans hf)
  have hdie : ixOpenDie (settleOut (dropMsg s idx) m.req).1 m.req = ixOpenDie s m.req := ixOpenDie_congr (settleOut_ixs ..) _
  have hget (d : Nat) : getIx (settleOut (dropMsg s idx) m.req).1 d = getIx s d := by
    rw [getIx, settleOut_ixs]
    rfl
  unfold ixSettle
  rw [hhere]
  dsimp only
  rw [hbody]
  dsimp only
  rw [if_neg hcond, hdie]
  cases ixOpenDie s m.req with
  | none => rfl
  | some d =>
    dsimp only
    have hans' : setIx (if m.mark then cwDecrease (settleOut (dropMsg s idx) m.req).1 (.ix (Fin.ofNat 4 d)) 2
        else (settleOut (dropMsg s idx) m.req).1) d { getIx (if m.mark then cwDecrease (settleOut (dropMsg s idx) m.req).1 (.ix (Fin.ofNat 4 d)) 2
        else (settleOut (dropMsg s idx) m.req).1) d with
          open_ := (getIx (settleOut (dropMsg s idx) m.req).1 d).open_.filter (fun r => r.req != m.req) } = ixAnswered s idx d m := rfl
    rw [hans', hget]
    cases (getIx s d).open_.find? (fun r => r.req == m.req) with
    | none => rfl
    | some r =>
      dsimp only
      rw [ixAnswered_slot]

theorem ixSettle_unawaited (h : IxBack s idx typ m b) (hn : ixOpenDie s m.req = none) :
    ixSettle s idx typ act = unawaited (settleOut (dropMsg s idx) m.req).1 m := by
  have hw : fetchWaits s m = false := by
    unfold fetchWaits
    rw [hn]
  rw [ixSettle_taken h fun _ => hw, hn]

theorem ixSettle_waits (h : IxBack s idx 6 m b) (hw : fetchWaits s m = true) : ixSettle s idx 6 act = s := by
  obtain ⟨hhere, hbody, htyp, hans⟩ := h
  unfold ixSettle
  rw [hhere]
  dsimp only
  rw [hbody]
  dsimp only
  rw [hw, beq_self_eq_true, Bool.and_self, Bool.or_true, if_pos rfl]

variable (h : IxAnswers s idx typ d m b r)
include h

theorem ixSettle_found : ixSettle s idx typ act =
    if r.typ == 7 || (getIxSlot s d r.slot).phase == 0 || (getIxSlot s d r.slot).phase == 6 then
      ixPump (ixQuiet (ixAnswered s idx d m) d r.slot) d
    else act (ixAnswered s idx d m) d r m b := by
  rw [ixSettle_taken h.toIxBack fun h6 => h.serves (h.typ.trans h6), h.die]
  dsimp only
  rw [h.open_]

theorem ixSettle_ended (hl : ¬ ixLive s d r) : ixSettle s idx typ act = ixPump (ixQuiet (ixAnswered s idx d m) d r.slot) d := by
  rw [ixSettle_found h, if_pos]
  refine Decidable.of_not_not fun hn => hl ?_
  simpa [ixLive, and_assoc] using hn

theorem ixSettle_acts (hl : ixLive s d r) : ixSettle s idx typ act = act (ixAnswered s idx d m) d r m b := by
  obtain ⟨h7, h0, h6⟩ := hl
  rw [ixSettle_found h, if_neg]
  simp [h7, h0, h6]

end Settle

/-- Settles O48: an answer is taken by one rule, and what it means is its own command's effect on the state where its request ended. -/
theorem exchangeAnswers : Obligations.ExchangeAnswers := by
  unfold Obligations.ExchangeAnswers
  intro idx d m b r f s x w s0 unknown
  have hslot : getIxSlot s0 d r.slot = x := ixAnswered_slot ..
  have hodo : s0.odometer = s.odometer := ixAnswered_odometer ..
  refine ⟨fun h hn => congrArg Host.Outcome.next (ixSettle_unawaited h hn), fun h hn => congrArg Host.Outcome.next (ixSettle_unawaited h hn),
    fun h hw => congrArg Host.Outcome.next (ixSettle_waits h hw), fun h => ?_, fun h => ?_⟩
  · intro v p s1
    refine ⟨fun hl => congrArg Host.Outcome.next (ixSettle_ended h hl), fun hl hv => ?_, fun hl hv => ?_⟩
    · refine (congrArg Host.Outcome.next (ixSettle_acts h hl)).trans (congrArg Host.Outcome.next ?_)
      generalize hR : ixDrive _ d r.slot ixFuel = R
      dsimp only
      rw [hslot]
      split
      · rename_i heq
        cases (congrArg Prod.snd heq).symm.trans hv
      · rename_i u heq
        obtain rfl : v.1 = u := congrArg Prod.fst heq
        exact hR
    · refine (congrArg Host.Outcome.next (ixSettle_acts h hl)).trans (congrArg Host.Outcome.next ?_)
      dsimp only
      rw [hslot]
      split
      · rename_i u f' heq
        obtain rfl : v.1 = u := congrArg Prod.fst heq
        cases (congrArg Prod.snd heq).symm.trans hv
        rfl
      · rename_i heq
        cases (congrArg Prod.snd heq).symm.trans hv
  · intro forget first p s1 on
    refine ⟨fun hl => congrArg Host.Outcome.next (ixSettle_ended h hl), fun hl => ?_⟩
    have hexec : exec (.ixAck idx) s = .next
        (if m.code == Code.noSpace.num && r.typ == 1 then
          ixPump (setIxSlot s0 d r.slot { x with retries := forget ++ [(r.rank, first, s.odometer + 1)] }) d
         else if m.code != 0 then ixAbort s0 d r.slot m.code 0 true
         else ixDrive (ixPump (if r.typ == 1 then (List.range (ixLocal w)).foldl (fun s e =>
             modFlow s d (sendFlow x (r.rank * ixLocal w + e)) (fun f => { f with countIn := true }))
             (setIxSlot s0 d r.slot { x with retries := forget })
           else if r.typ == 3 then (if p.2 then modFlow s1 d
             (sendFlow p.1 (r.rank * ixLocal w + r.expert)) (fun f => { f with moved := f.moved + 1 }) else s1)
           else s0) d) d r.slot ixFuel) := by
      refine (congrArg Host.Outcome.next (ixSettle_acts h hl)).trans ?_
      dsimp only
      rw [hslot, hodo]
    have hnoSpace (hn : m.code ≠ Code.noSpace.num ∨ r.typ ≠ 1) : ¬ (m.code == Code.noSpace.num && r.typ == 1) = true := fun hb => by
      obtain ⟨hb, h1⟩ := Bool.and_eq_true_iff.1 hb
      exact hn.elim (fun h => h (beq_iff_eq.1 hb)) fun h => h (beq_iff_eq.1 h1)
    have hon (hc : m.code = 0) : exec (.ixAck idx) s = _ := hexec.trans (congrArg Host.Outcome.next
      ((if_neg (hnoSpace (.inl (by rw [hc]; decide)))).trans (if_neg (by rw [hc]; decide))))
    refine ⟨fun hc h1 => hexec.trans (congrArg Host.Outcome.next (if_pos ?_)),
      fun hc hn => hexec.trans (congrArg Host.Outcome.next ((if_neg (hnoSpace hn)).trans (if_pos (bne_iff_ne.2 hc)))),
      fun hc h1 => (hon hc).trans ?_, fun hc h3 => (hon hc).trans ?_, fun hc h1 h3 => (hon hc).trans ?_⟩
    · rw [hc, h1]
      rfl
    · rw [if_pos (beq_iff_eq.2 h1)]
    · rw [if_neg (by rw [h3]; decide), if_pos (beq_iff_eq.2 h3)]
    · rw [if_neg (fun h => h1 (beq_iff_eq.1 h)), if_neg (fun h => h3 (beq_iff_eq.1 h))]

end Sys2Proof.Machine
end

section
/-!
PROOFS. A collective: its round and the requests that arrive (R297, R312, R317 to R321, R325, R327, R329).
-/
namespace Sys2Proof.Machine

theorem colAnswer_cols (s : State) (d : Nat) (m : Msg) (typ code : Nat) : (colAnswer s d m typ code).cols = s.cols := by
  unfold colAnswer sendAnswer
  dsimp only
  split
  · rfl
  · split <;> rfl

theorem getColSlot_colAnswer (s : State) (d : Nat) (m : Msg) (typ code d' k : Nat) :
    getColSlot (colAnswer s d m typ code) d' k = getColSlot s d' k := by
  rw [getColSlot, getCol, colAnswer_cols, getColSlot, getCol]

/-! ### Requests that arrive (R188, R329) -/

section Checked
variable {s : State} {idx typ d : Nat} {m : Msg} {b : ColMsg} {ready : Nat → Msg → ColMsg → Bool} {act : State → Nat → Msg → ColMsg → State}

theorem colChecked_waits (h : ColComes s idx typ d m b) (hc : m.code = 0) (hs : colShut s d typ b.ctx = false)
    (ha : ctxAccepts (dropMsg s idx) m b.ctx = true) (hr : ready d m b = false) : colChecked s idx typ ready act = s := by
  obtain ⟨hhere, hbody, htyp, hreq, hdie⟩ := h
  have hwait : (m.code == 0 && !colShut s m.dstDie typ b.ctx && ctxAccepts s m b.ctx && !ready m.dstDie m b) = true := by
    rw [hc, hdie, hs, show ctxAccepts s m b.ctx = true from ha, hr]
    rfl
  unfold colChecked
  rw [hhere]
  dsimp only
  rw [hbody]
  dsimp only
  rw [hwait, Bool.or_true, if_pos rfl]

/-- A request that does not wait is turned away, refused or taken. -/
theorem colChecked_goes (h : ColComes s idx typ d m b)
    (hw : (m.code == 0 && !colShut s d typ b.ctx && ctxAccepts s m b.ctx && !ready d m b) = false) :
    colChecked s idx typ ready act =
      if m.code != 0 then colAnswer (dropMsg s idx) d m 5 m.code
      else if colShut s d typ b.ctx then colAnswer (dropMsg s idx) d m 5 Code.fenced.num
      else if !ctxAccepts s m b.ctx then colStray (dropMsg s idx) d m
      else act (dropMsg s idx) d m b := by
  obtain ⟨hhere, hbody, htyp, hreq, hdie⟩ := h
  subst htyp hdie
  unfold colChecked
  rw [hhere]
  dsimp only
  rw [hbody]
  dsimp only
  rw [hw, hreq, bne_self_eq_false, Bool.or_false, Bool.or_false, if_neg Bool.false_ne_true]
  rfl

theorem colChecked_refused (h : ColComes s idx typ d m b) (hc : m.code ≠ 0) :
    colChecked s idx typ ready act = colAnswer (dropMsg s idx) d m 5 m.code := by
  rw [colChecked_goes h (by rw [beq_false_of_ne hc]; rfl), if_pos (bne_iff_ne.2 hc)]

theorem colChecked_shut (h : ColComes s idx typ d m b) (hc : m.code = 0) (hs : colShut s d typ b.ctx = true) :
    colChecked s idx typ ready act = colAnswer (dropMsg s idx) d m 5 Code.fenced.num := by
  rw [colChecked_goes h (by rw [hs, Bool.not_true, Bool.and_false]; rfl), if_neg (by rw [hc]; decide), if_pos hs]

theorem colChecked_stranger (h : ColComes s idx typ d m b) (hc : m.code = 0) (hs : colShut s d typ b.ctx = false)
    (ha : ctxAccepts (dropMsg s idx) m b.ctx = false) : colChecked s idx typ ready act = colStray (dropMsg s idx) d m := by
  have ha' : ctxAccepts s m b.ctx = false := ha
  rw [colChecked_goes h (by rw [ha', Bool.and_false]; rfl), if_neg (by rw [hc]; decide), if_neg (ne_true_of_eq_false hs), ha',
    Bool.not_false, if_pos rfl]

theorem colChecked_acts (h : ColTaken s idx typ d m b) (hr : ready d m b = true) :
    colChecked s idx typ ready act = act (dropMsg s idx) d m b := by
  have ha : ctxAccepts s m b.ctx = true := h.accepts
  have hs : colShut s d typ b.ctx = false := h.typ ▸ h.admitted
  rw [colChecked_goes h.toColComes (by rw [hr, Bool.not_true, Bool.and_false]), if_neg (by rw [h.code]; decide),
    if_neg (ne_true_of_eq_false hs), ha, Bool.not_true, if_neg Bool.false_ne_true]

end Checked

/-- What a request of a slot does where the slot is found. -/
theorem colChecked_found {s : State} {idx typ d k : Nat} {m : Msg} {b : ColMsg} {ready : Nat → Msg → ColMsg → Bool}
    {act : State → Nat → Nat → Msg → ColMsg → State} {none_ : State → Nat → Msg → State} (h : ColArrives s idx typ d k m b)
    (hr : ready d m b = true) :
    colChecked s idx typ ready (fun s d m b => match colFind s d b with | none => none_ s d m | some k => act s d k m b) =
      act (dropMsg s idx) d k m b := by
  rw [colChecked_acts h.toColTaken hr, h.slot]

theorem colWhen_always (s : State) : (fun d (_ : Msg) b => colWhen s (fun _ _ => true) d b) = colServes s 8 := by
  refine funext fun d => funext fun m => funext fun b => ?_
  unfold colWhen
  split
  · exact Bool.or_true _
  · rfl

/-- A get's target reads the bytes and keeps them until they are answered (R321). -/
def getServed (s : State) (d : Nat) (m : Msg) (b : ColMsg) : State :=
  match readRangeAt s d (ctxPart s b.ctx) (nth b.ext 0) (min 512 (nth b.ext 1)) with
  | .error f => colAnswer s d m 5 f.1.num
  | .ok l =>
    let r := colReply s d 0 m 11 (crc32c l) l
    let i := getCol s d
    let s := setCol s d { i with store := i.store ++ [{ req := m.req, slot := 16, msg := r }] }
    bump64 (sendAnswer s d r) (pgCol d) 0x054 1

/-- The get's target has room in its resend store. -/
theorem exec_colGetReq {s : State} {idx d : Nat} {m : Msg} {b : ColMsg} (h : ColComes s idx 10 d m b)
    (hroom : (getCol s d).store.length < 4096) :
    exec (.colGetReq idx) s = .next (colChecked s idx 10 (colServes s 10) getServed) := by
  have hfull : (match s.net[idx]? with | some m => decide (4096 ≤ (getCol s m.dstDie).store.length) | none => false) = false := by
    rw [h.here]
    dsimp only
    rw [h.die]
    exact decide_eq_false (Nat.not_le.2 hroom)
  refine congrArg Host.Outcome.next (if_neg ?_)
  exact ne_true_of_eq_false hfull

/-- Every request is taken by one rule, with its channels and its own effect; one without a slot is held or stray. -/
theorem exec_colCommand {idx typ : Nat} {i : Instr} (h : (typ, i) ∈ colCommands idx) : ∃ act,
    (∀ s d m b, ColComes s idx typ d m b → (typ = 10 → (getCol s d).store.length < 4096) →
      exec i s = .next (colChecked s idx typ (colServes s typ) act)) ∧
    (∀ s d m b, typ ≠ 10 → (typ ≠ 4 ∧ typ ≠ 9) ∨ m.cw ≠ 3 → colFind s d b = none →
      act s d m b = if typ = 2 ∨ typ = 7 then colHold s d m else colStray s d m) := by
  simp only [colCommands, List.mem_cons, Prod.mk.injEq, List.not_mem_nil, or_false] at h
  rcases h with ⟨rfl, rfl⟩ | ⟨rfl, rfl⟩ | ⟨rfl, rfl⟩ | ⟨rfl, rfl⟩ | ⟨rfl, rfl⟩ | ⟨rfl, rfl⟩ | ⟨rfl, rfl⟩ | ⟨rfl, rfl⟩
  · refine ⟨_, fun s d m b _ _ => rfl, fun s d m b _ _ hf => ?_⟩
    rw [hf]
    rfl
  · refine ⟨_, fun s d m b _ _ => rfl, fun s d m b _ _ hf => ?_⟩
    rw [hf]
    rfl
  · refine ⟨_, fun s d m b _ _ => rfl, fun s d m b _ _ hf => ?_⟩
    rw [hf]
    rfl
  · refine ⟨_, fun s d m b _ _ => rfl, fun s d m b _ hcw hf => ?_⟩
    have hcw' : ¬ (m.cw == 3) = true := fun h => hcw.elim (fun h => h.1 rfl) fun h' => h' (beq_iff_eq.1 h)
    dsimp only
    rw [if_neg hcw', hf, if_pos (by rw [Bool.eq_false_iff.2 hcw']; rfl)]
    rfl
  · refine ⟨_, fun s d m b _ _ => rfl, fun s d m b _ _ hf => ?_⟩
    rw [hf]
    rfl
  · obtain ⟨act, hexec, hact⟩ : ∃ act,
        (∀ s, exec (.colRelease idx) s = .next (colChecked s idx 8 (fun d _ b => colWhen s (fun _ _ => true) d b) act)) ∧
        (∀ s d m b, colFind s d b = none → act s d m b = colStray s d m) := ⟨_, fun s => rfl, fun s d m b hf => by rw [hf]⟩
    exact ⟨act, fun s d m b _ _ => (hexec s).trans (by rw [colWhen_always]), fun s d m b _ _ hf => hact s d m b hf⟩
  · refine ⟨_, fun s d m b _ _ => rfl, fun s d m b _ hcw hf => ?_⟩
    have hcw' : ¬ (m.cw == 3) = true := fun h => hcw.elim (fun h => h.2 rfl) fun h' => h' (beq_iff_eq.1 h)
    rw [if_neg hcw', hf]
    rfl
  · exact ⟨getServed, fun s d m b hcomes hroom => exec_colGetReq hcomes (hroom rfl), fun s d m b h => absurd rfl h⟩

/-- What becomes of a round whose signal has been delivered, held, or refused (R325). -/
def colSignalled (r : State × SigOut) (d k : Nat) : State :=
  match r.2 with
  | .full => modColSlot r.1 d k (fun x => { x with sigAt := r.1.odometer })
  | .barrier => colAbort r.1 d k Code.wrongState.num 0 true
  | .gone => colAbort r.1 d k Code.notOwner.num 0 true
  | .applied => colEnd r.1 d k
  | .held => colEnd r.1 d k

/-- Settles O49: the trigger and retries by the branch of their command, the requests by the one rule that takes them. -/
theorem collectiveRounds : Obligations.CollectiveRounds := by
  unfold Obligations.CollectiveRounds
  refine ⟨fun die slot e f s => ?_, fun idx d typ i m b s hi hroom => ?_, fun idx d k m b s => ?_⟩
  · intro x w
    refine ⟨?_, ?_, ?_, ?_⟩
    · intro may p s3 s4
      have hneg (h : may) : ¬ (!x.armed || x.phase != 0 || gated s (pgCol die) ||
          !trigReached s x.ctx (nth w 5) (nth w 6 + x.round * colStep w) || !colBeginReady s x) = true := by
        obtain ⟨ha, hp, hg, ht, hr⟩ := h
        simp [ha, hp, hg, ht, hr]
      refine ⟨fun h => congrArg Host.Outcome.next (if_pos ?_), fun h hp => ?_, fun h hp => ?_⟩
      · refine Decidable.of_not_not fun hn => h ?_
        simpa [and_assoc] using hn
      · refine (congrArg Host.Outcome.next (if_neg (hneg h))).trans (congrArg Host.Outcome.next ?_)
        dsimp only
        split
        · rename_i u f' heq
          obtain rfl : p.1 = u := congrArg Prod.fst heq
          cases (congrArg Prod.snd heq).symm.trans hp
          rfl
        · rename_i heq
          cases (congrArg Prod.snd heq).symm.trans hp
      · refine (congrArg Host.Outcome.next (if_neg (hneg h))).trans (congrArg Host.Outcome.next ?_)
        generalize hR : colDrive _ die slot = R
        dsimp only
        split
        · rename_i heq
          cases (congrArg Prod.snd heq).symm.trans hp
        · rename_i u heq
          obtain rfl : p.1 = u := congrArg Prod.fst heq
          exact hR
    · intro due
      have hdue : (x.armed && colLive x && colLate s die slot) = true ↔ due := by
        simp only [due, Bool.and_eq_true, and_assoc]
      exact ⟨fun h => congrArg Host.Outcome.next (if_pos (hdue.2 h)), fun h => congrArg Host.Outcome.next (if_neg fun h' => h (hdue.1 h'))⟩
    · intro waits s1
      have hretry (hw : waits = some e) (hl : colLive x = true) : exec (.colCountRetry die slot) s = .next
          (if passed s e.2.1 (2 * msNs) then colAbort s die slot Code.timedOut.num 0 true
           else colPump (colQueue s1 die slot 0 (if colKind w == 6 then colArriveMsg s1 x else colCountMsg s1 x e.1)) die) := by
        refine congrArg Host.Outcome.next ?_
        split
        · rename_i heq
          cases heq.symm.trans hw
        · rename_i heq
          cases heq.symm.trans hw
          exact if_neg (by rw [show colLive (getColSlot s die slot) = true from hl]; decide)
      refine ⟨fun h => ?_, fun hw hl => ⟨fun hp => ?_, fun hp => ?_⟩⟩
      · refine congrArg Host.Outcome.next ?_
        split
        · rfl
        · rename_i heq
          rcases h with h | h
          · cases heq.symm.trans h
          · exact if_pos (by rw [show colLive (getColSlot s die slot) = false from h]; rfl)
      · exact (hretry hw hl).trans (congrArg Host.Outcome.next (if_pos (passed_iff.2 hp)))
      · exact (hretry hw hl).trans (congrArg Host.Outcome.next (if_neg fun h => Nat.not_le.2 hp (passed_iff.1 h)))
    · intro s1 y r
      refine ⟨fun h => congrArg Host.Outcome.next (if_pos (Bool.or_eq_true_iff.2 (h.imp List.isEmpty_iff.2 fun h => ?_))), fun hs hp => ?_⟩
      · exact (Bool.not_eq_true' _).mpr h
      have hneg : ¬ (y.sigs.isEmpty || !passed s1 y.sigAt usNs) = true := by
        rw [show passed s1 y.sigAt usNs = true from hp, Bool.not_true, Bool.or_false]
        exact fun h => hs (List.isEmpty_iff.1 h)
      have hexec : exec (.colSignalRetry die slot) s = .next (colSignalled r die slot) := by
        refine (congrArg Host.Outcome.next (if_neg hneg)).trans (congrArg Host.Outcome.next ?_)
        generalize hr : deliverSignal _ _ _ _ _ _ _ = r'
        rw [show r = r' from hr]
        obtain ⟨u, o⟩ := r'
        cases o <;> rfl
      refine ⟨fun h => hexec.trans (congrArg Host.Outcome.next ?_), fun h => ?_, fun h => ?_, fun h => ?_⟩
      · unfold colSignalled
        rcases h with h | h
        · rw [h]
        · rw [h]
      · rw [hexec, colSignalled, h]
      · rw [hexec, colSignalled, h]
      · rw [hexec, colSignalled, h]
  · obtain ⟨act, hexec, hnone⟩ := exec_colCommand hi
    intro s0
    refine ⟨fun h => ⟨fun hc => ?_, fun hc hs => ?_, fun hc hs => ⟨fun ha => ?_, fun ha hr => ?_⟩⟩, fun h hf h10 hcw => ?_⟩
    · exact (hexec s d m b h hroom).trans (congrArg Host.Outcome.next (colChecked_refused h hc))
    · exact (hexec s d m b h hroom).trans (congrArg Host.Outcome.next (colChecked_shut h hc hs))
    · exact (hexec s d m b h hroom).trans (congrArg Host.Outcome.next (colChecked_stranger h hc hs ha))
    · exact (hexec s d m b h hroom).trans (congrArg Host.Outcome.next (colChecked_waits h hc hs ha hr))
    · exact (hexec s d m b h.toColComes hroom).trans (congrArg Host.Outcome.next
        ((colChecked_acts h (h.typ ▸ h.serves)).trans (hnone s0 d m b h10 hcw hf)))
  · intro x w s0 s1 tied now ahead with_ sum nak
    have hnow : (colAhead x b == 0 && colLive x && decide (b.srcRank < colRanks w)) = true ↔ now := by
      simp only [now, colNow, Bool.and_eq_true, beq_iff_eq, decide_eq_true_eq, and_assoc]
      rfl
    have hserves {typ : Nat} (h : ColTaken s idx typ d m b) : colServes s typ d m b = true := h.typ ▸ h.serves
    refine ⟨fun h => ?_, fun h => ?_, fun h => ?_, fun h => ?_, fun h => ?_, fun h hcw => ?_, fun h hcw => ?_, fun h hcw => ?_, fun h hcw => ?_⟩
    · have hexec : exec (.colReady idx) s = .next (if b.srcRank != ringNext w || 1 < ahead then colStray s0 d m
          else if ahead == 1 then setColSlot s1 d k { x with nextReady := true }
          else colPump (setColSlot tied d k { x with ready := true }) d) := by
        refine (congrArg Host.Outcome.next (colChecked_acts h.toColTaken rfl)).trans ?_
        dsimp only
        rw [h.slot]
        rfl
      have hneg (hn : b.srcRank = ringNext w) (ha : ahead ≤ 1) : ¬ (b.srcRank != ringNext w || decide (1 < ahead)) = true := by
        simp [hn, ha]
      refine ⟨fun hb => hexec.trans (congrArg Host.Outcome.next (if_pos ?_)), fun hn h1 => hexec.trans (congrArg Host.Outcome.next
        ((if_neg (hneg hn (Nat.le_of_eq h1))).trans (if_pos (beq_iff_eq.2 h1)))), fun hn h0 => hexec.trans (congrArg Host.Outcome.next
        ((if_neg (hneg hn (by omega))).trans (if_neg fun h1 => ?_)))⟩
      · exact Bool.or_eq_true_iff.2 (hb.imp bne_iff_ne.2 decide_eq_true)
      · exact Nat.zero_ne_one (h0.symm.trans (beq_iff_eq.1 h1))
    · have hexec : exec (.colCount idx) s = .next (if 1 < ahead || colRanks w ≤ b.srcRank then colStray s0 d m
          else if ahead == 0 && colLive x then colDrive (colPump (colTakeCount s1 d k b.srcRank (64 * b.arg)) d) d k
          else colHold s0 d m) := by
        refine (congrArg Host.Outcome.next (colChecked_acts h.toColTaken (hserves h.toColTaken))).trans ?_
        dsimp only
        rw [h.slot]
        rfl
      have hneg (ha : ahead ≤ 1) (hr : b.srcRank < colRanks w) : ¬ (decide (1 < ahead) || decide (colRanks w ≤ b.srcRank)) = true := by
        simp [ha, hr]
      refine ⟨fun hb => hexec.trans (congrArg Host.Outcome.next (if_pos ?_)), fun ⟨h0, hl, hr⟩ => hexec.trans (congrArg Host.Outcome.next
        ((if_neg (hneg (Nat.le_trans (Nat.le_of_eq h0) (by decide)) hr)).trans (if_pos ?_))), fun ha hr hn => hexec.trans (congrArg Host.Outcome.next
        ((if_neg (hneg ha hr)).trans (if_neg fun hb => hn ?_)))⟩
      · exact Bool.or_eq_true_iff.2 (hb.imp decide_eq_true decide_eq_true)
      · exact Bool.and_eq_true_iff.2 ⟨beq_iff_eq.2 h0, hl⟩
      · obtain ⟨h0, hl⟩ := Bool.and_eq_true_iff.1 hb
        exact ⟨beq_iff_eq.1 h0, hl, hr⟩
    · have hexec : exec (.colGo idx) s = .next (if colAhead x b == 0 && colLive x && decide (b.srcRank < colRanks w) then
            (if x.goes.contains b.srcRank || colKind w != 4 then s1 else colAfter (colSendBytes
             (setColSlot (colTie s1 d k x.startAt) d k { x with goes := b.srcRank :: x.goes }) d k b.srcRank 0
             (colBlockAt x b.srcRank) 0 (min (64 * b.offset) (nth x.sendCounts b.srcRank)) []) d k)
          else colStray s0 d m) := by
        refine (congrArg Host.Outcome.next (colChecked_acts h.toColTaken (hserves h.toColTaken))).trans ?_
        dsimp only
        rw [h.slot]
        dsimp only
        rw [getColSlot_colAnswer]
        rfl
      refine ⟨fun hn => hexec.trans (congrArg Host.Outcome.next (if_neg fun h => hn (hnow.1 h))), fun hn hg => hexec.trans
        (congrArg Host.Outcome.next ((if_pos (hnow.2 hn)).trans (if_pos ?_))), fun hn hg h4 => hexec.trans
        (congrArg Host.Outcome.next ((if_pos (hnow.2 hn)).trans (if_neg ?_)))⟩
      · exact Bool.or_eq_true_iff.2 (hg.imp_right bne_iff_ne.2)
      · rw [hg, Bool.false_or, bne_iff_ne]
        exact fun h => h h4
    · intro bad
      have hexec : exec (.colArrive idx) s = .next (if 1 < ahead || colRanks w ≤ b.srcRank || colMyRank w != colRoot w || colKind w != 6
          then colStray s0 d m
          else if ahead == 0 then colPump (colRelease (setColSlot tied d k { x with arrived := with_ x.arrived }) d k) d
          else if x.released then setColSlot s1 d k { x with nextArrived := with_ x.nextArrived } else colHold s0 d m) := by
        refine (congrArg Host.Outcome.next (colChecked_acts h.toColTaken rfl)).trans ?_
        dsimp only
        rw [h.slot]
        rfl
      have hbad : (decide (1 < ahead) || decide (colRanks w ≤ b.srcRank) || colMyRank w != colRoot w || colKind w != 6) = true ↔ bad := by
        simp only [bad, Bool.or_eq_true, decide_eq_true_eq, bne_iff_ne, or_assoc]
      have hgood (hb : ¬ bad) : exec (.colArrive idx) s = _ := hexec.trans (congrArg Host.Outcome.next (if_neg fun h => hb (hbad.1 h)))
      refine ⟨fun hb => hexec.trans (congrArg Host.Outcome.next (if_pos (hbad.2 hb))),
        fun hb h0 => (hgood hb).trans (congrArg Host.Outcome.next (if_pos (beq_iff_eq.2 h0))),
        fun hb h1 hr => (hgood hb).trans (congrArg Host.Outcome.next ((if_neg ?_).trans (if_pos hr))),
        fun hb h1 hr => (hgood hb).trans (congrArg Host.Outcome.next ((if_neg ?_).trans (if_neg (ne_true_of_eq_false hr))))⟩
      · rw [h1]
        decide
      · rw [h1]
        decide
    · intro mine
      have hexec : exec (.colRelease idx) s = .next (if colAhead x b == 0 && colLive x && decide (b.srcRank < colRanks w) then
            (if b.srcRank != colRoot w || colKind w != 6 then colStray s0 d m
             else colDrive (modColSlot (colTie s1 d k x.startAt) d k (fun x => { x with placed := true })) d k)
          else colStray s0 d m) := by
        refine (congrArg Host.Outcome.next (colChecked_acts h.toColTaken (congrFun (congrFun (congrFun (colWhen_always s) d) m) b))).trans ?_
        dsimp only
        rw [h.slot]
        rfl
      have hmine : (b.srcRank != colRoot w || colKind w != 6) = true ↔ ¬ mine := by
        simp only [mine, Bool.or_eq_true, bne_iff_ne, Decidable.not_and_iff_not_or_not]
      refine ⟨fun hb => hexec.trans (congrArg Host.Outcome.next ?_), fun hn hm => hexec.trans (congrArg Host.Outcome.next
        ((if_pos (hnow.2 hn)).trans (if_neg fun h => hmine.1 h hm)))⟩
      by_cases hn : now
      · exact (if_pos (hnow.2 hn)).trans (if_pos (hmine.2 (hb.resolve_left fun h => h hn)))
      · exact if_neg fun h => hn (hnow.1 h)
    · intro far
      have hcw' : ¬ (m.cw == 3) = true := fun h => hcw (beq_iff_eq.1 h)
      have hexec : exec (.colAbort idx) s = .next (if (if x.phase == 0 then 0 else 1) < ahead || colRanks w ≤ b.srcRank then colStray s0 d m
          else if x.phase == 4 then s1 else colAbort s1 d k (b.arg % 256) 0 false) := by
        refine (congrArg Host.Outcome.next (colChecked_acts h.toColTaken rfl)).trans ?_
        dsimp only
        rw [if_neg hcw', h.slot]
        rfl
      have hfar : (decide ((if x.phase == 0 then 0 else 1) < ahead) || decide (colRanks w ≤ b.srcRank)) = true ↔ far := by
        simp only [far, Bool.or_eq_true, decide_eq_true_eq, beq_iff_eq]
      refine ⟨fun hf => hexec.trans (congrArg Host.Outcome.next (if_pos (hfar.2 hf))),
        fun hf h4 => hexec.trans (congrArg Host.Outcome.next ((if_neg fun h => hf (hfar.1 h)).trans (if_pos (beq_iff_eq.2 h4)))),
        fun hf h4 => hexec.trans (congrArg Host.Outcome.next ((if_neg fun h => hf (hfar.1 h)).trans (if_neg fun h => h4 (beq_iff_eq.1 h))))⟩
    · refine (congrArg Host.Outcome.next (colChecked_acts h rfl)).trans ?_
      dsimp only
      rw [if_pos (beq_iff_eq.2 hcw)]
    · have hcw' : ¬ (m.cw == 3) = true := fun h => hcw (beq_iff_eq.1 h)
      have hexec : exec (.colPart idx) s = .next (if !(colAhead x b == 0 && colLive x && decide (b.srcRank < colRanks w)) then colStray s0 d m
          else if crc32c b.payload != b.crc then nak else colPartKind sum d k m b) := by
        refine (congrArg Host.Outcome.next (colChecked_acts h.toColTaken (hserves h.toColTaken))).trans ?_
        dsimp only
        rw [if_neg hcw', h.slot]
        rfl
      have hneg (hn : now) : ¬ (!(colAhead x b == 0 && colLive x && decide (b.srcRank < colRanks w))) = true := by
        rw [hnow.2 hn]
        exact Bool.false_ne_true
      refine ⟨fun hn => hexec.trans (congrArg Host.Outcome.next (if_pos ?_)), fun hn hcrc => hexec.trans (congrArg Host.Outcome.next
        ((if_neg (hneg hn)).trans (if_neg fun h => bne_iff_ne.1 h hcrc))), fun hn hcrc => hexec.trans (congrArg Host.Outcome.next
        ((if_neg (hneg hn)).trans (if_pos (bne_iff_ne.2 hcrc))))⟩
      rw [Bool.eq_false_iff.2 fun h => hn (hnow.1 h)]
      rfl
    · have hexec : exec (.colPart idx) s = .next (if crc32c b.payload != b.crc then nak else colPutPart sum d m b) := by
        refine (congrArg Host.Outcome.next (colChecked_acts h (hserves h))).trans ?_
        dsimp only
        rw [if_pos (beq_iff_eq.2 hcw), if_neg (by rw [hcw]; exact Bool.false_ne_true)]
      exact ⟨fun hcrc => hexec.trans (congrArg Host.Outcome.next (if_neg fun h => bne_iff_ne.1 h hcrc)),
        fun hcrc => hexec.trans (congrArg Host.Outcome.next (if_pos (bne_iff_ne.2 hcrc)))⟩

end Sys2Proof.Machine
end

section
/-!
PROOFS. A collective: answers, resends and gets (R262, R321 to R323, R325, R327, R377).
-/
namespace Sys2Proof.Machine

/-! ### The slots of the controllers -/

/-- The slots of the collective controllers. -/
def colSlotsOf (s : State) : Nat → SMap ColSlot := fun d => (getCol s d).slots

section Slots
variable (s : State)

theorem getColSlot_of_slots {s t : State} (h : Same colSlotsOf s t) (d k : Nat) : getColSlot t d k = getColSlot s d k := by
  have hd : (getCol t d).slots = (getCol s d).slots := congrFun h d
  rw [getColSlot, hd, getColSlot]

theorem setCol_slots (d : Nat) (x : Col) (hx : x.slots = (getCol s d).slots) : Same colSlotsOf s (setCol s d x) := by
  refine funext fun j => ?_
  show (getCol (setCol s d x) j).slots = (getCol s j).slots
  by_cases h : j = d
  · rw [h, getCol_setCol, hx]
  · rw [getCol_setCol_of_ne _ _ _ h]

theorem getColSlot_setCol (d k : Nat) (x : Col) (hx : x.slots = (getCol s d).slots) : getColSlot (setCol s d x) d k = getColSlot s d k :=
  getColSlot_of_slots (setCol_slots s d x hx) d k

theorem settleOut_cols (req : Nat) : (settleOut s req).1.cols = s.cols := by
  unfold settleOut
  split
  · rfl
  · dsimp only
    split <;> rfl

theorem getCol_settleOut (req d : Nat) : getCol (settleOut s req).1 d = getCol s d := by
  rw [getCol, settleOut_cols, getCol]

theorem getColSlot_settleOut (req d k : Nat) : getColSlot (settleOut s req).1 d k = getColSlot s d k := by
  rw [getColSlot, getCol_settleOut, getColSlot]

theorem cwDecrease_col (d : Nat) (cw : Nat) : Same colSlotsOf s (cwDecrease s (.col (Fin.ofNat 4 d)) cw) ∧
    (cwDecrease s (.col (Fin.ofNat 4 d)) cw).odometer = s.odometer := by
  unfold cwDecrease
  dsimp only
  split
  · exact ⟨rfl, rfl⟩
  · exact ⟨setCol_slots s _ _ rfl, rfl⟩

theorem colTakenBack_slot (idx d d' k : Nat) (m : Msg) : getColSlot (colTakenBack s idx d m) d' k = getColSlot s d' k := by
  unfold colTakenBack
  extract_lets s0
  have h : Same colSlotsOf s0 (if m.mark then cwDecrease s0 (.col (Fin.ofNat 4 d)) m.cw else s0) := .ite (cwDecrease_col s0 ..).1 (.refl s0)
  exact getColSlot_of_slots h d' k

theorem colTakenBack_odometer (idx d : Nat) (m : Msg) : (colTakenBack s idx d m).odometer = s.odometer := by
  unfold colTakenBack
  extract_lets s0
  exact Same.ite (view := (·.odometer)) (cwDecrease_col s0 ..).2 (.refl s0)

end Slots

/-! ### Answers that come -/

/-- What an answer reaches does not serve yet. -/
def colUnready (s : State) (m : Msg) (b : ColMsg) (ready : Nat → Msg → ColMsg → Bool) : Bool :=
  match colOpenDie s m b with
  | some d => !ready d m b
  | none => false

section Settle
variable {s : State} {idx typ d : Nat} {m : Msg} {b : ColMsg} {ready : Nat → Msg → ColMsg → Bool} {act : State → Nat → Msg → ColMsg → State}

theorem colSettle_back (h : ColBack s idx typ m b) : colSettle s idx typ ready act =
    if colUnready s m b ready then s
    else match colOpenDie (dropMsg s idx) m b with
      | none => unawaited (dropMsg s idx) m
      | some d => act (colTakenBack s idx d m) d m b := by
  obtain ⟨hhere, hbody, htyp, hans⟩ := h
  subst htyp
  unfold colSettle
  rw [hhere]
  dsimp only
  rw [hbody]
  dsimp only
  rw [hans, bne_self_eq_false, Bool.not_true, Bool.or_self, Bool.false_or]
  rfl

theorem colSettle_unawaited (h : ColBack s idx typ m b) (hn : colOpenDie (dropMsg s idx) m b = none) :
    colSettle s idx typ ready act = unawaited (dropMsg s idx) m := by
  have hu : colUnready s m b ready = false := by
    rw [colUnready, show colOpenDie s m b = none from hn]
  rw [colSettle_back h, if_neg (ne_true_of_eq_false hu), hn]

theorem colUnready_of_die (hd : colOpenDie (dropMsg s idx) m b = some d) : colUnready s m b ready = !ready d m b := by
  rw [colUnready, show colOpenDie s m b = some d from hd]

theorem colSettle_waits (h : ColBack s idx typ m b) (hd : colOpenDie (dropMsg s idx) m b = some d) (hr : ready d m b = false) :
    colSettle s idx typ ready act = s := by
  rw [colSettle_back h, colUnready_of_die hd, hr, Bool.not_false, if_pos rfl]

theorem colSettle_acts (h : ColAnswers s idx typ d m b) (hr : ready d m b = true) :
    colSettle s idx typ ready act = act (colTakenBack s idx d m) d m b := by
  rw [colSettle_back h.toColBack, colUnready_of_die h.die, hr, Bool.not_true, if_neg Bool.false_ne_true, h.die]

end Settle

theorem colLive_iff {x : ColSlot} : colLive x = true ↔ x.phase ≠ 0 ∧ x.phase ≠ 4 := by
  rw [colLive, Bool.and_eq_true, bne_iff_ne, bne_iff_ne]

/-- A round whose request of type typ has been answered with a code (R325). -/
def colAcked (s : State) (d k typ rank code : Nat) : State :=
  let x := getColSlot s d k
  if typ == 9 || x.phase == 0 || x.phase == 4 then colPump (colQuiet s d k) d
  else if code == Code.noSpace.num && (typ == 2 || typ == 7) then
    let first := ((x.retries.find? (fun e => e.1 == rank)).map (fun e => e.2.1)).getD s.odometer
    colPump (setColSlot s d k { x with retries := x.retries.filter (fun e => e.1 != rank) ++ [(rank, first, s.odometer + 1)] }) d
  else if code != 0 then colAbort s d k code 0 true
  else
    let s := if typ == 2 || typ == 7 then setColSlot s d k { x with retries := x.retries.filter (fun e => e.1 != rank) } else s
    colDrive (colPump s d) d k

theorem colAcked_ends (s : State) (d k typ rank code : Nat) :
    let x := getColSlot s d k
    let live := x.phase ≠ 0 ∧ x.phase ≠ 4
    let asks := typ = 2 ∨ typ = 7
    let forget := x.retries.filter (fun e => e.1 != rank)
    let first := ((x.retries.find? (fun e => e.1 == rank)).map (fun e => e.2.1)).getD s.odometer
    (typ = 9 ∨ ¬ live → colAcked s d k typ rank code = colPump (colQuiet s d k) d) ∧
    (typ ≠ 9 → live →
      (code = Code.noSpace.num → asks → colAcked s d k typ rank code =
        colPump (setColSlot s d k { x with retries := forget ++ [(rank, first, s.odometer + 1)] }) d) ∧
      (code ≠ 0 → code ≠ Code.noSpace.num ∨ ¬ asks → colAcked s d k typ rank code = colAbort s d k code 0 true) ∧
      (code = 0 → ¬ asks → colAcked s d k typ rank code = colDrive (colPump s d) d k) ∧
      (code = 0 → asks → colAcked s d k typ rank code = colDrive (colPump (setColSlot s d k { x with retries := forget }) d) d k)) := by
  intro x live asks forget first
  have hasks : (typ == 2 || typ == 7) = true ↔ asks := by
    simp only [asks, Bool.or_eq_true, beq_iff_eq]
  have hended : (typ == 9 || x.phase == 0 || x.phase == 4) = true ↔ typ = 9 ∨ ¬ live := by
    simp only [live, Bool.or_eq_true, beq_iff_eq, Decidable.not_and_iff_not_or_not, ne_eq, Decidable.not_not, or_assoc]
  refine ⟨fun h => if_pos (hended.2 h), fun h9 hl => ?_⟩
  have hon : colAcked s d k typ rank code = _ := if_neg fun h => (hended.1 h).elim h9 fun h => h hl
  refine ⟨fun hc ha => hon.trans (if_pos (Bool.and_eq_true_iff.2 ⟨beq_iff_eq.2 hc, hasks.2 ha⟩)), fun hc ha => hon.trans
    ((if_neg fun h => ?_).trans (if_pos (bne_iff_ne.2 hc))), fun hc ha => ?_, fun hc ha => ?_⟩
  · obtain ⟨hn, hb⟩ := Bool.and_eq_true_iff.1 h
    exact ha.elim (fun h => h (beq_iff_eq.1 hn)) fun h => h (hasks.1 hb)
  · refine hon.trans ((if_neg ?_).trans ((if_neg ?_).trans ?_))
    · rw [hc]
      exact Bool.false_ne_true
    · rw [hc]
      decide
    · rw [if_neg fun h => ha (hasks.1 h)]
  · refine hon.trans ((if_neg ?_).trans ((if_neg ?_).trans ?_))
    · rw [hc]
      exact Bool.false_ne_true
    · rw [hc]
      decide
    · rw [if_pos (hasks.2 ha)]

/-- Settles O50: an answer is taken by one rule, and what it means is its own command's effect on the state that took it. -/
theorem collectiveAnswers : Obligations.CollectiveAnswers := by
  unfold Obligations.CollectiveAnswers
  intro idx d k typ rank m b r a f l s s0 i x live own gone
  have hslot (k : Nat) : getColSlot s0 d k = getColSlot s d k := colTakenBack_slot ..
  have hodo : s0.odometer = s.odometer := colTakenBack_odometer ..
  have hlive : colLive x = true ↔ live := colLive_iff
  refine ⟨fun c hc h hn => ?_, fun h hd hr => congrArg Host.Outcome.next (colSettle_waits h hd hr), fun h he => ?_, fun h he hr => ?_,
    fun h he hf => ?_, fun h he hf hk => ?_, fun h hroom => ?_, fun h hroom => ?_, fun h hf => ?_, fun h hf hk => ?_⟩
  · simp only [List.mem_cons, List.not_mem_nil, or_false] at hc
    rcases hc with rfl | rfl | rfl
    · exact congrArg Host.Outcome.next (colSettle_unawaited h hn)
    · exact congrArg Host.Outcome.next (colSettle_unawaited h hn)
    · exact congrArg Host.Outcome.next (colSettle_unawaited h hn)
  · exact (congrArg Host.Outcome.next (colSettle_acts h rfl)).trans (congrArg Host.Outcome.next (if_pos (beq_iff_eq.2 he)))
  · intro s2 asks forget first
    have hslot2 : getColSlot s2 d k = x := (getColSlot_setCol (settleOut s0 m.req).1 d k _ (congrArg (·.slots) (getCol_settleOut ..)).symm).trans
      ((getColSlot_settleOut ..).trans (hslot k))
    have hodo2 : s2.odometer = s.odometer := (settleOut_odometer s0 m.req).trans hodo
    obtain ⟨rank', hrank, hexec⟩ : ∃ rank', (asks → rank' = rank) ∧ exec (.colAck idx) s = .next (colAcked s2 d k typ rank' m.code) := by
      have hacts : exec (.colAck idx) s = _ := (congrArg Host.Outcome.next (colSettle_acts h rfl)).trans
        (congrArg Host.Outcome.next (if_neg fun h => he (beq_iff_eq.1 h)))
      dsimp only at hacts
      rcases hr with ⟨hf, hk, ht⟩ | ⟨hf, hopen, hk, ht, hrk⟩
      · rw [show (getCol (colTakenBack s idx d m) d).store.find? (fun r => r.req == m.req && r.slot != 16) = some r from hf] at hacts
        have h4 (rank' : Nat) (ha : asks) : rank' = rank :=
          ha.elim (fun ha => absurd (ht.symm.trans ha) (by decide)) fun ha => absurd (ht.symm.trans ha) (by decide)
        subst hk ht
        cases hask : (getCol (colTakenBack s idx d m) d).open_.find? (fun r => r.req == m.req) with
        | none =>
          rw [hask] at hacts
          exact ⟨0, h4 0, hacts⟩
        | some q =>
          rw [hask] at hacts
          exact ⟨q.rank, h4 q.rank, hacts⟩
      · rw [show (getCol (colTakenBack s idx d m) d).store.find? (fun r => r.req == m.req && r.slot != 16) = none from hf,
          show (getCol (colTakenBack s idx d m) d).open_.find? (fun r => r.req == m.req) = some a from hopen] at hacts
        refine ⟨a.rank, fun _ => hrk.symm, hacts.trans ?_⟩
        rw [hk, ht]
        rfl
    obtain ⟨hend, hon⟩ := colAcked_ends s2 d k typ rank' m.code
    rw [hslot2, hodo2] at hon
    rw [hslot2] at hend
    refine ⟨fun h => hexec.trans (congrArg Host.Outcome.next (hend h)), fun h9 hl => ?_⟩
    obtain ⟨hagain, habort, hdone, hforget⟩ := hon h9 hl
    refine ⟨fun hc ha => ?_, fun hc ha => hexec.trans (congrArg Host.Outcome.next (habort hc ha)),
      fun hc ha => hexec.trans (congrArg Host.Outcome.next (hdone hc ha)), fun hc ha => ?_⟩
    · refine hexec.trans (congrArg Host.Outcome.next ?_)
      rw [hagain hc ha, hrank ha]
    · refine hexec.trans (congrArg Host.Outcome.next ?_)
      rw [hforget hc ha, hrank ha]
  · have hexec : exec (.colNak idx) s = _ := (congrArg Host.Outcome.next (colSettle_acts h rfl)).trans
      (congrArg Host.Outcome.next (if_pos (beq_iff_eq.2 he)))
    rw [show (getCol (colTakenBack s idx d m) d).store.find? (servesGet m b) = some r from hf] at hexec
    exact ⟨fun h3 => hexec.trans (congrArg Host.Outcome.next (if_pos h3)),
      fun h3 => hexec.trans (congrArg Host.Outcome.next (if_neg (Nat.not_le.2 h3)))⟩
  · intro s1
    have hexec : exec (.colNak idx) s = .next (if x.phase == 0 || x.phase == 4 then colPump (colQuiet (setCol s1 d gone) d k) d
        else if 3 ≤ r.fails then colAbort (setCol s1 d gone) d k Code.checkFailed.num 0 true
        else colPump (colQueue (modColSlot (setCol s1 d
          { i with store := i.store.map (fun q => if own q then { q with fails := q.fails + 1 } else q) }) d k
          (fun x => { x with resent := x.resent + 1 })) d k 1 { r.msg with req := r.req }) d) := by
      have hacts : exec (.colNak idx) s = _ := (congrArg Host.Outcome.next (colSettle_acts h rfl)).trans
        (congrArg Host.Outcome.next (if_neg fun h => he (beq_iff_eq.1 h)))
      dsimp only at hacts
      rw [show (getCol (colTakenBack s idx d m) d).store.find? (fun r => r.req == m.req && r.slot != 16) = some r from hf] at hacts
      dsimp only at hacts
      rw [getColSlot_settleOut, colTakenBack_slot] at hacts
      rw [hacts]
      subst hk
      rfl
    have hended : (x.phase == 0 || x.phase == 4) = true ↔ ¬ live := by
      simp only [live, Bool.or_eq_true, beq_iff_eq, Decidable.not_and_iff_not_or_not, ne_eq, Decidable.not_not]
    exact ⟨fun hl => hexec.trans (congrArg Host.Outcome.next (if_pos (hended.2 hl))),
      fun hl h3 => hexec.trans (congrArg Host.Outcome.next ((if_neg fun h => hended.1 h hl).trans (if_pos h3))),
      fun hl h3 => hexec.trans (congrArg Host.Outcome.next ((if_neg fun h => hended.1 h hl).trans (if_neg (Nat.not_le.2 h3))))⟩
  · have hfull : (match s.net[idx]? with | some m => decide (4096 ≤ (getCol s m.dstDie).store.length) | none => false) = true := by
      rw [h.here]
      dsimp only
      rw [h.die]
      exact decide_eq_true hroom
    refine congrArg Host.Outcome.next (if_pos ?_)
    exact hfull
  · have hexec : exec (.colGetReq idx) s = .next (getServed (dropMsg s idx) d m b) :=
      (exec_colGetReq h.toColComes hroom).trans (congrArg Host.Outcome.next (colChecked_acts h (h.typ ▸ h.serves)))
    intro u v q
    refine ⟨fun hv => hexec.trans (congrArg Host.Outcome.next ?_), fun hv => hexec.trans (congrArg Host.Outcome.next ?_)⟩
    · rw [getServed, show readRangeAt (dropMsg s idx) d (ctxPart (dropMsg s idx) b.ctx) (nth b.ext 0) (min 512 (nth b.ext 1)) = .error f from hv]
    · rw [getServed, show readRangeAt (dropMsg s idx) d (ctxPart (dropMsg s idx) b.ctx) (nth b.ext 0) (min 512 (nth b.ext 1)) = .ok l from hv]
  · refine (congrArg Host.Outcome.next (colSettle_acts h (h.serves h.typ))).trans (congrArg Host.Outcome.next ?_)
    dsimp only
    rw [show (getCol (colTakenBack s idx d m) d).open_.find? (fun r => r.req == m.req) = none from hf]
  · intro ends n bad v s3
    have hacts : exec (.colGetData idx) s = _ := congrArg Host.Outcome.next (colSettle_acts h (h.serves h.typ))
    dsimp only at hacts
    rw [show (getCol (colTakenBack s idx d m) d).open_.find? (fun r => r.req == m.req) = some a from hf] at hacts
    dsimp only at hacts
    rw [colTakenBack_slot] at hacts
    subst hk
    have hdead (hl : ¬ live) : colLive (getColSlot s d a.slot) = false := Bool.eq_false_iff.2 fun h => hl (hlive.1 h)
    have hlv (hl : live) : colLive (getColSlot s d a.slot) = true := hlive.2 hl
    refine ⟨fun hl hc => hacts.trans ?_, fun hl hc => hacts.trans ?_, fun hl hc hn => hacts.trans ?_, fun hl hc hn => hacts.trans ?_,
      fun hl hc hv => hacts.trans ?_, fun hl hc hv => hacts.trans ?_⟩
    · rw [hdead hl, hc, bne_self_eq_false, Bool.and_false, if_neg Bool.false_ne_true, Bool.not_false, if_pos rfl]
    · rw [hdead hl, bne_iff_ne.2 hc, if_pos (by rfl)]
    · rw [hlv hl, Bool.not_true, Bool.false_and, if_neg Bool.false_ne_true, if_neg Bool.false_ne_true, if_pos (bne_iff_ne.2 hc)]
      exact congrArg Host.Outcome.next (if_neg (Nat.not_le.2 hn))
    · rw [hlv hl, Bool.not_true, Bool.false_and, if_neg Bool.false_ne_true, if_neg Bool.false_ne_true, if_pos (bne_iff_ne.2 hc)]
      exact congrArg Host.Outcome.next (if_pos hn)
    · rw [hlv hl, hc, bne_self_eq_false, Bool.not_true, Bool.false_and, if_neg Bool.false_ne_true, if_neg Bool.false_ne_true,
        if_neg Bool.false_ne_true]
      refine congrArg Host.Outcome.next ?_
      split
      · rename_i u f' heq
        obtain rfl : v.1 = u := congrArg Prod.fst heq
        cases (congrArg Prod.snd heq).symm.trans hv
        rfl
      · rename_i heq
        cases (congrArg Prod.snd heq).symm.trans hv
    · rw [hlv hl, hc, bne_self_eq_false, Bool.not_true, Bool.false_and, if_neg Bool.false_ne_true, if_neg Bool.false_ne_true,
        if_neg Bool.false_ne_true]
      refine congrArg Host.Outcome.next ?_
      split
      · rename_i heq
        cases (congrArg Prod.snd heq).symm.trans hv
      · rename_i u heq
        obtain rfl : v.1 = u := congrArg Prod.fst heq
        rfl

end Sys2Proof.Machine
end

section
/-!
PROOFS. Hangs are detected and reset; the watchdog (R378 to R382, R385, R387).
-/
namespace Sys2Proof.Machine

/-! ### What a reset's own work leaves of the hang record -/

abbrev HangSame (s t : State) : Prop := Same (·.hang) s t

theorem hang_of_traffic {s t : State} (h : Traffic s t) : HangSame s t := trafficPart h (·.hang) fun _ => rfl

section Hang
variable (s : State)

/-- What settling a core's requests leaves: the state without its traffic, the cores and the kerbside engines. -/
def sansReqs (s : State) : State := { sansTraffic s with cores := [], kerbs := [] }

theorem settleReqs_rest (core : Nat) : Same sansReqs s (settleReqs s core) := by
  unfold settleReqs
  extract_lets u
  have hu : Same sansReqs s u := by
    refine Same.foldl (fun t e _ => ?_) s
    dsimp only
    split
    · rfl
    · have hend (v : State) (r : DmReq) : Same sansReqs v (endReq v core e.1 r) := by
        unfold endReq
        exact .ite rfl rfl
      have hwrite (die part addr : Nat) (l : List Byte) : Same sansReqs t (writeLater t die part addr l) :=
        (Same.forget (view' := sansTraffic) (writeLater_traffic t die part addr l) Prod.fst fun _ => rfl).forget
          (fun v => { v with cores := [], kerbs := [] }) fun _ => rfl
      refine Same.trans ?_ (hend _ _)
      split
      · exact .ite (hwrite ..) (.refl t)
      · rfl
  exact hu

theorem settleReqs_hang (core : Nat) : HangSame s (settleReqs s core) := (settleReqs_rest s core).get (·.hang) fun _ => rfl

theorem resetEngine_hang (core eng : Nat) : HangSame s (resetEngine s core eng) := by
  unfold resetEngine
  extract_lets u
  have hu : HangSame s u := rfl
  refine hu.trans (.ite rfl (.ite rfl (.ite rfl (.ite rfl (.ite ?_ rfl)))))
  exact settleReqs_hang u core

theorem resetCore_hang (core : Nat) : HangSame s (resetCore s core) := by
  unfold resetCore absorbAnswers
  exact settleReqs_hang s core

end Hang

/-! ### A domain is in reset once its reset has started -/

theorem beginReset_inReset (s : State) (x : Domain) (code : Nat) (test : Bool) : inReset (beginReset s x code test) x = true := by
  refine List.any_eq_true.2 ⟨{ dom := x, start := s.odometer, test := test }, ?_, ?_⟩
  · exact List.mem_append_right _ (List.mem_singleton.2 rfl)
  · exact Bool.or_eq_true_iff.2 (.inl (beq_self_eq_true x))

theorem inReset_of_hang {s t : State} (h : HangSame s t) (x : Domain) : inReset t x = inReset s x := by
  have hh : t.hang = s.hang := h
  rw [inReset, hh, inReset]

section Start
variable (s : State) (code : Nat) (test : Bool)

theorem startReset_engine (c : Fin 4096) (e : Fin 6) : inReset (startReset s (.engine c e) code test) (.engine c e) = true := by
  unfold startReset
  by_cases h : inReset s (.engine c e) = true
  · rw [if_pos h, h]
  · rw [if_neg h]
    exact (inReset_of_hang (resetEngine_hang ..) _).trans (beginReset_inReset s ..)

/-- The reset of a core: it is in reset, and the polls of its die stay. -/
theorem startReset_core (c : Fin 4096) (hc : (getCore s c).ctx = none) :
    inReset (startReset s (.core c) code test) (.core c) = true ∧ (startReset s (.core c) code test).hang.polls = s.hang.polls := by
  unfold startReset
  by_cases h : inReset s (.core c) = true
  · rw [if_pos h]
    exact ⟨h, rfl⟩
  · rw [if_neg h]
    dsimp only
    rw [hc]
    dsimp only
    have hr : HangSame (beginReset s (.core c) code test) (resetCore (bump32 (beginReset s (.core c) code test) (pgCtl (dieOfCore c)) 0x04C 1) c) :=
      Same.trans (t := bump32 (beginReset s (.core c) code test) (pgCtl (dieOfCore c)) 0x04C 1) rfl (resetCore_hang ..)
    have hh : (resetCore (bump32 (beginReset s (.core c) code test) (pgCtl (dieOfCore c)) 0x04C 1) c).hang = _ := hr
    exact ⟨(inReset_of_hang hr _).trans (beginReset_inReset s ..), by rw [hh]; rfl⟩

end Start

/-! ### Polls (R379) -/

/-- The look-up in a table whose every entry has been changed by its key. -/
theorem look_map_key {α : Type} (m : SMap α) (k : Nat) (d : α) (g : Nat → α → α) :
    look (m.map (fun e => (e.1, g e.1 e.2))) k d = if k ∈ m.map (·.1) then g k (look m k d) else d := by
  induction m with
  | nil => rfl
  | cons e m ih =>
    by_cases h : e.1 = k
    · simp [look, h]
    · simp only [List.map_cons, look, if_neg h, ih, List.mem_cons, Ne.symm h, false_or]

/-- The state after a die's poll: the cores that answered miss none. -/
def polled (s : State) (d : Nat) (mute : List Nat) : State :=
  { s with
    hang := { s.hang with polls := store s.hang.polls d s.odometer },
    cores := s.cores.map (fun e => (e.1, if dieOfCore e.1 == d && !mute.contains e.1 then { e.2 with missedPolls := 0 } else e.2)) }

theorem getCore_polled (s : State) (d : Nat) (mute : List Nat) (j : Nat) : getCore (polled s d mute) j =
    if dieOfCore j == d && !mute.contains j then { getCore s j with missedPolls := 0 } else getCore s j := by
  refine (look_map_key s.cores j {} fun k x => if dieOfCore k == d && !mute.contains k then { x with missedPolls := 0 } else x).trans ?_
  by_cases h : j ∈ s.cores.map (·.1)
  · rw [if_pos h]
    rfl
  · have hd : getCore s j = {} := look_absent _ _ _ fun e he hk => h (hk ▸ List.mem_map_of_mem he)
    rw [if_neg h, hd]
    split
    · rfl
    · rfl

theorem recordFault_hang (s : State) (k kind eng code : Nat) (ctx : Option Nat) (pc detail addr : Nat) :
    HangSame s (recordFault s k kind eng code ctx pc detail addr) := by
  unfold recordFault
  extract_lets x src f u v
  have hv : HangSame u v := hang_of_traffic (raise_traffic ..)
  exact .ite rfl (hv.trans ((AtCore.traceEvent (core := 0) v ..).get (·.hang) fun _ => rfl))

theorem hangCore_idle {s : State} {core : CoreId} (hr : inReset s (.core core) = false) (hd : dieUp s (dieOfCore core) = true)
    (ht : (getCore s core).trial = none) (hs : (getCore s core).suspects = []) (hc : (getCore s core).ctx = none) :
    inReset (hangCore s core) (.core core) = true ∧ (hangCore s core).hang.polls = s.hang.polls := by
  have hcore : (Fin.ofNat 4096 core.val : Fin 4096) = core := Fin.ext (Nat.mod_eq_of_lt core.isLt)
  unfold hangCore
  dsimp only
  rw [hcore, hr, hd, Bool.not_true, Bool.or_self, if_neg Bool.false_ne_true, ht]
  dsimp only
  rw [hs, List.isEmpty_nil, Bool.not_true, Bool.false_and, if_neg Bool.false_ne_true, hc]
  dsimp only
  generalize hu : modCore (recordFault s core 3 0xF Code.timedOut.num none 0 0 0) core _ = u
  have hhang : u.hang = s.hang := by
    rw [← hu]
    exact (recordFault_hang s ..)
  have hctx : (getCore u core).ctx = none := by
    rw [← hu, getCore_modCore]
    exact (congrArg Core.ctx (recordFault_faultKeeps s core core ..).1.rest).trans hc
  obtain ⟨hin, hpolls⟩ := startReset_core u Code.timedOut.num true core hctx
  exact ⟨hin, hpolls.trans (by rw [hhang])⟩

theorem ctlAlive_up {s : State} {d : Nat} (h : ctlAlive s d = true) : dieUp s d = true := (Bool.and_eq_true_iff.1 h).1

/-! ### The watchdog (R382) -/

/-- The third window without a heartbeat has passed. -/
def thirdMissed (s : State) (k : Nat) : State :=
  { s with hang := { s.hang with
      windows := store s.hang.windows k (look s.hang.windows k 0 + msNs), misses := drop1 s.hang.misses k,
      restartAt := store s.hang.restartAt k (some s.odometer) } }

/-- The processor is restarted: counted, noticed, and the alert raised. -/
def restarted (s : State) (k : Nat) : State :=
  alertCause (queueNotice (bump32 s pgAon (0x044 + 4 * k) 1) 0 { typ := 8, odo := BitVec.ofNat 64 s.odometer, arg0 := k }) 3

theorem restarted_ends (s : State) (k : Nat) : (restarted s k).hang = s.hang ∧ (restarted s k).mgmt.alertPend.getLsbD 3 = true ∧
    regOf (restarted s k) pgAon (0x044 + 4 * k) = sat32 (regOf s pgAon (0x044 + 4 * k)) 1 := by
  unfold restarted
  generalize hn : ({ typ := 8, odo := BitVec.ofNat 64 s.odometer, arg0 := k } : Notice) = n
  have hq : Causes s (queueNotice (bump32 s pgAon (0x044 + 4 * k) 1) 0 n) := (setReg_causes ..).trans (queueNotice_causes ..)
  refine ⟨causesPart (hq.trans (alertCause_causes ..)) (·.hang) fun _ => rfl, ?_, ?_⟩
  · rw [alertCause, updateAlert_mgmt]
    simp
  · have halert (u : State) : Same regsOf u (alertCause u 3) := by
      unfold alertCause
      exact Same.trans (t := { u with mgmt := _ }) rfl (updateAlert_regs _)
    rw [regOf_of_regs (halert _), regOf_congr (queueNotice_pages ..), regOf_bump32]

/-- A heartbeat, once a tie with the third miss has been counted. -/
def heartbeatOf (s : State) (k : Fin 5) : State :=
  if !sourceUp s k then s
  else
    let waited := restarting s k
    let s : State := { s with hang := { s.hang with
      beaten := store s.hang.beaten k true, beats := store s.hang.beats k s.odometer, windows := store s.hang.windows k s.odometer,
      misses := drop1 s.hang.misses k, restartAt := drop1 s.hang.restartAt k } }
    if waited then leaveWaiting s k else s

/-- Settles O51: each command by its branches; a hung engine or core is in reset once its reset has started. -/
theorem hangsAndWatchdog : Obligations.HangsAndWatchdog := by
  unfold Obligations.HangsAndWatchdog
  refine ⟨fun core eng die silent chan c s => ⟨?_, ?_, ?_, ?_, rfl⟩, fun k s => ?_⟩
  · intro stuck
    refine ⟨fun h => ⟨_, congrArg Host.Outcome.next (if_pos h), startReset_engine .., rfl⟩, fun h hw => ?_, fun n t0 h hw => ?_⟩
    · refine (congrArg Host.Outcome.next (if_neg (ne_true_of_eq_false h))).trans ?_
      rw [hw]
    · have hexec : exec (.engineHang core eng) s = .next (if !passed s t0 msNs then s
          else if n == siteOf s core then startReset (siteFault s n) (.engine core eng) Code.timedOut.num false
          else siteEngineReset (siteFault s n) (dieOfSite n) core) := by
        refine (congrArg Host.Outcome.next (if_neg (ne_true_of_eq_false h))).trans ?_
        rw [hw]
      have hlate (hp : passed s t0 msNs = true) : ¬ (!passed s t0 msNs) = true := by
        rw [hp]
        exact Bool.false_ne_true
      refine ⟨fun hp => hexec.trans (congrArg Host.Outcome.next (if_pos (by rw [hp]; rfl))), fun hp hn => ⟨_, hexec.trans
        (congrArg Host.Outcome.next ((if_neg (hlate hp)).trans (if_pos (beq_iff_eq.2 hn)))), startReset_engine .., rfl⟩,
        fun hp hn => hexec.trans (congrArg Host.Outcome.next ((if_neg (hlate hp)).trans (if_neg fun h => hn (beq_iff_eq.1 h))))⟩
  · intro due mute s1
    have hneg (h : due) : ¬ (!ctlAlive s die || gated s (pgCtl die) || !passed s (look s.hang.polls die 0) (100 * usNs)) = true := by
      obtain ⟨ha, hg, hp⟩ := h
      rw [ha, hg, hp]
      exact Bool.false_ne_true
    have hall (silent : List CoreId) (h : due) : exec (.corePoll die silent) s = .next
        (((silent.map (fun c => c.val)).filter (fun c => dieOfCore c == die.val && !inReset s (.core (Fin.ofNat 4096 c)))).foldl
          (fun u k => if (getCore u k).missedPolls = 0 then modCore u k (fun x => { x with missedPolls := 1 })
            else hangCore (modCore u k (fun x => { x with missedPolls := 0 })) k)
          (polled s die ((silent.map (fun c => c.val)).filter
            (fun c => dieOfCore c == die.val && !inReset s (.core (Fin.ofNat 4096 c)))))) := by
      refine (congrArg Host.Outcome.next (if_neg (hneg h))).trans (congrArg Host.Outcome.next ?_)
      refine congrArg (fun f => List.foldl f (polled s die _) _) (funext fun u => funext fun k => ?_)
      by_cases hm : (getCore u k).missedPolls = 0
      · rw [if_pos hm, if_neg (by omega), hm]
      · rw [if_neg hm, if_pos (by omega)]
    refine ⟨fun h => congrArg Host.Outcome.next (if_pos ?_), hall silent, fun h hd hr => ?_⟩
    · refine Decidable.of_not_not fun hn => h ?_
      simpa [and_assoc] using hn
    · have hcore : (Fin.ofNat 4096 core.val : Fin 4096) = core := Fin.ext (Nat.mod_eq_of_lt core.isLt)
      have hone := hall [core] h
      rw [List.map_singleton, List.filter_cons_of_pos (by rw [hcore, hr, hd, beq_self_eq_true]; rfl), List.filter_nil, List.foldl_cons,
        List.foldl_nil] at hone
      have hget (j : Nat) := getCore_polled s die [core.val] j
      have hself : getCore (polled s die [core.val]) core = getCore s core := by
        rw [hget, if_neg (by simp)]
      rw [hself] at hone
      refine ⟨fun h0 => ⟨_, hone.trans (congrArg Host.Outcome.next (if_pos h0)), ?_⟩, fun h1 hctx htrial hsus =>
        ⟨_, hone.trans (congrArg Host.Outcome.next (if_neg (by omega))), ?_⟩⟩
      · dsimp only
        rw [getCore_modCore]
        refine ⟨rfl, look_store_self .., rfl, fun j hj hdj => ?_⟩
        rw [getCore_modCore_of_ne _ _ hj, hget, if_pos (by simp [hdj, hj])]
      · have hcell : getCore (modCore (polled s die [core.val]) core fun x => { x with missedPolls := 0 }) core =
            { getCore s core with missedPolls := 0 } := by
          rw [getCore_modCore, hself]
        have hup : dieUp s (dieOfCore core) = true := by
          rw [hd]
          exact ctlAlive_up h.1
        obtain ⟨hin, hpolls⟩ := hangCore_idle (s := modCore (polled s die [core.val]) core fun x => { x with missedPolls := 0 }) (core := core)
          hr hup (by rw [hcell]; exact htrial) (by rw [hcell]; exact hsus) (by rw [hcell]; exact hctx)
        refine ⟨hin, ?_⟩
        rw [hpolls]
        exact look_store_self ..
  · intro works due
    have hdue (t : Nat) : (s.ctxs.any (fun e => e.2.lists.any (fun l => l.2.armed && (look l.2.pos chan {}).stage == 2)) &&
        !look (getStack s (chan / 16)).maint (chan % 16) false && kerbUp s chan && passed s t (100 * usNs)) = true ↔ due t := by
      simp only [due, works, Bool.and_eq_true, Bool.not_eq_true']
      grind
    refine ⟨fun t ht h => ?_, fun h => ?_⟩
    · refine congrArg Host.Outcome.next ?_
      rw [ht]
      exact if_pos ((hdue t).2 h)
    · refine congrArg Host.Outcome.next ?_
      split
      · rename_i t ht
        exact if_neg fun hb => h t ht ((hdue t).1 hb)
      · rfl
  · intro x due
    have hdue : (x.state == .running && regOf s pgAon 0x058 != 0 &&
        x.cores.all (fun k => (getCore s k).parkedAt.isSome || (getCore s k).halted) &&
        passed s (x.cores.foldl (fun t k => max t (if (getCore s k).halted then (getCore s k).haltAt else (getCore s k).parkedAt.getD 0))
          (x.stallAt.getD 0)) (regOf s pgAon 0x058 * msNs)) = true ↔ due := by
      simp only [due, Bool.and_eq_true, beq_iff_eq, bne_iff_ne, List.all_eq_true, Bool.or_eq_true, and_assoc]
    exact ⟨fun h => congrArg Host.Outcome.next (if_pos (hdue.2 h)), fun h => congrArg Host.Outcome.next (if_neg fun h' => h (hdue.1 h'))⟩
  · intro h w
    refine ⟨?_, ?_, fun hlate => ?_, fun t0 hr hp => ?_⟩
    · intro tie beat s1
      have htie : (look s.hang.misses k 0 == 2 && look s.hang.windows k 0 + msNs == s.odometer) = true ↔ tie := by
        simp only [tie, Bool.and_eq_true, beq_iff_eq, h, w]
      have hs1 : s1.odometer = s.odometer ∧ s1.hang = s.hang ∧ s1.cores = s.cores ∧ s1.hbm = s.hbm := by
        simp only [s1]
        split
        · exact ⟨rfl, rfl, rfl, rfl⟩
        · exact ⟨rfl, rfl, rfl, rfl⟩
      obtain ⟨hodo, hhang, hcores, hhbm⟩ := hs1
      have hexec (hu : sourceUp s k = true) : exec (.heartbeat k) s = .next (if restarting s k then leaveWaiting (beat s1) k else beat s1) := by
        have hfirst : (if sourceUp s k && (look s.hang.misses k 0 == 2 && look s.hang.windows k 0 + msNs == s.odometer)
            then addTie s pgAon else s) = s1 := by
          rw [hu, Bool.true_and]
          by_cases ht : tie
          · rw [if_pos (htie.2 ht)]
            exact (if_pos ht).symm
          · rw [if_neg fun h => ht (htie.1 h)]
            exact (if_neg ht).symm
        have hup : sourceUp s1 k = sourceUp s k := by
          simp only [s1]
          split
          · rfl
          · rfl
        have hrest : restarting s1 k = restarting s k := by
          rw [restarting, hhang, restarting]
        show Host.Outcome.next (heartbeatOf (if sourceUp s k && (look s.hang.misses k 0 == 2 && look s.hang.windows k 0 + msNs == s.odometer)
            then addTie s pgAon else s) k) = _
        rw [hfirst, heartbeatOf, hup, hu, Bool.not_true, if_neg Bool.false_ne_true, hrest]
      refine ⟨fun hu => ?_, fun hu hr => (hexec hu).trans (congrArg Host.Outcome.next (if_pos hr)), fun hu hr =>
        ⟨_, (hexec hu).trans (congrArg Host.Outcome.next (if_neg (ne_true_of_eq_false hr))), ?_⟩⟩
      · show Host.Outcome.next (heartbeatOf (if sourceUp s k && (look s.hang.misses k 0 == 2 && look s.hang.windows k 0 + msNs == s.odometer)
            then addTie s pgAon else s) k) = _
        rw [hu, Bool.false_and, if_neg Bool.false_ne_true, heartbeatOf, hu, Bool.not_false, if_pos rfl]
      · refine ⟨rfl, (look_store_self ..).trans hodo, (look_store_self ..).trans hodo, look_drop1_self .., look_drop1_self .., ?_, hcores, hhbm⟩
        exact congrArg (·.resets) hhang
    · intro due
      have hdue : (!sourceUp s k || !look h.beaten k false || (look h.restartAt k none).isSome || decide (s.odometer ≤ w + msNs)) = true ↔ ¬ due := by
        simp only [due, Bool.or_eq_true, Bool.not_eq_true', decide_eq_true_eq, Decidable.not_and_iff_not_or_not, Bool.not_eq_true, Nat.not_lt, or_assoc,
          Option.isSome_iff_ne_none, ne_eq]
      have hon (hd : due) : exec (.watchdogMiss k) s = _ := congrArg Host.Outcome.next (if_neg fun hb => hdue.1 hb hd)
      refine ⟨fun hd => congrArg Host.Outcome.next (if_pos (hdue.2 hd)), fun hd hn => ⟨_, (hon hd).trans (congrArg Host.Outcome.next
        (if_pos (Nat.succ_lt_succ hn))), look_store_self .., look_store_self .., hd.2.2.1, rfl⟩, fun hd hn => ?_⟩
      obtain ⟨hhang, halert, hreg⟩ := restarted_ends (thirdMissed s k) k
      refine ⟨restarted (thirdMissed s k) k, (hon hd).trans (congrArg Host.Outcome.next (if_neg (Nat.not_lt.2 (Nat.succ_le_succ hn)))), ?_⟩
      dsimp only
      rw [hhang, hreg]
      exact ⟨look_drop1_self .., look_store_self .., look_store_self .., rfl, halert, rfl⟩
    · refine congrArg Host.Outcome.next ?_
      split
      · rfl
      · rename_i t ht
        exact if_pos (by rw [hlate t ht]; rfl)
    · intro s1
      have hexec : exec (.processorRestartOverrun k) s = .next (if h : k.val < 4 then startReset s1 (.die ⟨k.val, h⟩) Code.timedOut.num false
          else recordStep (hubReset s1) 8 Code.timedOut.num 0 0) := by
        refine congrArg Host.Outcome.next ?_
        rw [show look s.hang.restartAt k none = some t0 from hr]
        exact if_neg (by rw [hp]; exact Bool.false_ne_true)
      exact ⟨fun h => hexec.trans (congrArg Host.Outcome.next (dif_pos h)), fun h4 => hexec.trans (congrArg Host.Outcome.next (dif_neg (by omega)))⟩

end Sys2Proof.Machine
end

section
/-!
PROOFS. Reset requests, roadblocks, the end and the overrun of a reset (R376, R377, R383 to R387, R391).
-/
namespace Sys2Proof.Machine

/-! ### The loss of power (R402, R407) -/

/-- The state right after power was lost: what comparators, temperatures and the always-on domain keep. -/
structure Asleep (cause : Nat) (s u : State) : Prop where
  state : u.power.state = .dormant
  lastStop : u.power.lastStop = cause
  tripped : u.power.tripped = s.power.tripped
  heldWake : u.power.heldWake = s.power.heldWake
  cmps : ∀ k, getCmp u k = getCmp s k
  hot : stillHot u.power = stillHot s.power
  cores : u.cores = []
  ctxs : u.ctxs = []
  hbm : u.hbm = []
  record : u.record = s.record
  odometer : u.odometer = s.odometer
  failUnit : u.boot.failUnit = s.boot.failUnit
  busy : u.mgmt.busy = s.mgmt.busy

/-- Counting the time under a ceiling changes a counter and its own mark. -/
theorem countThrottle_keeps_power (s : State) : ∃ pages at_, countThrottle s = { s with pages := pages, power := { s.power with throttleAt := at_ } } := by
  unfold countThrottle
  split
  · exact ⟨_, _, rfl⟩
  · exact ⟨_, _, rfl⟩

theorem asleep_updateAlert {cause : Nat} {s v : State} (h : Asleep cause s v) : Asleep cause s (updateAlert v) := by
  have hbusy : (updateAlert v).mgmt.busy = v.mgmt.busy := by rw [updateAlert_mgmt]
  obtain ⟨pages, parts, mgmt, hu⟩ := updateAlert_eq v
  rw [hu] at hbusy ⊢
  exact { h with busy := hbusy.trans h.busy }

theorem enterDormant_asleep (s : State) (cause : Nat) : ∃ u, enterDormant s cause = wakeFired u ∧ Asleep cause s u := by
  obtain ⟨pages, at_, h⟩ := countThrottle_keeps_power s
  unfold enterDormant
  rw [h]
  dsimp only
  exact ⟨_, rfl, asleep_updateAlert ⟨rfl, rfl, rfl, rfl, fun k => rfl, rfl, rfl, rfl, rfl, rfl, rfl, rfl, rfl⟩⟩

theorem wakeFired_none {s : State} (h : WakesNone s) : wakeFired s = s := by
  refine if_neg fun hw => ?_
  obtain ⟨k, hk, hb⟩ := List.any_eq_true.1 hw
  obtain ⟨hf, hwake⟩ := Bool.and_eq_true_iff.1 hb
  rcases h k (List.mem_range.1 hk) with h | h
  · exact Bool.false_ne_true (h.symm.trans hf)
  · exact Bool.false_ne_true (h.symm.trans hwake)

theorem enterDormant_stays {s : State} {cause : Nat} (h : WakesNone s) : Asleep cause s (enterDormant s cause) := by
  obtain ⟨u, hu, hs⟩ := enterDormant_asleep s cause
  have hnone : WakesNone u := fun k hk => by
    rw [hs.cmps k]
    exact h k hk
  rw [hu, wakeFired_none hnone]
  exact hs

/-! ### Reset requests (R385, R391) -/

section Request
variable {s : State} {p : PartId} {die : DieId} {ok : Bool} {x : Domain} (hw : writable s p (pgCtl die) 0x040 = true)
include hw

theorem rstReq_away (hok : ok = false) : rstReq s p die ok x = reject s (pgCtl die) 0x040 .badField :=
  writeReg_refused hw (by rw [hok]; rfl)

theorem rstReq_busy (hok : ok = true) (hr : inReset s x = true) : rstReq s p die ok x = reject s (pgCtl die) 0x040 .busy :=
  writeReg_refused hw (by rw [hok, hr]; rfl)

theorem rstReq_starts (hok : ok = true) (hr : inReset s x = false) : rstReq s p die ok x = startPlain s x := by
  refine writeReg_applied hw fun e he => ?_
  rw [hok, hr] at he
  simp only [List.mem_cons, List.not_mem_nil, or_false] at he
  rcases he with rfl | rfl
  · rfl
  · rfl

end Request

/-- A reset of one domain is requested by one rule. -/
def asksReset (i : Instr) (p : PartId) (die : DieId) (ok : Bool) (x : Domain) : Prop := ∀ s, exec i s = .next (rstReq s p die ok x)

theorem asksReset_ends {i : Instr} {p : PartId} {die : DieId} {ok : Bool} {x : Domain} (h : asksReset i p die ok x) {s : State}
    (hw : writable s p (pgCtl die) 0x040 = true) :
    (ok = false → exec i s = .next (reject s (pgCtl die) 0x040 .badField)) ∧
    (ok = true → x ≠ .die die → inReset s x = true → exec i s = .next (reject s (pgCtl die) 0x040 .busy)) ∧
    (ok = true → inReset s x = false → exec i s = .next (startPlain s x)) :=
  ⟨fun hok => (h s).trans (congrArg _ (rstReq_away hw hok)), fun hok _ hr => (h s).trans (congrArg _ (rstReq_busy hw hok hr)),
    fun hok hr => (h s).trans (congrArg _ (rstReq_starts hw hok hr))⟩

theorem asksReset_core (p : PartId) (die : DieId) (target : BitVec 12) :
    asksReset (.rstReqCore p die target) p die (dieOfCore target.toNat == die.val) (.core (Fin.ofNat 4096 target.toNat)) := fun s => by
  have hn : (Fin.ofNat 4096 target.toNat : Fin 4096).val = target.toNat := Nat.mod_eq_of_lt target.isLt
  show Host.Outcome.next (rstReq s p die (dieOfCore (Fin.ofNat 4096 target.toNat : Fin 4096).val == die.val) _) = _
  rw [hn]

theorem startPlain_kerb (s : State) (k : Fin 192) :
    inReset (startPlain s (.kerb k)) (.kerb k) = true ∧ (startPlain s (.kerb k)).hbm = s.hbm := by
  have hstart (u : State) (v : Nat) : inReset (startReset u (.kerb k) v false) (.kerb k) = true ∧ (startReset u (.kerb k) v false).hbm = u.hbm := by
    unfold startReset
    by_cases h : inReset u (.kerb k) = true
    · rw [if_pos h]
      exact ⟨h, rfl⟩
    · rw [if_neg h]
      exact ⟨beginReset_inReset u .., rfl⟩
  exact hstart { s with fresh := (noCode s).2.fresh } (noCode s).1

/-! ### The end of a reset -/

theorem endReset_gone (s : State) (d : Domain) : resetOf (endReset s d) d = none := by
  refine List.find?_eq_none.2 fun r hr => ?_
  have hne := (List.mem_filter.1 hr).2
  rw [bne_iff_ne] at hne
  exact fun h => hne (beq_iff_eq.1 h)

theorem resetOf_of_hang {s t : State} (h : t.hang.resets = s.hang.resets) (d : Domain) : resetOf t d = resetOf s d := by
  rw [resetOf, h, resetOf]

section Return
variable (s : State)

/-- What a test's start leaves: the hang record and the stacks. -/
def hangAndStacks (s : State) : Hang × SMap Stack := (s.hang, s.hbmStacks)

theorem startTest_hang (n why core : Nat) : Same hangAndStacks s (startTest s n why core) := by
  unfold startTest clearTested
  extract_lets u src
  have hu : Same hangAndStacks s u :=
    Same.trans (t := modSite (dropShadowsOn s n) n fun x => { x with testing := true }) rfl (.ite rfl (.refl _))
  exact hu.trans rfl

theorem retestFirst_hang (d : Nat) : Same hangAndStacks s (retestFirst s d) := by
  refine Same.foldl (fun t n _ => ?_) s
  extract_lets x u
  have hu : Same hangAndStacks t u := .ite (.refl t) (startTest_hang ..)
  exact .ite (hu.trans rfl) hu

/-- A die has left reset: it is up again, and its stacks serve. -/
theorem unfence_ends (d : Nat) : (unfence s d).hang.resets = s.hang.resets ∧ dieUp (unfence s d) d = true ∧
    (∀ i, i < 3 → (getStack (unfence s d) (3 * d + i)).selfRefresh = false) := by
  unfold unfence
  extract_lets h0 u0 u1 u2
  have hu1 : (∀ i, i < 3 → (getStack u1 (3 * d + i)).selfRefresh = false) := fun i hi => by
    refine foldl_sets (read := fun s i => (getStack s (3 * d + i)).selfRefresh) (fun t j => ?_) (fun t j k h => ?_) (List.mem_range.2 hi) u0
    · rw [getStack_modStack]
    · by_cases hj : 3 * d + k = 3 * d + j
      · rw [hj, getStack_modStack]
      · rw [modStack, getStack_setStack_of_ne _ _ _ hj]
        exact h
  have hh1 : u1.hang = u0.hang := by
    refine Same.foldl (view := (·.hang)) (fun t i _ => ?_) u0
    rfl
  have hraise : Same hangAndStacks u1 u2 :=
    Prod.ext (causesPart (raise_causes ..) (·.hang) fun _ => rfl) (causesPart (raise_causes ..) (·.hbmStacks) fun _ => rfl)
  have hall : Same hangAndStacks u1 (replayAfterReturn (if mayTest u2 d then retestFirst u2 d else u2)) :=
    hraise.trans (Same.trans (.ite (retestFirst_hang u2 d) (.refl u2)) rfl)
  have hh : (replayAfterReturn (if mayTest u2 d then retestFirst u2 d else u2)).hang = u0.hang := (congrArg Prod.fst hall).trans hh1
  refine ⟨by rw [hh], ?_, fun i hi => ?_⟩
  · rw [dieUp, hh]
    exact (congrArg (· == 0) (look_drop1_self s.hang.dstate d 0))
  · rw [getStack, show (replayAfterReturn (if mayTest u2 d then retestFirst u2 d else u2)).hbmStacks = u1.hbmStacks from congrArg Prod.snd hall]
    exact hu1 i hi

theorem relightPort_ends (p : Nat) : (relightPort s p).hang = s.hang ∧ (getPort (relightPort s p) p).txOff = false := by
  unfold relightPort
  extract_lets u
  have hu : (getPort u p).txOff = false := by
    show (getPort (setPort s p { getPort s p with txOff := false }) p).txOff = false
    rw [getPort_setPort]
  split
  · refine ⟨rfl, ?_⟩
    show (getPort (setPort u p { getPort u p with tstate := 1, trainAt := u.odometer, retryAt := 0 }) p).txOff = false
    rw [getPort_setPort]
    exact hu
  · exact ⟨rfl, hu⟩

end Return

/-- What the end of a domain's reset does. -/
def resetDone (s : State) (d : Domain) (r : Reset) : State :=
  match d with
  | .engine _ _ => endReset s d
  | .core c => if leftBehind s d then s else coreResetDone (endReset s d) c r.test
  | .kerb _ => endReset s d
  | .port p => if passed s r.start (100 * usNs) then relightPort (endReset s d) p else s
  | .bypass e => (diePorts e).foldl relightPort (endReset s d)
  | .die e => unfence (endReset s d) e
  | .fullDie e => (diePorts e).foldl relightPort (unfence (endReset s d) e)
  | .hub => endReset s d

/-- The next step of the ladder (R383). -/
def escalated (s : State) (d : Domain) (r : Reset) : State :=
  match d with
  | .engine c _ => startReset s (.core c) Code.timedOut.num false
  | .core c => coreOverrun s c r
  | .kerb k => startReset s (.die (Fin.ofNat 4 (dieOfChan k))) Code.timedOut.num false
  | .port p => startReset s (.bypass (Fin.ofNat 4 (dieOfPort p))) Code.timedOut.num false
  | .bypass e => startReset s (.fullDie e) Code.timedOut.num false
  | .die e => dieLost s e
  | .fullDie e => dieLost s e
  | .hub => enterDormant (modRecord s (fun x => { x with replace := true })) 4

theorem hubLost {s : State} {r : Reset} :
    enterDormant (modRecord s fun x => { x with replace := true }) 4 = escalated s .hub r := (rfl)

/-- Settles O52: requests by one rule, the end and the overrun by the domain of the reset. -/
theorem resets : Obligations.Resets := by
  unfold Obligations.Resets
  refine ⟨fun p die target s hw => ?_, fun d s hn => ?_, fun d r s hr => ?_, fun d r s hr => ?_⟩
  · intro n
    refine ⟨fun q hq => ?_, fun hn hd hr => ?_⟩
    · simp only [List.mem_cons, List.not_mem_nil, or_false] at hq
      rcases hq with rfl | rfl | rfl | rfl | rfl
      · exact asksReset_ends (asksReset_core p die target) hw
      · exact asksReset_ends (fun s => rfl) hw
      · exact asksReset_ends (fun s => rfl) hw
      · exact asksReset_ends (fun s => rfl) hw
      · exact asksReset_ends (fun s => rfl) hw
    · obtain ⟨hin, hhbm⟩ := startPlain_kerb s (Fin.ofNat 192 n)
      refine ⟨_, congrArg Host.Outcome.next (rstReq_starts hw ?_ hr), hin, hhbm⟩
      rw [show target.toNat = n from rfl, decide_eq_true hn, hd, beq_self_eq_true]
      rfl
  · have hn' : s.hang.resets.find? (fun r => r.dom == d) = none := hn
    refine ⟨congrArg Host.Outcome.next ?_, congrArg Host.Outcome.next ?_, congrArg Host.Outcome.next ?_⟩
    · rw [hn']
    · rw [hn]
    · rw [hn]
  · refine ⟨fun hh hp => ?_, fun h => ?_, ?_⟩
    · refine congrArg Host.Outcome.next ?_
      rw [show s.hang.resets.find? (fun r => r.dom == d) = some r from hr]
      exact if_neg (by rw [hh, hp]; exact Bool.false_ne_true)
    · refine congrArg Host.Outcome.next ?_
      rw [show s.hang.resets.find? (fun r => r.dom == d) = some r from hr]
      refine if_pos (Bool.or_eq_true_iff.2 (h.imp_right fun h => ?_))
      rw [h]
      rfl
    · intro s1 done
      have hs1 : countTie s d r = s1 := by
        unfold countTie
        by_cases ht : r.start + domBudget d = s.odometer
        · rw [if_pos (beq_iff_eq.2 ht)]
          exact (if_pos ht).symm
        · rw [if_neg fun h => ht (beq_iff_eq.1 h)]
          exact (if_neg ht).symm
      have hends {t : State} (h : resetDone (if d == .hub then s else countTie s d r) d r = t) : exec (.resetComplete d) s = .next t := by
        refine congrArg Host.Outcome.next ?_
        rw [hr]
        exact h
      have hdom (hd : d ≠ .hub) {t : State} (h : resetDone s1 d r = t) : exec (.resetComplete d) s = .next t :=
        hends (by rw [if_neg fun h => hd (beq_iff_eq.1 h), hs1]; exact h)
      have hsame : s1.hide = s.hide ∧ s1.odometer = s.odometer ∧ leftBehind s1 d = leftBehind s d ∧ (∀ c, siteOf s1 c = siteOf s c) := by
        rw [← hs1]
        unfold countTie
        split
        · exact ⟨rfl, rfl, rfl, fun c => rfl⟩
        · exact ⟨rfl, rfl, rfl, fun c => rfl⟩
      obtain ⟨hhide, hodo, hleft, hsite⟩ := hsame
      refine ⟨fun c e hd => ⟨done, ?_, rfl, endReset_gone ..⟩, fun k hd => ⟨done, ?_, rfl, endReset_gone ..⟩,
        fun hd => ⟨endReset s d, ?_, rfl, endReset_gone ..⟩, fun c hd => ⟨fun hl => ?_, fun hl ht => ⟨done, ?_, rfl, endReset_gone ..⟩,
        fun hl ht hdr => ?_⟩, fun q hd => ⟨fun hp => ⟨_, ?_, rfl, (relightPort_ends done q).2, ?_⟩, fun hp => ?_⟩, fun e hd => ?_,
        fun e hd => ⟨_, ?_, rfl, ?_, (unfence_ends done e).2.1, (unfence_ends done e).2.2⟩, fun e hd => ?_⟩
      · subst hd
        exact hdom nofun rfl
      · subst hd
        exact hdom nofun rfl
      · subst hd
        exact hends rfl
      · subst hd
        exact hdom nofun (if_pos (hleft.trans hl))
      · subst hd
        refine hdom nofun ((if_neg (ne_true_of_eq_false (hleft.trans hl))).trans (if_neg fun h => ?_))
        obtain ⟨h1, h2⟩ := Bool.and_eq_true_iff.1 h
        rcases ht with ht | ht
        · exact Bool.false_ne_true (ht.symm.trans h1)
        · rw [show (endReset s1 (.core c)).hide = s.hide from hhide, ht] at h2
          exact Bool.false_ne_true h2
      · subst hd
        refine hdom nofun ((if_neg (ne_true_of_eq_false (hleft.trans hl))).trans ?_)
        rw [coreResetDone, ht, show (endReset s1 (.core c)).hide = s.hide from hhide, hdr, if_pos (by rfl),
          show siteOf (endReset s1 (.core c)) c = siteOf s c from hsite c]
      · subst hd
        exact hdom nofun (if_pos (by rw [passed, hodo]; exact hp))
      · exact (resetOf_of_hang (congrArg (·.resets) (relightPort_ends done q).1) d).trans (endReset_gone ..)
      · subst hd
        have hbudget : 100 * usNs ≤ domBudget (.port q) := by
          show 100 * usNs ≤ 200 * usNs
          decide
        have hnot : ¬ r.start + domBudget (.port q) = s.odometer := fun h =>
          Bool.false_ne_true (hp.symm.trans (passed_iff.2 (Nat.le_trans (Nat.add_le_add_left hbudget _) (Nat.le_of_eq h))))
        have hsame : s1 = s := if_neg hnot
        refine hdom nofun ((if_neg ?_).trans hsame)
        rw [hsame]
        exact ne_true_of_eq_false hp
      · subst hd
        exact hdom nofun rfl
      · subst hd
        exact hdom nofun rfl
      · exact (resetOf_of_hang (unfence_ends done e).1 d).trans (endReset_gone ..)
      · subst hd
        exact hdom nofun rfl
  · refine ⟨fun h => ?_, fun ho hl => ?_⟩
    · refine congrArg Host.Outcome.next ?_
      rw [hr]
      exact if_pos (Bool.or_eq_true_iff.2 (h.imp_left decide_eq_true))
    · intro s1 code
      have hends {t : State} (h : escalated s1 d r = t) : exec (.resetOverrun d) s = .next t := by
        refine congrArg Host.Outcome.next ?_
        rw [hr]
        refine (if_neg ?_).trans h
        rw [hl, Bool.or_false, decide_eq_true_iff]
        exact Nat.not_le.2 ho
      refine ⟨fun c e hd => ?_, fun c hd => ?_, fun k hd => ?_, fun q hd => ?_, fun e hd => ?_, fun e hd => ?_, fun hd => ?_, fun hd hw => ?_⟩
      · subst hd
        exact hends rfl
      · subst hd
        exact hends rfl
      · subst hd
        exact hends rfl
      · subst hd
        exact hends rfl
      · subst hd
        exact hends rfl
      · rcases hd with hd | hd
        · subst hd
          exact hends rfl
        · subst hd
          exact hends rfl
      · subst hd
        exact hends rfl
      · have hsleep : Asleep 4 (modRecord s1 fun x => { x with replace := true }) (enterDormant (modRecord s1 fun x => { x with replace := true }) 4) :=
          enterDormant_stays fun k hk => hw k hk
        subst hd
        exact ⟨_, hends hubLost.symm, hsleep.state, congrArg (·.replace) hsleep.record, hsleep.cores, hsleep.ctxs, hsleep.lastStop⟩

end Sys2Proof.Machine
end

section
/-!
PROOFS. Known-answer tests, moves to a stand-in, and the fault counts of a site (R361, R364 to R366, R435, R436).
-/
namespace Sys2Proof.Machine

section KnownAnswerTests
variable (s : State)

/-! ### What a test leaves of its site -/

/-- What the record and the end of a test leave of the state: the sites, the tests, the failures noted and the time. -/
def siteNotes (s : State) : SMap Site × Hide × Boot × Nat := (s.sites, s.hide, s.boot, s.odometer)

theorem siteNotes_of_causes {s t : State} (h : Causes s t) : Same siteNotes s t := causesPart h siteNotes fun _ => rfl

theorem getSite_modSite (n : Nat) (f : Site → Site) : getSite (modSite s n f) n = f (getSite s n) :=
  look_store_self ..

theorem getSite_modSite_of_ne (n j : Nat) (f : Site → Site) (h : j ≠ n) : getSite (modSite s n f) j = getSite s j :=
  look_store_of_ne _ _ _ h

theorem getSite_of_notes {s t : State} (h : Same siteNotes s t) (n : Nat) : getSite t n = getSite s n :=
  congrArg (fun v : SMap Site × Hide × Boot × Nat => look v.1 n (planSite n)) h

theorem clearTested_notes (n core : Nat) (slice : Bool) : Same siteNotes s (clearTested s n core slice) := .ite rfl (.refl _)

theorem sliceTie_notes (x : Test) (ns : Nat) : Same siteNotes s (sliceTie s x ns) := .ite rfl (.refl _)

/-- What a site keeps while its counters change. -/
def siteMark (x : Site) : Bool × Nat × Nat := (x.testing, x.kat, x.role)

/-- The slice's counters leave all but the site's own registers, and of the site what `siteMark` says. -/
theorem noteSlice_counts (x : Test) (r : KatResult) : ∃ u f, Same siteNotes s u ∧ (∀ y, siteMark (f y) = siteMark y) ∧
    (noteSlice s x r = u ∨ noteSlice s x r = modSite u x.site f) := by
  have hfresh : Same siteNotes s (freshNat s).2 := rfl
  unfold noteSlice
  generalize freshNat s = q at hfresh
  obtain ⟨g, v⟩ := q
  extract_lets site code part
  dsimp only
  generalize hu : (if r == .pass then sliceTie v x (sliceNs v x g) else v) = u
  have hsame : Same siteNotes s u := hfresh.trans (hu ▸ .ite (sliceTie_notes ..) (.refl _))
  by_cases hr : r == .progFail
  · exact ⟨u, id, hsame, fun _ => rfl, .inl (if_pos hr)⟩
  · refine ⟨u, _, hsame, fun y => ?_, .inr (if_neg hr)⟩
    split <;> rfl

/-- The slice's counters change neither the test's mark nor the last pass nor the role of a site, and no other record. -/
theorem noteSlice_site (x : Test) (r : KatResult) :
    (∀ n, siteMark (getSite (noteSlice s x r) n) = siteMark (getSite s n)) ∧
    ((noteSlice s x r).hide, (noteSlice s x r).boot, (noteSlice s x r).odometer) = (s.hide, s.boot, s.odometer) := by
  obtain ⟨u, f, hu, hf, heq⟩ := noteSlice_counts s x r
  have hrest : (u.hide, u.boot, u.odometer) = (s.hide, s.boot, s.odometer) := congrArg Prod.snd hu
  obtain heq | heq := heq
  · rw [heq]
    exact ⟨fun n => by rw [getSite_of_notes hu], hrest⟩
  · rw [heq]
    refine ⟨fun n => ?_, hrest⟩
    rw [← getSite_of_notes hu n]
    by_cases hn : n = x.site
    · rw [hn, getSite_modSite, hf]
    · rw [getSite_modSite_of_ne _ _ _ _ hn]

/-- The state once the test of a site is over, before its slice is noted. -/
def testOver (s : State) (n : Nat) (r : KatResult) : State :=
  modSite { s with hide := { s.hide with tests := s.hide.tests.filter (fun q => q.site != n) } } n
    (fun y => { y with testing := false, kat := if r = .pass then s.odometer else y.kat })

/-- The state once the test of a site is over and its slice noted, before its outcome. -/
def testClosed (s : State) (n : Nat) (x : Test) (r : KatResult) : State :=
  clearTested (noteSlice (testOver s n r) x r) n (getSite (noteSlice (testOver s n r) x r) n).logical false

theorem testNoted_eq (n : Nat) (x : Test) (r : KatResult) :
    testNoted s n x r = if r = .pass then testClosed s n x r else noteKatFail (testClosed s n x r) n := rfl

/-- A test that is over has left its site, which holds the time of its last pass and its role, and is gone itself. -/
theorem testClosed_site (n : Nat) (x : Test) (r : KatResult) :
    siteMark (getSite (testClosed s n x r) n) = (false, if r = .pass then s.odometer else (getSite s n).kat, (getSite s n).role) ∧
      ((testClosed s n x r).hide, (testClosed s n x r).boot, (testClosed s n x r).odometer) =
        ({ s.hide with tests := s.hide.tests.filter (fun q => q.site != n) }, s.boot, s.odometer) := by
  obtain ⟨hslice, hnoted⟩ := noteSlice_site (testOver s n r) x r
  have hclear : Same siteNotes (noteSlice (testOver s n r) x r) (testClosed s n x r) := clearTested_notes ..
  refine ⟨?_, (congrArg Prod.snd hclear).trans hnoted⟩
  rw [getSite_of_notes hclear, hslice, testOver, getSite_modSite]
  rfl

/-- What is noted of a failed test: the site, its last pass and the time. -/
theorem noteKatFail_notes (n : Nat) :
    Same siteNotes { s with hide := { s.hide with katFailed := s.hide.katFailed ++ [(n, siteKat s n, s.odometer)] } } (noteKatFail s n) :=
  siteNotes_of_causes (Same.trans (setReg_causes ..) (raise_causes ..))

/-! ### The four commands -/

theorem exec_katStart (die : DieId) : exec (.katStart die) s = .next
    (if !mayTest s die || !passed s (look s.hide.lastStart die 0) (16 * 1000 * msNs) then s
    else match nextInRotation s die with
      | none => s
      | some n =>
        match rotationStart s n with
        | none => s
        | some t => { t with hide := { t.hide with
            rotation := store t.hide.rotation die (siteIndex n + 1), first := store t.hide.first die ((look t.hide.first die []).filter (fun k => k != n)),
            lastStart := store t.hide.lastStart die s.odometer } }) := rfl

/-- A rotation test starts on the next site when the die may test and 16 s have passed. -/
theorem katStart_settles (die : DieId) (due : Prop)
    (hdue : due = (mayTest s die = true ∧ passed s (look s.hide.lastStart die 0) (16 * 1000 * msNs) = true)) :
    (¬ due ∨ nextInRotation s die = none → exec (.katStart die) s = .next s) ∧
     (∀ n, nextInRotation s die = some n → rotationStart s n = none → exec (.katStart die) s = .next s) ∧
     (∀ n t, due → nextInRotation s die = some n → rotationStart s n = some t →
       exec (.katStart die) s = .next { t with hide := { t.hide with
         rotation := store t.hide.rotation die (siteIndex n + 1), first := store t.hide.first die ((look t.hide.first die []).filter (fun k => k != n)),
         lastStart := store t.hide.lastStart die s.odometer } }) := by
  rw [exec_katStart]
  generalize hG : (!mayTest s die || !passed s (look s.hide.lastStart die 0) (16 * 1000 * msNs)) = G
  have hG : due ↔ G = false := by rw [hdue, ← hG]; simp
  refine ⟨fun h => ?_, fun n hn hstart => ?_, fun n t h hn hstart => ?_⟩
  · cases G with
    | true => rfl
    | false => rw [h.resolve_left fun hnot => hnot (hG.mpr rfl)]; rfl
  · rw [hn]
    dsimp only
    rw [hstart]
    exact congrArg _ (ite_self s)
  · rw [hG.mp h, hn]
    dsimp only
    rw [hstart]
    rfl

theorem exec_katForced (core : CoreId) : exec (.katForced core) s = .next
    (if !mayTest s (dieOfCore core) || (getSite s (siteOf s core)).testing || (getSite s (siteOf s core)).role != 1 ||
        !passed s (siteKat s (siteOf s core)) (23 * hourNs / 4) || !mayTestSite s (siteOf s core) || (getSite s (siteOf s core)).failed ||
        (getPage s (pgCore core)).moving then s
    else match (getCore s core).ctx with
      | none => startTest s (siteOf s core) 0 core
      | some c =>
        if (getCtx s c).state == .running then
          beginSave s c { kind := 2, tag := 0, start := 0, after := 4, haltCore := core }
        else s) := rfl

/-- A forced test starts at once without a context, and by a save of a context that runs. -/
theorem katForced_settles (core : CoreId) (due : Prop)
    (hdue : due = (mayTest s (dieOfCore core) = true ∧ (getSite s (siteOf s core)).testing = false ∧
      (getSite s (siteOf s core)).role = 1 ∧ passed s (siteKat s (siteOf s core)) (23 * hourNs / 4) = true ∧
      mayTestSite s (siteOf s core) = true ∧ (getSite s (siteOf s core)).failed = false ∧ (getPage s (pgCore core)).moving = false)) :
    (¬ due → exec (.katForced core) s = .next s) ∧
     (due → (getCore s core).ctx = none → exec (.katForced core) s = .next (startTest s (siteOf s core) 0 core)) ∧
     (∀ c, due → (getCore s core).ctx = some c →
       ((getCtx s c).state = .running →
         exec (.katForced core) s = .next (beginSave s c { kind := 2, tag := 0, start := 0, after := 4, haltCore := core })) ∧
       ((getCtx s c).state ≠ .running → exec (.katForced core) s = .next s)) := by
  rw [exec_katForced]
  generalize hG : (!mayTest s (dieOfCore core) || (getSite s (siteOf s core)).testing || (getSite s (siteOf s core)).role != 1 ||
        !passed s (siteKat s (siteOf s core)) (23 * hourNs / 4) || !mayTestSite s (siteOf s core) || (getSite s (siteOf s core)).failed ||
        (getPage s (pgCore core)).moving) = G
  have hG : due ↔ G = false := by rw [hdue, ← hG]; simp [and_assoc]
  refine ⟨fun h => ?_, fun h hctx => ?_, fun c h hctx => ⟨fun hrun => ?_, fun hrun => ?_⟩⟩
  · rw [(Bool.not_eq_false _).mp fun hf => h (hG.mpr hf)]
    rfl
  · rw [hG.mp h, hctx]
    rfl
  · rw [hG.mp h, hctx]
    exact congrArg _ (if_pos (beq_iff_eq.mpr hrun))
  · rw [hG.mp h, hctx]
    exact congrArg _ (if_neg fun hr => hrun (beq_iff_eq.mp hr))

/-- The state once a move's record and signpost have arrived, MOVING cleared. -/
def movedOn (s : State) (core : CoreId) (m : Move) : State :=
  modPage { (getCore s core).ctx.elim s (fun c => moveRecord s core c) with
    signpost := store ((getCore s core).ctx.elim s (fun c => moveRecord s core c)).signpost core m.dst,
    hide := { ((getCore s core).ctx.elim s (fun c => moveRecord s core c)).hide with
      moves := ((getCore s core).ctx.elim s (fun c => moveRecord s core c)).hide.moves.filter (fun q => q.core != core.val) } }
    (pgCore core) (fun p => { p with moving := false })

theorem exec_standInMoveDone (core : CoreId) (m : Move) (hm : s.hide.moves.find? (fun m => m.core == core.val) = some m) :
    exec (.standInMoveDone core) s = .next
      (if !coreStopped (getCore s core) then s
      else if m.why == 0 then startTest (movedOn s core m) m.src 1 core
      else modSite (movedOn s core m) m.src (fun x => { x with standIn := false })) := by
  refine congrArg Host.Outcome.next ?_
  rw [hm]
  dsimp only
  unfold movedOn
  cases (getCore s core).ctx <;> rfl

/-- What a test's start leaves of the signposts, the pages and the moves. -/
theorem startTest_moves (n why core : Nat) :
    (startTest s n why core).signpost = s.signpost ∧ (startTest s n why core).pages = s.pages ∧
      (startTest s n why core).hide.moves = s.hide.moves := by
  unfold startTest
  extract_lets u
  have hu : Same (fun s => (s.signpost, s.pages, s.hide.moves)) s u :=
    Same.trans (t := modSite (dropShadowsOn s n) n fun x => { x with testing := true }) rfl (.ite rfl (.refl _))
  exact ⟨congrArg Prod.fst hu, congrArg (·.2.1) hu, congrArg (·.2.2) hu⟩

/-- Without a context the signpost names the site moved to, MOVING is clear and the move is gone. -/
theorem movedOn_free (core : CoreId) (m : Move) (h : (getCore s core).ctx = none) :
    siteOf (movedOn s core m) core = m.dst ∧ (getPage (movedOn s core m) (pgCore core)).moving = false ∧
      ∀ q, q ∈ (movedOn s core m).hide.moves → q.core ≠ core.val := by
  unfold movedOn
  rw [h]
  refine ⟨look_store_self .., congrArg Page.moving (getPage_setPage ..), fun q hq => ?_⟩
  simpa using (List.mem_filter.mp hq).2

theorem exec_katDone (site : BitVec 16) (r : KatResult) (x : Test) (hok : siteOk site.toNat = true)
    (hx : s.hide.tests.find? (fun x => x.site == site.toNat) = some x) : exec (.katDone site r) s = .next
      (if r == .pass && decide (x.start + 3 * msNs < s.odometer) then s
      else katOutcome (testNoted s site.toNat x r) x (r == .pass)) := by
  have hexec : exec (.katDone site r) s = .next (match s.hide.tests.find? (fun x => x.site == site.toNat) with
    | none => s
    | some t => if r == .pass && decide (t.start + 3 * msNs < s.odometer) then s
      else katOutcome (testNoted s site.toNat t r) t (r == .pass)) := by
    refine (if_neg (by rw [hok]; decide)).trans (congrArg Host.Outcome.next ?_)
    cases s.hide.tests.find? (fun x => x.site == site.toNat) with
    | none => rfl
    | some t =>
      refine ite_congr rfl (fun _ => rfl) fun _ => ?_
      unfold testNoted
      simp only [beq_iff_eq]
  rw [hexec, hx]

/-- What follows a test, by why it ran. -/
theorem katOutcome_settles (u : State) (x : Test) (r : KatResult) {runs : State → Prop}
    (h : runs (katOutcome u x (r == .pass))) (n : Nat) (hn : x.site = n) :
    (x.why = 0 → r = .pass → runs u) ∧
    (x.why = 0 → ¬ r = .pass → ((getSite u n).role = 2 → runs (makeDefective u n)) ∧ ((getSite u n).role = 1 → runs (condemn u n)) ∧
      ((getSite u n).role ≠ 1 → (getSite u n).role ≠ 2 → runs u)) ∧
    (x.why = 1 → siteOf u x.core = n → (r = .pass → runs u) ∧ (¬ r = .pass → runs (condemn u n))) ∧
    (x.why = 1 → siteOf u x.core ≠ n → (r = .pass → runs (goHome u x.core)) ∧ (¬ r = .pass → runs (keepStandIn u x.core n))) ∧
    (x.why = 2 → r = .pass → runs (resumeReplays u x.core)) ∧
    (x.why = 2 → ¬ r = .pass → ((getSite u n).role = 2 → runs (resumeReplays (returnHome (makeDefective u n) x.core) x.core)) ∧
      ((getSite u n).role ≠ 2 → runs (resumeReplays (leaveSite u x.core) x.core))) ∧
    (x.why = 3 → r = .pass → runs (resumeReplays (markSuspects u x.core) x.core)) ∧
    (x.why = 3 → ¬ r = .pass → runs (resumeReplays (modCore (leaveSite u x.core) x.core (fun y => { y with accused := [] })) x.core)) ∧
    (3 < x.why → runs (rerunAll (if r = .pass then u else substitute u x.core))) := by
  subst hn
  unfold katOutcome at h
  simp only [beq_iff_eq] at h
  refine ⟨fun hw hr => ?_, fun hw hr => ⟨fun h2 => ?_, fun h1 => ?_, fun h1 h2 => ?_⟩, fun hw ha => ⟨fun hr => ?_, fun hr => ?_⟩,
    fun hw ha => ⟨fun hr => ?_, fun hr => ?_⟩, fun hw hr => ?_, fun hw hr => ⟨fun h2 => ?_, fun h2 => ?_⟩, fun hw hr => ?_,
    fun hw hr => ?_, fun hw => ?_⟩
  · simpa [hw, hr] using h
  · simpa [hw, hr, h2] using h
  · simpa [hw, hr, h1] using h
  · simpa [hw, hr, h1, h2] using h
  · simpa [hw, ha, hr] using h
  · simpa [hw, ha, hr] using h
  · simpa [hw, ha, hr] using h
  · simpa [hw, ha, hr] using h
  · simpa [hw, hr] using h
  · simpa [hw, hr, h2] using h
  · simpa [hw, hr, h2] using h
  · simpa [hw, hr] using h
  · simpa [hw, hr] using h
  · rwa [if_neg (by omega), if_neg (by omega), if_neg (by omega), if_neg (by omega)] at h

/-- A site that becomes DEFECTIVE holds no core; what failed of its tests stays noted. -/
theorem makeDefective_few (n : Nat) (h : (recent s (look s.hide.defects (dieOfSite n) [])).length < 3) :
    (getSite (makeDefective s n) n).role = 0 ∧ (makeDefective s n).hide.katFailed = s.hide.katFailed := by
  unfold makeDefective
  extract_lets k u v d l hidden put
  have hv : Same siteNotes u v := Same.trans (t := dirtyAtlas u) rfl (siteNotes_of_causes (setReg_causes ..))
  have hl : l.length = (recent s (look s.hide.defects (dieOfSite n) [])).length + 1 := by
    rw [show l = recent v (look v.hide.defects d []) ++ [v.odometer] from rfl, List.length_append]
    unfold recent
    rw [show v.hide = u.hide from congrArg (·.2.1) hv, show v.odometer = u.odometer from congrArg (·.2.2.2) hv]
    rfl
  rw [if_neg (by omega)]
  refine ⟨?_, congrArg (·.2.1.katFailed) hv⟩
  rw [show getSite (put l) n = getSite v n from rfl, getSite_of_notes hv]
  exact congrArg Site.role (getSite_modSite ..)

/-- The state a failed test of no core leaves: its failure is noted with the site's last pass. -/
theorem testNoted_failed (n : Nat) (x : Test) (r : KatResult) (h : r ≠ .pass) : ∃ u,
    Same siteNotes u (testNoted s n x r) ∧ siteMark (getSite u n) = (false, (getSite s n).kat, (getSite s n).role) ∧
    (u.hide, u.boot, u.odometer) = ({ s.hide with
      tests := s.hide.tests.filter (fun q => q.site != n), katFailed := s.hide.katFailed ++ [(n, siteKat s n, s.odometer)] },
      s.boot, s.odometer) := by
  obtain ⟨hmark, hrest⟩ := testClosed_site s n x r
  rw [if_neg h] at hmark
  rw [testNoted_eq, if_neg h]
  generalize testClosed s n x r = v at hmark hrest
  refine ⟨_, noteKatFail_notes v n, hmark, ?_⟩
  simp only [siteMark, Prod.mk.injEq] at hmark hrest
  obtain ⟨-, hkat, hrole⟩ := hmark
  obtain ⟨hhide, hboot, hodo⟩ := hrest
  have hlast : siteKat v n = siteKat s n := by unfold siteKat; dsimp only; rw [hkat, hrole, hboot]
  dsimp only
  rw [hhide, hboot, hodo, hlast]

end KnownAnswerTests

/-! ### The obligation -/

/-- Settles O53: each command's equation, and what the test's end, the move's end and the slice's counters leave of the site. -/
theorem fieldTests : Obligations.FieldTests := by
  unfold Obligations.FieldTests
  intro die core site r s
  have hslot (x : Test) (hx : s.hide.tests.find? (fun x => x.site == site.toNat) = some x) : x.site = site.toNat := by
    simpa using List.find?_some hx
  refine ⟨katStart_settles s die _ rfl, katForced_settles s core _ rfl, fun hm => ?_, fun m hm => ⟨fun hrun => ?_, fun hstop => ?_, ?_⟩,
    fun hok hx => ?_, fun x hok hx => ⟨?_, ?_⟩, fun x hok hx hwhy hr hlate => ?_, fun x hok hx hwhy hr hrole hfew => ?_, fun hok => ?_,
    fun hok => ⟨?_, ?_⟩⟩
  · refine congrArg Host.Outcome.next ?_
    rw [hm]
  · rw [exec_standInMoveDone s core m hm, hrun]
    rfl
  · have hexec := exec_standInMoveDone s core m hm
    rw [hstop] at hexec
    exact ⟨fun hw => hexec.trans (congrArg _ (if_pos (beq_iff_eq.mpr hw))),
      fun hw => hexec.trans (congrArg _ (if_neg fun h => hw (beq_iff_eq.mp h)))⟩
  · intro hctx hstop
    have hexec := exec_standInMoveDone s core m hm
    rw [hstop] at hexec
    obtain ⟨hsite, hmoving, hmoves⟩ := movedOn_free s core m hctx
    by_cases hw : m.why = 0
    · obtain ⟨hsignpost, hpages, hleft⟩ := startTest_moves (movedOn s core m) m.src 1 core
      refine ⟨_, hexec.trans (congrArg _ (if_pos (beq_iff_eq.mpr hw))), ?_, ?_, ?_, fun _ => ?_⟩
      · rw [siteOf, hsignpost]
        exact hsite
      · rw [getPage, hpages]
        exact hmoving
      · rw [hleft]
        exact hmoves
      · refine ⟨{ site := m.src, why := 1, core := core, start := (movedOn s core m).odometer }, ?_, rfl, rfl, rfl⟩
        rw [(startTest_joins (movedOn s core m) m.src 1 core).2]
        exact List.mem_append_right _ (List.mem_singleton.mpr rfl)
    · exact ⟨_, hexec.trans (congrArg _ (if_neg fun h => hw (beq_iff_eq.mp h))), hsite, hmoving, hmoves, fun h => absurd h hw⟩
  · refine (if_neg (by rw [hok]; decide)).trans (congrArg Host.Outcome.next ?_)
    rw [hx]
  · intro hr hlate
    rw [exec_katDone s site r x hok hx]
    exact congrArg _ (if_pos (by rw [hr, decide_eq_true hlate]; rfl))
  · intro hdue
    refine katOutcome_settles (testNoted s site.toNat x r) x r (runs := fun t => exec (.katDone site r) s = .next t) ?_ _ (hslot x hx)
    rw [exec_katDone s site r x hok hx]
    refine congrArg _ (if_neg ?_)
    simpa [Decidable.imp_iff_not_or] using hdue
  · subst hr
    have hexec := exec_katDone s site .pass x hok hx
    rw [if_neg (by simpa using hlate)] at hexec
    obtain ⟨hmark, hrest⟩ := testClosed_site s site.toNat x .pass
    simp only [siteMark, Prod.mk.injEq] at hmark hrest
    obtain ⟨htesting, hkat, hrole⟩ := hmark
    rw [testNoted_eq, if_pos rfl] at hexec
    generalize testClosed s site.toNat x .pass = u at hexec htesting hkat hrole hrest
    refine ⟨u, hexec.trans ?_, htesting, hkat, hrole, fun q hq => ?_, by rw [hrest.1]⟩
    · exact congrArg Host.Outcome.next ((katOutcome_settles u x .pass (runs := fun t => katOutcome u x true = t) rfl _
        (hslot x hx)).1 hwhy rfl)
    · rw [hrest.1] at hq
      simpa using (List.mem_filter.mp hq).2
  · subst hr
    have hexec := exec_katDone s site .progFail x hok hx
    obtain ⟨u, hu, hmark, hrest⟩ := testNoted_failed s site.toNat x .progFail nofun
    simp only [siteMark, Prod.mk.injEq] at hmark hrest
    obtain ⟨-, -, hkept⟩ := hmark
    obtain ⟨hhide, hboot, hodo⟩ := hrest
    generalize testNoted s site.toNat x .progFail = v at hu hexec
    have hvhide : v.hide = u.hide := congrArg (·.2.1) hu
    have hvodo : v.odometer = u.odometer := congrArg (·.2.2.2) hu
    have hvrole : (getSite v site.toNat).role = 2 := by rw [getSite_of_notes hu, hkept, hrole]
    obtain ⟨hnone, hfailed⟩ := makeDefective_few v site.toNat (by
      unfold recent
      rw [hvodo, hodo, hvhide, hhide]
      exact hfew)
    refine ⟨makeDefective v site.toNat, hexec.trans ?_, hnone, ?_⟩
    · exact congrArg Host.Outcome.next (((katOutcome_settles v x .progFail (runs := fun t => katOutcome v x false = t) rfl _
        (hslot x hx)).2.1 hwhy nofun).1 hvrole)
    · rw [hfailed, hvhide, hhide]
  · refine ⟨_, if_pos hok, ?_, ?_, fun j hj => getSite_modSite_of_ne s site.toNat j _ hj⟩
    · exact congrArg Site.faults (getSite_modSite ..)
    · exact (congrArg Site.role (getSite_modSite ..) :)
  · exact if_neg (by rw [hok]; decide)
  · exact if_pos (by rw [hok]; rfl)

end Sys2Proof.Machine
end

section
/-!
PROOFS. Shadow votes, trials, the end of a drain, and lending (R194, R367, R368, R371, R373, R386).
-/
namespace Sys2Proof.Machine

section VotesTrialsDrains
variable (s : State)

/-! ### Shadow runs -/

/-- The nearest of some sites is one of them. -/
theorem nearest_mem {l : List Nat} {a n : Nat} (h : nearest l a = some n) : n ∈ l := by
  have hstep (l : List Nat) (b : Option Nat) (hn : l.foldl (fun (b : Option Nat) n =>
      match b with
      | none => some n
      | some m => if hops a n < hops a m || (hops a n == hops a m && n < m) then some n else some m) b = some n) : n ∈ l ∨ b = some n := by
    induction l generalizing b with
    | nil => exact .inr hn
    | cons k t ih =>
      obtain hmem | hnew := ih _ hn
      · exact .inl (List.mem_cons_of_mem _ hmem)
      · cases b with
        | none => exact .inl (Option.some.inj hnew ▸ List.mem_cons_self ..)
        | some m =>
          dsimp only at hnew
          split at hnew
          · exact .inl (Option.some.inj hnew ▸ List.mem_cons_self ..)
          · exact .inr hnew
  exact (hstep l none h).resolve_right nofun

theorem setShadow_mem {old q : ShadowRun} {l : List ShadowRun} (hold : old ∈ s.hide.shadows) (hq : q ∈ l) :
    q ∈ (setShadow s old l).hide.shadows :=
  List.mem_flatMap.mpr ⟨old, hold, by rw [if_pos (beq_self_eq_true old)]; exact hq⟩

/-- A shadow run that disagrees is counted on the atlas page and raises its cause. -/
def mismatchNoted (s : State) : State := raise (bump32 (bump64 s pgAtlas 0x074 1) pgAtlas 0x07C 1) pgAtlas 2

theorem mismatchNoted_count : regOf (mismatchNoted s) pgAtlas 0x07C = sat32 (regOf s pgAtlas 0x07C) 1 := by
  rw [mismatchNoted, regOf_of_regs (raise_regs ..), regOf_bump32, regOf_bump64_off _ _ _ (by decide) (by decide)]

theorem mismatchNoted_notes : Same siteNotes s (mismatchNoted s) :=
  siteNotes_of_causes (Same.trans (setReg64_causes ..) (Same.trans (setReg_causes ..) (raise_causes ..)))

/-- A shadow run that disagrees, with the second site that runs its pass. -/
def secondRun (s : State) (core : Nat) (crc : Word) (r : ShadowRun) : ShadowRun :=
  { r with crc1 := some crc, at_ := s.odometer,
           site2 := nearest ((shadowFree s (dieOfCore core)).filter (fun n => n != r.site1)) (siteOf s core) }

theorem secondRun_site (core : Nat) (crc : Word) (r : ShadowRun) : (secondRun s core crc r).site2 ≠ some r.site1 := by
  intro h
  unfold secondRun at h
  dsimp only at h
  have hmem := nearest_mem h
  simp at hmem

theorem exec_shadowRunDone (core : CoreId) (crc : Word) {r : ShadowRun} (h : shadowOf s core false = some r) :
    exec (.shadowRunDone core crc) s = .next
      (if crc == r.crc then setShadow (bump64 s pgAtlas 0x074 1) r []
      else setShadow (mismatchNoted s) r [secondRun (mismatchNoted s) core crc r]) := by
  refine congrArg Host.Outcome.next ?_
  rw [h]
  rfl

theorem exec_shadowVoteDone (core : CoreId) (crc : Word) {r : ShadowRun} (h : shadowOf s core true = some r) :
    exec (.shadowVoteDone core crc) s = .next
      (if r.site2.isNone && ((shadowFree s (dieOfCore core)).filter (fun n => n != r.site1)).isEmpty then s
      else if r.crc1 == some crc then placedLoses (setShadow s r []) r
      else if crc == r.crc then siteFault (setShadow s r []) r.site1
      else splitVote (setShadow s r []) r) := by
  refine congrArg Host.Outcome.next ?_
  rw [h]

/-- The vote is taken once its second site has run, or one is free. -/
theorem shadowVoteDone_settles (core : CoreId) (crc : Word) {r : ShadowRun} (h : shadowOf s core true = some r) (free : List Nat)
    (hfree : free = (shadowFree s (dieOfCore core)).filter (fun n => n != r.site1)) :
    (r.site2 = none → free = [] → exec (.shadowVoteDone core crc) s = .next s) ∧
    (r.site2 ≠ none ∨ free ≠ [] →
      (r.crc1 = some crc → exec (.shadowVoteDone core crc) s = .next (placedLoses (setShadow s r []) r)) ∧
      (r.crc1 ≠ some crc → crc = r.crc → exec (.shadowVoteDone core crc) s = .next (siteFault (setShadow s r []) r.site1)) ∧
      (r.crc1 ≠ some crc → crc ≠ r.crc → exec (.shadowVoteDone core crc) s = .next (splitVote (setShadow s r []) r))) := by
  have hexec := exec_shadowVoteDone s core crc h
  rw [← hfree] at hexec
  have hnone : (r.site2.isNone && free.isEmpty) = true ↔ r.site2 = none ∧ free = [] := by simp
  refine ⟨fun h2 hf => ?_, fun hany => ?_⟩
  · rwa [if_pos (hnone.mpr ⟨h2, hf⟩)] at hexec
  · rw [if_neg fun hw => hany.elim (· (hnone.mp hw).1) (· (hnone.mp hw).2)] at hexec
    refine ⟨fun h1 => ?_, fun h1 hcrc => ?_, fun h1 hcrc => ?_⟩
    · rwa [if_pos (beq_iff_eq.mpr h1)] at hexec
    · rwa [if_neg fun hb => h1 (beq_iff_eq.mp hb), if_pos (beq_iff_eq.mpr hcrc)] at hexec
    · rwa [if_neg fun hb => h1 (beq_iff_eq.mp hb), if_neg fun hb => hcrc (beq_iff_eq.mp hb)] at hexec

/-! ### Trials -/

theorem exec_trialPass (core : CoreId) {c t : Nat} (h : (getCore s core).trial = some (c, t)) :
    exec (.trialPass core) s = .next
      (if (getCtx s c).state == .halted || (getCtx s c).state == .free || (getCtx s c).state == .idle || (getCore s core).halted ||
          decide (t < (getCtx s c).imageAt) || ((getCtx s c).state == .running && passed s t (100 * msNs)) then
        goHome (clearMark (modCore s core (fun x => { x with trial := none })) core c) core
      else s) := by
  refine congrArg Host.Outcome.next ?_
  rw [h]

/-! ### The end of a drain -/

/-- What a context's state becomes at the end of a drain. -/
def drainedState (v : CState) : CState := if v == .faulted || v == .running || v == .saving then .idle else v

/-- The posts of a context that end with it, before its cores are freed. -/
def drainEnded (s : State) (c : Nat) : State :=
  vacate ((getCtx s c).cores.foldl settleReqs (completePreempt (completeRun s c Code.fenced.num 0) c Code.timedOut.num 0)) c

/-- Every context but one, and the record of tests, moves and drains. -/
def besides (c : Nat) (s : State) : (Nat → Option Ctx) × Hide := (fun j => if j = c then none else some (getCtx s j), s.hide)

theorem besides_of_parts {c : Nat} {s t : State} (hctx : ∀ j, j ≠ c → getCtx t j = getCtx s j) (hhide : t.hide = s.hide) :
    Same (besides c) s t := by
  refine Prod.ext (funext fun j => ?_) hhide
  by_cases h : j = c
  · exact (if_pos h).trans (if_pos h).symm
  · exact (if_neg h).trans ((congrArg some (hctx j h)).trans (if_neg h).symm)

theorem modCtx_besides (c : Nat) (f : Ctx → Ctx) : Same (besides c) s (modCtx s c f) :=
  besides_of_parts (fun _ h => getCtx_setCtx_of_ne _ _ _ h) rfl

theorem completePost_besides (c k : Nat) (r : PostRef) (code arg1 : Nat) : Same (besides c) s (completePost s k r code arg1) :=
  trafficPart (completePost_traffic s k r code arg1) (besides c) fun _ => rfl

theorem completeRun_besides (c code arg1 : Nat) : Same (besides c) s (completeRun s c code arg1) := by
  unfold completeRun
  split
  · rfl
  · exact (modCtx_besides s c _).trans (completePost_besides ..)

theorem completePreempt_besides (c code arg1 : Nat) : Same (besides c) s (completePreempt s c code arg1) := by
  unfold completePreempt
  split
  · rfl
  · exact (modCtx_besides s c _).trans (completePost_besides ..)

theorem drainEnded_besides (c : Nat) : Same (besides c) s (drainEnded s c) := by
  unfold drainEnded
  generalize hu : completePreempt (completeRun s c Code.fenced.num 0) c Code.timedOut.num 0 = u
  generalize hv : (getCtx s c).cores.foldl settleReqs u = v
  have hposts : Same (besides c) s u := hu ▸ (completeRun_besides ..).trans (completePreempt_besides ..)
  have hreqs : Same (besides c) u v :=
    hv ▸ .foldl (fun t k _ => (settleReqs_rest t k).forget (view' := besides c) (besides c) fun _ => rfl) u
  have hleft : Same (besides c) v (vacate v c) := by
    refine Same.foldl (f := vacateCore) (fun t k _ => ?_) v
    rfl
  exact hposts.trans (hreqs.trans hleft)

theorem endDrainCtx_eq (c : Nat) : endDrainCtx s c =
    if (getCtx s c).state == .faulted || (getCtx s c).state == .running || (getCtx s c).state == .saving then
      modCtx (drainEnded s c) c (fun x => { x with state := .idle, saving := none, replay := 0, hwCores := [] })
    else s := rfl

theorem drainedState_works {v : CState} (h : v = .running ∨ v = .saving ∨ v = .faulted) : drainedState v = .idle := by
  obtain rfl | rfl | rfl := h <;> rfl

theorem drainedState_stays {v : CState} (hrun : v ≠ .running) (hsave : v ≠ .saving) (hfine : v ≠ .faulted) : drainedState v = v := by
  refine if_neg ?_
  simp [hrun, hsave, hfine]

theorem endDrainCtx_hide (c : Nat) : (endDrainCtx s c).hide = s.hide := by
  rw [endDrainCtx_eq]
  split
  · exact (congrArg Prod.snd (drainEnded_besides s c) :)
  · rfl

theorem endDrainCtx_state (c : Nat) : (getCtx (endDrainCtx s c) c).state = drainedState (getCtx s c).state := by
  rw [endDrainCtx_eq, drainedState]
  split
  · exact congrArg Ctx.state (getCtx_setCtx ..)
  · rfl

theorem endDrainCtx_other {c j : Nat} (h : j ≠ c) : getCtx (endDrainCtx s c) j = getCtx s j := by
  rw [endDrainCtx_eq]
  split
  · have hkept := congrFun (congrArg Prod.fst (drainEnded_besides s c)) j
    simp only [besides, if_neg h, Option.some.injEq] at hkept
    exact (getCtx_setCtx_of_ne _ _ _ h).trans hkept
  · rfl

theorem writeDrainRecord_traffic (c : Nat) : Traffic s (writeDrainRecord s c) := by
  unfold writeDrainRecord
  refine .ite (.refl s) (foldl_fst_same trafficRest (fun t p => ?_) _ (s, none))
  exact writeWay_traffic t.1 ..

/-- The state once every context has ended and the records are written. -/
def drainWritten (s : State) : State := (List.range 256).foldl writeDrainRecord ((List.range 256).foldl endDrainCtx s)

/-- The state once a drain is complete and DRAINED is sent. -/
def drainSent (u : State) : State :=
  chipNotice { u with hide := { u.hide with drainDone := true } } { typ := 7, odo := BitVec.ofNat 64 u.odometer, arg0 := u.hide.drainPage }

/-- A context runs or saves. -/
def drainBusy (s : State) : Bool := (List.range 256).any fun c => (getCtx s c).state == .running || (getCtx s c).state == .saving

/-- The last two folds of a drain and its notice, over any list: what the model writes out. -/
theorem drainSent_foldl (l : List Nat) : (let s := l.foldl endDrainCtx s
      let s := l.foldl writeDrainRecord s
      let s := { s with hide := { s.hide with drainDone := true } }
      chipNotice s { typ := 7, odo := BitVec.ofNat 64 s.odometer, arg0 := s.hide.drainPage }) =
    drainSent (l.foldl writeDrainRecord (l.foldl endDrainCtx s)) := rfl

/-- The same as a statement writes it. -/
theorem drainSent_records (l : List Nat) : (let u := l.foldl writeDrainRecord (l.foldl endDrainCtx s)
      chipNotice { u with hide := { u.hide with drainDone := true } }
        { typ := 7, odo := BitVec.ofNat 64 u.odometer, arg0 := u.hide.drainPage }) =
    drainSent (l.foldl writeDrainRecord (l.foldl endDrainCtx s)) := rfl

theorem exec_drainComplete : exec .drainComplete s = .next
    (if !s.hide.draining || s.hide.drainDone || !s.hide.moves.isEmpty || (drainBusy s && !passed s s.hide.drainAt msNs) ||
        s.boot.phase != 6 || !drainReady s then s
    else drainSent (drainWritten s)) := by
  rw [drainWritten, ← drainSent_foldl]
  show execDrainComplete s = _
  unfold execDrainComplete
  extract_lets busy
  rw [show drainBusy s = busy from rfl]

theorem drainBusy_iff : drainBusy s = false ↔ ∀ c, c < 256 → ¬ ((getCtx s c).state = .running ∨ (getCtx s c).state = .saving) := by
  unfold drainBusy
  rw [List.any_eq_false]
  simp only [List.mem_range, Bool.or_eq_true, beq_iff_eq]

theorem drainWritten_ends : (drainWritten s).hide = s.hide ∧
    ∀ c, c < 256 → (getCtx (drainWritten s) c).state = drainedState (getCtx s c).state := by
  unfold drainWritten
  generalize hl : List.range 256 = l
  have hnodup : l.Nodup := hl ▸ List.nodup_range
  have hwritten : Traffic (l.foldl endDrainCtx s) (l.foldl writeDrainRecord (l.foldl endDrainCtx s)) :=
    .foldl (fun t c _ => writeDrainRecord_traffic t c) _
  have hended : (l.foldl endDrainCtx s).hide = s.hide := Same.foldl (view := (·.hide)) (fun t c _ => endDrainCtx_hide t c) s
  refine ⟨(trafficPart hwritten (·.hide) fun _ => rfl).trans hended, fun c hc => ?_⟩
  rw [getCtx, trafficPart hwritten (·.ctxs) fun _ => rfl, ← getCtx,
    foldl_at (f := endDrainCtx) (fun s c => (getCtx s c).state) (fun _ => ()) (fun _ _ v => drainedState v)
      endDrainCtx_state (fun s c j h => congrArg Ctx.state (endDrainCtx_other s h)) (fun _ _ => rfl) hnodup s c,
    if_pos (hl ▸ List.mem_range.mpr hc)]

theorem drainSent_ends (u : State) : (drainSent u).hide.drainDone = true ∧ (drainSent u).hide.draining = u.hide.draining ∧
    (drainSent u).ctxs = u.ctxs := by
  have hnotice := chipNotice_causes { u with hide := { u.hide with drainDone := true } }
    { typ := 7, odo := BitVec.ofNat 64 u.odometer, arg0 := u.hide.drainPage }
  have hhide : (drainSent u).hide = { u.hide with drainDone := true } := causesPart hnotice (·.hide) fun _ => rfl
  exact ⟨by rw [hhide], by rw [hhide], causesPart hnotice (·.ctxs) fun _ => rfl⟩

/-- A drain ends when it is under way, nothing moves, its records can be written, and no context works or its time has passed. -/
theorem drainComplete_settles (works : Nat → Prop) (due : Prop)
    (hworks : works = fun c => (getCtx s c).state = .running ∨ (getCtx s c).state = .saving)
    (hdue : due = (s.hide.draining = true ∧ s.hide.drainDone = false ∧ s.hide.moves = [] ∧ s.boot.phase = 6 ∧ drainReady s = true ∧
        ((∀ c, c < 256 → ¬ works c) ∨ passed s s.hide.drainAt msNs = true))) :
      (¬ due → exec .drainComplete s = .next s) ∧
      (due → Runs .drainComplete s (fun t => t.hide.drainDone = true ∧ t.hide.draining = true ∧
        (∀ c, c < 256 → works c ∨ (getCtx s c).state = .faulted → (getCtx t c).state = .idle) ∧
        (∀ c, c < 256 → ¬ works c → (getCtx s c).state ≠ .faulted → (getCtx t c).state = (getCtx s c).state)) ∧
        exec .drainComplete s = .next (drainSent (drainWritten s))) := by
  subst hworks
  have hexec := exec_drainComplete s
  have hbusy := drainBusy_iff s
  generalize drainBusy s = busy at hexec hbusy
  have hdue : due ↔ (s.hide.draining = true ∧ s.hide.drainDone = false ∧ s.hide.moves = [] ∧ s.boot.phase = 6 ∧ drainReady s = true ∧
      (busy = false ∨ passed s s.hide.drainAt msNs = true)) := by rw [hdue, hbusy]
  generalize hG : (!s.hide.draining || s.hide.drainDone || !s.hide.moves.isEmpty || (busy && !passed s s.hide.drainAt msNs) ||
    s.boot.phase != 6 || !drainReady s) = G at hexec
  have hG : due ↔ G = false := by
    rw [hdue, ← hG]
    cases busy <;> simp <;> grind
  refine ⟨fun h => ?_, fun h => ?_⟩
  · rwa [(Bool.not_eq_false _).mp fun hf => h (hG.mpr hf), if_pos rfl] at hexec
  · rw [hG.mp h, if_neg Bool.false_ne_true] at hexec
    obtain ⟨hdraining, -⟩ := hdue.mp h
    obtain ⟨hwritten, hstate⟩ := drainWritten_ends s
    generalize drainWritten s = u at hexec hwritten hstate
    obtain ⟨hdone, hstill, hctxs⟩ := drainSent_ends u
    have hends (c : Nat) (hc : c < 256) : (getCtx (drainSent u) c).state = drainedState (getCtx s c).state := by
      rw [← hstate c hc, getCtx, hctxs, getCtx]
    refine ⟨⟨_, hexec, hdone, ?_, fun c hc hworks => ?_, fun c hc hidle hfine => ?_⟩, hexec⟩
    · rw [hstill, hwritten]
      exact hdraining
    · rw [hends c hc]
      exact drainedState_works (or_assoc.mp hworks)
    · rw [hends c hc]
      exact drainedState_stays (fun h => hidle (.inl h)) (fun h => hidle (.inr h)) hfine

/-! ### Lending -/

theorem exec_grantLend (core : CoreId) {t : Nat} (h : (getCore s core).parkedAt = some t) : exec (.grantLend core) s = .next
    (if (getCore s core).lent || !parked (getCore s core) || !passed s t (2 * usNs + 1) then s
    else siteBump32 (setCore s core { getCore s core with lent := true, step := 0, istate := 3 }) core 0x418 1) := by
  show execGrantLend core s = _
  unfold execGrantLend
  refine congrArg Host.Outcome.next ?_
  split
  · rename_i heq
    cases heq.symm.trans h
    rfl
  · rename_i heq
    cases heq.symm.trans h

theorem siteReg_siteBump32 (core off n : Nat) : siteReg (siteBump32 s core off n) core off = sat32 (siteReg s core off) n := by
  have hsite : coreSite (siteBump32 s core off n) core =
      { coreSite s core with regs := store (coreSite s core).regs off (BitVec.ofNat 32 (sat32 (siteReg s core off) n)) } :=
    getSite_modSite ..
  rw [siteReg, hsite]
  dsimp only
  rw [look_store_self, BitVec.toNat_ofNat]
  exact Nat.mod_eq_of_lt (Nat.lt_of_le_of_lt (Nat.min_le_right _ _) (by decide))

end VotesTrialsDrains

/-- Settles O54: each command's equation; the mismatch's count, the contexts' fold of a drain's end, and the lent core. -/
theorem votesTrialsDrains : Obligations.VotesTrialsDrains := by
  unfold Obligations.VotesTrialsDrains
  refine ⟨fun core crc r s => ⟨fun h => ?_, fun h => ⟨fun hcrc => ?_, fun hcrc => ⟨?_, ?_⟩⟩, fun h => ?_, fun h => shadowVoteDone_settles s core crc h _ rfl⟩,
    fun core s => ⟨⟨fun c t htrial hended => ?_, fun hnone => ?_⟩, ?_,
      fun t ht hdue => ?_, fun hnone => ?_⟩⟩
  · refine congrArg Host.Outcome.next ?_
    rw [h]
  · exact (exec_shadowRunDone s core crc h).trans (congrArg _ (if_pos (beq_iff_eq.mpr hcrc)))
  · exact (exec_shadowRunDone s core crc h).trans (congrArg _ (if_neg fun hc => hcrc (beq_iff_eq.mp hc)))
  · refine ⟨_, (exec_shadowRunDone s core crc h).trans (congrArg _ (if_neg fun hc => hcrc (beq_iff_eq.mp hc))), mismatchNoted_count s, _,
      setShadow_mem _ ?_ (List.mem_singleton.mpr rfl), rfl, rfl, rfl, congrArg (·.2.2.2) (mismatchNoted_notes s), rfl, secondRun_site _ core crc r⟩
    rw [show (mismatchNoted s).hide = s.hide from congrArg (·.2.1) (mismatchNoted_notes s)]
    exact List.mem_of_find?_eq_some h
  · refine congrArg Host.Outcome.next ?_
    rw [h]
  · refine (exec_trialPass s core htrial).trans (congrArg _ (if_pos ?_))
    simp only [Bool.or_eq_true, Bool.and_eq_true, beq_iff_eq, decide_eq_true_eq]
    grind
  · cases htrial : (getCore s core).trial with
    | none =>
      refine congrArg Host.Outcome.next ?_
      rw [htrial]
    | some v =>
      refine (exec_trialPass s core htrial).trans (congrArg _ (if_neg fun h => hnone _ _ htrial ?_))
      simp only [Bool.or_eq_true, Bool.and_eq_true, beq_iff_eq, decide_eq_true_eq] at h
      grind
  · rw [drainSent_records]
    exact drainComplete_settles s _ _ rfl rfl
  · obtain ⟨hlent, hparked, hpassed⟩ := hdue
    refine ⟨_, (exec_grantLend s core ht).trans (congrArg _ (if_neg (by rw [hlent, hparked, hpassed]; decide))), ?_⟩
    generalize hu : setCore s core { getCore s core with lent := true, step := 0, istate := 3 } = u
    have hcore : getCore u core = { getCore s core with lent := true, step := 0, istate := 3 } := hu ▸ getCore_setCore ..
    have hkept : getCore (siteBump32 u core 0x418 1) = getCore u := rfl
    have hcount : siteReg (siteBump32 u core 0x418 1) core 0x418 = sat32 (siteReg s core 0x418) 1 := by
      rw [siteReg_siteBump32, ← hu]
      rfl
    rw [hkept, hcore]
    refine ⟨rfl, rfl, rfl, ht, hcount, fun j hj => ?_, ?_⟩
    · rw [← hu]
      exact getCore_setCore_of_ne _ _ _ hj
    · rw [← hu]
      rfl
  · cases ht : (getCore s core).parkedAt with
    | none =>
      refine congrArg Host.Outcome.next ?_
      rw [ht]
    | some t =>
      refine (exec_grantLend s core ht).trans (congrArg _ (if_pos (Decidable.of_not_not fun hn => hnone t ht ?_)))
      simpa [and_assoc] using hn

end Sys2Proof.Machine
end

section
/-!
PROOFS. Measurements, pools, grants and island ramps (R394, R395, R398 to R400).
-/
namespace Sys2Proof.Machine

section MeasuresAndGrants
variable (s : State)

/-! ### Measurements -/

/-- Watching the levels changes the comparators alone. -/
theorem cmpWatch_eq : ∃ comps, cmpWatch s = modPower s fun x => { x with comps := comps } := by
  have hset {t : State} (ht : ∃ comps, t = modPower s fun x => { x with comps := comps }) (k : Nat) (c : Comparator) :
      ∃ comps, setCmp t k c = modPower s fun x => { x with comps := comps } := by
    obtain ⟨comps, rfl⟩ := ht
    exact ⟨store comps k c, rfl⟩
  unfold cmpWatch
  extract_lets c t
  exact hset (hset (hset ⟨s.power.comps, rfl⟩ 4 _) 4 _) 5 _

/-- The power block once a measurement is taken. -/
def measured (x : Power) (now pIn vIn iIn other : Nat) (dies : List Nat) : Power :=
  withEff { x with
    pIn := pIn, vIn := vIn, iIn := iIn, other := other, diePower := dies,
    energy := x.energy + pIn * (now - x.measuredAt), measuredAt := now,
    vinLowAt := if vinBad vIn then some (x.vinLowAt.getD now) else none }

theorem exec_powerMeasure (pIn vIn iIn other : Nat) (dies : List Nat) (h : s.power.state ≠ .off) :
    exec (.powerMeasure pIn vIn iIn other dies) s = .next
      (if vinOut vIn && !vinOut s.power.vIn then
        raise (cmpWatch (modPower s fun x => measured x s.odometer pIn vIn iIn other dies)) pgQpc 1
      else cmpWatch (modPower s fun x => measured x s.odometer pIn vIn iIn other dies)) :=
  congrArg Host.Outcome.next (if_neg fun hoff => h (beq_iff_eq.mp hoff))

/-- VIN_OUT raises its alert. -/
theorem raise_vinOut : (raise s pgQpc 1).mgmt.alertPend.getLsbD 1 = true := by
  show (alertCause (raiseCause s pgQpc 1) 1).mgmt.alertPend.getLsbD 1 = true
  rw [alertCause, updateAlert_mgmt]
  simp

theorem effCapOf_eq (x : Power) : effCapOf x = if x.vIn = 0 then x.cap else min x.cap (x.vinUse.getD x.vIn / 2) := by
  unfold effCapOf vinOf
  simp only [beq_iff_eq]

end MeasuresAndGrants

/-- A measurement is taken: the readings, the energy, and the alert where the voltage leaves its rating. -/
theorem powerMeasure_settles (pIn vIn iIn other : Nat) (dies : List Nat) (s : State) :
    (s.power.state = .off → exec (.powerMeasure pIn vIn iIn other dies) s = .next s) ∧
    (s.power.state ≠ .off → Runs (.powerMeasure pIn vIn iIn other dies) s (fun t =>
      t.power.pIn = pIn ∧ t.power.vIn = vIn ∧ t.power.iIn = iIn ∧ t.power.other = other ∧ t.power.diePower = dies ∧
      t.power.energy = s.power.energy + pIn * (s.odometer - s.power.measuredAt) ∧ t.power.measuredAt = s.odometer ∧
      t.power.effCap = (if vIn = 0 then s.power.cap else min s.power.cap (s.power.vinUse.getD vIn / 2)) ∧ t.power.cap = s.power.cap ∧
      t.power.vinLowAt = (if vinBad vIn then some (s.power.vinLowAt.getD s.odometer) else none) ∧
      t.cores = s.cores ∧ t.hbm = s.hbm ∧
      (vinOut vIn = true → vinOut s.power.vIn = false → t.mgmt.alertPend.getLsbD 1 = true) ∧
      (vinOut vIn = false ∨ vinOut s.power.vIn = true → t.mgmt = s.mgmt))) := by
  refine ⟨fun h => congrArg Host.Outcome.next (if_pos (beq_iff_eq.mpr h)), fun h => ⟨_, exec_powerMeasure s pIn vIn iIn other dies h, ?_⟩⟩
  obtain ⟨comps, hwatch⟩ := cmpWatch_eq (modPower s fun x => measured x s.odometer pIn vIn iIn other dies)
  rw [hwatch]
  generalize hu : modPower (modPower s fun x => measured x s.odometer pIn vIn iIn other dies) (fun x => { x with comps := comps }) = u
  generalize ht : (if vinOut vIn && !vinOut s.power.vIn then raise u pgQpc 1 else u) = t
  have hpower : t.power = { measured s.power s.odometer pIn vIn iIn other dies with comps := comps } := by
    rw [← ht, apply_ite State.power, raise_power, ite_self, ← hu]
    rfl
  have hcauses : Causes u t := ht ▸ .ite (raise_causes ..) (.refl u)
  have hcores : t.cores = s.cores := (causesPart hcauses (·.cores) fun _ => rfl).trans (by rw [← hu]; rfl)
  have hhbm : t.hbm = s.hbm := (causesPart hcauses (·.hbm) fun _ => rfl).trans (by rw [← hu]; rfl)
  rw [hpower]
  refine ⟨rfl, rfl, rfl, rfl, rfl, rfl, rfl, effCapOf_eq _, rfl, rfl, hcores, hhbm, fun hout hwas => ?_, fun hin => ?_⟩
  · rw [← ht, hout, hwas]
    exact raise_vinOut u
  · rw [← ht, if_neg (by simpa [Decidable.imp_iff_not_or] using hin), ← hu]
    rfl

/-! ### The pools -/

/-- The core budget is split by the dies' resident cores. -/
theorem poolSplit_splits (s : State) (d : Nat) (hd : d < 4) : Runs .poolSplit s (fun t =>
    t = { s with power := { s.power with pool := t.power.pool } } ∧
      nth t.power.pool d = (10 * s.power.effCap - s.power.other) * (residentCores s d).length /
        ((residentCores s 0).length + (residentCores s 1).length + (residentCores s 2).length + (residentCores s 3).length)) := by
  refine ⟨_, rfl, rfl, ?_⟩
  rw [modPower_power]
  dsimp only
  rw [List.map_map, nth_map_range hd]
  simp [List.range_succ, Nat.add_assoc]

/-! ### Grants -/

section Grants
variable (s : State)

theorem predicted_mono (l : List Nat) (unit : Nat) {j k : Nat} (h : j ≤ k) : predicted s l unit j ≤ predicted s l unit k := by
  have hmin (limit : Nat) : min j limit ≤ min k limit := by omega
  unfold predicted
  induction l with
  | nil => exact Nat.le_refl _
  | cons c l ih =>
    rw [List.map_cons, List.map_cons, List.sum_cons, List.sum_cons]
    exact Nat.add_le_add (Nat.mul_le_mul_left _ (hmin _)) ih

/-- The step found fits or is 0, and no larger one up to the bound fits. -/
theorem largestStep_largest (l : List Nat) (unit pool n : Nat) :
    (largestStep s l unit pool n = 0 ∨ predicted s l unit (largestStep s l unit pool n) ≤ pool) ∧
      ∀ k, largestStep s l unit pool n < k → k ≤ n → ¬ predicted s l unit k ≤ pool := by
  induction n with
  | zero => exact ⟨.inl rfl, fun k h hk => by omega⟩
  | succ n ih =>
    rw [largestStep]
    split
    · rename_i hfits
      exact ⟨.inr hfits, fun k h hk => by omega⟩
    · rename_i hnot
      refine ⟨ih.1, fun k h hk => ?_⟩
      by_cases hn : k = n + 1
      · rwa [hn]
      · exact ih.2 k h (by omega)

/-- A core runs at most at its grant, the die's step and its limit. -/
def grantedAt (k c limit : Nat) (t : State) : Prop :=
  (getCore t c).islLimit = limit ∧ (getCore t c).grant = min k limit ∧ (getCore t c).step ≤ (getCore t c).grant

theorem grantCore_of_ne {k c j : Nat} (h : j ≠ c) : getCore (grantCore s k c) j = getCore s j := getCore_modCore_of_ne _ _ h

theorem grantCore_granted {k c limit : Nat} (h : (getCore s c).islLimit = limit) : grantedAt k c limit (grantCore s k c) := by
  unfold grantedAt grantCore
  rw [getCore_modCore]
  exact ⟨h, congrArg (min k) h, Nat.min_le_right ..⟩

/-- A grant of the die's own step, or of another core, leaves a granted core granted. -/
theorem grantCore_grantedAt {k j c d limit : Nat} (hj : d = c → j = k) (h : grantedAt k c limit s) : grantedAt k c limit (grantCore s j d) := by
  by_cases hd : d = c
  · rw [hd, hj hd]
    exact grantCore_granted s h.1
  · unfold grantedAt
    rw [grantCore_of_ne s (Ne.symm hd)]
    exact h

theorem grantCore_limit (k c d : Nat) : (getCore (grantCore s k d) c).islLimit = (getCore s c).islLimit := by
  by_cases h : c = d
  · rw [h, grantCore, getCore_modCore]
  · rw [grantCore_of_ne s h]

/-- What a fold's steps keep holds at its end. -/
theorem foldl_keeps {α : Type} {f : State → α → State} {P : State → Prop} {l : List α} (hkeep : ∀ s, ∀ b ∈ l, P s → P (f s b)) (h : P s) :
    P (l.foldl f s) := by
  induction l generalizing s with
  | nil => exact h
  | cons b t ih => exact ih _ (fun s c hc => hkeep s c (List.mem_cons_of_mem _ hc)) (hkeep s b (List.mem_cons_self ..) h)

/-- What one step of a fold makes of what all of them keep, and none undoes, holds at its end. -/
theorem foldl_reaches {α : Type} {f : State → α → State} {P Q : State → Prop} {l : List α} {a : α} (ha : a ∈ l)
    (hQ : ∀ s, ∀ b ∈ l, Q s → Q (f s b)) (hmake : ∀ s, Q s → P (f s a)) (hkeep : ∀ s, ∀ b ∈ l, P s → P (f s b)) (h : Q s) :
    P (l.foldl f s) := by
  induction l generalizing s with
  | nil => cases ha
  | cons b t ih =>
    have hrest (s : State) (c : α) (hc : c ∈ t) := hkeep s c (List.mem_cons_of_mem _ hc)
    obtain rfl | ht := List.mem_cons.mp ha
    · exact foldl_keeps (l := t) _ hrest (hmake s h)
    · exact ih _ ht (fun s c hc => hQ s c (List.mem_cons_of_mem _ hc)) hrest (hQ s b (List.mem_cons_self ..) h)

/-- Grants given die by die. -/
def grantDies (s : State) (live : Nat → List Nat) (steps : List Nat) : State :=
  (List.range 4).foldl (fun s d => (live d).foldl (fun s c => grantCore s (nth steps d) c) s) s

/-- Where no core belongs to two dies, each that takes part gets its die's step under its limit. -/
theorem grantDies_granted {live : Nat → List Nat} (hlive : ∀ d c, c ∈ live d → dieOfCore c = d) (steps : List Nat) {d c : Nat}
    (hd : d < 4) (hc : c ∈ live d) : grantedAt (nth steps d) c (getCore s c).islLimit (grantDies s live steps) := by
  have hkeep (t : State) (e : Nat) (h : grantedAt (nth steps d) c (getCore s c).islLimit t) :
      grantedAt (nth steps d) c (getCore s c).islLimit ((live e).foldl (fun s c => grantCore s (nth steps e) c) t) := by
    refine foldl_keeps t (fun u b hb hu => grantCore_grantedAt u (fun hbc => ?_) hu) h
    rw [← hlive e b hb, hbc, hlive d c hc]
  have hlimit (t : State) (e : Nat) (h : (getCore t c).islLimit = (getCore s c).islLimit) :
      (getCore ((live e).foldl (fun s c => grantCore s (nth steps e) c) t) c).islLimit = (getCore s c).islLimit :=
    foldl_keeps t (P := fun t => (getCore t c).islLimit = (getCore s c).islLimit)
      (fun u b _ hu => (grantCore_limit u ..).trans hu) h
  refine foldl_reaches s (List.mem_range.mpr hd) (Q := fun t => (getCore t c).islLimit = (getCore s c).islLimit)
    (fun t e _ h => hlimit t e h) (fun t h => ?_) (fun t e _ h => hkeep t e h) rfl
  exact foldl_reaches t hc (Q := fun t => (getCore t c).islLimit = (getCore s c).islLimit)
    (fun u b _ hu => (grantCore_limit u ..).trans hu) (fun u hu => grantCore_granted u hu)
    (fun u b _ hu => grantCore_grantedAt u (fun _ => rfl) hu) h

/-- A core that takes no part keeps all it has. -/
theorem grantDies_other {live : Nat → List Nat} (steps : List Nat) {c : Nat} (hc : ∀ d, c ∉ live d) :
    getCore (grantDies s live steps) c = getCore s c := by
  refine foldl_keeps s (P := fun t => getCore t c = getCore s c) (fun t d _ h => ?_) rfl
  refine foldl_keeps t (P := fun t => getCore t c = getCore s c) (fun u b hb hu => ?_) h
  exact (grantCore_of_ne u (Ne.symm (ne_of_mem_of_not_mem hb (hc d)))).trans hu

theorem dieOfCore_of_granted {d c : Nat} (h : c ∈ grantedCores s d) : dieOfCore c = d := by
  obtain ⟨e, he, rfl⟩ := List.mem_map.mp (List.mem_filter.mp h).1
  have := (List.mem_filter.mp he).2
  simp only [Bool.and_eq_true, beq_iff_eq] at this
  exact this.1

/-- The step that a die's cores get. -/
def dieStepOf (s : State) (unit : List Nat) (d : Nat) : Nat :=
  min (max 1 (largestStep s (grantedCores s d) (nth unit d) (poolLeft s d (nth unit d)) 64)) (max 1 (nth s.power.ceiling d))

/-- The step is 1 or fits the pool; no larger one under the ceiling does. -/
theorem dieStepOf_largest (unit : List Nat) (d : Nat) :
    (dieStepOf s unit d = 1 ∨ predicted s (grantedCores s d) (nth unit d) (dieStepOf s unit d) ≤ poolLeft s d (nth unit d)) ∧
    (∀ k, dieStepOf s unit d < k → k ≤ 64 → k ≤ nth s.power.ceiling d →
      ¬ predicted s (grantedCores s d) (nth unit d) k ≤ poolLeft s d (nth unit d)) := by
  obtain ⟨hfits, hlargest⟩ := largestStep_largest s (grantedCores s d) (nth unit d) (poolLeft s d (nth unit d)) 64
  unfold dieStepOf
  generalize largestStep s (grantedCores s d) (nth unit d) (poolLeft s d (nth unit d)) 64 = fit at hfits hlargest
  refine ⟨?_, fun k hk h64 hceil => hlargest k (by omega) h64⟩
  obtain rfl | hfits := hfits
  · left
    omega
  · by_cases hzero : fit = 0
    · left
      omega
    · exact .inr (Nat.le_trans (predicted_mono s _ _ (by omega)) hfits)

end Grants

/-- An allocation gives each die the step that fits, and each of its cores that takes part that step under its limit. -/
theorem grantAllocate_grants (s : State) (unit : List Nat) (d : Nat) (hd : d < 4) (h : s.power.state = .on) :
    Runs (.grantAllocate unit) s (fun t =>
      ((nth t.power.dieStep d = 1 ∨ predicted s (grantedCores s d) (nth unit d) (nth t.power.dieStep d) ≤ poolLeft s d (nth unit d)) ∧
       (∀ k, nth t.power.dieStep d < k → k ≤ 64 → k ≤ nth s.power.ceiling d →
         ¬ predicted s (grantedCores s d) (nth unit d) k ≤ poolLeft s d (nth unit d))) ∧
      1 ≤ nth t.power.dieStep d ∧ nth t.power.dieStep d ≤ max 1 (nth s.power.ceiling d) ∧
      (∀ c, c ∈ grantedCores s d →
        (getCore t c).grant = min (nth t.power.dieStep d) (getCore s c).islLimit ∧ (getCore t c).step ≤ (getCore t c).grant) ∧
      (∀ c, (getCore s c).lent = true ∨ (coreSite s c).testing = true → getCore t c = getCore s c)) := by
  refine ⟨_, congrArg Host.Outcome.next (if_neg (by simp [h])), ?_⟩
  dsimp only [modPower_power]
  generalize hsteps : List.map (fun d => min (max 1 (nth _ d)) (max 1 (nth s.power.ceiling d))) (List.range 4) = steps
  have hstep : nth steps d = dieStepOf s unit d := by
    rw [← hsteps, nth_map_range hd, nth_map_range hd]
    rfl
  rw [hstep]
  refine ⟨dieStepOf_largest s unit d, ?_, ?_, fun c hc => ?_, fun c hc => ?_⟩
  · unfold dieStepOf
    omega
  · exact Nat.min_le_right ..
  · rw [getCore_modPower, ← hstep]
    exact (grantDies_granted s (live := grantedCores s) (fun d c => dieOfCore_of_granted s) steps hd hc).2
  · rw [getCore_modPower]
    refine grantDies_other s (live := grantedCores s) steps fun e he => ?_
    have hpart := (List.mem_filter.mp he).2
    simp only [Bool.and_eq_true, Bool.not_eq_true'] at hpart
    obtain hlent | htesting := hc
    · exact Bool.false_ne_true (hpart.1.symm.trans hlent)
    · exact Bool.false_ne_true (hpart.2.symm.trans htesting)

/-! ### Island ramps -/

/-- The starts of islands within the last 1 µs. -/
def lateStarts (s : State) : List (Nat × Nat) := s.power.released.filter fun r => s.odometer < r.2 + usNs

/-- A core with a new step of its ramp. -/
def rampedTo (s : State) (x : Core) (v : Nat) : Core :=
  { x with step := v, istate := if v < x.grant then 1 else 2, rampAt := s.odometer }

theorem exec_islandRampStep (core : CoreId) (s : State) : exec (.islandRampStep core) s = .next
    (if s.power.state != .on || (getCore s core).ctx.isNone || (getCore s core).lent || (coreSite s core).testing ||
        (getCore s core).grant == 0 then s
    else if (getCore s core).step == 0 then
      if firstWaiting s (dieOfCore core) != some core.val || 128 ≤ ((lateStarts s).filter (fun r => r.1 == dieOfCore core)).length then s
      else setCore (modPower s (fun y => { y with released := lateStarts s ++ [(dieOfCore core, s.odometer)] })) core
        (rampedTo s (getCore s core) (min 16 (getCore s core).grant))
    else if (getCore s core).step < (getCore s core).grant && passed s (getCore s core).rampAt 16 then
      setCore s core (rampedTo s (getCore s core) ((getCore s core).step + 1))
    else s) := rfl

/-- An island that may run starts its ramp in its turn, and rises by one 16 ns later. -/
theorem islandRampStep_settles (core : CoreId) (s : State) (hon : s.power.state = .on) (x : Core) (hx : x = getCore s core)
    (late : List (Nat × Nat)) (hlate : late = lateStarts s) (free gates : Prop)
    (hfree : free = (firstWaiting s (dieOfCore core) = some core.val ∧ (late.filter (fun r => r.1 == dieOfCore core)).length < 128))
    (hgates : gates = (x.ctx = none ∨ x.lent = true ∨ (coreSite s core).testing = true ∨ x.grant = 0)) :
    (gates → exec (.islandRampStep core) s = .next s) ∧
       (¬ gates → x.step = 0 →
         (free → Runs (.islandRampStep core) s (fun t => (getCore t core).step = min 16 x.grant ∧
           (getCore t core).rampAt = s.odometer ∧ t.power.released = late ++ [(dieOfCore core, s.odometer)] ∧
           (∀ j, j ≠ core.val → getCore t j = getCore s j))) ∧
         (¬ free → exec (.islandRampStep core) s = .next s)) ∧
       (¬ gates → x.step ≠ 0 →
         (x.step < x.grant → passed s x.rampAt 16 = true → Runs (.islandRampStep core) s (fun t =>
           (getCore t core).step = x.step + 1 ∧ (getCore t core).rampAt = s.odometer ∧ t.power = s.power ∧
           (∀ j, j ≠ core.val → getCore t j = getCore s j))) ∧
         (x.grant ≤ x.step ∨ passed s x.rampAt 16 = false → exec (.islandRampStep core) s = .next s)) := by
  have hexec := exec_islandRampStep core s
  rw [← hx, ← hlate] at hexec
  generalize hG : (s.power.state != .on || x.ctx.isNone || x.lent || (coreSite s core).testing || x.grant == 0) = G at hexec
  have hG : gates ↔ G = true := by rw [hgates, ← hG]; simp [hon, or_assoc]
  generalize hF : (firstWaiting s (dieOfCore core) != some core.val ||
    decide (128 ≤ (late.filter (fun r => r.1 == dieOfCore core)).length)) = F at hexec
  have hF : free ↔ F = false := by rw [hfree, ← hF]; simp
  refine ⟨fun h => ?_, fun h hstep => ?_, fun h hstep => ?_⟩
  · rwa [if_pos (hG.mp h)] at hexec
  · rw [if_neg fun hg => h (hG.mpr hg), if_pos (beq_iff_eq.mpr hstep)] at hexec
    refine ⟨fun hf => ?_, fun hf => ?_⟩
    · rw [if_neg fun hb => Bool.false_ne_true ((hF.mp hf).symm.trans hb)] at hexec
      refine ⟨_, hexec, ?_, ?_, rfl, fun j hj => getCore_setCore_of_ne _ _ _ hj⟩
      · exact congrArg Core.step (getCore_setCore ..)
      · exact congrArg Core.rampAt (getCore_setCore ..)
    · rwa [if_pos ((Bool.not_eq_false _).mp fun hb => hf (hF.mpr hb))] at hexec
  · rw [if_neg fun hg => h (hG.mpr hg), if_neg fun hb => hstep (beq_iff_eq.mp hb)] at hexec
    refine ⟨fun hlow hdue => ?_, fun hwait => ?_⟩
    · rw [if_pos (by rw [hdue, decide_eq_true hlow]; rfl)] at hexec
      refine ⟨_, hexec, ?_, ?_, rfl, fun j hj => getCore_setCore_of_ne _ _ _ hj⟩
      · exact congrArg Core.step (getCore_setCore ..)
      · exact congrArg Core.rampAt (getCore_setCore ..)
    · rwa [if_neg (by simpa [Decidable.imp_iff_not_or] using hwait)] at hexec

/-- Settles O55: each command's equation, the grants' folds die by die, and the largest step that fits. -/
theorem measuresAndGrants : Obligations.MeasuresAndGrants := by
  unfold Obligations.MeasuresAndGrants
  intro pIn vIn iIn other dies unit core d s hd
  obtain ⟨hoff, hmeasure⟩ := powerMeasure_settles pIn vIn iIn other dies s
  refine ⟨hoff, hmeasure, poolSplit_splits s d hd, fun h => ⟨?_, ?_⟩, fun h => grantAllocate_grants s unit d hd h,
    fun h => islandRampStep_settles core s h _ rfl _ rfl _ _ rfl rfl⟩
  · exact congrArg Host.Outcome.next (if_pos (bne_iff_ne.mpr h))
  · exact (exec_islandRampStep core s).trans (congrArg _ (if_pos (by simp [h])))

end Sys2Proof.Machine
end

section
/-!
PROOFS. Temperatures, input faults, wakes and power states (R393, R402, R404 to R407, R412, R429, R438).
-/
namespace Sys2Proof.Machine

section PowerStates
variable (s : State)

/-! ### Temperatures -/

/-- The state with its time under a ceiling counted and the new readings. -/
def readingsTaken (s : State) (junction hub hbmStacks : List Nat) : State :=
  modPower (countThrottle s) fun x => { x with junction := junction, hub := hub, stackT := hbmStacks }

/-- The ceilings and the stacks' access rates follow the readings. -/
def heatNoted (v : State) (hot : Bool) (hbmStacks : List Nat) : State :=
  (List.range 12).foldl (fun s k =>
      modStack s k (fun y => { y with halfRate := decide (380 ≤ nth hbmStacks k) || decide (3 ≤ look v.power.stackRuns k 0) }))
    (modPower v fun x => withEff { x with
      ceiling := (List.range 4).map (ceilingOf x), throttleAt := if hot then some (x.throttleAt.getD v.odometer) else none })

theorem readSensors_eq (junction hub hbmStacks : List Nat) : readSensors s junction hub hbmStacks =
    let v := readingsTaken s junction hub hbmStacks
    let hot := (List.range 4).any (ceilingOn v.power)
    if !hubPowered v then v
    else if hot && v.power.throttleAt.isNone then raise (heatNoted v hot hbmStacks) pgQpc 0 else heatNoted v hot hbmStacks := rfl

theorem countThrottle_count : regOf (countThrottle s) pgQpc 0x068 =
    s.power.throttleAt.elim (regOf s pgQpc 0x068) (fun t0 => sat32 (regOf s pgQpc 0x068) ((s.odometer - t0) / usNs)) := by
  unfold countThrottle
  split
  · rename_i h
    rw [h]
    rfl
  · rename_i t h
    rw [h]
    exact regOf_bump32 ..

theorem countThrottle_isSome : (countThrottle s).power.throttleAt.isSome = s.power.throttleAt.isSome := by
  unfold countThrottle
  split
  · rfl
  · rename_i t h
    rw [h]
    rfl

theorem countThrottle_causes : Causes { s with power := (countThrottle s).power } (countThrottle s) := by
  unfold countThrottle
  split
  · rfl
  · exact (setReg_causes { s with power := _ } ..)

theorem heatNoted_pages (hot : Bool) (hbmStacks : List Nat) : (heatNoted s hot hbmStacks).pages = s.pages := by
  refine Same.foldl (view := (·.pages)) (fun t k _ => ?_) _
  rfl

theorem heatNoted_cores (hot : Bool) (hbmStacks : List Nat) : (heatNoted s hot hbmStacks).cores = s.cores := by
  refine Same.foldl (view := (·.cores)) (fun t k _ => ?_) _
  rfl

theorem heatNoted_power (hot : Bool) (hbmStacks : List Nat) : (heatNoted s hot hbmStacks).power = withEff { s.power with
    ceiling := (List.range 4).map (ceilingOf s.power), throttleAt := if hot then some (s.power.throttleAt.getD s.odometer) else none } :=
  foldl_modStack_power ..

theorem heatNoted_stack (hot : Bool) (hbmStacks : List Nat) {k : Nat} (hk : k < 12) :
    (getStack (heatNoted s hot hbmStacks) k).halfRate = (decide (380 ≤ nth hbmStacks k) || decide (3 ≤ look s.power.stackRuns k 0)) := by
  have hfold := foldl_at (f := fun t k => modStack t k fun y =>
      { y with halfRate := decide (380 ≤ nth hbmStacks k) || decide (3 ≤ look s.power.stackRuns k 0) })
    getStack (fun _ => ()) (fun _ k y => { y with halfRate := decide (380 ≤ nth hbmStacks k) || decide (3 ≤ look s.power.stackRuns k 0) })
    (fun t k => getStack_modStack t k _) (fun t k j h => look_store_of_ne _ _ _ h) (fun _ _ => rfl) (List.nodup_range (n := 12))
    (modPower s fun x => withEff { x with
      ceiling := (List.range 4).map (ceilingOf x), throttleAt := if hot then some (x.throttleAt.getD s.odometer) else none }) k
  rw [if_pos (List.mem_range.mpr hk)] at hfold
  exact congrArg Stack.halfRate hfold

theorem readingsTaken_power (junction hub hbmStacks : List Nat) : ∃ at_, at_.isSome = s.power.throttleAt.isSome ∧
    (readingsTaken s junction hub hbmStacks).power =
      { s.power with junction := junction, hub := hub, stackT := hbmStacks, throttleAt := at_ } := by
  obtain ⟨at_, h⟩ := countThrottle_power s
  refine ⟨at_, ?_, ?_⟩
  · rw [← countThrottle_isSome, h]
  · rw [readingsTaken, modPower_power, h]

theorem readingsTaken_rest (junction hub hbmStacks : List Nat) :
    (readingsTaken s junction hub hbmStacks).cores = s.cores ∧ (readingsTaken s junction hub hbmStacks).odometer = s.odometer ∧
      regOf (readingsTaken s junction hub hbmStacks) pgQpc 0x068 = regOf (countThrottle s) pgQpc 0x068 := by
  have h := countThrottle_causes s
  exact ⟨causesPart h (·.cores) fun _ => rfl, causesPart h (·.odometer) fun _ => rfl, rfl⟩

/-- A ceiling raises its alert. -/
theorem raise_throttle : (raise s pgQpc 0).mgmt.alertPend.getLsbD 0 = true := by
  show (alertCause (raiseCause s pgQpc 0) 0).mgmt.alertPend.getLsbD 0 = true
  rw [alertCause, updateAlert_mgmt]
  simp

theorem raise_quiet (b : Bool) (pg c : Nat) : Causes s (if b then raise s pg c else s) := .ite (raise_causes ..) (.refl s)

/-- Which part of the readings' outcome depends on whether the hub is powered. -/
theorem readSensors_cases (junction hub hbmStacks : List Nat) (v : State) (hv : v = readingsTaken s junction hub hbmStacks) (hot : Bool)
    (hhot : hot = (List.range 4).any (ceilingOn v.power)) :
    (hubPowered s = false → readSensors s junction hub hbmStacks = v) ∧
    (hubPowered s = true → readSensors s junction hub hbmStacks =
      if hot && v.power.throttleAt.isNone then raise (heatNoted v hot hbmStacks) pgQpc 0 else heatNoted v hot hbmStacks) := by
  obtain ⟨at_, -, hpower⟩ := readingsTaken_power s junction hub hbmStacks
  have hup : hubPowered v = hubPowered s := by rw [hubPowered, hv, hpower, hubPowered]
  rw [readSensors_eq]
  dsimp only
  rw [← hv, hup, ← hhot]
  exact ⟨fun h => if_pos (by rw [h]; rfl), fun h => if_neg (by rw [h]; decide)⟩

/-- The readings are taken, and the time under a ceiling is counted. -/
theorem readSensors_takes (junction hub hbmStacks : List Nat) (t : State) (ht : t = readSensors s junction hub hbmStacks) :
    t.power.junction = junction ∧ t.power.hub = hub ∧ t.power.stackT = hbmStacks ∧ t.cores = s.cores ∧
       regOf t pgQpc 0x068 = s.power.throttleAt.elim (regOf s pgQpc 0x068)
         (fun t0 => sat32 (regOf s pgQpc 0x068) ((s.odometer - t0) / usNs)) ∧
       (hubPowered s = true →
         t.power.ceiling = (List.range 4).map (ceilingOf { s.power with junction := junction, hub := hub, stackT := hbmStacks }) ∧
         (∀ k, k < 12 → (getStack t k).halfRate = (decide (380 ≤ nth hbmStacks k) || decide (3 ≤ look s.power.stackRuns k 0))) ∧
         (let hot := (List.range 4).any (ceilingOn { s.power with junction := junction, hub := hub, stackT := hbmStacks })
          t.power.throttleAt.isSome = hot ∧
          (hot = true → s.power.throttleAt = none → t.power.throttleAt = some s.odometer ∧ t.mgmt.alertPend.getLsbD 0 = true))) := by
  obtain ⟨at_, hsome, hpower⟩ := readingsTaken_power s junction hub hbmStacks
  obtain ⟨hcores, hodo, hcount⟩ := readingsTaken_rest s junction hub hbmStacks
  generalize hv : readingsTaken s junction hub hbmStacks = v at hpower hcores hodo hcount
  generalize hhot : (List.range 4).any (ceilingOn v.power) = hot
  obtain ⟨hdown, hup⟩ := readSensors_cases s junction hub hbmStacks v hv.symm hot hhot.symm
  rw [← ht] at hdown hup
  rw [countThrottle_count] at hcount
  cases hp : hubPowered s with
  | false =>
    rw [hdown hp, hpower]
    exact ⟨rfl, rfl, rfl, hcores, hcount, nofun⟩
  | true =>
    generalize hu : heatNoted v hot hbmStacks = u at hup
    have hraised : Causes u t := hup hp ▸ raise_quiet u _ pgQpc 0
    have hregs : regOf t pgQpc 0x068 = regOf u pgQpc 0x068 := by
      rw [hup hp]
      exact regOf_of_regs (.ite (raise_regs ..) (.refl u)) _ _
    have hkept : t.power = u.power := by rw [hup hp, apply_ite State.power, raise_power, ite_self]
    have hupower := heatNoted_power v hot hbmStacks
    rw [hu, hpower, hodo] at hupower
    have hstate : regOf u pgQpc 0x068 = regOf v pgQpc 0x068 := regOf_congr (hu ▸ heatNoted_pages ..) ..
    have hsame : hot = (List.range 4).any (ceilingOn { s.power with junction := junction, hub := hub, stackT := hbmStacks }) := by
      rw [← hhot, hpower]
      rfl
    have hfresh : s.power.throttleAt = none → at_ = none := fun h => by
      rw [h] at hsome
      exact Option.isNone_iff_eq_none.mp (by rw [← Option.not_isSome, hsome]; rfl)
    rw [hregs, hstate, hcount, hkept, hupower, ← hsame]
    refine ⟨rfl, rfl, rfl, ?_, rfl, fun _ => ⟨rfl, fun k hk => ?_, ?_, fun hh hnone => ⟨?_, ?_⟩⟩⟩
    · rw [causesPart hraised (·.cores) fun _ => rfl, ← hu, heatNoted_cores, hcores]
    · rw [getStack_of_causes hraised, ← hu, heatNoted_stack _ _ _ hk, hpower]
    · cases hot <;> rfl
    · rw [hfresh hnone, show hot = true from hh]
      rfl
    · rw [hup hp, show hot = true from hh, hpower, hfresh hnone]
      exact raise_throttle u

/-! ### Wakes -/

theorem wake_awake (h : s.power.state ≠ .dormant) (h' : s.power.state ≠ .doze) : wake s = s :=
  if_pos (by simp [h, h'])

theorem wake_held (h : s.power.state = .dormant ∨ s.power.state = .doze) (hot : stillHot s.power = true) :
    wake s = modPower s fun x => { x with heldWake := true } := by
  unfold wake
  rw [if_neg (by obtain h | h := h <;> simp [h]), if_pos hot]

theorem wake_now (h : s.power.state = .dormant ∨ s.power.state = .doze) (hot : stillHot s.power = false) : wake s = wakeNow s := by
  unfold wake
  rw [if_neg (by obtain h | h := h <;> simp [h]), if_neg (by rw [hot]; decide)]

theorem wakeNow_dormant (h : s.power.state = .dormant) : wakeNow s = startBringup s := by
  unfold wakeNow
  rw [h]

theorem wakeNow_doze (h : s.power.state = .doze) :
    wakeNow s = modPower s fun x => { x with leaving := some (x.leaving.getD .wake), heldWake := false } := by
  unfold wakeNow
  rw [h]

/-- A wake leaves the comparators, the QMC's state and the stacks. -/
theorem wake_comps : (wake s).power.comps = s.power.comps ∧ (wake s).mgmt = s.mgmt ∧ (wake s).hbmStacks = s.hbmStacks := by
  unfold wake wakeNow
  split
  · exact ⟨rfl, rfl, rfl⟩
  · split
    · exact ⟨rfl, rfl, rfl⟩
    · split <;> exact ⟨rfl, rfl, rfl⟩

/-- A wake out of DOZE leaves the module in it for now. -/
theorem wakeFired_doze (h : s.power.state = .doze) : (wakeFired s).power.state = .doze ∧
    (wakeFired s).power.entering = s.power.entering ∧ (wakeFired s).hbmStacks = s.hbmStacks := by
  unfold wakeFired
  split
  · cases hot : stillHot s.power with
    | true =>
      rw [wake_held s (.inr h) hot]
      exact ⟨h, rfl, rfl⟩
    | false =>
      rw [wake_now s (.inr h) hot, wakeNow_doze s h]
      exact ⟨h, rfl, rfl⟩
  · exact ⟨h, rfl, rfl⟩

/-- A wake right after power was lost begins bring-up. -/
theorem wakeFired_dormant (h : s.power.state = .dormant) (hot : stillHot s.power = false) (hfired : ¬ WakesNone s) :
    wakeFired s = startBringup s := by
  refine (if_pos ?_).trans ((wake_now s (.inl h) hot).trans (wakeNow_dormant s h))
  refine (Bool.not_eq_false _).mp fun hnone => hfired fun k hk => ?_
  exact Bool.and_eq_false_iff.mp ((Bool.not_eq_true _).mp (List.any_eq_false.mp hnone k (List.mem_range.mpr hk)))

/-! ### Comparators -/

/-- A comparator that fires, before any wake. -/
def fired (s : State) (k : Nat) : State :=
  alertCause (raiseCause (setCmp s k { getCmp s k with fired := true, firedAt := s.odometer, met := true }) pgAon k) 2

theorem fireCmp_eq (k : Nat) : fireCmp s k = if (getCmp s k).wake then wake (fired s k) else fired s k := rfl

theorem fired_power (k : Nat) : (fired s k).power =
    { s.power with comps := store s.power.comps k { getCmp s k with fired := true, firedAt := s.odometer, met := true } } := by
  rw [fired, alertCause_power, raiseCause_power]
  rfl

theorem fired_alert (k : Nat) : (fired s k).mgmt.alertPend.getLsbD 2 = true := by
  rw [fired, alertCause, updateAlert_mgmt]
  simp

/-- What a comparator's fire shows, whatever it wakes. -/
theorem fireCmp_shows (k : Nat) : (fireCmp s k).power.comps = (fired s k).power.comps ∧ (fireCmp s k).mgmt = (fired s k).mgmt := by
  rw [fireCmp_eq]
  split
  · exact ⟨(wake_comps _).1, (wake_comps _).2.1⟩
  · exact ⟨rfl, rfl⟩

/-! ### Power states -/

/-- What the end of a POWER_OFF leaves. -/
theorem endPow_power (q : PowReq) : (endPow s q 0 fun s code => mboxReply s code 0).power = s.power ∧
    (endPow s q 0 fun s code => mboxReply s code 0).hbmStacks = s.hbmStacks := by
  unfold endPow
  split
  · have h := completePost_traffic s
    exact ⟨trafficPart (h ..) (·.power) fun _ => rfl, trafficPart (h ..) (·.hbmStacks) fun _ => rfl⟩
  · dsimp only
    unfold mboxReply mboxEnd
    extract_lets u
    have h := alertCause_causes (addEvent u pgQmc 1) 5
    exact ⟨causesPart h (·.power) fun _ => rfl, causesPart h (·.hbmStacks) fun _ => rfl⟩
  · exact ⟨rfl, rfl⟩

/-- Every stack's self-refresh once it is set. -/
theorem selfRefresh_foldl (v : Bool) {j : Nat} (hj : j < 12) :
    (getStack ((List.range 12).foldl (fun s k => modStack s k (fun x => { x with selfRefresh := v })) s) j).selfRefresh = v :=
  foldl_sets (f := fun s k => modStack s k (fun x => { x with selfRefresh := v })) (read := fun s k => (getStack s k).selfRefresh)
    (v := v) (fun s k => congrArg Stack.selfRefresh (getStack_modStack s k _))
    (fun s k j h => by
      by_cases hjk : j = k
      · rw [hjk, getStack_modStack]
      · exact (congrArg Stack.selfRefresh (look_store_of_ne _ _ _ hjk)).trans h) (List.mem_range.mpr hj) s

end PowerStates

/-! ### The commands -/

theorem exec_thermalTrip (s : State) : exec .thermalTrip s = .next
    (if s.power.state == .off || !tripNow s.power then s
    else if hubPowered s then enterDormant (modPower s (fun x => { x with tripped := true })) 2
    else modPower (modPower s (fun x => { x with tripped := true })) (fun x => { x with lastStop := 2 })) := rfl

/-- A trip takes the power of every domain that has it. -/
theorem thermalTrip_settles (s : State) (trips : Prop) (htrips : trips = (s.power.state ≠ .off ∧ tripNow s.power = true)) (s1 : State)
    (hs1 : s1 = modPower s (fun x => { x with tripped := true })) :
    (trips → hubPowered s = true → exec .thermalTrip s = .next (enterDormant s1 2)) ∧
    (trips → hubPowered s = false → exec .thermalTrip s = .next (modPower s1 (fun x => { x with lastStop := 2 }))) ∧
    (trips → hubPowered s = true → WakesNone s → Runs .thermalTrip s (fun t =>
      t.power.state = .dormant ∧ t.power.tripped = true ∧ t.power.lastStop = 2 ∧ t.cores = [] ∧ t.ctxs = [] ∧ t.hbm = [] ∧
      t.record = s.record ∧ t.odometer = s.odometer)) ∧
    (¬ trips → exec .thermalTrip s = .next s) := by
  have hexec := exec_thermalTrip s
  rw [← hs1] at hexec
  have htrips : trips ↔ ¬ (s.power.state == .off || !tripNow s.power) = true := by rw [htrips]; simp
  have hdormant (h : trips) (hup : hubPowered s = true) : exec .thermalTrip s = .next (enterDormant s1 2) := by
    rwa [if_neg (htrips.mp h), if_pos hup] at hexec
  refine ⟨hdormant, fun h hup => ?_, fun h hup hw => ?_, fun h => ?_⟩
  · rwa [if_neg (htrips.mp h), if_neg (by rw [hup]; decide)] at hexec
  · have hasleep := enterDormant_stays (s := s1) (cause := 2) (hs1 ▸ hw)
    refine ⟨_, hdormant h hup, hasleep.state, ?_, hasleep.lastStop, hasleep.cores, hasleep.ctxs, hasleep.hbm, ?_, ?_⟩
    · rw [hasleep.tripped, hs1]
      rfl
    · rw [hasleep.record, hs1]
      rfl
    · rw [hasleep.odometer, hs1]
      rfl
  · rwa [if_pos (Decidable.of_not_not fun hn => h (htrips.mpr hn))] at hexec

/-- An input fault takes the power once it has lasted. -/
theorem vinFault_settles (s : State) (due : Nat → Prop)
    (hdue : due = fun t0 => hubPowered s = true ∧ passed s t0 (100 * usNs) = true) :
    (∀ t0, s.power.vinLowAt = some t0 → due t0 → exec .vinFault s = .next (enterDormant s 3)) ∧
    (∀ t0, s.power.vinLowAt = some t0 → due t0 → WakesNone s → Runs .vinFault s (fun t =>
      t.power.state = .dormant ∧ t.power.lastStop = 3 ∧ t.cores = [] ∧ t.ctxs = [] ∧ t.hbm = [] ∧ t.record = s.record)) ∧
    (∀ t0, s.power.vinLowAt = some t0 → due t0 → ¬ WakesNone s → stillHot s.power = false → Runs .vinFault s (fun t =>
      t.power.state = .on ∧ t.boot.phase = 0 ∧ t.boot.bootAt = s.odometer)) ∧
    ((∀ t0, s.power.vinLowAt = some t0 → ¬ due t0) → exec .vinFault s = .next s) := by
  subst hdue
  have hexec (t0 : Nat) (h : s.power.vinLowAt = some t0) :
      exec .vinFault s = .next (if hubPowered s && passed s t0 (100 * usNs) then enterDormant s 3 else s) := by
    refine congrArg Host.Outcome.next ?_
    rw [h]
  have hfault (t0 : Nat) (h : s.power.vinLowAt = some t0) (hdue : hubPowered s = true ∧ passed s t0 (100 * usNs) = true) :
      exec .vinFault s = .next (enterDormant s 3) :=
    (hexec t0 h).trans (congrArg _ (if_pos (Bool.and_eq_true_iff.mpr hdue)))
  refine ⟨hfault, fun t0 h hdue hw => ?_, fun t0 h hdue hw hot => ?_, fun hnone => ?_⟩
  · have hasleep := enterDormant_stays (cause := 3) hw
    exact ⟨_, hfault t0 h hdue, hasleep.state, hasleep.lastStop, hasleep.cores, hasleep.ctxs, hasleep.hbm, hasleep.record⟩
  · obtain ⟨u, hu, hasleep⟩ := enterDormant_asleep s 3
    have hfired : ¬ WakesNone u := fun hn => hw fun k hk => by
      rw [← hasleep.cmps k]
      exact hn k hk
    refine ⟨startBringup u, (hfault t0 h hdue).trans (congrArg _ (hu.trans (wakeFired_dormant u hasleep.state ?_ hfired))), rfl, rfl,
      hasleep.odometer⟩
    rw [hasleep.hot, hot]
  · cases h : s.power.vinLowAt with
    | none =>
      refine congrArg Host.Outcome.next ?_
      rw [h]
    | some t0 => exact (hexec t0 h).trans (congrArg _ (if_neg fun hb => hnone t0 h (Bool.and_eq_true_iff.mp hb)))

theorem exec_thermTripRelease (s : State) : exec .thermTripRelease s = .next
    (if stillHot s.power || s.power.state == .off then s
    else if s.power.heldWake then wakeNow (modPower s (fun x => { x with tripped := false }))
    else modPower s (fun x => { x with tripped := false })) := rfl

/-- The trip is released once nothing is hot, and a held wake goes on. -/
theorem thermTripRelease_settles (s : State) :
     (stillHot s.power = true ∨ s.power.state = .off → exec .thermTripRelease s = .next s) ∧
     (stillHot s.power = false → s.power.state ≠ .off →
       (s.power.heldWake = false → exec .thermTripRelease s = .next (modPower s (fun x => { x with tripped := false }))) ∧
       (s.power.heldWake = true → exec .thermTripRelease s = .next (wakeNow (modPower s (fun x => { x with tripped := false })))) ∧
       (s.power.state = .dormant → s.power.heldWake = true →
         Runs .thermTripRelease s (fun t => t.power.state = .on ∧ t.power.tripped = false ∧ t.power.heldWake = false ∧
           t.boot.phase = 0 ∧ t.boot.bootAt = s.odometer))) := by
  have hexec := exec_thermTripRelease s
  refine ⟨fun h => ?_, fun hot hoff => ?_⟩
  · rwa [if_pos (by simpa using h)] at hexec
  · rw [if_neg (by simp [hot, hoff])] at hexec
    refine ⟨fun hheld => ?_, fun hheld => ?_, fun hdormant hheld => ?_⟩
    · rwa [if_neg (by rw [hheld]; decide)] at hexec
    · rwa [if_pos hheld] at hexec
    · rw [if_pos hheld] at hexec
      exact ⟨_, hexec.trans (congrArg _ (wakeNow_dormant (modPower s fun x => { x with tripped := false }) hdormant)),
        rfl, rfl, rfl, rfl, rfl⟩

/-- A map written out over its keys. -/
theorem look_map_pair {α : Type} (l : List Nat) (f : Nat → α) (d : α) {j : Nat} (hj : j ∈ l) : look (l.map fun k => (k, f k)) j d = f j := by
  induction l with
  | nil => cases hj
  | cons k t ih =>
    by_cases h : k = j
    · simp [look, h]
    · simpa [look, h] using ih ((List.mem_cons.mp hj).resolve_left (Ne.symm h))

/-- Bring-up gives every partition a new key set. -/
theorem startBringup_keys (s : State) (j : Nat) (hj : j < 17) : look (startBringup s).qsc.keyGen j 0 = look s.qsc.keyGen j 0 + 1 :=
  look_map_pair (List.range 17) (fun k => look s.qsc.keyGen k 0 + 1) 0 (List.mem_range.mpr hj)

theorem exec_comparatorFire (k : Fin 8) (s : State) : exec (.comparatorFire k) s = .next
    (if s.power.state != .off && (getCmp s k).en && !(getCmp s k).met && cmpHolds s k then fireCmp s k else s) := rfl

/-- A comparator that fires wakes the module where it has WAKE. -/
theorem comparatorFire_settles (k : Fin 8) (s : State) (c : Comparator) (hc : c = getCmp s k) (fires : Prop)
    (hfires : fires = (s.power.state ≠ .off ∧ c.en = true ∧ c.met = false ∧ cmpHolds s k = true)) :
      (¬ fires → exec (.comparatorFire k) s = .next s) ∧
      (fires → Runs (.comparatorFire k) s (fun t => (getCmp t k).fired = true ∧ (getCmp t k).firedAt = s.odometer ∧ (getCmp t k).met = true ∧
        (getCmp t k).en = true ∧ (∀ j, j ≠ k.val → getCmp t j = getCmp s j) ∧ t.mgmt.alertPend.getLsbD 2 = true ∧
        (c.wake = false ∨ (s.power.state ≠ .dormant ∧ s.power.state ≠ .doze) → t.power.state = s.power.state ∧
          t.power.heldWake = s.power.heldWake) ∧
        (c.wake = true → s.power.state = .dormant → stillHot s.power = false → t.power.state = .on ∧ t.boot.phase = 0) ∧
        (c.wake = true → s.power.state = .doze → stillHot s.power = false →
          t.power.state = .doze ∧ t.power.leaving = some (s.power.leaving.getD .wake)) ∧
        (c.wake = true → s.power.state = .dormant ∨ s.power.state = .doze → stillHot s.power = true →
          t.power.state = s.power.state ∧ t.power.heldWake = true))) := by
  have hexec := exec_comparatorFire k s
  rw [← hc] at hexec
  have hfires' : fires ↔ (s.power.state != .off && c.en && !c.met && cmpHolds s k) = true := by rw [hfires]; simp [and_assoc]
  refine ⟨fun h => ?_, fun h => ⟨_, hexec.trans (congrArg _ (if_pos (hfires'.mp h))), ?_⟩⟩
  · rwa [if_neg fun hb => h (hfires'.mpr hb)] at hexec
  · obtain ⟨hcomps, hmgmt⟩ := fireCmp_shows s k
    have hpower := fired_power s k
    have hcmp (j : Nat) : getCmp (fireCmp s k) j = look (store s.power.comps k { c with fired := true, firedAt := s.odometer, met := true }) j {} := by
      rw [getCmp, hcomps, hpower, hc]
    have hself : getCmp (fireCmp s k) k = { c with fired := true, firedAt := s.odometer, met := true } := (hcmp k).trans (look_store_self ..)
    have hothers (j : Nat) (hj : j ≠ k.val) : getCmp (fireCmp s k) j = getCmp s j := (hcmp j).trans (look_store_of_ne _ _ _ hj)
    rw [hfires] at h
    obtain ⟨-, hen, -⟩ := h
    rw [hself]
    have hstate : (fired s k).power.state = s.power.state := by rw [hpower]
    have hhot : stillHot (fired s k).power = stillHot s.power := by rw [hpower]; rfl
    rw [hmgmt, fireCmp_eq, ← hc]
    refine ⟨rfl, rfl, rfl, hen, fun j hj => ?_, fired_alert s k, fun hstay => ?_, fun hw hd hh => ?_, fun hw hd hh => ?_, fun hw hd hh => ?_⟩
    · rw [← hothers j hj, fireCmp_eq, ← hc]
    · have hsame : (if c.wake then wake (fired s k) else fired s k) = fired s k := by
        split
        · rename_i hw
          obtain hno | ⟨hd, hz⟩ := hstay
          · exact absurd (hno.symm.trans hw) Bool.false_ne_true
          · exact wake_awake _ (hstate ▸ hd) (hstate ▸ hz)
        · rfl
      rw [hsame, hpower]
      exact ⟨rfl, rfl⟩
    · rw [if_pos hw, wake_now _ (.inl (hstate.trans hd)) (hhot.trans hh), wakeNow_dormant _ (hstate.trans hd)]
      exact ⟨rfl, rfl⟩
    · rw [if_pos hw, wake_now _ (.inr (hstate.trans hd)) (hhot.trans hh), wakeNow_doze _ (hstate.trans hd), modPower_power, hpower]
      exact ⟨hd, rfl⟩
    · rw [if_pos hw, wake_held _ (hstate ▸ hd) (hhot.trans hh), modPower_power, hpower]
      exact ⟨rfl, rfl⟩

/-- The module in DOZE, its stacks in self-refresh. -/
theorem dozed (u : State) (hang : Hang) (q : PowReq) (t : State) (ht : t = wakeFired (endPow (modPower
      { (List.range 12).foldl (fun s k => modStack s k (fun x => { x with selfRefresh := true })) u with hang := hang }
      (fun x => { x with state := .doze, entering := none })) q 0 (fun s code => mboxReply s code 0))) :
    t.power.state = .doze ∧ t.power.entering = none ∧ (∀ j, j < 12 → (getStack t j).selfRefresh = true) := by
  have hstacks (j : Nat) (hj : j < 12) := selfRefresh_foldl u true hj
  generalize (List.range 12).foldl (fun s k => modStack s k (fun x => { x with selfRefresh := true })) u = v at ht hstacks
  generalize hw : modPower { v with hang := hang } (fun x => { x with state := .doze, entering := none }) = w at ht
  obtain ⟨hpower, hkept⟩ := endPow_power w q
  obtain ⟨hstate, hentering, hwoken⟩ := wakeFired_doze (endPow w q 0 fun s code => mboxReply s code 0) (by rw [hpower, ← hw]; rfl)
  rw [ht, hstate, hentering, hpower]
  refine ⟨rfl, by rw [← hw]; rfl, fun j hj => ?_⟩
  rw [getStack, hwoken, hkept, ← hw]
  exact hstacks j hj

/-- DOZE is entered once no test or move is under way. -/
theorem dozeEntered_settles (s : State) :
     (∀ q, s.power.entering = some q →
       (s.hide.tests = [] → s.hide.moves = [] → Runs .dozeEntered s (fun t =>
         t.power.state = .doze ∧ t.power.entering = none ∧ (∀ j, j < 12 → (getStack t j).selfRefresh = true))) ∧
       (s.hide.tests ≠ [] ∨ s.hide.moves ≠ [] → exec .dozeEntered s = .next s)) ∧
     (s.power.entering = none → exec .dozeEntered s = .next s) := by
  have hexec (q : PowReq) (h : s.power.entering = some q) : ∃ u hang, exec .dozeEntered s = .next
      (if !s.hide.tests.isEmpty || !s.hide.moves.isEmpty then s else wakeFired (endPow (modPower
        { (List.range 12).foldl (fun s k => modStack s k (fun x => { x with selfRefresh := true })) u with hang := hang }
        (fun x => { x with state := .doze, entering := none })) q 0 (fun s code => mboxReply s code 0))) := by
    refine ⟨(List.range 4).foldl resetFabric s, ?hang, congrArg Host.Outcome.next ?taken⟩
    case taken =>
      split
      · rename_i heq
        cases heq.symm.trans h
      · rename_i heq
        cases heq.symm.trans h
        rfl
  refine ⟨fun q h => ⟨fun htests hmoves => ?_, fun hbusy => ?_⟩, fun h => ?_⟩
  · obtain ⟨u, hang, heq⟩ := hexec q h
    exact ⟨_, heq.trans (congrArg _ (if_neg (by simp [htests, hmoves]))), dozed u hang q _ rfl⟩
  · obtain ⟨u, hang, heq⟩ := hexec q h
    exact heq.trans (congrArg _ (if_pos (by simpa [Decidable.imp_iff_not_or] using hbusy)))
  · refine congrArg Host.Outcome.next ?_
    rw [h]

/-- DOZE is left, and every stack's self-refresh. -/
theorem dozeExitDone_settles (s : State) :
     (∀ q, s.power.leaving = some q → Runs .dozeExitDone s (fun t =>
       t.power.state = .on ∧ t.power.leaving = none ∧ (∀ j, j < 12 → (getStack t j).selfRefresh = false))) ∧
     (s.power.leaving = none → exec .dozeExitDone s = .next s) := by
  have hexec (q : PowReq) (h : s.power.leaving = some q) : ∃ hang, exec .dozeExitDone s = .next (endPow (modPower
      { (List.range 12).foldl (fun s k => modStack s k (fun x => { x with selfRefresh := false })) s with hang := hang }
      (fun x => { x with state := .on, leaving := none })) q 0 (fun s code => mboxReply s code 0)) := by
    refine ⟨?hang, congrArg Host.Outcome.next ?taken⟩
    case taken =>
      split
      · rename_i heq
        cases heq.symm.trans h
      · rename_i heq
        cases heq.symm.trans h
        rfl
  refine ⟨fun q h => ?_, fun h => ?_⟩
  · obtain ⟨hang, heq⟩ := hexec q h
    have hstacks (j : Nat) (hj : j < 12) := selfRefresh_foldl s false hj
    generalize (List.range 12).foldl (fun s k => modStack s k (fun x => { x with selfRefresh := false })) s = v at heq hstacks
    obtain ⟨hpower, hkept⟩ := endPow_power (modPower { v with hang := hang } (fun x => { x with state := .on, leaving := none })) q
    refine ⟨_, heq, ?_, ?_, fun j hj => ?_⟩
    · rw [hpower]
      rfl
    · rw [hpower]
      rfl
    · rw [getStack, hkept]
      exact hstacks j hj
  · refine congrArg Host.Outcome.next ?_
    rw [h]

/-- Settles O57: the readings' fold, the loss of power that keeps the comparators, and each wake by the state it finds. -/
theorem powerStates : Obligations.PowerStates := by
  unfold Obligations.PowerStates
  refine ⟨fun junction hub hbmStacks s => ⟨fun h => ?_, fun h => ?_, thermalTrip_settles s _ rfl _ rfl, vinFault_settles s _ rfl,
      thermTripRelease_settles s⟩,
    fun k s => ⟨⟨_, rfl, rfl, rfl, rfl, rfl, rfl, rfl, rfl⟩, fun h => ?_, fun h => ?_, comparatorFire_settles k s _ rfl _ rfl, ?_⟩⟩
  · exact congrArg Host.Outcome.next (if_pos (beq_iff_eq.mpr h))
  · obtain ⟨comps, hwatch⟩ := cmpWatch_eq (readSensors s junction hub hbmStacks)
    have htakes := readSensors_takes s junction hub hbmStacks _ rfl
    refine ⟨_, (exec_sensorRead h junction hub hbmStacks).trans (congrArg _ hwatch), ?_⟩
    generalize readSensors s junction hub hbmStacks = u at htakes
    exact htakes
  · exact ⟨_, congrArg Host.Outcome.next (if_pos (beq_iff_eq.mpr h)), rfl, rfl, rfl, rfl, rfl, rfl,
      fun j hj => startBringup_keys { s with odometer := 0 } j hj⟩
  · exact congrArg Host.Outcome.next (if_neg fun hb => h (beq_iff_eq.mp hb))
  · obtain ⟨henter, hstay⟩ := dozeEntered_settles s
    exact ⟨henter, hstay, dozeExitDone_settles s⟩

end Sys2Proof.Machine
end

section
/-!
PROOFS. The phases of bring-up up to training (R412 to R415, R421, R430, R431).
-/
namespace Sys2Proof.Machine

section BringUp
variable (s : State)

/-! ### POWER -/

/-- The begin of a drain leaves the time, and the phase's start or sets it to now. -/
theorem endBootDrained_boot : (endBootDrained s).boot = { s.boot with phase := 7, phaseAt := s.odometer } :=
  causesPart (chipNotice_causes ..) (·.boot) fun _ => rfl

theorem beginDrain_boot (cause pg code : Nat) :
    (beginDrain s cause pg code).boot = s.boot ∨ (beginDrain s cause pg code).boot = { s.boot with phase := 7, phaseAt := s.odometer } := by
  unfold beginDrain
  split
  · exact .inl rfl
  · dsimp only
    generalize hu : recordStep _ 9 code 0 0 = u
    have hub : (u.boot, u.odometer) = (s.boot, s.odometer) := by
      rw [← hu]
      rfl
    simp only [Prod.mk.injEq] at hub
    have hraise : Causes u (raise u pgAtlas 3) := raise_causes ..
    have hboot : (raise u pgAtlas 3).boot = s.boot := (causesPart hraise (·.boot) fun _ => rfl).trans hub.1
    have hodo : (raise u pgAtlas 3).odometer = s.odometer := (causesPart hraise (·.odometer) fun _ => rfl).trans hub.2
    split
    · exact .inl (((stopWork_halts _ _).get (·.boot) fun _ => rfl).trans hboot)
    · split
      · right
        rw [endBootDrained_boot, hboot, hodo]
      · exact .inl hboot

/-- The non-volatile record once POWER has applied its pending transition. -/
theorem applyLifecycle_record : (applyLifecycle s).record.pending = false ∧
    (applyLifecycle s).record.lcState = (if s.record.pending then s.record.pendingState else s.record.lcState) ∧
    (applyLifecycle s).record.identity =
      (if s.record.pending = true ∧ s.record.pendingState = 1 then s.record.identity + 1 else s.record.identity) ∧
    (applyLifecycle s).record.replace = s.record.replace := by
  unfold applyLifecycle modRecord
  dsimp only
  cases hp : s.record.pending with
  | false => exact ⟨hp, rfl, rfl, rfl⟩
  | true =>
    by_cases h1 : s.record.pendingState = 1
    · simp [h1]
    · simp [h1]

/-- A REPLACE that POWER finds begins a drain of free names. -/
theorem drainRecorded_begins (h : s.record.replace = true) :
    ∃ n cause pg code, drainRecorded s = beginDrain { s with fresh := n } cause pg code := by
  unfold drainRecorded
  rw [h]
  exact ⟨_, _, _, _, rfl⟩

/-- What the drain of a REPLACE that POWER finds changes. -/
theorem drainRecorded_notes : (drainRecorded s).odometer = s.odometer ∧
    ((drainRecorded s).boot.phaseAt = s.boot.phaseAt ∨ (drainRecorded s).boot.phaseAt = s.odometer) ∧
    (∃ replace c, (drainRecorded s).record = { s.record with replace := replace, cause := c }) ∧
    (drainRecorded s).hide.draining = (s.hide.draining || s.record.replace) := by
  cases hr : s.record.replace with
  | false =>
    rw [show drainRecorded s = s from if_pos (by rw [hr]; rfl)]
    exact ⟨rfl, .inl rfl, ⟨_, _, rfl⟩, (Bool.or_false _).symm⟩
  | true =>
    obtain ⟨n, cause, pg, code, heq⟩ := drainRecorded_begins s hr
    obtain ⟨hdraining, hrecord⟩ := beginDrain_notes { s with fresh := n } cause pg code
    rw [heq]
    refine ⟨(beginDrain_drains { s with fresh := n } cause pg code).get (·.odometer) fun _ => rfl, ?_, hrecord,
      hdraining.trans (Bool.or_true _).symm⟩
    obtain hboot | hboot := beginDrain_boot { s with fresh := n } cause pg code
    · exact .inl (congrArg Boot.phaseAt hboot)
    · exact .inr (congrArg Boot.phaseAt hboot)

/-- POWER ends: the record's transition is applied, and the rails came up within the phase. -/
theorem endPower_ends (t : State) (ht : t = endPower s) :
    t.boot.phase = 1 ∧ t.boot.phaseAt = s.odometer ∧ t.boot.railsAt ≤ s.odometer ∧
    (s.boot.phaseAt ≤ s.odometer → s.boot.phaseAt ≤ t.boot.railsAt) ∧ t.record.pending = false ∧
    t.record.lcState = (if s.record.pending then s.record.pendingState else s.record.lcState) ∧
    t.record.identity = (if s.record.pending = true ∧ s.record.pendingState = 1 then s.record.identity + 1 else s.record.identity) ∧
    t.hide.draining = (s.hide.draining || s.record.replace) := by
  obtain ⟨hpending, hlc, hid, hreplace⟩ := applyLifecycle_record s
  obtain ⟨hodo, hphase, ⟨replace, c, hrecord⟩, hdraining⟩ := drainRecorded_notes (applyLifecycle s)
  have hkept : (applyLifecycle s).odometer = s.odometer ∧ (applyLifecycle s).boot = s.boot ∧ (applyLifecycle s).hide = s.hide := ⟨rfl, rfl, rfl⟩
  rw [hkept.1, hkept.2.1] at hphase
  rw [hkept.1] at hodo
  rw [hkept.2.2, hreplace] at hdraining
  unfold endPower at ht
  generalize drainRecorded (applyLifecycle s) = u at ht hodo hphase hrecord hdraining
  have hboot : t.boot.phase = 1 ∧ t.boot.phaseAt = u.odometer ∧
      t.boot.railsAt = u.odometer - (freshNat u).1 % (u.odometer - u.boot.phaseAt + 1) := by
    rw [ht]
    exact ⟨rfl, rfl, rfl⟩
  have hrest : t.record = u.record ∧ t.hide = u.hide := by
    rw [ht]
    exact ⟨rfl, rfl⟩
  obtain ⟨hphase1, hat_, hrails⟩ := hboot
  have hmod := Nat.mod_lt (freshNat u).1 (Nat.succ_pos (u.odometer - u.boot.phaseAt))
  rw [hrest.1, hrest.2, hrecord, hrails, hodo]
  rw [hodo] at hmod hat_
  refine ⟨hphase1, hat_, Nat.sub_le .., fun h => ?_, hpending, hlc, hid, hdraining⟩
  generalize (freshNat u).1 % (s.odometer - u.boot.phaseAt + 1) = m at hmod
  omega

/-! ### IDENTITY and training -/

/-- Bring-up stops in IDENTITY with the unit that failed. -/
def identityFails (s : State) (slot unit : Nat) : State := toPhase (bootFail (modBoot s (fun b => { b with straps := slot })) .checkFailed unit) 8

/-- The module has passed IDENTITY. -/
def identified (s : State) (slot : Nat) : State :=
  modBoot (toPhase (modBoot s (fun b => { b with straps := slot })) 2) (fun b => { b with trainAt := s.odometer })

theorem exec_identityCheck (straps steppings : List Nat) (fuses : List FuseRecord) (slot : BitVec 6) :
    exec (.identityCheck straps fuses steppings slot) s = .next
      (if s.power.state != .on || s.boot.phase != 1 then s
      else if !(straps.length == 4 && (List.range 4).all (fun k => straps.contains k)) || !fusesOk s fuses then
        identityFails s slot.toNat 1
      else if !sameStepping steppings then identityFails s slot.toNat 2
      else trainPorts (identified s slot.toNat)) := rfl

theorem trainPorts_boot : (trainPorts s).boot = s.boot := by
  refine Same.foldl (view := (·.boot)) (fun t p _ => ?_) s
  exact .ite rfl (.refl t)

end BringUp

/-- Identity passes to training, or stops bring-up with the first check that fails. -/
theorem identityCheck_settles (straps steppings : List Nat) (fuses : List FuseRecord) (slot : BitVec 6) (s : State) :
     (s.power.state ≠ .on ∨ s.boot.phase ≠ 1 → exec (.identityCheck straps fuses steppings slot) s = .next s) ∧
     (s.power.state = .on → s.boot.phase = 1 → Runs (.identityCheck straps fuses steppings slot) s (fun t =>
       t.boot.straps = slot.toNat ∧ t.boot.phaseAt = s.odometer ∧
       ((straps.length = 4 ∧ (∀ j, j < 4 → j ∈ straps)) → fusesOk s fuses = true → sameStepping steppings = true →
         t.boot.phase = 2 ∧ t.boot.trainAt = s.odometer ∧ t.boot.code = s.boot.code ∧
         t = trainPorts { s with boot := t.boot }) ∧
       (¬(straps.length = 4 ∧ (∀ j, j < 4 → j ∈ straps)) ∨ fusesOk s fuses = false →
         t.boot.phase = 8 ∧ t.boot.code = Code.checkFailed.num ∧ t.boot.failUnit = 1) ∧
       ((straps.length = 4 ∧ (∀ j, j < 4 → j ∈ straps)) → fusesOk s fuses = true → sameStepping steppings = false →
         t.boot.phase = 8 ∧ t.boot.code = Code.checkFailed.num ∧ t.boot.failUnit = 2))) := by
  have hexec := exec_identityCheck s straps steppings fuses slot
  generalize hp : (straps.length == 4 && (List.range 4).all (fun k => straps.contains k)) = placed at hexec
  have hplaced : (straps.length = 4 ∧ ∀ j, j < 4 → j ∈ straps) ↔ placed = true := by
    rw [← hp]
    simp
  rw [hplaced]
  refine ⟨fun h => ?_, fun hon h1 => ?_⟩
  · rwa [if_pos (by simpa [Decidable.imp_iff_not_or] using h)] at hexec
  · rw [if_neg (by simp [hon, h1])] at hexec
    by_cases hfail : (!placed || !fusesOk s fuses) = true
    · rw [if_pos hfail] at hexec
      have hnot : ¬ (placed = true ∧ fusesOk s fuses = true) := by
        rintro ⟨h, hf⟩
        simp [h, hf] at hfail
      exact ⟨_, hexec, rfl, rfl, fun h hf _ => absurd ⟨h, hf⟩ hnot, fun _ => ⟨rfl, rfl, rfl⟩, fun h hf _ => absurd ⟨h, hf⟩ hnot⟩
    · rw [if_neg hfail] at hexec
      have hok : placed = true ∧ fusesOk s fuses = true := by simpa using hfail
      have hnot : ¬ (¬ placed = true ∨ fusesOk s fuses = false) := fun h => h.elim (· hok.1) fun hf => Bool.false_ne_true (hf.symm.trans hok.2)
      cases hs : sameStepping steppings with
      | false =>
        rw [hs] at hexec
        exact ⟨_, hexec, rfl, rfl, fun _ _ h => absurd h Bool.false_ne_true, fun h => absurd h hnot, fun _ _ _ => ⟨rfl, rfl, rfl⟩⟩
      | true =>
        rw [hs] at hexec
        have hboot := trainPorts_boot (identified s slot.toNat)
        refine ⟨trainPorts (identified s slot.toNat), hexec, congrArg Boot.straps hboot, congrArg Boot.phaseAt hboot,
          fun _ _ _ => ⟨congrArg Boot.phase hboot, congrArg Boot.trainAt hboot, (congrArg Boot.code hboot :), ?_⟩, fun h => absurd h hnot,
          fun _ _ h => absurd h.symm Bool.false_ne_true⟩
        rw [hboot]
        rfl

/-- A bridge is tested once; one below its floor ends bring-up drained. -/
theorem bridgeTestDone_settles (die : DieId) (bridge : Fin 3) (data spare : List Nat) (s : State) :
     (training s = false ∨ s.boot.bridgesDone.contains (bridgeOf die bridge) = true →
       exec (.bridgeTestDone die bridge data spare) s = .next s) ∧
     (training s = true → s.boot.bridgesDone.contains (bridgeOf die bridge) = false →
       (let x := testedBridge (if bridge.val = 2 then 4 else 20) data spare (getBridge s (bridgeOf die bridge))
        let s1 := modBoot (setBridge s (bridgeOf die bridge) { x with lastAt := s.odometer })
          (fun b => { b with bridgesDone := b.bridgesDone ++ [bridgeOf die bridge] })
        (sliceFloor bridge ≤ sliceCount x → exec (.bridgeTestDone die bridge data spare) s = .next s1) ∧
        (sliceCount x < sliceFloor bridge → exec (.bridgeTestDone die bridge data spare) s =
          .next (beginDrain (bootFail s1 .checkFailed 3) causeBridge (pgBridge (bridgeOf die bridge)) Code.checkFailed.num)))) := by
  have hslices : (if bridge.val == 2 then 4 else 20) = (if bridge.val = 2 then 4 else 20) := ite_congr (propext beq_iff_eq) (fun _ => rfl) fun _ => rfl
  refine ⟨fun h => ?_, fun ht hdone => ?_⟩
  · exact congrArg Host.Outcome.next (if_pos (by simpa [Decidable.imp_iff_not_or] using h))
  · rw [← hslices]
    intro x s1
    have hexec : exec (.bridgeTestDone die bridge data spare) s = .next (if sliceCount x < sliceFloor bridge then
        beginDrain (bootFail s1 .checkFailed 3) causeBridge (pgBridge (bridgeOf die bridge)) Code.checkFailed.num else s1) :=
      congrArg Host.Outcome.next (if_neg (by rw [ht, hdone]; decide))
    exact ⟨fun h => hexec.trans (congrArg _ (if_neg (Nat.not_lt.mpr h))), fun h => hexec.trans (congrArg _ (if_pos h))⟩

/-- A stack is trained, or overruns and is lost. -/
theorem stackTraining_settles (stack : StackId) (s : State) :
     (training s = false ∨ (getStack s stack).state ≠ 0 →
       exec (.hbmTrainingDone stack) s = .next s ∧ exec (.stackTrainingOverrun stack) s = .next s) ∧
     (training s = true → (getStack s stack).state = 0 →
       exec (.hbmTrainingDone stack) s = .next (modStack s stack (fun x => { x with state := 1, softPending := [] })) ∧
       (passed s s.boot.trainAt (16 * msNs) = false → exec (.stackTrainingOverrun stack) s = .next s) ∧
       (passed s s.boot.trainAt (16 * msNs) = true → exec (.stackTrainingOverrun stack) s = .next (beginDrain
         (raise (modStack (bootFail s .timedOut 4) stack (fun x => { x with state := 2 })) (pgHbm stack) 4)
         causeStack (pgHbm stack) Code.timedOut.num))) := by
  have hready : (training s && (getStack s stack).state == 0) = true ↔ training s = true ∧ (getStack s stack).state = 0 := by simp
  refine ⟨fun h => ?_, fun ht h0 => ⟨?_, fun hp => ?_, fun hp => ?_⟩⟩
  · have hno : ¬ (training s && (getStack s stack).state == 0) = true := fun hb =>
      h.elim (fun hf => Bool.false_ne_true (hf.symm.trans (hready.mp hb).1)) (· (hready.mp hb).2)
    exact ⟨congrArg Host.Outcome.next (if_neg hno), congrArg Host.Outcome.next (if_neg fun hb => hno (Bool.and_eq_true_iff.mp hb).1)⟩
  · exact congrArg Host.Outcome.next (if_pos (hready.mpr ⟨ht, h0⟩))
  · exact congrArg Host.Outcome.next (if_neg (by rw [hp, Bool.and_false]; decide))
  · exact congrArg Host.Outcome.next (if_pos (by rw [hp, Bool.and_true]; exact hready.mpr ⟨ht, h0⟩))

/-- A register that has been cleared reads its reset value. -/
theorem regOf_clearRegs (s : State) (pg off : Nat) {offs : List Nat} (h : off ∈ offs) :
    regOf (clearRegs s pg offs) pg off = regReset pg off % 2 ^ 32 := by
  have hpage : getPage (clearRegs s pg offs) pg =
      { getPage s pg with regs := (getPage s pg).regs.filter (fun r => !offs.contains r.1) } := getPage_setPage ..
  rw [regOf, hpage, look_absent, BitVec.toNat_ofNat]
  intro e he hoff
  have hkept := (List.mem_filter.mp he).2
  rw [hoff] at hkept
  simp [h] at hkept

/-- The frame map is cleared once. -/
theorem reservedZeroDone_settles (s : State) :
     (training s = false ∨ s.boot.zeroDone = true → exec .reservedZeroDone s = .next s) ∧
     (training s = true → s.boot.zeroDone = false → Runs .reservedZeroDone s (fun t =>
       t.boot.zeroDone = true ∧ (∀ f, frameEntry t f = 0) ∧ ilSplit t = 32 ∧ t.hbm = s.hbm)) := by
  refine ⟨fun h => ?_, fun ht hz => ⟨_, congrArg Host.Outcome.next (if_pos (by rw [ht, hz]; rfl)), rfl, fun _ => rfl, ?_, rfl⟩⟩
  · exact congrArg Host.Outcome.next (if_neg fun hb => by
      obtain ⟨ht, hz⟩ := Bool.and_eq_true_iff.mp hb
      simp [ht] at h
      simp [h] at hz)
  · show fieldOf (regOf (clearRegs { s with fm := {} } fmPage [0x100]) fmPage 0x100) 0 7 = 32
    rw [regOf_clearRegs _ _ _ (List.mem_singleton.mpr rfl)]
    decide

end Sys2Proof.Machine
end

section
/-!
PROOFS. Bring-up from VERIFY to READY, and its overruns (R417 to R421, R425, R426).
-/
namespace Sys2Proof.Machine

/-! ### VERIFY -/

section Verify
variable (s : State)

/-- What a completion leaves of bring-up. -/
theorem completePost_boot (c : Nat) (r : PostRef) (code arg1 : Nat) : (completePost s c r code arg1).boot = s.boot ∧
    (completePost s c r code arg1).hide = s.hide ∧ (completePost s c r code arg1).qsc = s.qsc := by
  have h := completePost_traffic s c r code arg1
  exact ⟨trafficPart h (·.boot) fun _ => rfl, trafficPart h (·.hide) fun _ => rfl, trafficPart h (·.qsc) fun _ => rfl⟩

/-- An image is accepted, and START begins, or bring-up ends drained. -/
theorem acceptImage_accepts (c : Nat) (r : PostRef) (len : Nat) :
    (acceptImage s c r len).boot.verifying = none ∧ (acceptImage s c r len).boot.accepted = true ∧
    (acceptImage s c r len).qsc.fwValid = true ∧
    (acceptImage s c r len).boot.buffer = (if s.hide.draining then [] else s.boot.buffer) ∧
    (s.hide.draining = true → (acceptImage s c r len).boot.image = s.boot.buffer) ∧
    (acceptImage s c r len).boot.phase = (if s.hide.draining then 7 else 4) := by
  unfold acceptImage
  extract_lets version digest qsc boot u v
  have hv := completePost_boot u c r 0 version
  obtain ⟨hboot, hhide, hqsc⟩ := hv
  have hvboot : v.boot.verifying = none ∧ v.boot.accepted = true ∧ v.boot.buffer = s.boot.buffer := by
    rw [show v.boot = u.boot from hboot]
    exact ⟨rfl, rfl, rfl⟩
  have hvalid : v.qsc.fwValid = true := by
    rw [show v.qsc = u.qsc from hqsc]
  have hdraining : v.hide.draining = s.hide.draining := by rw [show v.hide = u.hide from hhide]
  obtain ⟨hverifying, haccepted, hbuffer⟩ := hvboot
  clear_value v
  rw [← hdraining]
  by_cases hd : v.hide.draining = true
  · rw [if_pos hd, if_pos hd, if_pos hd, endBootDrained_boot]
    have hq : (endBootDrained (startControl v)).qsc = v.qsc := causesPart (chipNotice_causes ..) (·.qsc) fun _ => rfl
    rw [hq]
    exact ⟨hverifying, haccepted, hvalid, rfl, fun _ => hbuffer, rfl⟩
  · rw [if_neg hd, if_neg hd, if_neg hd]
    exact ⟨hverifying, haccepted, hvalid, hbuffer, fun h => absurd h hd, rfl⟩

/-- A FW_LOAD that fails is counted, and the buffer stays. -/
theorem loadFail_fails (c : Nat) (r : PostRef) (f : Code) : (loadFail s c r f).boot =
    { s.boot with code := f.num, failUnit := 6, fwFails := sat32 s.boot.fwFails 1 } :=
  (completePost_boot _ c r f.num 0).1

end Verify

/-- The image in VERIFY is accepted or counted as failed. -/
theorem fwVerifyDone_settles (s : State) :
     (s.boot.verifying = none → exec .fwVerifyDone s = .next s) ∧
     (∀ c r len, s.boot.verifying = some (c, r, len) →
       (verifyFail s len = none → exec .fwVerifyDone s = .next (acceptImage s c r len)) ∧
       (∀ f, verifyFail s len = some f →
         exec .fwVerifyDone s = .next (loadFail (modBoot (toPhase s 2) (fun b => { b with verifying := none })) c r f)) ∧
       Runs .fwVerifyDone s (fun t => t.boot.verifying = none ∧
         (verifyFail s len = none → t.boot.accepted = true ∧ t.qsc.fwValid = true ∧
           t.boot.buffer = (if s.hide.draining then [] else s.boot.buffer) ∧ (s.hide.draining = true → t.boot.image = s.boot.buffer) ∧
           t.boot.phase = (if s.hide.draining then 7 else 4)) ∧
         (∀ f, verifyFail s len = some f → t.boot.accepted = s.boot.accepted ∧ t.boot.buffer = s.boot.buffer ∧ t.boot.phase = 2 ∧
           t.boot.fwFails = sat32 s.boot.fwFails 1 ∧ t.boot.code = f.num))) := by
  refine ⟨fun h => ?_, fun c r len h => ?_⟩
  · refine congrArg Host.Outcome.next ?_
    rw [h]
  · have hpass (hf : verifyFail s len = none) : exec .fwVerifyDone s = .next (acceptImage s c r len) := by
      refine congrArg Host.Outcome.next ?_
      rw [h]
      dsimp only
      rw [hf]
    have hfail (f : Code) (hf : verifyFail s len = some f) :
        exec .fwVerifyDone s = .next (loadFail (modBoot (toPhase s 2) (fun b => { b with verifying := none })) c r f) := by
      refine congrArg Host.Outcome.next ?_
      rw [h]
      dsimp only
      rw [hf]
    refine ⟨hpass, hfail, ?_⟩
    cases hf : verifyFail s len with
    | none =>
      obtain ⟨hverifying, haccepted, hvalid, hrest⟩ := acceptImage_accepts s c r len
      exact ⟨_, hpass hf, hverifying, fun _ => ⟨haccepted, hvalid, hrest⟩, nofun⟩
    | some f =>
      refine ⟨_, hfail f hf, ?_, nofun, fun g hg => ?_⟩
      · rw [loadFail_fails]
        rfl
      · cases hg
        rw [loadFail_fails]
        exact ⟨rfl, rfl, rfl, rfl, rfl⟩

/-! ### START -/

/-- START copies the image and starts the five processors. -/
theorem firmwareStart_starts (s : State) (hon : s.power.state = .on) (h4 : s.boot.phase = 4) : Runs .firmwareStart s (fun t =>
    t.boot.phase = 5 ∧ t.boot.startDone = true ∧
       t.boot.image = s.boot.buffer ∧ t.boot.buffer = [] ∧ (∀ n, n ∈ t.boot.fwFailed → siteOk n = true ∧ (getSite s n).role ≠ 0) ∧
       (∀ k, k < 5 → look t.hang.beaten k false = decide (k = 4 ∨ look s.hang.dstate k 0 ≠ 4) ∧ look t.hang.beats k 0 = s.odometer) ∧
       t.sites = s.sites) := by
  refine ⟨_, congrArg Host.Outcome.next (if_neg (by simp [hon, h4])), rfl, rfl, rfl, rfl, fun n hn => ?_, fun k hk => ⟨?_, ?_⟩, rfl⟩
  · have hkept := (List.mem_filter.mp hn).2
    simp only [Bool.and_eq_true, bne_iff_ne] at hkept
    exact hkept
  · refine (look_map_pair (List.range 5) (fun k => k == 4 || look s.hang.dstate k 0 != 4) false (List.mem_range.mpr hk)).trans ?_
    rw [Bool.eq_iff_iff]
    simp
  · exact look_map_pair (List.range 5) (fun _ => s.odometer) 0 (List.mem_range.mpr hk)

/-! ### TEST -/

/-- The results of a bring-up test, in the order of their sites. -/
def testResults (s : State) (results : List SiteTest) : List SiteTest := sortTests ((firmwareFails s ++ results).filter (fun t => siteOk t.site))

/-- The results are applied until a cause ends bring-up. -/
def testApplied (s : State) (l : List SiteTest) : State := l.foldl (fun s t => if s.hide.draining then s else applyTest s t) s

/-- A bring-up test leaves no fault counts. -/
def faultsCleared (s : State) : State := { s with sites := s.sites.map (fun e => (e.1, { e.2 with faults := [] })) }

theorem exec_bringupTestDone (s : State) (results : List SiteTest) : exec (.bringupTestDone results) s = .next
    (if s.power.state != .on || s.boot.phase != 5 || s.boot.testDone then s
    else if (faultsCleared (testApplied s (testResults s results))).hide.draining then faultsCleared (testApplied s (testResults s results))
    else modBoot (faultsCleared (testApplied s (testResults s results)))
      (fun b => { b with testDone := true, testAt := (faultsCleared (testApplied s (testResults s results))).odometer })) := rfl

/-- A site in a map whose records a function of the default's fixed point has changed. -/
theorem look_map_snd {α : Type} (m : SMap α) (k : Nat) (d : α) (f : α → α) (hd : f d = d) :
    look (m.map fun e => (e.1, f e.2)) k d = f (look m k d) := by
  induction m with
  | nil => exact hd.symm
  | cons e m ih =>
    by_cases h : e.1 = k
    · simp [look, h]
    · simpa [look, h] using ih

theorem planSite_faults (n : Nat) : (planSite n).faults = [] := by
  unfold planSite
  dsimp only
  split
  · rfl
  · split <;> rfl

theorem getSite_faultsCleared (s : State) (n : Nat) : getSite (faultsCleared s) n = { getSite s n with faults := [] } := by
  refine look_map_snd s.sites n (planSite n) (fun y => { y with faults := [] }) ?_
  have h := planSite_faults n
  generalize planSite n = y at h
  rw [← h]

theorem bringupTestDone_settles (results : List SiteTest) (s : State) (due : Prop)
    (hdue : due = (s.power.state = .on ∧ s.boot.phase = 5 ∧ s.boot.testDone = false)) (u v : State)
    (hu : u = testApplied s (testResults s results)) (hv : v = faultsCleared u) :
      (¬ due → exec (.bringupTestDone results) s = .next s) ∧
      (due → u.hide.draining = true → exec (.bringupTestDone results) s = .next v) ∧
      (due → u.hide.draining = false → exec (.bringupTestDone results) s =
        .next (modBoot v (fun b => { b with testDone := true, testAt := v.odometer }))) := by
  have hexec := exec_bringupTestDone s results
  rw [← hu, ← hv] at hexec
  have hdue : due ↔ ¬ (s.power.state != .on || s.boot.phase != 5 || s.boot.testDone) = true := by rw [hdue]; simp [and_assoc]
  have hdrain : v.hide = u.hide := by
    rw [hv]
    rfl
  rw [hdrain] at hexec
  refine ⟨fun h => ?_, fun h hd => ?_, fun h hd => ?_⟩
  · rwa [if_pos (Decidable.of_not_not fun hn => h (hdue.mpr hn))] at hexec
  · rwa [if_neg (hdue.mp h), if_pos hd] at hexec
  · rwa [if_neg (hdue.mp h), if_neg (by rw [hd]; decide)] at hexec

/-- A site becomes DEFECTIVE in the bring-up test. -/
def siteGone (s : State) (n : Nat) : State := atlasChange (modSite s n (fun y => { y with role := 0, logical := 0 }))

theorem siteGone_notes (s : State) (n : Nat) : (∀ j, getSite (siteGone s n) j = getSite (modSite s n (fun y => { y with role := 0, logical := 0 })) j) ∧
    (siteGone s n).hide = s.hide := by
  have h : Same siteNotes (modSite s n (fun y => { y with role := 0, logical := 0 })) (siteGone s n) :=
    Same.trans (t := dirtyAtlas (modSite s n (fun y => { y with role := 0, logical := 0 }))) rfl (siteNotes_of_causes (setReg_causes ..))
  exact ⟨fun j => getSite_of_notes h j, congrArg (·.2.1) h⟩

/-- A hard-shoulder site that fails beyond its groups leaves the pool. -/
theorem applyTest_shoulder (s : State) (x : SiteTest) (hother : x.other = true) (hrole : (getSite s x.site).role = 2) :
    applyTest s x = siteGone s x.site := by
  have hnarrowed : narrowed (getSite s x.site) x = none := if_pos (by rw [hother]; rfl)
  unfold applyTest
  extract_lets y gone
  rw [if_neg (by simp [y, hrole, hother]), show narrowed y x = none from hnarrowed]
  exact if_pos (by rw [show y.role = 2 from hrole]; rfl)

/-- A test that no site fails, and one that a hard-shoulder site fails. -/
theorem bringupTestDone_runs (x : SiteTest) (s : State) (hon : s.power.state = .on) (h5 : s.boot.phase = 5)
    (hdone : s.boot.testDone = false) (hd : s.hide.draining = false) (hfw : s.boot.fwFailed = []) :
       Runs (.bringupTestDone []) s (fun t => t.boot.testDone = true ∧ t.boot.testAt = s.odometer ∧
         (∀ n, (getSite t n).faults = [] ∧ (getSite t n).role = (getSite s n).role)) ∧
       (siteOk x.site = true → x.other = true → (getSite s x.site).role = 2 → Runs (.bringupTestDone [x]) s (fun t =>
         t.boot.testDone = true ∧ (getSite t x.site).role = 0 ∧ (∀ n, n ≠ x.site → (getSite t n).role = (getSite s n).role))) := by
  have hnone : firmwareFails s = [] := by rw [firmwareFails, hfw]; rfl
  refine ⟨?_, fun hok hother hrole => ?_⟩
  · have hempty : testApplied s (testResults s []) = s := by rw [testResults, hnone]; rfl
    obtain ⟨-, -, hrun⟩ := bringupTestDone_settles [] s _ rfl _ _ rfl rfl
    rw [hempty] at hrun
    refine ⟨_, hrun ⟨hon, h5, hdone⟩ hd, rfl, rfl, fun n => ?_⟩
    show (getSite (faultsCleared s) n).faults = [] ∧ (getSite (faultsCleared s) n).role = (getSite s n).role
    rw [getSite_faultsCleared]
    exact ⟨rfl, rfl⟩
  · have hone : testResults s [x] = [x] := by
      rw [testResults, hnone, List.nil_append, List.filter_cons_of_pos (p := fun t : SiteTest => siteOk t.site) hok]
      rfl
    have hgone : testApplied s [x] = siteGone s x.site := (if_neg (by rw [hd]; decide)).trans (applyTest_shoulder s x hother hrole)
    obtain ⟨hnotes, hhide⟩ := siteGone_notes s x.site
    obtain ⟨-, -, hrun⟩ := bringupTestDone_settles [x] s _ rfl _ _ rfl rfl
    rw [hone, hgone] at hrun
    refine ⟨_, hrun ⟨hon, h5, hdone⟩ (by rw [hhide]; exact hd), rfl, ?_, fun n hn => ?_⟩
    · show (getSite (faultsCleared (siteGone s x.site)) x.site).role = 0
      rw [getSite_faultsCleared, hnotes, getSite_modSite]
    · show (getSite (faultsCleared (siteGone s x.site)) n).role = (getSite s n).role
      rw [getSite_faultsCleared, hnotes, getSite_modSite_of_ne _ _ _ _ hn]

/-! ### READY -/

/-- A partition's notices, once one that may stand twice has been queued for it. -/
def noticed (n : Notice) (x : Part) : Part :=
  if x.area.isSome then
    if x.queue.length < 1024 then { x with queue := x.queue ++ [n] } else { x with lost := sat32 x.lost 1, lostFlag := true }
  else x

/-- A notice of the chip goes to every partition that has an area. -/
theorem getPart_chipNotice (s : State) {n : Notice} (hn : n.typ ≠ 3) {p : Nat} (hp : p < 16) :
    getPart (chipNotice s n) p = noticed n (getPart s p) := by
  have hstep (s : State) (q : Nat) : (if (getPart s q).area.isSome then queueNotice s q n else s) =
      if (getPart s q).area.isSome then setPart s q (noticed n (getPart s q)) else s := by
    refine ite_congr rfl (fun h => ?_) fun _ => rfl
    unfold queueNotice noticed
    rw [if_pos h]
    dsimp only
    rw [if_neg (by simp [hn])]
    split
    · rfl
    · rfl
  have hfold := foldl_at (f := fun s q => if (getPart s q).area.isSome then queueNotice s q n else s) getPart (fun _ => ())
    (fun _ _ x => noticed n x)
    (fun s q => by
      rw [hstep]
      split
      · exact getPart_setPart ..
      · rename_i h
        exact (if_neg h).symm)
    (fun s q j h => by
      rw [hstep]
      split
      · exact getPart_setPart_of_ne _ _ _ h
      · rfl)
    (fun _ _ => rfl) (List.nodup_range (n := 16)) s p
  rwa [if_pos (List.mem_range.mpr hp)] at hfold

/-- The state once READY is sent, and with it the changed atlas. -/
def readySent (s : State) : State :=
  let s := modBoot (toPhase s 6) (fun b => { b with ready := true, readyAt := s.odometer })
  let s := chipNotice s { typ := 5, odo := BitVec.ofNat 64 s.odometer, arg0 := Config.stepping.toNat }
  let s := if s.record.atlasDirty then chipNotice s { typ := 6, odo := BitVec.ofNat 64 s.odometer, arg0 := 0xFFFF } else s
  modRecord s (fun r => { r with atlasDirty := false })

theorem exec_readySend (s : State) : exec .readySend s = .next (if !readyNow s then s else readySent s) := rfl

/-- READY's mark, and its notice in the queues of the partitions with an area. -/
theorem readySent_ends (s : State) :
    ((readySent s).boot.phase = 6 ∧ (readySent s).boot.ready = true ∧ (readySent s).boot.readyAt = s.odometer) ∧
       (readySent s).record.atlasDirty = false ∧
       (∀ p, p < 16 → s.record.atlasDirty = false → (getPart s p).area ≠ none → (getPart s p).queue.length < 1024 →
         (getPart (readySent s) p).queue =
           (getPart s p).queue ++ [{ typ := 5, odo := BitVec.ofNat 64 s.odometer, arg0 := Config.stepping.toNat }]) := by
  unfold readySent
  extract_lets u v w
  have hv : Causes u v := chipNotice_causes ..
  have hw : Causes v w := .ite (chipNotice_causes ..) (.refl v)
  have hboot : w.boot = u.boot := causesPart (hv.trans hw) (·.boot) fun _ => rfl
  have hdirty : v.record.atlasDirty = s.record.atlasDirty := by
    rw [show v.record = u.record from causesPart hv (·.record) fun _ => rfl]
    rfl
  have hqueue (p : Nat) (hp : p < 16) :
      getPart v p = noticed { typ := 5, odo := BitVec.ofNat 64 u.odometer, arg0 := Config.stepping.toNat } (getPart u p) :=
    getPart_chipNotice u (by show (5 : Nat) ≠ 3; decide) hp
  have hsame (h : v.record.atlasDirty = false) : w = v := if_neg (by rw [h]; decide)
  clear_value w v
  refine ⟨?_, rfl, fun p hp hclean harea hroom => ?_⟩
  · show w.boot.phase = 6 ∧ w.boot.ready = true ∧ w.boot.readyAt = s.odometer
    rw [hboot]
    exact ⟨rfl, rfl, rfl⟩
  · show (getPart w p).queue = _
    rw [hsame (hdirty.trans hclean), hqueue p hp, show getPart u p = getPart s p from rfl, noticed,
      if_pos (Option.isSome_iff_ne_none.mpr harea), if_pos hroom]
    rfl

/-- READY is sent once every condition holds. -/
theorem readySend_settles (s : State) :
     (readyNow s = false → exec .readySend s = .next s) ∧
     (readyNow s = true → Runs .readySend s (fun t => t.boot.phase = 6 ∧ t.boot.ready = true ∧ t.boot.readyAt = s.odometer ∧
       t.record.atlasDirty = false ∧
       (∀ p, p < 16 → s.record.atlasDirty = false → (getPart s p).area ≠ none → (getPart s p).queue.length < 1024 →
         (getPart t p).queue = (getPart s p).queue ++ [{ typ := 5, odo := BitVec.ofNat 64 s.odometer, arg0 := Config.stepping.toNat }]))) := by
  have hexec := exec_readySend s
  refine ⟨fun h => ?_, fun h => ?_⟩
  · rwa [h] at hexec
  · rw [h] at hexec
    obtain ⟨⟨hphase, hready, hat_⟩, hrest⟩ := readySent_ends s
    exact ⟨readySent s, hexec, hphase, hready, hat_, hrest⟩

/-! ### Overruns -/

theorem exec_bringupOverrun (hub : Bool) (die : DieId) (s : State) : exec (.bringupOverrun hub die) s = .next
    (if s.power.state != .on then s
    else if s.boot.phase == 0 && passed s s.boot.phaseAt (8 * msNs) then
      if hub then enterDormant (bootFail s .timedOut 7) 4 else bootDieLost (endPower s) die 7
    else if s.boot.phase == 4 && passed s s.boot.phaseAt (8 * msNs) then bootDieLost s die 6
    else if s.boot.phase == 5 && !s.boot.testDone && passed s s.boot.phaseAt (12 * msNs) then bootDieLost s die 6
    else s) := rfl

/-- A phase that overruns loses the die, or in POWER for the hub everything. -/
theorem bringupOverrun_settles (hub : Bool) (die : DieId) (s : State) (late : Nat → Prop)
    (hlate : late = fun n => passed s s.boot.phaseAt (n * msNs) = true) (overrun : Prop)
    (hover : overrun = (s.power.state = .on ∧ ((s.boot.phase = 0 ∧ late 8) ∨ (s.boot.phase = 4 ∧ late 8) ∨
        (s.boot.phase = 5 ∧ s.boot.testDone = false ∧ late 12)))) :
      (¬ overrun → exec (.bringupOverrun hub die) s = .next s) ∧
      (overrun → s.boot.phase = 0 →
        exec (.bringupOverrun true die) s = .next (enterDormant (bootFail s .timedOut 7) 4) ∧
        (WakesNone s → Runs (.bringupOverrun true die) s (fun t => t.power.state = .dormant ∧ t.power.lastStop = 4 ∧ t.boot.failUnit = 7)) ∧
        exec (.bringupOverrun false die) s = .next (bootDieLost (endPower s) die 7)) ∧
      (overrun → s.boot.phase ≠ 0 → exec (.bringupOverrun hub die) s = .next (bootDieLost s die 6)) := by
  subst hlate hover
  refine ⟨fun h => ?_, fun h h0 => ?_, fun h h0 => ?_⟩
  · refine (exec_bringupOverrun hub die s).trans (congrArg _ ?_)
    by_cases hon : s.power.state = .on
    · have hnone := not_or.mp fun ho => h ⟨hon, ho⟩
      obtain ⟨hp, hrest⟩ := hnone
      obtain ⟨hstart, htest⟩ := not_or.mp hrest
      rw [if_neg (by simp [hon]), if_neg (by simpa using hp), if_neg (by simpa using hstart), if_neg (by simpa [and_assoc] using htest)]
    · exact if_pos (bne_iff_ne.mpr hon)
  · obtain ⟨hon, hphase⟩ := h
    have hlate : passed s s.boot.phaseAt (8 * msNs) = true := by simpa [h0] using hphase
    have hexec (hub : Bool) : exec (.bringupOverrun hub die) s = .next
        (if hub then enterDormant (bootFail s .timedOut 7) 4 else bootDieLost (endPower s) die 7) := by
      refine (exec_bringupOverrun hub die s).trans (congrArg _ ?_)
      rw [if_neg (by simp [hon]), if_pos (by simp [h0, hlate])]
    refine ⟨hexec true, fun hw => ?_, hexec false⟩
    have hasleep := enterDormant_stays (s := bootFail s .timedOut 7) (cause := 4) hw
    exact ⟨_, hexec true, hasleep.state, hasleep.lastStop, hasleep.failUnit⟩
  · obtain ⟨hon, hphase⟩ := h
    refine (exec_bringupOverrun hub die s).trans (congrArg _ ?_)
    rw [if_neg (by simp [hon]), if_neg (by simp [h0])]
    obtain ⟨hp, -⟩ | ⟨h4, hl⟩ | ⟨h5, ht, hl⟩ := hphase
    · exact absurd hp h0
    · exact if_pos (by simp [h4, hl])
    · rw [if_neg (by simp [h5])]
      exact if_pos (by simp [h5, ht, hl])

/-- Settles O58: the phases one by one; what the drain of a REPLACE keeps of the record, and what an accepted image, a bring-up test and
READY leave. -/
theorem bringUp : Obligations.BringUp := by
  unfold Obligations.BringUp
  refine ⟨fun straps steppings fuses slot die bridge data spare stack s => ?_, fun hub die results x s => ?_⟩
  · obtain ⟨hidle, hident⟩ := identityCheck_settles straps steppings fuses slot s
    obtain ⟨hsame, htested⟩ := bridgeTestDone_settles die bridge data spare s
    obtain ⟨htrained, hstack⟩ := stackTraining_settles stack s
    refine ⟨fun h => ?_, fun hon h0 => ⟨_, congrArg Host.Outcome.next (if_pos (by simp [hon, h0])), endPower_ends s _ rfl⟩, hidle, hident,
      hsame, htested, htrained, hstack, reservedZeroDone_settles s⟩
    exact congrArg Host.Outcome.next (if_neg (by simpa [Decidable.imp_iff_not_or] using h))
  · obtain ⟨hnone, hverify⟩ := fwVerifyDone_settles s
    obtain ⟨hwait, hready⟩ := readySend_settles s
    refine ⟨hnone, hverify, fun h => ?_, fun hon h4 => firmwareStart_starts s hon h4,
      bringupTestDone_settles results s _ rfl _ _ rfl rfl, fun hon h5 hdone hd hfw => bringupTestDone_runs x s hon h5 hdone hd hfw, hwait,
      hready, bringupOverrun_settles hub die s _ rfl _ rfl⟩
    exact congrArg Host.Outcome.next (if_pos (by simpa [Decidable.imp_iff_not_or] using h))

end Sys2Proof.Machine
end

section
/-!
PROOFS. Optical, PLL, sensor and input checks (R437, R438).
-/
namespace Sys2Proof.Machine

/-! ### Optical checks -/

theorem exec_opticalCheck (port : PortId) (bias power : BitVec 8) (s : State) : exec (.opticalCheck port bias power) s = .next
    (if !portUp s port then s
    else if !([4, 5, 6].contains (getPort s port).tstate) then setPort s port { getPort s port with
      lowPower := (List.range 8).map (fun i => (i, if power.getLsbD i then look (getPort s port).lowPower i 0 + 1 else 0)),
      txGood := (getPort s port).txGood &&& ~~~bias }
    else if (opticalPort (getPort s port) bias power).txGood == (getPort s port).txGood &&
        (opticalPort (getPort s port) bias power).laneReq == (getPort s port).laneReq then
      setPort s port (opticalPort (getPort s port) bias power)
    else widthChange (setPort s port (opticalPort (getPort s port) bias power)) port) := rfl

/-- A check takes lanes from the transmitter and the receiver, and a trained port changes its width with them. -/
theorem opticalCheck_settles (port : PortId) (bias power : BitVec 8) (s : State) (x : Port) (hx : x = getPort s port)
    (runs : SMap Nat) (hruns : runs = (List.range 8).map (fun i => (i, if power.getLsbD i then look x.lowPower i 0 + 1 else 0)))
    (z : Port) (hz : z = opticalPort x bias power) :
     (portUp s port = false → exec (.opticalCheck port bias power) s = .next s) ∧
     let bound := x.tstate = 4 ∨ x.tstate = 5 ∨ x.tstate = 6
     (portUp s port = true → ¬ bound → exec (.opticalCheck port bias power) s =
         .next (setPort s port { x with lowPower := runs, txGood := x.txGood &&& ~~~bias }) ∧
       Runs (.opticalCheck port bias power) s (fun t =>
         (∀ i, i < 8 → look (getPort t port).lowPower i 0 = (if power.getLsbD i then look x.lowPower i 0 + 1 else 0)) ∧
         (getPort t port).txGood = x.txGood &&& ~~~bias ∧ (getPort t port).laneReq = x.laneReq ∧ (∀ j, j ≠ port.val → getPort t j = getPort s j))) ∧
     (portUp s port = true → bound → z.txGood = x.txGood → z.laneReq = x.laneReq →
       exec (.opticalCheck port bias power) s = .next (setPort s port z)) ∧
     (portUp s port = true → bound → z.txGood ≠ x.txGood ∨ z.laneReq ≠ x.laneReq →
       exec (.opticalCheck port bias power) s = .next (widthChange (setPort s port z) port)) := by
  have hexec := exec_opticalCheck port bias power s
  rw [← hx, ← hruns, ← hz] at hexec
  have hbound : [4, 5, 6].contains x.tstate = true ↔ x.tstate = 4 ∨ x.tstate = 5 ∨ x.tstate = 6 := by simp
  refine ⟨fun h => ?_, fun h hb => ?_, fun h hb htx hlane => ?_, fun h hb hnew => ?_⟩
  · rwa [h] at hexec
  · rw [h, (Bool.not_eq_true _).mp fun hc => hb (hbound.mp hc)] at hexec
    have hexec : exec (.opticalCheck port bias power) s =
      .next (setPort s port { x with lowPower := runs, txGood := x.txGood &&& ~~~bias }) := hexec
    have hport : getPort (setPort s port { x with lowPower := runs, txGood := x.txGood &&& ~~~bias }) port = _ := getPort_setPort ..
    refine ⟨hexec, _, hexec, fun i hi => ?_, ?_, ?_, fun j hj => getPort_setPort_of_ne _ _ _ hj⟩
    · rw [hport, hruns]
      exact look_map_pair (List.range 8) _ 0 (List.mem_range.mpr hi)
    · rw [hport]
    · rw [hport]
  · rw [h, hbound.mpr hb, htx, hlane, beq_self_eq_true, beq_self_eq_true] at hexec
    exact hexec
  · have hchanged : ¬ (z.txGood == x.txGood && z.laneReq == x.laneReq) = true := by simpa [Decidable.imp_iff_not_or] using hnew
    rw [h, hbound.mpr hb, if_neg hchanged] at hexec
    exact hexec

/-! ### PLL checks -/

/-- The dies and BYPASS domains whose PLL fails are reset. -/
def diesLost (s : State) (fabric : BitVec 4) : State :=
  (List.range 4).foldl (fun s d => if fabric.getLsbD d && dieUp s d then startPlain s (.die (Fin.ofNat 4 d)) else s) s
def bypassLost (s : State) (bypass : BitVec 4) : State :=
  (List.range 4).foldl (fun s d => if bypass.getLsbD d then startPlain s (.bypass (Fin.ofNat 4 d)) else s) s

theorem exec_pllCheck (fabric bypass : BitVec 4) (hub : Bool) (s : State) : exec (.pllCheck fabric bypass hub) s = .next
    (let s1 := if s.power.state = .on then diesLost s fabric else s
     let s2 := if hubPowered s = true then bypassLost s1 bypass else s1
     if hub = true then hubReset s2 else s2) := by
  have hdies : (if s.power.state != .on then s else diesLost s fabric) = if s.power.state = .on then diesLost s fabric else s := by
    by_cases h : s.power.state = .on
    · rw [if_pos h, if_neg (by simp [h])]
    · rw [if_neg h, if_pos (bne_iff_ne.mpr h)]
  have hbypass (u : State) : (if !hubPowered s then u else bypassLost u bypass) = if hubPowered s = true then bypassLost u bypass else u := by
    cases hubPowered s <;> rfl
  rw [← hdies]
  dsimp only
  rw [← hbypass]
  rfl

theorem diesLost_none (s : State) : diesLost s 0 = s :=
  foldl_idle fun d _ => if_neg (by simp)

theorem bypassLost_none (s : State) : bypassLost s 0 = s :=
  foldl_idle fun d _ => if_neg (by simp)

theorem getLsbD_one_shift (die : DieId) : ∀ d, d < 4 → ((1#4 <<< die.val).getLsbD d = true ↔ d = die.val) := by
  decide +revert

/-- A fold that finds one die in its mask resets that die. -/
theorem foldl_one (s : State) (die : DieId) (f : State → Nat → State) :
    (List.range 4).foldl (fun s d => if (1#4 <<< die.val).getLsbD d then f s d else s) s = f s die := by
  have hself (u : State) : (if (1#4 <<< die.val).getLsbD die then f u die else u) = f u die :=
    if_pos ((getLsbD_one_shift die die die.isLt).mpr rfl)
  have hother (u : State) (d : Nat) (hd : d ≠ die.val) (hl : d ∈ List.range 4) : (if (1#4 <<< die.val).getLsbD d then f u d else u) = u :=
    if_neg fun h => hd ((getLsbD_one_shift die d (List.mem_range.mp hl)).mp h)
  refine (foldl_only (f := fun s d => if (1#4 <<< die.val).getLsbD d then f s d else s) List.nodup_range (List.mem_range.mpr die.isLt)
    (fun d hd hl => hother s d hd hl) (fun d hd hl => hother _ d hd hl)).trans (hself s)

theorem diesLost_one (s : State) (die : DieId) (h : dieUp s die = true) : diesLost s (1#4 <<< die.val) = startPlain s (.die die) := by
  have hfold := foldl_one s die (fun s d => if dieUp s d then startPlain s (.die (Fin.ofNat 4 d)) else s)
  rw [h, if_pos rfl, Fin.ofNat_val_eq_self] at hfold
  rw [← hfold]
  unfold diesLost
  congr
  funext u d
  cases (1#4 <<< die.val).getLsbD d <;> rfl

theorem bypassLost_one (s : State) (die : DieId) : bypassLost s (1#4 <<< die.val) = startPlain s (.bypass die) := by
  have hfold := foldl_one s die (fun s d => startPlain s (.bypass (Fin.ofNat 4 d)))
  rw [Fin.ofNat_val_eq_self] at hfold
  exact hfold

/-! ### Sensor checks -/

/-- A sensor's run of failed checks after one more check. -/
def nextRun (n : Nat) (bad : Bool) : Nat := if 3 ≤ n then n else if bad then n + 1 else 0

theorem look_runOf (runs : SMap Nat) (k j : Nat) (bad : Bool) :
    look (runOf runs k bad) j 0 = if j = k then nextRun (look runs j 0) bad else look runs j 0 := by
  unfold runOf nextRun
  dsimp only
  by_cases hj : j = k
  · subst hj
    rw [if_pos rfl]
    split
    · rfl
    · split
      · exact look_store_self ..
      · exact look_drop1_self ..
  · rw [if_neg hj]
    split
    · rfl
    · split
      · exact look_store_of_ne _ _ _ hj
      · exact look_drop1_of_ne _ _ hj

/-- Every sensor's run after a check of all of them. -/
theorem look_runs (b : Nat → Bool) {l : List Nat} (hl : l.Nodup) (runs : SMap Nat) (j : Nat) :
    look (l.foldl (fun m k => runOf m k (b k)) runs) j 0 = if j ∈ l then nextRun (look runs j 0) (b j) else look runs j 0 := by
  induction l generalizing runs with
  | nil => rfl
  | cons k t ih =>
    obtain ⟨hk, ht⟩ := List.nodup_cons.mp hl
    rw [List.foldl_cons, ih ht, look_runOf]
    by_cases hj : j = k
    · subst hj
      rw [if_neg hk, if_pos rfl, if_pos (List.mem_cons_self ..)]
    · simp [hj]

/-- The sensors' runs after a check, of the junctions and of the stacks, and the sensors that are newly excluded. -/
def junctionRuns (s : State) (junction : List Nat) : SMap Nat :=
  (List.range 272).foldl (fun m k => runOf m k (junction.contains k)) s.power.sensorRuns
def stackRunsOf (s : State) (hbmStacks : List Nat) : SMap Nat :=
  (List.range 12).foldl (fun m k => runOf m k (hbmStacks.contains k)) s.power.stackRuns
def newlyExcluded (s : State) (junction : List Nat) : List Nat :=
  (List.range 272).filter (fun k => decide (3 ≤ look (junctionRuns s junction) k 0) && !s.power.excluded.contains k)

/-- The state once the sensors' runs are noted. -/
def sensorsNoted (s : State) (junction hbmStacks : List Nat) : State :=
  addEvent (modPower s (fun x => { x with
    sensorRuns := junctionRuns s junction, stackRuns := stackRunsOf s hbmStacks, excluded := x.excluded ++ newlyExcluded s junction }))
    pgQpc (newlyExcluded s junction).length

theorem sensorsNoted_keeps (s : State) (junction hbmStacks : List Nat) :
    (sensorsNoted s junction hbmStacks).power.excluded = s.power.excluded ++ newlyExcluded s junction ∧
    (sensorsNoted s junction hbmStacks).power.sensorRuns = junctionRuns s junction ∧
    (sensorsNoted s junction hbmStacks).power.stackRuns = stackRunsOf s hbmStacks ∧ (sensorsNoted s junction hbmStacks).cores = s.cores ∧
    (∀ j, getStack (sensorsNoted s junction hbmStacks) j = getStack s j) := by
  unfold sensorsNoted
  generalize newlyExcluded s junction = new
  generalize junctionRuns s junction = jr
  generalize stackRunsOf s hbmStacks = sr
  exact ⟨rfl, rfl, rfl, rfl, fun _ => rfl⟩

/-- A stack whose sensor fails runs at half access rate. -/
def halved (sr : SMap Nat) (u : State) : State :=
  (List.range 12).foldl (fun s k => if 3 ≤ look sr k 0 then modStack s k (fun y => { y with halfRate := true }) else s) u

theorem exec_sensorCheck (junction hbmStacks : List Nat) (s : State) : exec (.sensorCheck junction hbmStacks) s = .next
    (if s.power.state != .on then s else halved (stackRunsOf s hbmStacks) (sensorsNoted s junction hbmStacks)) := rfl

theorem halved_rest (sr : SMap Nat) (u : State) : (halved sr u).power = u.power ∧ (halved sr u).pages = u.pages ∧ (halved sr u).cores = u.cores := by
  have h : Same (fun s : State => (s.power, s.pages, s.cores)) u (halved sr u) := by
    refine Same.foldl (fun t k _ => ?_) u
    exact .ite rfl (.refl t)
  simpa only [Same, Prod.mk.injEq] using h

theorem halved_stack (sr : SMap Nat) (u : State) {j : Nat} (hj : j < 12) :
    (getStack (halved sr u) j).halfRate = ((getStack u j).halfRate || decide (3 ≤ look sr j 0)) := by
  have hfold := foldl_at (f := fun s k => if 3 ≤ look sr k 0 then modStack s k (fun y => { y with halfRate := true }) else s)
    getStack (fun _ => ()) (fun _ k y => if 3 ≤ look sr k 0 then { y with halfRate := true } else y)
    (fun t k => by
      split
      · exact getStack_modStack ..
      · rfl)
    (fun t k i h => by
      split
      · exact look_store_of_ne _ _ _ h
      · rfl) (fun _ _ => rfl) (List.nodup_range (n := 12)) u j
  rw [if_pos (List.mem_range.mpr hj)] at hfold
  rw [show getStack (halved sr u) j = _ from hfold]
  by_cases h : 3 ≤ look sr j 0
  · rw [if_pos h, decide_eq_true h, Bool.or_true]
  · rw [if_neg h, decide_eq_false h, Bool.or_false]

/-- A sensor is excluded from its third failed check on. -/
theorem mem_excluded (s : State) (junction : List Nat) {j : Nat} (hj : j < 272) :
    j ∈ s.power.excluded ++ newlyExcluded s junction ↔ j ∈ s.power.excluded ∨ 3 ≤ look (junctionRuns s junction) j 0 := by
  unfold newlyExcluded
  generalize junctionRuns s junction = jr
  simp only [List.mem_append, List.mem_filter, List.mem_range, hj, true_and, Bool.and_eq_true, decide_eq_true_eq, Bool.not_eq_true',
    List.contains_eq_mem, decide_eq_false_iff_not]
  by_cases h : j ∈ s.power.excluded
  · simp [h]
  · simp [h]

/-- A check of the sensors, by their runs. -/
theorem sensorCheck_settles (junction hbmStacks : List Nat) (s : State) (hon : s.power.state = .on) :
    Runs (.sensorCheck junction hbmStacks) s (fun t =>
      (∀ j, j < 272 → (j ∈ t.power.excluded ↔ j ∈ s.power.excluded ∨ 3 ≤ look t.power.sensorRuns j 0)) ∧
      (∀ j, j < 272 → look t.power.sensorRuns j 0 = (let n := look s.power.sensorRuns j 0
        if 3 ≤ n then n else if j ∈ junction then n + 1 else 0)) ∧
      (∀ j, j < 12 → look t.power.stackRuns j 0 = (let n := look s.power.stackRuns j 0
        if 3 ≤ n then n else if j ∈ hbmStacks then n + 1 else 0)) ∧
      (∀ j, j < 12 → (getStack t j).halfRate = ((getStack s j).halfRate || decide (3 ≤ look t.power.stackRuns j 0))) ∧
      t.cores = s.cores) := by
  have hexec := exec_sensorCheck junction hbmStacks s
  rw [if_neg (by simp [hon])] at hexec
  obtain ⟨hpower, -, hcores⟩ := halved_rest (stackRunsOf s hbmStacks) (sensorsNoted s junction hbmStacks)
  obtain ⟨hexcluded, hjr, hsr, hkept, hstacks⟩ := sensorsNoted_keeps s junction hbmStacks
  have hhalved (j : Nat) (hj : j < 12) := halved_stack (stackRunsOf s hbmStacks) (sensorsNoted s junction hbmStacks) hj
  refine ⟨_, hexec, ?_⟩
  dsimp only
  rw [hpower, hcores, hexcluded, hjr, hsr]
  simp only [hstacks] at hhalved
  refine ⟨fun j hj => ?_, fun j hj => ?_, fun j hj => ?_, hhalved, hkept⟩
  · exact mem_excluded s junction hj
  · rw [junctionRuns, look_runs (junction.contains ·) List.nodup_range, if_pos (List.mem_range.mpr hj), nextRun]
    simp only [List.contains_iff_mem]
  · rw [stackRunsOf, look_runs (hbmStacks.contains ·) List.nodup_range, if_pos (List.mem_range.mpr hj), nextRun]
    simp only [List.contains_iff_mem]

/-- Of the sensors that pass but for one in its third failed check, that one is newly excluded. -/
theorem newlyExcluded_third {k : Nat} {s : State} (hk : k < 272) (h2 : look s.power.sensorRuns k 0 = 2) (hin : k ∉ s.power.excluded)
    (hothers : ∀ j, j ≠ k → look s.power.sensorRuns j 0 < 3) : newlyExcluded s [k] = [k] := by
  have hone (j : Nat) (hj : j ∈ List.range 272) :
      (decide (3 ≤ look (junctionRuns s [k]) j 0) && !s.power.excluded.contains j) = (j == k) := by
    rw [junctionRuns, look_runs ([k].contains ·) List.nodup_range, if_pos hj, nextRun]
    by_cases h : j = k
    · subst h
      rw [h2]
      simp [hin]
    · have hlow := hothers j h
      rw [if_neg (by omega), if_neg (by simp [h])]
      simp [h]
  rw [newlyExcluded, List.filter_congr hone, List.filter_beq, List.nodup_range.count, if_pos (List.mem_range.mpr hk)]
  rfl

/-- A junction sensor that fails its third check in a row is excluded, alone. -/
theorem sensorCheck_third (k : Nat) (s : State) (hk : k < 272) (hon : s.power.state = .on) (h2 : look s.power.sensorRuns k 0 = 2)
    (hin : k ∉ s.power.excluded) (hothers : ∀ j, j ≠ k → look s.power.sensorRuns j 0 < 3) : Runs (.sensorCheck [k] []) s (fun t =>
        t.power.excluded = s.power.excluded ++ [k] ∧ (getPage t pgQpc).events = sat32 (getPage s pgQpc).events 1 ∧
        t.cores = s.cores) := by
  have hexec := exec_sensorCheck [k] [] s
  rw [if_neg (by simp [hon])] at hexec
  have hnew := newlyExcluded_third hk h2 hin hothers
  obtain ⟨hpower, hpages, hcores⟩ := halved_rest (stackRunsOf s []) (sensorsNoted s [k] [])
  obtain ⟨hexcluded, -, -, hkept, -⟩ := sensorsNoted_keeps s [k] []
  refine ⟨_, hexec, ?_, ?_, hcores.trans hkept⟩
  · rw [hpower, hexcluded, hnew]
  · rw [getPage, hpages, ← getPage, sensorsNoted, hnew, addEvent, modPage_eq, getPage_setPage]
    rfl

/-! ### The input monitors -/

theorem exec_vinMonitorCheck (a b : Nat) (s : State) : exec (.vinMonitorCheck a b) s = .next
    (if s.power.state == .off then s
    else if !decide (min a b < 50 * (max a b - min a b)) then modPower s (fun x => withEff { x with monitorAt := none, vinUse := none })
    else match s.power.monitorAt with
      | none => modPower s (fun x => { x with monitorAt := some s.odometer })
      | some t =>
        if passed s t msNs then
          addCorrected (modPower s (fun x => withEff { x with monitorAt := some s.odometer, vinUse := some (min a b) })) pgQpc 1
        else modPower s (fun x => withEff { x with vinUse := x.vinUse.map (fun _ => min a b) })) := rfl

theorem vinMonitorCheck_settles (a b : Nat) (s : State) (hoff : s.power.state ≠ .off) :
      (50 * (max a b - min a b) ≤ min a b → exec (.vinMonitorCheck a b) s =
        .next (modPower s (fun x => withEff { x with monitorAt := none, vinUse := none }))) ∧
      (min a b < 50 * (max a b - min a b) → s.power.monitorAt = none →
        exec (.vinMonitorCheck a b) s = .next (modPower s (fun x => { x with monitorAt := some s.odometer }))) ∧
      (∀ t0, min a b < 50 * (max a b - min a b) → s.power.monitorAt = some t0 → passed s t0 msNs = false →
        exec (.vinMonitorCheck a b) s = .next (modPower s (fun x => withEff { x with vinUse := x.vinUse.map (fun _ => min a b) }))) ∧
      (∀ t0, min a b < 50 * (max a b - min a b) → s.power.monitorAt = some t0 → passed s t0 msNs = true →
        Runs (.vinMonitorCheck a b) s (fun t => t.power.vinUse = some (min a b) ∧ t.power.vIn = s.power.vIn ∧ t.power.monitorAt = some s.odometer ∧
          t.power.effCap = effCapOf t.power ∧
          (getPage t pgQpc).errCorrected = sat32 (getPage s pgQpc).errCorrected 1)) := by
  have hexec := exec_vinMonitorCheck a b s
  rw [if_neg (by simp [hoff])] at hexec
  have hsame (h : ¬ min a b < 50 * (max a b - min a b)) : (!decide (min a b < 50 * (max a b - min a b))) = true := by
    rw [decide_eq_false h]
    rfl
  have hdiffer (h : min a b < 50 * (max a b - min a b)) : ¬ (!decide (min a b < 50 * (max a b - min a b))) = true := by
    rw [decide_eq_true h]
    decide
  refine ⟨fun h => ?_, fun h hat_ => ?_, fun t0 h hat_ hp => ?_, fun t0 h hat_ hp => ?_⟩
  · rwa [if_pos (hsame (Nat.not_lt.mpr h))] at hexec
  · rwa [if_neg (hdiffer h), hat_] at hexec
  · rw [if_neg (hdiffer h), hat_] at hexec
    dsimp only at hexec
    rwa [if_neg (by rw [hp]; decide)] at hexec
  · rw [if_neg (hdiffer h), hat_] at hexec
    dsimp only at hexec
    rw [if_pos hp] at hexec
    refine ⟨_, hexec, rfl, rfl, rfl, rfl, ?_⟩
    rw [addCorrected, modPage_eq, getPage_setPage]
    rfl

/-- Settles O59: each check's equation, and the sensors' runs by a fold over their numbers. -/
theorem analogueChecks : Obligations.AnalogueChecks := by
  unfold Obligations.AnalogueChecks
  intro port bias power fabric bypass hub junction hbmStacks die k a b s
  refine ⟨opticalCheck_settles port bias power s _ rfl _ rfl _ rfl, exec_pllCheck fabric bypass hub s, ?_, fun hon hup => ?_, fun hp => ?_, ?_,
    fun h => ?_, fun hon => sensorCheck_settles junction hbmStacks s hon,
    fun hk hon h2 hin hothers => sensorCheck_third k s hk hon h2 hin hothers, fun h => ?_, fun h => vinMonitorCheck_settles a b s h⟩
  · rw [exec_pllCheck, diesLost_none]
    dsimp only
    rw [ite_self, bypassLost_none, ite_self]
    rfl
  · rw [exec_pllCheck, diesLost_one s die hup]
    dsimp only
    rw [if_pos hon, bypassLost_none, ite_self]
    rfl
  · rw [exec_pllCheck, diesLost_none]
    dsimp only
    rw [ite_self, if_pos hp, bypassLost_one]
    rfl
  · rw [exec_pllCheck, diesLost_none]
    dsimp only
    rw [ite_self, bypassLost_none, ite_self]
    rfl
  · exact (exec_sensorCheck junction hbmStacks s).trans (congrArg _ (if_pos (bne_iff_ne.mpr h)))
  · exact (exec_vinMonitorCheck a b s).trans (congrArg _ (if_pos (beq_iff_eq.mpr h)))

end Sys2Proof.Machine
end

section
/-!
PROOFS. The mailbox of the management interface: transfers, requests and their ends (R454 to R457, R459).
-/
namespace Sys2Proof.Machine

/-! ### The end of a request -/

section Replies
variable (s : State)

/-- What the end of a request leaves of the QMC's state. -/
theorem mboxEnd_mgmt (code arg0 arg1 : Nat) : ∃ pend low, (mboxEnd s code arg0 arg1).mgmt = { s.mgmt with
    resp := mboxRecord s code arg0 arg1, respValid := true, busy := false, alertPend := pend, alertLow := low } := by
  unfold mboxEnd alertCause
  dsimp only
  rw [updateAlert_mgmt]
  exact ⟨_, _, rfl⟩

theorem mboxEnd_ends (code arg0 arg1 : Nat) : (mboxEnd s code arg0 arg1).mgmt.resp = mboxRecord s code arg0 arg1 ∧
    (mboxEnd s code arg0 arg1).mgmt.busy = false ∧ (mboxEnd s code arg0 arg1).mgmt.respValid = true := by
  obtain ⟨pend, low, h⟩ := mboxEnd_mgmt s code arg0 arg1
  rw [h]
  exact ⟨rfl, rfl, rfl⟩

theorem mboxEnd_power (code arg0 arg1 : Nat) : (mboxEnd s code arg0 arg1).power = s.power := by
  unfold mboxEnd
  exact alertCause_power ..

theorem mboxReply_ends (code arg1 : Nat) : (mboxReply s code arg1).mgmt.resp = mboxRecord s code (numAt s.mgmt.req 8 8) arg1 ∧
    (mboxReply s code arg1).mgmt.busy = false ∧ (mboxReply s code arg1).mgmt.respValid = true :=
  mboxEnd_ends ..

theorem mboxReply_power (code arg1 : Nat) : (mboxReply s code arg1).power = s.power := mboxEnd_power ..

/-! ### Requests in service -/

/-- A request in service: it waits for its opcode's command, ends with the first check that fails, or is done. -/
def mboxServed (op : Nat) (fails : List (Bool × Code)) (done : State) : State :=
  if !mboxServes s op then s
  else match firstFail fails with
    | some c => mboxReply s c.num 0
    | none => done

section Served
variable {s : State} {op : Nat} {fails : List (Bool × Code)} {done : State}

theorem mboxServed_idle (h : mboxServes s op = false) : mboxServed s op fails done = s := if_pos (by rw [h]; rfl)

theorem mboxServed_fails (h : mboxServes s op = true) {c : Code} (hf : firstFail fails = some c) :
    mboxServed s op fails done = mboxReply s c.num 0 := by
  unfold mboxServed
  rw [h, hf]
  rfl

theorem mboxServed_done (h : mboxServes s op = true) (hf : firstFail fails = none) : mboxServed s op fails done = done := by
  unfold mboxServed
  rw [h, hf]
  rfl

end Served

theorem exec_mboxNop : exec .mboxNop s = .next (mboxServed s 0x00 [mboxReserved s []] (mboxReply s 0 0)) := rfl

theorem exec_mboxCap : exec .mboxCap s = .next (mboxServed s 0x21
    [mboxReserved s [(16, 2)], (capBad (numAt s.mgmt.req 16 2), .badField)]
    (mboxReply (setCap s (numAt s.mgmt.req 16 2)) 0 (capBefore s (numAt s.mgmt.req 16 2)))) := rfl

theorem exec_mboxPowerOff : exec .mboxPowerOff s = .next (if mboxWaits s then s else mboxServed s 0x22
    [mboxReserved s [(16, 1)], (!powTarget (numAt s.mgmt.req 16 1), .badField)]
    (powerOff s (numAt s.mgmt.req 16 1) .mailbox (fun s code => mboxReply s code 0))) := by
  have hexec : exec .mboxPowerOff s = .next (if !mboxServes s 0x22 || mboxWaits s then s else
      match firstFail [mboxReserved s [(16, 1)], (!powTarget (numAt s.mgmt.req 16 1), .badField)] with
      | some c => mboxReply s c.num 0
      | none => powerOff s (numAt s.mgmt.req 16 1) .mailbox (fun s code => mboxReply s code 0)) := rfl
  rw [hexec]
  unfold mboxServed
  cases mboxServes s 0x22 <;> cases mboxWaits s <;> rfl

theorem exec_mboxWake : exec .mboxWake s = .next (mboxServed s 0x31
    [mboxReserved s [], (!((getCmp s 7).en && (getCmp s 7).arg.getLsbD 1), .wrongState)] (fireCmp (mboxReply s 0 0) 7)) := rfl

/-- What a READ does once its fields have passed. -/
def mboxRead (s : State) (pg o n : Nat) : State :=
  match blkOf pg with
  | none => mboxEnd s 0 0 0
  | some b =>
    if (List.range n).any (fun i => mgmtGated s b pg (o + 4 * i)) then mboxReply s Code.fenced.num 0
    else
      let w := mgmtWords s b pg o n
      mboxEnd (mgmtClears (mgmtLatch s b pg o n) pg o n) 0 (nth w 0 + 2 ^ 32 * nth w 1) (nth w 2 + 2 ^ 32 * nth w 3)

/-- The checks of a READ's fields. -/
def mboxReadFails (s : State) (off n : Nat) : List (Bool × Code) :=
  [mboxReserved s [(16, 5)], (off % 4 != 0, .align), (n == 0 || 4 < n || 4096 < off % 4096 + 4 * n || 2 ^ 26 ≤ off, .badField)]

theorem exec_mboxRead : exec .mboxRead s = .next (mboxServed s 0x30 (mboxReadFails s (numAt s.mgmt.req 16 4) (numAt s.mgmt.req 20 1))
    (mboxRead s (numAt s.mgmt.req 16 4 / 4096) (numAt s.mgmt.req 16 4 % 4096) (numAt s.mgmt.req 20 1))) := rfl

theorem exec_mboxWrite (p : List (Bool × Code) × (State → State))
    (hp : (mgmtWrite s (numAt s.mgmt.req 16 4) (numAt s.mgmt.req 20 4)).getD ([(true, .notOwner)], id) = p) :
    exec .mboxWrite s = .next (mboxServed s 0x32
      ([mboxReserved s [(16, 8)], (numAt s.mgmt.req 16 4 % 4 != 0, .align)] ++ p.1) (mboxReply (p.2 s) 0 0)) := by
  obtain ⟨fails, act⟩ := p
  show execMboxWrite s = _
  unfold execMboxWrite
  dsimp only
  rw [hp]
  rfl

/-- A request waits for its own command, and ends with the code of the first check that fails. -/
theorem mboxRequest_fails {i : Instr} {op : Nat} {fails : List (Bool × Code)} {done : State} {c : Code} {waits : Prop}
    (h : exec i s = .next (mboxServed s op fails done)) :
    (mboxServes s op = false → exec i s = .next s) ∧
    (mboxServes s op = true → waits → firstFail fails = some c → exec i s = .next (mboxReply s c.num 0)) :=
  ⟨fun hidle => h.trans (congrArg _ (mboxServed_idle hidle)), fun hserves _ hf => h.trans (congrArg _ (mboxServed_fails hserves hf))⟩

/-- The six requests, by their opcode, command and checks. -/
theorem mboxRequests_fail (c : Code) :
     let r := s.mgmt.req
     let off := numAt r 16 4
     let n := numAt r 20 1
     let v := numAt r 20 4
     ∀ q ∈ [(0x00, Instr.mboxNop, [mboxReserved s []]),
       (0x21, .mboxCap, [mboxReserved s [(16, 2)], (capBad (numAt r 16 2), Code.badField)]),
       (0x22, .mboxPowerOff, [mboxReserved s [(16, 1)], (!powTarget (numAt r 16 1), Code.badField)]),
       (0x30, .mboxRead, [mboxReserved s [(16, 5)], (off % 4 != 0, Code.align),
         (n == 0 || 4 < n || 4096 < off % 4096 + 4 * n || 2 ^ 26 ≤ off, Code.badField)]),
       (0x31, .mboxWake, [mboxReserved s [], (!((getCmp s 7).en && (getCmp s 7).arg.getLsbD 1), Code.wrongState)]),
       (0x32, .mboxWrite, [mboxReserved s [(16, 8)], (off % 4 != 0, Code.align)] ++
         ((mgmtWrite s off v).getD ([(true, .notOwner)], id)).1)],
       (mboxServes s q.1 = false → exec q.2.1 s = .next s) ∧
       (mboxServes s q.1 = true → q.1 ≠ 0x22 ∨ mboxWaits s = false → firstFail q.2.2 = some c →
         exec q.2.1 s = .next (mboxReply s c.num 0)) := by
  intro r off n v
  simp only [List.forall_mem_cons]
  refine ⟨mboxRequest_fails s (exec_mboxNop s), mboxRequest_fails s (exec_mboxCap s), ⟨fun h => ?_, fun h hw hf => ?_⟩,
    mboxRequest_fails s (exec_mboxRead s), mboxRequest_fails s (exec_mboxWake s), mboxRequest_fails s (exec_mboxWrite s _ rfl),
    fun _ h => absurd h (List.not_mem_nil)⟩
  · exact (exec_mboxPowerOff s).trans (congrArg _ ((congrArg _ (mboxServed_idle h)).trans (ite_self s)))
  · have hw : mboxWaits s = false := hw.resolve_left fun hne => hne rfl
    refine (exec_mboxPowerOff s).trans (congrArg _ ?_)
    rw [hw]
    exact mboxServed_fails h hf

/-! ### Transfers (R455) -/

/-- The state once the status word has been read. -/
def statusRead (s : State) (i n : Nat) : State :=
  modMgmt (answerI3c s true (((leBytes 4 (statusWord s.mgmt)).drop (i - 0x60)).take n)) (fun m => { m with respValid := m.respValid && i != 0x60 })

theorem exec_mboxSubmit (data : I3cTransfer) : exec (.mboxSubmit data) s = .next
    (if !mgmtUp s then s
    else if data.err then bump32 (answerI3c s false []) pgQmc 0x070 1
    else if data.target.toNat != mgmtAddr s || !i3cReaches data then answerI3c s false []
    else if data.read == 0 then
      if data.index.toNat == 0 && data.data.length == 64 then submitReq (answerI3c s true []) data.data else answerI3c s true []
    else if data.index.toNat < 0x60 then answerI3c s true (((respBytes s.mgmt).drop (data.index.toNat - 0x40)).take data.read)
    else statusRead s data.index.toNat data.read) := rfl

/-- A whole request is taken, refused while one is in service, or ends at once where its opcode has no command. -/
theorem submitReq_takes (data : List Byte) (s1 : State)
    (hs1 : s1 = { s with mgmt := { (answerI3c s true []).mgmt with req := data, busy := true, busyAt := s.odometer } }) :
    (s.mgmt.busy = true → (submitReq (answerI3c s true []) data).mgmt.rejCode = Code.busy.num ∧
      (submitReq (answerI3c s true []) data).mgmt.req = s.mgmt.req ∧ (submitReq (answerI3c s true []) data).mgmt.resp = s.mgmt.resp ∧
      (submitReq (answerI3c s true []) data).mgmt.acked = true ∧
      regOf (submitReq (answerI3c s true []) data) pgQmc 0x06C = sat32 (regOf s pgQmc 0x06C) 1) ∧
    (s.mgmt.busy = false → mboxOps.contains (postOp data) = true → submitReq (answerI3c s true []) data = s1) ∧
    (s.mgmt.busy = false → mboxOps.contains (postOp data) = false → submitReq (answerI3c s true []) data =
      mboxReply s1 (if (mboxReserved s1 [(16, 48)]).1 = true then Code.reservedSet.num else Code.badField.num) 0) := by
  refine ⟨fun h => ?_, fun h hop => ?_, fun h hop => ?_⟩
  · have heq : submitReq (answerI3c s true []) data =
        bump32 (modMgmt (answerI3c s true []) (fun m => { m with rejCode := Code.busy.num })) pgQmc 0x06C 1 := if_pos h
    rw [heq]
    exact ⟨rfl, rfl, rfl, rfl, regOf_bump32 ..⟩
  · rw [hs1]
    exact (if_neg (by rw [show (answerI3c s true []).mgmt.busy = false from h]; decide)).trans (if_pos hop)
  · rw [hs1]
    exact (if_neg (by rw [show (answerI3c s true []).mgmt.busy = false from h]; decide)).trans (if_neg (by rw [hop]; decide))

/-- A transfer, by what it reaches. -/
theorem mboxSubmit_settles (data : I3cTransfer) (hup : mgmtUp s = true) (i : Nat) (hi : i = data.index.toNat) (reaches whole : Prop)
    (hreaches : reaches = (data.target.toNat = mgmtAddr s ∧ i3cReaches data = true)) (hwhole : whole = (i = 0 ∧ data.data.length = 64))
    (w : List Byte) (hw : w = leBytes 4 (s.mgmt.rejCode * 2 ^ 8 + bit s.mgmt.respValid * 2 + bit s.mgmt.busy)) :
      (data.err = true → exec (.mboxSubmit data) s = .next (bump32 (answerI3c s false []) pgQmc 0x070 1)) ∧
      (data.err = false → ¬ reaches → exec (.mboxSubmit data) s = .next (answerI3c s false [])) ∧
      (data.err = false → reaches → data.read = 0 → whole →
        (s.mgmt.busy = true → Runs (.mboxSubmit data) s (fun t => t.mgmt.rejCode = Code.busy.num ∧ t.mgmt.req = s.mgmt.req ∧
          t.mgmt.resp = s.mgmt.resp ∧ t.mgmt.acked = true ∧ regOf t pgQmc 0x06C = sat32 (regOf s pgQmc 0x06C) 1)) ∧
        (let s1 := ({ s with mgmt := { (answerI3c s true []).mgmt with req := data.data, busy := true, busyAt := s.odometer } } : State)
         (s.mgmt.busy = false → mboxOps.contains (postOp data.data) = true → exec (.mboxSubmit data) s = .next s1) ∧
         (s.mgmt.busy = false → mboxOps.contains (postOp data.data) = false → Runs (.mboxSubmit data) s (fun t =>
           t.mgmt.busy = false ∧ t.mgmt.respValid = true ∧
           t = mboxReply s1 (if (mboxReserved s1 [(16, 48)]).1 = true then Code.reservedSet.num else Code.badField.num) 0)))) ∧
      (data.err = false → reaches → data.read = 0 → ¬ whole → exec (.mboxSubmit data) s = .next (answerI3c s true [])) ∧
      (data.err = false → reaches → data.read ≠ 0 → i < 0x60 →
        exec (.mboxSubmit data) s = .next (answerI3c s true (((respBytes s.mgmt).drop (i - 0x40)).take data.read))) ∧
      (data.err = false → reaches → data.read ≠ 0 → 0x60 ≤ i → Runs (.mboxSubmit data) s (fun t =>
        t.mgmt.out = (w.drop (i - 0x60)).take data.read ∧ t.mgmt.acked = true ∧ t.mgmt.resp = s.mgmt.resp ∧
        t.mgmt.respValid = (s.mgmt.respValid && i != 0x60))) := by
  have hexec := exec_mboxSubmit s data
  rw [if_neg (by rw [hup]; decide), ← hi] at hexec
  generalize hmiss : (data.target.toNat != mgmtAddr s || !i3cReaches data) = miss at hexec
  have hmiss : reaches ↔ miss = false := by rw [hreaches, ← hmiss]; simp
  generalize hall : (i == 0 && data.data.length == 64) = all at hexec
  have hall : whole ↔ all = true := by rw [hwhole, ← hall]; simp
  have hno (h : data.err = false) : ¬ data.err = true := by rw [h]; decide
  have hreach (h : reaches) : ¬ miss = true := by rw [hmiss.mp h]; decide
  refine ⟨fun h => ?_, fun h hr => ?_, fun h hr h0 hwh => ?_, fun h hr h0 hwh => ?_, fun h hr h0 hlow => ?_, fun h hr h0 hhigh => ?_⟩
  · rwa [if_pos h] at hexec
  · rwa [if_neg (hno h), if_pos ((Bool.not_eq_false _).mp fun hf => hr (hmiss.mpr hf))] at hexec
  · rw [if_neg (hno h), if_neg (hreach hr), if_pos (beq_iff_eq.mpr h0), if_pos (hall.mp hwh)] at hexec
    obtain ⟨hbusy, htaken, hended⟩ := submitReq_takes s data.data _ rfl
    refine ⟨fun hb => ⟨_, hexec, hbusy hb⟩, fun hb hop => hexec.trans (congrArg _ (htaken hb hop)), fun hb hop => ⟨_, hexec, ?_, ?_, hended hb hop⟩⟩
    · rw [hended hb hop]
      exact (mboxReply_ends ..).2.1
    · rw [hended hb hop]
      exact (mboxReply_ends ..).2.2
  · rwa [if_neg (hno h), if_neg (hreach hr), if_pos (beq_iff_eq.mpr h0), if_neg fun ha => hwh (hall.mpr ha)] at hexec
  · rwa [if_neg (hno h), if_neg (hreach hr), if_neg fun hb => h0 (beq_iff_eq.mp hb), if_pos hlow] at hexec
  · rw [if_neg (hno h), if_neg (hreach hr), if_neg fun hb => h0 (beq_iff_eq.mp hb), if_neg (Nat.not_lt.mpr hhigh)] at hexec
    exact ⟨_, hexec, by rw [hw]; rfl, rfl, rfl, rfl⟩

/-! ### NOP, CAP, POWER_OFF and WAKE -/

theorem firstFail_reserved {used : List (Nat × Nat)} (h : (mboxReserved s used).1 = false) (l : List (Bool × Code)) :
    firstFail (mboxReserved s used :: l) = firstFail l :=
  firstFail_append_left (l := [mboxReserved s used]) (by simp [h])

theorem firstFail_reserved_only {used : List (Nat × Nat)} (h : (mboxReserved s used).1 = false) : firstFail [mboxReserved s used] = none :=
  firstFail_eq_none (by simp [h])

/-- NOP ends with code 0. -/
theorem mboxNop_ends (hserves : mboxServes s 0x00 = true) (hres : (mboxReserved s []).1 = false) : Runs .mboxNop s (fun t =>
    t.mgmt.resp = mboxRecord s 0 (numAt s.mgmt.req 8 8) 0 ∧ t.mgmt.busy = false ∧ t.mgmt.respValid = true ∧ t.power = s.power) := by
  obtain ⟨hresp, hbusy, hvalid⟩ := mboxReply_ends s 0 0
  exact ⟨_, (exec_mboxNop s).trans (congrArg _ (mboxServed_done hserves (firstFail_reserved_only s hres))), hresp, hbusy, hvalid,
    mboxReply_power ..⟩

theorem setCap_rest (v : Nat) : (setCap s v).mgmt = s.mgmt ∧ (setCap s v).odometer = s.odometer ∧
    (setCap s v).power.cap = if capTied s then min s.power.cap v else v := by
  unfold setCap
  split
  · exact ⟨rfl, rfl, rfl⟩
  · exact ⟨rfl, rfl, rfl⟩

/-- CAP takes the cap; of two in one cycle the lower stands. -/
theorem mboxCap_settles (hserves : mboxServes s 0x21 = true) (hres : (mboxReserved s [(16, 2)]).1 = false) (v : Nat)
    (hv : v = numAt s.mgmt.req 16 2) (hlow : 500 ≤ v) (hhigh : v ≤ 2000) :
    exec .mboxCap s = .next (mboxReply (setCap s v) 0 (capBefore s v)) ∧
    (capTied s = false → Runs .mboxCap s (fun t => t.power.cap = v ∧
      t.mgmt.resp = mboxRecord s 0 (numAt s.mgmt.req 8 8) s.power.cap ∧ t.mgmt.busy = false)) ∧
    (capTied s = true → Runs .mboxCap s (fun t => t.power.cap = min s.power.cap v ∧ t.mgmt.busy = false)) := by
  have hcap : capBad v = false := by
    unfold capBad
    simp only [Bool.or_eq_false_iff, decide_eq_false_iff_not]
    omega
  have hexec := exec_mboxCap s
  rw [← hv, mboxServed_done hserves (by rw [firstFail_reserved s hres, hcap]; rfl)] at hexec
  obtain ⟨hresp, hbusy, -⟩ := mboxReply_ends (setCap s v) 0 (capBefore s v)
  obtain ⟨hmgmt, hodo, hnew⟩ := setCap_rest s v
  refine ⟨hexec, fun ht => ⟨_, hexec, ?_, ?_, hbusy⟩, fun ht => ⟨_, hexec, ?_, hbusy⟩⟩
  · rw [mboxReply_power, hnew, ht]
    rfl
  · rw [hresp, mboxRecord, hmgmt, hodo, capBefore, ht]
    rfl
  · rw [mboxReply_power, hnew, ht]
    rfl

/-- Writing out a partition's notices leaves the power block and the QMC's state. -/
theorem dequeueNotice_power (p : Nat) : Same (fun s => (s.power, s.mgmt)) s (dequeueNotice s p) := by
  unfold dequeueNotice
  extract_lets x
  split
  · split
    · rfl
    · extract_lets mine c credits u size w v
      have hu : Same (fun s => (s.power, s.mgmt)) s u := .ite rfl (.refl s)
      have hv : Same (fun s => (s.power, s.mgmt)) u v := rfl
      refine hu.trans (hv.trans ?_)
      unfold sendMsix
      exact .ite rfl rfl
  · rfl

theorem flushAll_power (p : Nat) : (flushAll s p).power = s.power ∧ (flushAll s p).mgmt = s.mgmt := by
  have h (n : Nat) (t : State) : Same (fun s => (s.power, s.mgmt)) t (flushNotices t p n) := by
    induction n generalizing t with
    | zero => rfl
    | succ n ih => exact (dequeueNotice_power t p).trans (ih _)
  exact ⟨congrArg Prod.fst (h _ s), congrArg Prod.snd (h _ s)⟩

/-- POWER_OFF, by what it leads to. -/
theorem mboxPowerOff_settles (hserves : mboxServes s 0x22 = true) (hw : mboxWaits s = false) (hres : (mboxReserved s [(16, 1)]).1 = false)
    (v : Nat) (hv : v = numAt s.mgmt.req 16 1) (htarget : powTarget v = true) :
        (∀ c, powOut s v = .ends c → exec .mboxPowerOff s = .next (mboxReply s c.num 0)) ∧
        (powOut s v = .wait → exec .mboxPowerOff s = .next s) ∧
        (powOut s v = .doze → exec .mboxPowerOff s = .next (modPower s (fun x => { x with entering := some .mailbox }))) ∧
        (powOut s v = .run → exec .mboxPowerOff s = .next (modPower s (fun x => { x with leaving := some .mailbox }))) ∧
        (powOut s v = .dormant → exec .mboxPowerOff s = .next (enterDormant (flushAll (mboxReply s 0 0) 0) 1)) ∧
        (v = 3 → s.hide.draining = false → WakesNone s → Runs .mboxPowerOff s (fun t =>
          t.power.state = .dormant ∧ t.power.lastStop = 1 ∧ t.cores = [] ∧ t.ctxs = [] ∧ t.mgmt.busy = false)) ∧
        (v = 2 → s.hide.draining = false → s.boot.ready = true → s.power.state = .on →
          s.power.entering = none → s.power.leaving = none →
          (∀ e, e ∈ s.ctxs → e.2.state ≠ .running ∧ e.2.state ≠ .saving) →
          exec .mboxPowerOff s = .next (modPower s (fun x => { x with entering := some .mailbox }))) := by
  have hexec := exec_mboxPowerOff s
  rw [hw, ← hv, mboxServed_done hserves (by rw [firstFail_reserved s hres, htarget]; rfl)] at hexec
  have hexec : exec .mboxPowerOff s = .next (powerOff s v .mailbox fun s code => mboxReply s code 0) := hexec
  have hdoze (h : powOut s v = .doze) : exec .mboxPowerOff s = .next (modPower s (fun x => { x with entering := some .mailbox })) := by
    rw [hexec, powerOff, h]
  have hdormant (h : powOut s v = .dormant) : exec .mboxPowerOff s = .next (enterDormant (flushAll (mboxReply s 0 0) 0) 1) := by
    rw [hexec, powerOff, h]
    rfl
  refine ⟨fun c h => ?_, fun h => ?_, hdoze, fun h => ?_, hdormant, fun h3 hd hn => ?_, fun h2 hd hr hon he hl hc => ?_⟩
  · rw [hexec, powerOff, h]
    rfl
  · rw [hexec, powerOff, h]
  · rw [hexec, powerOff, h]
  · obtain ⟨hpower, hmgmt⟩ := flushAll_power (mboxReply s 0 0) 0
    have hasleep := enterDormant_stays (s := flushAll (mboxReply s 0 0) 0) (cause := 1) fun k hk => by
      rw [getCmp, hpower, mboxReply_power, ← getCmp]
      exact hn k hk
    refine ⟨_, hdormant (by rw [h3]; exact powOut_dormant hd), hasleep.state, hasleep.lastStop, hasleep.cores, hasleep.ctxs, ?_⟩
    rw [hasleep.busy, hmgmt]
    exact (mboxReply_ends ..).2.1
  · exact hdoze (by rw [h2]; exact powOut_doze_on hd hr he hl hon hc)

/-- WAKE fires the comparator that watches for it. -/
theorem mboxWake_settles (hserves : mboxServes s 0x31 = true) (hres : (mboxReserved s []).1 = false) :
       ((getCmp s 7).en = true → (getCmp s 7).arg.getLsbD 1 = true → exec .mboxWake s = .next (fireCmp (mboxReply s 0 0) 7)) ∧
       ((getCmp s 7).en = false ∨ (getCmp s 7).arg.getLsbD 1 = false →
         exec .mboxWake s = .next (mboxReply s Code.wrongState.num 0)) := by
  refine ⟨fun hen harg => ?_, fun hoff => ?_⟩
  · exact (exec_mboxWake s).trans (congrArg _ (mboxServed_done hserves (by rw [firstFail_reserved s hres, hen, harg]; rfl)))
  · have hno : ((getCmp s 7).en && (getCmp s 7).arg.getLsbD 1) = false := by simpa [Decidable.imp_iff_not_or] using hoff
    exact (exec_mboxWake s).trans (congrArg _ (mboxServed_fails hserves (by rw [firstFail_reserved s hres, hno]; rfl)))

/-! ### READ and WRITE (R457, R459) -/

/-- What a READ latches and clears leaves of the QMC's state, the odometer and the power block. -/
theorem readClears_rest (pg a : Nat) : Same (fun s => (s.mgmt, s.odometer, s.power)) s (readClears s pg a) := by
  unfold readClears
  split
  · rfl
  · split
    · exact .ite rfl rfl
    · exact .ite rfl rfl
    · rfl

theorem mgmtRead_rest (b : Blk) (pg o n : Nat) :
    Same (fun s => (s.mgmt, s.odometer, s.power)) s (mgmtClears (mgmtLatch s b pg o n) pg o n) := by
  have hlatch : Same (fun s => (s.mgmt, s.odometer, s.power)) s (mgmtLatch s b pg o n) := .ite rfl rfl
  exact hlatch.trans (.foldl (fun t i _ => readClears_rest t pg (o + 4 * i)) _)

theorem mboxRecord_congr {t : State} (h : Same (fun s => (s.mgmt, s.odometer, s.power)) s t) (code arg0 arg1 : Nat) :
    mboxRecord t code arg0 arg1 = mboxRecord s code arg0 arg1 := by
  have hmgmt : t.mgmt = s.mgmt := congrArg Prod.fst h
  have hodo : t.odometer = s.odometer := congrArg (·.2.1) h
  rw [mboxRecord, mboxRecord, hmgmt, hodo]

/-- READ answers the words of its page. -/
theorem mboxRead_settles (hserves : mboxServes s 0x30 = true) (hres : (mboxReserved s [(16, 5)]).1 = false) (off n : Nat)
    (hoff : off = numAt s.mgmt.req 16 4) (hn : n = numAt s.mgmt.req 20 1) (halign : off % 4 = 0) (h1 : 1 ≤ n) (h4 : n ≤ 4)
    (hpage : off % 4096 + 4 * n ≤ 4096) (hrange : off < 2 ^ 26) :
    (blkOf (off / 4096) = none → exec .mboxRead s = .next (mboxEnd s 0 0 0)) ∧
    (∀ b, blkOf (off / 4096) = some b →
      ((List.range n).any (fun i => mgmtGated s b (off / 4096) (off % 4096 + 4 * i)) = false → Runs .mboxRead s (fun t =>
        (let w := mgmtWords s b (off / 4096) (off % 4096) n
         t = mboxEnd (mgmtClears (mgmtLatch s b (off / 4096) (off % 4096) n) (off / 4096) (off % 4096) n) 0
           (nth w 0 + 2 ^ 32 * nth w 1) (nth w 2 + 2 ^ 32 * nth w 3) ∧
         t.mgmt.resp = mboxRecord s 0 (nth w 0 + 2 ^ 32 * nth w 1) (nth w 2 + 2 ^ 32 * nth w 3)) ∧
        t.mgmt.busy = false ∧ t.mgmt.respValid = true ∧ t.power = s.power)) ∧
      ((List.range n).any (fun i => mgmtGated s b (off / 4096) (off % 4096 + 4 * i)) = true →
        exec .mboxRead s = .next (mboxReply s Code.fenced.num 0))) := by
  have hpass : firstFail (mboxReadFails s off n) = none := by
    refine (firstFail_reserved s hres _).trans (firstFail_eq_none ?_)
    simp only [List.forall_mem_cons, Bool.or_eq_false_iff, beq_eq_false_iff_ne, bne_eq_false_iff_eq, decide_eq_false_iff_not]
    refine ⟨halign, ?_, fun _ h => absurd h (List.not_mem_nil)⟩
    omega
  have hexec := exec_mboxRead s
  rw [← hoff, ← hn, mboxServed_done hserves hpass, mboxRead] at hexec
  refine ⟨fun hnone => ?_, fun b hb => ⟨fun hopen => ?_, fun hgated => ?_⟩⟩
  · rw [hexec, hnone]
  · rw [hb] at hexec
    dsimp only at hexec
    rw [if_neg (by rw [hopen]; decide)] at hexec
    have hrest := mgmtRead_rest s b (off / 4096) (off % 4096) n
    generalize mgmtClears (mgmtLatch s b (off / 4096) (off % 4096) n) (off / 4096) (off % 4096) n = u at hexec hrest
    refine ⟨_, hexec, ⟨rfl, ?_⟩, (mboxEnd_ends ..).2.1, (mboxEnd_ends ..).2.2, ?_⟩
    · rw [(mboxEnd_ends ..).1, mboxRecord_congr s hrest]
    · rw [mboxEnd_power]
      exact (congrArg (·.2.2) hrest :)
  · rw [hexec, hb]
    dsimp only
    rw [if_pos hgated]

theorem exec_mboxReadTimeout : exec .mboxReadTimeout s =
    .next (if mboxServes s 0x30 && passed s s.mgmt.busyAt msNs then mboxReply s Code.timedOut.num 0 else s) := rfl

/-- A READ without an answer ends after 1 ms, and not before. -/
theorem mboxReadTimeout_settles :
    (mboxServes s 0x30 = true → passed s s.mgmt.busyAt msNs = true →
      exec .mboxReadTimeout s = .next (mboxReply s Code.timedOut.num 0)) ∧
    (mboxServes s 0x30 = false ∨ passed s s.mgmt.busyAt msNs = false → exec .mboxReadTimeout s = .next s) := by
  refine ⟨fun hserves hlong => ?_, fun hnot => ?_⟩
  · rw [exec_mboxReadTimeout, hserves, hlong]
    rfl
  · rw [exec_mboxReadTimeout, if_neg]
    rw [Bool.and_eq_true]
    rintro ⟨hserves, hlong⟩
    rcases hnot with h | h
    · exact Bool.false_ne_true (h.symm.trans hserves)
    · exact Bool.false_ne_true (h.symm.trans hlong)

/-- The comparator that the management interface selects. -/
theorem mgmtWrite_select {v : Nat} : mgmtWrite s 0x5080 v =
    some ([(outside v 0x7, .reservedSet)], fun s => modPower s (fun x => { x with cmpSelMgmt := v })) := rfl

/-- WRITE acts at the offsets it accepts. -/
theorem mboxWrite_settles (hserves : mboxServes s 0x32 = true) (hres : (mboxReserved s [(16, 8)]).1 = false) (off v : Nat)
    (hoff : off = numAt s.mgmt.req 16 4) (hv : v = numAt s.mgmt.req 20 4) (halign : off % 4 = 0) :
    (∀ fails act, mgmtWrite s off v = some (fails, act) → firstFail fails = none →
      exec .mboxWrite s = .next (mboxReply (act s) 0 0)) ∧
    (mgmtWrite s off v = none → exec .mboxWrite s = .next (mboxReply s Code.notOwner.num 0)) ∧
    (off = 0x5080 → v ≤ 7 → Runs .mboxWrite s (fun t => t.power.cmpSelMgmt = v ∧ t.power.cmpSel = s.power.cmpSel ∧
      t.mgmt.busy = false)) := by
  have hfront (l : List (Bool × Code)) : firstFail ([mboxReserved s [(16, 8)], (off % 4 != 0, .align)] ++ l) = firstFail l :=
    firstFail_append_left (by simp [hres, halign])
  have hacts (fails : List (Bool × Code)) (act : State → State) (hw : mgmtWrite s off v = some (fails, act))
      (hf : firstFail fails = none) : exec .mboxWrite s = .next (mboxReply (act s) 0 0) := by
    refine (exec_mboxWrite s (fails, act) (by rw [← hoff, ← hv, hw]; rfl)).trans (congrArg _ (mboxServed_done hserves ?_))
    rw [← hoff, hfront, hf]
  refine ⟨hacts, fun hw => ?_, fun h hle => ?_⟩
  · refine (exec_mboxWrite s ([(true, .notOwner)], id) (by rw [← hoff, ← hv, hw]; rfl)).trans
      (congrArg _ (mboxServed_fails hserves ?_))
    rw [← hoff, hfront]
    rfl
  · have hin : outside v 0x7 = false := outside_of_lt (n := 3) (by omega) (by decide)
    refine ⟨_, hacts _ _ (by rw [h]; exact mgmtWrite_select s) (by rw [hin]; rfl), ?_, ?_, (mboxReply_ends ..).2.1⟩
    · rw [mboxReply_power]
      rfl
    · rw [mboxReply_power]
      rfl

/-! ### The target's registers (R454, R455) -/

theorem exec_mgmtStatusRead : exec .mgmtStatusRead s = .next (if !mgmtUp s then s else { s with
    mgmt := { s.mgmt with respValid := false },
    rdata := BitVec.ofNat 32 (s.mgmt.rejCode * 2 ^ 8 + bit s.mgmt.respValid * 2 + bit s.mgmt.busy) }) := rfl

theorem exec_setdasa (addr : BitVec 7) : exec (.setdasa addr) s =
    .next (if mgmtUp s then modMgmt s (fun m => { m with dynAddr := addr.toNat }) else s) := rfl

/-- Without the always-on domain nothing answers. -/
theorem mgmtDown_idle (data : I3cTransfer) (addr : BitVec 7) (hdown : mgmtUp s = false) :
    exec (.mboxSubmit data) s = .next s ∧ exec .mgmtStatusRead s = .next s ∧ exec (.setdasa addr) s = .next s := by
  refine ⟨?_, ?_, ?_⟩
  · rw [exec_mboxSubmit, if_pos (by rw [hdown]; rfl)]
  · rw [exec_mgmtStatusRead, if_pos (by rw [hdown]; rfl)]
  · rw [exec_setdasa, if_neg (by rw [hdown]; decide)]

end Replies

/-- Settles O60: each request of the mailbox is a served request, whose first failing check or whose work is its end. -/
theorem management : Obligations.Management := by
  unfold Obligations.Management
  refine ⟨fun data addr s hdown => mgmtDown_idle s data addr hdown, fun c s => mboxRequests_fail s c,
    fun data s hup => ⟨mboxSubmit_settles s data hup _ rfl _ _ rfl rfl _ rfl, mboxNop_ends s,
      fun hserves hres => mboxCap_settles s hserves hres _ rfl, fun _ hwaits => ?_,
      fun hserves hw hres => mboxPowerOff_settles s hserves hw hres _ rfl, mboxWake_settles s⟩,
    fun addr s hup => ⟨⟨fun hserves hres => mboxRead_settles s hserves hres _ _ rfl rfl, (mboxReadTimeout_settles s).1,
      (mboxReadTimeout_settles s).2, fun hserves hres => mboxWrite_settles s hserves hres _ _ rfl rfl⟩, ?_, ?_⟩⟩
  · rw [exec_mboxPowerOff, if_pos hwaits]
  · rw [exec_mgmtStatusRead, if_neg (by rw [hup]; decide)]
  · rw [exec_setdasa, if_pos hup]
    rfl

end Sys2Proof.Machine
end

section
/-!
PROOFS. The resets and pins of the host interface (chapters 17, 20 and 21).
-/
namespace Sys2Proof.Machine

/-! ### The link (R332, R353) -/

/-- What a cause of the PCIe page changes: its PEND and the notices of partition 0. -/
theorem raise_pcie (s : State) (c : Nat) : raise s pgPcie c = raiseCause s pgPcie c := rfl

/-- The state without pages and partitions. -/
def sansBlocks (s : State) : State := { s with pages := [], parts := [] }

theorem raiseCause_blocks (s : State) (pg c : Nat) : Same sansBlocks s (raiseCause s pg c) := by
  obtain ⟨pages, parts, h⟩ := raiseCause_eq s pg c
  rw [h]
  rfl

theorem regOf_raiseCause (s : State) (pg c pg' off : Nat) : regOf (raiseCause s pg c) pg' off = regOf s pg' off := by
  have hset : regOf (setPage s pg { getPage s pg with pend := (getPage s pg).pend ||| (1#32 <<< c) }) pg' off = regOf s pg' off := by
    by_cases h : pg' = pg
    · subst h
      simp [regOf]
    · simp [regOf, getPage_setPage_of_ne _ _ _ h]
  unfold raiseCause
  dsimp only
  split
  · exact hset
  · rw [regOf, blockNotice_pages]
    exact hset

theorem regOf_addEvent (s : State) (pg n pg' off : Nat) : regOf (addEvent s pg n) pg' off = regOf s pg' off := by
  by_cases h : pg' = pg
  · subst h
    simp [regOf, addEvent, modPage_eq]
  · simp [regOf, addEvent, modPage_eq, getPage_setPage_of_ne _ _ _ h]

/-- The link's registers after a change, with the event and the cause that it gives. -/
def linkChanged (s : State) (up : Bool) (new vfs : Nat) : State :=
  let old := regOf s pgPcie 0x040
  let s := setReg (setReg s pgPcie 0x040 new) pgPcie 0x044 (2 * vfs)
  let moved := fieldOf old 8 16 != fieldOf new 8 16
  let s := if moved then addEvent s pgPcie 1 else s
  if moved || bitOf old 0 != up then raise s pgPcie 0 else s

section LinkChanged
variable (s : State) (up : Bool) (new vfs : Nat)

theorem linkChanged_blocks : Same sansBlocks s (linkChanged s up new vfs) := by
  have hreg : Same sansBlocks s (setReg (setReg s pgPcie 0x040 new) pgPcie 0x044 (2 * vfs)) := rfl
  have hevent (t : State) : Same sansBlocks t (addEvent t pgPcie 1) := rfl
  unfold linkChanged
  extract_lets old t moved u
  have hu : Same sansBlocks s u := hreg.trans (.ite (hevent t) (.refl t))
  exact .ite (hu.trans (raiseCause_blocks ..)) hu

theorem regOf_linkChanged (off : Nat) :
    regOf (linkChanged s up new vfs) pgPcie off = regOf (setReg (setReg s pgPcie 0x040 new) pgPcie 0x044 (2 * vfs)) pgPcie off := by
  unfold linkChanged
  extract_lets old t moved u
  have hu : regOf u pgPcie off = regOf t pgPcie off := by
    show regOf (if moved then addEvent t pgPcie 1 else t) pgPcie off = _
    split
    · exact regOf_addEvent ..
    · rfl
  rw [← hu]
  split
  · exact regOf_raiseCause ..
  · rfl

/-- A masked cause sends no notice. -/
theorem linkChanged_parts (h : (getPage s pgPcie).mask.getLsbD 0 = true) : (linkChanged s up new vfs).parts = s.parts := by
  unfold linkChanged
  extract_lets old t moved u
  have ht : (getPage t pgPcie).mask = (getPage s pgPcie).mask := by simp [t, setReg, modPage_eq]
  have hu : (getPage u pgPcie).mask = (getPage s pgPcie).mask ∧ u.parts = s.parts := by
    show (getPage (if moved then addEvent t pgPcie 1 else t) pgPcie).mask = _ ∧ (if moved then addEvent t pgPcie 1 else t).parts = _
    split
    · exact ⟨by simp [addEvent, modPage_eq, ht], rfl⟩
    · exact ⟨ht, rfl⟩
  split
  · rw [raise_pcie, raiseCause, hu.1, h]
    exact hu.2
  · exact hu.2

end LinkChanged

section Link
variable {flit : Bool} {rate width : BitVec 8} {vfs : BitVec 15} {s : State} (hs : hubPowered s = true) (hu : hubUp s = true)
include hs hu

theorem exec_linkChange_up (hr : s.endpoint.rates.contains rate.toNat = true) (hw : s.endpoint.widths.contains width.toNat = true) :
    exec (.linkChange true true rate width vfs) s =
      .next (linkChanged s true (1 + bit true * 2 + rate.toNat * 2 ^ 8 + width.toNat * 2 ^ 16) vfs.toNat) := by
  show execLinkChange true true rate width vfs s = _
  simp only [execLinkChange, hs, hu, hr, hw, Bool.not_true, Bool.or_self, Bool.and_self, Bool.and_false, Bool.false_eq_true, if_false]
  rfl

theorem exec_linkChange_down : exec (.linkChange false flit rate width vfs) s =
    .next (if bitOf (regOf s pgPcie 0x040) 0 then hubReset (linkChanged s false 0 vfs.toNat) else linkChanged s false 0 vfs.toNat) := by
  show execLinkChange false flit rate width vfs s = _
  simp only [execLinkChange, hs, hu, Bool.not_true, Bool.not_false, Bool.or_self, Bool.false_and, Bool.and_true, Bool.false_eq_true,
    if_false]
  rfl

end Link

/-- The registers of a link that has gone down. -/
theorem regOf_linkChanged_down (s : State) (vfs : BitVec 15) : regOf (linkChanged s false 0 vfs.toNat) pgPcie 0x040 = 0 ∧
    regOf (linkChanged s false 0 vfs.toNat) pgPcie 0x044 = 2 * vfs.toNat := by
  have := vfs.isLt
  rw [regOf_linkChanged, regOf_linkChanged, regOf_setReg_of_ne _ _ _ _ (by decide), regOf_setReg_self, regOf_setReg_self]
  omega

/-! ### PERST# (R404, R422) -/

theorem resetEndpoint_endpoint (s : State) : ∃ pages parts, resetEndpoint s = { s with pages := pages, parts := parts } := by
  unfold resetEndpoint
  exact ⟨_, _, rfl⟩

/-! ### A context that its partition's reset stops -/

/-- The power state that the module is in. -/
def powerMode (s : State) : PState := s.power.state

section PowerMode
variable (s : State)

theorem powerMode_of_traffic {s t : State} (h : Traffic s t) : Same powerMode s t := trafficPart h (·.power.state) fun _ => rfl

theorem powerMode_of_drains {s t : State} (h : Drains s t) : Same powerMode s t := h.get (·.power.state) fun _ => rfl

theorem raise_powerMode (pg c : Nat) : Same powerMode s (raise s pg c) := powerMode_of_traffic (raise_traffic ..)

theorem chipNotice_powerMode (n : Notice) : Same powerMode s (chipNotice s n) :=
  powerMode_of_traffic (traffic_of_causes (chipNotice_causes ..))

theorem beginDrain_powerMode (cause pg code : Nat) : Same powerMode s (beginDrain s cause pg code) :=
  powerMode_of_drains (beginDrain_drains ..)

theorem abandonMoves_powerMode (l : List Nat) : Same powerMode s (abandonMoves s l) := by
  unfold abandonMoves
  extract_lets gone src u
  refine Same.trans (t := u) rfl (Same.foldl (fun t m _ => ?_) u)
  rfl

theorem sharedEvent_powerMode (die : Nat) : Same powerMode s (sharedEvent s die) := by
  unfold sharedEvent
  extract_lets l hide u
  have hu : Same powerMode s u := rfl
  exact .ite (hu.trans (beginDrain_powerMode ..)) hu

theorem makeDefective_powerMode (n : Nat) : Same powerMode s (makeDefective s n) := by
  unfold makeDefective
  extract_lets k u v d l hide put
  have hput (l : List Nat) : Same powerMode s (put l) := rfl
  exact .ite ((hput []).trans (sharedEvent_powerMode ..)) (hput l)

theorem takeSite_powerMode (core n : Nat) : Same powerMode s (takeSite s core n) := by
  unfold takeSite
  extract_lets u v
  exact Same.trans (t := bump32 (dirtyAtlas v) pgAtlas 0x084 1) rfl (raise_powerMode ..)

theorem placeOn_powerMode (core bad n : Nat) : Same powerMode s (placeOn s core bad n) :=
  ((takeSite_powerMode s core n).trans (makeDefective_powerMode ..)).trans (chipNotice_powerMode ..)

theorem markSite_powerMode (n : Nat) : Same powerMode s (markSite s n) := .ite rfl rfl

theorem substituteOn_powerMode (core n : Nat) : Same powerMode s (substituteOn s core n) := by
  unfold substituteOn
  extract_lets bad stays t u
  have ht : Same powerMode s t := .ite rfl rfl
  have hu : Same powerMode s u := ht.trans (takeSite_powerMode ..)
  refine .ite (ht.trans (placeOn_powerMode ..)) (hu.trans ?_)
  exact Same.trans (t := if stays then makeDefective u bad else leaveEmpty u bad) (.ite (makeDefective_powerMode ..) rfl) rfl

theorem substitute_powerMode (core : Nat) : Same powerMode s (substitute s core) := by
  unfold substitute
  refine .ite (.refl s) (.ite (markSite_powerMode ..) ?_)
  split
  · exact beginDrain_powerMode ..
  · exact substituteOn_powerMode ..

theorem leaveSite_powerMode (core : Nat) : Same powerMode s (leaveSite s core) := by
  unfold leaveSite
  split
  · exact .ite (markSite_powerMode ..) (substitute_powerMode ..)
  · exact substitute_powerMode ..

theorem completePreempt_powerMode (c code arg1 : Nat) : Same powerMode s (completePreempt s c code arg1) := by
  unfold completePreempt
  split
  · rfl
  · exact Same.trans (t := modCtx s c _) rfl (powerMode_of_traffic (completePost_traffic ..))

theorem stopCores_powerMode (l : List Nat) : Same powerMode s (stopCores s l) := by
  refine Same.foldl (f := stopCore) (fun t k _ => ?_) s
  unfold stopCore
  dsimp only
  split
  · rfl
  · rfl

theorem enterFaulted_powerMode (c code core : Nat) : Same powerMode s (enterFaulted s c code core) := by
  unfold enterFaulted
  extract_lets x u v w
  have hv : Same powerMode s v := completePreempt_powerMode ..
  have hw : Same powerMode v w :=
    ((abandonMoves_powerMode ..).trans (stopCores_powerMode ..)).trans (powerMode_of_traffic (abortRounds_traffic ..))
  have hcores : Same powerMode w (x.cores.foldl (fun s k => modCore s k faultedCore) w) :=
    Same.foldl (view := powerMode) (f := fun s k => modCore s k faultedCore) (fun _ _ _ => rfl) w
  exact .ite ((hv.trans hw).trans hcores) (.refl s)

theorem keepStandIn_powerMode (core n : Nat) : Same powerMode s (keepStandIn s core n) :=
  .ite (markSite_powerMode ..) (Same.trans (t := unwait s n) rfl (placeOn_powerMode ..))

theorem condemn_powerMode (n : Nat) : Same powerMode s (condemn s n) := by
  unfold condemn
  dsimp only
  refine .ite ((makeDefective_powerMode ..).trans (raise_powerMode ..))
    (.ite (.refl s) (.ite (.refl s) (.ite (keepStandIn_powerMode ..) ?_)))
  split
  · exact substitute_powerMode ..
  · exact (Same.trans (t := noteHw s _ _) rfl (enterFaulted_powerMode ..)).trans (leaveSite_powerMode ..)

theorem clearMark_powerMode (core c : Nat) : Same powerMode s (clearMark s core c) := by
  unfold clearMark
  extract_lets x u
  have hu : Same powerMode s u := rfl
  refine .ite (hu.trans ?_) hu
  exact .ite (Same.trans (t := chargeSite u _) rfl (condemn_powerMode ..)) rfl

theorem dropMarks_powerMode (c : Nat) : Same powerMode s (dropMarks s c) := by
  unfold dropMarks
  extract_lets marked u
  exact Same.trans (t := u) (Same.foldl (fun t k _ => clearMark_powerMode t k c) s) rfl

theorem freeSlots_powerMode (c : Nat) : Same powerMode s (freeSlots s c) := by
  unfold freeSlots
  refine (powerMode_of_traffic (abortRounds_traffic ..)).trans (Same.foldl (fun t d _ => Same.foldl (fun t k _ => ?_) t) _)
  extract_lets u
  have hu : Same powerMode t u := .ite rfl rfl
  exact .ite (hu.trans rfl) hu

theorem clearCtx_powerMode (c : Nat) : Same powerMode s (clearCtx s c) := by
  unfold clearCtx
  extract_lets u v
  have hu : Same powerMode s u := (freeSlots_powerMode s c).trans (dropMarks_powerMode _ c)
  clear_value u
  have hv : Same powerMode u v := rfl
  exact (hu.trans hv).trans rfl

theorem stopForReset_powerMode (c : Nat) : Same powerMode s (stopForReset s c) := by
  unfold stopForReset
  extract_lets x u hide v w
  have hv : Same powerMode s v := Same.trans (t := u) (abandonMoves_powerMode ..) rfl
  have hsettled : Same powerMode v (x.cores.foldl settleReqs v) :=
    Same.foldl (view := powerMode) (f := settleReqs) (fun t k _ => (settleReqs_rest t k).get (·.power.state) fun _ => rfl) v
  have hvacated (t : State) : Same powerMode t (vacate t c) := Same.foldl (view := powerMode) (f := vacateCore) (fun _ _ _ => rfl) t
  have hw : Same powerMode s w := ((hv.trans hsettled).trans (hvacated _)).trans (clearCtx_powerMode ..)
  exact hw.trans (Same.foldl (fun t k _ => .ite (leaveSite_powerMode ..) (.refl t)) w)

end PowerMode

/-! ### What the rest of a function-level reset leaves -/

/-- What the end of a partition's reset leaves: the power state, the contexts, and the notice areas, windows and vector masks. -/
def hostSetup (s : State) : PState × SMap Ctx × (Nat → Option Area × Nat × BitVec 8) :=
  (s.power.state, s.ctxs, fun p => ((getPart s p).area, (getPart s p).base, (getPart s p).vecMask))

section HostSetup
variable (s : State)

theorem setPart_hostSetup (p : Nat) (x : Part)
    (h : (x.area, x.base, x.vecMask) = ((getPart s p).area, (getPart s p).base, (getPart s p).vecMask)) :
    Same hostSetup s (setPart s p x) := by
  refine Prod.ext rfl (Prod.ext rfl (funext fun q => ?_))
  by_cases hq : q = p
  · simp [hostSetup, hq, ← h]
  · simp [hostSetup, getPart_setPart_of_ne _ _ _ hq]

theorem queueNotice_hostSetup (p : Nat) (n : Notice) : Same hostSetup s (queueNotice s p n) :=
  .ite (.refl s) (.ite (setPart_hostSetup _ _ _ rfl) (setPart_hostSetup _ _ _ rfl))

theorem raiseCause_hostSetup (pg c : Nat) : Same hostSetup s (raiseCause s pg c) := by
  unfold raiseCause
  extract_lets x u
  have hu : Same hostSetup s u := rfl
  exact .ite hu (hu.trans (queueNotice_hostSetup ..))

theorem updateAlert_hostSetup : Same hostSetup s (updateAlert s) := by
  unfold updateAlert
  extract_lets d mgmt u
  have hu : Same hostSetup s u := rfl
  exact .ite (hu.trans (raiseCause_hostSetup ..)) hu

theorem raise_hostSetup (pg c : Nat) : Same hostSetup s (raise s pg c) := by
  unfold raise
  extract_lets u
  have hu : Same hostSetup s u := raiseCause_hostSetup ..
  have halert (i : Nat) : Same hostSetup s (alertCause u i) := hu.trans (Same.trans (t := { u with mgmt := _ }) rfl (updateAlert_hostSetup _))
  exact .ite (halert 0) (.ite (halert 1) (.ite (halert 4) (.ite (halert 6) hu)))

theorem traceStop_hostSetup (i code : Nat) : Same hostSetup s (traceStop s i code) := by
  unfold traceStop
  extract_lets t
  exact .ite (.refl s) (Same.trans (t := setTrace s i _) rfl (raise_hostSetup ..))

theorem setOwner_hostSetup (pg : Nat) (o : Option (Nat × Nat)) : Same hostSetup s (setOwner s pg o) := rfl

theorem releaseCmp_hostSetup (k : Nat) : Same hostSetup s (releaseCmp s k) := rfl

theorem releaseTrace_hostSetup (i : Nat) : Same hostSetup s (releaseTrace s i) := rfl

theorem releaseAlert_hostSetup : Same hostSetup s (releaseAlert s) := by
  unfold releaseAlert
  exact (Same.trans (t := { s with mgmt := { s.mgmt with alertEn := false } }) rfl (updateAlert_hostSetup _)).trans
    (setOwner_hostSetup ..)

theorem releaseAll_hostSetup (p : Nat) : Same hostSetup s (releaseAll s p) := by
  unfold releaseAll
  extract_lets u v
  have hu : Same hostSetup s u := Same.foldl (fun t k _ => .ite (releaseCmp_hostSetup t k) (.refl t)) s
  have hv : Same hostSetup u v := by
    refine Same.foldl (fun t i _ => .ite ?_ (.refl t)) u
    have hfresh : Same hostSetup t (noCode t).2 := rfl
    generalize noCode t = q at hfresh
    exact (hfresh.trans (traceStop_hostSetup q.2 i q.1)).trans (releaseTrace_hostSetup ..)
  exact (hu.trans hv).trans (.ite (releaseAlert_hostSetup v) (.refl v))

theorem dropLines_hostSetup (die : Nat) (drop : Nat → Bool) : Same hostSetup s (dropLines s die drop) := rfl

theorem replaceKeys_hostSetup (p : Nat) : Same hostSetup s (replaceKeys s p) := by
  unfold replaceKeys
  extract_lets qsc u
  exact Same.trans (t := u) rfl (Same.foldl (f := fun s d => dropLines s d _) (fun t d _ => dropLines_hostSetup t d _) u)

end HostSetup

/-- A context after its function's reset: no posts, the first sequence number and every credit. -/
def postsReset (x : Ctx) : Ctx :=
  { x with posts := [], expSeq := 0, credits := 32, owed := 0, flushes := [], runPost := none, preemptPost := none }

theorem getCtx_foldl_postsReset {l : List Nat} (hl : l.Nodup) (s : State) {c : Nat} (hc : c ∈ l) :
    getCtx (l.foldl (fun s c => modCtx s c postsReset) s) c = postsReset (getCtx s c) :=
  (foldl_at (f := fun s c => modCtx s c postsReset) getCtx (fun _ => ()) (fun _ _ => postsReset) (fun _ _ => getCtx_setCtx ..)
    (fun _ _ _ h => getCtx_setCtx_of_ne _ _ _ h) (fun _ _ => rfl) hl s c).trans (if_pos hc)

/-- A function-level reset in DOZE, where no core runs: its partition is as at reset, and so are the posts of its contexts. -/
theorem functionReset_doze (s : State) (p : Nat) (hdoze : s.power.state = .doze) (t : State) (ht : t = functionReset s p) :
    (getPart t p).area = none ∧ (getPart t p).base = 0 ∧ (getPart t p).vecMask = 0xFF ∧
    ∀ c, c < 256 → ctxPart s c = p → (getCtx t c).posts = [] ∧ (getCtx t c).expSeq = 0 ∧ (getCtx t c).credits = 32 := by
  unfold functionReset at ht
  extract_lets mine stopped emptied dropped cleared released rekeyed at ht
  have hmine (c : Nat) (hc : c < 256) (hp : ctxPart s c = p) : c ∈ mine :=
    List.mem_filter.mpr ⟨List.mem_range.mpr hc, beq_iff_eq.mpr hp⟩
  have hnodup : mine.Nodup := List.nodup_range.filter _
  have hposts (c : Nat) (hc : c ∈ mine) : getCtx emptied c = postsReset (getCtx stopped c) := getCtx_foldl_postsReset hnodup stopped hc
  have hstop : Same powerMode s stopped := Same.foldl (fun u c _ => stopForReset_powerMode u c) s
  have hempty : Same powerMode stopped emptied :=
    Same.foldl (view := powerMode) (f := fun s c => modCtx s c postsReset) (fun _ _ _ => rfl) stopped
  clear_value mine stopped
  clear_value emptied
  have hmode : emptied.power.state = s.power.state := hstop.trans hempty
  have hdoze : cleared.power.state = .doze := hmode.trans hdoze
  have hrest : Same hostSetup cleared rekeyed :=
    (releaseAll_hostSetup ..).trans (.ite (.refl released) (replaceKeys_hostSetup ..))
  have hctxs : cleared.ctxs = emptied.ctxs := rfl
  have hpart : getPart cleared p = { getPart dropped p with area := none, queue := [], base := 0, vecMask := 0xFF, vecPend := 0 } :=
    getPart_setPart ..
  clear_value rekeyed
  clear_value cleared
  simp only [hostSetup, Same, Prod.mk.injEq] at hrest
  obtain ⟨hstate, hkept, hparts⟩ := hrest
  rw [if_pos (by rw [hstate, hdoze]; decide)] at ht
  have hplace := congrFun hparts p
  rw [hpart] at hplace
  simp only [Prod.mk.injEq] at hplace
  obtain ⟨harea, hbase, hmask⟩ := hplace
  rw [ht]
  refine ⟨harea, hbase, hmask, fun c hc hp => ?_⟩
  have hend : getCtx rekeyed c = postsReset (getCtx stopped c) := by
    rw [← hposts c (hmine c hc hp)]
    unfold getCtx
    rw [hkept, hctxs]
  rw [hend]
  exact ⟨rfl, rfl, rfl⟩

/-- Settles O27: what each reset and each pin of the host interface leaves. -/
theorem hostResets : Obligations.HostResets := by
  refine fun p flit rate width vfs s hs => ⟨?_, fun hdoze => ?_, fun hin => ?_, rfl, fun hr => ?_, fun hr hph => ⟨_, rfl, ?_⟩,
    fun hr h2 h3 => ⟨_, rfl, ?_⟩, fun h => ?_, fun hp hen harg => ?_, fun hu hrate hwidth => ⟨_, exec_linkChange_up hs hu hrate hwidth, ?_⟩,
    ?_, fun hu hup => ?_, fun hu hup => ?_⟩
  · show execFunctionLevelReset p s = _
    rw [execFunctionLevelReset, if_pos hs]
  · have hexec : exec (.functionLevelReset p) s = .next (functionReset s p) := congrArg Host.Outcome.next (if_pos hs)
    exact ⟨_, hexec, functionReset_doze s p hdoze _ rfl⟩
  · show execHotReset s = _
    rw [execHotReset, hubReset, hin, Bool.or_true, if_pos rfl]
  · show execPerstAssert s = _
    simp only [execPerstAssert, hs, hr, Bool.not_true, Bool.false_eq_true, if_false, if_true]
    rfl
  · simp only [hs, hr, Bool.not_true, Bool.false_eq_true, if_false]
    obtain ⟨pages, parts, h⟩ := resetEndpoint_endpoint (modPower s (fun x => { x with perst := true }))
    have hphase : (s.boot.phase == 2 || s.boot.phase == 3) = true := by rcases hph with h | h <;> simp [h]
    rw [h, dropLoad, if_pos (by exact hphase)]
    exact ⟨rfl, rfl, rfl, rfl⟩
  · simp only [hs, hr, Bool.not_true, Bool.false_eq_true, if_false]
    obtain ⟨pages, parts, h⟩ := resetEndpoint_endpoint (modPower s (fun x => { x with perst := true }))
    have hphase : (s.boot.phase == 2 || s.boot.phase == 3) = false := by simp [h2, h3]
    rw [h, dropLoad, if_neg (by simpa [modPower] using hphase)]
    exact ⟨rfl, rfl, rfl⟩
  · show execPerstDeassert s = _
    simp only [execPerstDeassert]
    rcases h with h | h <;> simp [h, modPower]
  · have hoff : (s.power.state != .off) = true := by
      rcases hst : s.power.state <;> simp [hubPowered, hst] at hs ⊢
    show execPerstDeassert s = _
    simp only [execPerstDeassert, hoff, hp, hen, harg, Bool.and_self, if_true]
    rfl
  · have hend (off : Nat) := regOf_linkChanged s true (1 + bit true * 2 + rate.toNat * 2 ^ 8 + width.toNat * 2 ^ 16) vfs.toNat off
    refine ⟨?_, ?_, (linkChanged_blocks ..).get (fun x => x.cores) (fun _ => rfl), fun hm => linkChanged_parts _ _ _ _ hm⟩
    · rw [hend, regOf_setReg_of_ne _ _ _ _ (by decide), regOf_setReg_self]
      have := rate.isLt
      have := width.isLt
      rw [show bit true = 1 from rfl]
      omega
    · rw [hend, regOf_setReg_self]
      have := vfs.isLt
      omega
  · show execLinkChange true false rate width vfs s = _
    simp [execLinkChange]
  · refine ⟨linkChanged s false 0 vfs.toNat, ?_, ?_⟩
    · rw [exec_linkChange_down hs hu, if_pos hup]
    · have hb := linkChanged_blocks s false 0 vfs.toNat
      obtain ⟨h40, h44⟩ := regOf_linkChanged_down s vfs
      exact ⟨h40, h44, hb.get (fun x => x.cores) (fun _ => rfl), hb.get (fun x => x.ctxs) (fun _ => rfl),
        hb.get (fun x => x.power) (fun _ => rfl)⟩
  · refine ⟨linkChanged s false 0 vfs.toNat, ?_, ?_⟩
    · rw [exec_linkChange_down hs hu, hup, if_neg Bool.false_ne_true]
    · obtain ⟨h40, h44⟩ := regOf_linkChanged_down s vfs
      exact ⟨h40, h44, (linkChanged_blocks s false 0 vfs.toNat).get (fun x => x.cores) (fun _ => rfl)⟩

end Sys2Proof.Machine
end
